-- ==== Sys2Proof/Word.lean ====
section
/-! DEFINITION. The words the spec treats as bits, and the one sparse table every store of the machine is kept in: a list of
(key, value) pairs with strictly rising keys. -/

namespace Sys2Proof

/-- A 32-bit register, thread register or management register. -/
abbrev W32 := BitVec 32

/-- A 64-bit address, count or time. -/
abbrev W64 := BitVec 64

/-- The 128 bytes of a line (R212, R252): byte i is bits [8i + 7 : 8i]. -/
abbrev LineData := BitVec 1024

/-- One bit for each byte of a line (R254). -/
abbrev ByteMask := BitVec 128

/-- A byte. -/
abbrev Byte := BitVec 8

/-- A sparse table: keys strictly rising. What an absent key holds is said where the table is read. -/
abbrev Tab (α : Type) := List (Nat × α)

end Sys2Proof
end

