-- ==== Sys2Proof/Syntax.lean ====
section
/-! DEFINITION. The commands of the UX-96 panel: the operand types, and the one inductive with one constructor per row of the
opcode table. A command carries what the outside decides (which unit, which value, whether a physical check passed); everything
the panel itself decides is computed by the machine. -/

namespace Sys2Proof

/-- Where the reads of a group's issue find a parity error (R277, R278, R502): in register state, under the number of a register; in local
store, at a local address; in the tag or the data of a line of the L1, read, pushed or evicted; in a line of the array side buffer; in the
tag or the data of a visitor copy in the die's slice; in a miss register of the L1; or in a line of the instruction cache. -/
inductive Upset where
  | register (r : BitVec 16)
  | localStore (addr : BitVec 32)
  | l1 (line : BitVec 41) (tag : Bool)
  | arraySide (line : BitVec 41)
  | visitor (line : BitVec 41) (tag : Bool)
  | l1Miss (line : BitVec 41)
  | icache (line : BitVec 57)
  deriving DecidableEq, Repr

/-- Where the reads that an event makes at a home slice find a parity error (R277, R278): in the tag or the data of a line, accessed, filled,
evicted, scrubbed or read by a courier; in the sum-line store or a miss register, for a line; in a line of the home side buffer; or in the
miss register of the L1 that a fill returns to, by its array. -/
inductive HomeUpset where
  | slot (line : BitVec 41) (tag : Bool)
  | sumStore (line : BitVec 41)
  | missRegister (line : BitVec 41)
  | side (line : BitVec 41)
  | l1Miss (a : Fin 768) (line : BitVec 41)
  deriving DecidableEq, Repr

/-- A group of an array: the global array number of R22 and the group slot of R77, and the parity error that the reads of its issue find,
if any (R277, R502). -/
structure GRef where
  arr : Fin 768
  slot : Fin 64
  upset : Option Upset
  deriving DecidableEq, Repr

/-- The fields of the instruction word of R131, all but OP (the constructor is the opcode). -/
structure Fields where
  ge : Bool
  gp : BitVec 3
  gn : Bool
  d : BitVec 8
  a : BitVec 8
  b : BitVec 8
  c : BitVec 8
  ka : BitVec 2
  kb : BitVec 2
  kc : BitVec 2
  du : Bool
  mod : BitVec 6
  pd : BitVec 3
  aux : BitVec 3
  imm0 : BitVec 32
  imm1 : BitVec 32
  deriving DecidableEq, Repr

/-- Who performs a register write of R10: the Postmaster, the host software of a port through its BARs (R376), or hardware
acting for the root of trust (R499, R559, R640). -/
inductive Agent where
  | postmaster
  | host (port : Fin 6)
  | rootOfTrust
  deriving DecidableEq, Repr

/-- A packet on a string (R351): header beat, the mask and data beats, and the trailer beat. -/
structure Packet where
  header : BitVec 64
  body : List (BitVec 64)
  trailer : BitVec 64
  deriving DecidableEq, Repr

/-- A physical lane that tuning found unusable (R364). -/
structure LaneFail where
  site : Fin 108
  course : Fin 4
  str : Fin 32
  lane : Fin 66
  deriving DecidableEq, Repr

/-- What becomes of a pair link whose lanes no longer all run (R534): a lane is lost, the link runs again after so many flits sent again since the
last report, or it cannot train all its lanes. -/
inductive PairTrain where
  | laneLost
  | trained (replays : BitVec 16)
  | failed
  deriving DecidableEq, Repr

/-- What an HBM stack reports of a window (R314): its temperature in degrees, and the errors its error-check-and-scrub found. -/
structure StackReport where
  stack : Fin 32
  degrees : BitVec 8
  scrubErrors : BitVec 16
  deriving DecidableEq, Repr

/-- What a bus converter reports of a window (R594): its temperature in degrees, and its output in tenths of an ampere. -/
structure ConverterReport where
  converter : Fin 14
  degrees : BitVec 8
  outDa : BitVec 16
  deriving DecidableEq, Repr

/-- What the sensors read over the window that just ended (R314, R583, R586, R594). -/
structure WindowSensors where
  inputMv : BitVec 16
  inputDa : BitVec 16
  moduleUj : BitVec 32
  inlet : BitVec 8
  outlet : BitVec 8
  hbmStacks : List StackReport
  converters : List ConverterReport
  deriving DecidableEq, Repr

/-- An error that one read of an HBM line brings into a sector (R320): flips of the 256 bits of its ciphertext and, above them, of the 32 bits
of its check word. -/
structure SectorErr where
  sector : Fin 4
  bits : BitVec 288
  deriving DecidableEq, Repr

/-- How the reads that memory makes for one access go: the errors of each read of an HBM line in turn (R322), and how many reads of a far page
have a tag that fails (R331). -/
structure MemReads where
  hbm : List (List SectorErr)
  tagFails : Fin 4
  deriving DecidableEq, Repr

/-- One die's observation in a governor interval (R571): its natural rate in tokens per tick, its measured
dynamic power scaled to that rate and its static power, both over the last 1 µs and in microwatts. -/
structure DieObs where
  die : Fin 96
  natural : Nat
  meas : Nat
  static : Nat
  deriving DecidableEq, Repr

/-- One die's margin report as measured by retuning (R590). -/
structure MarginRep where
  die : Fin 96
  supply : BitVec 8
  maxFret : BitVec 3
  aged : Bool
  shift : BitVec 8
  slack : BitVec 8
  deriving DecidableEq, Repr

/-- A firmware image as the root of trust sees it (R464): whether its signature verifies, its security version and digests. -/
structure Image where
  sigOk : Bool
  secVersion : BitVec 16
  mBoot : BitVec 384
  mRuntime : BitVec 384
  mUcode : BitVec 384
  deriving DecidableEq, Repr

/-- The envelope of R472, its wrapped secrets already unwrapped (whether the unwrap holds is an operand of the command). -/
structure Envelope where
  magic : BitVec 32
  version : BitVec 16
  flags : BitVec 16
  jobId : BitVec 64
  panel : BitVec 384
  nonce : BitVec 256
  firstSector : BitVec 8
  count : BitVec 8
  port : BitVec 8
  reserved : BitVec 40
  tenantKey : BitVec 768
  tenantKeyHash : BitVec 384
  jobSecret : BitVec 384
  storageSecret : BitVec 384
  partner : BitVec 384
  deriving DecidableEq, Repr

/-- The debug grant of R494. -/
structure Grant where
  magic : BitVec 32
  version : BitVec 16
  rights : BitVec 8
  jobId : BitVec 64
  grantId : BitVec 64
  notAfter : BitVec 64
  panel : BitVec 384
  debugger : BitVec 384
  deriving DecidableEq, Repr

/-- A far-memory expander as identified (R328, R616): whether it fits the support table, its raw capacity in GiB, its width code
and whether it runs at 64 GT/s. -/
structure Expander where
  supported : Bool
  rawGiB : Nat
  width : BitVec 2
  fullRate : Bool
  deriving DecidableEq, Repr

/-- One mailbag record of a save record (R420). -/
structure SaveMailbag where
  mailbag : Fin 4096
  log2 : BitVec 5
  ring : BitVec 32
  tailAt : BitVec 32
  head : BitVec 32
  tail : BitVec 32
  rhead : BitVec 32
  base : BitVec 64
  rcount : BitVec 64
  lastSeq : BitVec 64
  deriving DecidableEq, Repr

/-- One held entry of a save record (R420). -/
structure SaveHeld where
  entry : BitVec 512
  mailbag : Fin 4096
  preempts : BitVec 16
  defers : BitVec 16
  next : BitVec 64
  deriving DecidableEq, Repr

/-- The save record of R420: the windows, the mailbags, the held entries and, when carried, the memory images. -/
structure SaveRec where
  magic : BitVec 32
  version : BitVec 32
  fits : Bool
  pasid : BitVec 32
  hbm : BitVec 32
  far : BitVec 32
  hc : BitVec 32
  mailbags : List SaveMailbag
  held : List SaveHeld
  image : List (BitVec 64 × BitVec 8)
  deriving DecidableEq, Repr

/-- The partner's JOIN message and postmark, as the root of trust reads them (R535, R539). -/
structure JoinMsg where
  seq : BitVec 64
  follower : Bool
  n : BitVec 8
  far : List (BitVec 16)
  jobId : BitVec 64
  identity : BitVec 384
  orderD : Bool
  tenantKeyHash : BitVec 384
  deriving DecidableEq, Repr

/-- What the leader sends of a mailbag at a join (R540): HEAD, RCOUNT and the last SEQ. -/
structure JoinCounts where
  m : Fin 4096
  head : BitVec 32
  rcount : BitVec 64
  lastSeq : BitVec 64
  deriving DecidableEq, Repr

/-- What the leader sends of a defined pigeonhole at a join (R540): PH_STATE, the host fields of its definition, LAST_USE and LOAD_GEN. -/
structure JoinHole where
  h : Fin 64
  word : BitVec 32
  size : BitVec 64
  farOffset : BitVec 64
  warm : BitVec 32
  lastUse : BitVec 64
  loadGen : BitVec 32
  deriving DecidableEq, Repr

/-- What the leader sends at a join beside memory (R540): its mailbag counts, and its pigeonhole area, table and states. -/
structure JoinState where
  counts : List JoinCounts
  area : BitVec 32
  table : BitVec 64
  holes : List JoinHole
  deriving DecidableEq, Repr

/-- A group as a debug message names it (R625): numbers as they come, in range or not. -/
structure DbgGroup where
  arr : BitVec 16
  slot : BitVec 8
  deriving DecidableEq, Repr

/-- Ledger tile rows as a debug message names them (R630). -/
structure DbgTile where
  arr : BitVec 16
  quarter : BitVec 8
  tile : BitVec 8
  row : BitVec 8
  rows : BitVec 8
  deriving DecidableEq, Repr

/-- What an IDE_KM message does to a stream's keys (R482): program them, start the stream, stop it. -/
inductive IdeOp where
  | program
  | start
  | stop
  deriving DecidableEq, Repr

/-- The commands of the panel: one constructor per row of the opcode table, in its order. -/
inductive Instr where
  /-- NOP, R158. Takes one issue and does nothing else. -/
  | nop (g : GRef) (w : Fields)
  /-- EXIT, R158. The issuing threads exit and count as arrived at every barrier of their block. -/
  | exitOp (g : GRef) (w : Fields)
  /-- YIELD, R119. Yield point and switch point; the subgroup stops if a preemption or cancellation is pending for its block. -/
  | yield (g : GRef) (w : Fields)
  /-- PHASE, R158. Sets the array's current phase to the kernel identifier and IMM0[15:0]. -/
  | phase (g : GRef) (w : Fields)
  /-- TIME_READ, R158. Writes the die's timebase replica into a register pair. -/
  | timeRead (g : GRef) (w : Fields)
  /-- TRAP, R158. Raises KERNEL_TRAP with code IMM0 and halts the block. -/
  | trap (g : GRef) (w : Fields)
  /-- BRK, R627. Halts the group for the debugger when debug is open; otherwise acts as nop. -/
  | brk (g : GRef) (w : Fields)
  /-- MOV_SR, R129. Copies a special register into a thread or uniform register. -/
  | movSr (g : GRef) (w : Fields)
  /-- BRA, R144. Relative branch with an optional reconvergence address; threads whose guard holds go to the target. -/
  | bra (g : GRef) (w : Fields)
  /-- BRX, R146. Absolute branch through a register pair; threads with different targets split into subgroups. -/
  | brx (g : GRef) (w : Fields)
  /-- CALL, R146. Writes the return address into a register pair and branches as bra does. -/
  | call (g : GRef) (w : Fields)
  /-- LEA_PC, R146. Writes the instruction's own address plus a sign-extended offset into a register pair. -/
  | leaPc (g : GRef) (w : Fields)
  /-- FPFLAGS_CLR, R139. Clears the group's floating-point flags selected by IMM0 once earlier flag-raising instructions have completed. -/
  | fpflagsClr (g : GRef) (w : Fields)
  /-- BAR_SYNC, R108. Counts the thread's arrival at a barrier and makes it wait for the barrier's completion. -/
  | barSync (g : GRef) (w : Fields)
  /-- BAR_ARRIVE, R108. Counts the thread's arrival at a barrier and lets it continue. -/
  | barArrive (g : GRef) (w : Fields)
  /-- ADD, R137. Integer addition, wrapping or saturating. -/
  | addOp (g : GRef) (w : Fields)
  /-- SUB, R137. Integer subtraction, wrapping or saturating. -/
  | subOp (g : GRef) (w : Fields)
  /-- MUL_LO, R137. Low half of an integer product. -/
  | mulLo (g : GRef) (w : Fields)
  /-- MUL_HI, R137. High half of an integer product. -/
  | mulHi (g : GRef) (w : Fields)
  /-- MAD_LO, R137. Integer multiply-add, low half. -/
  | madLo (g : GRef) (w : Fields)
  /-- DIV, R137. Integer division, with defined results for a zero divisor and for overflow. -/
  | divOp (g : GRef) (w : Fields)
  /-- REM, R137. Integer remainder, with the defined edge cases. -/
  | rem (g : GRef) (w : Fields)
  /-- MIN, R137. Integer minimum. -/
  | minOp (g : GRef) (w : Fields)
  /-- MAX, R137. Integer maximum. -/
  | maxOp (g : GRef) (w : Fields)
  /-- ABS, R137. Integer absolute value; the most negative value stays as it is. -/
  | absOp (g : GRef) (w : Fields)
  /-- NEG, R137. Integer negation. -/
  | negOp (g : GRef) (w : Fields)
  /-- AND, R137. Bitwise and. -/
  | andOp (g : GRef) (w : Fields)
  /-- OR, R137. Bitwise or. -/
  | orOp (g : GRef) (w : Fields)
  /-- XOR, R137. Bitwise exclusive or. -/
  | xorOp (g : GRef) (w : Fields)
  /-- NOT, R137. Bitwise complement. -/
  | notOp (g : GRef) (w : Fields)
  /-- SHL, R673. Left shift; an amount at or above the width gives 0. -/
  | shl (g : GRef) (w : Fields)
  /-- SHR, R673. Logical right shift; an amount at or above the width gives 0. -/
  | shr (g : GRef) (w : Fields)
  /-- SAR, R673. Arithmetic right shift; an amount at or above the width fills with the sign bit. -/
  | sar (g : GRef) (w : Fields)
  /-- POPC, R673. Writes the population count as a value of the instruction's type. -/
  | popc (g : GRef) (w : Fields)
  /-- CLZ, R673. Writes the count of leading zeros. -/
  | clz (g : GRef) (w : Fields)
  /-- BREV, R137. Bit reversal. -/
  | brev (g : GRef) (w : Fields)
  /-- BFE, R673. Extracts a bit field, zero- or sign-extended, truncated at the width. -/
  | bfe (g : GRef) (w : Fields)
  /-- BFI, R673. Inserts a bit field of A into C. -/
  | bfi (g : GRef) (w : Fields)
  /-- SETP, R673. Integer comparison that writes a predicate. -/
  | setp (g : GRef) (w : Fields)
  /-- SELP, R673. Selects A or B by a predicate. -/
  | selp (g : GRef) (w : Fields)
  /-- MOV, R137. Copies a value. -/
  | mov (g : GRef) (w : Fields)
  /-- CVT, R674. Converts between integer and floating-point types, with rounding and saturation. -/
  | cvt (g : GRef) (w : Fields)
  /-- PLOP, R673. Combines two predicates into a destination predicate. -/
  | plop (g : GRef) (w : Fields)
  /-- ADD_F32, R138. FP32 addition, correctly rounded. -/
  | addF32 (g : GRef) (w : Fields)
  /-- SUB_F32, R138. FP32 subtraction, correctly rounded. -/
  | subF32 (g : GRef) (w : Fields)
  /-- MUL_F32, R138. FP32 multiplication, correctly rounded. -/
  | mulF32 (g : GRef) (w : Fields)
  /-- FMA_F32, R138. FP32 fused multiply-add, rounded once. -/
  | fmaF32 (g : GRef) (w : Fields)
  /-- MIN_F32, R138. FP32 minimum, NaN-avoiding, with −0 below +0. -/
  | minF32 (g : GRef) (w : Fields)
  /-- MAX_F32, R138. FP32 maximum, NaN-avoiding. -/
  | maxF32 (g : GRef) (w : Fields)
  /-- ABS_F32, R138. Clears the sign bit and raises no flag. -/
  | absF32 (g : GRef) (w : Fields)
  /-- NEG_F32, R138. Flips the sign bit and raises no flag. -/
  | negF32 (g : GRef) (w : Fields)
  /-- RCP_F32, R138. Correctly rounded FP32 reciprocal. -/
  | rcpF32 (g : GRef) (w : Fields)
  /-- RSQRT_F32, R140. Approximate reciprocal square root within 1 ulp, the same fixed function on every cell. -/
  | rsqrtF32 (g : GRef) (w : Fields)
  /-- SQRT_F32, R138. Correctly rounded FP32 square root. -/
  | sqrtF32 (g : GRef) (w : Fields)
  /-- EX2_F32, R140. Approximate base-2 exponential within 2 ulp. -/
  | ex2F32 (g : GRef) (w : Fields)
  /-- LG2_F32, R140. Approximate base-2 logarithm within 2 ulp. -/
  | lg2F32 (g : GRef) (w : Fields)
  /-- SETP_F32, R138. FP32 quiet comparison that writes a predicate. -/
  | setpF32 (g : GRef) (w : Fields)
  /-- ADD_BF16X2, R142. Packed BF16 addition; each half is rounded on its own. -/
  | addBf16x2 (g : GRef) (w : Fields)
  /-- MUL_BF16X2, R142. Packed BF16 multiplication. -/
  | mulBf16x2 (g : GRef) (w : Fields)
  /-- FMA_BF16X2, R142. Packed BF16 fused multiply-add. -/
  | fmaBf16x2 (g : GRef) (w : Fields)
  /-- MIN_BF16X2, R142. Packed BF16 minimum. -/
  | minBf16x2 (g : GRef) (w : Fields)
  /-- MAX_BF16X2, R142. Packed BF16 maximum. -/
  | maxBf16x2 (g : GRef) (w : Fields)
  /-- ADD_F16X2, R142. Packed FP16 addition. -/
  | addF16x2 (g : GRef) (w : Fields)
  /-- MUL_F16X2, R142. Packed FP16 multiplication. -/
  | mulF16x2 (g : GRef) (w : Fields)
  /-- FMA_F16X2, R142. Packed FP16 fused multiply-add. -/
  | fmaF16x2 (g : GRef) (w : Fields)
  /-- MIN_F16X2, R142. Packed FP16 minimum. -/
  | minF16x2 (g : GRef) (w : Fields)
  /-- MAX_F16X2, R142. Packed FP16 maximum. -/
  | maxF16x2 (g : GRef) (w : Fields)
  /-- MMA, R187. Group-collective matrix multiply-accumulate into registers, rounded once per element. -/
  | mma (g : GRef) (w : Fields)
  /-- MMA_LEDGER, R194. Group-collective matrix multiply accumulated exactly into a ledger tile. -/
  | mmaLedger (g : GRef) (w : Fields)
  /-- LTILE_OPEN, R199. Takes the lowest free ledger tile of the quarter, initialises it and writes its number, or waits for one. -/
  | ltileOpen (g : GRef) (w : Fields)
  /-- LTILE_FLUSH, R202. Rounds the tile into the D fragment and frees it unless KEEP is set. -/
  | ltileFlush (g : GRef) (w : Fields)
  /-- LTILE_READ, R204. Copies L128 values from the tile into registers and sets a predicate for non-finite elements. -/
  | ltileRead (g : GRef) (w : Fields)
  /-- LTILE_WRITE, R204. Sets or adds L128 values from registers into the tile. -/
  | ltileWrite (g : GRef) (w : Fields)
  /-- LTILE_STAT, R205. Writes the tile's window, flags and format to a uniform register. -/
  | ltileStat (g : GRef) (w : Fields)
  /-- LTILE_CLOSE, R206. Frees the tile and discards its contents. -/
  | ltileClose (g : GRef) (w : Fields)
  /-- CVT_PACK, R174. Divides FP32 values by a scale and rounds them into packed narrow elements. -/
  | cvtPack (g : GRef) (w : Fields)
  /-- CVT_UNPACK, R175. Multiplies packed elements by a scale and writes FP32 values. -/
  | cvtUnpack (g : GRef) (w : Fields)
  /-- MX_SCALE, R176. Computes the E8M0 block scale of 32 FP32 values. -/
  | mxScale (g : GRef) (w : Fields)
  /-- SHFL_IDX, R148. Each thread receives A from a named lane. -/
  | shflIdx (g : GRef) (w : Fields)
  /-- SHFL_XOR, R148. Each thread receives A from its lane XOR B. -/
  | shflXor (g : GRef) (w : Fields)
  /-- SHFL_UP, R148. Each thread receives the value of a lower lane. -/
  | shflUp (g : GRef) (w : Fields)
  /-- SHFL_DOWN, R148. Each thread receives the value of a higher lane. -/
  | shflDown (g : GRef) (w : Fields)
  /-- VOTE_ALL, R148. Writes the AND of a predicate over the 32 lanes. -/
  | voteAll (g : GRef) (w : Fields)
  /-- VOTE_ANY, R148. Writes the OR of a predicate over the 32 lanes. -/
  | voteAny (g : GRef) (w : Fields)
  /-- VOTE_BALLOT, R148. Writes a 32-bit mask of a predicate across the lanes. -/
  | voteBallot (g : GRef) (w : Fields)
  /-- LD, R152. Plain load from the global or local space. -/
  | ld (g : GRef) (w : Fields)
  /-- LD_ACQ, R296. Acquire load that reads at the home and invalidates non-coherent copies at dev or sys scope. -/
  | ldAcq (g : GRef) (w : Fields)
  /-- LD_LAST, R272. Reads at the home, then makes the line dead without writing back its dirty bytes. -/
  | ldLast (g : GRef) (w : Fields)
  /-- ST, R152. Plain store to the global or local space. -/
  | st (g : GRef) (w : Fields)
  /-- ST_REL, R295. Release store, preceded at dev or sys scope by the push of every dirty L1 line. -/
  | stRel (g : GRef) (w : Fields)
  /-- FENCE, R297. Orders earlier accesses before later ones at its scope, with the cache actions of that scope. -/
  | fence (g : GRef) (w : Fields)
  /-- PREFETCH, R269. Fetches a line into a home or array side buffer unless it is already held, dropped when no miss register is free. -/
  | prefetch (g : GRef) (w : Fields)
  /-- KILL_LINE, R272. Makes a line dead without reading it. -/
  | killLine (g : GRef) (w : Fields)
  /-- ATOM_ADD, R155. Atomic add at the point of coherence, returning the old value. -/
  | atomAdd (g : GRef) (w : Fields)
  /-- ATOM_MIN, R155. Atomic minimum, returning the old value. -/
  | atomMin (g : GRef) (w : Fields)
  /-- ATOM_MAX, R155. Atomic maximum, returning the old value. -/
  | atomMax (g : GRef) (w : Fields)
  /-- ATOM_AND, R155. Atomic and, returning the old value. -/
  | atomAnd (g : GRef) (w : Fields)
  /-- ATOM_OR, R155. Atomic or, returning the old value. -/
  | atomOr (g : GRef) (w : Fields)
  /-- ATOM_XOR, R155. Atomic xor, returning the old value. -/
  | atomXor (g : GRef) (w : Fields)
  /-- ATOM_EXCH, R155. Atomic exchange, returning the old value. -/
  | atomExch (g : GRef) (w : Fields)
  /-- ATOM_CAS, R156. Atomic compare-and-swap that returns the value found. -/
  | atomCas (g : GRef) (w : Fields)
  /-- RED_ADD, R155. Reduction add without a returned value. -/
  | redAdd (g : GRef) (w : Fields)
  /-- RED_MIN, R155. Reduction minimum. -/
  | redMin (g : GRef) (w : Fields)
  /-- RED_MAX, R155. Reduction maximum. -/
  | redMax (g : GRef) (w : Fields)
  /-- RED_AND, R155. Reduction and. -/
  | redAnd (g : GRef) (w : Fields)
  /-- RED_OR, R155. Reduction or. -/
  | redOr (g : GRef) (w : Fields)
  /-- RED_XOR, R155. Reduction xor. -/
  | redXor (g : GRef) (w : Fields)
  /-- RED_ADD_LEDGER, R215. Sends an L128 partial that the home slice adds exactly to a sum-line element. -/
  | redAddLedger (g : GRef) (w : Fields)
  /-- SCHEDULER_ISSUE, R89. In each step of the array, each quarter's scheduler selects the next group that can issue and issues one instruction from it. -/
  | schedulerIssue (a : Fin 768) (upset : Option (Fin 64 × Upset))
  /-- RECONVERGENCE_TIMEOUT, R99. A subgroup that has waited 256 steps at its reconvergence address continues unmerged. -/
  | reconvergenceTimeout (g : GRef)
  /-- BARRIER_DEADLOCK, R113. Within 64 steps of a block deadlocking, the array raises the fault, halts the block and records it. -/
  | barrierDeadlock (a : Fin 768)
  /-- YIELD_OVERDUE, R122. A subgroup's count since its last yield point reaches 262,144 steps, and its block halts. -/
  | yieldOverdue (a : Fin 768)
  /-- BLOCK_ACCEPT, R83. An array accepts a whole block, places its groups and clears its instruction cache when required. -/
  | blockAccept (a : Fin 768)
  /-- LS_BANKS_CHANGE, R82. An empty array writes back and invalidates the banks that change role before accepting a block with another split. -/
  | lsBanksChange (a : Fin 768) (n : Fin 9)
  /-- RECONFIG_DONE, R82. A change of the LS_BANKS split completes. -/
  | reconfigDone (a : Fin 768)
  /-- RESIDUE_RECOMPUTE, R235. On a mismatch the rows are recomputed on the same cell, then on the neighbour, and the cell may be retired. -/
  | residueRecompute (g : GRef) (k : Fin 4)
      (errs : List (BitVec 10 × BitVec 144) × List (BitVec 10 × BitVec 144) × List (BitVec 10 × BitVec 144))
  /-- HOME_ACCESS, R250. A request reaches its home slice, which serves it in arrival order for its line. -/
  | homeAccess (p : Fin 6) (line : BitVec 41) (upset : Option HomeUpset)
  /-- SUM_LINE_CONTRIBUTION, R215. The home slice adds a ledger contribution to its element and updates the W, the tag and the count. -/
  | sumLineContribution (p : Fin 6) (line : BitVec 41) (mismatches : Fin 3) (upset : Option HomeUpset)
  /-- SPILL_BUCKET_READ_DONE, R229. A bucket read completes, and the spill record is merged into the sum line and freed. -/
  | spillBucketReadDone (p : Fin 6) (line : BitVec 41) (mismatches : Fin 3) (upset : Option HomeUpset)
  /-- FILL_ARRIVE, R259. Memory data for a miss register arrives and merges under the mask, the waiters are served and the line compresses. -/
  | fillArrive (p : Fin 6) (line : BitVec 41) (failed : List Nat) (upset : Option HomeUpset)
  /-- HOME_WRITE_ACK, R293. A home acknowledges a write, which lets a waiting release or fence proceed. -/
  | homeWriteAck (a : Fin 768) (line : BitVec 41)
  /-- SIDE_BUFFER_FILL, R269. A prefetched line arrives in its side buffer, displacing the oldest entry. -/
  | sideBufferFill (p : Fin 6) (line : BitVec 41) (upset : Option HomeUpset)
  /-- CACHE_INVALIDATE_DONE, R279. Invalidation of the slices and array memories of a scope completes and READY is set. -/
  | cacheInvalidateDone (d : Fin 96)
  /-- HBM_READ_DONE, R322. An HBM line read completes and its check words are verified. -/
  | hbmReadDone (p : Fin 6) (line : BitVec 41) (errs : List SectorErr)
  /-- HBM_REREAD, R322. A re-read after a failed check completes; the third failure makes the failure persistent. -/
  | hbmReread (p : Fin 6) (line : BitVec 41) (errs : List SectorErr)
  /-- PAGE_RETIRE_DONE, R324. The soft repair or substitution of a DRAM page completes. -/
  | pageRetireDone (p : Fin 6) (line : BitVec 41) (repairRow : Bool)
  /-- SECTOR_MERGE_WRITE, R325. A masked line write reads, merges, encrypts and rewrites the partial sectors. -/
  | sectorMergeWrite (p : Fin 6) (line : BitVec 41) (reads : List (List SectorErr))
  /-- HBM_LANE_REMAPPED, R318. Eight check failures on one lane in one window pause the pseudo-channel and remap the lane. -/
  | hbmLaneRemapped (stack : Fin 32) (channel : Fin 32) (lane : Fin 32)
  /-- HBM_TRAINING_DONE, R316. Training of the stacks, with reapplication of the logged repairs, completes. -/
  | hbmTrainingDone (failed : BitVec 32) (lanes : List (Fin 32 × Fin 32 × Fin 32))
  /-- FAR_PAGE_READ_DONE, R330. A far page and its MAC record arrive, the tag is verified and the page enters the verified-page buffer. -/
  | farPageReadDone (port : Fin 8) (page : BitVec 30) (tagFails : Fin 4)
  /-- FAR_UNAVAILABLE, R332. The far link goes down or the expander stops responding; the region reads as poisoned. -/
  | farUnavailable (port : Fin 8)
  /-- COURIER_RECORD_START, R334. A courier reads and checks a transfer record and begins its COPY, SIDE or KILL. -/
  | courierRecordStart (c : Fin 448) (reads : MemReads)
  /-- COURIER_LINE, R339. A courier moves, delivers or kills one line. -/
  | courierLine (c : Fin 448) (reads : MemReads) (upset : Option HomeUpset)
  /-- COURIER_GATE_REREAD, R336. Every 1 µs a gated courier rereads its gate word and starts the record when the condition holds. -/
  | courierGateReread (c : Fin 448) (reads : MemReads)
  /-- COURIER_RECORD_DONE, R337. A record reaches its point of completion, the done word is written and the next record follows. -/
  | courierRecordDone (c : Fin 448)
  /-- REGULATOR_TICK, R341. Each 40 ns tick adds RATE to every enabled bucket up to its depth, and held requests are offered again. -/
  | regulatorTick
  /-- PACKET_RECEIVE, R352. A course half receives a packet in order and checks its parity and trailer. -/
  | packetReceive (site : Fin 108) (course : Fin 4) (str : Fin 32) (pkt : Packet)
  /-- RETRY, R352. A retry packet makes the sender resend from the first discarded packet. -/
  | retry (site : Fin 108) (course : Fin 4) (str : Fin 32) (count : BitVec 41)
  /-- PACKET_ACKNOWLEDGEMENT, R352. A packet acknowledgement frees the sender's replay buffer. -/
  | packetAcknowledgement (site : Fin 108) (course : Fin 4) (str : Fin 32) (count : BitVec 41)
  /-- BEACON, R368. A half idle for 2 µs sends a beacon. -/
  | beacon (site : Fin 108) (course : Fin 4) (str : Fin 32)
  /-- NEIGHBOUR_LOST, R368. No packet for 8 µs, or an unacknowledged REQ, declares the neighbour lost and fences it. -/
  | neighbourLost (site : Fin 108) (course : Fin 4)
  /-- LANE_SPARED, R365. Four trailer mismatches on a lane in a window move it onto a spare lane. -/
  | laneSpared (site : Fin 108) (course : Fin 4) (str : Fin 32) (lane : Fin 64)
  /-- REROUTED, R370. Other partitions' transit routes through a lost die move to their alternate routes. -/
  | rerouted (p : Fin 6) (lost : Fin 108)
  /-- TRANSIT_FRAME, R359. Each tick the transit strings carry a frame of 24 slots assigned to partitions. -/
  | transitFrame (site : Fin 108) (course : Fin 4)
  /-- TRANSIT_EGRESS, R479. The egress verifies a transit packet's tag and sequence, discards it or requests a resend. -/
  | transitEgress (p : Fin 6) (ingress : Fin 119) (egress : Fin 119) (seq : BitVec 57) (tagOk : Bool)
  /-- TRANSIT_SLOT_WRITE, R362. A write of TRANSIT_SLOT takes effect at the next tick boundary. -/
  | transitSlotWrite (site : Fin 108) (i : Fin 12) (v : BitVec 32)
  /-- TUNING_DONE, R364. Tuning of every course, with replica compensation, completes. -/
  | tuningDone (fails : List LaneFail)
  /-- TIMEBASE_TICK, R58. Each 25 MHz tick advances every replica by 40 and paces token counting. -/
  | timebaseTick (strays : List (Fin 118 × Bool))
  /-- TIMEBASE_BROADCAST, R61. Every 1,024 ticks the master count is broadcast and disagreeing replicas are corrected. -/
  | timebaseBroadcast
  /-- WINDOW_BOUNDARY, R65. At each 1 ms window boundary the per-window counters and records are snapshotted. -/
  | windowBoundary (sensed : WindowSensors)
  /-- TB_REF_LOST, R66. Three missing reference edges put the master into holdover. -/
  | tbRefLost
  /-- TB_REF_RETURN, R67. The reference returns and relocking begins. -/
  | tbRefReturn
  /-- TIMEBASE_LOCK, R67. The 1 GHz clock locks, and the master leaves holdover without correction. -/
  | timebaseLock
  /-- TB_NOW_LO_READ, R68. A read of TB_NOW_LO latches the high word of the master count. -/
  | tbNowLoRead
  /-- DL_TIME_LO_READ, R124. A read of DL_TIME_LO latches DL_TIME_HI. -/
  | dlTimeLoRead (a : Fin 768)
  /-- DEAD_ADDR_LO_READ, R283. A read of DEAD_ADDR_LO latches DEAD_ADDR_HI. -/
  | deadAddrLoRead (d : Fin 96)
  /-- PARITY_ADDR_LO_READ, R283. A read of PARITY_ADDR_LO latches PARITY_ADDR_HI. -/
  | parityAddrLoRead (d : Fin 96)
  /-- POISON_ADDR_LO_READ, R345. A read of POISON_ADDR_LO latches POISON_ADDR_HI. -/
  | poisonAddrLoRead (mid : Fin 8)
  /-- CR_RECORD_LO_READ, R346. A read of CR_RECORD_LO latches CR_RECORD_HI. -/
  | crRecordLoRead (c : Fin 448)
  /-- PTM_LOCAL_LO_READ, R379. A read of PTM_LOCAL_LO latches the rest of the PTM pair. -/
  | ptmLocalLoRead (port : Fin 6)
  /-- RATE_FLOOR, R47. A die's natural rate falls below fret 0, and it continues at its natural rate. -/
  | rateFloor (d : Fin 96)
  /-- RATE_MODE_WRITE, R69. A write of RATE_MODE takes effect at the next tick unless fixed-rate mode is refused. -/
  | rateModeWrite (p : Fin 6) (v : BitVec 32)
  /-- REGISTER_WRITE, R10. A write to a register without a row of its own acts by its access type and lock. -/
  | registerWrite (agent : Agent) (addr : BitVec 32) (v : BitVec 32)
  /-- MAILBAG_TAIL, R387. A TAIL write announces entries, or stops the mailbag on overrun, or is ignored while disabled. -/
  | mailbagTail (port : Fin 6) (m : Fin 4096) (v : BitVec 32)
  /-- RECEIPT_HEAD, R404. An RHEAD write frees receipt slots, or is ignored when out of range. -/
  | receiptHead (port : Fin 6) (m : Fin 4096) (v : BitVec 32)
  /-- MAILBAG_ENABLE, R390. Writing ENABLE checks the configuration and starts the mailbag, or stops taking and drains it. -/
  | mailbagEnable (port : Fin 6) (m : Fin 4096) (v : BitVec 32)
  /-- ENTRY_TAKE, R388. The panel takes the next entry when there is one and a receipt slot is free, and issues its read. -/
  | entryTake (port : Fin 6) (m : Fin 4096)
  /-- ENTRY_READ_DONE, R391. The entry read completes and the entry is checked and passed on by type. -/
  | entryReadDone (port : Fin 6) (m : Fin 4096) (entry : BitVec 512)
  /-- ENTRY_READ_ERROR, R389. An entry read fails, and the mailbag stops. -/
  | entryReadError (port : Fin 6) (m : Fin 4096)
  /-- LAUNCH, R393. A LAUNCH entry is checked and queued for the dispatcher or refused. -/
  | launch (port : Fin 6) (m : Fin 4096)
  /-- CHAIN, R395. A CHAIN entry starts a courier on a chain, or waits for the courier. -/
  | chain (port : Fin 6) (m : Fin 4096)
  /-- CANCEL, R406. A CANCEL entry stops or withdraws its target. -/
  | cancel (port : Fin 6) (m : Fin 4096)
  /-- PREEMPT, R408. A PREEMPT entry stops a running best-effort launch for requeueing. -/
  | preempt (port : Fin 6) (m : Fin 4096)
  /-- MGMT, R396. A MGMT entry is passed to the Postmaster's queue, or answered BUSY. -/
  | mgmt (port : Fin 6) (m : Fin 4096)
  /-- MARKER, R397. A MARKER entry does no work and is SERVED. -/
  | marker (port : Fin 6) (m : Fin 4096)
  /-- MGMT_BUSY_TIMEOUT, R528. A MGMT entry not accepted within 10 µs receives BUSY. -/
  | mgmtBusyTimeout (port : Fin 6) (m : Fin 4096)
  /-- RECEIPT_WRITE, R403. The host-interface die writes a receipt through its home in slot order. -/
  | receiptWrite (port : Fin 6) (m : Fin 4096)
  /-- TAIL_WORD_WRITE, R403. After a receipt is acknowledged, the new RCOUNT is written to the tail word. -/
  | tailWordWrite (port : Fin 6) (m : Fin 4096)
  /-- HOST_FLUSH_READ_DONE, R308. The zero-length flush read of a sys release completes or fails. -/
  | hostFlushReadDone (port : Fin 6) (ok : Bool)
  /-- HOST_READ_ERROR, R672. A host-region load that completes with an error is not performed and halts the block. -/
  | hostReadError (p : Fin 6) (line : BitVec 41)
  /-- HOST_LINK_DOWN, R412. A bound port's link goes down; entries are discarded and stopped and the registers reset. -/
  | hostLinkDown (port : Fin 6)
  /-- LINK_LOST, R413. The link returns and LINK_LOST is set. -/
  | linkLost (port : Fin 6)
  /-- FUNCTION_LEVEL_RESET, R414. An FLR acts as a link loss with the link kept up. -/
  | functionLevelReset (port : Fin 6)
  /-- CONFIG_REQUEST, R375. A configuration request is answered with retry status until the configuration space is ready. -/
  | configRequest (port : Fin 6)
  /-- PTM_DIALOG, R379. Every 10 ms the port runs PTM and latches the master and local time pair. -/
  | ptmDialog (port : Fin 6) (hostTime : BitVec 64)
  /-- HC_CTL_EN, R409. Setting EN enables the host-coherent region and locks its fields. -/
  | hcCtlEn (port : Fin 6) (v : BitVec 32)
  /-- CXL_SNOOP, R411. The home slice answers a host snoop of a host-coherent line, writing back modified data. -/
  | cxlSnoop (port : Fin 6) (line : BitVec 41)
  /-- SLICE_CONFIG_WRITE, R382. A write to a slice's PASID or windows applies to entries taken afterwards. -/
  | sliceConfigWrite (port : Fin 6) (s : Fin 64) (reg : Fin 4) (v : BitVec 32)
  /-- DIRTY_PAGE_LOG, R415. A panel write to a tracked host page sets its bit by read-modify-write. -/
  | dirtyPageLog (port : Fin 6) (s : Fin 64) (word : BitVec 64) (ok : Bool)
  /-- SWAP, R417. Writing SWAP makes the other dirty-page buffer active. -/
  | swap (port : Fin 6) (s : Fin 64)
  /-- SWAP_DONE, R417. Every bit of pre-swap writes has reached host memory. -/
  | swapDone (port : Fin 6) (s : Fin 64)
  /-- QUIESCE, R418. Writing QUIESCE stops or resumes the slice's taking and holds its work. -/
  | quiesce (port : Fin 6) (s : Fin 64) (on : Bool)
  /-- QUIESCED, R418. The slice's work is held and its host-coherent lines written back. -/
  | quiesced (port : Fin 6) (s : Fin 64)
  /-- SAVE, R419. Writes the save record of a quiesced slice, or sets SAVE_ERROR. -/
  | sliceSave (port : Fin 6) (s : Fin 64)
  /-- RESTORE, R420. Loads a save record into a quiesced slice. -/
  | sliceRestore (port : Fin 6) (s : Fin 64) (rec : SaveRec)
  /-- PART_FORM, R427. A FORM request is checked and the partition enters FORMING, or is refused. -/
  | partForm (p : Fin 6)
  /-- FORM_DONE, R427. Scrub and setup complete, and the partition is RUNNING. -/
  | formDone (p : Fin 6)
  /-- PART_DISSOLVE, R431. A DISSOLVE request cancels the work, unbinds the port and scrubs. -/
  | partDissolve (p : Fin 6)
  /-- DISSOLVED, R431. Dissolution completes and the sectors become free. -/
  | dissolved (p : Fin 6)
  /-- PART_STOPPING, R432. A fatal fault halts every block and gives outstanding work its receipts. -/
  | partStopping (p : Fin 6)
  /-- PART_STOPPED, R430. The partition is quiet with all final receipts written, and restarts if AUTO_RESTART is set. -/
  | partStopped (p : Fin 6)
  /-- PART_RESTART_REQUEST, R434. A RESTART request begins the partition reset and restart census. -/
  | partRestartRequest (p : Fin 6)
  /-- RESTART_CENSUS, R28, R364. The restart census resets and tests fenced dies, assigns free spares and tunes the courses again. -/
  | restartCensus (p : Fin 6) (pass : BitVec 108) (midsAnswer : BitVec 8) (fails : List LaneFail)
  /-- RESTART_DONE, R609. The restart steps complete and the partition is RUNNING. -/
  | restartDone (p : Fin 6)
  /-- DISPATCH_OFFER, R439. Freed arrays are offered to eligible launches in class and queue order. -/
  | dispatchOffer (p : Fin 6)
  /-- LAUNCH_STOPPED, R443. A preempted or cancelled launch's blocks have all stopped; it is requeued or given its receipt. -/
  | launchStopped (port : Fin 6) (m : Fin 4096) (seq : BitVec 64)
  /-- PART_CONFIG, R459. Sets the class share and the partition options. -/
  | partConfig (port : Fin 6)
  /-- PART_RESTART, R459. MGMT operation that restarts a STOPPED partition. -/
  | partRestart (port : Fin 6)
  /-- PH_SETUP, R448. Sets the pigeonhole area and table. -/
  | phSetup (port : Fin 6)
  /-- PH_DEFINE, R450. Defines a pigeonhole from its descriptor. -/
  | phDefine (port : Fin 6)
  /-- PH_FORGET, R459. Undefines a FAR or FAILED pigeonhole. -/
  | phForget (port : Fin 6)
  /-- PH_LOAD, R452. Loads a pigeonhole without a launch. -/
  | phLoad (port : Fin 6)
  /-- PH_PIN, R456. Loads and pins a pigeonhole. -/
  | phPin (port : Fin 6)
  /-- PH_UNPIN, R459. Clears a pigeonhole's pin. -/
  | phUnpin (port : Fin 6)
  /-- PH_EVICT, R455. Evicts an unused, unpinned pigeonhole. -/
  | phEvict (port : Fin 6)
  /-- PH_LOAD_DONE, R458. A pigeonhole's copies and warm delivery complete and it is RESIDENT. -/
  | phLoadDone (p : Fin 6) (h : Fin 64)
  /-- PH_WRITEBACK_DONE, R455. An eviction's copy-back completes and its granules are freed. -/
  | phWritebackDone (p : Fin 6) (h : Fin 64)
  /-- GET_VERSION, R468. SPDM request answered by the root of trust. -/
  | getVersion (port : Fin 6)
  /-- GET_CAPABILITIES, R468. SPDM capabilities request. -/
  | getCapabilities (port : Fin 6)
  /-- NEGOTIATE_ALGORITHMS, R468. SPDM algorithm negotiation. -/
  | negotiateAlgorithms (port : Fin 6)
  /-- GET_DIGESTS, R468. SPDM certificate digests request. -/
  | getDigests (port : Fin 6)
  /-- GET_CERTIFICATE, R468. Returns the slot-0 certificate chain. -/
  | getCertificate (port : Fin 6) (slot : Fin 8) (offset : BitVec 16) (length : BitVec 16)
  /-- CHALLENGE, R468. SPDM challenge signed with the Alias key. -/
  | challenge (port : Fin 6) (slot : Fin 8) (nonce : BitVec 256)
  /-- GET_MEASUREMENTS, R469. Returns a signed postmark of the measurement blocks. -/
  | getMeasurements (port : Fin 6) (index : BitVec 8) (signed : Bool) (nonce : BitVec 256)
  /-- KEY_EXCHANGE, R468. Starts an SPDM secure session. -/
  | keyExchange (port : Fin 6)
  /-- FINISH, R468. Completes an SPDM session handshake. -/
  | finish (port : Fin 6) (sess : Fin 2) (ok : Bool) (requester : BitVec 384)
  /-- HEARTBEAT, R468. SPDM session heartbeat. -/
  | heartbeat (port : Fin 6) (sess : Fin 2)
  /-- KEY_UPDATE, R468. Updates an SPDM session's keys. -/
  | keyUpdate (port : Fin 6) (sess : Fin 2)
  /-- END_SESSION, R468. Ends an SPDM session. -/
  | endSession (port : Fin 6) (sess : Fin 2)
  /-- ENVELOPE, R473. An envelope is checked and, if accepted, rekeys the partition and starts its scrub. -/
  | envelope (port : Fin 6) (sess : Fin 2) (env : Envelope) (sigOk : Bool) (unwrapOk : Bool)
  /-- DEBUG_GRANT, R494. A debug grant is checked and opens or closes debug for the partition. -/
  | debugGrant (p : Fin 6) (grant : Grant) (sigOk : Bool)
  /-- GRANT_ENDED, R495. An open grant reaches NOT_AFTER and ends, releasing held groups. -/
  | grantEnded (p : Fin 6)
  /-- ONPANEL_SCRUB_DONE, R486. On-panel scrub of a die or sector completes. -/
  | onpanelScrubDone (k : Fin 8)
  /-- HBM_SCRUB_DONE, R487. HBM scrub completes and the key state becomes KEYED. -/
  | hbmScrubDone (p : Fin 6)
  /-- FAR_SCRUB, R488. MGMT operation that writes a far region as zero lines with valid tags. -/
  | farScrub (port : Fin 6)
  /-- FAR_START, R488. Starts an operator far scrub of a port outside every partition, or is refused. -/
  | farStart (v : BitVec 32)
  /-- FAR_SCRUB_DONE, R488. A far scrub completes. -/
  | farScrubDone (k : Fin 8)
  /-- POSTMASTER_RESTART, R466. The Postmaster restarts with remeasurement, a new Alias key and ended sessions. -/
  | postmasterRestart (image : Image)
  /-- FAULT_RECORD_WRITE, R503. A fault record is delivered to the fault rings and the panel queue, or dropped when full. -/
  | faultRecordWrite
  /-- FR_ENABLE, R505. Enabling the fault ring checks its configuration and zeroes its counts. -/
  | frEnable (port : Fin 6) (v : BitVec 32)
  /-- FR_HEAD, R508. An FHEAD write frees ring slots, or is ignored when out of range. -/
  | frHead (port : Fin 6) (v : BitVec 32)
  /-- POP, R511. Discards the head record of the panel fault queue. -/
  | pop
  /-- KICK, R529. Restarts the watchdog period. -/
  | kick
  /-- CLEAR_DROPPED, R511. Sets the dropped-record count to zero. -/
  | clearDropped
  /-- RETIRE_ACK, R512. Removes the oldest RETIRE entries once they are logged. -/
  | retireAck (n : BitVec 7)
  /-- WATCHDOG, R529. 100 ms without a KICK restarts the Postmaster. -/
  | watchdog (image : Image)
  /-- EDGE_DIE_LOST, R522. A memory- or host-interface die is lost and its partitions stop. -/
  | edgeDieLost (unit : Fin 10)
  /-- MGD_LOST, R524. The management die is lost; dies pace locally and every partition stops. -/
  | mgdLost
  /-- REFCLK_LOSS, R662. A 100 MHz reference is absent for 10 µs and its die is treated as lost. -/
  | refclkLoss (unit : Fin 10)
  /-- PAIR_JOIN, R539. Checks the join conditions and starts a join as leader or follower. -/
  | pairJoin (port : Fin 6)
  /-- PAIR_DIGEST, R546. Computes a checkpoint digest and compares it with the partner's. -/
  | pairDigest (port : Fin 6)
  /-- PAIR_LEAVE, R557. Leaves the pair and sends WITHDRAW. -/
  | pairLeave (port : Fin 6)
  /-- PAIR_STATUS, R557. Returns the pair state, links and journal use. -/
  | pairStatus (port : Fin 6)
  /-- JOIN_COPY_DONE, R540. The join copy completes and the roles take effect. -/
  | joinCopyDone (p : Fin 6) (sent : JoinState)
  /-- ENTRY, R541. The follower receives a forwarded entry and acknowledges it. -/
  | pairEntry (p : Fin 6) (seq : BitVec 64) (m : Fin 4096) (entry : BitVec 512) (count : BitVec 64)
  /-- ENTRY_ACK, R541. The leader may dispatch the acknowledged entry. -/
  | entryAck (p : Fin 6) (seq : BitVec 64) (count : BitVec 64)
  /-- DONE, R542. The leader compares the follower's outcome and writes the final receipt or fails over. -/
  | pairDone (p : Fin 6) (seq : BitVec 64) (m : Fin 4096) (entrySeq : BitVec 64) (outcome : BitVec 8) (fault : BitVec 32)
  /-- RECEIPTED, R544. The follower discards the journal entries covered by acknowledged receipts. -/
  | receipted (p : Fin 6) (seq : BitVec 64) (m : Fin 4096) (rcount : BitVec 64)
  /-- PH_DECISION, R545. The follower applies the leader's pigeonhole decision. -/
  | phDecision (p : Fin 6) (seq : BitVec 64) (h : Fin 64) (state : BitVec 3) (granule : BitVec 16) (lastUse : BitVec 64) (loadGen : BitVec 32)
  /-- LINE, R540. The pair-link agent writes one line of a join copy. -/
  | pairLine (p : Fin 6) (seq : BitVec 64) (addr : BitVec 64) (data : BitVec 1024)
  /-- DIGEST, R548. The leader compares a chunk hash from the follower. -/
  | digest (p : Fin 6) (seq : BitVec 64) (index : BitVec 32) (chunk : BitVec 32) (hash : BitVec 384)
  /-- DIGEST_RESULT, R548. The follower learns the digest comparison result. -/
  | digestResult (p : Fin 6) (seq : BitVec 64) (index : BitVec 32) (detail : BitVec 64)
  /-- FAILOVER, R551. The follower takes over and answers ACCEPT, or refuses. -/
  | failover (p : Fin 6) (seq : BitVec 64) (fault : BitVec 32)
  /-- ACCEPT, R552. The fenced leader learns that the follower has taken over. -/
  | pairAccept (p : Fin 6) (seq : BitVec 64)
  /-- REFUSE, R552. The fenced leader writes its receipts as unpaired. -/
  | pairRefuse (p : Fin 6) (seq : BitVec 64)
  /-- WITHDRAW, R552. The partner leaves mirroring; the receiver enters ALONE or DETACHED. -/
  | withdraw (p : Fin 6) (seq : BitVec 64) (reason : BitVec 8)
  /-- PAIR_HEARTBEAT, R535. A heartbeat on a link that has carried nothing for 2 µs. -/
  | pairHeartbeat (l : Fin 2) (peerTime : BitVec 64)
  /-- JOIN, R539. The partner's JOIN message supplies its role, size and job for the join checks. -/
  | pairJoinMsg (p : Fin 6) (msg : JoinMsg)
  /-- PAIR_MESSAGE_TAG_FAIL, R536. A pair message's tag fails; it is requested again, and a second failure takes the link down. -/
  | pairMessageTagFail (p : Fin 6) (l : Fin 2)
  /-- PAIR_LINK_RETRAIN, R534. A link that loses a lane retrains within 50 µs, or goes down. -/
  | pairLinkRetrain (l : Fin 2) (ev : PairTrain)
  /-- LEASE_WRITE, R550. The leader writes the lease word every 10 µs. -/
  | leaseWrite (p : Fin 6)
  /-- LEASE_LOST, R550. 30 µs without a lease acknowledgement stop the leader's host writes. -/
  | leaseLost (p : Fin 6)
  /-- LEASE_POLL, R551. The follower reads the lease word every 5 µs and takes over or detaches on silence. -/
  | leasePoll (p : Fin 6) (word : BitVec 64)
  /-- FENCED_TIMEOUT, R552. 200 µs without ACCEPT let the fenced leader write its receipts. -/
  | fencedTimeout (p : Fin 6) (word : BitVec 64)
  /-- GOVERNOR_INTERVAL, R571. Every 1 µs the phase governor sets each governed die's pace. -/
  | governorInterval (obs : List DieObs) (memory : List (Fin 6 × Nat))
  /-- PWR_ALERT, R575. Assertion of PWR_ALERT_n forces every die to fret 0 and records the first source. -/
  | pwrAlert (converters : BitVec 14) (pad : Bool)
  /-- PWR_ALERT_RELEASE, R496. Release of PWR_ALERT_n starts the hold. -/
  | pwrAlertRelease
  /-- ALERT_HOLD_END, R496. The hold ends at the first window boundary at least 1 ms after release. -/
  | alertHoldEnd
  /-- JUNCTION_SAMPLE, R581. Every 10 µs a die's junction is sampled and the thermal limit is entered or left. -/
  | junctionSample (site : Fin 108) (temp : BitVec 8)
  /-- THERMAL_TRIP, R582. A junction above 105 °C or a hot outlet takes every die to retention. -/
  | thermalTrip (source : Fin 109)
  /-- IBC_FAULT, R563. A converter fails and is taken out of service. -/
  | ibcFault (i : Fin 14)
  /-- PWR_MODULE_BUDGET_WRITE, R564. Sets the module budget, or is refused. -/
  | pwrModuleBudgetWrite (v : BitVec 32)
  /-- PART_BUDGET_WRITE, R566. Sets a partition's budget, or is refused. -/
  | partBudgetWrite (p : Fin 6) (v : BitVec 32)
  /-- RATE_CONFIG, R578. The tenant sets the fixed-rate mode, fret and lock. -/
  | rateConfig (port : Fin 6)
  /-- ENERGY_READ, R592. Writes the partition's per-slice energy for the last window. -/
  | energyRead (port : Fin 6)
  /-- RETUNE_START, R588. Retuning begins on PERIOD_H expiry or START. -/
  | retuneStart
  /-- RETUNE_DONE, R588. Measurement completes, supplies are planned and margin reports published. -/
  | retuneDone (reports : List MarginRep)
  /-- SUPPLY_SLEW_DONE, R589. A die's supply reaches its planned value. -/
  | supplySlewDone (d : Fin 96)
  /-- PANEL_START, R595. At t0 panel start begins. -/
  | panelStart
  /-- START_TRUST_DONE, R598. Every layer-1 image is verified and measured, or start stops with FW_VERIFY_FAIL. -/
  | startTrustDone (image : Image)
  /-- START_EDGE_DONE, R601. Every edge die answers and the host ports become live. -/
  | startEdgeDone
  /-- START_POSTMASTER_DONE, R596. The Postmaster reports running with its log read. -/
  | startPostmasterDone
  /-- SITE_TEST_DONE, R596. Every site reports its start test result. -/
  | siteTestDone (pass : BitVec 108)
  /-- CENSUS, R26. The full census assigns spares and logical identifiers. -/
  | census
  /-- START_MARGIN_DONE, R596. The first margin reports are published. -/
  | startMarginDone (reports : List MarginRep)
  /-- START_FAR_DONE, R599. Every far port is up or 45 s have passed. -/
  | startFarDone
  /-- PANEL_READY, R596. All start steps are done and PANEL_READY is set. -/
  | panelReady
  /-- MOD_RESET, R600. MOD_RESET_n low for 1 µs resets the panel and abandons start. -/
  | modReset
  /-- MOD_PRESENT_REMOVED, R614. MOD_PRESENT_n high takes dies to retention and stops the converters. -/
  | modPresentRemoved
  /-- INPUT_OUT_OF_RANGE, R615. Input outside 42–62 V for 200 µs resets the panel. -/
  | inputOutOfRange (high : Bool)
  /-- PRECHARGE_DONE, R656. Pre-charge completes, and the main switch closes once presence is stable. -/
  | prechargeDone
  /-- CONVERTER_ENABLE, R656. 3 ms after the switch closes the converters start their ramp. -/
  | converterEnable
  /-- PRECHARGE_HOLDOFF_END, R657. A held-off pre-charge begins 10 s after the previous one. -/
  | prechargeHoldoffEnd
  /-- PERST, R602. Assertion of PERST_n resets one host port, as a link loss for a bound port. -/
  | perst (port : Fin 6)
  /-- SLICE_RST, R604. Resets a PASID slice: cancels its entries and restores its registers. -/
  | sliceRst (port : Fin 6) (s : Fin 64)
  /-- EXPANDER_INSERTED, R616. An expander becomes present and is powered, trained and identified. -/
  | expanderInserted (port : Fin 8) (dev : Expander)
  /-- EXPANDER_REMOVED, R651. FAR_PRSNT_n goes high; the expander is reset and unpowered. -/
  | expanderRemoved (port : Fin 8)
  /-- FAR_RELEASE, R618. Stops chains and writes back and invalidates a far region before removal. -/
  | farRelease (port : Fin 6)
  /-- FAR_ATTACH, R617. Brings an expander into use at the formed capacity. -/
  | farAttach (port : Fin 6)
  /-- DBG_HELLO, R624. Returns a fresh debug nonce. -/
  | dbgHello (p : Fin 6)
  /-- DBG_OPEN, R624. Authenticates a debug client and derives the session key. -/
  | dbgOpen (p : Fin 6) (keyHash : BitVec 384) (sigOk : Bool)
  /-- HALT_GROUP, R626. Halts one group at an instruction boundary. -/
  | haltGroup (p : Fin 6) (seq : BitVec 64) (tagOk : Bool) (g : DbgGroup)
  /-- HALT_LAUNCH, R628. Halts every resident group of a launch and stops its dispatch. -/
  | haltLaunch (p : Fin 6) (seq : BitVec 64) (tagOk : Bool) (m : BitVec 16) (entrySeq : BitVec 64)
  /-- STEP, R633. Issues instructions from a halted group one at a time. -/
  | dbgStep (p : Fin 6) (seq : BitVec 64) (tagOk : Bool) (g : DbgGroup) (count : BitVec 16)
  /-- RESUME, R634. Returns a halted group to the state it held. -/
  | resume (p : Fin 6) (seq : BitVec 64) (tagOk : Bool) (g : DbgGroup)
  /-- BREAK_SET, R627. Sets or clears an instruction breakpoint. -/
  | breakSet (p : Fin 6) (seq : BitVec 64) (tagOk : Bool) (index : BitVec 8) (addr : BitVec 64)
  /-- EVENTS, R627. Returns the queued halt event records. -/
  | events (p : Fin 6) (seq : BitVec 64) (tagOk : Bool)
  /-- READ_GROUP, R629. Reads a halted group's state. -/
  | readGroup (p : Fin 6) (seq : BitVec 64) (tagOk : Bool) (g : DbgGroup) (item : BitVec 8) (offset : BitVec 32) (length : BitVec 16)
  /-- READ_TILE, R630. Reads ledger tile rows and the tile's status. -/
  | readTile (p : Fin 6) (seq : BitVec 64) (tagOk : Bool) (t : DbgTile)
  /-- READ_LOCAL, R631. Reads a block's local store. -/
  | readLocal (p : Fin 6) (seq : BitVec 64) (tagOk : Bool) (g : DbgGroup) (offset : BitVec 32) (length : BitVec 16)
  /-- WRITE_GROUP, R629. Writes a halted group's state. -/
  | writeGroup (p : Fin 6) (seq : BitVec 64) (tagOk : Bool) (g : DbgGroup) (item : BitVec 8) (offset : BitVec 32) (data : List (BitVec 8))
  /-- WRITE_TILE, R630. Writes tile accumulators and tags. -/
  | writeTile (p : Fin 6) (seq : BitVec 64) (tagOk : Bool) (t : DbgTile) (rows : List (BitVec 192))
  /-- WRITE_LOCAL, R631. Writes a block's local store. -/
  | writeLocal (p : Fin 6) (seq : BitVec 64) (tagOk : Bool) (g : DbgGroup) (offset : BitVec 32) (data : List (BitVec 8))
  /-- READ_MEM, R632. Reads partition memory at the home as a courier read. -/
  | readMem (p : Fin 6) (seq : BitVec 64) (tagOk : Bool) (addr : BitVec 64) (length : BitVec 16)
  /-- WRITE_MEM, R632. Writes partition memory at the home as a courier write. -/
  | writeMem (p : Fin 6) (seq : BitVec 64) (tagOk : Bool) (addr : BitVec 64) (data : List (BitVec 8))
  /-- DBG_CLOSE, R625. Ends the debug session. -/
  | dbgClose (p : Fin 6) (seq : BitVec 64) (tagOk : Bool)
  /-- MGMT_WINDOW_ADDRESS, R664. A 4-byte write sets the management interface's register address. -/
  | mgmtWindowAddress (addr : BitVec 32)
  /-- MGMT_WINDOW_READ, R664. A 4-byte read returns a register and advances the address by 4. -/
  | mgmtWindowRead
  /-- OPERATOR_READ, R666. Operator request that returns a register, with withheld fields read as zero. -/
  | operatorRead (addr : BitVec 32)
  /-- OPERATOR_WRITE, R666. Operator request that writes an allowed register, or is DENIED. -/
  | operatorWrite (addr : BitVec 32) (v : BitVec 32)
  /-- FW_DATA, R666. Adds data to the staged firmware image. -/
  | fwData (offset : BitVec 32) (data : List (BitVec 8))
  /-- FW_END, R666. Closes the staged image and has it verified. -/
  | fwEnd (length : BitVec 32) (image : Image)
  /-- PM_RESTART, R666. Restarts the Postmaster. -/
  | pmRestart
  /-- SEC_COMMIT, R467. Advances the SEC_MIN fuses to the running security version. -/
  | secCommit
  /-- PAIR_LINK_UP, R534. A pair link trains all 32 lanes, sets UP and LINK_UP, and the two roots of trust establish the link session that sets SECURE. -/
  | pairLinkUp (l : Fin 2) (partner : BitVec 384)
  /-- PERST_RELEASE, R601. Release of PERST_n[i] ends the port's fundamental reset and starts the 100 ms count to configuration readiness. -/
  | perstRelease (port : Fin 6)
  /-- TB_HOLDOVER_START, R597. When TB_REF gives no edge within 5 ms of t0, the master starts from the holdover oscillator with HOLDOVER and REF_LOST set and start continues. -/
  | tbHoldoverStart
  /-- PRECHARGE_BEGIN, R655. Input applied at VIN_PC starts charging the 2.2 mF input capacitance through 10 ohms, unless the hold-off applies. -/
  | prechargeBegin
  /-- MODULE_SEATED, R656. MOD_PRESENT_n goes low, and 1 ms later the main switch closes if the pre-charge is complete. -/
  | moduleSeated
  /-- IDE_KM, R482. An IDE_KM message in an SPDM secure session programs, starts or stops an IDE stream's keys on a host port. -/
  | ideKm (port : Fin 6) (sess : Fin 2) (stream : Fin 4) (op : IdeOp)
  /-- SETDASA, R663. An I3C controller's SETDASA assigns a dynamic address to the register window or message endpoint target. -/
  | setdasa (target : Fin 2) (addr : BitVec 7)
  deriving DecidableEq, Repr

end Sys2Proof
end

