-- ==== Sys2Proof/Decode.lean ====
section
/-! DEFINITION. The table of the spec gives no row any bits: commands reach the panel as bus accesses, messages and events, each with operands
of its own kind, and no word spells one. -/

namespace Sys2Proof

/-- The command that a word spells by the table's bits: the table gives none (every row's list of fields is empty). -/
def decodeTableWord (_nbits _w : Nat) : Option Instr := none

end Sys2Proof
end

