-- ==== Sys2Proof/Config.lean ====
section
/-! DEFINITION. What an implementation fixes and the spec does not state, and the free values: constants without a body, so that
nothing can be proved of any one of them and a claim holds whatever they are (log entries 1 and 3). -/

namespace Sys2Proof.Config

/-- A byte that the n-th read of a place the panel does not hold returns: host memory, which belongs to the host (R288, R309, R311), and
poisoned memory read by a debugger (R632). Log entry 1. -/
opaque hostByte : Nat → BitVec 8

/-- A random draw of the root of trust: nonces, key material and hash keys (R253, R462, R471, R624). Log entry 1. -/
opaque random : Nat → BitVec 384

/-- Byte i of the n-th value that the spec leaves to cryptography or does not state: a certificate, a signature, a key (R468, R624, R633). Log
entry 1. -/
opaque secretByte : Nat → Nat → BitVec 8

/-- The code of a thread state in item 4 of READ_GROUP, by its row of the table "Thread states": Running, Waiting, Exited, Stopped, Halted. The
spec gives the states no codes (R629). Log entry 1. -/
opaque threadCode : Fin 5 → BitVec 8

/-- SHA-384 of a string of bytes (R547), as an uninterpreted function. Log entry 24. -/
opaque sha384 : List (BitVec 8) → BitVec 384

/-- How far the fixed function of R140 lies from the reference result, in units in the last place, for rsqrt.f32, ex2.f32 and
lg2.f32 of an input word. Log entry 3. -/
opaque rsqrtUlp : BitVec 32 → Fin 3
opaque ex2Ulp : BitVec 32 → Fin 5
opaque lg2Ulp : BitVec 32 → Fin 5

/-- Whether fma of an infinity and a zero with a quiet NaN addend raises INVALID: IEEE 754-2019, which R138 follows, leaves it to the
implementation. Log entry 3. -/
opaque fmaQuietInvalid : Bool

/-- AES-256 of a block, and its inverse, under a key: byte i of a string is bits 8 i + 7 to 8 i (R320, R329, R480). Log entry 91. -/
opaque aes256 : BitVec 256 → BitVec 128 → BitVec 128
opaque aes256Inv : BitVec 256 → BitVec 128 → BitVec 128

/-- The data lane of its pseudo-channel that a bit position of a stored sector crosses: the spec gives none (R318). Log entry 92. -/
opaque laneOf : Nat → Fin 32

/-- Whether the n-th fetch from an instruction cache of a word whose memory was modified after it was cached takes the new word or the old
one: the spec names no point at which the new words take effect (R165). Log entry 18. -/
opaque newText : Nat → Nat → Bool

/-- Redundant data lanes of an HBM pseudo-channel (R317 to R319). Log entry 6. -/
opaque hbmRedundantLanes : Nat

/-- How far the narrowest half-window of a half's mapped lanes exceeds the least that passes, at tuning, in units of 5 ps (R364). Log
entry 6. -/
opaque laneMargin : Nat → Fin 54

/-- The count a beacon carries: the spec states none (R351, R368). Log entry 1. -/
opaque beaconCount : Nat → BitVec 41

/-- Transit slots the Postmaster gives a partition on each half of a shared course, less one (R361). Log entry 6. -/
opaque transitShare : Fin 23

/-- How far above fret 0, in tokens per tick, a die's local oscillator paces it once the management die is lost: at most 12 % (R524). Log
entry 6. -/
opaque localPace : Nat → Fin 7

/-- A die's largest energy per step, in picojoules (E_MAX of R565, R569). Log entry 6. -/
opaque eMax : Nat → Nat

/-- An array-step's energy as a die's counters measure it, in picojoules (R569). Log entry 6. -/
opaque stepEnergy : Nat → Nat → Nat

/-- An idle array's energy in a step of its die, in picojoules (R569, R571). Log entry 6. -/
opaque idleEnergy : Nat → Nat

/-- The energy of one unit of an activity class at a supply code, in picojoules (R584): 0 slice line access, 1 sum-line addition, 2 HBM
line, 3 far-port line, 4 courier line, 5 host-port byte. Log entry 6. -/
opaque activity : Nat → Nat → Nat

/-- A partition's static and other shared energy in a window, in picojoules, and the panel's overhead in microjoules (R585). Log entry 6. -/
opaque staticEnergy : Nat → Nat → Nat
opaque overheadEnergy : Nat → Nat

/-- A die's static power at 95 °C at a supply code, in milliwatts (R565). Log entry 6. -/
opaque staticPower : Nat → Nat → Nat

/-- The x-coordinate of the point that a debug client and the panel agree on (R624), by the number of the panel's ephemeral key. Log entry 107. -/
opaque ecdhX : Nat → BitVec 384

/-- The key that the roots of trust of two panels agree for the messages of no partition on a pair link (R535): by link and partner. Log entry 106. -/
opaque pairLinkKey : Nat → Nat → BitVec 256

/-- The pace in tokens per tick that a die's core supply holds (R588, R589): by logical die, supply code and count of margin reports. Log entry
105. -/
opaque heldPace : Nat → Nat → Nat → Nat

/-- What a sensor string measures (R587): delay by site, string and measurement. Log entry 6. -/
opaque stringDelay : Nat → Nat → Nat → BitVec 16

/-- Delay of a sensor string at manufacture (R587). Log entry 6. -/
opaque stringBase : Nat → Nat → BitVec 16

end Sys2Proof.Config
end

