-- ==== Sys2Proof/Machine/RegMap.lean ====
section
/-! DEFINITION. The management address map (R32 to R34, R376): the base of every block, the address of every register, and for every
register its reset value and the access of its bits, all from the spec's register tables. -/

namespace Sys2Proof.Machine

/-- The SITE window of a site (R32). -/
def Base.site (site : Nat) : Nat := 0x20000000 + 0x100000 * site

/-- The ARRAY sub-block of local array a of a site (R33). -/
def Base.array (site a : Nat) : Nat := Base.site site + 0x10000 * a

/-- The SLICE sub-block of a site (R33). -/
def Base.slice (site : Nat) : Nat := Base.site site + 0x80000

/-- The registers of courier c of the die at a site (R33, R346). -/
def Base.courier (site c : Nat) : Nat := Base.site site + 0x90000 + 0x40 * c

/-- The registers of courier c of memory-interface die m (R345). -/
def Base.midCourier (m c : Nat) : Nat := 0x2000000 + 0x100000 * m + 0x10000 + 0x40 * c

/-- The COURSE sub-block of a site (R33). -/
def Base.course (site : Nat) : Nat := Base.site site + 0xA0000

/-- The SENSOR sub-block of a site (R33). -/
def Base.sensor (site : Nat) : Nat := Base.site site + 0xB0000

/-- The DIE_FAULT sub-block of a site (R33). -/
def Base.dieFault (site : Nat) : Nat := Base.site site + 0xC0000

/-- The PORT sub-block of host port HP(3h + i) (R376). -/
def Base.port (port : Nat) : Nat := 0x1000000 + 0x100000 * (port / 3) + 0x10000 * (port % 3)

/-- Letterbox page m div 64 of a host port (R376, R424). -/
def Base.letterbox (port m : Nat) : Nat :=
  0x1000000 + 0x100000 * (port / 3) + 0x40000 * (port % 3 + 1) + 0x1000 * (m / 64)

/-- CENSUS_STATE of the CENSUS block. -/
def Reg.censusState : Nat := 0x1000

/-- SITE_STATE of the CENSUS block. -/
def Reg.siteState (i : Nat) : Nat := 0x1100 + 4 * i

/-- TB_NOW_LO of the TIMEBASE block. -/
def Reg.tbNowLo : Nat := 0x2000

/-- TB_NOW_HI of the TIMEBASE block. -/
def Reg.tbNowHi : Nat := 0x2004

/-- TB_STATUS of the TIMEBASE block. -/
def Reg.tbStatus : Nat := 0x2008

/-- TB_HOLDOVER of the TIMEBASE block. -/
def Reg.tbHoldover : Nat := 0x200C

/-- TB_MISMATCH_UNIT of the TIMEBASE block. -/
def Reg.tbMismatchUnit : Nat := 0x2010

/-- FRET_TOKENS of the RATE block. -/
def Reg.fretTokens (i : Nat) : Nat := 0x3000 + 4 * i

/-- RATE_MODE of the RATE block. -/
def Reg.rateMode (i : Nat) : Nat := 0x3040 + 4 * i

/-- RATE_STATUS of the RATE block. -/
def Reg.rateStatus : Nat := 0x3060

/-- DIE_STEPS of the RATE block. -/
def Reg.dieSteps (i : Nat) : Nat := 0x3100 + 4 * i

/-- ARR_STATE of the ARRAY block. -/
def Reg.arrState (base : Nat) : Nat := base + 0x0

/-- ARR_QUARTER of the ARRAY block. -/
def Reg.arrQuarter (base : Nat) : Nat := base + 0x4

/-- ARR_STATUS of the ARRAY block. -/
def Reg.arrStatus (base : Nat) : Nat := base + 0x8

/-- ARR_ISSUED of the ARRAY block. -/
def Reg.arrIssued (base : Nat) : Nat := base + 0x10

/-- ARR_COMPOSITE of the ARRAY block. -/
def Reg.arrComposite (base : Nat) : Nat := base + 0x14

/-- ARR_GRANULES of the ARRAY block. -/
def Reg.arrGranules (base : Nat) : Nat := base + 0x18

/-- DL_LAUNCH of the ARRAY block. -/
def Reg.dlLaunch (base : Nat) : Nat := base + 0x20

/-- DL_BLOCK of the ARRAY block. -/
def Reg.dlBlock (base : Nat) : Nat := base + 0x24

/-- DL_SLOT of the ARRAY block. -/
def Reg.dlSlot (base : Nat) : Nat := base + 0x28

/-- DL_TIME_LO of the ARRAY block. -/
def Reg.dlTimeLo (base : Nat) : Nat := base + 0x2C

/-- DL_TIME_HI of the ARRAY block. -/
def Reg.dlTimeHi (base : Nat) : Nat := base + 0x30

/-- YO_GROUP of the ARRAY block. -/
def Reg.yoGroup (base : Nat) : Nat := base + 0x40

/-- YO_LANES of the ARRAY block. -/
def Reg.yoLanes (base : Nat) : Nat := base + 0x44

/-- YO_PC of the ARRAY block. -/
def Reg.yoPc (base : Nat) : Nat := base + 0x48

/-- YO_LAUNCH of the ARRAY block. -/
def Reg.yoLaunch (base : Nat) : Nat := base + 0x4C

/-- DL_GRANULE of the ARRAY block. -/
def Reg.dlGranule (base : Nat) (i : Nat) : Nat := base + 0x100 + 4 * i

/-- SLICE_STATE of the SLICE block. -/
def Reg.sliceState (base : Nat) : Nat := base + 0x0

/-- SLICE_CTL of the SLICE block. -/
def Reg.sliceCtl (base : Nat) : Nat := base + 0x4

/-- SLICE_STATUS of the SLICE block. -/
def Reg.sliceStatus (base : Nat) : Nat := base + 0x8

/-- DEAD_ADDR_LO of the SLICE block. -/
def Reg.deadAddrLo (base : Nat) : Nat := base + 0x10

/-- DEAD_ADDR_HI of the SLICE block. -/
def Reg.deadAddrHi (base : Nat) : Nat := base + 0x14

/-- DEAD_SOURCE of the SLICE block. -/
def Reg.deadSource (base : Nat) : Nat := base + 0x18

/-- PARITY_ADDR_LO of the SLICE block. -/
def Reg.parityAddrLo (base : Nat) : Nat := base + 0x20

/-- PARITY_ADDR_HI of the SLICE block. -/
def Reg.parityAddrHi (base : Nat) : Nat := base + 0x24

/-- PARITY_WHERE of the SLICE block. -/
def Reg.parityWhere (base : Nat) : Nat := base + 0x28

/-- SUM_STATE of the SLICE block. -/
def Reg.sumState (base : Nat) : Nat := base + 0x30

/-- SLICE_COUNT of the SLICE block. -/
def Reg.sliceCount (base : Nat) (i : Nat) : Nat := base + 0x40 + 4 * i

/-- L1_COUNT of the SLICE block. -/
def Reg.l1Count (base : Nat) (i : Nat) : Nat := base + 0x100 + 4 * i

/-- BKT_RATE of the REGULATOR block. -/
def Reg.bktRate (region : Nat) (i : Nat) : Nat := (0x8000 + region) + 0x0 + 16 * i

/-- BKT_BURST of the REGULATOR block. -/
def Reg.bktBurst (region : Nat) (i : Nat) : Nat := (0x8000 + region) + 0x4 + 16 * i

/-- BKT_LEVEL of the REGULATOR block. -/
def Reg.bktLevel (region : Nat) (i : Nat) : Nat := (0x8000 + region) + 0x8 + 16 * i

/-- BKT_GRANTED of the REGULATOR block. -/
def Reg.bktGranted (region : Nat) (i : Nat) : Nat := (0x8000 + region) + 0xC + 16 * i

/-- MID_STATUS of the MID block. -/
def Reg.midStatus (m : Nat) : Nat := (0x2000000 + 0x100000 * m) + 0x0

/-- FAR_STATE of the MID block. -/
def Reg.farState (m : Nat) : Nat := (0x2000000 + 0x100000 * m) + 0x4

/-- POISON_ADDR_LO of the MID block. -/
def Reg.poisonAddrLo (m : Nat) : Nat := (0x2000000 + 0x100000 * m) + 0x10

/-- POISON_ADDR_HI of the MID block. -/
def Reg.poisonAddrHi (m : Nat) : Nat := (0x2000000 + 0x100000 * m) + 0x14

/-- POISON_WHERE of the MID block. -/
def Reg.poisonWhere (m : Nat) : Nat := (0x2000000 + 0x100000 * m) + 0x18

/-- STACK_STATE of the MID block. -/
def Reg.stackState (m : Nat) (i : Nat) : Nat := (0x2000000 + 0x100000 * m) + 0x100 + 4 * i

/-- CR_STATE of the COURIER block. -/
def Reg.crState (base : Nat) : Nat := base + 0x0

/-- CR_RECORD_LO of the COURIER block. -/
def Reg.crRecordLo (base : Nat) : Nat := base + 0x4

/-- CR_RECORD_HI of the COURIER block. -/
def Reg.crRecordHi (base : Nat) : Nat := base + 0x8

/-- CR_LINES of the COURIER block. -/
def Reg.crLines (base : Nat) : Nat := base + 0xC

/-- COURSE_STATE of the COURSE block. -/
def Reg.courseState (site : Nat) (i : Nat) : Nat := (Base.course site) + 0x0 + 4 * i

/-- COURSE_STATUS of the COURSE block. -/
def Reg.courseStatus (site : Nat) : Nat := (Base.course site) + 0x10

/-- LINK_REC of the COURSE block. -/
def Reg.linkRec (site : Nat) : Nat := (Base.course site) + 0x14

/-- RETRIES of the COURSE block. -/
def Reg.retries (site : Nat) (i : Nat) : Nat := (Base.course site) + 0x20 + 4 * i

/-- LANEMAP of the COURSE block. -/
def Reg.lanemap (site : Nat) (i : Nat) : Nat := (Base.course site) + 0x100 + 4 * i

/-- TRANSIT_SLOT of the COURSE block. -/
def Reg.transitSlot (site : Nat) (i : Nat) : Nat := (Base.course site) + 0x400 + 4 * i

/-- PORT_STATE of the PORT block. -/
def Reg.portState (port : Nat) : Nat := (Base.port port) + 0x0

/-- PORT_STATUS of the PORT block. -/
def Reg.portStatus (port : Nat) : Nat := (Base.port port) + 0x4

/-- HC_BASE_LO of the PORT block. -/
def Reg.hcBaseLo (port : Nat) : Nat := (Base.port port) + 0x8

/-- HC_BASE_HI of the PORT block. -/
def Reg.hcBaseHi (port : Nat) : Nat := (Base.port port) + 0xC

/-- HC_CTL of the PORT block. -/
def Reg.hcCtl (port : Nat) : Nat := (Base.port port) + 0x10

/-- PTM_LOCAL_LO of the PORT block. -/
def Reg.ptmLocalLo (port : Nat) : Nat := (Base.port port) + 0x20

/-- PTM_LOCAL_HI of the PORT block. -/
def Reg.ptmLocalHi (port : Nat) : Nat := (Base.port port) + 0x24

/-- PTM_MASTER_LO of the PORT block. -/
def Reg.ptmMasterLo (port : Nat) : Nat := (Base.port port) + 0x28

/-- PTM_MASTER_HI of the PORT block. -/
def Reg.ptmMasterHi (port : Nat) : Nat := (Base.port port) + 0x2C

/-- LB_OWNER of the PORT block. -/
def Reg.lbOwner (port : Nat) (i : Nat) : Nat := (Base.port port) + 0x100 + 4 * i

/-- SLICE_PASID of the PORT block. -/
def Reg.slicePasid (port : Nat) (i : Nat) : Nat := (Base.port port) + 0x1000 + 64 * i

/-- SLICE_HBM of the PORT block. -/
def Reg.sliceHbm (port : Nat) (i : Nat) : Nat := (Base.port port) + 0x1004 + 64 * i

/-- SLICE_FAR of the PORT block. -/
def Reg.sliceFar (port : Nat) (i : Nat) : Nat := (Base.port port) + 0x1008 + 64 * i

/-- SLICE_HC of the PORT block. -/
def Reg.sliceHc (port : Nat) (i : Nat) : Nat := (Base.port port) + 0x100C + 64 * i

/-- DLOG_CTL of the PORT block. -/
def Reg.dlogCtl (port : Nat) (i : Nat) : Nat := (Base.port port) + 0x1010 + 64 * i

/-- DLOG_START of the PORT block. -/
def Reg.dlogStart (port : Nat) (i : Nat) : Nat := (Base.port port) + 0x1024 + 64 * i

/-- DLOG_PAGES of the PORT block. -/
def Reg.dlogPages (port : Nat) (i : Nat) : Nat := (Base.port port) + 0x1028 + 64 * i

/-- SAVE_CTL of the PORT block. -/
def Reg.saveCtl (port : Nat) (i : Nat) : Nat := (Base.port port) + 0x1030 + 64 * i

/-- SAVE_SIZE of the PORT block. -/
def Reg.saveSize (port : Nat) (i : Nat) : Nat := (Base.port port) + 0x103C + 64 * i

/-- MAILBAG_TAIL of the LETTERBOX block. -/
def Reg.mailbagTail (port m : Nat) : Nat := (Base.letterbox port m) + 0x0 + 8 * (m % 64)

/-- RECEIPT_HEAD of the LETTERBOX block. -/
def Reg.receiptHead (port m : Nat) : Nat := (Base.letterbox port m) + 0x4 + 8 * (m % 64)

/-- MAILBAG_BASE_LO of the LETTERBOX block. -/
def Reg.mailbagBaseLo (port m : Nat) : Nat := (Base.letterbox port m) + 0x800 + 32 * (m % 64)

/-- MAILBAG_BASE_HI of the LETTERBOX block. -/
def Reg.mailbagBaseHi (port m : Nat) : Nat := (Base.letterbox port m) + 0x804 + 32 * (m % 64)

/-- MAILBAG_CTL of the LETTERBOX block. -/
def Reg.mailbagCtl (port m : Nat) : Nat := (Base.letterbox port m) + 0x808 + 32 * (m % 64)

/-- MAILBAG_STATUS of the LETTERBOX block. -/
def Reg.mailbagStatus (port m : Nat) : Nat := (Base.letterbox port m) + 0x80C + 32 * (m % 64)

/-- RECEIPT_RING of the LETTERBOX block. -/
def Reg.receiptRing (port m : Nat) : Nat := (Base.letterbox port m) + 0x810 + 32 * (m % 64)

/-- RECEIPT_TAIL_AT of the LETTERBOX block. -/
def Reg.receiptTailAt (port m : Nat) : Nat := (Base.letterbox port m) + 0x814 + 32 * (m % 64)

/-- MAILBAG_HEAD of the LETTERBOX block. -/
def Reg.mailbagHead (port m : Nat) : Nat := (Base.letterbox port m) + 0x818 + 32 * (m % 64)

/-- RECEIPT_COUNT of the LETTERBOX block. -/
def Reg.receiptCount (port m : Nat) : Nat := (Base.letterbox port m) + 0x81C + 32 * (m % 64)

/-- PART_LAYOUT of the PARTITION block. -/
def Reg.partLayout (p : Nat) : Nat := (0x40000 + 0x1000 * p) + 0x0

/-- PART_CTL of the PARTITION block. -/
def Reg.partCtl (p : Nat) : Nat := (0x40000 + 0x1000 * p) + 0x4

/-- PART_STATE of the PARTITION block. -/
def Reg.partState (p : Nat) : Nat := (0x40000 + 0x1000 * p) + 0x8

/-- PART_STATUS of the PARTITION block. -/
def Reg.partStatus (p : Nat) : Nat := (0x40000 + 0x1000 * p) + 0xC

/-- PART_OPTIONS of the PARTITION block. -/
def Reg.partOptions (p : Nat) : Nat := (0x40000 + 0x1000 * p) + 0x10

/-- PART_CLASS of the PARTITION block. -/
def Reg.partClass (p : Nat) : Nat := (0x40000 + 0x1000 * p) + 0x14

/-- PART_HELD of the PARTITION block. -/
def Reg.partHeld (p : Nat) : Nat := (0x40000 + 0x1000 * p) + 0x18

/-- PART_QUEUE of the PARTITION block. -/
def Reg.partQueue (p : Nat) : Nat := (0x40000 + 0x1000 * p) + 0x1C

/-- PH_AREA of the PARTITION block. -/
def Reg.phArea (p : Nat) : Nat := (0x40000 + 0x1000 * p) + 0x20

/-- PH_TABLE_LO of the PARTITION block. -/
def Reg.phTableLo (p : Nat) : Nat := (0x40000 + 0x1000 * p) + 0x24

/-- PH_TABLE_HI of the PARTITION block. -/
def Reg.phTableHi (p : Nat) : Nat := (0x40000 + 0x1000 * p) + 0x28

/-- PART_COUNT of the PARTITION block. -/
def Reg.partCount (p : Nat) (i : Nat) : Nat := (0x40000 + 0x1000 * p) + 0x40 + 4 * i

/-- PH_STATE of the PARTITION block. -/
def Reg.phState (p : Nat) (i : Nat) : Nat := (0x40000 + 0x1000 * p) + 0x100 + 4 * i

/-- PANEL_BUILD of the PANEL_ID block. -/
def Reg.panelBuild : Nat := 0x0

/-- FW_EPOCH of the PANEL_ID block. -/
def Reg.fwEpoch : Nat := 0x4

/-- DEVICEID_HASH of the PANEL_ID block. -/
def Reg.deviceidHash (i : Nat) : Nat := 0x10 + 4 * i

/-- SEC_STATUS of the SECURITY block. -/
def Reg.secStatus : Nat := 0x20000

/-- KEY_STATE of the SECURITY block. -/
def Reg.keyState (i : Nat) : Nat := 0x20100 + 4 * i

/-- SCRUB_CTL of the SCRUB block. -/
def Reg.scrubCtl : Nat := 0x7000

/-- SCRUB_STATUS of the SCRUB block. -/
def Reg.scrubStatus : Nat := 0x7004

/-- SCRUB_SECTOR of the SCRUB block. -/
def Reg.scrubSector (i : Nat) : Nat := 0x7100 + 4 * i

/-- FLT_STATUS of the FAULT block. -/
def Reg.fltStatus : Nat := 0x10000

/-- FLT_QUEUE of the FAULT block. -/
def Reg.fltQueue : Nat := 0x10004

/-- FLT_CTL of the FAULT block. -/
def Reg.fltCtl : Nat := 0x10008

/-- PART_POISON of the FAULT block. -/
def Reg.partPoison : Nat := 0x1000C

/-- RETIRE_PENDING of the FAULT block. -/
def Reg.retirePending : Nat := 0x10010

/-- FLT_HEAD of the FAULT block. -/
def Reg.fltHead (i : Nat) : Nat := 0x10040 + 4 * i

/-- RETIRE of the FAULT block. -/
def Reg.retire (i : Nat) : Nat := 0x10100 + 4 * i

/-- DF_STATUS of the DIE_FAULT block. -/
def Reg.dfStatus (site : Nat) : Nat := (Base.dieFault site) + 0x0

/-- DF_FIRST of the DIE_FAULT block. -/
def Reg.dfFirst (site : Nat) : Nat := (Base.dieFault site) + 0x4

/-- DF_CELLS of the DIE_FAULT block. -/
def Reg.dfCells (site : Nat) (i : Nat) : Nat := (Base.dieFault site) + 0x10 + 4 * i

/-- DF_COUNT of the DIE_FAULT block. -/
def Reg.dfCount (site : Nat) (i : Nat) : Nat := (Base.dieFault site) + 0x20 + 4 * i

/-- FR_CTL of the PORT block. -/
def Reg.frCtl (port : Nat) : Nat := (Base.port port) + 0x3000

/-- FR_HEAD of the PORT block. -/
def Reg.frHead (port : Nat) : Nat := (Base.port port) + 0x3004

/-- FR_COUNT of the PORT block. -/
def Reg.frCount (port : Nat) : Nat := (Base.port port) + 0x3008

/-- FR_STATUS of the PORT block. -/
def Reg.frStatus (port : Nat) : Nat := (Base.port port) + 0x300C

/-- PAIR_LINK of the PAIR block. -/
def Reg.pairLink (i : Nat) : Nat := 0x50000 + 4 * i

/-- PAIR_STATUS of the PAIR block. -/
def Reg.pairStatus : Nat := 0x50010

/-- PAIR_PEER of the PAIR block. -/
def Reg.pairPeer (i : Nat) : Nat := 0x50040 + 4 * i

/-- PAIR_STATE of the PAIR block. -/
def Reg.pairState (i : Nat) : Nat := 0x50100 + 16 * i

/-- PAIR_FWD of the PAIR block. -/
def Reg.pairFwd (i : Nat) : Nat := 0x50104 + 16 * i

/-- PAIR_JOURNAL of the PAIR block. -/
def Reg.pairJournal (i : Nat) : Nat := 0x50108 + 16 * i

/-- PAIR_LAG of the PAIR block. -/
def Reg.pairLag (i : Nat) : Nat := 0x5010C + 16 * i

/-- PWR_INPUT of the POWER block. -/
def Reg.pwrInput : Nat := 0x4000

/-- PWR_ENERGY of the POWER block. -/
def Reg.pwrEnergy : Nat := 0x4004

/-- PWR_STATUS of the POWER block. -/
def Reg.pwrStatus : Nat := 0x4008

/-- PWR_MODULE_BUDGET of the POWER block. -/
def Reg.pwrModuleBudget : Nat := 0x400C

/-- PART_BUDGET of the POWER block. -/
def Reg.partBudget (i : Nat) : Nat := 0x4010 + 4 * i

/-- PART_FLOOR of the POWER block. -/
def Reg.partFloor (i : Nat) : Nat := 0x4028 + 4 * i

/-- PART_ENERGY of the POWER block. -/
def Reg.partEnergy (i : Nat) : Nat := 0x4040 + 4 * i

/-- PWR_OVERHEAD of the POWER block. -/
def Reg.pwrOverhead : Nat := 0x4058

/-- PWR_ALERTS of the POWER block. -/
def Reg.pwrAlerts : Nat := 0x405C

/-- RETUNE_CTL of the POWER block. -/
def Reg.retuneCtl : Nat := 0x4060

/-- IBC_STATE of the POWER block. -/
def Reg.ibcState (i : Nat) : Nat := 0x4080 + 4 * i

/-- MARGIN of the POWER block. -/
def Reg.margin (i : Nat) : Nat := 0x4200 + 4 * i

/-- SLICE_ENERGY of the POWER block. -/
def Reg.sliceEnergy (i : Nat) : Nat := 0x4400 + 4 * i

/-- TH_STATUS of the THERMAL block. -/
def Reg.thStatus : Nat := 0x5000

/-- TH_COOLANT of the THERMAL block. -/
def Reg.thCoolant : Nat := 0x5004

/-- TH_FIRST of the THERMAL block. -/
def Reg.thFirst : Nat := 0x5008

/-- TH_DIE of the THERMAL block. -/
def Reg.thDie (i : Nat) : Nat := 0x5100 + 4 * i

/-- SN_STRING of the SENSOR block. -/
def Reg.snString (site : Nat) (i : Nat) : Nat := (Base.sensor site) + 0x0 + 4 * i

/-- SN_SUPPLY of the SENSOR block. -/
def Reg.snSupply (site : Nat) : Nat := (Base.sensor site) + 0x100

/-- START_STATE of the RESET block. -/
def Reg.startState : Nat := 0x6000

/-- START_STATUS of the RESET block. -/
def Reg.startStatus : Nat := 0x6004

/-- RESET_CAUSE of the RESET block. -/
def Reg.resetCause : Nat := 0x6008

/-- START_TIME of the RESET block. -/
def Reg.startTime (i : Nat) : Nat := 0x6010 + 4 * i

/-- PART_RST_STATE of the RESET block. -/
def Reg.partRstState (i : Nat) : Nat := 0x6040 + 4 * i

/-- FAR_HP of the RESET block. -/
def Reg.farHp (i : Nat) : Nat := 0x6080 + 4 * i

/-- SLICE_RST_LO of the PORT block. -/
def Reg.sliceRstLo (port : Nat) : Nat := (Base.port port) + 0x2000

/-- SLICE_RST_HI of the PORT block. -/
def Reg.sliceRstHi (port : Nat) : Nat := (Base.port port) + 0x2004

/-- DBG_STATUS of the DEBUG block. -/
def Reg.dbgStatus : Nat := 0x30000

/-- DBG_PART of the DEBUG block. -/
def Reg.dbgPart (i : Nat) : Nat := 0x30100 + 4 * i

/-- DBG_HELD of the DEBUG block. -/
def Reg.dbgHeld (i : Nat) : Nat := 0x30200 + 4 * i

/-- DLOG_BUF0_LO of the PORT block. -/
def Reg.dlogBuf0Lo (port : Nat) (i : Nat) : Nat := (Base.port port) + 0x1014 + 64 * i

/-- DLOG_BUF0_HI of the PORT block. -/
def Reg.dlogBuf0Hi (port : Nat) (i : Nat) : Nat := (Base.port port) + 0x1018 + 64 * i

/-- DLOG_BUF1_LO of the PORT block. -/
def Reg.dlogBuf1Lo (port : Nat) (i : Nat) : Nat := (Base.port port) + 0x101C + 64 * i

/-- DLOG_BUF1_HI of the PORT block. -/
def Reg.dlogBuf1Hi (port : Nat) (i : Nat) : Nat := (Base.port port) + 0x1020 + 64 * i

/-- SAVE_BUF_LO of the PORT block. -/
def Reg.saveBufLo (port : Nat) (i : Nat) : Nat := (Base.port port) + 0x1034 + 64 * i

/-- SAVE_BUF_HI of the PORT block. -/
def Reg.saveBufHi (port : Nat) (i : Nat) : Nat := (Base.port port) + 0x1038 + 64 * i

/-- A register's place in its block, its reset value and the bits of each access type (R10). -/
structure RegDesc where
  off : Nat
  stride : Nat
  count : Nat
  reset : Nat
  rw : Nat
  w1c : Nat
  w1s : Nat
  rwl : Nat
  wo : Nat
  deriving DecidableEq, Repr

/-- The kinds of register block (R32, R33). -/
inductive BlockKind where
  | census
  | timebase
  | rate
  | array
  | slice
  | regulator
  | mid
  | courier
  | course
  | port
  | letterbox
  | partition
  | panelId
  | security
  | scrub
  | fault
  | dieFault
  | pair
  | power
  | thermal
  | sensor
  | reset
  | debug
  deriving DecidableEq, Repr

/-- The registers of the CENSUS block: CENSUS_STATE, SITE_STATE. -/
def descsCensus : List RegDesc :=
  [⟨0x0, 0, 1, 0x0, 0x0, 0x80000000, 0x0, 0x0, 0x0⟩,
   ⟨0x100, 4, 108, 0x7F07F0, 0x0, 0x0, 0x0, 0x0, 0x0⟩]

/-- The registers of the TIMEBASE block: TB_NOW_LO, TB_NOW_HI, TB_STATUS, TB_HOLDOVER, TB_MISMATCH_UNIT. -/
def descsTimebase : List RegDesc :=
  [⟨0x0, 0, 1, 0x0, 0x0, 0x0, 0x0, 0x0, 0x0⟩,
   ⟨0x4, 0, 1, 0x0, 0x0, 0x0, 0x0, 0x0, 0x0⟩,
   ⟨0x8, 0, 1, 0x0, 0x0, 0x700, 0x0, 0x0, 0x0⟩,
   ⟨0xC, 0, 1, 0x0, 0x0, 0x0, 0x0, 0x0, 0x0⟩,
   ⟨0x10, 0, 1, 0xFF, 0x0, 0x0, 0x0, 0x0, 0x0⟩]

/-- The registers of the RATE block: FRET_TOKENS, RATE_MODE, RATE_STATUS, DIE_STEPS. -/
def descsRate : List RegDesc :=
  [⟨0x0, 4, 8, 0x0, 0x0, 0x0, 0x0, 0x0, 0x0⟩,
   ⟨0x40, 4, 6, 0x0, 0x0, 0x0, 0x80000000, 0xF, 0x0⟩,
   ⟨0x60, 0, 1, 0x0, 0x0, 0x30000, 0x0, 0x0, 0x0⟩,
   ⟨0x100, 4, 96, 0x0, 0x0, 0x0, 0x0, 0x0, 0x0⟩]

/-- The registers of the ARRAY block: ARR_STATE, ARR_QUARTER, ARR_STATUS, ARR_ISSUED, ARR_COMPOSITE, ARR_GRANULES, DL_LAUNCH, DL_BLOCK, DL_SLOT, DL_TIME_LO, DL_TIME_HI, YO_GROUP, YO_LANES, YO_PC, YO_LAUNCH, DL_GRANULE. -/
def descsArray : List RegDesc :=
  [⟨0x0, 0, 1, 0x1, 0x0, 0x0, 0x0, 0x0, 0x0⟩,
   ⟨0x4, 0, 1, 0x0, 0x0, 0x0, 0x0, 0x0, 0x0⟩,
   ⟨0x8, 0, 1, 0x0, 0x0, 0x1F, 0x0, 0x0, 0x0⟩,
   ⟨0x10, 0, 1, 0x0, 0x0, 0x0, 0x0, 0x0, 0x0⟩,
   ⟨0x14, 0, 1, 0x0, 0x0, 0x0, 0x0, 0x0, 0x0⟩,
   ⟨0x18, 0, 1, 0x0, 0x0, 0x0, 0x0, 0x0, 0x0⟩,
   ⟨0x20, 0, 1, 0x0, 0x0, 0x0, 0x0, 0x0, 0x0⟩,
   ⟨0x24, 0, 1, 0x0, 0x0, 0x0, 0x0, 0x0, 0x0⟩,
   ⟨0x28, 0, 1, 0x0, 0x0, 0x0, 0x0, 0x0, 0x0⟩,
   ⟨0x2C, 0, 1, 0x0, 0x0, 0x0, 0x0, 0x0, 0x0⟩,
   ⟨0x30, 0, 1, 0x0, 0x0, 0x0, 0x0, 0x0, 0x0⟩,
   ⟨0x40, 0, 1, 0x0, 0x0, 0x0, 0x0, 0x0, 0x0⟩,
   ⟨0x44, 0, 1, 0x0, 0x0, 0x0, 0x0, 0x0, 0x0⟩,
   ⟨0x48, 0, 1, 0x0, 0x0, 0x0, 0x0, 0x0, 0x0⟩,
   ⟨0x4C, 0, 1, 0x0, 0x0, 0x0, 0x0, 0x0, 0x0⟩,
   ⟨0x100, 4, 128, 0x0, 0x0, 0x0, 0x0, 0x0, 0x0⟩]

/-- The registers of the SLICE block: SLICE_STATE, SLICE_CTL, SLICE_STATUS, DEAD_ADDR_LO, DEAD_ADDR_HI, DEAD_SOURCE, PARITY_ADDR_LO, PARITY_ADDR_HI, PARITY_WHERE, SUM_STATE, SLICE_COUNT, L1_COUNT. -/
def descsSlice : List RegDesc :=
  [⟨0x0, 0, 1, 0x7F70, 0x0, 0x0, 0x0, 0x0, 0x0⟩,
   ⟨0x4, 0, 1, 0xE, 0x0, 0x0, 0x80000000, 0xF, 0x0⟩,
   ⟨0x8, 0, 1, 0x0, 0x0, 0x3FF, 0x0, 0x0, 0x0⟩,
   ⟨0x10, 0, 1, 0x0, 0x0, 0x0, 0x0, 0x0, 0x0⟩,
   ⟨0x14, 0, 1, 0x0, 0x0, 0x0, 0x0, 0x0, 0x0⟩,
   ⟨0x18, 0, 1, 0x0, 0x0, 0x0, 0x0, 0x0, 0x0⟩,
   ⟨0x20, 0, 1, 0x0, 0x0, 0x0, 0x0, 0x0, 0x0⟩,
   ⟨0x24, 0, 1, 0x0, 0x0, 0x0, 0x0, 0x0, 0x0⟩,
   ⟨0x28, 0, 1, 0x0, 0x0, 0x0, 0x0, 0x0, 0x0⟩,
   ⟨0x30, 0, 1, 0x0, 0x0, 0x0, 0x0, 0x0, 0x0⟩,
   ⟨0x40, 4, 8, 0x0, 0x0, 0x0, 0x0, 0x0, 0x0⟩,
   ⟨0x100, 4, 32, 0x0, 0x0, 0x0, 0x0, 0x0, 0x0⟩]

/-- The registers of the REGULATOR block: BKT_RATE, BKT_BURST, BKT_LEVEL, BKT_GRANTED. -/
def descsRegulator : List RegDesc :=
  [⟨0x0, 16, 1536, 0x0, 0xC0FFFFFF, 0x0, 0x0, 0x0, 0x0⟩,
   ⟨0x4, 16, 1536, 0x0, 0xFFFFFF, 0x0, 0x0, 0x0, 0x0⟩,
   ⟨0x8, 16, 1536, 0x0, 0x0, 0x0, 0x0, 0x0, 0x0⟩,
   ⟨0xC, 16, 1536, 0x0, 0x0, 0x0, 0x0, 0x0, 0x0⟩]

/-- The registers of the MID block: MID_STATUS, FAR_STATE, POISON_ADDR_LO, POISON_ADDR_HI, POISON_WHERE, STACK_STATE. -/
def descsMid : List RegDesc :=
  [⟨0x0, 0, 1, 0x0, 0x0, 0x1FF, 0x0, 0x0, 0x0⟩,
   ⟨0x4, 0, 1, 0x0, 0x0, 0x0, 0x0, 0x0, 0x0⟩,
   ⟨0x10, 0, 1, 0x0, 0x0, 0x0, 0x0, 0x0, 0x0⟩,
   ⟨0x14, 0, 1, 0x0, 0x0, 0x0, 0x0, 0x0, 0x0⟩,
   ⟨0x18, 0, 1, 0x0, 0x0, 0x0, 0x0, 0x0, 0x0⟩,
   ⟨0x100, 4, 4, 0x0, 0x0, 0x0, 0x0, 0x0, 0x0⟩]

/-- The registers of the COURIER block: CR_STATE, CR_RECORD_LO, CR_RECORD_HI, CR_LINES. -/
def descsCourier : List RegDesc :=
  [⟨0x0, 64, 8, 0x70000, 0x0, 0x80000000, 0x0, 0x0, 0x0⟩,
   ⟨0x4, 64, 8, 0x0, 0x0, 0x0, 0x0, 0x0, 0x0⟩,
   ⟨0x8, 64, 8, 0x0, 0x0, 0x0, 0x0, 0x0, 0x0⟩,
   ⟨0xC, 64, 8, 0x0, 0x0, 0x0, 0x0, 0x0, 0x0⟩]

/-- The registers of the COURSE block: COURSE_STATE, COURSE_STATUS, LINK_REC, RETRIES, LANEMAP, TRANSIT_SLOT. -/
def descsCourse : List RegDesc :=
  [⟨0x0, 4, 4, 0x7F0000, 0x0, 0x0, 0x0, 0x0, 0x0⟩,
   ⟨0x10, 0, 1, 0x0, 0x0, 0x3F, 0x0, 0x0, 0x0⟩,
   ⟨0x14, 0, 1, 0x3F80, 0x0, 0x0, 0x0, 0x0, 0x0⟩,
   ⟨0x20, 4, 4, 0x0, 0x0, 0x0, 0x0, 0x0, 0x0⟩,
   ⟨0x100, 4, 128, 0x7F7F, 0x0, 0x0, 0x0, 0x0, 0x0⟩,
   ⟨0x400, 4, 12, 0xFFFFFFFF, 0xFFFFFFFF, 0x0, 0x0, 0x0, 0x0⟩]

/-- The registers of the PORT block: PORT_STATE, PORT_STATUS, HC_BASE_LO, HC_BASE_HI, HC_CTL, PTM_LOCAL_LO, PTM_LOCAL_HI, PTM_MASTER_LO, PTM_MASTER_HI, LB_OWNER, SLICE_PASID, SLICE_HBM, SLICE_FAR, SLICE_HC, DLOG_CTL, DLOG_START, DLOG_PAGES, SAVE_CTL, SAVE_SIZE, FR_CTL, FR_HEAD, FR_COUNT, FR_STATUS, SLICE_RST_LO, SLICE_RST_HI, DLOG_BUF0_LO, DLOG_BUF0_HI, DLOG_BUF1_LO, DLOG_BUF1_HI, SAVE_BUF_LO, SAVE_BUF_HI. -/
def descsPort : List RegDesc :=
  [⟨0x0, 0, 1, 0x70, 0x0, 0x0, 0x0, 0x0, 0x0⟩,
   ⟨0x4, 0, 1, 0x0, 0x0, 0x3, 0x0, 0x0, 0x0⟩,
   ⟨0x8, 0, 1, 0x0, 0x0, 0x0, 0x0, 0xFFE00000, 0x0⟩,
   ⟨0xC, 0, 1, 0x0, 0x0, 0x0, 0x0, 0xFFFFFFFF, 0x0⟩,
   ⟨0x10, 0, 1, 0x0, 0x0, 0x0, 0x0, 0x13F, 0x0⟩,
   ⟨0x20, 0, 1, 0x0, 0x0, 0x0, 0x0, 0x0, 0x0⟩,
   ⟨0x24, 0, 1, 0x0, 0x0, 0x0, 0x0, 0x0, 0x0⟩,
   ⟨0x28, 0, 1, 0x0, 0x0, 0x0, 0x0, 0x0, 0x0⟩,
   ⟨0x2C, 0, 1, 0x0, 0x0, 0x0, 0x0, 0x0, 0x0⟩,
   ⟨0x100, 4, 64, 0x0, 0x3F, 0x0, 0x0, 0x0, 0x0⟩,
   ⟨0x1000, 64, 64, 0x0, 0xC00FFFFF, 0x0, 0x0, 0x0, 0x0⟩,
   ⟨0x1004, 64, 64, 0x0, 0xFFFFFFFF, 0x0, 0x0, 0x0, 0x0⟩,
   ⟨0x1008, 64, 64, 0x0, 0xFFFFFFFF, 0x0, 0x0, 0x0, 0x0⟩,
   ⟨0x100C, 64, 64, 0x0, 0x7FF03FF, 0x0, 0x0, 0x0, 0x0⟩,
   ⟨0x1010, 64, 64, 0x0, 0x1, 0x300, 0x2, 0x0, 0x0⟩,
   ⟨0x1024, 64, 64, 0x0, 0xFFFFFFFF, 0x0, 0x0, 0x0, 0x0⟩,
   ⟨0x1028, 64, 64, 0x0, 0xFFFFFFFF, 0x0, 0x0, 0x0, 0x0⟩,
   ⟨0x1030, 64, 64, 0x0, 0x9, 0x70000, 0x6, 0x0, 0x0⟩,
   ⟨0x103C, 64, 64, 0x0, 0xFFFFFFFF, 0x0, 0x0, 0x0, 0x0⟩,
   ⟨0x3000, 0, 1, 0x0, 0x3FFF01F, 0x0, 0x0, 0x0, 0x0⟩,
   ⟨0x3004, 0, 1, 0x0, 0x0, 0x0, 0x0, 0x0, 0xFFFFFFFF⟩,
   ⟨0x3008, 0, 1, 0x0, 0x0, 0x0, 0x0, 0x0, 0x0⟩,
   ⟨0x300C, 0, 1, 0x0, 0x0, 0x7, 0x0, 0x0, 0x0⟩,
   ⟨0x2000, 0, 1, 0x0, 0x0, 0x0, 0xFFFFFFFF, 0x0, 0x0⟩,
   ⟨0x2004, 0, 1, 0x0, 0x0, 0x0, 0xFFFFFFFF, 0x0, 0x0⟩,
   ⟨0x1014, 64, 64, 0x0, 0xFFFFF000, 0x0, 0x0, 0x0, 0x0⟩,
   ⟨0x1018, 64, 64, 0x0, 0xFFFFFFFF, 0x0, 0x0, 0x0, 0x0⟩,
   ⟨0x101C, 64, 64, 0x0, 0xFFFFF000, 0x0, 0x0, 0x0, 0x0⟩,
   ⟨0x1020, 64, 64, 0x0, 0xFFFFFFFF, 0x0, 0x0, 0x0, 0x0⟩,
   ⟨0x1034, 64, 64, 0x0, 0xFFFFF000, 0x0, 0x0, 0x0, 0x0⟩,
   ⟨0x1038, 64, 64, 0x0, 0xFFFFFFFF, 0x0, 0x0, 0x0, 0x0⟩]

/-- The registers of the LETTERBOX block: MAILBAG_TAIL, RECEIPT_HEAD, MAILBAG_BASE_LO, MAILBAG_BASE_HI, MAILBAG_CTL, MAILBAG_STATUS, RECEIPT_RING, RECEIPT_TAIL_AT, MAILBAG_HEAD, RECEIPT_COUNT. -/
def descsLetterbox : List RegDesc :=
  [⟨0x0, 8, 64, 0x0, 0x0, 0x0, 0x0, 0x0, 0xFFFFFFFF⟩,
   ⟨0x4, 8, 64, 0x0, 0x0, 0x0, 0x0, 0x0, 0xFFFFFFFF⟩,
   ⟨0x800, 32, 64, 0x0, 0xFFFFF000, 0x0, 0x0, 0x0, 0x0⟩,
   ⟨0x804, 32, 64, 0x0, 0xFFFFFFFF, 0x0, 0x0, 0x0, 0x0⟩,
   ⟨0x808, 32, 64, 0x0, 0x3F, 0x0, 0x0, 0x0, 0x0⟩,
   ⟨0x80C, 32, 64, 0x0, 0x0, 0xF, 0x0, 0x0, 0x0⟩,
   ⟨0x810, 32, 64, 0x0, 0x3FFF000, 0x0, 0x0, 0x0, 0x0⟩,
   ⟨0x814, 32, 64, 0x0, 0x3FFFFF8, 0x0, 0x0, 0x0, 0x0⟩,
   ⟨0x818, 32, 64, 0x0, 0x0, 0x0, 0x0, 0x0, 0x0⟩,
   ⟨0x81C, 32, 64, 0x0, 0x0, 0x0, 0x0, 0x0, 0x0⟩]

/-- The registers of the PARTITION block: PART_LAYOUT, PART_CTL, PART_STATE, PART_STATUS, PART_OPTIONS, PART_CLASS, PART_HELD, PART_QUEUE, PH_AREA, PH_TABLE_LO, PH_TABLE_HI, PART_COUNT, PH_STATE. -/
def descsPartition : List RegDesc :=
  [⟨0x0, 0, 1, 0x700, 0x7F7, 0x0, 0x0, 0x0, 0x0⟩,
   ⟨0x4, 0, 1, 0x0, 0x0, 0x0, 0x7, 0x0, 0x0⟩,
   ⟨0x8, 0, 1, 0x0, 0x0, 0x0, 0x0, 0x0, 0x0⟩,
   ⟨0xC, 0, 1, 0x0, 0x0, 0x3FF, 0x0, 0x0, 0x0⟩,
   ⟨0x10, 0, 1, 0x2, 0xFF07, 0x0, 0x0, 0x0, 0x0⟩,
   ⟨0x14, 0, 1, 0x0, 0x3FF, 0x0, 0x0, 0x0, 0x0⟩,
   ⟨0x18, 0, 1, 0x0, 0x0, 0x0, 0x0, 0x0, 0x0⟩,
   ⟨0x1C, 0, 1, 0x0, 0x0, 0x0, 0x0, 0x0, 0x0⟩,
   ⟨0x20, 0, 1, 0x0, 0xFFFFFFFF, 0x0, 0x0, 0x0, 0x0⟩,
   ⟨0x24, 0, 1, 0x0, 0xFFFFF000, 0x0, 0x0, 0x0, 0x0⟩,
   ⟨0x28, 0, 1, 0x0, 0xFFFFFFFF, 0x0, 0x0, 0x0, 0x0⟩,
   ⟨0x40, 4, 8, 0x0, 0x0, 0x0, 0x0, 0x0, 0x0⟩,
   ⟨0x100, 4, 64, 0xFFF80000, 0x0, 0x0, 0x0, 0x0, 0x0⟩]

/-- The registers of the PANEL_ID block: PANEL_BUILD, FW_EPOCH, DEVICEID_HASH. -/
def descsPanelId : List RegDesc :=
  [⟨0x0, 0, 1, 0x0, 0x0, 0x0, 0x0, 0x0, 0x0⟩,
   ⟨0x4, 0, 1, 0x0, 0x0, 0x0, 0x0, 0x0, 0x0⟩,
   ⟨0x10, 4, 12, 0x0, 0x0, 0x0, 0x0, 0x0, 0x0⟩]

/-- The registers of the SECURITY block: SEC_STATUS, KEY_STATE. -/
def descsSecurity : List RegDesc :=
  [⟨0x0, 0, 1, 0x0, 0x0, 0x7F, 0x0, 0x0, 0x0⟩,
   ⟨0x100, 4, 6, 0x0, 0x0, 0x0, 0x0, 0x0, 0x0⟩]

/-- The registers of the SCRUB block: SCRUB_CTL, SCRUB_STATUS, SCRUB_SECTOR. -/
def descsScrub : List RegDesc :=
  [⟨0x0, 0, 1, 0x0, 0x0, 0x0, 0xFF, 0x0, 0x0⟩,
   ⟨0x4, 0, 1, 0x0, 0x0, 0x1F, 0x0, 0x0, 0x0⟩,
   ⟨0x100, 4, 8, 0x0, 0x0, 0x0, 0x0, 0x0, 0x0⟩]

/-- The registers of the FAULT block: FLT_STATUS, FLT_QUEUE, FLT_CTL, PART_POISON, RETIRE_PENDING, FLT_HEAD, RETIRE. -/
def descsFault : List RegDesc :=
  [⟨0x0, 0, 1, 0x0, 0x0, 0x3F, 0x0, 0x0, 0x0⟩,
   ⟨0x4, 0, 1, 0x0, 0x0, 0x0, 0x0, 0x0, 0x0⟩,
   ⟨0x8, 0, 1, 0x0, 0x0, 0x0, 0x0, 0x0, 0x7F07⟩,
   ⟨0xC, 0, 1, 0x0, 0x0, 0x0, 0x0, 0x0, 0x0⟩,
   ⟨0x10, 0, 1, 0x0, 0x0, 0x0, 0x0, 0x0, 0x0⟩,
   ⟨0x40, 4, 16, 0x0, 0x0, 0x0, 0x0, 0x0, 0x0⟩,
   ⟨0x100, 4, 64, 0x0, 0x0, 0x0, 0x0, 0x0, 0x0⟩]

/-- The registers of the DIE_FAULT block: DF_STATUS, DF_FIRST, DF_CELLS, DF_COUNT. -/
def descsDieFault : List RegDesc :=
  [⟨0x0, 0, 1, 0x0, 0x0, 0xF, 0x0, 0x0, 0x0⟩,
   ⟨0x4, 0, 1, 0x0, 0x0, 0x0, 0x0, 0x0, 0x0⟩,
   ⟨0x10, 4, 4, 0x0, 0x0, 0x0, 0x0, 0x0, 0x0⟩,
   ⟨0x20, 4, 4, 0x0, 0x0, 0x0, 0x0, 0x0, 0x0⟩]

/-- The registers of the PAIR block: PAIR_LINK, PAIR_STATUS, PAIR_PEER, PAIR_STATE, PAIR_FWD, PAIR_JOURNAL, PAIR_LAG. -/
def descsPair : List RegDesc :=
  [⟨0x0, 4, 2, 0x0, 0x0, 0x0, 0x0, 0x0, 0x0⟩,
   ⟨0x10, 0, 1, 0x0, 0x0, 0x3FF, 0x0, 0x0, 0x0⟩,
   ⟨0x40, 4, 12, 0x0, 0x0, 0x0, 0x0, 0x0, 0x0⟩,
   ⟨0x100, 16, 6, 0x0, 0x0, 0x0, 0x0, 0x0, 0x0⟩,
   ⟨0x104, 16, 6, 0x0, 0x0, 0x0, 0x0, 0x0, 0x0⟩,
   ⟨0x108, 16, 6, 0x0, 0x0, 0x0, 0x0, 0x0, 0x0⟩,
   ⟨0x10C, 16, 6, 0x0, 0x0, 0x0, 0x0, 0x0, 0x0⟩]

/-- The registers of the POWER block: PWR_INPUT, PWR_ENERGY, PWR_STATUS, PWR_MODULE_BUDGET, PART_BUDGET, PART_FLOOR, PART_ENERGY, PWR_OVERHEAD, PWR_ALERTS, RETUNE_CTL, IBC_STATE, MARGIN, SLICE_ENERGY. -/
def descsPower : List RegDesc :=
  [⟨0x0, 0, 1, 0x0, 0x0, 0x0, 0x0, 0x0, 0x0⟩,
   ⟨0x4, 0, 1, 0x0, 0x0, 0x0, 0x0, 0x0, 0x0⟩,
   ⟨0x8, 0, 1, 0x0, 0x0, 0x1F00, 0x0, 0x0, 0x0⟩,
   ⟨0xC, 0, 1, 0x5DC0, 0xFFFF, 0x0, 0x0, 0x0, 0x0⟩,
   ⟨0x10, 4, 6, 0x40000, 0x7FFFF, 0x0, 0x0, 0x0, 0x0⟩,
   ⟨0x28, 4, 6, 0x0, 0x0, 0x0, 0x0, 0x0, 0x0⟩,
   ⟨0x40, 4, 6, 0x0, 0x0, 0x0, 0x0, 0x0, 0x0⟩,
   ⟨0x58, 0, 1, 0x0, 0x0, 0x0, 0x0, 0x0, 0x0⟩,
   ⟨0x5C, 0, 1, 0xFF0000, 0x0, 0x0, 0x0, 0x0, 0x0⟩,
   ⟨0x60, 0, 1, 0x1800, 0xFF00, 0x0, 0x1, 0x0, 0x0⟩,
   ⟨0x80, 4, 14, 0x0, 0x0, 0x0, 0x0, 0x0, 0x0⟩,
   ⟨0x200, 4, 96, 0x0, 0x0, 0x0, 0x0, 0x0, 0x0⟩,
   ⟨0x400, 4, 384, 0x0, 0x0, 0x0, 0x0, 0x0, 0x0⟩]

/-- The registers of the THERMAL block: TH_STATUS, TH_COOLANT, TH_FIRST, TH_DIE. -/
def descsThermal : List RegDesc :=
  [⟨0x0, 0, 1, 0x0, 0x0, 0x700, 0x0, 0x0, 0x0⟩,
   ⟨0x4, 0, 1, 0x0, 0x0, 0x0, 0x0, 0x0, 0x0⟩,
   ⟨0x8, 0, 1, 0x7F, 0x0, 0x0, 0x0, 0x0, 0x0⟩,
   ⟨0x100, 4, 108, 0x0, 0x0, 0x0, 0x0, 0x0, 0x0⟩]

/-- The registers of the SENSOR block: SN_STRING, SN_SUPPLY. -/
def descsSensor : List RegDesc :=
  [⟨0x0, 4, 64, 0x0, 0x0, 0x0, 0x0, 0x0, 0x0⟩,
   ⟨0x100, 0, 1, 0x0, 0x0, 0x0, 0x0, 0x0, 0x0⟩]

/-- The registers of the RESET block: START_STATE, START_STATUS, RESET_CAUSE, START_TIME, PART_RST_STATE, FAR_HP. -/
def descsReset : List RegDesc :=
  [⟨0x0, 0, 1, 0x0, 0x0, 0x0, 0x0, 0x0, 0x0⟩,
   ⟨0x4, 0, 1, 0x0, 0x0, 0x1F, 0x0, 0x0, 0x0⟩,
   ⟨0x8, 0, 1, 0x0, 0x0, 0x0, 0x0, 0x0, 0x0⟩,
   ⟨0x10, 4, 12, 0xFFFFFFFF, 0x0, 0x0, 0x0, 0x0, 0x0⟩,
   ⟨0x40, 4, 6, 0x0, 0x0, 0x0, 0x0, 0x0, 0x0⟩,
   ⟨0x80, 4, 8, 0x0, 0x0, 0x300, 0x0, 0x0, 0x0⟩]

/-- The registers of the DEBUG block: DBG_STATUS, DBG_PART, DBG_HELD. -/
def descsDebug : List RegDesc :=
  [⟨0x0, 0, 1, 0x0, 0x0, 0xF, 0x0, 0x0, 0x0⟩,
   ⟨0x100, 4, 6, 0x0, 0x0, 0x0, 0x0, 0x0, 0x0⟩,
   ⟨0x200, 4, 6, 0x0, 0x0, 0x0, 0x0, 0x0, 0x0⟩]

/-- The register table of a kind of block. -/
def descsOf : BlockKind → List RegDesc
  | .census => descsCensus
  | .timebase => descsTimebase
  | .rate => descsRate
  | .array => descsArray
  | .slice => descsSlice
  | .regulator => descsRegulator
  | .mid => descsMid
  | .courier => descsCourier
  | .course => descsCourse
  | .port => descsPort
  | .letterbox => descsLetterbox
  | .partition => descsPartition
  | .panelId => descsPanelId
  | .security => descsSecurity
  | .scrub => descsScrub
  | .fault => descsFault
  | .dieFault => descsDieFault
  | .pair => descsPair
  | .power => descsPower
  | .thermal => descsThermal
  | .sensor => descsSensor
  | .reset => descsReset
  | .debug => descsDebug

/-- A place in the management address space: the kind of block, the block's number within its kind, and the offset in it. -/
structure Place where
  kind : BlockKind
  unit : Nat
  off : Nat
  deriving DecidableEq, Repr

/-- The sub-block of a die window that an offset falls in (R33); the number is 8 × site + local array for an array, else the site. -/
def placeInDie (site o : Nat) : Option Place :=
  if o < 0x80000 then some ⟨.array, 8 * site + o / 0x10000, o % 0x10000⟩
  else if o < 0x90000 then some ⟨.slice, site, o - 0x80000⟩
  else if o < 0xA0000 then if o < 0x90100 then some ⟨.courier, site, o - 0x90000⟩ else none
  else if o < 0xB0000 then some ⟨.course, site, o - 0xA0000⟩
  else if o < 0xC0000 then some ⟨.sensor, site, o - 0xB0000⟩
  else if o < 0xD0000 then some ⟨.dieFault, site, o - 0xC0000⟩
  else none

/-- The block a management address falls in (R32, R376): CDIE windows are not answered here, since what they reach depends on the
census (R34). -/
def placeOf (a : Nat) : Option Place :=
  if a < 0x1000 then some ⟨.panelId, 0, a⟩
  else if a < 0x2000 then some ⟨.census, 0, a - 0x1000⟩
  else if a < 0x3000 then some ⟨.timebase, 0, a - 0x2000⟩
  else if a < 0x4000 then some ⟨.rate, 0, a - 0x3000⟩
  else if a < 0x5000 then some ⟨.power, 0, a - 0x4000⟩
  else if a < 0x6000 then some ⟨.thermal, 0, a - 0x5000⟩
  else if a < 0x7000 then some ⟨.reset, 0, a - 0x6000⟩
  else if a < 0x8000 then some ⟨.scrub, 0, a - 0x7000⟩
  else if a < 0x10000 then
    let o := a - 0x8000
    if 0x1000 ≤ o ∧ o < 0x2800 then some ⟨.regulator, 0, o - 0x1000⟩
    else if 0x3000 ≤ o ∧ o < 0x4800 then some ⟨.regulator, 1, o - 0x3000⟩
    else if 0x5000 ≤ o ∧ o < 0x50C0 then some ⟨.regulator, 2, o - 0x5000⟩
    else if 0x6000 ≤ o ∧ o < 0x6300 then some ⟨.regulator, 3, o - 0x6000⟩
    else none
  else if a < 0x20000 then some ⟨.fault, 0, a - 0x10000⟩
  else if a < 0x30000 then some ⟨.security, 0, a - 0x20000⟩
  else if a < 0x40000 then some ⟨.debug, 0, a - 0x30000⟩
  else if a < 0x46000 then some ⟨.partition, (a - 0x40000) / 0x1000, (a - 0x40000) % 0x1000⟩
  else if 0x50000 ≤ a ∧ a < 0x60000 then some ⟨.pair, 0, a - 0x50000⟩
  else if 0x1000000 ≤ a ∧ a < 0x1200000 then
    let h := (a - 0x1000000) / 0x100000
    let o := (a - 0x1000000) % 0x100000
    if o < 0x30000 then some ⟨.port, 3 * h + o / 0x10000, o % 0x10000⟩
    else if o < 0x40000 then none
    else some ⟨.letterbox, 64 * (3 * h + (o / 0x40000 - 1)) + o % 0x40000 / 0x1000, o % 0x1000⟩
  else if 0x2000000 ≤ a ∧ a < 0x2800000 then
    let m := (a - 0x2000000) / 0x100000
    let o := (a - 0x2000000) % 0x100000
    if o < 0x10000 then some ⟨.mid, m, o⟩
    else if o < 0x10200 then some ⟨.courier, 108 + m, o - 0x10000⟩
    else none
  else if 0x20000000 ≤ a ∧ a < 0x26C00000 then
    placeInDie ((a - 0x20000000) / 0x100000) ((a - 0x20000000) % 0x100000)
  else none

/-- The descriptor covering an offset, with the register's index. The courier block repeats every 0x40 (R346). -/
def findDesc (o : Nat) : List RegDesc → Option (RegDesc × Nat)
  | [] => none
  | d :: ds =>
    if d.stride = 0 then (if o = d.off then some (d, 0) else findDesc o ds)
    else if d.off ≤ o ∧ (o - d.off) % d.stride = 0 ∧ (o - d.off) / d.stride < d.count then some (d, (o - d.off) / d.stride)
    else findDesc o ds

end Sys2Proof.Machine
end

