-- ==== Sys2Proof/Machine/Types.lean ====
section
/-! DEFINITION. The structures the state is made of, one section per chapter of the spec: everything a chapter gives the machine
that is not itself a memory-mapped register (those stand in the one register table of the state). -/

namespace Sys2Proof.Machine

/-! Arrays, quarters and thread groups. -/

/-- Why a subgroup waits (R88, R94, R99, R105, R108, R200); a wait for a ledger tile holds what the tile will be opened with: format code,
window exponent and the uniform register that receives its number; a wait at a reconvergence address the lanes of the split whose other
parts it waits for. -/
inductive Wait where
  | running
  | barrier (b : Nat)
  | collective
  | tile (fmt : Nat) (w : Int) (dst : Nat)
  | reconv (mates : BitVec 32)
  deriving DecidableEq, Repr

/-- The operation of a memory request (R149 to R157, R250, R269). -/
inductive ReqKind where
  | load
  | loadAcq
  | loadLast
  | fillL1
  | store
  | kill
  | atom (op : Nat)
  | red (op : Nat)
  | ledger
  | prefetchHome
  | prefetchArray
  deriving DecidableEq, Repr

/-- One thread's part of a line request: group slot and lane (a composite issue joins several groups, R153), byte offset in the line, store data or operand, the compare value of atom.cas, and
for a ledger contribution its window and whether it is a NaN contribution. -/
structure LaneAcc where
  slot : Nat
  lane : Nat
  off : Nat
  data : BitVec 128
  cmp : BitVec 128
  w : BitVec 16
  nan : Bool
  deriving DecidableEq, Repr

/-- A line request on its way to its home (R153, R250): issuing array and group slot, the line, the lanes, what a load
writes, the PASID slice, and the instruction's address and lanes for a fault record. -/
structure MemReq where
  id : Nat
  part : Nat
  arr : Nat
  slot : Nat
  kind : ReqKind
  line : Nat
  lanes : List LaneAcc
  size : Nat
  signed : Bool
  isFloat : Bool
  dst : Nat
  mask : ByteMask
  data : LineData
  stamp : Nat
  sl : Nat
  pc : W64
  mask32 : BitVec 32
  deriving DecidableEq, Repr

/-- A pending access of a group: its request, its line, its lanes, the thread registers it will write, and whether it is a store (R88,
R293). -/
structure Pend where
  id : Nat
  line : Nat
  lanes : BitVec 32
  reg : Nat
  nregs : Nat
  isStore : Bool
  deriving DecidableEq, Repr

/-- A release or fence in progress (R295, R297, R308): its number and its threads, its scope, whether it waits for the flush read, the first
request number it does not wait for, and the release's own store requests. -/
structure OrderOp where
  id : Nat
  lanes : BitVec 32
  scope : Nat
  isFence : Bool
  flushing : Bool
  bound : Nat
  stores : List MemReq
  deriving DecidableEq, Repr

/-- A stacked reconvergence address (R145): the split that pushed it and the lanes of the subgroup that split. -/
structure Rejoin where
  addr : W64
  split : Nat
  mates : BitVec 32
  deriving DecidableEq, Repr

/-- A subgroup (R88, R92 to R99, R121, R145), with the releases and fences of its threads that are in progress. -/
structure Sub where
  lanes : BitVec 32
  pc : W64
  wait : Wait
  stopped : Bool
  stack : List Rejoin
  waitFrom : Nat
  yieldCount : Nat
  orders : List OrderOp
  deriving DecidableEq, Repr

/-- A resident group (R72, R73, R126, R139, R159); `hostStored` marks the lanes that have stored to the host region (R308). -/
structure Group where
  block : Nat
  index : Nat
  absent : BitVec 32
  exited : BitVec 32
  tregs : Tab W32
  uregs : Tab W32
  preds : Tab Byte
  fpflags : BitVec 5
  subs : List Sub
  cur : BitVec 32
  isOpen : Bool
  pend : List Pend
  hostStored : BitVec 32
  held : Bool
  deriving DecidableEq, Repr

/-- A resident block (R77, R85, R108 to R115, R120, R128). -/
structure Block where
  launch : Nat
  part : Nat
  seq : W64
  mailbag : Nat
  slice : Nat
  index : Nat
  nblocks : Nat
  threads : Nat
  regs : Nat
  units : List Nat
  textLo : W64
  textHi : W64
  kernelId : W64
  seed : W64
  arrived : Tab Nat
  halted : Bool
  stopPending : Bool
  deriving DecidableEq, Repr

/-- The tag of a ledger element (R196). -/
inductive LTag where
  | finite
  | posInf
  | negInf
  | nan
  deriving DecidableEq, Repr

/-- A ledger tile (R192, R198, R199, R205): its owner's slot, format code, window exponent, flags (bit 0 UNDERFLOW, 1 OVERFLOW,
2 INVALID, 3 INEXACT), accumulators and tags by element 32 i + j. -/
structure Tile where
  owner : Nat
  fmt : Nat
  w : Int
  flags : BitVec 4
  accs : Tab (BitVec 144)
  tags : Tab LTag
  deriving DecidableEq, Repr

/-- A line of an L1 (R245, R246): its bytes, which are valid, which are dirty, its age and the moment it became dirty. -/
structure L1Line where
  line : Nat
  data : LineData
  valid : ByteMask
  dirty : ByteMask
  age : Nat
  dirtySeq : Nat
  deriving DecidableEq, Repr

/-- A miss register of an L1 (R247): whether its line was given up meanwhile (R266, R268), so that the fill is not kept, and the bytes that
the array has stored to the line since it was asked for (R289); `late` are those that joined after the line was given up, for which it is
asked for again. -/
structure L1Miss where
  line : Nat
  dropFill : Bool
  waiters : List MemReq
  late : List MemReq
  own : ByteMask
  ownData : LineData
  deriving DecidableEq, Repr

/-- What the matrix cells of a quarter hold of an mma.ledger until its residue check has passed (R185, R232 to R235): its group slot and
tile, the instruction's address, the tile as it will be, and by element the staging sum and the residue expected of it. -/
structure Staging where
  slot : Nat
  tileNo : Nat
  pc : W64
  after : Tile
  sums : Tab (BitVec 144)
  expected : Tab Nat
  deriving DecidableEq, Repr

/-- An array (R71 to R78, R81, R89, R198, R242 to R247, R267, R269, R568, R569). `pos` is the step of its die's running tick that it last
completed (R40, R42); `busy` holds, by unit of a quarter, the steps until the unit accepts an instruction again, `bankBusy` the requests
that its banks have still to serve, and `path` the line requests of each quarter that are not accepted yet (R88, R153, R184, R242, R247). -/
structure Arr where
  lsBanks : Nat
  reconfig : Option Nat
  blocks : Tab Block
  groups : Tab Group
  pointers : Tab Nat
  tiles : Tab Tile
  staged : Tab Staging
  localMem : Tab Byte
  l1 : Tab L1Line
  l1Miss : List L1Miss
  sideBuf : List (Nat × LineData)
  sidePend : List Nat
  unacked : List (Nat × Nat)
  acqEpoch : Nat
  icache : Tab (BitVec 128)
  lastCode : W64
  lastGen : W32
  phaseKernel : W64
  phaseValue : BitVec 16
  phaseSteps : Nat
  phaseEnergy : Nat
  steps : Nat
  pos : Nat
  busy : Tab Nat
  bankBusy : Tab Nat
  path : Tab (List MemReq)
  mismatches : Tab Nat
  deriving DecidableEq, Repr

/-! Unified cache. -/

/-- The state of a home line (R280). -/
inductive LState where
  | filling
  | clean
  | partialLine
  | dirty
  | dead
  | sum
  deriving DecidableEq, Repr

/-- A tag slot with its line (R254): line address, partition's state, byte mask, data, compression code, visitor flag and stamp. -/
structure SLine where
  line : Nat
  st : LState
  mask : ByteMask
  data : LineData
  comp : Nat
  visitor : Bool
  stamp : Nat
  deriving DecidableEq, Repr

/-- An entry: its age and its two tag slots (R252, R254, R255). -/
structure Entry where
  age : Nat
  s0 : Option SLine
  s1 : Option SLine
  deriving DecidableEq, Repr

/-- A miss register of a slice (R261, R335). -/
structure Miss where
  line : Nat
  waiters : List MemReq
  deriving DecidableEq, Repr

/-- The tag of a sum-line element (R213). -/
inductive STag where
  | untouched
  | finite
  | nan
  deriving DecidableEq, Repr

/-- An element of a sum line (R212, R218): accumulator, window (known or not yet), tag, count, and the content at entry. -/
structure SumElem where
  acc : BitVec 144
  w : BitVec 16
  wKnown : Bool
  tag : STag
  count : Nat
  entry : BitVec 128
  deriving DecidableEq, Repr

/-- A pinned sum line (R212, R224, R229): its elements, when it entered sum mode, whether its bucket read is outstanding, and the bytes of
its content at entry that memory does not hold. -/
structure SumLine where
  line : Nat
  since : Nat
  merging : Bool
  mask : ByteMask
  elems : List SumElem
  deriving DecidableEq, Repr

/-- A visitor copy on its way to a die (R265, R266, R281): the request that asked for it, the bytes the die has stored to the line since, and
whether the copy is given up meanwhile. -/
structure VisitorMiss where
  id : Nat
  line : Nat
  own : ByteMask
  ownData : LineData
  drop : Bool
  deriving DecidableEq, Repr

/-- A unified-cache slice (R252, R261, R267, R269, R212, R226, R283); `wOpen` marks, for each spill record, the elements whose W no
contribution has fixed yet (R218; log entry 21). -/
structure Slice where
  entries : Tab Entry
  misses : List Miss
  visitors : List VisitorMiss
  side : List (Nat × LineData)
  sidePend : List Nat
  sums : List SumLine
  spills : Tab (BitVec 16)
  wOpen : Tab Byte
  epoch : Nat
  deriving DecidableEq, Repr

/-! External memory, couriers and regulators. -/

/-- A memory read or write waiting at a memory-interface die (R321 to R326): the partition, the line, how many reads have failed,
the bit positions that failed (R318), for a masked write its mask and data, and whether it is a courier's write-through that holds a miss register of its home
(R335). -/
structure MidOp where
  part : Nat
  line : Nat
  isWrite : Bool
  mask : ByteMask
  data : LineData
  dead : Bool
  fails : Nat
  bits : List Nat
  through : Bool
  deriving DecidableEq, Repr

/-- A line on its way from memory to its home slice (R259, R276, R323): its data, or dead, or poisoned, or of a released far region, whose
reads answer as poisoned without a fault (R618). -/
inductive FillCode where
  | live
  | dead
  | poisoned
  | released
  deriving DecidableEq, Repr

/-- A returned line (R259, R269), and for an array side buffer its array. -/
structure Fill where
  part : Nat
  line : Nat
  code : FillCode
  data : LineData
  arr : Option Nat
  deriving DecidableEq, Repr

/-- A memory-interface die (R318, R324, R328, R330, R332, R488, R617, R618): failures per lane in this window, lanes used up, lines whose
pages await retirement, the verified pages, most recent first; of its far port, whether it is released, the FAR_RELEASE in progress on it with
the dies whose lines it has yet to take (R619), whether its partition uses it, and the storage secret and the region that its pages have carried
since a scrub; and by local stack the temperature and the errors its scrub has reported (R314). -/
structure Mid where
  laneFails : Tab Nat
  lanesUsed : Tab Nat
  retiring : List MidOp
  verified : List Nat
  farReleased : Bool
  farReleasing : Option (Nat × List Nat)
  farAttached : Bool
  farOwner : Nat
  farIndex : Nat
  temps : Tab Nat
  scrubErrors : Tab Nat
  deriving DecidableEq, Repr

/-- A far page as the tier holds it (R329, R331): the storage secret and the region that its lines were encrypted for, its dead mask, whether it
is poisoned, and its tag. -/
structure FarPage where
  owner : Nat
  index : Nat
  dead : BitVec 32
  poisoned : Bool
  tag : BitVec 96
  deriving DecidableEq, Repr

/-- The state of a courier (R346). -/
inductive CrState where
  | idle
  | running
  | gated
  | stopped
  deriving DecidableEq, Repr

/-- A courier (R333 to R339, R452): its chain by its entry's number or the pigeonhole it copies for, its current record, the lines done,
how far the flush read of a done write of scope sys has come (0 not asked for, 1 asked for, 2 done), whether its chain has written to the host
region (R308), and the lines held back of a far page that it writes whole (R331). -/
structure Courier where
  st : CrState
  part : Nat
  slice : Nat
  work : Option Nat
  record : W64
  started : Bool
  op : Nat
  gateEn : Bool
  doneSys : Bool
  gateValue : W32
  gateAddr : W64
  src : W64
  dst : W64
  total : Nat
  done : Nat
  doneAddr : W64
  doneValue : W32
  next : W64
  status : Nat
  lastStatus : Nat
  cancel : Bool
  holdNext : Bool
  flush : Nat
  hostStored : Bool
  page : List (Nat × LineData)
  pigeonhole : Option Nat
  deriving DecidableEq, Repr

/-! Courses. -/

/-- One half of a string as its two ends hold it (R351, R352, R365): packets given to it and not acknowledged, of which the first 64 are
sent, the packet number of the oldest of them, packets accepted, whether the receiver is discarding and from which packet on, packets
accepted since the last acknowledgement, mismatches per logical lane in this window, and the link-control packets it has carried. -/
structure Half where
  replay : List Packet
  base : Nat
  accepted : Nat
  discarding : Bool
  resend : Nat
  sinceAck : Nat
  mismatches : Tab Nat
  control : List Packet
  deriving DecidableEq, Repr

/-- A transit path of a partition from an ingress to an egress unit (R360, R370, R478, R479): packets ready at the ingress, the next sequence
number, the packets sent and not acknowledged, those on their way with the courses they have crossed and their 24 beats, those to be sent again, the highest number accepted, the packet whose tag failed
once, the packets delivered, and whether the alternate route is in use. -/
structure TransitPath where
  ready : List Packet
  nextSeq : BitVec 57
  unacked : List (BitVec 57 × Packet)
  flight : List (BitVec 57 × Nat × List (BitVec 64))
  resend : List (BitVec 57)
  highest : BitVec 57
  failedOnce : Option (BitVec 57)
  delivered : List Packet
  alternate : Bool
  deriving DecidableEq, Repr

/-! Host ports. -/

/-- What a taken entry keeps of its slice (R382). -/
structure Snap where
  pasid : W32
  hbm : W32
  far : W32
  hc : W32
  deriving DecidableEq, Repr

/-- The phases of a taken entry (R391 to R408, R437 to R445). -/
inductive WPhase where
  | handed      -- taken, not yet handled by type
  | waiting     -- held by AFTER, or a chain waiting for its courier
  | queued      -- a launch in its class queue
  | running     -- a launch with arrays, or a chain on its courier
  | stopping    -- stop pending
  | closing     -- all blocks retired, closing fence under way
  | atPostmaster
  | finished    -- final receipt formed, not yet acknowledged
  deriving DecidableEq, Repr

/-- Why a stop is pending (R406, R408, R418, R431, R442, R604). -/
inductive StopWhy where
  | cancel
  | preemptEntry
  | latencyCritical
  | quiesce
  | dissolve
  | sliceReset
  | linkDown
  deriving DecidableEq, Repr

/-- A taken entry and, for a launch, its run (R391 to R394, R399, R436 to R445, R453, R516). `options` and `lcArrays` are the partition's
options and share as the entry was taken (R459); `target` is the entry a CANCEL or PREEMPT waits for (R406, R408); `fwd` is
the number under which a leader forwarded it, 0 for not (R541). -/
structure Work where
  id : Nat
  port : Nat
  part : Nat
  mailbag : Nat
  seq : W64
  type : Nat
  after : Bool
  entry : BitVec 512
  slice : Nat
  snap : Snap
  phase : WPhase
  why : Option StopWhy
  preempts : Nat
  defers : Nat
  steps : Nat
  latency : Bool
  pigeonhole : Nat
  kernelEntry : W64
  textLo : W64
  textHi : W64
  kernelId : W64
  loadGen : W32
  kflags : BitVec 16
  want : Nat
  nextBlock : Nat
  retired : Nat
  arrays : List Nat
  startSeq : Nat
  haltDispatch : Bool
  fault : Option (W32 × W32)
  fwd : Nat
  acked : Bool
  target : Option Nat
  fences : List Nat
  hostArrays : List Nat
  lostOrder : List Nat
  options : W32
  lcArrays : Nat
  deriving DecidableEq, Repr

/-- A receipt waiting for its slot (R399 to R403): its 64 bytes but for PHASE, its entry, and whether it is final. -/
structure Receipt where
  work : Nat
  final : Bool
  outcome : Nat
  reason : Nat
  type : Nat
  seq : W64
  steps : Nat
  queuePos : Nat
  preempts : Nat
  defers : Nat
  fault : W32
  unit : W32
  detail : W64
  deriving DecidableEq, Repr

/-- A mailbag (R385 to R390, R403): its counts, the entry read in flight, the receipts waiting, whether a written receipt's tail word is
due, and whether RECEIPTED follows it (R543). -/
structure Mailbag where
  tail : W32
  head : W32
  rhead : W32
  rcount : W64
  lastSeq : W64
  anySeq : Bool
  reading : Bool
  receipts : List Receipt
  tailDue : Bool
  tellDue : Bool
  deriving DecidableEq, Repr

/-- A write accepted toward host memory (R288, R308, R415): an output of the panel. -/
structure HostWrite where
  port : Nat
  pasid : W32
  addr : Nat
  mask : ByteMask
  data : LineData
  deriving DecidableEq, Repr

/-- An IDE stream of a port (R482, R483): programmed, active, and whether its session was authenticated under TENANT_KEY. -/
structure IdeStream where
  programmed : Bool
  active : Bool
  underTenant : Bool
  deriving DecidableEq, Repr

/-- A flush read asked for (R308): the array and group slot of the thread that waits for it, or slot 64 for a closing fence and array
0x300 + c for courier c, the number of its release or fence, and the PASID and host address it reads. -/
structure FlushRead where
  arr : Nat
  slot : Nat
  id : Nat
  pasid : W32
  addr : Nat
  deriving DecidableEq, Repr

/-- A host port (R375, R378, R379, R415 to R420, R482, R505). -/
structure Port where
  live : Bool
  perst : Bool
  configReady : Bool
  linkUp : Bool
  lost : Bool
  bound : Option Nat
  ptmLocal : W64
  ptmMaster : W64
  flushes : List FlushRead
  lastWrite : Tab Nat
  fcount : W32
  fhead : W32
  ide : Tab IdeStream
  dlogPend : List (Nat × Nat)
  deriving DecidableEq, Repr

/-! Partitions. -/

/-- A pigeonhole's working state beyond PH_STATE (R449 to R458): the host fields read at PH_DEFINE, the parts whose copy has not begun,
how many have not ended, whether the warm delivery has begun, whether it is to be pinned, whether a follower may call it resident (R545),
and the management entries that wait for the load. -/
structure Pigeonhole where
  size : W64
  farOffset : W64
  warm : W32
  lastUse : W64
  loadGen : W32
  todo : List Nat
  partsLeft : Nat
  warming : Bool
  pinAfter : Bool
  decided : Bool
  waiting : List Nat
  deriving DecidableEq, Repr

/-- What a partition holds beyond its registers (R427, R432, R516, R517, R568, R617, R571). -/
structure Part where
  farCaps : List Nat
  pigeonholes : Tab Pigeonhole
  phWanted : List Nat
  fatal : Option (W32 × W32)
  takeSeq : Nat
  startSeq : Nat
  dissolveAfter : Bool
  phase : List (W64 × BitVec 16 × Nat)
  sliceCtl : W32
  restartFrom : W64
  joining : List Nat
  deriving DecidableEq, Repr

/-! Trust. -/

/-- The keys and the job of a partition (R471 to R476, R494). Keys are held as the secrets they are derived from. -/
structure PartKeys where
  nonce : BitVec 256
  envelopePub : Nat
  jobId : W64
  jobSecret : BitVec 384
  storageSecret : BitVec 384
  keyNonce : BitVec 256
  loaded : Bool
  tenantKeyHash : BitVec 384
  partner : BitVec 384
  grantId : W64
  notAfter : W64
  debugger : BitVec 384
  scrubLeft : List Nat
  hbmScrubDue : Bool
  deriving DecidableEq, Repr

/-- An SPDM session of a port (R468). -/
structure Session where
  openNow : Bool
  finished : Bool
  requester : BitVec 384
  keyGen : Nat
  deriving DecidableEq, Repr

/-- An SPDM responder of a port (R468): how far the connection has gone, and its sessions. -/
structure Spdm where
  versionDone : Bool
  capsDone : Bool
  algsDone : Bool
  sessions : Tab Session
  deriving DecidableEq, Repr

/-- The root of trust and the panel's fuses and identity (R1, R253, R363, R462 to R467, R477). -/
structure Trust where
  orderD : Bool
  debugBlown : Bool
  secMin : Nat
  identity : BitVec 384
  keySet : BitVec 17
  keyHome : BitVec 41
  mgmtKey : Nat
  aliasKey : Nat
  mBoot : BitVec 384
  mRuntime : BitVec 384
  mUcode : BitVec 384
  fusedLanes : Tab (List Nat)
  staged : Tab Byte
  stagedImage : Option Image
  deriving DecidableEq, Repr

/-! Faults. -/

/-- A fault as raised, before its records are delivered (R501 to R509): code, class, unit, time, the affected work, address and
detail words, and the partition it belongs to. -/
structure FaultRec where
  code : Nat
  cls : Nat
  unit : W32
  time : W64
  part : Option Nat
  slice : BitVec 16
  mailbag : BitVec 16
  seq : W64
  addr : W64
  detail : List W32
  extra : List W32
  toAll : Bool
  rings : List Nat
  deriving DecidableEq, Repr

/-- What suppression remembers of a destination, code and unit in this window (R504). -/
structure Supp where
  dest : Nat
  code : Nat
  unit : W32
  count : Nat
  last : FaultRec
  deriving DecidableEq, Repr

/-- A retirement awaiting acknowledgement (R512). -/
structure Retire where
  cell : Bool
  site : Nat
  number : Nat
  deriving DecidableEq, Repr

/-- The panel's fault reporting (R503, R504, R511, R512, R529, R590): records to deliver, the panel queue, RETIRE, the retirements it
had no room for; the non-volatile log's retirements, aged dies, sites of failed courses, repairs and failed start tests; dies lost in this
start, the logical dies that fenced spares were in use as (R28, R521), and the watchdog. -/
structure FaultLog where
  undelivered : List FaultRec
  queue : List FaultRec
  queued : Nat
  supp : List Supp
  retire : List Retire
  unlogged : List Retire
  logged : List Retire
  agedDies : List Nat
  courseSites : List Nat
  hbmRepairs : List (Nat × Nat)
  failedTests : Tab Nat
  lostThisStart : Tab Nat
  fencedAs : Tab Nat
  kickedAt : W64
  deriving DecidableEq, Repr

/-! Pairs. -/

/-- A host write held by a follower's journal (R544): the entry that made it, and its request. -/
structure JournalWrite where
  work : Nat
  id : Nat
  write : HostWrite
  deriving DecidableEq, Repr

/-- What one side knows of an entry's outcome on the other (R541, R542). -/
structure PairOutcome where
  mailbag : Nat
  seq : W64
  outcome : Nat
  fault : W32
  deriving DecidableEq, Repr

/-- The pair state of a partition beyond its registers (R535 to R556): numbers of the last message accepted and sent and whether the next
one's tag has failed; the lease's place, its counter, the lease word last seen and when it changed, the last acknowledged lease write, and
when a link last carried something; of a join, its options, the partner's message, the entry that waits and the state before it; the
entries forwarded or received; the journal; the partner's outcomes and the entries whose own outcome was sent; chunk hashes of digests, the
partner's and its own, and by digest index the entries that wait with their NONDET bit; whether a launch since the last digest may be
irreproducible; when it was fenced, whether its partner has taken over, and whether a fenced panel may write its receipts. Number 255
stands for the messages that belong to no partition. -/
structure PairPart where
  rxHighest : W64
  txSeq : W64
  tagFailed : Bool
  leaseOffset : W32
  leaseCount : W32
  leaseSeen : W64
  leaseChanged : W64
  leaseAcked : W64
  heardAt : W64
  withFar : Bool
  joinMsg : Option JoinMsg
  joinWork : Option Nat
  asFollower : Bool
  prevState : Nat
  forwarded : W64
  journal : List JournalWrite
  partnerDone : List PairOutcome
  ownDone : List Nat
  theirChunks : List (Nat × Nat × BitVec 384)
  ownChunks : List (Nat × List (BitVec 384))
  digestWork : Tab (Nat × Bool)
  nondet : Bool
  fencedAt : W64
  accepted : Bool
  mayWrite : Bool
  deriving DecidableEq, Repr

/-- A message the panel sends on a pair link (R535): the fields of its body, and the bytes it is once it has gone out. -/
structure PairMsg where
  link : Nat
  part : Nat
  type : Nat
  seq : W64
  fields : List Nat
  bytes : List Byte := []
  deriving DecidableEq, Repr

/-- What a regulator holds until its next tick (R341): a line request at its home, a courier's next line, or a message for a pair link. -/
inductive Held where
  | request (id : Nat)
  | courier (c : Nat)
  | message (m : PairMsg)
  deriving DecidableEq, Repr

/-! Power, start, timebase, debug. -/

/-- Power state beyond its registers (R496, R562, R571, R573, R574, R588, R589). -/
structure Power where
  pace : Tab Nat
  supply : Tab Nat
  retention : List Nat
  alertReleased : W64
  alerts : Nat
  retuneDue : W64
  siteMax : Tab Nat
  deriving DecidableEq, Repr

/-- The module's input, switch and pins (R595, R616, R655 to R657, R663): whether the module is seated, its input being charged or charged, a
pre-charge held off, the 10 s from the last one not yet over; the main switch, the converters, a start under way; the targets' dynamic
addresses, and the expander resets that are released. -/
structure Shell where
  seated : Bool
  precharging : Bool
  precharged : Bool
  heldOff : Bool
  holdoff : Bool
  switchClosed : Bool
  converters : Bool
  starting : Bool
  dynAddr : Tab Nat
  farPerst : BitVec 8
  deriving DecidableEq, Repr

/-- The timebase beyond its registers (R57, R58, R61, R66, R67): the master count, what every replica counts together, each
replica's difference from it, those that wait for the master, those to be loaded at the next broadcast, the ticks
since the last broadcast, and the last window whose end has come. -/
structure Timebase where
  master : W64
  running : Bool
  refLost : Bool
  relocking : Bool
  replica : W64
  skew : Tab Int
  stalled : List Nat
  loading : List Nat
  ticks : Nat
  window : Nat
  deriving DecidableEq, Repr

/-- A debug event record (R627). -/
structure DbgEvent where
  arr : Nat
  slot : Nat
  cause : Nat
  brk : Nat
  pc : W64
  time : W64
  deriving DecidableEq, Repr

/-- A STEP under way (R633): the group, the instructions still to issue and those issued, and the steps of its array without an issue. -/
structure DbgRun where
  arr : Nat
  slot : Nat
  left : Nat
  issued : Nat
  waited : Nat
  deriving DecidableEq, Repr

/-- A halt whose response waits until its groups are halted (R626, R628): the operation, the groups, and the body of the response. -/
structure DbgHalting where
  op : Nat
  groups : List (Nat × Nat)
  data : List Nat
  deriving DecidableEq, Repr

/-- A partition's debug state beyond its registers (R623 to R637). -/
structure Dbg where
  nonce : BitVec 256
  nonceGiven : Bool
  key : BitVec 256
  rxSeq : W64
  txSeq : W64
  steps : List DbgRun
  halts : List DbgHalting
  breaks : Tab W64
  events : List DbgEvent
  held : List (Nat × Nat)
  heldLaunches : List Nat
  deriving DecidableEq, Repr

/-- What the last command that returns something returned: a status and bytes (R623, R664, R666, R473); of a debug message, the whole response
as it is sent. -/
structure Response where
  status : Nat
  data : List Nat
  wire : List Byte := []
  deriving DecidableEq, Repr

end Sys2Proof.Machine
end

