-- ==== Sys2Proof/Machine/State.lean ====
section
/-! DEFINITION. The state of the panel as plain data, its reasons to stop, and the state right after reset. -/

namespace Sys2Proof.Machine

/-- The panel. Every memory-mapped register of the spec lives in `regs`, keyed by its management address (R32); the registers of a
compute die are held once, under its SITE window (R34). `accum` holds, by the same addresses, what the counters that are read out
per window have counted in the window now running, `ahead` what units counted whose replicas had passed its end already (R64, R65,
R70), and `latch`, by the address of a high word, what a read of its low word will put there (R68, R283). `holds` keeps, by site and
course, the packets that wait for a new count of strings (R353). Everything else the spec gives the machine has a field below. -/
structure State where
  pending : List Instr
  fresh : Nat
  ids : Nat
  regs : Tab W32
  accum : Tab Nat
  ahead : Tab Nat
  latch : Tab W32
  readData : W32
  mgmtAddr : W32
  response : Response
  tb : Timebase
  arrs : Tab Arr
  slices : Tab Slice
  mids : Tab Mid
  hbm : List Host.Cell
  hbmCode : Tab FillCode
  far : List Host.Cell
  farPages : Tab FarPage
  reqs : List MemReq
  reads : List MidOp
  fills : List Fill
  sideFills : List Fill
  writeAcks : List (Nat × Nat × Nat)
  couriers : Tab Courier
  held : List Held
  granted : List Nat
  halves : Tab Half
  holds : Tab (List Packet)
  transit : Tab TransitPath
  deadUnits : List Nat
  ports : Tab Port
  mailbags : Tab Mailbag
  works : List Work
  hostOut : List HostWrite
  parts : Tab Part
  trust : Trust
  keys : Tab PartKeys
  spdm : Tab Spdm
  faults : FaultLog
  pairs : Tab PairPart
  linkSent : List Nat
  pairOut : List PairMsg
  power : Power
  shell : Shell
  dbg : Tab Dbg
  deriving DecidableEq, Repr

/-- Why the machine stops with a fault. No command of the panel stops it: every fault of the spec is recorded and the panel goes
on (R500 to R503). The one constructor is for a command whose words the spec gives no meaning; nothing raises it, which is safe. -/
inductive Fault where
  | unspecified
  deriving DecidableEq, Repr

/-- Why a command is refused. `notModelled` is raised by a command whose meaning is not written yet, which is safe. -/
inductive Refusal where
  | notModelled (mnemonic : String)
  deriving DecidableEq, Repr

/-- The timebase right after reset (R57, R596): the master count stands at 0 and has not started. -/
def Timebase.reset : Timebase :=
  { master := 0, running := false, refLost := false, relocking := false, replica := 0, skew := [], stalled := [], loading := [],
    ticks := 0, window := 0 }

/-- The root of trust right after reset: the fused values are those log entry 4 names (an intact start: ordering code C, its debug
fuses blown under R1, SEC_MIN and identity zero); the keys are drawn later, at START_TRUST_DONE (R253, R596). -/
def Trust.reset : Trust :=
  { orderD := false, debugBlown := true, secMin := 0, identity := 0, keySet := 0, keyHome := 0, mgmtKey := 0, aliasKey := 0,
    mBoot := 0, mRuntime := 0, mUcode := 0, fusedLanes := [], staged := [], stagedImage := none }

/-- Fault reporting right after reset: nothing recorded, nothing logged (R511, R512). -/
def FaultLog.reset : FaultLog :=
  { undelivered := [], queue := [], queued := 0, supp := [], retire := [], unlogged := [], logged := [], agedDies := [], courseSites := [], hbmRepairs := [],
    failedTests := [], lostThisStart := [], fencedAs := [], kickedAt := 0 }

/-- Power right after reset: no pace and no supply set (R562, R595). -/
def Power.reset : Power :=
  { pace := [], supply := [], retention := [], alertReleased := 0, alerts := 0, retuneDue := 0, siteMax := [] }

/-- The module right after reset: not seated, no input applied (R613, R655); log entry 5. -/
def Shell.reset : Shell :=
  { seated := false, precharging := false, precharged := false, heldOff := false, holdoff := false, switchClosed := false, converters := false,
    starting := false, dynAddr := [], farPerst := 0 }

/-- The panel right after reset: every register at the reset value of its table, every store empty, no command waiting. -/
def State.reset : State :=
  { pending := [], fresh := 0, ids := 1, regs := [], accum := [], ahead := [], latch := [], readData := 0, mgmtAddr := 0, response := { status := 0, data := [] },
    tb := Timebase.reset, arrs := [], slices := [], mids := [], hbm := [], hbmCode := [], far := [], farPages := [], reqs := [],
    reads := [], fills := [], sideFills := [], writeAcks := [], couriers := [], held := [], granted := [], halves := [],
    holds := [], transit := [], deadUnits := [], ports := [], mailbags := [], works := [], hostOut := [], parts := [], trust := Trust.reset,
    keys := [], spdm := [], faults := FaultLog.reset, pairs := [], linkSent := [], pairOut := [], power := Power.reset,
    shell := Shell.reset, dbg := [] }

end Sys2Proof.Machine
end

