-- ==== Sys2Proof/Machine/Ops.lean ====
section
/-! DEFINITION. The named operations over the state: the sparse tables, memory, lines, the management registers, time, the layout,
and raising a fault. -/

namespace Sys2Proof.Machine

/-! Sparse tables. -/

/-- What a table holds at a key. -/
def Tab.get {α : Type} : Tab α → Nat → Option α
  | [], _ => none
  | (j, v) :: t, k => if j = k then some v else if k < j then none else Tab.get t k

/-- What a table holds at a key, or a default. -/
def Tab.getD {α : Type} (t : Tab α) (k : Nat) (d : α) : α := (Tab.get t k).getD d

/-- A table with a key set. -/
def Tab.put {α : Type} : Tab α → Nat → α → Tab α
  | [], k, v => [(k, v)]
  | (j, w) :: t, k, v => if k < j then (k, v) :: (j, w) :: t else if j = k then (k, v) :: t else (j, w) :: Tab.put t k v

/-- A table with a key removed. -/
def Tab.erase {α : Type} : Tab α → Nat → Tab α
  | [], _ => []
  | (j, w) :: t, k => if j = k then t else if k < j then (j, w) :: t else (j, w) :: Tab.erase t k

/-- A table with one entry changed, from a default where it has none. -/
def Tab.modify {α : Type} (t : Tab α) (k : Nat) (d : α) (f : α → α) : Tab α := Tab.put t k (f (Tab.getD t k d))

/-- The entries of a table whose keys a test keeps. -/
def Tab.keep {α : Type} (t : Tab α) (f : Nat → Bool) : Tab α := t.filter (fun e => f e.1)

/-- Every value of a table changed by its key. -/
def Tab.mapAll {α : Type} (t : Tab α) (f : Nat → α → α) : Tab α := t.map (fun e => (e.1, f e.1 e.2))

/-- A value put into a list sorted by a measure, after its equals. -/
def insertBy {α : Type} (f : α → Nat) (x : α) : List α → List α
  | [] => [x]
  | y :: t => if f x < f y then x :: y :: t else y :: insertBy f x t

/-- A list sorted by a measure, equals in their order. -/
def sortBy {α : Type} (f : α → Nat) (l : List α) : List α := l.foldl (fun acc x => insertBy f x acc) []

/-- Keys rise strictly. -/
def Tab.sorted {α : Type} : Tab α → Bool
  | [] => true
  | [_] => true
  | (j, _) :: (k, w) :: t => decide (j < k) && Tab.sorted ((k, w) :: t)

/-! Memory: bytes by address, an unlisted address reading zero (R487; log entry 2). -/

/-- The byte an address reads as. -/
def Mem.read (m : List Host.Cell) (a : Nat) : Byte := Tab.getD m a 0

/-- Memory with one byte written: a zero byte is held by listing nothing. -/
def Mem.write (m : List Host.Cell) (a : Nat) (b : Byte) : List Host.Cell := if b = 0 then Tab.erase m a else Tab.put m a b

/-- Memory's one form: addresses strictly rising, no listed byte zero. -/
def Memory.wf (m : List Host.Cell) : Bool := Tab.sorted m && m.all (fun c => c.2 != 0)

/-- The n bytes from an address, lowest address least significant (R7). -/
def Mem.readLE (m : List Host.Cell) (a : Nat) : Nat → Nat
  | 0 => 0
  | n + 1 => (Mem.read m a).toNat + 256 * Mem.readLE m (a + 1) n

/-- n bytes written from an address, least significant first (R7). -/
def Mem.writeLE (m : List Host.Cell) (a : Nat) (v : Nat) : Nat → List Host.Cell
  | 0 => m
  | n + 1 => Mem.writeLE (Mem.write m a (BitVec.ofNat 8 v)) (a + 1) (v / 256) n

/-- The bytes of a line that a mask marks, written from an address. -/
def Mem.writeMasked (m : List Host.Cell) (a : Nat) (data mask : Nat) : Nat → List Host.Cell
  | 0 => m
  | n + 1 =>
    Mem.writeMasked (if mask % 2 = 1 then Mem.write m a (BitVec.ofNat 8 data) else m) (a + 1) (data / 256) (mask / 2) n

/-- Memory with every byte of a range zero. -/
def Mem.clear (m : List Host.Cell) (lo hi : Nat) : List Host.Cell := m.filter (fun c => !(decide (lo ≤ c.1) && decide (c.1 < hi)))

/-! Lines and fields. -/

/-- Bits [lo + w - 1 : lo] of a number. -/
def bitsOf (x lo w : Nat) : Nat := x >>> lo % 2 ^ w

/-- Whether bit i of a number is 1. -/
def bitAt (x i : Nat) : Bool := x.testBit i

/-- A number below 2^n with bits [lo + w - 1 : lo] replaced. -/
def withBits (x lo w v : Nat) : Nat := x - bitsOf x lo w * 2 ^ lo + v % 2 ^ w * 2 ^ lo

/-- A byte mask widened to bits: each mask bit fills its byte. -/
def wideMask (m : Nat) : Nat → Nat
  | 0 => 0
  | n + 1 => (if m % 2 = 1 then 255 else 0) + 256 * wideMask (m / 2) n

/-- A line with the masked bytes taken from another (R259). -/
def mergeLine (old new : LineData) (m : ByteMask) : LineData :=
  let w := BitVec.ofNat 1024 (wideMask m.toNat 128)
  (old &&& ~~~w) ||| (new &&& w)

/-- The mask of n bytes from offset o of a line. -/
def maskOf (o n : Nat) : ByteMask := BitVec.ofNat 128 ((2 ^ n - 1) * 2 ^ o)

/-- n bytes of a line from offset o, as a number. -/
def lineBytes (l : LineData) (o n : Nat) : Nat := bitsOf l.toNat (8 * o) (8 * n)

/-- A line with n bytes from offset o written. -/
def putLineBytes (l : LineData) (o n v : Nat) : LineData := mergeLine l (BitVec.ofNat 1024 (v % 2 ^ (8 * n) * 2 ^ (8 * o))) (maskOf o n)

/-- The whole mask. -/
def fullMask : ByteMask := BitVec.allOnes 128

/-- The set bits of a lane mask, lowest first. -/
def lanesOf (m : BitVec 32) : List Nat := (List.range 32).filter (fun i => m.getLsbD i)

/-- The lane mask of a list of lanes. -/
def lanesMask (l : List Nat) : BitVec 32 := l.foldl (fun m i => m ||| BitVec.ofNat 32 (2 ^ i)) 0

/-! Management registers. -/

/-- The reset value of the register at a management address, from its table (R10); the resets that depend on the index are
SPARE_SITE, FRET_TOKENS, the port number, slice 0's enables and the management slot. -/
def regReset (a : Nat) : W32 :=
  match placeOf a with
  | none => 0
  | some pl =>
    match findDesc pl.off (descsOf pl.kind) with
    | none => 0
    | some (d, i) =>
      if pl.kind = .census ∧ d.off = 0x100 then BitVec.ofNat 32 (d.reset + if i % 9 = 4 then 8 else 0)
      else if pl.kind = .rate ∧ d.off = 0 then BitVec.ofNat 32 (52 + 2 * i)
      else if pl.kind = .port ∧ d.off = 0 then BitVec.ofNat 32 (d.reset + pl.unit * 2 ^ 8)
      else if pl.kind = .port ∧ d.off = 0x1000 ∧ i = 0 then BitVec.ofNat 32 (2 ^ 31)
      else if pl.kind = .port ∧ d.off = 0x100C ∧ i = 0 then BitVec.ofNat 32 (1024 * 2 ^ 16)
      else if pl.kind = .course ∧ d.off = 0x400 ∧ i % 3 = 2 then 0x7FFFFFFF
      else BitVec.ofNat 32 d.reset

/-- The register at a management address as the state stores it. -/
def State.reg (s : State) (a : Nat) : W32 := Tab.getD s.regs a (regReset a)

/-- The state with a register stored. -/
def State.setReg (s : State) (a : Nat) (v : W32) : State := { s with regs := Tab.put s.regs a v }

/-- A field of a register. -/
def State.field (s : State) (a lo w : Nat) : Nat := bitsOf (s.reg a).toNat lo w

/-- The state with a field of a register stored. -/
def State.setField (s : State) (a lo w v : Nat) : State := s.setReg a (BitVec.ofNat 32 (withBits (s.reg a).toNat lo w v))

/-- The state with a status bit set by hardware (R11). -/
def State.setBit (s : State) (a i : Nat) : State := s.setField a i 1 1

/-- The state with a bit cleared by hardware. -/
def State.clearBit (s : State) (a i : Nat) : State := s.setField a i 1 0

/-- Whether a bit of a register is 1. -/
def State.bit (s : State) (a i : Nat) : Bool := s.field a i 1 = 1

/-- The unit that counts for a register, coded as DEST: the die whose block it lies in; the management die for the rest (R64, R65). -/
def recorder (a : Nat) : Nat :=
  if 0x20000000 ≤ a ∧ a < 0x26C00000 then (a - 0x20000000) / 0x100000
  else if 0x2000000 ≤ a ∧ a < 0x2800000 then 108 + (a - 0x2000000) / 0x100000
  else if 0x1000000 ≤ a ∧ a < 0x1200000 then 116 + (a - 0x1000000) / 0x100000
  else 118

/-- What a window counts for a register changed: in the running window, or in the next one when the replica of the unit that counts has
passed its end (R64, R65). -/
def State.tally (s : State) (a : Nat) (f : Nat → Nat) : State :=
  if (s.tb.replica + BitVec.ofInt 64 (Tab.getD s.tb.skew (recorder a) 0)).toNat / 1000000 ≤ s.tb.window then
    { s with accum := Tab.modify s.accum a 0 f }
  else { s with ahead := Tab.modify s.ahead a 0 f }

/-- A count added to what a window accumulates for a register (R65). -/
def State.count (s : State) (a n : Nat) : State := s.tally a (· + n)

/-- Energy charged to a PASID slice of a partition in the running window, in picojoules (R584). -/
def State.spend (s : State) (p sl pj : Nat) : State := s.count (Reg.sliceEnergy (64 * p + sl)) pj

/-- Where a partition's idle energy of the running window is counted, beyond every management address (R585). -/
def idleKey (p : Nat) : Nat := 2 ^ 41 + p

/-- Where the flits that a pair link sends again in the running window are counted, beyond every management address (R534, R559). -/
def replayKey (l : Nat) : Nat := 2 ^ 43 + l

/-- What a read of a low word will latch into the high word at an address (R68). -/
def State.setLatch (s : State) (a : Nat) (v : W32) : State := { s with latch := Tab.put s.latch a v }

/-- The high word at an address latched by a read of its low word (R68). -/
def State.latchHi (s : State) (hi : Nat) : State := s.setReg hi (Tab.getD s.latch hi 0)

/-- The value of a pair of registers of a PORT sub-block: the high word as it stands, and the low word as it stood when the high word was last
written, which is what makes the pair take effect (R422). -/
def State.pairValue (s : State) (lo hi : Nat) : Nat := (Tab.getD s.latch lo 0).toNat + (s.reg hi).toNat * 2 ^ 32

/-- Every register of a range of addresses back at its reset value. -/
def State.resetRegs (s : State) (lo hi : Nat) : State :=
  { s with regs := Tab.keep s.regs (fun a => !(decide (lo ≤ a) && decide (a < hi))),
           accum := Tab.keep s.accum (fun a => !(decide (lo ≤ a) && decide (a < hi))),
           ahead := Tab.keep s.ahead (fun a => !(decide (lo ≤ a) && decide (a < hi))),
           latch := Tab.keep s.latch (fun a => !(decide (lo ≤ a) && decide (a < hi))) }

/-- A fresh number, for values the spec leaves free. -/
def State.draw (s : State) : Nat × State := (s.fresh, { s with fresh := s.fresh + 1 })

/-- A fresh identifier of a request or of taken work. -/
def State.newId (s : State) : Nat × State := (s.ids, { s with ids := s.ids + 1 })

/-- The outcome of a command that only changes state. -/
def next (s : State) : Host.Outcome State Fault Refusal := .next s

/-! The layout. -/

/-- The active position of logical die d (R25). -/
def posSite (d : Nat) : Nat :=
  let k := d / 12
  9 * (3 * (k / 2) + d % 12 / 4) + (if k % 2 = 0 then d % 4 else 5 + d % 4)

/-- Row, column and band of a site (R17, R19). -/
def siteRow (s : Nat) : Nat := s / 9
def siteCol (s : Nat) : Nat := s % 9
def siteBand (s : Nat) : Nat := s / 27

/-- The sector of an active position (R19). -/
def sectorOfSite (s : Nat) : Nat := 2 * siteBand s + (if siteCol s < 4 then 0 else 1)

/-- The logical identifier of an active position (R25). -/
def dieOfPos (s : Nat) : Nat := 12 * sectorOfSite s + 4 * (siteRow s - 3 * siteBand s) + (if siteCol s < 4 then siteCol s else siteCol s - 5)

/-- STATE and LOGICAL_ID of SITE_STATE[s] (R31). -/
def State.siteState (s : State) (site : Nat) : Nat := s.field (Reg.siteState site) 0 3
def State.siteDie (s : State) (site : Nat) : Nat := s.field (Reg.siteState site) 4 7

/-- Whether a spare is powered down (R30, R562): the census of the start is done, and the spare is neither in use nor fenced out of use. Its
pass-through runs all the same (R357). -/
def State.poweredDown (s : State) (site : Nat) : Bool :=
  site % 9 == 4 && s.bit Reg.censusState 0 && s.siteState site != 1 && (Tab.get s.faults.fencedAs site).isNone

/-- Whether a site is in use as logical die d. -/
def State.siteIs (s : State) (d site : Nat) : Bool := s.siteState site == 1 && s.siteDie site == d

/-- The site in use as logical die d (R25, R34): its own position, else a spare of its band. -/
def State.siteOf (s : State) (d : Nat) : Option Nat :=
  let b := d / 24
  (posSite d :: [27 * b + 4, 27 * b + 13, 27 * b + 22]).find? (s.siteIs d)

/-- The fields of PART_LAYOUT, PART_STATE and the options of partition p (R461). -/
def State.partState (s : State) (p : Nat) : Nat := s.field (Reg.partState p) 0 3
def State.partK0 (s : State) (p : Nat) : Nat := s.field (Reg.partLayout p) 0 3
def State.partN (s : State) (p : Nat) : Nat := s.field (Reg.partLayout p) 4 4
def State.partPort (s : State) (p : Nat) : Nat := s.field (Reg.partLayout p) 8 3
def State.partSectors (s : State) (p : Nat) : Nat := s.field (Reg.partState p) 8 8
def State.deadHalt (s : State) (p : Nat) : Bool := s.bit (Reg.partOptions p) 0
def State.autoRestart (s : State) (p : Nat) : Bool := s.bit (Reg.partOptions p) 1
def State.poisoned (s : State) (p : Nat) : Bool := s.bit Reg.partPoison p
def State.keyState (s : State) (p : Nat) : Nat := s.field (Reg.keyState p) 0 2
def State.pairState (s : State) (p : Nat) : Nat := s.field (Reg.pairState p) 0 3

/-- The partition that holds sector k (R425, R461). -/
def State.partOfSector (s : State) (k : Nat) : Option Nat := (List.range 6).find? (fun p => bitAt (s.partSectors p) k)

/-- The partition that holds logical die d. -/
def State.partOfDie (s : State) (d : Nat) : Option Nat := s.partOfSector (d / 12)

/-- The logical dies of a partition (R25, R425). -/
def State.partDies (s : State) (p : Nat) : List Nat :=
  if s.partSectors p = 0 then [] else (List.range (12 * s.partN p)).map (· + 12 * s.partK0 p)

/-- The global arrays of a partition. -/
def State.partArrays (s : State) (p : Nat) : List Nat :=
  if s.partSectors p = 0 then [] else (List.range (96 * s.partN p)).map (· + 96 * s.partK0 p)

/-- The ARRAY block of a global array, where its die is in use. -/
def State.arrayBase (s : State) (ga : Nat) : Option Nat := (s.siteOf (ga / 8)).map (fun site => Base.array site (ga % 8))

/-- The SLICE block of a logical die, where it is in use. -/
def State.sliceBase (s : State) (d : Nat) : Option Nat := (s.siteOf d).map Base.slice

/-- A state change at an address that may not exist: nothing where it does not (R34). -/
def State.atBase (s : State) (b : Option Nat) (f : State → Nat → State) : State := match b with
  | none => s
  | some a => f s a

/-! Time. -/

/-- The timebase replica of a unit, coded as DEST (R58, R61). -/
def State.replica (s : State) (unit : Nat) : W64 := s.tb.replica + BitVec.ofInt 64 (Tab.getD s.tb.skew unit 0)

/-- The replica of logical die d; a die not in use has none and reads the common count. -/
def State.dieTime (s : State) (d : Nat) : W64 := match s.siteOf d with
  | some site => s.replica site
  | none => s.tb.replica

/-- The replica of the host-interface die of a port (R399). -/
def State.hidTime (s : State) (port : Nat) : W64 := s.replica (116 + port / 3)

/-- The replica of memory-interface die m. -/
def State.midTime (s : State) (m : Nat) : W64 := s.replica (108 + m)

/-! Faults. -/

/-- A unit coded under R509: a global array, a unit coded as DEST, a courier, or none. -/
def unitArray (ga : Nat) : W32 := BitVec.ofNat 32 ga
def unitDest (u : Nat) : W32 := BitVec.ofNat 32 (0x40000000 + u)
def unitCourier (c : Nat) : W32 := BitVec.ofNat 32 (0x80000000 + c)
def unitNone : W32 := 0xC0000000

/-- The class of a fault code (R501); DEAD_READ and MEMORY_POISON as their unconditional rows. -/
def faultClass (code : Nat) : Nat :=
  if code ∈ [0x010B, 0x010D, 0x0201, 0x0301, 0x0302, 0x0303, 0x0401, 0x0406, 0x0501, 0x0504, 0x0801, 0x0802, 0x0901] then 0
  else if code ∈ [0x0202, 0x0206, 0x0402, 0x0403, 0x0404, 0x0407, 0x0408, 0x0502, 0x0503, 0x0803, 0x0902] then 1
  else if code ∈ [0x0205, 0x0305, 0x0409, 0x040A, 0x0505, 0x0701, 0x0702, 0x0703] then 3
  else if code ∈ [0x0804, 0x0903] then 4
  else 2

/-- A fault record with nothing affected: the caller fills in the rest. -/
def FaultRec.plain (code : Nat) (unit : W32) (time : W64) (part : Option Nat) : FaultRec :=
  { code := code, cls := faultClass code, unit := unit, time := time, part := part, slice := 0xFFFF, mailbag := 0xFFFF, seq := 0,
    addr := 0, detail := [], extra := [], toAll := false, rings := [] }

/-- The site whose DIE_FAULT block a fault's unit belongs to (R530). -/
def State.faultSite (s : State) (unit : W32) : Option Nat :=
  let u := unit.toNat
  if u < 768 then s.siteOf (u / 8)
  else if 0x40000000 ≤ u ∧ u < 0x4000006C then some (u - 0x40000000)
  else if 0x80000300 ≤ u ∧ u < 0x80000480 then s.siteOf ((u - 0x80000300) / 4)
  else none

/-- What a partition holds before anything is set up. -/
def Part.reset : Part :=
  { farCaps := [], pigeonholes := [], phWanted := [], fatal := none, takeSeq := 0, startSeq := 0, dissolveAfter := false,
    phase := [], sliceCtl := 0xE, restartFrom := 0, joining := [] }

/-- A partition's working state. -/
def State.part (s : State) (p : Nat) : Part := Tab.getD s.parts p Part.reset
def State.setPart (s : State) (p : Nat) (x : Part) : State := { s with parts := Tab.put s.parts p x }

/-- Raising a fault (R500, R503, R513, R530): the sticky records of its die and of the FAULT block, its record put up for delivery,
and, for a fault fatal to a partition, the partition's first fatal fault remembered until the partition stops or fails over. -/
def State.raise (s : State) (r : FaultRec) : State :=
  let s := s.atBase (s.faultSite r.unit) (fun s site =>
    let clear := s.field (Reg.dfStatus site) 0 4 = 0
    let s := if clear then s.setReg (Reg.dfFirst site) (BitVec.ofNat 32 (r.code + r.cls * 2 ^ 16)) else s
    let s := if r.cls < 4 then s.setBit (Reg.dfStatus site) r.cls else s
    if r.cls < 4 then s.count (Reg.dfCount site r.cls) 1 else s)
  let s := if r.cls = 4 then s.setBit Reg.fltStatus 0 else if r.cls = 3 then s.setBit Reg.fltStatus 1 else s
  let hit := if r.cls = 4 then List.range 6 else if r.cls = 3 then r.part.toList else []
  let s := hit.foldl (fun s p =>
    let x := s.part p
    if s.partState p = 0 then s else match x.fatal with
      | some _ => s
      | none => s.setPart p { x with fatal := some (BitVec.ofNat 32 (r.code + r.cls * 2 ^ 16), r.unit) }) s
  { s with faults := { s.faults with undelivered := s.faults.undelivered ++ [r] } }

/-- Whether the management die is lost, which only a panel reset ends (R524). -/
def State.mgdLost (s : State) : Bool := s.deadUnits.contains 118

/-! Start steps (R596). -/

/-- Whether start step i is done. -/
def State.stepDone (s : State) (i : Nat) : Bool := s.bit Reg.startState i

/-- Whether start step i can be done now: start is under way, the steps it follows are done, and it is not. -/
def State.stepOpen (s : State) (i : Nat) (follows : List Nat) : Bool := s.shell.starting && !s.stepDone i && follows.all s.stepDone

/-- Start step i done, with its time in milliseconds (R620). -/
def State.doStep (s : State) (i : Nat) : State := (s.setBit Reg.startState i).setReg (Reg.startTime i) (BitVec.ofNat 32 (s.tb.master.toNat / 1000000))

/-! Retirements (R23, R512). -/

/-- Every cell and die retired: in RETIRE, beyond its 64 entries, or in the log. -/
def State.retired (s : State) : List Retire := s.faults.retire ++ s.faults.unlogged ++ s.faults.logged

/-- A cell or die retired: entered in RETIRE, or, when that is full, in force without an entry, with RETIRE_FULL set. -/
def State.retire (s : State) (r : Retire) : State :=
  if s.retired.contains r then s
  else if s.faults.retire.length < 64 then { s with faults := { s.faults with retire := s.faults.retire ++ [r] } }
  else
    let s := s.setBit Reg.fltStatus 3
    { s with faults := { s.faults with unlogged := s.faults.unlogged ++ [r] } }

/-- Whether two of a die's quarters hold two or more retired cells (R521). -/
def State.dieWorn (s : State) (site : Nat) : Bool :=
  let cells := (s.retired.filter (fun r => r.cell && r.site == site)).map (·.number)
  decide (2 ≤ ((List.range 32).filter (fun q => decide (2 ≤ (cells.filter (fun c => c / 4 == q)).length))).length)

/-- A die's retirement recorded (R512, R521): its place in the panel changes at the next census. -/
def State.recordDie (s : State) (site : Nat) : State := s.retire { cell := false, site := site, number := 0 }

/-- The retirement of a die whose cells were retired, recorded where the limit is met. -/
def State.recordWorn (s : State) (site : Nat) : State := if s.dieWorn site then s.recordDie site else s

/-- Whether cell k of a quarter of a global array is retired. -/
def State.cellRetired (s : State) (ga q k : Nat) : Bool := match s.siteOf (ga / 8) with
  | none => false
  | some site => s.retired.any (fun r => r.cell && r.site == site && r.number == 16 * (ga % 8) + 4 * q + k)

end Sys2Proof.Machine
end

