-- ==== Sys2Proof/Machine/Flags.lean ====
section
/-! DEFINITION. Number formats, rounding and floating-point flags (R138 to R140, R166 to R171, R209 to R211): a value is decoded to an
exact binary fraction, computed exactly, and rounded once. -/

namespace Sys2Proof.Machine

/-! Formats. -/

/-- A floating-point format (R166): bits of exponent and significand, bias, whether it has infinities, its canonical NaN if any, and
its largest finite encoding. -/
structure Fmt where
  ebits : Nat
  mbits : Nat
  bias : Nat
  hasInf : Bool
  nan : Option Nat
  maxFinite : Nat
  deriving DecidableEq, Repr

def fp32 : Fmt := ⟨8, 23, 127, true, some 0x7FC00000, 0x7F7FFFFF⟩
def bf16 : Fmt := ⟨8, 7, 127, true, some 0x7FC0, 0x7F7F⟩
def fp16 : Fmt := ⟨5, 10, 15, true, some 0x7E00, 0x7BFF⟩
def e4m3 : Fmt := ⟨4, 3, 7, false, some 0x7F, 0x7E⟩
def e5m2 : Fmt := ⟨5, 2, 15, true, some 0x7E, 0x7B⟩
def e3m2 : Fmt := ⟨3, 2, 3, false, none, 0x1F⟩
def e2m3 : Fmt := ⟨2, 3, 1, false, none, 0x1F⟩
def e2m1 : Fmt := ⟨2, 1, 1, false, none, 0x7⟩

/-- Bits of an encoding, and its sign bit. -/
def Fmt.width (f : Fmt) : Nat := 1 + f.ebits + f.mbits
def Fmt.signBit (f : Fmt) : Nat := 2 ^ (f.ebits + f.mbits)

/-- The exponent of the least subnormal: 1 − b − M (R167). -/
def Fmt.qmin (f : Fmt) : Int := 1 - (f.bias : Int) - (f.mbits : Int)

/-- A decoded element: a NaN (signalling or not), an infinity, or (−1)^neg × m × 2^e. -/
inductive FVal where
  | nan (signalling : Bool)
  | inf (neg : Bool)
  | num (neg : Bool) (m : Nat) (e : Int)
  deriving DecidableEq, Repr

/-- Decoding an element (R166, R167). In E4M3 only S.1111.111 is NaN; E3M2, E2M3 and E2M1 have no special encoding. -/
def Fmt.decode (f : Fmt) (x : Nat) : FVal :=
  let neg := bitAt x (f.ebits + f.mbits)
  let e := bitsOf x f.mbits f.ebits
  let m := bitsOf x 0 f.mbits
  if f.hasInf ∧ e = 2 ^ f.ebits - 1 then (if m = 0 then .inf neg else .nan (!bitAt m (f.mbits - 1)))
  else if !f.hasInf ∧ f.nan.isSome ∧ e = 2 ^ f.ebits - 1 ∧ m = 2 ^ f.mbits - 1 then .nan false
  else if e = 0 then .num neg m f.qmin
  else .num neg (2 ^ f.mbits + m) (f.qmin + (e : Int) - 1)

/-- Reading an element with FTZ: a subnormal is a zero of its sign (R138). -/
def Fmt.decodeFtz (f : Fmt) (ftz : Bool) (x : Nat) : FVal :=
  match f.decode x with
  | .num neg m e => if ftz ∧ m < 2 ^ f.mbits ∧ e = f.qmin then .num neg 0 f.qmin else .num neg m e
  | v => v

/-- The value of an E8M0 scale: its exponent, or NaN (R169). -/
def e8m0 (x : Nat) : Option Int := if x % 256 = 255 then none else some ((x % 256 : Nat) - 127 : Int)

/-! Rounding. -/

/-- The flags of R139: bit 0 INVALID, 1 DIVZERO, 2 OVERFLOW, 3 UNDERFLOW, 4 INEXACT. -/
abbrev FFlags := BitVec 5
def fInvalid : FFlags := 1
def fDivzero : FFlags := 2
def fOverflow : FFlags := 4
def fUnderflow : FFlags := 8
def fInexact : FFlags := 16

/-- The place of the most significant bit of a non-zero number. -/
def msb (m : Nat) : Nat := Nat.log2 m

/-- Whether a discarded part moves the magnitude away from zero, by rounding mode: 0 nearest even, 1 toward zero, 2 toward −∞,
3 toward +∞. -/
def roundsUp (mode : Nat) (neg odd : Bool) (r half : Nat) (sticky : Bool) : Bool :=
  match mode with
  | 0 => decide (half < r) || (r == half && (sticky || odd))
  | 1 => false
  | 2 => neg && (r != 0 || sticky)
  | _ => !neg && (r != 0 || sticky)

/-- m × 2^e, and a little more when sticky, rounded to a multiple of 2^q: the multiple, and whether the value was not one. A sticky
value comes with bits to spare below 2^q. -/
def roundAt (mode : Nat) (neg : Bool) (m : Nat) (e : Int) (sticky : Bool) (q : Int) : Nat × Bool :=
  if q ≤ e then (m <<< (e - q).toNat, sticky)
  else
    let k := (q - e).toNat
    let n := m >>> k
    let r := m % 2 ^ k
    (if roundsUp mode neg (n % 2 = 1) r (2 ^ (k - 1)) sticky then n + 1 else n, r != 0 || sticky)

/-- What rounding gives: the encoding without its sign, whether it is inexact, tiny (after rounding, R138), or beyond the largest
finite value. -/
structure Rounded where
  bits : Nat
  inexact : Bool
  tiny : Bool
  tooBig : Bool
  deriving DecidableEq, Repr

/-- Rounding a magnitude m × 2^e to a format (R138): its encoding as if there were no largest finite value. -/
def Fmt.round (f : Fmt) (mode : Nat) (neg : Bool) (m : Nat) (e : Int) (sticky : Bool) : Rounded :=
  if m = 0 then { bits := 0, inexact := sticky, tiny := sticky, tooBig := false }
  else
    let top : Int := msb m + e
    let q := max (top - f.mbits) f.qmin
    let r := roundAt mode neg m e sticky q
    let u := roundAt mode neg m e sticky (top - f.mbits)
    let tiny := decide ((msb u.1 : Int) + (top - f.mbits) < f.qmin + f.mbits)
    let bits := (q - f.qmin).toNat * 2 ^ f.mbits + r.1
    { bits := bits, inexact := r.2, tiny := tiny, tooBig := decide (f.maxFinite < bits) }

/-- Whether overflow of a sign gives the infinity rather than the largest finite value (R138). -/
def overflowsToInf (mode : Nat) (neg : Bool) : Bool := mode == 0 || (mode == 2 && neg) || (mode == 3 && !neg)

/-- The infinity of a format, or its largest finite value where it has none. -/
def Fmt.infBits (f : Fmt) : Nat := if f.hasInf then (2 ^ f.ebits - 1) * 2 ^ f.mbits else f.maxFinite

/-- A signed encoding. -/
def Fmt.signed (f : Fmt) (neg : Bool) (bits : Nat) : Nat := if neg then f.signBit + bits else bits

/-- A rounded result and its flags (R138, R139): overflow saturates when asked or when the format has no infinity; FTZ flushes every
tiny result. -/
def Fmt.finish (f : Fmt) (mode : Nat) (ftz sat lost : Bool) (neg : Bool) (r : Rounded) : Nat × FFlags :=
  if r.tooBig then
    (f.signed neg (if !sat && overflowsToInf mode neg then f.infBits else f.maxFinite), fOverflow ||| fInexact)
  else if ftz && r.tiny then (f.signed neg 0, fUnderflow ||| fInexact)
  else
    let inexact := r.inexact || lost
    (f.signed neg r.bits, (if inexact then fInexact else 0) ||| (if r.tiny && inexact then fUnderflow else 0))

/-- An exact value rounded to a format under R138. -/
def Fmt.encode (f : Fmt) (mode : Nat) (ftz : Bool) (neg : Bool) (m : Nat) (e : Int) (sticky : Bool) : Nat × FFlags :=
  if m = 0 ∧ !sticky then (f.signed neg 0, 0) else f.finish mode ftz false false neg (f.round mode neg m e sticky)

/-- The canonical NaN of a format; +0 where it has none. -/
def Fmt.nanBits (f : Fmt) : Nat := f.nan.getD 0

/-! IEEE 754 operations (R138). -/

/-- Whether a value is a NaN, a signalling one. -/
def FVal.isNan : FVal → Bool
  | .nan _ => true
  | _ => false
def FVal.isSignalling : FVal → Bool
  | .nan s => s
  | _ => false

/-- The flag of signalling operands (R139). -/
def sigFlags (vs : List FVal) : FFlags := if vs.any FVal.isSignalling then fInvalid else 0

/-- A value with its sign changed. -/
def FVal.negate : FVal → FVal
  | .nan s => .nan s
  | .inf n => .inf (!n)
  | .num n m e => .num (!n) m e

/-- A signed magnitude as an integer at exponent q, q being no greater than its own. -/
def atExp (neg : Bool) (m : Nat) (e q : Int) : Int :=
  let x : Int := m <<< (e - q).toNat
  if neg then -x else x

/-- The sum of two finite values: sign, magnitude and exponent; an exact zero takes the sign of R138 and IEEE 754. -/
def addNum (mode : Nat) (n1 : Bool) (m1 : Nat) (e1 : Int) (n2 : Bool) (m2 : Nat) (e2 : Int) : Bool × Nat × Int :=
  let q := min e1 e2
  let x := atExp n1 m1 e1 q + atExp n2 m2 e2 q
  if x = 0 then (if m1 = 0 ∧ m2 = 0 ∧ n1 = n2 then n1 else mode == 2, 0, q)
  else (decide (x < 0), x.natAbs, q)

/-- Addition. -/
def Fmt.add (f : Fmt) (mode : Nat) (ftz : Bool) (x y : FVal) : Nat × FFlags :=
  match x, y with
  | .nan _, _ => (f.nanBits, sigFlags [x, y])
  | _, .nan _ => (f.nanBits, sigFlags [x, y])
  | .inf a, .inf b => if a = b then (f.signed a f.infBits, 0) else (f.nanBits, fInvalid)
  | .inf a, _ => (f.signed a f.infBits, 0)
  | _, .inf b => (f.signed b f.infBits, 0)
  | .num n1 m1 e1, .num n2 m2 e2 =>
    let r := addNum mode n1 m1 e1 n2 m2 e2
    f.encode mode ftz r.1 r.2.1 r.2.2 false

/-- Multiplication. -/
def Fmt.mul (f : Fmt) (mode : Nat) (ftz : Bool) (x y : FVal) : Nat × FFlags :=
  match x, y with
  | .nan _, _ => (f.nanBits, sigFlags [x, y])
  | _, .nan _ => (f.nanBits, sigFlags [x, y])
  | .inf a, .inf b => (f.signed (a != b) f.infBits, 0)
  | .inf a, .num b m _ => if m = 0 then (f.nanBits, fInvalid) else (f.signed (a != b) f.infBits, 0)
  | .num a m _, .inf b => if m = 0 then (f.nanBits, fInvalid) else (f.signed (a != b) f.infBits, 0)
  | .num n1 m1 e1, .num n2 m2 e2 => f.encode mode ftz (n1 != n2) (m1 * m2) (e1 + e2) false

/-- Whether a product is ∞ × 0. -/
def infTimesZero (x y : FVal) : Bool :=
  match x, y with
  | .inf _, .num _ 0 _ => true
  | .num _ 0 _, .inf _ => true
  | _, _ => false

/-- Fused multiply-add, rounded once. -/
def Fmt.fma (f : Fmt) (mode : Nat) (ftz : Bool) (x y z : FVal) : Nat × FFlags :=
  if x.isNan || y.isNan || z.isNan then
    (f.nanBits, sigFlags [x, y, z] ||| (if infTimesZero x y && Config.fmaQuietInvalid then fInvalid else 0))
  else if infTimesZero x y then (f.nanBits, fInvalid)
  else
    match x, y, z with
    | .num n1 m1 e1, .num n2 m2 e2, .num n3 m3 e3 =>
      let r := addNum mode (n1 != n2) (m1 * m2) (e1 + e2) n3 m3 e3
      f.encode mode ftz r.1 r.2.1 r.2.2 false
    | .num _ _ _, .num _ _ _, .inf c => (f.signed c f.infBits, 0)
    | .inf a, .inf b, .inf c => if (a != b) = c then (f.signed c f.infBits, 0) else (f.nanBits, fInvalid)
    | .inf a, .num b _ _, .inf c => if (a != b) = c then (f.signed c f.infBits, 0) else (f.nanBits, fInvalid)
    | .num a _ _, .inf b, .inf c => if (a != b) = c then (f.signed c f.infBits, 0) else (f.nanBits, fInvalid)
    | .inf a, .inf b, _ => (f.signed (a != b) f.infBits, 0)
    | .inf a, .num b _ _, _ => (f.signed (a != b) f.infBits, 0)
    | .num a _ _, .inf b, _ => (f.signed (a != b) f.infBits, 0)
    | _, _, _ => (f.nanBits, 0)

/-- How two non-NaN values compare: −1, 0 or 1, a zero of either sign being equal. -/
def cmpNum (x y : FVal) : Int :=
  match x, y with
  | .inf a, .inf b => if a = b then 0 else if a then -1 else 1
  | .inf a, _ => if a then -1 else 1
  | _, .inf b => if b then 1 else -1
  | .num n1 m1 e1, .num n2 m2 e2 =>
    let q := min e1 e2
    let d := atExp n1 m1 e1 q - atExp n2 m2 e2 q
    if d < 0 then -1 else if d = 0 then 0 else 1
  | _, _ => 0

/-- The sign of a value. -/
def FVal.neg : FVal → Bool
  | .nan _ => false
  | .inf n => n
  | .num n _ _ => n

/-- Whether a value orders below another for min and max: −0 below +0. -/
def below (x y : FVal) : Bool :=
  let c := cmpNum x y
  c == -1 || (c == 0 && x.neg && !y.neg)

/-- The encoding of a value that is in the format. -/
def Fmt.encodeExact (f : Fmt) (v : FVal) : Nat :=
  match v with
  | .nan _ => f.nanBits
  | .inf n => f.signed n f.infBits
  | .num n m e => (f.encode 0 false n m e false).1

/-- Minimum or maximum: the non-NaN operand when exactly one is NaN. -/
def Fmt.minMax (f : Fmt) (isMax : Bool) (x y : FVal) : Nat × FFlags :=
  let v := if x.isNan then y else if y.isNan then x else if isMax then (if below x y then y else x) else (if below y x then y else x)
  (f.encodeExact v, sigFlags [x, y])

/-- Reciprocal, correctly rounded. -/
def Fmt.rcp (f : Fmt) (mode : Nat) (ftz : Bool) (x : FVal) : Nat × FFlags :=
  match x with
  | .nan s => (f.nanBits, if s then fInvalid else 0)
  | .inf n => (f.signed n 0, 0)
  | .num n m e =>
    if m = 0 then (f.signed n f.infBits, fDivzero)
    else
      let k := msb m + 2 * f.mbits + 8
      f.encode mode ftz n (2 ^ k / m) (-(k : Int) - e) (2 ^ k % m != 0)

/-- One bit of an integer square root: the largest r' = r or r + 2^k with r'^2 at most n. -/
def sqrtBit (n r k : Nat) : Nat := if (r + 2 ^ k) * (r + 2 ^ k) ≤ n then r + 2 ^ k else r

/-- The integer square root of a number below 2^(2k), from its top bit down. -/
def isqrt (n : Nat) : Nat → Nat → Nat
  | 0, r => r
  | k + 1, r => isqrt n k (sqrtBit n r k)

/-- Square root of a number. -/
def natSqrt (n : Nat) : Nat := isqrt n (msb n / 2 + 1) 0

/-- Square root, correctly rounded. -/
def Fmt.sqrt (f : Fmt) (mode : Nat) (ftz : Bool) (x : FVal) : Nat × FFlags :=
  match x with
  | .nan s => (f.nanBits, if s then fInvalid else 0)
  | .inf n => if n then (f.nanBits, fInvalid) else (f.infBits, 0)
  | .num n m e =>
    if m = 0 then (f.signed n 0, 0)
    else if n then (f.nanBits, fInvalid)
    else
      let k := 2 * (f.mbits + 4) + (e.emod 2).toNat
      let y := m <<< k
      let r := natSqrt y
      f.encode mode ftz false r ((e - k) / 2) (r * r != y)

/-! The approximate functions (R140): the reference value, cut toward zero, moved by a free number of units in the last place that the
stated accuracy allows (log entry 3). -/

/-- Where the result of a function accurate to one unit lies against the truncated reference. -/
def offset1 (exact : Bool) (k : Nat) : Int := if exact then (k : Int) - 1 else if k = 1 then 1 else 0

/-- Where the result of a function accurate to two units lies against the truncated reference. -/
def offset2 (exact : Bool) (k : Nat) : Int := if exact then (k : Int) - 2 else if k = 4 then 0 else (k : Int) - 1

/-- An approximate FP32 result from the truncated reference m × 2^e, which is exact unless sticky. -/
def approxResult (mode : Nat) (ftz neg : Bool) (m : Nat) (e : Int) (sticky : Bool) (off : Bool → Int) : Nat × FFlags :=
  let r := fp32.round 1 neg m e sticky
  if r.tooBig then fp32.finish mode ftz false false neg r
  else
    let bits := ((r.bits : Int) + off (!r.inexact)).toNat
    let inexact := r.inexact || bits != r.bits
    if fp32.maxFinite < bits then fp32.finish mode ftz false false neg { r with tooBig := true }
    else
      let tiny := decide (bits < 2 ^ 23) && (bits != 0 || inexact)
      if ftz && tiny then (fp32.signed neg 0, fUnderflow ||| fInexact)
      else (fp32.signed neg bits, (if inexact then fInexact else 0) ||| (if tiny && inexact then fUnderflow else 0))

/-- rsqrt.f32. -/
def rsqrtF (mode : Nat) (ftz : Bool) (raw : Nat) : Nat × FFlags :=
  match fp32.decodeFtz ftz raw with
  | .nan s => (fp32.nanBits, if s then fInvalid else 0)
  | .inf n => if n then (fp32.nanBits, fInvalid) else (0, 0)
  | .num n m e =>
    if m = 0 then (fp32.signed n fp32.infBits, fDivzero)
    else if n then (fp32.nanBits, fInvalid)
    else
      let k := 100 + (e.emod 2).toNat
      let y := 2 ^ (2 * k) / (m <<< (e.emod 2).toNat)
      let r := natSqrt y
      let exact := r * r * (m <<< (e.emod 2).toNat) == 2 ^ (2 * k)
      approxResult mode ftz false r (-(k : Int) - (e - e.emod 2) / 2) (!exact)
        (fun ex => offset1 ex (Config.rsqrtUlp (BitVec.ofNat 32 raw)).val)

/-- Fraction bits of the fixed-point values used for the reference of ex2 and lg2. -/
def fixBits : Nat := 256

/-- 2^(2^−k) for k = 1, 2, … as fixed-point numbers, cut toward zero: each the square root of the one before. -/
def exp2Roots : Nat → Nat → List Nat
  | 0, _ => []
  | n + 1, c =>
    let r := natSqrt (c * 2 ^ fixBits)
    r :: exp2Roots n r

/-- 2^f for a fraction given by its bits after the point, most significant first. -/
def exp2Frac : List Nat → List Bool → Nat → Nat
  | c :: cs, b :: bs, acc => exp2Frac cs bs (if b then acc * c / 2 ^ fixBits else acc)
  | _, _, acc => acc

/-- ex2.f32. -/
def ex2F (mode : Nat) (ftz : Bool) (raw : Nat) : Nat × FFlags :=
  match fp32.decodeFtz ftz raw with
  | .nan s => (fp32.nanBits, if s then fInvalid else 0)
  | .inf n => (if n then 0 else fp32.infBits, 0)
  | .num n m e =>
    let off := fun ex => offset2 ex (Config.ex2Ulp (BitVec.ofNat 32 raw)).val
    if m = 0 then approxResult mode ftz false 1 0 false off
    else if 8 < (msb m : Int) + e then approxResult mode ftz false 1 (if n then -200 else 200) true off
    else
      let x := atExp n m (e + 160) 0
      let i := x / 2 ^ 160
      let f := (x - i * 2 ^ 160).toNat
      let y := exp2Frac (exp2Roots 160 (2 ^ (fixBits + 1))) ((List.range 160).map (fun j => bitAt f (159 - j))) (2 ^ fixBits)
      approxResult mode ftz false y (i - fixBits) (f != 0) off

/-- n bits of a logarithm's fraction by repeated squaring of y, a fixed-point number from 1 up to 2. -/
def lg2Frac : Nat → Nat → Nat → Nat
  | 0, _, acc => acc
  | n + 1, y, acc =>
    let z := y * y / 2 ^ fixBits
    if 2 ^ (fixBits + 1) ≤ z then lg2Frac n (z / 2) (2 * acc + 1) else lg2Frac n z (2 * acc)

/-- lg2.f32. -/
def lg2F (mode : Nat) (ftz : Bool) (raw : Nat) : Nat × FFlags :=
  match fp32.decodeFtz ftz raw with
  | .nan s => (fp32.nanBits, if s then fInvalid else 0)
  | .inf n => if n then (fp32.nanBits, fInvalid) else (fp32.infBits, 0)
  | .num n m e =>
    if m = 0 then (fp32.signed true fp32.infBits, fDivzero)
    else if n then (fp32.nanBits, fInvalid)
    else
      let off := fun ex => offset2 ex (Config.lg2Ulp (BitVec.ofNat 32 raw)).val
      let k := msb m
      let i : Int := k + e
      let f := lg2Frac 100 (m <<< (fixBits - k)) 0
      let x := i * 2 ^ 100 + f
      let exact := m == 2 ^ k
      if x = 0 then approxResult mode ftz false 0 0 (!exact) off
      else approxResult mode ftz (decide (x < 0)) x.natAbs (-100) (!exact) off

/-! Comparison and sign operations. -/

/-- A comparison by its AUX code (R673): eq, ne, lt, le, gt, ge of an ordering. -/
def cmpCode (aux : Nat) (c : Int) : Bool :=
  match aux with
  | 0 => c == 0
  | 1 => c != 0
  | 2 => decide (c < 0)
  | 3 => decide (c ≤ 0)
  | 4 => decide (0 < c)
  | _ => decide (0 ≤ c)

/-- setp.f32: the quiet predicates (R138). -/
def setpF (aux : Nat) (x y : FVal) : Bool × FFlags :=
  (if x.isNan || y.isNan then aux == 1 else cmpCode aux (cmpNum x y), sigFlags [x, y])

/-! Conversions to integers. -/

/-- A value rounded to an integer in a mode: the integer, and whether it differs from the value. -/
def roundInt (mode : Nat) (neg : Bool) (m : Nat) (e : Int) : Int × Bool :=
  let r := roundAt mode neg m e false 0
  (if neg then -(r.1 : Int) else r.1, r.2)

/-- Least and greatest value of an integer type. -/
def intMin (width : Nat) (signed : Bool) : Int := if signed then -(2 ^ (width - 1) : Nat) else 0
def intMax (width : Nat) (signed : Bool) : Int := if signed then (2 ^ (width - 1) : Nat) - 1 else (2 ^ width : Nat) - 1

/-- An integer as the bits of a type of a width. -/
def wrapInt (width : Nat) (x : Int) : Nat := (x.emod (2 ^ width : Nat)).toNat

/-- The integer that bits of a width stand for. -/
def readInt (width : Nat) (signed : Bool) (x : Nat) : Int :=
  let y := x % 2 ^ width
  if signed ∧ 2 ^ (width - 1) ≤ y then (y : Int) - (2 ^ width : Nat) else y

/-- A floating-point value converted to an integer type (R674). -/
def toInt (mode width : Nat) (signed : Bool) (v : FVal) : Nat × FFlags :=
  match v with
  | .nan _ => (0, fInvalid)
  | .inf n => (wrapInt width (if n then intMin width signed else intMax width signed), fInvalid)
  | .num n m e =>
    let r := roundInt mode n m e
    if r.1 < intMin width signed then (wrapInt width (intMin width signed), fInvalid)
    else if intMax width signed < r.1 then (wrapInt width (intMax width signed), fInvalid)
    else (wrapInt width r.1, if r.2 then fInexact else 0)

/-! Stochastic rounding. -/

/-- The generator of R210: rounds left, x and k. -/
def srRounds : Nat → Nat → Nat → Nat
  | 0, x, _ => x
  | n + 1, x, k =>
    let x := (x + k) % 2 ^ 64
    let x := x ^^^ (x >>> 31)
    let x := x * 0xA3B195C47D2E6F0B % 2 ^ 64
    let x := x ^^^ (x >>> 29)
    srRounds n x ((k + 0x5C3F1E87B9D40A2D) % 2 ^ 64)

/-- The 32-bit word drawn for an element (R210). -/
def srWord (seed tensor x : Nat) : Nat := srRounds 4 x (seed ^^^ (tensor * 0x9B7E4C15D3A28E61 % 2 ^ 64)) >>> 32

/-- Stochastic rounding of a magnitude m × 2^e that does not overflow under rounding to nearest even (R211): the encoding and whether
it is inexact. -/
def Fmt.roundStochastic (f : Fmt) (m : Nat) (e : Int) (r : Nat) : Nat × Bool :=
  if m = 0 then (0, false)
  else
    let q := max ((msb m : Int) + e - f.mbits) f.qmin
    if q ≤ e then ((f.round 1 false m e false).bits, false)
    else
      let k := (q - e).toNat
      let a := (q - f.qmin).toNat * 2 ^ f.mbits + (m >>> k)
      let rest := m % 2 ^ k
      if rest = 0 then (a, false)
      else if f.maxFinite < a + 1 then (a, true)
      else (if r < rest * 2 ^ 32 / 2 ^ k then a + 1 else a, true)

end Sys2Proof.Machine
end

