-- ==== Sys2Proof/Machine/Groups.lean ====
section
/-! DEFINITION. Arrays, blocks, groups and subgroups: who issues, splits, merges, waits, barriers, halts and retirement
(R71 to R122, R145, R675). -/

namespace Sys2Proof.Machine

/-- An array after invalidation and scrub: nothing resident (R71, R124). -/
def Arr.reset : Arr :=
  { lsBanks := 0, reconfig := none, blocks := [], groups := [], pointers := [], tiles := [], staged := [], localMem := [], l1 := [],
    l1Miss := [], sideBuf := [], sidePend := [], unacked := [], acqEpoch := 0, icache := [], lastCode := 0,
    lastGen := 0, phaseKernel := 0, phaseValue := 0, phaseSteps := 0, phaseEnergy := 0, steps := 0, pos := 0, busy := [], bankBusy := [], path := [], mismatches := [] }

/-- A global array. -/
def State.arr (s : State) (ga : Nat) : Arr := Tab.getD s.arrs ga Arr.reset
def State.setArr (s : State) (ga : Nat) (x : Arr) : State := { s with arrs := Tab.put s.arrs ga x }

/-- A group of an array, and a block of it. -/
def State.group (s : State) (ga slot : Nat) : Option Group := Tab.get (s.arr ga).groups slot
def State.setGroup (s : State) (ga slot : Nat) (x : Group) : State :=
  let a := s.arr ga
  s.setArr ga { a with groups := Tab.put a.groups slot x }
def State.block (s : State) (ga b : Nat) : Option Block := Tab.get (s.arr ga).blocks b
def State.setBlock (s : State) (ga b : Nat) (x : Block) : State :=
  let a := s.arr ga
  s.setArr ga { a with blocks := Tab.put a.blocks b x }

/-- Lanes of a group that are neither exited nor absent (SR_LIVE of R129). -/
def Group.live (g : Group) : BitVec 32 := ~~~(g.exited ||| g.absent)

/-- The lowest lane of a mask; 32 when it is empty. -/
def lowLane (m : BitVec 32) : Nat := (lanesOf m).headD 32

/-- The threads of a block that have exited, as a set of thread numbers (R109). -/
def exitedThreads (a : Arr) (b : Nat) : Nat :=
  a.groups.foldl (fun acc e => if e.2.block = b then acc ||| ((e.2.exited &&& ~~~e.2.absent).toNat <<< (32 * e.2.index)) else acc) 0

/-- Groups per block: G of R74. -/
def groupsFor (t : Nat) : Nat := (t + 31) / 32

/-! Issuing subgroup. -/

/-- Whether a subgroup may issue at all: not stopped, no release or fence of its own in progress, and not waiting, except at a
collective once the whole group stands there (R88, R105). -/
def Sub.canIssue (g : Group) (u : Sub) : Bool :=
  !u.stopped && u.orders.isEmpty && (u.wait == .running || (u.wait == .collective && u.lanes == g.live))

/-- The subgroups in rotation order: ascending lowest thread, starting after the current one and ending with it (R97). -/
def Group.rotation (g : Group) : List Sub :=
  let c := lowLane g.cur
  let asc := (List.range 32).filterMap (fun i => g.subs.find? (fun u => lowLane u.lanes = i))
  asc.filter (fun u => decide (c < lowLane u.lanes)) ++ asc.filter (fun u => decide (lowLane u.lanes ≤ c))

/-- The subgroup the group issues from, among those a test accepts (R96, R97). -/
def Group.issuing (g : Group) (ok : Sub → Bool) : Option Sub :=
  if g.isOpen then g.rotation.find? (fun u => Sub.canIssue g u && ok u)
  else (g.subs.find? (fun u => u.lanes == g.cur)).filter (fun u => Sub.canIssue g u && ok u)

/-- A group with one of its subgroups replaced, by its lane mask. -/
def Group.setSub (g : Group) (lanes : BitVec 32) (u : Sub) : Group :=
  { g with subs := g.subs.map (fun v => if v.lanes == lanes then u else v) }

/-! Merging and reconvergence. -/

/-- The stack two subgroups hold in common: the longest common bottom part (R145). -/
def commonStack (x y : List Rejoin) : List Rejoin :=
  ((List.range 17).reverse.findSome? (fun k =>
    if k ≤ x.length ∧ k ≤ y.length ∧ x.drop (x.length - k) = y.drop (y.length - k) then some (x.drop (x.length - k)) else none)).getD []

/-- Whether two subgroups merge (R94): one address, neither stopped, and their waits of the listed kinds. -/
def Sub.merges (u v : Sub) : Bool :=
  u.pc == v.pc && !u.stopped && !v.stopped &&
  (match u.wait, v.wait with
    | .barrier b, .barrier c => b == c
    | .barrier _, _ => false
    | _, .barrier _ => false
    | .tile _ _ _, _ => false
    | _, .tile _ _ _ => false
    | _, _ => true)

/-- The subgroup two subgroups merge into: the larger yield count, the earlier wait, the common stack (R121, R145, R675), with the
releases and fences of both. Where the two wait for the parts of different splits, it waits for those of both (log entry 78). -/
def Sub.merge (u v : Sub) : Sub :=
  let wait : Wait := match u.wait, v.wait with
    | .barrier b, _ => .barrier b
    | .reconv m, .reconv n => .reconv (m ||| n)
    | .reconv m, _ => .reconv m
    | _, .reconv n => .reconv n
    | .collective, _ => .collective
    | _, x => x
  let from' := match u.wait, v.wait with
    | .reconv _, .reconv _ => min u.waitFrom v.waitFrom
    | .reconv _, _ => u.waitFrom
    | _, _ => v.waitFrom
  { u with lanes := u.lanes ||| v.lanes, wait := wait, waitFrom := from', yieldCount := max u.yieldCount v.yieldCount,
           stack := commonStack u.stack v.stack, orders := u.orders ++ v.orders }

/-- A subgroup merged into the first of a list that takes it, or put at its end. -/
def insertMerged (u : Sub) : List Sub → List Sub
  | [] => [u]
  | v :: vs => if Sub.merges u v then Sub.merge v u :: vs else v :: insertMerged u vs

/-- A subgroup past its wait at a reconvergence address, which leaves its stack (R145). -/
def Sub.leaveReconv (u : Sub) : Sub :=
  { u with wait := .running, stack := (match u.stack with
      | e :: rest => if e.addr == u.pc then rest else u.stack
      | [] => []) }

/-- A reconvergence wait that has ended: every other thread of the split has merged with the subgroup or exited (R99). -/
def Sub.endReconv (live : BitVec 32) (u : Sub) : Sub :=
  match u.wait with
  | .reconv mates => if mates &&& live &&& ~~~u.lanes == 0 then u.leaveReconv else u
  | _ => u

/-- A running subgroup that stands at its reconvergence address waits there from this step (R99). -/
def Sub.startReconv (step : Nat) (u : Sub) : Sub :=
  match u.wait, u.stack with
  | .running, e :: _ => if e.addr == u.pc then { u with wait := .reconv e.mates, waitFrom := step } else u
  | _, _ => u

/-- A subgroup that waits at a collective for the rest of its group is at a yield point all the while (R117, R121). -/
def Sub.restAtCollective (live : BitVec 32) (u : Sub) : Sub :=
  if u.wait == .collective && u.lanes != live then { u with yieldCount := 0 } else u

/-- The group after its subgroups have met: waits started, merges made, waits ended, and the current subgroup the one that holds
what the current one held (R92, R94, R99). A group opens when its current subgroup arrives at a wait, its own or one it merges into (R95).
Nothing meets in a group that the debugger holds. -/
def Group.settle (g : Group) (step : Nat) : Group :=
  if g.held then g
  else
    let live := g.subs.filter (fun u => u.lanes != 0)
    let merged := (live.map (Sub.startReconv step)).foldl (fun acc u => insertMerged u acc) []
    let arrived := live.any (fun u => u.lanes == g.cur && u.wait == .running) &&
      merged.any (fun u => u.lanes &&& g.cur != 0 && u.wait != .running)
    let cur := match merged.find? (fun u => u.lanes &&& g.cur != 0) with
      | some u => u.lanes
      | none => g.cur
    { g with subs := merged.map (fun u => (u.endReconv g.live).restAtCollective g.live), cur := cur, isOpen := g.isOpen || arrived }

/-! Waiting, stopping and halting. -/

/-- The threads of a group numbered in the block (R74). -/
def threadSet (g : Group) (lanes : BitVec 32) : Nat := lanes.toNat <<< (32 * g.index)

/-- Whether barrier b of a block completes: every thread has arrived or exited (R110). -/
def Block.complete (k : Block) (exited b : Nat) : Bool :=
  (Tab.getD k.arrived b 0 ||| exited) % 2 ^ k.threads == 2 ^ k.threads - 1

/-- Completion of one barrier: its count restarts and its waiters run (R110). -/
def completeBarrier (a : Arr) (bs b : Nat) : Arr :=
  match Tab.get a.blocks bs with
  | none => a
  | some k =>
    if Tab.getD k.arrived b 0 ≠ 0 ∧ k.complete (exitedThreads a bs) b then
      { a with blocks := Tab.put a.blocks bs { k with arrived := Tab.put k.arrived b 0 },
               groups := Tab.mapAll a.groups (fun _ g => if g.block = bs then
                 Group.settle { g with subs := g.subs.map (fun u =>
                   if u.wait == .barrier b then { u with wait := .running, yieldCount := 0 } else u) } a.steps else g) }
    else a

/-- Every completion of a block evaluated (R110, R111). -/
def completeBarriers (a : Arr) (bs : Nat) : Arr := (List.range 16).foldl (fun a b => completeBarrier a bs b) a

/-- Whether every thread of a block has exited (R86). -/
def blockDone (a : Arr) (bs : Nat) : Bool := a.groups.all (fun e => e.2.block != bs || e.2.live == 0)

/-- A block's waiting or yielding threads stopped in place while a stop is pending (R119, R120): every subgroup that waits, one at a
reconvergence address included (DESIGN CHOICE, log entry 79), and every subgroup the debugger holds (R636). -/
def stopWaiting (a : Arr) (bs : Nat) : Arr :=
  { a with groups := Tab.mapAll a.groups (fun _ g => if g.block = bs then
      { g with held := false, subs := g.subs.map (fun u => if u.wait != .running || g.held then { u with stopped := true } else u) }
    else g) }

/-- Whether a block is stopped: each of its non-exited threads is (R120). -/
def blockStopped (a : Arr) (bs : Nat) : Bool := a.groups.all (fun e => e.2.block != bs || e.2.subs.all (fun u => u.stopped || u.lanes == 0))

/-- A tile opened by a group (R199): accumulators zero, tags finite, flags clear; its number goes to a uniform register of the group. -/
def openTile (a : Arr) (slot key fmt : Nat) (w : Int) (dst : Nat) : Arr :=
  let tile : Tile := { owner := slot, fmt := fmt, w := w, flags := 0, accs := [], tags := [] }
  { a with tiles := Tab.put a.tiles key tile,
           groups := match Tab.get a.groups slot with
             | some g => Tab.put a.groups slot { g with uregs := Tab.put g.uregs dst (BitVec.ofNat 32 (key % 4)) }
             | none => a.groups }

/-- The lowest free tile of a quarter. -/
def freeTile (a : Arr) (q : Nat) : Option Nat := ((List.range 4).map (· + 4 * q)).find? (fun k => (Tab.get a.tiles k).isNone)

/-- The group of a quarter that waits for a tile and comes first after the scheduler's pointer (R200): its slot, and what it waits with.
A halted block, a group that the debugger holds and a stopped subgroup do not wait. -/
def tileWaiter (a : Arr) (q : Nat) : Option (Nat × Nat × Int × Nat) :=
  let at' := Tab.getD a.pointers q (16 * q + 15) % 16
  ((List.range 16).map (fun i => 16 * q + (at' + 1 + i) % 16)).findSome? (fun slot =>
    match Tab.get a.groups slot with
    | none => none
    | some g =>
      if g.held || (Tab.get a.blocks g.block).any (·.halted) then none
      else g.subs.findSome? (fun u => match u.wait with
        | .tile f w d => if u.stopped then none else some (slot, f, w, d)
        | _ => none))

/-- One free tile of a quarter given to a waiting group, which goes on after its `ltile.open` (R200). -/
def serveTile (a : Arr) (q : Nat) : Arr :=
  match freeTile a q, tileWaiter a q with
  | some key, some (slot, f, w, d) =>
    let a := openTile a slot key f w d
    { a with groups := match Tab.get a.groups slot with
        | some g => Tab.put a.groups slot { g with subs := g.subs.map (fun u => match u.wait with
            | .tile _ _ _ => { u with wait := .running, pc := u.pc + 16 }
            | _ => u) }
        | none => a.groups }
  | _, _ => a

/-- Every free tile given to a waiting group, while there are both. -/
def serveTiles (a : Arr) : Arr := (List.range 16).foldl (fun a i => serveTile a (i / 4)) a

/-- The tiles of an array that a test on owner slots keeps, with what the matrix cells hold for the others gone (R206). -/
def freeTiles (a : Arr) (owned : Nat → Bool) : Arr :=
  { a with tiles := a.tiles.filter (fun e => !(owned e.2.owner)), staged := a.staged.filter (fun e => !(owned e.2.slot)) }

/-- An array without a block: its groups, its units, its barriers and its tiles free, and tiles given to those who wait (R86, R200,
R206). -/
def removeBlock (a : Arr) (bs : Nat) : Arr :=
  let slots := (a.groups.filter (fun e => e.2.block = bs)).map (·.1)
  let a := freeTiles a (fun o => o ∈ slots)
  serveTiles { a with blocks := Tab.erase a.blocks bs, groups := a.groups.filter (fun e => e.2.block ≠ bs) }

/-- The first fault of a launch, kept for its receipt, and no further block of it assigned (R516). -/
def noteLaunchFault (s : State) (id : Nat) (f : W32) (unit : W32) : State :=
  { s with works := s.works.map (fun k => if k.id = id then
      { k with haltDispatch := true, fault := (match k.fault with
          | some x => some x
          | none => some (f, unit)) } else k) }

/-- A block halted with every one of its groups (R115, R516). -/
def haltBlock (s : State) (ga bs : Nat) : State := match s.block ga bs with
  | none => s
  | some k => s.setBlock ga bs { k with halted := true }

/-! Issue context. -/

/-- What an issuing instruction sees: the array and slot, the group, its block, the issuing subgroup, and the lanes whose guard
holds. -/
structure Ctx where
  ga : Nat
  slot : Nat
  grp : Group
  blk : Block
  sub : Sub
  act : BitVec 32
  deriving DecidableEq, Repr

/-- Word 0 of a group fault's detail, laid out as YO_GROUP (R506). -/
def groupWord (slot bs : Nat) (lanes : BitVec 32) : W32 :=
  BitVec.ofNat 32 (slot + bs * 2 ^ 8 + bitsOf lanes.toNat 0 8 * 2 ^ 16 + bitsOf lanes.toNat 24 8 * 2 ^ 24)

/-- The record of a fault of an issuing subgroup (R506). -/
def groupFault (s : State) (c : Ctx) (code : Nat) (addr : W64) (word4 : W32) : FaultRec :=
  { FaultRec.plain code (unitArray c.ga) (s.dieTime (c.ga / 8)) (some c.blk.part) with
    slice := BitVec.ofNat 16 c.blk.slice, mailbag := BitVec.ofNat 16 c.blk.mailbag, seq := c.blk.seq, addr := addr,
    detail := [groupWord c.slot c.grp.block c.sub.lanes, c.sub.lanes, c.sub.pc.truncate 32, (c.sub.pc >>> 32).truncate 32, word4] }

/-- A BLOCK fault of an issuing subgroup: raised, the block halted, the launch told (R500, R515, R516). -/
def blockFault (s : State) (c : Ctx) (code : Nat) (addr : W64) (word4 : W32) : State :=
  let r := groupFault s c code addr word4
  noteLaunchFault (haltBlock (s.raise r) c.ga c.grp.block) c.blk.launch (BitVec.ofNat 32 (code + r.cls * 2 ^ 16)) (unitArray c.ga)

/-- A MEMORY_POISON of a group: BLOCK, or PARTITION when the partition is paired (R323, R501); its detail words name the memory (R506). -/
def poisonFault (s : State) (c : Ctx) (addr : W64) (detail : List W32) : State :=
  let ps := s.pairState c.blk.part
  let r := { groupFault s c 0x0405 addr 0 with detail := detail }
  if ps = 2 ∨ ps = 3 then s.raise { r with cls := 3 }
  else noteLaunchFault (haltBlock (s.raise r) c.ga c.grp.block) c.blk.launch (BitVec.ofNat 32 (0x0405 + r.cls * 2 ^ 16)) (unitArray c.ga)

/-- The group and its subgroup as they stand in the state now, for an access that completes after its issue. -/
def ctxFor (s : State) (ga slot : Nat) (lanes : BitVec 32) (pc : W64) : Option Ctx :=
  match s.group ga slot with
  | none => none
  | some g => match s.block ga g.block with
    | none => none
    | some k =>
      let u : Sub := { lanes := lanes, pc := pc, wait := .running, stopped := false, stack := [], waitFrom := 0, yieldCount := 0,
                       orders := [] }
      some ⟨ga, slot, g, k, u, lanes⟩

/-! Registers of a group. -/

/-- Thread register r of a lane; an absent register reads as zero (R78). -/
def Group.treg (g : Group) (lane r : Nat) : W32 := Tab.getD g.tregs (32 * r + lane) 0
def Group.setTreg (g : Group) (lane r : Nat) (v : W32) : Group := { g with tregs := Tab.put g.tregs (32 * r + lane) v }

/-- Uniform register r. -/
def Group.ureg (g : Group) (r : Nat) : W32 := Tab.getD g.uregs r 0
def Group.setUreg (g : Group) (r : Nat) (v : W32) : Group := { g with uregs := Tab.put g.uregs r v }

/-- Predicate p of a lane; writing it. -/
def Group.pred (g : Group) (lane p : Nat) : Bool := (Tab.getD g.preds lane 0).getLsbD p
def Group.setPred (g : Group) (lane p : Nat) (v : Bool) : Group :=
  let m : Byte := BitVec.ofNat 8 (2 ^ p)
  let old := Tab.getD g.preds lane 0
  { g with preds := Tab.put g.preds lane (if v then old ||| m else old &&& ~~~m) }

/-- n words of a lane's thread registers from r, low word first (R126). -/
def Group.twords (g : Group) (lane r : Nat) : Nat → Nat
  | 0 => 0
  | n + 1 => (g.treg lane r).toNat + 2 ^ 32 * Group.twords g lane (r + 1) n

/-- n words written to a lane's thread registers from r. -/
def Group.setTwords (g : Group) (lane r v : Nat) : Nat → Group
  | 0 => g
  | n + 1 => Group.setTwords (g.setTreg lane r (BitVec.ofNat 32 v)) lane (r + 1) (v / 2 ^ 32) n

/-- n words of the uniform registers from r. -/
def Group.uwords (g : Group) (r : Nat) : Nat → Nat
  | 0 => 0
  | n + 1 => (g.ureg r).toNat + 2 ^ 32 * Group.uwords g (r + 1) n

/-- n words written to the uniform registers from r. -/
def Group.setUwords (g : Group) (r v : Nat) : Nat → Group
  | 0 => g
  | n + 1 => Group.setUwords (g.setUreg r (BitVec.ofNat 32 v)) (r + 1) (v / 2 ^ 32) n

end Sys2Proof.Machine
end

