-- ==== Sys2Proof/Machine/Operands.lean ====
section
/-! DEFINITION. Operand forms of the instruction word: what each field is to an instruction, when a word is illegal or names a register
out of range, what its sources read and where its destination goes (R125 to R135, R141). -/

namespace Sys2Proof

/-- The fields of source k: 0 A, 1 B, 2 C. -/
def Fields.src (w : Fields) : Nat → Nat
  | 0 => w.a.toNat
  | 1 => w.b.toNat
  | _ => w.c.toNat

/-- The kind of source k. -/
def Fields.kind (w : Fields) : Nat → Nat
  | 0 => w.ka.toNat
  | 1 => w.kb.toNat
  | _ => w.kc.toNat

/-- An immediate word. -/
def Fields.immWord (w : Fields) (i : Nat) : W32 := if i = 0 then w.imm0 else w.imm1

end Sys2Proof

namespace Sys2Proof.Machine

/-! What an instruction makes of its fields. -/

/-- A source value: the thread registers it spans and must start at a multiple of, the words of the one value that a uniform register or
an immediate supplies, and the kinds allowed (0 thread, 1 uniform, 2 immediate, 3 zero) (R126, R132, R141). -/
structure Val where
  words : Nat
  align : Nat
  uwords : Nat
  kinds : List Nat
  deriving DecidableEq, Repr

/-- What a source field is to an instruction: nothing, a value, or a number in a thread-register position that names a predicate or a
special register. -/
inductive Use where
  | unused
  | value (v : Val)
  | pred
  | special
  deriving DecidableEq, Repr

/-- Whether the destination may be, may not be or must be uniform; `ballot` is the exception of R135. -/
inductive DUse where
  | either
  | never
  | always
  | ballot
  deriving DecidableEq, Repr

/-- The shape of an instruction: its destination's registers and their alignment, its sources, whether it writes PD, which immediate
words it uses itself, the further thread registers it reads, whether it is group-collective, and whether issuing it is a switch
point. -/
structure Desc where
  d : Option (Nat × Nat)
  du : DUse
  a : Use
  b : Use
  c : Use
  pd : Bool
  own0 : Bool
  own1 : Bool
  extra : List Nat
  coll : Bool
  switch : Bool
  deriving DecidableEq, Repr

/-- A shape that uses nothing. -/
def Desc.plain : Desc :=
  { d := none, du := .either, a := .unused, b := .unused, c := .unused, pd := false, own0 := false, own1 := false, extra := [],
    coll := false, switch := false }

/-- Every kind of source. -/
def allKinds : List Nat := [0, 1, 2, 3]

/-- A source of one 32-bit value, of one 64-bit value, and of w elements of e registers each. -/
def Val.one : Val := ⟨1, 1, 1, allKinds⟩
def Val.pair : Val := ⟨2, 2, 2, allKinds⟩
def Val.vec (w e : Nat) : Val := ⟨w * e, w * e, e, allKinds⟩

/-- The use of source k. -/
def Desc.use (d : Desc) : Nat → Use
  | 0 => d.a
  | 1 => d.b
  | _ => d.c

/-! Immediates (R132). -/

/-- The words of a source's value, 0 where it supplies none. -/
def Use.uwords : Use → Nat
  | .value v => v.uwords
  | _ => 0

/-- The sources of kind immediate, in the order A, B, C. -/
def Desc.immSources (d : Desc) (w : Fields) : List Nat :=
  [0, 1, 2].filter (fun k => decide (w.kind k = 2) && decide (0 < (d.use k).uwords))

/-- The immediate words the sources may take. -/
def Desc.freeImms (d : Desc) : List Nat := (if d.own0 then [] else [0]) ++ (if d.own1 then [] else [1])

/-- Whether one immediate source is 64 bits wide and so takes both words. -/
def Desc.wideImm (d : Desc) (w : Fields) : Bool := match d.immSources w with
  | [k] => (d.use k).uwords == 2
  | _ => false

/-- Whether the immediates can be supplied and no unused immediate word is set (R132, R133). -/
def Desc.immsLegal (d : Desc) (w : Fields) : Bool :=
  if d.wideImm w then !d.own0 && !d.own1
  else
    let n := (d.immSources w).length
    decide (n ≤ d.freeImms.length) && (d.immSources w).all (fun k => (d.use k).uwords == 1) &&
      (d.freeImms.drop n).all (fun i => w.immWord i == 0)

/-- The value of an immediate source k. -/
def Desc.immOf (d : Desc) (w : Fields) (k : Nat) : Nat :=
  if d.wideImm w then w.imm0.toNat + 2 ^ 32 * w.imm1.toNat
  else (((d.immSources w).zip d.freeImms).findSome? (fun e => if e.1 = k then some (w.immWord e.2).toNat else none)).getD 0

/-! Legality (R126, R129, R132 to R136, R141). -/

/-- Whether a source field is as its use requires. -/
def Use.legal (u : Use) (reg kind : Nat) : Bool :=
  match u with
  | .unused => reg == 0 && kind == 0
  | .pred => decide (reg < 8) && kind == 0
  | .special => kind == 0
  | .value v =>
    v.kinds.contains kind &&
      (match kind with
        | 0 => reg % v.align == 0
        | 1 => reg % v.uwords == 0 && decide (reg + v.uwords ≤ 64)
        | _ => reg == 0)

/-- Whether a source reads per thread (R135). -/
def Use.perThread (u : Use) (reg kind : Nat) : Bool :=
  match u with
  | .unused => false
  | .pred => true
  | .special => decide (reg ∈ [0, 1, 7])
  | .value _ => kind == 0

/-- Whether any source reads per thread. -/
def Desc.perThread (d : Desc) (w : Fields) : Bool := [0, 1, 2].any (fun k => (d.use k).perThread (w.src k) (w.kind k))

/-- Whether the destination is as the shape requires. -/
def Desc.dLegal (d : Desc) (w : Fields) : Bool :=
  match d.d with
  | none => w.d == 0 && !w.du
  | some (n, al) =>
    w.d.toNat % al == 0 &&
      (match d.du with
        | .never => !w.du
        | .always => w.du && decide (w.d.toNat + n ≤ 64) && !d.perThread w
        | .ballot => !w.du || decide (w.d.toNat + n ≤ 64)
        | .either => !w.du || (decide (w.d.toNat + n ≤ 64) && !d.perThread w))

/-- Whether a word is legal for a shape (R133, R134). -/
def Desc.legal (d : Desc) (w : Fields) : Bool :=
  d.dLegal w && [0, 1, 2].all (fun k => (d.use k).legal (w.src k) (w.kind k)) && (d.pd || w.pd == 0) &&
    (if w.ge then !d.coll else w.gp == 0 && !w.gn) && d.immsLegal w

/-! Registers named (R127, R88). -/

/-- The thread registers and, from 256 on, the uniform registers a word names: first and count. -/
def Desc.named (d : Desc) (w : Fields) : List (Nat × Nat) :=
  (match d.d with
    | none => []
    | some (n, _) => [((if w.du then 256 else 0) + w.d.toNat, n)]) ++
  ([0, 1, 2].filterMap (fun k => match d.use k with
    | .value v => if w.kind k = 0 then some (w.src k, v.words) else if w.kind k = 1 then some (256 + w.src k, v.uwords) else none
    | _ => none)) ++ d.extra.map (fun r => (r, 1))

/-- Whether a thread register named lies at or beyond tR (R127). -/
def Desc.outOfRange (d : Desc) (w : Fields) (regs : Nat) : Bool :=
  (d.named w).any (fun e => decide (e.1 < 256) && decide (regs < e.1 + e.2))

/-- Whether a pending write of an earlier instruction overlaps a register named, for the lanes that issue (R88). -/
def Pend.blocks (k : Pend) (lanes : BitVec 32) (named : List (Nat × Nat)) : Bool :=
  decide (0 < k.nregs) && (decide (256 ≤ k.reg) || (k.lanes &&& lanes) != 0) &&
    named.any (fun e => decide (e.1 < k.reg + k.nregs) && decide (k.reg < e.1 + e.2))

/-- Whether every register a word names is free of pending writes (R88). -/
def Group.regsReady (g : Group) (lanes : BitVec 32) (named : List (Nat × Nat)) : Bool := !g.pend.any (fun k => k.blocks lanes named)

/-! Guards (R134). -/

/-- The lanes of an issue whose guard holds. -/
def Group.guarded (g : Group) (w : Fields) (lanes : BitVec 32) : BitVec 32 :=
  if w.ge then lanesMask ((lanesOf lanes).filter (fun i => g.pred i w.gp.toNat != w.gn)) else lanes

/-! Reading sources and writing results. -/

/-- Element e of source k, n words each, as lane i reads it (R132, R141). -/
def Desc.read (d : Desc) (w : Fields) (g : Group) (k n i e : Nat) : Nat :=
  match w.kind k with
  | 0 => g.twords i (w.src k + e * n) n
  | 1 => g.uwords (w.src k) n
  | 2 => d.immOf w k % 2 ^ (32 * n)
  | _ => 0

/-- n words written to the destination: by each lane its value, or once for a uniform destination, nothing when no lane acts (R135). -/
def Group.writeD (g : Group) (w : Fields) (act : BitVec 32) (n : Nat) (f : Nat → Nat) : Group :=
  if w.du then (if act = 0 then g else g.setUwords w.d.toNat (f (lowLane act)) n)
  else (lanesOf act).foldl (fun g i => g.setTwords i w.d.toNat (f i) n) g

/-- The predicate destination written by each lane that acts. -/
def Group.writePd (g : Group) (w : Fields) (act : BitVec 32) (f : Nat → Bool) : Group :=
  (lanesOf act).foldl (fun g i => g.setPred i w.pd.toNat (f i)) g

/-- Floating-point flags raised in a group (R139). -/
def Group.raiseFlags (g : Group) (fl : FFlags) : Group := { g with fpflags := g.fpflags ||| fl }

/-- The elements of a vector result joined, n words each, element 0 lowest. -/
def joinElems (n : Nat) : List Nat → Nat
  | [] => 0
  | x :: t => x % 2 ^ (32 * n) + 2 ^ (32 * n) * joinElems n t

/-- A vector operation without flags: w elements of n words for each lane (R141). -/
def Group.mapElems (g : Group) (w : Fields) (act : BitVec 32) (width n : Nat) (f : Nat → Nat → Nat) : Group :=
  g.writeD w act (width * n) (fun i => joinElems n ((List.range width).map (fun e => f i e)))

/-- A vector operation with flags: the results as above, and the flags of every element of every lane that acts (R139, R142). -/
def Group.mapFlagged (g : Group) (w : Fields) (act : BitVec 32) (width n : Nat) (f : Nat → Nat → Nat × FFlags) : Group :=
  let fl := (lanesOf act).foldl (fun acc i => (List.range width).foldl (fun acc e => acc ||| (f i e).2) acc) 0
  (g.writeD w act (width * n) (fun i => joinElems n ((List.range width).map (fun e => (f i e).1)))).raiseFlags fl

end Sys2Proof.Machine
end

