-- ==== Sys2Proof/Machine/Crypto.lean ====
section
/-! DEFINITION. What protects stored data: the keys of a job (R475), AES-XTS sectors with the check word of HBM (R320), and the tag of a far
page (R329, R480). AES-256 and SHA-384 stay uninterpreted (log entries 24 and 91). -/

namespace Sys2Proof.Machine

/-- n bytes of a number, least significant first. -/
def leBytes (v : Nat) : Nat → List Byte
  | 0 => []
  | n + 1 => BitVec.ofNat 8 v :: leBytes (v / 256) n

/-- A string of bytes as a number, the first byte least significant. -/
def ofBytes (l : List Byte) : Nat := l.foldr (fun b n => b.toNat + 256 * n) 0

/-- The bytes of an ASCII label without a terminator (R475). -/
def ascii (t : String) : List Byte := t.toList.map (fun c => BitVec.ofNat 8 c.toNat)

/-! Keys (R475). -/

/-- The bytes of a SHA-384 hash. -/
def sha384Bytes (l : List Byte) : List Byte := leBytes (Config.sha384 l).toNat 48

/-- HMAC-SHA-384 under a key of at most 128 bytes, as HKDF (RFC 5869) uses it. -/
def hmac384 (key msg : List Byte) : List Byte :=
  let k := key ++ List.replicate (128 - key.length) (0 : Byte)
  sha384Bytes (k.map (· ^^^ 0x5C) ++ sha384Bytes (k.map (· ^^^ 0x36) ++ msg))

/-- HKDF-Expand to at most 96 bytes. -/
def hkdfExpand (prk info : List Byte) (n : Nat) : List Byte :=
  let t1 := hmac384 prk (info ++ [1])
  (t1 ++ hmac384 prk (t1 ++ info ++ [2])).take n

/-- PRK_job and PRK_sto (R475). -/
def prkJob (jobId : W64) (secret : BitVec 384) : List Byte := hmac384 (leBytes jobId.toNat 8) (leBytes secret.toNat 48)
def prkStorage (secret : BitVec 384) : List Byte := hmac384 (ascii "UX96 storage") (leBytes secret.toNat 48)

/-- K_hbm, K_transit, K_far_xts, K_far_mac and K_far_iv (R475). -/
def keyHbm (jobId : W64) (secret : BitVec 384) (nonce : BitVec 256) : List Byte :=
  hkdfExpand (prkJob jobId secret) (ascii "UX96 hbm" ++ leBytes nonce.toNat 32) 64
def keyTransit (jobId : W64) (secret : BitVec 384) (nonce : BitVec 256) : List Byte :=
  hkdfExpand (prkJob jobId secret) (ascii "UX96 transit" ++ leBytes nonce.toNat 32) 32
def keyFarXts (secret : BitVec 384) : List Byte := hkdfExpand (prkStorage secret) (ascii "UX96 far xts") 64
def keyFarMac (secret : BitVec 384) : List Byte := hkdfExpand (prkStorage secret) (ascii "UX96 far mac") 32
def keyFarIv (secret : BitVec 384) : List Byte := hkdfExpand (prkStorage secret) (ascii "UX96 far iv") 32

/-- K_pair[d] of two panels, the lower identity first (R475). -/
def keyPair (jobId : W64) (secret : BitVec 384) (lo hi d : Nat) : List Byte :=
  hkdfExpand (prkJob jobId secret) (ascii "UX96 pair" ++ leBytes lo 48 ++ leBytes hi 48 ++ leBytes d 1) 32

/-! AES-XTS. -/

/-- AES-256 of a block under a key of 32 bytes, and its inverse. -/
def aes (key : List Byte) (x : BitVec 128) : BitVec 128 := Config.aes256 (BitVec.ofNat 256 (ofBytes key)) x
def aesInv (key : List Byte) (x : BitVec 128) : BitVec 128 := Config.aes256Inv (BitVec.ofNat 256 (ofBytes key)) x

/-- A field element of 2^128 times x, coefficient i at bit i, modulo x^128 + x^7 + x^2 + x + 1. -/
def timesX (v : BitVec 128) : BitVec 128 := (v <<< 1) ^^^ (if v.getLsbD 127 then 0x87 else 0)

/-- The whitening value of a 32-byte sector: the tweak encrypted under the second key, for the first block and, times x, for the second. -/
def xtsMask (key : List Byte) (tweak : Nat) : BitVec 256 :=
  let t := aes (key.drop 32) (BitVec.ofNat 128 tweak)
  timesX t ++ t

/-- A sector of 32 bytes as AES-XTS with the sector as data unit stores it (R320, R329), and the bytes that stored ones decrypt to. -/
def xtsSector (key : List Byte) (tweak : Nat) (x : BitVec 256) : BitVec 256 :=
  let m := xtsMask key tweak
  let y := x ^^^ m
  ((aes (key.take 32) (y.truncate 128)).zeroExtend 256 ||| ((aes (key.take 32) ((y >>> 128).truncate 128)).zeroExtend 256 <<< 128)) ^^^ m
def xtsOpen (key : List Byte) (tweak : Nat) (x : BitVec 256) : BitVec 256 :=
  let m := xtsMask key tweak
  let y := x ^^^ m
  ((aesInv (key.take 32) (y.truncate 128)).zeroExtend 256 ||| ((aesInv (key.take 32) ((y >>> 128).truncate 128)).zeroExtend 256 <<< 128)) ^^^ m

/-! Check words (R320). -/

/-- One bit of message taken into a CRC-24 with generator 0x1_5D6DCB. -/
def crcStep (r : BitVec 24) (b : Bool) : BitVec 24 := (r <<< 1) ^^^ (if r.getLsbD 23 != b then 0x5D6DCB else 0)

/-- The CRC-24 of a string of bits from a starting value. -/
def crc24 (r : BitVec 24) (l : List Bool) : BitVec 24 := l.foldl crcStep r

/-- The bits of n bytes of a number in the order of the CRC: bytes ascending, each from its most significant bit (DESIGN CHOICE, log entry 91). -/
def crcBits (v n : Nat) : List Bool := (List.range (8 * n)).map (fun i => v.testBit (8 * (i / 8) + 7 - i % 8))

/-- State codes of a sector (R320). -/
def codeLive : Nat := 0
def codeDead : Nat := 0x5A
def codePoisoned : Nat := 0xA5

/-- The check word of a sector: its state code, and the CRC over its ciphertext, the code and the tweak's low word (R320). -/
def checkWord (ct : BitVec 256) (code tweak : Nat) : BitVec 32 :=
  BitVec.ofNat 8 code ++ crc24 0xFFFFFF (crcBits ct.toNat 32 ++ crcBits code 1 ++ crcBits tweak 4)

/-- Whether a sector passes its check: its CRC fits, and its state code is one of the three (R320). -/
def sectorPasses (ct : BitVec 256) (word : BitVec 32) (tweak : Nat) : Bool :=
  let code := word.toNat / 2 ^ 24
  (code == codeLive || code == codeDead || code == codePoisoned) && word == checkWord ct code tweak

/-- The tweak of an HBM sector: its global stack times 2^32 plus its stack offset over 32 (R320). -/
def hbmTweak (g off : Nat) : Nat := g * 2 ^ 32 + off / 32

/-- An error in the stored bits of a sector that a read brings: flips of the 256 bits of ciphertext and, above them, of the check word. -/
def errData (e : BitVec 288) : BitVec 256 := e.truncate 256
def errWord (e : BitVec 288) : BitVec 32 := (e >>> 256).truncate 32

/-- Whether a sector of a state code read with an error passes its check. A CRC is linear, so the error alone decides (R320). -/
def errPasses (code : Nat) (e : BitVec 288) : Bool :=
  let c := code ^^^ (errWord e).toNat / 2 ^ 24
  (c == codeLive || c == codeDead || c == codePoisoned) &&
    (errWord e).truncate 24 == crc24 0 (crcBits (errData e).toNat 32 ++ crcBits ((errWord e).toNat / 2 ^ 24) 1 ++ crcBits 0 4)

/-- K_dbg of a session, from its nonce and the x-coordinate of the agreed point (R624). -/
def debugKey (nonce : BitVec 256) (x : BitVec 384) : BitVec 256 :=
  BitVec.ofNat 256 (ofBytes (hkdfExpand (hmac384 (leBytes nonce.toNat 32) (leBytes x.toNat 48)) (ascii "UX96 debug") 32))

/-! The tag of a far page (R329, R480). -/

/-- The bits of a block as coefficients of a field element in the order of GCM: within each byte the most significant first. The order is its
own inverse. -/
def gcmBits (v : BitVec 128) : BitVec 128 :=
  BitVec.ofNat 128 ((List.range 128).foldl (fun n i => if v.getLsbD (8 * (i / 8) + 7 - i % 8) then n + 2 ^ i else n) 0)

/-- The product of two field elements, the coefficients of the first taken from 0 up. -/
def gfMul (x y : BitVec 128) : BitVec 128 :=
  ((List.range 128).foldl (fun (a : BitVec 128 × BitVec 128) i => (if x.getLsbD i then a.1 ^^^ a.2 else a.1, timesX a.2)) (0, y)).1

/-- The 16-byte blocks of a string, the last filled up with zeros. -/
def blocks16 (l : List Byte) : List (BitVec 128) :=
  (List.range ((l.length + 15) / 16)).map (fun i => BitVec.ofNat 128 (ofBytes ((l.drop (16 * i)).take 16)))

/-- GHASH of a list of blocks under a hash key. -/
def ghash (h : BitVec 128) (l : List (BitVec 128)) : BitVec 128 :=
  gcmBits (l.foldl (fun y x => gfMul (y ^^^ gcmBits x) (gcmBits h)) 0)

/-- A length in bits as GCM's last block carries it: 64 bits, most significant byte first. -/
def be64 (n : Nat) : List Byte := (leBytes n 8).reverse

/-- GMAC: GCM's tag of a string that is only authenticated, under a 12-byte nonce. -/
def gmac (key iv msg : List Byte) : BitVec 128 :=
  let h := aes key 0
  let j0 := BitVec.ofNat 128 (ofBytes (iv ++ [0, 0, 0, 1]))
  ghash h (blocks16 msg ++ blocks16 (be64 (8 * msg.length) ++ be64 0)) ^^^ aes key j0

/-- AES-256-GCM of a string under a 12-byte nonce: the ciphertext, and the tag over it and the associated data. -/
def gcmSeal (key iv aad plain : List Byte) : List Byte × BitVec 128 :=
  let h := aes key 0
  let ctr := fun (n : Nat) => aes key (BitVec.ofNat 128 (ofBytes (iv ++ (leBytes n 4).reverse)))
  let stream := (List.range ((plain.length + 15) / 16)).flatMap (fun i => leBytes (ctr (i + 2)).toNat 16)
  let ct := (plain.zip stream).map (fun e => e.1 ^^^ e.2)
  (ct, ghash h (blocks16 aad ++ blocks16 ct ++ blocks16 (be64 (8 * aad.length) ++ be64 (8 * ct.length))) ^^^ ctr 1)

/-- far_tag of R480 under the keys of a storage secret: of a page's ciphertext, its partition address and its dead mask. The string is filled
up to whole blocks for GHASH (DEDUCED, log entry 91). -/
def farTag (secret : BitVec 384) (ct : List Byte) (addr : Nat) (dead : BitVec 32) : BitVec 96 :=
  let m := ct ++ leBytes addr 8 ++ leBytes dead.toNat 4
  let h := aes (keyFarIv secret) 0
  let iv := leBytes (aes (keyFarIv secret) (ghash h (blocks16 m))).toNat 12
  (gmac (keyFarMac secret) iv m).truncate 96

/-- The ciphertext of a far page at a partition address under the keys of a storage secret, from the bytes of its lines; a dead line counts as
zeros (R329). -/
def farCipher (secret : BitVec 384) (addr : Nat) (dead : BitVec 32) (line : Nat → BitVec 1024) : List Byte :=
  (List.range 32).flatMap (fun i =>
    if dead.getLsbD i then List.replicate 128 (0 : Byte)
    else (List.range 4).flatMap (fun k =>
      leBytes (xtsSector (keyFarXts secret) ((addr + 128 * i + 32 * k) / 32) ((line i >>> (256 * k)).truncate 256)).toNat 32))

end Sys2Proof.Machine
end

