-- ==== Sys2Proof/Machine/Store.lean ====
section
/-! DEFINITION. Partition addresses and the memory behind the home slices: regions and windows (R35 to R38, R380 to R382), HBM with its
state codes (R315, R320, R323, R325, R326), far pages (R328 to R332), and the host side of a partition. -/

namespace Sys2Proof.Machine

/-! Regions. -/

/-- Where a partition address lies (R35). -/
inductive Region where
  | hbm
  | spill
  | far (j : Nat)
  | hc
  | host
  | unmapped
  deriving DecidableEq, Repr

/-- The HBM region, the far regions, the host-coherent and the host region start here (R35). -/
def farStart : Nat := 0x200000000000
def hcStart : Nat := 0x400000000000
def hostStart : Nat := 0x800000000000
def gib : Nat := 0x40000000

/-- F_j of a partition's j-th far port in GiB: the capacity the partition formed with, or found since (R328, R617). -/
def State.farCap (s : State) (p j : Nat) : Nat := ((s.part p).farCaps).getD j 0

/-- Whether the host-coherent region of a partition's port is enabled, and its length in bytes (R409, R410). -/
def State.hcOn (s : State) (p : Nat) : Bool := decide (s.partPort p < 6) && s.bit (Reg.hcCtl (s.partPort p)) 8
def State.hcBytes (s : State) (port : Nat) : Nat := 0x200000 * min (s.field (Reg.hcCtl port) 0 6) 32
def State.hcSize (s : State) (p : Nat) : Nat := s.hcBytes (s.partPort p)

/-- The region of a partition address (R35, R225). -/
def State.region (s : State) (p addr : Nat) : Region :=
  let n := s.partN p
  if 2 ^ 48 ≤ addr then .unmapped
  else if addr < 189 * gib * n then .hbm
  else if addr < 192 * gib * n then .spill
  else if addr < farStart then .unmapped
  else if addr < hcStart then
    let j := (addr - farStart) / 2 ^ 42
    if j < n ∧ (addr - farStart) % 2 ^ 42 < gib * s.farCap p j then .far j else .unmapped
  else if addr < hostStart then (if s.hcOn p ∧ addr - hcStart < s.hcSize p then .hc else .unmapped)
  else .host

/-- Whether an address lies in a window of base and size in a unit (R381). -/
def inWindow (base size unit x : Nat) : Bool := decide (unit * base ≤ x) && decide (x < unit * (base + size))

/-- The region of an address as work of a slice sees it: the spill area and everything outside the slice's windows are in no region
(R225, R381). -/
def State.regionFor (s : State) (p : Nat) (w : Snap) (addr : Nat) : Region :=
  match s.region p addr with
  | .hbm => if inWindow (bitsOf w.hbm.toNat 0 16) (bitsOf w.hbm.toNat 16 16) gib addr then .hbm else .unmapped
  | .far j =>
    if inWindow (bitsOf w.far.toNat 0 16) (bitsOf w.far.toNat 16 16) gib (addr - farStart) then .far j else .unmapped
  | .hc => if inWindow (bitsOf w.hc.toNat 0 10) (bitsOf w.hc.toNat 16 11) 0x10000 (addr - hcStart) then .hc else .unmapped
  | .spill => .unmapped
  | r => r

/-- The windows that cover a whole partition (R380): what the pair-link agent, the debugger and the panel itself use. -/
def wholeSnap : Snap := { pasid := 0, hbm := 0xFFFF0000, far := 0xFFFF0000, hc := 0x04000000 }

/-! HBM. -/

/-- Global stack and offset of an HBM address (R37). -/
def State.stackOf (s : State) (p addr : Nat) : Nat × Nat :=
  let n4 := 4 * s.partN p
  (4 * s.partK0 p + addr / 4096 % n4, addr / 4096 / n4 * 4096 + addr % 4096)

/-- The key of a stack offset among the HBM bytes; the key of its line among the state codes. -/
def hbmKey (g off : Nat) : Nat := g * 2 ^ 36 + off
def hbmLine (g off : Nat) : Nat := hbmKey g off / 128

/-- Pseudo-channel, column offset, bank and row of a stack offset (R315). -/
def pseudoChannel (off : Nat) : Nat := off / 128 % 32
def columnOf (off : Nat) : Nat := off / 128 / 32 % 8 * 128
def bankOf (off : Nat) : Nat := off / 128 / 256 % 48
def rowOf (off : Nat) : Nat := off / 128 / 12288

/-- Stack ID, bank group and bank that encode one of the 48 banks (R315). -/
def bankCode (b : Nat) : Nat × Nat × Nat := (b / 16, b % 16 / 4, b % 4)

/-- The DRAM page of a stack offset, numbered by row, bank and pseudo-channel (R315). -/
def dramPage (off : Nat) : Nat := (rowOf off * 48 + bankOf off) * 32 + pseudoChannel off

/-! The far tier. -/

/-- Far port, and offset within it, of a far address of partition p: its j-th sector's port (R35). -/
def State.farPort (s : State) (p j : Nat) : Nat := s.partK0 p + j
def farKey (port off : Nat) : Nat := port * 2 ^ 42 + off
def farPageKey (port off : Nat) : Nat := port * 2 ^ 30 + off / 4096

/-- A memory-interface die before anything happened to it. -/
def Mid.reset : Mid :=
  { laneFails := [], lanesUsed := [], retiring := [], verified := [], farReleased := false, farReleasing := none, farAttached := false,
    farOwner := 0, farIndex := 0, temps := [], scrubErrors := [] }

/-- A memory-interface die. -/
def State.mid (s : State) (m : Nat) : Mid := Tab.getD s.mids m Mid.reset
def State.setMid (s : State) (m : Nat) (x : Mid) : State := { s with mids := Tab.put s.mids m x }

/-- Whether a far port is up, and in use by its partition (R345, R617). -/
def State.farUp (s : State) (port : Nat) : Bool := s.bit (Reg.farState port) 0 && (s.mid port).farAttached

/-- The storage secret a partition's far pages are tagged under (R329, R476), as a number. -/
def State.farOwner (s : State) (p : Nat) : Nat := match Tab.get s.keys p with
  | some k => k.storageSecret.toNat + 1
  | none => 0

/-- The partition address of the page at an offset of a partition's j-th far region (R35). -/
def farPageAddr (j off : Nat) : Nat := farStart + j * 2 ^ 42 + off / 4096 * 4096

/-- The ciphertext of a far page as the tier holds it (R329), and its tag for a storage secret and a region (R480). -/
def State.pageCipher (s : State) (port off : Nat) (pg : FarPage) : List Byte :=
  farCipher (BitVec.ofNat 384 (pg.owner - 1)) (farPageAddr pg.index off) pg.dead (fun i =>
    BitVec.ofNat 1024 (Mem.readLE s.far (farKey port (off / 4096 * 4096 + 128 * i)) 128))
def State.pageTag (s : State) (port off : Nat) (pg : FarPage) (owner j : Nat) : BitVec 96 :=
  farTag (BitVec.ofNat 384 (owner - 1)) (s.pageCipher port off pg) (farPageAddr j off) pg.dead

/-- A far page: as it was last written, or as the port's last scrub left it; a page with neither has no MAC record, and its tag fails. -/
def State.farPage (s : State) (port off : Nat) : Option FarPage := match Tab.get s.farPages (farPageKey port off) with
  | some pg => some pg
  | none =>
    let m := s.mid port
    let pg : FarPage := { owner := m.farOwner, index := m.farIndex, dead := 0, poisoned := false, tag := 0 }
    if m.farOwner = 0 then none else some { pg with tag := s.pageTag port off pg pg.owner pg.index }

/-- A far page written with its new tag (R330). -/
def State.putPage (s : State) (port off : Nat) (pg : FarPage) : State :=
  { s with farPages := Tab.put s.farPages (farPageKey port off) { pg with tag := s.pageTag port off pg pg.owner pg.index } }

/-- Whether a far page's lines decrypt under a partition's keys, at its place among the partition's far regions (R477). -/
def State.pageOf (s : State) (p j : Nat) (pg : FarPage) : Bool := pg.owner == s.farOwner p && pg.index == j

/-- Whether the tag of a far page verifies under its partition's storage keys (R329, R331, R480). -/
def State.pageGood (s : State) (p port page : Nat) : Bool := match s.farPage port (4096 * page) with
  | some pg => !pg.poisoned && s.farOwner p != 0 && pg.tag == s.pageTag port (4096 * page) pg (s.farOwner p) (port - s.partK0 p)
  | none => false

/-! Faults of memory-interface dies. -/

/-- The detail words of a memory fault (R506): POISON_WHERE, the stack or port, and its state word. -/
def State.memDetail (s : State) (m : Nat) (far : Bool) (g off : Nat) : List W32 :=
  [BitVec.ofNat 32 (if far then 4 else g % 4 + 8 * pseudoChannel off), BitVec.ofNat 32 (if far then 32 + m else g),
   if far then s.reg (Reg.farState m) else s.reg (Reg.stackState m (g % 4)), 0, 0]

/-- The record of a memory fault (R506). -/
def memFault (s : State) (code : Nat) (p : Option Nat) (m : Nat) (far : Bool) (g : Nat) (addr off : Nat) : FaultRec :=
  { FaultRec.plain code (unitDest (108 + m)) (s.midTime m) p with addr := BitVec.ofNat 64 addr, detail := s.memDetail m far g off }

/-- The detail words of a fault at a partition address (R506). -/
def State.addrDetail (s : State) (p addr : Nat) : List W32 :=
  if addr < farStart then
    let (g, off) := s.stackOf p addr
    s.memDetail (g / 4) false g off
  else s.memDetail (s.farPort p ((addr - farStart) / 2 ^ 42)) true 0 0

/-- A poisoning recorded at its memory-interface die: the first since MEMORY_POISON was cleared keeps its place (R345). -/
def State.notePoison (s : State) (m : Nat) (wherW addr : Nat) : State :=
  let s := if s.bit (Reg.midStatus m) 1 then s else
    (s.setReg (Reg.poisonAddrLo m) (BitVec.ofNat 32 addr)).setReg (Reg.poisonWhere m) (BitVec.ofNat 32 wherW)
  let s := if s.bit (Reg.midStatus m) 1 then s else s.setLatch (Reg.poisonAddrHi m) (BitVec.ofNat 32 (addr / 2 ^ 32))
  s.setBit (Reg.midStatus m) 1

/-! Bandwidth regulators (R340 to R342). -/

/-- The regions of the REGULATOR block: HBM, far ports, pair links and transit strings. -/
def Bucket.hbm : Nat := 0x1000
def Bucket.far : Nat := 0x3000
def Bucket.pair : Nat := 0x5000
def Bucket.transit : Nat := 0x6000

/-- The resource that bucket i of a region meters: a partition's HBM or far ports, a pair link, or a sector's transit strings. -/
def bucketResource (region i : Nat) : Nat :=
  region + (if region = Bucket.pair then i / 6 else if region = Bucket.transit then i % 8 else i / 64)

/-- The level of a bucket, a two's complement number. -/
def State.bucketLevel (s : State) (region i : Nat) : Int := (s.reg (Reg.bktLevel region i)).toInt

/-- Whether a bucket grants a request now (R341). -/
def State.grants (s : State) (region i : Nat) : Bool :=
  !s.bit (Reg.bktRate region i) 31 || decide (0 < s.bucketLevel region i) ||
    (s.bit (Reg.bktRate region i) 30 && !s.granted.contains (bucketResource region i))

/-- A request of so many tokens and lines granted: the level falls unless the grant is an idle one, and the grant is counted (R341, R344). -/
def State.grant (s : State) (region i cost lines : Nat) : State :=
  let level := s.bucketLevel region i
  let s := if s.bit (Reg.bktRate region i) 31 ∧ 0 < level then s.setReg (Reg.bktLevel region i) (BitVec.ofInt 32 (level - cost)) else s
  let s := s.count (Reg.bktGranted region i) lines
  let x := bucketResource region i
  if s.granted.contains x then s else { s with granted := s.granted ++ [x] }

/-- A request metered: granted, or held and none. -/
def State.charge (s : State) (region i cost lines : Nat) : Option State :=
  if s.grants region i then some (s.grant region i cost lines) else none

/-- Whether a far page lies in the verified-page buffer (R330). -/
def State.verifiedPage (s : State) (port off : Nat) : Bool := (s.mid port).verified.contains (off / 4096)

/-- A kernel's or a courier's request to memory for a line charged to its PASID slice (R341); a far line that is not in the verified-page
buffer costs its whole page. -/
def State.chargeLine (s : State) (p sl line : Nat) : Option State :=
  let addr := 128 * line
  if addr < farStart then (s.charge Bucket.hbm (64 * p + sl) 16 1).map (fun s => s.spend p sl (Config.activity 2 0))
  else
    let port := s.farPort p ((addr - farStart) / 2 ^ 42)
    let n := if s.verifiedPage port ((addr - farStart) % 2 ^ 42) then 1 else 32
    (s.charge Bucket.far (64 * p + sl) (16 * n) n).map (fun s => s.spend p sl (n * Config.activity 3 0))

/-- A page moved to the front of a verified-page buffer (R330). -/
def State.touchPage (s : State) (port off : Nat) : State :=
  let x := s.mid port
  let page := off / 4096
  if x.verified.contains page then s.setMid port { x with verified := page :: x.verified.filter (· != page) } else s

/-! Stored lines. -/

/-- A line as memory stores it: its state and bytes (R320, R326, R329). -/
def State.memRead (s : State) (p line : Nat) : FillCode × LineData :=
  let addr := 128 * line
  if addr < farStart then
    let (g, off) := s.stackOf p addr
    match Tab.get s.hbmCode (hbmLine g off) with
    | some c => (c, 0)
    | none => (.live, BitVec.ofNat 1024 (Mem.readLE s.hbm (hbmKey g off) 128))
  else
    let j := (addr - farStart) / 2 ^ 42
    let off := (addr - farStart) % 2 ^ 42
    let port := s.farPort p j
    if (s.mid port).farReleased then (.released, 0)
    else if !s.farUp port then (.poisoned, 0)
    else match s.farPage port off with
      | none => (.poisoned, 0)
      | some pg =>
        if pg.poisoned || !s.pageOf p j pg then (.poisoned, 0)
        else if pg.dead.getLsbD (off / 128 % 32) then (.dead, 0)
        else (.live, BitVec.ofNat 1024 (Mem.readLE s.far (farKey port off) 128))

/-! Check words as they are read (R320, R322). -/

/-- The state code of a line in its check words. -/
def FillCode.code : FillCode → Nat
  | .live => codeLive
  | .dead => codeDead
  | _ => codePoisoned

/-- What the errors of a read come to in a sector, and whether the read fails its check in some sector. -/
def errsOf (l : List SectorErr) (k : Nat) : BitVec 288 := (l.filter (fun e => e.sector.val == k)).foldl (fun x e => x ^^^ e.bits) 0
def readFails (c : FillCode) (l : List SectorErr) : Bool := (List.range 4).any (fun k => !errPasses c.code (errsOf l k))

/-- The bit positions that fail in a read (R318). -/
def failedBits (c : FillCode) (l : List SectorErr) : List Nat :=
  (List.range 4).flatMap (fun k => if errPasses c.code (errsOf l k) then [] else (List.range 288).filter (errsOf l k).getLsbD)

/-- The state code of the line at a stack offset. -/
def State.codeAt (s : State) (g off : Nat) : FillCode := (Tab.get s.hbmCode (hbmLine g off)).getD .live

/-- K_hbm of a partition (R475, R477). -/
def State.hbmKeys (s : State) (p : Nat) : List Byte := match Tab.get s.keys p with
  | some k => keyHbm k.jobId k.jobSecret k.keyNonce
  | none => []

/-- A line of HBM as a read brings it whose sectors all passed: errors that no check saw change what it decrypts to, and its state (R320,
R326). -/
def State.readWith (s : State) (p line : Nat) (l : List SectorErr) : FillCode × LineData :=
  let (code, data) := s.memRead p line
  if l.isEmpty then (code, data)
  else
    let (g, off) := s.stackOf p (128 * line)
    let codes := (List.range 4).map (fun k => code.code ^^^ (errWord (errsOf l k)).toNat / 2 ^ 24)
    let sector := fun (k : Nat) =>
      let x : BitVec 256 := (data >>> (256 * k)).truncate 256
      let t := hbmTweak g (off + 32 * k)
      if errData (errsOf l k) = 0 then x else xtsOpen (s.hbmKeys p) t (xtsSector (s.hbmKeys p) t x ^^^ errData (errsOf l k))
    if codes.contains codePoisoned then (.poisoned, 0)
    else if codes.contains codeDead then (.dead, 0)
    else (.live, sector 3 ++ sector 2 ++ sector 1 ++ sector 0)

/-- How the reads of one access go (R322): how many fail before one passes, three at most, and the bit positions that failed. -/
def readTries (c : FillCode) : List (List SectorErr) → Nat × List Nat
  | [] => (0, [])
  | l :: t => if readFails c l then ((readTries c t).1 + 1, failedBits c l ++ (readTries c t).2) else (0, [])

/-- A partial write to a poisoned line or page is dropped (R323, R331). -/
def State.dropWrite (s : State) (p line : Nat) : State :=
  let addr := 128 * line
  if addr < farStart then
    let (g, off) := s.stackOf p addr
    (s.setBit (Reg.midStatus (g / 4)) 8).raise (memFault s 0x0406 (some p) (g / 4) false g addr off)
  else
    let m := s.farPort p ((addr - farStart) / 2 ^ 42)
    (s.setBit (Reg.midStatus m) 8).raise (memFault s 0x0406 (some p) m true 0 addr 0)

/-- A write to memory performed: a line under its mask, or a dead record (R325, R326, R330). -/
def State.memWrite (s : State) (p line : Nat) (data : LineData) (mask : ByteMask) (dead : Bool) : State :=
  let addr := 128 * line
  if addr < farStart then
    let (g, off) := s.stackOf p addr
    let k := hbmKey g off
    let code := Tab.get s.hbmCode (hbmLine g off)
    if dead then
      { s with hbm := Mem.clear s.hbm k (k + 128), hbmCode := Tab.put s.hbmCode (hbmLine g off) .dead }
    else if code = some .poisoned ∧ mask ≠ fullMask then s.dropWrite p line
    else
      let base := if code = none then s.hbm else Mem.clear s.hbm k (k + 128)
      { s with hbm := Mem.writeMasked base k data.toNat mask.toNat 128, hbmCode := Tab.erase s.hbmCode (hbmLine g off) }
  else
    let j := (addr - farStart) / 2 ^ 42
    let off := (addr - farStart) % 2 ^ 42
    let port := s.farPort p j
    if (s.mid port).farReleased then s
    else if !s.farUp port then
      s.raise (memFault s 0x040A (some p) port true 0 addr 0)
    else match s.farPage port off with
      | some pg =>
        if pg.poisoned || !s.pageOf p j pg then s.dropWrite p line
        else
          let k := farKey port off
          let bit : BitVec 32 := BitVec.ofNat 32 (2 ^ (off / 128 % 32))
          if dead then
            let t : State := { s.touchPage port off with far := Mem.clear s.far k (k + 128) }
            t.putPage port off { pg with dead := pg.dead ||| bit }
          else
            let base := if pg.dead &&& bit = 0 then s.far else Mem.clear s.far k (k + 128)
            let t : State := { s.touchPage port off with far := Mem.writeMasked base k data.toNat mask.toNat 128 }
            t.putPage port off { pg with dead := pg.dead &&& ~~~bit }
      | none => s.dropWrite p line

/-! Requests waiting at a memory-interface die. -/

/-- Whether every sector a mask touches is marked whole, so that a masked write reads nothing (R325). -/
def wholeSectors (mask : ByteMask) : Bool :=
  (List.range 4).all (fun i => bitsOf mask.toNat (32 * i) 32 = 0 || bitsOf mask.toNat (32 * i) 32 = 2 ^ 32 - 1)

/-- The requests for one line in the order received (R321). -/
def State.midOps (s : State) (p line : Nat) : List MidOp := s.reads.filter (fun o => o.part == p && o.line == line)

/-- The first request for a line that a test accepts taken out of the queue. -/
def dropFirst (f : MidOp → Bool) : List MidOp → List MidOp
  | [] => []
  | o :: t => if f o then t else o :: dropFirst f t

/-- The first request for a line replaced. -/
def replaceFirst (f : MidOp → Bool) (x : MidOp) : List MidOp → List MidOp
  | [] => []
  | o :: t => if f o then x :: t else o :: replaceFirst f x t

/-- Whether a far line is answered without reading the tier: its port is released or down, or its page lies in the buffer (R330, R332). -/
def State.farAtOnce (s : State) (port off : Nat) : Bool := (s.mid port).farReleased || !s.farUp port || s.verifiedPage port off

/-- A read of a line asked of memory (R321): answered at once by a verified page or for a far port that is not up, otherwise queued. `side`
tells a prefetch from a demand miss. -/
def State.askRead (s : State) (p line : Nat) (side : Bool) : State :=
  let addr := 128 * line
  let port := s.farPort p ((addr - farStart) / 2 ^ 42)
  let off := (addr - farStart) % 2 ^ 42
  if farStart ≤ addr ∧ (s.midOps p line).isEmpty ∧ s.farAtOnce port off then
    let (code, data) := s.memRead p line
    let s := s.touchPage port off
    let f : Fill := { part := p, line := line, code := code, data := data, arr := none }
    if side then { s with sideFills := s.sideFills ++ [f] } else { s with fills := s.fills ++ [f] }
  else
    let o : MidOp := { part := p, line := line, isWrite := false, mask := 0, data := 0, dead := false, fails := 0, bits := [], through := false }
    { s with reads := s.reads ++ [o] }

/-- Whether a write needs a read of memory first: a partly marked HBM sector of a live line, or a far page not in the buffer. -/
def State.writeNeedsRead (s : State) (p line : Nat) (mask : ByteMask) (dead : Bool) : Bool :=
  let addr := 128 * line
  if addr < farStart then
    let (g, off) := s.stackOf p addr
    !dead && !wholeSectors mask && (Tab.get s.hbmCode (hbmLine g off)).isNone
  else
    let off := (addr - farStart) % 2 ^ 42
    let port := s.farPort p ((addr - farStart) / 2 ^ 42)
    !s.farAtOnce port off

/-- A write handed to memory: performed at once when nothing for the line waits before it and it needs no read, queued otherwise. A
poisoned partition's writes are refused (R517). `through` marks a courier's write-through (R335). -/
def State.memSend (s : State) (p line : Nat) (data : LineData) (mask : ByteMask) (dead through : Bool) : State :=
  if s.poisoned p then s
  else if (s.midOps p line).isEmpty && !s.writeNeedsRead p line mask dead then s.memWrite p line data mask dead
  else
    let o : MidOp := { part := p, line := line, isWrite := true, mask := mask, data := data, dead := dead, fails := 0, bits := [], through := through }
    { s with reads := s.reads ++ [o] }

/-- A write of a home slice handed to memory. -/
def State.memPut (s : State) (p line : Nat) (data : LineData) (mask : ByteMask) (dead : Bool) : State :=
  s.memSend p line data mask dead false

/-- The writes at the head of a line's queue that need no read performed, up to the first that does (R321). Each round takes one. -/
def State.drainWrites (p line : Nat) : Nat → State → State
  | 0, s => s
  | n + 1, s =>
    match s.midOps p line with
    | o :: _ =>
      if o.isWrite && !s.writeNeedsRead p line o.mask o.dead then
        let s := { s with reads := dropFirst (fun x => x.part == p && x.line == line) s.reads }
        State.drainWrites p line n (s.memWrite p line o.data o.mask o.dead)
      else s
    | [] => s

/-- A line with a queued write applied: the bytes memory will hold. -/
def applyOp (acc : FillCode × LineData) (o : MidOp) : FillCode × LineData :=
  if !o.isWrite then acc
  else if o.dead then (.dead, 0)
  else match acc.1 with
    | .live => (.live, mergeLine acc.2 o.data o.mask)
    | .dead => (.live, mergeLine 0 o.data o.mask)
    | .poisoned => if o.mask = fullMask then (.live, o.data) else acc
    | .released => acc

/-- A line of memory with everything already handed to its memory-interface die applied. -/
def State.memNow (s : State) (p line : Nat) : FillCode × LineData := (s.midOps p line).foldl applyOp (s.memRead p line)

/-! The host side. -/

/-- A host port at the start of the panel and after its registers reset (R377). -/
def Port.reset : Port :=
  { live := false, perst := true, configReady := false, linkUp := false, lost := false, bound := none, ptmLocal := 0,
    ptmMaster := 0, flushes := [], lastWrite := [], fcount := 0, fhead := 0, ide := [], dlogPend := [] }

/-- A host port. -/
def State.port (s : State) (port : Nat) : Port := Tab.getD s.ports port Port.reset
def State.setPort (s : State) (port : Nat) (x : Port) : State := { s with ports := Tab.put s.ports port x }

/-- n free bytes that the host returns (R288; log entry 1), drawn from a fresh number on. -/
def hostBytes (k : Nat) : Nat → Nat
  | 0 => 0
  | n + 1 => (Config.hostByte k).toNat + 256 * hostBytes (k + 1) n

/-- A line read from the host. -/
def State.hostLine (s : State) : LineData × State :=
  (BitVec.ofNat 1024 (hostBytes s.fresh 128), { s with fresh := s.fresh + 128 })

/-- The pages of the dirty log that a write of slice sl to a host address sets (R415): its 8-byte bitmap word is due. -/
def State.logDirty (s : State) (port sl addr : Nat) : State :=
  let start := s.field (Reg.dlogStart port sl) 0 32 * 512
  let n := s.field (Reg.dlogPages port sl) 0 32
  let page := addr / 4096
  if s.bit (Reg.dlogCtl port sl) 0 ∧ start ≤ page ∧ page < start + n then
    let x := s.port port
    s.setPort port { x with dlogPend := x.dlogPend ++ [(sl, 2 ^ 40 * s.field (Reg.dlogCtl port sl) 2 1 + (page - start))] }
  else s

/-- A pair partition before any join. -/
def PairPart.reset : PairPart :=
  { rxHighest := 0, txSeq := 0, tagFailed := false, leaseOffset := 0, leaseCount := 0, leaseSeen := 0, leaseChanged := 0, leaseAcked := 0,
    heardAt := 0, withFar := false, joinMsg := none, joinWork := none, asFollower := false, prevState := 0,
    forwarded := 0, journal := [], partnerDone := [], ownDone := [], theirChunks := [], ownChunks := [],
    digestWork := [], nondet := false, fencedAt := 0, accepted := false, mayWrite := false }

/-- The pair state of a partition beyond its registers. -/
def State.pair (s : State) (p : Nat) : PairPart := Tab.getD s.pairs p PairPart.reset
def State.setPair (s : State) (p : Nat) (x : PairPart) : State := { s with pairs := Tab.put s.pairs p x }

/-- Writes the 8 MiB journal of a follower holds (R544), one line each; what stands beyond them waits (log entry 23). -/
def journalCap : Nat := 65536

/-- Whether a partition's port takes requests of the panel: where the tenant bound it, only in an active IDE stream programmed under the tenant's
key (R483). -/
def State.mayAsk (s : State) (p : Nat) : Bool :=
  !s.bit (Reg.keyState p) 2 || (s.port (s.partPort p)).ide.any (fun e => e.2.active && e.2.underTenant)

/-- Whether a partition follows, and whether a new host access of its threads leaves the panel now: a fenced or detached one performs none (R550,
R552, R555), and one whose bound port has no stream waits for it (R483; log entry 108). -/
def State.follows (s : State) (p : Nat) : Bool := s.pairState p == 3
def State.hostOpen (s : State) (p : Nat) : Bool := s.pairState p != 5 && s.pairState p != 6 && s.mayAsk p

/-- Whether everything a partition writes to the host stays in the panel: always in a detached one, in a fenced one until it may write again
(R550, R552, R555). -/
def State.hostMuted (s : State) (p : Nat) : Bool := s.pairState p == 5 || (s.pairState p == 6 && !(s.pair p).mayWrite)

/-- Whether the host-interface die refuses what a partition's kernels, couriers and lines write to the host (R517, R550, R552, R555). -/
def State.hostRefuses (s : State) (p : Nat) : Bool := s.poisoned p || s.hostMuted p

/-- A write toward the host by a partition: accepted by the host-interface die (R293, R308), refused by it, or entered in the follower's journal
(R544). -/
def State.hostPost (s : State) (p work id : Nat) (pasid : W32) (addr : Nat) (data : LineData) (mask : ByteMask) : State :=
  let port := s.partPort p
  let w : HostWrite := { port := port, pasid := pasid, addr := addr, mask := mask, data := data }
  if s.hostRefuses p then s
  else if s.follows p then
    let x := s.pair p
    let s := if journalCap ≤ x.journal.length then s.setBit Reg.pairStatus 9 else s
    let j : List JournalWrite := x.journal ++ [{ work := work, id := id, write := w }]
    s.setPair p { x with journal := j }
  else
    { s with hostOut := s.hostOut ++ [w] }

/-- Whether a host write of a partition is performed as it is made: the journal has room for it, or there is none. -/
def State.hostRoom (s : State) (p : Nat) : Bool := !s.follows p || decide ((s.pair p).journal.length < journalCap)

/-- The page of a write for slice sl logged where the write reaches the host (R415): a follower's is logged when it leaves the journal (R544). -/
def State.logWrite (s : State) (p sl addr : Nat) : State :=
  if s.follows p || s.hostRefuses p then s else s.logDirty (s.partPort p) sl addr

/-- A write the panel sends to host memory for a slice, its page logged when it is tracked (R415); its port keeps its address (R308). -/
def State.hostWrite (s : State) (p work id sl : Nat) (pasid : W32) (addr : Nat) (data : LineData) (mask : ByteMask) : State :=
  let bytes := ((List.range 128).filter mask.getLsbD).length
  let s := ((s.hostPost p work id pasid addr data mask).logWrite p sl addr).spend p sl (bytes * Config.activity 5 0)
  let x := s.port (s.partPort p)
  s.setPort (s.partPort p) { x with lastWrite := Tab.put x.lastWrite sl addr }

/-- The host physical address of a host-coherent address (R410). -/
def State.hcHost (s : State) (p addr : Nat) : Nat :=
  let port := s.partPort p
  s.pairValue (Reg.hcBaseLo port) (Reg.hcBaseHi port) / 2 ^ 21 * 2 ^ 21 + (addr - hcStart)

/-- A modified host-coherent line written to the host (R411, R433); a panel that may write nothing there, a follower too, drops it (R544, R550,
R555). -/
def State.hostLineOut (s : State) (p : Nat) (l : SLine) : State :=
  let w : HostWrite := { port := s.partPort p, pasid := 0, addr := s.hcHost p (128 * l.line), mask := if l.st = .dirty then fullMask else l.mask, data := l.data }
  if s.follows p || s.hostMuted p then s else { s with hostOut := s.hostOut ++ [w] }

end Sys2Proof.Machine
end

