-- ==== Sys2Proof/Machine/Slice.lean ====
section
/-! DEFINITION. Cache structures: the sets, entries and slots of a slice with replacement, compression and eviction (R252 to R258, R260,
R264), side buffers (R269, R270), and the L1 and side buffer of an array (R245 to R248, R271). -/

namespace Sys2Proof.Machine

/-! Set index and home. -/

/-- The set index of a line (R253). -/
def setIndex (line key : Nat) : Nat := (bitsOf line 0 17 ^^^ bitsOf line 17 17 ^^^ bitsOf line 34 7) ^^^ key

/-- The partition-local home slice of a line (R253). -/
def homeSlice (line n key : Nat) : Nat :=
  let x := line ^^^ key
  let h := bitsOf x 0 32 ^^^ (bitsOf x 32 9 <<< 23)
  let h := h * 0xB5D39E27 % 2 ^ 32
  let h := h ^^^ (h >>> 16)
  h * 12 * n / 2 ^ 32

/-- The set of a line, and the logical die of its home slice in partition p. -/
def State.setOf (s : State) (line : Nat) : Nat := setIndex line s.trust.keySet.toNat
def State.homeDie (s : State) (p line : Nat) : Nat := 12 * s.partK0 p + homeSlice line (s.partN p) s.trust.keyHome.toNat

/-- A slice after invalidation: every entry, miss register, side buffer and sum line clear, the epoch 0 (R279). -/
def Slice.reset : Slice :=
  { entries := [], misses := [], visitors := [], side := [], sidePend := [], sums := [], spills := [], wOpen := [], epoch := 0 }

/-- The slice of a logical die. -/
def State.slice (s : State) (d : Nat) : Slice := Tab.getD s.slices d Slice.reset
def State.setSlice (s : State) (d : Nat) (x : Slice) : State := { s with slices := Tab.put s.slices d x }

/-- A count for a counter of the slice of a die (R283). -/
def State.sliceCount (s : State) (d i : Nat) : State := s.atBase (s.sliceBase d) (fun s b => s.count (Reg.sliceCount b i) 1)

/-- A status bit of the slice of a die set (R283). -/
def State.sliceBit (s : State) (d i : Nat) : State := s.atBase (s.sliceBase d) (fun s b => s.setBit (Reg.sliceStatus b) i)

/-- Whether the slice of a die accepts requests (R279). -/
def State.sliceReady (s : State) (d : Nat) : Bool := match s.sliceBase d with
  | some b => s.bit (Reg.sliceState b) 0
  | none => false

/-! Entries. -/

/-- An entry that holds nothing. -/
def Entry.empty : Entry := { age := 0, s0 := none, s1 := none }

/-- Way w of a set. -/
def Slice.entry (x : Slice) (set w : Nat) : Entry := Tab.getD x.entries (18 * set + w) Entry.empty

/-- A slice with a way of a set replaced; an empty entry is held by listing nothing, and a lone line stands in slot 0. -/
def Slice.setEntry (x : Slice) (set w : Nat) (e : Entry) : Slice :=
  match e.s0, e.s1 with
  | none, none => { x with entries := Tab.erase x.entries (18 * set + w) }
  | none, some l => { x with entries := Tab.put x.entries (18 * set + w) { e with s0 := some l, s1 := none } }
  | _, _ => { x with entries := Tab.put x.entries (18 * set + w) e }

/-- The lines of an entry. -/
def Entry.lines (e : Entry) : List SLine := e.s0.toList ++ e.s1.toList

/-- Where a line stands in its set: the way and whether in slot 1. -/
def Slice.find (x : Slice) (set line : Nat) (visitor : Bool) : Option (Nat × Bool) :=
  (List.range 18).findSome? (fun w =>
    let e := x.entry set w
    let is := fun (l : SLine) => l.line == line && l.visitor == visitor
    if (e.s0.filter is).isSome then some (w, false) else if (e.s1.filter is).isSome then some (w, true) else none)

/-- The line at a place. -/
def Slice.lineAt (x : Slice) (set : Nat) (at' : Nat × Bool) : Option SLine :=
  let e := x.entry set at'.1
  if at'.2 then e.s1 else e.s0

/-- A line a slice holds. -/
def Slice.line? (x : Slice) (set line : Nat) (visitor : Bool) : Option SLine := (x.find set line visitor).bind (x.lineAt set)

/-- A slice with a line it holds replaced, its entry's age set to 0 (R255), or its age kept. -/
def Slice.update (x : Slice) (set line : Nat) (visitor touch : Bool) (l : Option SLine) : Slice :=
  match x.find set line visitor with
  | none => x
  | some (w, second) =>
    let e := x.entry set w
    let e := if touch then { e with age := 0 } else e
    x.setEntry set w (if second then { e with s1 := l } else { e with s0 := l })

/-- Whether a line keeps its entry from being chosen: a pinned sum line or a fill pending (R255). -/
def SLine.busy (l : SLine) : Bool := l.st == .sum || l.st == .filling

/-- Whether a line takes at most half an entry: compressed, or dead and so without data (R254). -/
def SLine.small (l : SLine) : Bool := l.comp != 0 || l.st == .dead

/-- The way chosen for a new line, and the slice with its ages moved on (R255): an empty way first; `limit` is VISITOR_WAYS for a
visitor fill, `skip` a way that may not be chosen. -/
def Slice.choose (x : Slice) (set : Nat) (limit : Option Nat) (skip : Nat) : Option (Nat × Slice) :=
  let ways := (List.range 18).filter (· ≠ skip)
  let vis := fun w => (x.entry set w).lines.any (·.visitor)
  let nvis := (ways.filter vis).length
  let ok := fun w => !(x.entry set w).lines.any SLine.busy && (match limit with
    | none => true
    | some l => decide (nvis < l) || vis w)
  match ways.find? (fun w => ok w && (x.entry set w).lines.isEmpty) with
  | some w => some (w, x)
  | none =>
    let elig := ways.filter ok
    let top := elig.foldl (fun m w => max m (x.entry set w).age) 0
    match elig.find? (fun w => (x.entry set w).age = top) with
    | none => none
    | some w =>
      some (w, elig.foldl (fun x v => let e := x.entry set v
                                      x.setEntry set v { e with age := e.age + (3 - top) }) x)

/-! Compression (R257). -/

/-- The n-byte words of a line. -/
def wordsOf (d : LineData) (n : Nat) : List Nat := (List.range (128 / n)).map (fun i => lineBytes d (n * i) n)

/-- Whether every word equals word 0 plus a signed delta of b bits, modulo the word size. -/
def nearFirst (d : LineData) (n b : Nat) : Bool :=
  let base := lineBytes d 0 n
  (wordsOf d n).all (fun w => decide ((w + 2 ^ (8 * n) - base + 2 ^ (b - 1)) % 2 ^ (8 * n) < 2 ^ b))

/-- The number of zero bits at the bottom of every word that exponent folding for FP32 can drop: from 23 down to 11, or none. -/
def foldT (d : LineData) : Option Nat :=
  ((List.range 13).map (fun i => 23 - i)).find? (fun t => (wordsOf d 4).all (fun w => decide (w % 2 ^ t = 0)))

/-- Sign extension of the low b bits of a word to 128 bits. -/
def extend128 (w b : Nat) : Nat :=
  let y := w % 2 ^ b
  if 2 ^ (b - 1) ≤ y then 2 ^ 128 - 2 ^ b + y else y

/-- The least b up to 63 for which every 16-byte element is the sign extension of its low b bits. -/
def foldB (d : LineData) : Option Nat :=
  ((List.range 63).map (· + 1)).find? (fun b => (wordsOf d 16).all (fun w => decide (extend128 w b = w)))

/-- The methods that apply to a line, with their stored sizes. -/
def compressions (d : LineData) : List (Nat × Nat) :=
  (if d = 0 then [(1, 0)] else []) ++
  (if (wordsOf d 8).all (fun w => decide (w = lineBytes d 0 8)) then [(2, 8)] else []) ++
  (if nearFirst d 4 8 then [(3, 36)] else []) ++
  (if nearFirst d 8 16 then [(4, 40)] else []) ++
  (if nearFirst d 8 24 then [(5, 56)] else []) ++
  (match foldT d with
    | some t => if ((wordsOf d 4).map (· / 2 ^ 23)).eraseDups.length ≤ 4 then [(6, 6 + 4 * (25 - t))] else []
    | none => []) ++
  (match foldB d with
    | some b => [(7, 1 + b)]
    | none => [])

/-- The compression code a whole line is stored with: the smallest stored size of at most 64 bytes, the lower code on ties. -/
def compressCode (d : LineData) : Nat :=
  ((compressions d).foldl (fun (best : Nat × Nat) m => if m.2 ≤ 64 ∧ m.2 < best.2 then m else best) (0, 65)).1

/-! Eviction and allocation. -/

/-- A line leaving its slice (R260, R276): dropped when clean or a visitor copy, written under its mask, or recorded as dead. -/
def State.evictLine (s : State) (d p : Nat) (l : SLine) : State :=
  if l.visitor || l.st == .clean then s
  else if 128 * l.line ≥ hcStart then
    (s.hostPost p 0 0 0 (s.hcHost p (128 * l.line)) l.data l.mask).sliceCount d 4
  else
    match l.st with
    | .dirty => (s.memPut p l.line l.data l.mask false).sliceCount d 4
    | .partialLine => (s.memPut p l.line l.data l.mask false).sliceCount d 4
    | .dead => (s.memPut p l.line 0 0 true).sliceCount d 4
    | _ => s

/-- A way of a set emptied and free for a new line, where one can be had (R255, R256). -/
def State.allocWay (s : State) (d p set : Nat) (limit : Option Nat) (skip : Nat) : Option (Nat × State) :=
  match (s.slice d).choose set limit skip with
  | none => none
  | some (w, x) =>
    let out := (x.entry set w).lines
    let s := s.setSlice d (x.setEntry set w Entry.empty)
    some (w, out.foldl (fun s l => s.evictLine d p l) s)

/-- A line put alone into a free way at age 2 (R255). -/
def State.placeLine (s : State) (d set w : Nat) (l : SLine) : State :=
  let x := s.slice d
  s.setSlice d (x.setEntry set w { age := 2, s0 := some l, s1 := none })

/-- VISITOR_WAYS of the slice of a die (R264). -/
def State.visitorWays (s : State) (d : Nat) : Nat := match s.sliceBase d with
  | some b => min 6 (s.field (Reg.sliceCtl b) 0 3)
  | none => 0

/-- The ways that a line may take: every one for a home line; for a visitor copy the limit of R264. -/
def State.wayLimit (s : State) (d : Nat) (visitor : Bool) : Option Nat := if visitor then some (s.visitorWays d) else none

/-- The place of a line after its bytes or state changed (R254, R258): a line that no longer fits beside another moves to a whole entry
of its set, where one can be had; a small line that stands alone joins the lowest entry that holds one other small line of its kind (log
entry 22). -/
def State.resettle (s : State) (d p set line : Nat) (visitor : Bool) : State :=
  let x := s.slice d
  match x.find set line visitor with
  | none => s
  | some (w, second) =>
    match x.lineAt set (w, second) with
    | none => s
    | some l =>
      let e := x.entry set w
      if e.lines.length = 2 ∧ !l.small then
        match (s.setSlice d (x.update set line visitor false none)).allocWay d p set (s.wayLimit d visitor) w with
        | some (v, s) => s.placeLine d set v l
        | none => s
      else if e.lines.length = 1 ∧ l.small then
        let fits := fun v => match (x.entry set v).lines with
          | [k] => v != w && k.small && !k.busy && k.visitor == visitor
          | _ => false
        match (List.range 18).find? fits with
        | none => s
        | some v =>
          let f := x.entry set v
          s.setSlice d ((x.setEntry set w Entry.empty).setEntry set v { f with age := min e.age f.age, s1 := some l })
      else s

/-- Whether a line stands beside another without fitting there, because no entry of its set could be had for it (R256, R258): what made it
so has to wait. -/
def State.crowded (s : State) (d line : Nat) (visitor : Bool) : Bool :=
  let x := s.slice d
  let set := s.setOf line
  match x.find set line visitor with
  | none => false
  | some at' => match x.lineAt set at' with
    | none => false
    | some l => (x.entry set at'.1).lines.length == 2 && !l.small

/-- A line of a slice written: its compression tried when all its bytes are valid (R257), and its place settled. A line that has just entered
keeps its age (R255). -/
def State.writeLine (s : State) (d p : Nat) (touch : Bool) (l : SLine) : State :=
  let set := s.setOf l.line
  let on := match s.sliceBase d with
    | some b => s.bit (Reg.sliceCtl b) 3
    | none => false
  let whole := l.st == .clean || l.st == .dirty
  let l := { l with comp := if on && whole then compressCode l.data else 0 }
  (s.setSlice d ((s.slice d).update set l.line l.visitor touch (some l))).resettle d p set l.line l.visitor

/-- A line that an access hit, written. -/
def State.storeLine (s : State) (d p : Nat) (l : SLine) : State := s.writeLine d p true l

/-- A line entered in a free way of its set, at age 2 (R255). -/
def State.enterLine (s : State) (d p w : Nat) (l : SLine) : State := (s.placeLine d (s.setOf l.line) w l).writeLine d p false l

/-! Side buffers. -/

/-- A home side buffer with a line added: the oldest displaced and counted when it is full (R269, R270). -/
def State.sideAdd (s : State) (d line : Nat) (data : LineData) : State :=
  let x := s.slice d
  let full := 4096 ≤ x.side.length
  let s := s.setSlice d { x with side := (if full then x.side.drop 1 else x.side) ++ [(line, data)] }
  if full then s.sliceCount d 6 else s

/-- The data of a line a home side buffer holds. -/
def Slice.sideData (x : Slice) (line : Nat) : Option LineData := (x.side.find? (fun e => e.1 == line)).map (·.2)

/-! The L1 (R245 to R248). -/

/-- Bank and set of a line in an L1 of nb banks (R245), as one number. -/
def l1Set (line nb : Nat) : Nat :=
  let q := line / nb
  line % nb * 2048 + (q % 2048 ^^^ q / 2048 % 2048)

/-- Banks of an array's L1. -/
def Arr.nb (a : Arr) : Nat := 8 - a.lsBanks

/-- The key of way w of the set of a line. -/
def Arr.l1Key (a : Arr) (line w : Nat) : Nat := 16 * l1Set line a.nb + w

/-- The place of a line in an L1. -/
def Arr.l1Find (a : Arr) (line : Nat) : Option Nat :=
  if a.nb = 0 then none
  else (List.range 12).findSome? (fun w => match Tab.get a.l1 (a.l1Key line w) with
    | some l => if l.line = line then some (a.l1Key line w) else none
    | none => none)

/-- A line of an L1. -/
def Arr.l1Line (a : Arr) (line : Nat) : Option L1Line := (a.l1Find line).bind (Tab.get a.l1)

/-- Whether a fill is pending for a line (R247). -/
def Arr.l1Pending (a : Arr) (line : Nat) : Bool := a.l1Miss.any (fun m => m.line == line)

/-- Dirty lines of an L1 (R283), oldest first. -/
def Arr.dirtyLines (a : Arr) : List L1Line :=
  let l := (a.l1.map (·.2)).filter (fun l => l.dirty != 0)
  sortBy (·.dirtySeq) l

/-- The local array's L1 counter c (R283). -/
def State.l1Count (s : State) (ga c : Nat) : State := s.atBase (s.sliceBase (ga / 8)) (fun s b => s.count (Reg.l1Count b (4 * (ga % 8) + c)) 1)

/-- A count of an array's L1 taken back: a request that was one with an earlier one (R153). -/
def State.l1Uncount (s : State) (ga c n : Nat) : State :=
  s.atBase (s.sliceBase (ga / 8)) (fun s b => s.tally (Reg.l1Count b (4 * (ga % 8) + c)) (· - n))

/-- A store that a die forwards, applied to its visitor copy of the line, which goes when no entry can be had for it any more (DESIGN CHOICE,
log entry 22); and kept for a copy that is on its way (R265). -/
def State.visitorStore (s : State) (d p line : Nat) (data : LineData) (mask : ByteMask) : State :=
  let x := s.slice d
  let note := fun (v : VisitorMiss) => if v.line = line then { v with own := v.own ||| mask, ownData := mergeLine v.ownData data mask } else v
  let s := s.setSlice d { x with visitors := x.visitors.map note }
  match x.line? (s.setOf line) line true with
  | none => s
  | some l =>
    let s := s.storeLine d p { l with data := mergeLine l.data data mask }
    if s.crowded d line true then s.setSlice d ((s.slice d).update (s.setOf line) line true false none) else s

/-- The visitor copy of a line that a die gives up, the one on its way included (R266). -/
def State.visitorDrop (s : State) (d line : Nat) : State :=
  let x := s.slice d
  let note := fun (v : VisitorMiss) => if v.line = line then { v with drop := true } else v
  s.setSlice d ({ x with visitors := x.visitors.map note }.update (s.setOf line) line true false none)

/-- An array's line request put in flight toward the home, after the slice of its die has applied a store to its visitor copy, or dropped
that copy for an atomic, a reduction, an ld.last or a kill.line (R250, R265, R266). -/
def State.sendReq (s : State) (r : MemReq) : State :=
  let d := r.arr / 8
  let s := match r.kind with
    | .store => s.visitorStore d r.part r.line r.data r.mask
    | .load => s
    | .loadAcq => s
    | .fillL1 => s
    | .prefetchHome => s
    | .prefetchArray => s
    | _ => s.visitorDrop d r.line
  { s with reqs := s.reqs ++ [r] }

/-- A write-back of an array (R246): a store of its line's dirty bytes, outstanding until its home acknowledges it. -/
def State.writeBack (s : State) (ga : Nat) (p : Nat) (l : L1Line) : State :=
  let (id, s) := s.newId
  let a := s.arr ga
  let s := s.setArr ga { a with unacked := a.unacked ++ [(id, l.line)] }
  (s.sendReq { id := id, part := p, arr := ga, slot := 64, kind := .store, line := l.line, lanes := [], size := 0, signed := false,
               isFloat := false, dst := 0, mask := l.dirty, data := l.data, stamp := 0, sl := 0, pc := 0, mask32 := 0 }).l1Count ga 3

/-- A place of an L1 that becomes clean by writing its dirty bytes back. -/
def State.cleanL1 (s : State) (ga p key : Nat) : State :=
  match Tab.get (s.arr ga).l1 key with
  | none => s
  | some l =>
    if l.dirty = 0 then s
    else
      let s := s.writeBack ga p l
      let a := s.arr ga
      s.setArr ga { a with l1 := Tab.put a.l1 key { l with dirty := 0 } }

/-- Every dirty line of an L1 pushed, oldest first (R268). -/
def State.pushL1 (s : State) (ga p : Nat) : State :=
  let keys := sortBy (fun e => e.2.dirtySeq) ((s.arr ga).l1.filter (fun e => e.2.dirty != 0))
  keys.foldl (fun s e => s.cleanL1 ga p e.1) s

/-- A place for a line in an L1, its earlier line written back when dirty; none while every way has a fill pending (R245). -/
def State.allocL1 (s : State) (ga p line : Nat) : Option (Nat × State) :=
  let a := s.arr ga
  let keys := (List.range 12).map (a.l1Key line)
  match keys.find? (fun k => (Tab.get a.l1 k).isNone) with
  | some k => some (k, s)
  | none =>
    let elig := keys.filter (fun k => match Tab.get a.l1 k with
      | some l => !a.l1Pending l.line
      | none => false)
    let age := fun k => match Tab.get a.l1 k with
      | some l => l.age
      | none => 0
    let top := elig.foldl (fun m k => max m (age k)) 0
    match elig.find? (fun k => age k = top) with
    | none => none
    | some k =>
      let aged := elig.foldl (fun t k => match Tab.get t k with
        | some l => Tab.put t k { l with age := l.age + (3 - top) }
        | none => t) a.l1
      let s := (s.setArr ga { a with l1 := aged }).cleanL1 ga p k
      let a := s.arr ga
      some (k, s.setArr ga { a with l1 := Tab.erase a.l1 k })

/-- The bytes that an array stores to a line whose fill is pending, kept for that fill (R289). -/
def Arr.noteStore (a : Arr) (line : Nat) (data : LineData) (mask : ByteMask) : Arr :=
  { a with l1Miss := a.l1Miss.map (fun (m : L1Miss) =>
      if m.line = line then { m with own := m.own ||| mask, ownData := mergeLine m.ownData data mask } else m) }

/-- Room among the 1,024 dirty lines of an L1: the oldest is written back when a line more would be dirty (R246). -/
def State.dirtyRoom (s : State) (ga p line : Nat) : State :=
  let fresh := match (s.arr ga).l1Line line with
    | some l => l.dirty == 0
    | none => true
  if fresh && decide (1024 ≤ (s.arr ga).dirtyLines.length) then
    match (s.arr ga).dirtyLines with
    | o :: _ => (match (s.arr ga).l1Find o.line with
        | some k => s.cleanL1 ga p k
        | none => s)
    | [] => s
  else s

/-- A store into an L1 (R246): the line allocated with only the stored bytes when absent. A store to a line of the array side buffer
invalidates that entry (R271). None while no way of the set is eligible, so that the store is not accepted (R245). -/
def State.storeL1 (s : State) (ga p line : Nat) (data : LineData) (mask : ByteMask) : Option State :=
  let (seq, s) := (s.dirtyRoom ga p line).newId
  let fresh : L1Line := { line := line, data := mergeLine 0 data mask, valid := mask, dirty := mask, age := 2, dirtySeq := seq }
  let held := fun (l : L1Line) => ({ l with
    data := mergeLine l.data data mask, valid := l.valid ||| mask, dirty := l.dirty ||| mask, age := 0,
    dirtySeq := if l.dirty = 0 then seq else l.dirtySeq } : L1Line)
  let placed : Option (Nat × State × L1Line) := match (s.arr ga).l1Find line with
    | some k => (Tab.get (s.arr ga).l1 k).map (fun l => (k, s, held l))
    | none => (s.allocL1 ga p line).map (fun e => (e.1, e.2, fresh))
  placed.map (fun e =>
    let a := (e.2.1.arr ga).noteStore line data mask
    e.2.1.setArr ga { a with l1 := Tab.put a.l1 e.1 e.2.2, sideBuf := a.sideBuf.filter (fun b => b.1 != line) })

/-- An array's own copy of a line given up (R266, R272): written back first unless its dirty bytes are to be lost; a fill on its way
is not kept. -/
def State.dropL1 (s : State) (ga p line : Nat) (keep : Bool) : State :=
  let s := match (s.arr ga).l1Find line with
    | some k =>
      let s := if keep then s.cleanL1 ga p k else s
      let a := s.arr ga
      if a.l1Pending line then
        (match Tab.get a.l1 k with
          | some l => s.setArr ga { a with l1 := Tab.put a.l1 k { l with valid := 0, dirty := 0 } }
          | none => s)
      else s.setArr ga { a with l1 := Tab.erase a.l1 k }
    | none => s
  let a := s.arr ga
  s.setArr ga { a with l1Miss := a.l1Miss.map (fun m => if m.line = line then { m with dropFill := true } else m),
                       sideBuf := a.sideBuf.filter (fun e => e.1 != line) }

/-- The invalidation of an acquire (R268): every clean byte of the L1 and the whole array side buffer; what is on its way to either is not
kept. -/
def Arr.invalidateClean (a : Arr) : Arr :=
  { a with l1 := (a.l1.filter (fun e => e.2.dirty != 0 || a.l1Pending e.2.line)).map (fun e => (e.1, { e.2 with valid := e.2.dirty })),
           l1Miss := a.l1Miss.map (fun (m : L1Miss) => { m with dropFill := true }), sideBuf := [], sidePend := [] }

/-- An acquire of scope dev or sys completed (R267, R268): the die's epoch and the array's acquire epoch, and the invalidation; when
the epoch wraps, every visitor copy of the die goes. -/
def State.acquire (s : State) (ga : Nat) : State :=
  let d := ga / 8
  let x := s.slice d
  let e := (x.epoch + 1) % 2 ^ 24
  let x := { x with epoch := e }
  let x := if e = 0 then
      { x with visitors := x.visitors.map (fun (v : VisitorMiss) => { v with drop := true }),
                entries := (x.entries.map (fun t => (t.1, { t.2 with s0 := t.2.s0.filter (fun l => !l.visitor),
                                                                     s1 := t.2.s1.filter (fun l => !l.visitor) }))).filter
                (fun t => t.2.s0.isSome || t.2.s1.isSome) }
    else x
  let s := s.setSlice d x
  let s := if e = 0 then s.sliceBit d 9 else s
  let s := { s with sideFills := s.sideFills.filter (fun f => f.arr != some ga) }
  s.setArr ga { (s.arr ga).invalidateClean with acqEpoch := e }

end Sys2Proof.Machine
end

