-- ==== Sys2Proof/Machine/Home.lean ====
section
/-! DEFINITION. The home slice: what each access does to a line and what it returns (R250, R251, R259 to R276, R280), sum lines with
their closing and spilling (R212 to R230), and how a result reaches the threads that asked. -/

namespace Sys2Proof.Machine

/-! Delivery to threads. -/

/-- The value a thread receives from a line: the bytes at its offset, extended to whole registers (R152). -/
def loadValue (r : MemReq) (l : LineData) (a : LaneAcc) : Nat :=
  let x := lineBytes l a.off r.size
  if r.signed ∧ r.size < 4 then wrapInt 32 (readInt (8 * r.size) true x) else x

/-- Registers a load of a size writes (R152). -/
def loadRegs (size : Nat) : Nat := if size ≤ 4 then 1 else size / 4

/-- A group with the results of a request written to its registers, register 256 + u being uniform register u, and the request no longer
pending. -/
def Group.deliver (g : Group) (r : MemReq) (value : LaneAcc → Nat) (accs : List LaneAcc) : Group :=
  let n := loadRegs r.size
  let g := if 256 ≤ r.dst then (match accs with
      | a :: _ => g.setUwords (r.dst - 256) (value a) n
      | [] => g)
    else accs.foldl (fun g a => g.setTwords a.lane r.dst (value a) n) g
  { g with pend := g.pend.filter (fun k => k.id != r.id) }

/-- The slots a request belongs to. -/
def MemReq.slots (r : MemReq) : List Nat := (r.lanes.map (·.slot)).eraseDups

/-- A request's results handed to the groups that still wait for it. -/
def State.deliver (s : State) (r : MemReq) (value : LaneAcc → Nat) : State :=
  r.slots.foldl (fun s slot => match s.group r.arr slot with
    | none => s
    | some g =>
      if g.pend.any (fun k => k.id == r.id) then
        s.setGroup r.arr slot (g.deliver r value (r.lanes.filter (fun a => a.slot == slot)))
      else s) s

/-- A request without results completed: it is no longer pending in its groups. -/
def State.complete (s : State) (r : MemReq) : State :=
  r.slots.foldl (fun s slot => match s.group r.arr slot with
    | none => s
    | some g => s.setGroup r.arr slot { g with pend := g.pend.filter (fun k => k.id != r.id) }) s

/-- The groups, with the lanes of each, that a request's fault belongs to: every group of a composite issue (R103, R515). -/
def State.reqCtxs (s : State) (r : MemReq) : List Ctx :=
  r.slots.filterMap (fun slot => ctxFor s r.arr slot (if slot = r.slot then r.mask32 else
    lanesMask ((r.lanes.filter (fun a => a.slot == slot)).map (·.lane))) r.pc)

/-- The first byte of a request's lowest lane. -/
def MemReq.addr (r : MemReq) : Nat := 128 * r.line + (match r.lanes with
  | a :: _ => a.off
  | [] => 0)

/-- A request that ends in a fault of its groups' blocks (R515). -/
def State.failReq (s : State) (r : MemReq) (code : Nat) : State :=
  (s.reqCtxs r).foldl (fun s c => blockFault s c code (BitVec.ofNat 64 r.addr) 0) (s.complete r)

/-- A request that a poisoned line answers (R323). -/
def State.poisonReq (s : State) (r : MemReq) : State :=
  (s.reqCtxs r).foldl (fun s c => poisonFault s c (BitVec.ofNat 64 r.addr) (s.addrDetail r.part r.addr)) (s.complete r)

/-! Visitor copies on their way (R261, R265, R281). -/

/-- Whether a request's answer becomes a visitor copy of its die (R264, R265): a whole line of the HBM or a far-port region, read for a plain
load and homed elsewhere. -/
def State.visits (s : State) (r : MemReq) : Bool :=
  (r.kind == .load || r.kind == .fillL1) && decide (128 * r.line < hcStart) && s.homeDie r.part r.line != r.arr / 8

/-- The register of a visitor copy on its way (R265, R281), with what requests behind it on their way from the same die do to the line. -/
def State.visitorMiss (s : State) (r : MemReq) : VisitorMiss :=
  (s.reqs.filter (fun q => q.arr / 8 == r.arr / 8 && q.line == r.line && q.id != r.id)).foldl (fun v q => match q.kind with
    | .store => { v with own := v.own ||| q.mask, ownData := mergeLine v.ownData q.data q.mask }
    | .atom _ => { v with drop := true }
    | .red _ => { v with drop := true }
    | .ledger => { v with drop := true }
    | .loadLast => { v with drop := true }
    | .kill => { v with drop := true }
    | _ => v) { id := r.id, line := r.line, own := 0, ownData := 0, drop := false }

/-- A line that a die's memory interface writes through for a courier, whose requests wait meanwhile (R335). -/
def State.throughs (s : State) (d : Nat) : Nat := (s.reads.filter (fun o => o.through && s.homeDie o.part o.line == d)).length

/-- Whether a miss register of the slice of a die is free (R261, R269, R281, R335). -/
def State.missRoom (s : State) (d : Nat) : Bool :=
  let x := s.slice d
  decide (x.misses.length + x.sidePend.length + x.visitors.length + s.throughs d < 1024)

/-- A request to a home that will bring a visitor copy takes a miss register of its own die's slice (R265, R281); none while none is free. -/
def State.takeVisitor (s : State) (r : MemReq) : Option State :=
  let d := r.arr / 8
  let x := s.slice d
  if !s.visits r || x.visitors.any (fun v => v.id == r.id) then some s
  else if s.missRoom d then some (s.setSlice d { x with visitors := x.visitors ++ [s.visitorMiss r] })
  else none

/-- The register of a visitor copy free again. -/
def State.freeVisitor (s : State) (r : MemReq) : State :=
  let x := s.slice (r.arr / 8)
  s.setSlice (r.arr / 8) { x with visitors := x.visitors.filter (fun v => v.id != r.id) }

/-! Dead reads (R273, R274). -/

/-- A read of a dead line recorded at its slice, and its fault: INFO from the slice, or BLOCK from the group when it is halted. -/
def State.recordDead (s : State) (d addr source : Nat) (halted : Bool) : State :=
  s.atBase (s.sliceBase d) (fun s b =>
    if s.bit (Reg.sliceStatus b) 0 then s.setBit (Reg.sliceStatus b) 1
    else
      let s := (s.setReg (Reg.deadAddrLo b) (BitVec.ofNat 32 addr)).setLatch (Reg.deadAddrHi b) (BitVec.ofNat 32 (addr / 2 ^ 32))
      let s := s.setReg (Reg.deadSource b) (BitVec.ofNat 32 (source + if halted then 2 ^ 16 else 0))
      s.setBit (Reg.sliceStatus b) 0)

/-- The record of a fault of a slice (R506): the structure word and the partition-local slice. -/
def sliceFault (s : State) (code d p : Nat) (addr : Nat) (word0 : W32) : FaultRec :=
  { FaultRec.plain code (unitDest ((s.siteOf d).getD (posSite d))) (s.dieTime d) (some p) with
    addr := BitVec.ofNat 64 addr, detail := [word0, BitVec.ofNat 32 (d - 12 * s.partK0 p), 0, 0, 0] }

/-- A read of a dead line that goes on with zeros (R273). -/
def State.deadRead (s : State) (d p addr source : Nat) : State :=
  (s.recordDead d addr source false).raise (sliceFault s 0x010B d p addr (BitVec.ofNat 32 source))

/-- Whether reads of dead lines halt for a launch: by the option in force when its entry was taken (R274, R459). -/
def State.launchHaltsDead (s : State) (id p : Nat) : Bool := match s.works.find? (fun k => k.id == id) with
  | some k => k.options.getLsbD 0
  | none => s.deadHalt p

/-- Whether a request's read of a dead line halts its group (R274). -/
def State.haltsDead (s : State) (r : MemReq) : Bool := match s.group r.arr r.slot with
  | none => s.deadHalt r.part
  | some g => match s.block r.arr g.block with
    | some b => s.launchHaltsDead b.launch r.part
    | none => s.deadHalt r.part

/-- The block of a group that read a dead line halted (R274). -/
def State.deadHalt1 (s : State) (addr : Nat) (c : Ctx) : State :=
  let f := { groupFault s c 0x010B (BitVec.ofNat 64 addr) 0 with cls := 2 }
  noteLaunchFault (haltBlock (s.raise f) c.ga c.grp.block) c.blk.launch (BitVec.ofNat 32 (0x010B + 2 * 2 ^ 16)) (unitArray c.ga)

/-- A read of a dead line that is not performed (R274). -/
def State.deadHaltReq (s : State) (d : Nat) (r : MemReq) : State :=
  (s.reqCtxs r).foldl (fun s c => s.deadHalt1 r.addr c) (((s.recordDead d r.addr r.arr true).complete r).freeVisitor r)

/-! Atomics (R155, R156, R262). -/

/-- What an atomic stores: 0 add, 1 min, 2 max, 3 and, 4 or, 5 xor, 6 exchange, 7 compare-and-swap. -/
def atomNew (op size : Nat) (signed isFloat : Bool) (old x y : Nat) : Nat :=
  let w := 8 * size
  if isFloat then
    match op with
    | 0 => (fp32.add 0 false (fp32.decode old) (fp32.decode x)).1
    | 1 => (fp32.minMax false (fp32.decode old) (fp32.decode x)).1
    | _ => (fp32.minMax true (fp32.decode old) (fp32.decode x)).1
  else
    let x := x % 2 ^ w
    match op with
    | 0 => (old + x) % 2 ^ w
    | 1 => if readInt w signed x < readInt w signed old then x else old
    | 2 => if readInt w signed old < readInt w signed x then x else old
    | 3 => old &&& x
    | 4 => old ||| x
    | 5 => old ^^^ x
    | 6 => x
    | _ => if old = y % 2 ^ w then x else old

/-- The operations of a request performed on a line in ascending lane order: the line, the bytes written, and the value each lane found
(R155). Only a successful compare-and-swap writes. -/
def atomLine (op : Nat) (r : MemReq) : List LaneAcc → LineData → ByteMask → List (LaneAcc × Nat) → LineData × ByteMask × List (LaneAcc × Nat)
  | [], l, m, out => (l, m, out)
  | a :: t, l, m, out =>
    let old := lineBytes l a.off r.size
    let new := atomNew op r.size r.signed r.isFloat old a.data.toNat a.cmp.toNat
    let writes := op != 7 || old == a.cmp.toNat % 2 ^ (8 * r.size)
    if writes then atomLine op r t (putLineBytes l a.off r.size new) (m ||| maskOf a.off r.size) (out ++ [(a, old)])
    else atomLine op r t l m (out ++ [(a, old)])

/-- What a list of lane results gives a lane. -/
def lookLane (l : List (LaneAcc × Nat)) (a : LaneAcc) : Nat := match l.find? (fun e => e.1 == a) with
  | some e => e.2
  | none => 0

/-! Returning whole lines. -/

/-- A whole line returned to a die that is not its home becomes a visitor copy with the bytes the die has stored meanwhile, stamped as it was
asked for (R264, R265). -/
def State.installVisitor (s : State) (r : MemReq) (data : LineData) : State :=
  let d := r.arr / 8
  match (s.slice d).visitors.find? (fun v => v.id == r.id) with
  | none => s
  | some v =>
    let s := s.freeVisitor r
    let set := s.setOf r.line
    if v.drop then s
    else
      let l : SLine := { line := r.line, st := .clean, mask := 0, data := mergeLine data v.ownData v.own, comp := 0, visitor := true, stamp := r.stamp }
      match (s.slice d).find set r.line true with
      | some _ =>
        let s := s.storeLine d r.part l
        if s.crowded d r.line true then s.setSlice d ((s.slice d).update set r.line true false none) else s
      | none =>
        match s.allocWay d r.part set (s.wayLimit d true) 18 with
        | none => s
        | some (w, s) => s.enterLine d r.part w l

/-- The bytes a load returns: the line with what its array still holds dirty (R287). -/
def State.overlayL1 (s : State) (ga line : Nat) (data : LineData) : LineData := match (s.arr ga).l1Line line with
  | some l => mergeLine data l.data l.dirty
  | none => data

/-- A line of an L1 after its fill (R245, R289): the line's bytes under those that the array has stored since it asked for it, or nothing of
the fill where the line is not to be kept. -/
def Arr.fillLine (a : Arr) (line : Nat) (data : LineData) (keep : Bool) : Tab L1Line := match a.l1Find line with
  | some k => (match Tab.get a.l1 k with
      | some l => if keep then Tab.put a.l1 k { l with data := mergeLine data l.data l.dirty, valid := fullMask }
          else if l.dirty = 0 then Tab.erase a.l1 k else a.l1
      | none => a.l1)
  | none => a.l1

/-- A line that later loads of an array joined after it had been given up is asked for again (R247). -/
def State.askAgain (s : State) (m : L1Miss) : State := match m.late with
  | [] => s
  | w :: _ =>
    let (id, s) := s.newId
    let a := s.arr w.arr
    let again : L1Miss := { line := m.line, dropFill := false, waiters := m.late, late := [], own := 0, ownData := 0 }
    (s.setArr w.arr { a with l1Miss := a.l1Miss ++ [again] }).sendReq { w with id := id, kind := .fillL1, lanes := [], mask := 0, data := 0 }

/-- A fill of an L1 (R245, R247): the line's other bytes become valid, the miss register frees, and its waiters are served. A line given
up meanwhile, or dead at its home, is not kept. -/
def State.fillL1 (s : State) (r : MemReq) (data : LineData) (keep : Bool) : State :=
  let a := s.arr r.arr
  match a.l1Miss.find? (fun m => m.line == r.line) with
  | none => s
  | some m =>
    let data := mergeLine data m.ownData m.own
    let seen := s.overlayL1 r.arr r.line data
    let s := s.setArr r.arr { a with l1 := a.fillLine r.line data (keep && !m.dropFill), l1Miss := a.l1Miss.filter (fun m => m.line != r.line) }
    (m.waiters.foldl (fun s w => s.deliver w (loadValue w seen)) s).askAgain m

/-- A line for an array side buffer on its way (R269). -/
def State.sendSide (s : State) (r : MemReq) (code : FillCode) (data : LineData) : State :=
  let f : Fill := { part := r.part, line := r.line, code := code, data := data, arr := some r.arr }
  { s with sideFills := s.sideFills ++ [f] }

/-- An array prefetch dropped at the home: it never waits and displaces nothing (R269, R271). -/
def State.dropPrefetch (s : State) (r : MemReq) : State :=
  let a := s.arr r.arr
  s.setArr r.arr { a with sidePend := a.sidePend.filter (· != r.line) }

/-- A read that found its bytes: what it returns to its array (R250, R268, R272). `keep` is false when the line is dead, so that no copy
of it is kept. -/
def State.answerRead (s : State) (r : MemReq) (data : LineData) (keep : Bool) : State :=
  match r.kind with
  | .fillL1 => (if keep then s.installVisitor r data else s.freeVisitor r).fillL1 r data keep
  | .prefetchArray => s.sendSide r (if keep then .live else .dead) data
  | .load =>
    let s := if keep then s.installVisitor r data else s.freeVisitor r
    s.deliver r (loadValue r (s.overlayL1 r.arr r.line data))
  | .loadAcq => s.deliver r (loadValue r (s.overlayL1 r.arr r.line data))
  | _ => s.deliver r (loadValue r data)

/-- The miss register of an L1 free without a fill, and the loads that waited in it. -/
def State.endMissL1 (s : State) (r : MemReq) : List MemReq × State :=
  let a := s.arr r.arr
  let waiters := (a.l1Miss.filter (fun m => m.line == r.line)).flatMap (fun m => m.waiters ++ m.late)
  (waiters, s.setArr r.arr { a with l1 := a.fillLine r.line 0 false, l1Miss := a.l1Miss.filter (fun m => m.line != r.line) })

/-- A read whose line is poisoned (R323): each waiter's group faults; a prefetch reports nothing (R269). -/
def State.answerPoison (s : State) (r : MemReq) : State :=
  let s := s.freeVisitor r
  match r.kind with
  | .fillL1 =>
    let (waiters, s) := s.endMissL1 r
    waiters.foldl (fun s w => s.poisonReq w) s
  | .prefetchArray => s.sendSide r .poisoned 0
  | .store => s
  | .kill => s
  | .prefetchHome => s
  | _ => s.poisonReq r

/-- A read of a line of a released far region (R618): no fault is raised, and its value is none the spec gives (log entry 1). -/
def State.answerReleased (s : State) (r : MemReq) : State :=
  let (data, s) := (s.freeVisitor r).hostLine
  match r.kind with
  | .fillL1 => s.fillL1 r data false
  | .prefetchArray => s.sendSide r .released 0
  | .store => s
  | .kill => s
  | .prefetchHome => s
  | _ => s.deliver r (loadValue r data)

/-! Sum lines. -/

/-- The value that marks an element whose sum is not a valid L128 value (R218, R221). -/
def badSum : BitVec 128 := BitVec.ofNat 128 (2 ^ 127)

/-- An element as its line enters sum mode from its content (R218). -/
def SumElem.enter (c : BitVec 128) : SumElem :=
  let e : SumElem := { acc := c.signExtend 144, w := 0, wKnown := false, tag := .finite, count := 1, entry := c }
  if c = 0 then { e with tag := .untouched, count := 0 } else if c = badSum then { e with tag := .nan } else e

/-- The elements of a line that enters sum mode from its content. -/
def enterElems (d : LineData) : List SumElem := (List.range 8).map (fun e => SumElem.enter (BitVec.ofNat 128 (lineBytes d (16 * e) 16)))

/-- A contribution added to an element (R215 to R217). -/
def SumElem.add (e : SumElem) (v : BitVec 128) (w : BitVec 16) (isNan : Bool) : SumElem :=
  let tag : STag := if isNan ∨ e.tag = .nan ∨ (e.wKnown ∧ e.w ≠ w) then .nan else .finite
  { e with acc := if isNan then e.acc else e.acc + v.signExtend 144, w := if e.wKnown then e.w else w, wKnown := true, tag := tag,
           count := min (e.count + 1) 0xFFFFFFFF }

/-- Two parts of one element's sum merged (R229). -/
def SumElem.merge (x y : SumElem) : SumElem :=
  let tag : STag := if x.tag = .nan ∨ y.tag = .nan ∨ (x.wKnown ∧ y.wKnown ∧ x.w ≠ y.w) then .nan
    else if x.tag = .untouched ∧ y.tag = .untouched then .untouched else .finite
  { acc := x.acc + y.acc, w := if x.wKnown then x.w else y.w, wKnown := x.wKnown || y.wKnown, tag := tag,
    count := min (x.count + y.count) 0xFFFFFFFF, entry := y.entry }

/-- The 16 bytes an element closes to (R221). -/
def SumElem.close (e : SumElem) : BitVec 128 :=
  match e.tag with
  | .untouched => e.entry
  | .nan => badSum
  | .finite =>
    let x := e.acc.toInt
    if x < 2 ^ 127 ∧ -(2 ^ 127 : Int) < x then e.acc.truncate 128 else badSum

/-- The line its elements close to. -/
def closeElems (es : List SumElem) : LineData :=
  BitVec.ofNat 1024 ((es.foldr (fun e acc => e.close.toNat + 2 ^ 128 * acc) 0))

/-- The partition address of spill record i of bucket b of the slice of logical die d (R225, R226). -/
def State.spillAddr (s : State) (p d b i : Nat) : Nat :=
  189 * gib * s.partN p + (d - 12 * s.partK0 p) * 2 ^ 28 + b * 4096 + i * 256

/-- n bytes of HBM at a partition address within one 4 KiB unit, as a number; and those bytes written. -/
def State.rawRead (s : State) (p addr n : Nat) : Nat :=
  let (g, off) := s.stackOf p addr
  Mem.readLE s.hbm (hbmKey g off) n
def State.rawWrite (s : State) (p addr v n : Nat) : State :=
  let (g, off) := s.stackOf p addr
  { s with hbm := Mem.writeLE s.hbm (hbmKey g off) v n }

/-- The tag code of a spill record (R228). -/
def STag.code : STag → Nat
  | .untouched => 0
  | .finite => 1
  | .nan => 3

/-- The 256 bytes of a spill record (R228). -/
def spillRecord (line : Nat) (es : List SumElem) : Nat :=
  let part := fun (f : SumElem → Nat) (w : Nat) => es.foldr (fun e acc => f e + 2 ^ w * acc) 0
  (128 * line + 1) + 2 ^ (8 * 0x10) * part (fun e => e.w.toNat) 16 + 2 ^ (8 * 0x20) * part (fun e => e.acc.toNat / 2 ^ 128) 16
    + 2 ^ (8 * 0x30) * part (fun e => e.tag.code) 2 + 2 ^ (8 * 0x40) * part (fun e => e.count) 32
    + 2 ^ (8 * 0x80) * part (fun e => e.acc.toNat % 2 ^ 128) 128

/-- The elements a spill record holds, with the mask of those whose W is still open. -/
def recordElems (x : Nat) (wOpen : Nat) : List SumElem :=
  (List.range 8).map (fun e =>
    let tag := bitsOf x (8 * 0x30 + 2 * e) 2
    let low := bitsOf x (8 * 0x80 + 128 * e) 128
    { acc := BitVec.ofNat 144 (low + 2 ^ 128 * bitsOf x (8 * 0x20 + 16 * e) 16), w := BitVec.ofNat 16 (bitsOf x (8 * 0x10 + 16 * e) 16),
      wKnown := !bitAt wOpen e && tag != 0, tag := if tag = 0 then .untouched else if tag = 1 then .finite else .nan,
      count := bitsOf x (8 * 0x40 + 32 * e) 32, entry := BitVec.ofNat 128 low })

/-- The spill record of a line: its number in its bucket (R228, R230). -/
def State.findSpill (s : State) (p d line : Nat) : Option Nat :=
  let b := s.setOf line / 2
  let occ := Tab.getD (s.slice d).spills b 0
  (List.range 16).find? (fun i => occ.getLsbD i && s.rawRead p (s.spillAddr p d b i) 8 == 128 * line + 1)

/-- The elements of a line's spill record, and the slice with the record freed. -/
def State.takeSpill (s : State) (p d line i : Nat) : List SumElem × State :=
  let b := s.setOf line / 2
  let a := s.spillAddr p d b i
  let x := s.slice d
  let es := recordElems (s.rawRead p a 256) (Tab.getD x.wOpen (16 * b + i) 0).toNat
  let occ := (Tab.getD x.spills b 0) &&& ~~~(BitVec.ofNat 16 (2 ^ i))
  let s := s.setSlice d { x with spills := if occ = 0 then Tab.erase x.spills b else Tab.put x.spills b occ,
                                 wOpen := Tab.erase x.wOpen (16 * b + i) }
  (es, s.rawWrite p a 0 8)

/-- A sum line spilled to a free record of its bucket (R224, R226): none when the bucket has none. Bytes of its content at entry that memory
does not hold are written back, so that a later close finds the same content there (R229, R240; DEDUCED, log entry 80). -/
def State.spill (s : State) (p d : Nat) (u : SumLine) : Option State :=
  let set := s.setOf u.line
  let b := set / 2
  let x := s.slice d
  let occ := Tab.getD x.spills b 0
  match (List.range 16).find? (fun i => !occ.getLsbD i) with
  | none => none
  | some i =>
    let wo := (List.range 8).foldl (fun acc e => match u.elems[e]? with
      | some v => if v.wKnown then acc else acc + 2 ^ e
      | none => acc) 0
    let x := { x with spills := Tab.put x.spills b (occ ||| BitVec.ofNat 16 (2 ^ i)), wOpen := Tab.put x.wOpen (16 * b + i) (BitVec.ofNat 8 wo),
                      sums := x.sums.filter (fun v => v.line != u.line) }
    let s := s.setSlice d (x.update set u.line false false none)
    let s := (s.rawWrite p (s.spillAddr p d b i) (spillRecord u.line u.elems) 256).sliceCount d 7
    let entry : LineData := BitVec.ofNat 1024 (u.elems.foldr (fun e acc => e.entry.toNat + 2 ^ 128 * acc) 0)
    some (if u.mask = 0 then s else (s.memPut p u.line entry u.mask false).sliceCount d 4)

/-- The oldest of a list of sum lines. -/
def oldestSum (l : List SumLine) : Option SumLine := (sortBy (·.since) l).head?

/-- What a contribution that needs a new sum line finds: room for it, an older line whose bucket read it has to wait for, or no capacity. -/
inductive SumRoom where
  | room (s : State)
  | wait
  | full (s : State)
  deriving DecidableEq, Repr

/-- Some line of a slice spilled, the oldest first: what is left when the sum-line store is full (R227). -/
def State.spillAny (s : State) (p d : Nat) : Option State :=
  (sortBy (·.since) (s.slice d).sums).findSome? (fun u => if u.merging then none else s.spill p d u)

/-- Room for a new sum line in a set (R223, R224, R227). -/
def State.sumRoom (s : State) (p d set : Nat) : SumRoom :=
  let x := s.slice d
  let own := x.sums.filter (fun u => s.setOf u.line == set)
  if own.length < 4 ∧ x.sums.length < 16384 then .room s
  else match (if own.isEmpty then oldestSum x.sums else oldestSum own) with
    | none => .room s
    | some u =>
      if u.merging then .wait
      else match s.spill p d u with
        | some s => .room s
        | none =>
          let s := s.sliceBit d 2
          if 12 ≤ own.length then .full s
          else if x.sums.length < 24576 then .room s
          else match s.spillAny p d with
            | some s => .room s
            | none => .full s

/-! One access at the home. -/

/-- The launch a group slot runs for. -/
def State.launchId (s : State) (ga slot : Nat) : Nat := match s.group ga slot with
  | some g => (match s.block ga g.block with
      | some b => b.launch
      | none => 0)
  | none => 0

/-- A line of a slice replaced after an access of a request. A host-coherent line taken modified is logged for its slice (R415); in a
follower its bytes are entered in the journal instead, and the line stays as clean as the host has it, or dead (R544). -/
def State.putHome (s : State) (d : Nat) (r : MemReq) (l : SLine) : State :=
  if 128 * r.line < hcStart then s.storeLine d r.part l
  else if s.follows r.part then
    if l.st = .dead then s.storeLine d r.part l
    else (s.hostPost r.part (s.launchId r.arr r.slot) 0 0 (s.hcHost r.part (128 * r.line)) l.data l.mask).storeLine d r.part
      { l with st := .clean, mask := 0 }
  else (s.storeLine d r.part l).logDirty (s.partPort r.part) r.sl (s.hcHost r.part r.addr)

/-- A pinned sum line closed: an ordinary dirty line (R220, R221). -/
def State.closeSum (s : State) (d p line : Nat) : State :=
  let x := s.slice d
  match x.sums.find? (fun u => u.line == line), x.line? (s.setOf line) line false with
  | some u, some l =>
    let s := s.setSlice d { x with sums := x.sums.filter (fun v => v.line != line) }
    s.storeLine d p { l with st := .dirty, mask := fullMask, data := closeElems u.elems }
  | _, _ => s

/-- A line with stored bytes (R259, R275, R280). -/
def SLine.stored (l : SLine) (data : LineData) (mask : ByteMask) : SLine :=
  match l.st with
  | .dead => { l with st := .dirty, mask := fullMask, data := mergeLine 0 data mask }
  | .clean => { l with st := .dirty, mask := mask, data := mergeLine l.data data mask }
  | .partialLine =>
    let m := l.mask ||| mask
    { l with st := if m = fullMask then .dirty else .partialLine, mask := m, data := mergeLine l.data data mask }
  | _ => { l with mask := l.mask ||| mask, data := mergeLine l.data data mask }

/-- The bytes a read needs valid: for a whole-line read all, otherwise those of its lanes. -/
def MemReq.need (s : State) (r : MemReq) : ByteMask :=
  let whole := match r.kind with
    | .fillL1 => true
    | .prefetchArray => true
    | .ledger => true
    | .load => s.homeDie r.part r.line != r.arr / 8
    | _ => false
  if whole then fullMask else r.lanes.foldl (fun m a => m ||| maskOf a.off r.size) 0

/-- A write acknowledged by its home is on its way back to its array (R293). -/
def State.ackWrite (s : State) (r : MemReq) : State := { s with writeAcks := s.writeAcks ++ [(r.arr, r.line, r.id)] }

/-- An access performed on a resident home line whose bytes suffice (R272, R273, R275, R280). The line is not in sum mode. -/
def State.access (s : State) (d : Nat) (r : MemReq) (l : SLine) : State :=
  let p := r.part
  let touch := fun (s : State) => s.setSlice d ((s.slice d).update (s.setOf r.line) r.line false true (some l))
  let dead := l.st == .dead
  let killed : SLine := { l with st := .dead, mask := 0, data := 0, comp := 0 }
  match r.kind with
  | .store => (s.putHome d r (l.stored r.data r.mask)).ackWrite r
  | .kill => (s.putHome d r killed).complete r
  | .prefetchHome => s
  | .prefetchArray => if dead then s.answerRead r 0 false else (touch s).answerRead r l.data true
  | .ledger => s
  | .atom op =>
    if dead ∧ s.haltsDead r then s.deadHaltReq d r
    else
      if dead then ((touch s).deadRead d p r.addr r.arr).deliver r (fun _ => 0)
      else
        let (data, m, vals) := atomLine op r r.lanes l.data 0 []
        (if m = 0 then touch s else s.putHome d r (l.stored data m)).deliver r (lookLane vals)
  | .red op =>
    if dead ∧ s.haltsDead r then s.deadHaltReq d r
    else
      if dead then ((touch s).deadRead d p r.addr r.arr).complete r
      else
        let (data, m, _) := atomLine op r r.lanes l.data 0 []
        (if m = 0 then touch s else s.putHome d r (l.stored data m)).complete r
  | .loadLast =>
    if dead then (if s.haltsDead r then s.deadHaltReq d r else (s.deadRead d p r.addr r.arr).answerRead r 0 false)
    else (s.answerRead r l.data true).putHome d r killed
  | .load =>
    if dead then (if s.haltsDead r then s.deadHaltReq d r else ((touch s).deadRead d p r.addr r.arr).answerRead r 0 false)
    else (touch s).answerRead r l.data true
  | .loadAcq =>
    if dead then (if s.haltsDead r then s.deadHaltReq d r else ((touch s).deadRead d p r.addr r.arr).answerRead r 0 false)
    else (touch s).answerRead r l.data true
  | .fillL1 =>
    if dead then
      if s.haltsDead r then
        let (waiters, s) := (s.freeVisitor r).endMissL1 r
        waiters.foldl (fun s w => s.deadHaltReq d w) s
      else
        let first := ((s.arr r.arr).l1Miss.find? (fun m => m.line == r.line)).bind (fun m => m.waiters.head?)
        ((touch s).deadRead d p ((first.map MemReq.addr).getD (128 * r.line)) r.arr).answerRead r 0 false
    else (touch s).answerRead r l.data true

/-- A sum-line contribution performed on a pinned line (R215 to R217). -/
def State.contribute (s : State) (d : Nat) (r : MemReq) : State :=
  let x := s.slice d
  let s := s.setSlice d { x with sums := x.sums.map (fun u =>
    if u.line = r.line then
      { u with elems := (List.range 8).zip u.elems |>.map (fun e =>
        (r.lanes.filter (fun a => a.off / 16 == e.1)).foldl (fun v a => v.add a.data a.w a.nan) e.2) }
    else u) }
  s.complete r

/-- A line put in sum mode (R218): a resident line keeps its entry. None when the line shared its entry and no other can be had (R256). -/
def State.startSum (s : State) (d p : Nat) (l : SLine) (elems : List SumElem) (merging : Bool) : Option State :=
  let (t, s) := s.newId
  let set := s.setOf l.line
  let x := (s.slice d).update set l.line false true (some { l with st := .sum, mask := 0, data := 0, comp := 0 })
  let u : SumLine := { line := l.line, since := t, merging := merging, mask := if l.st = .dead then fullMask else l.mask, elems := elems }
  let s := (s.setSlice d { x with sums := x.sums ++ [u] }).resettle d p set l.line false
  if s.crowded d l.line false then none else some s

/-- LEDGER_HOME_FAULT: an addition failed its check twice, and nothing was added (R237). -/
def State.homeFault (s : State) (d p addr : Nat) : State :=
  let word := match s.sliceBase d with
    | some b => s.reg (Reg.parityWhere b)
    | none => 0
  s.raise (sliceFault s 0x0205 d p addr word)

/-- The record of a sum line whose bucket read was outstanding merged into it, and free (R229). -/
def State.mergeRecord (s : State) (d p line : Nat) : State :=
  match (s.slice d).sums.find? (fun u => u.line == line && u.merging), s.findSpill p d line with
  | some _, some i =>
    let (es, s) := s.takeSpill p d line i
    let x := s.slice d
    s.setSlice d { x with sums := x.sums.map (fun (u : SumLine) =>
      if u.line = line then { u with merging := false, elems := (u.elems.zip es).map (fun e => e.1.merge e.2) } else u) }
  | _, _ => s

/-- Every part of a line's sum discarded: its sum line and its record (R272). -/
def State.discardSum (s : State) (d p line : Nat) : State :=
  let s := match s.findSpill p d line with
    | some i => (s.takeSpill p d line i).2
    | none => s
  let x := s.slice d
  s.setSlice d { x with sums := x.sums.filter (fun u => u.line != line) }

/-- Whether a line has the bytes an access needs (R280). -/
def SLine.suffices (l : SLine) (need : ByteMask) : Bool :=
  match l.st with
  | .filling => false
  | .partialLine => (need &&& ~~~l.mask) == 0
  | _ => true

/-- Whether a request reads: it needs bytes that its own store does not give. -/
def ReqKind.reads : ReqKind → Bool
  | .store => false
  | .kill => false
  | .prefetchHome => false
  | _ => true

/-- The request queued first for a line that a test accepts, and the queue without it. -/
def takeReq (f : MemReq → Bool) : List MemReq → Option (MemReq × List MemReq)
  | [] => none
  | r :: t => if f r then some (r, t) else match takeReq f t with
    | none => none
    | some (q, u) => some (q, r :: u)

/-- A request added to the waiters of a line's miss register, where it has room (R261). -/
def State.waitMiss (s : State) (d : Nat) (r : MemReq) : Option State :=
  let x := s.slice d
  match x.misses.find? (fun m => m.line == r.line) with
  | none => none
  | some m =>
    if 64 ≤ m.waiters.length then none
    else some (s.setSlice d { x with misses := x.misses.map (fun k => if k.line = r.line then { k with waiters := k.waiters ++ [r] } else k) })

/-- A miss (R259, R261): the line's entry in Filling state, a miss register with its first waiter, and the read of memory, unless a
prefetch of the line has asked for it already. None when no register or no way is free, or when a regulator holds the read: the
request waits. -/
def State.missLine (s : State) (d : Nat) (r : MemReq) : Option State :=
  let p := r.part
  let set := s.setOf r.line
  let x := s.slice d
  let asked := x.sidePend.contains r.line
  match (if asked then some s else if !s.missRoom d then none else s.chargeLine p r.sl r.line) with
  | none => none
  | some s =>
    let placed := match x.line? set r.line false with
      | some l => some (s.setSlice d (x.update set r.line false true (some { l with st := .filling })))
      | none => match s.allocWay d p set none 18 with
        | none => none
        | some (w, s) =>
          let l : SLine := { line := r.line, st := .filling, mask := 0, data := 0, comp := 0, visitor := false, stamp := 0 }
          some (s.placeLine d set w l)
    match placed with
    | none => none
    | some s =>
      let x := s.slice d
      let m : Miss := { line := r.line, waiters := [r] }
      let s := s.setSlice d { x with misses := x.misses ++ [m], sidePend := x.sidePend.filter (· != r.line) }
      some (if asked then s else s.askRead p r.line false)

/-- A line entered at a home in a free way, where one can be had (R255, R256). -/
def State.enterHome (s : State) (d p : Nat) (l : SLine) : Option State :=
  (s.allocWay d p (s.setOf l.line) none 18).map (fun e => e.2.enterLine d p e.1 l)

/-- An access to a line of the host-coherent region that is not resident: the home takes the host's line under CXL.cache (R285, R411);
its bytes are the host's (log entry 1). -/
def State.takeHostLine (s : State) (d p line : Nat) : Option State :=
  let (data, t) := s.hostLine
  if !s.mayAsk p then none
  else t.enterHome d p { line := line, st := .clean, mask := 0, data := data, comp := 0, visitor := false, stamp := 0 }

/-- A contribution that puts its line in sum mode (R218, R223 to R227). -/
def State.beginSum (s : State) (d : Nat) (r : MemReq) (l : SLine) (elems : List SumElem) (merging : Bool) : Option State :=
  match s.sumRoom r.part d (s.setOf r.line) with
  | .wait => none
  | .full s => some (s.failReq r 0x0204)
  | .room s => (s.startSum d r.part l elems merging).map (fun s => s.contribute d r)

/-- A line leaving the home side buffer on its first demand access (R270). -/
def State.leaveSide (s : State) (d p line : Nat) (data : LineData) : Option State :=
  let x := s.slice d
  (s.setSlice d { x with side := x.side.filter (fun e => e.1 != line) }).enterHome d p
    { line := line, st := .clean, mask := 0, data := data, comp := 0, visitor := false, stamp := 0 }

/-- A request for a line that its home holds (R250, R259, R261, R272 to R275, R280, R220). -/
def State.serveHeld (s : State) (d : Nat) (r : MemReq) (l : SLine) : Option State :=
  let p := r.part
  let set := s.setOf r.line
  let x := s.slice d
  match l.st with
  | .filling =>
    let sameArray := (x.misses.filter (fun m => m.line == r.line)).any (fun m => m.waiters.any (fun w => w.arr == r.arr))
    (match r.kind with
      | .store =>
        if sameArray then s.waitMiss d r
        else some ((s.setSlice d (x.update set r.line false false (some (l.stored r.data r.mask)))).ackWrite r)
      | .prefetchHome => some s
      | _ => s.waitMiss d r)
  | .sum =>
    (match r.kind with
      | .ledger => some (s.contribute d r)
      | .kill => some ((s.discardSum d p r.line).access d r { l with st := .dirty, data := 0 })
      | _ =>
        if x.sums.any (fun u => u.line == r.line && u.merging) then none
        else
          let s := s.closeSum d p r.line
          match (s.slice d).line? set r.line false with
          | some l => some (s.access d r l)
          | none => none)
  | _ =>
    if r.kind = .ledger then
      (if l.st = .partialLine then s.missLine d r
      else s.beginSum d r l (enterElems (if l.st = .dead then 0 else l.data)) false)
    else if r.kind.reads ∧ !l.suffices (r.need s) then s.missLine d r
    else some (s.access d r l)

/-- A request for a line that its home does not hold (R226, R229, R230, R250, R259, R269, R272, R285, R335). -/
def State.serveAbsent (s : State) (d : Nat) (r : MemReq) : Option State :=
  let p := r.part
  let x := s.slice d
  let line : SLine := { line := r.line, st := .clean, mask := 0, data := 0, comp := 0, visitor := false, stamp := 0 }
  if hcStart ≤ 128 * r.line then
    (match s.takeHostLine d p r.line with
      | none => none
      | some s => ((s.slice d).line? (s.setOf r.line) r.line false).map (fun l => s.access d r l))
  else if s.reads.any (fun o => o.through && o.part == p && o.line == r.line) then none
  else
    match r.kind, s.findSpill p d r.line with
    | .ledger, some _ =>
      (match s.sumRoom p d (s.setOf r.line) with
        | .wait => none
        | .full s => some (s.failReq r 0x0204)
        | .room s => match s.allocWay d p (s.setOf r.line) none 18 with
          | none => none
          | some (w, s) => ((s.placeLine d (s.setOf r.line) w line).startSum d p line (enterElems 0) true).map (fun s => s.contribute d r))
    | .kill, _ => ((s.discardSum d p r.line).enterHome d p { line with st := .dead }).map (fun s => s.complete r)
    | .store, none =>
      (s.enterHome d p { line with st := if r.mask = fullMask then .dirty else .partialLine, mask := r.mask, data := mergeLine 0 r.data r.mask }).map
        (fun s => s.ackWrite r)
    | .prefetchHome, none =>
      if x.sidePend.contains r.line || x.misses.any (fun m => m.line == r.line) || !s.missRoom d then some s
      else some (match s.chargeLine p r.sl r.line with
        | none => s
        | some s => (s.setSlice d { s.slice d with sidePend := x.sidePend ++ [r.line] }).askRead p r.line true)
    | .prefetchArray, none =>
      if x.sidePend.contains r.line || x.misses.any (fun m => m.line == r.line) || !s.missRoom d then some (s.dropPrefetch r)
      else some (match s.missLine d r with
        | none => s.dropPrefetch r
        | some s => s)
    | _, _ => if x.misses.any (fun m => m.line == r.line) then none else s.missLine d r

/-- One request performed at its home, as far as it can be now (R250, R259 to R276, R280): none when it has to wait in the slice's input
queue, an entry that a written line has outgrown included (R256). -/
def State.serve (s : State) (d : Nat) (r : MemReq) : Option State :=
  let x := s.slice d
  let done := match x.line? (s.setOf r.line) r.line false with
    | some l => s.serveHeld d r l
    | none => match x.sideData r.line, r.kind with
      | some _, .prefetchHome => some s
      | some data, _ => (s.leaveSide d r.part r.line data).bind (fun s => match (s.slice d).line? (s.setOf r.line) r.line false with
          | some l => s.serveHeld d r l
          | none => none)
      | none, _ => s.serveAbsent d r
  done.bind (fun t => if t.crowded d r.line false then none else some t)

/-- The counter of a slice that a request at its home adds to: 0 a hit, 1 a miss, a merged one included; contributions, prefetches that find
nothing to do and stores and kills of absent lines are neither (R283; DESIGN CHOICE, log entry 81). -/
def State.hitKind (s : State) (d : Nat) (r : MemReq) : Option Nat :=
  let x := s.slice d
  if r.kind = .ledger ∨ r.kind = .prefetchHome then none
  else match x.line? (s.setOf r.line) r.line false with
    | some l => match l.st with
      | .filling => if r.kind = .store then none else some 1
      | .sum => some 0
      | _ => some (if r.kind.reads && !l.suffices (r.need s) then 1 else 0)
    | none =>
      if (x.sideData r.line).isSome then some 0
      else if r.kind = .store ∨ r.kind = .kill then (if hcStart ≤ 128 * r.line then some 1 else none)
      else some 1

/-- A hit or a miss counted (R283). -/
def State.countHit (s : State) (d : Nat) : Option Nat → State
  | none => s
  | some i => s.sliceCount d i

/-- Whether a read finds its bytes at a home without memory, after a fill that brought none. -/
def State.servable (s : State) (d : Nat) (r : MemReq) : Bool :=
  !r.kind.reads || (match (s.slice d).line? (s.setOf r.line) r.line false with
    | some l => l.st != .filling && l.suffices (r.need s)
    | none => false)

/-- A request performed at its home, or, as a contribution whose addition fails its check twice, given up with LEDGER_HOME_FAULT (R237). -/
def State.serveChecked (s : State) (d : Nat) (r : MemReq) (fails : Bool) : Option State :=
  if fails && r.kind == .ledger then
    match s.serve d { r with lanes := [] } with
    | some t => if (t.slice d).sums.any (fun x => x.line == r.line) then some ((t.complete r).homeFault d r.part r.addr) else s.serve d r
    | none => none
  else s.serve d r

/-- The waiters of a line whose fill came served in their order (R251, R261); one that finds no bytes is answered by `bad`, and one that has
to wait again goes back to the head of the queue with those behind it. `failed` numbers the contributions whose addition fails its check. -/
def State.serveAll (d : Nat) (failed : List Nat) (ok : State → MemReq → Bool) (bad : State → MemReq → State) : List MemReq → State → State
  | [], s => s
  | r :: t, s =>
    if !ok s r then State.serveAll d failed ok bad t (bad s r)
    else match s.serveChecked d r (failed.contains r.id) with
      | some s => State.serveAll d failed ok bad t s
      | none => { s with reqs := (r :: t) ++ s.reqs }

/-- The waiters of a line whose bytes came. -/
def State.serveFilled (s : State) (d : Nat) (failed : List Nat) (waiters : List MemReq) : State :=
  State.serveAll d failed (fun _ _ => true) (fun s _ => s) waiters s

/-- The entry of a line after a fill without bytes: what stores have merged stays, otherwise nothing (R323). -/
def State.unfill (s : State) (d : Nat) (l : SLine) : State :=
  s.setSlice d ((s.slice d).update (s.setOf l.line) l.line false false (if l.mask = 0 then none else some { l with st := .partialLine }))

/-- A home line whose fill came (R259, R276, R280): memory bytes where the mask marks none; a dead line stays dead unless stores merged
into it; a line with a spill record closes from it (R229). -/
def State.fillHome (s : State) (d p line : Nat) (code : FillCode) (data : LineData) (failed : List Nat) : State :=
  let set := s.setOf line
  let x := s.slice d
  let waiters := (x.misses.filter (fun m => m.line == line)).flatMap (·.waiters)
  let s := s.setSlice d { x with misses := x.misses.filter (fun m => m.line != line) }
  match x.line? set line false with
  | none => s.serveFilled d failed waiters
  | some l =>
    match s.findSpill p d line with
    | some i =>
      let (es, s) := s.takeSpill p d line i
      let es := (List.range 8).zip es |>.map (fun e => { e.2 with entry := BitVec.ofNat 128 (lineBytes data (16 * e.1) 16) })
      let closed := mergeLine (closeElems es) l.data l.mask
      (s.storeLine d p { l with st := .dirty, mask := fullMask, data := closed }).serveFilled d failed waiters
    | none =>
      match code with
      | .poisoned => State.serveAll d failed (fun s r => s.servable d r) State.answerPoison waiters (s.unfill d l)
      | .released => State.serveAll d failed (fun s r => s.servable d r) State.answerReleased waiters (s.unfill d l)
      | .dead =>
        let l := if l.mask = 0 then { l with st := .dead, data := 0 }
          else { l with st := .dirty, mask := fullMask, data := mergeLine 0 l.data l.mask }
        (s.storeLine d p l).serveFilled d failed waiters
      | .live =>
        let l := { l with st := if l.mask = 0 then .clean else .dirty, data := mergeLine data l.data l.mask }
        (s.storeLine d p l).serveFilled d failed waiters

/-! Agents that work line by line: couriers, the pair-link agent, the panel's own reads and writes. -/

/-- A line as its home holds it now, with memory behind it (R286, R335). A pinned or spilled sum line reads as what it would close to. -/
def State.lineNow (s : State) (p line : Nat) : FillCode × LineData :=
  let d := s.homeDie p line
  let x := s.slice d
  let below := s.memNow p line
  match x.line? (s.setOf line) line false with
  | some l =>
    (match l.st with
      | .clean => (.live, l.data)
      | .dirty => (.live, l.data)
      | .dead => (.dead, 0)
      | .sum => (.live, match x.sums.find? (fun u => u.line == line) with
          | some u => closeElems u.elems
          | none => 0)
      | _ => match below.1 with
        | .poisoned => (.poisoned, l.data)
        | .released => (.released, l.data)
        | .dead => (.live, mergeLine 0 l.data l.mask)
        | .live => (.live, mergeLine below.2 l.data l.mask))
  | none =>
    match x.sideData line with
    | some data => (.live, data)
    | none => match s.findSpill p d line with
      | some i =>
        let b := s.setOf line / 2
        let es := recordElems (s.rawRead p (s.spillAddr p d b i) 256) (Tab.getD x.wOpen (16 * b + i) 0).toNat
        (.live, closeElems es)
      | none => below

/-- A sum line closed for an access that is none of a group's (R220, R229). -/
def State.closeFor (s : State) (p line : Nat) : State :=
  let d := s.homeDie p line
  let x := s.slice d
  if x.sums.any (fun u => u.line == line) then (s.mergeRecord d p line).closeSum d p line
  else match s.findSpill p d line with
    | none => s
    | some i =>
      let below := s.memNow p line
      let (es, s) := s.takeSpill p d line i
      let es := (List.range 8).zip es |>.map (fun e => { e.2 with entry := BitVec.ofNat 128 (lineBytes below.2 (16 * e.1) 16) })
      s.memPut p line (closeElems es) fullMask false

/-- A line of a home that has outgrown the entry it shares, with no other to be had, written back and dropped: the line beside it stays
(R258; DESIGN CHOICE, log entry 22: an agent's write does not wait). -/
def State.uncrowd (s : State) (d p line : Nat) : State :=
  if s.crowded d line false then
    let x := s.slice d
    match x.line? (s.setOf line) line false with
    | some l => (s.setSlice d (x.update (s.setOf line) line false false none)).evictLine d p l
    | none => s
  else s

/-- Bytes of a line updated at its home by an agent that holds no copy (R286, R335): a resident line becomes Dirty; otherwise the write
goes through to memory, and requests for the line wait until it is there. -/
def State.updateLine (s : State) (p line : Nat) (data : LineData) (mask : ByteMask) : State :=
  let d := s.homeDie p line
  let s := s.closeFor p line
  let x := s.slice d
  let s := s.setSlice d { x with side := x.side.map (fun e => if e.1 = line then (e.1, mergeLine e.2 data mask) else e) }
  match (s.slice d).line? (s.setOf line) line false with
  | some l => (s.storeLine d p (l.stored data mask)).uncrowd d p line
  | none => s.memSend p line data mask false true

/-- A `kill.line` that no group issued, for a line of a partition. -/
def agentKill (p line : Nat) : MemReq :=
  { id := 0, part := p, arr := 768, slot := 64, kind := .kill, line := line, lanes := [], size := 1, signed := false, isFloat := false, dst := 0,
    mask := 0, data := 0, stamp := 0, sl := 0, pc := 0, mask32 := 0 }

/-- A line killed at its home by an agent (R272, R334): as a `kill.line`; one whose fill is pending is killed behind those that wait for it.
Where no entry can be had, the line is dead in memory at once. -/
def State.killLineAt (s : State) (p line : Nat) : State :=
  let d := s.homeDie p line
  let r := agentKill p line
  let x := s.slice d
  if x.misses.any (fun m => m.line == line) then
    s.setSlice d { x with misses := x.misses.map (fun k => if k.line = line then { k with waiters := k.waiters ++ [r] } else k) }
  else match s.serve d r with
    | some s => s
    | none =>
      let s := s.discardSum d p line
      let x := s.slice d
      (s.setSlice d { x with side := x.side.filter (fun e => e.1 != line) }).memPut p line 0 0 true

/-- n bytes of partition memory read by the panel itself, least significant first. -/
def State.readBytes (s : State) (p addr : Nat) : Nat → Nat
  | 0 => 0
  | n + 1 => lineBytes (s.lineNow p (addr / 128)).2 (addr % 128) 1 + 256 * State.readBytes s p (addr + 1) n

/-- n bytes of partition memory within one line read at once. -/
def State.readWord (s : State) (p addr n : Nat) : Nat := lineBytes (s.lineNow p (addr / 128)).2 (addr % 128) n

/-- n bytes within one line of partition memory written by the panel itself. -/
def State.writeWord (s : State) (p addr n v : Nat) : State :=
  s.updateLine p (addr / 128) (putLineBytes 0 (addr % 128) n v) (maskOf (addr % 128) n)

/-- Bytes of a line of the host-coherent region written for a slice and an entry: at the home where the line is resident, its page logged when
it is taken modified, else to the host (R335, R411, R415). A follower's enter its journal, and a resident line takes them as bytes the host has
(R544). -/
def State.hcWrite (s : State) (p sl work line : Nat) (pasid : W32) (data : LineData) (mask : ByteMask) : State :=
  let d := s.homeDie p line
  let addr := s.hcHost p (128 * line)
  match (s.slice d).line? (s.setOf line) line false with
  | none => (s.hostPost p work 0 pasid addr data mask).logWrite p sl addr
  | some l =>
    if s.follows p then
      (s.hostPost p work 0 pasid addr data mask).storeLine d p (if l.st = .clean then { l with data := mergeLine l.data data mask } else l)
    else ((s.logDirty (s.partPort p) sl addr).storeLine d p (l.stored data mask)).uncrowd d p line

/-- n bytes within one line of the host-coherent region written for a slice and an entry, through the line's home, which takes the line first
(R403, R411). -/
def State.writeHc (s : State) (p sl work addr n v : Nat) : State :=
  let line := addr / 128
  let d := s.homeDie p line
  let s := match (s.slice d).line? (s.setOf line) line false with
    | some _ => s
    | none => if s.follows p then s else (s.takeHostLine d p line).getD s
  s.hcWrite p sl work line 0 (putLineBytes 0 (addr % 128) n v) (maskOf (addr % 128) n)

end Sys2Proof.Machine
end

