-- ==== Sys2Proof/Machine/Parity.lean ====
section
/-! DEFINITION. What a parity error does that a read of stored bits finds, and what it leaves in the PARITY registers (R277, R278, R283, R502). -/

namespace Sys2Proof.Machine

/-- PARITY_WHERE (R283): the structure, the way, the local array and whether the line was Partial, Dirty or Dead. -/
def parityWord (structure' way array : Nat) (dirty : Bool) : Nat := structure' + 16 * way + 2 ^ 9 * array + if dirty then 2 ^ 12 else 0

/-- A parity error recorded at the slice of a die: the PARITY registers hold the first since none of the five status bits was set (R283). -/
def State.noteParity (s : State) (d i addr place : Nat) : State :=
  s.atBase (s.sliceBase d) (fun s b =>
    let s := if s.field (Reg.sliceStatus b) 3 5 = 0 then
        ((s.setReg (Reg.parityAddrLo b) (BitVec.ofNat 32 addr)).setLatch (Reg.parityAddrHi b) (BitVec.ofNat 32 (addr / 2 ^ 32))).setReg
          (Reg.parityWhere b) (BitVec.ofNat 32 place)
      else s
    s.setBit (Reg.sliceStatus b) i)

/-- A parity error of a cached line: recorded, and its fault raised by the unit that found it (R278, R506). -/
def State.cacheParity (s : State) (d p : Nat) (unit : W32) (code i addr place : Nat) : State :=
  (s.noteParity d i addr place).raise { sliceFault s code d p addr (BitVec.ofNat 32 place) with unit := unit }

/-- The way of a line in its set. -/
def Slice.wayOf (x : Slice) (set line : Nat) (visitor : Bool) : Nat := ((x.find set line visitor).map (·.1)).getD 0

/-- A parity error in a miss register of an L1: not recoverable (R278). -/
def State.l1MissUpset (s : State) (ga p line : Nat) : State :=
  if (s.arr ga).l1Pending line then s.cacheParity (ga / 8) p (unitArray ga) 0x0305 4 (128 * line) (parityWord 3 0 (ga % 8) false) else s

/-- A parity error that an event at a home slice finds, and whether the access goes on (R278): a clean line is invalidated and fetched anew,
a side-buffer entry is discarded; anything else is lost. `killed` is the line of a `kill.line`, which reads no data bits. -/
def State.homeUpset (s : State) (d p : Nat) (killed : Option Nat) (u : HomeUpset) : State × Bool :=
  let x := s.slice d
  let unit := unitDest ((s.siteOf d).getD (posSite d))
  match u with
  | .slot l tag =>
    let line := l.toNat
    let set := s.setOf line
    let part := if tag then 1 else 0
    let way := x.wayOf set line false
    (match x.line? set line false with
      | none => (s, true)
      | some k =>
        if !tag && killed == some line then (s, true)
        else if k.st = .clean then
          ((s.setSlice d (x.update set line false false none)).cacheParity d p unit 0x0301 3 (128 * line) (parityWord part way 0 false), true)
        else
          let dirty := k.st == .partialLine || k.st == .dirty || k.st == .dead
          (s.cacheParity d p unit 0x0305 4 (128 * line) (parityWord part way 0 dirty), false))
  | .sumStore l =>
    if x.sums.any (fun u => u.line == l.toNat) then
      (s.cacheParity d p unit 0x0305 4 (128 * l.toNat) (parityWord 2 (x.wayOf (s.setOf l.toNat) l.toNat false) 0 false), false)
    else (s, true)
  | .missRegister l =>
    if x.misses.any (fun m => m.line == l.toNat) then
      (s.cacheParity d p unit 0x0305 4 (128 * l.toNat) (parityWord 3 (x.wayOf (s.setOf l.toNat) l.toNat false) 0 false), false)
    else (s, true)
  | .side l =>
    if (x.sideData l.toNat).isSome then
      ((s.setSlice d { x with side := x.side.filter (fun e => e.1 != l.toNat) }).cacheParity d p unit 0x0303 5 (128 * l.toNat)
        (parityWord 4 0 0 false), true)
    else (s, true)
  | .l1Miss a l => (s.l1MissUpset a.val p l.toNat, !(s.arr a.val).l1Pending l.toNat)

/-- What an event at a home slice does when its reads find a parity error, or find none. -/
def State.withUpset (s : State) (d p : Nat) (killed : Option Nat) (u : Option HomeUpset) (f : State → State) : State := match u with
  | none => f s
  | some u => if (s.homeUpset d p killed u).2 then f (s.homeUpset d p killed u).1 else (s.homeUpset d p killed u).1

/-- A line of an L1 without its bytes: removed, or kept empty for the fill that is on its way. -/
def Arr.l1Invalid (a : Arr) (line k : Nat) (l : L1Line) : Arr :=
  if a.l1Pending line then { a with l1 := Tab.put a.l1 k { l with valid := 0 } } else { a with l1 := Tab.erase a.l1 k }

/-- A parity error in an instruction cache: the line is invalidated, to be fetched again, and ICACHE_PARITY raised (R502). -/
def State.icacheUpset (s : State) (ga line : Nat) : State :=
  let a := s.arr ga
  if a.icache.any (fun e => e.1 / 8 == line) then
    (s.setArr ga { a with icache := a.icache.filter (fun e => e.1 / 8 != line) }).raise
      { FaultRec.plain 0x010D (unitArray ga) (s.dieTime (ga / 8)) (s.partOfDie (ga / 8)) with addr := BitVec.ofNat 64 (128 * line) }
  else s

/-- A parity error that the reads of a group's issue find, and whether the issue goes on (R278, R502): one in register state or local store
halts the block; an L1 line with clean bytes only, a side-buffer entry and a visitor copy are invalidated and fetched anew; dirty bytes of
an L1 are lost, and the issue is not made. `isMem` says whether the instruction reads local store and caches. -/
def State.groupUpset (s : State) (c : Ctx) (isMem : Bool) (u : Upset) : State × Bool :=
  let d := c.ga / 8
  let p := c.blk.part
  let a := s.arr c.ga
  let unit := unitArray c.ga
  match u with
  | .register r => (blockFault s c 0x010C 0 (r.zeroExtend 32), false)
  | .icache line => (s.icacheUpset c.ga line.toNat, true)
  | .localStore addr =>
    if isMem then (blockFault (s.noteParity d 7 addr.toNat (parityWord 8 0 (c.ga % 8) false)) c 0x0304 (addr.zeroExtend 64) 0, false)
    else (s, true)
  | .l1 line tag =>
    (match a.l1Find line.toNat, a.l1Line line.toNat with
      | some k, some l =>
        let part := if tag then 6 else 5
        if !isMem then (s, true)
        else if l.dirty = 0 then
          ((s.setArr c.ga (a.l1Invalid line.toNat k l)).cacheParity d p unit 0x0302 6 (128 * line.toNat) (parityWord part (k % 16) (c.ga % 8) false), true)
        else (s.cacheParity d p unit 0x0305 4 (128 * line.toNat) (parityWord part (k % 16) (c.ga % 8) true), false)
      | _, _ => (s, true))
  | .arraySide line =>
    if isMem && a.sideBuf.any (fun e => e.1 == line.toNat) then
      ((s.setArr c.ga { a with sideBuf := a.sideBuf.filter (fun e => e.1 != line.toNat) }).cacheParity d p unit 0x0303 5 (128 * line.toNat)
        (parityWord 7 0 (c.ga % 8) false), true)
    else (s, true)
  | .l1Miss l => if isMem then (s.l1MissUpset c.ga p l.toNat, !a.l1Pending l.toNat) else (s, true)
  | .visitor l tag =>
    let line := l.toNat
    let x := s.slice d
    let set := s.setOf line
    if isMem && (x.line? set line true).isSome then
      ((s.setSlice d (x.update set line true false none)).cacheParity d p (unitDest ((s.siteOf d).getD (posSite d))) 0x0301 3 (128 * line)
        (parityWord (if tag then 1 else 0) (x.wayOf set line true) 0 false), true)
    else (s, true)

end Sys2Proof.Machine
end

