-- ==== Sys2Proof/Machine/Work.lean ====
section
/-! DEFINITION. Taken entries and launches as they run: receipts (R399 to R404), stops (R119, R120, R406), retirement and the closing
fence (R86, R302), and the progress of releases and fences (R293 to R297, R308). -/

namespace Sys2Proof.Machine

/-! Mailbags and receipts. -/

/-- A mailbag before it is enabled (R385). -/
def Mailbag.reset : Mailbag :=
  { tail := 0, head := 0, rhead := 0, rcount := 0, lastSeq := 0, anySeq := false, reading := false, receipts := [], tailDue := false, tellDue := false }

/-- A mailbag of a port. -/
def State.mailbag (s : State) (port m : Nat) : Mailbag := Tab.getD s.mailbags (4096 * port + m) Mailbag.reset
def State.setMailbag (s : State) (port m : Nat) (x : Mailbag) : State :=
  { s with mailbags := Tab.put s.mailbags (4096 * port + m) x }

/-- The slice that owns a mailbag (R383), and its ring's LOG2 (R384). -/
def State.ownerOf (s : State) (port m : Nat) : Nat := s.field (Reg.lbOwner port (m / 64)) 0 6
def State.mbLog (s : State) (port m : Nat) : Nat := s.field (Reg.mailbagCtl port m) 1 5

/-- A taken entry by its number. -/
def State.work (s : State) (id : Nat) : Option Work := s.works.find? (fun k => k.id == id)

/-- The taken entries with one of them changed. -/
def State.modWork (s : State) (id : Nat) (f : Work → Work) : State :=
  { s with works := s.works.map (fun k => if k.id = id then f k else k) }

/-- Receipt slots not yet used (R388). -/
def State.freeSlots (s : State) (port m : Nat) : Nat :=
  let x := s.mailbag port m
  2 ^ s.mbLog port m - ((x.rcount.truncate 32 : W32) - x.rhead).toNat

/-- Receipt slots reserved for final receipts: the taken entries without one (R388). -/
def State.reservedSlots (s : State) (port m : Nat) : Nat :=
  (s.works.filter (fun k => k.port == port && k.mailbag == m && k.phase != .finished)).length +
    ((s.mailbag port m).receipts.filter (·.final)).length

/-- Whether an entry has its final receipt, written and acknowledged (R405); on a follower, whether it has its final outcome there (R544,
R546). -/
def State.receipted (s : State) (k : Work) : Bool :=
  k.phase == .finished && (s.follows k.part || !(s.mailbag k.port k.mailbag).receipts.any (fun r => r.work == k.id))

/-- A partition's counter i for the window (R461). -/
def State.partCount (s : State) (p i : Nat) : State := s.count (Reg.partCount p i) 1

/-- The receipt of an entry with its outcome. -/
def Work.receipt (k : Work) (final : Bool) (outcome reason : Nat) : Receipt :=
  { work := k.id, final := final, outcome := outcome, reason := reason, type := k.type, seq := k.seq, steps := 0, queuePos := 0,
    preempts := min k.preempts 0xFFFF, defers := min k.defers 0xFFFF, fault := 0, unit := 0, detail := 0 }

/-- An interim receipt formed for an entry; an unwritten one that found no free slot is replaced (R401). -/
def State.interim (s : State) (r : Receipt) (k : Work) : State :=
  let x := s.mailbag k.port k.mailbag
  let room := s.reservedSlots k.port k.mailbag < s.freeSlots k.port k.mailbag
  let held := if room then x.receipts else x.receipts.filter (fun q => q.work != k.id || q.final)
  s.setMailbag k.port k.mailbag { x with receipts := held ++ [r] }

/-- Whether an entry runs as a launch that holds a pigeonhole in use (R453). -/
def Work.usesPigeonhole (k : Work) : Bool := k.type == 1 && decide (k.pigeonhole < 64) && k.startSeq != 0

/-- USERS of a pigeonhole changed (R453). -/
def State.phUsers (s : State) (p h : Nat) (up : Bool) : State :=
  let n := s.field (Reg.phState p h) 8 10
  s.setField (Reg.phState p h) 8 10 (if up then n + 1 else n - 1)

/-- The final receipt of an entry (R400 to R403): formed once, its arrays given back, its pigeonhole released, its outcome counted. With
`silent`, or when the entry was stopped by a link loss, none is written (R412). -/
def State.finish (s : State) (id : Nat) (silent : Bool) (f : Work → Receipt) : State :=
  match s.work id with
  | none => s
  | some k =>
    if k.phase = .finished then s
    else
      let silent := silent || k.why == some StopWhy.linkDown
      let r := f k
      let s := if k.usesPigeonhole then s.phUsers k.part k.pigeonhole false else s
      let x := s.mailbag k.port k.mailbag
      let room := s.reservedSlots k.port k.mailbag < s.freeSlots k.port k.mailbag
      let held := if room then x.receipts else x.receipts.filter (fun q => q.work != id || q.final)
      let s := s.modWork id (fun k => { k with phase := .finished, arrays := [], fences := [], hostArrays := [], lostOrder := [] })
      let s := if silent then s.setMailbag k.port k.mailbag { x with receipts := x.receipts.filter (fun q => q.work != id) }
        else s.setMailbag k.port k.mailbag { x with receipts := held ++ [r] }
      if silent then s
      else if r.outcome = 1 then s.partCount k.part 1
      else if r.outcome = 4 then s.partCount k.part 4
      else if r.outcome = 6 then s.partCount k.part 7
      else s

/-- Final receipts by outcome. -/
def State.serve1 (s : State) (id : Nat) (detail : Nat) : State :=
  s.finish id false (fun k => { k.receipt true 1 0 with steps := if k.type = 1 then k.steps else 0, detail := BitVec.ofNat 64 detail })
def State.refuse (s : State) (id reason : Nat) : State := s.finish id false (fun k => k.receipt true 4 reason)
def State.cancelled (s : State) (id reason : Nat) : State :=
  s.finish id false (fun k => { k.receipt true 5 reason with steps := if k.type = 1 then k.steps else 0 })
def State.faulted (s : State) (id : Nat) (fault unit : W32) : State :=
  s.finish id false (fun k => { k.receipt true 6 0 with steps := if k.type = 1 then k.steps else 0, fault := fault, unit := unit })

/-! Launches on arrays. -/

/-- The blocks of a launch that stand on arrays, as array and block slot. -/
def State.launchBlocks (s : State) (id : Nat) : List (Nat × Nat) :=
  s.arrs.flatMap (fun e => (e.2.blocks.filter (fun b => b.2.launch == id)).map (fun b => (e.1, b.1)))

/-- A stop made pending for every block of a launch: waiting threads and threads the debugger holds stop where they are (R119, R120,
R636). -/
def State.stopLaunch (s : State) (id : Nat) (why : StopWhy) : State :=
  let s := s.modWork id (fun k => { k with phase := .stopping, why := match k.why with
      | some w => some w
      | none => some why })
  (s.launchBlocks id).foldl (fun s e =>
    let a := s.arr e.1
    match Tab.get a.blocks e.2 with
    | none => s
    | some b =>
      let s := if a.groups.any (fun g => g.2.block == e.2 && g.2.held) then s.setBit Reg.dbgStatus 3 else s
      let a := { a with blocks := Tab.put a.blocks e.2 { b with stopPending := true } }
      s.setArr e.1 (stopWaiting a e.2)) s

/-- Whether every block of a launch is stopped or halted. -/
def State.launchStopped (s : State) (id : Nat) : Bool :=
  (s.launchBlocks id).all (fun e =>
    let a := s.arr e.1
    match Tab.get a.blocks e.2 with
    | some b => b.halted || blockStopped a e.2
    | none => true)

/-- Every block of a launch discarded, its tiles, slots and units freed (R206, R406). -/
def State.discardBlocks (s : State) (id : Nat) : State :=
  (s.launchBlocks id).foldl (fun s e => s.setArr e.1 (removeBlock (s.arr e.1) e.2)) s

/-! Releases and fences. -/

/-- Whether a group's lanes have an earlier access that is not yet performed with respect to grp, blk and dev (R293): a load, an atomic,
a store on its way to its home, or one that its L1 or the host-interface die has not accepted. -/
def Group.outstanding (g : Group) (lanes : BitVec 32) : Bool := g.pend.any (fun k => (k.lanes &&& lanes) != 0)

/-- Whether a group's lanes have stored to the host region (R308). -/
def Group.toldHost (g : Group) (lanes : BitVec 32) : Bool := g.hostStored &&& lanes != 0

/-- Whether an array still waits for the acknowledgement of a write it sent before number `bound` (R295). -/
def Arr.waits (a : Arr) (bound : Nat) : Bool := a.unacked.any (fun e => decide (e.1 < bound))

/-- The PASID that a group's host requests carry: its work's slice as the entry was taken (R378, R382). -/
def State.pasidOf (s : State) (p ga slot sl : Nat) : W32 := match s.work (s.launchId ga slot) with
  | some k => k.snap.pasid
  | none => s.reg (Reg.slicePasid (s.partPort p) sl)

/-- A request made pending in its groups: it awaits `nregs` registers, or only its completion. -/
def State.addPend (s : State) (r : MemReq) (nregs : Nat) (isStore : Bool) : State :=
  match s.group r.arr r.slot with
  | none => s
  | some g =>
    let k : Pend := { id := r.id, line := r.line, lanes := lanesMask (r.lanes.map (·.lane)), reg := r.dst, nregs := nregs, isStore := isStore }
    s.setGroup r.arr r.slot { g with pend := g.pend ++ [k] }

/-- A request that is not accepted: it waits on its quarter's memory path (R245, R247). -/
def State.queuePath (s : State) (r : MemReq) : State :=
  let a := s.arr r.arr
  s.setArr r.arr { a with path := Tab.modify a.path (r.slot / 16) [] (· ++ [r]) }

/-- A store of a group to the host region: accepted by the host-interface die, or pending until the journal has room (R293, R308, R544). -/
def State.hostStore (s : State) (pasid : W32) (r : MemReq) : State :=
  let room := s.hostRoom r.part
  let s := s.hostWrite r.part (s.launchId r.arr r.slot) r.id r.sl pasid (128 * r.line - hostStart) r.data r.mask
  let s := match s.group r.arr r.slot with
    | some g => s.setGroup r.arr r.slot { g with hostStored := g.hostStored ||| lanesMask (r.lanes.map (·.lane)) }
    | none => s
  if room then s else s.addPend r 0 true

/-- A store into the L1 of its array, or waiting on the path until the L1 accepts it (R245, R246). -/
def State.storeOrWait (s : State) (r : MemReq) : State := match s.storeL1 r.arr r.part r.line r.data r.mask with
  | some s => s
  | none => (s.addPend r 0 true).queuePath r

/-- The store of a release performed at its scope (R268, R295): into the L1 at grp and blk, at the home after the push at dev and sys,
where the L1 copy takes the bytes as clean ones; to the host as a write; to the host-coherent region at its home. -/
def State.releaseStore (s : State) (scope : Nat) (r : MemReq) : State :=
  let addr := 128 * r.line
  if hostStart ≤ addr then s.hostStore (s.pasidOf r.part r.arr r.slot r.sl) r
  else if scope < 3 ∧ (s.arr r.arr).nb ≠ 0 ∧ addr < hcStart then s.storeOrWait r
  else
    let a := (s.arr r.arr).noteStore r.line r.data r.mask
    let l1 := match a.l1Find r.line with
      | some k => (match Tab.get a.l1 k with
          | some l => Tab.put a.l1 k { l with data := mergeLine l.data r.data r.mask, valid := l.valid ||| r.mask }
          | none => a.l1)
      | none => a.l1
    let s := s.setArr r.arr { a with l1 := l1, sideBuf := a.sideBuf.filter (fun e => e.1 != r.line) }
    (s.addPend r 0 true).sendReq r

/-- A group without one of its releases or fences. -/
def Group.dropOrder (g : Group) (id : Nat) : Group :=
  { g with subs := g.subs.map (fun (u : Sub) => { u with orders := u.orders.filter (fun o => o.id != id) }) }

/-- A release or fence of a group finished: a fence of scope dev or sys invalidates as an acquire does; a release performs its own
store, which stays outstanding when it goes to a home. -/
def State.finishOrder (s : State) (ga slot : Nat) (o : OrderOp) : State :=
  match s.group ga slot with
  | none => s
  | some g =>
    let s := s.setGroup ga slot (g.dropOrder o.id)
    let s := if o.isFence ∧ 3 ≤ o.scope then s.acquire ga else s
    o.stores.foldl (fun s r => s.releaseStore o.scope r) s

/-- The flush read of a release or fence asked of its port (R308): it carries the PASID of the work's slice and the address of the latest write
that the port accepted for it. -/
def State.askFlush (s : State) (p ga slot id sl : Nat) (pasid : W32) : State :=
  let port := s.partPort p
  let x := s.port port
  let f : FlushRead := { arr := ga, slot := slot, id := id, pasid := pasid, addr := Tab.getD x.lastWrite sl 0 }
  s.setPort port { x with flushes := x.flushes ++ [f] }

/-- A release or fence of a group taken as far as it can go now: it ends, or asks for the flush read of R308, once everything before
it has been performed. -/
def State.progressOrder (s : State) (ga slot : Nat) (o : OrderOp) : State :=
  match s.group ga slot with
  | none => s
  | some g =>
    if o.flushing ∨ g.outstanding o.lanes ∨ (3 ≤ o.scope ∧ (s.arr ga).waits o.bound) then s
    else match s.block ga g.block with
      | none => s
      | some b =>
        if o.scope = 4 ∧ g.toldHost o.lanes ∧ !s.follows b.part then
          let subs := g.subs.map (fun (u : Sub) =>
            { u with orders := u.orders.map (fun x => if x.id = o.id then { x with flushing := true } else x) })
          (s.setGroup ga slot { g with subs := subs }).askFlush b.part ga slot o.id b.slice (s.pasidOf b.part ga slot b.slice)
        else s.finishOrder ga slot o

/-- Every release and fence in progress on an array taken further. -/
def State.progressArr (s : State) (ga : Nat) : State :=
  (s.arr ga).groups.foldl (fun s e => (e.2.subs.flatMap (·.orders)).foldl (fun s o => s.progressOrder ga e.1 o) s) s

/-! Retirement and the closing fence. -/

/-- Whether a launch's blocks have all run and retired, none of them halted, no stop taken (R86, R302). -/
def Work.allRetired (k : Work) (blocks : Nat) : Bool := decide (blocks ≤ k.retired)

/-- BLOCKS of a launch record (R393). -/
def Work.blocks (k : Work) : Nat := bitsOf k.entry.toNat (8 * 0x28) 32

/-- The closing fence.sys begun on every array that ran blocks of a launch (R302): their L1s pushed, and a flush read asked for where a
thread stored to the host region. -/
def State.beginClosing (s : State) (id : Nat) : State :=
  match s.work id with
  | none => s
  | some k =>
    let s := s.modWork id (fun k => { k with phase := .closing, arrays := [] })
    let s := k.fences.foldl (fun s ga => s.pushL1 ga k.part) s
    if s.follows k.part then s.modWork id (fun k => { k with hostArrays := [] })
    else k.hostArrays.foldl (fun s ga => s.askFlush k.part ga 64 0 k.slice k.snap.pasid) s

/-- The closing fence taken further: an array's part ends when its writes are acknowledged and its flush read has come back or failed;
when the last has ended, the final receipt is formed, SERVED or FAULTED with HOST_ORDER_LOST (R302). -/
def State.progressClosing (s : State) : State :=
  (s.works.filter (fun k => k.phase == .closing)).foldl (fun s k =>
    let done := k.fences.filter (fun ga => !(s.arr ga).waits s.ids && !k.hostArrays.contains ga)
    let s := done.foldl (fun s ga => s.acquire ga) s
    let rest := k.fences.filter (fun ga => !done.contains ga)
    let s := s.modWork k.id (fun k => { k with fences := rest })
    if rest = [] then
      (match sortBy id k.lostOrder with
        | ga :: _ => s.faulted k.id (BitVec.ofNat 32 (0x0601 + 2 * 2 ^ 16)) (unitArray ga)
        | [] => s.serve1 k.id 0)
    else s) s

/-- An array given back when its launch has no unassigned blocks and its last block has retired (R435). -/
def State.releaseArray (s : State) (ga id : Nat) : State :=
  match s.work id with
  | none => s
  | some k =>
    if (k.blocks ≤ k.nextBlock ∨ k.haltDispatch) ∧ (s.arr ga).blocks = [] then
      s.modWork id (fun k => { k with arrays := k.arrays.filter (· ≠ ga) })
    else s

/-- A block retired (R86): its resources free, its launch one block further; the last block begins the closing fence. A launch whose stop
is pending and whose last block retires is served (R407, R444). -/
def State.retireBlock (s : State) (ga bs : Nat) : State :=
  match s.block ga bs with
  | none => s
  | some b =>
    let a := s.arr ga
    let host := a.groups.any (fun e => e.2.block == bs && e.2.hostStored != 0)
    let s := s.setArr ga (removeBlock a bs)
    let s := s.modWork b.launch (fun k => { k with retired := k.retired + 1, hostArrays := if host ∧ !k.hostArrays.contains ga then k.hostArrays ++ [ga] else k.hostArrays })
    let s := s.releaseArray ga b.launch
    match s.work b.launch with
    | some k => if k.allRetired k.blocks ∧ (k.phase = .running ∨ k.phase = .stopping) then (s.beginClosing b.launch).progressClosing else s
    | none => s

/-- The subgroups of a group meet where they can (R94, R108). -/
def Arr.meetLanes (a : Arr) (slot : Nat) : Arr :=
  match Tab.get a.groups slot with
  | some g => { a with groups := Tab.put a.groups slot (g.settle a.steps) }
  | none => a

/-- A stop that is pending takes effect on a block's waiting lanes (R119, R120). -/
def Arr.takeStop (a : Arr) (bs : Nat) : Arr :=
  match Tab.get a.blocks bs with
  | some b => if b.stopPending then stopWaiting a bs else a
  | none => a

/-- An array after an issue by a group of a block: the group's lanes meet, barriers complete, and a pending stop takes effect (R94, R108,
R110, R111, R119, R120). -/
def Arr.afterIssue (a : Arr) (slot bs : Nat) : Arr := (completeBarriers (a.meetLanes slot) bs).takeStop bs

/-- What follows the issue of an instruction by a group of a block: subgroups meet, barriers complete, and a block whose threads have all
exited retires (R86, R94, R110, R111). -/
def State.afterIssue (s : State) (ga slot bs : Nat) : State :=
  let a := (s.arr ga).afterIssue slot bs
  let s := s.setArr ga a
  match Tab.get a.blocks bs with
  | none => s
  | some b => if !b.halted && blockDone a bs then s.retireBlock ga bs else s

end Sys2Proof.Machine
end

