-- ==== Sys2Proof/Machine/Issue.lean ====
section
/-! DEFINITION. How a group issues one instruction: who issues (R88, R96, R97), what stops it (R105, R127, R133, R163, R515, R627), what
issuing does apart from the instruction's own effect (R89, R95, R124), and the shape in which every instruction's meaning is written. -/

namespace Sys2Proof.Machine

/-! What the debugger holds (R626, R627). -/

/-- A partition's debug state before anything is opened. -/
def Dbg.reset : Dbg :=
  { nonce := 0, nonceGiven := false, key := 0, rxSeq := 0, txSeq := 0, steps := [], halts := [], breaks := [], events := [], held := [], heldLaunches := [] }

/-- A partition's debug state. -/
def State.dbgOf (s : State) (p : Nat) : Dbg := Tab.getD s.dbg p Dbg.reset
def State.setDbg (s : State) (p : Nat) (x : Dbg) : State := { s with dbg := Tab.put s.dbg p x }

/-- An answer of the panel: a status and bytes. -/
def State.answer (s : State) (status : Nat) (data : List Nat) : State := { s with response := { status := status, data := data } }

/-- So many bytes of a value that the spec leaves to cryptography: a certificate, a signature, a key (log entry 1). -/
def State.opaqueBytes (s : State) (n : Nat) : List Nat × State :=
  let (k, s) := s.draw
  ((List.range n).map (fun i => (Config.secretByte k i).toNat), s)

/-- A number as bytes, least significant first. -/
def byteList (v n : Nat) : List Nat := (leBytes v n).map (·.toNat)

/-- The response to a debug message (R623): its header and body in the clear for DBG_HELLO, DBG_OPEN and where no session is open, else under
AES-256-GCM with the session's key and the next SEQ of the panel. -/
def State.reply (s : State) (p op status : Nat) (data : List Nat) : State :=
  let x := s.dbgOf p
  let body := data.map (BitVec.ofNat 8)
  let head := fun (seq : W64) => leBytes op 1 ++ leBytes status 1 ++ leBytes p 1 ++ leBytes 0 1 ++ leBytes data.length 4 ++ leBytes seq.toNat 8
  if op ≤ 2 ∨ !s.bit (Reg.dbgPart p) 0 then { s with response := { status := status, data := data, wire := head 0 ++ body } }
  else
    let seq := x.txSeq + 1
    let c := gcmSeal (leBytes x.key.toNat 32) (leBytes 1 4 ++ leBytes seq.toNat 8) (head seq) body
    { s.setDbg p { x with txSeq := seq } with response := { status := status, data := data, wire := head seq ++ c.1 ++ leBytes c.2.toNat 16 } }

/-- A group halted for the debugger and held by the session (R626). -/
def State.holdGroup (s : State) (p ga slot : Nat) : State :=
  match s.group ga slot with
  | none => s
  | some g =>
    let s := s.setGroup ga slot { g with held := true }
    let x := s.dbgOf p
    if x.held.contains (ga, slot) then s else s.setDbg p { x with held := x.held ++ [(ga, slot)] }

/-- An event record entered in the queue of 64, or dropped and EVENT_OVERFLOW set (R627). -/
def State.dbgEvent (s : State) (p ga slot cause brk : Nat) (pc : W64) : State :=
  let x := s.dbgOf p
  if 64 ≤ x.events.length then s.setBit Reg.dbgStatus 2
  else
    let e : DbgEvent := { arr := ga, slot := slot, cause := cause, brk := brk, pc := pc, time := s.dieTime (ga / 8) }
    s.setDbg p { x with events := x.events ++ [e] }

/-- Whether a group has completed everything it issued (R626, R633). -/
def Group.quiet (g : Group) : Bool := g.pend.isEmpty && g.subs.all (fun u => u.orders.isEmpty)

/-- The address at which a group stands, for an event: its current subgroup's, else its first. -/
def Group.standsAt (g : Group) : W64 :=
  match g.subs.find? (fun u => u.lanes == g.cur) with
  | some u => u.pc
  | none => (g.subs.head?.map (·.pc)).getD 0

/-- Whether a group's block is halted, and whether the debugger steps the group (R633). -/
def State.blockHalted (s : State) (ga slot : Nat) : Bool :=
  ((s.group ga slot).bind (fun g => s.block ga g.block)).any (·.halted)
def State.stepping (s : State) (p ga slot : Nat) : Bool := (s.dbgOf p).steps.any (fun r => r.arr == ga && r.slot == slot)

/-- The breakpoint set at an address, if any. -/
def State.breakAt (s : State) (p : Nat) (pc : W64) : Option Nat :=
  ((s.dbgOf p).breaks.find? (fun e => e.2 == pc)).map (·.1)

/-! The meaning of one instruction. -/

/-- What an instruction is: its opcode, its shape where the word's class bits are legal, the condition of R88 beyond its registers and its
unit, the fault it raises instead of any effect (code, address, detail word 4), its effect once it issues, the steps it occupies its unit
(R143, R184), and for a memory instruction the lines it touches, each with the bank of the array's memory it lies in (R153, R242). -/
structure Sem where
  op : Nat
  desc : Fields → Option Desc
  ready : State → Ctx → Fields → Bool
  check : State → Ctx → Fields → Option (Nat × W64 × W32)
  eff : State → Ctx → Fields → State
  occ : Fields → Nat := fun _ => 1
  lines : State → Ctx → Fields → List (Nat × Option Nat) := fun _ _ _ => []

/-- Bits [31:0] of an instruction word (R131, R506). -/
def lowWord (op : Nat) (w : Fields) : W32 :=
  BitVec.ofNat 32 (op + (if w.ge then 2 ^ 8 else 0) + w.gp.toNat * 2 ^ 9 + (if w.gn then 2 ^ 12 else 0) + w.d.toNat * 2 ^ 13 +
    w.a.toNat * 2 ^ 21 + w.b.toNat * 2 ^ 29)

/-- An instruction on registers alone: always ready, without a fault, its effect on the group's registers. -/
def Sem.regs (op : Nat) (desc : Fields → Option Desc) (f : Ctx → Fields → Group) : Sem :=
  { op := op, desc := desc, ready := fun _ _ _ => true, check := fun _ _ _ => none,
    eff := fun s c w => s.setGroup c.ga c.slot (f c w) }

/-- What stands in the way of an issue, or that it may go on with its shape. -/
inductive Verdict where
  | go (d : Desc)
  | stop (code : Nat) (addr : W64) (word : W32)
  | wait
  | breakpoint (i : Nat)
  deriving DecidableEq, Repr

/-- Whether an instruction address lies in the text of the block's code object (R163). -/
def Block.inText (k : Block) (pc : W64) : Bool := decide (k.textLo.toNat ≤ pc.toNat) && decide (pc.toNat + 16 ≤ k.textHi.toNat)

/-- What an issue meets, in the order the spec gives: the fetch, a breakpoint, legality, register range, the wait of a collective, and
the instruction's own faults. -/
def Sem.verdict (m : Sem) (s : State) (c : Ctx) (w : Fields) (breaks : Bool) : Verdict :=
  if !c.blk.inText c.sub.pc then .stop 0x0106 c.sub.pc 0
  else match (if breaks then s.breakAt c.blk.part c.sub.pc else none) with
  | some i => .breakpoint i
  | none => match m.desc w with
    | none => .stop 0x0101 0 (lowWord m.op w)
    | some d =>
      if !d.legal w then .stop 0x0101 0 (lowWord m.op w)
      else if d.outOfRange w c.blk.regs then .stop 0x0102 0 0
      else if d.coll && c.sub.lanes != c.grp.live then .wait
      else match m.check s c w with
        | some (code, addr, word) => .stop code addr word
        | none => .go d

/-! Units of a quarter (R88, R143, R153, R184, R185, R238, R242). -/

/-- The kinds of unit: the vector unit of each cell, the quarter's matrix cells together, its memory path, or none that an instruction could
occupy (DESIGN CHOICE, log entry 82). -/
inductive UnitKind where
  | vector
  | matrix
  | memory
  | none
  deriving DecidableEq, Repr

/-- The unit an opcode needs. -/
def unitKind (op : Nat) : UnitKind :=
  if (0x10 ≤ op ∧ op < 0x50) ∨ (0x58 ≤ op ∧ op < 0x60) then .vector
  else if op = 0x50 ∨ op = 0x51 ∨ op = 0x53 then .matrix
  else if 0x70 ≤ op ∧ op < 0x90 then .memory
  else .none

/-- The cells of a quarter that a set of lanes uses: one for each granule position (R76, R93). -/
def cellsOf (lanes : BitVec 32) : List Nat := (List.range 4).filter (fun k => bitsOf lanes.toNat (8 * k) 8 != 0)

/-- The units of a quarter that an instruction occupies for a set of lanes, as keys of `busy`: cell k's vector unit 4 q + k, the matrix cells
16 + q, the memory path 20 + q. -/
def unitKeys (op q : Nat) (lanes : BitVec 32) : List Nat := match unitKind op with
  | .vector => (cellsOf lanes).map (· + 4 * q)
  | .matrix => [16 + q]
  | .memory => [20 + q]
  | .none => []

/-- Whether the units that an instruction needs accept it now; a memory path that holds a request not yet accepted takes nothing (R88, R247). -/
def Arr.accepts (a : Arr) (op q : Nat) (lanes : BitVec 32) : Bool :=
  (unitKeys op q lanes).all (fun k => Tab.getD a.busy k 0 == 0) && (unitKind op != .memory || (Tab.getD a.path q []).isEmpty)

/-- The steps an issue occupies one of its units: more where a cell is retired (R238). -/
def State.occupancy (s : State) (ga q op n key : Nat) : Nat := match unitKind op with
  | .vector => if s.cellRetired ga q (key % 4) then n + 1 else n
  | .matrix => if (List.range 4).any (s.cellRetired ga q) then 2 * n else n
  | _ => n

/-- The requests that banks have still to serve after those of an issue, and the longest wait among them (R242). -/
def queueBanks (t : Tab Nat) (ls : List (Nat × Option Nat)) : Tab Nat × Nat :=
  ls.foldl (fun acc l => match l.2 with
    | none => acc
    | some b => (Tab.modify acc.1 b 0 (· + 1), max acc.2 (Tab.getD acc.1 b 0 + 1))) (t, 1)

/-- The units occupied by the issue of an instruction by subgroups of one quarter: a memory path two lines to a step, and until its banks have
served it (R143, R153, R184, R238, R242). -/
def State.occupy (s : State) (m : Sem) (ga q : Nat) (cs : List Ctx) (w : Fields) : State :=
  let a := s.arr ga
  let lanes := cs.foldl (fun n x => n ||| x.sub.lanes) (0 : BitVec 32)
  let ls := (cs.flatMap (fun x => m.lines s x w)).eraseDups
  let (banks, wait) := queueBanks a.bankBusy ls
  let n := if unitKind m.op = .memory then max ((ls.length + 1) / 2) wait else m.occ w
  s.setArr ga { a with busy := (unitKeys m.op q lanes).foldl (fun t k => Tab.put t k (s.occupancy ga q m.op n k)) a.busy, bankBusy := banks }

/-- Whether a subgroup is ready for an instruction (R88): its registers await nothing and its unit takes it, or it will stop or wait. -/
def Sem.isReady (m : Sem) (s : State) (c : Ctx) (w : Fields) : Bool :=
  match m.desc w with
  | none => true
  | some d =>
    !c.blk.inText c.sub.pc || !d.legal w || d.outOfRange w c.blk.regs || (d.coll && c.sub.lanes != c.grp.live) ||
      (c.grp.regsReady c.sub.lanes (d.named w) && (s.arr c.ga).accepts m.op (c.slot / 16) c.sub.lanes && m.ready s c w)

/-- The context in which a group issues: it is resident, not halted and not held, and one of its subgroups may issue and passes a test
(R88, R96, R97, R115, R626); one that the debugger steps has completed what it issued before (R633). -/
def State.issueCtx (s : State) (ga slot : Nat) (act : Group → Sub → BitVec 32) (ok : Ctx → Bool) : Option Ctx :=
  match s.group ga slot with
  | none => none
  | some g => match s.block ga g.block with
    | none => none
    | some k =>
      if k.halted || g.held || (s.stepping k.part ga slot && !g.quiet) then none
      else
        let ctx := fun (u : Sub) => (⟨ga, slot, g, k, u, act g u⟩ : Ctx)
        (g.issuing (fun u => ok (ctx u))).map ctx

/-- The context after the subgroup moved to the next instruction: it is the current one, and the group is open exactly after a switch
point (R95 to R97). -/
def Ctx.advance (c : Ctx) (d : Desc) : Ctx :=
  let u := { c.sub with pc := c.sub.pc + 16, wait := .running }
  { c with grp := { c.grp.setSub c.sub.lanes u with cur := c.sub.lanes, isOpen := d.switch } }

/-- Granule positions a set of lanes uses (R74). -/
def granules (lanes : BitVec 32) : Nat := ((List.range 4).filter (fun k => bitsOf lanes.toNat (8 * k) 8 != 0)).length

/-- An issue counted: the quarter's pointer moved to its slot, ARR_ISSUED and ARR_GRANULES (R89, R124). An issue that ends in a fault counts,
with the positions of its subgroup (DESIGN CHOICE, log entry 83). -/
def State.issued (s : State) (ga slot used : Nat) : State :=
  let a := s.arr ga
  let s := s.setArr ga { a with pointers := Tab.put a.pointers (slot / 16) slot }
  s.atBase (s.arrayBase ga) (fun s b => (s.count (Reg.arrIssued b) 1).count (Reg.arrGranules b) used)

/-- A subgroup that reached a collective before the rest of its group waits there (R105, R117); its group is open. -/
def State.waitCollective (s : State) (c : Ctx) : State :=
  let u := { c.sub with wait := .collective, yieldCount := 0 }
  s.setGroup c.ga c.slot { c.grp.setSub c.sub.lanes u with cur := c.sub.lanes, isOpen := true }

/-- A group halted for the debugger by `brk`, a breakpoint, a step's end or HALT_LAUNCH, with its event record (R627). -/
def State.haltFor (s : State) (c : Ctx) (cause brk : Nat) : State :=
  (s.holdGroup c.blk.part c.ga c.slot).dbgEvent c.blk.part c.ga c.slot cause brk c.sub.pc

/-- An instruction's effect when it issues alone. -/
def Sem.perform (m : Sem) (s : State) (c : Ctx) (w : Fields) (d : Desc) : State :=
  let c := c.advance d
  m.eff (s.setGroup c.ga c.slot c.grp) c w

/-- The issue of an instruction by the subgroup of a context. -/
def Sem.issueAt (m : Sem) (s : State) (c : Ctx) (w : Fields) (breaks : Bool) : State :=
  match m.verdict s c w breaks with
  | .go d => (((m.perform s c w d).occupy m c.ga (c.slot / 16) [c] w).issued c.ga c.slot (granules c.sub.lanes)).afterIssue c.ga c.slot c.grp.block
  | .stop code addr word => (blockFault s c code addr word).issued c.ga c.slot (granules c.sub.lanes)
  | .wait => (s.waitCollective c).afterIssue c.ga c.slot c.grp.block
  | .breakpoint i => s.haltFor c 1 i

/-- The context in which a group issues an instruction word. -/
def Sem.ctx (m : Sem) (g : GRef) (w : Fields) (s : State) : Option Ctx :=
  s.issueCtx g.arr.val g.slot.val (fun grp u => grp.guarded w u.lanes) (fun c => m.isReady s c w)

/-- What the reads of an issue that nothing stops meet when they find a parity error, and whether the issue goes on (R278, R502). Only a
memory instruction reads local store and caches. -/
def Sem.meet (m : Sem) (s : State) (c : Ctx) (w : Fields) (u : Upset) : State × Bool :=
  match m.verdict s c w true with
  | .go _ => s.groupUpset c (decide (0x70 ≤ m.op) && decide (m.op < 0x90)) u
  | _ => (s, true)

/-- The issue of an instruction word by a group, once its reads find no parity error. -/
def Sem.issueNow (m : Sem) (g : GRef) (w : Fields) (s : State) : State :=
  match m.ctx g w s with
  | none => s
  | some c => m.issueAt s c w true

/-- A group issues an instruction: the subgroup that R96 and R97 choose issues it; while none is ready, nothing issues. -/
def Sem.issue (m : Sem) (g : GRef) (w : Fields) (s : State) : State :=
  match m.ctx g w s, g.upset with
  | some c, some u => if (m.meet s c w u).2 then m.issueNow g w (m.meet s c w u).1 else (m.meet s c w u).1
  | _, _ => m.issueNow g w s

end Sys2Proof.Machine
end

