-- ==== Sys2Proof/Machine/Control.lean ====
section
/-! DEFINITION. Control and state instructions, control flow and barriers (R92, R107 to R111, R119, R129, R139, R144 to R147, R158). -/

namespace Sys2Proof.Machine

/-! Shared pieces. -/

/-- A shape for an instruction without class bits: MOD and AUX must be zero. -/
def noBits (w : Fields) (d : Desc) : Option Desc := if w.mod = 0 ∧ w.aux = 0 then some d else none

/-- The subgroup that issued, after it moved on. -/
def Ctx.movedSub (c : Ctx) : Sub := (c.grp.subs.find? (fun u => u.lanes == c.sub.lanes)).getD c.sub

/-- A group whose issuing subgroup becomes a list of subgroups; the one that holds the lowest thread is current (R92). -/
def Ctx.replaceSub (c : Ctx) (us : List Sub) : Group :=
  let us := us.filter (fun u => u.lanes != 0)
  let cur := match us.find? (fun u => u.lanes.getLsbD (lowLane c.sub.lanes)) with
    | some u => u.lanes
    | none => c.grp.cur
  { c.grp with subs := c.grp.subs.filter (fun u => u.lanes != c.sub.lanes) ++ us, cur := cur }

/-- A group in which the acting lanes of the issuing subgroup take a new state and the others go on (R134). -/
def Ctx.splitOff (c : Ctx) (f : Sub → Sub) : Group :=
  let u := c.movedSub
  if c.act = 0 then c.grp
  else if c.act = c.sub.lanes then c.replaceSub [f u]
  else c.replaceSub [f { u with lanes := c.act }, { u with lanes := c.sub.lanes &&& ~~~c.act }]

/-! The phase of an array (R158, R568, R569). -/

/-- A phase table with an entry used: moved to the front, or taken in place of the least recently used of 256 (R568, R569). -/
def touchPhase (t : List (W64 × BitVec 16 × Nat)) (k : W64) (v : BitVec 16) (start : Nat) : List (W64 × BitVec 16 × Nat) :=
  match t.find? (fun e => e.1 == k && e.2.1 == v) with
  | some e => e :: t.filter (fun e => !(e.1 == k && e.2.1 == v))
  | none => (k, v, start) :: t.take 255

/-- What an array accumulated for its phase folded into the phase's entry, when it covers at least 4,096 steps (R569). -/
def State.foldPhase (s : State) (ga : Nat) : State :=
  let a := s.arr ga
  match s.partOfDie (ga / 8) with
  | none => s
  | some p =>
    if a.phaseSteps < 4096 then s
    else
      let x := s.part p
      let t := touchPhase x.phase a.phaseKernel a.phaseValue (Config.eMax (ga / 8) / 8)
      let e' := fun (e : Nat) => ((e : Int) + ((a.phaseEnergy / a.phaseSteps : Nat) - (e : Int)) / 8).toNat
      let t := match t with
        | (k, v, e) :: r => (k, v, e' e) :: r
        | [] => []
      (s.setPart p { x with phase := t }).setArr ga { a with phaseSteps := 0, phaseEnergy := 0 }

/-- An array's current phase set: what it accumulated is folded first, and the new phase has an entry (R568, R569). -/
def State.setPhase (s : State) (ga : Nat) (k : W64) (v : BitVec 16) : State :=
  let s := s.foldPhase ga
  let a := s.arr ga
  let s := s.setArr ga { a with phaseKernel := k, phaseValue := v, phaseSteps := 0, phaseEnergy := 0 }
  match s.partOfDie (ga / 8) with
  | none => s
  | some p =>
    let x := s.part p
    s.setPart p { x with phase := touchPhase x.phase k v (Config.eMax (ga / 8) / 8) }

/-! Control and state. -/

/-- `nop` (R158). -/
def nopSem : Sem := Sem.regs 0x00 (fun w => noBits w Desc.plain) (fun c _ => c.grp)

/-- NOP (R158). -/
def execNop (g : GRef) (w : Fields) (s : State) : Host.Outcome State Fault Refusal := next (nopSem.issue g w s)

/-- `exit` (R86, R109, R158, R301): it is ready once the threads' accesses are performed with respect to blk. Lanes whose guard fails keep
their yield count (R117; DESIGN CHOICE, log entry 14). -/
def exitSem : Sem :=
  { op := 0x01, desc := fun w => noBits w { Desc.plain with switch := true },
    ready := fun _ c _ => !c.grp.outstanding c.act, check := fun _ _ _ => none,
    eff := fun s c _ =>
      let g := { c.grp with subs := c.grp.subs.map (fun (u : Sub) => if u.lanes == c.sub.lanes then { u with lanes := u.lanes &&& ~~~c.act } else u) }
      s.setGroup c.ga c.slot { g with exited := g.exited ||| c.act } }

/-- EXIT (R158). -/
def execExitOp (g : GRef) (w : Fields) (s : State) : Host.Outcome State Fault Refusal := next (exitSem.issue g w s)

/-- `yield` (R117, R119): the yield count restarts, and the threads stop when a stop is pending for their block. -/
def yieldSem : Sem :=
  { op := 0x02, desc := fun w => noBits w { Desc.plain with switch := true }, ready := fun _ _ _ => true, check := fun _ _ _ => none,
    eff := fun s c _ =>
      let g := if c.act = 0 then c.grp
        else if c.blk.stopPending then c.splitOff (fun u => { u with yieldCount := 0, stopped := true })
        else c.replaceSub [{ c.movedSub with yieldCount := 0 }]
      s.setGroup c.ga c.slot g }

/-- YIELD (R119). -/
def execYield (g : GRef) (w : Fields) (s : State) : Host.Outcome State Fault Refusal := next (yieldSem.issue g w s)

/-- `phase` (R158, R568). -/
def phaseSem : Sem :=
  { op := 0x03, desc := fun w => if w.imm0.toNat < 2 ^ 16 then noBits w { Desc.plain with own0 := true } else none,
    ready := fun _ _ _ => true, check := fun _ _ _ => none,
    eff := fun s c w => if c.act = 0 then s else s.setPhase c.ga c.blk.kernelId (w.imm0.truncate 16) }

/-- PHASE (R158). -/
def execPhase (g : GRef) (w : Fields) (s : State) : Host.Outcome State Fault Refusal := next (phaseSem.issue g w s)

/-- `time.read` (R158): the die's timebase replica into the pair D. -/
def timeReadSem : Sem :=
  { op := 0x04, desc := fun w => noBits w { Desc.plain with d := some (2, 2) }, ready := fun _ _ _ => true, check := fun _ _ _ => none,
    eff := fun s c w => s.setGroup c.ga c.slot (c.grp.writeD w c.act 2 (fun _ => (s.dieTime (c.ga / 8)).toNat)) }

/-- TIME_READ (R158). -/
def execTimeRead (g : GRef) (w : Fields) (s : State) : Host.Outcome State Fault Refusal := next (timeReadSem.issue g w s)

/-- `trap` (R158): KERNEL_TRAP with the code IMM0, the block halted. -/
def trapSem : Sem :=
  { op := 0x05, desc := fun w => noBits w { Desc.plain with own0 := true }, ready := fun _ _ _ => true,
    check := fun _ c w => if c.act = 0 then none else some (0x0107, 0, w.imm0), eff := fun s _ _ => s }

/-- TRAP (R158). -/
def execTrap (g : GRef) (w : Fields) (s : State) : Host.Outcome State Fault Refusal := next (trapSem.issue g w s)

/-- `brk` (R158, R493, R627): the group halted for the debugger while debug is open for its partition. -/
def brkSem : Sem :=
  { op := 0x06, desc := fun w => noBits w Desc.plain, ready := fun _ _ _ => true, check := fun _ _ _ => none,
    eff := fun s c _ => if c.act ≠ 0 ∧ s.bit (Reg.keyState c.blk.part) 16 then s.haltFor c 0 0 else s }

/-- BRK (R627). -/
def execBrk (g : GRef) (w : Fields) (s : State) : Host.Outcome State Fault Refusal := next (brkSem.issue g w s)

/-- The special-register numbers of the table of R129. -/
def srNumbers : List Nat := [0, 1, 2, 3, 4, 5, 6, 7, 8, 9, 10, 11, 12, 16, 17, 18, 19]

/-- The value of a special register for a lane (R129). -/
def srValue (s : State) (c : Ctx) (n lane : Nat) : Nat :=
  match n with
  | 0x00 => lane
  | 0x01 => 32 * c.grp.index + lane
  | 0x02 => c.blk.threads
  | 0x03 => c.grp.index
  | 0x04 => c.blk.index
  | 0x05 => c.blk.nblocks
  | 0x06 => c.blk.seq.toNat % 2 ^ 32
  | 0x07 => c.sub.lanes.toNat
  | 0x08 => c.grp.live.toNat
  | 0x09 => 16384 * c.blk.units.length
  | 0x0A => c.grp.fpflags.toNat
  | 0x0B => c.blk.seed.toNat % 2 ^ 32
  | 0x0C => c.blk.seed.toNat / 2 ^ 32
  | 0x10 => c.ga
  | 0x11 => c.slot / 16
  | 0x12 => c.slot
  | _ => (s.arr c.ga).phaseValue.toNat

/-- `mov.sr` (R129). -/
def movSrSem : Sem :=
  { op := 0x07,
    desc := fun w => if srNumbers.contains w.a.toNat then noBits w { Desc.plain with d := some (1, 1), a := .special } else none,
    ready := fun _ _ _ => true, check := fun _ _ _ => none,
    eff := fun s c w => s.setGroup c.ga c.slot (c.grp.writeD w c.act 1 (srValue s c w.a.toNat)) }

/-- MOV_SR (R129). -/
def execMovSr (g : GRef) (w : Fields) (s : State) : Host.Outcome State Fault Refusal := next (movSrSem.issue g w s)

/-! Control flow (R144 to R146). -/

/-- An instruction address moved by a signed count of 16-byte words. -/
def pcPlus (pc : W64) (off : W32) : W64 := pc + (off.signExtend 64) * 16

/-- The reconvergence address a branch names in IMM1, if any (R144). -/
def reconvAddr (c : Ctx) (w : Fields) : Option W64 := if w.imm1 = 0 then none else some (pcPlus c.sub.pc w.imm1)

/-- The lanes of an issue by their targets, in ascending order of their lowest lane. -/
def byTarget (target : Nat → W64) : List Nat → List (W64 × BitVec 32) → List (W64 × BitVec 32)
  | [], acc => acc
  | i :: t, acc =>
    let p := target i
    let m : BitVec 32 := BitVec.ofNat 32 (2 ^ i)
    if acc.any (fun e => e.1 == p) then byTarget target t (acc.map (fun e => if e.1 == p then (p, e.2 ||| m) else e))
    else byTarget target t (acc ++ [(p, m)])

/-- A branch taken: one target moves the subgroup; several split it, each part with the reconvergence address on its stack (R92, R145). -/
def State.branch (s : State) (c : Ctx) (w : Fields) (target : Nat → W64) : State :=
  let u := c.movedSub
  let parts := byTarget (fun i => if c.act.getLsbD i then target i else u.pc) (lanesOf c.sub.lanes) []
  match parts with
  | [(p, _)] => s.setGroup c.ga c.slot (c.replaceSub [{ u with pc := p }])
  | _ =>
    let (k, s) := s.newId
    let stack := match reconvAddr c w with
      | some a => ({ addr := a, split := k, mates := u.lanes } :: u.stack).take 16
      | none => u.stack
    s.setGroup c.ga c.slot (c.replaceSub (parts.map (fun e => { u with lanes := e.2, pc := e.1, stack := stack })))

/-- `bra` (R144). -/
def braSem : Sem :=
  { op := 0x08, desc := fun w => noBits w { Desc.plain with own0 := true, own1 := true }, ready := fun _ _ _ => true,
    check := fun _ _ _ => none, eff := fun s c w => s.branch c w (fun _ => pcPlus c.sub.pc w.imm0) }

/-- BRA (R144). -/
def execBra (g : GRef) (w : Fields) (s : State) : Host.Outcome State Fault Refusal := next (braSem.issue g w s)

/-- The target of `brx` for a lane: the pair named by A. -/
def brxTarget (c : Ctx) (w : Fields) (i : Nat) : W64 :=
  BitVec.ofNat 64 (if w.ka = 0 then c.grp.twords i w.a.toNat 2 else c.grp.uwords w.a.toNat 2)

/-- `brx` (R146): a target that is not a multiple of 16 raises MISALIGNED. -/
def brxSem : Sem :=
  { op := 0x09, desc := fun w => noBits w { Desc.plain with a := .value ⟨2, 2, 2, [0, 1]⟩, own1 := true }, ready := fun _ _ _ => true,
    check := fun _ c w =>
      ((lanesOf c.act).find? (fun i => (brxTarget c w i).toNat % 16 != 0)).map (fun i => (0x0103, brxTarget c w i, 0)),
    eff := fun s c w => s.branch c w (brxTarget c w) }

/-- BRX (R146). -/
def execBrx (g : GRef) (w : Fields) (s : State) : Host.Outcome State Fault Refusal := next (brxSem.issue g w s)

/-- `call` (R146): the address of the next instruction into the pair D, then a branch. -/
def callSem : Sem :=
  { op := 0x0A, desc := fun w => noBits w { Desc.plain with d := some (2, 2), own0 := true, own1 := true }, ready := fun _ _ _ => true,
    check := fun _ _ _ => none,
    eff := fun s c w =>
      let c := { c with grp := c.grp.writeD w c.act 2 (fun _ => (c.sub.pc + 16).toNat) }
      s.branch c w (fun _ => pcPlus c.sub.pc w.imm0) }

/-- CALL (R146). -/
def execCall (g : GRef) (w : Fields) (s : State) : Host.Outcome State Fault Refusal := next (callSem.issue g w s)

/-- `lea.pc` (R146). -/
def leaPcSem : Sem :=
  Sem.regs 0x0B (fun w => noBits w { Desc.plain with d := some (2, 2), own0 := true })
    (fun c w => c.grp.writeD w c.act 2 (fun _ => (c.sub.pc + w.imm0.signExtend 64).toNat))

/-- LEA_PC (R146). -/
def execLeaPc (g : GRef) (w : Fields) (s : State) : Host.Outcome State Fault Refusal := next (leaPcSem.issue g w s)

/-- `fpflags.clr` (R139). -/
def fpflagsClrSem : Sem :=
  Sem.regs 0x0C (fun w => noBits w { Desc.plain with own0 := true })
    (fun c w => if c.act = 0 then c.grp else { c.grp with fpflags := c.grp.fpflags &&& ~~~(w.imm0.truncate 5) })

/-- FPFLAGS_CLR (R139). -/
def execFpflagsClr (g : GRef) (w : Fields) (s : State) : Host.Outcome State Fault Refusal := next (fpflagsClrSem.issue g w s)

/-! Barriers (R107 to R111, R147). -/

/-- The shape of the barrier instructions: the barrier in B, immediate or uniform. -/
def barDesc (w : Fields) : Option Desc := noBits w { Desc.plain with b := .value ⟨1, 1, 1, [1, 2]⟩, switch := true }

/-- The barrier a barrier instruction names. -/
def barNumber (c : Ctx) (w : Fields) : Nat := if w.kb = 1 then (c.grp.ureg w.b.toNat).toNat else w.imm0.toNat

/-- A barrier number above 15 makes the instruction illegal (R147). -/
def barCheck (op : Nat) (c : Ctx) (w : Fields) : Option (Nat × W64 × W32) :=
  if 15 < barNumber c w then some (0x0101, 0, lowWord op w) else none

/-- The arrivals of threads counted at a barrier of their block: a thread that has arrived counts once (R108). -/
def State.arrive (s : State) (ga : Nat) (g : Group) (lanes : BitVec 32) (b : Nat) : State :=
  match s.block ga g.block with
  | none => s
  | some k => s.setBlock ga g.block { k with arrived := Tab.put k.arrived b (Tab.getD k.arrived b 0 ||| threadSet g lanes) }

/-- `bar.sync` (R108, R301). -/
def barSyncSem : Sem :=
  { op := 0x0D, desc := barDesc, ready := fun _ c _ => !c.grp.outstanding c.act, check := fun _ c w => barCheck 0x0D c w,
    eff := fun s c w =>
      let b := barNumber c w
      (s.setGroup c.ga c.slot (c.splitOff (fun u => { u with wait := .barrier b, yieldCount := 0 }))).arrive c.ga c.grp c.act b }

/-- BAR_SYNC (R108). -/
def execBarSync (g : GRef) (w : Fields) (s : State) : Host.Outcome State Fault Refusal := next (barSyncSem.issue g w s)

/-- `bar.arrive` (R108, R301). -/
def barArriveSem : Sem :=
  { op := 0x0E, desc := barDesc, ready := fun _ c _ => !c.grp.outstanding c.act, check := fun _ c w => barCheck 0x0E c w,
    eff := fun s c w => s.arrive c.ga c.grp c.act (barNumber c w) }

/-- BAR_ARRIVE (R108). -/
def execBarArrive (g : GRef) (w : Fields) (s : State) : Host.Outcome State Fault Refusal := next (barArriveSem.issue g w s)

end Sys2Proof.Machine
end

