-- ==== Sys2Proof/Machine/Exchange.lean ====
section
/-! DEFINITION. Lane exchange and vote (R105, R106, R148). -/

namespace Sys2Proof.Machine

/-- The shape of the `shfl` instructions. -/
def shflDesc (w : Fields) : Option Desc :=
  noBits w { Desc.plain with d := some (1, 1), a := .value Val.one, b := .value Val.one, coll := true, switch := true }

/-- A lane exchange: `from` gives the lane whose A a lane receives, from its own lane number and B; the lane keeps its own value where
there is none. Exited lanes supply what they held, absent lanes zero (R106). -/
def shflSem (op : Nat) (src : Nat → Nat → Option Nat) : Sem :=
  Sem.regs op shflDesc (fun c w =>
    let d := (shflDesc w).getD Desc.plain
    let a := fun i => if c.grp.absent.getLsbD i then 0 else d.read w c.grp 0 1 i 0
    c.grp.writeD w c.act 1 (fun i => a ((src i (d.read w c.grp 1 1 i 0)).getD i)))

/-- SHFL_IDX (R148). -/
def shflIdxSem : Sem := shflSem 0x60 (fun _ b => some (b % 32))
def execShflIdx (g : GRef) (w : Fields) (s : State) : Host.Outcome State Fault Refusal := next (shflIdxSem.issue g w s)

/-- SHFL_XOR (R148). -/
def shflXorSem : Sem := shflSem 0x61 (fun i b => some ((i ^^^ b) % 32))
def execShflXor (g : GRef) (w : Fields) (s : State) : Host.Outcome State Fault Refusal := next (shflXorSem.issue g w s)

/-- SHFL_UP (R148). -/
def shflUpSem : Sem := shflSem 0x62 (fun i b => if b ≤ i then some (i - b) else none)
def execShflUp (g : GRef) (w : Fields) (s : State) : Host.Outcome State Fault Refusal := next (shflUpSem.issue g w s)

/-- SHFL_DOWN (R148). -/
def shflDownSem : Sem := shflSem 0x63 (fun i b => if i + b ≤ 31 then some (i + b) else none)
def execShflDown (g : GRef) (w : Fields) (s : State) : Host.Outcome State Fault Refusal := next (shflDownSem.issue g w s)

/-- The predicate a vote reads in a lane: false in absent lanes. -/
def voteBit (c : Ctx) (w : Fields) (i : Nat) : Bool := !c.grp.absent.getLsbD i && c.grp.pred i w.a.toNat

/-- The shape of `vote.all` and `vote.any`. -/
def voteDesc (w : Fields) : Option Desc := noBits w { Desc.plain with a := .pred, pd := true, coll := true, switch := true }

/-- VOTE_ALL (R148). -/
def voteAllSem : Sem := Sem.regs 0x64 voteDesc (fun c w => c.grp.writePd w c.act (fun _ => (List.range 32).all (voteBit c w)))
def execVoteAll (g : GRef) (w : Fields) (s : State) : Host.Outcome State Fault Refusal := next (voteAllSem.issue g w s)

/-- VOTE_ANY (R148). -/
def voteAnySem : Sem := Sem.regs 0x65 voteDesc (fun c w => c.grp.writePd w c.act (fun _ => (List.range 32).any (voteBit c w)))
def execVoteAny (g : GRef) (w : Fields) (s : State) : Host.Outcome State Fault Refusal := next (voteAnySem.issue g w s)

/-- The shape of `vote.ballot`: its D may be uniform. -/
def voteBallotDesc (w : Fields) : Option Desc :=
  noBits w { Desc.plain with d := some (1, 1), du := .ballot, a := .pred, coll := true, switch := true }

/-- VOTE_BALLOT (R148). -/
def voteBallotSem : Sem :=
  Sem.regs 0x66 voteBallotDesc (fun c w =>
    c.grp.writeD w c.act 1 (fun _ => (lanesMask ((List.range 32).filter (voteBit c w))).toNat))
def execVoteBallot (g : GRef) (w : Fields) (s : State) : Host.Outcome State Fault Refusal := next (voteBallotSem.issue g w s)

end Sys2Proof.Machine
end

