-- ==== Sys2Proof/Machine/Float.lean ====
section
/-! DEFINITION. FP32 and packed 16-bit instructions (R138 to R142). -/

namespace Sys2Proof.Machine

/-- Elements of an operation, from MOD[53:52], and FTZ, MOD[56] (R138, R141). -/
def fpWidth (w : Fields) : Nat := 2 ^ (w.mod.toNat % 4)
def fpFtz (w : Fields) : Bool := 16 ≤ w.mod.toNat % 32

/-- The shape of a floating-point operation with n sources; `rounds` is false where AUX must be zero. -/
def fpDesc (n : Nat) (rounds : Bool) (w : Fields) : Option Desc :=
  let v := Val.vec (fpWidth w) 1
  if w.mod &&& 0x2C = 0 ∧ w.aux.toNat ≤ (if rounds then 3 else 0) then
    some { Desc.plain with d := some (v.words, v.align), a := .value v, b := if 2 ≤ n then .value v else .unused,
                           c := if 3 ≤ n then .value v else .unused }
  else none

/-- A floating-point operation: each element's result and flags from the elements of A, B and C, the rounding mode and FTZ. -/
def fpSem (op n : Nat) (rounds : Bool) (f : Nat → Bool → Nat → Nat → Nat → Nat × FFlags) : Sem :=
  { Sem.regs op (fpDesc n rounds) (fun c w =>
      let d := (fpDesc n rounds w).getD Desc.plain
      c.grp.mapFlagged w c.act (fpWidth w) 1 (fun i k =>
        f w.aux.toNat (fpFtz w) (d.read w c.grp 0 1 i k) (d.read w c.grp 1 1 i k) (d.read w c.grp 2 1 i k))) with
    occ := fun _ => if 0x38 ≤ op ∧ op ≤ 0x3C then 4 else 1 }

/-! The operations of a format on encoded elements (R138). -/

/-- Sum, difference, product and fused multiply-add. -/
def Fmt.addBits (f : Fmt) (mode : Nat) (ftz : Bool) (x y _z : Nat) : Nat × FFlags := f.add mode ftz (f.decodeFtz ftz x) (f.decodeFtz ftz y)
def Fmt.subBits (f : Fmt) (mode : Nat) (ftz : Bool) (x y _z : Nat) : Nat × FFlags :=
  f.add mode ftz (f.decodeFtz ftz x) (f.decodeFtz ftz y).negate
def Fmt.mulBits (f : Fmt) (mode : Nat) (ftz : Bool) (x y _z : Nat) : Nat × FFlags := f.mul mode ftz (f.decodeFtz ftz x) (f.decodeFtz ftz y)
def Fmt.fmaBits (f : Fmt) (mode : Nat) (ftz : Bool) (x y z : Nat) : Nat × FFlags :=
  f.fma mode ftz (f.decodeFtz ftz x) (f.decodeFtz ftz y) (f.decodeFtz ftz z)

/-- The lesser and the greater. -/
def Fmt.minBits (f : Fmt) (_mode : Nat) (ftz : Bool) (x y _z : Nat) : Nat × FFlags := f.minMax false (f.decodeFtz ftz x) (f.decodeFtz ftz y)
def Fmt.maxBits (f : Fmt) (_mode : Nat) (ftz : Bool) (x y _z : Nat) : Nat × FFlags := f.minMax true (f.decodeFtz ftz x) (f.decodeFtz ftz y)

/-- Sign-bit operations: no flag, no FTZ, a NaN's payload kept. -/
def absBits (_mode : Nat) (_ftz : Bool) (x _y _z : Nat) : Nat × FFlags := (x % 2 ^ 31, 0)
def negBits (_mode : Nat) (_ftz : Bool) (x _y _z : Nat) : Nat × FFlags := (x ^^^ 2 ^ 31, 0)

/-- Reciprocal and square root, correctly rounded; the approximate functions (R140). -/
def rcpBits (mode : Nat) (ftz : Bool) (x _y _z : Nat) : Nat × FFlags := fp32.rcp mode ftz (fp32.decodeFtz ftz x)
def sqrtBits (mode : Nat) (ftz : Bool) (x _y _z : Nat) : Nat × FFlags := fp32.sqrt mode ftz (fp32.decodeFtz ftz x)
def rsqrtBits (mode : Nat) (ftz : Bool) (x _y _z : Nat) : Nat × FFlags := rsqrtF mode ftz x
def ex2Bits (mode : Nat) (ftz : Bool) (x _y _z : Nat) : Nat × FFlags := ex2F mode ftz x
def lg2Bits (mode : Nat) (ftz : Bool) (x _y _z : Nat) : Nat × FFlags := lg2F mode ftz x

/-- A 16-bit operation on both halves of an element, each rounded and flagged on its own (R142). -/
def packed (f : Nat → Bool → Nat → Nat → Nat → Nat × FFlags) (mode : Nat) (ftz : Bool) (x y z : Nat) : Nat × FFlags :=
  let lo := f mode ftz (x % 2 ^ 16) (y % 2 ^ 16) (z % 2 ^ 16)
  let hi := f mode ftz (x / 2 ^ 16) (y / 2 ^ 16) (z / 2 ^ 16)
  (lo.1 + 2 ^ 16 * hi.1, lo.2 ||| hi.2)

/-! The instructions. -/

/-- ADD_F32 (R138). -/
def addF32Sem : Sem := fpSem 0x30 2 true fp32.addBits
def execAddF32 (g : GRef) (w : Fields) (s : State) : Host.Outcome State Fault Refusal := next (addF32Sem.issue g w s)

/-- SUB_F32 (R138). -/
def subF32Sem : Sem := fpSem 0x31 2 true fp32.subBits
def execSubF32 (g : GRef) (w : Fields) (s : State) : Host.Outcome State Fault Refusal := next (subF32Sem.issue g w s)

/-- MUL_F32 (R138). -/
def mulF32Sem : Sem := fpSem 0x32 2 true fp32.mulBits
def execMulF32 (g : GRef) (w : Fields) (s : State) : Host.Outcome State Fault Refusal := next (mulF32Sem.issue g w s)

/-- FMA_F32 (R138). -/
def fmaF32Sem : Sem := fpSem 0x33 3 true fp32.fmaBits
def execFmaF32 (g : GRef) (w : Fields) (s : State) : Host.Outcome State Fault Refusal := next (fmaF32Sem.issue g w s)

/-- MIN_F32 (R138). -/
def minF32Sem : Sem := fpSem 0x34 2 true fp32.minBits
def execMinF32 (g : GRef) (w : Fields) (s : State) : Host.Outcome State Fault Refusal := next (minF32Sem.issue g w s)

/-- MAX_F32 (R138). -/
def maxF32Sem : Sem := fpSem 0x35 2 true fp32.maxBits
def execMaxF32 (g : GRef) (w : Fields) (s : State) : Host.Outcome State Fault Refusal := next (maxF32Sem.issue g w s)

/-- ABS_F32 (R138). -/
def absF32Sem : Sem := fpSem 0x36 1 false absBits
def execAbsF32 (g : GRef) (w : Fields) (s : State) : Host.Outcome State Fault Refusal := next (absF32Sem.issue g w s)

/-- NEG_F32 (R138). -/
def negF32Sem : Sem := fpSem 0x37 1 false negBits
def execNegF32 (g : GRef) (w : Fields) (s : State) : Host.Outcome State Fault Refusal := next (negF32Sem.issue g w s)

/-- RCP_F32 (R138). -/
def rcpF32Sem : Sem := fpSem 0x38 1 true rcpBits
def execRcpF32 (g : GRef) (w : Fields) (s : State) : Host.Outcome State Fault Refusal := next (rcpF32Sem.issue g w s)

/-- RSQRT_F32 (R140). -/
def rsqrtF32Sem : Sem := fpSem 0x39 1 true rsqrtBits
def execRsqrtF32 (g : GRef) (w : Fields) (s : State) : Host.Outcome State Fault Refusal := next (rsqrtF32Sem.issue g w s)

/-- SQRT_F32 (R138). -/
def sqrtF32Sem : Sem := fpSem 0x3A 1 true sqrtBits
def execSqrtF32 (g : GRef) (w : Fields) (s : State) : Host.Outcome State Fault Refusal := next (sqrtF32Sem.issue g w s)

/-- EX2_F32 (R140). -/
def ex2F32Sem : Sem := fpSem 0x3B 1 true ex2Bits
def execEx2F32 (g : GRef) (w : Fields) (s : State) : Host.Outcome State Fault Refusal := next (ex2F32Sem.issue g w s)

/-- LG2_F32 (R140). -/
def lg2F32Sem : Sem := fpSem 0x3C 1 true lg2Bits
def execLg2F32 (g : GRef) (w : Fields) (s : State) : Host.Outcome State Fault Refusal := next (lg2F32Sem.issue g w s)

/-- The shape of `setp.f32`: one element of A and B, PD written, AUX the comparison; a vector width is illegal (DESIGN CHOICE, log entry 86). -/
def setpF32Desc (w : Fields) : Option Desc :=
  if w.mod &&& 0x2F = 0 ∧ w.aux.toNat ≤ 5 then
    some { Desc.plain with a := .value Val.one, b := .value Val.one, pd := true }
  else none

/-- SETP_F32 (R138). -/
def setpF32Sem : Sem :=
  Sem.regs 0x3D setpF32Desc (fun c w =>
    let d := (setpF32Desc w).getD Desc.plain
    let r := fun i => setpF w.aux.toNat (fp32.decodeFtz (fpFtz w) (d.read w c.grp 0 1 i 0)) (fp32.decodeFtz (fpFtz w) (d.read w c.grp 1 1 i 0))
    (c.grp.writePd w c.act (fun i => (r i).1)).raiseFlags ((lanesOf c.act).foldl (fun acc i => acc ||| (r i).2) 0))
def execSetpF32 (g : GRef) (w : Fields) (s : State) : Host.Outcome State Fault Refusal := next (setpF32Sem.issue g w s)

/-- ADD_BF16X2 (R142). -/
def addBf16x2Sem : Sem := fpSem 0x40 2 true (packed bf16.addBits)
def execAddBf16x2 (g : GRef) (w : Fields) (s : State) : Host.Outcome State Fault Refusal := next (addBf16x2Sem.issue g w s)

/-- MUL_BF16X2 (R142). -/
def mulBf16x2Sem : Sem := fpSem 0x41 2 true (packed bf16.mulBits)
def execMulBf16x2 (g : GRef) (w : Fields) (s : State) : Host.Outcome State Fault Refusal := next (mulBf16x2Sem.issue g w s)

/-- FMA_BF16X2 (R142). -/
def fmaBf16x2Sem : Sem := fpSem 0x42 3 true (packed bf16.fmaBits)
def execFmaBf16x2 (g : GRef) (w : Fields) (s : State) : Host.Outcome State Fault Refusal := next (fmaBf16x2Sem.issue g w s)

/-- MIN_BF16X2 (R142). -/
def minBf16x2Sem : Sem := fpSem 0x43 2 true (packed bf16.minBits)
def execMinBf16x2 (g : GRef) (w : Fields) (s : State) : Host.Outcome State Fault Refusal := next (minBf16x2Sem.issue g w s)

/-- MAX_BF16X2 (R142). -/
def maxBf16x2Sem : Sem := fpSem 0x44 2 true (packed bf16.maxBits)
def execMaxBf16x2 (g : GRef) (w : Fields) (s : State) : Host.Outcome State Fault Refusal := next (maxBf16x2Sem.issue g w s)

/-- ADD_F16X2 (R142). -/
def addF16x2Sem : Sem := fpSem 0x48 2 true (packed fp16.addBits)
def execAddF16x2 (g : GRef) (w : Fields) (s : State) : Host.Outcome State Fault Refusal := next (addF16x2Sem.issue g w s)

/-- MUL_F16X2 (R142). -/
def mulF16x2Sem : Sem := fpSem 0x49 2 true (packed fp16.mulBits)
def execMulF16x2 (g : GRef) (w : Fields) (s : State) : Host.Outcome State Fault Refusal := next (mulF16x2Sem.issue g w s)

/-- FMA_F16X2 (R142). -/
def fmaF16x2Sem : Sem := fpSem 0x4A 3 true (packed fp16.fmaBits)
def execFmaF16x2 (g : GRef) (w : Fields) (s : State) : Host.Outcome State Fault Refusal := next (fmaF16x2Sem.issue g w s)

/-- MIN_F16X2 (R142). -/
def minF16x2Sem : Sem := fpSem 0x4B 2 true (packed fp16.minBits)
def execMinF16x2 (g : GRef) (w : Fields) (s : State) : Host.Outcome State Fault Refusal := next (minF16x2Sem.issue g w s)

/-- MAX_F16X2 (R142). -/
def maxF16x2Sem : Sem := fpSem 0x4C 2 true (packed fp16.maxBits)
def execMaxF16x2 (g : GRef) (w : Fields) (s : State) : Host.Outcome State Fault Refusal := next (maxF16x2Sem.issue g w s)

end Sys2Proof.Machine
end

