-- ==== Sys2Proof/Machine/Integer.lean ====
section
/-! DEFINITION. Integer, logic, selection, conversion and predicate instructions (R137, R141, R673, R674). -/

namespace Sys2Proof.Machine

/-! The class bits (R137, R141). -/

/-- Registers of one element, whether the type is signed, and the elements of an operation, from MOD. -/
def intWords (w : Fields) : Nat := if w.mod.toNat % 4 < 2 then 1 else 2
def intSigned (w : Fields) : Bool := w.mod.toNat % 2 = 1
def vecWidth (w : Fields) : Nat := 2 ^ (w.mod.toNat / 4 % 4)

/-- Bits of one element. -/
def intBits (w : Fields) : Nat := 32 * intWords w

/-- The shape of an integer operation with n sources; only `add` and `sub` take MOD[56] (R137). -/
def intDesc (n : Nat) (sat : Bool) (w : Fields) : Option Desc :=
  let v := Val.vec (vecWidth w) (intWords w)
  if w.aux = 0 ∧ w.mod.toNat < 32 ∧ (sat ∨ w.mod.toNat < 16) then
    some { Desc.plain with d := some (v.words, v.align), a := .value v, b := if 2 ≤ n then .value v else .unused,
                           c := if 3 ≤ n then .value v else .unused }
  else none

/-- An integer operation: each element's result from the elements of A, B and C. -/
def intSem (op n : Nat) (sat : Bool) (f : Fields → Nat → Nat → Nat → Nat) : Sem :=
  Sem.regs op (intDesc n sat) (fun c w =>
    let d := (intDesc n sat w).getD Desc.plain
    let e := intWords w
    c.grp.mapElems w c.act (vecWidth w) e (fun i k => f w (d.read w c.grp 0 e i k) (d.read w c.grp 1 e i k) (d.read w c.grp 2 e i k)))

/-! What each operation computes on an element. -/

/-- An integer result wrapped to the type, or with MOD[56] the nearest value of the type's range (R137). -/
def intFit (w : Fields) (x : Int) : Nat :=
  if 16 ≤ w.mod.toNat then wrapInt (intBits w) (max (intMin (intBits w) (intSigned w)) (min (intMax (intBits w) (intSigned w)) x))
  else wrapInt (intBits w) x

/-- The integer an element stands for in the instruction's type. -/
def intRead (w : Fields) (x : Nat) : Int := readInt (intBits w) (intSigned w) x

/-- Sum and difference. -/
def addElem (w : Fields) (x y _z : Nat) : Nat := intFit w (intRead w x + intRead w y)
def subElem (w : Fields) (x y _z : Nat) : Nat := intFit w (intRead w x - intRead w y)

/-- Low and high half of the product, and the low half of a multiply-add. -/
def mulLoElem (w : Fields) (x y _z : Nat) : Nat := wrapInt (intBits w) (intRead w x * intRead w y)
def mulHiElem (w : Fields) (x y _z : Nat) : Nat := wrapInt (intBits w) (intRead w x * intRead w y / (2 ^ intBits w : Nat))
def madLoElem (w : Fields) (x y z : Nat) : Nat := wrapInt (intBits w) (intRead w x * intRead w y + intRead w z)

/-- Quotient and remainder: a zero divisor gives all ones and the dividend; otherwise rounded toward zero, the most negative value by
minus one wrapping to itself with remainder 0. -/
def divElem (w : Fields) (x y _z : Nat) : Nat :=
  if intRead w y = 0 then 2 ^ intBits w - 1 else wrapInt (intBits w) (Int.tdiv (intRead w x) (intRead w y))
def remElem (w : Fields) (x y _z : Nat) : Nat :=
  if intRead w y = 0 then x else wrapInt (intBits w) (Int.tmod (intRead w x) (intRead w y))

/-- The lesser and the greater. -/
def minElem (w : Fields) (x y _z : Nat) : Nat := if intRead w y < intRead w x then y else x
def maxElem (w : Fields) (x y _z : Nat) : Nat := if intRead w x < intRead w y then y else x

/-- Absolute value and negation, wrapping. -/
def absElem (w : Fields) (x _y _z : Nat) : Nat := wrapInt (intBits w) ((intRead w x).natAbs : Int)
def negElem (w : Fields) (x _y _z : Nat) : Nat := wrapInt (intBits w) (-intRead w x)

/-- Bitwise operations. -/
def andElem (_w : Fields) (x y _z : Nat) : Nat := x &&& y
def orElem (_w : Fields) (x y _z : Nat) : Nat := x ||| y
def xorElem (_w : Fields) (x y _z : Nat) : Nat := x ^^^ y
def notElem (w : Fields) (x _y _z : Nat) : Nat := 2 ^ intBits w - 1 - x

/-- Shifts by the unsigned value of B's whole element (R673): an amount at or above the width gives 0, or for `sar` the sign in every
bit. -/
def shlElem (w : Fields) (x y _z : Nat) : Nat := if intBits w ≤ y then 0 else x * 2 ^ y % 2 ^ intBits w
def shrElem (w : Fields) (x y _z : Nat) : Nat := if intBits w ≤ y then 0 else x / 2 ^ y
def sarElem (w : Fields) (x y _z : Nat) : Nat :=
  wrapInt (intBits w) (readInt (intBits w) true x / (2 ^ (if intBits w ≤ y then intBits w - 1 else y) : Nat))

/-- Set bits, leading zeros, and the bits in reverse order. -/
def popcElem (w : Fields) (x _y _z : Nat) : Nat := ((List.range (intBits w)).filter (fun i => x.testBit i)).length
def clzElem (w : Fields) (x _y _z : Nat) : Nat := if x = 0 then intBits w else intBits w - 1 - msb x
def brevElem (w : Fields) (x _y _z : Nat) : Nat :=
  (List.range (intBits w)).foldl (fun acc i => 2 * acc + (if x.testBit i then 1 else 0)) 0

/-- Position and truncated length of the field of `bfe` and `bfi` (R673): no bits where the length is 0 or the position is at or beyond
the width. -/
def fieldOf (w : Fields) (y : Nat) : Nat × Nat := (y % 256, min (y / 256 % 256) (intBits w - y % 256))

/-- Field extraction, and field insertion. -/
def bfeElem (w : Fields) (x y _z : Nat) : Nat :=
  let (pos, len) := fieldOf w y
  if len = 0 then 0 else wrapInt (intBits w) (readInt len (intSigned w) (x / 2 ^ pos))
def bfiElem (w : Fields) (x y z : Nat) : Nat :=
  let (pos, len) := fieldOf w y
  if len = 0 then z else withBits z pos len x

/-- A copy. -/
def movElem (_w : Fields) (x _y _z : Nat) : Nat := x

/-! The instructions. -/

/-- ADD (R137). -/
def addOpSem : Sem := intSem 0x10 2 true addElem
def execAddOp (g : GRef) (w : Fields) (s : State) : Host.Outcome State Fault Refusal := next (addOpSem.issue g w s)

/-- SUB (R137). -/
def subOpSem : Sem := intSem 0x11 2 true subElem
def execSubOp (g : GRef) (w : Fields) (s : State) : Host.Outcome State Fault Refusal := next (subOpSem.issue g w s)

/-- MUL_LO (R137). -/
def mulLoSem : Sem := intSem 0x12 2 false mulLoElem
def execMulLo (g : GRef) (w : Fields) (s : State) : Host.Outcome State Fault Refusal := next (mulLoSem.issue g w s)

/-- MUL_HI (R137). -/
def mulHiSem : Sem := intSem 0x13 2 false mulHiElem
def execMulHi (g : GRef) (w : Fields) (s : State) : Host.Outcome State Fault Refusal := next (mulHiSem.issue g w s)

/-- MAD_LO (R137). -/
def madLoSem : Sem := intSem 0x14 3 false madLoElem
def execMadLo (g : GRef) (w : Fields) (s : State) : Host.Outcome State Fault Refusal := next (madLoSem.issue g w s)

/-- DIV (R137). -/
def divOpSem : Sem := intSem 0x15 2 false divElem
def execDivOp (g : GRef) (w : Fields) (s : State) : Host.Outcome State Fault Refusal := next (divOpSem.issue g w s)

/-- REM (R137). -/
def remSem : Sem := intSem 0x16 2 false remElem
def execRem (g : GRef) (w : Fields) (s : State) : Host.Outcome State Fault Refusal := next (remSem.issue g w s)

/-- MIN (R137). -/
def minOpSem : Sem := intSem 0x17 2 false minElem
def execMinOp (g : GRef) (w : Fields) (s : State) : Host.Outcome State Fault Refusal := next (minOpSem.issue g w s)

/-- MAX (R137). -/
def maxOpSem : Sem := intSem 0x18 2 false maxElem
def execMaxOp (g : GRef) (w : Fields) (s : State) : Host.Outcome State Fault Refusal := next (maxOpSem.issue g w s)

/-- ABS (R137). -/
def absOpSem : Sem := intSem 0x19 1 false absElem
def execAbsOp (g : GRef) (w : Fields) (s : State) : Host.Outcome State Fault Refusal := next (absOpSem.issue g w s)

/-- NEG (R137). -/
def negOpSem : Sem := intSem 0x1A 1 false negElem
def execNegOp (g : GRef) (w : Fields) (s : State) : Host.Outcome State Fault Refusal := next (negOpSem.issue g w s)

/-- AND (R137). -/
def andOpSem : Sem := intSem 0x1B 2 false andElem
def execAndOp (g : GRef) (w : Fields) (s : State) : Host.Outcome State Fault Refusal := next (andOpSem.issue g w s)

/-- OR (R137). -/
def orOpSem : Sem := intSem 0x1C 2 false orElem
def execOrOp (g : GRef) (w : Fields) (s : State) : Host.Outcome State Fault Refusal := next (orOpSem.issue g w s)

/-- XOR (R137). -/
def xorOpSem : Sem := intSem 0x1D 2 false xorElem
def execXorOp (g : GRef) (w : Fields) (s : State) : Host.Outcome State Fault Refusal := next (xorOpSem.issue g w s)

/-- NOT (R137). -/
def notOpSem : Sem := intSem 0x1E 1 false notElem
def execNotOp (g : GRef) (w : Fields) (s : State) : Host.Outcome State Fault Refusal := next (notOpSem.issue g w s)

/-- SHL (R673). -/
def shlSem : Sem := intSem 0x1F 2 false shlElem
def execShl (g : GRef) (w : Fields) (s : State) : Host.Outcome State Fault Refusal := next (shlSem.issue g w s)

/-- SHR (R673). -/
def shrSem : Sem := intSem 0x20 2 false shrElem
def execShr (g : GRef) (w : Fields) (s : State) : Host.Outcome State Fault Refusal := next (shrSem.issue g w s)

/-- SAR (R673). -/
def sarSem : Sem := intSem 0x21 2 false sarElem
def execSar (g : GRef) (w : Fields) (s : State) : Host.Outcome State Fault Refusal := next (sarSem.issue g w s)

/-- POPC (R673). -/
def popcSem : Sem := intSem 0x22 1 false popcElem
def execPopc (g : GRef) (w : Fields) (s : State) : Host.Outcome State Fault Refusal := next (popcSem.issue g w s)

/-- CLZ (R673). -/
def clzSem : Sem := intSem 0x23 1 false clzElem
def execClz (g : GRef) (w : Fields) (s : State) : Host.Outcome State Fault Refusal := next (clzSem.issue g w s)

/-- BREV (R137). -/
def brevSem : Sem := intSem 0x24 1 false brevElem
def execBrev (g : GRef) (w : Fields) (s : State) : Host.Outcome State Fault Refusal := next (brevSem.issue g w s)

/-- BFE (R673). -/
def bfeSem : Sem := intSem 0x25 2 false bfeElem
def execBfe (g : GRef) (w : Fields) (s : State) : Host.Outcome State Fault Refusal := next (bfeSem.issue g w s)

/-- BFI (R673). -/
def bfiSem : Sem := intSem 0x26 3 false bfiElem
def execBfi (g : GRef) (w : Fields) (s : State) : Host.Outcome State Fault Refusal := next (bfiSem.issue g w s)

/-- MOV (R137). -/
def movSem : Sem := intSem 0x29 1 false movElem
def execMov (g : GRef) (w : Fields) (s : State) : Host.Outcome State Fault Refusal := next (movSem.issue g w s)

/-! Comparison, selection and predicates (R673). -/

/-- The shape of `setp`: one element of A and B, PD written, AUX the comparison; a vector width is illegal (DESIGN CHOICE, log entry 86). -/
def setpDesc (w : Fields) : Option Desc :=
  let v := Val.vec 1 (intWords w)
  if w.aux.toNat ≤ 5 ∧ w.mod.toNat < 4 then some { Desc.plain with a := .value v, b := .value v, pd := true } else none

/-- SETP (R673). -/
def setpSem : Sem :=
  Sem.regs 0x27 setpDesc (fun c w =>
    let d := (setpDesc w).getD Desc.plain
    let n := intWords w
    c.grp.writePd w c.act (fun i => cmpCode w.aux.toNat (intRead w (d.read w c.grp 0 n i 0) - intRead w (d.read w c.grp 1 n i 0))))
def execSetp (g : GRef) (w : Fields) (s : State) : Host.Outcome State Fault Refusal := next (setpSem.issue g w s)

/-- The shape of `selp`: A, B and the predicate named in C[2:0]. -/
def selpDesc (w : Fields) : Option Desc := (intDesc 2 false w).map (fun d => { d with c := .pred })

/-- SELP (R673). -/
def selpSem : Sem :=
  Sem.regs 0x28 selpDesc (fun c w =>
    let d := (selpDesc w).getD Desc.plain
    let n := intWords w
    c.grp.mapElems w c.act (vecWidth w) n (fun i k =>
      if c.grp.pred i w.c.toNat then d.read w c.grp 0 n i k else d.read w c.grp 1 n i k))
def execSelp (g : GRef) (w : Fields) (s : State) : Host.Outcome State Fault Refusal := next (selpSem.issue g w s)

/-- The shape of `plop`: two predicates in, one out. -/
def plopDesc (w : Fields) : Option Desc :=
  if w.aux.toNat ≤ 3 ∧ w.mod = 0 then some { Desc.plain with a := .pred, b := .pred, pd := true } else none

/-- Two predicates combined: and, or, exclusive or, and-not. -/
def plopBit (aux : Nat) (x y : Bool) : Bool :=
  match aux with
  | 0 => x && y
  | 1 => x || y
  | 2 => x != y
  | _ => x && !y

/-- PLOP (R673). -/
def plopSem : Sem :=
  Sem.regs 0x2B plopDesc (fun c w =>
    c.grp.writePd w c.act (fun i => plopBit w.aux.toNat (c.grp.pred i w.a.toNat) (c.grp.pred i w.b.toNat)))
def execPlop (g : GRef) (w : Fields) (s : State) : Host.Outcome State Fault Refusal := next (plopSem.issue g w s)

/-! Conversions (R674). -/

/-- The registers of a conversion type, and its value: codes 0 to 3 integers, 4 f32, 5 bf16, 6 f16. -/
def cvtWords (t : Nat) : Nat := if t = 2 ∨ t = 3 then 2 else 1

/-- The floating-point format of a type code. -/
def cvtFmt (t : Nat) : Fmt := if t = 4 then fp32 else if t = 5 then bf16 else fp16

/-- The shape of `cvt`; a rounding mode in AUX is legal also where the conversion does not round (DESIGN CHOICE, log entry 86). -/
def cvtDesc (w : Fields) : Option Desc :=
  let dt := w.mod.toNat % 8
  let st := w.mod.toNat / 8
  let n := cvtWords dt
  if dt = 7 ∨ st = 7 ∨ 4 ≤ w.aux.toNat then none
  else some { Desc.plain with d := some (n, n), a := .value (Val.vec 1 (cvtWords st)) }

/-- One element converted: the bits written and the flags raised. -/
def cvtElem (mode dt st x : Nat) : Nat × FFlags :=
  let sb := 32 * cvtWords st
  let db := 32 * cvtWords dt
  if st < 4 then
    let v := readInt sb (st % 2 = 1) x
    if dt < 4 then (wrapInt db v, 0) else (cvtFmt dt).encode mode false (decide (v < 0)) v.natAbs 0 false
  else
    let v := (cvtFmt st).decode (x % 2 ^ (cvtFmt st).width)
    if dt < 4 then toInt mode db (dt % 2 = 1) v
    else match v with
      | .nan _ => ((cvtFmt dt).nanBits, sigFlags [v])
      | .inf n => ((cvtFmt dt).signed n (cvtFmt dt).infBits, 0)
      | .num n m e => (cvtFmt dt).encode mode false n m e false

/-- CVT (R674). -/
def cvtSem : Sem :=
  Sem.regs 0x2A cvtDesc (fun c w =>
    let d := (cvtDesc w).getD Desc.plain
    let dt := w.mod.toNat % 8
    let st := w.mod.toNat / 8
    c.grp.mapFlagged w c.act 1 (cvtWords dt) (fun i _ => cvtElem w.aux.toNat dt st (d.read w c.grp 0 (cvtWords st) i 0)))
def execCvt (g : GRef) (w : Fields) (s : State) : Host.Outcome State Fault Refusal := next (cvtSem.issue g w s)

end Sys2Proof.Machine
end

