-- ==== Sys2Proof/Machine/Matrix.lean ====
section
/-! DEFINITION. Matrix and ledger-tile instructions and the narrow conversions (R166 to R211). -/

namespace Sys2Proof.Machine

/-! Elements of fragments (R166 to R172, R182). -/

/-- The format of an operand by format code; none for the integer codes. -/
def operandFmt (code : Nat) (isB : Bool) : Option Fmt :=
  match code with
  | 0x0 => some e4m3
  | 0x1 => some e5m2
  | 0x2 => some (if isB then e5m2 else e4m3)
  | 0x3 => some (if isB then e4m3 else e5m2)
  | 0x6 => some bf16
  | 0x7 => some fp16
  | 0x8 => some e4m3
  | 0x9 => some e5m2
  | 0xA => some e3m2
  | 0xB => some e2m3
  | 0xC => some e2m1
  | _ => none

/-- Bits of an element of a format code. -/
def elemBits (code : Nat) : Nat := if code = 6 ∨ code = 7 then 16 else if code = 5 ∨ code = 0xC then 4 else if code = 0xA ∨ code = 0xB then 6 else 8

/-- The value of an element (R167, R168). -/
def elemValue (code : Nat) (isB : Bool) (x : Nat) : FVal :=
  match operandFmt code isB with
  | some f => f.decode x
  | none =>
    let v := readInt (elemBits code) true x
    .num (decide (v < 0)) v.natAbs (if code = 0xD then -6 else 0)

/-- Whether a format code has block scales. -/
def scaledCode (code : Nat) : Bool := decide (8 ≤ code)

/-- K of the shape of a format code, the shape code, and the registers of its A and B fragments (R178). -/
def matrixK (code : Nat) : Nat := if elemBits code = 16 then 32 else if elemBits code = 4 then 128 else 64
def matrixShape (code : Nat) : Nat := if elemBits code = 16 then 0 else if elemBits code = 4 then 2 else 1
def fragRegs (code : Nat) : Nat := if elemBits code = 6 then 12 else 16

/-- n words that a lane supplies to a group-collective instruction from a register on: an absent lane supplies zeros (R106). -/
def Group.supply (g : Group) (lane r n : Nat) : Nat := if g.absent.getLsbD lane then 0 else g.twords lane r n

/-- Element k of a lane's fragment that starts at a register (R171, R182). -/
def fragElem (g : Group) (code base lane k : Nat) : Nat :=
  bitsOf (g.supply lane base (fragRegs code)) (elemBits code * k) (elemBits code)

/-- The exact product of two elements times 2^S (R187, R194, R196). -/
def FVal.times (x y : FVal) (S : Int) : FVal :=
  match x, y with
  | .num a m e, .num b n f => .num (a != b) (m * n) (e + f + S)
  | .inf a, .inf b => .inf (a != b)
  | .inf a, .num b m _ => if m = 0 then .nan false else .inf (a != b)
  | .num a m _, .inf b => if m = 0 then .nan false else .inf (a != b)
  | _, _ => .nan false

/-- The block-scale sum of block b for row i and column j: none when a scale is NaN (R170, R194). -/
def scaleSum (g : Group) (w : Fields) (code i j b : Nat) : Option Int :=
  if scaledCode code then
    let sa := bitsOf (g.supply i (w.imm0.toNat % 256) 1) (8 * b) 8
    let sb := bitsOf (g.supply j (w.imm0.toNat / 256 % 256) 1) (8 * b) 8
    if sa = 255 ∨ sb = 255 then none else some ((sa : Int) + sb - 254)
  else some 0

/-- The products of row i and column j. -/
def rowProducts (g : Group) (w : Fields) (i j : Nat) : List FVal :=
  let code := w.mod.toNat % 16
  (List.range (matrixK code)).map (fun k => match scaleSum g w code i j (k / 32) with
    | none => .nan false
    | some S => (elemValue code false (fragElem g code w.a.toNat i k)).times (elemValue code true (fragElem g code w.b.toNat j k)) S)

/-! Accumulating in registers (R187 to R190). -/

/-- The weight of the most significant bit of a non-zero value. -/
def FVal.top : FVal → Option Int
  | .num _ m e => if m = 0 then none else some (msb m + e)
  | _ => none

/-- The greatest weight among the non-zero terms. -/
def topWeight (ts : List FVal) : Option Int :=
  ts.foldl (fun acc t => match t.top, acc with
    | some x, some y => some (max x y)
    | some x, none => some x
    | none, y => y) none

/-- A term truncated toward zero to a multiple of 2^q, as a count of 2^q. -/
def FVal.truncAt (q : Int) : FVal → Int
  | .num n m e =>
    let x : Int := if q ≤ e then (m <<< (e - q).toNat : Nat) else (m >>> (q - e).toNat : Nat)
    if n then -x else x
  | _ => 0

/-- The exact sum of terms as a count of 2^q, q being no greater than any exponent. -/
def exactSum (q : Int) (ts : List FVal) : Int := (ts.map (FVal.truncAt q)).foldl (· + ·) 0

/-- The least exponent of the terms. -/
def leastExp (ts : List FVal) : Int :=
  ts.foldl (fun acc t => match t with
    | .num _ _ e => min acc e
    | _ => acc) 0

/-- An FP32 accumulation: products and C, truncated below the 64 bits from the greatest weight, summed and rounded once (R187, R188). -/
def accumulate (ts : List FVal) : Nat × FFlags :=
  if ts.any FVal.isNan then (fp32.nanBits, fInvalid)
  else
    let pos := ts.any (fun t => t == .inf false)
    let neg := ts.any (fun t => t == .inf true)
    if pos && neg then (fp32.nanBits, fInvalid)
    else if pos || neg then (fp32.signed neg fp32.infBits, 0)
    else match topWeight ts with
    | none => (fp32.signed (ts.all FVal.neg) 0, 0)
    | some top =>
      let q := top - 63
      let sum := exactSum q ts
      let r := fp32.round 0 (decide (sum < 0)) sum.natAbs q false
      let low := min (leastExp ts) fp32.qmin
      let exact := exactSum low ts
      if r.tooBig then (fp32.signed (decide (sum < 0)) fp32.infBits, fOverflow ||| fInexact)
      else
        let result : FVal := fp32.decode (fp32.signed (decide (sum < 0)) r.bits)
        let differs := exactSum low [result] != exact
        (if sum = 0 then 0 else fp32.signed (decide (sum < 0)) r.bits,
         (if differs then fInexact else 0) ||| (if differs && sum != 0 && r.tiny then fUnderflow else 0))

/-- An S32 accumulation modulo 2^32 (R190). -/
def accumulateInt (ts : List FVal) (c : Nat) : Nat := wrapInt 32 (exactSum 0 ts + (c : Int))

/-- Whether two ranges of registers overlap. -/
def overlaps (a n b m : Nat) : Bool := decide (a < b + m) && decide (b < a + n)

/-- Whether the format and shape codes agree, and IMM0 names scale registers exactly for an MX format (R178, R180). -/
def mmaFormat (w : Fields) : Bool :=
  let code := w.mod.toNat % 16
  decide (code ≤ 0xD) && w.aux.toNat == matrixShape code && (if scaledCode code then decide (w.imm0.toNat < 2 ^ 16) else w.imm0 == 0)

/-- The scale registers of an instruction. -/
def scaleRegs (w : Fields) : List Nat := if scaledCode (w.mod.toNat % 16) then [w.imm0.toNat % 256, w.imm0.toNat / 256 % 256] else []

/-- The shape of `mma` (R178 to R181). -/
def mmaDesc (w : Fields) : Option Desc :=
  let code := w.mod.toNat % 16
  let acc := w.mod.toNat / 16
  let fr := fragRegs code
  let d := w.d.toNat
  let cSame := w.kc = 0 ∧ w.c = w.d
  let clash := overlaps d 32 w.a.toNat fr || overlaps d 32 w.b.toNat fr || (w.kc == 0 && overlaps d 32 w.c.toNat 32) ||
    (scaleRegs w).any (fun r => overlaps d 32 r 1)
  if mmaFormat w ∧ (acc = 0 ∨ acc = 1 ∧ (code = 4 ∨ code = 5)) ∧ (cSame ∨ !clash) then
    some { Desc.plain with d := some (32, 8), du := .never, a := .value ⟨fr, 8, 1, [0]⟩, b := .value ⟨fr, 8, 1, [0]⟩,
                           c := .value ⟨32, 8, 1, [0, 3]⟩, own0 := true, extra := scaleRegs w, coll := true, switch := true }
  else none

/-- `mma` (R187 to R190): every live lane's row of D; rows of exited and absent lanes are discarded (R106). -/
def mmaSem : Sem :=
  { Sem.regs 0x50 mmaDesc (fun c w =>
      let g := c.grp
      let cv := fun i j => if w.kc = 0 then (g.treg i (w.c.toNat + j)).toNat else 0
      if 16 ≤ w.mod.toNat then
        g.writeD w c.act 32 (fun i => joinElems 1 ((List.range 32).map (fun j => accumulateInt (rowProducts g w i j) (cv i j))))
      else
        let el := fun i j => accumulate (rowProducts g w i j ++ [fp32.decode (cv i j)])
        g.mapFlagged w c.act 32 1 el) with
    occ := fun _ => 8 }

/-- MMA (R187). -/
def execMma (g : GRef) (w : Fields) (s : State) : Host.Outcome State Fault Refusal := next (mmaSem.issue g w s)

/-! Ledger tiles (R191 to R207). -/

/-- L_f of a format code (R193). -/
def ledgerBase (code : Nat) : Int :=
  match code with
  | 0x0 => -18
  | 0x8 => -18
  | 0x1 => -32
  | 0x9 => -32
  | 0x2 => -25
  | 0x3 => -25
  | 0x6 => -266
  | 0x7 => -48
  | 0xA => -8
  | 0xB => -6
  | 0xC => -2
  | 0xD => -12
  | _ => 0

/-- Tags combined (R196). -/
def LTag.join (x y : LTag) : LTag :=
  match x, y with
  | .nan, _ => .nan
  | _, .nan => .nan
  | .finite, t => t
  | t, .finite => t
  | .posInf, .posInf => .posInf
  | .negInf, .negInf => .negInf
  | _, _ => .nan

/-- What one product adds to an element of window exponent w: counts of 2^w, a tag to combine, and flags (bit 0 UNDERFLOW, 1 OVERFLOW)
(R194 to R196). -/
def contribution (w : Int) : FVal → Int × LTag × BitVec 4
  | .nan _ => (0, .nan, 0)
  | .inf n => (0, if n then .negInf else .posInf, 0)
  | .num n m e =>
    if m = 0 then (0, .finite, 0)
    else if w + 127 ≤ msb m + e then (0, if n then .negInf else .posInf, 2)
    else if w ≤ e then (if n then -((m <<< (e - w).toNat : Nat) : Int) else (m <<< (e - w).toNat : Nat), .finite, 0)
    else
      let k := (w - e).toNat
      let x : Int := (if n then -(m : Int) else m) / (2 ^ k : Nat)
      (x, .finite, if m % 2 ^ k = 0 then 0 else 1)

/-- A tile's element: accumulator and tag. -/
def Tile.acc (t : Tile) (i j : Nat) : BitVec 144 := Tab.getD t.accs (32 * i + j) 0
def Tile.tag (t : Tile) (i j : Nat) : LTag := Tab.getD t.tags (32 * i + j) .finite

/-- A tile with an element set, and with flags raised. -/
def Tile.set (t : Tile) (i j : Nat) (a : BitVec 144) (g : LTag) : Tile :=
  { t with accs := Tab.put t.accs (32 * i + j) a, tags := Tab.put t.tags (32 * i + j) g }
def Tile.raise (t : Tile) (f : BitVec 4) : Tile := { t with flags := t.flags ||| f }

/-- A list of products added to an element (R194 to R196): the sum modulo 2^144, the tags combined, INVALID whenever a NaN arises. -/
def Tile.addProducts (t : Tile) (i j : Nat) (ps : List FVal) : Tile :=
  let cs := ps.map (contribution t.w)
  let sum := cs.foldl (fun acc c => acc + c.1) 0
  let tag := cs.foldl (fun acc c => acc.join c.2.1) (t.tag i j)
  let nan := decide (tag = .nan ∧ t.tag i j ≠ .nan) || cs.any (fun c => c.2.1 == .nan)
  let fl := cs.foldl (fun acc c => acc ||| c.2.2) 0
  (t.set i j (t.acc i j + BitVec.ofInt 144 sum) tag).raise (fl ||| (if nan then 4 else 0))

/-- Every row and column of a tile. -/
def tileCells : List (Nat × Nat) := (List.range 1024).map (fun x => (x / 32, x % 32))

/-- The uniform register that names a tile, and the tile's key in the array. -/
def tileWord (c : Ctx) (w : Fields) : W32 := c.grp.ureg w.c.toNat
def tileKey (c : Ctx) (w : Fields) : Nat := 4 * (c.slot / 16) + (tileWord c w).toNat % 4

/-- The LEDGER_STATE check of R201. -/
def tileCheck (fmt : Bool) (s : State) (c : Ctx) (w : Fields) : Option (Nat × W64 × W32) :=
  let bad : Option (Nat × W64 × W32) := some (0x0108, 0, tileWord c w)
  if 4 ≤ (tileWord c w).toNat then bad
  else match Tab.get (s.arr c.ga).tiles (tileKey c w) with
  | none => bad
  | some t => if t.owner = c.slot ∧ (!fmt ∨ t.fmt = w.mod.toNat % 16) then none else bad

/-- The array with the tile an instruction names replaced. -/
def State.putTile (s : State) (c : Ctx) (w : Fields) (t : Tile) : State :=
  let a := s.arr c.ga
  s.setArr c.ga { a with tiles := Tab.put a.tiles (tileKey c w) t }

/-- The tile an instruction names. -/
def State.tileOf (s : State) (c : Ctx) (w : Fields) : Option Tile := Tab.get (s.arr c.ga).tiles (tileKey c w)

/-- A tile instruction's effect on the tile it names. -/
def State.onTile (s : State) (c : Ctx) (w : Fields) (f : Tile → Tile) : State := match s.tileOf c w with
  | some t => s.putTile c w (f t)
  | none => s

/-- The shape of an instruction that names a tile in C. -/
def tileUse : Use := .value ⟨1, 1, 1, [1]⟩

/-- The shape of `mma.ledger` (R178 to R180). -/
def mmaLedgerDesc (w : Fields) : Option Desc :=
  let fr := fragRegs (w.mod.toNat % 16)
  if mmaFormat w ∧ w.mod.toNat < 16 then
    some { Desc.plain with a := .value ⟨fr, 8, 1, [0]⟩, b := .value ⟨fr, 8, 1, [0]⟩, c := tileUse, own0 := true, extra := scaleRegs w,
                           coll := true, switch := true }
  else none

/-- A tile after `mma.ledger`: every row, those of exited and absent lanes included (R106, R194 to R196). -/
def ledgerSum (g : Group) (w : Fields) (t : Tile) : Tile :=
  tileCells.foldl (fun t e => t.addProducts e.1 e.2 (rowProducts g w e.1 e.2)) t

/-- The sum of the contributions of a list of products, exactly: the staging sum before it wraps (R232). -/
def productSum (w : Int) (ps : List FVal) : Int := (ps.map (fun x => (contribution w x).1)).foldl (· + ·) 0

/-- The residue of a 144-bit sum: that of the sum of its bytes (R232). -/
def residue (x : BitVec 144) : Nat := x.toNat % 255

/-- The term of a product in the expected residue (R232, R233): its significand's residue times 2^(t mod 8) for a shift by t to its
contribution; for a product that falls partly below the window what the shifter leaves of it. -/
def residueTerm (w : Int) : FVal → Int
  | .num n m e =>
    if m = 0 ∨ w + 127 ≤ msb m + e then 0
    else if w ≤ e then
      let x := m % 255 * 2 ^ ((e - w).toNat % 8)
      if n then -(x : Int) else x
    else (contribution w (.num n m e)).1
  | _ => 0

/-- The residue expected of a staging sum (R232, R234): that of the products' terms, adjusted by 1 for each wrap past bit 143, whose weight
2^144 leaves 1, so that a wrap causes no mismatch (DEDUCED, log entry 84). -/
def expectedResidue (w : Int) (ps : List FVal) : Nat :=
  (((ps.map (residueTerm w)).foldl (· + ·) 0 - productSum w ps / 2 ^ 144) % 255).toNat

/-- The staging sums of an instruction, and the residues expected of them, by element. -/
def stagingSums (g : Group) (w : Fields) (t : Tile) : Tab (BitVec 144) :=
  tileCells.map (fun e => (32 * e.1 + e.2, BitVec.ofInt 144 (productSum t.w (rowProducts g w e.1 e.2))))
def stagingResidues (g : Group) (w : Fields) (t : Tile) : Tab Nat :=
  tileCells.map (fun e => (32 * e.1 + e.2, expectedResidue t.w (rowProducts g w e.1 e.2)))

/-- Whether the matrix cells still hold a sum for the tile an instruction names, which it therefore awaits (R88, R232). -/
def State.tileSettled (s : State) (c : Ctx) (w : Fields) : Bool :=
  (Tab.get (s.arr c.ga).staged (c.slot / 16)).all (fun x => x.slot != c.slot || x.tileNo != tileKey c w % 4)

/-- Steps that the matrix cells are occupied by an `mma.ledger` of a format code (R184). -/
def ledgerSteps (code : Nat) : Nat := if code = 6 ∨ code = 7 then 16 else 8

/-- `mma.ledger` (R194 to R196, R232): the quarter's cells hold the sum, which reaches the tile when their occupancy ends and its check has
passed. -/
def mmaLedgerSem : Sem :=
  { op := 0x51, desc := mmaLedgerDesc, ready := fun s c w => s.tileSettled c w, check := tileCheck true,
    eff := fun s c w => match s.tileOf c w with
      | none => s
      | some t =>
        let a := s.arr c.ga
        let x : Staging := { slot := c.slot, tileNo := tileKey c w % 4, pc := c.sub.pc, after := ledgerSum c.grp w t,
                             sums := stagingSums c.grp w t, expected := stagingResidues c.grp w t }
        s.setArr c.ga { a with staged := Tab.put a.staged (c.slot / 16) x },
    occ := fun w => ledgerSteps (w.mod.toNat % 16) }

/-- MMA_LEDGER (R194). -/
def execMmaLedger (g : GRef) (w : Fields) (s : State) : Host.Outcome State Fault Refusal := next (mmaLedgerSem.issue g w s)

/-- The shape of `ltile.open` (R199). -/
def ltileOpenDesc (w : Fields) : Option Desc :=
  let code := w.mod.toNat % 16
  if code ≤ 0xD ∧ (w.mod.toNat < 16 ∨ 32 ≤ w.mod.toNat ∧ w.mod.toNat < 48) ∧ w.aux = 0 then
    some { Desc.plain with d := some (1, 1), du := .always, a := .value ⟨1, 1, 1, [1, 2]⟩, coll := true, switch := true }
  else none

/-- The word A of `ltile.open`. -/
def openWord (c : Ctx) (w : Fields) : W32 := if w.ka = 1 then c.grp.ureg w.a.toNat else w.imm0

/-- S_open, where A forms one (R199). -/
def sOpen (w : Fields) (x : W32) : Option Int :=
  if 2 ^ 16 ≤ x.toNat then none
  else if 32 ≤ w.mod.toNat then
    let v := readInt 16 true x.toNat
    if -1024 ≤ v ∧ v ≤ 1023 then some v else none
  else if x.toNat % 256 = 255 ∨ x.toNat / 256 = 255 then none
  else some ((x.toNat % 256 : Nat) + (x.toNat / 256 : Nat) - 254)

/-- `ltile.open` (R199, R200): with no free tile in the quarter the group waits at the instruction. -/
def ltileOpenSem : Sem :=
  { op := 0x52, desc := ltileOpenDesc, ready := fun _ _ _ => true,
    check := fun _ c w => match sOpen w (openWord c w) with
      | some _ => none
      | none => some (0x0108, 0, openWord c w),
    eff := fun s c w =>
      let W := (sOpen w (openWord c w)).getD 0 + ledgerBase (w.mod.toNat % 16)
      match freeTile (s.arr c.ga) (c.slot / 16) with
      | some key => s.setArr c.ga (openTile (s.arr c.ga) c.slot key (w.mod.toNat % 16) W w.d.toNat)
      | none =>
        let u := { c.movedSub with pc := c.sub.pc, wait := .tile (w.mod.toNat % 16) W w.d.toNat, yieldCount := 0 }
        s.setGroup c.ga c.slot (c.grp.setSub c.sub.lanes u) }

/-- LTILE_OPEN (R199). -/
def execLtileOpen (g : GRef) (w : Fields) (s : State) : Host.Outcome State Fault Refusal := next (ltileOpenSem.issue g w s)

/-- The output format of a flush, and its D registers (R202). -/
def flushFmt (w : Fields) : Fmt :=
  match w.mod.toNat % 8 with
  | 0 => fp32
  | 1 => bf16
  | 2 => fp16
  | 3 => e4m3
  | _ => e5m2
def flushRegs (w : Fields) : Nat := if w.mod.toNat % 8 = 0 then 32 else if w.mod.toNat % 8 ≤ 2 then 16 else 8

/-- Whether a flush rounds stochastically (MOD[55]), and whether it keeps the tile (MOD[56]). -/
def flushStoch (w : Fields) : Bool := bitAt w.mod.toNat 3
def flushKeep (w : Fields) : Bool := bitAt w.mod.toNat 4

/-- The shape of `ltile.flush` (R202): the four uniform registers of a stochastic flush start at a multiple of 4, as R202 has it, though R136
sets no alignment for them (DEDUCED, log entry 104). -/
def ltileFlushDesc (w : Fields) : Option Desc :=
  if w.mod.toNat % 8 ≤ 4 ∧ w.mod.toNat < 32 ∧ w.aux = 0 then
    some { Desc.plain with d := some (flushRegs w, 8), du := .never, c := tileUse,
                           a := if flushStoch w then .value ⟨4, 4, 4, [1]⟩ else .value ⟨1, 1, 1, [3]⟩, coll := true, switch := true }
  else none

/-- Whether an accumulator is in range (R197). -/
def accInRange (a : BitVec 144) : Bool := decide (-(2 ^ 127 : Int) ≤ a.toInt) && decide (a.toInt < 2 ^ 127)

/-- An element flushed: its encoding and the tile's flags it raises (R203, R211); r is the word drawn for stochastic rounding. -/
def flushElem (f : Fmt) (W : Int) (a : BitVec 144) (t : LTag) (r : Option Nat) : Nat × BitVec 4 :=
  match t with
  | .nan => (f.nanBits, 0)
  | .posInf => (f.infBits, 0)
  | .negInf => (f.signed true f.infBits, 0)
  | .finite =>
    let n := decide (a.toInt < 0)
    let m := a.toInt.natAbs
    if !accInRange a then (f.signed n f.infBits, 2 ||| 8)
    else if m = 0 then (0, 0)
    else
      let x := f.round 0 n m W false
      if x.tooBig then (f.signed n f.infBits, 2 ||| 8)
      else match r with
      | none => (f.signed n x.bits, if x.inexact then 8 else 0)
      | some r =>
        let y := f.roundStochastic m W r
        (f.signed n y.1, if y.2 then 8 else 0)

/-- The word drawn for tile element (i, j) (R209, R210). -/
def flushDraw (c : Ctx) (w : Fields) (i j : Nat) : Option Nat :=
  if flushStoch w then
    let g := c.grp
    let u := w.a.toNat
    some (srWord c.blk.seed.toNat (g.ureg (u + 2)).toNat ((g.uwords u 2 + i * (g.ureg (u + 3)).toNat + j) % 2 ^ 64))
  else none

/-- The array with the tile an instruction names freed, and free tiles given to those who wait, in order after the scheduler's pointer as it
stands before this issue moves it (R200, R206, R207; DESIGN CHOICE, log entry 85). -/
def State.closeTile (s : State) (c : Ctx) (w : Fields) : State :=
  let a := s.arr c.ga
  s.setArr c.ga (serveTiles { a with tiles := Tab.erase a.tiles (tileKey c w) })

/-- `ltile.flush` (R202, R203). -/
def ltileFlushSem : Sem :=
  { op := 0x53, desc := ltileFlushDesc, ready := fun s c w => s.tileSettled c w, occ := fun _ => 8, check := tileCheck false,
    eff := fun s c w => match s.tileOf c w with
      | none => s
      | some t =>
        let f := flushFmt w
        let el := fun i j => flushElem f t.w (t.acc i j) (t.tag i j) (flushDraw c w i j)
        let fl := tileCells.foldl (fun acc e => acc ||| (el e.1 e.2).2) (0 : BitVec 4)
        let row := fun i => ((List.range 32).map (fun j => (el i j).1 * 2 ^ (f.width * j))).foldl (· + ·) 0
        let s := s.setGroup c.ga c.slot (c.grp.writeD w c.act (flushRegs w) row)
        if flushKeep w then s.putTile c w (t.raise fl) else s.closeTile c w }

/-- LTILE_FLUSH (R202). -/
def execLtileFlush (g : GRef) (w : Fields) (s : State) : Host.Outcome State Fault Refusal := next (ltileFlushSem.issue g w s)

/-- Columns and first column of `ltile.read` and `ltile.write` (R204). -/
def tileCols (w : Fields) : Nat := 2 ^ (w.mod.toNat % 4)
def tileCol0 (w : Fields) : Nat := w.imm0.toNat

/-- Whether the geometry is as R204 requires; MOD bits above the first two may only be `extra`. -/
def tileGeometry (w : Fields) (extra : Nat) : Bool :=
  (w.mod.toNat < 4 || w.mod.toNat / 4 * 4 == extra) && w.aux == 0 && decide (w.imm0.toNat < 32) && w.imm0.toNat % tileCols w == 0

/-- The shape of `ltile.read`. -/
def ltileReadDesc (w : Fields) : Option Desc :=
  if tileGeometry w 0 then
    some { Desc.plain with d := some (4 * tileCols w, 4), du := .never, c := tileUse, pd := true, own0 := true, coll := true, switch := true }
  else none

/-- `ltile.read` (R204). -/
def ltileReadSem : Sem :=
  { op := 0x54, desc := ltileReadDesc, ready := fun s c w => s.tileSettled c w, check := tileCheck false,
    eff := fun s c w => match s.tileOf c w with
      | none => s
      | some t =>
        let cols := (List.range (tileCols w)).map (· + tileCol0 w)
        let g := c.grp.writeD w c.act (4 * tileCols w) (fun i => joinElems 4 (cols.map (fun j => (t.acc i j).toNat % 2 ^ 128)))
        s.setGroup c.ga c.slot (g.writePd w c.act (fun i => cols.any (fun j => t.tag i j != .finite || !accInRange (t.acc i j)))) }

/-- LTILE_READ (R204). -/
def execLtileRead (g : GRef) (w : Fields) (s : State) : Host.Outcome State Fault Refusal := next (ltileReadSem.issue g w s)

/-- The shape of `ltile.write`. -/
def ltileWriteDesc (w : Fields) : Option Desc :=
  if tileGeometry w 16 then
    some { Desc.plain with a := .value ⟨4 * tileCols w, 4, 1, [0]⟩, c := tileUse, own0 := true, coll := true, switch := true }
  else none

/-- A tile with the L128 values of a group's registers written or added, every row (R106, R204). -/
def tileWrite (g : Group) (w : Fields) (t : Tile) : Tile :=
  (List.range 32).foldl (fun t i => (List.range (tileCols w)).foldl (fun t k =>
    let j := tileCol0 w + k
    let v : BitVec 144 := (BitVec.ofNat 128 (g.supply i (w.a.toNat + 4 * k) 4)).signExtend 144
    if 16 ≤ w.mod.toNat then t.set i j (t.acc i j + v) (t.tag i j) else t.set i j v .finite) t) t

/-- `ltile.write` (R204). -/
def ltileWriteSem : Sem :=
  { op := 0x55, desc := ltileWriteDesc, ready := fun s c w => s.tileSettled c w, check := tileCheck false,
    eff := fun s c w => s.onTile c w (tileWrite c.grp w) }

/-- LTILE_WRITE (R204). -/
def execLtileWrite (g : GRef) (w : Fields) (s : State) : Host.Outcome State Fault Refusal := next (ltileWriteSem.issue g w s)

/-- What `ltile.stat` writes (R205). -/
def Tile.stat (t : Tile) : Nat := wrapInt 16 t.w + t.flags.toNat * 2 ^ 16 + t.fmt * 2 ^ 20

/-- The shape of `ltile.stat`. -/
def ltileStatDesc (w : Fields) : Option Desc :=
  noBits w { Desc.plain with d := some (1, 1), du := .always, c := tileUse, coll := true, switch := true }

/-- `ltile.stat` (R205). -/
def ltileStatSem : Sem :=
  { op := 0x56, desc := ltileStatDesc, ready := fun s c w => s.tileSettled c w, check := tileCheck false,
    eff := fun s c w => match s.tileOf c w with
      | none => s
      | some t => s.setGroup c.ga c.slot (c.grp.writeD w c.act 1 (fun _ => t.stat)) }

/-- LTILE_STAT (R205). -/
def execLtileStat (g : GRef) (w : Fields) (s : State) : Host.Outcome State Fault Refusal := next (ltileStatSem.issue g w s)

/-- `ltile.close` (R206). -/
def ltileCloseSem : Sem :=
  { op := 0x57, desc := fun w => noBits w { Desc.plain with c := tileUse, coll := true, switch := true },
    ready := fun s c w => s.tileSettled c w, check := tileCheck false, eff := fun s c w => s.closeTile c w }

/-- LTILE_CLOSE (R206). -/
def execLtileClose (g : GRef) (w : Fields) (s : State) : Host.Outcome State Fault Refusal := next (ltileCloseSem.issue g w s)

/-! Narrow conversions (R173 to R176). -/

/-- Elements of a conversion, and the registers they pack into. -/
def packCount (code : Nat) : Nat := if elemBits code = 6 then 16 else 8
def packRegs (code : Nat) : Nat := packCount code * elemBits code / 32

/-- Whether a format code may stand in a conversion. -/
def cvtCode (code : Nat) : Bool := decide (code ≤ 0xD) && code != 2 && code != 3

/-- The scale of a conversion in B: 1 when KB is zero, otherwise an E8M0 value. -/
def scaleOf (d : Desc) (c : Ctx) (w : Fields) (i : Nat) : Option Int := if w.kb = 3 then some 0 else e8m0 (d.read w c.grp 1 1 i 0)

/-- The shape of `cvt.pack`. -/
def cvtPackDesc (w : Fields) : Option Desc :=
  let code := w.mod.toNat % 16
  let sat := w.mod.toNat / 16
  if cvtCode code ∧ (sat = 0 ∨ sat = 1 ∧ (code = 1 ∨ code = 9)) ∧ w.aux.toNat ≤ 3 then
    some { Desc.plain with d := some (packRegs code, 8), du := .never, a := .value ⟨packCount code, 8, 1, [0]⟩, b := .value Val.one }
  else none

/-- An FP32 value converted to an element (R174): its bits and the flags raised. -/
def packElem (code mode : Nat) (sat : Bool) (scale : Option Int) (x : Nat) : Nat × FFlags :=
  let v := fp32.decode x
  let sig : FFlags := if v.isSignalling then fInvalid else 0
  match scale with
  | none => (((operandFmt code false).map Fmt.nanBits).getD 0, fInvalid)
  | some e =>
    match operandFmt code false with
    | some f =>
      (match v with
        | .nan _ => (f.nanBits, if f.nan.isNone then fInvalid else sig)
        | .inf n => (f.signed n (if sat || !f.hasInf then f.maxFinite else f.infBits), 0)
        | .num n m q => if m = 0 then (f.signed n 0, 0) else f.finish mode false (sat || !f.hasInf) false n (f.round mode n m (q - e) false))
    | none =>
      let b := elemBits code
      (match v with
        | .nan _ => (0, fInvalid)
        | .inf n => (wrapInt b (if n then intMin b true else intMax b true), 0)
        | .num n m q =>
          let r := roundInt mode n m (q - e + (if code = 0xD then 6 else 0))
          if r.1 < intMin b true then (wrapInt b (intMin b true), fOverflow ||| fInexact)
          else if intMax b true < r.1 then (wrapInt b (intMax b true), fOverflow ||| fInexact)
          else (wrapInt b r.1, if r.2 then fInexact else 0))

/-- Elements of b bits packed, element 0 lowest. -/
def packBits (b : Nat) : List Nat → Nat
  | [] => 0
  | x :: t => x % 2 ^ b + 2 ^ b * packBits b t

/-- `cvt.pack` (R174). -/
def cvtPackSem : Sem :=
  Sem.regs 0x58 cvtPackDesc (fun c w =>
    let d := (cvtPackDesc w).getD Desc.plain
    let code := w.mod.toNat % 16
    let el := fun i => (List.range (packCount code)).map (fun k =>
      packElem code w.aux.toNat (bitAt w.mod.toNat 4) (scaleOf d c w i) (d.read w c.grp 0 1 i k))
    let fl := (lanesOf c.act).foldl (fun acc i => (el i).foldl (fun acc x => acc ||| x.2) acc) 0
    (c.grp.writeD w c.act (packRegs code) (fun i => packBits (elemBits code) ((el i).map (·.1)))).raiseFlags fl)

/-- CVT_PACK (R174). -/
def execCvtPack (g : GRef) (w : Fields) (s : State) : Host.Outcome State Fault Refusal := next (cvtPackSem.issue g w s)

/-- The shape of `cvt.unpack`. -/
def cvtUnpackDesc (w : Fields) : Option Desc :=
  let code := w.mod.toNat
  if cvtCode code ∧ w.aux = 0 then
    some { Desc.plain with d := some (packCount code, 8), du := .never, a := .value ⟨packRegs code, 8, 1, [0]⟩, b := .value Val.one }
  else none

/-- An element converted to FP32 (R175). -/
def unpackElem (code : Nat) (scale : Option Int) (x : Nat) : Nat × FFlags :=
  match scale with
  | none => (fp32.nanBits, fInvalid)
  | some e =>
    match elemValue code false x with
    | .nan _ => (fp32.nanBits, 0)
    | .inf n => (fp32.signed n fp32.infBits, 0)
    | .num n m q => fp32.encode 0 false n m (q + e) false

/-- `cvt.unpack` (R175). -/
def cvtUnpackSem : Sem :=
  Sem.regs 0x59 cvtUnpackDesc (fun c w =>
    let d := (cvtUnpackDesc w).getD Desc.plain
    let code := w.mod.toNat % 16
    c.grp.mapFlagged w c.act (packCount code) 1 (fun i k =>
      unpackElem code (scaleOf d c w i) (bitsOf (c.grp.twords i w.a.toNat (packRegs code)) (elemBits code * k) (elemBits code))))

/-- CVT_UNPACK (R175). -/
def execCvtUnpack (g : GRef) (w : Fields) (s : State) : Host.Outcome State Fault Refusal := next (cvtUnpackSem.issue g w s)

/-- emax of an MX code (R176). -/
def mxEmax (code : Nat) : Int :=
  match code with
  | 0x8 => 8
  | 0x9 => 15
  | 0xA => 4
  | 0xB => 2
  | 0xC => 2
  | _ => 0

/-- The shape of `mx.scale`. -/
def mxScaleDesc (w : Fields) : Option Desc :=
  if 8 ≤ w.mod.toNat ∧ w.mod.toNat ≤ 0xD ∧ w.aux = 0 then
    some { Desc.plain with d := some (1, 8), du := .never, a := .value ⟨32, 8, 1, [0]⟩ }
  else none

/-- The scale of 32 values (R176). -/
def mxScaleOf (code : Nat) (vs : List FVal) : Nat :=
  if vs.any FVal.isNan then 0xFF
  else if vs.any (fun v => v == .inf false || v == .inf true) then 0xFE
  else match topWeight vs with
  | none => 0
  | some top => (max 0 (min 254 (top - mxEmax code + 127))).toNat

/-- `mx.scale` (R176). -/
def mxScaleSem : Sem :=
  Sem.regs 0x5A mxScaleDesc (fun c w =>
    let vs := fun i => (List.range 32).map (fun k => fp32.decode (c.grp.treg i (w.a.toNat + k)).toNat)
    (c.grp.writeD w c.act 1 (fun i => mxScaleOf w.mod.toNat (vs i))).raiseFlags
      ((lanesOf c.act).foldl (fun acc i => acc ||| sigFlags (vs i)) 0))

/-- MX_SCALE (R176). -/
def execMxScale (g : GRef) (w : Fields) (s : State) : Host.Outcome State Fault Refusal := next (mxScaleSem.issue g w s)

end Sys2Proof.Machine
end

