-- ==== Sys2Proof/Machine/Memory.lean ====
section
/-! DEFINITION. Memory instructions as the array issues them (R149 to R157, R214, R243 to R250, R265 to R271, R293 to R297): what faults
them, what the local store and the L1 do at once, and the line requests that go on to a home or to the host. -/

namespace Sys2Proof.Machine

/-! Fields (R149, R151, R152). -/

/-- SIZE in bytes, SIGN, SPACE and FLOAT. -/
def memSize (w : Fields) : Nat := 2 ^ (w.mod.toNat % 8)
def memSigned (w : Fields) : Bool := bitAt w.mod.toNat 3
def memLocal (w : Fields) : Bool := bitAt w.mod.toNat 4
def memFloat (w : Fields) : Bool := bitAt w.mod.toNat 5

/-- The scope code. -/
def memScope (w : Fields) : Nat := w.aux.toNat

/-- A data operand of SIZE bytes. -/
def dataVal (w : Fields) : Val := ⟨loadRegs (memSize w), loadRegs (memSize w), loadRegs (memSize w), allKinds⟩

/-- The shape of a memory instruction: its address in A and B, its result in D, its data in C; A may be of any kind of source (DESIGN CHOICE,
log entry 86). -/
def memShape (w : Fields) (result data : Bool) : Desc :=
  { Desc.plain with
    d := if result then some (loadRegs (memSize w), loadRegs (memSize w)) else none,
    a := .value (if memLocal w then Val.one else Val.pair), b := .value Val.one,
    c := if data then .value (dataVal w) else .unused, switch := true }

/-- Whether SIZE is assigned and SIGN and FLOAT are clear. -/
def plainBits (w : Fields) : Bool := decide (w.mod.toNat % 8 ≤ 4) && !memSigned w && !memFloat w

/-- Whether a load's bits are legal: SIGN only for 1 and 2 bytes. -/
def loadBits (w : Fields) : Bool := decide (w.mod.toNat % 8 ≤ 4) && !memFloat w && (!memSigned w || decide (memSize w ≤ 2))

/-- The shapes of the loads and stores (R151, R152): a plain `ld` or `st`, a local one too, has scope none (R152). -/
def ldDesc (w : Fields) : Option Desc := if loadBits w ∧ memScope w = 0 then some (memShape w true false) else none
def ldAcqDesc (w : Fields) : Option Desc :=
  if loadBits w ∧ !memLocal w ∧ 1 ≤ memScope w ∧ memScope w ≤ 4 then some (memShape w true false) else none
def ldLastDesc (w : Fields) : Option Desc := if loadBits w ∧ !memLocal w ∧ memScope w = 0 then some (memShape w true false) else none
def stDesc (w : Fields) : Option Desc := if plainBits w ∧ memScope w = 0 then some (memShape w false true) else none
def stRelDesc (w : Fields) : Option Desc :=
  if plainBits w ∧ !memLocal w ∧ 1 ≤ memScope w ∧ memScope w ≤ 4 then some (memShape w false true) else none

/-- The shapes of fences, prefetches and dead-line hints (R152). -/
def fenceDesc (w : Fields) : Option Desc :=
  if w.mod = 0 ∧ 1 ≤ memScope w ∧ memScope w ≤ 4 then some { Desc.plain with switch := true } else none
def lineDesc (w : Fields) : Desc := { memShape w false false with a := .value Val.pair }
def prefetchDesc (w : Fields) : Option Desc := if w.mod.toNat ≤ 1 ∧ memScope w = 0 then some (lineDesc w) else none
def killDesc (w : Fields) : Option Desc := if w.mod = 0 ∧ memScope w = 0 then some (lineDesc w) else none

/-- The shape of an atomic or a reduction (R149, R151, R152): `float` where an FP32 form exists, `order` where SIGN selects a
comparison. The operation is numbered as in `atomNew`. -/
def atomDesc (op : Nat) (result float order : Bool) (w : Fields) : Option Desc :=
  let scope := if memLocal w then memScope w = 0 ∨ memScope w = 2 else memScope w = 3 ∨ memScope w = 4
  if w.mod.toNat % 8 ≤ 4 ∧ scope ∧ (!memFloat w ∨ float ∧ memSize w = 4 ∧ !memSigned w) ∧ (!memSigned w ∨ order) then
    let d := memShape w result true
    some (if op = 7 then { d with b := .value (dataVal w) } else d)
  else none

/-- The shape of `red.add.ledger` (R157, R214). -/
def ledgerDesc (w : Fields) : Option Desc :=
  if plainBits w ∧ !memLocal w ∧ memSize w = 16 ∧ (memScope w = 3 ∨ memScope w = 4) ∧ w.imm1.toNat < 2 ^ 20 then
    some { memShape w false false with c := .value ⟨4, 4, 4, [0]⟩, own1 := true }
  else none

/-! Addresses and their faults (R149 to R151, R249, R294). -/

/-- The effective address of a lane: A plus B sign-extended, or A alone for a compare-and-swap. -/
def memAddr (d : Desc) (w : Fields) (g : Group) (cas : Bool) (i : Nat) : Nat :=
  let b : Int := if cas then 0 else readInt 32 true (d.read w g 1 1 i 0)
  if memLocal w then wrapInt 32 ((d.read w g 0 1 i 0 : Nat) + b) else wrapInt 64 ((d.read w g 0 2 i 0 : Nat) + b)

/-- The slice windows that bound a group's accesses: those its launch was taken with (R381, R382). -/
def State.snapOf (s : State) (c : Ctx) : Snap := match s.work c.blk.launch with
  | some k => k.snap
  | none => wholeSnap

/-- Whether an access may go to a region: anywhere mapped, anywhere as a hint that does nothing at the host (R249), not to the host (R294), or
only to HBM (R249). -/
inductive Reach where
  | anywhere
  | hint
  | notHost
  | hbmOnly
  deriving DecidableEq, Repr

/-- Whether a region is open to an access. -/
def Reach.open' (k : Reach) (r : Region) : Bool :=
  match r with
  | .unmapped => false
  | .spill => false
  | .hbm => true
  | .host => k == .anywhere || k == .hint
  | _ => k != .hbmOnly

/-- Whether the host side of a partition answers: its port's link is up (R412). -/
def State.hostUp (s : State) (p : Nat) : Bool := (s.port (s.partPort p)).linkUp

/-- Whether a lane's access of n bytes meets the fault of a code: MISALIGNED, ADDRESS_UNMAPPED or LOCAL_RANGE (R150), or HOST_LINK_DOWN
(R412). -/
def laneFault (s : State) (c : Ctx) (w : Fields) (k : Reach) (n code addr : Nat) : Bool :=
  match code with
  | 0x0103 => addr % n != 0
  | 0x0104 => !memLocal w && !k.open' (s.regionFor c.blk.part (s.snapOf c) addr)
  | 0x0602 => k != .hint && !memLocal w && decide (hostStart ≤ addr) && !s.hostUp c.blk.part
  | _ => memLocal w && decide (16384 * c.blk.units.length < addr + n)

/-- The fault of an issue: the first of the four that any of its lanes has, for the lowest lane that has it (R150). -/
def memCheck (desc : Fields → Option Desc) (k : Reach) (cas : Bool) (size : Fields → Nat) (s : State) (c : Ctx) (w : Fields) :
    Option (Nat × W64 × W32) :=
  let d := (desc w).getD Desc.plain
  [0x0103, 0x0104, 0x0105, 0x0602].findSome? (fun code =>
    ((lanesOf c.act).find? (fun i => laneFault s c w k (size w) code (memAddr d w c.grp cas i))).map (fun i =>
      (code, BitVec.ofNat 64 (memAddr d w c.grp cas i), 0)))

/-! Local store (R243, R244). -/

/-- Where a block's local address lies in the array's local store (R243). -/
def localKey (b : Block) (x : Nat) : Nat := 16384 * b.units.getD (x / 16384) 0 + x % 16384

/-- A local load. -/
def State.localLoad (s : State) (c : Ctx) (w : Fields) (addr : Nat → Nat) : State :=
  let m := (s.arr c.ga).localMem
  let n := memSize w
  let v := fun i =>
    let x := Mem.readLE m (localKey c.blk (addr i)) n
    if memSigned w then wrapInt 32 (readInt (8 * n) true x) else x
  s.setGroup c.ga c.slot (c.grp.writeD w c.act (loadRegs n) v)

/-- A local store: lanes in ascending order, so that the highest decides a byte (R154). -/
def State.localStore (s : State) (c : Ctx) (w : Fields) (addr data : Nat → Nat) : State :=
  let a := s.arr c.ga
  s.setArr c.ga { a with localMem := (lanesOf c.act).foldl (fun m i => Mem.writeLE m (localKey c.blk (addr i)) (data i) (memSize w)) a.localMem }

/-- Local atomics: lanes in ascending order, which is the array's total order (R155); with a result each lane receives what it found. -/
def State.localAtom (s : State) (c : Ctx) (w : Fields) (op : Nat) (result : Bool) (addr x y : Nat → Nat) : State :=
  let a := s.arr c.ga
  let n := memSize w
  let r := (lanesOf c.act).foldl (fun (acc : List Host.Cell × List (Nat × Nat)) i =>
    let k := localKey c.blk (addr i)
    let old := Mem.readLE acc.1 k n
    (Mem.writeLE acc.1 k (atomNew op n (memSigned w) (memFloat w) old (x i) (y i)) n, acc.2 ++ [(i, old)])) (a.localMem, [])
  let s := s.setArr c.ga { a with localMem := r.1 }
  if result then
    s.setGroup c.ga c.slot (c.grp.writeD w c.act (loadRegs n) (fun i => ((r.2.find? (fun e => e.1 == i)).map (·.2)).getD 0))
  else s

/-! Line requests (R153). -/

/-- The accesses of an issue by line, each line's lanes ascending. -/
def lineGroups (accs : List (Nat × LaneAcc)) : List (Nat × List LaneAcc) :=
  accs.foldl (fun out e =>
    if out.any (fun g => g.1 == e.1) then out.map (fun g => if g.1 == e.1 then (g.1, g.2 ++ [e.2]) else g)
    else out ++ [(e.1, [e.2])]) []

/-- The accesses of the lanes that act. -/
def memAccs (c : Ctx) (addr data cmp : Nat → Nat) (W : BitVec 16) (nan : Nat → Bool) : List (Nat × List LaneAcc) :=
  lineGroups ((lanesOf c.act).map (fun i =>
    (addr i / 128, { slot := c.slot, lane := i, off := addr i % 128, data := BitVec.ofNat 128 (data i), cmp := BitVec.ofNat 128 (cmp i),
                     w := W, nan := nan i })))

/-- A line request of an issue (R153): the store bytes of its lanes under their mask, the highest lane deciding a byte (R154). -/
def mkReq (s : State) (c : Ctx) (w : Fields) (kind : ReqKind) (dst : Nat) (l : Nat × List LaneAcc) (id : Nat) : MemReq :=
  let n := memSize w
  { id := id, part := c.blk.part, arr := c.ga, slot := c.slot, kind := kind, line := l.1, lanes := l.2, size := n,
    signed := memSigned w, isFloat := memFloat w, dst := dst,
    mask := l.2.foldl (fun m a => m ||| maskOf a.off n) 0,
    data := l.2.foldl (fun d a => putLineBytes d a.off n (a.data.toNat % 2 ^ (8 * n))) 0,
    stamp := (s.slice (c.ga / 8)).epoch, sl := c.blk.slice, pc := c.sub.pc, mask32 := c.sub.lanes }

/-- The destination a load's or atomic's results go to: a thread register, or 256 plus a uniform register. -/
def memDst (w : Fields) : Nat := (if w.du then 256 else 0) + w.d.toNat

/-- The lines that the acting lanes of an issue touch, with the bank of the array's memory each lies in (R153, R242, R243, R245); lines of
local store are numbered beyond every line of the partition. -/
def memLines (desc : Fields → Option Desc) (cas : Bool) (s : State) (c : Ctx) (w : Fields) : List (Nat × Option Nat) :=
  let d := (desc w).getD Desc.plain
  let a := s.arr c.ga
  (lanesOf c.act).map (fun i =>
    let x := memAddr d w c.grp cas i
    if memLocal w then
      let y := localKey c.blk x / 128
      (2 ^ 50 + y, some (y % a.lsBanks))
    else (x / 128, if a.nb = 0 ∨ hcStart ≤ x then none else some (a.lsBanks + x / 128 % a.nb)))

/-- A load that left the L1: a fresh visitor copy answers it, or it goes to its home (R250, R265, R267). -/
def State.beyondL1 (s : State) (r : MemReq) (answer : State → LineData → State) : State :=
  let d := r.arr / 8
  if s.homeDie r.part r.line = d then s.sendReq r
  else
    match (s.slice d).line? (s.setOf r.line) r.line true with
    | some l =>
      if (s.arr r.arr).acqEpoch ≤ l.stamp then
        let x := s.slice d
        let s := s.setSlice d (x.update (s.setOf r.line) r.line true true (some l))
        answer (s.sliceCount d 2) l.data
      else (s.sliceCount d 3).sendReq r
    | none => (s.sliceCount d 3).sendReq r

/-- A line's place in an L1: the one it has, or a new one (R245). -/
def State.l1Place (s : State) (ga p line : Nat) : Option (Nat × State) :=
  match (s.arr ga).l1Find line with
  | some k => some (k, s)
  | none => match s.allocL1 ga p line with
    | none => none
    | some (k, s) =>
      let a := s.arr ga
      some (k, s.setArr ga { a with l1 := Tab.put a.l1 k { line := line, data := 0, valid := 0, dirty := 0, age := 2, dirtySeq := 0 } })

/-- A load that its L1 cannot answer (R247, R271): from the array side buffer, as a waiter of a miss, or as a new miss. A line given up since
its miss is asked for again for the loads that join it then. None when no miss register, waiter place or way is free: the request is not
accepted. -/
def State.missL1 (s : State) (r : MemReq) : Option State :=
  let ga := r.arr
  let a := s.arr ga
  match a.sideBuf.find? (fun e => e.1 == r.line) with
  | some e =>
    (match s.l1Place ga r.part r.line with
      | none => none
      | some (k, s) =>
        let a := s.arr ga
        match Tab.get a.l1 k with
        | none => none
        | some l =>
          let l := { l with data := mergeLine e.2 l.data l.dirty, valid := fullMask }
          let s := s.setArr ga { a with l1 := Tab.put a.l1 k l, sideBuf := a.sideBuf.filter (fun e => e.1 != r.line) }
          some ((s.l1Count ga 1).deliver r (loadValue r l.data)))
  | none =>
    match a.l1Miss.find? (fun m => m.line == r.line) with
    | some m =>
      if 32 ≤ m.waiters.length + m.late.length then none
      else
        let join := fun (k : L1Miss) => if k.line ≠ r.line then k
          else if k.dropFill then { k with late := k.late ++ [r] } else { k with waiters := k.waiters ++ [r] }
        some ((s.setArr ga { a with l1Miss := a.l1Miss.map join }).l1Count ga 1)
    | none =>
      if 256 ≤ a.l1Miss.length + a.sidePend.length then none
      else match s.l1Place ga r.part r.line with
        | none => none
        | some (k, s) =>
          let a := s.arr ga
          let (own, data) := match Tab.get a.l1 k with
            | some l => (l.dirty, l.data)
            | none => (0, 0)
          let m : L1Miss := { line := r.line, dropFill := false, waiters := [r], late := [], own := own, ownData := data }
          let s := (s.setArr ga { a with l1Miss := a.l1Miss ++ [m] }).l1Count ga 1
          let (id, s) := s.newId
          let q := { r with id := id, kind := .fillL1, lanes := [], mask := 0, data := 0 }
          some (s.beyondL1 q (fun s data => s.fillL1 q data true))

/-- A plain load of a line (R247, R250, R271): from the L1, or beyond it. None when the L1 does not accept it. -/
def State.loadLine (s : State) (r : MemReq) : Option State :=
  let ga := r.arr
  let a := s.arr ga
  let need := r.lanes.foldl (fun m x => m ||| maskOf x.off r.size) 0
  if hcStart ≤ 128 * r.line then some (s.sendReq r)
  else if a.nb = 0 then
    match a.sideBuf.find? (fun e => e.1 == r.line) with
    | some e => some (s.deliver r (loadValue r e.2))
    | none => some (s.beyondL1 r (fun s data => s.deliver r (loadValue r (s.overlayL1 ga r.line data))))
  else
    match a.l1Find r.line, a.l1Line r.line with
    | some k, some l =>
      if (need &&& ~~~l.valid) = 0 then
        let s := (s.setArr ga { a with l1 := Tab.put a.l1 k { l with age := 0 } }).l1Count ga 0
        some (s.deliver r (loadValue r l.data))
      else s.missL1 r
    | _, _ => s.missL1 r

/-- A request that waits on a quarter's memory path, where the L1 accepts it now. -/
def State.acceptReq (s : State) (r : MemReq) : Option State := match r.kind with
  | .store => (s.storeL1 r.arr r.part r.line r.data r.mask).map (fun s => s.complete r)
  | _ => s.loadLine r

/-- The requests at the head of a quarter's memory path that its L1 accepts now, in their order (R247). -/
def State.drainPath (ga q : Nat) : List MemReq → State → State
  | [], s => s
  | r :: t, s => match s.acceptReq r with
    | none => s
    | some s =>
      let a := s.arr ga
      State.drainPath ga q t (s.setArr ga { a with path := if t.isEmpty then Tab.erase a.path q else Tab.put a.path q t })

/-! Loads (R152, R250, R268, R272, R296). -/

/-- The lines of a load, as requests of a kind. -/
def loadReqs (c : Ctx) (w : Fields) (d : Desc) : List (Nat × List LaneAcc) :=
  memAccs c (memAddr d w c.grp false) (fun _ => 0) (fun _ => 0) 0 (fun _ => false)

/-- A line of a plain load: accepted by the L1, or waiting on the quarter's memory path behind what waits there (R247). -/
def ldLine (c : Ctx) (w : Fields) (s : State) (l : Nat × List LaneAcc) : State :=
  let (id, s) := s.newId
  let r := mkReq s c w .load (memDst w) l id
  let s := s.addPend r (loadRegs r.size) false
  if (Tab.getD (s.arr c.ga).path (c.slot / 16) []).isEmpty then (s.loadLine r).getD (s.queuePath r) else s.queuePath r

/-- `ld` (R152). -/
def ldSem : Sem :=
  { op := 0x70, desc := ldDesc, ready := fun _ _ _ => true, check := memCheck ldDesc .anywhere false memSize,
    eff := fun s c w =>
      let d := (ldDesc w).getD Desc.plain
      if memLocal w then s.localLoad c w (memAddr d w c.grp false)
      else (loadReqs c w d).foldl (ldLine c w) s,
    lines := memLines ldDesc false }

/-- LD (R152). -/
def execLd (g : GRef) (w : Fields) (s : State) : Host.Outcome State Fault Refusal := next (ldSem.issue g w s)

/-- A release or fence begun by the acting lanes of the issuing subgroup, and taken as far as it can go at once. -/
def State.startOrder (s : State) (c : Ctx) (scope : Nat) (isFence : Bool) (bound : Nat) (stores : List MemReq) : State :=
  match s.group c.ga c.slot with
  | none => s
  | some g =>
    let (id, s) := s.newId
    let o : OrderOp := { id := id, lanes := c.act, scope := scope, isFence := isFence, flushing := false, bound := bound, stores := stores }
    let subs := g.subs.map (fun (u : Sub) => if u.lanes == c.sub.lanes then { u with orders := u.orders ++ [o] } else u)
    (s.setGroup c.ga c.slot { g with subs := subs }).progressOrder c.ga c.slot o

/-- A line of an acquire of scope dev or sys: the L1's dirty bytes of the line are written back, and the line is read at its home (R268). -/
def ldAcqLine (c : Ctx) (w : Fields) (s : State) (l : Nat × List LaneAcc) : State :=
  let s := match (s.arr c.ga).l1Find l.1 with
    | some k => s.cleanL1 c.ga c.blk.part k
    | none => s
  let (id, s) := s.newId
  let r := mkReq s c w .loadAcq (memDst w) l id
  (s.addPend r (loadRegs r.size) false).sendReq r

/-- `ld.acq` (R268, R296): no later access of the threads issues before its value has returned; at dev and sys the invalidation follows. -/
def ldAcqSem : Sem :=
  { op := 0x71, desc := ldAcqDesc, ready := fun _ _ _ => true, check := memCheck ldAcqDesc .anywhere false memSize,
    eff := fun s c w =>
      let ls := loadReqs c w ((ldAcqDesc w).getD Desc.plain)
      if c.act = 0 then s
      else if 3 ≤ memScope w then (ls.foldl (ldAcqLine c w) s).startOrder c 3 true 0 []
      else (ls.foldl (ldLine c w) s).startOrder c 1 false 0 [],
    lines := memLines ldAcqDesc false }

/-- LD_ACQ (R296). -/
def execLdAcq (g : GRef) (w : Fields) (s : State) : Host.Outcome State Fault Refusal := next (ldAcqSem.issue g w s)

/-- Whether a line's requests go to a home that may hold it dead: the HBM and far-port regions (R249). -/
def deadable (line : Nat) : Bool := decide (128 * line < hcStart)

/-- A line of `ld.last` (R266, R272): the array's own copy goes, dirty bytes included, and the line is read and killed at its home. -/
def ldLastLine (c : Ctx) (w : Fields) (s : State) (l : Nat × List LaneAcc) : State :=
  let s := if deadable l.1 then s.dropL1 c.ga c.blk.part l.1 false else s
  let (id, s) := s.newId
  let r := mkReq s c w (if deadable l.1 then .loadLast else .load) (memDst w) l id
  (s.addPend r (loadRegs r.size) false).sendReq r

/-- `ld.last` (R249, R272). -/
def ldLastSem : Sem :=
  { op := 0x72, desc := ldLastDesc, ready := fun _ _ _ => true, check := memCheck ldLastDesc .anywhere false memSize,
    eff := fun s c w => (loadReqs c w ((ldLastDesc w).getD Desc.plain)).foldl (ldLastLine c w) s,
    lines := memLines ldLastDesc false }

/-- LD_LAST (R272). -/
def execLdLast (g : GRef) (w : Fields) (s : State) : Host.Outcome State Fault Refusal := next (ldLastSem.issue g w s)

/-! Stores and ordering (R246, R268, R293, R295, R297). -/

/-- The lines of a store, with their bytes. -/
def storeReqs (c : Ctx) (w : Fields) (d : Desc) : List (Nat × List LaneAcc) :=
  memAccs c (memAddr d w c.grp false) (fun i => d.read w c.grp 2 (loadRegs (memSize w)) i 0) (fun _ => 0) 0 (fun _ => false)

/-- Whether a line of a plain store can be taken now: no earlier load of the group still awaits the line, and host writes of the partition are
open. -/
def stReady (s : State) (c : Ctx) (line : Nat) : Bool :=
  if hostStart ≤ 128 * line then s.hostOpen c.blk.part
  else decide (hcStart ≤ 128 * line) || (s.arr c.ga).nb == 0 || !c.grp.pend.any (fun k => !k.isStore && k.line == line)

/-- A line of a plain store: into the L1, to its home, or to the host (R249, R293). -/
def stLine (c : Ctx) (w : Fields) (s : State) (l : Nat × List LaneAcc) : State :=
  let (id, s) := s.newId
  let r := mkReq s c w .store 0 l id
  let addr := 128 * l.1
  if hostStart ≤ addr then s.hostStore (s.pasidOf c.blk.part c.ga c.slot c.blk.slice) r
  else if addr < hcStart ∧ (s.arr c.ga).nb ≠ 0 then s.storeOrWait r
  else
    let a := s.arr c.ga
    ((s.setArr c.ga { a with sideBuf := a.sideBuf.filter (fun e => e.1 != l.1) }).addPend r 0 true).sendReq r

/-- `st` (R152, R154). -/
def stSem : Sem :=
  { op := 0x73, desc := stDesc,
    ready := fun s c w => memLocal w || (storeReqs c w ((stDesc w).getD Desc.plain)).all (fun l => stReady s c l.1),
    check := memCheck stDesc .anywhere false memSize,
    eff := fun s c w =>
      let d := (stDesc w).getD Desc.plain
      if memLocal w then s.localStore c w (memAddr d w c.grp false) (fun i => d.read w c.grp 2 (loadRegs (memSize w)) i 0)
      else (storeReqs c w d).foldl (stLine c w) s,
    lines := memLines stDesc false }

/-- ST (R152). -/
def execSt (g : GRef) (w : Fields) (s : State) : Host.Outcome State Fault Refusal := next (stSem.issue g w s)

/-- The requests of a list of lines, each with a number. -/
def numberReqs (c : Ctx) (w : Fields) (kind : ReqKind) (dst : Nat) : List (Nat × List LaneAcc) → State → List MemReq × State
  | [], s => ([], s)
  | l :: t, s =>
    let (id, s) := s.newId
    let r := mkReq s c w kind dst l id
    let (rs, s) := numberReqs c w kind dst t s
    (r :: rs, s)

/-- `st.rel` (R268, R295): at dev and sys the L1 is pushed first; the store is performed once everything before it is. -/
def stRelSem : Sem :=
  { op := 0x74, desc := stRelDesc,
    ready := fun s c w => (storeReqs c w ((stRelDesc w).getD Desc.plain)).all (fun l => decide (128 * l.1 < hostStart) || s.hostOpen c.blk.part),
    check := memCheck stRelDesc .anywhere false memSize,
    eff := fun s c w =>
      if c.act = 0 then s
      else
        let s := if 3 ≤ memScope w then s.pushL1 c.ga c.blk.part else s
        let bound := s.ids
        let (rs, s) := numberReqs c w .store 0 (storeReqs c w ((stRelDesc w).getD Desc.plain)) s
        let rs := rs.map (fun r => { r with mask32 := c.act })
        s.startOrder c (memScope w) false bound rs,
    lines := memLines stRelDesc false }

/-- ST_REL (R295). -/
def execStRel (g : GRef) (w : Fields) (s : State) : Host.Outcome State Fault Refusal := next (stRelSem.issue g w s)

/-- `fence` (R268, R297). -/
def fenceSem : Sem :=
  { op := 0x77, desc := fenceDesc, ready := fun _ _ _ => true, check := fun _ _ _ => none,
    eff := fun s c w =>
      if c.act = 0 then s
      else
        let s := if 3 ≤ memScope w then s.pushL1 c.ga c.blk.part else s
        s.startOrder c (memScope w) true s.ids [] }

/-- FENCE (R297). -/
def execFence (g : GRef) (w : Fields) (s : State) : Host.Outcome State Fault Refusal := next (fenceSem.issue g w s)

/-! Prefetch and dead-line hints (R249, R269, R272). -/

/-- A line of a `prefetch`: to the home's side buffer, or fetched into the array's unless it is resident, pending or held there, or no miss
register is free. -/
def prefetchLine (c : Ctx) (w : Fields) (s : State) (l : Nat × List LaneAcc) : State :=
  if !deadable l.1 then s
  else if w.mod = 0 then
    let (id, s) := s.newId
    s.sendReq { mkReq s c w .prefetchHome 0 l id with lanes := [] }
  else
    let a := s.arr c.ga
    if (a.l1Find l.1).isSome ∨ a.l1Pending l.1 ∨ a.sidePend.contains l.1 ∨ a.sideBuf.any (fun e => e.1 == l.1) ∨
        256 ≤ a.l1Miss.length + a.sidePend.length then s
    else
      let s := s.setArr c.ga { a with sidePend := a.sidePend ++ [l.1] }
      let (id, s) := s.newId
      let r := { mkReq s c w .prefetchArray 0 l id with lanes := [] }
      s.beyondL1 r (fun s data => s.sendSide r .live data)

/-- `prefetch` (R269). -/
def prefetchSem : Sem :=
  { op := 0x78, desc := prefetchDesc, ready := fun _ _ _ => true, check := memCheck prefetchDesc .hint false (fun _ => 1),
    eff := fun s c w => (loadReqs c w ((prefetchDesc w).getD Desc.plain)).foldl (prefetchLine c w) s,
    lines := memLines prefetchDesc false }

/-- PREFETCH (R269). -/
def execPrefetch (g : GRef) (w : Fields) (s : State) : Host.Outcome State Fault Refusal := next (prefetchSem.issue g w s)

/-- A line of `kill.line` (R266, R272). -/
def killLineOf (c : Ctx) (w : Fields) (s : State) (l : Nat × List LaneAcc) : State :=
  if !deadable l.1 then s
  else
    let s := s.dropL1 c.ga c.blk.part l.1 false
    let (id, s) := s.newId
    let r := mkReq s c w .kill 0 l id
    (s.addPend r 0 false).sendReq r

/-- `kill.line` (R272). -/
def killLineSem : Sem :=
  { op := 0x79, desc := killDesc, ready := fun _ _ _ => true, check := memCheck killDesc .hint false (fun _ => 1),
    eff := fun s c w => (loadReqs c w ((killDesc w).getD Desc.plain)).foldl (killLineOf c w) s,
    lines := memLines killDesc false }

/-- KILL_LINE (R272). -/
def execKillLine (g : GRef) (w : Fields) (s : State) : Host.Outcome State Fault Refusal := next (killLineSem.issue g w s)

/-! Atomics and reductions (R155, R156, R214, R262, R266, R294). -/

/-- A line of an atomic or a reduction: the array's own copy is written back and given up, and the request goes to the home. -/
def atomOut (c : Ctx) (w : Fields) (kind : ReqKind) (nregs : Nat) (s : State) (l : Nat × List LaneAcc) : State :=
  let s := if deadable l.1 then s.dropL1 c.ga c.blk.part l.1 true else s
  let (id, s) := s.newId
  let r := mkReq s c w kind (memDst w) l id
  (s.addPend r nregs false).sendReq r

/-- An atomic (with a result) or a reduction of operation op. -/
def atomSem (code op : Nat) (result float order : Bool) : Sem :=
  { op := code, desc := atomDesc op result float order, ready := fun _ _ _ => true,
    check := memCheck (atomDesc op result float order) .notHost (op = 7) memSize,
    eff := fun s c w =>
      let d := (atomDesc op result float order w).getD Desc.plain
      let n := loadRegs (memSize w)
      let addr := memAddr d w c.grp (op = 7)
      let x := fun i => d.read w c.grp 2 n i 0
      let y := fun i => if op = 7 then d.read w c.grp 1 n i 0 else 0
      if memLocal w then s.localAtom c w op result addr x y
      else
        (memAccs c addr x y 0 (fun _ => false)).foldl
          (atomOut c w (if result then .atom op else .red op) (if result then n else 0)) s,
    lines := memLines (atomDesc op result float order) (op = 7) }

/-- ATOM_ADD (R155). -/
def atomAddSem : Sem := atomSem 0x80 0 true true false
def execAtomAdd (g : GRef) (w : Fields) (s : State) : Host.Outcome State Fault Refusal := next (atomAddSem.issue g w s)

/-- ATOM_MIN (R155). -/
def atomMinSem : Sem := atomSem 0x81 1 true true true
def execAtomMin (g : GRef) (w : Fields) (s : State) : Host.Outcome State Fault Refusal := next (atomMinSem.issue g w s)

/-- ATOM_MAX (R155). -/
def atomMaxSem : Sem := atomSem 0x82 2 true true true
def execAtomMax (g : GRef) (w : Fields) (s : State) : Host.Outcome State Fault Refusal := next (atomMaxSem.issue g w s)

/-- ATOM_AND (R155). -/
def atomAndSem : Sem := atomSem 0x83 3 true false false
def execAtomAnd (g : GRef) (w : Fields) (s : State) : Host.Outcome State Fault Refusal := next (atomAndSem.issue g w s)

/-- ATOM_OR (R155). -/
def atomOrSem : Sem := atomSem 0x84 4 true false false
def execAtomOr (g : GRef) (w : Fields) (s : State) : Host.Outcome State Fault Refusal := next (atomOrSem.issue g w s)

/-- ATOM_XOR (R155). -/
def atomXorSem : Sem := atomSem 0x85 5 true false false
def execAtomXor (g : GRef) (w : Fields) (s : State) : Host.Outcome State Fault Refusal := next (atomXorSem.issue g w s)

/-- ATOM_EXCH (R155). -/
def atomExchSem : Sem := atomSem 0x86 6 true false false
def execAtomExch (g : GRef) (w : Fields) (s : State) : Host.Outcome State Fault Refusal := next (atomExchSem.issue g w s)

/-- ATOM_CAS (R156). -/
def atomCasSem : Sem := atomSem 0x87 7 true false false
def execAtomCas (g : GRef) (w : Fields) (s : State) : Host.Outcome State Fault Refusal := next (atomCasSem.issue g w s)

/-- RED_ADD (R155). -/
def redAddSem : Sem := atomSem 0x88 0 false true false
def execRedAdd (g : GRef) (w : Fields) (s : State) : Host.Outcome State Fault Refusal := next (redAddSem.issue g w s)

/-- RED_MIN (R155). -/
def redMinSem : Sem := atomSem 0x89 1 false false true
def execRedMin (g : GRef) (w : Fields) (s : State) : Host.Outcome State Fault Refusal := next (redMinSem.issue g w s)

/-- RED_MAX (R155). -/
def redMaxSem : Sem := atomSem 0x8A 2 false false true
def execRedMax (g : GRef) (w : Fields) (s : State) : Host.Outcome State Fault Refusal := next (redMaxSem.issue g w s)

/-- RED_AND (R155). -/
def redAndSem : Sem := atomSem 0x8B 3 false false false
def execRedAnd (g : GRef) (w : Fields) (s : State) : Host.Outcome State Fault Refusal := next (redAndSem.issue g w s)

/-- RED_OR (R155). -/
def redOrSem : Sem := atomSem 0x8C 4 false false false
def execRedOr (g : GRef) (w : Fields) (s : State) : Host.Outcome State Fault Refusal := next (redOrSem.issue g w s)

/-- RED_XOR (R155). -/
def redXorSem : Sem := atomSem 0x8D 5 false false false
def execRedXor (g : GRef) (w : Fields) (s : State) : Host.Outcome State Fault Refusal := next (redXorSem.issue g w s)

/-- `red.add.ledger` (R157, R214): one L128 contribution for each thread, a NaN one where its predicate says so. -/
def redAddLedgerSem : Sem :=
  { op := 0x8E, desc := ledgerDesc, ready := fun _ _ _ => true, check := memCheck ledgerDesc .hbmOnly false memSize,
    eff := fun s c w =>
      let d := (ledgerDesc w).getD Desc.plain
      let q := w.imm1.toNat / 2 ^ 16 % 8
      let nan := fun i => bitAt w.imm1.toNat 19 && c.grp.pred i q
      (memAccs c (memAddr d w c.grp false) (fun i => d.read w c.grp 2 4 i 0) (fun _ => 0) (w.imm1.truncate 16) nan).foldl
        (atomOut c w .ledger 0) s,
    lines := memLines ledgerDesc false }

/-- RED_ADD_LEDGER (R215). -/
def execRedAddLedger (g : GRef) (w : Fields) (s : State) : Host.Outcome State Fault Refusal := next (redAddLedgerSem.issue g w s)

end Sys2Proof.Machine
end

