-- ==== Sys2Proof/Machine/Array.lean ====
section
/-! DEFINITION. What an array does by itself: its steps with fetch, selection and composite issue (R89, R93 to R104, R121, R163, R164), the
bounded waits and the faults that time brings (R99, R112 to R114, R122), accepting blocks and changing the split (R82 to R87,
R128, R302), and the residue check of its matrix cells (R235, R236). -/

namespace Sys2Proof.Machine

/-! The instruction word (R131). -/

/-- The fields of an instruction word. -/
def decodeFields (x : BitVec 128) : Fields :=
  let n := x.toNat
  { ge := bitAt n 8, gp := BitVec.ofNat 3 (n / 2 ^ 9), gn := bitAt n 12, d := BitVec.ofNat 8 (n / 2 ^ 13), a := BitVec.ofNat 8 (n / 2 ^ 21),
    b := BitVec.ofNat 8 (n / 2 ^ 29), c := BitVec.ofNat 8 (n / 2 ^ 37), ka := BitVec.ofNat 2 (n / 2 ^ 45), kb := BitVec.ofNat 2 (n / 2 ^ 47),
    kc := BitVec.ofNat 2 (n / 2 ^ 49), du := bitAt n 51, mod := BitVec.ofNat 6 (n / 2 ^ 52), pd := BitVec.ofNat 3 (n / 2 ^ 58),
    aux := BitVec.ofNat 3 (n / 2 ^ 61), imm0 := BitVec.ofNat 32 (n / 2 ^ 64), imm1 := BitVec.ofNat 32 (n / 2 ^ 96) }

/-- The control, control-flow and barrier instructions (R158). -/
def semsControl : List Sem :=
  [nopSem, exitSem, yieldSem, phaseSem, timeReadSem, trapSem, brkSem, movSrSem, braSem, brxSem, callSem, leaPcSem, fpflagsClrSem,
   barSyncSem, barArriveSem]

/-- The integer and predicate instructions (R158). -/
def semsInteger : List Sem :=
  [addOpSem, subOpSem, mulLoSem, mulHiSem, madLoSem, divOpSem, remSem, minOpSem, maxOpSem, absOpSem, negOpSem, andOpSem, orOpSem,
   xorOpSem, notOpSem, shlSem, shrSem, sarSem, popcSem, clzSem, brevSem, bfeSem, bfiSem, movSem, setpSem, selpSem, plopSem,
   cvtSem]

/-- The floating-point instructions (R158). -/
def semsFloat : List Sem :=
  [addF32Sem, subF32Sem, mulF32Sem, fmaF32Sem, minF32Sem, maxF32Sem, absF32Sem, negF32Sem, rcpF32Sem, rsqrtF32Sem, sqrtF32Sem,
   ex2F32Sem, lg2F32Sem, setpF32Sem, addBf16x2Sem, mulBf16x2Sem, fmaBf16x2Sem, minBf16x2Sem, maxBf16x2Sem, addF16x2Sem,
   mulF16x2Sem, fmaF16x2Sem, minF16x2Sem, maxF16x2Sem]

/-- The matrix, ledger-tile and conversion instructions (R158). -/
def semsMatrix : List Sem :=
  [mmaSem, mmaLedgerSem, ltileOpenSem, ltileFlushSem, ltileReadSem, ltileWriteSem, ltileStatSem, ltileCloseSem, cvtPackSem,
   cvtUnpackSem, mxScaleSem]

/-- The lane-exchange instructions (R158). -/
def semsExchange : List Sem :=
  [shflIdxSem, shflXorSem, shflUpSem, shflDownSem, voteAllSem, voteAnySem, voteBallotSem]

/-- The memory instructions (R158). -/
def semsMemory : List Sem :=
  [ldSem, ldAcqSem, ldLastSem, stSem, stRelSem, fenceSem, prefetchSem, killLineSem, atomAddSem, atomMinSem, atomMaxSem,
   atomAndSem, atomOrSem, atomXorSem, atomExchSem, atomCasSem, redAddSem, redMinSem, redMaxSem, redAndSem, redOrSem, redXorSem,
   redAddLedgerSem]

/-- Every instruction of the opcode map (R158). -/
def allSems : List Sem := semsControl ++ semsInteger ++ semsFloat ++ semsMatrix ++ semsExchange ++ semsMemory

/-- The instruction an opcode names, if it is assigned (R133, R158). -/
def semOf (op : Nat) : Option Sem := allSems.find? (fun m => m.op = op)

/-! Fetch (R163, R164, R273, R274, R323). -/

/-- What a fetch at a subgroup's address finds: an address outside the text, a poisoned line, a dead one in a partition that halts on it,
an unassigned opcode, or an instruction. -/
inductive Fetched where
  | outside
  | poisoned
  | deadHalt
  | unassigned (low : W32)
  | instr (m : Sem) (w : Fields)

/-- The instruction word at an address, from the instruction cache or from its line as its home holds it. Where text was modified after it was
cached, the old word or the new one runs, word by word: which one is free (R165; log entry 18). -/
def State.wordAt (s : State) (p ga : Nat) (pc : W64) : FillCode × BitVec 128 :=
  let (c, l) := s.lineNow p (pc.toNat / 128)
  let y := BitVec.ofNat 128 (lineBytes l (pc.toNat % 128) 16)
  match Tab.get (s.arr ga).icache (pc.toNat / 16) with
  | some x => (.live, if c = .live ∧ y ≠ x ∧ Config.newText s.fresh (pc.toNat / 16) then y else x)
  | none => (c, y)

/-- The fetch of a subgroup's next instruction. A dead line reads as zeros unless its reads halt (R273, R274). -/
def State.fetchAt (s : State) (ga : Nat) (k : Block) (pc : W64) : Fetched :=
  if !k.inText pc then .outside
  else match s.wordAt k.part ga pc with
  | (.poisoned, _) => .poisoned
  | (.released, _) => .poisoned
  | (c, x) =>
    if c = .dead ∧ s.launchHaltsDead k.launch k.part then .deadHalt
    else match semOf (x.toNat % 256) with
      | some m => .instr m (decodeFields x)
      | none => .unassigned (x.truncate 32)

/-- A fetched line kept by the instruction cache; a dead one is recorded as read. A fetch from the cache draws a fresh number for the next one's
free choice (R165). -/
def State.keepText (s : State) (c : Ctx) : State :=
  let p := c.blk.part
  let line := c.sub.pc.toNat / 128
  let a := s.arr c.ga
  if (Tab.get a.icache (c.sub.pc.toNat / 16)).isSome then s.draw.2
  else match s.lineNow p line with
  | (.poisoned, _) => s
  | (.released, _) => s
  | (.dead, _) => s.deadRead (s.homeDie p line) p c.sub.pc.toNat c.ga
  | (.live, l) =>
    s.setArr c.ga { a with icache := (List.range 8).foldl (fun t i =>
      Tab.put t (8 * line + i) (BitVec.ofNat 128 (lineBytes l (16 * i) 16))) a.icache }

/-- The lanes of a subgroup whose guard holds for the instruction it stands at. -/
def State.fetchAct (s : State) (ga : Nat) (k : Block) (g : Group) (u : Sub) : BitVec 32 := match s.fetchAt ga k u.pc with
  | .instr _ w => g.guarded w u.lanes
  | _ => u.lanes

/-- Whether a subgroup is ready for the instruction it stands at, or for the fault its fetch meets. -/
def State.fetchReady (s : State) (c : Ctx) : Bool := match s.fetchAt c.ga c.blk c.sub.pc with
  | .instr m w => m.isReady s c w
  | _ => true

/-- The context in which a group issues what its chosen subgroup stands at. -/
def State.fetchCtx (s : State) (ga slot : Nat) : Option Ctx :=
  match (s.group ga slot).bind (fun g => s.block ga g.block) with
  | none => none
  | some k => s.issueCtx ga slot (s.fetchAct ga k) s.fetchReady

/-- The fault of a fetch that finds no instruction. -/
def State.fetchFault (s : State) (c : Ctx) : Fetched → State
  | .outside => blockFault s c 0x0106 c.sub.pc 0
  | .poisoned => poisonFault s c c.sub.pc (s.addrDetail c.blk.part c.sub.pc.toNat)
  | .deadHalt =>
    let s := s.recordDead (s.homeDie c.blk.part (c.sub.pc.toNat / 128)) c.sub.pc.toNat c.ga true
    let f := { groupFault s c 0x010B c.sub.pc 0 with cls := 2 }
    noteLaunchFault (haltBlock (s.raise f) c.ga c.grp.block) c.blk.launch (BitVec.ofNat 32 (0x010B + 2 * 2 ^ 16)) (unitArray c.ga)
  | .unassigned low => blockFault s c 0x0101 0 low
  | .instr _ _ => s

/-! Collectives (R105). -/

/-- A subgroup that stands at a collective before the rest of its group waits there. -/
def State.meetCollective (s : State) (ga : Nat) (k : Block) (g : Group) (u : Sub) : Sub :=
  if u.wait = .running ∧ !u.stopped ∧ u.lanes ≠ g.live then
    match s.fetchAt ga k u.pc with
    | .instr m w => (match m.desc w with
        | some d => if d.coll && d.legal w && !d.outOfRange w k.regs then { u with wait := .collective, yieldCount := 0 } else u
        | none => u)
    | _ => u
  else u

/-- A group whose subgroups have met at collectives: those that newly stand at one wait there and merge (R94, R105), and a group whose current
subgroup does so is open (R95). -/
def State.meetGroup (s : State) (ga step : Nat) (k : Block) (g : Group) : Group :=
  let subs := g.subs.map (s.meetCollective ga k g)
  if subs = g.subs then g
  else
    let arrived := (g.subs.zip subs).any (fun e => e.1.wait != e.2.wait && e.1.lanes == g.cur)
    { g with subs := subs, isOpen := g.isOpen || arrived }.settle step

/-- Every subgroup of an array that has reached a collective waits there, where a pending stop takes it at once (R105, R120). -/
def State.meetCollectives (s : State) (ga : Nat) : State :=
  let a := s.arr ga
  let a := { a with groups := Tab.mapAll a.groups (fun _ g => match Tab.get a.blocks g.block with
    | none => g
    | some k => if k.halted || g.held then g else s.meetGroup ga a.steps k g) }
  s.setArr ga (a.blocks.foldl (fun a e => a.takeStop e.1) a)

/-! Composite issue (R101 to R104, R150, R153). -/

/-- The granule positions of a set of lanes, as a set. -/
def granuleSet (lanes : BitVec 32) : Nat := (List.range 4).foldl (fun m k => if bitsOf lanes.toNat (8 * k) 8 = 0 then m else m + 2 ^ k) 0

/-- The subgroups that join an issue: the current subgroup of each other group of the same block and quarter that is ready for the same
instruction at the same address on positions still free, the slots taken in order after the chosen one (R101, R102), none that the debugger
steps (R633). In an open group that is
its current subgroup only where no other ready one comes before it in rotation order (R97, R98; DEDUCED, log entry 87). -/
def Sem.joiners (m : Sem) (s : State) (c : Ctx) (w : Fields) : List Ctx :=
  let q := c.slot / 16
  ((List.range 15).foldl (fun (acc : Nat × List Ctx) i =>
    match s.fetchCtx c.ga (16 * q + (c.slot + 1 + i) % 16) with
    | none => acc
    | some x =>
      let x := { x with act := x.grp.guarded w x.sub.lanes }
      if x.grp.block = c.grp.block ∧ x.sub.lanes = x.grp.cur ∧ x.sub.pc = c.sub.pc ∧ acc.1 &&& granuleSet x.sub.lanes = 0 ∧ m.isReady s x w ∧
          !s.stepping x.blk.part x.ga x.slot then
        (acc.1 ||| granuleSet x.sub.lanes, acc.2 ++ [x])
      else acc) (granuleSet c.sub.lanes, [])).2

/-- The faults of the subgroups of an issue, with the lane each is found for, lowest code first and lowest lane first (R150, R515). -/
def Sem.faults (m : Sem) (s : State) (w : Fields) (cs : List Ctx) : List (Ctx × Nat × W64 × W32) :=
  let found := cs.filterMap (fun c => (m.check s c w).map (fun f =>
    let lane := ((lanesOf c.sub.lanes).find? (fun i =>
      (m.check s { c with act := c.act &&& BitVec.ofNat 32 (2 ^ i) } w).any (fun e => e.1 == f.1))).getD 32
    (64 * f.1 + lane, c, f)))
  (sortBy (·.1) found).map (·.2)

/-- Requests for one line that the subgroups of one issue made, as one request (R153). -/
def joinReqs (a b : MemReq) : MemReq :=
  { a with lanes := sortBy (·.lane) (a.lanes ++ b.lanes), mask := a.mask ||| b.mask, data := mergeLine a.data b.data b.mask }

/-- A list of requests with those of one line, kind and sender joined: the requests, and each joined one's number with the number it now
goes under. -/
def coalesce : List MemReq → List MemReq × List (Nat × Nat)
  | [] => ([], [])
  | r :: t =>
    let (rs, names) := coalesce t
    match rs.find? (fun q => q.line == r.line && q.kind == r.kind && q.arr == r.arr && q.slot != 64 && r.slot != 64 && q.kind != .fillL1) with
    | some q => (rs.map (fun x => if x.id = q.id then { joinReqs r q with id := q.id } else x), names ++ [(r.id, q.id)])
    | none => (r :: rs, names)

/-- The state after the subgroups of one issue made their requests: those numbered from `start` on, on their way or waiting on the quarter's
memory path, joined (R153). The stores of a `st.rel` are made when each subgroup's release is performed, and are not joined (DESIGN CHOICE, log
entry 88). -/
def State.coalesceFrom (s : State) (ga q start : Nat) : State :=
  let a := s.arr ga
  let (old, new) := s.reqs.partition (fun r => decide (r.id < start))
  let (rs, names) := coalesce new
  let (kept, fresh) := (Tab.getD a.path q []).partition (fun r => decide (r.id < start))
  let (waiting, more) := coalesce fresh
  let rename := fun (k : Pend) => match (names ++ more).find? (fun e => e.1 == k.id) with
    | some e => { k with id := e.2 }
    | none => k
  let a := { a with groups := Tab.mapAll a.groups (fun _ g => { g with pend := g.pend.map rename }),
                    path := if (kept ++ waiting).isEmpty then Tab.erase a.path q else Tab.put a.path q (kept ++ waiting) }
  { s with reqs := old ++ rs }.setArr ga a

/-- The lines of a plain load or a group-scope acquire, which its L1 answers or misses. -/
def Sem.l1Lines (m : Sem) (x : Ctx) (w : Fields) : List (Nat × List LaneAcc) :=
  if m.op = 0x70 ∧ !memLocal w then loadReqs x w ((ldDesc w).getD Desc.plain)
  else if m.op = 0x71 ∧ memScope w < 3 then loadReqs x w ((ldAcqDesc w).getD Desc.plain)
  else []

/-- A count of a slice taken back: a request that was one with an earlier one (R153). -/
def State.sliceUncount (s : State) (d i n : Nat) : State := s.atBase (s.sliceBase d) (fun s b => s.tally (Reg.sliceCount b i) (· - n))

/-- Whether a fresh visitor copy of a line stands in the slice of an array's die (R265, R267). -/
def State.freshVisitor (s : State) (ga line : Nat) : Bool :=
  ((s.slice (ga / 8)).line? (s.setOf line) line true).any (fun l => decide ((s.arr ga).acqEpoch ≤ l.stamp))

/-- A subgroup that joins an issue performs it. A line that an earlier subgroup of the issue asked for is the same request, so its hit or miss
in the L1, or without one in the visitor ways, is not counted again (R103, R153). -/
def Sem.performJoined (m : Sem) (s : State) (x : Ctx) (w : Fields) (d : Desc) (seen : List Nat) : State :=
  let a := s.arr x.ga
  let waits := (Tab.getD a.path (x.slot / 16) []).map (·.line)
  let again := (m.l1Lines x w).filter (fun l => seen.contains l.1 && decide (128 * l.1 < hcStart) && !waits.contains l.1)
  let t := m.perform s x w d
  if a.nb = 0 then
    let remote := again.filter (fun l => s.homeDie x.blk.part l.1 != x.ga / 8 && !a.sideBuf.any (fun e => e.1 == l.1))
    let hits := remote.filter (fun l => s.freshVisitor x.ga l.1)
    (t.sliceUncount (x.ga / 8) 2 hits.length).sliceUncount (x.ga / 8) 3 (remote.length - hits.length)
  else
    let hits := again.filter (fun l => match a.l1Line l.1 with
      | some k => (l.2.foldl (fun n e => n ||| maskOf e.off (memSize w)) 0 &&& ~~~k.valid) == 0
      | none => false)
    (t.l1Uncount x.ga 0 hits.length).l1Uncount x.ga 1 (again.length - hits.length)

/-- An issue by the subgroup a scheduler chose and those that join it, and the slots that took part. Where an access of a memory
instruction faults, none is performed; otherwise a subgroup that faults does so alone (R103, R150). Either way the issue counts with the
positions of every subgroup that took part (log entry 83). -/
def Sem.issueAll (m : Sem) (s : State) (c : Ctx) (w : Fields) (d : Desc) : State × List (Nat × Nat) :=
  let q := c.slot / 16
  let more := if d.coll || granuleSet c.sub.lanes == 15 || s.stepping c.blk.part c.ga c.slot then [] else m.joiners s c w
  let all := c :: more
  let faults := m.faults s w all
  let isMem := decide (0x70 ≤ m.op) && decide (m.op < 0x90)
  let bad := if isMem && !faults.isEmpty then all.map (·.slot) else faults.map (fun f => f.1.slot)
  let start := s.ids
  let done := (all.filter (fun x => !bad.contains x.slot)).foldl (fun (acc : State × List Ctx) x =>
    if x.slot = c.slot || m.isReady acc.1 x w then
      (m.performJoined acc.1 x w d (acc.2.flatMap (fun y => (m.l1Lines y w).map (·.1))), acc.2 ++ [x])
    else acc) (s, [])
  let s := if done.2.length ≤ 1 then done.1 else done.1.coalesceFrom c.ga q start
  let s := if done.2.isEmpty then s else s.occupy m c.ga q done.2 w
  let took := done.2 ++ all.filter (fun x => bad.contains x.slot)
  let used := took.foldl (fun n x => n ||| x.sub.lanes) (0 : BitVec 32)
  let s := s.issued c.ga c.slot (granules used)
  let s := if took.length ≤ 1 then s else s.atBase (s.arrayBase c.ga) (fun s b => s.count (Reg.arrComposite b) 1)
  let s := (if isMem then faults.take 1 else faults).foldl (fun s f => blockFault s f.1 f.2.1 f.2.2.1 f.2.2.2) s
  (s, done.2.map (fun x => (x.slot, x.grp.block)))

/-! One step of an array (R89, R111). -/

/-- An instruction of a STEP issued (R633). -/
def State.noteStep (s : State) (p ga slot : Nat) : State :=
  if !s.stepping p ga slot then s
  else
    let x := s.dbgOf p
    s.setDbg p { x with steps := x.steps.map (fun r =>
      if r.arr = ga ∧ r.slot = slot then { r with left := r.left - 1, issued := r.issued + 1, waited := 0 } else r) }

/-- What a quarter does with one group slot in a step: nothing where the group cannot issue; otherwise its fetch faults, it halts at a
breakpoint without issuing unless the debugger steps it (R633), or it issues. The first part says whether the quarter's issue is used up: an issue that ends in a fault uses it, moves
the pointer and counts (DESIGN CHOICE, log entry 83). -/
def State.trySlot (s : State) (ga slot : Nat) : Bool × State × List (Nat × Nat) :=
  match s.fetchCtx ga slot with
  | none => (false, s, [])
  | some c =>
    match s.fetchAt ga c.blk c.sub.pc with
    | .instr m w =>
      let s := s.keepText c
      (match m.verdict s c w (!s.stepping c.blk.part ga slot) with
        | .breakpoint i => (false, s.haltFor c 1 i, [])
        | .wait => (false, s.waitCollective c, [(slot, c.grp.block)])
        | .go d => let r := m.issueAll s c w d
                   (true, r.1.noteStep c.blk.part ga slot, r.2)
        | .stop code addr word =>
          match m.desc w with
          | some d => if d.legal w && !d.outOfRange w c.blk.regs then
              (let r := m.issueAll s c w d
               (true, r.1, r.2))
            else (true, (blockFault s c code addr word).issued ga slot (granules c.sub.lanes), [])
          | none => (true, (blockFault s c code addr word).issued ga slot (granules c.sub.lanes), []))
    | f => (true, (s.fetchFault c f).issued ga slot (granules c.sub.lanes), [])

/-- A quarter's step: its slots in order after the pointer, until one issues (R89). -/
def State.stepQuarter (s : State) (ga q : Nat) : State × List (Nat × Nat) :=
  let at' := Tab.getD (s.arr ga).pointers q (16 * q + 15) % 16
  let r := (List.range 16).foldl (fun (acc : Bool × State × List (Nat × Nat)) i =>
    if acc.1 then acc
    else
      let t := acc.2.1.trySlot ga (16 * q + (at' + 1 + i) % 16)
      (t.1, t.2.1, acc.2.2 ++ t.2.2)) (false, s, [])
  r.2

/-- The matrix cells whose occupancy has ended give their sums to their tiles: each staging sum has passed its check (R232). -/
def Arr.commit (a : Arr) : Arr :=
  a.staged.foldl (fun a e =>
    if Tab.getD a.busy (16 + e.1) 0 ≠ 0 then a
    else
      let key := 4 * e.1 + e.2.tileNo
      { a with staged := Tab.erase a.staged e.1,
               tiles := if (Tab.get a.tiles key).any (fun t => t.owner == e.2.slot) then Tab.put a.tiles key e.2.after else a.tiles }) a

/-- Occupancies and bank queues one step further: what has run out is listed no more (R143, R153, R184, R242). -/
def runDown (t : Tab Nat) : Tab Nat := (t.map (fun e => (e.1, e.2 - 1))).filter (fun e => e.2 != 0)

/-- The counts of a step in an array: its own, its phase's with the energy, and those of its running subgroups (R121, R569), and its units a
step further. -/
def Arr.countStep (a : Arr) (energy : Nat) : Arr :=
  Arr.commit { a with
    steps := a.steps + 1, pos := a.pos + 1, phaseSteps := a.phaseSteps + 1, phaseEnergy := a.phaseEnergy + energy,
    busy := runDown a.busy, bankBusy := runDown a.bankBusy,
    groups := Tab.mapAll a.groups (fun _ g =>
      if g.held || (Tab.get a.blocks g.block).any (·.halted) then g
      else { g with subs := g.subs.map (fun (u : Sub) =>
        if u.wait == .running && !u.stopped then { u with yieldCount := u.yieldCount + 1 } else u) }) }

/-- The step of the running tick that a die has reached: that of its array that is furthest (R40, R42). -/
def State.diePos (s : State) (d : Nat) : Nat := (List.range 8).foldl (fun m i => max m (s.arr (8 * d + i)).pos) 0

/-- The counts of a step of an array (R121, R569); the slowest array of its launch (R399); and the energy of the arrays of its die that hold
no group, for a step of the die that none of its arrays has made before (R585). -/
def State.countStep (s : State) (ga : Nat) : State :=
  let d := ga / 8
  let a := s.arr ga
  let launch := match a.blocks with
    | (_, b) :: _ => some b.launch
    | [] => none
  let energy := Config.stepEnergy ga a.steps
  let idle := if a.pos < s.diePos d then 0 else ((List.range 8).filter (fun i => (s.arr (8 * d + i)).groups.isEmpty)).length
  let x := a.countStep energy
  let s := s.setArr ga x
  let s := match launch.bind s.work with
    | some k => (s.modWork k.id (fun k => { k with steps := max k.steps x.steps })).spend k.part k.slice energy
    | none => s
  match s.partOfDie d with
  | some p => s.count (idleKey p) (idle * Config.idleEnergy d)
  | none => s

/-! Steps and halts of the debugger (R626, R628, R633). -/

/-- Whether a subgroup waits at a barrier, a collective or a tile, as the table "Thread states" has it. -/
def Sub.waits (u : Sub) : Bool := match u.wait with
  | .barrier _ => true
  | .collective => true
  | .tile _ _ _ => true
  | _ => false

/-- Steps of its array for which a STEP waits for a ready subgroup (R633, R641). -/
def stepWait : Nat := 256

/-- A STEP ended (R633): the group halted again unless a stop took it (R636), its event recorded, and the response sent: NOT_READY when nothing
became ready before the first issue. The summary of thread states has no layout in the spec: its four bytes are free. -/
def State.endStep (s : State) (p : Nat) (r : DbgRun) : State :=
  let x := s.dbgOf p
  let s := s.setDbg p { x with steps := x.steps.filter (fun e => !(e.arr == r.arr && e.slot == r.slot)) }
  let s := match s.group r.arr r.slot with
    | some g =>
      if (s.block r.arr g.block).any (fun (k : Block) => k.stopPending) then s else (s.holdGroup p r.arr r.slot).dbgEvent p r.arr r.slot 2 0 g.standsAt
    | none => s
  if r.issued = 0 ∧ stepWait ≤ r.waited then s.reply p 0x12 4 []
  else
    let (b, s) := s.opaqueBytes 4
    s.reply p 0x12 0 (byteList r.issued 2 ++ b)

/-- A STEP after a step of its array (R633): it ends once its count has issued and completed, when nothing became ready for 256 steps, when every
live thread waits or has exited, and when the group or its block is halted; `before` is what it had issued. -/
def State.runStep (s : State) (p before : Nat) (r : DbgRun) : State :=
  let r := if r.issued = before then { r with waited := r.waited + 1 } else r
  match s.group r.arr r.slot with
  | none => s.endStep p r
  | some g =>
    if g.held ∨ s.blockHalted r.arr r.slot ∨ stepWait ≤ r.waited ∨
        (g.quiet ∧ (r.left = 0 ∨ g.subs.all (fun u => u.lanes == 0 || u.stopped || u.waits))) then s.endStep p r
    else
      let x := s.dbgOf p
      s.setDbg p { x with steps := x.steps.map (fun e => if e.arr = r.arr ∧ e.slot = r.slot then r else e) }

/-- The halts of a partition whose groups have all completed what they issued, or are held no more, answered (R626, R628). -/
def State.endHalts (s : State) (p : Nat) : State :=
  let done := fun (s : State) (h : DbgHalting) => h.groups.all (fun e => match s.group e.1 e.2 with
    | some g => !g.held || g.quiet
    | none => true)
  (s.dbgOf p).halts.foldl (fun s h =>
    if !done s h then s
    else
      let x := s.dbgOf p
      (s.setDbg p { x with halts := x.halts.erase h }).reply p h.op 0 h.data) s

/-- The STEPs of the debugger that run in an array. -/
def State.stepRuns (s : State) (ga : Nat) : List DbgRun := match s.partOfDie (ga / 8) with
  | none => []
  | some p => (s.dbgOf p).steps.filter (fun r => r.arr == ga)

/-- What the debugger waits for after a step of an array; `runs` are the STEPs in it before that step. -/
def State.debugStep (runs : List DbgRun) (s : State) (ga : Nat) : State := match s.partOfDie (ga / 8) with
  | none => s
  | some p =>
    let issued := fun (r : DbgRun) => ((runs.find? (fun e => e.slot == r.slot)).map (·.issued)).getD 0
    (((s.dbgOf p).steps.filter (fun r => r.arr == ga)).foldl (fun s r => s.runStep p (issued r) r) s).endHalts p

/-- A step of an array (R89): its counts, the requests that wait on its memory paths, its collectives met, one issue for each quarter, and then
what follows: every arrival and exit of the step is counted before any barrier completes (R111). What the debugger waits for comes last.
-/
def State.stepArray (s : State) (ga : Nat) : State :=
  match s.siteOf (ga / 8) with
  | none => s
  | some _ =>
    let runs := s.stepRuns ga
    let s := s.countStep ga
    let s := (List.range 4).foldl (fun s q => State.drainPath ga q (Tab.getD (s.arr ga).path q []) s) s
    let s := s.meetCollectives ga
    let r := (List.range 4).foldl (fun (acc : State × List (Nat × Nat)) q =>
      let t := acc.1.stepQuarter ga q
      (t.1, acc.2 ++ t.2)) (s, [])
    State.debugStep runs (r.2.foldl (fun s e => s.afterIssue ga e.1 e.2) r.1) ga

/-- Whether a die is held in retention, where its arrays take no step (R562, R582, R614). -/
def State.retained (s : State) (d : Nat) : Bool := match s.siteOf d with
  | some site => s.power.retention.contains site
  | none => false

/-- The pace of logical die d (R42, R577, R581): the governor's, or fret 0 while an alert holds or its temperature limits it. -/
def State.paceOf (s : State) (d : Nat) : Nat :=
  let limited := match s.siteOf d with
    | some site => s.bit (Reg.thDie site) 16
    | none => false
  if s.bit Reg.pwrStatus 0 || s.bit Reg.pwrStatus 1 || limited then 52 else Tab.getD s.power.pace d 52

/-- Whether a die still has a pacing token in the running tick for the next step of an array (R42); with no tick from the management die its
pacer runs from a local oscillator (R524; DESIGN CHOICE, log entry 89: no bound is kept then). -/
def State.hasToken (s : State) (ga : Nat) : Bool := !s.tb.running || s.mgdLost || decide ((s.arr ga).pos < s.paceOf (ga / 8))

/-- The supply code of 0.68 V, below which no steps run (R43, R560). -/
def steppingSupply : Nat := 26

/-- Whether an array completes steps: it holds a group, its die is supplied and not held in retention, and has a token (R40, R42, R43). -/
def State.canStep (s : State) (ga : Nat) : Bool :=
  !(s.arr ga).groups.isEmpty && !s.retained (ga / 8) && decide (steppingSupply ≤ Tab.getD s.power.supply (ga / 8) 0) && s.hasToken ga

/-- A parity error that the reads of an array's step find, in its instruction cache or in what the group of a slot reads, and whether the
step goes on (R278, R502). -/
def State.stepUpset (s : State) (ga slot : Nat) (u : Upset) : State × Bool :=
  match u with
  | .icache line => (s.icacheUpset ga line.toNat, true)
  | _ => match s.fetchCtx ga slot with
    | none => (s, true)
    | some c => match s.fetchAt ga c.blk c.sub.pc with
      | .instr m w => ((m.meet s c w u).1, (m.meet s c w u).2 || u matches .register _ || u matches .localStore _)
      | _ => (s, true)

/-- DF_FIRST after a step of a die that began with DF_STATUS [3:0] clear and n records not yet delivered (R515): of the faults that fell in it,
the one of the highest class, and of the lowest code among equals. -/
def State.firstOfStep (s : State) (n site : Nat) : State :=
  let mine := (s.faults.undelivered.drop n).filter (fun r => s.faultSite r.unit == some site && decide (r.cls < 4))
  match (sortBy (fun r => 0x10000 * (3 - r.cls) + r.code) mine).head? with
    | some r => s.setReg (Reg.dfFirst site) (BitVec.ofNat 32 (r.code + r.cls * 2 ^ 16))
    | none => s

/-- What a step of an array does; `upset` names a group slot whose reads find a parity error. A step that finds dirty bytes lost makes no issue:
the partition stops. -/
def State.stepWith (s : State) (ga : Nat) (upset : Option (Fin 64 × Upset)) : State := match upset with
  | none => s.stepArray ga
  | some u => if (s.stepUpset ga u.1.val u.2).2 then (s.stepUpset ga u.1.val u.2).1.stepArray ga else (s.stepUpset ga u.1.val u.2).1

/-- SCHEDULER_ISSUE (R40, R42, R43, R89, R515): a step of an array that can take one. -/
def execSchedulerIssue (a : Fin 768) (upset : Option (Fin 64 × Upset)) (s : State) : Host.Outcome State Fault Refusal :=
  next (if !s.canStep a.val then s else match s.siteOf (a.val / 8) with
    | none => s.stepWith a.val upset
    | some site =>
      if s.field (Reg.dfStatus site) 0 4 ≠ 0 then s.stepWith a.val upset
      else (s.stepWith a.val upset).firstOfStep s.faults.undelivered.length site)

/-! What time brings. -/

/-- Steps a reconvergence wait lasts, and steps without a yield point before a block halts (R99, R122). -/
def reconvLimit : Nat := 256
def yieldLimit : Nat := 262144

/-- A reconvergence wait that has lasted its steps ends: the awaited address leaves the stack (R99, R675). -/
def Sub.timeOut (step : Nat) (u : Sub) : Sub := match u.wait with
  | .reconv _ => if u.waitFrom + reconvLimit ≤ step then u.leaveReconv else u
  | _ => u

/-- RECONVERGENCE_TIMEOUT (R99): the group's subgroups whose wait has lasted 256 steps go on unmerged. -/
def execReconvergenceTimeout (g : GRef) (s : State) : Host.Outcome State Fault Refusal :=
  next (match s.group g.arr.val g.slot.val with
    | none => s
    | some x =>
      let step := (s.arr g.arr.val).steps
      s.setGroup g.arr.val g.slot.val { x with subs := x.subs.map (Sub.timeOut step) })

/-- Whether a subgroup waits for something that only other threads of its block could bring (R112, R200). -/
def stuckSub (a : Arr) (slot : Nat) (g : Group) (u : Sub) : Bool :=
  u.lanes == 0 || (!u.stopped && u.orders.isEmpty && (match u.wait with
    | .barrier _ => true
    | .collective => u.lanes != g.live
    | .tile _ _ _ => (List.range 4).all (fun t => match Tab.get a.tiles (4 * (slot / 16) + t) with
        | none => false
        | some x => (Tab.get a.groups x.owner).any (fun o => o.block == g.block))
    | _ => false))

/-- Whether a block is deadlocked (R112). -/
def deadlocked (a : Arr) (bs : Nat) (k : Block) : Bool :=
  let gs := a.groups.filter (fun e => e.2.block == bs)
  !k.halted && gs.any (fun e => e.2.live != 0) && gs.all (fun e => !e.2.held && e.2.subs.all (stuckSub a e.1 e.2))

/-- DL_GRANULE of granule position j of a group (R124). -/
def granuleRecord (g : Group) (j : Nat) : W32 :=
  let part := fun (m : BitVec 32) => bitsOf m.toNat (8 * j) 8
  let us := g.subs.filter (fun u => part u.lanes != 0 && !u.stopped && (match u.wait with
    | .barrier _ => true
    | .collective => true
    | .tile _ _ _ => true
    | _ => false))
  let bars := us.foldl (fun m u => match u.wait with
    | .barrier b => m ||| 2 ^ b
    | _ => m) 0
  let coll := us.any (fun u => match u.wait with
    | .barrier _ => false
    | _ => true)
  let lanes := us.foldl (fun m u => m ||| part u.lanes) 0
  BitVec.ofNat 32 (bars + (if coll then 2 ^ 16 else 0) + (if part g.live = 0 then 2 ^ 17 else 0) +
    (if part g.absent = 255 then 2 ^ 18 else 0) + lanes * 2 ^ 24)

/-- DL_SLOT of a block (R124). -/
def slotWord (bs : Nat) (k : Block) : W32 := BitVec.ofNat 32 (bs + k.threads * 2 ^ 8)

/-- The DL_GRANULE words of a block, group by group (R124). -/
def granuleWords (a : Arr) (bs : Nat) : List W32 :=
  let gs := sortBy (·.index) ((a.groups.map (·.2)).filter (fun g => g.block == bs))
  gs.flatMap (fun g => (List.range 4).map (granuleRecord g))

/-- A deadlocked block halted, its fault raised and, when no record stands, recorded (R113, R114). -/
def State.deadlock (s : State) (ga bs : Nat) (k : Block) : State :=
  let words := granuleWords (s.arr ga) bs
  let time := s.dieTime (ga / 8)
  let s := s.atBase (s.arrayBase ga) (fun s b =>
    if s.bit (Reg.arrStatus b) 0 then s.setBit (Reg.arrStatus b) 1
    else
      let s := (s.setReg (Reg.dlLaunch b) (k.seq.truncate 32)).setReg (Reg.dlBlock b) (BitVec.ofNat 32 k.index)
      let s := (s.setReg (Reg.dlSlot b) (slotWord bs k)).setReg (Reg.dlTimeLo b) (time.truncate 32)
      let s := s.setLatch (Reg.dlTimeHi b) ((time >>> 32).truncate 32)
      let s := (List.range 128).foldl (fun s i => s.setReg (Reg.dlGranule b i) (words.getD i 0)) s
      s.setBit (Reg.arrStatus b) 0)
  let r : FaultRec := { FaultRec.plain 0x0109 (unitArray ga) time (some k.part) with
    slice := BitVec.ofNat 16 k.slice, mailbag := BitVec.ofNat 16 k.mailbag, seq := k.seq,
    detail := [slotWord bs k, BitVec.ofNat 32 k.index, 0, 0, BitVec.ofNat 32 (groupsFor k.threads)], extra := words }
  noteLaunchFault (haltBlock (s.raise r) ga bs) k.launch (BitVec.ofNat 32 (0x0109 + 2 * 2 ^ 16)) (unitArray ga)

/-- BARRIER_DEADLOCK (R113): every deadlocked block of the array, the lowest block slot first. -/
def execBarrierDeadlock (a : Fin 768) (s : State) : Host.Outcome State Fault Refusal :=
  let x := s.arr a.val
  next ((x.blocks.filter (fun e => deadlocked x e.1 e.2)).foldl (fun s e => s.deadlock a.val e.1 e.2) s)

/-- A subgroup that ran too long: its block's fault, and the record when none stands (R122). -/
def State.overdue (s : State) (ga slot : Nat) (g : Group) (u : Sub) : State :=
  match ctxFor s ga slot u.lanes u.pc with
  | none => s
  | some c =>
    if c.blk.halted then s
    else
      let s := s.atBase (s.arrayBase ga) (fun s b =>
        if s.bit (Reg.arrStatus b) 2 then s.setBit (Reg.arrStatus b) 3
        else
          let s := (s.setReg (Reg.yoGroup b) (groupWord slot g.block u.lanes)).setReg (Reg.yoLanes b) u.lanes
          let s := (s.setReg (Reg.yoPc b) (u.pc.truncate 32)).setReg (Reg.yoLaunch b) (c.blk.seq.truncate 32)
          s.setBit (Reg.arrStatus b) 2)
      blockFault s c 0x010A 0 0

/-- YIELD_OVERDUE (R122): every subgroup of the array that has reached the limit, slot by slot. Of two of one block in one step the first in the
list of the lowest slot is recorded, and its halt leaves the other without a record or YIELD_OVERFLOW (DESIGN CHOICE, log entry 90). -/
def execYieldOverdue (a : Fin 768) (s : State) : Host.Outcome State Fault Refusal :=
  next ((s.arr a.val).groups.foldl (fun s e => e.2.subs.foldl (fun s u =>
    if u.wait == .running && !u.stopped && !e.2.held && decide (yieldLimit ≤ u.yieldCount) then s.overdue a.val e.1 e.2 u else s) s) s)

/-! Accepting a block (R79, R82 to R87, R128, R164, R302). -/

/-- Fields of a launch record (R393). -/
def Work.u16 (k : Work) (off : Nat) : Nat := bitsOf k.entry.toNat (8 * off) 16
def Work.threads (k : Work) : Nat := k.u16 0x2E
def Work.lsUnits (k : Work) : Nat := k.u16 0x32
def Work.lsBanks (k : Work) : Nat := bitsOf k.entry.toNat (8 * 0x34) 8
def Work.argAddr (k : Work) : Nat := bitsOf k.entry.toNat (8 * 0x18) 64
def Work.codeAddr (k : Work) : Nat := bitsOf k.entry.toNat (8 * 0x10) 64
def Work.seed (k : Work) : W64 := BitVec.ofNat 64 (bitsOf k.entry.toNat (8 * 0x20) 64)

/-- R of R79: the registers per thread that an array allocates. -/
def Work.regs (k : Work) : Nat := (k.u16 0x30 + 15) / 16 * 16

/-- Q of R84. -/
def quarterCap (r : Nat) : Nat := min 16 (524288 / (128 * r + 1024))

/-- Whether a quarter offers group slots: fewer than two of its cells are retired (R238). -/
def State.quarterOpen (s : State) (ga q : Nat) : Bool := decide (((List.range 4).filter (fun k => s.cellRetired ga q k)).length < 2)

/-- Free group slots of a quarter for groups of R registers. -/
def State.quarterFree (s : State) (ga q r : Nat) (taken : List Nat) : Nat :=
  if s.quarterOpen ga q then quarterCap r - ((List.range 16).filter (fun i => (Tab.get (s.arr ga).groups (16 * q + i)).isSome || taken.contains (16 * q + i))).length
  else 0

/-- The slots that n further groups take, each in the quarter with the most free slots (R84), lowest slot first; none when they do not
fit. -/
def State.placeGroups (s : State) (ga r : Nat) : Nat → List Nat → Option (List Nat)
  | 0, taken => some taken
  | n + 1, taken =>
    let free := fun q => s.quarterFree ga q r taken
    let best := (List.range 4).foldl (fun b q => if free b < free q then q else b) 0
    if free best = 0 then none
    else match (List.range 16).find? (fun i => (Tab.get (s.arr ga).groups (16 * best + i)).isNone && !taken.contains (16 * best + i)) with
      | none => none
      | some i => State.placeGroups s ga r n (taken ++ [16 * best + i])

/-- Local store units that blocks of an array hold. -/
def Arr.usedUnits (a : Arr) : List Nat := a.blocks.flatMap (·.2.units)

/-- The lowest n free local store units of an array (R85). -/
def Arr.freeUnits (a : Arr) (n : Nat) : List Nat := ((List.range (192 * a.lsBanks)).filter (fun u => !a.usedUnits.contains u)).take n

/-- What an array would give a block of a launch: its slot, its groups' slots, its units; none when it cannot accept one now (R83). -/
def State.roomFor (s : State) (ga : Nat) (k : Work) : Option (Nat × List Nat × List Nat) :=
  let a := s.arr ga
  let units := a.freeUnits k.lsUnits
  if a.reconfig.isSome ∨ a.lsBanks ≠ k.lsBanks ∨ units.length < k.lsUnits then none
  else match (List.range 32).find? (fun b => (Tab.get a.blocks b).isNone), s.placeGroups ga k.regs (groupsFor k.threads) [] with
    | some bs, some slots => some (bs, slots, units)
    | _, _ => none

/-- A group as its block starts (R75, R78, R128). -/
def startGroup (k : Work) (bs index blockIndex : Nat) (orders : List OrderOp) : Group :=
  let n := min 32 (k.threads - 32 * index)
  let absent : BitVec 32 := BitVec.ofNat 32 (2 ^ 32 - 2 ^ n)
  let u : Sub := { lanes := ~~~absent, pc := k.kernelEntry, wait := .running, stopped := false, stack := [], waitFrom := 0, yieldCount := 0,
                   orders := orders }
  let g : Group := { block := bs, index := index, absent := absent, exited := 0, tregs := [], uregs := [], preds := [], fpflags := 0,
                     subs := [u], cur := u.lanes, isOpen := false, pend := [], hostStored := 0, held := false }
  let g := (List.range n).foldl (fun g i => g.setTreg i 0 (BitVec.ofNat 32 (32 * index + i))) g
  [(0, k.argAddr), (1, k.argAddr / 2 ^ 32), (2, blockIndex), (3, k.blocks), (4, k.threads), (5, index)].foldl
    (fun g e => g.setUreg e.1 (BitVec.ofNat 32 e.2)) g

/-- The `fence.dev` that begins an array's part of a launch, while it is in progress: numbered 0, it makes the groups of every block accepted
meanwhile wait (R302). -/
def Arr.startFence (a : Arr) (id : Nat) : Option OrderOp :=
  (a.groups.filter (fun e => (Tab.get a.blocks e.2.block).any (fun b => b.launch == id))).findSome? (fun e =>
    (e.2.subs.flatMap (·.orders)).find? (fun o => o.id == 0))

/-- A block placed on an array. Its first block of a launch begins with the actions of `fence.dev`, restarts the array's step count and sets
its phase (R302, R399, R568); the instruction cache is cleared when the code object or its LOAD_GEN changed (R164). -/
def State.acceptBlock (s : State) (ga : Nat) (k : Work) (bs : Nat) (slots units : List Nat) : State :=
  let first := !k.fences.contains ga
  let s := if first then (s.pushL1 ga k.part).setPhase ga k.kernelId 0 else s
  let a := s.arr ga
  let addr : W64 := BitVec.ofNat 64 k.codeAddr
  let b : Block := { launch := k.id, part := k.part, seq := k.seq, mailbag := k.mailbag, slice := k.slice, index := k.nextBlock,
                     nblocks := k.blocks, threads := k.threads, regs := k.regs, units := units, textLo := k.textLo, textHi := k.textHi,
                     kernelId := k.kernelId, seed := k.seed, arrived := [], halted := false, stopPending := false }
  let begin' : OrderOp := { id := 0, lanes := 0, scope := 3, isFence := false, flushing := false, bound := s.ids, stores := [] }
  let orders := fun (j : Nat) => if first then [{ begin' with isFence := decide (j = 0) }]
    else match a.startFence k.id with
      | some o => [{ o with isFence := false }]
      | none => []
  let groups := ((List.range slots.length).zip slots).foldl (fun t e => Tab.put t e.2 (startGroup k bs e.1 k.nextBlock (orders e.1))) a.groups
  let same := a.lastCode = addr ∧ a.lastGen = k.loadGen
  let a := { a with blocks := Tab.put a.blocks bs b, groups := groups, lastCode := addr, lastGen := k.loadGen,
                    icache := if same then a.icache else [], steps := if first then 0 else a.steps,
                    pos := if a.groups.isEmpty then max a.pos (s.diePos (ga / 8)) else a.pos }
  let s := s.setArr ga a
  let s := s.modWork k.id (fun k => { k with nextBlock := k.nextBlock + 1,
                                              fences := if k.fences.contains ga then k.fences else k.fences ++ [ga] })
  if first then s.progressArr ga else s

/-- The launch that holds an array and still has blocks to assign (R435, R516, R628). -/
def State.launchOn (s : State) (ga : Nat) : Option Work :=
  s.works.find? (fun k => k.phase == .running && k.arrays.contains ga && decide (k.nextBlock < k.blocks) && !k.haltDispatch &&
    s.partState k.part == 2 && !s.poisoned k.part && !(s.dbgOf k.part).heldLaunches.contains k.id)

/-- BLOCK_ACCEPT (R83, R436): the next block of the launch, when this is the first of its arrays that can accept one. -/
def execBlockAccept (a : Fin 768) (s : State) : Host.Outcome State Fault Refusal :=
  next (match s.launchOn a.val with
    | none => s
    | some k =>
      if k.arrays.find? (fun ga => (s.roomFor ga k).isSome) = some a.val then
        (match s.roomFor a.val k with
          | some (bs, slots, units) => s.acceptBlock a.val k bs slots units
          | none => s)
      else s)

/-! The split (R81, R82). -/

/-- An L1 whose banks below a physical bank number have changed role: those lines gone, the others in their places. Keys count banks from
the first L1 bank, 32,768 to a bank. -/
def moveL1 (t : Tab L1Line) (old new : Nat) : Tab L1Line :=
  (t.filter (fun e => decide (new ≤ old + e.1 / 32768))).map (fun e => (e.1 + 32768 * old - 32768 * new, e.2))

/-- Local store in the banks that remain local store: each line keeps its bank and row (R243). -/
def moveLocal (t : Tab Byte) (old new : Nat) : Tab Byte :=
  t.foldl (fun out e =>
    let y := e.1 / 128
    let bank := y % old
    if bank < new then Tab.put out (128 * (y / old * new + bank) + e.1 % 128) e.2 else out) []

/-- LS_BANKS_CHANGE (R82): an empty array begins the split its launch needs; the banks that change role write their dirty lines back and are
invalidated. -/
def execLsBanksChange (a : Fin 768) (n : Fin 9) (s : State) : Host.Outcome State Fault Refusal :=
  let ga := a.val
  next (match s.launchOn ga with
    | none => s
    | some k =>
      let x := s.arr ga
      if x.groups ≠ [] ∨ x.reconfig.isSome ∨ x.lsBanks = n.val ∨ k.lsBanks ≠ n.val then s
      else
        let goes := fun (key : Nat) => decide (x.lsBanks + key / 32768 < n.val)
        let s := ((x.l1.filter (fun e => goes e.1)).map (·.1)).foldl (fun s key => s.cleanL1 ga k.part key) s
        let x := s.arr ga
        s.setArr ga { x with reconfig := some n.val, l1 := x.l1.filter (fun e => !goes e.1) })

/-- RECONFIG_DONE (R82). -/
def execReconfigDone (a : Fin 768) (s : State) : Host.Outcome State Fault Refusal :=
  let ga := a.val
  let x := s.arr ga
  next (match x.reconfig with
    | none => s
    | some n =>
      let s := s.setArr ga { x with reconfig := none, lsBanks := n, l1 := moveL1 x.l1 x.lsBanks n, localMem := moveLocal x.localMem x.lsBanks n }
      s.atBase (s.arrayBase ga) (fun s b => s.setBit (Reg.arrStatus b) 4))

/-! The residue check (R232, R235, R236). -/

/-- The record of a residue fault (R506). -/
def residueFault (s : State) (c : Ctx) (code cell count : Nat) (pc : W64) : FaultRec :=
  { groupFault s c code 0 0 with
    detail := [BitVec.ofNat 32 (16 * c.ga + cell), pc.truncate 32, (pc >>> 32).truncate 32, BitVec.ofNat 32 count, 0] }

/-- A cell retired, with CELL_RETIRED, and its die with it where the limit of R521 is met; a cell already retired stays as it is. -/
def State.retireCell (s : State) (c : Ctx) (cell : Nat) (pc : W64) : State :=
  match s.siteOf (c.ga / 8) with
  | none => s
  | some site =>
    if s.cellRetired c.ga (cell / 4) (cell % 4) then s
    else
      let s := s.retire { cell := true, site := site, number := 16 * (c.ga % 8) + cell }
      (s.raise (residueFault s c 0x0202 cell (Tab.getD (s.arr c.ga).mismatches cell 0) pc)).recordWorn site

/-- A corrected mismatch counted for a cell, which 64 of them retire (R236). -/
def State.mismatch (s : State) (c : Ctx) (cell : Nat) (pc : W64) : State :=
  let a := s.arr c.ga
  let n := Tab.getD a.mismatches cell 0 + 1
  let s := s.setArr c.ga { a with mismatches := Tab.put a.mismatches cell n }
  if 64 ≤ n then s.retireCell c cell pc else s

/-- The cell that computes the rows of granule k of a quarter: its own, or the nearest in service in the order k + 1, k + 2, k + 3 (R238). -/
def State.servingCell (s : State) (ga q k : Nat) : Nat :=
  (((List.range 4).map (fun i => (k + i) % 4)).find? (fun c => !s.cellRetired ga q c)).getD k

/-- A staging sum as a computation with errors in some elements gives it: the bits of each error flipped, in the rows of granule k (R232). -/
def Staging.withErrors (x : Staging) (k : Nat) (es : List (BitVec 10 × BitVec 144)) : Staging :=
  (es.filter (fun e => e.1.toNat / 256 == k)).foldl (fun x e =>
    let n := e.1.toNat
    let old := Tab.getD x.sums n 0
    let new := old ^^^ e.2
    { x with sums := Tab.put x.sums n new,
             after := { x.after with accs := Tab.put x.after.accs n (Tab.getD x.after.accs n 0 - old + new) } }) x

/-- Whether the check of the rows of granule k passes: every element with a finite tag has the residue expected of it (R232, R234). -/
def Staging.passes (x : Staging) (k : Nat) : Bool :=
  (List.range 256).all (fun i =>
    let n := 256 * k + i
    Tab.getD x.after.tags n .finite != .finite || residue (Tab.getD x.sums n 0) == Tab.getD x.expected n 0)

/-- What the recomputations of a failed check come to (R235): `same` and `other` are the sums of the same cell and of its neighbour. -/
def State.recompute (s : State) (c : Ctx) (q k : Nat) (x same other : Staging) : State :=
  let put := fun (s : State) (y : Staging) => s.setArr c.ga { s.arr c.ga with staged := Tab.put (s.arr c.ga).staged q y }
  let cell := s.servingCell c.ga q k
  let n := 4 * q + cell
  let next := 4 * q + s.servingCell c.ga q ((cell + 1) % 4)
  let corrected := fun (s : State) =>
    let s := s.mismatch c n x.pc
    s.raise (residueFault s c 0x0201 n (Tab.getD (s.arr c.ga).mismatches n 0) x.pc)
  if same.passes k then corrected (put s same)
  else if other.passes k then (corrected (put s other)).retireCell c n x.pc
  else
    let s := s.retireCell c n x.pc
    let a := s.arr c.ga
    let s := s.setArr c.ga { a with staged := Tab.erase a.staged q }
    blockFault (s.mismatch c next x.pc) c 0x0203 0 0

/-- RESIDUE_RECOMPUTE (R232 to R236, R238): the rows of granule `k` that the quarter's matrix cells hold of a group's `mma.ledger` come out with
errors: `errs` of the cell, and of the recomputations on the same cell and on its neighbour. Errors that the check does not see stay. -/
def execResidueRecompute (g : GRef) (k : Fin 4) (errs : List (BitVec 10 × BitVec 144) × List (BitVec 10 × BitVec 144) × List (BitVec 10 × BitVec 144))
    (s : State) : Host.Outcome State Fault Refusal :=
  let ga := g.arr.val
  let slot := g.slot.val
  let q := slot / 16
  next (match Tab.get (s.arr ga).staged q, s.group ga slot with
    | some x, some grp =>
      match ctxFor s ga slot grp.live x.pc with
      | some c =>
        if x.slot ≠ slot then s
        else
          let first := x.withErrors k.val errs.1
          if first.passes k.val then s.setArr ga { s.arr ga with staged := Tab.put (s.arr ga).staged q first }
          else s.recompute c q k.val x (x.withErrors k.val errs.2.1) (x.withErrors k.val errs.2.2)
      | none => s
    | _, _ => s)

/-- Every release, fence and closing fence of the panel taken as far as it can go. -/
def State.progressAll (s : State) : State := ((s.arrs.map (·.1)).foldl State.progressArr s).progressClosing

end Sys2Proof.Machine
end

