-- ==== Sys2Proof/Machine/Cache.lean ====
section
/-! DEFINITION. Events at home slices: requests and contributions performed, fills, acknowledgements, side buffers, bucket reads and the end
of an invalidation (R215, R229, R237, R250, R251, R259, R269 to R271, R279, R293). -/

namespace Sys2Proof.Machine

/-- Whether a load of the host region has had its bytes, and waits for the other lines of its instruction (R672). -/
def MemReq.arrived (r : MemReq) : Bool := r.kind.reads && decide (hostStart ≤ 128 * r.line) && r.mask != 0

/-- The oldest request for a line of a partition (R251). -/
def State.headReq (s : State) (p line : Nat) : Option MemReq := s.reqs.find? (fun r => r.part == p && r.line == line && !r.arrived)

/-- The state without a request. -/
def State.dropReq (s : State) (r : MemReq) : State := { s with reqs := s.reqs.filter (fun q => q.id != r.id) }

/-- A request that has to wait stays in its slice's input queue; one that a regulator holds is offered again at the next tick (R341). -/
def State.keepWaiting (s : State) (r : MemReq) : State :=
  let h := Held.request r.id
  if (s.chargeLine r.part r.sl r.line).isNone ∧ !s.held.contains h then { s with held := s.held ++ [h] } else s

/-- Whether two requests are host lines of one instruction of a group. -/
def MemReq.sameLoad (q r : MemReq) : Bool :=
  q.arr == r.arr && q.pc == r.pc && q.dst == r.dst && q.kind == r.kind && decide (hostStart ≤ 128 * q.line) && q.slots.any r.slots.contains

/-- A load of the host region that returns: its bytes are the host's (R288, R311; log entry 1). No lane receives data before every host line of
the instruction has come (R150, R672). -/
def State.hostLoad (s : State) (r : MemReq) : State :=
  let (data, s) := s.hostLine
  let s := { s with reqs := s.reqs.map (fun (q : MemReq) => if q.id = r.id then { q with data := data, mask := fullMask } else q) }
  let all := s.reqs.filter (fun q => q.sameLoad r)
  if all.all (·.arrived) then all.foldl (fun s q => (s.dropReq q).deliver q (loadValue q q.data)) s else s

/-- The oldest request for a line performed at its home (R250, R251); a ledger contribution has an event of its own. One whose answer becomes a
visitor copy has a miss register of its own die's slice from then on (R265, R281). -/
def State.homeAccess (s : State) (p line : Nat) : State :=
  match s.headReq p line with
  | none => s
  | some r =>
    if r.kind = .ledger then s
    else if hostStart ≤ 128 * line then (if s.mayAsk p then (s.hostLoad r).progressAll else s)
    else
      let d := s.homeDie p line
      if !s.sliceReady d then s
      else match s.takeVisitor r with
        | none => s
        | some s => match (s.dropReq r).serve d r with
          | none => s.keepWaiting r
          | some t => ((t.countHit d (s.hitKind d r)).spend p r.sl (Config.activity 0 (Tab.getD s.power.supply d 0))).progressAll

/-- A parity error that the access of the oldest request for a line finds, and whether the access goes on; nothing is read, and so nothing found,
where no request stands or the slice takes none (R278). -/
def State.accessUpset (s : State) (p line : Nat) (u : HomeUpset) : State × Bool :=
  match s.headReq p line with
  | none => (s, true)
  | some r =>
    if hostStart ≤ 128 * line ∨ !s.sliceReady (s.homeDie p line) then (s, true)
    else s.homeUpset (s.homeDie p line) p (if r.kind = .kill then some line else none) u

/-- HOME_ACCESS (R250); `upset` says where the access's reads find a parity error. -/
def execHomeAccess (p : Fin 6) (line : BitVec 41) (upset : Option HomeUpset) (s : State) : Host.Outcome State Fault Refusal :=
  next (match upset with
    | none => s.homeAccess p.val line.toNat
    | some u => if (s.accessUpset p.val line.toNat u).2 then (s.accessUpset p.val line.toNat u).1.homeAccess p.val line.toNat
      else (s.accessUpset p.val line.toNat u).1)

/-- The oldest request for a line, a contribution, performed at its home (R215 to R218, R223 to R229, R237). -/
def State.contribution (s : State) (p line mismatches : Nat) : State :=
  match s.headReq p line with
  | none => s
  | some r =>
    let d := s.homeDie p line
    if r.kind ≠ .ledger ∨ !s.sliceReady d then s
    else
      match (s.dropReq r).serveChecked d r (decide (2 ≤ mismatches)) with
      | none => s.keepWaiting r
      | some u => (u.spend p r.sl (Config.activity 1 (Tab.getD s.power.supply d 0))).progressAll

/-- SUM_LINE_CONTRIBUTION (R215); `mismatches` counts how often the residue check of its addition failed (R237), and `upset` says where its
reads find a parity error. -/
def execSumLineContribution (p : Fin 6) (line : BitVec 41) (mismatches : Fin 3) (upset : Option HomeUpset) (s : State) :
    Host.Outcome State Fault Refusal :=
  next (match upset with
    | none => s.contribution p.val line.toNat mismatches.val
    | some u => if (s.accessUpset p.val line.toNat u).2 then (s.accessUpset p.val line.toNat u).1.contribution p.val line.toNat mismatches.val
      else (s.accessUpset p.val line.toNat u).1)

/-- Whether a line's bucket read is outstanding. -/
def State.mergesRecord (s : State) (p line : Nat) : Bool :=
  (s.slice (s.homeDie p line)).sums.any (fun u => u.line == line && u.merging) && (s.findSpill p (s.homeDie p line) line).isSome

/-- SPILL_BUCKET_READ_DONE (R229): the record's elements join those of the sum line, and the record is free; additions that fail their check
twice add nothing and raise LEDGER_HOME_FAULT (R237). -/
def execSpillBucketReadDone (p : Fin 6) (line : BitVec 41) (mismatches : Fin 3) (upset : Option HomeUpset) (s : State) :
    Host.Outcome State Fault Refusal :=
  let d := s.homeDie p.val line.toNat
  next (if s.mergesRecord p.val line.toNat then s.withUpset d p.val none upset (fun s =>
      if mismatches.val = 2 then s.homeFault d p.val (128 * line.toNat) else s.mergeRecord d p.val line.toNat)
    else s)

/-- The first returned line for an address, and the list without it. -/
def takeFill (p line : Nat) : List Fill → Option (Fill × List Fill)
  | [] => none
  | f :: t => if f.part = p ∧ f.line = line then some (f, t) else match takeFill p line t with
    | none => none
    | some (g, u) => some (g, f :: u)

/-- FILL_ARRIVE (R237, R259, R277): `failed` numbers the waiting contributions whose addition fails its check twice; a fill whose reads find bits
lost is not made. -/
def execFillArrive (p : Fin 6) (line : BitVec 41) (failed : List Nat) (upset : Option HomeUpset) (s : State) : Host.Outcome State Fault Refusal :=
  let p := p.val
  let line := line.toNat
  next (match takeFill p line s.fills with
    | none => s
    | some (f, rest) => s.withUpset (s.homeDie p line) p none upset (fun s =>
        ({ s with fills := rest }.fillHome (s.homeDie p line) p line f.code f.data failed).progressAll))

/-- The first acknowledgement on its way to an array for a line, and the list without it. -/
def takeAck (ga line : Nat) : List (Nat × Nat × Nat) → Option (Nat × List (Nat × Nat × Nat))
  | [] => none
  | (a, l, id) :: t => if a = ga ∧ l = line then some (id, t) else match takeAck ga line t with
    | none => none
    | some (i, u) => some (i, (a, l, id) :: u)

/-- HOME_WRITE_ACK (R293): the write is performed with respect to `dev`, and releases and fences that waited for it go on. -/
def execHomeWriteAck (a : Fin 768) (line : BitVec 41) (s : State) : Host.Outcome State Fault Refusal :=
  next (match takeAck a.val line.toNat s.writeAcks with
    | none => s
    | some (id, rest) =>
      let x := s.arr a.val
      let x := { x with unacked := x.unacked.filter (fun e => e.1 != id),
                        groups := Tab.mapAll x.groups (fun _ g => { g with pend := g.pend.filter (fun k => k.id != id) }) }
      ({ s with writeAcks := rest }.setArr a.val x).progressAll)

/-- A prefetched line delivered into an array's side buffer, the oldest displaced (R269, R271). -/
def State.sideArray (s : State) (ga : Nat) (f : Fill) : State :=
  let a := s.arr ga
  if !a.sidePend.contains f.line then s
  else
    let a := { a with sidePend := a.sidePend.filter (· != f.line) }
    if f.code ≠ .live ∨ (a.l1Find f.line).isSome ∨ a.l1Pending f.line then s.setArr ga a
    else
      let buf := if 512 ≤ a.sideBuf.length then a.sideBuf.drop 1 else a.sideBuf
      s.setArr ga { a with sideBuf := buf ++ [(f.line, f.data)] }

/-- A prefetched line delivered at its home: a demand access that came meanwhile takes it as its fill; otherwise it enters the side buffer,
unless the line has become resident. Its bytes are those memory holds now (R269, R270, R321). -/
def State.sideHome (s : State) (p line : Nat) (code : FillCode) : State :=
  let d := s.homeDie p line
  let x := s.slice d
  let now := if code = .poisoned ∨ code = .released then (code, 0) else s.memNow p line
  if x.misses.any (fun m => m.line == line) then (s.fillHome d p line now.1 now.2 []).progressAll
  else if !x.sidePend.contains line then s
  else
    let s := s.setSlice d { x with sidePend := x.sidePend.filter (· != line) }
    if now.1 ≠ .live ∨ (x.find (s.setOf line) line false).isSome ∨ (x.sideData line).isSome then s else s.sideAdd d line now.2

/-- SIDE_BUFFER_FILL (R269, R277). -/
def execSideBufferFill (p : Fin 6) (line : BitVec 41) (upset : Option HomeUpset) (s : State) : Host.Outcome State Fault Refusal :=
  let p := p.val
  let line := line.toNat
  next (match takeFill p line s.sideFills with
    | none => s
    | some (f, rest) => s.withUpset (s.homeDie p line) p none upset (fun s =>
        let s := { s with sideFills := rest }
        match f.arr with
        | some ga => s.sideArray ga f
        | none => s.sideHome p line f.code))

/-- An invalidation of a die's slice and array memories begun (R279): tag slots, miss registers, side buffers, sum lines, epochs and every
L1 bank cleared, the data bits of local store kept. The slice accepts nothing until it is ready again. -/
def State.invalidateDie (s : State) (d : Nat) : State :=
  let s := s.setSlice d Slice.reset
  let s := (List.range 8).foldl (fun s i =>
    let ga := 8 * d + i
    let a := s.arr ga
    s.setArr ga { a with l1 := [], l1Miss := [], sideBuf := [], sidePend := [], unacked := [], acqEpoch := 0, path := [] }) s
  s.atBase (s.sliceBase d) (fun s b => s.setField (Reg.sliceState b) 0 2 2)

/-- What is on its way between the slices, the arrays and the memory of a partition gone (R279). -/
def State.dropTraffic (s : State) (p : Nat) : State :=
  let keep := fun (ga : Nat) => !(s.partArrays p).contains ga
  { s with reqs := s.reqs.filter (fun r => r.part != p), reads := s.reads.filter (fun o => o.part != p || o.isWrite),
           fills := s.fills.filter (fun f => f.part != p), sideFills := s.sideFills.filter (fun f => f.part != p),
           writeAcks := s.writeAcks.filter (fun e => keep e.1) }

/-- A slice invalidated (R279); at panel start the last of them ends the step, and the dies drop to retention (R596). -/
def State.invalidated (s : State) (d : Nat) : State :=
  let s := s.atBase (s.sliceBase d) (fun s b =>
    if s.bit (Reg.sliceState b) 1 then (s.setField (Reg.sliceState b) 0 2 1).setBit (Reg.sliceStatus b) 8 else s)
  if s.stepOpen 8 [6] && (List.range 96).all (fun d => match s.sliceBase d with
      | some b => s.bit (Reg.sliceState b) 0
      | none => true) then s.doStep 8
  else s

/-- CACHE_INVALIDATE_DONE. -/
def execCacheInvalidateDone (d : Fin 96) (s : State) : Host.Outcome State Fault Refusal := next (s.invalidated d.val)

end Sys2Proof.Machine
end

