-- ==== Sys2Proof/Machine/External.lean ====
section
/-! DEFINITION. External memory: reads and writes at the memory-interface dies (R314 to R332), couriers (R333 to R339) and the bandwidth
regulators (R340 to R342). -/

namespace Sys2Proof.Machine

/-! HBM reads and writes at a memory-interface die. -/

/-- The request a memory-interface die serves for an HBM line (R321). -/
def State.hbmHead (s : State) (p line : Nat) : Option MidOp := if farStart ≤ 128 * line then none else (s.midOps p line).head?

/-- The request being served for a line replaced. -/
def State.setMidHead (s : State) (p line : Nat) (o : MidOp) : State :=
  { s with reads := replaceFirst (fun x => x.part == p && x.line == line) o s.reads }

/-- A line read from memory on its way to the home slice that asked for it: as a fill, or into its side buffer (R259, R269). -/
def State.giveLine (s : State) (p line : Nat) (code : FillCode) (data : LineData) : State :=
  let x := s.slice (s.homeDie p line)
  let f : Fill := { part := p, line := line, code := code, data := data, arr := none }
  if x.misses.any (fun m => m.line == line) then { s with fills := s.fills ++ [f] }
  else if x.sidePend.contains line then { s with sideFills := s.sideFills ++ [f] }
  else s

/-- A read whose check words passed answered, or a masked write merged and written (R322, R325, R326). -/
def State.midPassed (s : State) (p line : Nat) (o : MidOp) (errs : List SectorErr) : State :=
  let t := { s with reads := dropFirst (fun x => x.part == p && x.line == line) s.reads }
  let t := if o.isWrite then t.memWrite p line o.data o.mask o.dead
    else
      let (code, data) := s.readWith p line errs
      t.giveLine p line code data
  State.drainWrites p line t.reads.length t

/-- A line poisoned after three reads that failed (R323): its bytes zero, its page put up for retirement. -/
def State.poisonLine (s : State) (p line : Nat) (o : MidOp) : State :=
  let (g, off) := s.stackOf p (128 * line)
  let k := hbmKey g off
  let m := g / 4
  let s := { s with hbm := Mem.clear s.hbm k (k + 128), hbmCode := Tab.put s.hbmCode (hbmLine g off) .poisoned }
  let s := s.notePoison m (g % 4 + 8 * pseudoChannel off) off
  let x := s.mid m
  s.setMid m { x with retiring := x.retiring ++ [o] }

/-- A persistent read failure (R323): the line poisoned, its page put up for retirement, the read answered as poisoned or the masked write
dropped. -/
def State.midFailed (s : State) (p line : Nat) (o : MidOp) : State :=
  let s := { s with reads := dropFirst (fun x => x.part == p && x.line == line) s.reads }.poisonLine p line o
  let s := if o.isWrite then s.memWrite p line o.data o.mask o.dead else s.giveLine p line .poisoned 0
  State.drainWrites p line s.reads.length s

/-- The state code of a line of a partition's HBM. -/
def State.lineCode (s : State) (p line : Nat) : FillCode := s.codeAt (s.stackOf p (128 * line)).1 (s.stackOf p (128 * line)).2

/-- A read of a line that failed its check counted, with the bit positions that failed (R318, R322). -/
def MidOp.failed (o : MidOp) (c : FillCode) (errs : List SectorErr) : MidOp := { o with fails := o.fails + 1, bits := o.bits ++ failedBits c errs }

/-- HBM_READ_DONE (R320 to R322, R326): `errs` are the errors that the read brings. -/
def execHbmReadDone (p : Fin 6) (line : BitVec 41) (errs : List SectorErr) (s : State) : Host.Outcome State Fault Refusal :=
  next (match s.hbmHead p.val line.toNat with
    | none => s
    | some o =>
      if o.fails ≠ 0 then s
      else if readFails (s.lineCode p.val line.toNat) errs then s.setMidHead p.val line.toNat (o.failed (s.lineCode p.val line.toNat) errs)
      else s.midPassed p.val line.toNat o errs)

/-- Where a memory-interface die counts the failures of a data lane (R318): by local stack, pseudo-channel and lane. -/
def laneKey (stack channel lane : Nat) : Nat := 1024 * (stack % 4) + 32 * channel + lane

/-- A re-read that passed (R318, R322): HBM_REREAD, and a failure counted for the lane of each bit position that had failed. -/
def State.rereadPassed (s : State) (p line : Nat) (bits : List Nat) : State :=
  let (g, off) := s.stackOf p (128 * line)
  let m := g / 4
  let x := s.mid m
  let s := s.setMid m { x with laneFails := bits.foldl (fun t b =>
    Tab.modify t (laneKey g (pseudoChannel off) (Config.laneOf b).val) 0 (· + 1)) x.laneFails }
  (s.setBit (Reg.midStatus m) 0).raise (memFault s 0x0401 (some p) m false g (128 * line) off)

/-- HBM_REREAD (R318, R322, R323): the second failure is read once more, the third is persistent. -/
def execHbmReread (p : Fin 6) (line : BitVec 41) (errs : List SectorErr) (s : State) : Host.Outcome State Fault Refusal :=
  next (match s.hbmHead p.val line.toNat with
    | none => s
    | some o =>
      if o.fails = 0 then s
      else if !readFails (s.lineCode p.val line.toNat) errs then (s.rereadPassed p.val line.toNat o.bits).midPassed p.val line.toNat o errs
      else if o.fails = 1 then s.setMidHead p.val line.toNat (o.failed (s.lineCode p.val line.toNat) errs)
      else s.midFailed p.val line.toNat o)

/-- A DRAM page repaired or substituted is logged for the next start (R316, R324): the page, and whether it was substituted. -/
def State.logRepair (s : State) (g page : Nat) (subst : Bool) : State :=
  let e := (g, 2 * page + if subst then 1 else 0)
  { s with faults := { s.faults with hbmRepairs := s.faults.hbmRepairs ++ [e] } }

/-- PAGE_RETIRE_DONE (R324): the page of a poisoned line repaired, substituted, or left with SUBSTITUTION_FULL; `repairRow` says whether its
bank had a repair row left. The line stays poisoned. -/
def execPageRetireDone (p : Fin 6) (line : BitVec 41) (repairRow : Bool) (s : State) : Host.Outcome State Fault Refusal :=
  let addr := 128 * line.toNat
  let (g, off) := s.stackOf p.val addr
  let m := g / 4
  let x := s.mid m
  let mine := fun (o : MidOp) => o.part == p.val && o.line == line.toNat
  let reg := Reg.stackState m (g % 4)
  next (if farStart ≤ addr ∨ !x.retiring.any mine then s
    else
      let s := s.setMid m { x with retiring := dropFirst mine x.retiring }
      let used := s.field reg 8 7
      let done := fun (s : State) => (s.setBit (Reg.midStatus m) 2).raise (memFault s 0x0403 (some p.val) m false g addr off)
      if repairRow then done ((s.setField reg 16 16 (s.field reg 16 16 + 1)).logRepair g (dramPage off) false)
      else if used < 64 then done ((s.setField reg 8 7 (used + 1)).logRepair g (dramPage off) true)
      else (s.setBit (Reg.midStatus m) 3).raise (memFault s 0x0404 (some p.val) m false g addr off))

/-- SECTOR_MERGE_WRITE (R322, R325, R326): the masked write served for a line reads its partial sectors, merges and writes; `reads` are the
errors of its reads in turn. -/
def execSectorMergeWrite (p : Fin 6) (line : BitVec 41) (reads : List (List SectorErr)) (s : State) : Host.Outcome State Fault Refusal :=
  next (match s.hbmHead p.val line.toNat with
    | none => s
    | some o =>
      if !o.isWrite then s
      else
        let r := readTries (s.lineCode p.val line.toNat) (reads.take 3)
        if r.1 = 3 then s.midFailed p.val line.toNat o
        else (if r.1 = 0 then s else s.rereadPassed p.val line.toNat r.2).midPassed p.val line.toNat o [])

/-- HBM_LANE_REMAPPED (R318, R319): with 8 failures of the lane in this window, it moves to a redundant lane, or, when its pseudo-channel
has none left, the channel is lost. -/
def execHbmLaneRemapped (stack : Fin 32) (channel : Fin 32) (lane : Fin 32) (s : State) : Host.Outcome State Fault Refusal :=
  let g := stack.val
  let m := g / 4
  let x := s.mid m
  let k := laneKey g channel.val lane.val
  let used := Tab.getD x.lanesUsed (laneKey g channel.val 0) 0
  let off := 128 * channel.val
  let p := s.partOfSector m
  next (if Tab.getD x.laneFails k 0 < 8 then s
    else
      let s := s.setMid m { x with laneFails := Tab.erase x.laneFails k,
                                   lanesUsed := if used < Config.hbmRedundantLanes then Tab.put x.lanesUsed (laneKey g channel.val 0) (used + 1)
                                     else x.lanesUsed }
      if used < Config.hbmRedundantLanes then
        (s.setBit (Reg.midStatus m) 4).raise (memFault s 0x0402 p m false g 0 off)
      else
        let s := (s.setBit (Reg.midStatus m) 5).setField (Reg.stackState m (g % 4)) 0 2 3
        s.raise (memFault s 0x0409 p m false g 0 off))

/-! Far pages. -/

/-- Whether a request lies at a far port, and which page of it it needs. -/
def State.opAtFar (s : State) (port : Nat) (o : MidOp) : Bool :=
  decide (farStart ≤ 128 * o.line) && s.farPort o.part ((128 * o.line - farStart) / 2 ^ 42) == port
def opPage (o : MidOp) : Nat := (128 * o.line - farStart) % 2 ^ 42 / 4096

/-- The requests of a far port that a test picks served in their order, as the port and its pages stand now. -/
def State.serveFar (port : Nat) (f : MidOp → Bool) : Nat → State → State
  | 0, s => s
  | n + 1, s =>
    match s.reads.find? (fun o => s.opAtFar port o && f o) with
    | none => s
    | some o =>
      let t := { s with reads := dropFirst (fun x => s.opAtFar port x && f x) s.reads }
      let t := if o.isWrite then t.memWrite o.part o.line o.data o.mask o.dead
        else
          let (code, data) := s.memRead o.part o.line
          t.giveLine o.part o.line code data
      State.serveFar port f n t

/-- A page placed in the buffer of verified pages, displacing the least recently used of 64 (R330). -/
def State.keepPage (s : State) (port page : Nat) : State :=
  let x := s.mid port
  s.setMid port { x with verified := (page :: x.verified.filter (· != page)).take 64 }

/-- A page whose tag failed three times poisoned, FAR_MAC_FAIL raised (R331). -/
def State.failPage (s : State) (port page : Nat) : State :=
  let p := s.partOfSector port
  let pg : FarPage := match s.farPage port (4096 * page) with
    | some pg => { pg with dead := 0, poisoned := true, tag := 0 }
    | none => { owner := 0, index := 0, dead := 0, poisoned := true, tag := 0 }
  let s := { s with farPages := Tab.put s.farPages (farPageKey port (4096 * page)) pg }
  let x := s.mid port
  let s := s.setMid port { x with verified := x.verified.filter (· != page) }
  let s := (s.notePoison port 4 (4096 * page)).setBit (Reg.midStatus port) 6
  s.raise (memFault s 0x0407 p port true 0 (match p with
    | some p => farStart + (port - s.partK0 p) * 2 ^ 42 + 4096 * page
    | none => 0) 0)

/-- FAR_PAGE_READ_DONE (R329 to R331): `tagFails` counts the reads of the page whose tag failed. -/
def execFarPageReadDone (port : Fin 8) (page : BitVec 30) (tagFails : Fin 4) (s : State) : Host.Outcome State Fault Refusal :=
  let port := port.val
  let page := page.toNat
  let mine := fun (o : MidOp) => opPage o == page
  next (match s.reads.find? (fun o => s.opAtFar port o && mine o) with
    | none => s
    | some o =>
      if !s.farUp port then s
      else
        let s := if tagFails.val < 3 ∧ s.pageGood o.part port page then s.keepPage port page else s.failPage port page
        State.serveFar port mine s.reads.length s)

/-- A far port down (R332): reads answer as poisoned from now on, and a write back that it waits for is lost. -/
def State.farDown (s : State) (port : Nat) : State :=
  let x := s.mid port
  let s := s.setMid port { x with verified := [], farAttached := false }
  let s := (s.setField (Reg.farState port) 0 1 0).setBit (Reg.midStatus port) 7
  let s := s.raise (memFault s 0x0408 (s.partOfSector port) port true 0 0 0)
  State.serveFar port (fun _ => true) s.reads.length s

/-- FAR_UNAVAILABLE (R332). -/
def execFarUnavailable (port : Fin 8) (s : State) : Host.Outcome State Fault Refusal :=
  next (if s.bit (Reg.farState port.val) 0 then s.farDown port.val else s)

/-! Bandwidth regulators: messages of the pair links. -/

/-- The widths in bytes of the fields of a message's body, by its type (R535). -/
def pairWidths (type : Nat) : List Nat := match type with
  | 0x1 => [64, 2, 8]
  | 0x2 => [8]
  | 0x3 => [2, 8, 1, 4]
  | 0x4 => [2, 8]
  | 0x5 => [1, 1, 2, 8, 4]
  | 0x6 => [8, 128]
  | 0x7 => [4, 4, 48]
  | 0x8 => [4, 8]
  | 0x9 => [4]
  | 0xC => [1]
  | 0xD => [8]
  | 0xE => [1, 1, 2, 2, 2, 2, 2, 2, 2, 2, 8]
  | _ => []

/-- Bytes of a message beyond its header and tag, by its type (R535, R538). -/
def pairBody (type : Nat) : Nat := (pairWidths type).foldl (· + ·) 0

/-- The 16-byte header of a message (R535). -/
def PairMsg.header (m : PairMsg) : List Byte :=
  leBytes m.type 1 ++ leBytes m.part 1 ++ leBytes (pairBody m.type) 2 ++ leBytes 0 4 ++ leBytes m.seq.toNat 8

/-- The identity of the panel at the other end of the pair links (R559). -/
def State.peer (s : State) : Nat := (List.range 12).foldl (fun n i => n + (s.reg (Reg.pairPeer i)).toNat * 2 ^ (32 * i)) 0

/-- The key of a message and its direction: 0 from the panel of the lower identity (R475, R477); the link key of messages of no partition (R535). -/
def State.pairKeyOf (s : State) (m : PairMsg) : List Byte × Nat :=
  let own := s.trust.identity.toNat
  if m.part = 255 then (leBytes (Config.pairLinkKey m.link s.peer).toNat 32, if own ≤ s.peer then 0 else 1)
  else match Tab.get s.keys m.part with
    | none => ([], 0)
    | some k =>
      let d := if own ≤ k.partner.toNat then 0 else 1
      (keyPair k.jobId k.jobSecret (min own k.partner.toNat) (max own k.partner.toNat) d, d)

/-- A message as it goes out (R477, R535): its header, its body under AES-256-GCM and the tag. -/
def State.sealPair (s : State) (m : PairMsg) : PairMsg :=
  let (key, d) := s.pairKeyOf m
  let c := gcmSeal key (leBytes m.part 1 ++ leBytes d 3 ++ leBytes m.seq.toNat 8) m.header
    (((pairWidths m.type).zip m.fields).flatMap (fun e => leBytes e.2 e.1))
  { m with bytes := m.header ++ c.1 ++ leBytes c.2.toNat 16 }

/-- Whether a held message goes before another: it belongs to the same link and partition. -/
def Held.before (h : Held) (m : PairMsg) : Bool := match h with
  | .message k => k.link == m.link && k.part == m.part
  | _ => false

/-- A message handed to a pair link, sealed when it first is, and sent in order when its partition's bucket grants it (R341, R538); messages of no
partition have tokens of their own. -/
def State.sendPair (s : State) (m : PairMsg) : State :=
  let s := if s.linkSent.contains m.link then s else { s with linkSent := s.linkSent ++ [m.link] }
  let m := if m.bytes.isEmpty then s.sealPair m else m
  if m.part = 255 then { s with pairOut := s.pairOut ++ [m] }
  else match (if s.held.any (fun h => h.before m) then none else s.charge Bucket.pair (6 * m.link + m.part) ((32 + pairBody m.type + 9) / 10) 1) with
  | some s => { s with pairOut := s.pairOut ++ [m] }
  | none => { s with held := s.held ++ [.message m] }

/-! Couriers: couriers 4d + c are those of logical die d, couriers 384 + 8m + c those of memory-interface die m (R346). -/

/-- A courier without a chain. -/
def Courier.reset : Courier :=
  { st := .idle, part := 7, slice := 0, work := none, record := 0, started := false, op := 0, gateEn := false, doneSys := false,
    gateValue := 0, gateAddr := 0, src := 0, dst := 0, total := 0, done := 0, doneAddr := 0, doneValue := 0, next := 0, status := 0,
    lastStatus := 0, cancel := false, holdNext := false, flush := 0, hostStored := false, page := [], pigeonhole := none }

/-- A courier. -/
def State.courier (s : State) (c : Nat) : Courier := Tab.getD s.couriers c Courier.reset
def State.setCourier (s : State) (c : Nat) (x : Courier) : State := { s with couriers := Tab.put s.couriers c x }

/-- Where a courier's registers lie, when its die is in use. -/
def State.courierBase (s : State) (c : Nat) : Option Nat :=
  if c < 384 then (s.siteOf (c / 4)).map (fun site => Base.courier site (c % 4)) else some (Base.midCourier ((c - 384) / 8) ((c - 384) % 8))

/-- Whether a courier serves a partition (R395): it belongs to one of its dies or of its memory-interface dies. -/
def State.courierServes (s : State) (p c : Nat) : Bool :=
  if c < 384 then (s.partDies p).contains (c / 4) else bitAt (s.partSectors p) ((c - 384) / 8)

/-- A courier's unit code, its source code and its time (R346, R509). -/
def courierSource (c : Nat) : Nat := 0x300 + c
def State.courierTime (s : State) (c : Nat) : W64 := if c < 384 then s.dieTime (c / 4) else s.midTime ((c - 384) / 8)

/-- The windows a courier's accesses keep to (R381, R382): its entry's, or the whole partition for a pigeonhole. -/
def State.courierSnap (s : State) (c : Nat) : Snap := match (s.courier c).work.bind s.work with
  | some k => k.snap
  | none => wholeSnap

/-- The record of a BLOCK fault that a courier meets (R500, R516). -/
def State.courierFault (s : State) (c code addr : Nat) (detail : List W32) : State :=
  let cr := s.courier c
  let r : FaultRec := { FaultRec.plain code (unitCourier (courierSource c)) (s.courierTime c) (some cr.part) with
    addr := BitVec.ofNat 64 addr, detail := detail }
  let r := match cr.work.bind s.work with
    | some k => { r with slice := BitVec.ofNat 16 k.slice, mailbag := BitVec.ofNat 16 k.mailbag, seq := k.seq }
    | none => r
  let ps := s.pairState cr.part
  s.raise (if code = 0x0405 ∧ (ps = 2 ∨ ps = 3) then { r with cls := 3 } else r)

/-- A courier's current record ended with a status (R338). -/
def State.crStop (s : State) (c status : Nat) : State := s.setCourier c { s.courier c with status := status, started := true, st := .running }

/-- A line that answered a courier as poisoned (R323). -/
def State.crPoison (s : State) (c p addr : Nat) : State := (s.courierFault c 0x0405 addr (s.addrDetail p addr)).crStop c 1

/-- A range that lies in the regions of R35, inside the windows: all of it in one, or in the regions of two neighbouring far ports. -/
def State.rangeIn (s : State) (p : Nat) (w : Snap) (addr len : Nat) : Bool :=
  match s.regionFor p w addr, s.regionFor p w (addr + len - 1) with
  | .hbm, .hbm => true
  | .far i, .far j => i == j || (j == i + 1 && s.farCap p i == 4096)
  | .hc, .hc => true
  | .host, .host => true
  | _, _ => false

/-- Whether the far port behind an address is unavailable to couriers (R332, R618). -/
def State.crDown (s : State) (p addr : Nat) : Bool :=
  let port := s.farPort p ((addr - farStart) / 2 ^ 42)
  decide (farStart ≤ addr ∧ addr < hcStart) && (!s.farUp port || (s.mid port).farReleased || (s.mid port).farReleasing.isSome)

/-- Fields of a transfer record (R333). -/
def recOp (r : Nat) : Nat := bitsOf r 0 8
def recGate (r : Nat) : Bool := bitAt r 8
def recLength (r : Nat) : Nat := bitsOf r 64 64
def recSrc (r : Nat) : Nat := bitsOf r 128 64
def recDst (r : Nat) : Nat := bitsOf r 192 64
def recGateAddr (r : Nat) : Nat := bitsOf r 256 64
def recDoneAddr (r : Nat) : Nat := bitsOf r 320 64
def recNext (r : Nat) : Nat := bitsOf r 384 64

/-- Whether a record breaks R334: an unknown operation, a reserved field, a length or an address that breaks its alignment, or overlapping
ranges. -/
def recordRefused (r : Nat) : Bool :=
  let n := recLength r
  !(decide (1 ≤ recOp r) && decide (recOp r ≤ 3)) || bitsOf r 10 6 != 0 || bitsOf r 16 16 != 0 || bitsOf r 480 32 != 0 || n == 0 || n % 128 != 0 ||
    decide (2 ^ 40 < n) || recSrc r % 128 != 0 || recDst r % 128 != 0 || (recOp r != 1 && recDst r != 0) ||
    (recGate r && recGateAddr r % 4 != 0) || recDoneAddr r % 8 != 0 || recNext r % 64 != 0 ||
    (recOp r == 1 && decide (recSrc r < recDst r + n) && decide (recDst r < recSrc r + n))

/-- Whether an address that a gate or a done write uses lies in the HBM or host-coherent region (R333). -/
def State.wordIn (s : State) (p : Nat) (w : Snap) (addr : Nat) : Bool := match s.regionFor p w addr with
  | .hbm => true
  | .hc => true
  | _ => false

/-- The first address of a record that lies outside the regions it may use (R334). -/
def State.recordOutside (s : State) (p : Nat) (w : Snap) (r : Nat) : Option Nat :=
  let n := recLength r
  if !s.rangeIn p w (recSrc r) n then some (recSrc r)
  else if recOp r = 1 ∧ !s.rangeIn p w (recDst r) n then some (recDst r)
  else if recGate r ∧ !s.wordIn p w (recGateAddr r) then some (recGateAddr r)
  else if recDoneAddr r ≠ 0 ∧ !s.wordIn p w (recDoneAddr r) then some (recDoneAddr r)
  else none

/-! A courier's accesses to memory (R322, R330, R331, R335, R341). -/

/-- Whether a line is served by its home without memory: resident, waiting in its side buffer, or not of memory at all. -/
def State.atHome (s : State) (p line : Nat) : Bool :=
  let x := s.slice (s.homeDie p line)
  decide (hcStart ≤ 128 * line) || (x.line? (s.setOf line) line false).isSome || (x.sideData line).isSome

/-- The reads of a line of HBM for a courier (R318, R322, R323): re-reads that pass are recorded, three failures poison the line. -/
def State.crTries (s : State) (p line : Nat) (x : MemReads) : State :=
  let r := readTries (s.lineCode p line) (x.hbm.take 3)
  if r.1 = 3 then
    s.poisonLine p line { part := p, line := line, isWrite := false, mask := 0, data := 0, dead := false, fails := 3, bits := r.2, through := false }
  else if r.1 = 0 then s
  else s.rereadPassed p line r.2

/-- A line of memory that a courier reads: metered, read from HBM until its check words pass, or its far page verified on the way (R322, R330,
R331, R341). None when a regulator holds it. -/
def State.crAsk (s : State) (p sl line : Nat) (x : MemReads) : Option State :=
  if s.atHome p line then some s
  else match s.chargeLine p sl line with
    | none => none
    | some s =>
      let addr := 128 * line
      if addr < farStart then some (s.crTries p line x)
      else
        let port := s.farPort p ((addr - farStart) / 2 ^ 42)
        let page := (addr - farStart) % 2 ^ 42 / 4096
        if s.verifiedPage port ((addr - farStart) % 2 ^ 42) then some (s.touchPage port ((addr - farStart) % 2 ^ 42))
        else some (if x.tagFails.val < 3 ∧ s.pageGood p port page then s.keepPage port page else s.failPage port page)

/-- A line that a courier writes: metered, and its far page verified first unless it lies in the buffer (R330, R341). -/
def State.crAskWrite (s : State) (p sl line : Nat) (x : MemReads) : Option State :=
  if s.atHome p line then some s
  else if 128 * line < farStart then s.chargeLine p sl line
  else s.crAsk p sl line x

/-- A word of at most one line read at its home for a courier: of a host-coherent line that is not resident, the host's bytes; a dead line reads
as zeros and is recorded (R273, R323, R336). -/
def State.crWord (s : State) (c p addr n : Nat) : FillCode × Nat × State :=
  let line := addr / 128
  let resident := ((s.slice (s.homeDie p line)).line? (s.setOf line) line false).isSome
  if hcStart ≤ addr ∧ !resident then
    let (data, s) := s.hostLine
    (.live, lineBytes data (addr % 128) n, s)
  else
    let s := s.closeFor p line
    match s.lineNow p line with
    | (.live, data) => (.live, lineBytes data (addr % 128) n, s)
    | (.dead, _) => (.dead, 0, s.deadRead (s.homeDie p line) p addr (courierSource c))
    | (code, _) => (code, 0, s)

/-- A courier whose next access a regulator holds is offered again at the next tick (R341). -/
def State.holdCourier (s : State) (c : Nat) : State := if s.held.contains (.courier c) then s else { s with held := s.held ++ [.courier c] }

/-! Records and gates. -/

/-- Whether a gate's condition holds for a word (R336). -/
def gateOpen (word value : W32) : Bool := decide ((word - value).toNat < 2 ^ 31)

/-- A courier tries its gate (R323, R336): it starts its record, waits at the gate, or stops where the word is poisoned. -/
def State.tryGate (s : State) (c : Nat) (x : MemReads) : State :=
  let cr := s.courier c
  let addr := cr.gateAddr.toNat
  if !cr.gateEn then s.setCourier c { cr with st := .running, started := true }
  else match s.crAsk cr.part cr.slice (addr / 128) x with
    | none => (s.setCourier c { cr with st := .gated }).holdCourier c
    | some s => match s.crWord c cr.part addr 4 with
      | (.poisoned, _, s) => s.crPoison c cr.part addr
      | (_, word, s) =>
        if gateOpen (BitVec.ofNat 32 word) cr.gateValue then s.setCourier c { cr with st := .running, started := true }
        else s.setCourier c { cr with st := .gated }

/-- A record read, and begun, held at its gate, or ended with a status (R333, R334, R336). -/
def State.recordStart (s : State) (c : Nat) (x : MemReads) : State :=
  let cr := s.courier c
  let p := cr.part
  let w := s.courierSnap c
  let at' := cr.record.toNat
  let s := s.setCourier c { cr with status := 0, done := 0, total := 0, doneAddr := 0, next := 0, flush := 0, page := [] }
  if cr.cancel then s.crStop c 4
  else if at' % 64 ≠ 0 then s.crStop c 5
  else if s.regionFor p w at' ≠ .hbm then (s.courierFault c 0x0104 at' [0, 0, 0, 0, 0]).crStop c 2
  else match s.crAsk p cr.slice (at' / 128) x with
  | none => s.holdCourier c
  | some s =>
    let s := s.closeFor p (at' / 128)
    match s.lineNow p (at' / 128) with
    | (.poisoned, _) => s.crPoison c p at'
    | (code, data) =>
      let s := if code = .dead then s.deadRead (s.homeDie p (at' / 128)) p at' (courierSource c) else s
      let r := if code = .dead then 0 else lineBytes data (at' % 128) 64
      let doneAddr := if recDoneAddr r % 8 = 0 ∧ s.wordIn p w (recDoneAddr r) then recDoneAddr r else 0
      let cr := { s.courier c with
        op := recOp r, gateEn := recGate r, doneSys := bitAt r 9, gateValue := BitVec.ofNat 32 (bitsOf r 32 32),
        gateAddr := BitVec.ofNat 64 (recGateAddr r), src := BitVec.ofNat 64 (recSrc r), dst := BitVec.ofNat 64 (recDst r),
        total := recLength r / 128, doneAddr := BitVec.ofNat 64 doneAddr, doneValue := BitVec.ofNat 32 (bitsOf r 448 32),
        next := BitVec.ofNat 64 (recNext r) }
      let s := s.setCourier c cr
      if recordRefused r then s.crStop c 5
      else match s.recordOutside p w r with
        | some a => (s.courierFault c 0x0104 a [0, 0, 0, 0, 0]).crStop c 2
        | none =>
          if s.crDown p (recSrc r) ∨ (recOp r = 1 ∧ s.crDown p (recDst r)) then s.crStop c 3 else s.tryGate c x

/-- A courier's next record begun, where one stands before it. -/
def State.startNext (s : State) (c : Nat) (x : MemReads) : State :=
  let cr := s.courier c
  if cr.st = .running ∧ !cr.started ∧ !cr.holdNext ∧ !s.poisoned cr.part ∧ cr.pigeonhole = none then s.recordStart c x else s

/-- A gate read again; a cancelled chain ends instead (R336, R339). -/
def State.gateAgain (s : State) (c : Nat) (x : MemReads) : State :=
  let cr := s.courier c
  if cr.st ≠ .gated ∨ s.poisoned cr.part then s
  else if cr.cancel then s.crStop c 4
  else if cr.holdNext then s
  else s.tryGate c x

/-- COURIER_RECORD_START (R333, R334, R336); `reads` says how its reads of memory go. -/
def execCourierRecordStart (c : Fin 448) (reads : MemReads) (s : State) : Host.Outcome State Fault Refusal := next (s.startNext c.val reads)

/-- COURIER_GATE_REREAD (R336): the word at the gate read again. -/
def execCourierGateReread (c : Fin 448) (reads : MemReads) (s : State) : Host.Outcome State Fault Refusal := next (s.gateAgain c.val reads)

/-! One line of a courier (R334, R335, R339, R341). -/

/-- Whether a line that a courier's record writes belongs to a far page, poisoned or with a tag that fails, that the record writes whole and of
which no line is resident (R331): its lines are held until the last has come. -/
def State.renews (s : State) (cr : Courier) (dst : Nat) : Bool :=
  let page := dst / 4096 * 4096
  let off := (dst - farStart) % 2 ^ 42
  let port := s.farPort cr.part ((dst - farStart) / 2 ^ 42)
  decide (farStart ≤ dst ∧ dst < hcStart ∧ cr.dst.toNat ≤ page ∧ page + 4096 ≤ cr.dst.toNat + 128 * cr.total) &&
    (!cr.page.isEmpty || decide (dst % 4096 = 0)) && !s.verifiedPage port off && !s.pageGood cr.part port (off / 4096) &&
    (List.range 32).all (fun i => !s.atHome cr.part (page / 128 + i))

/-- A whole far page written by a courier: it has a new tag, and is no longer poisoned (R331). -/
def State.renewPage (s : State) (p dst : Nat) (lines : List (Nat × LineData)) : State :=
  let off := (dst - farStart) % 2 ^ 42 / 4096 * 4096
  let j := (dst - farStart) / 2 ^ 42
  let port := s.farPort p j
  let s := s.putPage port off { owner := s.farOwner p, index := j, dead := BitVec.allOnes 32, poisoned := false, tag := 0 }
  lines.foldl (fun s e => s.updateLine p e.1 e.2 fullMask) (s.keepPage port (off / 4096))

/-- The lines of a far page that a courier held and then did not write whole: smaller writes to a poisoned page, which are dropped (R331). -/
def State.dropHeld (s : State) (c : Nat) : State :=
  let cr := s.courier c
  if cr.page.isEmpty then s
  else cr.page.foldl (fun s e => s.dropWrite cr.part e.1) (s.setCourier c { cr with page := [] })

/-- A line read for a courier: its bytes, or none when it answered as poisoned. -/
def State.crRead (s : State) (c p addr : Nat) : Option LineData × State :=
  let line := addr / 128
  let resident := ((s.slice (s.homeDie p line)).line? (s.setOf line) line false).isSome
  if hcStart ≤ addr ∧ (hostStart ≤ addr ∨ !resident) then
    let (data, s) := s.hostLine
    (some data, s)
  else
    let s := s.closeFor p line
    match s.lineNow p line with
    | (.live, data) => (some data, s)
    | (.dead, _) => (some 0, s.deadRead (s.homeDie p line) p addr (courierSource c))
    | (_, _) => (none, s)

/-- A whole line written for a courier (R335): at its home, through to memory when it is not resident, or to the host. -/
def State.crWrite (s : State) (c p sl addr : Nat) (data : LineData) : State :=
  let line := addr / 128
  if addr < hcStart then s.updateLine p line data fullMask
  else if addr < hostStart then s.hcWrite p sl ((s.courier c).work.getD 0) line (s.courierSnap c).pasid data fullMask
  else
    let (id, s) := s.newId
    s.hostWrite p ((s.courier c).work.getD 0) id sl (s.courierSnap c).pasid (addr - hostStart) data fullMask

/-- A line delivered into its home side buffer for a courier, as a prefetch delivers it, a pinned or spilled sum line closed first (R220, R229,
R269, R334). -/
def State.crSide (s : State) (p line : Nat) : State :=
  let s := s.closeFor p line
  let d := s.homeDie p line
  let x := s.slice d
  if hcStart ≤ 128 * line ∨ s.atHome p line ∨ x.misses.any (fun m => m.line == line) ∨ x.sidePend.contains line ∨ !s.missRoom d then s
  else match s.memNow p line with
    | (.live, data) => s.sideAdd d line data
    | _ => s

/-- A line counted as moved, delivered or killed. -/
def State.crMoved (s : State) (c : Nat) : State :=
  let cr := s.courier c
  let s := (s.setCourier c { cr with done := cr.done + 1 }).spend cr.part cr.slice (Config.activity 4 0)
  s.atBase (s.courierBase c) (fun s b => s.count (Reg.crLines b) 1)

/-- A line of a COPY at its destination (R331, R335): held where its far page is to be written whole, and the page written with its last line. -/
def State.crPut (s : State) (c dst : Nat) (data : LineData) : State :=
  let cr := s.courier c
  if s.renews cr dst then
    let lines := cr.page ++ [(dst / 128, data)]
    if lines.length = 32 then (s.setCourier c { cr with page := [] }).renewPage cr.part dst lines
    else s.setCourier c { cr with page := lines }
  else
    let s := s.dropHeld c
    let s := if hostStart ≤ dst then s.setCourier c { s.courier c with hostStored := true } else s
    s.crWrite c cr.part cr.slice dst data

/-- A courier's next line. -/
def State.courierLine (s : State) (c : Nat) (x : MemReads) : State :=
  let cr := s.courier c
  let p := cr.part
  let src := cr.src.toNat + 128 * cr.done
  let dst := cr.dst.toNat + 128 * cr.done
  if cr.st ≠ .running ∨ !cr.started ∨ cr.status ≠ 0 ∨ cr.total ≤ cr.done ∨ s.poisoned p then s
  else if cr.cancel then s.crStop c 4
  else if s.crDown p src ∨ (cr.op = 1 ∧ s.crDown p dst) then s.crStop c 3
  else if cr.op = 1 ∧ !s.hostUp p ∧ (hostStart ≤ src ∨ hostStart ≤ dst) then (s.courierFault c 0x0602 (max src dst) []).crStop c 6
  else if cr.op = 3 then (if src < hcStart then s.killLineAt p (src / 128) else s).crMoved c
  else if cr.op = 2 then
    match (if src < hcStart then s.crAsk p cr.slice (src / 128) x else some s) with
    | none => s.holdCourier c
    | some s => (s.crSide p (src / 128)).crMoved c
  else if (!s.hostRoom p && decide (hostStart ≤ dst)) || (!s.mayAsk p && (decide (hostStart ≤ src) || decide (hcStart ≤ dst))) then s
  else
    match (s.crAsk p cr.slice (src / 128) x).bind (fun t =>
      if t.renews cr dst then t.chargeLine p cr.slice (dst / 128) else t.crAskWrite p cr.slice (dst / 128) { x with tagFails := 0 }) with
    | none => s.holdCourier c
    | some t => match t.crRead c p src with
      | (none, t) => t.crPoison c p src
      | (some data, t) => (t.crPut c dst data).crMoved c

/-- Whether a courier's next line is read at its home now. -/
def State.crReads (s : State) (c : Nat) : Bool :=
  let cr := s.courier c
  cr.st == .running && cr.started && cr.status == 0 && decide (cr.done < cr.total) && !s.poisoned cr.part && !cr.cancel &&
    decide (cr.src.toNat + 128 * cr.done < hcStart)

/-- COURIER_LINE (R277, R334, R335, R339); `reads` says how its reads of memory go, `upset` where those at the home find a parity error. -/
def execCourierLine (c : Fin 448) (reads : MemReads) (upset : Option HomeUpset) (s : State) : Host.Outcome State Fault Refusal :=
  let cr := s.courier c.val
  let line := (cr.src.toNat + 128 * cr.done) / 128
  next (if s.crReads c.val then
      (s.withUpset (s.homeDie cr.part line) cr.part (if cr.op = 3 then some line else none) upset (fun s => s.courierLine c.val reads)).progressAll
    else (s.courierLine c.val reads).progressAll)

/-! Chains. -/

/-- Whether an entry's AFTER condition holds it (R405). -/
def State.afterHeld (s : State) (k : Work) : Bool :=
  k.after && s.works.any (fun j => j.port == k.port && j.mailbag == k.mailbag && decide (j.id < k.id) && !s.receipted j)

/-- Whether an entry's slice is quiesced or being quiesced (R418). -/
def State.quiesced (s : State) (k : Work) : Bool := s.bit (Reg.saveCtl k.port k.slice) 0

/-- The courier a CHAIN entry names (R394), and its first record. -/
def Work.courier (k : Work) : Nat := k.u16 0x10 - 0x300
def Work.chainRecord (k : Work) : W64 := BitVec.ofNat 64 (bitsOf k.entry.toNat (8 * 0x18) 64)

/-- Whether a courier is free to take a chain. -/
def Courier.free (x : Courier) : Bool := x.work.isNone && x.pigeonhole.isNone

/-- A chain given to its courier (R395). -/
def State.startChain (s : State) (k : Work) : State :=
  let c := k.courier
  let s := s.modWork k.id (fun k => { k with phase := .running })
  s.setCourier c { Courier.reset with st := .running, part := k.part, slice := k.slice, work := some k.id, record := k.chainRecord,
                                      lastStatus := (s.courier c).lastStatus }

/-- Every waiting chain that may start now, in take order, each on its courier when that is free (R395, R405). -/
def State.startChains (s : State) : State :=
  (s.works.filter (fun k => k.type == 2 && k.phase == .waiting)).foldl (fun s k =>
    if s.afterHeld k ∨ s.quiesced k ∨ s.partState k.part ≠ 2 ∨ s.poisoned k.part ∨ !(s.courier k.courier).free then s else s.startChain k) s

/-- The far-tier place and the HBM place of part j of a pigeonhole's image (R450, R451). -/
def State.phFar (s : State) (p h j : Nat) : Nat := match Tab.get (s.part p).pigeonholes h with
  | some x => farStart + j * 2 ^ 42 + x.farOffset.toNat
  | none => farStart
def State.phBase (s : State) (p h : Nat) : Nat := gib * s.field (Reg.phArea p) 0 16 + 2 ^ 28 * s.field (Reg.phState p h) 19 13

/-- The pigeonhole table, and n bytes of a panel-written field of descriptor h written (R448, R449). -/
def State.phTable (s : State) (p : Nat) : Nat := (s.reg (Reg.phTableHi p)).toNat * 2 ^ 32 + (s.reg (Reg.phTableLo p)).toNat / 4096 * 4096
def State.phWrite (s : State) (p h off n v : Nat) : State := s.writeWord p (s.phTable p + 64 * h + off) n v

/-- STATE of a pigeonhole changed, in its register and in its descriptor (R449, R458). -/
def State.phTo (s : State) (p h st : Nat) : State := (s.setField (Reg.phState p h) 0 3 st).phWrite p h 0x34 1 st

/-- The courier that copies part j (R452), the warm delivery being part n on the first of them. -/
def State.phCourier (s : State) (p j : Nat) : Nat := 384 + 8 * (s.partK0 p + (if j < s.partN p then j else 0)) + 7

/-- A part of a pigeonhole's image begun on its courier: in from the far tier, back to it, or the warm delivery (R452, R455). -/
def State.startPhPart (s : State) (p h j : Nat) : State :=
  match Tab.get (s.part p).pigeonholes h with
  | none => s
  | some x =>
    let n := s.partN p
    let size := x.size.toNat / n
    let far := s.phFar p h j
    let hbm := s.phBase p h + j * size
    let back := s.field (Reg.phState p h) 0 3 = 4
    let y := s.part p
    let s := s.setPart p { y with pigeonholes := Tab.put y.pigeonholes h { x with todo := x.todo.filter (· != j) } }
    let c := s.phCourier p j
    let old := (s.courier c).lastStatus
    let job : Courier := { Courier.reset with st := .running, part := p, started := true, pigeonhole := some h, lastStatus := old }
    s.setCourier c (if j = n then { job with op := 2, src := BitVec.ofNat 64 (s.phBase p h), total := x.warm.toNat / 128 }
      else { job with op := 1, src := BitVec.ofNat 64 (if back then hbm else far), dst := BitVec.ofNat 64 (if back then far else hbm),
                      total := size / 128 })

/-- Every part of a pigeonhole image that waits for its courier, begun where the courier is free. -/
def State.startPhParts (s : State) (p : Nat) : State :=
  (s.part p).pigeonholes.foldl (fun s e => e.2.todo.foldl (fun s j => if (s.courier (s.phCourier p j)).free then s.startPhPart p e.1 j else s) s) s

/-- A part of a pigeonhole's image copied; after the last, its first bytes are delivered to the side buffers (R452). -/
def State.phPartDone (s : State) (p h : Nat) : State :=
  let y := s.part p
  match Tab.get y.pigeonholes h with
  | none => s
  | some x =>
    let left := x.partsLeft - 1
    let warm := left = 0 ∧ !x.warming ∧ x.warm ≠ 0 ∧ s.field (Reg.phState p h) 0 3 = 2
    let x := if warm then { x with partsLeft := 1, warming := true, todo := [s.partN p] } else { x with partsLeft := left }
    (s.setPart p { y with pigeonholes := Tab.put y.pigeonholes h x }).startPhParts p

/-- A pigeonhole FAILED (R457): the launches queued for it are refused, and the management entry that waits for it is answered. -/
def State.phFail (s : State) (p h : Nat) : State :=
  let y := s.part p
  let waiting := ((Tab.get y.pigeonholes h).map (·.waiting)).getD []
  let s := s.setPart p { y with pigeonholes := (y.pigeonholes.map (fun e => if e.1 = h then
    (e.1, { e.2 with todo := [], partsLeft := 0, warming := false, waiting := [], pinAfter := false, decided := false }) else e)), phWanted := y.phWanted.filter (· != h) }
  let s := (((s.phTo p h 5).setField (Reg.phState p h) 19 13 0x1FFF).phWrite p h 0x20 8 (2 ^ 64 - 1)).setBit (Reg.partStatus p) 8
  let s := (s.works.filter (fun k => k.part == p && k.type == 1 && k.phase == .queued && k.pigeonhole == h)).foldl (fun s k => s.refuse k.id 0x52) s
  waiting.foldl (fun s id => s.serve1 id 2) s

/-- The receipt of a chain that ended (R338, R399, R406, R516): SERVED, CANCELLED, or FAULTED with the fault its status stands for. -/
def chainReceipt (k : Work) (c status : Nat) (record : W64) : Receipt :=
  let code := match status with
    | 1 => 0x20405
    | 2 => 0x20104
    | 3 => 0x10408
    | 6 => 0x20603
    | _ => 0
  let detail := record &&& ~~~(0xFF : W64) ||| BitVec.ofNat 64 status
  if status = 0 then { k.receipt true 1 0 with detail := detail }
  else if status = 4 then { k.receipt true 5 (if k.why = some .dissolve then 0x300 else 0) with detail := detail }
  else { k.receipt true 6 0 with fault := BitVec.ofNat 32 code, unit := unitCourier (courierSource c), detail := detail }

/-- A courier's job ended: its entry has its final receipt, or its pigeonhole goes on or fails, and the next chain may start. -/
def State.endChain (s : State) (c status : Nat) : State :=
  let cr := s.courier c
  let s := s.setCourier c { Courier.reset with st := if status = 0 then .idle else .stopped, record := cr.record, lastStatus := status }
  let s := if status = 0 then s else s.atBase (s.courierBase c) (fun s b => s.setBit (Reg.crState b) 31)
  let s := match cr.pigeonhole, cr.work.bind s.work with
    | some h, _ => if status = 0 then s.phPartDone cr.part h else s.phFail cr.part h
    | none, some k => s.finish k.id false (fun k => chainReceipt k c status cr.record)
    | none, none => s
  (s.startPhParts cr.part).startChains

/-- Whether a done write of scope sys has to wait for a flush read of its chain's host writes (R308, R337): whether it must be asked for,
or is awaited. -/
def State.crFlush (s : State) (cr : Courier) : Bool :=
  cr.doneSys && cr.doneAddr != 0 && cr.hostStored && cr.flush != 2 && !s.follows cr.part

/-- The done write of a record (R337): DONE_VALUE and the status, at its home. -/
def State.doneWrite (s : State) (cr : Courier) : State :=
  let v := cr.doneValue.toNat + cr.status * 2 ^ 32
  let addr := cr.doneAddr.toNat
  if addr = 0 then s
  else if hcStart ≤ addr then s.writeHc cr.part cr.slice (cr.work.getD 0) addr 8 v
  else s.writeWord cr.part addr 8 v

/-- A record at its point of completion: its done write, then the next record, or the end of the chain (R337 to R339). -/
def State.recordDone (s : State) (c : Nat) : State :=
  let cr := s.courier c
  if !cr.started ∨ cr.st ≠ .running ∨ (cr.status = 0 ∧ cr.done < cr.total) ∨ s.poisoned cr.part then s
  else if hcStart ≤ cr.doneAddr.toNat ∧ !s.mayAsk cr.part then s
  else if !cr.page.isEmpty then s.dropHeld c
  else if s.crFlush cr then
    if cr.flush = 1 then s
    else
      (s.setCourier c { cr with flush := 1 }).askFlush cr.part (courierSource c) 0 0 cr.slice (s.courierSnap c).pasid
  else match (if cr.doneAddr = 0 then some s else s.crAskWrite cr.part cr.slice (cr.doneAddr.toNat / 128) { hbm := [], tagFails := 0 }) with
  | none => s.holdCourier c
  | some s =>
    let s := s.doneWrite cr
    if cr.status ≠ 0 then s.endChain c cr.status
    else if cr.next = 0 then s.endChain c 0
    else s.setCourier c { cr with record := cr.next, started := false, lastStatus := 0 }

/-- COURIER_RECORD_DONE (R337, R338). -/
def execCourierRecordDone (c : Fin 448) (s : State) : Host.Outcome State Fault Refusal := next (s.recordDone c.val)

/-! The regulators' tick. -/

/-- An enabled bucket's level after a tick (R341). -/
def State.refill (s : State) (a : Nat) : State :=
  let rate := s.field a 0 24
  let depth : Int := 16 * s.field (a + 4) 0 24
  let level := (s.reg (a + 8)).toInt
  s.setReg (a + 8) (BitVec.ofInt 32 (min (level + rate) depth))

/-- What a regulator held offered again (R341). -/
def State.offer (s : State) (h : Held) : State :=
  match h with
  | .courier c =>
    let none' : MemReads := { hbm := [], tagFails := 0 }
    let cr := s.courier c
    if cr.st = .gated then s.gateAgain c none'
    else if !cr.started then s.startNext c none'
    else if cr.status = 0 ∧ cr.done < cr.total then s.courierLine c none'
    else s.recordDone c
  | .message m => s.sendPair m
  | .request id =>
    match s.reqs.find? (fun r => r.id == id) with
    | none => s
    | some r =>
      match s.headReq r.part r.line with
      | some q => if q.id ≠ id then s else if r.kind = .ledger then s.contribution r.part r.line 0 else s.homeAccess r.part r.line
      | none => s

/-- REGULATOR_TICK (R341): every enabled bucket refilled, and what is held offered again in its order. -/
def execRegulatorTick (s : State) : Host.Outcome State Fault Refusal :=
  let rates := (s.regs.filter (fun e => decide (0x9000 ≤ e.1) && decide (e.1 < 0xF000) && e.1 % 16 == 0 && e.2.getLsbD 31)).map (·.1)
  let s := rates.foldl State.refill { s with granted := [] }
  let held := s.held
  next (held.foldl State.offer { s with held := [] })

end Sys2Proof.Machine
end

