-- ==== Sys2Proof/WellFormed.lean ====
section
/-! DEFINITION. What a command must satisfy beyond the types of its operands to be one the outside can send: reports and records that name
each unit once, and messages no longer than the spec lets them be. Every meaning is total on ill-formed commands too; a well-formed
command is one the spec speaks of. -/

namespace Sys2Proof

/-- No value stands twice in a list. -/
def distinct {α : Type} [DecidableEq α] : List α → Bool
  | [] => true
  | x :: xs => decide (x ∉ xs) && distinct xs

/-- TYPE and MASKED of a packet's header (R351). -/
def Packet.type (p : Packet) : Nat := p.header.toNat % 16
def Packet.masked (p : Packet) : Bool := p.header.getLsbD 62

/-- Whether a type carries a line: read responses and writes, and atomics with their responses (R351; DESIGN CHOICE for the last two, log
entry 93). -/
def Packet.carriesLine (p : Packet) : Bool := p.type == 2 || p.type == 3 || p.type == 5 || p.type == 6

/-- The beats between header and trailer: two of byte mask when MASKED is 1, 16 of data when the type carries a line (R351). -/
def Packet.wf (p : Packet) : Bool := p.body.length == (if p.masked then 2 else 0) + if p.carriesLine then 16 else 0

/-- A save record names each mailbag once (R420). -/
def SaveRec.wf (r : SaveRec) : Bool := distinct (r.mailbags.map fun m => m.mailbag)

/-- What the leader sends at a join names each mailbag and each pigeonhole once (R540). -/
def JoinState.wf (j : JoinState) : Bool := distinct (j.counts.map fun c => c.m) && distinct (j.holes.map fun h => h.h)

/-- The margin reports of one retuning name each die once (R590). -/
def reportsWf (reports : List MarginRep) : Bool := distinct (reports.map fun r => r.die)

/-- Whether a command is one that the outside can send. -/
def Instr.wf : Instr → Bool
  | .packetReceive _ _ _ pkt => pkt.wf
  | .tuningDone fails => distinct fails
  | .sliceRestore _ _ r => r.wf
  | .joinCopyDone _ sent => sent.wf
  | .governorInterval obs memory => distinct (obs.map fun o => o.die) && distinct (memory.map fun m => m.1)
  | .retuneDone reports => reportsWf reports
  | .startMarginDone reports => reportsWf reports
  | .fwData _ data => decide (data.length ≤ 1024)
  | .nop .. | .exitOp .. | .yield .. | .phase .. | .timeRead .. | .trap .. | .brk .. | .movSr .. | .bra .. | .brx .. | .call ..
  | .leaPc .. | .fpflagsClr .. | .barSync .. | .barArrive .. | .addOp .. | .subOp .. | .mulLo .. | .mulHi .. | .madLo ..
  | .divOp .. | .rem .. | .minOp .. | .maxOp .. | .absOp .. | .negOp .. | .andOp .. | .orOp .. | .xorOp .. | .notOp ..
  | .shl .. | .shr .. | .sar .. | .popc .. | .clz .. | .brev .. | .bfe .. | .bfi .. | .setp .. | .selp .. | .mov .. | .cvt ..
  | .plop .. | .addF32 .. | .subF32 .. | .mulF32 .. | .fmaF32 .. | .minF32 .. | .maxF32 .. | .absF32 .. | .negF32 ..
  | .rcpF32 .. | .rsqrtF32 .. | .sqrtF32 .. | .ex2F32 .. | .lg2F32 .. | .setpF32 .. | .addBf16x2 .. | .mulBf16x2 ..
  | .fmaBf16x2 .. | .minBf16x2 .. | .maxBf16x2 .. | .addF16x2 .. | .mulF16x2 .. | .fmaF16x2 .. | .minF16x2 .. | .maxF16x2 ..
  | .mma .. | .mmaLedger .. | .ltileOpen .. | .ltileFlush .. | .ltileRead .. | .ltileWrite .. | .ltileStat .. | .ltileClose ..
  | .cvtPack .. | .cvtUnpack .. | .mxScale .. | .shflIdx .. | .shflXor .. | .shflUp .. | .shflDown .. | .voteAll ..
  | .voteAny .. | .voteBallot .. | .ld .. | .ldAcq .. | .ldLast .. | .st .. | .stRel .. | .fence .. | .prefetch ..
  | .killLine .. | .atomAdd .. | .atomMin .. | .atomMax .. | .atomAnd .. | .atomOr .. | .atomXor .. | .atomExch ..
  | .atomCas .. | .redAdd .. | .redMin .. | .redMax .. | .redAnd .. | .redOr .. | .redXor .. | .redAddLedger ..
  | .schedulerIssue .. | .reconvergenceTimeout .. | .barrierDeadlock .. | .yieldOverdue .. | .blockAccept ..
  | .lsBanksChange .. | .reconfigDone .. | .residueRecompute .. | .homeAccess .. | .sumLineContribution ..
  | .spillBucketReadDone .. | .fillArrive .. | .homeWriteAck .. | .sideBufferFill .. | .cacheInvalidateDone ..
  | .hbmReadDone .. | .hbmReread .. | .pageRetireDone .. | .sectorMergeWrite .. | .hbmLaneRemapped .. | .hbmTrainingDone ..
  | .farPageReadDone .. | .farUnavailable .. | .courierRecordStart .. | .courierLine .. | .courierGateReread ..
  | .courierRecordDone .. | .regulatorTick .. | .retry .. | .packetAcknowledgement .. | .beacon .. | .neighbourLost ..
  | .laneSpared .. | .rerouted .. | .transitFrame .. | .transitEgress .. | .transitSlotWrite .. | .timebaseTick ..
  | .timebaseBroadcast .. | .windowBoundary .. | .tbRefLost .. | .tbRefReturn .. | .timebaseLock .. | .tbNowLoRead ..
  | .dlTimeLoRead .. | .deadAddrLoRead .. | .parityAddrLoRead .. | .poisonAddrLoRead .. | .crRecordLoRead ..
  | .ptmLocalLoRead .. | .rateFloor .. | .rateModeWrite .. | .registerWrite .. | .mailbagTail .. | .receiptHead ..
  | .mailbagEnable .. | .entryTake .. | .entryReadDone .. | .entryReadError .. | .launch .. | .chain .. | .cancel ..
  | .preempt .. | .mgmt .. | .marker .. | .mgmtBusyTimeout .. | .receiptWrite .. | .tailWordWrite .. | .hostFlushReadDone ..
  | .hostReadError .. | .hostLinkDown .. | .linkLost .. | .functionLevelReset .. | .configRequest .. | .ptmDialog ..
  | .hcCtlEn .. | .cxlSnoop .. | .sliceConfigWrite .. | .dirtyPageLog .. | .swap .. | .swapDone .. | .quiesce .. | .quiesced ..
  | .sliceSave .. | .partForm .. | .formDone .. | .partDissolve .. | .dissolved .. | .partStopping .. | .partStopped ..
  | .partRestartRequest .. | .restartCensus .. | .restartDone .. | .dispatchOffer .. | .launchStopped .. | .partConfig ..
  | .partRestart .. | .phSetup .. | .phDefine .. | .phForget .. | .phLoad .. | .phPin .. | .phUnpin .. | .phEvict ..
  | .phLoadDone .. | .phWritebackDone .. | .getVersion .. | .getCapabilities .. | .negotiateAlgorithms .. | .getDigests ..
  | .getCertificate .. | .challenge .. | .getMeasurements .. | .keyExchange .. | .finish .. | .heartbeat .. | .keyUpdate ..
  | .endSession .. | .envelope .. | .debugGrant .. | .grantEnded .. | .onpanelScrubDone .. | .hbmScrubDone .. | .farScrub ..
  | .farStart .. | .farScrubDone .. | .postmasterRestart .. | .faultRecordWrite .. | .frEnable .. | .frHead .. | .pop ..
  | .kick .. | .clearDropped .. | .retireAck .. | .watchdog .. | .edgeDieLost .. | .mgdLost .. | .refclkLoss .. | .pairJoin ..
  | .pairDigest .. | .pairLeave .. | .pairStatus .. | .pairEntry .. | .entryAck .. | .pairDone .. | .receipted ..
  | .phDecision .. | .pairLine .. | .digest .. | .digestResult .. | .failover .. | .pairAccept .. | .pairRefuse ..
  | .withdraw .. | .pairHeartbeat .. | .pairJoinMsg .. | .pairMessageTagFail .. | .pairLinkRetrain .. | .leaseWrite ..
  | .leaseLost .. | .leasePoll .. | .fencedTimeout .. | .pwrAlert .. | .pwrAlertRelease .. | .alertHoldEnd ..
  | .junctionSample .. | .thermalTrip .. | .ibcFault .. | .pwrModuleBudgetWrite .. | .partBudgetWrite .. | .rateConfig ..
  | .energyRead .. | .retuneStart .. | .supplySlewDone .. | .panelStart .. | .startTrustDone .. | .startEdgeDone ..
  | .startPostmasterDone .. | .siteTestDone .. | .census .. | .startFarDone .. | .panelReady .. | .modReset ..
  | .modPresentRemoved .. | .inputOutOfRange .. | .prechargeDone .. | .converterEnable .. | .prechargeHoldoffEnd .. | .perst ..
  | .sliceRst .. | .expanderInserted .. | .expanderRemoved .. | .farRelease .. | .farAttach .. | .dbgHello .. | .dbgOpen ..
  | .haltGroup .. | .haltLaunch .. | .dbgStep .. | .resume .. | .breakSet .. | .events .. | .readGroup .. | .readTile ..
  | .readLocal .. | .writeGroup .. | .writeTile .. | .writeLocal .. | .readMem .. | .writeMem .. | .dbgClose ..
  | .mgmtWindowAddress .. | .mgmtWindowRead .. | .operatorRead .. | .operatorWrite .. | .fwEnd .. | .pmRestart ..
  | .secCommit .. | .pairLinkUp .. | .perstRelease .. | .tbHoldoverStart .. | .prechargeBegin .. | .moduleSeated .. | .ideKm ..
  | .setdasa .. => true

end Sys2Proof
end

