-- ==== Sys2Proof/Machine/Links.lean ====
section
/-! DEFINITION. Courses and strings: attachments and routes (R347 to R358), packets and retries (R351, R352), transit (R359 to R362, R478,
R479), tuning and sparing (R363 to R367), and the loss of a neighbour (R368 to R370). -/

namespace Sys2Proof.Machine

/-! Attachments and routes. Units are coded as DEST; courses are 0 north, 1 east, 2 south, 3 west. -/

/-- The unit at the far end of a course (R347, R354); 127 when it is unattached. -/
def farUnit (site c : Nat) : Nat :=
  match c with
  | 0 => if 9 ≤ site then site - 9 else if site < 4 then 116 else if site = 4 then 127 else 117
  | 1 => if siteCol site < 8 then site + 1 else 109 + 2 * siteBand site
  | 2 => if site < 99 then site + 9 else 118
  | _ => if 0 < siteCol site then site - 1 else 108 + 2 * siteBand site

/-- The facing course. -/
def facing (c : Nat) : Nat := (c + 2) % 4

/-- Hops along a column and along a row, each the site left and the course taken. -/
def vert (col r1 r2 : Nat) : List (Nat × Nat) :=
  if r1 ≤ r2 then (List.range (r2 - r1)).map (fun i => (9 * (r1 + i) + col, 2)) else (List.range (r1 - r2)).map (fun i => (9 * (r1 - i) + col, 0))
def horiz (row c1 c2 : Nat) : List (Nat × Nat) :=
  if c1 ≤ c2 then (List.range (c2 - c1)).map (fun i => (9 * row + c1 + i, 1)) else (List.range (c1 - c2)).map (fun i => (9 * row + c1 - i, 3))

/-- A layout whose routes are asked for: its first sector and its count. -/
structure Layout where
  k0 : Nat
  n : Nat
  deriving DecidableEq, Repr

/-- Whether a layout holds a sector; a band in full. -/
def Layout.holds (l : Layout) (k : Nat) : Bool := decide (l.k0 ≤ k) && decide (k < l.k0 + l.n)
def Layout.fullBand (l : Layout) (b : Nat) : Bool := l.holds (2 * b) && l.holds (2 * b + 1)

/-- The half a site counts in: a spare in use in the half of its sector (R357). -/
def State.halfOf (s : State) (site : Nat) : Nat :=
  if siteCol site = 4 then (if s.siteState site = 1 then s.field (Reg.siteState site) 12 3 % 2 else 2) else if siteCol site < 4 then 0 else 1

/-- Whether the pass-through of a spare site is in service (R20, R367). -/
def State.passThrough (s : State) (row : Nat) : Bool :=
  (List.range 4).all (fun c => s.field (Reg.courseState (9 * row + 4) c) 8 3 != 4)

/-- The row of a full band with a pass-through in service nearest to a row, the lower on ties (R357). -/
def State.crossing (s : State) (l : Layout) (row : Nat) : Option Nat :=
  let rows := (List.range 12).filter (fun r => l.fullBand (r / 3) && s.passThrough r)
  (sortBy (fun r => max r row - min r row) rows).head?

/-- The hops from a site to a site within a layout (R357). -/
def State.siteRoute (s : State) (l : Layout) (a b : Nat) : List (Nat × Nat) :=
  let ra := siteRow a
  let ca := siteCol a
  let rb := siteRow b
  let cb := siteCol b
  if s.halfOf a = s.halfOf b then vert ca ra rb ++ horiz rb ca cb
  else match s.crossing l ra with
    | some r => vert ca ra r ++ horiz r ca cb ++ vert cb r rb
    | none => horiz ra ca 4 ++ vert 4 ra rb ++ horiz rb 4 cb

/-- The sites an edge die is attached at (R354). -/
def attachments (u : Nat) : List Nat :=
  if u < 116 then (List.range 3).map (fun i => 9 * (3 * ((u - 108) / 2) + i) + (if u % 2 = 0 then 0 else 8))
  else if u = 116 then [0, 1, 2, 3]
  else if u = 117 then [5, 6, 7, 8]
  else (List.range 9).map (· + 99)

/-- The course by which an edge die is reached from its attachments. -/
def edgeCourse (u : Nat) : Nat := if u < 116 then (if u % 2 = 0 then 3 else 1) else if u = 118 then 2 else 0

/-- The attachment an edge die uses for another end at a site (R357): the nearest column, or for a memory-interface die the nearest row. -/
def attachFor (u site : Nat) : Nat :=
  let far := fun a => if u < 116 then max (siteRow a) (siteRow site) - min (siteRow a) (siteRow site)
    else max (siteCol a) (siteCol site) - min (siteCol a) (siteCol site)
  (sortBy far (attachments u)).headD 0

/-- The hops of the route from a unit to a unit (R357). -/
def State.route (s : State) (l : Layout) (a b : Nat) : List (Nat × Nat) :=
  let last := fun (site : Nat) => if b < 108 then [] else [(site, edgeCourse b)]
  if a < 108 ∧ b < 108 then s.siteRoute l a b
  else if a < 108 then
    let e := attachFor b a
    s.siteRoute l a e ++ last e
  else if b < 108 then s.siteRoute l (attachFor a b) b
  else
    let pairs := (attachments a).flatMap (fun x => (attachments b).map (fun y => (x, y)))
    match sortBy (fun (e : Nat × Nat) => (s.siteRoute l e.1 e.2).length) pairs with
    | e :: _ => s.siteRoute l e.1 e.2 ++ last e.2
    | [] => []

/-- Whether a unit belongs to a layout bound to a port (R356). -/
def State.unitIn (s : State) (l : Layout) (port u : Nat) : Bool :=
  if u < 108 then
    if siteCol u = 4 then (s.siteState u == 1 && l.holds (s.field (Reg.siteState u) 12 3)) || l.fullBand (siteBand u)
    else l.holds (sectorOfSite u)
  else if u < 116 then l.holds (u - 108)
  else if u < 118 then decide (port < 6) && port / 3 == u - 116
  else u == 118

/-- Whether a course is shared: not both its ends belong to the layout (R358). -/
def State.shared (s : State) (l : Layout) (port : Nat) (h : Nat × Nat) : Bool :=
  !(s.unitIn l port h.1 && s.unitIn l port (farUnit h.1 h.2))

/-- The layout of a partition. -/
def State.layout (s : State) (p : Nat) : Layout := { k0 := s.partK0 p, n := if s.partSectors p = 0 then 0 else s.partN p }

/-- The units of a layout: the sites of its dies, its memory-interface dies, and the host-interface die of its port. -/
def State.layoutUnits (s : State) (l : Layout) (port : Nat) : List Nat :=
  ((List.range (12 * l.n)).filterMap (fun i => s.siteOf (12 * l.k0 + i))) ++ (List.range l.n).map (fun i => 108 + l.k0 + i) ++
    (if port < 6 then [116 + port / 3] else [])

/-- A site moved to the next column toward column 4, or away from it next to that column (R370). -/
def besideColumn (site : Nat) : Nat :=
  let c := siteCol site
  if c = 3 then site - 1 else if c = 5 then site + 1 else if c < 4 then site + 1 else if c = 4 then site else site - 1

/-- The alternate of a shared stretch (R370): its vertical hops one column over. -/
def alternate (hops : List (Nat × Nat)) : List (Nat × Nat) := hops.map (fun h => if h.2 = 0 ∨ h.2 = 2 then (besideColumn h.1, h.2) else h)

/-- The shared hops of a layout's routes, alternates included (R361): those between any two of its units, of which only the ways to its
host-interface die leave a layout that holds a full band. -/
def State.sharedHops (s : State) (l : Layout) (port : Nat) : List (Nat × Nat) :=
  let us := s.layoutUnits l port
  let full := (List.range 4).any l.fullBand
  let hid := if port < 6 then [116 + port / 3] else []
  let pairs := if full then us.flatMap (fun u => hid.flatMap (fun h => [(u, h), (h, u)])) else us.flatMap (fun u => us.map (fun v => (u, v)))
  let hops := (pairs.flatMap (fun e => (s.route l e.1 e.2).filter (s.shared l port))).eraseDups
  (hops ++ (alternate hops).filter (s.shared l port)).eraseDups

/-! Packets. -/

/-- A half before anything was sent on it. -/
def Half.reset : Half := { replay := [], base := 0, accepted := 0, discarding := false, resend := 0, sinceAck := 0, mismatches := [], control := [] }

/-- The key of the half that a die receives on a string of a course, and of the half it sends there. -/
def recvKey (site c str : Nat) : Nat := 128 * site + 32 * c + str
def sendKey (site c str : Nat) : Nat :=
  let u := farUnit site c
  if u < 108 then recvKey u (facing c) str else 20000 + recvKey site c str

/-- A half. -/
def State.half (s : State) (k : Nat) : Half := Tab.getD s.halves k Half.reset
def State.setHalf (s : State) (k : Nat) (h : Half) : State := { s with halves := Tab.put s.halves k h }

/-- The XOR of a list of beats; the parity of a beat. -/
def xorBeats (l : List (BitVec 64)) : BitVec 64 := l.foldl (fun x y => x ^^^ y) 0
def oddParity (x : BitVec 64) : Bool := (List.range 64).foldl (fun b i => xor b (x.getLsbD i)) false

/-- The trailer a packet should carry (R351). -/
def packetTrailer (k : Packet) : BitVec 64 := xorBeats (k.header :: k.body)

/-- Header fields (R351). -/
def packetPart (k : Packet) : Nat := bitsOf k.header.toNat 4 3
def packetDest (k : Packet) : Nat := bitsOf k.header.toNat 7 7
def packetSrc (k : Packet) : Nat := bitsOf k.header.toNat 14 7
def packetLine (k : Packet) : Nat := bitsOf k.header.toNat 21 41

/-- A link-control packet: a beacon, a retry or an acknowledgement with its count. -/
def controlPacket (type dest src : Nat) (count : Nat) : Packet :=
  let x := type + 7 * 2 ^ 4 + dest % 128 * 2 ^ 7 + src % 128 * 2 ^ 14 + count % 2 ^ 41 * 2 ^ 21
  let h : BitVec 64 := BitVec.ofNat 64 x
  let h := if oddParity h then h ||| BitVec.ofNat 64 (2 ^ 63) else h
  { header := h, body := [], trailer := h }

/-- A link-control packet sent by a die on a string of a course. -/
def State.sendControl (s : State) (site c str type count : Nat) : State :=
  let k := sendKey site c str
  let h := s.half k
  s.setHalf k { h with control := h.control ++ [controlPacket type (farUnit site c) site count] }

/-- The byte mask and the line that a packet carries (R351). -/
def packetMask (k : Packet) : ByteMask := if k.masked then k.body.getD 1 0 ++ k.body.getD 0 0 else fullMask
def packetData (k : Packet) : LineData :=
  let beats := (if k.masked then k.body.drop 2 else k.body).take 16
  BitVec.ofNat 1024 (beats.foldr (fun b n => b.toNat + 2 ^ 64 * n) 0)

/-- Strings of a course that are in service, with or without the transit role (R349, R353, R366). -/
def State.strings (s : State) (site c : Nat) (transit : Bool) : List Nat :=
  (List.range 32).filter (fun i => let m := Reg.lanemap site (32 * c + i)
                                   !s.bit m 18 && s.bit m 19 == transit)

/-- The strings of a course that carry ordinary packets: at a MID attachment the transit strings too, which carry the sector's own traffic (R353,
R355). -/
def State.dataStrings (s : State) (site c : Nat) : List Nat :=
  (List.range 32).filter (fun i => let m := Reg.lanemap site (32 * c + i)
                                   !s.bit m 18 && (!s.bit m 19 || (decide (108 ≤ farUnit site c) && decide (farUnit site c < 116))))

/-- A packet given to the string of a course that R353 chooses. -/
def State.sendString (s : State) (site c : Nat) (k : Packet) : State :=
  let l := s.dataStrings site c
  match l[((packetLine k) ^^^ (packetDest k)) % l.length]? with
  | none => s
  | some i =>
    let h := s.half (sendKey site c i)
    s.setHalf (sendKey site c i) { h with replay := h.replay ++ [k] }

/-- A packet for the ordinary strings of a course: it waits while a new count of strings is not yet in use there (R353). -/
def State.sendOrdinary (s : State) (site c : Nat) (k : Packet) : State := match Tab.get s.holds (4 * site + c) with
  | some l => { s with holds := Tab.put s.holds (4 * site + c) (l ++ [k]) }
  | none => s.sendString site c k

/-- New ordinary packets of a course stopped: what each of its halves has not sent yet waits with them (R353). -/
def State.holdCourse (s : State) (site c : Nat) : State :=
  let keys := (List.range 32).map (sendKey site c)
  let unsent := keys.flatMap (fun k => (s.half k).replay.drop 64)
  let old := (Tab.get s.holds (4 * site + c)).getD []
  let s := { s with holds := Tab.put s.holds (4 * site + c) (old ++ unsent) }
  keys.foldl (fun s k => match Tab.get s.halves k with
    | some h => s.setHalf k { h with replay := h.replay.take 64 }
    | none => s) s

/-- A course's new count of strings in use, and what waited sent by it, once every packet already sent has been acknowledged (R353). -/
def State.releaseCourse (s : State) (site c : Nat) : State := match Tab.get s.holds (4 * site + c) with
  | none => s
  | some l =>
    if (List.range 32).all (fun i => (s.half (sendKey site c i)).replay.isEmpty) then
      l.foldl (fun s k => s.sendString site c k) { s with holds := Tab.erase s.holds (4 * site + c) }
    else s

/-- A transit path before keying. -/
def TransitPath.reset : TransitPath :=
  { ready := [], nextSeq := 1, unacked := [], flight := [], resend := [], highest := 0, failedOnce := none, delivered := [], alternate := false }

/-- The key of the transit path of a partition from an ingress to an egress unit. -/
def transitKey (p ingress egress : Nat) : Nat := 16384 * p + 128 * ingress + egress

/-- The egress of the shared stretch that begins with a list of hops: the unit its last hop reaches. -/
def State.egressOf (s : State) (l : Layout) (port : Nat) : List (Nat × Nat) → Nat
  | [] => 127
  | h :: t => match t with
    | [] => farUnit h.1 h.2
    | k :: _ => if s.shared l port k then State.egressOf s l port t else farUnit h.1 h.2

/-- A packet accepted by a die passed on by the route of its partition, or delivered there (R357, R358, R360). -/
def State.forward (s : State) (site : Nat) (k : Packet) : State :=
  let p := packetPart k
  let l := s.layout p
  let port := s.partPort p
  if packetDest k = site then s
  else match (s.route l (packetSrc k) (packetDest k)).dropWhile (fun h => h.1 ≠ site) with
    | [] => s
    | h :: t =>
      if s.shared l port h then
        let key := transitKey p site (s.egressOf l port (h :: t))
        let x := Tab.getD s.transit key TransitPath.reset
        { s with transit := Tab.put s.transit key { x with ready := x.ready ++ [k] } }
      else s.sendOrdinary site h.2 k

/-- STATE of a course. -/
def State.courseOf (s : State) (site c : Nat) : Nat := s.field (Reg.courseState site c) 8 3

/-- Whether a course carries packets: up, or up at reduced width. -/
def State.courseUp (s : State) (site c : Nat) : Bool := s.courseOf site c == 2 || s.courseOf site c == 3

/-- A packet received by a half (R351, R352): one whose parity or trailer fails, or whose beats its header does not fit, is discarded with all
after it. -/
def State.receive (s : State) (site c str : Nat) (k : Packet) : State :=
  let key := recvKey site c str
  let h := s.half key
  if !s.courseUp site c ∨ s.bit (Reg.lanemap site (32 * c + str)) 18 ∨ h.discarding then s
  else
    let bad := packetTrailer k ^^^ k.trailer
    let mism := (List.range 64).foldl (fun t i => if bad.getLsbD i then Tab.modify t i 0 (· + 1) else t) h.mismatches
    if bad ≠ 0 ∨ oddParity k.header ∨ !k.wf then
      (s.setHalf key { h with mismatches := mism, discarding := true, resend := h.accepted }).sendControl site c str 0xA h.accepted
    else if k.type = 0x9 ∨ k.type = 0xA ∨ k.type = 0xC then s
    else
      let n := h.accepted + 1
      let ack := h.sinceAck + 1 = 16
      let s := s.setHalf key { h with accepted := n, sinceAck := if ack then 0 else h.sinceAck + 1 }
      let s := if ack then s.sendControl site c str 0xC n else s
      s.forward site k

/-- PACKET_RECEIVE (R351, R352). -/
def execPacketReceive (site : Fin 108) (course : Fin 4) (str : Fin 32) (pkt : Packet) (s : State) : Host.Outcome State Fault Refusal :=
  next (s.receive site.val course.val str.val pkt)

/-- RETRY (R352): the sender sends again from the first packet discarded, and the receiver takes packets again from there. A compute die that
discards asks for its first discarded packet; an edge die may ask for any of the packets sent and not acknowledged. -/
def execRetry (site : Fin 108) (course : Fin 4) (str : Fin 32) (count : BitVec 41) (s : State) : Host.Outcome State Fault Refusal :=
  let k := sendKey site.val course.val str.val
  let h := s.half k
  let asked := if farUnit site.val course.val < 108 then h.discarding && h.resend == count.toNat
    else decide (h.base ≤ count.toNat) && decide (count.toNat < h.base + min 64 h.replay.length)
  next (if !s.courseUp site.val course.val ∨ !asked then s
    else (s.setHalf k { h with discarding := false }).count (Reg.retries site.val course.val) 1)

/-- What a half has accepted since its last acknowledgement acknowledged: at least once per microsecond (R352). -/
def State.ackHalf (s : State) (key : Nat) : State :=
  let h := s.half key
  if h.sinceAck = 0 ∨ 20000 ≤ key then s
  else (s.setHalf key { h with sinceAck := 0 }).sendControl (key / 128) (key / 32 % 4) (key % 32) 0xC h.accepted

/-- PACKET_ACKNOWLEDGEMENT (R352, R353): the packets below the count are freed. -/
def execPacketAcknowledgement (site : Fin 108) (course : Fin 4) (str : Fin 32) (count : BitVec 41) (s : State) : Host.Outcome State Fault Refusal :=
  let k := sendKey site.val course.val str.val
  let h := s.half k
  let n := count.toNat - h.base
  next (if !s.courseUp site.val course.val ∨ n = 0 ∨ min 64 h.replay.length < n then s
    else (s.setHalf k { h with replay := h.replay.drop n, base := count.toNat }).releaseCourse site.val course.val)

/-- BEACON (R368): a half with nothing to send sends a beacon. -/
def execBeacon (site : Fin 108) (course : Fin 4) (str : Fin 32) (s : State) : Host.Outcome State Fault Refusal :=
  let k := sendKey site.val course.val str.val
  next (if !s.courseUp site.val course.val ∨ s.bit (Reg.lanemap site.val (32 * course.val + str.val)) 18 ∨ (s.half k).replay ≠ [] then s
    else
      let (i, s) := s.draw
      s.sendControl site.val course.val str.val 0x9 (Config.beaconCount i).toNat)

/-! Losses. -/

/-- The record register of a die's courses loaded, unless an event stands there (R372, R513). -/
def State.linkRecord (s : State) (site c str lane event : Nat) : State :=
  if s.field (Reg.courseStatus site) 0 4 = 0 then
    s.setReg (Reg.linkRec site) (BitVec.ofNat 32 (c + 4 * str + 128 * lane + 16384 * event))
  else s

/-- The record of a fault of a course (R503, R506): it belongs to a partition when both ends do. -/
def State.courseFault (s : State) (code site c word4 : Nat) : FaultRec :=
  let u := farUnit site c
  let own := (List.range 6).find? (fun p => s.partSectors p ≠ 0 && s.unitIn (s.layout p) (s.partPort p) site && s.unitIn (s.layout p) (s.partPort p) u)
  { FaultRec.plain code (unitDest site) (s.replica site) own with
    detail := [s.reg (Reg.linkRec site), s.reg (Reg.courseState site c), 0, 0, BitVec.ofNat 32 word4] }

/-- SITE_STATE of a site that holds no die in use. -/
def siteWord (site state : Nat) : W32 :=
  BitVec.ofNat 32 (state + (if site % 9 = 4 then 8 else 0) + 0x7F * 2 ^ 4 + 0x7F * 2 ^ 16)

/-- Whether a request returns data to its threads; the others wait for their home's acknowledgement. -/
def ReqKind.returns : ReqKind → Bool
  | .store => false
  | .red _ => false
  | .ledger => false
  | .kill => false
  | _ => true

/-- Requests in flight to or from a lost die, or by way of it, answered with error responses (R369): those that return data complete without it,
the others are never acknowledged, nor is what the lost home has acknowledged and has not arrived (R305). -/
def State.errorResponses (s : State) (p site : Nat) (die : Option Nat) : State :=
  let hit := fun (r : MemReq) => r.part == p &&
    (some (r.arr / 8) == die || some (s.homeDie p r.line) == die ||
      (match s.siteOf (r.arr / 8), s.siteOf (s.homeDie p r.line) with
        | some a, some b => (s.siteRoute (s.layout p) a b).any (fun h => h.1 == site)
        | _, _ => false))
  (s.reqs.filter hit).foldl (fun s r => if r.kind.returns then s.complete r else s)
    { s with reqs := s.reqs.filter (fun r => !hit r),
             writeAcks := s.writeAcks.filter (fun e => !((s.partArrays p).contains e.1 && some (s.homeDie p e.2.1) == die)) }

/-- The requests waiting on a lost die answered, where a partition holds it (R367). -/
def State.dieAnswered (s : State) (p : Option Nat) (site : Nat) (die : Option Nat) : State :=
  match p with
  | some p => s.errorResponses p site die
  | none => s

/-- A die declared lost (R367, R369, R520): fenced, its requests answered, DIE_LOST raised for the first declaration. A second
loss within one panel start retires the die (R521). -/
def State.dieLost (s : State) (site declared c : Nat) : State :=
  let st := s.siteState site
  if st ≠ 1 ∧ st ≠ 2 then s
  else
    let die := if st = 1 then some (s.siteDie site) else none
    let p := die.bind s.partOfDie
    let s := s.dieAnswered p site die
    let s := (s.setReg (Reg.siteState site) (siteWord site 5)).setBit (Reg.dfStatus site) 8
    let s := if siteCol site = 4 then s.clearBit Reg.censusState (16 + siteRow site) else s
    let s := s.setBit Reg.fltStatus 5
    let held := if siteCol site = 4 ∧ st = 1 then Tab.put s.faults.fencedAs site (die.getD 0) else s.faults.fencedAs
    let s := { s with faults := { s.faults with lostThisStart := Tab.modify s.faults.lostThisStart site 0 (· + 1), fencedAs := held } }
    let s := if 2 ≤ Tab.getD s.faults.lostThisStart site 0 then s.recordDie site else s
    s.raise { FaultRec.plain 0x0701 (unitDest site) (s.replica declared) p with
      detail := [BitVec.ofNat 32 site, BitVec.ofNat 32 declared, BitVec.ofNat 32 c, 0, 0] }

/-- NEIGHBOUR_LOST (R368, R369, R520): a course that was up declares its neighbour lost. -/
def execNeighbourLost (site : Fin 108) (course : Fin 4) (s : State) : Host.Outcome State Fault Refusal :=
  let site := site.val
  let c := course.val
  let u := farUnit site c
  next (if !s.courseUp site c then s
    else
      let s := s.linkRecord site c 0 0x7F 3
      let s := (s.setField (Reg.courseState site c) 8 3 5).setBit (Reg.courseStatus site) 3
      if u < 108 then s.dieLost u site c else s)

/-- The die a failed course counts as the loss of (R367). -/
def courseVictim (site c : Nat) : Nat :=
  let u := farUnit site c
  if 108 ≤ u then site
  else if siteCol site = 4 then site
  else if siteCol u = 4 then u
  else max site u

/-- Fewer strings than a course needs: 8, and for a south attachment, which has only its transit strings, one. -/
def courseTooNarrow (site c inService : Nat) : Bool := if farUnit site c = 118 then inService == 0 else decide (inService < 8)

/-- IN_SERVICE and STATE of a course brought up to date with its strings: up, at reduced width, or failed, COURSE_FAILED raised and a die
lost (R366, R367). -/
def State.settleCourse (s : State) (site c : Nat) : State :=
  let n := (s.strings site c false).length + (s.strings site c true).length
  let s := s.setField (Reg.courseState site c) 0 6 n
  if courseTooNarrow site c n then
    let s := s.linkRecord site c 0 0x7F 2
    let s := (s.setField (Reg.courseState site c) 8 3 4).setBit (Reg.courseStatus site) 2
    let s : State := { s with faults := { s.faults with courseSites := (s.faults.courseSites.filter (· != courseVictim site c)) ++ [courseVictim site c] } }
    (s.raise (s.courseFault 0x0503 site c 0)).dieLost (courseVictim site c) site c
  else s.setField (Reg.courseState site c) 8 3 3

/-- The physical lane of a logical lane of a half (R364): lanes in ascending order, past the unusable ones. -/
def State.physicalLane (s : State) (site c str lane : Nat) : Nat :=
  let m := Reg.lanemap site (32 * c + str)
  let bad := [s.field m 0 7, s.field m 8 7]
  ((List.range 66).filter (fun i => !bad.contains i)).getD lane 0x7F

/-- A string out of service at one end (R349, R366): the transit role passes to the highest ordinary string. -/
def State.retireEnd (s : State) (site c str : Nat) : State :=
  let m := Reg.lanemap site (32 * c + str)
  let transit := s.bit m 19
  let s := (s.setBit m 18).clearBit m 19
  match (if transit then (s.strings site c false).getLast? else none) with
  | some i => s.setBit (Reg.lanemap site (32 * c + i)) 19
  | none => s

/-- What a retired string still carried given to the other strings of its course, before what waits for their new count (R353, R366). -/
def State.moveReplay (s : State) (site c str : Nat) : State :=
  let k := sendKey site c str
  let h := s.half k
  let s := s.setHalf k { h with replay := [] }
  let s := { s with holds := Tab.put s.holds (4 * site + c) (h.replay ++ (Tab.get s.holds (4 * site + c)).getD []) }
  (s.holdCourse site c).releaseCourse site c

/-- A string retired at both of its ends (R366). -/
def State.retireString (s : State) (site c str : Nat) : State :=
  let u := farUnit site c
  let s := s.retireEnd site c str
  let s := if u < 108 then s.retireEnd u (facing c) str else s
  let s := s.moveReplay site c str
  let s := if u < 108 then s.moveReplay u (facing c) str else s
  let s := s.linkRecord site c str 0x7F 1
  let s := s.setBit (Reg.courseStatus site) 1
  let s := s.raise (s.courseFault 0x0502 site c 0)
  let s := s.settleCourse site c
  if u < 108 ∧ s.courseUp u (facing c) then s.settleCourse u (facing c) else s

/-- LANE_SPARED (R365 to R367): a logical lane with 4 mismatches in this window moves past its physical lane, or its string retires. -/
def execLaneSpared (site : Fin 108) (course : Fin 4) (str : Fin 32) (lane : Fin 64) (s : State) : Host.Outcome State Fault Refusal :=
  let site := site.val
  let c := course.val
  let i := str.val
  let k := recvKey site c i
  let h := s.half k
  let m := Reg.lanemap site (32 * c + i)
  next (if !s.courseUp site c ∨ s.bit m 18 ∨ Tab.getD h.mismatches lane.val 0 < 4 then s
    else
      let s := s.setHalf k { h with mismatches := Tab.erase h.mismatches lane.val }
      let phys := s.physicalLane site c i lane.val
      if s.field m 0 7 = 0x7F ∨ s.field m 8 7 = 0x7F then
        let s := if s.field m 0 7 = 0x7F then (s.setField m 0 7 phys).setField m 20 2 3 else (s.setField m 8 7 phys).setField m 22 2 3
        let s := s.setField m 16 2 (s.field m 16 2 + 1)
        let s := (s.linkRecord site c i phys 0).setBit (Reg.courseStatus site) 0
        s.raise (s.courseFault 0x0501 site c 0)
      else s.retireString site c i)

/-- The courses of a transit path of a partition on its present route, and whether it passes through a site. -/
def State.pathHops (s : State) (p key : Nat) (x : TransitPath) : List (Nat × Nat) :=
  let hops := s.route (s.layout p) (key / 128 % 128) (key % 128)
  if x.alternate then alternate hops else hops
def State.pathThrough (s : State) (p key site : Nat) (x : TransitPath) : Bool :=
  (s.pathHops p key x).any (fun h => h.1 == site || farUnit h.1 h.2 == site)

/-- REROUTED (R370): the transit paths of a partition that pass through another partition's lost die move to their alternate routes, and
what they have not had acknowledged is sent again. -/
def execRerouted (p : Fin 6) (lost : Fin 108) (s : State) : Host.Outcome State Fault Refusal :=
  let p := p.val
  let site := lost.val
  let l := s.layout p
  let port := s.partPort p
  let route := s.sharedHops l port
  next (if s.siteState site ≠ 5 ∨ s.unitIn l port site ∨ l.n = 0 ∨ !route.any (fun h => h.1 == site) then s
    else
      let transit := s.transit.map (fun e => if e.1 / 16384 = p ∧ s.pathThrough p e.1 site e.2 then
        (e.1, { e.2 with alternate := !e.2.alternate, flight := [], resend := e.2.unacked.map (·.1) }) else e)
      let s := { s with transit := transit }
      let near := (List.range 4).map (fun c => (farUnit site c, facing c))
      let s := near.foldl (fun s e => if e.1 < 108 then s.setBit (Reg.courseStatus e.1) 5 else s) s
      match near.find? (fun e => e.1 < 108 && route.any (fun h => h.1 == e.1 && farUnit h.1 h.2 == site)) with
      | some e => s.raise { s.courseFault 0x0504 e.1 e.2 site with part := none, rings := [p] }
      | none => s.raise { s.courseFault 0x0504 site 0 site with part := none, rings := [p] })

/-! Transit. -/

/-- The partition that holds a transit slot of a course, 6 or more when none (R359, R372). -/
def State.slotOwner (s : State) (site c slot : Nat) : Nat := s.field (Reg.transitSlot site (3 * c + slot / 8)) (4 * (slot % 8)) 4

/-- The first transit path of a partition that enters the transit strings at a site by a course with a packet to send. -/
def State.readyPath (s : State) (p site c : Nat) : Option (Nat × TransitPath) :=
  s.transit.find? (fun e => e.1 / 16384 == p && e.1 / 128 % 128 == site && (!e.2.ready.isEmpty || !e.2.resend.isEmpty) &&
    (s.pathHops p e.1 e.2).head?.map (·.2) == some c)

/-- The first packet of a partition on its way that has to cross a course of a site next. -/
def State.passing (s : State) (p site c : Nat) : Option (Nat × TransitPath × BitVec 57) :=
  s.transit.findSome? (fun e => if e.1 / 16384 = p then
      (e.2.flight.find? (fun f => (s.pathHops p e.1 e.2)[f.2.1]? == some (site, c))).map (fun f => (e.1, e.2, f.1))
    else none)

/-- K_transit of a partition, or the key of the management slot (R475, R477). -/
def State.transitKeys (s : State) (p : Nat) : List Byte :=
  if p = 7 then leBytes s.trust.mgmtKey 32
  else match Tab.get s.keys p with
    | some k => keyTransit k.jobId k.jobSecret k.keyNonce
    | none => []

/-- The 24 beats of a transit packet (R351, R478): its header, the ciphertext of its mask and data beats, the trailer of those, the sequence beat,
two tag beats and padding; management packets are authenticated only (R477). -/
def State.transitBeats (s : State) (p ingress egress : Nat) (seq : BitVec 57) (k : Packet) : List (BitVec 64) :=
  let bytes := fun (l : List (BitVec 64)) => l.flatMap (fun b => leBytes b.toNat 8)
  let iv := [BitVec.ofNat 8 ingress, BitVec.ofNat 8 egress, 0, 0] ++ leBytes seq.toNat 8
  let sealed := if p = 7 then (bytes k.body, gmac (s.transitKeys p) iv (bytes (k.header :: k.body)))
    else gcmSeal (s.transitKeys p) iv (bytes [k.header]) (bytes k.body)
  let body := (List.range k.body.length).map (fun i => BitVec.ofNat 64 (ofBytes ((sealed.1.drop (8 * i)).take 8)))
  let beats := k.header :: body ++ [xorBeats (k.header :: body), BitVec.ofNat 64 (ingress * 2 ^ 57 + seq.toNat), sealed.2.truncate 64,
    (sealed.2 >>> 64).truncate 64]
  beats ++ List.replicate (24 - beats.length) 0

/-- One slot of a frame (R359, R360): a packet on its way crosses the course; or one enters the stretch there, to be sent again or the next packet
ready, which takes the path's next sequence number. Slot 23 carries management traffic only, the others none of it. -/
def State.sendSlot (s : State) (site c slot : Nat) : State :=
  let p := if slot = 23 then 7 else s.slotOwner site c slot
  if slot ≠ 23 ∧ 6 ≤ p then s
  else match s.passing p site c with
    | some (k, x, seq) =>
      let flight := x.flight.map (fun f => if f.1 = seq then (f.1, f.2.1 + 1, f.2.2) else f)
      { s with transit := Tab.put s.transit k { x with flight := flight } }
    | none => match s.readyPath p site c with
      | none => s
      | some (k, x) =>
        let sent := fun (seq : BitVec 57) (q : Packet) => [(seq, 1, s.transitBeats p (k / 128 % 128) (k % 128) seq q)]
        match x.resend, x.ready with
        | seq :: t, _ =>
          let again := match x.unacked.find? (fun e => e.1 == seq) with
            | some e => sent seq e.2
            | none => []
          { s with transit := Tab.put s.transit k { x with resend := t, flight := x.flight.filter (fun f => f.1 != seq) ++ again } }
        | [], q :: t =>
          { s with transit := Tab.put s.transit k { x with
              ready := t, nextSeq := x.nextSeq + 1, unacked := x.unacked ++ [(x.nextSeq, q)], flight := x.flight ++ sent x.nextSeq q } }
        | [], [] => s

/-- TRANSIT_FRAME (R359, R360): a tick's frame of 24 slots on the transit strings a die sends. -/
def execTransitFrame (site : Fin 108) (course : Fin 4) (s : State) : Host.Outcome State Fault Refusal :=
  next (if s.courseUp site.val course.val then (List.range 24).foldl (fun s i => s.sendSlot site.val course.val i) s else s)

/-- Whether a packet of a transit path has crossed its last course. -/
def State.hasCrossed (s : State) (p key : Nat) (x : TransitPath) (seq : BitVec 57) : Bool :=
  x.flight.any (fun f => f.1 == seq && decide ((s.pathHops p key x).length ≤ f.2.1))

/-- A packet that its egress accepted: it has come to its unit, or goes on by its partition's route (R357, R360). -/
def State.leaveTransit (s : State) (key egress : Nat) (y : TransitPath) (q : Packet) : State :=
  if egress < 108 ∧ packetDest q ≠ egress then ({ s with transit := Tab.put s.transit key y }).forward egress q
  else { s with transit := Tab.put s.transit key { y with delivered := y.delivered ++ [q] } }

/-- TRANSIT_EGRESS (R360, R478, R479): a packet accepted, discarded as a resend, or asked for again; its second tag failure is fatal. -/
def execTransitEgress (p : Fin 6) (ingress : Fin 119) (egress : Fin 119) (seq : BitVec 57) (tagOk : Bool) (s : State) : Host.Outcome State Fault Refusal :=
  let k := transitKey p.val ingress.val egress.val
  next (match Tab.get s.transit k with
    | none => s
    | some x => match (if s.hasCrossed p.val k x seq then x.unacked.find? (fun e => e.1 == seq) else none) with
      | none => s
      | some e =>
        let put := fun (s : State) y => { s with transit := Tab.put s.transit k y }
        if tagOk then
          let y := { x with unacked := x.unacked.filter (fun e => e.1 != seq), resend := x.resend.filter (· != seq),
                            flight := x.flight.filter (fun f => f.1 != seq), failedOnce := if x.failedOnce = some seq then none else x.failedOnce }
          if x.highest < seq then s.leaveTransit k egress.val { y with highest := seq } e.2 else put s y
        else if x.failedOnce = some seq then
          let site := egress.val
          let c := match (s.route (s.layout p.val) ingress.val egress.val).getLast? with
            | some h => facing h.2
            | none => 0
          let words := if site < 108 then [s.reg (Reg.linkRec site), s.reg (Reg.courseState site c), 0, 0, 0] else [0, 0, 0, 0, 0]
          let s := put s { x with flight := x.flight.filter (fun f => f.1 != seq) }
          (s.setBit Reg.secStatus 4).raise { FaultRec.plain 0x0505 (unitDest site) (s.replica site) (some p.val) with detail := words }
        else put s { x with failedOnce := some seq, flight := x.flight.filter (fun f => f.1 != seq), resend := x.resend ++ [seq] })

/-- A slot's value as it acts: 0 to 5, else none. -/
def slotNibbles (v : Nat) : List Nat := (List.range 8).map (fun i => bitsOf v (4 * i) 4)

/-- A write of TRANSIT_SLOT (R362, R372): only while no partition that holds a slot on the course before or after the write is running; slot 23
keeps its value. -/
def State.transitSlotWrite (s : State) (site i : Nat) (v : W32) : State :=
  let c := i / 3
  let a := Reg.transitSlot site i
  let before := (List.range 3).flatMap (fun j => slotNibbles (s.reg (Reg.transitSlot site (3 * c + j))).toNat)
  let held := before ++ slotNibbles v.toNat
  if held.any (fun q => decide (q < 6) && s.partState q == 2) then s
  else if i % 3 = 2 then s.setReg a (v &&& 0x0FFFFFFF ||| 0x70000000) else s.setReg a v

/-- TRANSIT_SLOT_WRITE (R362, R372). -/
def execTransitSlotWrite (site : Fin 108) (i : Fin 12) (v : BitVec 32) (s : State) : Host.Outcome State Fault Refusal :=
  next (s.transitSlotWrite site.val i.val v)

/-! Tuning. -/

/-- LANEMAP of a half after tuning (R349, R363, R364): its fused lanes, then those that failed, the string retired when more than two lanes
are unusable. -/
def State.tunedMap (s : State) (fails : List LaneFail) (site c i : Nat) : W32 :=
  let fused := Tab.getD s.trust.fusedLanes (recvKey site c i) []
  let failed := (fails.filter (fun f => f.site.val == site && f.course.val == c && f.str.val == i)).map (·.lane.val)
  let failed := (sortBy id (failed.filter (fun l => !fused.contains l))).eraseDups
  let bad : List (Nat × Nat) := fused.map (fun l => (l, 1)) ++ failed.map (fun l => (l, 2))
  let get := fun n => bad.getD n (0x7F, 0)
  let retired := decide (2 < bad.length)
  let transit := decide (28 ≤ i)
  BitVec.ofNat 32 ((get 0).1 + (get 1).1 * 2 ^ 8 + min bad.length 2 * 2 ^ 16 + (if retired then 2 ^ 18 else 0) +
    (if transit && !retired then 2 ^ 19 else 0) + (get 0).2 * 2 ^ 20 + (get 1).2 * 2 ^ 22 + (10 + (Config.laneMargin (recvKey site c i)).val) * 2 ^ 26)

/-- The strings an attachment uses (R354): all 32, or the transit strings only. -/
def stringsUsed (site c : Nat) : List Nat := if farUnit site c = 118 then [28, 29, 30, 31] else List.range 32

/-- The transit role of a tuned course completed (R349): as many strings hold it as its retired transit strings leave open. -/
def State.fillTransit (s : State) (site c : Nat) : State :=
  (List.range 4).foldl (fun s _ => if (s.strings site c true).length < 4 ∧ farUnit site c ≠ 118 then
    (match (s.strings site c false).getLast? with
      | some i => s.setBit (Reg.lanemap site (32 * c + i)) 19
      | none => s) else s) s

/-- A course tuned (R364): its lane maps, its far unit and its state; an unattached course is held powered down (R354). -/
def State.tuneCourse (s : State) (fails : List LaneFail) (site c : Nat) : State :=
  let u := farUnit site c
  if u = 127 then s.setReg (Reg.courseState site c) (BitVec.ofNat 32 (6 * 2 ^ 8 + 0x7F * 2 ^ 16))
  else
    let s := (stringsUsed site c).foldl (fun s i => s.setReg (Reg.lanemap site (32 * c + i)) (s.tunedMap fails site c i)) s
    let s := (List.range 32).foldl (fun s i => if (stringsUsed site c).contains i then s else s.setBit (Reg.lanemap site (32 * c + i)) 18) s
    let s := (List.range 32).foldl (fun s i => { s with halves := Tab.erase s.halves (recvKey site c i) }) s
    let s := s.fillTransit site c
    let n := (s.strings site c false).length + (s.strings site c true).length
    let s := s.setReg (Reg.courseState site c) (BitVec.ofNat 32 (n + 2 * 2 ^ 8 + u * 2 ^ 16))
    if n < (stringsUsed site c).length then s.settleCourse site c else s

/-- A string out of service at one end taken out at the other, and the course brought up to date (R366). -/
def State.syncCourse (s : State) (site c : Nat) : State :=
  let u := farUnit site c
  if 108 ≤ u then s
  else
    let out := (List.range 32).filter (fun i => s.bit (Reg.lanemap u (32 * facing c + i)) 18 && !s.bit (Reg.lanemap site (32 * c + i)) 18)
    let s := out.foldl (fun s i => s.retireEnd site c i) s
    if out = [] ∨ !s.courseUp site c then s else s.settleCourse site c

/-- The courses of a site tuned. -/
def State.tuneSite (s : State) (fails : List LaneFail) (site : Nat) : State :=
  ((List.range 4).foldl (fun s c => s.tuneCourse fails site c) s).setBit (Reg.courseStatus site) 4

end Sys2Proof.Machine
end

