-- ==== Sys2Proof/Machine/Faults.lean ====
section
/-! DEFINITION. Delivery of fault records (R503 to R511), the panel fault queue and its controls (R511, R512, R529). -/

namespace Sys2Proof.Machine

/-- The partition a port is bound to, and whether the port is bound (R377). -/
def State.boundTo (s : State) (port : Nat) : Option Nat := (s.port port).bound

/-- Whether what arrives through a port's BARs is heard (R377, R483): the port is bound, and where its tenant bound it, an IDE stream
programmed under the tenant's key is active. -/
def State.barOpen (s : State) (port : Nat) : Bool := match s.boundTo port with
  | none => false
  | some p => !s.bit (Reg.keyState p) 2 || (s.port port).ide.any (fun e => e.2.active && e.2.underTenant)

/-- A write that a host-interface die makes itself to the host-coherent region (R433, R505): a home slice's copy of the line goes first,
written back when it is modified. -/
def State.hidWrite (s : State) (p port addr n v : Nat) : State :=
  let line := addr / 128
  let d := s.homeDie p line
  let set := s.setOf line
  let s := match (s.slice d).line? set line false with
    | some l =>
      let s := s.setSlice d ((s.slice d).update set line false false none)
      if l.st = LState.dirty ∨ l.st = LState.partialLine then s.hostLineOut p l else s
    | none => s
  let w : HostWrite := { port := port, pasid := 0, addr := s.hcHost p (128 * line), mask := maskOf (addr % 128) n,
                         data := putLineBytes 0 (addr % 128) n v }
  { s with hostOut := s.hostOut ++ [w] }

/-- The 64 bytes of a record's header (R506). -/
def FaultRec.header (r : FaultRec) (phase number count : Nat) : Nat :=
  let extra := (r.extra.length + 15) / 16
  let word := fun i => (r.detail.getD i 0).toNat
  phase + r.cls * 2 + extra * 2 ^ 4 + r.code * 2 ^ 16 + r.unit.toNat * 2 ^ 32 + r.time.toNat * 2 ^ 64 + number % 2 ^ 32 * 2 ^ 128 +
    r.slice.toNat * 2 ^ 160 + r.mailbag.toNat * 2 ^ 176 + r.seq.toNat * 2 ^ 192 + r.addr.toNat * 2 ^ 256 +
    (word 0 + word 1 * 2 ^ 32 + word 2 * 2 ^ 64 + word 3 * 2 ^ 96 + word 4 * 2 ^ 128 + count % 2 ^ 32 * 2 ^ 160) * 2 ^ 320

/-- Slot j of a record's extra slots: sixteen words (R506). -/
def FaultRec.extraSlot (r : FaultRec) (j : Nat) : Nat :=
  (List.range 16).foldl (fun x i => x + (r.extra.getD (16 * j + i) 0).toNat * 2 ^ (32 * i)) 0

/-- A record written to the fault ring of a port, or dropped and counted when the ring has too few free slots (R505 to R507) or the port takes no
request (R483; log entry 108). -/
def State.ringWrite (s : State) (port : Nat) (r : FaultRec) (count : Nat) : State :=
  match s.boundTo port with
  | none => s
  | some p =>
    if !s.bit (Reg.frCtl port) 0 ∨ !s.bit (Reg.hcCtl port) 8 then s
    else
      let x := s.port port
      let k := s.field (Reg.frCtl port) 1 4
      let extra := (r.extra.length + 15) / 16
      if !s.mayAsk p || decide (2 ^ k - (x.fcount - x.fhead).toNat < 1 + extra) then
        let d := s.field (Reg.frStatus port) 16 16
        (s.setField (Reg.frStatus port) 16 16 (min (d + 1) 0xFFFF)).setBit (Reg.frStatus port) 0
      else
        let base := hcStart + 4096 * s.field (Reg.frCtl port) 12 14
        let c := x.fcount.toNat
        let slot := fun (c : Nat) => base + 64 * (c % 2 ^ k)
        let s := (List.range extra).foldl (fun s j => s.hidWrite p port (slot (c + 1 + j)) 64 (r.extraSlot j)) s
        let s := s.hidWrite p port (slot c) 64 (r.header ((c / 2 ^ k + 1) % 2) c count)
        s.setPort port { s.port port with fcount := x.fcount + BitVec.ofNat 32 (1 + extra) }

/-- A record queued for the Postmaster, or dropped and counted when the queue is full (R511). -/
def State.queueWrite (s : State) (r : FaultRec) (count : Nat) : State :=
  if 256 ≤ s.faults.queue.length then
    let d := s.field Reg.fltQueue 16 16
    (s.setField Reg.fltQueue 16 16 (min (d + 1) 0xFFFF)).setBit Reg.fltStatus 2
  else
    let entry := { r with detail := (List.range 5).map (fun i => r.detail.getD i 0) ++ [BitVec.ofNat 32 count], extra := [] }
    { s with faults := { s.faults with queue := s.faults.queue ++ [entry], queued := s.faults.queued + 1 } }

/-- A record written to one destination: partition 0 to 5 for its ring, 6 for the panel queue. -/
def State.recordTo (s : State) (dest : Nat) (r : FaultRec) (count : Nat) : State :=
  if dest = 6 then s.queueWrite r count
  else match (List.range 6).find? (fun port => s.boundTo port == some dest) with
    | some port => s.ringWrite port r count
    | none => s

/-- The destinations of a record (R503). -/
def State.destinations (s : State) (r : FaultRec) : List Nat :=
  let all := (List.range 6).filter (fun p => s.partState p != 0)
  let rings := if r.cls = 4 ∨ r.code = 0x0801 ∨ r.code = 0x0802 then all else (r.part.toList ++ r.rings).eraseDups
  rings ++ [6]

/-- A record delivered to one destination: of an INFO or DEGRADED code and unit only the first in a window, later ones counted (R504). -/
def State.deliverTo (s : State) (r : FaultRec) (dest : Nat) : State :=
  if 2 ≤ r.cls then s.recordTo dest r 0
  else
    let same := fun (x : Supp) => x.dest == dest && x.code == r.code && x.unit == r.unit
    if s.faults.supp.any same then
      let supp := s.faults.supp.map (fun x => if same x then { x with count := x.count + 1, last := r } else x)
      { s with faults := { s.faults with supp := supp } }
    else
      let x : Supp := { dest := dest, code := r.code, unit := r.unit, count := 0, last := r }
      ({ s with faults := { s.faults with supp := s.faults.supp ++ [x] } }).recordTo dest r 1

/-- The oldest fault's record delivered (R503, R510). -/
def State.deliverFault (s : State) : State := match s.faults.undelivered with
  | [] => s
  | r :: t =>
    let s := { s with faults := { s.faults with undelivered := t } }
    (s.destinations r).foldl (fun s d => s.deliverTo r d) s

/-- FAULT_RECORD_WRITE (R503 to R507, R511). -/
def execFaultRecordWrite (s : State) : Host.Outcome State Fault Refusal := next s.deliverFault

/-- The end of a window for suppressed pairs (R504): one further record each, with the number of later events. -/
def State.summarise (s : State) : State :=
  let l := s.faults.supp
  l.foldl (fun s x => if x.count = 0 then s else s.recordTo x.dest x.last x.count) { s with faults := { s.faults with supp := [] } }

/-- A write of FR_CTL (R505): ENABLE is granted when the ring lies, aligned, in slice 0's window of an enabled host-coherent region; LOG2
and OFFSET change only while ENABLE is 0. -/
def State.frEnable (s : State) (port : Nat) (v : W32) : State :=
  let reg := Reg.frCtl port
  if s.bit reg 0 then (if v.getLsbD 0 then s else s.clearBit reg 0)
  else
    let s := s.setReg reg (v &&& 0x03FFF01E)
    if !v.getLsbD 0 then s
    else
      let k := s.field reg 1 4
      let off := 4096 * s.field reg 12 14
      let w := s.reg (Reg.sliceHc port 0)
      let lo := 0x10000 * bitsOf w.toNat 0 10
      let hi := lo + 0x10000 * bitsOf w.toNat 16 11
      let size := s.hcBytes port
      if k < 6 ∨ 12 < k ∨ !s.bit (Reg.hcCtl port) 8 ∨ off % (64 * 2 ^ k) ≠ 0 ∨ off < lo ∨ hi < off + 64 * 2 ^ k ∨ size < off + 64 * 2 ^ k then
        s.setBit (Reg.frStatus port) 1
      else
        let s := (s.setBit reg 0).setField (Reg.frStatus port) 16 16 0
        s.setPort port { s.port port with fcount := 0, fhead := 0 }

/-- FR_ENABLE (R505). -/
def execFrEnable (port : Fin 6) (v : BitVec 32) (s : State) : Host.Outcome State Fault Refusal :=
  next (if s.barOpen port.val then s.frEnable port.val v else s)

/-- A write of FHEAD (R508): ignored when more than the ring's slots would be outstanding. -/
def State.frHeadWrite (s : State) (port : Nat) (v : W32) : State :=
  let x := s.port port
  if 2 ^ s.field (Reg.frCtl port) 1 4 < (x.fcount - v).toNat then s.setBit (Reg.frStatus port) 2 else s.setPort port { x with fhead := v }

/-- FR_HEAD (R508). -/
def execFrHead (port : Fin 6) (v : BitVec 32) (s : State) : Host.Outcome State Fault Refusal :=
  next (if s.barOpen port.val then s.frHeadWrite port.val v else s)

/-- The head record of the panel queue discarded (R511). -/
def State.popFault (s : State) : State := { s with faults := { s.faults with queue := s.faults.queue.drop 1 } }

/-- POP (R511). -/
def execPop (s : State) : Host.Outcome State Fault Refusal := next s.popFault

/-- The watchdog period restarted (R529). -/
def State.kick (s : State) : State := { s with faults := { s.faults with kickedAt := s.tb.master } }

/-- KICK (R529). -/
def execKick (s : State) : Host.Outcome State Fault Refusal := next s.kick

/-- DROPPED of the panel queue cleared (R511). -/
def State.clearDropped (s : State) : State := s.setField Reg.fltQueue 16 16 0

/-- CLEAR_DROPPED (R511). -/
def execClearDropped (s : State) : Host.Outcome State Fault Refusal := next s.clearDropped

/-- The n oldest entries of RETIRE acknowledged: they stand in the log from now on (R512). -/
def State.retireAck (s : State) (n : Nat) : State :=
  let l := s.faults.retire
  { s with faults := { s.faults with retire := l.drop n, logged := s.faults.logged ++ l.take n } }

/-- RETIRE_ACK (R512): up to 64 entries. -/
def execRetireAck (n : BitVec 7) (s : State) : Host.Outcome State Fault Refusal := next (if n.toNat ≤ 64 then s.retireAck n.toNat else s)

end Sys2Proof.Machine
end

