-- ==== Sys2Proof/Machine/Timebase.lean ====
section
/-! DEFINITION. The timebase and its replicas (R57 to R62, R66, R67), the steps of a tick (R48, R70), windows (R63 to R65, R70, R584, R585), and
the reads of low words that latch their high words (R68, R124, R283, R345, R346, R379). -/

namespace Sys2Proof.Machine

/-- Units that hold a replica, coded as DEST (R58): every site whose die is in use, every memory-interface die and host-interface die. -/
def State.replicaUnits (s : State) : List Nat := (List.range 108).filter (fun u => s.siteState u == 1) ++ (List.range 10).map (· + 108)

/-- A replica that was ahead stays where it is at a tick, until the master has reached it (R61). -/
def State.holdReplica (s : State) (u : Nat) : State :=
  let tb := s.tb
  let tb := { tb with skew := Tab.put tb.skew u (Tab.getD tb.skew u 0 - 40) }
  let reached := (tb.replica + BitVec.ofInt 64 (Tab.getD tb.skew u 0)).toNat ≤ tb.master.toNat
  { s with tb := { tb with stalled := if reached then tb.stalled.filter (· != u) else tb.stalled } }

/-- The pace that a supply code holds on a logical die, by the latest margin report (R588 to R590). -/
def State.heldPace (s : State) (d code : Nat) : Nat := Config.heldPace d code (s.field Reg.retuneCtl 16 16)

/-- Whether every die of a partition in use is supplied for a pace (R589). -/
def State.supplied (s : State) (p pace : Nat) : Bool :=
  (s.partDies p).all (fun d => (s.siteOf d).isNone || decide (pace ≤ s.heldPace d (Tab.getD s.power.supply d 0)))

/-- Fixed-rate mode taken on or left at a tick (R69, R579, R589): once their supplies hold it, the dies of a partition at its fret, which they
keep as the governor's pace when the mode ends. -/
def State.rateTick (s : State) (p : Nat) : State :=
  let on := s.bit (Reg.rateMode p) 0 && s.partState p != 0
  let pace := 52 + 2 * s.field (Reg.rateMode p) 1 3
  if !on then s.clearBit Reg.rateStatus p
  else if !s.supplied p pace then s
  else
    let s := s.setBit Reg.rateStatus p
    { s with power := { s.power with pace := (s.partDies p).foldl (fun t d => Tab.put t d pace) s.power.pace } }

/-- Where a die's fall below fret 0 in the running window is noted, beyond every management address (R47). -/
def floorKey (d : Nat) : Nat := 2 ^ 42 + d

/-- Whether a die completes exactly its fret's steps in every tick (R47, R48): its partition runs in fixed-rate mode, and it keeps its pace. -/
def State.keepsFret (s : State) (d : Nat) : Bool := match s.partOfDie d with
  | some p => s.bit Reg.rateStatus p && Tab.getD s.accum (floorKey d) 0 == 0
  | none => false

/-- The arrays that have steps of the running tick to complete: those of fixed-rate dies that hold groups. -/
def State.fretArrays (s : State) : List Nat := ((s.arrs.filter (fun e => !e.2.groups.isEmpty)).map (·.1)).filter (fun ga => s.keepsFret (ga / 8))

/-- The steps that fixed-rate dies have not completed in the running tick completed (R48), a step of each of their arrays in turn. -/
def State.finishSteps (s : State) : State :=
  (List.range 66).foldl (fun s _ => s.fretArrays.foldl (fun s ga => if s.canStep ga then s.stepArray ga else s) s) s

/-- The steps of the tick that ends counted for their dies (R70), and the next tick's steps begun at none. -/
def State.tickSteps (s : State) : State :=
  let dies := ((s.arrs.filter (fun e => e.2.pos != 0)).map (fun e => e.1 / 8)).eraseDups
  let s := dies.foldl (fun s d => s.count (Reg.dieSteps d) (s.diePos d)) s
  { s with arrs := Tab.mapAll s.arrs (fun _ a => { a with pos := 0 }) }

/-- A replica that misses a tick or takes one twice (R61): it lies 40 behind where it should be, or 40 ahead. -/
def State.stray (s : State) (u : Nat) (ahead : Bool) : State :=
  if s.tb.stalled.contains u then s
  else { s with tb := { s.tb with skew := Tab.modify s.tb.skew u 0 (· + if ahead then 40 else -40) } }

/-- One edge of the 1 GHz clock between two ticks (R57): what passes while no command waits (DESIGN CHOICE, log entry 94). The edge that would
bring the count to a multiple of 40 comes with the tick. -/
def State.edge (s : State) : State :=
  if s.tb.running && s.tb.master.toNat % 40 != 39 then { s with tb := { s.tb with master := s.tb.master + 1 } } else s

/-- One tick of 40 ns (R48, R58, R66, R69, R352): the master comes to its next multiple of 40, and every replica but those that `strays` names
takes the tick with it (DESIGN CHOICE, log entry 94: the range of R59 is left open); once a microsecond receivers acknowledge. -/
def State.tick (s : State) (strays : List (Fin 118 × Bool)) : State :=
  if !s.tb.running then s
  else
    let s := s.finishSteps.tickSteps
    let tb := s.tb
    let s := { s with tb := { tb with master := tb.master + BitVec.ofNat 64 (40 - tb.master.toNat % 40), replica := tb.replica + 40, ticks := tb.ticks + 1 } }
    let s := tb.stalled.foldl State.holdReplica s
    let s := strays.foldl (fun s e => s.stray e.1.val e.2) s
    let h := (s.reg Reg.tbHoldover).toNat
    let s := if s.bit Reg.tbStatus 1 ∧ h < 2 ^ 32 - 1 then s.setReg Reg.tbHoldover (BitVec.ofNat 32 (h + 1)) else s
    let s := if s.tb.replica.toNat / 40 % 25 = 0 then (s.halves.map (·.1)).foldl State.ackHalf s else s
    (List.range 6).foldl State.rateTick s

/-- TIMEBASE_TICK (R58, R61). -/
def execTimebaseTick (strays : List (Fin 118 × Bool)) (s : State) : Host.Outcome State Fault Refusal := next (s.tick strays)

/-- A replica compared with the broadcast count, that of the last tick (R61): one to be loaded takes it; one behind jumps forward, one ahead stops, and either is
recorded. -/
def State.checkReplica (s : State) (u : Nat) : State :=
  let tb := s.tb
  let diff : Int := (s.replica u - (tb.master - BitVec.ofNat 64 (tb.master.toNat % 40))).toInt
  let put := fun (v : Int) => { s with tb := { tb with skew := Tab.put tb.skew u v, loading := tb.loading.filter (· != u) } }
  let have' := Tab.getD tb.skew u 0
  if tb.loading.contains u then put (have' - diff)
  else if diff = 0 then s
  else
    let ahead := decide (0 < diff)
    let s := if ahead then { s with tb := { tb with stalled := if tb.stalled.contains u then tb.stalled else tb.stalled ++ [u] } } else put (have' - diff)
    let s := (s.setBit Reg.tbStatus 10).setReg Reg.tbMismatchUnit (BitVec.ofNat 32 (u + if ahead then 256 else 0))
    s.raise { FaultRec.plain 0x0802 (unitDest u) (s.replica u) none with toAll := true }

/-- TIMEBASE_BROADCAST (R61): every 1,024 ticks. -/
def execTimebaseBroadcast (s : State) : Host.Outcome State Fault Refusal :=
  next (if !s.tb.running ∨ s.tb.ticks < 1024 then s
    else
      let s := { s with tb := { s.tb with ticks := 0 } }
      s.replicaUnits.foldl State.checkReplica s)

/-- TB_REF declared lost (R66, R67): the master runs from the holdover oscillator. -/
def State.refLost (s : State) : State :=
  let s := { s with tb := { s.tb with refLost := true, relocking := false } }
  let s := ((s.clearBit Reg.tbStatus 0).setBit Reg.tbStatus 1).setBit Reg.tbStatus 8
  s.raise { FaultRec.plain 0x0801 (unitDest 118) s.tb.master none with toAll := true }

/-- TB_REF_LOST (R66, R67, R660): a second loss counts only once the reference had returned. -/
def execTbRefLost (s : State) : Host.Outcome State Fault Refusal :=
  next (if s.tb.running ∧ (!s.bit Reg.tbStatus 1 ∨ s.tb.relocking) then s.refLost else s)

/-- TB_REF_RETURN (R67). -/
def execTbRefReturn (s : State) : Host.Outcome State Fault Refusal :=
  next (if s.tb.refLost then { s with tb := { s.tb with refLost := false, relocking := true } } else s)

/-! Windows. -/

/-- Whether the register at an address is a counter of the last complete window (R65, R70). -/
def isWindowReg (a : Nat) : Bool := match placeOf a with
  | none => false
  | some p => match p.kind with
    | .array => decide (0x10 ≤ p.off) && decide (p.off < 0x1C)
    | .slice => decide (0x40 ≤ p.off) && decide (p.off < 0x180)
    | .rate => decide (0x100 ≤ p.off)
    | .regulator => p.off % 16 == 12
    | .courier => p.off % 0x40 == 12
    | .course => decide (0x20 ≤ p.off) && decide (p.off < 0x30)
    | .partition => decide (0x40 ≤ p.off) && decide (p.off < 0x60)
    | .dieFault => decide (0x20 ≤ p.off)
    | .power => (decide (0x40 ≤ p.off) && decide (p.off < 0x5C)) || decide (0x400 ≤ p.off)
    | _ => false

/-- What the register at an address shows of a window, from what was counted for it: steps with their FLOOR flag, energies not here. -/
def windowWord (a n : Nat) : W32 :=
  if 0x3100 ≤ a ∧ a < 0x3280 then BitVec.ofNat 32 (min n (2 ^ 24 - 1)) else BitVec.ofNat 32 n

/-- The FLOOR flags of the window in DIE_STEPS (R47, R70). -/
def State.floors (s : State) (accum : Tab Nat) : State :=
  (List.range 96).foldl (fun s d => if Tab.getD accum (floorKey d) 0 = 0 then s else s.setBit (Reg.dieSteps d) 24) s

/-- Energy of a partition's slices for the window (R584, R585): each slice's own and its share of what they have in common, which slice 0
bears when no slice was charged; in microjoules. -/
def State.partEnergy (s : State) (accum : Tab Nat) (w p : Nat) : State :=
  if s.partSectors p = 0 then s
  else
    let own := (List.range 64).map (fun i => Tab.getD accum (Reg.sliceEnergy (64 * p + i)) 0)
    let total := own.foldl (· + ·) 0
    let common := Tab.getD accum (idleKey p) 0 + Config.staticEnergy p w
    let share := fun (i x : Nat) => if total = 0 then (if i = 0 then common else 0) else common * x / total
    let each := (List.range 64).map (fun i => (own.getD i 0 + share i (own.getD i 0)) / 1000000)
    let s := (List.range 64).foldl (fun s i => s.setReg (Reg.sliceEnergy (64 * p + i)) (BitVec.ofNat 32 (each.getD i 0))) s
    s.setReg (Reg.partEnergy p) (BitVec.ofNat 32 ((total + common) / 1000000))

/-- The counters of window w read out (R65, R70, R559, R584); what units counted that had passed its end already begins the next window (R64). -/
def State.readOut (s : State) (w : Nat) : State :=
  let accum := s.accum
  let s := { s with regs := s.regs.filter (fun e => !isWindowReg e.1), accum := s.ahead, ahead := [] }
  let s := (accum.filter (fun e => decide (e.1 < 2 ^ 32) && isWindowReg e.1)).foldl (fun s e => s.setReg e.1 (windowWord e.1 e.2)) s
  let s := s.floors accum
  let s := (List.range 6).foldl (fun s p => s.partEnergy accum w p) s
  let s := (List.range 2).foldl (fun s l => s.setField (Reg.pairLink l) 16 16 (min (Tab.getD accum (replayKey l) 0) 0xFFFF)) s
  s.setReg Reg.pwrOverhead (BitVec.ofNat 32 (Config.overheadEnergy w))

/-- What an HBM stack reports of a window kept at its memory-interface die (R314): its temperature, and its scrub errors counted. -/
def State.readStack (s : State) (r : StackReport) : State :=
  let m := s.mid (r.stack.val / 4)
  s.setMid (r.stack.val / 4) { m with temps := Tab.put m.temps (r.stack.val % 4) r.degrees.toNat,
                                      scrubErrors := Tab.modify m.scrubErrors (r.stack.val % 4) 0 (· + r.scrubErrors.toNat) }

/-- What the sensors of the module give a window (R314, R583, R586, R594): input, energy, coolant, stacks, converters, and the alerts and junction maxima
counted. -/
def State.readSensors (s : State) (x : WindowSensors) : State :=
  let s := x.hbmStacks.foldl State.readStack s
  let s := x.converters.foldl (fun s c =>
    (s.setField (Reg.ibcState c.converter.val) 8 8 c.degrees.toNat).setField (Reg.ibcState c.converter.val) 16 16 c.outDa.toNat) s
  let s := s.setReg Reg.pwrInput (BitVec.ofNat 32 (x.inputMv.toNat + x.inputDa.toNat * 2 ^ 16))
  let s := s.setReg Reg.pwrEnergy x.moduleUj
  let s := s.setReg Reg.thCoolant (BitVec.ofNat 32 (x.inlet.toNat + x.outlet.toNat * 2 ^ 8))
  let s := if 60 < x.inlet.toNat then s.setBit Reg.thStatus 10 else s
  let s := s.setField Reg.pwrAlerts 0 16 (min s.power.alerts 0xFFFF)
  let s := (List.range 108).foldl (fun s u => s.setField (Reg.thDie u) 8 8 (Tab.getD s.power.siteMax u 0)) s
  { s with power := { s.power with alerts := 0, siteMax := [] } }

/-- The end of the window before the one that the timebase stands in (R65, R70, R283, R318, R365, R504, R569, R583 to R585). -/
def State.endWindow (s : State) (x : WindowSensors) : State :=
  let s := (s.arrs.map (·.1)).foldl (fun s ga => s.foldPhase ga) s
  let s := s.readOut (s.tb.window - 1)
  let twice := fun (x : Slice) => (x.entries.filter (fun e => e.2.s0.isSome && e.2.s1.isSome)).length
  let s := s.slices.foldl (fun s e => s.atBase (s.sliceBase e.1) (fun s b => s.setReg (Reg.sliceCount b 5) (BitVec.ofNat 32 (twice e.2)))) s
  let s := s.readSensors x
  let s := { s with mids := Tab.mapAll s.mids (fun _ m => { m with laneFails := [] }),
                    halves := Tab.mapAll s.halves (fun _ h => { h with mismatches := [] }) }
  s.summarise

/-- Whether the master and every replica that has been loaded have reached a window. -/
def State.reached (s : State) (w : Nat) : Bool :=
  decide (w ≤ s.tb.master.toNat / 1000000) && s.replicaUnits.all (fun u => s.tb.loading.contains u || decide (w ≤ (s.replica u).toNat / 1000000))

/-- WINDOW_BOUNDARY (R63 to R65): once every unit has reached the next window. -/
def execWindowBoundary (sensed : WindowSensors) (s : State) : Host.Outcome State Fault Refusal :=
  next (if !s.tb.running ∨ !s.reached (s.tb.window + 1) then s
    else { s with tb := { s.tb with window := s.tb.window + 1 } }.endWindow sensed)

/-! Reads of low words. -/

/-- A low word read, its high word latched (R68). -/
def State.readLo (s : State) (lo hi : Nat) : State := { s.latchHi hi with readData := s.reg lo }

/-- A pair read whose value the panel holds elsewhere: the low word returned, the high word latched. -/
def State.readPair (s : State) (hi : Nat) (v : W64) : State :=
  { s.setReg hi ((v >>> 32).truncate 32) with readData := v.truncate 32 }

/-- TB_NOW_LO_READ (R68). -/
def execTbNowLoRead (s : State) : Host.Outcome State Fault Refusal := next (s.readPair Reg.tbNowHi s.tb.master)

/-- DL_TIME_LO_READ (R124). -/
def execDlTimeLoRead (a : Fin 768) (s : State) : Host.Outcome State Fault Refusal :=
  next (match s.arrayBase a.val with
    | some b => s.readLo (Reg.dlTimeLo b) (Reg.dlTimeHi b)
    | none => { s with readData := 0 })

/-- DEAD_ADDR_LO_READ (R283). -/
def execDeadAddrLoRead (d : Fin 96) (s : State) : Host.Outcome State Fault Refusal :=
  next (match s.sliceBase d.val with
    | some b => s.readLo (Reg.deadAddrLo b) (Reg.deadAddrHi b)
    | none => { s with readData := 0 })

/-- PARITY_ADDR_LO_READ (R283). -/
def execParityAddrLoRead (d : Fin 96) (s : State) : Host.Outcome State Fault Refusal :=
  next (match s.sliceBase d.val with
    | some b => s.readLo (Reg.parityAddrLo b) (Reg.parityAddrHi b)
    | none => { s with readData := 0 })

/-- POISON_ADDR_LO_READ (R345). -/
def execPoisonAddrLoRead (mid : Fin 8) (s : State) : Host.Outcome State Fault Refusal :=
  next (s.readLo (Reg.poisonAddrLo mid.val) (Reg.poisonAddrHi mid.val))

/-- CR_RECORD_LO_READ (R346). -/
def execCrRecordLoRead (c : Fin 448) (s : State) : Host.Outcome State Fault Refusal :=
  next (match s.courierBase c.val with
    | some b => s.readPair (Reg.crRecordHi b) (s.courier c.val).record
    | none => { s with readData := 0 })

/-- A read of PTM_LOCAL_LO: the rest of the pair latched with it (R379, R422). -/
def State.readPtm (s : State) (port : Nat) : State :=
  let x := s.port port
  let s := s.readPair (Reg.ptmLocalHi port) x.ptmLocal
  (s.setReg (Reg.ptmMasterLo port) (x.ptmMaster.truncate 32)).setReg (Reg.ptmMasterHi port) ((x.ptmMaster >>> 32).truncate 32)

/-- PTM_LOCAL_LO_READ (R379); a port that is not bound reads zero (R377). -/
def execPtmLocalLoRead (port : Fin 6) (s : State) : Host.Outcome State Fault Refusal :=
  next (if (s.boundTo port.val).isSome then s.readPtm port.val else { s with readData := 0 })

/-- RATE_FLOOR (R47): a die whose natural rate fell below fret 0 is recorded and goes on. -/
def execRateFloor (d : Fin 96) (s : State) : Host.Outcome State Fault Refusal :=
  next (match s.siteOf d.val with
    | none => s
    | some site =>
      let s := (s.count (floorKey d.val) 1).setBit Reg.rateStatus 16
      s.raise { FaultRec.plain 0x0206 (unitDest site) (s.replica site) (s.partOfDie d.val) with detail := [BitVec.ofNat 32 site, 0, 0, 0, 0] })

end Sys2Proof.Machine
end

