-- ==== Sys2Proof/Machine/Stop.lean ====
section
/-! DEFINITION. Stopping a partition's work: poisoning (R517), the stop of R432, and what the sides of a pair do when they part: withdrawal,
detachment and the fence (R537, R542, R552, R556). -/

namespace Sys2Proof.Machine

/-! Messages on the pair links. -/

/-- Whether a pair link qualifies for a partition (R537). -/
def State.linkQualifies (s : State) (p l : Nat) : Bool := s.bit (Reg.pairLink l) 0 && s.field (Reg.bktRate Bucket.pair (6 * l + p)) 0 24 != 0

/-- The primary link of a partition (R537). -/
def State.primary (s : State) (p : Nat) : Option Nat := [0, 1].find? (s.linkQualifies p)

/-- A partition's next message sent on a link: it takes the next sequence number (R535, R536). -/
def State.pairSendOn (s : State) (p l type : Nat) (fields : List Nat) : State :=
  let x := s.pair p
  (s.setPair p { x with txSeq := x.txSeq + 1 }).sendPair { link := l, part := p, type := type, seq := x.txSeq + 1, fields := fields }

/-- A partition's next message sent on its primary link, if it has one (R537). -/
def State.pairSend (s : State) (p type : Nat) (fields : List Nat) : State := match s.primary p with
  | some l => s.pairSendOn p l type fields
  | none => s

/-- WITHDRAW sent with a reason on a link that is up (R542, R549, R552, R557). -/
def State.sendWithdraw (s : State) (p reason : Nat) : State := match [0, 1].find? (fun l => s.bit (Reg.pairLink l) 0) with
  | some l => (s.pairSendOn p l 0xC [reason]).setBit Reg.pairStatus 6
  | none => s

/-- The pair state of a partition changed. -/
def State.setPairState (s : State) (p st : Nat) : State := s.setField (Reg.pairState p) 0 3 st

/-- A partition goes on ALONE (R542, R549, R552, R553): digests that wait for the partner are done without comparison, with DETAIL 2 (R548). -/
def State.goAlone (s : State) (p : Nat) : State :=
  let x := s.pair p
  let s := (s.setPairState p 4).setPair p { x with digestWork := [], theirChunks := [], ownChunks := [], partnerDone := [] }
  x.digestWork.foldl (fun s e =>
    let s := s.setField (Reg.pairState p) 16 16 (s.field (Reg.pairState p) 16 16 + 1)
    s.serve1 e.2.1 (2 + (if e.2.2 then 256 else 0))) s

/-! Halting. -/

/-- Every block of a partition halted (R432, R517, R556). -/
def State.haltAll (s : State) (p : Nat) : State :=
  (s.partArrays p).foldl (fun s ga =>
    let a := s.arr ga
    if a.blocks = [] then s else s.setArr ga { a with blocks := Tab.mapAll a.blocks (fun _ b => { b with halted := true }) }) s

/-- The couriers of a partition's dies and memory-interface dies (R346). -/
def State.partCouriers (s : State) (p : Nat) : List Nat :=
  (s.partDies p).flatMap (fun d => (List.range 4).map (· + 4 * d)) ++
    ((List.range 8).filter (bitAt (s.partSectors p))).flatMap (fun m => (List.range 8).map (· + 384 + 8 * m))

/-- Every courier of a partition stopped where it stands (R517, R556). -/
def State.stopCouriers (s : State) (p : Nat) : State :=
  (s.partCouriers p).foldl (fun s c =>
    let x := s.courier c
    if x.free then s else s.setCourier c { Courier.reset with st := .stopped, part := x.part, record := x.record, lastStatus := 4 }) s

/-- Poisoning (R517): the partition's bit, its blocks and its couriers; the writes to memory and to the host are refused from now on by the
units that perform them. -/
def State.poison (s : State) (p : Nat) : State := ((s.setBit Reg.partPoison p).haltAll p).stopCouriers p

/-! Host-coherent lines. -/

/-- Host-coherent lines that a slice holds modified. -/
def Slice.hostLines (x : Slice) : List SLine :=
  (x.entries.flatMap (fun e => e.2.lines)).filter (fun l => decide (hcStart ≤ 128 * l.line) && (l.st == .dirty || l.st == .partialLine))

/-- A slice without its host-coherent lines. -/
def Slice.dropHost (x : Slice) (f : SLine → Bool) : Slice :=
  let keep := fun (o : Option SLine) => o.filter (fun l => decide (128 * l.line < hcStart) || !f l)
  { x with entries := (x.entries.map (fun e => (e.1, { e.2 with s0 := keep e.2.s0, s1 := keep e.2.s1 }))).filter (fun e => e.2.lines != []) }

/-- A count added to HC_LOST, saturating (R412, R422). -/
def State.hcLost (s : State) (port n : Nat) : State :=
  s.setField (Reg.hcCtl port) 16 12 (min (s.field (Reg.hcCtl port) 16 12 + n) 0xFFF)

/-- The host-coherent lines of a partition that a test picks given up by their slices: those held modified are written back by a slice that
answers, and lost from one that does not (R411, R418, R433). -/
def State.flushHc (s : State) (p : Nat) (f : SLine → Bool) : State :=
  (s.partDies p).foldl (fun s d =>
    let x := s.slice d
    let out := x.hostLines.filter f
    let s := if x.entries = [] then s else s.setSlice d (x.dropHost f)
    if (s.siteOf d).isSome then out.foldl (fun s l => s.hostLineOut p l) s else if out = [] then s else s.hcLost (s.partPort p) out.length) s

/-! The stop of a partition (R432). -/

/-- What a fault fatal to a partition does to one of its taken entries: running launches and chains receive FAULTED, those not begun are
refused with PARTITION_STOPPED. -/
def State.stopEntry (s : State) (k : Work) (fault unit : W32) : State :=
  if k.type = 1 then
    match k.phase with
    | .queued => s.refuse k.id 0x80
    | .running => s.faulted k.id (k.fault.getD (fault, unit)).1 (k.fault.getD (fault, unit)).2
    | .stopping => s.faulted k.id (k.fault.getD (fault, unit)).1 (k.fault.getD (fault, unit)).2
    | .closing => s.faulted k.id (k.fault.getD (fault, unit)).1 (k.fault.getD (fault, unit)).2
    | _ => s
  else if k.type = 2 then
    match k.phase with
    | .waiting => s.refuse k.id 0x80
    | .running =>
      let x := s.courier k.courier
      s.finish k.id false (fun k => { k.receipt true 6 0 with fault := fault, unit := unit, detail := x.record &&& ~~~(0xFF : W64) ||| 4 })
    | _ => s
  else s

/-- A partition enters STOPPING with a fault (R432, R433): its blocks halt, its work has its outcomes, and its host-coherent lines are
written back, unless a fenced partition keeps them until it may write (R552). -/
def State.stopPartition (s : State) (p : Nat) (fault unit : W32) : State :=
  let s := (s.setField (Reg.partState p) 0 3 3).haltAll p
  let s := (s.works.filter (fun k => k.part == p)).foldl (fun s k => s.stopEntry k fault unit) s
  let s := s.stopCouriers p
  if s.hostMuted p then s else s.flushHc p (fun _ => true)

/-! Parting (R542, R552, R556). -/

/-- A panel no longer mirrors: DETACHED, its blocks halted, its couriers stopped. -/
def State.standDown (s : State) (p : Nat) : State := ((s.setPairState p 5).haltAll p).stopCouriers p

/-- A follower leaves mirroring with a reason, which WITHDRAW tells the leader. -/
def State.detach (s : State) (p reason : Nat) : State := (s.sendWithdraw p reason).standDown p

/-- A leader that has failed (R552): FAILOVER to the partner, FENCED, and the partition stopped; it writes nothing to the host until it may. -/
def State.failOver (s : State) (p : Nat) (fault unit : W32) : State :=
  let s := (s.pairSend p 0x9 [fault.toNat]).setBit Reg.pairStatus 5
  let s := (s.setPairState p 6).setPair p { s.pair p with fencedAt := s.tb.master, accepted := false, mayWrite := false }
  s.stopPartition p fault unit

end Sys2Proof.Machine
end

