-- ==== Sys2Proof/Machine/Dispatcher.lean ====
section
/-! DEFINITION. The dispatcher of a partition: pigeonholes placed, loaded and evicted (R451 to R455, R458), arrays offered to launches (R435
to R442), and launches that have stopped (R406, R443, R444). -/

namespace Sys2Proof.Machine

/-! Pigeonholes. -/

/-- STATE, PINNED, USERS and the first granule of a pigeonhole (R461). -/
def State.phIs (s : State) (p h : Nat) : Nat := s.field (Reg.phState p h) 0 3
def State.phPinned (s : State) (p h : Nat) : Bool := s.bit (Reg.phState p h) 3
def State.phInUse (s : State) (p h : Nat) : Nat := s.field (Reg.phState p h) 8 10
def State.phGranule (s : State) (p h : Nat) : Nat := s.field (Reg.phState p h) 19 13

/-- Granules an image takes (R451). -/
def granulesOf (size : Nat) : Nat := (size + 2 ^ 28 - 1) / 2 ^ 28

/-- The runs of granules that pigeonholes picked by a test hold: first and count. -/
def State.phRuns (s : State) (p : Nat) (f : Nat → Bool) : List (Nat × Nat) :=
  ((s.part p).pigeonholes.filter (fun e => s.phGranule p e.1 != 0x1FFF && f e.1)).map (fun e => (s.phGranule p e.1, granulesOf e.2.size.toNat))

/-- The lowest run of so many granules of the area that meets none of a list of runs (R451). -/
def State.phFit (s : State) (p need : Nat) (runs : List (Nat × Nat)) : Option Nat :=
  let total := 4 * s.field (Reg.phArea p) 16 16
  let clear := fun g => decide (g + need ≤ total) && runs.all (fun r => decide (g + need ≤ r.1) || decide (r.1 + r.2 ≤ g))
  ((0 :: runs.map (fun r => r.1 + r.2)).filter clear).foldl (fun b g => match b with
    | some x => some (min x g)
    | none => some g) none

/-- The follower told of a decision about a pigeonhole (R545). -/
def State.phTell (s : State) (p h : Nat) : State :=
  if s.pairState p ≠ 2 then s
  else match Tab.get (s.part p).pigeonholes h with
    | none => s
    | some x => s.pairSend p 0x5 [h, s.phIs p h, s.phGranule p h, x.lastUse.toNat, x.loadGen.toNat]

/-- A pigeonhole changed. -/
def State.modPh (s : State) (p h : Nat) (f : Pigeonhole → Pigeonhole) : State :=
  let y := s.part p
  match Tab.get y.pigeonholes h with
  | none => s
  | some x => s.setPart p { y with pigeonholes := Tab.put y.pigeonholes h (f x) }

/-- A pigeonhole back in FAR, its granules free (R455, R458). -/
def State.phFree (s : State) (p h : Nat) : State := ((s.phTo p h 1).setField (Reg.phState p h) 19 13 0x1FFF).phTell p h

/-- A resident pigeonhole evicted (R455): its granules free at once, or after the copy back. -/
def State.phEvict (s : State) (p h : Nat) : State :=
  let s := ((s.phWrite p h 0x20 8 (2 ^ 64 - 1)).setBit (Reg.partStatus p) 7).partCount p 6
  if !s.bit (Reg.phState p h) 4 then s.phFree p h
  else
    let n := s.partN p
    let s := s.modPh p h (fun x => { x with todo := List.range n, partsLeft := n, warming := false })
    ((s.phTo p h 4).phTell p h).startPhParts p

/-- A pigeonhole's load begun at a run of granules (R451, R452). -/
def State.phPlace (s : State) (p h g : Nat) : State :=
  let n := s.partN p
  let y := s.part p
  let s := s.setPart p { y with phWanted := y.phWanted.filter (· != h) }
  let s := s.modPh p h (fun x => { x with todo := List.range n, partsLeft := n, warming := false, decided := false })
  ((s.setField (Reg.phState p h) 19 13 g).phTo p h 2 |>.phTell p h).startPhParts p

/-- A load that no run of granules could ever hold (R454): its launches are refused, its management entry answered. -/
def State.phNoRoom (s : State) (p h : Nat) : State :=
  let y := s.part p
  let waiting := ((Tab.get y.pigeonholes h).map (·.waiting)).getD []
  let s := s.setPart p { y with phWanted := y.phWanted.filter (· != h) }
  let s := s.modPh p h (fun x => { x with waiting := [], pinAfter := false })
  let s := (s.works.filter (fun k => k.part == p && k.type == 1 && k.phase == .queued && k.pigeonhole == h)).foldl (fun s k => s.refuse k.id 0x51) s
  waiting.foldl (fun s id => s.serve1 id 4) s

/-- Whether a run of granules free of pinned pigeonholes could ever hold an image (R454). -/
def State.phCould (s : State) (p h need : Nat) : Bool := (s.phFit p need (s.phRuns p (fun j => j != h && s.phPinned p j))).isSome

/-- What one attempt at a wanted load does (R453, R454). -/
inductive PhMove where
  /-- It waits, or is not wanted any more. -/
  | wait
  /-- No run of granules could ever hold it. -/
  | refuse
  /-- It is placed at this granule. -/
  | place (granule : Nat)
  /-- The pigeonhole of this number is evicted to make room, and the load is attempted again. -/
  | evict (pigeonhole : Nat)
  deriving DecidableEq, Repr

/-- What the next attempt at a wanted load does (R453, R454): eviction is in LAST_USE order, of pigeonholes neither pinned nor in use. -/
def State.phMove (s : State) (p h : Nat) : PhMove :=
  match Tab.get (s.part p).pigeonholes h with
  | none => .wait
  | some x =>
    let need := granulesOf x.size.toNat
    if s.phIs p h ≠ 1 then .wait
    else if !s.phCould p h need then .refuse
    else match s.phFit p need (s.phRuns p (fun _ => true)) with
      | some g => .place g
      | none =>
        if (s.phFit p need (s.phRuns p (fun j => s.phIs p j != 4))).isSome then .wait
        else
          let out := (s.part p).pigeonholes.filter (fun e => s.phIs p e.1 == 3 && !s.phPinned p e.1 && s.phInUse p e.1 == 0)
          match sortBy (fun (e : Nat × Pigeonhole) => e.2.lastUse.toNat) out with
          | [] => .wait
          | e :: _ => .evict e.1

/-- An attempt made (R453, R454). -/
def State.phDo (s : State) (p h : Nat) : PhMove → State
  | .wait => s
  | .refuse => s.phNoRoom p h
  | .place g => s.phPlace p h g
  | .evict j => s.phEvict p j

/-- Whether another attempt follows it: only after an eviction. -/
def PhMove.again : PhMove → Bool
  | .evict _ => true
  | _ => false

/-- A wanted load taken as far as it goes, attempt after attempt (R453, R454). -/
def State.phTry (p h : Nat) : Nat → State → State
  | 0, s => s
  | n + 1, s =>
    if (s.phMove p h).again then State.phTry p h n (s.phDo p h (s.phMove p h)) else s.phDo p h (s.phMove p h)

/-- Every wanted load of a partition tried, in the order wanted; a follower makes no placement of its own (R545), but refuses what could
never be placed (R454). -/
def State.phServe (s : State) (p : Nat) : State :=
  (s.part p).phWanted.foldl (fun s h =>
    if !s.follows p then State.phTry p h 65 s
    else match Tab.get (s.part p).pigeonholes h with
      | some x => if s.phIs p h = 1 ∧ !s.phCould p h (granulesOf x.size.toNat) then s.phNoRoom p h else s
      | none => s) s

/-- A load of a pigeonhole in FAR wanted (R453). -/
def State.phWant (s : State) (p h : Nat) : State :=
  let y := s.part p
  if s.phIs p h = 1 ∧ !y.phWanted.contains h then s.setPart p { y with phWanted := y.phWanted ++ [h] } else s

/-! Arrays for launches. -/

/-- Arrays held by the launches of a class (R440, R461). -/
def State.heldBy (s : State) (p : Nat) (latency : Bool) : Nat :=
  ((s.works.filter (fun k => k.part == p && k.type == 1 && k.latency == latency)).map (·.arrays.length)).foldl (· + ·) 0

/-- Whether an array could hold one block of a launch: its open quarters have slots for its groups (R84, R238). -/
def State.couldHold (s : State) (k : Work) (ga : Nat) : Bool :=
  decide (groupsFor k.threads ≤ ((List.range 4).filter (s.quarterOpen ga)).length * quarterCap k.regs)

/-- The arrays of a partition that no launch holds and no block stands on. -/
def State.freeArrays (s : State) (p : Nat) : List Nat :=
  let held := (s.works.filter (fun k => k.part == p)).flatMap (·.arrays)
  (s.partArrays p).filter (fun ga => (s.siteOf (ga / 8)).isSome && !held.contains ga && (s.arr ga).blocks.isEmpty)

/-- Up to n free arrays for a launch: those of its LS_BANKS first, each group ascending (R436). -/
def State.pick (s : State) (k : Work) (n : Nat) : List Nat :=
  (sortBy (fun ga => if (s.arr ga).lsBanks = k.lsBanks then 0 else 1) ((s.freeArrays k.part).filter (s.couldHold k))).take n

/-- Whether a slice of a port is being reset (R604). -/
def State.sliceResetting (s : State) (port sl : Nat) : Bool :=
  if sl < 32 then s.bit (Reg.sliceRstLo port) sl else s.bit (Reg.sliceRstHi port) (sl - 32)

/-- Whether a queued launch is eligible but for its pigeonhole (R405, R418, R438). -/
def State.mayRun (s : State) (k : Work) : Bool := !s.afterHeld k && !s.quiesced k && !s.sliceResetting k.port k.slice

/-- Whether the pigeonhole a launch names, if any, is resident (R438). -/
def State.phReady (s : State) (k : Work) : Bool := decide (64 ≤ k.pigeonhole) || s.phIs k.part k.pigeonhole == 3

/-- Whether a queued launch is eligible (R438). -/
def State.eligible (s : State) (k : Work) : Bool := s.mayRun k && s.phReady k

/-- The launches queued in a class, in take order (R437). -/
def State.queue (s : State) (p : Nat) (latency : Bool) : List Work :=
  s.works.filter (fun k => k.part == p && k.type == 1 && k.phase == .queued && k.latency == latency)

/-- A of a latency-critical launch (R440). -/
def State.lcNeed (s : State) (k : Work) : Nat := min k.want (k.lcArrays - (s.heldBy k.part true - k.arrays.length))

/-- Arrays best-effort launches may yet take, by the options a launch was taken with (R441). -/
def State.beRoom (s : State) (k : Work) : Nat :=
  if k.options.getLsbD 2 then 96 * s.partN k.part else 96 * s.partN k.part - k.lcArrays - s.heldBy k.part false

/-- Arrays given to a launch. -/
def State.give (s : State) (id : Nat) (l : List Nat) : State := s.modWork id (fun k => { k with arrays := k.arrays ++ l })

/-- A launch started (R440, R441, R453, R548). -/
def State.startLaunch (s : State) (id : Nat) : State :=
  match s.work id with
  | none => s
  | some k =>
    let p := k.part
    let s := (s.modWork id (fun k => { k with phase := .running, startSeq := (s.part p).startSeq })).partCount p 0
    let s := if k.kflags.getLsbD 1 then s.setPair p { s.pair p with nondet := true } else s
    if 64 ≤ k.pigeonhole then s
    else
      let now := s.hidTime k.port
      let s := if k.startSeq = 0 then s.phUsers p k.pigeonhole true else s
      if s.follows p then s else (s.modPh p k.pigeonhole (fun x => { x with lastUse := now })).phWrite p k.pigeonhole 0x28 8 now.toNat

/-- A stop made pending for a running launch, or a pending one made firmer: a cancellation overrides a preemption, a dissolution both (R406,
R431, R444). -/
def stopRank : StopWhy → Nat
  | .latencyCritical => 0
  | .preemptEntry => 0
  | .quiesce => 1
  | .cancel => 2
  | .sliceReset => 2
  | .dissolve => 3
  | .linkDown => 4
def State.stopFor (s : State) (id : Nat) (why : StopWhy) : State :=
  let s := s.modWork id (fun k => { k with why := match k.why with
    | some w => if stopRank w < stopRank why then some why else some w
    | none => some why })
  s.stopLaunch id why

/-- Best-effort launches preempted for a latency-critical one (R442): the most recently started first. -/
def State.preemptFor (id need : Nat) : Nat → State → State
  | 0, s => s
  | n + 1, s =>
    match s.work id with
    | none => s
    | some k =>
      let be := s.works.filter (fun j => j.part == k.part && j.type == 1 && !j.latency)
      let freed := ((s.works.filter (fun j => j.part == k.part && j.type == 1 && j.phase == .stopping)).map (·.arrays.length)).foldl (· + ·) 0
      let freedBe := ((be.filter (fun j => j.phase == .stopping)).map (·.arrays.length)).foldl (· + ·) 0
      let going := be.filter (fun j => j.phase == .running && j.fault.isNone)
      if need ≤ k.arrays.length + freed ∨ s.heldBy k.part false - freedBe ≤ 96 * s.partN k.part - k.lcArrays then s
      else match (sortBy (fun j => j.startSeq) going).getLast? with
        | none => s
        | some j => State.preemptFor id need n (s.stopFor j.id .latencyCritical)

/-- The latency-critical queue served (R439, R440, R442); whether the launch looked at stands at its head. -/
def State.serveLc : List Work → Bool → State → State
  | [], _, s => s
  | k :: t, head, s =>
    if !s.eligible k then State.serveLc t head s
    else
      let need := s.lcNeed k
      if need = 0 then State.serveLc t false s
      else
        let s := s.give k.id (s.pick k (need - k.arrays.length))
        match s.work k.id with
        | none => State.serveLc t head s
        | some j =>
          if need ≤ j.arrays.length then State.serveLc t head (s.startLaunch k.id)
          else State.serveLc t false (if head then State.preemptFor k.id need s.works.length s else s)

/-- The best-effort queue served (R439, R441). -/
def State.serveBe (s : State) (k : Work) : State :=
  if !s.eligible k then s
  else match s.pick k (min k.want (s.beRoom k)) with
    | [] => s
    | l => (s.give k.id l).startLaunch k.id

/-- A running launch that has unassigned blocks given further arrays (R439). -/
def State.serveMore (s : State) (k : Work) : State :=
  let room := if k.latency then k.lcArrays - s.heldBy k.part true else s.beRoom k
  s.give k.id (s.pick k (min (k.want - k.arrays.length) room))

/-- The running launches of a class that may take more arrays. -/
def State.hungry (s : State) (p : Nat) (latency : Bool) : List Work :=
  s.works.filter (fun k => k.part == p && k.type == 1 && k.phase == .running && k.latency == latency && decide (k.nextBlock < k.blocks) && !k.haltDispatch)

/-- The loads that launches want, in queue order (R453). -/
def State.wantLoads (s : State) (p : Nat) : State :=
  let l := s.queue p true ++ s.queue p false
  l.foldl (fun s k => if k.pigeonhole < 64 ∧ s.mayRun k then s.phWant p k.pigeonhole else s) s

/-- The arrays of a partition offered (R439): to queued launches by class, then to running ones. -/
def State.dispatch (s : State) (p : Nat) : State :=
  if s.partState p ≠ 2 ∨ s.poisoned p then s
  else
    let y := s.part p
    let s := s.setPart p { y with startSeq := y.startSeq + 1 }
    let s := (s.wantLoads p).phServe p
    let s := State.serveLc (s.queue p true) true s
    let s := (s.queue p false).foldl State.serveBe s
    let s := (s.hungry p true).foldl State.serveMore s
    (s.hungry p false).foldl State.serveMore s

/-- DISPATCH_OFFER (R439, R442). -/
def execDispatchOffer (p : Fin 6) (s : State) : Host.Outcome State Fault Refusal := next (s.dispatch p.val)

/-! Launches that have stopped. -/

/-- The CANCEL and PREEMPT entries that wait for an entry answered (R399, R406, R408). -/
def State.answerTargets (s : State) (id detail : Nat) (f : Work → Bool) : State :=
  (s.works.filter (fun k => k.target == some id && k.phase == .waiting && f k)).foldl (fun s k => s.serve1 k.id detail) s

/-- A launch's stop given up: its threads run on, those that stand at one address merged (R94). -/
def State.unstop (s : State) (id : Nat) : State :=
  let s := s.modWork id (fun k => { k with phase := .running, why := none })
  (s.launchBlocks id).foldl (fun s e =>
    let a := s.arr e.1
    match Tab.get a.blocks e.2 with
    | none => s
    | some b =>
      let groups := Tab.mapAll a.groups (fun _ g => if g.block = e.2 then
        ({ g with subs := g.subs.map (fun (u : Sub) => { u with stopped := false }) }).settle a.steps else g)
      s.setArr e.1 { a with blocks := Tab.put a.blocks e.2 { b with stopPending := false }, groups := groups }) s

/-- A stopped launch back in its queue, to start again from its first block (R408, R443). -/
def State.requeue (s : State) (id : Nat) : State :=
  (s.discardBlocks id).modWork id (fun k =>
    { k with phase := .queued, why := none, nextBlock := 0, retired := 0, arrays := [], fences := [], hostArrays := [], lostOrder := [], steps := 0, haltDispatch := false })

/-- A preempted launch (R443, R444): requeued with an interim receipt, or refused at its limit. -/
def State.preempted (s : State) (k : Work) (reason : Nat) : State :=
  let s := s.partCount k.part 3
  let s := s.modWork k.id (fun k => { k with preempts := k.preempts + 1 })
  let limit := bitsOf k.options.toNat 8 8
  let s := if limit ≠ 0 ∧ limit < k.preempts + 1 then
      ((s.discardBlocks k.id).refuse k.id 0x71).setBit (Reg.partStatus k.part) 6
    else
      let s := s.requeue k.id
      match s.work k.id with
      | some j => s.interim (j.receipt false 3 reason) j
      | none => s
  s.answerTargets k.id 0 (fun j => j.type == 4)

/-- A launch whose blocks have all stopped (R406, R431, R443): requeued, or ended with the receipt its stop calls for. -/
def State.launchEnd (s : State) (k : Work) : State :=
  let cancel := fun (s : State) (reason : Nat) => match k.fault with
    | some f => if reason = 0 then s.faulted k.id f.1 f.2 else s.cancelled k.id reason
    | none => s.cancelled k.id reason
  match k.why with
  | some .preemptEntry => if k.fault.isSome then (s.unstop k.id).answerTargets k.id 3 (fun j => j.type == 4) else s.preempted k 0x101
  | some .latencyCritical => if k.fault.isSome then s.unstop k.id else s.preempted k 0x100
  | some .quiesce => if k.fault.isSome then s.unstop k.id else s.requeue k.id
  | some .dissolve => cancel (s.discardBlocks k.id) 0x300
  | some .linkDown => (s.discardBlocks k.id).finish k.id true (fun k => k.receipt true 5 0)
  | _ => cancel (s.discardBlocks k.id) 0

/-- LAUNCH_STOPPED (R120, R406, R443, R444). -/
def execLaunchStopped (port : Fin 6) (m : Fin 4096) (seq : BitVec 64) (s : State) : Host.Outcome State Fault Refusal :=
  next (match s.works.find? (fun k => k.port == port.val && k.mailbag == m.val && k.seq == seq && k.type == 1 && k.phase == .stopping) with
    | none => s
    | some k => if s.launchStopped k.id then (s.launchEnd k).dispatch k.part else s)

end Sys2Proof.Machine
end

