-- ==== Sys2Proof/Machine/Mailbag.lean ====
section
/-! DEFINITION. Mailbags (R384 to R390): their counts and configuration, the taking of entries, and what a taken entry must be (R391, R392,
R541). -/

namespace Sys2Proof.Machine

/-- Whether a slice of a port is enabled (R380). -/
def State.sliceOn (s : State) (port sl : Nat) : Bool := s.bit (Reg.slicePasid port sl) 31

/-- Whether a doorbell of a mailbag's letterbox page is heard (R383). -/
def State.doorbell (s : State) (port m : Nat) : Bool := s.barOpen port && s.sliceOn port (s.ownerOf port m)

/-- ENABLE of a mailbag, and its ring's length (R384). -/
def State.mbOn (s : State) (port m : Nat) : Bool := s.bit (Reg.mailbagCtl port m) 0
def State.mbSlots (s : State) (port m : Nat) : Nat := 2 ^ s.mbLog port m

/-- A write of TAIL (R387). -/
def State.tailWrite (s : State) (port m : Nat) (v : W32) : State :=
  let x := s.mailbag port m
  if !s.doorbell port m then s
  else if !s.mbOn port m then s.setBit (Reg.mailbagStatus port m) 2
  else if s.mbSlots port m < (v - x.head).toNat then
    ((s.setBit (Reg.mailbagCtl port m) 8).setBit (Reg.mailbagStatus port m) 0).setMailbag port m { x with reading := false }
  else s.setMailbag port m { x with tail := v }

/-- MAILBAG_TAIL (R385, R387). -/
def execMailbagTail (port : Fin 6) (m : Fin 4096) (v : BitVec 32) (s : State) : Host.Outcome State Fault Refusal :=
  next (s.tailWrite port.val m.val v)

/-- A write of RHEAD (R387, R404). -/
def State.rheadWrite (s : State) (port m : Nat) (v : W32) : State :=
  let x := s.mailbag port m
  if !s.doorbell port m then s
  else if !s.mbOn port m ∨ s.mbSlots port m < ((x.rcount.truncate 32 : W32) - v).toNat then s.setBit (Reg.mailbagStatus port m) 2
  else s.setMailbag port m { x with rhead := v }

/-- RECEIPT_HEAD (R385, R404). -/
def execReceiptHead (port : Fin 6) (m : Fin 4096) (v : BitVec 32) (s : State) : Host.Outcome State Fault Refusal :=
  next (s.rheadWrite port.val m.val v)

/-- The receipt ring and the tail word of a mailbag within the host-coherent region (R384). -/
def State.ringOff (s : State) (port m : Nat) : Nat := 4096 * s.field (Reg.receiptRing port m) 12 14
def State.tailOff (s : State) (port m : Nat) : Nat := 8 * s.field (Reg.receiptTailAt port m) 3 23

/-- Whether n bytes at an offset lie in a slice's host-coherent window and in the region (R381, R384). -/
def State.hcHolds (s : State) (port sl off n : Nat) : Bool :=
  let w := (s.reg (Reg.sliceHc port sl)).toNat
  inWindow (bitsOf w 0 10) (bitsOf w 16 11) 0x10000 off && inWindow (bitsOf w 0 10) (bitsOf w 16 11) 0x10000 (off + n - 1) &&
    decide (off + n ≤ s.hcBytes port)

/-- Whether a mailbag's configuration passes the check of R390. -/
def State.mbFits (s : State) (port m : Nat) : Bool :=
  let k := s.mbLog port m
  let sl := s.ownerOf port m
  decide (6 ≤ k) && decide (k ≤ 16) && s.bit (Reg.hcCtl port) 8 && s.ringOff port m % (64 * 2 ^ k) == 0 &&
    s.hcHolds port sl (s.ringOff port m) (64 * 2 ^ k) && s.hcHolds port sl (s.tailOff port m) 8

/-- Whether a mailbag has taken entries without a written final receipt (R390). -/
def State.mbBusy (s : State) (port m : Nat) : Bool := s.works.any (fun k => k.port == port && k.mailbag == m && !s.receipted k)

/-- ENABLE set (R385, R390): the four counts start at 0, and what was finished before is forgotten. -/
def State.mbStart (s : State) (port m : Nat) : State :=
  let s := ((s.setBit (Reg.mailbagCtl port m) 0).clearBit (Reg.mailbagCtl port m) 8).setMailbag port m Mailbag.reset
  { s with works := s.works.filter (fun k => k.port != port || k.mailbag != m || k.phase != .finished) }

/-- A write of MAILBAG_CTL (R390): nothing while DRAINING; LOG2 changes only while ENABLE is 0. -/
def State.mbCtlWrite (s : State) (port m : Nat) (v : W32) : State :=
  let ctl := Reg.mailbagCtl port m
  if !s.barOpen port ∨ s.bit ctl 9 then s
  else if s.bit ctl 0 then
    if v.getLsbD 0 then s
    else
      let s := (s.clearBit ctl 0).setMailbag port m { s.mailbag port m with reading := false }
      if s.mbBusy port m then s.setBit ctl 9 else s
  else
    let s := s.setField ctl 1 5 (bitsOf v.toNat 1 5)
    if !v.getLsbD 0 then s else if s.mbFits port m then s.mbStart port m else s.setBit (Reg.mailbagStatus port m) 3

/-- MAILBAG_ENABLE (R384, R385, R390). -/
def execMailbagEnable (port : Fin 6) (m : Fin 4096) (v : BitVec 32) (s : State) : Host.Outcome State Fault Refusal :=
  next (s.mbCtlWrite port.val m.val v)

/-! Taking entries. -/

/-- Whether a mailbag's entries may be taken at all now (R387, R412, R418, R471, R483, R540, R541, R604): its partition is formed, keyed and
not dissolving; a joining panel and a follower take none. -/
def State.taking (s : State) (port m : Nat) : Bool := match s.boundTo port with
  | none => false
  | some p =>
    let sl := s.ownerOf port m
    let st := s.partState p
    let pair := s.pairState p
    (s.port port).linkUp && s.barOpen port && s.mbOn port m && !s.bit (Reg.mailbagCtl port m) 8 && s.sliceOn port sl && s.keyState p == 2 &&
      st != 0 && st != 1 && st != 7 && pair != 1 && pair != 3 && !s.bit (Reg.saveCtl port sl) 0 && !s.sliceResetting port sl

/-- Whether the next entry of a mailbag is there to be taken and has a receipt slot (R388). -/
def State.mayTake (s : State) (port m : Nat) : Bool :=
  let x := s.mailbag port m
  s.taking port m && !x.reading && x.head != x.tail && decide (s.reservedSlots port m < s.freeSlots port m)

/-- ENTRY_TAKE (R388): the read of entry HEAD issued. -/
def execEntryTake (port : Fin 6) (m : Fin 4096) (s : State) : Host.Outcome State Fault Refusal :=
  next (if s.mayTake port.val m.val then s.setMailbag port.val m.val { s.mailbag port.val m.val with reading := true } else s)

/-- TYPE, FLAGS and SEQ of an entry (R391), and 16 bits of its body. -/
def entryType (e : BitVec 512) : Nat := bitsOf e.toNat 0 8
def entryAfter (e : BitVec 512) : Bool := bitAt e.toNat 8
def entrySeq (e : BitVec 512) : W64 := BitVec.ofNat 64 (bitsOf e.toNat 64 64)
def entryOp (e : BitVec 512) : Nat := bitsOf e.toNat 128 16

/-- Whether a reserved field of an entry is not zero (R391, R393, R394). -/
def entryReserved (e : BitVec 512) : Bool :=
  let x := e.toNat
  bitsOf x 9 55 != 0 ||
    (match entryType e with
      | 1 => bitsOf x (8 * 0x37) 72 != 0
      | 6 => bitsOf x 128 384 != 0
      | _ => bitsOf x (8 * 0x12) 48 != 0 || bitsOf x (8 * 0x20) 256 != 0)

/-- Whether an entry is malformed in a mailbag (R392, R405). -/
def entryMalformed (x : Mailbag) (e : BitVec 512) : Bool :=
  let t := entryType e
  t == 0 || decide (6 < t) || entryReserved e || (x.anySeq && decide ((entrySeq e).toNat ≤ x.lastSeq.toNat)) ||
    ((t == 3 || t == 4) && entryAfter e)

/-- A slice's PASID and windows as they stand (R382). -/
def State.snapNow (s : State) (port sl : Nat) : Snap :=
  { pasid := s.reg (Reg.slicePasid port sl), hbm := s.reg (Reg.sliceHbm port sl), far := s.reg (Reg.sliceFar port sl), hc := s.reg (Reg.sliceHc port sl) }

/-- A taken entry before anything is done for it. -/
def State.newWork (s : State) (id p port m sl : Nat) (e : BitVec 512) : Work :=
  { id := id, port := port, part := p, mailbag := m, seq := entrySeq e, type := entryType e, after := entryAfter e, entry := e, slice := sl,
    snap := s.snapNow port sl, phase := .handed, why := none, preempts := 0, defers := 0, steps := 0, latency := false, pigeonhole := 255,
    kernelEntry := 0, textLo := 0, textHi := 0, kernelId := 0, loadGen := 0, kflags := 0, want := 0, nextBlock := 0, retired := 0,
    arrays := [], startSeq := 0, haltDispatch := false, fault := none, fwd := 0, acked := false, target := none, fences := [],
    hostArrays := [], lostOrder := [], options := s.reg (Reg.partOptions p), lcArrays := min (s.field (Reg.partClass p) 0 10) (96 * s.partN p) }

/-- An entry added to the taken ones, its mailbag's HEAD past it; its number. -/
def State.addWork (s : State) (p port m : Nat) (e : BitVec 512) : Nat × State :=
  let x := s.mailbag port m
  let bad := entryMalformed x e
  let (id, s) := s.newId
  let k := s.newWork id p port m (s.ownerOf port m) e
  let s := { s with works := s.works ++ [k] }
  let x := { x with head := x.head + 1, reading := false, lastSeq := if bad then x.lastSeq else entrySeq e, anySeq := x.anySeq || !bad }
  let s := s.setMailbag port m x
  let y := s.part p
  let s := if entryType e = 5 ∧ entryOp e = 0x0400 then s else s.setPart p { y with takeSeq := y.takeSeq + 1 }
  (id, if bad then s.refuse id 1 else s)

/-- An entry of a leader sent to its follower, numbered from 1 since the join (R541). -/
def State.forwardEntry (s : State) (k : Work) : State :=
  let x := s.pair k.part
  let n := x.forwarded + 1
  let s := (s.setPair k.part { x with forwarded := n }).modWork k.id (fun k => { k with fwd := n.toNat })
  s.pairSend k.part 0x1 [k.entry.toNat, k.mailbag, n.toNat]

/-- ENTRY_READ_DONE (R388, R391, R392, R541): the entry is taken; a malformed one is refused, and a leader forwards it before it handles
it, MGMT entries later. -/
def execEntryReadDone (port : Fin 6) (m : Fin 4096) (entry : BitVec 512) (s : State) : Host.Outcome State Fault Refusal :=
  let x := s.mailbag port.val m.val
  next (match s.boundTo port.val with
    | none => s
    | some p =>
      if !x.reading then s
      else if !s.taking port.val m.val then s.setMailbag port.val m.val { x with reading := false }
      else
        let (id, s) := s.addWork p port.val m.val entry
        match s.work id with
        | some k => if s.pairState p = 2 ∧ k.type ≠ 5 then s.forwardEntry k else s
        | none => s)

/-- ENTRY_READ_ERROR (R389): the mailbag stops, and HEAD does not pass the entry. -/
def execEntryReadError (port : Fin 6) (m : Fin 4096) (s : State) : Host.Outcome State Fault Refusal :=
  let x := s.mailbag port.val m.val
  next (if x.reading then
      ((s.setMailbag port.val m.val { x with reading := false }).setBit (Reg.mailbagCtl port.val m.val) 8).setBit (Reg.mailbagStatus port.val m.val) 1
    else s)

end Sys2Proof.Machine
end

