-- ==== Sys2Proof/Machine/Entries.lean ====
section
/-! DEFINITION. What each type of entry does (R393 to R398, R406 to R408, R446, R528). -/

namespace Sys2Proof.Machine

/-- The oldest entry of a mailbag not yet handled, when its type is t and a leader's partner has acknowledged it (R405, R541). -/
def State.handed (s : State) (port m t : Nat) : Option Work :=
  match s.works.find? (fun k => k.port == port && k.mailbag == m && k.phase == .handed) with
  | some k => if k.type = t ∧ (k.fwd = 0 ∨ k.acked ∨ s.pairState k.part ≠ 2) then some k else none
  | none => none

/-! Launches. -/

/-- The header of a launch's code object (R160), unless the object is not placed as R160 requires or is poisoned. -/
def State.codeHeader (s : State) (k : Work) : Option Nat :=
  let a := k.codeAddr
  if a % 4096 ≠ 0 ∨ s.region k.part a ≠ .hbm then none
  else match s.lineNow k.part (a / 128) with
    | (.poisoned, _) => none
    | _ => some (s.readWord k.part a 64)

/-- Fields of a code object's header (R160). -/
def hdrTotal (h : Nat) : Nat := bitsOf h (8 * 0x08) 32
def hdrTextOff (h : Nat) : Nat := bitsOf h (8 * 0x10) 32
def hdrTextSize (h : Nat) : Nat := bitsOf h (8 * 0x14) 32
def hdrKtabOff (h : Nat) : Nat := bitsOf h (8 * 0x20) 32
def hdrKtabCount (h : Nat) : Nat := bitsOf h (8 * 0x24) 16
def hdrLoadGen (h : Nat) : Nat := bitsOf h (8 * 0x30) 32

/-- Whether a header breaks the table "Code object header" (R162). -/
def hdrBad (h : Nat) : Bool :=
  bitsOf h 0 32 != 0x4358524D || bitsOf h 32 16 != 1 || hdrTextOff h % 16 != 0 || hdrTextSize h % 16 != 0 || decide (2 ^ 26 < hdrTextSize h) ||
    hdrKtabOff h % 64 != 0 || hdrKtabCount h == 0 || decide (4096 < hdrKtabCount h)

/-- Whether a section lies beyond TOTAL_SIZE (R162). -/
def hdrBeyond (h : Nat) : Bool :=
  [(hdrTextOff h, hdrTextSize h), (bitsOf h (8 * 0x18) 32, bitsOf h (8 * 0x1C) 32), (hdrKtabOff h, 64 * hdrKtabCount h),
    (bitsOf h (8 * 0x28) 32, bitsOf h (8 * 0x2C) 32)].any (fun e => decide (hdrTotal h < e.1 + e.2))

/-- The kernel descriptor a launch names (R161), its KERNEL and its fields. -/
def Work.kernel (k : Work) : Nat := k.u16 0x2C
def State.descriptor (s : State) (k : Work) (h : Nat) : Nat := s.readWord k.part (k.codeAddr + hdrKtabOff h + 64 * k.kernel) 64
def descEntry (d : Nat) : Nat := bitsOf d (8 * 0x08) 32

/-- Why a launch's code object or kernel refuses it, lowest code first (R162, R446); 0 for no reason. -/
def State.codeReason (s : State) (k : Work) : Nat :=
  match s.codeHeader k with
  | none => 0x20
  | some h =>
    if hdrBad h ∨ s.region k.part (k.codeAddr + hdrTotal h - 1) ≠ .hbm then 0x20
    else if hdrBeyond h then 0x21
    else if hdrKtabCount h ≤ k.kernel then 0x22
    else
      let d := s.descriptor k h
      if hdrTextSize h ≤ descEntry d ∨ descEntry d % 16 ≠ 0 then 0x23
      else if k.u16 0x30 < bitsOf d (8 * 0x0C) 16 then 0x24
      else if bitsOf d (8 * 0x0E) 16 < k.threads then 0x25
      else if k.lsUnits < bitsOf d (8 * 0x10) 32 then 0x26
      else 0

/-- CLASS and PIGEONHOLE of a launch record (R393). -/
def Work.cls (k : Work) : Nat := bitsOf k.entry.toNat (8 * 0x35) 8
def Work.hole (k : Work) : Nat := bitsOf k.entry.toNat (8 * 0x36) 8

/-- Whether a pigeonhole that is not resident could never be placed (R454). -/
def State.phHopeless (s : State) (p h : Nat) : Bool := match Tab.get (s.part p).pigeonholes h with
  | some x => s.phIs p h == 1 && !s.phCould p h (granulesOf x.size.toNat)
  | none => false

/-- Why a launch is refused when it is taken (R80, R162, R393, R446): the lowest applicable code, or 0. A launch with local store and
LS_BANKS 0 also exceeds 0 × 3 MiB, the lower code. -/
def State.launchReason (s : State) (k : Work) : Nat :=
  let p := k.part
  let r := k.u16 0x30
  if k.threads = 0 ∨ 1024 < k.threads then 0x10
  else if r = 0 ∨ 256 < r then 0x11
  else if 8 < k.lsBanks then 0x12
  else if 192 * k.lsBanks < k.lsUnits then 0x13
  else if k.blocks = 0 then 0x15
  else if !(s.partArrays p).any (s.couldHold k) then 0x16
  else if s.codeReason k ≠ 0 then s.codeReason k
  else if s.regionFor p k.snap k.codeAddr ≠ .hbm ∨ s.regionFor p k.snap k.argAddr = .unmapped then 0x30
  else if 1 < k.cls then 0x40
  else if k.cls = 0 ∧ k.lcArrays = 0 then 0x41
  else if k.hole ≠ 0xFF ∧ (64 ≤ k.hole ∨ s.phIs p k.hole = 0) then 0x50
  else if k.hole ≠ 0xFF ∧ s.phHopeless p k.hole then 0x51
  else if k.hole ≠ 0xFF ∧ s.phIs p k.hole = 5 then 0x52
  else if 32768 ≤ (s.queue p (k.cls == 0)).length then 0x70
  else if s.partState p ≠ 2 then 0x80
  else 0

/-- B of R87 for an array with no retired quarter. -/
def Work.perArray (k : Work) : Nat :=
  let b := min 32 (4 * quarterCap k.regs / groupsFor k.threads)
  if k.lsUnits = 0 then b else min b (192 * k.lsBanks / k.lsUnits)

/-- A launch queued, with what its code object says of it (R393, R436). LOAD_GEN (R164) is taken from the object's header here, when the entry is
taken, and stands for the launch at every array that accepts its blocks (DESIGN CHOICE, log entry 95). -/
def State.queueLaunch (s : State) (k : Work) : State :=
  let h := (s.codeHeader k).getD 0
  let d := s.descriptor k h
  let text := k.codeAddr + hdrTextOff h
  s.modWork k.id (fun k =>
    { k with phase := .queued, latency := k.cls == 0, pigeonhole := k.hole, textLo := BitVec.ofNat 64 text,
             textHi := BitVec.ofNat 64 (text + hdrTextSize h), kernelEntry := BitVec.ofNat 64 (text + descEntry d),
             kernelId := BitVec.ofNat 64 (bitsOf d 0 64), loadGen := BitVec.ofNat 32 (hdrLoadGen h),
             kflags := BitVec.ofNat 16 (bitsOf d (8 * 0x1A) 16), want := (k.blocks + k.perArray - 1) / k.perArray })

/-- The first obstacle of a launch that did not start (R445); `free` counts the arrays that were free before any launch was served. -/
def State.obstacle (s : State) (k : Work) (free : Nat) : Nat :=
  let need := if k.latency then s.lcNeed k else 1
  if s.afterHeld k then 0x200
  else if !s.phReady k then 0x201
  else if (k.latency ∧ need = 0) ∨ (!k.latency ∧ s.beRoom k = 0) then 0x202
  else if free < need then 0x203
  else 0x204

/-- A launch's position in its class queue, 1 at the head (R445). -/
def State.queuePos (s : State) (k : Work) : Nat := ((s.queue k.part k.latency).filter (fun j => decide (j.id ≤ k.id))).length

/-- A LAUNCH entry handled: refused, or queued and the arrays offered; one that does not start is DEFERRED (R437, R445, R446). -/
def State.launch (s : State) (k : Work) : State :=
  let why := s.launchReason k
  if why ≠ 0 then
    let s := s.refuse k.id why
    if why = 0x70 then s.setBit (Reg.partStatus k.part) 5 else s
  else
    let free := ((s.freeArrays k.part).filter (s.couldHold k)).length
    let s := s.queueLaunch k
    let pos := (s.queue k.part (k.cls == 0)).length
    let s := s.dispatch k.part
    match s.work k.id with
    | none => s
    | some j =>
      if j.phase ≠ .queued then s
      else
        let s := (s.modWork k.id (fun k => { k with defers := k.defers + 1 })).partCount k.part 2
        let j := { j with defers := j.defers + 1 }
        s.interim { j.receipt false 2 (s.obstacle j free) with queuePos := pos } j

/-- LAUNCH (R393, R437, R445, R446). -/
def execLaunch (port : Fin 6) (m : Fin 4096) (s : State) : Host.Outcome State Fault Refusal :=
  next (match s.handed port.val m.val 1 with
    | some k => s.launch k
    | none => s)

/-! Chains. -/

/-- Why a CHAIN entry is refused, lowest code first (R395, R432, R446, R452). -/
def State.chainReason (s : State) (k : Work) : Nat :=
  let code := k.u16 0x10
  let c := k.courier
  if code < 0x300 ∨ 448 ≤ c ∨ !s.courierServes k.part c then 0x60
  else if 384 ≤ c ∧ c % 8 = 7 then 0x61
  else if s.partState k.part ≠ 2 then 0x80
  else 0

/-- CHAIN (R395, R405). -/
def execChain (port : Fin 6) (m : Fin 4096) (s : State) : Host.Outcome State Fault Refusal :=
  next (match s.handed port.val m.val 2 with
    | none => s
    | some k =>
      let why := s.chainReason k
      if why ≠ 0 then s.refuse k.id why else (s.modWork k.id (fun k => { k with phase := .waiting })).startChains)

/-! Management entries and markers. -/

/-- Whether some chapter defines a management operation (R398, R459, R488, R557, R578, R592, R617, R618). -/
def opDefined (op : Nat) : Bool :=
  (decide (0x0100 ≤ op) && decide (op ≤ 0x0108)) || op == 0x0300 || (decide (0x0400 ≤ op) && decide (op ≤ 0x0403)) || op == 0x0500 || op == 0x0501 ||
    op == 0x0600 || op == 0x0601

/-- The management entries of a port that the Postmaster holds (R396). -/
def State.atPostmaster (s : State) (port : Nat) : List Work :=
  s.works.filter (fun k => k.port == port && k.type == 5 && (k.phase == .atPostmaster || k.phase == .running))

/-- BUSY (R396). -/
def State.busy (s : State) (k : Work) : State :=
  (s.finish k.id false (fun k => k.receipt true 7 0)).setBit (Reg.portStatus k.port) 1

/-- A management entry passed to the Postmaster's queue, or answered BUSY when it is full; a follower holds it instead (R396, R541). One whose
operation no chapter defines is refused (R398). -/
def State.passMgmt (s : State) (k : Work) : State :=
  if !opDefined (entryOp k.entry) then s.refuse k.id 2
  else if 16 ≤ (s.atPostmaster k.port).length then (if s.follows k.part then s else s.busy k)
  else
    let s := s.modWork k.id (fun k => { k with phase := .atPostmaster })
    if s.pairState k.part = 2 then s.forwardEntry k else s

/-- MGMT (R396, R398, R405). -/
def execMgmt (port : Fin 6) (m : Fin 4096) (s : State) : Host.Outcome State Fault Refusal :=
  next (match s.handed port.val m.val 5 with
    | none => s
    | some k =>
      if s.afterHeld k then s.modWork k.id (fun k => { k with phase := .waiting })
      else s.passMgmt k)

/-- MGMT_BUSY_TIMEOUT (R528): an entry that the Postmaster has not accepted receives BUSY; a follower's does not (R541). -/
def execMgmtBusyTimeout (port : Fin 6) (m : Fin 4096) (s : State) : Host.Outcome State Fault Refusal :=
  next (match s.handed port.val m.val 5 with
    | some k => if s.follows k.part then s else s.busy k
    | none => s)

/-- MARKER (R397, R405). -/
def execMarker (port : Fin 6) (m : Fin 4096) (s : State) : Host.Outcome State Fault Refusal :=
  next (match s.handed port.val m.val 6 with
    | some k => if s.afterHeld k then s.modWork k.id (fun k => { k with phase := .waiting }) else s.serve1 k.id 0
    | none => s)

/-- The markers and management entries that AFTER no longer holds go on (R405). -/
def State.progressHeld (s : State) : State :=
  (s.works.filter (fun k => k.phase == .waiting && (k.type == 5 || k.type == 6))).foldl (fun s k =>
    if s.afterHeld k then s else if k.type = 6 then s.serve1 k.id 0 else s.passMgmt k) s

/-- What a final outcome lets go on in a partition: held entries, chains, launches (R405, R439). -/
def State.afterFinal (s : State) (p : Nat) : State := (s.progressHeld.startChains).dispatch p

/-- The parameter block of a management entry (R394). -/
def Work.param (k : Work) : Nat := bitsOf k.entry.toNat (8 * 0x18) 64

/-- The management entry the Postmaster performs next on a port, when its operation is `op`; a leader's waits for its acknowledgement
(R396, R541). -/
def State.mgmtNext (s : State) (port op : Nat) : Option Work :=
  match (if s.mgdLost then none else (s.atPostmaster port).find? (fun k => k.phase == .atPostmaster)) with
  | some k => if entryOp k.entry = op ∧ (k.fwd = 0 ∨ k.acked ∨ s.pairState k.part ≠ 2) then some k else none
  | none => none

/-- A management operation begun whose receipt comes later. -/
def State.mgmtBegun (s : State) (id : Nat) : State := s.modWork id (fun k => { k with phase := .running })

/-! CANCEL and PREEMPT. -/

/-- TARGET_MB and TARGET_SEQ (R394). -/
def Work.targetMb (k : Work) : Nat := k.u16 0x10
def Work.targetSeq (k : Work) : W64 := BitVec.ofNat 64 (bitsOf k.entry.toNat (8 * 0x18) 64)

/-- The target of a CANCEL or PREEMPT, if its slice has one (R394): an entry still open before one that is finished. -/
def State.targetOf (s : State) (k : Work) : Option Work :=
  let l := s.works.filter (fun j => j.port == k.port && j.mailbag == k.targetMb && j.seq == k.targetSeq && j.slice == k.slice && j.id != k.id)
  match l.find? (fun j => j.phase != .finished) with
  | some j => some j
  | none => l.getLast?

/-- A CANCEL or PREEMPT that acted waits for what it did to show (R406, R408). -/
def State.awaits (s : State) (k : Work) (id : Nat) : State := s.modWork k.id (fun k => { k with phase := .waiting, target := some id })

/-- A running chain cancelled (R339, R406): it ends at its next line, or, held before a record by a quiesce, at once. -/
def State.cancelChain (s : State) (j : Work) (why : StopWhy) : State :=
  let s := s.modWork j.id (fun j => { j with why := match j.why with
    | some w => if stopRank w < stopRank why then some why else some w
    | none => some why })
  let c := j.courier
  let x := s.courier c
  let s := s.setCourier c { x with cancel := true, doneAddr := if x.started then x.doneAddr else 0 }
  if x.holdNext ∧ (!x.started ∨ x.st = .gated) then s.crStop c 4 else s

/-- What a CANCEL, a slice reset or a dissolution does to an entry that has no final receipt (R406, R431, R604): ended at once when it has
not started, stopped when it runs; whether it acted. -/
def State.cancelWork (s : State) (j : Work) (why : StopWhy) (reason : Nat) : Bool × State :=
  let atOnce := (true, s.cancelled j.id reason)
  match j.type, j.phase with
  | _, .finished => (false, s)
  | _, .handed => atOnce
  | 1, .queued => atOnce
  | 1, .running => (true, s.stopFor j.id why)
  | 1, .stopping => (true, s.stopFor j.id why)
  | 2, .waiting => atOnce
  | 2, .running => (true, s.cancelChain j why)
  | 5, .waiting => atOnce
  | 6, .waiting => atOnce
  | _, _ => (false, s)

/-- CANCEL (R405 to R407): a CANCEL of a CANCEL or PREEMPT, of a management entry at the Postmaster, or of a launch whose blocks have all
retired does nothing. -/
def execCancel (port : Fin 6) (m : Fin 4096) (s : State) : Host.Outcome State Fault Refusal :=
  next (match s.handed port.val m.val 3 with
    | none => s
    | some k => match s.targetOf k with
      | none => s.serve1 k.id 2
      | some j =>
        if s.receipted j then s.serve1 k.id 1
        else if j.type = 3 ∨ j.type = 4 then s.serve1 k.id 3
        else
          let (acted, t) := s.cancelWork j .cancel 0
          if acted then t.awaits k j.id else s.serve1 k.id 3)

/-- PREEMPT (R405, R408). -/
def execPreempt (port : Fin 6) (m : Fin 4096) (s : State) : Host.Outcome State Fault Refusal :=
  next (match s.handed port.val m.val 4 with
    | none => s
    | some k => match s.targetOf k with
      | none => s.serve1 k.id 2
      | some j =>
        if s.receipted j then s.serve1 k.id 1
        else if j.type = 1 ∧ (j.phase = .running ∨ j.phase = .stopping) ∧ !j.latency ∧ j.fault.isNone then
          (s.stopFor j.id .preemptEntry).awaits k j.id
        else s.serve1 k.id 3)

end Sys2Proof.Machine
end

