-- ==== Sys2Proof/Machine/PasidSlices.lean ====
section
/-! DEFINITION. PASID slices: their configuration (R380 to R383, R423), dirty-page logging (R415 to R417), quiescing, saving and restoring
(R418 to R420), and slice reset (R604, R605). -/

namespace Sys2Proof.Machine

/-- The mailbags that a slice owns (R383). -/
def State.sliceMailbags (s : State) (port sl : Nat) : List Nat :=
  ((List.range 64).filter (fun g => s.field (Reg.lbOwner port g) 0 6 == sl)).flatMap (fun g => (List.range 64).map (· + 64 * g))

/-- The taken entries of a slice without a final outcome. -/
def State.sliceWorks (s : State) (port sl : Nat) : List Work :=
  s.works.filter (fun k => k.port == port && k.slice == sl && k.phase != .finished)

/-- The register of a slice's configuration by its number, and its bits (R423). -/
def sliceReg (port sl : Nat) : Nat → Nat × W32
  | 0 => (Reg.slicePasid port sl, 0xC00FFFFF)
  | 1 => (Reg.sliceHbm port sl, 0xFFFFFFFF)
  | 2 => (Reg.sliceFar port sl, 0xFFFFFFFF)
  | _ => (Reg.sliceHc port sl, 0x07FF03FF)

/-- SLICE_CONFIG_WRITE (R382, R423): entries taken before keep what they were taken with. -/
def execSliceConfigWrite (port : Fin 6) (sl : Fin 64) (reg : Fin 4) (v : BitVec 32) (s : State) : Host.Outcome State Fault Refusal :=
  let e := sliceReg port.val sl.val reg.val
  next (if s.barOpen port.val then s.setReg e.1 (v &&& e.2) else s)

/-! Dirty-page logging. -/

/-- The host address of a slice's dirty-page buffer (R423). -/
def State.dlogBuf (s : State) (port sl buf : Nat) : Nat :=
  if buf = 0 then s.pairValue (Reg.dlogBuf0Lo port sl) (Reg.dlogBuf0Hi port sl)
  else s.pairValue (Reg.dlogBuf1Lo port sl) (Reg.dlogBuf1Hi port sl)

/-- A write of n bytes to host memory by the panel itself, without a PASID (R378). -/
def State.hostPut (s : State) (port addr n v : Nat) : State :=
  let w : HostWrite := { port := port, pasid := 0, addr := addr / 128 * 128, mask := maskOf (addr % 128) n, data := putLineBytes 0 (addr % 128) n v }
  { s with hostOut := s.hostOut ++ [w] }

/-- DIRTY_PAGE_LOG (R415, R416): the oldest page due for a slice has its bit set in its buffer; `word` is the 8-byte word the host returned.
An access that completes with an error sets DLOG_ERROR, and logging stops. -/
def execDirtyPageLog (port : Fin 6) (sl : Fin 64) (word : BitVec 64) (ok : Bool) (s : State) : Host.Outcome State Fault Refusal :=
  let x := s.port port.val
  next (match x.dlogPend.find? (fun e => e.1 == sl.val) with
    | none => s
    | some e =>
      let buf := e.2 / 2 ^ 40
      let i := e.2 % 2 ^ 40
      let s := s.setPort port.val { x with dlogPend := x.dlogPend.erase e }
      if !ok then (s.clearBit (Reg.dlogCtl port.val sl.val) 0).setBit (Reg.dlogCtl port.val sl.val) 9
      else s.hostPut port.val (s.dlogBuf port.val sl.val buf + 8 * (i / 64)) 8 (word ||| BitVec.ofNat 64 (2 ^ (i % 64))).toNat)

/-- A swap requested (R417): the other buffer becomes active for the writes accepted from then on. -/
def State.swapDlog (s : State) (port sl : Nat) : State :=
  let reg := Reg.dlogCtl port sl
  if s.bit reg 1 then s else (s.setBit reg 1).setField reg 2 1 (1 - s.field reg 2 1)

/-- SWAP (R417). -/
def execSwap (port : Fin 6) (sl : Fin 64) (s : State) : Host.Outcome State Fault Refusal :=
  next (if s.barOpen port.val then s.swapDlog port.val sl.val else s)

/-- SWAP_DONE (R417): once every bit of the writes accepted before the swap is in host memory. -/
def execSwapDone (port : Fin 6) (sl : Fin 64) (s : State) : Host.Outcome State Fault Refusal :=
  let reg := Reg.dlogCtl port.val sl.val
  let old := (s.port port.val).dlogPend.any (fun e => e.1 == sl.val && e.2 / 2 ^ 40 != s.field reg 2 1)
  next (if s.bit reg 1 ∧ !old then (s.clearBit reg 1).setBit reg 8 else s)

/-! Quiescing. -/

/-- Reads of mailbag entries of a slice given up (R418, R604). -/
def State.dropReads (s : State) (port sl : Nat) : State :=
  let own := s.sliceMailbags port sl
  { s with mailbags := Tab.mapAll s.mailbags (fun k x => if k / 4096 = port ∧ own.contains (k % 4096) then { x with reading := false } else x) }

/-- A slice told to quiesce (R418): no entry is taken, running launches stop and are held as taken, running chains are held before their next
record. -/
def State.quiesce (s : State) (port sl : Nat) : State :=
  let s := (s.setBit (Reg.saveCtl port sl) 0).dropReads port sl
  (s.sliceWorks port sl).foldl (fun s k =>
    if k.type = 1 ∧ (k.phase = .running ∨ k.phase = .stopping) then s.stopFor k.id .quiesce
    else if k.type = 2 ∧ k.phase = .running then s.setCourier k.courier { s.courier k.courier with holdNext := true }
    else s) s

/-- A slice resumed (R418). -/
def State.unquiesce (s : State) (port sl : Nat) : State :=
  let reg := Reg.saveCtl port sl
  if !s.bit reg 0 then s
  else
    let s := (s.clearBit reg 0).clearBit reg 8
    let s := (s.sliceWorks port sl).foldl (fun s k =>
      if k.type = 2 ∧ k.phase = .running then s.setCourier k.courier { s.courier k.courier with holdNext := false } else s) s
    match s.boundTo port with
    | some p => s.afterFinal p
    | none => s

/-- A write of QUIESCE (R418). -/
def State.quiesceWrite (s : State) (port sl : Nat) (on : Bool) : State :=
  if !s.barOpen port then s
  else if !on then s.unquiesce port sl
  else if s.bit (Reg.saveCtl port sl) 0 then s else s.quiesce port sl

/-- QUIESCE (R418). -/
def execQuiesce (port : Fin 6) (sl : Fin 64) (on : Bool) (s : State) : Host.Outcome State Fault Refusal :=
  next (s.quiesceWrite port.val sl.val on)

/-- Whether a host-coherent line lies in a slice's window. -/
def State.hcLineOf (s : State) (port sl : Nat) (l : SLine) : Bool :=
  let w := (s.reg (Reg.sliceHc port sl)).toNat
  inWindow (bitsOf w 0 10) (bitsOf w 16 11) 0x10000 (128 * l.line - hcStart)

/-- Whether an entry of a slice being quiesced is held (R418): a launch that does not run, a chain before a record. -/
def State.heldStill (s : State) (k : Work) : Bool :=
  if k.type = 1 then k.phase != .running && k.phase != .stopping && k.phase != .closing
  else if k.type = 2 ∧ k.phase = .running then
    let x := s.courier k.courier
    x.holdNext && (!x.started || x.st == .gated)
  else true

/-- Whether the receipts of a slice's mailbags that are due have been written. -/
def State.receiptsOut (s : State) (port sl : Nat) : Bool :=
  (s.sliceMailbags port sl).all (fun m =>
    let x := s.mailbag port m
    !x.tailDue && !x.receipts.any (·.final))

/-- QUIESCED (R418): all work of the slice is held; its host-coherent lines are written back. -/
def execQuiesced (port : Fin 6) (sl : Fin 64) (s : State) : Host.Outcome State Fault Refusal :=
  let reg := Reg.saveCtl port.val sl.val
  next (match s.boundTo port.val with
    | none => s
    | some p =>
      if s.bit reg 0 ∧ !s.bit reg 8 ∧ (s.sliceWorks port.val sl.val).all s.heldStill ∧ s.receiptsOut port.val sl.val then
        (s.flushHc p (s.hcLineOf port.val sl.val)).setBit reg 8
      else s)

/-! Saving and restoring. -/

/-- The mailbag record of a save (R420): 48 bytes. -/
def State.mbRecord (s : State) (port m : Nat) : List Byte :=
  let x := s.mailbag port m
  let base := (s.reg (Reg.mailbagBaseHi port m)).toNat * 2 ^ 32 + (s.reg (Reg.mailbagBaseLo port m)).toNat
  leBytes m 2 ++ leBytes (s.mbLog port m) 1 ++ leBytes 0 1 ++ leBytes (s.ringOff port m) 4 ++ leBytes (s.tailOff port m) 4 ++
    leBytes x.head.toNat 4 ++ leBytes x.tail.toNat 4 ++ leBytes x.rhead.toNat 4 ++ leBytes base 8 ++ leBytes x.rcount.toNat 8 ++
    leBytes x.lastSeq.toNat 8

/-- The address at which a held chain goes on (R420). -/
def State.nextRecord (s : State) (k : Work) : W64 :=
  if k.type ≠ 2 then 0 else if k.phase = .running then (s.courier k.courier).record else k.chainRecord

/-- The record of a held entry (R420): 80 bytes. -/
def State.heldRecord (s : State) (k : Work) : List Byte :=
  leBytes k.entry.toNat 64 ++ leBytes k.mailbag 2 ++ leBytes (min k.preempts 0xFFFF) 2 ++ leBytes (min k.defers 0xFFFF) 2 ++ leBytes 0 2 ++
    leBytes (s.nextRecord k).toNat 8

/-- The bytes of partition memory from an address, as couriers read them. -/
def State.image (s : State) (p : Nat) : Nat → Nat → List Byte
  | _, 0 => []
  | a, n + 1 => BitVec.ofNat 8 (s.readBytes p a 1) :: State.image s p (a + 1) n

/-- The bytes of a slice's HBM and far windows that lie in the partition's regions (R419). -/
def State.memImage (s : State) (port p sl : Nat) : List Byte :=
  let h := (s.reg (Reg.sliceHbm port sl)).toNat
  let f := (s.reg (Reg.sliceFar port sl)).toNat
  let lo := gib * bitsOf h 0 16
  let hbm := s.image p lo (min (gib * bitsOf h 16 16) (189 * gib * s.partN p - lo))
  let g0 := bitsOf f 0 16
  let far := (List.range (bitsOf f 16 16)).flatMap (fun i =>
    if (match s.region p (farStart + gib * (g0 + i)) with
      | .far _ => true
      | _ => false) then s.image p (farStart + gib * (g0 + i)) gib else [])
  hbm ++ far

/-- The save record of a quiesced slice (R419, R420). -/
def State.saveRecord (s : State) (port p sl : Nat) : List Byte :=
  let mbs := (s.sliceMailbags port sl).filter (s.mbOn port)
  let held := s.sliceWorks port sl
  let mem := if s.bit (Reg.saveCtl port sl) 3 then s.memImage port p sl else []
  let off := 0x40 + 48 * mbs.length + 80 * held.length
  leBytes 0x43564153 4 ++ leBytes 1 4 ++ leBytes (off + mem.length) 8 ++ leBytes (s.reg (Reg.sliceHbm port sl)).toNat 4 ++
    leBytes (s.reg (Reg.sliceFar port sl)).toNat 4 ++ leBytes (s.reg (Reg.sliceHc port sl)).toNat 4 ++
    leBytes (s.reg (Reg.slicePasid port sl)).toNat 4 ++ leBytes mbs.length 2 ++ leBytes held.length 2 ++ leBytes 0 4 ++
    leBytes (if mem = [] then 0 else off) 8 ++ leBytes mem.length 8 ++ leBytes 0 8 ++
    mbs.flatMap (s.mbRecord port) ++ held.flatMap s.heldRecord ++ mem

/-- Bytes written to host memory from an address. -/
def State.hostBytesOut (port : Nat) : List Byte → Nat → State → State
  | [], _, s => s
  | b :: t, a, s => State.hostBytesOut port t (a + 1) (s.hostPut port a 1 b.toNat)

/-- A save requested (R419). -/
def State.saveSlice (s : State) (port sl : Nat) : State :=
  let reg := Reg.saveCtl port sl
  match s.boundTo port with
  | none => s
  | some p =>
    if !s.barOpen port then s
    else if !s.bit reg 8 then s.setBit reg 18
    else
      let l := s.saveRecord port p sl
      let at' := s.pairValue (Reg.saveBufLo port sl) (Reg.saveBufHi port sl)
      if 2 ^ 20 * (s.reg (Reg.saveSize port sl)).toNat < l.length then s.setBit reg 18
      else (State.hostBytesOut port l at' s).setBit reg 16

/-- SAVE (R419). -/
def execSliceSave (port : Fin 6) (sl : Fin 64) (s : State) : Host.Outcome State Fault Refusal := next (s.saveSlice port.val sl.val)

/-- Whether a window is no smaller than a recorded one (R420). -/
def covers (now was : W32) (w : Nat) : Bool :=
  decide (bitsOf was.toNat 16 w ≤ bitsOf now.toNat 16 w)

/-- Whether a save record may be loaded into a slice (R420). -/
def State.mayRestore (s : State) (port sl : Nat) (r : SaveRec) : Bool :=
  let own := s.sliceMailbags port sl
  s.bit (Reg.saveCtl port sl) 8 && own.all (fun m => !s.mbOn port m && !s.bit (Reg.mailbagCtl port m) 9) && r.magic == 0x43564153 && r.version == 1 &&
    r.fits && covers (s.reg (Reg.sliceHbm port sl)) r.hbm 16 && covers (s.reg (Reg.sliceFar port sl)) r.far 16 &&
    covers (s.reg (Reg.sliceHc port sl)) r.hc 11 && r.mailbags.all (fun x => own.contains x.mailbag.val) &&
    r.held.all (fun x => own.contains x.mailbag.val)

/-- A mailbag restored with its counts, enabled again (R420). -/
def State.restoreMailbag (s : State) (port : Nat) (r : SaveMailbag) : State :=
  let m := r.mailbag.val
  let s := (s.setReg (Reg.mailbagBaseLo port m) (r.base.truncate 32 &&& 0xFFFFF000)).setReg (Reg.mailbagBaseHi port m) ((r.base >>> 32).truncate 32)
  let s := (s.setReg (Reg.receiptRing port m) (r.ring &&& 0x3FFF000)).setReg (Reg.receiptTailAt port m) (r.tailAt &&& 0x3FFFFF8)
  let s := (s.setField (Reg.mailbagCtl port m) 1 5 r.log2.toNat).mbStart port m
  s.setMailbag port m { Mailbag.reset with tail := r.tail, head := r.head, rhead := r.rhead, rcount := r.rcount, lastSeq := r.lastSeq, anySeq := true }

/-- A held entry restored (R420): a launch is queued again, a chain waits at its recorded record, any other entry is handled anew. -/
def State.restoreHeld (s : State) (p port sl : Nat) (r : SaveHeld) : State :=
  let (id, s) := s.newId
  let k := s.newWork id p port r.mailbag.val sl r.entry
  let entry := if k.type = 2 then BitVec.ofNat 512 (withBits r.entry.toNat (8 * 0x18) 64 r.next.toNat) else r.entry
  let k := { k with entry := entry, preempts := r.preempts.toNat, defers := r.defers.toNat, phase := if k.type = 2 then .waiting else .handed }
  let s := { s with works := s.works ++ [k] }
  if k.type ≠ 1 then s else if s.launchReason k = 0 then s.queueLaunch k else s.refuse id (s.launchReason k)

/-- A restore requested (R420): `r` is what the save buffer holds. -/
def State.restoreSlice (s : State) (port sl : Nat) (r : SaveRec) : State :=
  let reg := Reg.saveCtl port sl
  match s.boundTo port with
  | none => s
  | some p =>
    if !s.barOpen port then s
    else if !s.mayRestore port sl r then (s.clearBit reg 2).setBit reg 18
    else
      let s := s.clearBit reg 2
      let s := r.image.foldl (fun s e => s.writeWord p e.1.toNat 1 e.2.toNat) s
      let s := r.mailbags.foldl (fun s x => s.restoreMailbag port x) s
      (r.held.foldl (fun s x => s.restoreHeld p port sl x) s).setBit reg 17

/-- RESTORE (R420). -/
def execSliceRestore (port : Fin 6) (sl : Fin 64) (r : SaveRec) (s : State) : Host.Outcome State Fault Refusal :=
  next (s.restoreSlice port.val sl.val r)

/-! Slice reset. -/

/-- Bit s of SLICE_RST (R604). -/
def rstBit (port sl : Nat) : Nat × Nat := if sl < 32 then (Reg.sliceRstLo port, sl) else (Reg.sliceRstHi port, sl - 32)

/-- Slice 0's windows as they cover a whole partition of n sectors (R380, R423). -/
def State.wholeWindows (s : State) (port n : Nat) : State :=
  (s.setReg (Reg.sliceHbm port 0) (BitVec.ofNat 32 (189 * n * 2 ^ 16))).setReg (Reg.sliceFar port 0) (BitVec.ofNat 32 (4096 * n * 2 ^ 16))

/-- A slice's registers and the mailbags of its letterbox pages at their reset values, its reset no longer pending (R604, steps 4 and 5). -/
def State.sliceRegs (s : State) (port sl n : Nat) : State :=
  let own := s.sliceMailbags port sl
  let lo := Reg.slicePasid port sl
  let s := s.resetRegs lo (lo + 64)
  let s := if sl = 0 then s.wholeWindows port n else s
  let pages := (List.range 64).filter (fun g => s.field (Reg.lbOwner port g) 0 6 == sl)
  let s := pages.foldl (fun s g => s.resetRegs (Base.letterbox port (64 * g)) (Base.letterbox port (64 * g) + 0x1000)) s
  let mine := fun (k : Nat) => k / 4096 == port && own.contains (k % 4096)
  let s := { s with mailbags := Tab.keep s.mailbags (fun k => !mine k),
                    works := s.works.filter (fun (k : Work) => !(k.phase == WPhase.finished && mine (4096 * port + k.mailbag) && k.port == port)) }
  s.clearBit (rstBit port sl).1 (rstBit port sl).2

/-- A pending slice reset taken to its end when every entry of the slice has its final receipt (R604, steps 3 to 5). -/
def State.sliceRstEnd (s : State) (p port sl : Nat) : State :=
  if s.sliceResetting port sl ∧ s.partState p ≠ 3 ∧ s.partState p ≠ 5 ∧ s.sliceWorks port sl = [] ∧ s.receiptsOut port sl then
    (s.flushHc p (s.hcLineOf port sl)).sliceRegs port sl (s.partN p)
  else s

/-- A slice reset begun (R604, steps 1 and 2): the slice's entries are cancelled. -/
def State.sliceRstBegin (s : State) (p port sl : Nat) : State :=
  let s := s.dropReads port sl
  let s := (s.sliceWorks port sl).foldl (fun s k => (s.cancelWork k .sliceReset 0).2) s
  s.sliceRstEnd p port sl

/-- A write of 1 to a bit of SLICE_RST (R604, R605): while its partition stops or restarts the reset waits. -/
def State.sliceRst (s : State) (port sl : Nat) : State :=
  match s.boundTo port with
  | none => s
  | some p =>
    if !s.barOpen port then s
    else if s.sliceResetting port sl then s.sliceRstEnd p port sl
    else
      let s := s.setBit (rstBit port sl).1 (rstBit port sl).2
      if s.partState p = 3 ∨ s.partState p = 5 then s else s.sliceRstBegin p port sl

/-- SLICE_RST (R604, R605). -/
def execSliceRst (port : Fin 6) (sl : Fin 64) (s : State) : Host.Outcome State Fault Refusal := next (s.sliceRst port.val sl.val)

/-- The slice resets of a port that wait for its partition to have stopped, completed (R605). -/
def State.sliceRstStopped (s : State) (p port : Nat) : State :=
  ((List.range 64).filter (s.sliceResetting port)).foldl (fun s sl => s.sliceRegs port sl (s.partN p)) s

/-- The slice resets of a port that wait for its partition to run again, begun (R605). -/
def State.sliceRstRestarted (s : State) (p port : Nat) : State :=
  ((List.range 64).filter (s.sliceResetting port)).foldl (fun s sl => s.sliceRstBegin p port sl) s

end Sys2Proof.Machine
end

