-- ==== Sys2Proof/Machine/Receipts.lean ====
section
/-! DEFINITION. Receipts and tail words (R399 to R403, R433, R510, R542 to R544), and the host's answers to the panel's reads (R308, R672). -/

namespace Sys2Proof.Machine

/-- The 64 bytes of a receipt (R399). -/
def Receipt.bytes (r : Receipt) (m phase : Nat) (time : W64) : Nat :=
  phase + (if r.final then 2 else 0) + r.outcome * 2 ^ 8 + r.reason * 2 ^ 16 + m * 2 ^ 32 + r.type * 2 ^ 48 + r.seq.toNat * 2 ^ 64 +
    time.toNat * 2 ^ 128 + r.steps % 2 ^ 64 * 2 ^ 192 + r.queuePos % 2 ^ 32 * 2 ^ 256 + r.preempts * 2 ^ 288 + r.defers * 2 ^ 304 +
    r.fault.toNat * 2 ^ 320 + r.unit.toNat * 2 ^ 352 + r.detail.toNat * 2 ^ 384

/-- Whether the host-interface die itself writes a partition's receipts and tail words: from STOPPING until RUNNING, and in a paired leader
(R433, R543). -/
def State.byHid (s : State) (p : Nat) : Bool :=
  let st := s.partState p
  (decide (3 ≤ st) && decide (st ≤ 6)) || s.pairState p == 2 || s.poisoned p

/-- n bytes written to the host-coherent region for a slice, by the host-interface die or through the line's home, its page logged (R403,
R415, R433). -/
def State.hcPut (s : State) (p port sl off n v : Nat) : State :=
  let addr := hcStart + off
  if s.byHid p then (s.logDirty port sl (s.hcHost p addr)).hidWrite p port addr n v else s.writeHc p sl 0 addr n v

/-- Whether a fault's record has still to reach its ring (R510). -/
def State.recordDue (s : State) (p : Nat) (fault : W32) : Bool :=
  s.faults.undelivered.any (fun f => (f.part == some p || f.toAll || f.rings.contains p || f.cls == 4) && BitVec.ofNat 32 (f.code + f.cls * 2 ^ 16) == fault)

/-- The partner's outcome of the entry whose DONE came first among a mailbag's. -/
def State.doneOf (s : State) (p m : Nat) : Option PairOutcome := (s.pair p).partnerDone.find? (fun d => d.mailbag == m)

/-- Whether a receipt is of an entry that a leader forwarded, so that it needs the partner's DONE (R542). -/
def State.needsDone (s : State) (p : Nat) (r : Receipt) : Bool :=
  r.final && s.pairState p == 2 && (match s.work r.work with
    | some k => k.fwd != 0
    | none => false)

/-- Whether a waiting receipt may be written now (R401, R510, R542): an interim one only while free slots exceed the reserved ones; a
leader's final one in the order of its partner's DONEs. -/
def State.mayReceipt (s : State) (p port m : Nat) (r : Receipt) : Bool :=
  if !r.final then decide (s.reservedSlots port m < s.freeSlots port m)
  else !(r.outcome == 6 && s.recordDue p r.fault) && (!s.needsDone p r || (match s.doneOf p m with
    | some d => d.seq == r.seq
    | none => false))

/-- The first receipt of a list that a test picks, and the list without it. -/
def takeReceipt (f : Receipt → Bool) : List Receipt → Option (Receipt × List Receipt)
  | [] => none
  | r :: t => if f r then some (r, t) else match takeReceipt f t with
    | some (x, u) => some (x, r :: u)
    | none => none

/-- What an entry's final receipt ends: the CANCEL or PREEMPT that waits for it, the draining of its mailbag, and what it held back (R390,
R405 to R408). -/
def State.receiptEnds (s : State) (p port m : Nat) (r : Receipt) : State :=
  let s := s.answerTargets r.work (if r.outcome = 1 then 1 else 0) (fun j => j.type == 3)
  let s := s.answerTargets r.work 1 (fun j => j.type == 4)
  let s := if s.bit (Reg.mailbagCtl port m) 9 ∧ !s.mbBusy port m then s.clearBit (Reg.mailbagCtl port m) 9 else s
  let s := s.afterFinal p
  match s.work r.work with
  | some k => s.sliceRstEnd p port k.slice
  | none => s

/-- A receipt taken off its mailbag without being written (R412, R544, R555). -/
def State.dropReceipt (s : State) (p port m : Nat) (r : Receipt) (rest : List Receipt) : State :=
  let s := s.setMailbag port m { s.mailbag port m with receipts := rest }
  if r.final then s.receiptEnds p port m r else s

/-- A receipt written into its slot (R402, R403). -/
def State.receiptOut (s : State) (p port m : Nat) (r : Receipt) (rest : List Receipt) : State :=
  let x := s.mailbag port m
  let n := s.mbSlots port m
  let c := x.rcount.toNat
  let tell := s.needsDone p r
  let s := s.hcPut p port (s.ownerOf port m) (s.ringOff port m + 64 * (c % n)) 64 (r.bytes m ((c / n + 1) % 2) (s.hidTime port))
  let s := s.setMailbag port m { s.mailbag port m with rcount := x.rcount + 1, receipts := rest, tailDue := true, tellDue := tell }
  let y := s.pair p
  let s := if tell then s.setPair p { y with partnerDone := y.partnerDone.filter (fun d => d.mailbag != m || d.seq != r.seq) } else s
  if r.final then s.receiptEnds p port m r else s

/-- A leader's final receipt compared with its partner's outcome (R542): it is written when they agree; when they differ, the leader fails over
with its own FAULTED outcome, and otherwise writes the receipt and goes on ALONE. -/
def State.leaderReceipt (s : State) (p port m : Nat) (r : Receipt) (rest : List Receipt) : State :=
  match s.doneOf p m with
  | none => s
  | some d =>
    if d.outcome = r.outcome ∧ d.fault = r.fault then s.receiptOut p port m r rest
    else if r.outcome = 6 then (s.poison p).failOver p r.fault r.unit
    else ((s.receiptOut p port m r rest).sendWithdraw p 1).goAlone p

/-- A follower's part (R542, R544): interim receipts are dropped, and the outcome of the first final one not yet reported is sent. -/
def State.followerDone (s : State) (p port m : Nat) : State :=
  let x := s.mailbag port m
  let s := s.setMailbag port m { x with receipts := x.receipts.filter (·.final) }
  let y := s.pair p
  match x.receipts.find? (fun r => r.final && !y.ownDone.contains r.work) with
  | none => s
  | some r =>
    let s := s.setPair p { y with ownDone := y.ownDone ++ [r.work] }
    (s.pairSend p 0x3 [m, r.seq.toNat, r.outcome, r.fault.toNat]).receiptEnds p port m r

/-- RECEIPT_WRITE (R400 to R403, R433, R510, R542, R544, R552, R555). -/
def State.receiptWrite (s : State) (port m : Nat) : State :=
  match s.boundTo port with
  | none => s
  | some p =>
    let x := s.mailbag port m
    if s.follows p then s.followerDone p port m
    else if s.pairState p = 5 then
      (match x.receipts with
        | r :: rest => s.dropReceipt p port m r rest
        | [] => s)
    else if x.tailDue ∨ !(s.port port).linkUp ∨ (s.pairState p = 6 ∧ !(s.pair p).mayWrite) ∨ !s.mayAsk p then s
    else match takeReceipt (s.mayReceipt p port m) x.receipts with
      | none => s
      | some (r, rest) => if s.needsDone p r then s.leaderReceipt p port m r rest else s.receiptOut p port m r rest

/-- RECEIPT_WRITE. -/
def execReceiptWrite (port : Fin 6) (m : Fin 4096) (s : State) : Host.Outcome State Fault Refusal := next (s.receiptWrite port.val m.val)

/-- TAIL_WORD_WRITE (R403, R543): the new RCOUNT as a 64-bit value; a leader then reports a forwarded entry's receipt. -/
def State.tailWordWrite (s : State) (port m : Nat) : State :=
  match s.boundTo port with
  | none => s
  | some p =>
    let x := s.mailbag port m
    if !x.tailDue ∨ (s.pairState p = 6 ∧ !(s.pair p).mayWrite) ∨ s.pairState p = 5 ∨ !s.mayAsk p then s
    else
      let s := s.hcPut p port (s.ownerOf port m) (s.tailOff port m) 8 x.rcount.toNat
      let s := s.setMailbag port m { s.mailbag port m with tailDue := false, tellDue := false }
      let s := if x.tellDue ∧ s.pairState p = 2 then s.pairSend p 0x4 [m, x.rcount.toNat] else s
      s.sliceRstEnd p port (s.ownerOf port m)

/-- TAIL_WORD_WRITE. -/
def execTailWordWrite (port : Fin 6) (m : Fin 4096) (s : State) : Host.Outcome State Fault Refusal := next (s.tailWordWrite port.val m.val)

/-! The host's answers. -/

/-- A release or fence of a group that waits for a flush read: it ends, or its store is withheld and the block halted with a code (R308,
R412). -/
def State.flushed (s : State) (ga slot id : Nat) (ok : Bool) (code : Nat) : State :=
  match s.group ga slot with
  | none => s
  | some g => match g.subs.findSome? (fun u => (u.orders.find? (fun o => o.id == id && o.flushing)).map (fun o => (u, o))) with
    | none => s
    | some (u, o) =>
      if ok then s.finishOrder ga slot o
      else
        let s := s.setGroup ga slot (g.dropOrder id)
        match ctxFor s ga slot o.lanes u.pc with
        | some c => blockFault s c code 0 0
        | none => s

/-- The closing fence of the launch that waits for a flush read of an array (R302): done, or failed with its record raised. -/
def State.closingFlushed (s : State) (p ga : Nat) (ok : Bool) : State :=
  match s.works.find? (fun k => k.part == p && k.phase == .closing && k.hostArrays.contains ga) with
  | none => s
  | some k =>
    let s := s.modWork k.id (fun k => { k with hostArrays := k.hostArrays.filter (· != ga), lostOrder := if ok then k.lostOrder else k.lostOrder ++ [ga] })
    let r : FaultRec := { FaultRec.plain 0x0601 (unitArray ga) (s.dieTime (ga / 8)) (some p) with
      slice := BitVec.ofNat 16 k.slice, mailbag := BitVec.ofNat 16 k.mailbag, seq := k.seq }
    ((if ok then s else s.raise r).progressClosing).afterFinal p

/-- The done write of a courier that waits for a flush read (R337): it follows, or its chain ends with HOST_ERROR. -/
def State.crFlushed (s : State) (c : Nat) (ok : Bool) : State :=
  let x := s.courier c
  if x.flush ≠ 1 then s
  else if ok then (s.setCourier c { x with flush := 2 }).recordDone c
  else
    let s := s.courierFault c 0x0601 0 []
    (s.setCourier c { s.courier c with flush := 2, status := 6 }).recordDone c

/-- HOST_FLUSH_READ_DONE (R302, R308, R337): the oldest flush read of a port completes or fails. -/
def execHostFlushReadDone (port : Fin 6) (ok : Bool) (s : State) : Host.Outcome State Fault Refusal :=
  let x := s.port port.val
  next (match s.boundTo port.val, x.flushes with
    | some p, f :: t =>
      if !s.mayAsk p then s
      else
      let s := s.setPort port.val { x with flushes := t }
      (if 0x300 ≤ f.arr then s.crFlushed (f.arr - 0x300) ok
        else if f.slot = 64 then s.closingFlushed p f.arr ok
        else s.flushed f.arr f.slot f.id ok 0x0601)
    | _, _ => s)

/-- HOST_READ_ERROR (R672): the oldest host-region load of a line fails for its groups, and with it the other host lines of the instruction; where
a courier reads the line, its chain stops. -/
def State.hostReadError (s : State) (p line : Nat) : State :=
  if 128 * line < hostStart then s
  else match s.reqs.find? (fun r => r.part == p && r.line == line && r.kind.reads && !r.arrived) with
    | some r =>
      let rest := s.reqs.filter (fun q => q.sameLoad r && q.id != r.id)
      (rest.foldl (fun (s : State) q => (s.dropReq q).complete q) (s.dropReq r)).failReq r 0x0603
    | none =>
      let hit := fun (c : Nat) =>
        let x := s.courier c
        x.st == .running && x.started && x.op == 1 && x.status == 0 && decide (x.done < x.total) && (x.src.toNat + 128 * x.done) / 128 == line
      match (s.partCouriers p).find? hit with
      | some c => (s.courierFault c 0x0603 (128 * line) []).crStop c 6
      | none => s

/-- HOST_READ_ERROR. -/
def execHostReadError (p : Fin 6) (line : BitVec 41) (s : State) : Host.Outcome State Fault Refusal := next (s.hostReadError p.val line.toNat)

end Sys2Proof.Machine
end

