-- ==== Sys2Proof/Machine/HostLink.lean ====
section
/-! DEFINITION. A host port's link: its configuration space (R375), PTM (R379), the host-coherent region (R409 to R411), link loss, return and
function-level reset (R412 to R414, R602). -/

namespace Sys2Proof.Machine

/-- CONFIG_REQUEST (R375): no answer during the fundamental reset (status 2), Retry Status until the configuration space is ready (status 1),
then completed (status 0). -/
def execConfigRequest (port : Fin 6) (s : State) : Host.Outcome State Fault Refusal :=
  let x := s.port port.val
  next (if !x.live ∨ x.perst then { s with response := { status := 2, data := [] } }
    else
      let s := s.setPort port.val { x with configReady := true }
      { s with response := { status := if x.configReady then 0 else 1, data := [] } })

/-- PTM_DIALOG (R379): the PTM master time and this port's replica at that instant, latched as one pair. -/
def execPtmDialog (port : Fin 6) (hostTime : BitVec 64) (s : State) : Host.Outcome State Fault Refusal :=
  next (if (s.boundTo port.val).isSome then s.setPort port.val { s.port port.val with ptmLocal := s.hidTime port.val, ptmMaster := hostTime } else s)

/-- A write of HC_CTL (R409, R671): SIZE and EN until they are locked; EN locks them. SIZE keeps what is written; the region of a SIZE above 32 is
that of 32 (DESIGN CHOICE, log entry 96). -/
def State.hcCtlWrite (s : State) (port : Nat) (v : W32) : State :=
  let reg := Reg.hcCtl port
  if !s.barOpen port ∨ s.bit reg 31 then s
  else
    let s := (s.setField reg 0 6 (bitsOf v.toNat 0 6)).setField reg 8 1 (bitsOf v.toNat 8 1)
    if v.getLsbD 8 then (s.setBit reg 31).setBit (Reg.portState port) 2 else s

/-- HC_CTL_EN (R409). -/
def execHcCtlEn (port : Fin 6) (v : BitVec 32) (s : State) : Host.Outcome State Fault Refusal := next (s.hcCtlWrite port.val v)

/-- CXL_SNOOP (R411): the home slice gives the line up, its modified bytes written back first. -/
def execCxlSnoop (port : Fin 6) (line : BitVec 41) (s : State) : Host.Outcome State Fault Refusal :=
  next (match s.boundTo port.val with
    | some p => s.flushHc p (fun l => l.line == line.toNat)
    | none => s)

/-! Link loss. -/

/-- The registers of a port's PORT sub-block and letterbox pages back at their reset values, except LINK_GEN and what PORT_STATE says of the
panel and the binding (R377, R380); slice 0's windows cover a partition of n sectors. -/
def State.portRegsReset (s : State) (port n : Nat) : State :=
  let st := s.reg (Reg.portState port)
  let s := s.resetRegs (Base.port port) (Base.port port + 0x10000)
  let s := s.resetRegs (Base.letterbox port 0) (Base.letterbox port 0 + 0x40000)
  let s := (s.setReg (Reg.portState port) (st &&& 0xFFFF0773)).wholeWindows port n
  let s := { s with mailbags := Tab.keep s.mailbags (fun k => k / 4096 != port) }
  s.setPort port { s.port port with ptmLocal := 0, ptmMaster := 0, fcount := 0, fhead := 0, dlogPend := [] }

/-- A taken entry stopped as its port's link goes down (R412): as by a CANCEL, but without a receipt. -/
def State.linkStop (s : State) (k : Work) : State :=
  let s := s.modWork k.id (fun k => { k with why := some .linkDown })
  match k.type, k.phase with
  | 1, .running => s.stopFor k.id .linkDown
  | 1, .stopping => s.stopFor k.id .linkDown
  | 2, .running => s.cancelChain k .linkDown
  | 5, .atPostmaster => s
  | 5, .running => s
  | _, _ => s.finish k.id true (fun k => k.receipt true 5 0)

/-- Host accesses and flush reads that wait when the link goes down fail with HOST_LINK_DOWN (R308, R412). -/
def State.failHost (s : State) (p port : Nat) : State :=
  let lost := s.reqs.filter (fun r => r.part == p && decide (hcStart ≤ 128 * r.line))
  let s := { s with reqs := s.reqs.filter (fun r => !(r.part == p && decide (hcStart ≤ 128 * r.line))) }
  let s := lost.foldl (fun s r => s.failReq r 0x0602) s
  let x := s.port port
  let s := x.flushes.foldl (fun s f =>
    if 0x300 ≤ f.arr then
      let c := f.arr - 0x300
      let s := s.courierFault c 0x0602 0 []
      s.setCourier c { s.courier c with flush := 2, status := 6 }
    else if f.slot = 64 then s
    else s.flushed f.arr f.slot f.id false 0x0602) s
  s.setPort port { s.port port with flushes := [] }

/-- Host-coherent lines held modified discarded: how many, and the state without them (R412). -/
def State.loseHc (s : State) (p : Nat) : Nat × State :=
  (s.partDies p).foldl (fun (r : Nat × State) d =>
    let x := r.2.slice d
    if x.entries = [] then r else (r.1 + x.hostLines.length, r.2.setSlice d (x.dropHost (fun _ => true)))) (0, s)

/-- A port's link lost, or the port reset by FLR with its link kept up (R412, R414). Modified host-coherent lines are counted in HC_LOST after
the registers have been reset. -/
def State.linkLoss (s : State) (port : Nat) (up : Bool) : State :=
  let x := s.port port
  let s := s.setField (Reg.portState port) 16 16 (s.field (Reg.portState port) 16 16 + 1)
  let s := s.setPort port { x with linkUp := up && x.linkUp, ide := if up then x.ide else [], lost := x.lost || (!up && x.bound.isSome) }
  match x.bound with
  | none => s
  | some p =>
    let s := (s.works.filter (fun k => k.port == port && k.phase != .finished)).foldl State.linkStop s
    let s := s.failHost p port
    let (n, s) := s.loseHc p
    let s := (s.portRegsReset port (s.partN p)).hcLost port n
    let s := { s with works := s.works.filter (fun (k : Work) => !(k.port == port && k.phase == WPhase.finished)) }
    s.startChains.dispatch p

/-- HOST_LINK_DOWN (R412). -/
def execHostLinkDown (port : Fin 6) (s : State) : Host.Outcome State Fault Refusal :=
  next (if (s.port port.val).linkUp then s.linkLoss port.val false else s)

/-- LINK_LOST (R413, R523): the link returns, and with it a host-interface die that was lost; a loss while the port was bound is reported. -/
def execLinkLost (port : Fin 6) (s : State) : Host.Outcome State Fault Refusal :=
  let x := s.port port.val
  next (if x.linkUp ∨ !x.live ∨ x.perst then s
    else
      let s := s.setPort port.val { x with linkUp := true, lost := false }
      let s := { s with deadUnits := s.deadUnits.filter (· != 116 + port.val / 3) }
      if x.lost ∧ x.bound.isSome then s.setBit (Reg.portStatus port.val) 0 else s)

/-- FUNCTION_LEVEL_RESET (R414). -/
def execFunctionLevelReset (port : Fin 6) (s : State) : Host.Outcome State Fault Refusal := next (s.linkLoss port.val true)

/-- PERST (R602): PERST_n of one port asserted: its link goes down, and its configuration space waits for the end of the reset. -/
def execPerst (port : Fin 6) (s : State) : Host.Outcome State Fault Refusal :=
  let s := if (s.port port.val).linkUp then s.linkLoss port.val false else s
  next (s.setPort port.val { s.port port.val with perst := true, configReady := false, linkUp := false })

end Sys2Proof.Machine
end

