-- ==== Sys2Proof/Machine/Power.lean ====
section
/-! DEFINITION. Power: budgets (R560 to R566), the phase governor and pace (R567 to R579), the alert (R496, R574 to R576), heat (R581 to R583),
retuning (R587 to R591), and its management operations (R578, R592). Power is in microwatts where it is computed. -/

namespace Sys2Proof.Machine

/-! Parameter blocks. -/

/-- n free bytes of the host as a number. -/
def State.hostValue (s : State) (n : Nat) : Nat × State := (hostBytes s.fresh n, { s with fresh := s.fresh + n })

/-- n bytes that a management entry names (R394, R546): from partition memory, or, where the address is a host address, the host's bytes;
none where they do not lie in the regions and windows of the entry. -/
def State.entryBytes (s : State) (k : Work) (a n : Nat) : Option Nat × State :=
  match s.regionFor k.part k.snap a, s.regionFor k.part k.snap (a + n - 1) with
  | .unmapped, _ => (none, s)
  | _, .unmapped => (none, s)
  | .hbm, _ => (some (s.readBytes k.part a n), s)
  | .far _, _ => (some (s.readBytes k.part a n), s)
  | _, _ =>
    let line := a / 128
    let d := s.homeDie k.part line
    match (s.slice d).line? (s.setOf line) line false with
    | some _ => (some (s.readBytes k.part a n), s)
    | none => ((some (s.hostValue n).1, (s.hostValue n).2))

/-- The 16 bytes of a management entry's parameter block (R394, R459); what an operation's table calls reserved in it is ignored (R13). -/
def State.paramBlock (s : State) (k : Work) : Option Nat × State := s.entryBytes k k.param 16

/-- n bytes of a number written to partition memory from an address, for an entry of a slice (R403, R592). -/
def State.putBytes (s : State) (p sl work addr : Nat) : Nat → Nat → State
  | _, 0 => s
  | v, n + 1 =>
    State.putBytes (if hcStart ≤ addr then s.writeHc p sl work addr 1 (v % 256) else s.writeWord p addr 1 (v % 256)) p sl work (addr + 1) (v / 256) n

/-! Budgets. -/

/-- A fret's pace in tokens per tick (R44). -/
def fretPace (f : Nat) : Nat := 52 + 2 * f

/-- The planned supply of a die (R590). -/
def State.planned (s : State) (d : Nat) : Nat := s.field (Reg.margin d) 0 8

/-- A partition's worst-case power at a fret, in watts, rounded up (R565). -/
def State.fretWatts (s : State) (p f : Nat) : Nat :=
  let die := fun (d : Nat) => 25 * Config.eMax d * fretPace f + 1000 * Config.staticPower d (s.planned d)
  let l := (s.partDies p).map die
  let total := l.foldl (· + ·) 0 + (if l = [] then 0 else 200000000 * s.partN p)
  (total + 999999) / 1000000

/-- FRET of RATE_MODE, and whether a partition is in fixed-rate mode (R69). -/
def State.fret (s : State) (p : Nat) : Nat := s.field (Reg.rateMode p) 1 3
def State.fixedRate (s : State) (p : Nat) : Bool := s.bit (Reg.rateMode p) 0

/-- Whether every die of a list holds a fret, by the latest margin report (R49, R590). -/
def State.holdsFret (s : State) (dies : List Nat) (f : Nat) : Bool :=
  dies.all (fun d => !s.bit (Reg.margin d) 11 && decide (f ≤ s.field (Reg.margin d) 8 3))

/-- A partition's budget and the module's, in watts (R564). -/
def State.budget (s : State) (p : Nat) : Nat := s.field (Reg.partBudget p) 0 16
def State.moduleBudget (s : State) : Nat := min (s.field Reg.pwrModuleBudget 0 16) 24000

/-- The sum of the partition budgets, one of them replaced. -/
def State.budgetSum (s : State) (p w : Nat) : Nat := ((List.range 6).map (fun q => if q = p then w else s.budget q)).foldl (· + ·) 0

/-- A write of PART_BUDGET (R564, R566). -/
def State.partBudgetWrite (s : State) (p : Nat) (v : W32) : State :=
  let w := bitsOf v.toNat 0 16
  if s.moduleBudget < s.budgetSum p w + 1500 ∨ w < s.fretWatts p 0 ∨ (s.fixedRate p ∧ s.partState p ≠ 0 ∧ w < s.fretWatts p (s.fret p)) then
    s.setBit Reg.pwrStatus 9
  else s.setReg (Reg.partBudget p) (v &&& 0x7FFFF)

/-- PART_BUDGET_WRITE (R566). -/
def execPartBudgetWrite (p : Fin 6) (v : BitVec 32) (s : State) : Host.Outcome State Fault Refusal := next (s.partBudgetWrite p.val v)

/-- A write of PWR_MODULE_BUDGET (R564). -/
def State.moduleBudgetWrite (s : State) (v : W32) : State :=
  if min (bitsOf v.toNat 0 16) 24000 < s.budgetSum 6 0 + 1500 then s.setBit Reg.pwrStatus 9 else s.setReg Reg.pwrModuleBudget (v &&& 0xFFFF)

/-- PWR_MODULE_BUDGET_WRITE (R564). -/
def execPwrModuleBudgetWrite (v : BitVec 32) (s : State) : Host.Outcome State Fault Refusal := next (s.moduleBudgetWrite v)

/-- Mode and fret of a partition set, and locked where asked (R69, R671). -/
def State.setRate (s : State) (p : Nat) (v : W32) : State := s.setReg (Reg.rateMode p) (v &&& 0x8000000F)

/-- A write of RATE_MODE by the Postmaster for the operator (R49, R69, R578): only while the partition is UNKEYED. -/
def State.rateModeWrite (s : State) (p : Nat) (v : W32) : State :=
  if s.bit (Reg.rateMode p) 31 ∨ s.keyState p ≠ 0 then s
  else if v.getLsbD 0 ∧ !s.holdsFret (s.partDies p) (bitsOf v.toNat 1 3) then s.setBit Reg.rateStatus 17
  else s.setRate p v

/-- RATE_MODE_WRITE (R49, R69). -/
def execRateModeWrite (p : Fin 6) (v : BitVec 32) (s : State) : Host.Outcome State Fault Refusal := next (s.rateModeWrite p.val v)

/-- RATE_CONFIG (R578, R592). -/
def State.rateConfig (s : State) (k : Work) : State :=
  let p := k.part
  match s.paramBlock k with
  | (none, s) => s.serve1 k.id 1
  | (some b, s) =>
    let fixed := bitsOf b 0 8
    let fret := bitsOf b 8 8
    let lock := bitsOf b 16 8
    if 1 < fixed ∨ 7 < fret ∨ 1 < lock then s.serve1 k.id 1
    else if s.bit (Reg.rateMode p) 31 then s.serve1 k.id 2
    else if fixed = 1 ∧ !s.holdsFret (s.partDies p) fret then (s.setBit Reg.rateStatus 17).serve1 k.id 5
    else if fixed = 1 ∧ s.budget p < s.fretWatts p fret then s.serve1 k.id 4
    else (s.setRate p (BitVec.ofNat 32 (fixed + 2 * fret + lock * 2 ^ 31))).serve1 k.id 0

/-- RATE_CONFIG, OP 0x0500. -/
def execRateConfig (port : Fin 6) (s : State) : Host.Outcome State Fault Refusal :=
  next (match s.mgmtNext port.val 0x0500 with
    | some k => s.rateConfig k
    | none => s)

/-- Whether n bytes from an address lie in the HBM or the host-coherent region, inside an entry's windows (R546, R592). -/
def State.outFits (s : State) (k : Work) (addr n : Nat) : Bool := match s.regionFor k.part k.snap addr, s.regionFor k.part k.snap (addr + n - 1) with
  | .hbm, .hbm => true
  | .hc, .hc => true
  | _, _ => false

/-- ENERGY_READ (R592): the window's number and the energy of the partition's slices. -/
def State.energyRead (s : State) (k : Work) : State :=
  match s.paramBlock k with
  | (none, s) => s.serve1 k.id 1
  | (some b, s) =>
    let out := bitsOf b 0 64
    if out % 64 ≠ 0 ∨ !s.outFits k out 264 then s.serve1 k.id 1
    else
      let v := (List.range 64).foldl (fun v i => v + (s.reg (Reg.sliceEnergy (64 * k.part + i))).toNat * 2 ^ (64 + 32 * i)) s.tb.window
      (s.putBytes k.part k.slice k.id out v 264).serve1 k.id 0

/-- ENERGY_READ, OP 0x0501. -/
def execEnergyRead (port : Fin 6) (s : State) : Host.Outcome State Fault Refusal :=
  next (match s.mgmtNext port.val 0x0501 with
    | some k => s.energyRead k
    | none => s)

/-! The phase governor. -/

/-- The energy of an array-step that the governor expects of an array now (R568, R569). -/
def State.expected (s : State) (p ga : Nat) : Nat :=
  let a := s.arr ga
  if a.groups = [] then Config.idleEnergy (ga / 8)
  else match (s.part p).phase.find? (fun e => e.1 == a.phaseKernel && e.2.1 == a.phaseValue) with
    | some e => e.2.2
    | none => Config.eMax (ga / 8) / 8

/-- D of a die (R571): the greater of its predicted and its measured dynamic power at its natural rate. -/
def State.demand (s : State) (p : Nat) (o : DieObs) : Nat :=
  let pred := ((List.range 8).map (fun i => s.expected p (8 * o.die.val + i))).foldl (· + ·) 0
  max (25 * pred * o.natural) o.meas

/-- A governed die's pace after an interval (R571): lowered at once, raised by at most 4, from 52 to 88 tokens. -/
def nextPace (now want : Nat) : Nat := min 88 (if want < now then want else min want (now + 4))

/-- The governor of one partition (R571, R572). -/
def State.govern (s : State) (obs : List DieObs) (memory p : Nat) : State :=
  let mine := obs.filter (fun o => (s.partDies p).contains o.die.val)
  let rest : Nat := (mine.map (·.static)).foldl (· + ·) 0 + memory
  let room : Nat := 1000000 * s.budget p - rest
  let sum : Nat := (mine.map (s.demand p)).foldl (· + ·) 0
  let want := fun (o : DieObs) => max 52 (if sum + rest ≤ 1000000 * s.budget p then o.natural else o.natural * room / sum)
  let pace := mine.foldl (fun t o => Tab.put t o.die.val (nextPace (Tab.getD t o.die.val 52) (want o))) s.power.pace
  { s with power := { s.power with pace := pace } }

/-- GOVERNOR_INTERVAL (R571, R576): while the alert is asserted or held the paces stay. `memory` is the partitions' measured memory power. -/
def execGovernorInterval (obs : List DieObs) (memory : List (Fin 6 × Nat)) (s : State) : Host.Outcome State Fault Refusal :=
  let mem := fun (p : Nat) => ((memory.find? (fun e => e.1.val == p)).map (·.2)).getD 0
  next (if s.bit Reg.pwrStatus 0 ∨ s.bit Reg.pwrStatus 1 ∨ s.mgdLost then s
    else (List.range 6).foldl (fun s p => if s.partState p = 0 ∨ s.fixedRate p then s else s.govern obs (mem p) p) s)

/-! The alert. -/

/-- The first source of an assertion (R575): the lowest-numbered converter, else the pad, else unknown. -/
def alertSource (converters : BitVec 14) (pad : Bool) : Nat :=
  match (List.range 14).find? converters.getLsbD with
  | some i => i
  | none => if pad then 0xFE else 0xFF

/-- PWR_ALERT (R46, R496, R575): an assertion during the hold ends the hold. -/
def execPwrAlert (converters : BitVec 14) (pad : Bool) (s : State) : Host.Outcome State Fault Refusal :=
  let source := alertSource converters pad
  next (if s.bit Reg.pwrStatus 0 then s
    else
      let s := ((s.setBit Reg.pwrStatus 0).clearBit Reg.pwrStatus 1).setBit Reg.pwrStatus 8
      let s := (s.setBit Reg.rateStatus 8).setField Reg.pwrAlerts 16 8 source
      let s := { s with power := { s.power with alerts := s.power.alerts + 1 } }
      s.raise { FaultRec.plain 0x0901 (unitDest 118) (s.replica 118) none with detail := [BitVec.ofNat 32 source] })

/-- PWR_ALERT_RELEASE (R496). -/
def execPwrAlertRelease (s : State) : Host.Outcome State Fault Refusal :=
  next (if !s.bit Reg.pwrStatus 0 then s
    else
      let s := (s.clearBit Reg.pwrStatus 0).setBit Reg.pwrStatus 1
      { s with power := { s.power with alertReleased := s.tb.master } })

/-- ALERT_HOLD_END (R496, R576): at the first window boundary at least 1 ms after the release; a governed die rises again from 52 tokens. -/
def execAlertHoldEnd (s : State) : Host.Outcome State Fault Refusal :=
  let boundary := s.tb.master.toNat / 1000000 * 1000000
  next (if !s.bit Reg.pwrStatus 1 ∨ boundary < s.power.alertReleased.toNat + 1000000 then s
    else
      let s := (s.clearBit Reg.pwrStatus 1).clearBit Reg.rateStatus 8
      let pace := Tab.mapAll s.power.pace (fun d v => match s.partOfDie d with
        | some p => if s.fixedRate p then v else 52
        | none => v)
      { s with power := { s.power with pace := pace } })

/-! Heat. -/

/-- JUNCTION_SAMPLE (R30, R581): the limit begins above 95 °C and ends at 92 °C; temperatures are in half degrees. A spare that is powered down
gives none. -/
def execJunctionSample (site : Fin 108) (temp : BitVec 8) (s : State) : Host.Outcome State Fault Refusal :=
  let reg := Reg.thDie site.val
  let t := temp.toNat
  next (if s.poweredDown site.val then s else
    let s : State := { s.setField reg 0 8 t with power := { s.power with siteMax := Tab.modify s.power.siteMax site.val 0 (max t) } }
    if 190 < t ∧ !s.bit reg 16 then
      let s := if s.bit Reg.thStatus 8 then s else s.setField Reg.thFirst 0 7 site.val
      let s := (s.setBit Reg.thStatus 8).setBit reg 16
      let p := if s.siteState site.val = 1 then s.partOfDie (s.siteDie site.val) else none
      s.raise { FaultRec.plain 0x0902 (unitDest site.val) (s.replica site.val) p with detail := [BitVec.ofNat 32 site.val] }
    else if t ≤ 184 then s.clearBit reg 16
    else s)

/-- Every compute die taken to retention (R582, R614). -/
def State.retainAll (s : State) : State := { s with power := { s.power with retention := List.range 108 } }

/-- THERMAL_TRIP (R582): source 108 is the coolant outlet. -/
def execThermalTrip (source : Fin 109) (s : State) : Host.Outcome State Fault Refusal :=
  let word := if source.val = 108 then 0x100 else source.val
  let unit := if source.val = 108 then unitDest 118 else unitDest source.val
  next (if s.bit Reg.thStatus 0 then s
    else ((s.setBit Reg.thStatus 0).setBit Reg.thStatus 9).retainAll.raise
      { FaultRec.plain 0x0903 unit (s.replica (if source.val = 108 then 118 else source.val)) none with detail := [BitVec.ofNat 32 word] })

/-- IBC_FAULT (R563). -/
def execIbcFault (i : Fin 14) (s : State) : Host.Outcome State Fault Refusal :=
  next ((s.setField (Reg.ibcState i.val) 0 2 2).setBit Reg.pwrStatus 10)

/-! Retuning. -/

/-- A die's margin report published (R588, R590): its strings measured, its supply planned; a die that cannot hold fret 0 is AGED. -/
def State.report (s : State) (r : MarginRep) : State :=
  let d := r.die.val
  let v := r.supply.toNat + r.maxFret.toNat * 2 ^ 8 + (if r.aged then 2 ^ 11 else 0) + r.shift.toNat * 2 ^ 16 + r.slack.toNat * 2 ^ 24
  let s := s.setReg (Reg.margin d) (BitVec.ofNat 32 v)
  match s.siteOf d with
  | none => s
  | some site =>
    let (n, s) := s.draw
    let s := (List.range 64).foldl (fun s i => s.setField (Reg.snString site i) 0 16 (Config.stringDelay site i n).toNat) s
    let s := s.setField (Reg.snSupply site) 0 8 r.supply.toNat
    if !r.aged then s
    else
      let s := s.setBit Reg.pwrStatus 12
      { s with faults := { s.faults with agedDies := if s.faults.agedDies.contains site then s.faults.agedDies else s.faults.agedDies ++ [site] } }

/-- REPORT_GEN counted (R590). -/
def State.reportsOut (s : State) : State := s.setField Reg.retuneCtl 16 16 (s.field Reg.retuneCtl 16 16 + 1)

/-- When the next retuning is due (R588). -/
def State.nextRetune (s : State) : State :=
  let h := s.field Reg.retuneCtl 8 8
  let due := s.tb.master + BitVec.ofNat 64 ((if h = 0 then 24 else h) * 3600000000000)
  { s with power := { s.power with retuneDue := due } }

/-- A retuning begun (R588, R591): the Postmaster must be running. -/
def State.retuneStart (s : State) : State :=
  if s.bit Reg.retuneCtl 1 then s else (s.setBit Reg.retuneCtl 1).nextRetune

/-- RETUNE_START (R588): on the expiry of PERIOD_H, or when START has been set. -/
def execRetuneStart (s : State) : Host.Outcome State Fault Refusal :=
  next (if s.bit Reg.retuneCtl 0 ∨ (s.stepDone 7 ∧ s.power.retuneDue.toNat ≤ s.tb.master.toNat) then s.retuneStart else s)

/-- RETUNE_DONE (R588 to R590): the reports of the partitions' dies; the counts of corrected mismatches start again. -/
def execRetuneDone (reports : List MarginRep) (s : State) : Host.Outcome State Fault Refusal :=
  next (if !s.bit Reg.retuneCtl 1 then s
    else
      let mine := reports.filter (fun r => (s.partOfDie r.die.val).isSome)
      let s := mine.foldl State.report s
      let dies := mine.map (·.die.val)
      let s := { s with arrs := Tab.mapAll s.arrs (fun ga a => if dies.contains (ga / 8) then { a with mismatches := [] } else a) }
      (((s.clearBit Reg.retuneCtl 0).clearBit Reg.retuneCtl 1).setBit Reg.pwrStatus 11).reportsOut)

/-- The supply code that a die should have (R562, R588, R589): the planned one, a higher one where its partition's fixed-rate fret needs it, none
outside every partition. -/
def State.supplyGoal (s : State) (d : Nat) : Nat := match s.partOfDie d with
  | none => 0
  | some p =>
    if !s.fixedRate p then s.planned d
    else max (s.planned d) ((((List.range 35).map (· + 26)).find? (fun c => decide (fretPace (s.fret p) ≤ s.heldPace d c))).getD 60)

/-- A die's supply set (R562, R589). -/
def State.supplySet (s : State) (d : Nat) : State :=
  let code := s.supplyGoal d
  let s := { s with power := { s.power with supply := Tab.put s.power.supply d code } }
  match s.siteOf d with
  | some site => s.setField (Reg.snSupply site) 8 8 code
  | none => s

/-- Whether a die's supply may move now (R576, R589): not while the alert is asserted or held, and down only while the die's pace is at or below the
rate that the new supply holds. -/
def State.maySlew (s : State) (d : Nat) : Bool :=
  !s.bit Reg.pwrStatus 0 && !s.bit Reg.pwrStatus 1 &&
    ((s.partOfDie d).isNone || decide (Tab.getD s.power.supply d 0 ≤ s.supplyGoal d) || decide (s.paceOf d ≤ s.heldPace d (s.supplyGoal d)))

/-- SUPPLY_SLEW_DONE (R561, R562, R576, R589). -/
def execSupplySlewDone (d : Fin 96) (s : State) : Host.Outcome State Fault Refusal := next (if s.maySlew d.val then s.supplySet d.val else s)

end Sys2Proof.Machine
end

