-- ==== Sys2Proof/Machine/Restart.lean ====
section
/-! DEFINITION. What a partition's stop, reset and restart have in common: the end of a debug grant (R495, R637), on-panel scrub (R485, R486), the
partition reset (R607), the restart census (R28, R29, R521, R522) and the end of a restart (R608, R609). -/

namespace Sys2Proof.Machine

/-! The end of a debug grant. -/

/-- The groups of a partition that the debugger holds halted (R626, R640). -/
def State.heldGroups (s : State) (p : Nat) : List (Nat × Nat) :=
  (s.dbgOf p).held.filter (fun e => match s.group e.1 e.2 with
    | some g => g.held
    | none => false)

/-- Every hold of a session released: its groups go on, and its launches are dispatched again (R634, R637). -/
def State.releaseHolds (s : State) (p : Nat) : State :=
  let l := s.heldGroups p
  let s := l.foldl (fun s e => match s.group e.1 e.2 with
    | some g => s.setGroup e.1 e.2 { g with held := false }
    | none => s) s
  let s := s.setDbg p { s.dbgOf p with held := [], heldLaunches := [], steps := [], halts := [] }
  if l = [] then s else s.setBit Reg.dbgStatus 3

/-- A debug session of a partition ended (R625, R637): its holds released, its breakpoints cleared. -/
def State.endSession (s : State) (p : Nat) : State :=
  let s := s.releaseHolds p
  let s := s.setDbg p { s.dbgOf p with breaks := [] }
  (s.clearBit (Reg.dbgPart p) 0).setField (Reg.dbgPart p) 8 8 0

/-- An open grant ended (R495). -/
def State.endGrant (s : State) (p : Nat) : State :=
  if !s.bit (Reg.keyState p) 16 then s
  else ((s.setField (Reg.keyState p) 16 5 0).setBit Reg.secStatus 3).endSession p

/-! A join given up. -/

/-- A join that fails (R539, R556): the pair state as it was, and the DETAIL for the entry that waits. -/
def State.joinFails (s : State) (p detail : Nat) : State :=
  let x := s.pair p
  let s := (s.setPairState p x.prevState).setPair p { x with joinWork := none, joinMsg := none }
  match x.joinWork with
  | some id => s.serve1 id detail
  | none => s

/-! Keys. -/

/-- The keys of a partition before any envelope (R471). -/
def PartKeys.reset : PartKeys :=
  { nonce := 0, envelopePub := 0, jobId := 0, jobSecret := 0, storageSecret := 0, keyNonce := 0, loaded := false, tenantKeyHash := 0,
    partner := 0, grantId := 0, notAfter := 0, debugger := 0, scrubLeft := [], hbmScrubDue := false }

/-- The keys of a partition. -/
def State.keysOf (s : State) (p : Nat) : PartKeys := Tab.getD s.keys p PartKeys.reset
def State.setKeys (s : State) (p : Nat) (x : PartKeys) : State := { s with keys := Tab.put s.keys p x }

/-- A fresh NONCE and ENVELOPE_PUB for a partition (R471, R474). -/
def State.freshNonce (s : State) (p : Nat) : State :=
  let (n, s) := s.draw
  let (e, s) := s.draw
  s.setKeys p { s.keysOf p with nonce := (Config.random n).truncate 256, envelopePub := e }

/-! Scrub. -/

/-- The sectors of a partition. -/
def State.sectors (s : State) (p : Nat) : List Nat := (List.range 8).filter (bitAt (s.partSectors p))

/-- The on-panel scrub of a partition's sectors begun (R485): phase and cause shown, every slice and array memory invalidated. -/
def State.startScrub (s : State) (p cause : Nat) : State :=
  let l := s.sectors p
  let s := s.setKeys p { s.keysOf p with scrubLeft := l }
  let s := l.foldl (fun s k => (s.setField (Reg.scrubSector k) 0 2 1).setField (Reg.scrubSector k) 4 3 cause) s
  ((s.partDies p).foldl State.invalidateDie s).dropTraffic p

/-- The replay buffers of a site's courses zeroed (R486, R606). -/
def State.clearReplay (s : State) (site : Nat) : State :=
  (List.range 128).foldl (fun s i =>
    let k := sendKey site (i / 32) (i % 32)
    match Tab.get s.halves k with
    | none => s
    | some h => s.setHalf k { h with replay := [], base := h.base + h.replay.length }) s

/-- A die's data bits zero and its structures invalid (R486); its counts of corrected mismatches run on (R236). -/
def State.scrubDie (s : State) (d : Nat) : State :=
  let kept := (List.range 8).map (fun i => (8 * d + i, (s.arr (8 * d + i)).mismatches))
  let s : State := { s with arrs := Tab.keep s.arrs (fun ga => ga / 8 != d), slices := Tab.erase s.slices d }
  let s := kept.foldl (fun s e => if e.2 = [] then s else s.setArr e.1 { Arr.reset with mismatches := e.2 }) s
  let s := s.atBase (s.sliceBase d) (fun s b => if s.bit (Reg.sliceState b) 1 then (s.setField (Reg.sliceState b) 0 2 1).setBit (Reg.sliceStatus b) 8 else s)
  match s.siteOf d with
  | some site => s.clearReplay site
  | none => s

/-- A scrub of a sector counted as completed (R499). -/
def State.scrubbed (s : State) (k : Nat) : State :=
  s.setField (Reg.scrubSector k) 16 16 (s.field (Reg.scrubSector k) 16 16 + 1)

/-- An on-panel scrub of a sector completed (R485, R486): of every die of the sector, or of the spares that join it. After an envelope the
sector's HBM is scrubbed next (R474). -/
def State.onpanelDone (s : State) (k : Nat) : State :=
  let reg := Reg.scrubSector k
  if s.field reg 0 2 ≠ 1 then s
  else
    let cause := s.field reg 4 3
    let owner := s.partOfSector k
    let joining := match owner with
      | some p => (s.part p).joining.filter (fun d => d / 12 == k)
      | none => []
    let dies := if cause = 3 then joining else (List.range 12).map (· + 12 * k)
    let s := dies.foldl State.scrubDie s
    let s := if cause = 3 then s else s.setMid k { s.mid k with verified := [] }
    let s := match owner with
      | some p =>
        let s := s.setKeys p { s.keysOf p with scrubLeft := (s.keysOf p).scrubLeft.filter (· != k) }
        s.setPart p { s.part p with joining := (s.part p).joining.filter (fun d => !dies.contains d) }
      | none => s
    let s := if cause = 2 then s.setField reg 0 2 2 else (s.setField reg 0 2 0).scrubbed k
    s.setBit Reg.scrubStatus 0

/-- ONPANEL_SCRUB_DONE (R484 to R486). -/
def execOnpanelScrubDone (k : Fin 8) (s : State) : Host.Outcome State Fault Refusal := next (s.onpanelDone k.val)

/-! Partition reset. -/

/-- A pigeonhole returned to FAR by a partition reset or a new job (R434, R458, R474). -/
def State.phReset (s : State) (p h : Nat) : State :=
  let waiting := ((Tab.get (s.part p).pigeonholes h).map (·.waiting)).getD []
  let s := s.modPh p h (fun x => { x with todo := [], partsLeft := 0, warming := false, pinAfter := false, decided := false, waiting := [] })
  let s := s.setReg (Reg.phState p h) (s.reg (Reg.phState p h) &&& 0x10 ||| 0xFFF80000)
  let s := (s.phTo p h 1).phWrite p h 0x20 8 (2 ^ 64 - 1)
  waiting.foldl (fun s id => s.serve1 id 2) s

/-- Every pigeonhole of a partition back in FAR. -/
def State.phResetAll (s : State) (p : Nat) : State :=
  let s := s.setPart p { s.part p with phWanted := [] }
  ((s.part p).pigeonholes.map (·.1)).foldl (fun s h => s.phReset p h) s

/-- An array after a partition reset (R607, R612): nothing resident, its data bits as they were. -/
def Arr.afterReset (a : Arr) : Arr :=
  { Arr.reset with lsBanks := a.lsBanks, localMem := a.localMem, icache := a.icache, lastCode := a.lastCode, lastGen := a.lastGen, steps := a.steps,
                   phaseKernel := a.phaseKernel, phaseValue := a.phaseValue, phaseSteps := a.phaseSteps, phaseEnergy := a.phaseEnergy,
                   mismatches := a.mismatches }

/-- The reset of a partition (R518, R607, R611, R637); the LOCK of its slices ends with it (R283). -/
def State.partReset (s : State) (p : Nat) : State :=
  let s := (s.partArrays p).foldl (fun s ga => if (Tab.get s.arrs ga).isSome then s.setArr ga (s.arr ga).afterReset else s) s
  let s := ((s.partDies p).foldl State.invalidateDie s).dropTraffic p
  let cs := s.partCouriers p
  let s := cs.foldl (fun s c => if (Tab.get s.couriers c).isSome then s.setCourier c { Courier.reset with lastStatus := (s.courier c).lastStatus } else s) s
  let others := fun (h : Held) => match h with
    | .request _ => true
    | .courier c => !cs.contains c
    | .message m => m.part != p
  let quiet := fun (k : Nat) (x : TransitPath) =>
    if k / 16384 = p then { x with ready := [], unacked := [], resend := [], flight := [], failedOnce := none, delivered := [], alternate := false } else x
  let s : State := { s with held := s.held.filter others, transit := Tab.mapAll s.transit quiet }
  let s := s.setPort (s.partPort p) { s.port (s.partPort p) with flushes := [] }
  let s := (s.clearBit Reg.partPoison p).clearBit (Reg.rateMode p) 31
  let s := (s.partDies p).foldl (fun s d => s.atBase (s.sliceBase d) (fun s b => s.clearBit (Reg.sliceCtl b) 31)) s
  let s := s.setDbg p { s.dbgOf p with breaks := [], events := [], held := [], heldLaunches := [], steps := [], halts := [] }
  let s := (s.setField (Reg.dbgPart p) 8 8 0).phResetAll p
  let s := s.setPart p { s.part p with fatal := none }
  if s.keyState p ≠ 1 then s
  else
    let s := s.startScrub p 2
    s.setKeys p { s.keysOf p with hbmScrubDue := true }

/-- A partition enters RESTARTING (R434, R495, R609), unless the management die is lost (R524). -/
def State.beginRestart (s : State) (p : Nat) : State :=
  if s.mgdLost then s else
  let s := (((s.setField (Reg.partState p) 0 3 5).clearBit (Reg.partCtl p) 2).endGrant p).partReset p
  (s.setField (Reg.partRstState p) 0 3 1).setPart p { s.part p with restartFrom := s.tb.master, joining := [] }

/-! The restart census. -/

/-- SITE_STATE of a site in use as logical die d, filling a position or its own (R31). -/
def useWord (site d : Nat) (fills : Option Nat) : W32 :=
  BitVec.ofNat 32 (1 + (if siteCol site = 4 then 8 else 0) + d * 2 ^ 4 + d / 12 * 2 ^ 12 + fills.getD 0x7F * 2 ^ 16)

/-- Whether a site's die is recorded as retired (R26, R521): the record is kept as one of a die. -/
def State.dieRetired (s : State) (site : Nat) : Bool := s.retired.any (fun r => !r.cell && r.site == site)

/-- A die retired (R512, R521). -/
def State.retireDie (s : State) (site : Nat) : State := (s.recordDie site).setReg (Reg.siteState site) (siteWord site 4)

/-- What a die's reset clears beside what belongs to its logical die (R606): its registers, but for its courses' lane maps and slots, and
what its courses hold for sending again; its replica is loaded at the next broadcast. -/
def State.resetSite (s : State) (site : Nat) : State :=
  let b := Base.site site
  let s := (s.resetRegs b (b + 0xA0000)).resetRegs (b + 0xB0000) (b + 0x100000)
  let loading := if s.tb.loading.contains site then s.tb.loading else s.tb.loading ++ [site]
  { s.clearReplay site with tb := { s.tb with skew := Tab.erase s.tb.skew site, loading := loading } }

/-- The test of a die that a census treats (R26, R521): it passes, fails, or is retired; `ok` is the site's state when it passes. -/
def State.testSite (s : State) (site : Nat) (pass : Bool) (ok : W32) : State :=
  let fails := if pass then 0 else Tab.getD s.faults.failedTests site 0 + 1
  let s := { s with faults := { s.faults with failedTests := Tab.put s.faults.failedTests site fails } }
  let s := if pass then s else s.setBit Reg.startStatus 2
  if s.dieRetired site then s.setReg (Reg.siteState site) (siteWord site 4)
  else if 2 ≤ fails ∨ 2 ≤ Tab.getD s.faults.lostThisStart site 0 ∨ s.dieWorn site then s.retireDie site
  else s.setReg (Reg.siteState site) (if pass then ok else siteWord site 3)

/-- The positions of a sector without a die, in ascending site order. -/
def State.lostIn (s : State) (k : Nat) : List Nat := (List.range 12).filter (fun i => (s.siteOf (12 * k + i)).isNone)

/-- The free spares of a band. -/
def State.spares (s : State) (band : Nat) : List Nat := ((List.range 3).map (fun i => 27 * band + 9 * i + 4)).filter (fun t => s.siteState t == 2)

/-- The free spare nearest a position, the lower row on ties (R26). -/
def State.nearestSpare (s : State) (pos : Nat) : Option Nat :=
  (sortBy (fun t => max (siteRow t) (siteRow pos) - min (siteRow t) (siteRow pos)) (s.spares (siteBand pos))).head?

/-- A spare brought in at a position (R26, R31): it is no longer free. -/
def State.assignSpare (s : State) (t pos : Nat) : State :=
  let d := dieOfPos pos
  (s.setReg (Reg.siteState t) (useWord t d (some pos))).clearBit Reg.censusState (16 + siteRow t)

/-- A lost position filled by the nearest free spare that passes its test as it is brought into use (R26, R606): of at most n spares. -/
def State.bringSpare (s : State) (pos : Nat) (pass : BitVec 108) : Nat → State
  | 0 => s
  | n + 1 => match s.nearestSpare pos with
    | none => s
    | some t =>
      let s := ((s.resetSite t).testSite t (pass.getLsbD t) (useWord t (dieOfPos pos) (some pos))).clearBit Reg.censusState (16 + siteRow t)
      if s.siteState t = 1 then s else State.bringSpare s pos pass n

/-- The lost positions of a restarting partition's sector filled, as far as spares are free and pass; the dies that joined (R28). -/
def State.fillSector (s : State) (k : Nat) (pass : BitVec 108) : List Nat × State :=
  (s.lostIn k).foldl (fun (r : List Nat × State) i =>
    let d := 12 * k + i
    let t := r.2.bringSpare (posSite d) pass 3
    (if (t.siteOf d).isSome then r.1 ++ [d] else r.1, t)) ([], s)

/-- The sites a restart census resets and tests (R28, R521): the fenced dies of a partition's sectors, spares that were in use there among
them. -/
def State.fencedOf (s : State) (p : Nat) : List Nat :=
  (List.range 108).filter (fun t => s.siteState t == 5 &&
    (if siteCol t = 4 then ((Tab.get s.faults.fencedAs t).map (s.partDies p).contains).getD false else (s.sectors p).contains (sectorOfSite t)))

/-- A course's far end answers: an edge die that is not lost, or a die that is not fenced, failed or retired. -/
def State.endAlive (s : State) (u : Nat) : Bool := if u < 108 then s.siteState u == 1 || s.siteState u == 2 else !s.deadUnits.contains u

/-- The courses of a site whose far ends answer tuned again at both ends, failed ones too (R364, R609). -/
def State.retuneSite (s : State) (fails : List LaneFail) (site : Nat) : State :=
  let s := (List.range 4).foldl (fun s c =>
    let u := farUnit site c
    if u = 127 ∨ !s.endAlive u then s
    else
      let s := s.tuneCourse fails site c
      if u < 108 then ((s.tuneCourse fails u (facing c)).syncCourse site c).syncCourse u (facing c) else s) s
  s.setBit (Reg.courseStatus site) 4

/-- RESTART_FAILED of a sector (R29, R506). -/
def State.restartFailed (s : State) (p k : Nat) : State :=
  let lost := ((s.lostIn k).map (fun i => 2 ^ i)).foldl (· + ·) 0
  s.raise { FaultRec.plain 0x0703 (unitDest 118) (s.replica 118) (some p) with
    detail := [BitVec.ofNat 32 k, BitVec.ofNat 32 lost, BitVec.ofNat 32 (s.spares (k / 2)).length] }

/-- Every key slot of a partition zeroed (R476, R485). -/
def State.zeroKeys (s : State) (p : Nat) : State :=
  s.setKeys p { s.keysOf p with loaded := false, jobSecret := 0, storageSecret := 0, keyNonce := 0 }

end Sys2Proof.Machine
end

