-- ==== Sys2Proof/Machine/Partitions.lean ====
section
/-! DEFINITION. The states of a partition (R425 to R434): forming, dissolving, stopping, and restarting. -/

namespace Sys2Proof.Machine

/-! Transit slots (R361). -/

/-- Slots the Postmaster gives a partition on each half of a shared course. -/
def slotShare : Nat := Config.transitShare.val + 1

/-- The hop the other way. -/
def reverseHop (h : Nat × Nat) : List (Nat × Nat) := if farUnit h.1 h.2 < 108 then [(farUnit h.1 h.2, facing h.2)] else []

/-- The hops on which a layout bound to a port needs slots, in both directions (R361). -/
def State.slotHops (s : State) (l : Layout) (port : Nat) : List (Nat × Nat) :=
  let hops := s.sharedHops l port
  (hops ++ hops.flatMap reverseHop).eraseDups

/-- The slots of a hop that no partition holds. -/
def State.openSlots (s : State) (h : Nat × Nat) : List Nat := (List.range 23).filter (fun i => decide (6 ≤ s.slotOwner h.1 h.2 i))

/-- A slot of a hop given to a partition, or to none. -/
def State.setSlot (s : State) (h : Nat × Nat) (i p : Nat) : State :=
  s.setField (Reg.transitSlot h.1 (3 * h.2 + i / 8)) (4 * (i % 8)) 4 p

/-- Half-courses of a list of hops that enter a sector, edge dies' among them, each with as many slots as the way out (R361). -/
def entering (hops : List (Nat × Nat)) (k : Nat) : Nat :=
  (hops.filter (fun h =>
    let u := farUnit h.1 h.2
    let inside := fun (t : Nat) => siteCol t != 4 && sectorOfSite t == k
    if u < 108 then inside u && !inside h.1 else inside h.1)).length

/-- The slots and the transit buckets of a partition that forms (R361, R427). -/
def State.assignSlots (s : State) (p : Nat) (hops : List (Nat × Nat)) : State :=
  let s := hops.foldl (fun s h => ((s.openSlots h).take slotShare).foldl (fun s i => s.setSlot h i p) s) s
  (List.range 8).foldl (fun s k =>
    let n := slotShare * entering hops k
    let s := s.setReg (Reg.bktRate Bucket.transit (8 * p + k)) (BitVec.ofNat 32 (2 ^ 31 + 16 * n))
    if s.field (Reg.bktBurst Bucket.transit (8 * p + k)) 0 24 = 0 then s.setReg (Reg.bktBurst Bucket.transit (8 * p + k)) (BitVec.ofNat 32 n) else s) s

/-- The slots of a partition that is gone held by none, its buckets at rest. -/
def State.freePartSlots (s : State) (p : Nat) : State :=
  let s := (List.range 108).foldl (fun s t => (List.range 4).foldl (fun s c => (List.range 23).foldl (fun s i =>
    if s.slotOwner t c i = p then s.setSlot (t, c) i 0xF else s) s) s) s
  (List.range 8).foldl (fun s k => s.setReg (Reg.bktRate Bucket.transit (8 * p + k)) 0) s

/-! Formation. -/

/-- The sum of the rates of a pair link's buckets (R538). -/
def State.pairRates (s : State) (l : Nat) : Nat := ((List.range 6).map (fun p => s.field (Reg.bktRate Bucket.pair (6 * l + p)) 0 24)).foldl (· + ·) 0

/-- The fret an intact panel of ordering code C forms a partition at (R577): the highest that its dies hold and its budget covers; where FIXED and
FRET are locked, that one if it qualifies (R671). -/
def State.formFret (s : State) (p : Nat) : Option Nat :=
  let ok := fun (f : Nat) => s.holdsFret (s.partDies p) f && decide (s.fretWatts p f ≤ s.budget p)
  if s.bit (Reg.rateMode p) 31 then (if s.fixedRate p && ok (s.fret p) then some (s.fret p) else none)
  else ((List.range 8).filter ok).getLast?

/-- The code of the first formation check that fails, 0 for none (R426). -/
def State.formError (s : State) (p : Nat) : Nat :=
  let k0 := s.partK0 p
  let n := s.partN p
  let port := s.partPort p
  let ks := (List.range n).map (· + k0)
  let l : Layout := { k0 := k0, n := n }
  let formed := s.setField (Reg.partState p) 8 8 (2 ^ n * 2 ^ k0 - 2 ^ k0)
  if n = 0 ∨ 8 < n ∨ 8 < k0 + n then 1
  else if ks.any (fun k => (s.partOfSector k).isSome) then 2
  else if ks.any (fun k => s.bit Reg.censusState (8 + k) || !(s.lostIn k).isEmpty) then 3
  else if ks.any (fun k => (List.range 4).any (fun i => s.field (Reg.stackState k i) 0 2 != 1)) then 4
  else if 6 ≤ port ∨ (s.port port).bound.isSome then 5
  else if 6 ≤ ((List.range 6).filter (fun q => s.partState q != 0)).length then 6
  else if (s.slotHops l port).any (fun h => decide ((s.openSlots h).length < slotShare)) ∨ 1600 < s.pairRates 0 ∨ 1600 < s.pairRates 1 then 7
  else if (List.range 4).any l.fullBand ∧ (s.crossing l 0).isNone then 8
  else if !s.trust.orderD ∧ (formed.formFret p).isNone then 9
  else 0

/-- The rate a partition forms at (R577): what is locked stays so (R671); where R49 refuses the fret asked for,
FIXED alone changes. -/
def State.formRate (s : State) (p : Nat) : State :=
  if !s.trust.orderD then match s.formFret p with
    | some f => s.setRate p (BitVec.ofNat 32 (1 + 2 * f) ||| (s.reg (Reg.rateMode p) &&& 0x80000000))
    | none => s
  else if s.fixedRate p ∧ !s.holdsFret (s.partDies p) (s.fret p) then (s.clearBit (Reg.rateMode p) 0).setBit Reg.rateStatus 17
  else s

/-- What a die's slice shows of its partition, and its supply (R283, R562). -/
def State.claimDie (s : State) (p d : Nat) : State :=
  (s.atBase (s.sliceBase d) (fun s b =>
    let v := (s.reg (Reg.sliceState b) &&& 0x3) ||| BitVec.ofNat 32 (p * 2 ^ 4 + (d - 12 * s.partK0 p) * 2 ^ 8)
    s.setReg (Reg.sliceState b) v)).supplySet d

/-- SLICE_CTL of every slice of a partition written and locked (R427, R608). -/
def State.lockSlices (s : State) (p : Nat) : State :=
  (s.partDies p).foldl (fun s d => s.atBase (s.sliceBase d) (fun s b => s.setReg (Reg.sliceCtl b) (s.part p).sliceCtl)) s

/-- The port of a partition bound (R377, R380, R429). -/
def State.bindPort (s : State) (p : Nat) : State :=
  let port := s.partPort p
  let s := s.setField (Reg.portState port) 1 1 1
  let s := (s.setField (Reg.portState port) 4 3 p).portRegsReset port (s.partN p)
  s.setPort port { s.port port with bound := some p, lost := false }

/-- A partition that passed every check enters FORMING (R427, R471, R577, R617). -/
def State.form (s : State) (p : Nat) : State :=
  let k0 := s.partK0 p
  let n := s.partN p
  let port := s.partPort p
  let hops := s.slotHops { k0 := k0, n := n } port
  let s := s.setReg (Reg.partState p) (BitVec.ofNat 32 (1 + (2 ^ n * 2 ^ k0 - 2 ^ k0) * 2 ^ 8))
  let up := fun (k : Nat) => s.bit (Reg.farState k) 0
  let caps := (List.range n).map (fun j => if up (k0 + j) then s.field (Reg.farState (k0 + j)) 16 13 else 0)
  let ctl := match s.sliceBase (12 * k0) with
    | some b => s.reg (Reg.sliceCtl b) ||| 0x80000000
    | none => 0x8000000E
  let s := s.setPart p { Part.reset with farCaps := caps, sliceCtl := ctl }
  let s := (List.range n).foldl (fun s j => s.setMid (k0 + j) { s.mid (k0 + j) with farAttached := up (k0 + j), farReleased := false, farReleasing := none }) s
  let s := ((s.setKeys p PartKeys.reset).setReg (Reg.keyState p) 0).freshNonce p
  let s := { s with pairs := Tab.erase s.pairs p, dbg := Tab.erase s.dbg p }
  let s := (s.startScrub p 1).assignSlots p hops
  let s := [0, 1].foldl (fun s l =>
    s.setField (Reg.bktRate Bucket.pair (6 * l + p)) 30 2 2) s
  let s := (s.partDies p).foldl (fun s d => s.claimDie p d) s
  ((s.lockSlices p).bindPort p).formRate p

/-- The layout asked for at number p taken to number q, which a new partition gets: the lowest free one (R425). -/
def State.renumber (s : State) (p q : Nat) : State :=
  if q = p then s
  else ((s.setReg (Reg.partLayout q) (s.reg (Reg.partLayout p))).setReg (Reg.partLayout p) (regReset (Reg.partLayout p))).clearBit (Reg.partCtl p) 0

/-- A FORM request (R425 to R427, R430): a refusal shows where it was asked for, and the layout stays. -/
def State.partForm (s : State) (p : Nat) : State :=
  if s.partState p ≠ 0 ∨ s.mgdLost then s
  else
    let q := ((List.range 6).find? (fun q => s.partState q == 0)).getD p
    let t := s.renumber p q
    let e := t.formError q
    if e ≠ 0 then ((s.setField (Reg.partState p) 16 8 e).setBit (Reg.partStatus p) 1).clearBit (Reg.partCtl p) 0
    else (t.form q).setBit (Reg.partCtl q) 0

/-- PART_FORM. -/
def execPartForm (p : Fin 6) (s : State) : Host.Outcome State Fault Refusal := next (s.partForm p.val)

/-- Whether every slice of a partition accepts requests. -/
def State.slicesReady (s : State) (p : Nat) : Bool := (s.partDies p).all s.sliceReady

/-- FORM_DONE (R427, R430). -/
def execFormDone (p : Fin 6) (s : State) : Host.Outcome State Fault Refusal :=
  let p := p.val
  next (if s.partState p = 1 ∧ (s.keysOf p).scrubLeft = [] ∧ s.slicesReady p then
      ((s.setField (Reg.partState p) 0 3 2).setBit (Reg.partStatus p) 0).clearBit (Reg.partCtl p) 0
    else s)

/-! Dissolution. -/

/-- What a dissolution does to a taken entry (R431): as a CANCEL would, and every entry that a CANCEL leaves alone ends too. -/
def State.dissolveWork (s : State) (k : Work) : State :=
  let (acted, t) := s.cancelWork k .dissolve 0x300
  if acted then t else s.cancelled k.id 0x300

/-- A partition of a pair leaves it as it dissolves. -/
def State.dissolvePair (s : State) (p : Nat) : State :=
  match s.pairState p with
  | 1 => s.joinFails p 2
  | 2 => (s.sendWithdraw p 3).goAlone p
  | 3 => s.detach p 3
  | _ => s

/-- Dissolution begun (R431, R476, R495, R570). -/
def State.dissolve (s : State) (p : Nat) : State :=
  let s := (s.setField (Reg.partState p) 0 3 7).endGrant p
  let s := s.setPart p { s.part p with dissolveAfter := false, phase := [] }
  let s := s.setField (Reg.keyState p) 0 4 0
  let s := (s.works.filter (fun k => k.part == p && k.phase != .finished)).foldl State.dissolveWork s
  (s.dissolvePair p).zeroKeys p

/-- A DISSOLVE request (R431, R610). -/
def State.partDissolve (s : State) (p : Nat) : State :=
  if s.partState p = 0 ∨ s.partState p = 7 then s
  else
    let s := s.setBit (Reg.partCtl p) 1
    if s.partState p = 5 then s.setPart p { s.part p with dissolveAfter := true } else s.dissolve p

/-- PART_DISSOLVE. -/
def execPartDissolve (p : Fin 6) (s : State) : Host.Outcome State Fault Refusal := next (s.partDissolve p.val)

/-- Whether every entry of a partition has its receipt, written and its tail word with it; a partition that writes nothing to its host any
more waits for none. -/
def State.partReceipted (s : State) (p : Nat) : Bool :=
  let mine := (s.works.filter (fun k => k.part == p))
  mine.all (fun k => s.receipted k && !(s.mailbag k.port k.mailbag).tailDue)

/-- The port of a partition unbound (R377, R429). -/
def State.unbindPort (s : State) (p : Nat) : State :=
  let port := s.partPort p
  let s := (s.setField (Reg.portState port) 1 1 0).setField (Reg.portState port) 4 3 7
  let s := s.portRegsReset port 0
  let s := s.setPort port { s.port port with bound := none, lost := false, flushes := [], ide := [] }
  { s with works := s.works.filter (fun k => k.part != p) }

/-- A dissolution taken further (R431, R485): once every receipt is written the port is unbound and the scrub begins; once that is complete the
partition is FREE. -/
def State.dissolved (s : State) (p : Nat) : State :=
  let port := s.partPort p
  if s.partState p ≠ 7 then s
  else if port < 6 ∧ (s.port port).bound = some p then
    (if s.partReceipted p then (s.unbindPort p).startScrub p 4 else s)
  else if (s.keysOf p).scrubLeft ≠ [] then s
  else
    let dies := s.partDies p
    let status := s.reg (Reg.partStatus p)
    let s := (s.freePartSlots p).resetRegs (Reg.partLayout p) (Reg.partLayout p + 0x1000)
    let s := (s.setReg (Reg.partStatus p) status).setBit (Reg.partStatus p) 9
    let s := dies.foldl (fun s d => (s.atBase (s.sliceBase d) (fun s b =>
      (s.setReg (Reg.sliceState b) (s.reg (Reg.sliceState b) &&& 0x3 ||| 0x7F70)).setReg (Reg.sliceCtl b) 0xE)).supplySet d) s
    let s := (s.clearBit Reg.partPoison p).setReg (Reg.rateMode p) 0
    let s := (s.setReg (Reg.keyState p) 0).setReg (Reg.dbgPart p) 0
    { s with parts := Tab.erase s.parts p, keys := Tab.erase s.keys p, dbg := Tab.erase s.dbg p,
             pairs := Tab.erase s.pairs p, transit := Tab.keep s.transit (fun k => k / 16384 != p) }.setPairState p 0

/-- DISSOLVED. -/
def execDissolved (p : Fin 6) (s : State) : Host.Outcome State Fault Refusal := next (s.dissolved p.val)

/-! Stopping. -/

/-- What the first fatal fault of a partition leads to (R430, R517, R519, R552): the partition is poisoned and stops, a leader fails over, a
follower withdraws; in a partition that does not run it is stopped or poisoned already, or is once it runs. -/
def State.partStopping (s : State) (p : Nat) : State :=
  match (s.part p).fatal with
  | none => s
  | some f =>
    let clear := fun (s : State) => s.setPart p { s.part p with fatal := none }
    if s.partState p = 1 then s.poison p
    else if s.partState p = 7 then (clear s).poison p
    else if s.partState p ≠ 2 then clear s
    else
      let s := (clear s).poison p
      if s.pairState p = 2 then s.failOver p f.1 f.2
      else if s.pairState p = 3 then (s.detach p 0).stopPartition p f.1 f.2
      else
        let s := if s.pairState p = 1 then s.joinFails p 2 else s
        s.stopPartition p f.1 f.2

/-- PART_STOPPING. -/
def execPartStopping (p : Fin 6) (s : State) : Host.Outcome State Fault Refusal := next (s.partStopping p.val)

/-- STOPPED (R430, R605): once the receipts of every launch and chain are written; it restarts where AUTO_RESTART is set. -/
def State.partStopped (s : State) (p : Nat) : State :=
  let mine := s.works.filter (fun k => k.part == p && (k.type == 1 || k.type == 2))
  if s.partState p = 3 ∧ mine.all s.receipted then
    let s := ((s.setField (Reg.partState p) 0 3 4).setBit (Reg.partStatus p) 2).sliceRstStopped p (s.partPort p)
    if s.autoRestart p then s.beginRestart p else s
  else s

/-- PART_STOPPED. -/
def execPartStopped (p : Fin 6) (s : State) : Host.Outcome State Fault Refusal := next (s.partStopped p.val)

/-- A RESTART request (R430, R434). -/
def State.restartRequest (s : State) (p : Nat) : State := if s.partState p = 4 then s.beginRestart p else s.clearBit (Reg.partCtl p) 2

/-- PART_RESTART_REQUEST. -/
def execPartRestartRequest (p : Fin 6) (s : State) : Host.Outcome State Fault Refusal := next (s.restartRequest p.val)

/-! Restarting. -/

/-- What a die's reset clears of its logical die (R606): with the structures that a scrub clears, its arrays whole. -/
def State.resetDie (s : State) (d : Nat) : State :=
  let s := s.scrubDie d
  { s with arrs := Tab.keep s.arrs (fun ga => ga / 8 != d) }

/-- The fenced dies of a restart census reset and tested (R28, R521, R606); a die that passes, a spare as well, returns to its position. -/
def State.testFenced (s : State) (p : Nat) (pass : BitVec 108) : State :=
  (s.fencedOf p).foldl (fun s t =>
    let d := if siteCol t = 4 then Tab.getD s.faults.fencedAs t 0 else dieOfPos t
    let ok := useWord t d (if siteCol t = 4 then some (posSite d) else none)
    let s := { s with faults := { s.faults with fencedAs := Tab.erase s.faults.fencedAs t } }
    ((s.resetDie d).resetSite t).testSite t (pass.getLsbD t) ok) s

/-- The dies of a partition that are recorded as retired, or must be, taken out of their positions (R26, R521). -/
def State.dropWorn (s : State) (p : Nat) : State :=
  ((s.partDies p).filterMap s.siteOf).foldl (fun s t => if s.dieRetired t || s.dieWorn t then s.retireDie t else s) s

/-- The lost memory-interface dies of a partition's sectors that answer again (R522). -/
def State.testMids (s : State) (p : Nat) (answer : BitVec 8) : State :=
  let back := (s.sectors p).filter (fun k => answer.getLsbD k)
  { s with deadUnits := s.deadUnits.filter (fun u => !back.any (fun k => 108 + k == u)) }

/-- The restart census of a partition (R28 to R30, R364, R521, R522, R606, R609, R610). The slice of a die that was reset is invalidated (R279). -/
def State.restartCensus (s : State) (p : Nat) (pass : BitVec 108) (answer : BitVec 8) (fails : List LaneFail) : State :=
  if s.partState p ≠ 5 ∨ s.field (Reg.partRstState p) 0 3 ≠ 1 ∨ !(s.partDies p).all (fun d => (s.siteOf d).isNone || s.sliceReady d) then s
  else
    let before := (List.range 108).map (fun t => s.reg (Reg.siteState t))
    let fenced := s.fencedOf p
    let s := ((s.testFenced p pass).dropWorn p).testMids p answer
    let r := (s.sectors p).foldl (fun (r : List Nat × State) k =>
      let t := r.2.fillSector k pass
      (r.1 ++ t.1, t.2)) ([], s)
    let joined := r.1
    let s := r.2
    let s := if before = (List.range 108).map (fun t => s.reg (Reg.siteState t)) then s else s.setBit Reg.censusState 31
    let short := (s.sectors p).filter (fun k => !(s.lostIn k).isEmpty)
    let noMid := (s.sectors p).filter (fun k => s.deadUnits.contains (108 + k))
    let s := short.foldl (fun s k => s.setBit Reg.censusState (8 + k)) s
    let s := if short = [] ∧ noMid = [] then
        let s := ((s.partDies p).filterMap s.siteOf).foldl (fun s t => s.retuneSite fails t) s
        let back := (s.partDies p).filter (fun d => (s.siteOf d).any (fun t => fenced.contains t) && !joined.contains d)
        let s := back.foldl (fun s d => (s.invalidateDie d).claimDie p d) s
        let s := joined.foldl (fun s d => ((s.resetDie d).invalidateDie d).claimDie p d) s
        let s := s.setPart p { s.part p with joining := joined }
        let ks := (joined.map (· / 12)).eraseDups
        let s := ks.foldl (fun s k => (s.setField (Reg.scrubSector k) 0 2 1).setField (Reg.scrubSector k) 4 3 3) s
        s.setField (Reg.partRstState p) 0 3 (if joined = [] then 5 else 4)
      else
        let s := (s.setField (Reg.partState p) 0 3 6).setBit (Reg.partStatus p) 4
        let s := s.setField (Reg.partRstState p) 0 3 0
        (short ++ noMid.filter (fun k => !short.contains k)).foldl (fun s k => s.restartFailed p k) s
    if (s.part p).dissolveAfter then s.dissolve p else s

/-- RESTART_CENSUS. -/
def execRestartCensus (p : Fin 6) (pass : BitVec 108) (midsAnswer : BitVec 8) (fails : List LaneFail) (s : State) : Host.Outcome State Fault Refusal :=
  next (s.restartCensus p.val pass midsAnswer fails)

/-- A restart complete (R430, R555, R608, R609, R611): the key slots loaded again, SLICE_CTL written and locked. A position lost meanwhile takes
the restart back to its census. -/
def State.restartDone (s : State) (p : Nat) : State :=
  if s.partState p ≠ 5 ∨ s.field (Reg.partRstState p) 0 3 < 4 ∨ (s.part p).joining ≠ [] ∨ s.keyState p = 1 then s
  else if (s.partDies p).any (fun d => (s.siteOf d).isNone) then s.setField (Reg.partRstState p) 0 3 1
  else if !s.slicesReady p then s
  else
    let took := (s.tb.master - (s.part p).restartFrom).toNat / 1000
    let s := (s.lockSlices p).setKeys p { s.keysOf p with loaded := s.keyState p == 2 }
    let s := s.setReg (Reg.partRstState p) (BitVec.ofNat 32 (min took 0xFFFF * 2 ^ 16))
    let s := (s.setField (Reg.partState p) 0 3 2).setField (Reg.partState p) 24 8 (min (s.field (Reg.partState p) 24 8 + 1) 0xFF)
    let s := (s.setBit (Reg.partStatus p) 3).setPart p { s.part p with fatal := none }
    let s := if s.pairState p = 6 then s.setPairState p 5 else s
    (s.sliceRstRestarted p (s.partPort p)).afterFinal p

/-- RESTART_DONE. -/
def execRestartDone (p : Fin 6) (s : State) : Host.Outcome State Fault Refusal := next (s.restartDone p.val)

end Sys2Proof.Machine
end

