-- ==== Sys2Proof/Machine/Manage.lean ====
section
/-! DEFINITION. The management operations of a partition (R459) and the pigeonholes they set up, load, pin and evict (R448 to R458). -/

namespace Sys2Proof.Machine

/-- A management operation run when it is the next one of a port's queue (R396). -/
def State.onMgmt (s : State) (port op : Nat) (f : State → Work → State) : State :=
  match s.mgmtNext port op with
  | some k => f s k
  | none => s

/-- PART_CONFIG (R459, R461): a value of LC_ARRAYS beyond the register acts as every larger one does. -/
def State.partConfig (s : State) (k : Work) : State :=
  match s.paramBlock k with
  | (none, s) => s.serve1 k.id 1
  | (some b, s) =>
    let s := s.setReg (Reg.partClass k.part) (BitVec.ofNat 32 (min (bitsOf b 0 16) 0x3FF))
    let s := s.setReg (Reg.partOptions k.part) (BitVec.ofNat 32 (bitsOf b 16 3 + bitsOf b 24 8 * 2 ^ 8))
    (s.serve1 k.id 0).dispatch k.part

/-- PART_CONFIG, OP 0x0100. -/
def execPartConfig (port : Fin 6) (s : State) : Host.Outcome State Fault Refusal := next (s.onMgmt port.val 0x0100 State.partConfig)

/-- PART_RESTART, OP 0x0101 (R430, R459). -/
def execPartRestart (port : Fin 6) (s : State) : Host.Outcome State Fault Refusal :=
  next (s.onMgmt port.val 0x0101 (fun s k =>
    if s.partState k.part = 4 then (s.serve1 k.id 0).beginRestart k.part else s.serve1 k.id 2))

/-- PH_SETUP (R448): the area in whole GiB below the spill area, and the table of 4 KiB outside it. -/
def State.phSetup (s : State) (k : Work) : State :=
  let p := k.part
  match s.paramBlock k with
  | (none, s) => s.serve1 k.id 1
  | (some b, s) =>
    let base := bitsOf b 0 16
    let size := bitsOf b 16 16
    let table := bitsOf b 64 64
    let usable := 189 * s.partN p
    if usable < base + size ∨ table % 4096 ≠ 0 ∨ usable * gib < table + 4096 ∨
        (gib * base < table + 4096 ∧ table < gib * (base + size)) then s.serve1 k.id 1
    else if !(s.part p).pigeonholes.isEmpty then s.serve1 k.id 2
    else
      let s := s.setReg (Reg.phArea p) (BitVec.ofNat 32 (base + size * 2 ^ 16))
      ((s.setReg (Reg.phTableLo p) (BitVec.ofNat 32 table)).setReg (Reg.phTableHi p) (BitVec.ofNat 32 (table / 2 ^ 32))).serve1 k.id 0

/-- PH_SETUP, OP 0x0102. -/
def execPhSetup (port : Fin 6) (s : State) : Host.Outcome State Fault Refusal := next (s.onMgmt port.val 0x0102 State.phSetup)

/-- An operation on one pigeonhole (R459): the first byte of its parameter block names it, and the partition runs. -/
def State.onHole (s : State) (k : Work) (f : State → Nat → State) : State :=
  match s.paramBlock k with
  | (none, s) => s.serve1 k.id 1
  | (some b, s) => if 64 ≤ b % 256 then s.serve1 k.id 1 else if s.partState k.part ≠ 2 then s.serve1 k.id 2 else f s (b % 256)

/-- Whether a descriptor's host fields are valid (R449, R450): `d` is the descriptor's 64 bytes. -/
def State.descriptorOk (s : State) (p d : Nat) : Bool :=
  let n := s.partN p
  let size := bitsOf d (8 * 0x08) 64
  let off := bitsOf d (8 * 0x10) 64
  let warm := bitsOf d (8 * 0x18) 32
  bitsOf d (8 * 0x1C + 1) 31 == 0 && bitsOf d (8 * 0x35) 88 == 0 && size != 0 && size % (4096 * n) == 0 && off % 4096 == 0 && warm % 128 == 0 &&
    decide (warm ≤ 3 * 2 ^ 20 * n) && decide (size ≤ gib * s.field (Reg.phArea p) 16 16) &&
    (List.range n).all (fun j => decide (off + size / n ≤ gib * s.farCap p j))

/-- PH_DEFINE of pigeonhole h (R450, R457, R458). -/
def State.phDefine (s : State) (k : Work) (h : Nat) : State :=
  let p := k.part
  if s.phIs p h ≠ 0 ∧ s.phIs p h ≠ 5 then s.serve1 k.id 2
  else
    let d := s.readWord p (s.phTable p + 64 * h) 64
    if !s.descriptorOk p d then s.serve1 k.id 1
    else
      let gen := ((Tab.get (s.part p).pigeonholes h).map (·.loadGen)).getD 0
      let x : Pigeonhole := { size := BitVec.ofNat 64 (bitsOf d (8 * 0x08) 64), farOffset := BitVec.ofNat 64 (bitsOf d (8 * 0x10) 64),
                              warm := BitVec.ofNat 32 (bitsOf d (8 * 0x18) 32), lastUse := 0, loadGen := gen, todo := [], partsLeft := 0,
                              warming := false, pinAfter := false, decided := false, waiting := [] }
      let s := s.setPart p { s.part p with pigeonholes := Tab.put (s.part p).pigeonholes h x }
      let s := s.setReg (Reg.phState p h) (BitVec.ofNat 32 (bitsOf d (8 * 0x1C) 1 * 2 ^ 4 + 0x1FFF * 2 ^ 19))
      (((s.phTo p h 1).phWrite p h 0x20 8 (2 ^ 64 - 1)).serve1 k.id 0).dispatch p

/-- PH_DEFINE, OP 0x0103. -/
def execPhDefine (port : Fin 6) (s : State) : Host.Outcome State Fault Refusal :=
  next (s.onMgmt port.val 0x0103 (fun s k => s.onHole k (fun s h => s.phDefine k h)))

/-- PH_FORGET of pigeonhole h (R458, R459). -/
def State.phForget (s : State) (k : Work) (h : Nat) : State :=
  let p := k.part
  if s.phIs p h ≠ 1 ∧ s.phIs p h ≠ 5 then s.serve1 k.id 2
  else
    let waiting := ((Tab.get (s.part p).pigeonholes h).map (·.waiting)).getD []
    let s := (s.phTo p h 0).setReg (Reg.phState p h) 0xFFF80000
    let y := s.part p
    let s := s.setPart p { y with pigeonholes := Tab.erase y.pigeonholes h, phWanted := y.phWanted.filter (· != h) }
    let s := (s.works.filter (fun j => j.part == p && j.type == 1 && j.phase == .queued && j.pigeonhole == h)).foldl (fun s j => s.refuse j.id 0x50) s
    (waiting.foldl (fun s id => s.serve1 id 2) s).serve1 k.id 0

/-- PH_FORGET, OP 0x0104. -/
def execPhForget (port : Fin 6) (s : State) : Host.Outcome State Fault Refusal :=
  next (s.onMgmt port.val 0x0104 (fun s k => s.onHole k (fun s h => s.phForget k h)))

/-- PH_LOAD or PH_PIN of pigeonhole h (R456, R458, R459): the receipt follows when the image is resident. -/
def State.phFetch (s : State) (k : Work) (h : Nat) (pin : Bool) : State :=
  let p := k.part
  let st := s.phIs p h
  if st = 3 then (if pin then s.setBit (Reg.phState p h) 3 else s).serve1 k.id 0
  else if st = 1 ∨ st = 2 then
    let s := s.modPh p h (fun x => { x with waiting := x.waiting ++ [k.id], pinAfter := x.pinAfter || pin })
    ((s.mgmtBegun k.id).phWant p h).phServe p
  else s.serve1 k.id 2

/-- PH_LOAD, OP 0x0105. -/
def execPhLoad (port : Fin 6) (s : State) : Host.Outcome State Fault Refusal :=
  next (s.onMgmt port.val 0x0105 (fun s k => s.onHole k (fun s h => s.phFetch k h false)))

/-- PH_PIN, OP 0x0106. -/
def execPhPin (port : Fin 6) (s : State) : Host.Outcome State Fault Refusal :=
  next (s.onMgmt port.val 0x0106 (fun s k => s.onHole k (fun s h => s.phFetch k h true)))

/-- PH_UNPIN of pigeonhole h (R456, R459): loads that wait for room are tried again. -/
def State.phUnpin (s : State) (k : Work) (h : Nat) : State :=
  let p := k.part
  if s.phIs p h = 0 then s.serve1 k.id 2
  else
    let s := (s.clearBit (Reg.phState p h) 3).modPh p h (fun x => { x with pinAfter := false })
    (s.serve1 k.id 0).phServe p

/-- PH_UNPIN, OP 0x0107. -/
def execPhUnpin (port : Fin 6) (s : State) : Host.Outcome State Fault Refusal :=
  next (s.onMgmt port.val 0x0107 (fun s k => s.onHole k (fun s h => s.phUnpin k h)))

/-- PH_EVICT of pigeonhole h (R455, R456); a follower evicts when its leader says so (R545). -/
def State.phEvictOp (s : State) (k : Work) (h : Nat) : State :=
  let p := k.part
  if s.phIs p h ≠ 3 then s.serve1 k.id 2
  else if s.phPinned p h ∨ s.phInUse p h ≠ 0 then s.serve1 k.id 3
  else if s.follows p then s.serve1 k.id 0
  else ((s.phEvict p h).serve1 k.id 0).dispatch p

/-- PH_EVICT, OP 0x0108. -/
def execPhEvict (port : Fin 6) (s : State) : Host.Outcome State Fault Refusal :=
  next (s.onMgmt port.val 0x0108 (fun s k => s.onHole k (fun s h => s.phEvictOp k h)))

/-! Loads and copies back that complete. -/

/-- Whether every part of a load, its warm delivery included, has ended. -/
def Pigeonhole.loaded (x : Pigeonhole) : Bool := x.partsLeft == 0 && x.todo.isEmpty && (x.warm == 0 || x.warming)

/-- A pigeonhole RESIDENT (R449, R452, R458, R545): its descriptor written, the entries that wait answered, the launches that want it
offered arrays. -/
def State.phResident (s : State) (p h : Nat) (gen : W32) : State :=
  match Tab.get (s.part p).pigeonholes h with
  | none => s
  | some x =>
    let s := s.modPh p h (fun x => { x with loadGen := gen, pinAfter := false, decided := false, waiting := [] })
    let s := ((s.phWrite p h 0x20 8 (s.phBase p h)).phWrite p h 0x30 4 gen.toNat).phTo p h 3
    let s := if x.pinAfter then s.setBit (Reg.phState p h) 3 else s
    let s := (s.partCount p 5).phTell p h
    (x.waiting.foldl (fun s id => s.serve1 id 0) s).dispatch p

/-- PH_LOAD_DONE (R452, R458): a follower waits for its leader's decision (R545). -/
def State.phLoadDone (s : State) (p h : Nat) : State :=
  match Tab.get (s.part p).pigeonholes h with
  | none => s
  | some x =>
    if s.phIs p h ≠ 2 ∨ !x.loaded then s
    else if s.follows p then (if x.decided then s.phResident p h x.loadGen else s)
    else s.phResident p h (x.loadGen + 1)

/-- PH_LOAD_DONE. -/
def execPhLoadDone (p : Fin 6) (h : Fin 64) (s : State) : Host.Outcome State Fault Refusal := next (s.phLoadDone p.val h.val)

/-- PH_WRITEBACK_DONE (R455, R458): a follower waits for its leader's decision (R545). -/
def State.phWritebackDone (s : State) (p h : Nat) : State :=
  match Tab.get (s.part p).pigeonholes h with
  | none => s
  | some x =>
    if s.phIs p h ≠ 4 ∨ x.partsLeft ≠ 0 ∨ !x.todo.isEmpty ∨ (s.follows p ∧ !x.decided) then s
    else ((s.modPh p h (fun x => { x with decided := false })).phFree p h).dispatch p

/-- PH_WRITEBACK_DONE. -/
def execPhWritebackDone (p : Fin 6) (h : Fin 64) (s : State) : Host.Outcome State Fault Refusal := next (s.phWritebackDone p.val h.val)

end Sys2Proof.Machine
end

