-- ==== Sys2Proof/Machine/Security.lean ====
section
/-! DEFINITION. Trust: the SPDM responders and postmarks (R468 to R470), envelopes (R472 to R476), debug grants (R493 to R495), the HBM and far
scrubs (R487, R488), IDE keys (R482), and restarts of the Postmaster (R466, R467, R528, R529). -/

namespace Sys2Proof.Machine

/-! SPDM. -/

/-- A responder before GET_VERSION, and a session that is not open. -/
def Spdm.reset : Spdm := { versionDone := false, capsDone := false, algsDone := false, sessions := [] }
def Session.reset : Session := { openNow := false, finished := false, requester := 0, keyGen := 0 }

/-- The responder of a port (R468). -/
def State.spdmOf (s : State) (port : Nat) : Spdm := Tab.getD s.spdm port Spdm.reset
def State.setSpdm (s : State) (port : Nat) (x : Spdm) : State := { s with spdm := Tab.put s.spdm port x }

/-- A session of a port. -/
def State.session (s : State) (port sess : Nat) : Session := Tab.getD (s.spdmOf port).sessions sess Session.reset
def State.setSession (s : State) (port sess : Nat) (x : Session) : State :=
  let y := s.spdmOf port
  s.setSpdm port { y with sessions := Tab.put y.sessions sess x }

/-- An SPDM ERROR response, by its code in SPDM 1.3: 0x01 invalid request, 0x02 invalid session, 0x04 unexpected request, 0x06 decrypt error,
0x0A session limit exceeded. It is kept apart from the statuses of R473. -/
def State.spdmError (s : State) (code : Nat) : State := s.answer (0x100 + code) []

/-- Whether a port's DOE mailbox can be reached: the port is live and out of its fundamental reset (R375, R468). -/
def State.doeUp (s : State) (port : Nat) : Bool := (s.port port).live && !(s.port port).perst && !s.mgdLost

/-- A request answered once the connection has come so far, where the mailbox can be reached. -/
def State.onSpdm (s : State) (port : Nat) (ready : Spdm → Bool) (f : State → State) : State :=
  if !s.doeUp port then s else if ready (s.spdmOf port) then f s else s.spdmError 0x04

/-- GET_VERSION (R468): version 1.3, the connection starting afresh. -/
def execGetVersion (port : Fin 6) (s : State) : Host.Outcome State Fault Refusal :=
  next (s.onSpdm port.val (fun _ => true) (fun s =>
    (s.setSpdm port.val { s.spdmOf port.val with versionDone := true, capsDone := false, algsDone := false }).answer 0 [0x13]))

/-- The capabilities of R468 in the order of its table: CERT, CHAL, MEAS with signature, MEAS_FRESH, ENCRYPT, MAC, MUT_AUTH, KEY_EX, HBEAT,
KEY_UPD and ENCAP set, and PSK, HANDSHAKE_IN_THE_CLEAR, CSR, SET_CERT, CHUNK, EP_INFO and MEL clear. -/
def spdmCaps : List Nat := [1, 1, 1, 1, 1, 1, 1, 1, 1, 1, 1, 0, 0, 0, 0, 0, 0, 0]

/-- GET_CAPABILITIES (R468). -/
def execGetCapabilities (port : Fin 6) (s : State) : Host.Outcome State Fault Refusal :=
  next (s.onSpdm port.val (·.versionDone) (fun s => (s.setSpdm port.val { s.spdmOf port.val with capsDone := true }).answer 0 spdmCaps))

/-- NEGOTIATE_ALGORITHMS (R468): one choice of each kind. -/
def execNegotiateAlgorithms (port : Fin 6) (s : State) : Host.Outcome State Fault Refusal :=
  next (s.onSpdm port.val (·.capsDone) (fun s => (s.setSpdm port.val { s.spdmOf port.val with algsDone := true }).answer 0 []))

/-- GET_DIGESTS (R468): slot 0 only. -/
def execGetDigests (port : Fin 6) (s : State) : Host.Outcome State Fault Refusal :=
  next (s.onSpdm port.val (·.algsDone) (fun s =>
    let (b, s) := s.opaqueBytes 48
    s.answer 0 (1 :: b)))

/-- GET_CERTIFICATE (R468): the chain of slot 0, which ends in the certificate of the Alias key. -/
def execGetCertificate (port : Fin 6) (slot : Fin 8) (offset : BitVec 16) (length : BitVec 16) (s : State) : Host.Outcome State Fault Refusal :=
  next (s.onSpdm port.val (·.algsDone) (fun s =>
    if slot.val ≠ 0 then s.spdmError 0x01
    else
      let chain := (List.range length.toNat).map (fun i => (Config.secretByte s.trust.aliasKey (offset.toNat + i)).toNat)
      s.answer 0 (byteList offset.toNat 2 ++ chain)))

/-- CHALLENGE (R468): signed with the Alias key. -/
def execChallenge (port : Fin 6) (slot : Fin 8) (nonce : BitVec 256) (s : State) : Host.Outcome State Fault Refusal :=
  next (s.onSpdm port.val (·.algsDone) (fun s =>
    if slot.val ≠ 0 then s.spdmError 0x01
    else
      let (b, s) := s.opaqueBytes 96
      s.answer 0 (byteList nonce.toNat 32 ++ b)))

/-! Postmarks. -/

/-- The panel record (R470). -/
def State.panelRecord (s : State) : List Nat :=
  let used := ((List.range 12).filter (fun r => s.siteState (9 * r + 4) == 1)).map (fun r => 2 ^ r)
  byteList (if s.trust.orderD then 1 else 0) 1 ++ byteList (if s.trust.debugBlown then 1 else 0) 1 ++
    byteList (s.field Reg.panelBuild 16 16) 2 ++ byteList (s.reg Reg.fwEpoch).toNat 4 ++ byteList (s.field Reg.censusState 8 8) 1 ++
    byteList s.trust.secMin 1 ++ byteList (used.foldl (· + ·) 0) 2 ++ byteList 0 4 ++ byteList s.trust.identity.toNat 48 ++
    byteList s.tb.master.toNat 8

/-- The layout record (R469). -/
def State.layoutRecord (s : State) : List Nat :=
  (List.range 6).flatMap (fun p => [s.partState p, s.partSectors p, s.partPort p, if s.keyState p = 2 then 1 else 0])

/-- Streams of a port: stream 0 is the link stream, 1 and 2 the selective streams, 3 that of CXL.cache (R482). -/
def State.ideActive (s : State) (port i : Nat) : Bool := match Tab.get (s.port port).ide i with
  | some x => x.active
  | none => false

/-- The partition record (R470). -/
def State.partRecord (s : State) (p : Nat) : List Nat :=
  let k := s.keysOf p
  let port := s.partPort p
  let bit := fun (b : Bool) (i : Nat) => if b then 2 ^ i else 0
  let flags := bit (s.bit (Reg.keyState p) 2) 0 + bit (s.fixedRate p) 1 + s.fret p * 4 + bit (s.bit (Reg.keyState p) 16) 5 +
    bit (s.ideActive port 0) 6 + bit (s.ideActive port 1 || s.ideActive port 2) 7
  let isOpen := s.bit (Reg.keyState p) 16
  let pub := Config.random k.envelopePub
  [p, s.partK0 p, s.partN p, port, s.keyState p, flags, if isOpen then s.field (Reg.keyState p) 17 4 else 0, 0] ++
    byteList k.jobId.toNat 8 ++ byteList k.grantId.toNat 8 ++ byteList k.notAfter.toNat 8 ++ byteList k.nonce.toNat 32 ++
    byteList k.tenantKeyHash.toNat 48 ++ byteList k.partner.toNat 48 ++ byteList pub.toNat 48 ++
    byteList (Config.sha384 (leBytes pub.toNat 48)).toNat 48

/-- The measurement blocks that a port is shown (R469): index and content. -/
def State.measurements (s : State) (port : Nat) : List (Nat × List Nat) :=
  [(0x01, byteList s.trust.mBoot.toNat 48), (0x02, byteList s.trust.mRuntime.toNat 48), (0x03, byteList s.trust.mUcode.toNat 48),
    (0x10, s.panelRecord), (0x11, s.layoutRecord)] ++ (match s.boundTo port with
      | some p => [(0x12, s.partRecord p)]
      | none => [])

/-- GET_MEASUREMENTS (R469): index 0 asks for the number of blocks, 0xFF for every block; signed, with every index, it is a postmark. -/
def execGetMeasurements (port : Fin 6) (index : BitVec 8) (signed : Bool) (nonce : BitVec 256) (s : State) : Host.Outcome State Fault Refusal :=
  next (s.onSpdm port.val (·.algsDone) (fun s =>
    let l := s.measurements port.val
    let pick := if index.toNat = 0xFF then l else l.filter (fun e => e.1 == index.toNat)
    if index.toNat ≠ 0 ∧ pick = [] then s.spdmError 0x01
    else
      let body := if index.toNat = 0 then [l.length] else pick.flatMap (fun e => e.1 :: e.2)
      if !signed then s.answer 0 body
      else
        let (b, s) := s.opaqueBytes 96
        s.answer 0 (body ++ byteList nonce.toNat 32 ++ b)))

/-! Sessions. -/

/-- KEY_EXCHANGE (R468): at most two sessions per port. -/
def execKeyExchange (port : Fin 6) (s : State) : Host.Outcome State Fault Refusal :=
  next (s.onSpdm port.val (·.algsDone) (fun s =>
    match [0, 1].find? (fun i => !(s.session port.val i).openNow) with
    | some i => (s.setSession port.val i { Session.reset with openNow := true }).answer 0 [i]
    | none => s.spdmError 0x0A))

/-- FINISH (R468): the handshake verified, the requester authenticated by the public key whose hash is given; `requester` is 0 where it
is not. -/
def execFinish (port : Fin 6) (sess : Fin 2) (ok : Bool) (requester : BitVec 384) (s : State) : Host.Outcome State Fault Refusal :=
  next (s.onSpdm port.val (·.algsDone) (fun s =>
    let x := s.session port.val sess.val
    if !x.openNow ∨ x.finished then s.spdmError 0x04
    else if ok then (s.setSession port.val sess.val { x with finished := true, requester := requester }).answer 0 []
    else (s.setSession port.val sess.val Session.reset).spdmError 0x06))

/-- A request inside a session, answered where the session is open and its handshake finished. -/
def State.inSession (s : State) (port sess : Nat) (f : State → State) : State :=
  if !s.doeUp port then s
  else if (s.session port sess).openNow ∧ (s.session port sess).finished then f s else s.spdmError 0x02

/-- HEARTBEAT (R468). -/
def execHeartbeat (port : Fin 6) (sess : Fin 2) (s : State) : Host.Outcome State Fault Refusal :=
  next (s.inSession port.val sess.val (fun s => s.answer 0 []))

/-- KEY_UPDATE (R468). -/
def execKeyUpdate (port : Fin 6) (sess : Fin 2) (s : State) : Host.Outcome State Fault Refusal :=
  next (s.inSession port.val sess.val (fun s =>
    let x := s.session port.val sess.val
    (s.setSession port.val sess.val { x with keyGen := x.keyGen + 1 }).answer 0 []))

/-- END_SESSION (R468). -/
def execEndSession (port : Fin 6) (sess : Fin 2) (s : State) : Host.Outcome State Fault Refusal :=
  next (s.inSession port.val sess.val (fun s => (s.setSession port.val sess.val Session.reset).answer 0 []))

/-- IDE_KM (R482, R483): keys programmed, a stream started or stopped; whether the session was authenticated under TENANT_KEY is kept. -/
def State.ideKm (s : State) (port sess stream : Nat) (op : IdeOp) : State :=
  let x := (Tab.get (s.port port).ide stream).getD { programmed := false, active := false, underTenant := false }
  let under := match s.boundTo port with
    | some p => decide (s.keyState p ≠ 0) && (s.session port sess).requester == (s.keysOf p).tenantKeyHash
    | none => false
  let x := match op with
    | .program => { x with programmed := true, underTenant := under }
    | .start => { x with active := x.programmed }
    | .stop => { x with active := false }
  (s.setPort port { s.port port with ide := Tab.put (s.port port).ide stream x }).answer 0 []

/-- IDE_KM. -/
def execIdeKm (port : Fin 6) (sess : Fin 2) (stream : Fin 4) (op : IdeOp) (s : State) : Host.Outcome State Fault Refusal :=
  next (s.inSession port.val sess.val (fun s => s.ideKm port.val sess.val stream.val op))

/-! Envelopes. -/

/-- Whether a partition has work outstanding (R473, check 0x07). -/
def State.workOutstanding (s : State) (p : Nat) : Bool :=
  let port := s.partPort p
  s.partState p != 2 || s.keyState p == 1 ||
    (List.range 4096).any (fun m => s.mbOn port m || s.bit (Reg.mailbagCtl port m) 9) ||
    s.works.any (fun k => k.part == p && k.type == 2 && k.phase != .finished)

/-- The status of an envelope (R473): the first check that fails, in order. -/
def State.envelopeStatus (s : State) (port sess p : Nat) (e : Envelope) (sigOk unwrapOk : Bool) : Nat :=
  let k := s.keysOf p
  if e.magic ≠ 0x4C45564E ∨ e.version ≠ 1 ∨ 4 ≤ e.flags.toNat ∨ e.reserved ≠ 0 then 0x01
  else if !sigOk then 0x02
  else if e.panel ≠ s.trust.identity then 0x03
  else if e.nonce ≠ k.nonce then 0x04
  else if e.firstSector.toNat ≠ s.partK0 p ∨ e.count.toNat ≠ s.partN p ∨ e.port.toNat ≠ s.partPort p then 0x05
  else if s.keyState p ≠ 0 ∧ (s.session port sess).requester ≠ k.tenantKeyHash then 0x06
  else if s.workOutstanding p then 0x07
  else if !unwrapOk then 0x08
  else 0x00

/-- The last status of an envelope or grant recorded (R473, R499). -/
def State.setLastStatus (s : State) (p st : Nat) : State := s.setField (Reg.keyState p) 8 8 st

/-- A new job (R474, R476, R478, R495, R570, R638): keys zeroed and replaced, the scrub begun, what the tenant named recorded. -/
def State.rekey (s : State) (p : Nat) (e : Envelope) : State :=
  let partner := bitAt e.flags.toNat 1
  let s := ((s.endGrant p).dissolvePair p).setPairState p 0
  let s := { s with pairs := Tab.erase s.pairs p, transit := Tab.keep s.transit (fun k => k / 16384 != p) }
  let s := (s.zeroKeys p).setField (Reg.keyState p) 0 2 1
  let s := s.setKeys p { s.keysOf p with
    jobId := e.jobId, jobSecret := e.jobSecret, storageSecret := e.storageSecret, keyNonce := e.nonce, loaded := true,
    tenantKeyHash := e.tenantKeyHash, partner := if partner then e.partner else 0, grantId := 0, notAfter := 0, debugger := 0,
    hbmScrubDue := true }
  let s := (s.startScrub p 2).setField (Reg.keyState p) 2 2 (bitsOf e.flags.toNat 0 2)
  let s := ((s.freshNonce p).phResetAll p).clearBit (Reg.dbgPart p) 1
  s.setPart p { s.part p with phase := [], takeSeq := 0 }

/-- ENVELOPE (R472 to R474). -/
def State.envelope (s : State) (port sess : Nat) (e : Envelope) (sigOk unwrapOk : Bool) : State :=
  match s.boundTo port with
  | none => s.spdmError 0x01
  | some p =>
    let st := s.envelopeStatus port sess p e sigOk unwrapOk
    let s := if st = 0 then (s.rekey p e).setBit Reg.secStatus 0 else s.setBit Reg.secStatus 1
    (s.setLastStatus p st).answer st []

/-- ENVELOPE. -/
def execEnvelope (port : Fin 6) (sess : Fin 2) (env : Envelope) (sigOk : Bool) (unwrapOk : Bool) (s : State) : Host.Outcome State Fault Refusal :=
  next (s.inSession port.val sess.val (fun s => s.envelope port.val sess.val env sigOk unwrapOk))

/-- HBM scrub of a partition complete (R474, R476, R487): every line of its stacks is a live line of zero bytes. -/
def State.hbmScrubbed (s : State) (p : Nat) : State :=
  let k := s.keysOf p
  if s.keyState p ≠ 1 ∨ !k.hbmScrubDue ∨ k.scrubLeft ≠ [] then s
  else
    let lo := hbmKey (4 * s.partK0 p) 0
    let hi := hbmKey (4 * (s.partK0 p + s.partN p)) 0
    let s := { s with hbm := Mem.clear s.hbm lo hi, hbmCode := Tab.keep s.hbmCode (fun l => decide (128 * l < lo) || decide (hi ≤ 128 * l)) }
    let s := s.setKeys p { k with hbmScrubDue := false }
    let s := (s.sectors p).foldl (fun s j => (s.setField (Reg.scrubSector j) 0 2 0).scrubbed j) s
    (s.setField (Reg.keyState p) 0 2 2).setBit Reg.scrubStatus 1

/-- HBM_SCRUB_DONE. -/
def execHbmScrubDone (p : Fin 6) (s : State) : Host.Outcome State Fault Refusal := next (s.hbmScrubbed p.val)

/-! Debug grants. -/

/-- The status of a grant (R494): the first check that fails, in order; 0x10 or 0x11 when none does. -/
def State.grantStatus (s : State) (p : Nat) (g : Grant) (sigOk : Bool) : Nat :=
  let k := s.keysOf p
  if s.trust.debugBlown then 0x12
  else if s.keyState p ≠ 2 then 0x13
  else if g.panel ≠ s.trust.identity ∨ g.jobId ≠ k.jobId then 0x14
  else if g.grantId.toNat ≤ k.grantId.toNat ∨ g.notAfter.toNat ≤ s.tb.master.toNat then 0x15
  else if !sigOk then 0x16
  else if g.rights = 0 then 0x11
  else 0x10

/-- DEBUG_GRANT (R494, R495): from any party. -/
def State.debugGrant (s : State) (p : Nat) (g : Grant) (sigOk : Bool) : State :=
  let st := s.grantStatus p g sigOk
  let s := if st = 0x10 then
      let s := s.setKeys p { s.keysOf p with grantId := g.grantId, notAfter := g.notAfter, debugger := g.debugger }
      ((s.setBit (Reg.keyState p) 16).setField (Reg.keyState p) 17 4 g.rights.toNat).setBit Reg.secStatus 2
    else if st = 0x11 then (s.setKeys p { s.keysOf p with grantId := g.grantId }).endGrant p
    else s
  (s.setLastStatus p st).answer st []

/-- DEBUG_GRANT. -/
def execDebugGrant (p : Fin 6) (grant : Grant) (sigOk : Bool) (s : State) : Host.Outcome State Fault Refusal :=
  next (s.debugGrant p.val grant sigOk)

/-- GRANT_ENDED (R495): NOT_AFTER is reached. -/
def execGrantEnded (p : Fin 6) (s : State) : Host.Outcome State Fault Refusal :=
  next (if (s.keysOf p.val).notAfter.toNat ≤ s.tb.master.toNat then s.endGrant p.val else s)

/-! Far scrub. -/

/-- The far port a FAR_SCRUB names, if its parameter block is valid (R488). -/
def State.farOperand (s : State) (k : Work) : Option Nat × State :=
  match s.paramBlock k with
  | (none, s) => (none, s)
  | (some b, s) => (if b % 256 < s.partN k.part then some (s.farPort k.part (b % 256)) else none, s)

/-- FAR_SCRUB (R488): the receipt follows when the scrub is done; the entry keeps the port it named as 64 + port. -/
def State.farScrub (s : State) (k : Work) : State :=
  match s.farOperand k with
  | (none, s) => s.serve1 k.id 1
  | (some port, s) =>
    if !s.farUp port then s.serve1 k.id 2
    else
      let s := (s.setField (Reg.scrubSector port) 0 2 3).setField (Reg.scrubSector port) 4 3 5
      (s.modWork k.id (fun k => { k with pigeonhole := 64 + port })).mgmtBegun k.id

/-- FAR_SCRUB, OP 0x0300. -/
def execFarScrub (port : Fin 6) (s : State) : Host.Outcome State Fault Refusal := next (s.onMgmt port.val 0x0300 State.farScrub)

/-- A write of SCRUB_CTL (R488, R499): the far port of a sector outside every partition is scrubbed where it is up. -/
def State.farStart (s : State) (v : W32) : State :=
  (List.range 8).foldl (fun s k =>
    if !v.getLsbD k then s
    else if (s.partOfSector k).isSome ∨ !s.bit (Reg.farState k) 0 then s.setBit Reg.scrubStatus 3
    else ((s.setField (Reg.scrubSector k) 0 2 3).setField (Reg.scrubSector k) 4 3 5).setBit Reg.scrubCtl k) s

/-- FAR_START (R488). -/
def execFarStart (v : BitVec 32) (s : State) : Host.Outcome State Fault Refusal := next (s.farStart v)

/-- A far port's pages all written as zeros under a partition's far keys, or with zero MAC records (R488). -/
def State.zeroFar (s : State) (k owner index : Nat) : State :=
  let s := { s with far := Mem.clear s.far (farKey k 0) (farKey (k + 1) 0),
                    farPages := Tab.keep s.farPages (fun g => decide (g < farPageKey k 0) || decide (farPageKey (k + 1) 0 ≤ g)) }
  s.setMid k { s.mid k with farOwner := owner, farIndex := index }

/-- A far scrub done (R488): every entry that waits for it is answered, with DETAIL 2 where the port went down. -/
def State.farScrubbed (s : State) (k : Nat) : State :=
  if s.field (Reg.scrubSector k) 0 2 ≠ 3 then s
  else
    let up := s.bit (Reg.farState k) 0
    let (owner, index) := match s.partOfSector k with
      | some p => (s.farOwner p, k - s.partK0 p)
      | none => (0, 0)
    let waiting := s.works.filter (fun (j : Work) => j.type == 5 && j.phase == WPhase.running && entryOp j.entry == 0x0300 && j.pigeonhole == 64 + k)
    let s := (s.setField (Reg.scrubSector k) 0 2 0).clearBit Reg.scrubCtl k
    let s := if up then ((s.zeroFar k owner index).scrubbed k).setBit Reg.scrubStatus 2 else s
    waiting.foldl (fun s j => s.serve1 j.id (if up then 0 else 2)) s

/-- FAR_SCRUB_DONE. -/
def execFarScrubDone (k : Fin 8) (s : State) : Host.Outcome State Fault Refusal := next (s.farScrubbed k.val)

/-! The Postmaster. -/

/-- Whether an image passes the checks of layer 1 (R464, R467). -/
def State.imageOk (s : State) (i : Image) : Bool := i.sigOk && decide (s.trust.secMin ≤ i.secVersion.toNat)

/-- An image measured, a new Alias key derived (R464). -/
def State.measure (s : State) (i : Image) : State :=
  let (k, s) := s.draw
  let s := s.setField Reg.panelBuild 16 16 i.secVersion.toNat
  { s with trust := { s.trust with mBoot := i.mBoot, mRuntime := i.mRuntime, mUcode := i.mUcode, aliasKey := k } }

/-- What the Postmaster had accepted and not completed (R528, R541): BUSY, or held again by a follower. -/
def State.dropAccepted (s : State) (k : Work) : State :=
  let p := k.part
  let s := if (s.pair p).joinWork = some k.id then
      (s.setPairState p (s.pair p).prevState).setPair p { s.pair p with joinWork := none, joinMsg := none }
    else s
  let x := s.pair p
  let s := if x.digestWork.any (fun e => e.2.1 == k.id) then s.setPair p { x with digestWork := x.digestWork.filter (fun e => e.2.1 != k.id) } else s
  let y := s.part p
  let s := s.setPart p { y with pigeonholes := Tab.mapAll y.pigeonholes (fun _ x => { x with waiting := x.waiting.filter (· != k.id) }) }
  if s.follows p then s.modWork k.id (fun k => { k with phase := .waiting }) else s.busy k

/-- The Postmaster restarted (R466, R528): on an image that passes its checks, else not at all. -/
def State.pmRestart (s : State) (i : Option Image) : State :=
  let fresh := match i with
    | some x => s.imageOk x
    | none => true
  if !fresh then s.setBit Reg.secStatus 5
  else
    let s := match i with
      | some x => s.measure x
      | none =>
        let (k, s) := s.draw
        { s with trust := { s.trust with aliasKey := k } }
    let s := s.setReg Reg.fwEpoch (s.reg Reg.fwEpoch + 1)
    let s := { s with spdm := Tab.mapAll s.spdm (fun _ x => { x with sessions := [] }) }
    let s := s.setBit Reg.secStatus 6
    let mine := s.works.filter (fun (k : Work) => k.type == 5 && (k.phase == WPhase.atPostmaster || k.phase == WPhase.running))
    let s := mine.foldl State.dropAccepted s
    let s := { s with faults := { s.faults with kickedAt := s.tb.master } }
    s.progressHeld

/-- POSTMASTER_RESTART (R466). -/
def execPostmasterRestart (image : Image) (s : State) : Host.Outcome State Fault Refusal := next (s.pmRestart (some image))

/-- WATCHDOG (R529): a period of 100 ms without a KICK. -/
def State.watchdog (s : State) (i : Image) : State :=
  if (s.tb.master - s.faults.kickedAt).toNat < 100000000 then s
  else
    let s := (s.setBit Reg.fltStatus 4).raise (FaultRec.plain 0x0803 (unitDest 118) (s.replica 118) none)
    let s := { s with faults := { s.faults with kickedAt := s.tb.master } }
    s.pmRestart (some i)

/-- WATCHDOG. -/
def execWatchdog (image : Image) (s : State) : Host.Outcome State Fault Refusal := next (s.watchdog image)

end Sys2Proof.Machine
end

