-- ==== Sys2Proof/Machine/Pair.lean ====
section
/-! DEFINITION. Paired panels (R531 to R557): messages and links, joining, running as a pair, checkpoint digests, and failover. -/

namespace Sys2Proof.Machine

/-! Messages and links (R534 to R537). -/

/-- A pair link has carried something now (R551). -/
def State.heard (s : State) : State := s.setPair 255 { s.pair 255 with heardAt := s.tb.master }

/-- A message of a partition: accepted when its SEQ exceeds every one before, discarded otherwise (R536). -/
def State.onMsg (s : State) (p : Nat) (seq : W64) (f : State → State) : State :=
  let x := s.pair p
  if seq.toNat ≤ x.rxHighest.toNat then s else f ((s.setPair p { x with rxHighest := seq, tagFailed := false }).heard)

/-- A message that belongs to no partition sent on a link (R535). -/
def State.sendPlain (s : State) (l type : Nat) (fields : List Nat) : State :=
  let x := s.pair 255
  (s.setPair 255 { x with txSeq := x.txSeq + 1 }).sendPair { link := l, part := 255, type := type, seq := x.txSeq + 1, fields := fields }

/-- A partition's messages of a link sent again, in order, on the other one (R537): those sent, and those a bucket still holds. -/
def State.resendOn (s : State) (p l other : Nat) : State :=
  let mine := fun (m : PairMsg) => m.part == p && m.link == l
  let waiting := fun (h : Held) => match h with
    | .message m => mine m
    | _ => false
  let late := s.held.filterMap (fun h => match h with
    | .message m => if mine m then some m else none
    | _ => none)
  let sent := s.pairOut.filter mine
  let s : State := { s with held := s.held.filter (fun h => !waiting h) }
  (sent ++ late).foldl (fun s m => s.sendPair { m with link := other }) s

/-- What the loss of its last link does to a partition (R537, R556): a leader goes on ALONE, a join fails. -/
def State.linksLost (s : State) (p : Nat) : State :=
  if s.pairState p = 2 then s.goAlone p else if (s.pair p).joinWork.isSome then s.joinFails p 6 else s

/-- A pair link down (R534, R537). -/
def State.pairLinkDown (s : State) (l : Nat) : State :=
  if !s.bit (Reg.pairLink l) 0 then s
  else
    let before := (List.range 6).map s.primary
    let s := (s.setField (Reg.pairLink l) 0 3 0).setBit Reg.pairStatus 0
    (List.range 6).foldl (fun s p => match s.primary p with
      | none => s.linksLost p
      | some o => if before.getD p none = some l then s.resendOn p l o else s) s

/-- PAIR_LINK_UP (R534, R535, R559): the link runs, and its session has shown the partner's identity. -/
def execPairLinkUp (l : Fin 2) (partner : BitVec 384) (s : State) : Host.Outcome State Fault Refusal :=
  next (if s.deadUnits.contains (116 + l.val) then s
    else
      let s := (s.setField (Reg.pairLink l.val) 0 3 5).setBit Reg.pairStatus 1
      ((List.range 12).foldl (fun s i => s.setReg (Reg.pairPeer i) (BitVec.ofNat 32 (bitsOf partner.toNat (32 * i) 32))) s).heard)

/-- PAIR_LINK_RETRAIN (R534, R559): a link that lost a lane is retraining until it runs again, with its replayed flits counted, or goes down. -/
def execPairLinkRetrain (l : Fin 2) (ev : PairTrain) (s : State) : Host.Outcome State Fault Refusal :=
  next (if !s.bit (Reg.pairLink l.val) 0 then s
    else match ev with
    | .laneLost => s.setBit (Reg.pairLink l.val) 1
    | .trained n => (s.clearBit (Reg.pairLink l.val) 1).count (replayKey l.val) n.toNat
    | .failed => s.pairLinkDown l.val)

/-- PAIR_MESSAGE_TAG_FAIL (R536): the message is asked for again, once. -/
def execPairMessageTagFail (p : Fin 6) (l : Fin 2) (s : State) : Host.Outcome State Fault Refusal :=
  let x := s.pair p.val
  next (if x.tagFailed then ((s.setPair p.val { x with tagFailed := false }).setBit Reg.pairStatus 2).pairLinkDown l.val
    else s.setPair p.val { x with tagFailed := true })

/-- PAIR_HEARTBEAT (R535): the partner's heartbeat on a link; where this panel has sent nothing on it since, its own goes out. -/
def execPairHeartbeat (l : Fin 2) (_peerTime : BitVec 64) (s : State) : Host.Outcome State Fault Refusal :=
  next (if !s.bit (Reg.pairLink l.val) 0 then s
    else
      let s := s.heard
      let s := if s.linkSent.contains l.val then s else s.sendPlain l.val 0xD [s.tb.master.toNat]
      { s with linkSent := s.linkSent.filter (· != l.val) })

/-! Joining (R538 to R540). -/

/-- Whether PAIR_JOIN's parameter block is valid, its lease word in slice 0's window (R539, R557). -/
def State.joinBlockOk (s : State) (k : Work) (b : Nat) : Bool :=
  decide (bitsOf b 0 8 ≤ 1) && bitsOf b 32 32 % 64 == 0 && s.bit (Reg.hcCtl k.port) 8 &&
    s.hcHolds k.port 0 (bitsOf b 32 32) 8

/-- Whether the partner's JOIN message and postmark fit this partition (R481, R539). -/
def State.partnerFits (s : State) (p : Nat) (m : JoinMsg) : Bool :=
  let k := s.keysOf p
  let n := s.partN p
  k.partner != 0 && m.identity == k.partner && m.orderD == s.trust.orderD && m.jobId == k.jobId && m.tenantKeyHash == k.tenantKeyHash &&
    m.n.toNat == n && (List.range n).all (fun j => (m.far.getD j 0).toNat == s.farCap p j) && m.follower != (s.pair p).asFollower

/-- A join refused after the partner's message: the partner is told (R556). -/
def State.refuseJoin (s : State) (p detail : Nat) : State := (s.pairSend p 0xB []).joinFails p detail

/-- What a detached panel still held of the entries it mirrored, given up. -/
def State.dropMirrored (s : State) (p : Nat) : State :=
  (s.works.filter (fun (k : Work) => k.part == p && k.type != 5 && k.phase != WPhase.finished)).foldl (fun s k =>
    (s.discardBlocks k.id).finish k.id true (fun k => k.receipt true 5 0)) s

/-- A join whose checks pass (R540, R556, R559): JOINING, everything counted since the join at zero. -/
def State.beginJoin (s : State) (p : Nat) : State :=
  let s := if (s.pair p).prevState = 5 then s.dropMirrored p else s
  let s := { s with works := s.works.map (fun (k : Work) => if k.part = p then { k with fwd := 0, acked := false } else k) }
  let s := s.setPair p { s.pair p with forwarded := 0, journal := [], partnerDone := [], ownDone := [], theirChunks := [], ownChunks := [],
                                       digestWork := [] }
  (s.setField (Reg.pairState p) 16 16 0).setPairState p 1

/-- A join evaluated once both the entry and the partner's message are here (R539). -/
def State.tryJoin (s : State) (p : Nat) : State :=
  let x := s.pair p
  match x.joinWork, x.joinMsg with
  | some _, some m =>
    if s.pairState p = 1 then s
    else if !s.partnerFits p m then s.refuseJoin p 5
    else if (s.primary p).isNone then s.joinFails p 6
    else if x.asFollower ∧ (s.part p).takeSeq ≠ 0 ∧ x.prevState ≠ 5 then s.refuseJoin p 7
    else s.beginJoin p
  | _, _ => s

/-- The JOIN message of a partition sent on its primary link (R535). -/
def State.sendJoin (s : State) (p : Nat) : State := match s.primary p with
  | none => s
  | some l =>
    let n := s.partN p
    s.sendPlain l 0xE ([if (s.pair p).asFollower then 1 else 0, n] ++ (List.range 8).map (fun j => if j < n then s.farCap p j else 0) ++ [(s.keysOf p).jobId.toNat])

/-- PAIR_JOIN (R539). -/
def State.pairJoin (s : State) (k : Work) : State :=
  let p := k.part
  match s.paramBlock k with
  | (none, s) => s.serve1 k.id 1
  | (some b, s) =>
    let follower := bitAt b 0
    let st := s.pairState p
    if !s.joinBlockOk k b then s.serve1 k.id 1
    else if s.partState p ≠ 2 ∨ s.keyState p ≠ 2 ∨ (s.pair p).joinWork.isSome ∨ !(st == 0 || (st == 4 && !follower) || (st == 5 && follower)) then
      s.serve1 k.id 2
    else if (s.primary p).isNone then s.serve1 k.id 6
    else
      let s := s.setPair p { s.pair p with joinWork := some k.id, prevState := st, asFollower := follower, withFar := bitAt b 8,
                                           leaseOffset := BitVec.ofNat 32 (bitsOf b 32 32) }
      ((s.sendJoin p).mgmtBegun k.id).tryJoin p

/-- PAIR_JOIN, OP 0x0400. -/
def execPairJoin (port : Fin 6) (s : State) : Host.Outcome State Fault Refusal := next (s.onMgmt port.val 0x0400 State.pairJoin)

/-- JOIN (R535, R536, R539): the partner's message. -/
def execPairJoinMsg (p : Fin 6) (msg : JoinMsg) (s : State) : Host.Outcome State Fault Refusal :=
  next (s.onMsg 255 msg.seq (fun s => (s.setPair p.val { s.pair p.val with joinMsg := some msg }).tryJoin p.val))

/-- LINE (R537, R540): a joining follower writes one line of the copy at its home. -/
def execPairLine (p : Fin 6) (seq : BitVec 64) (addr : BitVec 64) (data : BitVec 1024) (s : State) : Host.Outcome State Fault Refusal :=
  next (s.onMsg p.val seq (fun s =>
    let a := addr.toNat
    let mine := s.pairState p.val == 1 && (s.pair p.val).asFollower && a % 128 == 0
    match s.region p.val a with
    | .hbm => if mine then s.updateLine p.val (a / 128) data fullMask else s
    | .far _ => if mine && (s.pair p.val).withFar then s.updateLine p.val (a / 128) data fullMask else s
    | _ => s))

/-- A pigeonhole as the leader's join state has it (R540). -/
def State.joinHole (s : State) (p : Nat) (x : JoinHole) : State :=
  let h := x.h.val
  let st := bitsOf x.word.toNat 0 3
  let hole : Pigeonhole :=
    { size := x.size, farOffset := x.farOffset, warm := x.warm, lastUse := x.lastUse, loadGen := x.loadGen, todo := [], partsLeft := 0,
      warming := false, pinAfter := false, decided := false, waiting := [] }
  let s := s.setPart p { s.part p with pigeonholes := Tab.put (s.part p).pigeonholes h hole }
  let s := s.setReg (Reg.phState p h) (x.word &&& 0xFFFC00FF)
  if st = 2 then (s.setField (Reg.phState p h) 0 3 1).phPlace p h (s.phGranule p h) else if st = 4 then (s.setField (Reg.phState p h) 0 3 3).phEvict p h else s

/-- The entry that waits for a join answered with DETAIL 0 (R540); a follower writes that receipt and its tail word itself, as its last. -/
def State.joinServed (s : State) (p : Nat) : State :=
  let x := s.pair p
  let s := s.setPair p { x with joinWork := none, joinMsg := none }
  match x.joinWork.bind s.work with
  | none => s
  | some k =>
    let s := s.serve1 k.id 0
    if !x.asFollower ∨ !(s.port k.port).linkUp then s
    else
      let s := s.tailWordWrite k.port k.mailbag
      match takeReceipt (fun r => r.work == k.id) (s.mailbag k.port k.mailbag).receipts with
      | some (r, rest) => (s.receiptOut p k.port k.mailbag r rest).tailWordWrite k.port k.mailbag
      | none => s

/-- A mailbag's counts as the leader sent them (R540). -/
def State.joinCounts (s : State) (port : Nat) (c : JoinCounts) : State :=
  let m := c.m.val
  s.setMailbag port m { s.mailbag port m with head := c.head, rcount := c.rcount, lastSeq := c.lastSeq, anySeq := c.lastSeq != 0 }

/-- The ranges of a join copy (R540): the usable HBM region, and with FAR the far-port regions. -/
def State.copyRanges (s : State) (p : Nat) (withFar : Bool) : List (Nat × Nat) :=
  let far := if withFar then (List.range (s.partN p)).map (fun j => (Sys2Proof.Machine.farStart + j * 2 ^ 42, gib * s.farCap p j)) else []
  (0, 189 * gib * s.partN p) :: far

/-- The pair-link agent's read of a whole line at its home (R284, R312, R547): a sum line closes, and a dead line, or one that memory has lost,
reads as zeros (log entry 63). -/
def State.agentRead (s : State) (p line : Nat) : LineData × State :=
  let s := s.closeFor p line
  ((match s.lineNow p line with
    | (.live, d) => d
    | _ => 0), s)

/-- A line of the join copy read by the pair-link agent and sent (R537, R540): the line with address L on link L mod 2 where both qualify. -/
def State.sendLine (s : State) (p line : Nat) : State :=
  let (d, s) := s.agentRead p line
  let fields := [128 * line, d.toNat]
  if s.linkQualifies p 0 && s.linkQualifies p 1 then s.pairSendOn p (line % 2) 0x6 fields else s.pairSend p 0x6 fields

/-- The join copy of a leader (R540): every line of its ranges, when it has taken any entry since its keying but those that ask for a join. -/
def State.joinCopy (s : State) (p : Nat) : State :=
  if (s.part p).takeSeq = 0 then s
  else (s.copyRanges p (s.pair p).withFar).foldl (fun s r => (List.range (r.2 / 128)).foldl (fun s i => s.sendLine p (r.1 / 128 + i)) s) s

/-- A join complete (R540, R556): the leader's once every entry it has taken has its final receipt, with the copy sent. -/
def State.joinCopyDone (s : State) (p : Nat) (sent : JoinState) : State :=
  let x := s.pair p
  let port := s.partPort p
  if s.pairState p ≠ 1 then s
  else if x.asFollower then
    let s := sent.counts.foldl (fun s c => s.joinCounts port c) (s.joinServed p)
    let s := (s.setReg (Reg.phArea p) sent.area).setReg (Reg.phTableLo p) (sent.table.truncate 32)
    let s := sent.holes.foldl (fun s h => s.joinHole p h) (s.setReg (Reg.phTableHi p) ((sent.table >>> 32).truncate 32))
    let s := s.setPair p { s.pair p with leaseSeen := 0, leaseChanged := s.tb.master }
    ((s.setPairState p 3).setBit Reg.pairStatus 3).heard
  else if s.works.any (fun k => k.part == p && some k.id != x.joinWork && !s.receipted k) then s
  else
    let s := s.joinCopy p
    let s := ((s.setPairState p 2).setBit Reg.pairStatus 3).setPair p { s.pair p with leaseCount := 0, leaseAcked := s.tb.master }
    ((((s.part p).pigeonholes.map (·.1)).foldl (fun s h => s.phTell p h) s).joinServed p).heard

/-- JOIN_COPY_DONE. -/
def execJoinCopyDone (p : Fin 6) (sent : JoinState) (s : State) : Host.Outcome State Fault Refusal := next (s.joinCopyDone p.val sent)

/-! Running as a pair (R541 to R545). -/

/-- ENTRY (R541): the follower takes a forwarded entry and acknowledges it. -/
def execPairEntry (p : Fin 6) (seq : BitVec 64) (m : Fin 4096) (entry : BitVec 512) (count : BitVec 64) (s : State) :
    Host.Outcome State Fault Refusal :=
  next (s.onMsg p.val seq (fun s =>
    if !s.follows p.val then s
    else
      let (id, s) := s.addWork p.val (s.partPort p.val) m.val entry
      let s := s.modWork id (fun k => { k with fwd := count.toNat })
      (s.setPair p.val { s.pair p.val with forwarded := count }).pairSend p.val 0x2 [count.toNat]))

/-- ENTRY_ACK (R541): every entry up to that number is acknowledged. -/
def execEntryAck (p : Fin 6) (seq : BitVec 64) (count : BitVec 64) (s : State) : Host.Outcome State Fault Refusal :=
  next (s.onMsg p.val seq (fun s =>
    if s.pairState p.val ≠ 2 then s
    else { s with works := s.works.map (fun (k : Work) => if k.part = p.val ∧ k.fwd ≠ 0 ∧ k.fwd ≤ count.toNat then { k with acked := true } else k) }))

/-- DONE (R542): the partner's outcome of an entry; RECEIPT_WRITE compares it. -/
def execPairDone (p : Fin 6) (seq : BitVec 64) (m : Fin 4096) (entrySeq : BitVec 64) (outcome : BitVec 8) (fault : BitVec 32) (s : State) :
    Host.Outcome State Fault Refusal :=
  next (s.onMsg p.val seq (fun s =>
    let x := s.pair p.val
    if s.pairState p.val ≠ 2 then s
    else s.setPair p.val { x with partnerDone := x.partnerDone ++ [{ mailbag := m.val, seq := entrySeq, outcome := outcome.toNat, fault := fault }] }))

/-- Stores that waited for room in the journal and now have it performed (R544). -/
def State.letIn (s : State) (p : Nat) (ids : List Nat) : State :=
  (s.partArrays p).foldl (fun s ga =>
    let a := s.arr ga
    if a.groups = [] then s
    else s.setArr ga { a with groups := Tab.mapAll a.groups (fun _ g =>
      { g with pend := g.pend.filter (fun k => !(k.isStore && decide (hostStart ≤ 128 * k.line) && ids.contains k.id)) }) }) s

/-- RECEIPTED (R544): the oldest final receipt of the mailbag that this panel has reported is covered, and the journal's writes of its entry
are discarded. -/
def State.receiptCovered (s : State) (p m : Nat) (rcount : W64) : State :=
  let port := s.partPort p
  let x := s.pair p
  let b := s.mailbag port m
  match takeReceipt (fun r => r.final && x.ownDone.contains r.work) b.receipts with
  | none => s.setMailbag port m { b with rcount := rcount }
  | some (r, rest) =>
    let s := s.setMailbag port m { b with rcount := rcount, receipts := rest }
    let left := x.journal.filter (fun j => j.work != r.work)
    let s := s.setPair p { x with journal := left, ownDone := x.ownDone.filter (· != r.work) }
    if journalCap < x.journal.length then (s.letIn p ((left.take journalCap).map (·.id))).progressAll else s

/-- RECEIPTED. -/
def execReceipted (p : Fin 6) (seq : BitVec 64) (m : Fin 4096) (rcount : BitVec 64) (s : State) : Host.Outcome State Fault Refusal :=
  next (s.onMsg p.val seq (fun s => if s.follows p.val then s.receiptCovered p.val m.val rcount else s))

/-- A decision of the leader about a pigeonhole (R545): a placement begins the load, RESIDENT and FAR follow when this panel's own copy
has ended, an eviction begins. -/
def State.phDecide (s : State) (p h st g : Nat) (lastUse : W64) (gen : W32) : State :=
  match Tab.get (s.part p).pigeonholes h with
  | none => s
  | some x =>
    let s := (s.modPh p h (fun x => { x with lastUse := lastUse })).phWrite p h 0x28 8 lastUse.toNat
    match st with
    | 1 => if s.phIs p h = 4 ∧ (x.partsLeft ≠ 0 ∨ x.todo ≠ []) then s.modPh p h (fun x => { x with decided := true }) else (s.phFree p h).dispatch p
    | 2 => if s.phIs p h = 1 then s.phPlace p h g else s
    | 3 => if s.phIs p h ≠ 2 then s else if x.loaded then s.phResident p h gen else s.modPh p h (fun x => { x with decided := true, loadGen := gen })
    | 4 => if s.phIs p h = 3 then s.phEvict p h else s
    | 5 => s.phTo p h 5
    | _ => s

/-- PH_DECISION. -/
def execPhDecision (p : Fin 6) (seq : BitVec 64) (h : Fin 64) (state : BitVec 3) (granule : BitVec 16) (lastUse : BitVec 64) (loadGen : BitVec 32)
    (s : State) : Host.Outcome State Fault Refusal :=
  next (s.onMsg p.val seq (fun s => if s.follows p.val then s.phDecide p.val h.val state.toNat granule.toNat lastUse loadGen else s))

/-! Checkpoint digests (R546 to R549). -/

/-- A line as a digest reads it: a dead line, and one that memory has lost, reads as zeros (R547). -/
def State.digestLine (s : State) (p line : Nat) : LineData := match s.lineNow p line with
  | (.live, d) => d
  | _ => 0

/-- The hash of one 4 KiB unit (R547), and the bytes of a hash. -/
def hashBytes (h : BitVec 384) : List Byte := leBytes h.toNat 48
def State.unitHash (s : State) (p a : Nat) : BitVec 384 :=
  Config.sha384 (leBytes a 8 ++ (List.range 32).flatMap (fun i => leBytes (s.digestLine p (a / 128 + i)).toNat 128))

/-- The chunks of a range: its parts between multiples of 1 GiB, ascending (R547). -/
def rangeChunks (base len : Nat) : List (Nat × Nat) :=
  ((List.range (len / gib + 2)).map (fun i => (max base (gib * (base / gib + i)), min (base + len) (gib * (base / gib + i + 1))))).filter (fun c => decide (c.1 < c.2))

/-- The chunk hashes of a list of ranges, and the digest over them (R547). -/
def State.chunkHashes (s : State) (p : Nat) (ranges : List (Nat × Nat)) : List (BitVec 384) :=
  (ranges.flatMap (fun r => rangeChunks r.1 r.2)).map (fun c =>
    Config.sha384 ((List.range ((c.2 - c.1) / 4096)).flatMap (fun i => hashBytes (s.unitHash p (c.1 + 4096 * i)))))
def pairDigestOf (chunks : List (BitVec 384)) (count : Nat) : BitVec 384 := Config.sha384 (chunks.flatMap hashBytes ++ leBytes count 2)

/-- The ranges of a range table as far as it is valid (R546). -/
def State.digestRanges (s : State) (k : Work) (table : Nat) : Option (List (Nat × Nat)) × State :=
  match s.entryBytes k table 16 with
  | (none, s) => (none, s)
  | (some h, s) =>
    let n := bitsOf h 0 16
    if n = 0 ∨ 64 < n then (none, s)
    else match s.entryBytes k (table + 16) (16 * n) with
      | (none, s) => (none, s)
      | (some b, s) =>
        let l := (List.range n).map (fun i => (bitsOf b (128 * i) 64, bitsOf b (128 * i + 64) 64))
        let good := fun (r : Nat × Nat) => r.1 % 4096 == 0 && r.2 % 4096 == 0 && decide (r.1 < hcStart) && s.rangeIn k.part k.snap r.1 (max r.2 1)
        (if l.all good then some l else none, s)

/-- Every sum line of a list of ranges closed, as a courier's read closes it (R220, R547). -/
def State.closeRanges (s : State) (p : Nat) (ranges : List (Nat × Nat)) : State :=
  ranges.foldl (fun s r => (List.range (r.2 / 128)).foldl (fun s i => s.closeFor p (r.1 / 128 + i)) s) s

/-- Whether a digest may be written at an address (R546). -/
def State.digestOut (s : State) (k : Work) (a : Nat) : Bool := a % 64 == 0 && (match s.regionFor k.part k.snap a with
  | .hbm => true
  | .hc => true
  | _ => false)

/-- A digest written at OUT (R546). -/
def State.writeDigest (s : State) (k : Work) (a : Nat) (d : BitVec 384) : State :=
  if a < hcStart then s.writeWord k.part a 48 d.toNat else s.writeHc k.part k.slice k.id a 48 d.toNat

/-- A digest counted as completed, its entry answered (R548, R559). -/
def State.digestDone (s : State) (p index detail : Nat) : State :=
  let x := s.pair p
  match Tab.get x.digestWork index with
  | none => s
  | some w =>
    let s := s.setPair p { x with digestWork := Tab.erase x.digestWork index, theirChunks := x.theirChunks.filter (fun c => c.1 != index),
                                  ownChunks := x.ownChunks.filter (fun c => c.1 != index) }
    (s.setField (Reg.pairState p) 16 16 (s.field (Reg.pairState p) 16 16 + 1)).serve1 w.1 detail

/-- The first chunk whose hash the partner does not share, once every hash of it has come. -/
def firstDiff (own : List (BitVec 384)) (theirs : Nat → Option (BitVec 384)) : Option Nat :=
  (List.range own.length).find? (fun i => theirs i != some (own.getD i 0))

/-- A leader's comparison once it has every chunk hash of the follower (R548, R549). -/
def State.compareDigest (s : State) (p index : Nat) : State :=
  let x := s.pair p
  let theirs := fun (i : Nat) => (x.theirChunks.find? (fun c => c.1 == index && c.2.1 == i)).map (fun c => c.2.2)
  match Tab.get x.digestWork index, x.ownChunks.find? (fun c => c.1 == index) with
  | some w, some own =>
    if s.pairState p ≠ 2 ∨ !(List.range own.2.length).all (fun i => (theirs i).isSome) then s
    else
      let nd := if w.2 then 256 else 0
      match firstDiff own.2 theirs with
      | none => (s.pairSend p 0x8 [index, nd]).digestDone p index nd
      | some i =>
        let detail := 8 + nd + i * 2 ^ 16
        let s := (s.pairSend p 0x8 [index, detail]).digestDone p index detail
        ((s.sendWithdraw p 2).setBit Reg.pairStatus 7).goAlone p
  | _, _ => s

/-- PAIR_DIGEST (R546 to R549): once every earlier entry has its outcome here, the digest is computed and written; a follower sends its chunk
hashes, a leader compares, a partition that is ALONE compares nothing. -/
def State.pairDigest (s : State) (k : Work) : State :=
  let p := k.part
  let st := s.pairState p
  if st < 2 ∨ 4 < st then s.serve1 k.id 2
  else if s.works.any (fun (j : Work) => j.part == p && decide (j.id < k.id) && j.phase != WPhase.finished) then s
  else match s.paramBlock k with
    | (none, s) => s.serve1 k.id 1
    | (some b, s) =>
      let out := bitsOf b 64 64
      match s.digestRanges k (bitsOf b 0 64) with
      | (none, s) => s.serve1 k.id 1
      | (some l, s) =>
        if !s.digestOut k out then s.serve1 k.id 1
        else
          let s := s.closeRanges p l
          let chunks := s.chunkHashes p l
          let s := s.writeDigest k out (pairDigestOf chunks l.length)
          let x := s.pair p
          let index := (s.field (Reg.pairState p) 16 16 + x.digestWork.length) % 2 ^ 16
          let s := s.setPair p { x with nondet := false, digestWork := Tab.put x.digestWork index (k.id, x.nondet),
                                        ownChunks := if st = 2 then x.ownChunks ++ [(index, chunks)] else x.ownChunks }
          if st = 4 then s.digestDone p index (2 + (if x.nondet then 256 else 0))
          else
            let s := s.mgmtBegun k.id
            if st = 2 then s.compareDigest p index
            else (List.range chunks.length).foldl (fun s i => s.pairSend p 0x7 [index, i, (chunks.getD i 0).toNat]) s

/-- PAIR_DIGEST, OP 0x0401. -/
def execPairDigest (port : Fin 6) (s : State) : Host.Outcome State Fault Refusal := next (s.onMgmt port.val 0x0401 State.pairDigest)

/-- DIGEST (R548): a chunk hash of the follower. -/
def execDigest (p : Fin 6) (seq : BitVec 64) (index : BitVec 32) (chunk : BitVec 32) (hash : BitVec 384) (s : State) :
    Host.Outcome State Fault Refusal :=
  next (s.onMsg p.val seq (fun s =>
    let x := s.pair p.val
    if s.pairState p.val ≠ 2 then s
    else (s.setPair p.val { x with theirChunks := x.theirChunks ++ [(index.toNat, chunk.toNat, hash)] }).compareDigest p.val index.toNat))

/-- DIGEST_RESULT (R548, R549): on a mismatch the follower no longer mirrors. -/
def execDigestResult (p : Fin 6) (seq : BitVec 64) (index : BitVec 32) (detail : BitVec 64) (s : State) : Host.Outcome State Fault Refusal :=
  next (s.onMsg p.val seq (fun s =>
    if !s.follows p.val then s
    else
      let s := s.digestDone p.val index.toNat detail.toNat
      if bitsOf detail.toNat 0 8 = 8 then (s.setBit Reg.pairStatus 7).detach p.val 2 else s))

/-! Failover (R550 to R555). -/

/-- The lease word of this panel written: a counter, and the first bytes of its identity (R550). -/
def State.writeLease (s : State) (p : Nat) : State :=
  let x := s.pair p
  let n := x.leaseCount + 1
  let v := n.toNat + bitsOf s.trust.identity.toNat 0 32 * 2 ^ 32
  (s.setPair p { x with leaseCount := n }).hidWrite p (s.partPort p) (hcStart + x.leaseOffset.toNat) 8 v

/-- LEASE_WRITE (R543, R550): the host acknowledges it while its link is up. -/
def execLeaseWrite (p : Fin 6) (s : State) : Host.Outcome State Fault Refusal :=
  next (if s.pairState p.val ≠ 2 ∨ !(s.port (s.partPort p.val)).linkUp ∨ !s.mayAsk p.val then s
    else
      let s := s.writeLease p.val
      s.setPair p.val { s.pair p.val with leaseAcked := s.tb.master })

/-- LEASE_LOST (R550, R556): 30 µs since the last acknowledged lease write. -/
def execLeaseLost (p : Fin 6) (s : State) : Host.Outcome State Fault Refusal :=
  let x := s.pair p.val
  next (if s.pairState p.val = 2 ∧ 30000 ≤ (s.tb.master - x.leaseAcked).toNat then
      ((s.setPairState p.val 6).setBit Reg.pairStatus 8).setPair p.val { x with accepted := true, mayWrite := false }
    else s)

/-- A write of the journal performed, its page logged for its entry's slice (R415, R553). -/
def State.journalOut (s : State) (port : Nat) (j : JournalWrite) : State :=
  let s := match s.work j.work with
    | some k => s.logDirty port k.slice j.write.addr
    | none => s
  { s with hostOut := s.hostOut ++ [j.write] }

/-- The takeover of a follower (R553): the lease word, the journal's writes in their order and a flush read, that of no group (slot 65), then
ALONE; its receipts and its taking of entries follow. -/
def State.takeover (s : State) (p : Nat) : State :=
  let port := s.partPort p
  let up := (s.port port).linkUp
  let s := if up then s.writeLease p else s
  let x := s.pair p
  let s := if up then x.journal.foldl (fun s j => s.journalOut port j) s else s
  let last := ((x.journal.map (·.write)).getLast?.map (fun w => (w.pasid, w.addr))).getD (0, 0)
  let f : FlushRead := { arr := 0, slot := 65, id := 0, pasid := last.1, addr := last.2 }
  let s := if up then s.setPort port { s.port port with flushes := (s.port port).flushes ++ [f] } else s
  let s := s.setPair p { x with journal := [], ownDone := [] }
  let s := ((s.letIn p (x.journal.map (·.id))).goAlone p).setBit Reg.pairStatus 4
  (s.progressAll).dispatch p

/-- LEASE_POLL (R551): links silent for 20 µs, and the lease word unchanged for 60 µs, or changed. -/
def execLeasePoll (p : Fin 6) (word : BitVec 64) (s : State) : Host.Outcome State Fault Refusal :=
  let p := p.val
  let x := s.pair p
  let now := s.tb.master
  let fresh := word != x.leaseSeen
  let silent := decide (20000 ≤ (now - (s.pair 255).heardAt).toNat)
  next (if !s.follows p then s
    else
      let s := s.setPair p { x with leaseSeen := word, leaseChanged := if fresh then now else x.leaseChanged }
      if !silent then s
      else if fresh then s.detach p 0
      else if 60000 ≤ (now - x.leaseChanged).toNat then s.takeover p
      else s)

/-- FAILOVER (R551 to R553): ACCEPT and the takeover, or REFUSE. -/
def execFailover (p : Fin 6) (seq : BitVec 64) (_fault : BitVec 32) (s : State) : Host.Outcome State Fault Refusal :=
  next (s.onMsg p.val seq (fun s =>
    if s.follows p.val && !s.poisoned p.val then (s.pairSend p.val 0xA []).takeover p.val else s.pairSend p.val 0xB []))

/-- The receipts of a fenced partition that its partner writes in its place, dropped (R552, R555). -/
def State.dropReceipts (s : State) (p : Nat) : State :=
  let port := s.partPort p
  (s.mailbags.map (·.1)).foldl (fun s k =>
    if k / 4096 = port then s.setMailbag port (k % 4096) { s.mailbag port (k % 4096) with receipts := [], tailDue := false, tellDue := false } else s) s

/-- A fenced partition that no partner replaces writes to the host again: its host-coherent lines first, its receipts after them (R433, R552). -/
def State.unmute (s : State) (p : Nat) : State := (s.setPair p { s.pair p with mayWrite := true }).flushHc p (fun _ => true)

/-- ACCEPT (R552, R555). -/
def execPairAccept (p : Fin 6) (seq : BitVec 64) (s : State) : Host.Outcome State Fault Refusal :=
  next (s.onMsg p.val seq (fun s =>
    if s.pairState p.val = 6 then (s.setPair p.val { s.pair p.val with accepted := true, mayWrite := false }).dropReceipts p.val else s))

/-- REFUSE (R552, R556): a fenced panel writes its receipts; a join ends with DETAIL 5. -/
def execPairRefuse (p : Fin 6) (seq : BitVec 64) (s : State) : Host.Outcome State Fault Refusal :=
  next (s.onMsg p.val seq (fun s =>
    let x := s.pair p.val
    if s.pairState p.val = 6 ∧ !x.accepted then s.unmute p.val
    else if x.joinWork.isSome then s.joinFails p.val 5
    else s))

/-- FENCED_TIMEOUT (R552): 200 µs without ACCEPT, and the lease word shows no other identity. -/
def execFencedTimeout (p : Fin 6) (word : BitVec 64) (s : State) : Host.Outcome State Fault Refusal :=
  let x := s.pair p.val
  next (if s.pairState p.val = 6 ∧ !x.accepted ∧ 200000 ≤ (s.tb.master - x.fencedAt).toNat ∧
      bitsOf word.toNat 32 32 = bitsOf s.trust.identity.toNat 0 32 then s.unmute p.val
    else s)

/-- WITHDRAW (R542, R549, R552, R556). -/
def execWithdraw (p : Fin 6) (seq : BitVec 64) (reason : BitVec 8) (s : State) : Host.Outcome State Fault Refusal :=
  next (s.onMsg p.val seq (fun s =>
    let s := s.setBit Reg.pairStatus 6
    let s := if reason = 2 then s.setBit Reg.pairStatus 7 else s
    if s.pairState p.val = 2 then s.goAlone p.val
    else if s.follows p.val then s.standDown p.val
    else if (s.pair p.val).joinWork.isSome then s.joinFails p.val 5
    else s))

/-! The other management operations (R557). -/

/-- PAIR_LEAVE (R556, R557). -/
def State.pairLeave (s : State) (k : Work) : State :=
  let p := k.part
  match s.pairState p with
  | 2 => ((s.serve1 k.id 0).sendWithdraw p 3).goAlone p
  | 3 => (s.serve1 k.id 0).detach p 3
  | 4 => if (s.pair p).joinWork.isSome then s.serve1 k.id 2 else ((s.sendWithdraw p 3).setPairState p 0).serve1 k.id 0
  | 5 => if (s.pair p).joinWork.isSome then s.serve1 k.id 2 else (((s.sendWithdraw p 3).dropMirrored p).setPairState p 0).serve1 k.id 0
  | 6 => ((s.sendWithdraw p 3).setPairState p 0).serve1 k.id 0
  | _ => s.serve1 k.id 2

/-- PAIR_LEAVE, OP 0x0402. -/
def execPairLeave (port : Fin 6) (s : State) : Host.Outcome State Fault Refusal := next (s.onMgmt port.val 0x0402 State.pairLeave)

/-- KiB of its journal that a partition uses (R557, R559). -/
def State.journalKib (s : State) (p : Nat) : Nat := (min (s.pair p).journal.length journalCap + 7) / 8

/-- PAIR_STATUS, OP 0x0403 (R557). -/
def execPairStatus (port : Fin 6) (s : State) : Host.Outcome State Fault Refusal :=
  next (s.onMgmt port.val 0x0403 (fun s k =>
    let p := k.part
    let up := fun (l : Nat) => if s.bit (Reg.pairLink l) 0 then 1 else 0
    s.serve1 k.id (s.pairState p + 8 * up 0 + 16 * up 1 + s.journalKib p * 2 ^ 16)))

end Sys2Proof.Machine
end

