-- ==== Sys2Proof/Machine/Losses.lean ====
section
/-! DEFINITION. The loss of an edge die or of the management die (R522 to R524, R662). -/

namespace Sys2Proof.Machine

/-- The record of an edge die's loss (R506): the lost unit, the attachment that declares it, and its course. -/
def State.edgeLoss (s : State) (code u : Nat) (p : Option Nat) : FaultRec :=
  let site := (attachments u).headD 0
  { FaultRec.plain code (unitDest u) (s.replica site) p with detail := [BitVec.ofNat 32 u, BitVec.ofNat 32 site, BitVec.ofNat 32 (edgeCourse u), 0, 0] }

/-- The courses that lead to a lost edge die (R372). -/
def State.loseCourses (s : State) (u : Nat) : State :=
  (attachments u).foldl (fun s site => (s.setField (Reg.courseState site (edgeCourse u)) 8 3 5).setBit (Reg.courseStatus site) 3) s

/-- A memory-interface die lost (R522). -/
def State.loseMid (s : State) (m : Nat) : State := (s.loseCourses (108 + m)).raise (s.edgeLoss 0x0702 (108 + m) (s.partOfSector m))

/-- A host-interface die lost (R523): its partitions stop, the links of its ports and its pair link are gone. -/
def State.loseHid (s : State) (h : Nat) : State :=
  let ports := (List.range 3).map (· + 3 * h)
  let s := s.loseCourses (116 + h)
  let bound := ports.filterMap s.boundTo
  let s := if bound = [] then s.raise (s.edgeLoss 0x0702 (116 + h) none)
    else bound.foldl (fun s p => s.raise (s.edgeLoss 0x0702 (116 + h) (some p))) s
  let s := ports.foldl (fun s port => if (s.port port).linkUp then s.linkLoss port false else s) s
  s.pairLinkDown h

/-- An edge die lost: memory-interface die u for u below 8, then the host-interface dies. -/
def State.edgeDieLost (s : State) (u : Nat) : State :=
  if s.deadUnits.contains (108 + u) then s
  else
    let s := { s with deadUnits := s.deadUnits ++ [108 + u] }
    if u < 8 then s.loseMid u else s.loseHid (u - 8)

/-- EDGE_DIE_LOST (R522, R523). -/
def execEdgeDieLost (unit : Fin 10) (s : State) : Host.Outcome State Fault Refusal := next (s.edgeDieLost unit.val)

/-- REFCLK_LOSS (R662): the loss of a reference is the loss of its die. -/
def execRefclkLoss (unit : Fin 10) (s : State) : Host.Outcome State Fault Refusal := next (s.edgeDieLost unit.val)

/-- MGD_LOST (R524): every replica holds its value, every die is paced by its own oscillator, and every partition stops or fails over. -/
def execMgdLost (s : State) : Host.Outcome State Fault Refusal :=
  next (if s.mgdLost then s
    else
      let s := (s.loseCourses 118).raise (s.edgeLoss 0x0804 118 none)
      let pace := (List.range 96).map (fun d => (d, 52 + (Config.localPace d).val))
      { s with deadUnits := s.deadUnits ++ [118], tb := { s.tb with running := false }, power := { s.power with pace := pace } })

end Sys2Proof.Machine
end

