-- ==== Sys2Proof/Machine/Start.lean ====
section
/-! DEFINITION. The module's power-up (R655 to R658), panel start (R595 to R602), the full census (R26, R27), and panel resets (R603, R614,
R615). -/

namespace Sys2Proof.Machine

/-! Power-up. -/

/-- A pre-charge begun; the next one is held off for 10 s (R657). -/
def State.precharge (s : State) : State := { s with shell := { s.shell with precharging := true, precharged := false, heldOff := false, holdoff := true } }

/-- PRECHARGE_BEGIN (R655, R657): input applied to a module whose main switch is open. -/
def execPrechargeBegin (s : State) : Host.Outcome State Fault Refusal :=
  next (if s.shell.switchClosed then s
    else if s.shell.holdoff then { s with shell := { s.shell with precharging := false, precharged := false, heldOff := true } }
    else s.precharge)

/-- PRECHARGE_HOLDOFF_END (R657): 10 s since the start of the last pre-charge. -/
def execPrechargeHoldoffEnd (s : State) : Host.Outcome State Fault Refusal :=
  next (if s.shell.heldOff then s.precharge else { s with shell := { s.shell with holdoff := false } })

/-- The main switch closed once the pre-charge is complete and the module seated (R656). -/
def State.closeSwitch (s : State) : State :=
  if s.shell.precharged ∧ s.shell.seated then { s with shell := { s.shell with switchClosed := true } } else s

/-- PRECHARGE_DONE (R656). -/
def execPrechargeDone (s : State) : Host.Outcome State Fault Refusal :=
  next (if s.shell.precharging then { s with shell := { s.shell with precharging := false, precharged := true } }.closeSwitch else s)

/-- MODULE_SEATED (R656). -/
def execModuleSeated (s : State) : Host.Outcome State Fault Refusal := next { s with shell := { s.shell with seated := true } }.closeSwitch

/-- CONVERTER_ENABLE (R656). -/
def execConverterEnable (s : State) : Host.Outcome State Fault Refusal :=
  next (if s.shell.switchClosed then { s with shell := { s.shell with converters := true } } else s)

/-- SETDASA (R663): target 0 is the register window, 1 the message endpoint. -/
def execSetdasa (target : Fin 2) (addr : BitVec 7) (s : State) : Host.Outcome State Fault Refusal :=
  next { s with shell := { s.shell with dynAddr := Tab.put s.shell.dynAddr target.val addr.toNat } }

/-! Panel resets. -/

/-- A panel reset for a cause (R512, R603, R620): what is fused, logged, stored or outside the panel stays, and start begins again at the next
t0. -/
def State.panelReset (s : State) (cause : Nat) (shell : Shell) : State :=
  let t := s.trust
  let f := s.faults
  let z := State.reset
  let z : State := { z with pending := s.pending, fresh := s.fresh, ids := s.ids, hbm := s.hbm, hbmCode := s.hbmCode, far := s.far, farPages := s.farPages,
                            hostOut := s.hostOut, shell := shell }
  let z : State := { z with
    mids := Tab.mapAll s.mids (fun _ x => { Mid.reset with farOwner := x.farOwner, farIndex := x.farIndex }),
    ports := Tab.mapAll s.ports (fun _ x => { Port.reset with perst := x.perst }),
    trust := { Trust.reset with orderD := t.orderD, debugBlown := t.debugBlown, secMin := t.secMin, identity := t.identity, fusedLanes := t.fusedLanes },
    faults := { FaultLog.reset with logged := f.logged, agedDies := f.agedDies, courseSites := f.courseSites, hbmRepairs := f.hbmRepairs,
                                    failedTests := f.failedTests } }
  z.setReg Reg.resetCause (BitVec.ofNat 32 cause)

/-- The shell once the converters have stopped and the main switch is open (R614, R658). -/
def Shell.stopped (x : Shell) : Shell := { x with converters := false, switchClosed := false, starting := false, farPerst := 0 }

/-- MOD_RESET (R600, R650). -/
def execModReset (s : State) : Host.Outcome State Fault Refusal := next (s.panelReset 1 { s.shell with starting := false, farPerst := 0 })

/-- MOD_PRESENT_REMOVED (R614, R658). -/
def execModPresentRemoved (s : State) : Host.Outcome State Fault Refusal := next (s.panelReset 4 { s.shell.stopped with seated := false })

/-- INPUT_OUT_OF_RANGE (R615): the input must be charged again. -/
def execInputOutOfRange (high : Bool) (s : State) : Host.Outcome State Fault Refusal :=
  next (s.panelReset (if high then 3 else 2) { s.shell.stopped with precharged := false, precharging := false })

/-! Start steps. -/

/-- PANEL_START (R595): t0, with the 6 V bus in regulation. -/
def execPanelStart (s : State) : Host.Outcome State Fault Refusal :=
  next (if s.shell.converters ∧ !s.shell.starting then { s with shell := { s.shell with starting := true } } else s)

/-- The master count begins (R57). -/
def State.startCount (s : State) : State := { s with tb := { s.tb with running := true, master := 0, replica := 0 } }

/-- TIMEBASE_LOCK (R57, R67): the first lock starts the count and ends start step 0; a later one ends holdover without correction. -/
def execTimebaseLock (s : State) : Host.Outcome State Fault Refusal :=
  next (if s.stepOpen 0 [] then (s.startCount.setBit Reg.tbStatus 0).doStep 0
    else if s.tb.relocking ∧ s.bit Reg.tbStatus 1 then
      let s := { s with tb := { s.tb with relocking := false } }
      ((s.clearBit Reg.tbStatus 1).setBit Reg.tbStatus 0).setBit Reg.tbStatus 9
    else s)

/-- TB_HOLDOVER_START (R597). -/
def execTbHoldoverStart (s : State) : Host.Outcome State Fault Refusal :=
  next (if s.stepOpen 0 [] then (s.startCount.refLost.setBit Reg.startStatus 1).doStep 0 else s)

/-- A host port out of its fundamental reset (R601): its controller runs, its link trains; where the reset took a bound port's link, the link
returns (R413, R602). -/
def State.portUp (s : State) (port : Nat) : State :=
  let x := s.port port
  if x.live ∧ !x.perst then
    let s := s.setPort port { x with linkUp := true, configReady := false, lost := false }
    if x.lost ∧ x.bound.isSome then s.setBit (Reg.portStatus port) 0 else s
  else s

/-- Every host port powered (R598, R601). -/
def State.portsLive (s : State) : State :=
  let s := s.setField Reg.startState 16 6 0x3F
  (List.range 6).foldl (fun s port => (s.setPort port { s.port port with live := true }).portUp port) s

/-- START_TRUST_DONE (R253, R462, R464, R598): the images verified and measured, the start's keys drawn; or start stops, and the host ports
enumerate. -/
def execStartTrustDone (image : Image) (s : State) : Host.Outcome State Fault Refusal :=
  next (if !s.stepOpen 1 [0] ∨ s.bit Reg.startStatus 0 then s
    else if !s.imageOk image then (s.setBit Reg.startStatus 0).portsLive
    else
      let (a, s) := (s.measure image).draw
      let (b, s) := s.draw
      let (c, s) := s.draw
      { s with trust := { s.trust with keySet := (Config.random a).truncate 17, keyHome := (Config.random b).truncate 41, mgmtKey := c } }.doStep 1)

/-- START_EDGE_DONE (R596, R601). -/
def execStartEdgeDone (s : State) : Host.Outcome State Fault Refusal := next (if s.stepOpen 2 [1] then s.portsLive.doStep 2 else s)

/-- PERST_RELEASE (R601). -/
def execPerstRelease (port : Fin 6) (s : State) : Host.Outcome State Fault Refusal :=
  let x := s.port port.val
  next (if x.perst then (s.setPort port.val { x with perst := false }).portUp port.val else s)

/-- START_POSTMASTER_DONE (R529, R596). -/
def execStartPostmasterDone (s : State) : Host.Outcome State Fault Refusal :=
  next (if s.stepOpen 3 [1] then { s with faults := { s.faults with kickedAt := s.tb.master } }.doStep 3 else s)

/-- SITE_TEST_DONE (R521, R596, R599): failures at consecutive censuses are counted. -/
def execSiteTestDone (pass : BitVec 108) (s : State) : Host.Outcome State Fault Refusal :=
  let s' := (List.range 108).foldl (fun (s : State) t =>
    let n := if pass.getLsbD t then 0 else Tab.getD s.faults.failedTests t 0 + 1
    { s with faults := { s.faults with failedTests := Tab.put s.faults.failedTests t n } }) s
  next (if s.stepOpen 4 [2] then (if pass = BitVec.allOnes 108 then s' else s'.setBit Reg.startStatus 2).doStep 4 else s)

/-- TUNING_DONE (R61, R364): every course tuned; every replica is loaded at the next broadcast. -/
def execTuningDone (fails : List LaneFail) (s : State) : Host.Outcome State Fault Refusal :=
  next (if !s.stepOpen 5 [4] then s
    else
      let s := (List.range 108).foldl (fun s t => s.tuneSite fails t) s
      let s := (List.range 108).foldl (fun s t => (List.range 4).foldl (fun s c => s.syncCourse t c) s) s
      { s with tb := { s.tb with skew := [], loading := List.range 118 } }.doStep 5)

/-! The full census. -/

/-- A site as a full census finds it (R26, R31, R367, R521, R590). -/
def State.censusSite (s : State) (site : Nat) : State :=
  let fails := Tab.getD s.faults.failedTests site 0
  if s.dieRetired site then s.setReg (Reg.siteState site) (siteWord site 4)
  else if 2 ≤ fails ∨ s.dieWorn site then s.retireDie site
  else if fails ≠ 0 ∨ s.faults.agedDies.contains site ∨ s.faults.courseSites.contains site then s.setReg (Reg.siteState site) (siteWord site 3)
  else if siteCol site = 4 then (s.setReg (Reg.siteState site) (siteWord site 2)).setBit Reg.censusState (16 + siteRow site)
  else s.setReg (Reg.siteState site) (useWord site (dieOfPos site) none)

/-- A sector's failed positions filled, or the sector left incomplete (R26, R27). -/
def State.censusSector (s : State) (k : Nat) : State :=
  let failed := s.lostIn k
  if (s.spares (k / 2)).length < failed.length then s.setBit Reg.censusState (8 + k)
  else failed.foldl (fun s i =>
    let pos := posSite (12 * k + i)
    match s.nearestSpare pos with
    | some t => s.assignSpare t pos
    | none => s) s

/-- A band treated: its sector with fewer failed positions first (R26). -/
def State.censusBand (s : State) (b : Nat) : State :=
  (sortBy (fun k => (s.lostIn k).length) [2 * b, 2 * b + 1]).foldl State.censusSector s

/-- CENSUS (R24 to R27, R596): the map of the start; every slice and array memory of a die in use is invalidated next. -/
def execCensus (s : State) : Host.Outcome State Fault Refusal :=
  next (if !s.stepOpen 6 [3, 5] then s
    else
      let s := (List.range 108).foldl State.censusSite s
      let s := (List.range 4).foldl State.censusBand s
      let s := { s with faults := { s.faults with courseSites := [], fencedAs := [] } }
      let s := (List.range 96).foldl (fun s d => if (s.siteOf d).isSome then s.invalidateDie d else s) s
      (s.setBit Reg.censusState 0).doStep 6)

/-- START_MARGIN_DONE (R588, R590, R596): the first margin reports, of every die in use. -/
def execStartMarginDone (reports : List MarginRep) (s : State) : Host.Outcome State Fault Refusal :=
  next (if s.stepOpen 7 [6] then (((reports.filter (fun r => (s.siteOf r.die.val).isSome)).foldl State.report s).reportsOut.nextRetune).doStep 7 else s)

/-- A stack trained (R316, R317, R599): the failed lanes of its pseudo-channels, given by channel and lane, moved to redundant ones and its logged
repairs and substitutions applied again, or failed. -/
def State.trainStack (s : State) (g : Nat) (failed : Bool) (lanes : List (Nat × Nat)) : State :=
  let used := fun (c : Nat) => ((lanes.filter (fun e => e.1 == c)).map (·.2)).eraseDups.length
  let m := s.mid (g / 4)
  let put := (List.range 32).foldl (fun t c => if used c = 0 then t else Tab.put t (laneKey g c 0) (used c)) m.lanesUsed
  let mine := s.faults.hbmRepairs.filter (fun e => e.1 == g)
  let subst := (mine.filter (fun e => e.2 % 2 == 1)).length
  let reg := Reg.stackState (g / 4) (g % 4)
  if failed ∨ (List.range 32).any (fun c => used c != 0 && decide (Config.hbmRedundantLanes < used c)) then (s.setField reg 0 2 2).setBit Reg.startStatus 3
  else (((s.setMid (g / 4) { m with lanesUsed := put }).setField reg 0 2 1).setField reg 8 7 (min subst 64)).setField reg 16 16 (mine.length - subst)

/-- HBM_TRAINING_DONE (R316, R317, R596): the stacks that failed in other ways, and the data lanes that failed their test. -/
def execHbmTrainingDone (failed : BitVec 32) (lanes : List (Fin 32 × Fin 32 × Fin 32)) (s : State) : Host.Outcome State Fault Refusal :=
  next (if s.stepOpen 9 [2] then ((List.range 32).foldl (fun s g =>
      s.trainStack g (failed.getLsbD g) ((lanes.filter (fun e => e.1.val == g)).map (fun e => (e.2.1.val, e.2.2.val)))) s).doStep 9 else s)

/-- START_FAR_DONE (R596, R599): every far port is up, or 45 s have passed. -/
def execStartFarDone (s : State) : Host.Outcome State Fault Refusal :=
  let up := (List.range 8).all (fun j => s.bit (Reg.farState j) 0)
  next (if s.stepOpen 10 [2] && (up || decide (45000000000 ≤ s.tb.master.toNat)) then (if up then s else s.setBit Reg.startStatus 4).doStep 10 else s)

/-- PANEL_READY (R596). -/
def execPanelReady (s : State) : Host.Outcome State Fault Refusal :=
  next (if s.stepOpen 11 (List.range 11) then
      (List.range 6).foldl (fun s port => s.setBit (Reg.portState port) 0) ((s.doStep 11).setBit Reg.startState 12)
    else s)

end Sys2Proof.Machine
end

