-- ==== Sys2Proof/Machine/FarPorts.lean ====
section
/-! DEFINITION. Far-memory expanders inserted, released, attached and removed (R327, R328, R616 to R619, R651). -/

namespace Sys2Proof.Machine

/-- F_j of an expander of so many GiB of raw capacity (R328). -/
def farGiB (raw : Nat) : Nat := min 4096 (raw * 255 / 256)

/-- An expander present and powered; one that the panel supports comes up (R327, R616). -/
def State.insertExpander (s : State) (j : Nat) (e : Expander) : State :=
  let s := { s with shell := { s.shell with farPerst := s.shell.farPerst ||| BitVec.ofNat 8 (2 ^ j) } }
  let s := (s.setBit (Reg.farHp j) 0).setBit (Reg.farHp j) 1
  if !e.supported ∨ e.width = 0 then s
  else
    let v := 1 + e.width.toNat * 2 + (if e.fullRate then 8 else 0) + farGiB e.rawGiB * 2 ^ 16
    ((s.setReg (Reg.farState j) (BitVec.ofNat 32 v)).setBit (Reg.farHp j) 2).setBit (Reg.farHp j) 8

/-- EXPANDER_INSERTED (R616): once the memory-interface die runs, and it is not lost. -/
def execExpanderInserted (port : Fin 8) (dev : Expander) (s : State) : Host.Outcome State Fault Refusal :=
  next (if s.stepDone 2 ∧ !s.bit (Reg.farState port.val) 0 ∧ !s.deadUnits.contains (108 + port.val) then s.insertExpander port.val dev else s)

/-- What an expander held is gone with it: the next one's pages have no tag of a partition. -/
def State.dropFar (s : State) (j : Nat) : State :=
  let s := { s with far := Mem.clear s.far (farKey j 0) (farKey (j + 1) 0),
                    farPages := Tab.keep s.farPages (fun g => decide (g < farPageKey j 0) || decide (farPageKey (j + 1) 0 ≤ g)) }
  s.setMid j { s.mid j with farOwner := 0, farIndex := 0 }

/-- A FAR_RELEASE in progress ended by the removal of its expander (R619): its entry is answered with DETAIL 1 (DESIGN CHOICE, log entry 60). -/
def State.endRelease (s : State) (j : Nat) : State := match (s.mid j).farReleasing with
  | none => s
  | some e => (s.setMid j { s.mid j with farReleasing := none }).serve1 e.1 1

/-- EXPANDER_REMOVED (R618, R619, R651): a port failure, unless the port was released or the expander was not up; a release in progress ends. -/
def execExpanderRemoved (port : Fin 8) (s : State) : Host.Outcome State Fault Refusal :=
  let j := port.val
  next (if !s.bit (Reg.farHp j) 0 then s
    else
      let s := { s with shell := { s.shell with farPerst := s.shell.farPerst &&& ~~~BitVec.ofNat 8 (2 ^ j) } }
      let s := (s.setField (Reg.farHp j) 0 4 0).setBit (Reg.farHp j) 9
      let s := if !s.bit (Reg.farState j) 0 then s
        else if (s.mid j).farReleased then (s.setField (Reg.farState j) 0 1 0).setMid j { s.mid j with farAttached := false }
        else s.farDown j
      let s := s.endRelease j
      (s.setReg (Reg.farState j) 0).dropFar j)

/-! Release and attachment. -/

/-- Whether a line lies in the region of a far port of a partition. -/
def State.atPort (s : State) (p port line : Nat) : Bool := match s.region p (128 * line) with
  | .far j => s.farPort p j == port
  | _ => false

/-- The lines of a far region taken from the L1s and side buffers of an array, dirty bytes merged at their homes (R283, R618). -/
def State.releaseArrayLines (s : State) (p port ga : Nat) : State :=
  let a := s.arr ga
  let mine := fun (l : Nat) => s.atPort p port l
  let dirty := sortBy (fun e => e.2.dirtySeq) (a.l1.filter (fun e => mine e.2.line && e.2.dirty != 0))
  let s := dirty.foldl (fun s e => (s.updateLine p e.2.line e.2.data e.2.dirty).l1Count ga 3) s
  if a.l1 = [] ∧ a.sideBuf = [] then s
  else s.setArr ga { s.arr ga with l1 := (s.arr ga).l1.filter (fun e => !mine e.2.line), sideBuf := (s.arr ga).sideBuf.filter (fun e => !mine e.1) }

/-- The lines of a far region taken from a home slice, what is dirty or dead written to memory (R260, R276, R618). -/
def State.releaseSliceLines (s : State) (p port d : Nat) : State :=
  let mine := fun (l : Nat) => s.atPort p port l
  let s := (((s.slice d).sums.map (·.line)).filter mine).foldl (fun s l => s.closeSum d p l) s
  let x := s.slice d
  let lines := (x.entries.flatMap (fun e => e.2.lines)).filter (fun l => mine l.line && !l.visitor && l.st != .filling)
  let s := lines.foldl (fun s l => s.evictLine d p l) s
  let x := s.slice d
  let drop := fun (o : Option SLine) => o.filter (fun l => !(mine l.line && l.st != .filling))
  if x.entries = [] ∧ x.side = [] then s
  else s.setSlice d { x with
    entries := (x.entries.map (fun e => (e.1, match drop e.2.s0, drop e.2.s1 with
      | none, some l => { e.2 with s0 := some l, s1 := none }
      | a, b => { e.2 with s0 := a, s1 := b }))).filter (fun e => e.2.lines != []),
    side := x.side.filter (fun e => !mine e.1) }

/-- The lines of a far region taken from the arrays and the slices of a list of dies, and what then waits at the port served (R618). -/
def State.releaseDies (s : State) (p port : Nat) (dies : List Nat) : State :=
  let s := (dies.flatMap (fun d => (List.range 8).map (· + 8 * d))).foldl (fun s ga => s.releaseArrayLines p port ga) s
  let s := State.serveFar port (fun _ => true) s.reads.length s
  let s := dies.foldl (fun s d => s.releaseSliceLines p port d) s
  State.serveFar port (fun _ => true) s.reads.length s

/-- FAR_RELEASE begun (R618): from here a courier that touches the region ends with FAR_DOWN, and every die of the partition has its lines of the
region to write back. -/
def State.farRelease (s : State) (k : Work) : State :=
  match s.farOperand k with
  | (none, s) => s.serve1 k.id 1
  | (some port, s) =>
    if (s.mid port).farReleased then s.serve1 k.id 2
    else (s.setMid port { s.mid port with farReleasing := some (k.id, s.partDies k.part) }).mgmtBegun k.id

/-- A release taken further by a die; after the last one, what came back meanwhile is given up too, and the port is released (R618). -/
def State.releaseNext (s : State) (p port id : Nat) : List Nat → State
  | d :: rest => ((s.setMid port { s.mid port with farReleasing := some (id, rest) }).releaseDies p port [d]).progressAll
  | [] =>
    let s := s.releaseDies p port (s.partDies p)
    let s := s.setMid port { s.mid port with farReleased := true, farReleasing := none, verified := [] }
    ((s.setBit (Reg.farHp port) 3).serve1 id 0).progressAll

/-- The far port that a partition is releasing, with the entry that asked for it and the dies still to be treated. -/
def State.releasing (s : State) (p : Nat) : Option (Nat × Nat × List Nat) :=
  (s.sectors p).findSome? (fun k => (s.mid k).farReleasing.map (fun e => (k, e)))

/-- FAR_RELEASE, OP 0x0600 (R618, R619): a release in progress goes on by a die (log entry 60), or the next entry of the port's queue begins one. -/
def execFarRelease (port : Fin 6) (s : State) : Host.Outcome State Fault Refusal :=
  next (match (s.boundTo port.val).bind (fun p => (s.releasing p).map (fun e => (p, e))) with
    | some (p, j, id, dies) => if s.mgdLost then s else s.releaseNext p j id dies
    | none => s.onMgmt port.val 0x0600 State.farRelease)

/-- FAR_ATTACH (R617). -/
def State.farAttach (s : State) (k : Work) : State :=
  match s.farOperand k with
  | (none, s) => s.serve1 k.id 1
  | (some port, s) =>
    if !s.bit (Reg.farState port) 0 then s.serve1 k.id 2
    else if s.field (Reg.farState port) 16 13 < s.farCap k.part (port - s.partK0 k.part) then s.serve1 k.id 4
    else
      let s := s.setMid port { s.mid port with farReleased := false, farAttached := true }
      (s.clearBit (Reg.farHp port) 3).serve1 k.id 0

/-- FAR_ATTACH, OP 0x0601. -/
def execFarAttach (port : Fin 6) (s : State) : Host.Outcome State Fault Refusal := next (s.onMgmt port.val 0x0601 State.farAttach)

end Sys2Proof.Machine
end

