-- ==== Sys2Proof/Machine/Debug.lean ====
section
/-! DEFINITION. The debug messages of a ZC-UX96-D (R622 to R639): the session, halting, stepping and resuming groups, and reading and
changing what a halted group owns. -/

namespace Sys2Proof.Machine

/-! The session (R622 to R625). -/

/-- A message of a session, by its OP: its tag and SEQ first, then the right it needs (0 HALT, 1 READ, 2 WRITE, 3 MEMORY), then what it does. The
path runs through the Postmaster, so there is none once the management die is lost (R524, R622). -/
def State.onDebug (s : State) (p op : Nat) (seq : W64) (tagOk : Bool) (right : Option Nat) (f : State → State) : State :=
  if s.mgdLost then s
  else if !s.trust.orderD then s.reply p op 0x0A []
  else if !s.bit (Reg.dbgPart p) 0 then s.reply p op 8 []
  else if !tagOk ∨ seq.toNat ≤ (s.dbgOf p).rxSeq.toNat then s
  else
    let s := s.setDbg p { s.dbgOf p with rxSeq := seq }
    match right with
    | some r => if s.bit (Reg.keyState p) (17 + r) then f s else s.reply p op 1 []
    | none => f s

/-- DBG_HELLO (R624). -/
def State.dbgHello (s : State) (p : Nat) : State :=
  if s.mgdLost then s
  else if !s.trust.orderD then s.reply p 1 0x0A []
  else
    let (k, s) := s.draw
    let n : BitVec 256 := (Config.random k).truncate 256
    (s.setDbg p { s.dbgOf p with nonce := n, nonceGiven := true }).reply p 1 0 (byteList n.toNat 32)

/-- DBG_HELLO. -/
def execDbgHello (p : Fin 6) (s : State) : Host.Outcome State Fault Refusal := next (s.dbgHello p.val)

/-- DBG_OPEN (R624, R625): the key's digest against the grant's DEBUGGER, the signature over the nonce given last. -/
def State.dbgOpen (s : State) (p : Nat) (keyHash : BitVec 384) (sigOk : Bool) : State :=
  if s.mgdLost then s
  else if !s.trust.orderD then s.reply p 2 0x0A []
  else if !s.bit (Reg.keyState p) 16 ∨ !(s.dbgOf p).nonceGiven ∨ keyHash ≠ (s.keysOf p).debugger ∨ !sigOk then
    (s.setBit Reg.dbgStatus 1).reply p 2 9 []
  else
    let s := s.endSession p
    let x := s.dbgOf p
    let s := s.setDbg p { x with nonceGiven := false, rxSeq := 0, txSeq := 0, key := debugKey x.nonce (Config.ecdhX s.fresh) }
    let (b, s) := s.opaqueBytes 96
    ((s.setBit (Reg.dbgPart p) 0).setBit Reg.dbgStatus 0).reply p 2 0 b

/-- DBG_OPEN. -/
def execDbgOpen (p : Fin 6) (keyHash : BitVec 384) (sigOk : Bool) (s : State) : Host.Outcome State Fault Refusal :=
  next (s.dbgOpen p.val keyHash sigOk)

/-- DBG_CLOSE (R625). -/
def execDbgClose (p : Fin 6) (seq : BitVec 64) (tagOk : Bool) (s : State) : Host.Outcome State Fault Refusal :=
  next (s.onDebug p.val 0x7F seq tagOk none (fun s => (s.reply p.val 0x7F 0 []).endSession p.val))

/-! The groups a message names. -/

/-- The group at a global array and slot of a partition, with its block. -/
def State.dbgGroup (s : State) (p ga slot : Nat) : Option (Group × Block) :=
  if !(s.partArrays p).contains ga then none
  else match s.group ga slot with
  | none => none
  | some g => (s.block ga g.block).map (fun k => (g, k))

/-- Whether the session holds a group, and whether it holds it halted (R626): all it issued has completed. -/
def State.dbgHolds (s : State) (p ga slot : Nat) (g : Group) : Bool := g.held && (s.dbgOf p).held.contains (ga, slot)
def State.dbgHalted (s : State) (p ga slot : Nat) (g : Group) : Bool := s.dbgHolds p ga slot g && g.quiet

/-- A message about one group that the session must hold halted. -/
def State.onHalted (s : State) (p op : Nat) (t : DbgGroup) (f : State → Group → Block → State) : State :=
  match s.dbgGroup p t.arr.toNat t.slot.toNat with
  | none => s.reply p op 3 []
  | some (g, k) => if s.dbgHalted p t.arr.toNat t.slot.toNat g then f s g k else s.reply p op 2 []

/-- A write under WRITE or MEMORY (R636, R638, R639): refused in a paired partition and, where it is to a block, in one that a fault or a stop
halted; performed, it sets WRITTEN. -/
def State.dbgWrite (s : State) (p op : Nat) (halted : Bool) (f : State → State) : State :=
  if 1 ≤ s.pairState p ∧ s.pairState p ≤ 3 then s.reply p op 6 []
  else if halted then s.reply p op 5 []
  else ((f s).setBit (Reg.dbgPart p) 1).reply p op 0 []

/-! Halting (R626, R628). -/

/-- The response to a halt: at once where the groups have completed all they issued, else once they have (R626). -/
def State.haltReply (s : State) (p op : Nat) (groups : List (Nat × Nat)) (data : List Nat) : State :=
  let x := s.dbgOf p
  if groups.all (fun e => (s.group e.1 e.2).all (·.quiet)) then s.reply p op 0 data
  else s.setDbg p { x with halts := x.halts ++ [{ op := op, groups := groups, data := data }] }

/-- HALT_GROUP (R626). -/
def State.haltGroup (s : State) (p : Nat) (t : DbgGroup) : State :=
  match s.dbgGroup p t.arr.toNat t.slot.toNat with
  | none => s.reply p 0x10 3 []
  | some _ => (s.holdGroup p t.arr.toNat t.slot.toNat).haltReply p 0x10 [(t.arr.toNat, t.slot.toNat)] []

/-- HALT_GROUP. -/
def execHaltGroup (p : Fin 6) (seq : BitVec 64) (tagOk : Bool) (g : DbgGroup) (s : State) : Host.Outcome State Fault Refusal :=
  next (s.onDebug p.val 0x10 seq tagOk (some 0) (fun s => s.haltGroup p.val g))

/-- The slots of a block's groups. -/
def State.slotsOf (s : State) (ga bs : Nat) : List Nat := ((s.arr ga).groups.filter (fun e => e.2.block == bs)).map (·.1)

/-- HALT_LAUNCH (R627, R628): no further block assigned, every resident group halted, an event for each that was not. -/
def State.haltLaunch (s : State) (p m : Nat) (seq : W64) : State :=
  match s.works.find? (fun k => k.part == p && k.type == 1 && k.mailbag == m && k.seq == seq && k.phase != WPhase.finished) with
  | none => s.reply p 0x11 3 []
  | some k =>
    let x := s.dbgOf p
    let s := s.setDbg p { x with heldLaunches := if x.heldLaunches.contains k.id then x.heldLaunches else x.heldLaunches ++ [k.id] }
    let targets := (s.launchBlocks k.id).flatMap (fun b => (s.slotsOf b.1 b.2).map (fun slot => (b.1, slot)))
    let s := targets.foldl (fun s t => match s.group t.1 t.2 with
      | some g => if g.held then s else (s.holdGroup p t.1 t.2).dbgEvent p t.1 t.2 3 0 g.standsAt
      | none => s) s
    s.haltReply p 0x11 targets (byteList targets.length 2)

/-- HALT_LAUNCH. -/
def execHaltLaunch (p : Fin 6) (seq : BitVec 64) (tagOk : Bool) (m : BitVec 16) (entrySeq : BitVec 64) (s : State) :
    Host.Outcome State Fault Refusal :=
  next (s.onDebug p.val 0x11 seq tagOk (some 0) (fun s => s.haltLaunch p.val m.toNat entrySeq))

/-! Stepping and resuming (R633, R634). -/

/-- STEP (R633): the hold lifted for so many instructions, which issue in the steps of the array; the response follows when it ends. -/
def State.dbgStep (s : State) (p : Nat) (t : DbgGroup) (count : Nat) : State :=
  let ga := t.arr.toNat
  let slot := t.slot.toNat
  if count = 0 ∨ 256 < count then s.reply p 0x12 7 []
  else s.onHalted p 0x12 t (fun s g k =>
    if k.halted then s.reply p 0x12 5 []
    else
      let x := s.dbgOf p
      let r : DbgRun := { arr := ga, slot := slot, left := count, issued := 0, waited := 0 }
      (s.setDbg p { x with steps := x.steps ++ [r] }).setGroup ga slot { g with held := false })

/-- STEP. -/
def execDbgStep (p : Fin 6) (seq : BitVec 64) (tagOk : Bool) (g : DbgGroup) (count : BitVec 16) (s : State) : Host.Outcome State Fault Refusal :=
  next (s.onDebug p.val 0x12 seq tagOk (some 0) (fun s => s.dbgStep p.val g count.toNat))

/-- Groups released by RESUME; once the session holds none, its launches are dispatched again (R628, R634). -/
def State.resumeGroups (s : State) (p : Nat) (l : List (Nat × Nat)) : State :=
  let s := l.foldl (fun s e => match s.group e.1 e.2 with
    | some g => s.setGroup e.1 e.2 { g with held := false }
    | none => s) s
  let s := s.setDbg p { s.dbgOf p with held := (s.dbgOf p).held.filter (fun e => !l.contains e) }
  if s.heldGroups p = [] then s.setDbg p { s.dbgOf p with heldLaunches := [] } else s

/-- RESUME (R634, R636): one group, or every one the session holds in a block that is not halted. -/
def State.dbgResume (s : State) (p : Nat) (t : DbgGroup) : State :=
  if t.arr = 0xFFFF then (s.resumeGroups p ((s.heldGroups p).filter (fun e => !s.blockHalted e.1 e.2))).reply p 0x13 0 []
  else match s.dbgGroup p t.arr.toNat t.slot.toNat with
    | none => s.reply p 0x13 3 []
    | some (g, k) =>
      if !s.dbgHolds p t.arr.toNat t.slot.toNat g then s.reply p 0x13 2 []
      else if k.halted then s.reply p 0x13 5 []
      else (s.resumeGroups p [(t.arr.toNat, t.slot.toNat)]).reply p 0x13 0 []

/-- RESUME. -/
def execResume (p : Fin 6) (seq : BitVec 64) (tagOk : Bool) (g : DbgGroup) (s : State) : Host.Outcome State Fault Refusal :=
  next (s.onDebug p.val 0x13 seq tagOk (some 0) (fun s => s.dbgResume p.val g))

/-! Breakpoints and events (R627). -/

/-- BREAK_SET (R627). -/
def State.breakSet (s : State) (p i : Nat) (addr : W64) : State :=
  if 7 < i ∨ addr.toNat % 16 ≠ 0 then s.reply p 0x14 7 []
  else
    let x := s.dbgOf p
    let on := decide (addr ≠ 0)
    let s := s.setDbg p { x with breaks := if on then Tab.put x.breaks i addr else Tab.erase x.breaks i }
    (s.setField (Reg.dbgPart p) (8 + i) 1 (if on then 1 else 0)).reply p 0x14 0 []

/-- BREAK_SET. -/
def execBreakSet (p : Fin 6) (seq : BitVec 64) (tagOk : Bool) (index : BitVec 8) (addr : BitVec 64) (s : State) :
    Host.Outcome State Fault Refusal :=
  next (s.onDebug p.val 0x14 seq tagOk (some 0) (fun s => s.breakSet p.val index.toNat addr))

/-- An event record of 32 bytes (R627). -/
def DbgEvent.bytes (e : DbgEvent) : List Nat :=
  byteList e.arr 2 ++ byteList e.slot 1 ++ byteList e.cause 1 ++ byteList e.brk 1 ++ byteList 0 3 ++ byteList e.pc.toNat 8 ++
    byteList e.time.toNat 8 ++ byteList 0 8

/-- EVENTS (R627): the oldest 32 records leave the queue. -/
def State.dbgEvents (s : State) (p : Nat) : State :=
  let x := s.dbgOf p
  (s.setDbg p { x with events := x.events.drop 32 }).reply p 0x15 0 ((x.events.take 32).flatMap DbgEvent.bytes)

/-- EVENTS. -/
def execEvents (p : Fin 6) (seq : BitVec 64) (tagOk : Bool) (s : State) : Host.Outcome State Fault Refusal :=
  next (s.onDebug p.val 0x15 seq tagOk (some 0) (fun s => s.dbgEvents p.val))

/-! A group's own state (R159, R629). -/

/-- The thread state item 4 shows of a subgroup of a held group: a wait at a barrier, a collective or a tile that it keeps, a stop, or Halted. -/
def Sub.shown (u : Sub) : Fin 5 :=
  if u.stopped then 3
  else match u.wait with
    | .barrier _ => 1
    | .collective => 1
    | .tile _ _ _ => 1
    | _ => 4

/-- A group's subgroups in ascending order of their lowest lane. -/
def Group.ordered (g : Group) : List Sub := sortBy (fun u => lowLane u.lanes) (g.subs.filter (fun u => u.lanes != 0))

/-- A subgroup as item 4 lays it out, in 48 bytes (R629). -/
def Sub.bytes (u : Sub) : List Nat :=
  byteList u.lanes.toNat 4 ++ byteList u.pc.toNat 8 ++ [(Config.threadCode u.shown).toNat] ++ byteList u.stack.length 1 ++ byteList 0 2 ++
    byteList u.yieldCount 4 ++ (List.range 7).flatMap (fun i => byteList ((u.stack.map (fun e => e.1.toNat / 16)).getD i 0) 4)

/-- The bytes of an item (R629). -/
def itemSize (k : Block) (g : Group) (item : Nat) : Nat :=
  match item with
  | 0 => 128 * k.regs
  | 1 => 256
  | 2 => 32
  | 3 => 1
  | 4 => 48 * g.ordered.length
  | _ => 0

/-- Byte i of an item (R629). -/
def itemByte (k : Block) (g : Group) (item i : Nat) : Nat :=
  match item with
  | 0 => bitsOf (g.treg (i / 4 / k.regs) (i / 4 % k.regs)).toNat (8 * (i % 4)) 8
  | 1 => bitsOf (g.ureg (i / 4)).toNat (8 * (i % 4)) 8
  | 2 => (Tab.getD g.preds i 0).toNat
  | 3 => g.fpflags.toNat
  | 4 => ((g.ordered[i / 48]?).map (fun u => u.bytes.getD (i % 48) 0)).getD 0
  | _ => 0

/-- READ_GROUP (R629). -/
def State.dbgReadGroup (s : State) (p : Nat) (t : DbgGroup) (item off len : Nat) : State :=
  if 4 < item ∨ 1024 < len then s.reply p 0x20 7 []
  else s.onHalted p 0x20 t (fun s g k =>
    if itemSize k g item < off + len then s.reply p 0x20 7 []
    else s.reply p 0x20 0 ((List.range len).map (fun i => itemByte k g item (off + i))))

/-- READ_GROUP. -/
def execReadGroup (p : Fin 6) (seq : BitVec 64) (tagOk : Bool) (g : DbgGroup) (item : BitVec 8) (offset : BitVec 32) (length : BitVec 16) (s : State) :
    Host.Outcome State Fault Refusal :=
  next (s.onDebug p.val 0x20 seq tagOk (some 1) (fun s => s.dbgReadGroup p.val g item.toNat offset.toNat length.toNat))

/-- A register word with byte i replaced. -/
def putByte (x : W32) (i b : Nat) : W32 := BitVec.ofNat 32 (withBits x.toNat (8 * i) 8 b)

/-- A group with byte i of item 0, 1, 2 or 3 written (R629). -/
def Group.putItem (k : Block) (g : Group) (item i b : Nat) : Group :=
  match item with
  | 0 =>
    let lane := i / 4 / k.regs
    let r := i / 4 % k.regs
    g.setTreg lane r (putByte (g.treg lane r) (i % 4) b)
  | 1 => g.setUreg (i / 4) (putByte (g.ureg (i / 4)) (i % 4) b)
  | 2 => { g with preds := Tab.put g.preds i (BitVec.ofNat 8 b) }
  | _ => { g with fpflags := BitVec.ofNat 5 b }

/-- The subgroups that a write to item 4 asks for: next addresses alone may change, to others in the text (R629). None when it is malformed. -/
def Group.putSubs (k : Block) (g : Group) (off : Nat) (data : List Nat) : Option Group :=
  let old := g.ordered.flatMap Sub.bytes
  let new := old.take off ++ data ++ old.drop (off + data.length)
  let addr := fun (i : Nat) => (List.range 8).foldl (fun n j => n + new.getD (48 * i + 4 + j) 0 * 256 ^ j) 0
  let free := fun (i : Nat) => decide (4 ≤ i % 48) && decide (i % 48 < 12)
  let n := g.ordered.length
  let same := (List.range (48 * n)).all (fun i => free i || new.getD i 0 == old.getD i 0)
  let sound := (List.range n).all (fun i => match g.ordered[i]? with
    | some u => addr i == u.pc.toNat || (addr i % 16 == 0 && k.inText (BitVec.ofNat 64 (addr i)))
    | none => true)
  if !same ∨ !sound then none
  else some ((List.range n).foldl (fun x i => match g.ordered[i]? with
    | some u => x.setSub u.lanes { u with pc := BitVec.ofNat 64 (addr i) }
    | none => x) g)

/-- The group that a write to an item leaves, or none when the write is malformed (R629). -/
def Group.written (k : Block) (g : Group) (item off : Nat) (data : List Nat) : Option Group :=
  if item = 4 then g.putSubs k off data
  else if item = 3 ∧ data.any (fun b => decide (32 ≤ b)) then none
  else some (((List.range data.length).zip data).foldl (fun g e => g.putItem k item (off + e.1) e.2) g)

/-- WRITE_GROUP (R629). -/
def State.dbgWriteGroup (s : State) (p : Nat) (t : DbgGroup) (item off : Nat) (data : List Nat) : State :=
  if 4 < item ∨ 1024 < data.length then s.reply p 0x28 7 []
  else s.onHalted p 0x28 t (fun s g k =>
    if itemSize k g item < off + data.length then s.reply p 0x28 7 []
    else match g.written k item off data with
      | none => s.reply p 0x28 7 []
      | some x => s.dbgWrite p 0x28 k.halted (fun s => s.setGroup t.arr.toNat t.slot.toNat x))

/-- WRITE_GROUP. -/
def execWriteGroup (p : Fin 6) (seq : BitVec 64) (tagOk : Bool) (g : DbgGroup) (item : BitVec 8) (offset : BitVec 32) (data : List (BitVec 8))
    (s : State) : Host.Outcome State Fault Refusal :=
  next (s.onDebug p.val 0x28 seq tagOk (some 2) (fun s => s.dbgWriteGroup p.val g item.toNat offset.toNat (data.map (·.toNat))))

/-! Ledger tiles (R630). -/

/-- The code of a tag (R630). -/
def LTag.code : LTag → Nat
  | .finite => 0
  | .posInf => 1
  | .negInf => 2
  | .nan => 3

/-- The tag of a code. -/
def LTag.ofCode (n : Nat) : LTag := if n = 0 then .finite else if n = 1 then .posInf else if n = 2 then .negInf else .nan

/-- An element of a tile, in 24 bytes (R630). -/
def Tile.elemBytes (t : Tile) (e : Nat) : List Nat :=
  byteList (Tab.getD t.accs e 0).toNat 18 ++ [(Tab.getD t.tags e .finite).code] ++ byteList 0 1 ++ byteList (wrapInt 16 t.w) 2 ++ byteList 0 2

/-- A message about rows of a tile that a halted group owns (R630): the tile and the owner's block. -/
def State.onDbgTile (s : State) (p op : Nat) (t : DbgTile) (f : State → Tile → Block → State) : State :=
  let ga := t.arr.toNat
  if t.rows = 0 ∨ 32 < t.row.toNat + t.rows.toNat then s.reply p op 7 []
  else if !(s.partArrays p).contains ga ∨ 4 ≤ t.quarter.toNat ∨ 4 ≤ t.tile.toNat then s.reply p op 3 []
  else match Tab.get (s.arr ga).tiles (4 * t.quarter.toNat + t.tile.toNat) with
    | none => s.reply p op 2 []
    | some x => match s.dbgGroup p ga x.owner with
      | some (g, k) => if s.dbgHalted p ga x.owner g then f s x k else s.reply p op 2 []
      | none => s.reply p op 2 []

/-- The elements of the rows a message names. -/
def tileElems (t : DbgTile) : List Nat := (List.range (32 * t.rows.toNat)).map (· + 32 * t.row.toNat)

/-- READ_TILE. -/
def execReadTile (p : Fin 6) (seq : BitVec 64) (tagOk : Bool) (t : DbgTile) (s : State) : Host.Outcome State Fault Refusal :=
  next (s.onDebug p.val 0x21 seq tagOk (some 1) (fun s => s.onDbgTile p.val 0x21 t (fun s x _ =>
    s.reply p.val 0x21 0 ((tileElems t).flatMap x.elemBytes ++ byteList x.stat 4))))

/-- A tile with elements written: accumulators and tags (R630). -/
def Tile.putElems (x : Tile) (first : Nat) (rows : List (BitVec 192)) : Tile :=
  ((List.range rows.length).zip rows).foldl (fun (x : Tile) e =>
    { x with accs := Tab.put x.accs (first + e.1) (e.2.truncate 144),
             tags := Tab.put x.tags (first + e.1) (LTag.ofCode (bitsOf e.2.toNat 144 8)) }) x

/-- WRITE_TILE (R630). -/
def State.dbgWriteTile (s : State) (p : Nat) (t : DbgTile) (rows : List (BitVec 192)) : State :=
  if rows.length ≠ 32 * t.rows.toNat ∨ rows.any (fun e => decide (3 < bitsOf e.toNat 144 8)) then s.reply p 0x29 7 []
  else s.onDbgTile p 0x29 t (fun s x k => s.dbgWrite p 0x29 k.halted (fun s =>
    let a := s.arr t.arr.toNat
    s.setArr t.arr.toNat { a with tiles := Tab.put a.tiles (4 * t.quarter.toNat + t.tile.toNat) (x.putElems (32 * t.row.toNat) rows) }))

/-- WRITE_TILE. -/
def execWriteTile (p : Fin 6) (seq : BitVec 64) (tagOk : Bool) (t : DbgTile) (rows : List (BitVec 192)) (s : State) :
    Host.Outcome State Fault Refusal :=
  next (s.onDebug p.val 0x29 seq tagOk (some 2) (fun s => s.dbgWriteTile p.val t rows))

/-! Local store (R631). -/

/-- A message about the local store of a block of which the session holds a group halted; `t` names the block slot. -/
def State.onLocal (s : State) (p op : Nat) (t : DbgGroup) (off len : Nat) (f : State → Block → State) : State :=
  let ga := t.arr.toNat
  let bs := t.slot.toNat
  if 1024 < len then s.reply p op 7 []
  else if !(s.partArrays p).contains ga then s.reply p op 3 []
  else match s.block ga bs with
    | none => s.reply p op 3 []
    | some k =>
      if !(s.arr ga).groups.any (fun e => e.2.block == bs && s.dbgHalted p ga e.1 e.2) then s.reply p op 2 []
      else if 16384 * k.units.length < off + len then s.reply p op 7 []
      else f s k

/-- READ_LOCAL. -/
def execReadLocal (p : Fin 6) (seq : BitVec 64) (tagOk : Bool) (g : DbgGroup) (offset : BitVec 32) (length : BitVec 16) (s : State) :
    Host.Outcome State Fault Refusal :=
  next (s.onDebug p.val 0x22 seq tagOk (some 1) (fun s => s.onLocal p.val 0x22 g offset.toNat length.toNat (fun s k =>
    s.reply p.val 0x22 0 ((List.range length.toNat).map (fun i => (Mem.read (s.arr g.arr.toNat).localMem (localKey k (offset.toNat + i))).toNat)))))

/-- WRITE_LOCAL. -/
def execWriteLocal (p : Fin 6) (seq : BitVec 64) (tagOk : Bool) (g : DbgGroup) (offset : BitVec 32) (data : List (BitVec 8)) (s : State) :
    Host.Outcome State Fault Refusal :=
  next (s.onDebug p.val 0x2A seq tagOk (some 2) (fun s => s.onLocal p.val 0x2A g offset.toNat data.length (fun s k =>
    s.dbgWrite p.val 0x2A k.halted (fun s =>
      let a := s.arr g.arr.toNat
      s.setArr g.arr.toNat { a with localMem := ((List.range data.length).zip data).foldl (fun m e =>
        Mem.write m (localKey k (offset.toNat + e.1)) e.2) a.localMem }))))

/-! Memory (R632). -/

/-- Whether a line of the host-coherent region is not resident, so that the host holds it. -/
def State.atHost (s : State) (p line : Nat) : Bool :=
  decide (hcStart ≤ 128 * line) && ((s.slice (s.homeDie p line)).line? (s.setOf line) line false).isNone

/-- A line read for the debugger: a dead line as zeros without a record, a poisoned one with free bytes. -/
def State.dbgLine (s : State) (p line : Nat) : LineData × State :=
  if s.atHost p line then s.hostLine
  else
    let s := s.closeFor p line
    match s.lineNow p line with
    | (.live, data) => (data, s)
    | (.dead, _) => (0, s)
    | (_, _) => s.hostLine

/-- Bytes of a line written for the debugger. -/
def State.dbgPutLine (s : State) (p line : Nat) (data : LineData) (mask : ByteMask) : State :=
  if 128 * line < hcStart then s.updateLine p line data mask
  else match (s.slice (s.homeDie p line)).line? (s.setOf line) line false with
    | some l => (s.storeLine (s.homeDie p line) p (l.stored data mask)).uncrowd (s.homeDie p line) p line
    | none => s.hostPost p 0 0 0 (s.hcHost p (128 * line)) data mask

/-- A message about partition memory: HBM, a far port's region or the host-coherent region (R632). -/
def State.onMemory (s : State) (p op addr len : Nat) (f : State → State) : State :=
  if 1024 < len then s.reply p op 7 []
  else if hostStart ≤ addr ∨ !s.rangeIn p wholeSnap addr (max len 1) then s.reply p op 3 []
  else f s

/-- READ_MEM (R632). -/
def State.dbgReadMem (s : State) (p addr len : Nat) : State :=
  s.onMemory p 0x30 addr len (fun s =>
    let r := (List.range ((addr % 128 + len + 127) / 128)).foldl (fun (acc : List Nat × State) i =>
      let t := acc.2.dbgLine p (addr / 128 + i)
      (acc.1 ++ byteList t.1.toNat 128, t.2)) ([], s)
    r.2.reply p 0x30 0 ((r.1.drop (addr % 128)).take len))

/-- READ_MEM. -/
def execReadMem (p : Fin 6) (seq : BitVec 64) (tagOk : Bool) (addr : BitVec 64) (length : BitVec 16) (s : State) :
    Host.Outcome State Fault Refusal :=
  next (s.onDebug p.val 0x30 seq tagOk (some 3) (fun s => s.dbgReadMem p.val addr.toNat length.toNat))

/-- WRITE_MEM (R632): line by line at the lines' homes. -/
def State.dbgWriteMem (s : State) (p addr : Nat) (data : List (BitVec 8)) : State :=
  let o := addr % 128
  let n := data.length
  let v := data.foldr (fun b x => b.toNat + 256 * x) 0 * 2 ^ (8 * o)
  let m := (2 ^ n - 1) * 2 ^ o
  s.onMemory p 0x31 addr n (fun s => s.dbgWrite p 0x31 false (fun s =>
    (List.range ((o + n + 127) / 128)).foldl (fun s i =>
      s.dbgPutLine p (addr / 128 + i) (BitVec.ofNat 1024 (v / 2 ^ (1024 * i))) (BitVec.ofNat 128 (m / 2 ^ (128 * i)))) s))

/-- WRITE_MEM. -/
def execWriteMem (p : Fin 6) (seq : BitVec 64) (tagOk : Bool) (addr : BitVec 64) (data : List (BitVec 8)) (s : State) :
    Host.Outcome State Fault Refusal :=
  next (s.onDebug p.val 0x31 seq tagOk (some 3) (fun s => s.dbgWriteMem p.val addr.toNat data))

end Sys2Proof.Machine
end

