-- ==== Sys2Proof/Machine/Registers.lean ====
section
/-! DEFINITION. Registers as agents meet them (R10 to R12, R32 to R34, R68): what a read returns, what it latches, what is withheld from the
Postmaster (R491), and what a write does (R671). -/

namespace Sys2Proof.Machine

/-- The address under which the state holds a register: a CDIE window is the SITE window of the site that holds the logical die (R34). -/
def State.home (s : State) (a : Nat) : Nat :=
  if 0x10000000 ≤ a ∧ a < 0x16000000 then
    match s.siteOf ((a - 0x10000000) / 0x100000) with
    | some site => Base.site site + a % 0x100000
    | none => 0xFFFFFFFC
  else a

/-- The logical die a site holds. -/
def State.dieAt (s : State) (site : Nat) : Option Nat := if s.siteState site = 1 then some (s.siteDie site) else none

/-! What registers show of the state's own structures. -/

/-- ARR_STATE and ARR_QUARTER (R124). -/
def Arr.stateWord (a : Arr) : Nat :=
  (if a.groups = [] then 1 else 0) + a.lsBanks * 2 ^ 4 + a.blocks.length * 2 ^ 8 + a.groups.length * 2 ^ 16 + (if a.reconfig.isSome then 2 ^ 23 else 0)
def Arr.quarterWord (a : Arr) : Nat :=
  (List.range 4).foldl (fun x q => x + (a.groups.filter (fun e => e.1 / 16 == q)).length * 2 ^ (8 * q)) 0

/-- CR_STATE but for STOPPED (R346). -/
def Courier.stateWord (x : Courier) : Nat :=
  (match x.st with
    | .idle => 0
    | .running => 1
    | .gated => 2
    | .stopped => 3) + x.lastStatus * 2 ^ 8 + (if x.st == .idle then 7 else x.part) * 2 ^ 16

/-- The courier whose registers lie at an offset of a COURIER block: of the die at a site, or of memory-interface die u - 108 (R345, R346). -/
def State.courierAt (s : State) (u off : Nat) : Option Nat :=
  if 108 ≤ u then some (384 + 8 * (u - 108) + off / 0x40)
  else (s.dieAt u).map (fun d => 4 * d + off / 0x40)

/-- The head record of the panel queue, with what R511 withholds while the fault's partition is not UNKEYED. -/
def State.faultHead (s : State) : Nat :=
  match s.faults.queue with
  | [] => 0
  | r :: _ =>
    let number := s.faults.queued - s.faults.queue.length
    let hidden := match r.part with
      | some p => s.keyState p != 0
      | none => false
    let r := if hidden then { r with slice := 0, mailbag := 0, seq := 0, addr := 0, detail := [] } else r
    r.header 0 number (r.detail.getD 5 0).toNat

/-- RETIRE[i] (R512). -/
def retireWord : Option Retire → Nat
  | none => 0
  | some r => if r.cell then 1 + r.site * 2 ^ 2 + r.number * 2 ^ 9 else 2 + r.site * 2 ^ 2

/-- DF_CELLS[q] of a site (R530). -/
def State.cellsWord (s : State) (site q : Nat) : Nat :=
  ((s.retired.filter (fun r => r.cell && r.site == site && r.number / 32 == q)).map (fun r => 2 ^ (r.number % 32))).eraseDups.foldl (· + ·) 0

/-- Entries of a partition forwarded, or received, that have no DONE yet (R559). -/
def State.pairLag (s : State) (p : Nat) : Nat :=
  let done := (s.pair p).partnerDone
  (s.works.filter (fun k => k.part == p && k.fwd != 0 && !s.receipted k && !done.any (fun e => e.mailbag == k.mailbag && e.seq == k.seq))).length

/-- What a register of a PORT block shows (R377, R422, R423, R530): nothing but PORT_STATE while the port is not bound. -/
def State.showPort (s : State) (port off : Nat) (w : Nat) : Nat :=
  if off = 0 then w
  else if (s.boundTo port).isNone then 0
  else match off with
  | 0x20 => bitsOf (s.port port).ptmLocal.toNat 0 32
  | 0x3008 => (s.port port).fcount.toNat
  | _ => w

/-- What a register of a letterbox page shows (R377, R424). -/
def State.showLetterbox (s : State) (unit off w : Nat) : Nat :=
  let port := unit / 64
  let m := unit % 64 * 64 + (off - 0x800) / 32
  if (s.boundTo port).isNone then 0
  else if off < 0x800 then 0
  else match off % 32 with
  | 0x18 => (s.mailbag port m).head.toNat
  | 0x1C => bitsOf (s.mailbag port m).rcount.toNat 0 32
  | _ => w

/-- What a register of a PARTITION block shows (R461). -/
def State.showPartition (s : State) (p off w : Nat) : Nat :=
  match off with
  | 0x18 => s.heldBy p true + s.heldBy p false * 2 ^ 16
  | 0x1C => (s.queue p true).length + (s.queue p false).length * 2 ^ 16
  | _ => w

/-- What a register of the PANEL_ID block shows (R499). -/
def State.showPanel (s : State) (off w : Nat) : Nat :=
  if off = 0 then
    (if s.trust.orderD then 1 else 0) + (if s.trust.debugBlown then 2 else 0) + s.trust.secMin * 2 ^ 8 + bitsOf w 16 16 * 2 ^ 16
  else if 0x10 ≤ off ∧ off < 0x40 then bitsOf s.trust.identity.toNat (8 * (off - 0x10)) 32
  else w

/-- What a register of the FAULT block shows (R511, R512, R530). -/
def State.showFault (s : State) (off w : Nat) : Nat :=
  if off = 4 then s.faults.queue.length + bitsOf w 16 16 * 2 ^ 16
  else if off = 0x10 then s.faults.retire.length
  else if 0x40 ≤ off ∧ off < 0x80 then bitsOf s.faultHead (8 * (off - 0x40)) 32
  else if 0x100 ≤ off ∧ off < 0x200 then retireWord s.faults.retire[(off - 0x100) / 4]?
  else w

/-- What a register of the PAIR block shows (R559). -/
def State.showPair (s : State) (off w : Nat) : Nat :=
  if off < 0x100 then w
  else
    let p := (off - 0x100) / 16
    match off % 16 with
    | 0 => withBits w 3 1 ((s.primary p).getD 0)
    | 4 => bitsOf (s.pair p).forwarded.toNat 0 32
    | 8 => s.journalKib p
    | _ => min (s.pairLag p) 0xFFFF

/-- What a register of the DEBUG block shows (R640). -/
def State.showDebug (s : State) (off w : Nat) : Nat :=
  if 0x100 ≤ off ∧ off < 0x118 then withBits w 16 7 (s.dbgOf ((off - 0x100) / 4)).events.length
  else if 0x200 ≤ off ∧ off < 0x218 then min (s.heldGroups ((off - 0x200) / 4)).length 0xFFFF
  else w

/-- What a register of a SLICE block shows (R283). -/
def State.showSlice (s : State) (site off w : Nat) : Nat :=
  match s.dieAt site with
  | none => w
  | some d =>
    if off = 0 then withBits w 16 3 (if bitsOf w 4 3 = 7 then 0 else min 6 (s.field (Reg.sliceCtl (Base.slice site)) 0 3))
    else if off = 0x30 then (s.slice d).sums.length
    else if 0x100 ≤ off ∧ off % 16 = 8 then (s.arr (8 * d + (off - 0x100) / 16)).dirtyLines.length
    else w

/-- Whether a register is defined at a place (R32). -/
def Place.defined (pl : Place) : Bool := (findDesc pl.off (descsOf pl.kind)).isSome

/-- A register's value as it stands now, without what a read latches; where none is defined, zero (R32). -/
def State.shown (s : State) (a : Nat) : W32 :=
  let w := (s.reg a).toNat
  match placeOf a with
  | none => 0
  | some pl =>
    let off := pl.off
    if !pl.defined then 0 else
    BitVec.ofNat 32 (match pl.kind with
      | .timebase => if off = 0 then bitsOf s.tb.master.toNat 0 32 else w
      | .array => (match s.dieAt (pl.unit / 8) with
          | none => w
          | some d =>
            let x := s.arr (8 * d + pl.unit % 8)
            if off = 0 then x.stateWord else if off = 4 then x.quarterWord else w)
      | .slice => s.showSlice pl.unit off w
      | .courier => (match s.courierAt pl.unit off with
          | none => w
          | some c =>
            let x := s.courier c
            if off % 0x40 = 0 then x.stateWord + bitsOf w 31 1 * 2 ^ 31 else if off % 0x40 = 4 then bitsOf x.record.toNat 0 32 else w)
      | .dieFault =>
        if off = 0 then withBits w 8 1 (if s.siteState pl.unit = 5 then 1 else 0)
        else if 0x10 ≤ off ∧ off < 0x20 then s.cellsWord pl.unit ((off - 0x10) / 4)
        else w
      | .port => s.showPort pl.unit off w
      | .letterbox => s.showLetterbox pl.unit off w
      | .partition => s.showPartition pl.unit off w
      | .panelId => s.showPanel off w
      | .fault => s.showFault off w
      | .pair => s.showPair off w
      | .power => if 0x28 ≤ off ∧ off < 0x40 then
          (let p := (off - 0x28) / 4
           s.fretWatts p 0 + s.fretWatts p (s.fret p) * 2 ^ 16)
          else if 0x80 ≤ off ∧ off < 0xB8 ∧ bitsOf w 0 2 ≠ 2 then withBits w 0 2 (if s.shell.converters then 1 else 0)
          else w
      | .sensor => if off < 0x100 then bitsOf w 0 16 + (Config.stringBase pl.unit (off / 4)).toNat * 2 ^ 16 else w
      | .debug => s.showDebug off w
      | _ => w)

/-! Reads (R10, R68). -/

/-- A read of a register: its value, and the state with what the read latches. -/
def State.readReg (s : State) (a : Nat) : W32 × State :=
  let v := s.shown a
  match placeOf a with
  | none => (0, s)
  | some pl => match pl.kind with
    | .timebase => (v, if pl.off = 0 then s.setReg Reg.tbNowHi ((s.tb.master >>> 32).truncate 32) else s)
    | .array => (v, if pl.off = 0x2C then s.latchHi (a + 4) else s)
    | .slice => (v, if pl.off = 0x10 ∨ pl.off = 0x20 then s.latchHi (a + 4) else s)
    | .mid => (v, if pl.off = 0x10 then s.latchHi (a + 4) else s)
    | .courier => (match s.courierAt pl.unit pl.off with
        | some c => (v, if pl.off % 0x40 = 4 then s.setReg (a + 4) (((s.courier c).record >>> 32).truncate 32) else s)
        | none => (v, s))
    | .port => (v, if pl.off = 0x20 ∧ (s.boundTo pl.unit).isSome then { s.readPtm pl.unit with readData := s.readData } else s)
    | _ => (v, s)

/-! What is withheld from the Postmaster (R491). -/

/-- The partition whose unit a place belongs to, where its field is withheld. -/
def State.withheldOf (s : State) (pl : Place) : Option Nat :=
  let off := pl.off
  match pl.kind with
  | .array => if [0x20, 0x24, 0x2C, 0x30, 0x40, 0x44, 0x48, 0x4C].contains off ∨ 0x100 ≤ off then (s.dieAt (pl.unit / 8)).bind s.partOfDie else none
  | .slice => if [0x10, 0x14, 0x18, 0x20, 0x24].contains off then (s.dieAt pl.unit).bind s.partOfDie else none
  | .mid => if off = 0x10 ∨ off = 0x14 then s.partOfSector pl.unit else none
  | .courier => if off % 0x40 = 4 ∨ off % 0x40 = 8 then
      (if 108 ≤ pl.unit then s.partOfSector (pl.unit - 108) else (s.dieAt pl.unit).bind s.partOfDie) else none
  | .port => if 0x1000 ≤ off then s.boundTo pl.unit else none
  | .letterbox => s.boundTo (pl.unit / 64)
  | _ => none

/-- Whether the filter hides a place from the Postmaster. -/
def State.withheld (s : State) (pl : Place) : Bool := match s.withheldOf pl with
  | none => false
  | some p => s.keyState p != 0 && !(s.bit (Reg.keyState p) 16 && s.bit (Reg.keyState p) 18)

/-- A read by the Postmaster: a withheld field reads as zero and latches nothing. -/
def State.postmasterRead (s : State) (a : Nat) : W32 × State :=
  let a := s.home a
  if (placeOf a).any s.withheld then (0, s) else s.readReg a

/-! Writes (R10, R11, R671). -/

/-- A write by access types alone: stored bits, bits that a 1 clears and bits that a 1 sets; `locked` withholds the bits under a lock. -/
def State.storeBits (s : State) (a : Nat) (v : W32) (stored w1c w1s : W32) : State :=
  s.setReg a ((((s.reg a &&& ~~~stored) ||| (v &&& stored)) &&& ~~~(v &&& w1c)) ||| (v &&& w1s))

/-- The records that a status register speaks for (R12, R124, R283, R345, R372, R530, R594): the bits that show one, and its registers. -/
def recordsOf (kind : BlockKind) (off : Nat) : List (W32 × List Nat) := match kind, off with
  | .array, 8 => [(1, [0x20, 0x24, 0x28, 0x2C, 0x30]), (4, [0x40, 0x44, 0x48, 0x4C])]
  | .slice, 8 => [(1, [0x10, 0x14, 0x18]), (0xF8, [0x20, 0x24, 0x28])]
  | .mid, 0 => [(2, [0x10, 0x14, 0x18])]
  | .course, 0x10 => [(0xF, [0x14])]
  | .dieFault, 0 => [(0xF, [4])]
  | .thermal, 0 => [(0x100, [8])]
  | _, _ => []

/-- The records of a sub-block whose last status bit a write has cleared, cleared with it. -/
def State.clearRecords (s : State) (pl : Place) (a : Nat) (old : W32) : State :=
  (recordsOf pl.kind pl.off).foldl (fun s r =>
    if old &&& r.1 ≠ 0 ∧ s.reg a &&& r.1 = 0 then r.2.foldl (fun s o => s.resetRegs (a - pl.off + o) (a - pl.off + o + 4)) s else s) s

/-- A write to a register that its table describes whole. -/
def State.tableWrite (s : State) (pl : Place) (a : Nat) (v : W32) (locked : Bool) : State :=
  match findDesc pl.off (descsOf pl.kind) with
  | none => s
  | some (d, _) =>
    let t := s.storeBits a v (BitVec.ofNat 32 (d.rw ||| if locked then 0 else d.rwl)) (BitVec.ofNat 32 d.w1c) (BitVec.ofNat 32 d.w1s)
    t.clearRecords pl a (s.reg a)

/-- The high word of a pair written: the pair takes effect (R422). -/
def State.pairTakes (s : State) (lo : Nat) : State := s.setLatch lo (s.reg lo)

/-- A write of DLOG_CTL (R417, R423). -/
def State.dlogCtlWrite (s : State) (port sl : Nat) (v : W32) : State :=
  let s := s.storeBits (Reg.dlogCtl port sl) v 1 0x300 0
  if v.getLsbD 1 then s.swapDlog port sl else s

/-- A write of SAVE_CTL (R418 to R420, R423): RESTORE stays 1 until the record has been read. -/
def State.saveCtlWrite (s : State) (port sl : Nat) (v : W32) : State :=
  let reg := Reg.saveCtl port sl
  let s := s.storeBits reg v 8 0x70000 4
  let s := if v.getLsbD 0 != s.bit reg 0 then s.quiesceWrite port sl (v.getLsbD 0) else s
  if v.getLsbD 1 then s.saveSlice port sl else s

/-- A write of SLICE_RST_LO or SLICE_RST_HI (R604). -/
def State.rstWrite (s : State) (port first : Nat) (v : W32) : State :=
  (lanesOf v).foldl (fun s i => s.sliceRst port (first + i)) s

/-- A write of a slice's registers (R423). -/
def State.sliceRegWrite (s : State) (pl : Place) (a : Nat) (v : W32) : State :=
  let port := pl.unit
  let sl := (pl.off - 0x1000) / 64
  match pl.off % 64 with
  | 0x10 => s.dlogCtlWrite port sl v
  | 0x18 => (s.tableWrite pl a v false).pairTakes (a - 4)
  | 0x20 => (s.tableWrite pl a v false).pairTakes (a - 4)
  | 0x30 => s.saveCtlWrite port sl v
  | 0x38 => (s.tableWrite pl a v false).pairTakes (a - 4)
  | _ => s.tableWrite pl a v false

/-- A write of a register of a PORT block (R409, R422, R423, R530, R604). -/
def State.portWrite (s : State) (pl : Place) (a : Nat) (v : W32) : State :=
  let port := pl.unit
  let locked := s.bit (Reg.hcCtl port) 31
  if !s.barOpen port then s
  else if pl.off = 0x10 then s.hcCtlWrite port v
  else if pl.off = 0xC then (if locked then s else (s.tableWrite pl a v false).pairTakes (a - 4))
  else if 0x1000 ≤ pl.off ∧ pl.off < 0x2000 then s.sliceRegWrite pl a v
  else if pl.off = 0x2000 then s.rstWrite port 0 v
  else if pl.off = 0x2004 then s.rstWrite port 32 v
  else if pl.off = 0x3000 then s.frEnable port v
  else if pl.off = 0x3004 then s.frHeadWrite port v
  else s.tableWrite pl a v locked

/-- A write of a register of a letterbox page (R385, R390, R424). -/
def State.letterboxWrite (s : State) (pl : Place) (a : Nat) (v : W32) : State :=
  let port := pl.unit / 64
  let page := pl.unit % 64
  if pl.off < 0x200 then
    (let m := 64 * page + pl.off / 8
     if pl.off % 8 = 0 then s.tailWrite port m v else s.rheadWrite port m v)
  else
    let m := 64 * page + (pl.off - 0x800) / 32
    let busy := s.bit (Reg.mailbagCtl port m) 0 || s.bit (Reg.mailbagCtl port m) 9
    if !s.barOpen port then s
    else match pl.off % 32 with
    | 8 => s.mbCtlWrite port m v
    | 0xC => s.tableWrite pl a v false
    | _ => if busy then s else s.tableWrite pl a v false

/-- A write of PART_CTL (R426, R431, R434, R461). -/
def State.partCtlWrite (s : State) (p : Nat) (v : W32) : State :=
  let s := if v.getLsbD 0 then s.partForm p else s
  let s := if v.getLsbD 1 then s.partDissolve p else s
  if v.getLsbD 2 then s.restartRequest p else s

/-- A write of FLT_CTL (R511, R512, R529). -/
def State.fltCtlWrite (s : State) (v : W32) : State :=
  let s := if v.getLsbD 0 then s.popFault else s
  let s := if v.getLsbD 1 then s.kick else s
  let s := if v.getLsbD 2 then s.clearDropped else s
  let n := bitsOf v.toNat 8 7
  if n ≤ 64 then s.retireAck n else s

/-- What a write to a place does, for an agent that may write there; where no register is defined, nothing (R32). -/
def State.placeWrite (s : State) (pl : Place) (a : Nat) (v : W32) : State :=
  let off := pl.off
  if !pl.defined then s else
  match pl.kind with
  | .rate => if 0x40 ≤ off ∧ off < 0x58 then s.rateModeWrite ((off - 0x40) / 4) v else s.tableWrite pl a v false
  | .power =>
    if off = 0xC then s.moduleBudgetWrite v
    else if 0x10 ≤ off ∧ off < 0x28 then s.partBudgetWrite ((off - 0x10) / 4) v
    else s.tableWrite pl a v false
  | .partition =>
    if off = 0 then (if s.partState pl.unit = 0 then s.tableWrite pl a v false else s)
    else if off = 4 then s.partCtlWrite pl.unit v
    else s.tableWrite pl a v false
  | .scrub => if off = 0 then s.farStart v else s.tableWrite pl a v false
  | .fault => if off = 8 then s.fltCtlWrite v else s.tableWrite pl a v false
  | .course => if 0x400 ≤ off ∧ off < 0x430 then s.transitSlotWrite pl.unit ((off - 0x400) / 4) v else s.tableWrite pl a v false
  | .port => s.portWrite pl a v
  | .letterbox => s.letterboxWrite pl a v
  | .slice => s.tableWrite pl a v (s.bit (Reg.sliceCtl (Base.slice pl.unit)) 31)
  | _ => s.tableWrite pl a v false

/-- Whether an agent reaches a place for writing (R376, R491, R499, R530, R559, R594, R620, R640). -/
def State.mayWrite (s : State) (agent : Agent) (pl : Place) : Bool :=
  match agent with
  | .host port => (pl.kind == .port && pl.unit == port.val) || (pl.kind == .letterbox && pl.unit / 64 == port.val)
  | .postmaster =>
    !s.withheld pl && !s.mgdLost && !(pl.kind == .panelId || pl.kind == .security || pl.kind == .pair || pl.kind == .debug || (pl.kind == .scrub && pl.off != 0))
  | .rootOfTrust => pl.kind == .panelId || pl.kind == .security || pl.kind == .scrub || pl.kind == .pair || pl.kind == .debug

/-- REGISTER_WRITE (R10, R32, R34, R671). -/
def State.regWrite (s : State) (agent : Agent) (addr : Nat) (v : W32) : State :=
  let a := s.home addr
  match placeOf a with
  | none => s
  | some pl => if s.mayWrite agent pl then s.placeWrite pl a v else s

/-- REGISTER_WRITE. -/
def execRegisterWrite (agent : Agent) (addr : BitVec 32) (v : BitVec 32) (s : State) : Host.Outcome State Fault Refusal :=
  next (s.regWrite agent addr.toNat v)

end Sys2Proof.Machine
end

