-- ==== Sys2Proof/Machine/Operator.lean ====
section
/-! DEFINITION. The module management interface (R663 to R666): the register window that the root of trust answers, and the operator's
requests that the Postmaster serves. -/

namespace Sys2Proof.Machine

/-! The register window (R664). -/

/-- MGMT_WINDOW_ADDRESS: answered from step 0 of panel start on. -/
def execMgmtWindowAddress (addr : BitVec 32) (s : State) : Host.Outcome State Fault Refusal :=
  next (if s.shell.starting then { s with mgmtAddr := addr } else s)

/-- The blocks the window reaches. -/
def windowReaches (k : BlockKind) : Bool :=
  k == .panelId || k == .census || k == .timebase || k == .reset || k == .power || k == .thermal

/-- A read through the window: the register at the address, which then moves on by 4. -/
def State.windowRead (s : State) : State :=
  let a := s.mgmtAddr.toNat
  let r := if (placeOf a).any (fun pl => windowReaches pl.kind) then s.readReg a else (0, s)
  { r.2 with readData := r.1, mgmtAddr := s.mgmtAddr + 4 }

/-- MGMT_WINDOW_READ. -/
def execMgmtWindowRead (s : State) : Host.Outcome State Fault Refusal := next (if s.shell.starting then s.windowRead else s)

/-! Operator requests (R665, R666). -/

/-- Whether the Postmaster serves the message endpoint: it runs, and the management die is not lost (R524, R596). -/
def State.postmasterUp (s : State) : Bool := s.stepDone 3 && !s.mgdLost

/-- A request answered by the Postmaster. -/
def State.onOperator (s : State) (f : State → State) : State := if s.postmasterUp then f s else s

/-- READ (R491, R666). -/
def State.operatorRead (s : State) (a : Nat) : State :=
  if a % 4 ≠ 0 then s.answer 3 []
  else
    let r := s.postmasterRead a
    { r.2 with readData := r.1 }.answer 0 (byteList r.1.toNat 4)

/-- OPERATOR_READ. -/
def execOperatorRead (addr : BitVec 32) (s : State) : Host.Outcome State Fault Refusal := next (s.onOperator (fun s => s.operatorRead addr.toNat))

/-- Whether the operator may write a place (R578, R666). -/
def State.operatorMay (s : State) (pl : Place) : Bool :=
  match pl.kind with
  | .partition => pl.off == 0 || pl.off == 4
  | .power => pl.off == 0xC || (decide (0x10 ≤ pl.off) && decide (pl.off < 0x28)) || pl.off == 0x60
  | .scrub => pl.off == 0
  | .rate => decide (0x40 ≤ pl.off) && decide (pl.off < 0x58) && s.keyState ((pl.off - 0x40) / 4) == 0
  | _ => false

/-- WRITE (R666): performed as the Postmaster's own write, or DENIED. -/
def State.operatorWrite (s : State) (a : Nat) (v : W32) : State :=
  if a % 4 ≠ 0 then s.answer 3 []
  else match placeOf a with
    | none => s.answer 1 []
    | some pl => if s.operatorMay pl then (s.placeWrite pl a v).answer 0 [] else s.answer 1 []

/-- OPERATOR_WRITE. -/
def execOperatorWrite (addr : BitVec 32) (v : BitVec 32) (s : State) : Host.Outcome State Fault Refusal :=
  next (s.onOperator (fun s => s.operatorWrite addr.toNat v))

/-- FW_DATA (R666): up to 1,024 bytes. -/
def State.stage (s : State) (off : Nat) (data : List (BitVec 8)) : State :=
  if 1024 < data.length then s.answer 3 []
  else
    let staged := ((List.range data.length).zip data).foldl (fun t e => Tab.put t (off + e.1) e.2) s.trust.staged
    { s with trust := { s.trust with staged := staged } }.answer 0 []

/-- FW_DATA. -/
def execFwData (offset : BitVec 32) (data : List (BitVec 8)) (s : State) : Host.Outcome State Fault Refusal :=
  next (s.onOperator (fun s => s.stage offset.toNat data))

/-- FW_END (R466, R666): `i` is the image as the root of trust finds the staged bytes. A length for which bytes are missing is malformed. -/
def State.closeImage (s : State) (length : Nat) (i : Image) : State :=
  if (s.trust.staged.filter (fun e => decide (e.1 < length))).length ≠ length then s.answer 3 []
  else if s.imageOk i then { s with trust := { s.trust with staged := [], stagedImage := some i } }.answer 0 []
  else ({ s with trust := { s.trust with staged := [], stagedImage := none } }.setBit Reg.secStatus 5).answer 4 []

/-- FW_END. -/
def execFwEnd (length : BitVec 32) (image : Image) (s : State) : Host.Outcome State Fault Refusal :=
  next (s.onOperator (fun s => s.closeImage length.toNat image))

/-- PM_RESTART (R466, R666): onto the staged image, if there is one. -/
def execPmRestart (s : State) : Host.Outcome State Fault Refusal :=
  next (s.onOperator (fun s => (s.pmRestart s.trust.stagedImage).answer 0 []))

/-- SEC_COMMIT (R467, R666): SEC_MIN advances to the running security version, as far as its 64 fuses go. -/
def State.secCommit (s : State) : State :=
  let v := s.field Reg.panelBuild 16 16
  if v ≤ s.trust.secMin then s.answer 1 []
  else { s with trust := { s.trust with secMin := min v 64 } }.answer 0 []

/-- SEC_COMMIT. -/
def execSecCommit (s : State) : Host.Outcome State Fault Refusal := next (s.onOperator State.secCommit)

end Sys2Proof.Machine
end

