-- ==== Sys2Proof/Machine/Dispatch.lean ====
section
/-! DEFINITION. What each command does: one arm for each constructor of the opcode table, one direct call of its meaning. -/

namespace Sys2Proof.Machine

/-- The effect of a command on everything but the queue of waiting commands. -/
def exec (i : Instr) (s : State) : Host.Outcome State Fault Refusal :=
  match i with
  | .nop g w => Sys2Proof.Machine.execNop g w s
  | .exitOp g w => Sys2Proof.Machine.execExitOp g w s
  | .yield g w => Sys2Proof.Machine.execYield g w s
  | .phase g w => Sys2Proof.Machine.execPhase g w s
  | .timeRead g w => Sys2Proof.Machine.execTimeRead g w s
  | .trap g w => Sys2Proof.Machine.execTrap g w s
  | .brk g w => Sys2Proof.Machine.execBrk g w s
  | .movSr g w => Sys2Proof.Machine.execMovSr g w s
  | .bra g w => Sys2Proof.Machine.execBra g w s
  | .brx g w => Sys2Proof.Machine.execBrx g w s
  | .call g w => Sys2Proof.Machine.execCall g w s
  | .leaPc g w => Sys2Proof.Machine.execLeaPc g w s
  | .fpflagsClr g w => Sys2Proof.Machine.execFpflagsClr g w s
  | .barSync g w => Sys2Proof.Machine.execBarSync g w s
  | .barArrive g w => Sys2Proof.Machine.execBarArrive g w s
  | .addOp g w => Sys2Proof.Machine.execAddOp g w s
  | .subOp g w => Sys2Proof.Machine.execSubOp g w s
  | .mulLo g w => Sys2Proof.Machine.execMulLo g w s
  | .mulHi g w => Sys2Proof.Machine.execMulHi g w s
  | .madLo g w => Sys2Proof.Machine.execMadLo g w s
  | .divOp g w => Sys2Proof.Machine.execDivOp g w s
  | .rem g w => Sys2Proof.Machine.execRem g w s
  | .minOp g w => Sys2Proof.Machine.execMinOp g w s
  | .maxOp g w => Sys2Proof.Machine.execMaxOp g w s
  | .absOp g w => Sys2Proof.Machine.execAbsOp g w s
  | .negOp g w => Sys2Proof.Machine.execNegOp g w s
  | .andOp g w => Sys2Proof.Machine.execAndOp g w s
  | .orOp g w => Sys2Proof.Machine.execOrOp g w s
  | .xorOp g w => Sys2Proof.Machine.execXorOp g w s
  | .notOp g w => Sys2Proof.Machine.execNotOp g w s
  | .shl g w => Sys2Proof.Machine.execShl g w s
  | .shr g w => Sys2Proof.Machine.execShr g w s
  | .sar g w => Sys2Proof.Machine.execSar g w s
  | .popc g w => Sys2Proof.Machine.execPopc g w s
  | .clz g w => Sys2Proof.Machine.execClz g w s
  | .brev g w => Sys2Proof.Machine.execBrev g w s
  | .bfe g w => Sys2Proof.Machine.execBfe g w s
  | .bfi g w => Sys2Proof.Machine.execBfi g w s
  | .setp g w => Sys2Proof.Machine.execSetp g w s
  | .selp g w => Sys2Proof.Machine.execSelp g w s
  | .mov g w => Sys2Proof.Machine.execMov g w s
  | .cvt g w => Sys2Proof.Machine.execCvt g w s
  | .plop g w => Sys2Proof.Machine.execPlop g w s
  | .addF32 g w => Sys2Proof.Machine.execAddF32 g w s
  | .subF32 g w => Sys2Proof.Machine.execSubF32 g w s
  | .mulF32 g w => Sys2Proof.Machine.execMulF32 g w s
  | .fmaF32 g w => Sys2Proof.Machine.execFmaF32 g w s
  | .minF32 g w => Sys2Proof.Machine.execMinF32 g w s
  | .maxF32 g w => Sys2Proof.Machine.execMaxF32 g w s
  | .absF32 g w => Sys2Proof.Machine.execAbsF32 g w s
  | .negF32 g w => Sys2Proof.Machine.execNegF32 g w s
  | .rcpF32 g w => Sys2Proof.Machine.execRcpF32 g w s
  | .rsqrtF32 g w => Sys2Proof.Machine.execRsqrtF32 g w s
  | .sqrtF32 g w => Sys2Proof.Machine.execSqrtF32 g w s
  | .ex2F32 g w => Sys2Proof.Machine.execEx2F32 g w s
  | .lg2F32 g w => Sys2Proof.Machine.execLg2F32 g w s
  | .setpF32 g w => Sys2Proof.Machine.execSetpF32 g w s
  | .addBf16x2 g w => Sys2Proof.Machine.execAddBf16x2 g w s
  | .mulBf16x2 g w => Sys2Proof.Machine.execMulBf16x2 g w s
  | .fmaBf16x2 g w => Sys2Proof.Machine.execFmaBf16x2 g w s
  | .minBf16x2 g w => Sys2Proof.Machine.execMinBf16x2 g w s
  | .maxBf16x2 g w => Sys2Proof.Machine.execMaxBf16x2 g w s
  | .addF16x2 g w => Sys2Proof.Machine.execAddF16x2 g w s
  | .mulF16x2 g w => Sys2Proof.Machine.execMulF16x2 g w s
  | .fmaF16x2 g w => Sys2Proof.Machine.execFmaF16x2 g w s
  | .minF16x2 g w => Sys2Proof.Machine.execMinF16x2 g w s
  | .maxF16x2 g w => Sys2Proof.Machine.execMaxF16x2 g w s
  | .mma g w => Sys2Proof.Machine.execMma g w s
  | .mmaLedger g w => Sys2Proof.Machine.execMmaLedger g w s
  | .ltileOpen g w => Sys2Proof.Machine.execLtileOpen g w s
  | .ltileFlush g w => Sys2Proof.Machine.execLtileFlush g w s
  | .ltileRead g w => Sys2Proof.Machine.execLtileRead g w s
  | .ltileWrite g w => Sys2Proof.Machine.execLtileWrite g w s
  | .ltileStat g w => Sys2Proof.Machine.execLtileStat g w s
  | .ltileClose g w => Sys2Proof.Machine.execLtileClose g w s
  | .cvtPack g w => Sys2Proof.Machine.execCvtPack g w s
  | .cvtUnpack g w => Sys2Proof.Machine.execCvtUnpack g w s
  | .mxScale g w => Sys2Proof.Machine.execMxScale g w s
  | .shflIdx g w => Sys2Proof.Machine.execShflIdx g w s
  | .shflXor g w => Sys2Proof.Machine.execShflXor g w s
  | .shflUp g w => Sys2Proof.Machine.execShflUp g w s
  | .shflDown g w => Sys2Proof.Machine.execShflDown g w s
  | .voteAll g w => Sys2Proof.Machine.execVoteAll g w s
  | .voteAny g w => Sys2Proof.Machine.execVoteAny g w s
  | .voteBallot g w => Sys2Proof.Machine.execVoteBallot g w s
  | .ld g w => Sys2Proof.Machine.execLd g w s
  | .ldAcq g w => Sys2Proof.Machine.execLdAcq g w s
  | .ldLast g w => Sys2Proof.Machine.execLdLast g w s
  | .st g w => Sys2Proof.Machine.execSt g w s
  | .stRel g w => Sys2Proof.Machine.execStRel g w s
  | .fence g w => Sys2Proof.Machine.execFence g w s
  | .prefetch g w => Sys2Proof.Machine.execPrefetch g w s
  | .killLine g w => Sys2Proof.Machine.execKillLine g w s
  | .atomAdd g w => Sys2Proof.Machine.execAtomAdd g w s
  | .atomMin g w => Sys2Proof.Machine.execAtomMin g w s
  | .atomMax g w => Sys2Proof.Machine.execAtomMax g w s
  | .atomAnd g w => Sys2Proof.Machine.execAtomAnd g w s
  | .atomOr g w => Sys2Proof.Machine.execAtomOr g w s
  | .atomXor g w => Sys2Proof.Machine.execAtomXor g w s
  | .atomExch g w => Sys2Proof.Machine.execAtomExch g w s
  | .atomCas g w => Sys2Proof.Machine.execAtomCas g w s
  | .redAdd g w => Sys2Proof.Machine.execRedAdd g w s
  | .redMin g w => Sys2Proof.Machine.execRedMin g w s
  | .redMax g w => Sys2Proof.Machine.execRedMax g w s
  | .redAnd g w => Sys2Proof.Machine.execRedAnd g w s
  | .redOr g w => Sys2Proof.Machine.execRedOr g w s
  | .redXor g w => Sys2Proof.Machine.execRedXor g w s
  | .redAddLedger g w => Sys2Proof.Machine.execRedAddLedger g w s
  | .schedulerIssue a upset => Sys2Proof.Machine.execSchedulerIssue a upset s
  | .reconvergenceTimeout g => Sys2Proof.Machine.execReconvergenceTimeout g s
  | .barrierDeadlock a => Sys2Proof.Machine.execBarrierDeadlock a s
  | .yieldOverdue a => Sys2Proof.Machine.execYieldOverdue a s
  | .blockAccept a => Sys2Proof.Machine.execBlockAccept a s
  | .lsBanksChange a n => Sys2Proof.Machine.execLsBanksChange a n s
  | .reconfigDone a => Sys2Proof.Machine.execReconfigDone a s
  | .residueRecompute g cell errs => Sys2Proof.Machine.execResidueRecompute g cell errs s
  | .homeAccess p line upset => Sys2Proof.Machine.execHomeAccess p line upset s
  | .sumLineContribution p line mismatches upset => Sys2Proof.Machine.execSumLineContribution p line mismatches upset s
  | .spillBucketReadDone p line mismatches upset => Sys2Proof.Machine.execSpillBucketReadDone p line mismatches upset s
  | .fillArrive p line failed upset => Sys2Proof.Machine.execFillArrive p line failed upset s
  | .homeWriteAck a line => Sys2Proof.Machine.execHomeWriteAck a line s
  | .sideBufferFill p line upset => Sys2Proof.Machine.execSideBufferFill p line upset s
  | .cacheInvalidateDone d => Sys2Proof.Machine.execCacheInvalidateDone d s
  | .hbmReadDone p line errs => Sys2Proof.Machine.execHbmReadDone p line errs s
  | .hbmReread p line errs => Sys2Proof.Machine.execHbmReread p line errs s
  | .pageRetireDone p line repairRow => Sys2Proof.Machine.execPageRetireDone p line repairRow s
  | .sectorMergeWrite p line reads => Sys2Proof.Machine.execSectorMergeWrite p line reads s
  | .hbmLaneRemapped stack channel lane => Sys2Proof.Machine.execHbmLaneRemapped stack channel lane s
  | .hbmTrainingDone failed lanes => Sys2Proof.Machine.execHbmTrainingDone failed lanes s
  | .farPageReadDone port page tagFails => Sys2Proof.Machine.execFarPageReadDone port page tagFails s
  | .farUnavailable port => Sys2Proof.Machine.execFarUnavailable port s
  | .courierRecordStart c reads => Sys2Proof.Machine.execCourierRecordStart c reads s
  | .courierLine c reads upset => Sys2Proof.Machine.execCourierLine c reads upset s
  | .courierGateReread c reads => Sys2Proof.Machine.execCourierGateReread c reads s
  | .courierRecordDone c => Sys2Proof.Machine.execCourierRecordDone c s
  | .regulatorTick => Sys2Proof.Machine.execRegulatorTick s
  | .packetReceive site course str pkt => Sys2Proof.Machine.execPacketReceive site course str pkt s
  | .retry site course str count => Sys2Proof.Machine.execRetry site course str count s
  | .packetAcknowledgement site course str count => Sys2Proof.Machine.execPacketAcknowledgement site course str count s
  | .beacon site course str => Sys2Proof.Machine.execBeacon site course str s
  | .neighbourLost site course => Sys2Proof.Machine.execNeighbourLost site course s
  | .laneSpared site course str lane => Sys2Proof.Machine.execLaneSpared site course str lane s
  | .rerouted p lost => Sys2Proof.Machine.execRerouted p lost s
  | .transitFrame site course => Sys2Proof.Machine.execTransitFrame site course s
  | .transitEgress p ingress egress seq tagOk => Sys2Proof.Machine.execTransitEgress p ingress egress seq tagOk s
  | .transitSlotWrite site k v => Sys2Proof.Machine.execTransitSlotWrite site k v s
  | .tuningDone fails => Sys2Proof.Machine.execTuningDone fails s
  | .timebaseTick strays => Sys2Proof.Machine.execTimebaseTick strays s
  | .timebaseBroadcast => Sys2Proof.Machine.execTimebaseBroadcast s
  | .windowBoundary sensed => Sys2Proof.Machine.execWindowBoundary sensed s
  | .tbRefLost => Sys2Proof.Machine.execTbRefLost s
  | .tbRefReturn => Sys2Proof.Machine.execTbRefReturn s
  | .timebaseLock => Sys2Proof.Machine.execTimebaseLock s
  | .tbNowLoRead => Sys2Proof.Machine.execTbNowLoRead s
  | .dlTimeLoRead a => Sys2Proof.Machine.execDlTimeLoRead a s
  | .deadAddrLoRead d => Sys2Proof.Machine.execDeadAddrLoRead d s
  | .parityAddrLoRead d => Sys2Proof.Machine.execParityAddrLoRead d s
  | .poisonAddrLoRead mid => Sys2Proof.Machine.execPoisonAddrLoRead mid s
  | .crRecordLoRead c => Sys2Proof.Machine.execCrRecordLoRead c s
  | .ptmLocalLoRead port => Sys2Proof.Machine.execPtmLocalLoRead port s
  | .rateFloor d => Sys2Proof.Machine.execRateFloor d s
  | .rateModeWrite p v => Sys2Proof.Machine.execRateModeWrite p v s
  | .registerWrite agent addr v => Sys2Proof.Machine.execRegisterWrite agent addr v s
  | .mailbagTail port m v => Sys2Proof.Machine.execMailbagTail port m v s
  | .receiptHead port m v => Sys2Proof.Machine.execReceiptHead port m v s
  | .mailbagEnable port m v => Sys2Proof.Machine.execMailbagEnable port m v s
  | .entryTake port m => Sys2Proof.Machine.execEntryTake port m s
  | .entryReadDone port m entry => Sys2Proof.Machine.execEntryReadDone port m entry s
  | .entryReadError port m => Sys2Proof.Machine.execEntryReadError port m s
  | .launch port m => Sys2Proof.Machine.execLaunch port m s
  | .chain port m => Sys2Proof.Machine.execChain port m s
  | .cancel port m => Sys2Proof.Machine.execCancel port m s
  | .preempt port m => Sys2Proof.Machine.execPreempt port m s
  | .mgmt port m => Sys2Proof.Machine.execMgmt port m s
  | .marker port m => Sys2Proof.Machine.execMarker port m s
  | .mgmtBusyTimeout port m => Sys2Proof.Machine.execMgmtBusyTimeout port m s
  | .receiptWrite port m => Sys2Proof.Machine.execReceiptWrite port m s
  | .tailWordWrite port m => Sys2Proof.Machine.execTailWordWrite port m s
  | .hostFlushReadDone port ok => Sys2Proof.Machine.execHostFlushReadDone port ok s
  | .hostReadError p line => Sys2Proof.Machine.execHostReadError p line s
  | .hostLinkDown port => Sys2Proof.Machine.execHostLinkDown port s
  | .linkLost port => Sys2Proof.Machine.execLinkLost port s
  | .functionLevelReset port => Sys2Proof.Machine.execFunctionLevelReset port s
  | .configRequest port => Sys2Proof.Machine.execConfigRequest port s
  | .ptmDialog port hostTime => Sys2Proof.Machine.execPtmDialog port hostTime s
  | .hcCtlEn port v => Sys2Proof.Machine.execHcCtlEn port v s
  | .cxlSnoop port line => Sys2Proof.Machine.execCxlSnoop port line s
  | .sliceConfigWrite port sl reg v => Sys2Proof.Machine.execSliceConfigWrite port sl reg v s
  | .dirtyPageLog port sl word ok => Sys2Proof.Machine.execDirtyPageLog port sl word ok s
  | .swap port sl => Sys2Proof.Machine.execSwap port sl s
  | .swapDone port sl => Sys2Proof.Machine.execSwapDone port sl s
  | .quiesce port sl on => Sys2Proof.Machine.execQuiesce port sl on s
  | .quiesced port sl => Sys2Proof.Machine.execQuiesced port sl s
  | .sliceSave port sl => Sys2Proof.Machine.execSliceSave port sl s
  | .sliceRestore port sl r => Sys2Proof.Machine.execSliceRestore port sl r s
  | .partForm p => Sys2Proof.Machine.execPartForm p s
  | .formDone p => Sys2Proof.Machine.execFormDone p s
  | .partDissolve p => Sys2Proof.Machine.execPartDissolve p s
  | .dissolved p => Sys2Proof.Machine.execDissolved p s
  | .partStopping p => Sys2Proof.Machine.execPartStopping p s
  | .partStopped p => Sys2Proof.Machine.execPartStopped p s
  | .partRestartRequest p => Sys2Proof.Machine.execPartRestartRequest p s
  | .restartCensus p pass midsAnswer fails => Sys2Proof.Machine.execRestartCensus p pass midsAnswer fails s
  | .restartDone p => Sys2Proof.Machine.execRestartDone p s
  | .dispatchOffer p => Sys2Proof.Machine.execDispatchOffer p s
  | .launchStopped port m seq => Sys2Proof.Machine.execLaunchStopped port m seq s
  | .partConfig port => Sys2Proof.Machine.execPartConfig port s
  | .partRestart port => Sys2Proof.Machine.execPartRestart port s
  | .phSetup port => Sys2Proof.Machine.execPhSetup port s
  | .phDefine port => Sys2Proof.Machine.execPhDefine port s
  | .phForget port => Sys2Proof.Machine.execPhForget port s
  | .phLoad port => Sys2Proof.Machine.execPhLoad port s
  | .phPin port => Sys2Proof.Machine.execPhPin port s
  | .phUnpin port => Sys2Proof.Machine.execPhUnpin port s
  | .phEvict port => Sys2Proof.Machine.execPhEvict port s
  | .phLoadDone p h => Sys2Proof.Machine.execPhLoadDone p h s
  | .phWritebackDone p h => Sys2Proof.Machine.execPhWritebackDone p h s
  | .getVersion port => Sys2Proof.Machine.execGetVersion port s
  | .getCapabilities port => Sys2Proof.Machine.execGetCapabilities port s
  | .negotiateAlgorithms port => Sys2Proof.Machine.execNegotiateAlgorithms port s
  | .getDigests port => Sys2Proof.Machine.execGetDigests port s
  | .getCertificate port slot offset length => Sys2Proof.Machine.execGetCertificate port slot offset length s
  | .challenge port slot nonce => Sys2Proof.Machine.execChallenge port slot nonce s
  | .getMeasurements port index signed nonce => Sys2Proof.Machine.execGetMeasurements port index signed nonce s
  | .keyExchange port => Sys2Proof.Machine.execKeyExchange port s
  | .finish port sess ok requester => Sys2Proof.Machine.execFinish port sess ok requester s
  | .heartbeat port sess => Sys2Proof.Machine.execHeartbeat port sess s
  | .keyUpdate port sess => Sys2Proof.Machine.execKeyUpdate port sess s
  | .endSession port sess => Sys2Proof.Machine.execEndSession port sess s
  | .envelope port sess env sigOk unwrapOk => Sys2Proof.Machine.execEnvelope port sess env sigOk unwrapOk s
  | .debugGrant p grant sigOk => Sys2Proof.Machine.execDebugGrant p grant sigOk s
  | .grantEnded p => Sys2Proof.Machine.execGrantEnded p s
  | .onpanelScrubDone k => Sys2Proof.Machine.execOnpanelScrubDone k s
  | .hbmScrubDone p => Sys2Proof.Machine.execHbmScrubDone p s
  | .farScrub port => Sys2Proof.Machine.execFarScrub port s
  | .farStart v => Sys2Proof.Machine.execFarStart v s
  | .farScrubDone k => Sys2Proof.Machine.execFarScrubDone k s
  | .postmasterRestart image => Sys2Proof.Machine.execPostmasterRestart image s
  | .faultRecordWrite => Sys2Proof.Machine.execFaultRecordWrite s
  | .frEnable port v => Sys2Proof.Machine.execFrEnable port v s
  | .frHead port v => Sys2Proof.Machine.execFrHead port v s
  | .pop => Sys2Proof.Machine.execPop s
  | .kick => Sys2Proof.Machine.execKick s
  | .clearDropped => Sys2Proof.Machine.execClearDropped s
  | .retireAck n => Sys2Proof.Machine.execRetireAck n s
  | .watchdog image => Sys2Proof.Machine.execWatchdog image s
  | .edgeDieLost unit => Sys2Proof.Machine.execEdgeDieLost unit s
  | .mgdLost => Sys2Proof.Machine.execMgdLost s
  | .refclkLoss unit => Sys2Proof.Machine.execRefclkLoss unit s
  | .pairJoin port => Sys2Proof.Machine.execPairJoin port s
  | .pairDigest port => Sys2Proof.Machine.execPairDigest port s
  | .pairLeave port => Sys2Proof.Machine.execPairLeave port s
  | .pairStatus port => Sys2Proof.Machine.execPairStatus port s
  | .joinCopyDone p sent => Sys2Proof.Machine.execJoinCopyDone p sent s
  | .pairEntry p seq m entry count => Sys2Proof.Machine.execPairEntry p seq m entry count s
  | .entryAck p seq count => Sys2Proof.Machine.execEntryAck p seq count s
  | .pairDone p seq m entrySeq outcome fault => Sys2Proof.Machine.execPairDone p seq m entrySeq outcome fault s
  | .receipted p seq m rcount => Sys2Proof.Machine.execReceipted p seq m rcount s
  | .phDecision p seq h state granule lastUse loadGen => Sys2Proof.Machine.execPhDecision p seq h state granule lastUse loadGen s
  | .pairLine p seq addr data => Sys2Proof.Machine.execPairLine p seq addr data s
  | .digest p seq index chunk hash => Sys2Proof.Machine.execDigest p seq index chunk hash s
  | .digestResult p seq index detail => Sys2Proof.Machine.execDigestResult p seq index detail s
  | .failover p seq fault => Sys2Proof.Machine.execFailover p seq fault s
  | .pairAccept p seq => Sys2Proof.Machine.execPairAccept p seq s
  | .pairRefuse p seq => Sys2Proof.Machine.execPairRefuse p seq s
  | .withdraw p seq reason => Sys2Proof.Machine.execWithdraw p seq reason s
  | .pairHeartbeat l peerTime => Sys2Proof.Machine.execPairHeartbeat l peerTime s
  | .pairJoinMsg p msg => Sys2Proof.Machine.execPairJoinMsg p msg s
  | .pairMessageTagFail p l => Sys2Proof.Machine.execPairMessageTagFail p l s
  | .pairLinkRetrain l ev => Sys2Proof.Machine.execPairLinkRetrain l ev s
  | .leaseWrite p => Sys2Proof.Machine.execLeaseWrite p s
  | .leaseLost p => Sys2Proof.Machine.execLeaseLost p s
  | .leasePoll p word => Sys2Proof.Machine.execLeasePoll p word s
  | .fencedTimeout p word => Sys2Proof.Machine.execFencedTimeout p word s
  | .governorInterval obs memory => Sys2Proof.Machine.execGovernorInterval obs memory s
  | .pwrAlert converters pad => Sys2Proof.Machine.execPwrAlert converters pad s
  | .pwrAlertRelease => Sys2Proof.Machine.execPwrAlertRelease s
  | .alertHoldEnd => Sys2Proof.Machine.execAlertHoldEnd s
  | .junctionSample site temp => Sys2Proof.Machine.execJunctionSample site temp s
  | .thermalTrip source => Sys2Proof.Machine.execThermalTrip source s
  | .ibcFault conv => Sys2Proof.Machine.execIbcFault conv s
  | .pwrModuleBudgetWrite v => Sys2Proof.Machine.execPwrModuleBudgetWrite v s
  | .partBudgetWrite p v => Sys2Proof.Machine.execPartBudgetWrite p v s
  | .rateConfig port => Sys2Proof.Machine.execRateConfig port s
  | .energyRead port => Sys2Proof.Machine.execEnergyRead port s
  | .retuneStart => Sys2Proof.Machine.execRetuneStart s
  | .retuneDone reports => Sys2Proof.Machine.execRetuneDone reports s
  | .supplySlewDone d => Sys2Proof.Machine.execSupplySlewDone d s
  | .panelStart => Sys2Proof.Machine.execPanelStart s
  | .startTrustDone image => Sys2Proof.Machine.execStartTrustDone image s
  | .startEdgeDone => Sys2Proof.Machine.execStartEdgeDone s
  | .startPostmasterDone => Sys2Proof.Machine.execStartPostmasterDone s
  | .siteTestDone pass => Sys2Proof.Machine.execSiteTestDone pass s
  | .census => Sys2Proof.Machine.execCensus s
  | .startMarginDone reports => Sys2Proof.Machine.execStartMarginDone reports s
  | .startFarDone => Sys2Proof.Machine.execStartFarDone s
  | .panelReady => Sys2Proof.Machine.execPanelReady s
  | .modReset => Sys2Proof.Machine.execModReset s
  | .modPresentRemoved => Sys2Proof.Machine.execModPresentRemoved s
  | .inputOutOfRange high => Sys2Proof.Machine.execInputOutOfRange high s
  | .prechargeDone => Sys2Proof.Machine.execPrechargeDone s
  | .converterEnable => Sys2Proof.Machine.execConverterEnable s
  | .prechargeHoldoffEnd => Sys2Proof.Machine.execPrechargeHoldoffEnd s
  | .perst port => Sys2Proof.Machine.execPerst port s
  | .sliceRst port sl => Sys2Proof.Machine.execSliceRst port sl s
  | .expanderInserted port dev => Sys2Proof.Machine.execExpanderInserted port dev s
  | .expanderRemoved port => Sys2Proof.Machine.execExpanderRemoved port s
  | .farRelease port => Sys2Proof.Machine.execFarRelease port s
  | .farAttach port => Sys2Proof.Machine.execFarAttach port s
  | .dbgHello p => Sys2Proof.Machine.execDbgHello p s
  | .dbgOpen p keyHash sigOk => Sys2Proof.Machine.execDbgOpen p keyHash sigOk s
  | .haltGroup p seq tagOk g => Sys2Proof.Machine.execHaltGroup p seq tagOk g s
  | .haltLaunch p seq tagOk m entrySeq => Sys2Proof.Machine.execHaltLaunch p seq tagOk m entrySeq s
  | .dbgStep p seq tagOk g count => Sys2Proof.Machine.execDbgStep p seq tagOk g count s
  | .resume p seq tagOk g => Sys2Proof.Machine.execResume p seq tagOk g s
  | .breakSet p seq tagOk index addr => Sys2Proof.Machine.execBreakSet p seq tagOk index addr s
  | .events p seq tagOk => Sys2Proof.Machine.execEvents p seq tagOk s
  | .readGroup p seq tagOk g item offset length => Sys2Proof.Machine.execReadGroup p seq tagOk g item offset length s
  | .readTile p seq tagOk t => Sys2Proof.Machine.execReadTile p seq tagOk t s
  | .readLocal p seq tagOk g offset length => Sys2Proof.Machine.execReadLocal p seq tagOk g offset length s
  | .writeGroup p seq tagOk g item offset data => Sys2Proof.Machine.execWriteGroup p seq tagOk g item offset data s
  | .writeTile p seq tagOk t rows => Sys2Proof.Machine.execWriteTile p seq tagOk t rows s
  | .writeLocal p seq tagOk g offset data => Sys2Proof.Machine.execWriteLocal p seq tagOk g offset data s
  | .readMem p seq tagOk addr length => Sys2Proof.Machine.execReadMem p seq tagOk addr length s
  | .writeMem p seq tagOk addr data => Sys2Proof.Machine.execWriteMem p seq tagOk addr data s
  | .dbgClose p seq tagOk => Sys2Proof.Machine.execDbgClose p seq tagOk s
  | .mgmtWindowAddress addr => Sys2Proof.Machine.execMgmtWindowAddress addr s
  | .mgmtWindowRead => Sys2Proof.Machine.execMgmtWindowRead s
  | .operatorRead addr => Sys2Proof.Machine.execOperatorRead addr s
  | .operatorWrite addr v => Sys2Proof.Machine.execOperatorWrite addr v s
  | .fwData offset data => Sys2Proof.Machine.execFwData offset data s
  | .fwEnd length image => Sys2Proof.Machine.execFwEnd length image s
  | .pmRestart => Sys2Proof.Machine.execPmRestart s
  | .secCommit => Sys2Proof.Machine.execSecCommit s
  | .pairLinkUp l partner => Sys2Proof.Machine.execPairLinkUp l partner s
  | .perstRelease port => Sys2Proof.Machine.execPerstRelease port s
  | .tbHoldoverStart => Sys2Proof.Machine.execTbHoldoverStart s
  | .prechargeBegin => Sys2Proof.Machine.execPrechargeBegin s
  | .moduleSeated => Sys2Proof.Machine.execModuleSeated s
  | .ideKm port sess stream op => Sys2Proof.Machine.execIdeKm port sess stream op s
  | .setdasa target addr => Sys2Proof.Machine.execSetdasa target addr s

end Sys2Proof.Machine
end

