-- ==== Sys2Proof/Machine/Step.lean ====
section
/-! DEFINITION. One step of the panel: the command at the front of its queue, with its effect; with no command waiting the edges of the
1 GHz clock pass (log entries 7 and 94). -/

namespace Sys2Proof.Machine

/-- One step: the front command leaves the queue and has its effect; on an empty queue an edge of the 1 GHz clock passes (R57, DESIGN CHOICE,
log entry 94). -/
def step (s : State) : Host.Outcome State Fault Refusal :=
  match s.pending with
  | [] => .next s.edge
  | c :: rest => exec c { s with pending := rest }

/-- The state with the command that a word spells put in front of its queue, or unchanged where the word spells none. -/
def State.withFetchWord (s : State) (nbits w : Nat) : State :=
  match decodeTableWord nbits w with
  | some c => { s with pending := c :: s.pending }
  | none => s

end Sys2Proof.Machine
end

