-- ==== Sys2Proof/Safety.lean ====
section
/-! DEFINITION. What counts as a safe step and a safe run, and the words in which claims are stated: a command that gives a state, what of a
state is left alone, and an issue of an instruction. -/

namespace Sys2Proof

open Sys2Proof.Machine

/-- The outcome is a next state. -/
def Goes (o : Host.Outcome State Fault Refusal) : Prop := ∃ t, o = .next t

/-- Every command in the state's queue is well-formed. -/
def Fed (s : State) : Prop := ∀ c ∈ s.pending, c.wf = true

/-- A run of `k` steps from the state answers a next state. -/
def SafeFor (k : Nat) (s : State) : Prop := Goes (core.run k s)

/-- A command answers a next state, and the next state is as the claim says. -/
def Gives (c : Instr) (s : State) (claim : State → Prop) : Prop := ∃ t, exec c s = .next t ∧ claim t

/-- Every register but the listed ones reads as before. -/
def RegsBut (s t : State) (l : List Nat) : Prop := ∀ a, a ∉ l → t.reg a = s.reg a

/-- Nothing changed but registers, and of those only the listed ones. -/
def OnlyRegs (s t : State) (l : List Nat) : Prop := t = { s with regs := t.regs } ∧ RegsBut s t l

/-- Every bit of a register but those in a range reads as before. -/
def FieldOnly (s t : State) (a lo w : Nat) : Prop := ∀ i, i < 32 → (i < lo ∨ lo + w ≤ i) → t.bit a i = s.bit a i

/-- Nothing changed but one field of one register, which holds a value now. -/
def SetsField (s t : State) (a lo w v : Nat) : Prop := OnlyRegs s t [a] ∧ FieldOnly s t a lo w ∧ t.field a lo w = v

/-- Nothing changed but one bit of one register, which stands so now. -/
def SetsBit (s t : State) (a i : Nat) (b : Bool) : Prop := OnlyRegs s t [a] ∧ FieldOnly s t a i 1 ∧ t.bit a i = b

/-! Issues. -/

/-- A group can issue an instruction word, and nothing stops it: the context it issues in, and the shape the word has (R88, R96, R97, R127,
R133), and no read finds a parity error. The group has a lane that has not exited. -/
structure Issues (m : Sem) (g : GRef) (w : Fields) (s : State) (c : Ctx) (d : Desc) : Prop where
  sound : g.upset = none
  ctx : m.ctx g w s = some c
  go : m.verdict s c w true = .go d
  live : c.grp.live ≠ 0

/-- Lane i of a group stands at an instruction address. -/
def StandsAt (g : Group) (i : Nat) (pc : W64) : Prop := ∃ u ∈ g.subs, u.lanes.getLsbD i = true ∧ u.pc = pc

/-- What a group holds apart from where its lanes stand and what they wait for: its place in its block, its registers, predicates and flags,
the lanes that are absent or have exited, and its accesses in progress. -/
def Group.holds (g : Group) : (Nat × Nat) × (Tab W32 × Tab W32 × Tab Byte × BitVec 5) × (BitVec 32 × BitVec 32) × List Pend :=
  ((g.block, g.index), (g.tregs, g.uregs, g.preds, g.fpflags), (g.exited, g.absent), g.pend)

/-- What a block holds apart from the arrivals at its barriers. -/
def Block.still (k : Block) : Block := { k with arrived := [] }

/-- Between two states only one array was worked on, and there only where lanes stand and wait, arrivals at barriers, the units an issue
occupies, and the counts of its issues: registers, predicates, flags, pending accesses, local store, caches, tiles and everything outside the
array are as they were. -/
structure Idle (s t : State) (ga : Nat) : Prop where
  rest : t = { s with arrs := t.arrs, accum := t.accum, ahead := t.ahead }
  arrays : ∀ k, k ≠ ga → t.arr k = s.arr k
  array : let b := t.arr ga
    b = { s.arr ga with blocks := b.blocks, groups := b.groups, pointers := b.pointers, busy := b.busy, bankBusy := b.bankBusy }
  groups : ∀ slot, (t.group ga slot).map Group.holds = (s.group ga slot).map Group.holds
  blocks : ∀ b, (t.block ga b).map Block.still = (s.block ga b).map Block.still
  stands : ∀ slot x i pc, s.group ga slot = some x → StandsAt x i pc → ∃ y, t.group ga slot = some y ∧ StandsAt y i pc
  counts : ∀ a, (∀ b, s.arrayBase ga = some b → a ≠ Reg.arrIssued b ∧ a ≠ Reg.arrGranules b) →
    Tab.getD t.accum a 0 = Tab.getD s.accum a 0 ∧ Tab.getD t.ahead a 0 = Tab.getD s.ahead a 0

/-- What an issue leaves: the state `e` of the instruction's own effect, in which nothing changes afterwards but where lanes stand and wait,
and the lanes that issued stand at the next instruction. -/
structure Issued (e t : State) (c : Ctx) : Prop where
  idle : Idle e t c.ga
  moved : ∀ i, c.sub.lanes.getLsbD i = true → ∃ y, t.group c.ga c.slot = some y ∧ StandsAt y i (c.sub.pc + 16)

/-- A group of a context in which the subgroup that issued has moved on: it holds what the group `x` holds, and the lanes of the other
subgroups stand where they stood. -/
def MovedOn (c : Ctx) (x y : Group) : Prop :=
  Group.holds y = Group.holds x ∧ ∀ i pc, c.sub.lanes.getLsbD i = false → StandsAt c.grp i pc → StandsAt y i pc

/-- An issue whose effect is on the group alone, which then holds what `x` holds. -/
def GroupIssue (s t : State) (c : Ctx) (x : Group) : Prop := ∃ y, MovedOn c x y ∧ Issued (s.setGroup c.ga c.slot y) t c

/-- An instruction that, issued with nothing in its way, answers a next state, in which its group holds what the claim says and nothing
else changed. -/
def Computes (ins : GRef → Fields → Instr) (m : Sem) (claim : Fields → Ctx → Desc → Group → Prop) : Prop :=
  ∀ g w s c d, Issues m g w s c d → Gives (ins g w) s (fun t => ∃ x, GroupIssue s t c x ∧ claim w c d x)

/-- The group `x` is the group `g` with `n` words written at D of an instruction word, by each lane that acts or once, and nothing else in
its registers and predicates changed; `f i k` is word k of the value of lane i (R126, R135). -/
structure WritesD (g x : Group) (w : Fields) (act : BitVec 32) (n : Nat) (f : Nat → Nat → W32) : Prop where
  frame : x = { g with tregs := x.tregs, uregs := x.uregs }
  thread : ∀ i, i < 32 → ∀ r, x.treg i r =
    if w.du = false ∧ act.getLsbD i = true ∧ w.d.toNat ≤ r ∧ r < w.d.toNat + n then f i (r - w.d.toNat) else g.treg i r
  uniform : ∀ r, x.ureg r =
    if w.du = true ∧ act ≠ 0 ∧ w.d.toNat ≤ r ∧ r < w.d.toNat + n then f (lowLane act) (r - w.d.toNat) else g.ureg r

/-- The group `x` is the group `g` with PD written by the lanes that act, and nothing else in its registers and predicates changed (R133). -/
structure WritesPd (g x : Group) (w : Fields) (act : BitVec 32) (f : Nat → Bool) : Prop where
  frame : x = { g with preds := x.preds }
  preds : ∀ i, i < 32 → ∀ p, p < 8 → x.pred i p = if act.getLsbD i = true ∧ p = w.pd.toNat then f i else g.pred i p

/-- Element e of source j of a lane, n words wide (R132, R141). -/
def operand (n : Nat) (d : Desc) (w : Fields) (g : Group) (j i e : Nat) : BitVec (32 * n) := BitVec.ofNat (32 * n) (d.read w g j n i e)

/-- As `WritesD`, the value given by its elements, n words each. -/
def WritesElements (g x : Group) (w : Fields) (act : BitVec 32) (width n : Nat) (f : Nat → Nat → BitVec (32 * n)) : Prop :=
  WritesD g x w act (width * n) (fun i k => BitVec.ofNat 32 ((f i (k / n)).toNat / 2 ^ (32 * (k % n))))

/-- A lane that acts and an element of it. -/
def Acts (act : BitVec 32) (width i k : Nat) : Prop := i < 32 ∧ act.getLsbD i = true ∧ k < width

/-- The group `x` but for its floating-point flags, which are those of `g`. -/
def Group.flagsOf (x g : Group) : Group := { x with fpflags := g.fpflags }

/-- Floating-point flags that grew by exactly what the elements of the lanes that act raise (R139). -/
def RaisesFlags (g x : Group) (act : BitVec 32) (width : Nat) (fl : Nat → Nat → FFlags) : Prop :=
  ∀ b, x.fpflags.getLsbD b = true ↔ g.fpflags.getLsbD b = true ∨ ∃ i k, Acts act width i k ∧ (fl i k).getLsbD b = true

/-- The state in which one array was worked on. -/
def onArr (s : State) (ga : Nat) (f : Arr → Arr) : State := s.setArr ga (f (s.arr ga))

/-- The state in which the subgroup of a context has moved on to its next instruction, its effect to come (R95 to R97). -/
def movedOn (s : State) (c : Ctx) (d : Desc) : State := s.setGroup c.ga c.slot (c.advance d).grp

/-- An issue stopped by a fault: who issues, and the fault it meets (R150, R515). -/
structure Faults (m : Sem) (g : GRef) (w : Fields) (s : State) (c : Ctx) (code : Nat) (addr : W64) (word : W32) : Prop where
  sound : g.upset = none
  ctx : m.ctx g w s = some c
  stops : m.verdict s c w true = .stop code addr word

/-- Lane i of a group stands at an address after an issue. -/
def LaneAt (t : State) (c : Ctx) (i : Nat) (pc : W64) : Prop := ∃ y, t.group c.ga c.slot = some y ∧ StandsAt y i pc

/-- Every instruction of the opcode map with its meaning (R136, R156 to R158). -/
def instructions : List ((GRef → Fields → Instr) × Sem) :=
  [(.nop, nopSem), (.exitOp, exitSem), (.yield, yieldSem), (.phase, phaseSem), (.timeRead, timeReadSem), (.trap, trapSem), (.brk, brkSem),
    (.movSr, movSrSem), (.bra, braSem), (.brx, brxSem), (.call, callSem), (.leaPc, leaPcSem), (.fpflagsClr, fpflagsClrSem),
    (.barSync, barSyncSem), (.barArrive, barArriveSem), (.addOp, addOpSem), (.subOp, subOpSem), (.mulLo, mulLoSem), (.mulHi, mulHiSem),
    (.madLo, madLoSem)] ++
  [(.divOp, divOpSem), (.rem, remSem), (.minOp, minOpSem), (.maxOp, maxOpSem), (.absOp, absOpSem), (.negOp, negOpSem), (.andOp, andOpSem),
    (.orOp, orOpSem), (.xorOp, xorOpSem), (.notOp, notOpSem), (.shl, shlSem), (.shr, shrSem), (.sar, sarSem), (.popc, popcSem),
    (.clz, clzSem), (.brev, brevSem), (.bfe, bfeSem), (.bfi, bfiSem), (.setp, setpSem), (.selp, selpSem)] ++
  [(.mov, movSem), (.cvt, cvtSem), (.plop, plopSem), (.addF32, addF32Sem), (.subF32, subF32Sem), (.mulF32, mulF32Sem),
    (.fmaF32, fmaF32Sem), (.minF32, minF32Sem), (.maxF32, maxF32Sem), (.absF32, absF32Sem), (.negF32, negF32Sem), (.rcpF32, rcpF32Sem),
    (.rsqrtF32, rsqrtF32Sem), (.sqrtF32, sqrtF32Sem), (.ex2F32, ex2F32Sem), (.lg2F32, lg2F32Sem), (.setpF32, setpF32Sem),
    (.addBf16x2, addBf16x2Sem), (.mulBf16x2, mulBf16x2Sem), (.fmaBf16x2, fmaBf16x2Sem)] ++
  [(.minBf16x2, minBf16x2Sem), (.maxBf16x2, maxBf16x2Sem), (.addF16x2, addF16x2Sem), (.mulF16x2, mulF16x2Sem), (.fmaF16x2, fmaF16x2Sem),
    (.minF16x2, minF16x2Sem), (.maxF16x2, maxF16x2Sem), (.mma, mmaSem), (.mmaLedger, mmaLedgerSem), (.ltileOpen, ltileOpenSem),
    (.ltileFlush, ltileFlushSem), (.ltileRead, ltileReadSem), (.ltileWrite, ltileWriteSem), (.ltileStat, ltileStatSem),
    (.ltileClose, ltileCloseSem), (.cvtPack, cvtPackSem), (.cvtUnpack, cvtUnpackSem), (.mxScale, mxScaleSem), (.shflIdx, shflIdxSem),
    (.shflXor, shflXorSem)] ++
  [(.shflUp, shflUpSem), (.shflDown, shflDownSem), (.voteAll, voteAllSem), (.voteAny, voteAnySem), (.voteBallot, voteBallotSem),
    (.ld, ldSem), (.ldAcq, ldAcqSem), (.ldLast, ldLastSem), (.st, stSem), (.stRel, stRelSem), (.fence, fenceSem), (.prefetch, prefetchSem),
    (.killLine, killLineSem), (.atomAdd, atomAddSem), (.atomMin, atomMinSem), (.atomMax, atomMaxSem), (.atomAnd, atomAndSem),
    (.atomOr, atomOrSem), (.atomXor, atomXorSem), (.atomExch, atomExchSem)] ++
  [(.atomCas, atomCasSem), (.redAdd, redAddSem), (.redMin, redMinSem), (.redMax, redMaxSem), (.redAnd, redAndSem), (.redOr, redOrSem),
    (.redXor, redXorSem), (.redAddLedger, redAddLedgerSem)]

/-- The state in which a partition's message with a sequence number has been counted and heard, its effect to come (R536, R551). -/
def heardMsg (s : State) (p : Nat) (seq : W64) : State := (s.setPair p { s.pair p with rxHighest := seq, tagFailed := false }).heard

/-- The state in which a session's message has been counted, its effect to come (R625). -/
def heardDbg (s : State) (p : Nat) (seq : W64) : State := s.setDbg p { s.dbgOf p with rxSeq := seq }

/-- What sending a response of an open debug session leaves (R623): the panel's next SEQ is used. -/
def sentDbg (s : State) (p : Nat) : State := s.setDbg p { s.dbgOf p with txSeq := (s.dbgOf p).txSeq + 1 }

/-- A session's message is heard: the panel is of order D and reachable, the session open, the tag good and the sequence number new (R622 to
R625). -/
structure DbgOpen (s : State) (p : Nat) (seq : W64) (tagOk : Bool) : Prop where
  reach : s.mgdLost = false
  order : s.trust.orderD = true
  session : s.bit (Reg.dbgPart p) 0 = true
  tag : tagOk = true
  new : (s.dbgOf p).rxSeq.toNat < seq.toNat

/-- The invariant of every step: both memories in their one form, the register table in order, SEC_MIN within its fuses (R467). -/
structure Sound (s : State) : Prop where
  hbm : Memory.wf s.hbm = true
  far : Memory.wf s.far = true
  regs : Tab.sorted s.regs = true
  secMin : s.trust.secMin ≤ 64

/-- An operation of a management entry on one pigeonhole, with its OP (R459). -/
def HoleOp (e : (Fin 6 → Instr) × Nat) : Prop :=
  e ∈ [(.phDefine, 0x0103), (.phForget, 0x0104), (.phLoad, 0x0105), (.phPin, 0x0106), (.phUnpin, 0x0107), (.phEvict, 0x0108)]

/-- An operation of a management entry that reads a parameter block before anything else, with its OP (R459). -/
def BlockOp (e : (Fin 6 → Instr) × Nat) : Prop :=
  HoleOp e ∨ e ∈ [(.partConfig, 0x0100), (.phSetup, 0x0102), (.farScrub, 0x0300), (.pairJoin, 0x0400), (.rateConfig, 0x0500),
    (.energyRead, 0x0501), (.farRelease, 0x0600), (.farAttach, 0x0601)]

/-- An operation of a management entry, with its OP (R459). -/
def MgmtOp (e : (Fin 6 → Instr) × Nat) : Prop :=
  BlockOp e ∨ e ∈ [(.partRestart, 0x0101), (.pairDigest, 0x0401), (.pairLeave, 0x0402), (.pairStatus, 0x0403)]

end Sys2Proof
end

