-- ==== Sys2Proof/Certificates/Slice0/Obligations.lean ====
section
/-! DEFINITION. The statements for the provers, each a proposition about the model; what each says and rests on is in OBLIGATIONS.json. -/

section

open Sys2Proof Sys2Proof.Machine

/-- For ADD, SUB, MUL_LO, MUL_HI, MAD_LO, DIV, REM, MIN, MAX, ABS and NEG without saturation, at every type, width, operand kind and guard:
an issue that nothing stops gives a next state in which D of every lane that acts (or the uniform D, once) holds, element by element, the
two-complement result with the edge cases of the table of R137, and for ADD and SUB with MOD[56] the exact result clamped to the range of
the type; no other register, predicate, flag, lane, barrier, memory or register of the panel changes but where lanes stand and the issue
counts. (derived: R137, R141, R126, R135) -/
def Obligations.IntegerArithmetic : Prop :=
  (∀ e ∈ ([
    (.addOp, addOpSem, fun _ _ x y _ => x + y),
    (.subOp, subOpSem, fun _ _ x y _ => x - y),
    (.mulLo, mulLoSem, fun _ _ x y _ => x * y),
    (.mulHi, mulHiSem, fun sg n x y _ =>
      if sg then ((x.signExtend (2 * n) * y.signExtend (2 * n)) >>> n).setWidth n else ((x.setWidth (2 * n) * y.setWidth (2 * n)) >>> n).setWidth n),
    (.madLo, madLoSem, fun _ _ x y z => x * y + z),
    (.divOp, divOpSem, fun sg n x y _ => if y = 0 then BitVec.allOnes n else if sg then x.sdiv y else x / y),
    (.rem, remSem, fun sg _ x y _ => if y = 0 then x else if sg then x.srem y else x % y),
    (.minOp, minOpSem, fun sg _ x y _ => if (if sg then y.slt x else y.ult x) then y else x),
    (.maxOp, maxOpSem, fun sg _ x y _ => if (if sg then x.slt y else x.ult y) then y else x),
    (.absOp, absOpSem, fun sg _ x _ _ => if sg && x.msb then -x else x),
    (.negOp, negOpSem, fun _ _ x _ _ => -x)] : List ((GRef → Fields → Instr) × Sem × (Bool → (n : Nat) → BitVec n → BitVec n → BitVec n → BitVec n))),
  Computes e.1 e.2.1 (fun w c d x => w.mod.toNat < 16 →
    WritesElements c.grp x w c.act (vecWidth w) (intWords w) (fun i k =>
      e.2.2 (intSigned w) (32 * intWords w) (operand (intWords w) d w c.grp 0 i k) (operand (intWords w) d w c.grp 1 i k)
        (operand (intWords w) d w c.grp 2 i k)))) ∧
  (∀ e ∈ ([(.addOp, addOpSem, fun x y => x + y), (.subOp, subOpSem, fun x y => x - y)] :
      List ((GRef → Fields → Instr) × Sem × (Int → Int → Int))),
  Computes e.1 e.2.1 (fun w c d x => 16 ≤ w.mod.toNat →
    let n := 32 * intWords w
    let val := fun (v : BitVec n) => if intSigned w then v.toInt else (v.toNat : Int)
    let lo : Int := if intSigned w then -(2 ^ (n - 1)) else 0
    let hi : Int := if intSigned w then 2 ^ (n - 1) - 1 else 2 ^ n - 1
    WritesElements c.grp x w c.act (vecWidth w) (intWords w) (fun i k =>
      BitVec.ofInt n (max lo (min hi (e.2.2 (val (operand (intWords w) d w c.grp 0 i k)) (val (operand (intWords w) d w c.grp 1 i k))))))))

/-- For AND, OR, XOR, NOT, SHL, SHR, SAR, POPC, CLZ, BREV, BFE, BFI and MOV: as IntegerArithmetic, with shift amounts read whole and not
reduced, counts as values of the type, and the fields of BFE and BFI truncated at the width. (derived: R137, R141, R673, R135) -/
def Obligations.IntegerLogic : Prop :=
  ∀ e ∈ ([
    (.andOp, andOpSem, fun _ _ x y _ => x &&& y),
    (.orOp, orOpSem, fun _ _ x y _ => x ||| y),
    (.xorOp, xorOpSem, fun _ _ x y _ => x ^^^ y),
    (.notOp, notOpSem, fun _ _ x _ _ => ~~~x),
    (.shl, shlSem, fun _ _ x y _ => x <<< y.toNat),
    (.shr, shrSem, fun _ _ x y _ => x >>> y.toNat),
    (.sar, sarSem, fun _ _ x y _ => x.sshiftRight y.toNat),
    (.popc, popcSem, fun _ n x _ _ => BitVec.ofNat n ((List.range n).countP x.getLsbD)),
    (.clz, clzSem, fun _ _ x _ _ => x.clz),
    (.brev, brevSem, fun _ _ x _ _ => x.reverse),
    (.bfe, bfeSem, fun sg n x y _ =>
      let len := min (y.toNat / 256 % 256) (n - y.toNat % 256)
      let f := x.extractLsb' (y.toNat % 256) len
      if len = 0 then 0 else if sg then f.signExtend n else f.setWidth n),
    (.bfi, bfiSem, fun _ n x y z =>
      let len := min (y.toNat / 256 % 256) (n - y.toNat % 256)
      let m := (BitVec.allOnes len).setWidth n <<< (y.toNat % 256)
      (z &&& ~~~m) ||| (x <<< (y.toNat % 256) &&& m)),
    (.mov, movSem, fun _ _ x _ _ => x)] : List ((GRef → Fields → Instr) × Sem × (Bool → (n : Nat) → BitVec n → BitVec n → BitVec n → BitVec n))),
  Computes e.1 e.2.1 (fun w c d x => w.mod.toNat < 16 →
    WritesElements c.grp x w c.act (vecWidth w) (intWords w) (fun i k =>
      e.2.2 (intSigned w) (32 * intWords w) (operand (intWords w) d w c.grp 0 i k) (operand (intWords w) d w c.grp 1 i k)
        (operand (intWords w) d w c.grp 2 i k)))

/-- SETP writes PD with the signed or unsigned comparison AUX names, of element 0 of A and B; SELP writes each element of A where the
predicate of C[2:0] is true and of B where it is false; PLOP writes PD with and, or, exclusive or, or and-not of two predicates. Lanes whose
guard fails, and everything else, keep what they had. (derived: R673, R137, R135) -/
def Obligations.ComparisonsAndPredicates : Prop :=
  Computes .setp setpSem (fun w c d x => WritesPd c.grp x w c.act (fun i =>
    let a := operand (intWords w) d w c.grp 0 i 0
    let b := operand (intWords w) d w c.grp 1 i 0
    let lt := if intSigned w then a.slt b else a.ult b
    match w.aux.toNat with
    | 0 => a == b
    | 1 => a != b
    | 2 => lt
    | 3 => lt || a == b
    | 4 => !(lt || a == b)
    | _ => !lt)) ∧
  Computes .selp selpSem (fun w c d x => WritesElements c.grp x w c.act (vecWidth w) (intWords w) (fun i k =>
    if c.grp.pred i w.c.toNat then operand (intWords w) d w c.grp 0 i k else operand (intWords w) d w c.grp 1 i k)) ∧
  Computes .plop plopSem (fun w c _ x => WritesPd c.grp x w c.act (fun i =>
    let a := c.grp.pred i w.a.toNat
    let b := c.grp.pred i w.b.toNat
    match w.aux.toNat with
    | 0 => a && b
    | 1 => a || b
    | 2 => a != b
    | _ => a && !b))

/-- For the thirteen FP32 operations with a register result: an issue that nothing stops writes, in every lane that acts, the operation of
its rule on operands read with FTZ, under the rounding mode of AUX; the flags of the group grow by exactly those its elements raise (ABS and
NEG raise none and keep a payload); nothing else changes. RSQRT, EX2 and LG2 give the model function within their accuracy, its units free
values of log entry 3. (derived: R138, R139, R140, R141, R135) -/
def Obligations.FloatArithmetic : Prop :=
  ∀ e ∈ ([
    (.addF32, addF32Sem, fun m z x y _ => fp32.add m z (fp32.decodeFtz z x) (fp32.decodeFtz z y)),
    (.subF32, subF32Sem, fun m z x y _ => fp32.add m z (fp32.decodeFtz z x) (fp32.decodeFtz z y).negate),
    (.mulF32, mulF32Sem, fun m z x y _ => fp32.mul m z (fp32.decodeFtz z x) (fp32.decodeFtz z y)),
    (.fmaF32, fmaF32Sem, fun m z x y v => fp32.fma m z (fp32.decodeFtz z x) (fp32.decodeFtz z y) (fp32.decodeFtz z v)),
    (.minF32, minF32Sem, fun _ z x y _ => fp32.minMax false (fp32.decodeFtz z x) (fp32.decodeFtz z y)),
    (.maxF32, maxF32Sem, fun _ z x y _ => fp32.minMax true (fp32.decodeFtz z x) (fp32.decodeFtz z y)),
    (.absF32, absF32Sem, fun _ _ x _ _ => (x &&& 0x7FFFFFFF, 0)),
    (.negF32, negF32Sem, fun _ _ x _ _ => (x ^^^ 0x80000000, 0)),
    (.rcpF32, rcpF32Sem, fun m z x _ _ => fp32.rcp m z (fp32.decodeFtz z x)),
    (.rsqrtF32, rsqrtF32Sem, fun m z x _ _ => rsqrtF m z x),
    (.sqrtF32, sqrtF32Sem, fun m z x _ _ => fp32.sqrt m z (fp32.decodeFtz z x)),
    (.ex2F32, ex2F32Sem, fun m z x _ _ => ex2F m z x),
    (.lg2F32, lg2F32Sem, fun m z x _ _ => lg2F m z x)] : List ((GRef → Fields → Instr) × Sem × (Nat → Bool → Nat → Nat → Nat → Nat × FFlags))),
  Computes e.1 e.2.1 (fun w c d x =>
    let el := fun i k => e.2.2 w.aux.toNat (fpFtz w) (operand 1 d w c.grp 0 i k).toNat (operand 1 d w c.grp 1 i k).toNat
      (operand 1 d w c.grp 2 i k).toNat
    WritesElements c.grp (Group.flagsOf x c.grp) w c.act (fpWidth w) 1 (fun i k => BitVec.ofNat 32 (el i k).1) ∧
      RaisesFlags c.grp x c.act (fpWidth w) (fun i k => (el i k).2))

/-- For the ten packed operations: bits [15:0] and [31:16] of each element are the operation on the low and the high halves, each rounded on
its own; the flags of the group grow by exactly those the halves raise; nothing else changes. (derived: R142, R138, R139, R135) -/
def Obligations.PackedArithmetic : Prop :=
  ∀ e ∈ ([
    (.addBf16x2, addBf16x2Sem, fun m z x y _ => bf16.add m z (bf16.decodeFtz z x) (bf16.decodeFtz z y)),
    (.mulBf16x2, mulBf16x2Sem, fun m z x y _ => bf16.mul m z (bf16.decodeFtz z x) (bf16.decodeFtz z y)),
    (.fmaBf16x2, fmaBf16x2Sem, fun m z x y v => bf16.fma m z (bf16.decodeFtz z x) (bf16.decodeFtz z y) (bf16.decodeFtz z v)),
    (.minBf16x2, minBf16x2Sem, fun _ z x y _ => bf16.minMax false (bf16.decodeFtz z x) (bf16.decodeFtz z y)),
    (.maxBf16x2, maxBf16x2Sem, fun _ z x y _ => bf16.minMax true (bf16.decodeFtz z x) (bf16.decodeFtz z y)),
    (.addF16x2, addF16x2Sem, fun m z x y _ => fp16.add m z (fp16.decodeFtz z x) (fp16.decodeFtz z y)),
    (.mulF16x2, mulF16x2Sem, fun m z x y _ => fp16.mul m z (fp16.decodeFtz z x) (fp16.decodeFtz z y)),
    (.fmaF16x2, fmaF16x2Sem, fun m z x y v => fp16.fma m z (fp16.decodeFtz z x) (fp16.decodeFtz z y) (fp16.decodeFtz z v)),
    (.minF16x2, minF16x2Sem, fun _ z x y _ => fp16.minMax false (fp16.decodeFtz z x) (fp16.decodeFtz z y)),
    (.maxF16x2, maxF16x2Sem, fun _ z x y _ => fp16.minMax true (fp16.decodeFtz z x) (fp16.decodeFtz z y))] :
      List ((GRef → Fields → Instr) × Sem × (Nat → Bool → Nat → Nat → Nat → Nat × FFlags))),
  Computes e.1 e.2.1 (fun w c d x =>
    let a := fun j i k => (operand 1 d w c.grp j i k).toNat
    let lo := fun i k => e.2.2 w.aux.toNat (fpFtz w) (a 0 i k % 2 ^ 16) (a 1 i k % 2 ^ 16) (a 2 i k % 2 ^ 16)
    let hi := fun i k => e.2.2 w.aux.toNat (fpFtz w) (a 0 i k / 2 ^ 16) (a 1 i k / 2 ^ 16) (a 2 i k / 2 ^ 16)
    WritesElements c.grp (Group.flagsOf x c.grp) w c.act (fpWidth w) 1 (fun i k => BitVec.ofNat 16 (hi i k).1 ++ BitVec.ofNat 16 (lo i k).1) ∧
      RaisesFlags c.grp x c.act (fpWidth w) (fun i k => (lo i k).2 ||| (hi i k).2))

/-- SETP_F32 writes PD with the quiet comparison AUX names and raises INVALID only for signalling operands; CVT writes one element of the
destination type: between integers the value wrapped, otherwise the conversion of R674 in the mode of AUX, with its flags. Nothing else
changes. (derived: R138, R139, R674, R135) -/
def Obligations.FloatComparisonAndConversion : Prop :=
  Computes .setpF32 setpF32Sem (fun w c d x =>
    let r := fun i => setpF w.aux.toNat (fp32.decodeFtz (fpFtz w) (operand 1 d w c.grp 0 i 0).toNat)
      (fp32.decodeFtz (fpFtz w) (operand 1 d w c.grp 1 i 0).toNat)
    WritesPd c.grp (Group.flagsOf x c.grp) w c.act (fun i => (r i).1) ∧ RaisesFlags c.grp x c.act 1 (fun i _ => (r i).2)) ∧
  Computes .cvt cvtSem (fun w c d x =>
    let dt := w.mod.toNat % 8
    let st := w.mod.toNat / 8
    let el := fun i => cvtElem w.aux.toNat dt st (operand (cvtWords st) d w c.grp 0 i 0).toNat
    WritesElements c.grp (Group.flagsOf x c.grp) w c.act 1 (cvtWords dt) (fun i _ =>
      if st < 4 ∧ dt < 4 then
        (let v := operand (cvtWords st) d w c.grp 0 i 0
        if st % 2 = 1 then v.signExtend _ else v.setWidth _)
      else BitVec.ofNat _ (el i).1) ∧
    RaisesFlags c.grp x c.act 1 (fun i _ => if st < 4 ∧ dt < 4 then 0 else (el i).2))

/-- MMA writes, for every live lane i and column j, the accumulation of the K products of row i and column j with C[i][j], once rounded, or
modulo 2^32 for the integer accumulator; CVT_PACK packs the converted elements, CVT_UNPACK writes the FP32 values, MX_SCALE writes the E8M0
scale of 32 values. The flags grow by exactly what the elements raise and nothing else changes. For the integer formats (codes 4 and 5) the
products of MMA are exact products of sign-extended elements. (derived: R187, R188, R190, R181, R106, R139, R171, R178, R182) -/
def Obligations.MatrixRegisters : Prop :=
  Computes .mma mmaSem (fun w c _ x =>
    let cv := fun i j => if w.kc = 0 then (c.grp.treg i (w.c.toNat + j)).toNat else 0
    let el := fun i j => accumulate (rowProducts c.grp w i j ++ [fp32.decode (cv i j)])
    if 16 ≤ w.mod.toNat then
      WritesD c.grp x w c.act 32 (fun i j => BitVec.ofInt 32 (exactSum 0 (rowProducts c.grp w i j) + (cv i j : Int)))
    else WritesD c.grp (Group.flagsOf x c.grp) w c.act 32 (fun i j => BitVec.ofNat 32 (el i j).1) ∧
      RaisesFlags c.grp x c.act 32 (fun i j => (el i j).2)) ∧
  Computes .cvtPack cvtPackSem (fun w c d x =>
    let code := w.mod.toNat % 16
    let el := fun i k => packElem code w.aux.toNat (bitAt w.mod.toNat 4) (scaleOf d c w i) (operand 1 d w c.grp 0 i k).toNat
    WritesD c.grp (Group.flagsOf x c.grp) w c.act (packRegs code) (fun i k =>
      BitVec.ofNat 32 (packBits (elemBits code) ((List.range (packCount code)).map (fun j => (el i j).1)) / 2 ^ (32 * k))) ∧
    RaisesFlags c.grp x c.act (packCount code) (fun i k => (el i k).2)) ∧
  Computes .cvtUnpack cvtUnpackSem (fun w c d x =>
    let code := w.mod.toNat % 16
    let el := fun i k => unpackElem code (scaleOf d c w i) (bitsOf (c.grp.twords i w.a.toNat (packRegs code)) (elemBits code * k) (elemBits code))
    WritesElements c.grp (Group.flagsOf x c.grp) w c.act (packCount code) 1 (fun i k => BitVec.ofNat 32 (el i k).1) ∧
    RaisesFlags c.grp x c.act (packCount code) (fun i k => (el i k).2)) ∧
  Computes .mxScale mxScaleSem (fun w c _ x =>
    let vs := fun i => (List.range 32).map (fun k => fp32.decode (c.grp.treg i (w.a.toNat + k)).toNat)
    WritesD c.grp (Group.flagsOf x c.grp) w c.act 1 (fun i _ => BitVec.ofNat 32 (mxScaleOf w.mod.toNat (vs i))) ∧
    RaisesFlags c.grp x c.act 1 (fun i _ => sigFlags (vs i))) ∧
  ∀ (g : Group) (w : Fields) (i j : Nat), w.mod.toNat % 16 = 4 ∨ w.mod.toNat % 16 = 5 →
    exactSum 0 (rowProducts g w i j) = ((List.range (matrixK (w.mod.toNat % 16))).map (fun k =>
      (BitVec.ofNat (elemBits (w.mod.toNat % 16)) (fragElem g (w.mod.toNat % 16) w.a.toNat i k)).toInt *
        (BitVec.ofNat (elemBits (w.mod.toNat % 16)) (fragElem g (w.mod.toNat % 16) w.b.toNat j k)).toInt)).sum

/-- For the four SHFL forms each lane that acts receives the A of the lane the rule names, or its own where the rule says so, absent lanes
supplying zero; VOTE_ALL and VOTE_ANY write PD with the AND or OR over the 32 lanes; VOTE_BALLOT writes the mask, into thread registers or a
uniform register. Nothing else changes. (stated: R148) -/
def Obligations.LaneExchange : Prop :=
  (∀ e ∈ ([
    (.shflIdx, shflIdxSem, fun _ b => b.toNat % 32),
    (.shflXor, shflXorSem, fun i b => Nat.xor i (b.toNat % 32)),
    (.shflUp, shflUpSem, fun i b => if b.toNat ≤ i then i - b.toNat else i),
    (.shflDown, shflDownSem, fun i b => if i + b.toNat ≤ 31 then i + b.toNat else i)] :
      List ((GRef → Fields → Instr) × Sem × (Nat → BitVec 32 → Nat))),
    Computes e.1 e.2.1 (fun w c d x => WritesD c.grp x w c.act 1 (fun i _ =>
      let j := e.2.2 i (operand 1 d w c.grp 1 i 0)
      if c.grp.absent.getLsbD j then 0 else operand 1 d w c.grp 0 j 0))) ∧
  Computes .voteAll voteAllSem (fun w c _ x => WritesPd c.grp x w c.act (fun _ =>
    (List.range 32).all (fun i => !c.grp.absent.getLsbD i && c.grp.pred i w.a.toNat))) ∧
  Computes .voteAny voteAnySem (fun w c _ x => WritesPd c.grp x w c.act (fun _ =>
    (List.range 32).any (fun i => !c.grp.absent.getLsbD i && c.grp.pred i w.a.toNat))) ∧
  Computes .voteBallot voteBallotSem (fun w c _ x => ∃ m : BitVec 32,
    (∀ i, i < 32 → m.getLsbD i = (!c.grp.absent.getLsbD i && c.grp.pred i w.a.toNat)) ∧ WritesD c.grp x w c.act 1 (fun _ _ => m))

/-- NOP takes one issue and changes nothing; TIME_READ writes the timebase replica of the die into a pair; MOV_SR writes the special
register A names, for each of the seventeen of the table of R129; LEA_PC writes its own address plus the sign-extended IMM0; FPFLAGS_CLR
clears the flags IMM0 selects when a lane acts. (derived: R158, R59, R129, R146, R139) -/
def Obligations.RegisterControl : Prop :=
  Computes .nop nopSem (fun _ c _ x => x = c.grp) ∧
  Computes .leaPc leaPcSem (fun w c _ x => WritesD c.grp x w c.act 2 (fun _ k =>
    ((c.sub.pc + w.imm0.signExtend 64) >>> (32 * k)).setWidth 32)) ∧
  Computes .fpflagsClr fpflagsClrSem (fun w c _ x =>
    x = { c.grp with fpflags := if c.act = 0 then c.grp.fpflags else c.grp.fpflags &&& ~~~(w.imm0.setWidth 5) }) ∧
  (∀ g w s c d, Issues timeReadSem g w s c d → Gives (.timeRead g w) s (fun t => ∃ x, GroupIssue s t c x ∧
    WritesD c.grp x w c.act 2 (fun _ k => (s.dieTime (c.ga / 8) >>> (32 * k)).setWidth 32))) ∧
  (∀ g w s c d, Issues movSrSem g w s c d → Gives (.movSr g w) s (fun t => ∃ x, GroupIssue s t c x ∧
    ∀ e ∈ ([
      (0x00, fun i => i), (0x01, fun i => 32 * c.grp.index + i), (0x02, fun _ => c.blk.threads), (0x03, fun _ => c.grp.index),
      (0x04, fun _ => c.blk.index), (0x05, fun _ => c.blk.nblocks), (0x06, fun _ => c.blk.seq.toNat), (0x07, fun _ => c.sub.lanes.toNat),
      (0x08, fun _ => (~~~(c.grp.exited ||| c.grp.absent)).toNat), (0x09, fun _ => 16384 * c.blk.units.length),
      (0x0A, fun _ => c.grp.fpflags.toNat), (0x0B, fun _ => c.blk.seed.toNat), (0x0C, fun _ => c.blk.seed.toNat / 2 ^ 32),
      (0x10, fun _ => c.ga), (0x11, fun _ => c.slot / 16), (0x12, fun _ => c.slot), (0x13, fun _ => (s.arr c.ga).phaseValue.toNat)] :
        List (Nat × (Nat → Nat))),
      w.a.toNat = e.1 → WritesD c.grp x w c.act 1 (fun i _ => BitVec.ofNat 32 (e.2 i))))

/-- After a branch that nothing stops, every lane of the issuing subgroup whose guard holds stands at its target (IMM0 words of 16 bytes
from the branch, or the pair A names), every other lane of it at the next instruction, and the lanes of other subgroups where they stood;
CALL writes the return address into the pair D first. Apart from CALL no register changes, and nothing else of the panel changes but the
count of splits and the issue counts. (derived: R144, R145, R146, R92, R134) -/
def Obligations.ControlFlow : Prop :=
  let moves := fun (s t : State) (c : Ctx) (x : Group) (target : Nat → W64) => ∃ y n, Group.holds y = Group.holds x ∧
    Idle ({ s with ids := n }.setGroup c.ga c.slot y) t c.ga ∧
    (∀ i, c.sub.lanes.getLsbD i = true → LaneAt t c i (if c.act.getLsbD i then target i else c.sub.pc + 16)) ∧
    (∀ i pc, c.sub.lanes.getLsbD i = false → StandsAt c.grp i pc → LaneAt t c i pc)
  (∀ g w s c d, Issues braSem g w s c d → Gives (.bra g w) s (fun t =>
    moves s t c c.grp (fun _ => c.sub.pc + w.imm0.signExtend 64 * 16))) ∧
  (∀ g w s c d, Issues brxSem g w s c d → Gives (.brx g w) s (fun t => moves s t c c.grp (fun i =>
    if w.ka = 0 then (c.grp.treg i (w.a.toNat + 1)) ++ (c.grp.treg i w.a.toNat) else (c.grp.ureg (w.a.toNat + 1)) ++ (c.grp.ureg w.a.toNat)))) ∧
  (∀ g w s c d, Issues callSem g w s c d → Gives (.call g w) s (fun t => ∃ x,
    WritesD c.grp x w c.act 2 (fun _ k => ((c.sub.pc + 16) >>> (32 * k)).setWidth 32) ∧
    moves s t c x (fun _ => c.sub.pc + w.imm0.signExtend 64 * 16)))

/-- YIELD: the group holds what it held, the acting lanes stand at the next instruction in a subgroup whose yield count is 0, stopped
exactly when a stop is pending for the block. PHASE with a lane that acts sets the phase of its array to the kernel identifier and
IMM0[15:0] in the state of its own effect; with none it changes nothing. After an EXIT that nothing stops, while some lane of the group has
not exited: the exited lanes of the group are those before and the lanes that acted; registers, predicates and flags stay; the other lanes
of the subgroup stand at the next instruction and those of other subgroups where they stood; nothing else changes but barriers that complete
and the issue counts. TRAP with a lane that acts, standing in the text with a legal word and no breakpoint: the block halts and the raised
record has code 0x0107 with IMM0 in detail word 4. BRK that nothing stops: with debug open for the partition and a lane acting, the group
stands at the next instruction, held, with an event record of cause 0; otherwise the group is left as it was and goes on. (derived: R119,
R117, R158, R568, R86, R109, R134, R627, R493, R626) -/
def Obligations.YieldsExitsAndTraps : Prop :=
  ((∀ g w s c d, Issues yieldSem g w s c d → Gives (.yield g w) s (fun t => ∃ y, MovedOn c c.grp y ∧ Issued (s.setGroup c.ga c.slot y) t c ∧
    (c.act ≠ 0 → ∃ u ∈ y.subs, u.lanes &&& c.act = c.act ∧ u.yieldCount = 0 ∧ u.pc = c.sub.pc + 16 ∧ u.stopped = c.blk.stopPending))) ∧
  (∀ g w s c d, Issues phaseSem g w s c d → Gives (.phase g w) s (fun t => ∃ e, Issued e t c ∧
    if c.act = 0 then e = movedOn s c d
    else e = (movedOn s c d).setPhase c.ga c.blk.kernelId (w.imm0.setWidth 16) ∧
      (t.arr c.ga).phaseKernel = c.blk.kernelId ∧ (t.arr c.ga).phaseValue = w.imm0.setWidth 16 ∧ (t.arr c.ga).phaseSteps = 0 ∧
      (t.arr c.ga).phaseEnergy = 0 ∧ t.regs = s.regs))) ∧
  (∀ g w s c d, Issues exitSem g w s c d → c.grp.live &&& ~~~c.act ≠ 0 → Gives (.exitOp g w) s (fun t => ∃ y,
    Group.holds y = Group.holds { c.grp with exited := c.grp.exited ||| c.act } ∧ Idle (s.setGroup c.ga c.slot y) t c.ga ∧
    (∀ i, c.sub.lanes.getLsbD i = true → c.act.getLsbD i = false → LaneAt t c i (c.sub.pc + 16)) ∧
    (∀ i pc, c.sub.lanes.getLsbD i = false → StandsAt c.grp i pc → LaneAt t c i pc))) ∧
  ((∀ g w s c d, g.upset = none → trapSem.ctx g w s = some c → c.blk.inText c.sub.pc = true → s.breakAt c.blk.part c.sub.pc = none →
    trapSem.desc w = some d → d.legal w = true → d.outOfRange w c.blk.regs = false → c.act ≠ 0 →
    Gives (.trap g w) s (fun t => (t.block c.ga c.grp.block).map (·.halted) = some true ∧ (∀ ga slot, t.group ga slot = s.group ga slot) ∧
      ∃ r, t.faults.undelivered = s.faults.undelivered ++ [r] ∧ r.code = 0x0107 ∧ r.detail.getD 4 0 = w.imm0)) ∧
  (∀ g w s c d, Issues brkSem g w s c d → Gives (.brk g w) s (fun t =>
    if c.act ≠ 0 ∧ s.bit (Reg.keyState c.blk.part) 16 = true then
      Issued ((movedOn s c d).haltFor c 0 0) t c ∧ (t.dbgOf c.blk.part).held.contains (c.ga, c.slot) = true
    else Issued (movedOn s c d) t c)))

/-- For every instruction of the opcode map: when its issue meets a fault (an illegal word, a register out of range, a misaligned, unmapped
or out-of-range address, TRAP and the rest), the next state has the block of the issuing group halted, every group of every array with the
registers, predicates, lanes and places it had, no cache, tile or local byte changed, no request sent, the pointer of the quarter at the
slot (that a faulting issue moves it is the choice of log entry 83), and one more undelivered fault record: the BLOCK record of that group
with the code and address. (derived: R133, R127, R150, R515, R516, R506, R500) -/
def Obligations.InstructionFaults : Prop :=
  ∀ e ∈ instructions, ∀ g w s c code addr word, Faults e.2 g w s c code addr word → Gives (e.1 g w) s (fun t =>
    (t.block c.ga c.grp.block).map (·.halted) = some true ∧ (∀ ga slot, t.group ga slot = s.group ga slot) ∧
    (∀ k, t.arr k = { s.arr k with blocks := (t.arr k).blocks, pointers := (t.arr k).pointers }) ∧
    (∀ k, k ≠ c.ga → (t.arr k).pointers = (s.arr k).pointers) ∧
    (t.arr c.ga).pointers = Tab.put (s.arr c.ga).pointers (c.slot / 16) c.slot ∧
    (∀ ga b, ga ≠ c.ga ∨ b ≠ c.grp.block → t.block ga b = s.block ga b) ∧
    t.faults.undelivered = s.faults.undelivered ++ [groupFault s c code addr word] ∧
    t = { s with regs := t.regs, accum := t.accum, ahead := t.ahead, arrs := t.arrs, works := t.works, parts := t.parts, faults := t.faults })

/-- For every instruction of the opcode map and every word whose fields its shape does not allow, issued from the text of its block by a
group with no breakpoint there: the block halts, no register of any group changes, and the raised record carries code 0x0101. (derived:
R133) -/
def Obligations.IllegalWords : Prop :=
  ∀ e ∈ instructions, ∀ g w s c, g.upset = none → e.2.ctx g w s = some c → c.blk.inText c.sub.pc = true →
    s.breakAt c.blk.part c.sub.pc = none → (∀ d, e.2.desc w = some d → d.legal w = false) →
    Gives (e.1 g w) s (fun t => (t.block c.ga c.grp.block).map (·.halted) = some true ∧ (∀ ga slot, t.group ga slot = s.group ga slot) ∧
      ∃ r, t.faults.undelivered = s.faults.undelivered ++ [r] ∧ r.code = 0x0101 ∧ r.cls = 2 ∧ r.part = some c.blk.part)

/-- The state of the effect: the block counts, at the barrier the word names, the threads of the acting lanes beside those that had arrived
(a thread that has arrived counts once); for BAR_SYNC the acting lanes stand at the next instruction and wait there for the barrier. What
follows the issue only lets lanes meet and barriers complete: completing a barrier at which some thread has arrived and every thread has
arrived or exited empties its arrivals and lets its waiters run, and otherwise nothing changes. (derived: R108, R107, R147, R109, R110, R94)
-/
def Obligations.Barriers : Prop :=
  (∀ g w s c d, Issues barArriveSem g w s c d → Gives (.barArrive g w) s (fun t => ∃ k, s.block c.ga c.grp.block = some k ∧
    let arrived := Tab.put k.arrived (barNumber c w) (Tab.getD k.arrived (barNumber c w) 0 ||| threadSet c.grp c.act)
    Issued ((movedOn s c d).setBlock c.ga c.grp.block { k with arrived := arrived }) t c)) ∧
  (∀ g w s c d, Issues barSyncSem g w s c d → Gives (.barSync g w) s (fun t => ∃ k y, s.block c.ga c.grp.block = some k ∧ MovedOn c c.grp y ∧
    (c.act ≠ 0 → ∃ u ∈ y.subs, u.lanes = c.act ∧ u.wait = .barrier (barNumber c w) ∧ u.pc = c.sub.pc + 16) ∧
    let arrived := Tab.put k.arrived (barNumber c w) (Tab.getD k.arrived (barNumber c w) 0 ||| threadSet c.grp c.act)
    Issued ((s.setGroup c.ga c.slot y).setBlock c.ga c.grp.block { k with arrived := arrived }) t c)) ∧
  ∀ (a : Arr) (bs b : Nat) (k : Block), Tab.get a.blocks bs = some k →
    (Tab.getD k.arrived b 0 ≠ 0 ∧ k.complete (exitedThreads a bs) b = true →
      (∃ k', Tab.get (completeBarrier a bs b).blocks bs = some k' ∧ Tab.getD k'.arrived b 0 = 0 ∧
        ∀ b', b' ≠ b → Tab.getD k'.arrived b' 0 = Tab.getD k.arrived b' 0) ∧
      ∀ slot x, Tab.get (completeBarrier a bs b).groups slot = some x → x.block = bs → ∀ u ∈ x.subs, u.wait ≠ .barrier b) ∧
    (¬ (Tab.getD k.arrived b 0 ≠ 0 ∧ k.complete (exitedThreads a bs) b = true) → completeBarrier a bs b = a) ∧
    ∀ slot x, Tab.get a.groups slot = some x → ∃ y, Tab.get (completeBarrier a bs b).groups slot = some y ∧ Group.holds y = Group.holds x ∧
      ∀ i pc, StandsAt x i pc → StandsAt y i pc

/-- After an MMA_LEDGER that nothing stops: in the tile it names as it will be, every element of all 32 rows and columns holds its
accumulator plus the sum of the contributions of its products, its tag combined with theirs; UNDERFLOW, OVERFLOW and INVALID are raised
exactly when a contribution raises them or a NaN arises; owner, format and W stay. That tile is held by the matrix cells of the quarter,
with the staging sums and the residues expected of them, which agree; no register, flag of the group or tile changes yet. When the occupancy
of the cells has ended the held tile takes the place of the one its group still owns, and until then every tile stays. (derived: R194, R195,
R196, R106, R232, R233, R234, R139) -/
def Obligations.LedgerSum : Prop :=
  (∀ g w s c d, Issues mmaLedgerSem g w s c d → Gives (.mmaLedger g w) s (fun t => ∃ t0 t1 x, s.tileOf c w = some t0 ∧
    x.slot = c.slot ∧ x.tileNo = tileKey c w % 4 ∧ x.pc = c.sub.pc ∧ x.after = t1 ∧
    (∀ n, n < 1024 → residue (Tab.getD x.sums n 0) = Tab.getD x.expected n 0) ∧
    (∀ i j, i < 32 → j < 32 → t1.acc i j = t0.acc i j + Tab.getD x.sums (32 * i + j) 0) ∧
    Issued (onArr (movedOn s c d) c.ga (fun a => { a with staged := Tab.put a.staged (c.slot / 16) x })) t c ∧
    t1.owner = t0.owner ∧ t1.fmt = t0.fmt ∧ t1.w = t0.w ∧
    (∀ i j, i < 32 → j < 32 →
      t1.acc i j = t0.acc i j + BitVec.ofInt 144 ((rowProducts c.grp w i j).map (fun p => (contribution t0.w p).1)).sum ∧
      t1.tag i j = (rowProducts c.grp w i j).foldl (fun tag p => tag.join (contribution t0.w p).2.1) (t0.tag i j)) ∧
    (∀ b, b < 2 → (t1.flags.getLsbD b = true ↔ t0.flags.getLsbD b = true ∨
      ∃ i j, i < 32 ∧ j < 32 ∧ ∃ p ∈ rowProducts c.grp w i j, (contribution t0.w p).2.2.getLsbD b = true)) ∧
    (t1.flags.getLsbD 2 = true ↔ t0.flags.getLsbD 2 = true ∨ ∃ i j, i < 32 ∧ j < 32 ∧
      ((t1.tag i j = .nan ∧ t0.tag i j ≠ .nan) ∨ ∃ p ∈ rowProducts c.grp w i j, (contribution t0.w p).2.1 = .nan)))) ∧
  ∀ (a : Arr) (q : Nat) (x : Staging), Tab.sorted a.staged = true → (∀ e ∈ a.staged, e.2.tileNo < 4) → Tab.get a.staged q = some x →
    let key := 4 * q + x.tileNo
    if Tab.getD a.busy (16 + q) 0 = 0 then Tab.get a.commit.staged q = none ∧
      (∀ t0, Tab.get a.tiles key = some t0 → Tab.get a.commit.tiles key = some (if t0.owner = x.slot then x.after else t0))
    else Tab.get a.commit.staged q = some x ∧ Tab.get a.commit.tiles key = Tab.get a.tiles key

/-- With a free tile in the quarter: the lowest-numbered one becomes owned by the slot with the format, W = S_open + L_f, zero accumulators,
finite tags and clear flags, and its number stands in the uniform register D. With none: the group stands at the instruction, its registers
and every tile as they were. LTILE_FLUSH: D of lane i holds the 32 flushed elements of row i packed in the output format, FPFLAGS unchanged;
with KEEP the tile stays, its flags grown by what the elements raise, and without it the tile is gone and free tiles go to groups that wait.
LTILE_CLOSE frees the tile in the same way and writes nothing. LTILE_READ writes the low 128 bits of n accumulators of the row of each lane
and PD where one is not finite or out of range; LTILE_WRITE sets those accumulators to the sign-extended values with finite tags, or adds
them, in every row, absent lanes supplying zeros, leaving all other elements, W and the flags; LTILE_STAT writes W, flags and format to a
uniform register. (derived: R199, R193, R200, R202, R203, R206, R209, R211, R204, R205, R106, R197) -/
def Obligations.LedgerTiles : Prop :=
  (∀ g w s c d, Issues ltileOpenSem g w s c d →
    (∀ k0, k0 / 4 = c.slot / 16 → Tab.get (s.arr c.ga).tiles k0 = none → Gives (.ltileOpen g w) s (fun t => ∃ key S y,
      key / 4 = c.slot / 16 ∧ Tab.get (s.arr c.ga).tiles key = none ∧
      (∀ k, k / 4 = c.slot / 16 → k < key → Tab.get (s.arr c.ga).tiles k ≠ none) ∧ sOpen w (openWord c w) = some S ∧
      MovedOn c { c.grp with uregs := Tab.put c.grp.uregs w.d.toNat (BitVec.ofNat 32 (key % 4)) } y ∧
      let fmt := w.mod.toNat % 16
      let tile : Tile := { owner := c.slot, fmt := fmt, w := S + ledgerBase fmt, flags := 0, accs := [], tags := [] }
      Issued (onArr (s.setGroup c.ga c.slot y) c.ga (fun a => { a with tiles := Tab.put a.tiles key tile })) t c)) ∧
    ((∀ k, k / 4 = c.slot / 16 → Tab.get (s.arr c.ga).tiles k ≠ none) → Gives (.ltileOpen g w) s (fun t => ∃ y,
      Group.holds y = Group.holds c.grp ∧ Idle (s.setGroup c.ga c.slot y) t c.ga ∧
      ∀ i, c.sub.lanes.getLsbD i = true → LaneAt t c i c.sub.pc))) ∧
  (let closed := fun (c : Ctx) (w : Fields) (a : Arr) => serveTiles { a with tiles := Tab.erase a.tiles (tileKey c w) }
  (∀ g w s c d, Issues ltileCloseSem g w s c d → Gives (.ltileClose g w) s (fun t => Issued (onArr (movedOn s c d) c.ga (closed c w)) t c)) ∧
  (∀ g w s c d, Issues ltileFlushSem g w s c d → Gives (.ltileFlush g w) s (fun t => ∃ t0 x y, s.tileOf c w = some t0 ∧ MovedOn c x y ∧
    let el := fun i j => flushElem (flushFmt w) t0.w (t0.acc i j) (t0.tag i j) (flushDraw c w i j)
    WritesD c.grp x w c.act (flushRegs w) (fun i k =>
      BitVec.ofNat 32 (((List.range 32).map (fun j => (el i j).1 * 2 ^ ((flushFmt w).width * j))).sum / 2 ^ (32 * k))) ∧
    if flushKeep w then ∃ fl, Issued (onArr (s.setGroup c.ga c.slot y) c.ga (fun a =>
        { a with tiles := Tab.put a.tiles (tileKey c w) { t0 with flags := fl } })) t c ∧
      ∀ b, fl.getLsbD b = true ↔ t0.flags.getLsbD b = true ∨ ∃ i j, i < 32 ∧ j < 32 ∧ (el i j).2.getLsbD b = true
    else Issued (onArr (s.setGroup c.ga c.slot y) c.ga (closed c w)) t c))) ∧
  ((∀ g w s c d, Issues ltileReadSem g w s c d → Gives (.ltileRead g w) s (fun t => ∃ t0 x1 x, s.tileOf c w = some t0 ∧ GroupIssue s t c x ∧
    WritesD c.grp x1 w c.act (4 * tileCols w) (fun i k =>
      ((t0.acc i (tileCol0 w + k / 4)) >>> (32 * (k % 4))).setWidth 32) ∧
    WritesPd x1 x w c.act (fun i => (List.range (tileCols w)).any (fun k =>
      t0.tag i (tileCol0 w + k) != .finite || decide ((t0.acc i (tileCol0 w + k)).toInt < -(2 ^ 127)) ||
        decide (2 ^ 127 ≤ (t0.acc i (tileCol0 w + k)).toInt))))) ∧
  (∀ g w s c d, Issues ltileWriteSem g w s c d → Gives (.ltileWrite g w) s (fun t => ∃ t0 t1, s.tileOf c w = some t0 ∧
    Issued (onArr (movedOn s c d) c.ga (fun a => { a with tiles := Tab.put a.tiles (tileKey c w) t1 })) t c ∧
    t1.owner = t0.owner ∧ t1.fmt = t0.fmt ∧ t1.w = t0.w ∧ t1.flags = t0.flags ∧
    ∀ i j, i < 32 → j < 32 →
      let v := (BitVec.ofNat 128 (if c.grp.absent.getLsbD i then 0 else c.grp.twords i (w.a.toNat + 4 * (j - tileCol0 w)) 4)).signExtend 144
      if tileCol0 w ≤ j ∧ j < tileCol0 w + tileCols w then
        (if 16 ≤ w.mod.toNat then t1.acc i j = t0.acc i j + v ∧ t1.tag i j = t0.tag i j else t1.acc i j = v ∧ t1.tag i j = .finite)
      else t1.acc i j = t0.acc i j ∧ t1.tag i j = t0.tag i j)) ∧
  (∀ g w s c d, Issues ltileStatSem g w s c d → Gives (.ltileStat g w) s (fun t => ∃ t0 x, s.tileOf c w = some t0 ∧ GroupIssue s t c x ∧
    WritesD c.grp x w c.act 1 (fun _ _ =>
      BitVec.ofNat 32 ((BitVec.ofInt 16 t0.w).toNat + 2 ^ 16 * t0.flags.toNat + 2 ^ 20 * t0.fmt)))))

/-- With SPACE local and no fault: LD writes each lane the SIZE bytes at its address, sign-extended where SIGN asks; ST leaves in every byte
of local store the value of the highest-numbered acting lane that covers it, or what it held; each atomic or reduction acts for the acting
lanes in ascending order, each on what the lane before left, and an atomic gives each lane what it found. Nothing outside the local store
and D changes. (derived: R152, R154, R155, R156, R243, R244, R151) -/
def Obligations.LocalAccesses : Prop :=
  let key := fun (c : Ctx) (w : Fields) (d : Desc) (cas : Bool) (i : Nat) => localKey c.blk (memAddr d w c.grp cas i)
  (∀ g w s c d, Issues ldSem g w s c d → memLocal w = true → Gives (.ld g w) s (fun t => ∃ x, GroupIssue s t c x ∧
    WritesD c.grp x w c.act (loadRegs (memSize w)) (fun i k =>
      let v := Mem.readLE (s.arr c.ga).localMem (key c w d false i) (memSize w)
      if memSigned w then (if memSize w = 1 then (BitVec.ofNat 8 v).signExtend 32 else (BitVec.ofNat 16 v).signExtend 32)
      else BitVec.ofNat 32 (v / 2 ^ (32 * k))))) ∧
  (∀ g w s c d, Issues stSem g w s c d → memLocal w = true → Memory.wf (s.arr c.ga).localMem = true → Gives (.st g w) s (fun t => ∃ m,
    Issued (onArr (movedOn s c d) c.ga (fun a => { a with localMem := m })) t c ∧ ∀ k, Mem.read m k =
      match (lanesOf c.act).reverse.find? (fun i => decide (key c w d false i ≤ k) && decide (k < key c w d false i + memSize w)) with
      | some i => BitVec.ofNat 8 (d.read w c.grp 2 (loadRegs (memSize w)) i 0 / 2 ^ (8 * (k - key c w d false i)))
      | none => Mem.read (s.arr c.ga).localMem k)) ∧
  (∀ e ∈ ([
    (.atomAdd, atomAddSem, 0, true), (.atomMin, atomMinSem, 1, true), (.atomMax, atomMaxSem, 2, true), (.atomAnd, atomAndSem, 3, true),
    (.atomOr, atomOrSem, 4, true), (.atomXor, atomXorSem, 5, true), (.atomExch, atomExchSem, 6, true), (.atomCas, atomCasSem, 7, true),
    (.redAdd, redAddSem, 0, false), (.redMin, redMinSem, 1, false), (.redMax, redMaxSem, 2, false), (.redAnd, redAndSem, 3, false),
    (.redOr, redOrSem, 4, false), (.redXor, redXorSem, 5, false)] : List ((GRef → Fields → Instr) × Sem × Nat × Bool)),
    ∀ g w s c d, Issues e.2.1 g w s c d → memLocal w = true → Gives (e.1 g w) s (fun t =>
      let n := memSize w
      let at' := fun i => key c w d (decide (e.2.2.1 = 7)) i
      let act := fun (m : List Host.Cell) i => Mem.writeLE m (at' i) (atomNew e.2.2.1 n (memSigned w) (memFloat w) (Mem.readLE m (at' i) n)
        (d.read w c.grp 2 (loadRegs n) i 0) (if e.2.2.1 = 7 then d.read w c.grp 1 (loadRegs n) i 0 else 0)) n
      let before := fun i => ((lanesOf c.act).filter (fun j => decide (j < i))).foldl act (s.arr c.ga).localMem
      ∃ x y, MovedOn c x y ∧
        Issued (onArr (s.setGroup c.ga c.slot y) c.ga (fun a => { a with localMem := (lanesOf c.act).foldl act (s.arr c.ga).localMem })) t c ∧
        if e.2.2.2 then WritesD c.grp x w c.act (loadRegs n) (fun i k => BitVec.ofNat 32 (Mem.readLE (before i) (at' i) n / 2 ^ (32 * k)))
        else x = c.grp))

/-- For every integer size n bytes, the new value of an atomic on old value o with operand x (and comparand y for compare-and-swap) is the
wrapped sum, the signed or unsigned minimum or maximum, the bitwise result, x, or x exactly when o equals y. (derived: R155, R156) -/
def Obligations.AtomicFunctions : Prop :=
  ∀ n ∈ ([1, 2, 4, 8, 16] : List Nat), ∀ (sg : Bool) (o x y : BitVec (8 * n)),
    let f := fun op => atomNew op n sg false o.toNat x.toNat y.toNat
    f 0 = (o + x).toNat ∧
    f 1 = (if (if sg then x.slt o else x.ult o) then x else o).toNat ∧
    f 2 = (if (if sg then o.slt x else o.ult x) then x else o).toNat ∧
    f 3 = (o &&& x).toNat ∧ f 4 = (o ||| x).toNat ∧ f 5 = (o ^^^ x).toNat ∧ f 6 = x.toNat ∧
    f 7 = (if o = y then x else o).toNat

/-- For every memory instruction on the global space that nothing stops: the next state is that in which the issuing lanes have moved on,
each line of their accesses was handled once in the order of its lowest lane (a load from the L1 or beyond it, or waiting on the memory path
of the quarter, an acquire at its home, a store into the L1 or to its home, a release store and a fence after the push of the L1 at dev and
sys scope, a request of the atomic or hint to the home), and the issue counted; with no lane acting, an acquire, a release store and a fence
do nothing. (derived: R152, R153, R246, R268, R272, R295, R296, R297, R269, R215) -/
def Obligations.GlobalAccesses : Prop :=
  let after := fun (m : Sem) (w : Fields) (e : State) (c : Ctx) =>
    ((e.occupy m c.ga (c.slot / 16) [c] w).issued c.ga c.slot (granules c.sub.lanes)).afterIssue c.ga c.slot c.grp.block
  let pushed := fun (s : State) (c : Ctx) (w : Fields) => if 3 ≤ memScope w then s.pushL1 c.ga c.blk.part else s
  (∀ g w s c d, Issues ldSem g w s c d → memLocal w = false → Gives (.ld g w) s (fun t =>
    t = after ldSem w ((loadReqs c w d).foldl (ldLine (c.advance d) w) (movedOn s c d)) c)) ∧
  (∀ g w s c d, Issues ldAcqSem g w s c d → Gives (.ldAcq g w) s (fun t =>
    let e := if 3 ≤ memScope w then (loadReqs c w d).foldl (ldAcqLine (c.advance d) w) (movedOn s c d)
      else (loadReqs c w d).foldl (ldLine (c.advance d) w) (movedOn s c d)
    t = after ldAcqSem w (if c.act = 0 then movedOn s c d
      else e.startOrder (c.advance d) (if 3 ≤ memScope w then 3 else 1) (decide (3 ≤ memScope w)) 0 []) c)) ∧
  (∀ g w s c d, Issues ldLastSem g w s c d → Gives (.ldLast g w) s (fun t =>
    t = after ldLastSem w ((loadReqs c w d).foldl (ldLastLine (c.advance d) w) (movedOn s c d)) c)) ∧
  (∀ g w s c d, Issues stSem g w s c d → memLocal w = false → Gives (.st g w) s (fun t =>
    t = after stSem w ((storeReqs c w d).foldl (stLine (c.advance d) w) (movedOn s c d)) c)) ∧
  (∀ g w s c d, Issues stRelSem g w s c d → Gives (.stRel g w) s (fun t =>
    let e := pushed (movedOn s c d) c w
    let q := numberReqs (c.advance d) w .store 0 (storeReqs c w d) e
    t = after stRelSem w (if c.act = 0 then movedOn s c d
      else q.2.startOrder (c.advance d) (memScope w) false e.ids (q.1.map (fun r => { r with mask32 := c.act }))) c)) ∧
  (∀ g w s c d, Issues fenceSem g w s c d → Gives (.fence g w) s (fun t =>
    let e := pushed (movedOn s c d) c w
    t = after fenceSem w (if c.act = 0 then movedOn s c d else e.startOrder (c.advance d) (memScope w) true e.ids []) c)) ∧
  (∀ g w s c d, Issues prefetchSem g w s c d → Gives (.prefetch g w) s (fun t =>
    t = after prefetchSem w ((loadReqs c w d).foldl (prefetchLine (c.advance d) w) (movedOn s c d)) c)) ∧
  (∀ g w s c d, Issues killLineSem g w s c d → Gives (.killLine g w) s (fun t =>
    t = after killLineSem w ((loadReqs c w d).foldl (killLineOf (c.advance d) w) (movedOn s c d)) c)) ∧
  (∀ g w s c d, Issues redAddLedgerSem g w s c d → Gives (.redAddLedger g w) s (fun t =>
    t = after redAddLedgerSem w ((memAccs c (memAddr d w c.grp false) (fun i => d.read w c.grp 2 4 i 0) (fun _ => 0) (w.imm1.setWidth 16)
      (fun i => w.imm1.getLsbD 19 && c.grp.pred i (w.imm1.toNat / 2 ^ 16 % 8))).foldl (atomOut (c.advance d) w .ledger 0) (movedOn s c d)) c)) ∧
  (∀ e ∈ ([
    (.atomAdd, atomAddSem, 0, true), (.atomMin, atomMinSem, 1, true), (.atomMax, atomMaxSem, 2, true), (.atomAnd, atomAndSem, 3, true),
    (.atomOr, atomOrSem, 4, true), (.atomXor, atomXorSem, 5, true), (.atomExch, atomExchSem, 6, true), (.atomCas, atomCasSem, 7, true),
    (.redAdd, redAddSem, 0, false), (.redMin, redMinSem, 1, false), (.redMax, redMaxSem, 2, false), (.redAnd, redAndSem, 3, false),
    (.redOr, redOrSem, 4, false), (.redXor, redXorSem, 5, false)] : List ((GRef → Fields → Instr) × Sem × Nat × Bool)),
    ∀ g w s c d, Issues e.2.1 g w s c d → memLocal w = false → Gives (e.1 g w) s (fun t =>
      t = after e.2.1 w ((memAccs c (memAddr d w c.grp (decide (e.2.2.1 = 7))) (fun i => d.read w c.grp 2 (loadRegs (memSize w)) i 0)
        (fun i => if e.2.2.1 = 7 then d.read w c.grp 1 (loadRegs (memSize w)) i 0 else 0) 0 (fun _ => false)).foldl
        (atomOut (c.advance d) w (if e.2.2.2 then .atom e.2.2.1 else .red e.2.2.1) (if e.2.2.2 then loadRegs (memSize w) else 0))
        (movedOn s c d)) c))

/-- For the accesses of one issue: the requests name pairwise different lines; every lane that acts is in exactly one request, that of the
line its address lies in, at its offset; and in the request of a line, byte b is masked exactly when a lane of it covers b, with the byte of
the highest-numbered such lane. (derived: R153, R154) -/
def Obligations.LineRequests : Prop :=
  (∀ (c : Ctx) (addr data cmp : Nat → Nat) (W : BitVec 16) (nan : Nat → Bool),
    let l := memAccs c addr data cmp W nan
    (l.map (·.1)).Nodup ∧
    ∀ i, i ∈ lanesOf c.act ↔ ∃ g ∈ l, g.1 = addr i / 128 ∧ (g.2.filter (fun a => a.lane == i)).map (·.off) = [addr i % 128]) ∧
  (∀ (s : State) (c : Ctx) (w : Fields) (kind : ReqKind) (dst id line : Nat) (accs : List LaneAcc) (b : Nat), b < 128 →
    (∀ a ∈ accs, a.off + memSize w ≤ 128) →
    let r := mkReq s c w kind dst (line, accs) id
    match accs.reverse.find? (fun a => decide (a.off ≤ b) && decide (b < a.off + memSize w)) with
    | some a => r.mask.getLsbD b = true ∧ r.data.extractLsb' (8 * b) 8 = a.data.extractLsb' (8 * (b - a.off)) 8
    | none => r.mask.getLsbD b = false ∧ r.data.extractLsb' (8 * b) 8 = 0)

/-- For a legal word: element e of n words of source k in lane i is, by its kind, the n thread registers of the lane from its number plus e
n; the n uniform registers from its number, for every element and lane; the immediate, the first immediate source taking IMM0 and the second
IMM1, a 64-bit one both; or zero. (derived: R132) -/
def Obligations.Operands : Prop :=
  ∀ (d : Desc) (w : Fields) (g : Group) (k n i e : Nat), k < 3 →
    (w.kind k = 0 → ∀ j, j < n → BitVec.ofNat 32 (d.read w g k n i e / 2 ^ (32 * j)) = g.treg i (w.src k + e * n + j)) ∧
    (w.kind k = 1 → ∀ j, j < n → BitVec.ofNat 32 (d.read w g k n i e / 2 ^ (32 * j)) = g.ureg (w.src k + j)) ∧
    (w.kind k = 3 → d.read w g k n i e = 0) ∧
    (d.legal w = true → d.own0 = false → d.own1 = false → w.kind k = 2 → ∀ v, d.use k = .value v →
      (v.uwords = 2 → d.read w g k 2 i e = w.imm0.toNat + 2 ^ 32 * w.imm1.toNat) ∧
      (v.uwords = 1 → (∀ j u, j < k → w.kind j = 2 → d.use j = .value u → u.uwords = 0) → d.read w g k 1 i e = w.imm0.toNat) ∧
      (v.uwords = 1 → (∃ j u, j < k ∧ w.kind j = 2 ∧ d.use j = .value u ∧ 0 < u.uwords) → d.read w g k 1 i e = w.imm1.toNat))

/-- A magnitude m rounded to a multiple of 2^k with nothing lost before: nearest even is within half a step and even on a tie; toward zero
is the truncation; toward minus and plus infinity is the truncation or the next multiple by sign; and inexact is reported exactly when m is
not a multiple. (derived: R138) -/
def Obligations.NearestEven : Prop :=
  ∀ (neg : Bool) (m k : Nat), 0 < k →
    let r := fun mode => roundAt mode neg m 0 false (k : Int)
    (2 * (r 0).1 * 2 ^ k ≤ 2 * m + 2 ^ k ∧ 2 * m ≤ 2 * (r 0).1 * 2 ^ k + 2 ^ k ∧ (2 * m % 2 ^ (k + 1) = 2 ^ k → (r 0).1 % 2 = 0)) ∧
    (r 1).1 = m / 2 ^ k ∧
    (r 2).1 = (if neg = true ∧ m % 2 ^ k ≠ 0 then m / 2 ^ k + 1 else m / 2 ^ k) ∧
    (r 3).1 = (if neg = false ∧ m % 2 ^ k ≠ 0 then m / 2 ^ k + 1 else m / 2 ^ k) ∧
    ∀ mode, ((r mode).2 = true ↔ m % 2 ^ k ≠ 0)

/-- With sound reads: an array that holds a group, of a die in use, not in retention, supplied with 0.68 V or more and with a pacing token
left in the running tick, takes one step, after which DF_FIRST of its site is what R515 makes of the faults of the step; any other takes
none and changes nothing. An instruction issues only while its units accept it, and MMA, MMA_LEDGER and LTILE_FLUSH occupy the matrix cells
of their quarter for 8 or 16 steps, twice as many where one of the cells is retired. In a step, a quarter whose slots before the i-th after
its pointer have no group that can issue, and whose i-th slot uses up the issue, does what that slot does. RECONVERGENCE_TIMEOUT lets
exactly the subgroups of its group whose wait has lasted 256 steps run, with the awaited address gone from their stack, and changes nothing
else. BARRIER_DEADLOCK halts every deadlocked block of the array and no other; YIELD_OVERDUE halts the block of every running subgroup of a
group not held that has gone 262,144 steps without a yield point. Neither touches a register, predicate or lane of any group. (derived: R89,
R40, R42, R43, R88, R184, R238, R99, R112, R113, R115, R122) -/
def Obligations.SchedulingAndTimeouts : Prop :=
  ((∀ a s, Gives (.schedulerIssue a none) s (fun t =>
    let steps := (s.arr a.val).groups ≠ [] ∧ s.retained (a.val / 8) = false ∧ 26 ≤ Tab.getD s.power.supply (a.val / 8) 0 ∧
      (s.tb.running = false ∨ s.mgdLost = true ∨ (s.arr a.val).pos < s.paceOf (a.val / 8))
    (¬ steps ∨ s.siteOf (a.val / 8) = none → t = s) ∧
      (∀ site, steps → s.siteOf (a.val / 8) = some site → t =
        if s.field (Reg.dfStatus site) 0 4 = 0 then (s.stepArray a.val).firstOfStep s.faults.undelivered.length site else s.stepArray a.val))) ∧
  (∀ e ∈ instructions, ∀ g w s c d, e.2.ctx g w s = some c → e.2.verdict s c w true = .go d →
    ∀ k ∈ unitKeys e.2.op (c.slot / 16) c.sub.lanes, Tab.getD (s.arr c.ga).busy k 0 = 0) ∧
  (∀ e ∈ ([(.mma, mmaSem, fun _ => 8), (.mmaLedger, mmaLedgerSem, fun w => if w.mod.toNat % 16 = 6 ∨ w.mod.toNat % 16 = 7 then 16 else 8),
      (.ltileFlush, ltileFlushSem, fun _ => 8)] : List ((GRef → Fields → Instr) × Sem × (Fields → Nat))),
    ∀ g w s c d, Issues e.2.1 g w s c d → Gives (e.1 g w) s (fun t => Tab.getD (t.arr c.ga).busy (16 + c.slot / 16) 0 =
      if (List.range 4).any (s.cellRetired c.ga (c.slot / 16)) then 2 * e.2.2 w else e.2.2 w)) ∧
  ∀ (s : State) (ga q i : Nat), i < 16 →
    let slot := fun j => 16 * q + (Tab.getD (s.arr ga).pointers q (16 * q + 15) % 16 + 1 + j) % 16
    (∀ j, j < i → s.fetchCtx ga (slot j) = none) → (s.trySlot ga (slot i)).1 = true →
    s.stepQuarter ga q = ((s.trySlot ga (slot i)).2.1, (s.trySlot ga (slot i)).2.2)) ∧
  ((∀ g s x, s.group g.arr.val g.slot.val = some x → Gives (.reconvergenceTimeout g) s (fun t =>
    t = s.setGroup g.arr.val g.slot.val { x with subs := x.subs.map (fun u =>
      if (∃ m, u.wait = .reconv m) ∧ u.waitFrom + 256 ≤ (s.arr g.arr.val).steps then
        { u with wait := .running, stack := (match u.stack with
            | r :: l => if r.addr = u.pc then l else u.stack
            | [] => []) }
      else u) })) ∧
  (∀ a s, Gives (.barrierDeadlock a) s (fun t => (∀ ga slot, t.group ga slot = s.group ga slot) ∧ ∀ bs,
    (∀ k, s.block a.val bs = some k → deadlocked (s.arr a.val) bs k = true → t.block a.val bs = some { k with halted := true }) ∧
    ((∀ k, (bs, k) ∈ (s.arr a.val).blocks → deadlocked (s.arr a.val) bs k = false) → t.block a.val bs = s.block a.val bs))) ∧
  (∀ a s, Gives (.yieldOverdue a) s (fun t =>
    (∀ ga slot, t.group ga slot = s.group ga slot) ∧
    ∀ slot x u, s.group a.val slot = some x → x.held = false → u ∈ x.subs → u.wait = .running → u.stopped = false → 262144 ≤ u.yieldCount →
      (t.block a.val x.block).map (·.halted) = (s.block a.val x.block).map (fun _ => true))))

/-- BLOCK_ACCEPT, where this array is the first of its launch with room and has the launch begun: the block stands at its slot with the next
index of the launch and the local store units chosen, its groups at their slots as they start, every other block and group as it was.
LS_BANKS_CHANGE on an empty array begins the split its launch asks for and drops the L1 lines of the banks that change role; RECONFIG_DONE
puts it in force and sets SPLIT_DONE. For a group of a launch of at most 1,024 threads per block: register 0 of lane i holds 32 times the
group index plus i, every other thread register zero; uniform registers 0 to 5 hold the argument address, the block index, the number of
blocks, T and the group index, the others zero; every present lane stands at the entry of the kernel; nothing has exited, and no predicate
or flag is set. (derived: R83, R84, R85, R436, R82, R128, R78, R75) -/
def Obligations.BlockStart : Prop :=
  ((∀ a s k bs slots units, s.launchOn a.val = some k → k.arrays.find? (fun ga => (s.roomFor ga k).isSome) = some a.val →
    s.roomFor a.val k = some (bs, slots, units) → k.fences.contains a.val = true → Gives (.blockAccept a) s (fun t =>
      (∃ b, t.block a.val bs = some b ∧ b.launch = k.id ∧ b.part = k.part ∧ b.index = k.nextBlock ∧ b.nblocks = k.blocks ∧
        b.threads = k.threads ∧ b.regs = k.regs ∧ b.units = units ∧ b.seed = k.seed ∧ b.arrived = [] ∧ b.halted = false ∧
        b.stopPending = false ∧ b.textLo = k.textLo ∧ b.textHi = k.textHi) ∧
      (∀ i slot, slots[i]? = some slot → t.group a.val slot = some (startGroup k bs i k.nextBlock (match (s.arr a.val).startFence k.id with
          | some o => [{ o with isFence := false }]
          | none => []))) ∧
      (∀ slot, slot ∉ slots → t.group a.val slot = s.group a.val slot) ∧ (∀ b, b ≠ bs → t.block a.val b = s.block a.val b) ∧
      t = { s with arrs := t.arrs, works := t.works } ∧ ∀ ga, ga ≠ a.val → t.arr ga = s.arr ga)) ∧
  (∀ a n s k, s.launchOn a.val = some k → (s.arr a.val).groups = [] → (s.arr a.val).reconfig = none → (s.arr a.val).lsBanks ≠ n.val →
    k.lsBanks = n.val → Gives (.lsBanksChange a n) s (fun t =>
      (t.arr a.val).reconfig = some n.val ∧ (t.arr a.val).lsBanks = (s.arr a.val).lsBanks ∧
      (t.arr a.val).localMem = (s.arr a.val).localMem ∧
      ∀ key, (s.arr a.val).lsBanks + key / 32768 < n.val → Tab.get (t.arr a.val).l1 key = none)) ∧
  (∀ a s n, (s.arr a.val).reconfig = some n → Gives (.reconfigDone a) s (fun t =>
    (t.arr a.val).reconfig = none ∧ (t.arr a.val).lsBanks = n ∧ (t.arr a.val).groups = (s.arr a.val).groups ∧
    (∀ ga, ga ≠ a.val → t.arr ga = s.arr ga) ∧ t = { s with regs := t.regs, arrs := t.arrs } ∧
    ∀ b, s.arrayBase a.val = some b → t.bit (Reg.arrStatus b) 4 = true ∧ RegsBut s t [Reg.arrStatus b] ∧ FieldOnly s t (Reg.arrStatus b) 4 1))) ∧
  (∀ (k : Work) (bs index blockIndex : Nat) (orders : List OrderOp), 32 * index < k.threads →
    let g := startGroup k bs index blockIndex orders
    (∀ i r, i < 32 → g.treg i r = if r = 0 ∧ 32 * index + i < k.threads then BitVec.ofNat 32 (32 * index + i) else 0) ∧
    g.ureg 0 = BitVec.ofNat 32 k.argAddr ∧ g.ureg 1 = BitVec.ofNat 32 (k.argAddr / 2 ^ 32) ∧ g.ureg 2 = BitVec.ofNat 32 blockIndex ∧
    g.ureg 3 = BitVec.ofNat 32 k.blocks ∧ g.ureg 4 = BitVec.ofNat 32 k.threads ∧ g.ureg 5 = BitVec.ofNat 32 index ∧
    (∀ r, 6 ≤ r → g.ureg r = 0) ∧ (∀ i p, g.pred i p = false) ∧ g.fpflags = 0 ∧ g.exited = 0 ∧
    (∀ i, i < 32 → (g.absent.getLsbD i = true ↔ k.threads ≤ 32 * index + i)) ∧
    ∀ i, i < 32 → 32 * index + i < k.threads → StandsAt g i k.kernelEntry)

/-- For the MMA_LEDGER that a quarter holds, with errors in the rows of one granule: errors that the check does not see stay in the held
sums and nothing else changes. When the check sees them and the recomputation of the serving cell passes, fewer than 63 mismatches standing,
its sums are held, one mismatch is counted, groups, tiles and blocks stay and the MATRIX_RESIDUE record is raised. When both recomputations
fail, no sum is held, every tile is as it was before the instruction, and the block of the group halts. (derived: R232, R235, R236, R238) -/
def Obligations.ResidueCheck : Prop :=
  ∀ g k errs s x grp b, let ga := g.arr.val; let q := g.slot.val / 16; let n := 4 * q + s.servingCell ga q (k : Fin 4).val
    Tab.get (s.arr ga).staged q = some x → x.slot = g.slot.val → s.group ga g.slot.val = some grp → s.block ga grp.block = some b →
    let first := x.withErrors k.val errs.1
    let same := x.withErrors k.val errs.2.1
    let other := x.withErrors k.val errs.2.2
    (first.passes k.val = true → Gives (.residueRecompute g k errs) s (fun t =>
      t = onArr s ga (fun a => { a with staged := Tab.put a.staged q first }))) ∧
    (first.passes k.val = false → same.passes k.val = true → Tab.getD (s.arr ga).mismatches n 0 < 63 → Gives (.residueRecompute g k errs) s (fun t =>
      Tab.getD (t.arr ga).mismatches n 0 = Tab.getD (s.arr ga).mismatches n 0 + 1 ∧ (t.arr ga).tiles = (s.arr ga).tiles ∧
      Tab.get (t.arr ga).staged q = some same ∧ (t.arr ga).groups = (s.arr ga).groups ∧ (t.arr ga).blocks = (s.arr ga).blocks ∧
      ∃ r, t.faults.undelivered = s.faults.undelivered ++ [r] ∧ r.code = 0x0201)) ∧
    (first.passes k.val = false → same.passes k.val = false → other.passes k.val = false → Tab.sorted (s.arr ga).staged = true →
      Gives (.residueRecompute g k errs) s (fun t =>
        Tab.get (t.arr ga).staged q = none ∧ (t.arr ga).tiles = (s.arr ga).tiles ∧ (t.block ga grp.block).map (·.halted) = some true ∧
        (t.arr ga).groups = (s.arr ga).groups))

/-- For the oldest request for a line of HBM or the far tier whose home slice is ready: HOME_ACCESS (for one that is no ledger contribution)
and SUM_LINE_CONTRIBUTION (for one that is, its addition checked) take it out of the queue and perform it, or, when it cannot be performed
now, leave it waiting with nothing changed but what a regulator holds and the miss register that a copy on its way to another die takes
there. FILL_ARRIVE merges the returned line into its home entry and serves the waiters; HOME_WRITE_ACK frees the write in its array;
CACHE_INVALIDATE_DONE makes the slice READY and sets its status bit, and nothing else but the start step. SPILL_BUCKET_READ_DONE for a
merging sum line with a record, its additions checked: the sum line holds, element by element, its sum merged with that of the record, and
merges no more; the record reads as free; nothing but the slice and HBM changes. SIDE_BUFFER_FILL of a live prefetched line that an array
asked for and does not hold: the side buffer of the array ends with the line, the oldest of 512 dropped, and nothing else changes; a line it
no longer waits for is dropped; a line for a home goes to its slice. (derived: R250, R251, R215, R259, R293, R279, R261, R229, R269, R271,
R228) -/
def Obligations.HomesSpillsAndSideBuffer : Prop :=
  ((∀ p line s r, s.headReq p.val line.toNat = some r → r.kind ≠ .ledger → 128 * line.toNat < hostStart →
    s.sliceReady (s.homeDie p.val line.toNat) = true → Gives (.homeAccess p line none) s (fun t =>
      let d := s.homeDie p.val line.toNat
      match s.takeVisitor r with
      | none => t = s
      | some e => match (e.dropReq r).serve d r with
        | some u => t = ((u.countHit d (e.hitKind d r)).spend p.val r.sl (Config.activity 0 (Tab.getD e.power.supply d 0))).progressAll
        | none => t = { e with held := t.held } ∧ ∀ h, h ∈ e.held → h ∈ t.held)) ∧
  (∀ p line s u, (s.accessUpset p.val line.toNat u).2 = false → Gives (.homeAccess p line (some u)) s (fun t =>
    t = (s.accessUpset p.val line.toNat u).1)) ∧
  (∀ p line s r (n : Fin 3), s.headReq p.val line.toNat = some r → r.kind = .ledger → n.val < 2 →
    s.sliceReady (s.homeDie p.val line.toNat) = true → Gives (.sumLineContribution p line n none) s (fun t =>
      match (s.dropReq r).serve (s.homeDie p.val line.toNat) r with
      | some u => t = (u.spend p.val r.sl (Config.activity 1 (Tab.getD s.power.supply (s.homeDie p.val line.toNat) 0))).progressAll
      | none => t = { s with held := t.held } ∧ ∀ h, h ∈ s.held → h ∈ t.held)) ∧
  (∀ p line failed s f rest, takeFill p.val line.toNat s.fills = some (f, rest) → Gives (.fillArrive p line failed none) s (fun t =>
    f.part = p.val ∧ f.line = line.toNat ∧
      t = (({ s with fills := rest } : State).fillHome (s.homeDie p.val line.toNat) p.val line.toNat f.code f.data failed).progressAll)) ∧
  (∀ a line s id rest, takeAck a.val line.toNat s.writeAcks = some (id, rest) → Gives (.homeWriteAck a line) s (fun t =>
    ∃ e : State, t = e.progressAll ∧ e = { s with writeAcks := rest, arrs := e.arrs } ∧ (∀ ga, ga ≠ a.val → e.arr ga = s.arr ga) ∧
      (e.arr a.val).unacked = (s.arr a.val).unacked.filter (fun x => x.1 != id) ∧
      ∀ slot x, s.group a.val slot = some x → e.group a.val slot = some { x with pend := x.pend.filter (fun k => k.id != id) })) ∧
  (∀ d s b, s.sliceBase d.val = some b → Gives (.cacheInvalidateDone d) s (fun t =>
    OnlyRegs s t [Reg.sliceState b, Reg.sliceStatus b, Reg.startState, Reg.startTime 8] ∧
    (s.bit (Reg.sliceState b) 1 = true → t.field (Reg.sliceState b) 0 2 = 1 ∧ t.bit (Reg.sliceStatus b) 8 = true) ∧
    FieldOnly s t (Reg.sliceState b) 0 2 ∧ FieldOnly s t (Reg.sliceStatus b) 8 1))) ∧
  ((∀ p line (n : Fin 3) s u i, let d := s.homeDie p.val line.toNat
    Memory.wf s.hbm = true → (s.slice d).sums.find? (fun u => u.line == line.toNat && u.merging) = some u →
    s.findSpill p.val d line.toNat = some i → n.val < 2 → Gives (.spillBucketReadDone p line n none) s (fun t =>
      t = { s with slices := t.slices, hbm := t.hbm } ∧ (∀ k, k ≠ d → t.slice k = s.slice k) ∧
      (t.slice d).sums = (s.slice d).sums.map (fun v => if v.line = line.toNat then
        { v with merging := false, elems := (v.elems.zip (s.takeSpill p.val d line.toNat i).1).map (fun e => e.1.merge e.2) } else v) ∧
      t.rawRead p.val (s.spillAddr p.val d (s.setOf line.toNat / 2) i) 8 = 0)) ∧
  (∀ p line s f rest ga, takeFill p.val line.toNat s.sideFills = some (f, rest) → f.arr = some ga → Gives (.sideBufferFill p line none) s (fun t =>
    t = { s with sideFills := rest, arrs := t.arrs } ∧ (∀ k, k ≠ ga → t.arr k = s.arr k) ∧
    (((s.arr ga).sidePend.contains f.line = false ∨ f.code ≠ .live) → (t.arr ga).sideBuf = (s.arr ga).sideBuf) ∧
    ((s.arr ga).sidePend.contains f.line = true → f.code = .live → (s.arr ga).l1Find f.line = none → (s.arr ga).l1Pending f.line = false →
      (t.arr ga).sideBuf = (s.arr ga).sideBuf.drop (if 512 ≤ (s.arr ga).sideBuf.length then 1 else 0) ++ [(f.line, f.data)]) ∧
    (t.arr ga).sidePend = (s.arr ga).sidePend.filter (· != f.line) ∧ (t.arr ga).l1 = (s.arr ga).l1 ∧ (t.arr ga).groups = (s.arr ga).groups)) ∧
  (∀ p line s f rest, takeFill p.val line.toNat s.sideFills = some (f, rest) → f.arr = none → Gives (.sideBufferFill p line none) s (fun t =>
    t = ({ s with sideFills := rest } : State).sideHome p.val line.toNat f.code)))

/-- For every byte of a line: where the mask marks it the line after the store holds the byte stored; elsewhere the byte it held, or zero
where the line was dead. Every masked byte is dirty afterwards, as is every byte that was dirty; a clean line becomes Dirty, a dead line
Dirty with its whole mask dirty, a partial line Dirty once its mask is whole. (derived: R259, R275, R280) -/
def Obligations.StoredBytes : Prop :=
  ∀ (l : SLine) (data : LineData) (mask : ByteMask) (b : Nat), b < 128 →
    let m := l.stored data mask
    m.data.extractLsb' (8 * b) 8 = (if mask.getLsbD b then data.extractLsb' (8 * b) 8
      else if l.st = .dead then 0 else l.data.extractLsb' (8 * b) 8) ∧
    (mask.getLsbD b = true → m.mask.getLsbD b = true) ∧
    (l.st ≠ .clean → l.mask.getLsbD b = true → m.mask.getLsbD b = true) ∧
    (l.st = .clean → m.st = .dirty ∧ m.mask = mask) ∧ (l.st = .dead → m.st = .dirty ∧ m.mask = fullMask) ∧
    (l.st = .partialLine → (m.st = .dirty ↔ m.mask = fullMask) ∧ m.mask = l.mask ||| mask) ∧
    m.line = l.line ∧ m.visitor = l.visitor

/-- For every element and every two orders of the same contributions (value, W, NaN mark), the element closes to the same 16 bytes; and when
no contribution is NaN, all carry one W that the element holds or leaves open, and the exact sum lies in the range of L128, those bytes are
the exact sum of the value held and the contributions. (derived: R215, R216, R217, R221, R212) -/
def Obligations.SumOrder : Prop :=
  let run := fun (e : SumElem) (l : List (BitVec 128 × BitVec 16 × Bool)) => l.foldl (fun e c => e.add c.1 c.2.1 c.2.2) e
  (∀ (e : SumElem) (l l' : List (BitVec 128 × BitVec 16 × Bool)), l.Perm l' → (run e l).close = (run e l').close) ∧
  ∀ (e : SumElem) (l : List (BitVec 128 × BitVec 16 × Bool)) (w : BitVec 16), e.tag ≠ .nan → (e.wKnown = true → e.w = w) →
    (∀ c ∈ l, c.2.1 = w ∧ c.2.2 = false) → l ≠ [] → l.length < 2 ^ 15 → e.acc.toInt < 2 ^ 127 → -(2 ^ 127 : Int) < e.acc.toInt →
    let sum := e.acc.toInt + (l.map (fun c => c.1.toInt)).sum
    sum < 2 ^ 127 → -(2 ^ 127 : Int) < sum → (run e l).close.toInt = sum

/-- For the oldest request a memory-interface die holds for an HBM line: a read whose check words pass is answered, or its masked write
merged, on the first read or on a re-read (which then counts a failure of the lane of each failed bit and raises HBM_REREAD); a failed first
or second read only counts its failure with the bit positions that failed, and stays first; the third failure poisons the line.
SECTOR_MERGE_WRITE merges and writes the masked write, raising HBM_REREAD when a read had failed, or poisons the line when its read failed
three times. PAGE_RETIRE_DONE counts a repair row or a substitution in STACK_STATE, or sets SUBSTITUTION_FULL, with its record, and logs the
page; HBM_LANE_REMAPPED after 8 failures takes a redundant lane, or marks the stack lost when none is left; FAR_PAGE_READ_DONE makes a page
that verifies the most recent of the buffer and serves its requests, or poisons it; FAR_UNAVAILABLE takes the port down, empties the buffer
and answers every waiting request. (derived: R320, R321, R322, R323, R325, R326, R318, R324, R328, R330, R331, R332) -/
def Obligations.MemoryReadsAndRepair : Prop :=
  (∀ p line s o, s.hbmHead p.val line.toNat = some o →
    let code := s.lineCode p.val line.toNat
    let failing := fun (t : State) (errs : List SectorErr) =>
      let n : MidOp := { o with fails := o.fails + 1, bits := o.bits ++ failedBits code errs }
      t = { s with reads := replaceFirst (fun x => x.part == p.val && x.line == line.toNat) n s.reads }
    let again := fun (e : State) => e = { s with regs := e.regs, accum := e.accum, ahead := e.ahead, mids := e.mids, parts := e.parts, faults := e.faults } ∧
      ∃ r, e.faults.undelivered = s.faults.undelivered ++ [r] ∧ r.code = 0x0401
    (o.fails = 0 → ∀ errs, Gives (.hbmReadDone p line errs) s (fun t =>
      if readFails code errs then failing t errs else t = s.midPassed p.val line.toNat o errs)) ∧
    (o.fails ≠ 0 → ∀ errs, Gives (.hbmReread p line errs) s (fun t =>
      if readFails code errs then (if o.fails = 1 then failing t errs else t = s.midFailed p.val line.toNat o)
      else ∃ e : State, t = e.midPassed p.val line.toNat o errs ∧ again e)) ∧
    (o.isWrite = true → ∀ reads, Gives (.sectorMergeWrite p line reads) s (fun t =>
      let n := (readTries code (reads.take 3)).1
      if n = 3 then t = s.midFailed p.val line.toNat o
      else ∃ e : State, t = e.midPassed p.val line.toNat o [] ∧ (if n = 0 then e = s else again e)))) ∧
  ((∀ p line repairRow s o, 0 < s.partN p.val → 128 * line.toNat < farStart →
    let g := (s.stackOf p.val (128 * line.toNat)).1
    let reg := Reg.stackState (g / 4) (g % 4)
    o ∈ (s.mid (g / 4)).retiring → o.part = p.val → o.line = line.toNat → Gives (.pageRetireDone p line repairRow) s (fun t =>
      if repairRow = true ∨ s.field reg 8 7 < 64 then
        (if repairRow then t.field reg 16 16 = (s.field reg 16 16 + 1) % 2 ^ 16 ∧ t.field reg 8 7 = s.field reg 8 7
          else t.field reg 8 7 = s.field reg 8 7 + 1 ∧ t.field reg 16 16 = s.field reg 16 16) ∧
        t.bit (Reg.midStatus (g / 4)) 2 = true ∧ t.faults.hbmRepairs.length = s.faults.hbmRepairs.length + 1 ∧
        ∃ r, t.faults.undelivered = s.faults.undelivered ++ [r] ∧ r.code = 0x0403
      else t.reg reg = s.reg reg ∧ t.bit (Reg.midStatus (g / 4)) 3 = true ∧ t.faults.hbmRepairs = s.faults.hbmRepairs ∧
        ∃ r, t.faults.undelivered = s.faults.undelivered ++ [r] ∧ r.code = 0x0404)) ∧
  (∀ stack channel lane s, let m := stack.val / 4; let x := s.mid m; let key := laneKey stack.val channel.val lane.val
    let usedKey := laneKey stack.val channel.val 0
    8 ≤ Tab.getD x.laneFails key 0 → Gives (.hbmLaneRemapped stack channel lane) s (fun t =>
      (t.mid m).laneFails = Tab.erase x.laneFails key ∧
      if Tab.getD x.lanesUsed usedKey 0 < Config.hbmRedundantLanes then
        Tab.getD (t.mid m).lanesUsed usedKey 0 = Tab.getD x.lanesUsed usedKey 0 + 1 ∧ t.bit (Reg.midStatus m) 4 = true ∧
        ∃ r, t.faults.undelivered = s.faults.undelivered ++ [r] ∧ r.code = 0x0402
      else t.field (Reg.stackState m (stack.val % 4)) 0 2 = 3 ∧ t.bit (Reg.midStatus m) 5 = true ∧
        ∃ r, t.faults.undelivered = s.faults.undelivered ++ [r] ∧ r.code = 0x0409)) ∧
  (∀ port page fails s o, s.reads.find? (fun o => s.opAtFar port.val o && opPage o == page.toNat) = some o → s.farUp port.val = true →
    Gives (.farPageReadDone port page fails) s (fun t =>
      if fails.val < 3 ∧ s.pageGood o.part port.val page.toNat = true then
        (t.mid port.val).verified = (page.toNat :: (s.mid port.val).verified.filter (· != page.toNat)).take 64
      else t.bit (Reg.midStatus port.val) 6 = true ∧
        ∃ r l, t.faults.undelivered = s.faults.undelivered ++ r :: l ∧ r.code = 0x0407)) ∧
  (∀ port s, Gives (.farUnavailable port) s (fun t =>
    if s.bit (Reg.farState port.val) 0 = true then
      t.bit (Reg.farState port.val) 0 = false ∧ t.bit (Reg.midStatus port.val) 7 = true ∧ (t.mid port.val).verified = [] ∧
      (t.mid port.val).farAttached = false ∧ (∀ o ∈ t.reads, t.opAtFar port.val o = false) ∧
      ∃ r l, t.faults.undelivered = s.faults.undelivered ++ r :: l ∧ r.code = 0x0408
    else t = s)))

/-- A record of a cancelled chain ends with status 4, one at a misaligned address with status 5; a gate holds the record until the word
minus GATE_VALUE is below 2^31, and a poisoned word ends it with status 1; a line is killed, delivered to its home side buffer, or read and
written, and counted; a record whose lines are done performs its done write and hands over to the next record or ends the chain with its
status. A courier that is stopped, or whose partition is poisoned, does nothing. With nothing held: every register that is the rate of an
enabled bucket has its level raised by the rate, to at most 16 times the depth, and no other register changes; no grant of the tick before
stands. A request on a bucket that is disabled, or whose level is positive, or that may use an idle resource nobody was granted on this
tick, is granted: the level of an enabled positive bucket falls by its cost; on any other bucket it is not. (derived: R333, R334, R336,
R337, R338, R339, R341, R340, R344) -/
def Obligations.CouriersAndRegulators : Prop :=
  ((∀ c x s, let cr := s.courier c.val
    (cr.st = .running → cr.started = false → cr.holdNext = false → s.poisoned cr.part = false → cr.pigeonhole = none →
      (cr.cancel = true ∨ cr.record.toNat % 64 ≠ 0 → Gives (.courierRecordStart c x) s (fun t => t = { s with couriers := t.couriers } ∧
        (t.courier c.val).status = (if cr.cancel then 4 else 5) ∧ (t.courier c.val).started = true ∧
        ∀ k, k ≠ c.val → t.courier k = s.courier k)) ∧
      Gives (.courierRecordStart c x) s (fun t => t = s.recordStart c.val x)) ∧
    (s.poisoned cr.part = true → Gives (.courierRecordStart c x) s (fun t => t = s))) ∧
  (∀ c x s, let cr := s.courier c.val
    cr.st = .gated → s.poisoned cr.part = false → cr.holdNext = false → Gives (.courierGateReread c x) s (fun t =>
      (cr.cancel = true → (t.courier c.val).status = 4 ∧ (t.courier c.val).st = .running) ∧
      (cr.cancel = false → cr.gateEn = true → match s.crAsk cr.part cr.slice (cr.gateAddr.toNat / 128) x with
        | none => (t.courier c.val).st = .gated ∧ Held.courier c.val ∈ t.held
        | some u =>
          let r := u.crWord c.val cr.part cr.gateAddr.toNat 4
          if r.1 = .poisoned then (t.courier c.val).status = 1 ∧ (t.courier c.val).st = .running
          else (t.courier c.val).st = (if (BitVec.ofNat 32 r.2.1 - cr.gateValue).toNat < 2 ^ 31 then .running else .gated)))) ∧
  (∀ c x s, let cr := s.courier c.val; let src := cr.src.toNat + 128 * cr.done; let dst := cr.dst.toNat + 128 * cr.done
    cr.st = .running → cr.started = true → cr.status = 0 → cr.done < cr.total → s.poisoned cr.part = false → cr.cancel = false →
    s.crDown cr.part src = false → (cr.op = 3 → src < hcStart → Gives (.courierLine c x none) s (fun t =>
        t = ((s.killLineAt cr.part (src / 128)).crMoved c.val).progressAll)) ∧
      (cr.op = 2 → ∀ u, src < hcStart → s.crAsk cr.part cr.slice (src / 128) x = some u → Gives (.courierLine c x none) s (fun t =>
        t = ((u.crSide cr.part (src / 128)).crMoved c.val).progressAll)) ∧
      (cr.op = 1 → s.crDown cr.part dst = false → s.hostUp cr.part = true → s.hostRoom cr.part = true → s.mayAsk cr.part = true → ∀ u v y data,
        s.crAsk cr.part cr.slice (src / 128) x = some u →
        (if u.renews cr dst then u.chargeLine cr.part cr.slice (dst / 128) else u.crAskWrite cr.part cr.slice (dst / 128) { x with tagFails := 0 }) = some v →
        v.crRead c.val cr.part src = (some data, y) → Gives (.courierLine c x none) s (fun t =>
          t = ((y.crPut c.val dst data).crMoved c.val).progressAll))) ∧
  (∀ c s u, let cr := s.courier c.val
    cr.st = .running → cr.started = true → (cr.status ≠ 0 ∨ cr.total ≤ cr.done) → s.poisoned cr.part = false → cr.page = [] → s.crFlush cr = false →
    (hcStart ≤ cr.doneAddr.toNat → s.mayAsk cr.part = true) →
    (if cr.doneAddr = 0 then some s else s.crAskWrite cr.part cr.slice (cr.doneAddr.toNat / 128) { hbm := [], tagFails := 0 }) = some u →
    Gives (.courierRecordDone c) s (fun t =>
      if cr.status ≠ 0 ∨ cr.next = 0 then t = (u.doneWrite cr).endChain c.val cr.status
      else (t.courier c.val).record = cr.next ∧ (t.courier c.val).started = false ∧ (t.courier c.val).lastStatus = 0 ∧
        t = { u.doneWrite cr with couriers := t.couriers }))) ∧
  ((∀ s : State, s.held = [] → Tab.sorted s.regs = true → Gives .regulatorTick s (fun t =>
    t = { s with regs := t.regs, granted := [] } ∧ ∀ a, t.reg a =
      if 0x9000 ≤ a - 8 ∧ a - 8 < 0xF000 ∧ (a - 8) % 16 = 0 ∧ 8 ≤ a ∧ (Tab.getD s.regs (a - 8) 0).getLsbD 31 = true then
        BitVec.ofInt 32 (min ((s.reg a).toInt + s.field (a - 8) 0 24) (16 * (s.field (a - 4) 0 24 : Int)))
      else s.reg a)) ∧
  ∀ (s : State) (region i cost lines : Nat), let rate := Reg.bktRate region i
    let level := s.bucketLevel region i
    (s.bit rate 31 = false ∨ 0 < level ∨ (s.bit rate 30 = true ∧ bucketResource region i ∉ s.granted) →
      ∃ t, s.charge region i cost lines = some t ∧ bucketResource region i ∈ t.granted ∧
        t = { s with regs := t.regs, accum := t.accum, ahead := t.ahead, granted := t.granted } ∧
        (s.bit rate 31 = true → 0 < level → t.reg (Reg.bktLevel region i) = BitVec.ofInt 32 (level - cost)) ∧
        (s.bit rate 31 = false ∨ level ≤ 0 → t.regs = s.regs)) ∧
    (s.bit rate 31 = true → level ≤ 0 → (s.bit rate 30 = false ∨ bucketResource region i ∈ s.granted) →
      s.charge region i cost lines = none))

/-- On a course that is up and a string in service: a packet whose trailer or header parity fails, or whose beats its header does not fit,
is dropped, its mismatching lanes counted, and from then on the half discards until the RETRY it sends, with its count, has been answered; a
packet that passes and carries data is accepted in order, counted, acknowledged at every sixteenth, and passed on; RETRY with the awaited
count ends the discarding and is counted, and from an edge die with the count of a packet in flight; an acknowledgement frees the packets
below its count, and what waited for a new count of strings goes once every packet sent is acknowledged; a half with nothing to send sends a
beacon. In every other case nothing changes. (derived: R351, R352, R368) -/
def Obligations.StringHalves : Prop :=
  (∀ site course str k s, let key := recvKey site.val course.val str.val; let back := sendKey site.val course.val str.val
    let h := s.half key; let bad := packetTrailer k ^^^ k.trailer
    let idle := s.courseUp site.val course.val = false ∨ s.bit (Reg.lanemap site.val (32 * course.val + str.val)) 18 = true ∨ h.discarding = true
    (idle → Gives (.packetReceive site course str k) s (fun t => t = s)) ∧
    (¬ idle → (bad ≠ 0 ∨ oddParity k.header = true ∨ k.wf = false) → Gives (.packetReceive site course str k) s (fun t =>
      t = { s with halves := t.halves } ∧ (t.half key).discarding = true ∧ (t.half key).resend = h.accepted ∧ (t.half key).accepted = h.accepted ∧
      (∀ i, i < 64 → Tab.getD (t.half key).mismatches i 0 = Tab.getD h.mismatches i 0 + if bad.getLsbD i then 1 else 0) ∧
      (t.half back).control = (s.half back).control ++ [controlPacket 0xA (farUnit site.val course.val) site.val h.accepted] ∧
      ∀ j, j ≠ key → j ≠ back → t.half j = s.half j)) ∧
    (¬ idle → bad = 0 → oddParity k.header = false → k.wf = true → k.type ≠ 0x9 → k.type ≠ 0xA → k.type ≠ 0xC →
      Gives (.packetReceive site course str k) s (fun t => t = { s with halves := t.halves, holds := t.holds, transit := t.transit } ∧
        t.half key = { h with accepted := h.accepted + 1, sinceAck := (if h.sinceAck + 1 = 16 then 0 else h.sinceAck + 1) } ∧
        (t.half back).control = (s.half back).control ++
          (if h.sinceAck + 1 = 16 then [controlPacket 0xC (farUnit site.val course.val) site.val (h.accepted + 1)] else []))) ∧
    (¬ idle → bad = 0 → oddParity k.header = false → k.wf = true → (k.type = 0x9 ∨ k.type = 0xA ∨ k.type = 0xC) →
      Gives (.packetReceive site course str k) s (fun t => t = s))) ∧
  (∀ site course str (count : BitVec 41) s, let k := sendKey site.val course.val str.val; let h := s.half k
    s.courseUp site.val course.val = true →
    Gives (.retry site course str count) s (fun t =>
      let counted := fun (s : State) => Tab.getD s.accum (Reg.retries site.val course.val) 0 + Tab.getD s.ahead (Reg.retries site.val course.val) 0
      if (if farUnit site.val course.val < 108 then h.discarding = true ∧ h.resend = count.toNat
          else h.base ≤ count.toNat ∧ count.toNat < h.base + min 64 h.replay.length) then
        t = { s with halves := Tab.put s.halves k { h with discarding := false }, accum := t.accum, ahead := t.ahead } ∧ counted t = counted s + 1
      else t = s) ∧
    Gives (.packetAcknowledgement site course str count) s (fun t =>
      if h.base < count.toNat ∧ count.toNat ≤ h.base + min 64 h.replay.length then
        let n : Half := { h with replay := h.replay.drop (count.toNat - h.base), base := count.toNat }
        let e : State := { s with halves := Tab.put s.halves k n }
        t = e.releaseCourse site.val course.val ∧ (Tab.get s.holds (4 * site.val + course.val) = none → t = e)
      else t = s) ∧
    Gives (.beacon site course str) s (fun t =>
      if h.replay = [] ∧ s.bit (Reg.lanemap site.val (32 * course.val + str.val)) 18 = false then
        t = { s with halves := t.halves, fresh := t.fresh } ∧
        ∃ n, t.half k = { h with control := h.control ++ [controlPacket 0x9 (farUnit site.val course.val) site.val n] }
      else t = s))

/-- NEIGHBOUR_LOST on a course that is up marks the course lost and, where its far unit is a die in use, raises DIE_LOST and marks its site
lost; LANE_SPARED at 4 mismatches of a lane shifts the map past its physical lane while a spare is free and raises LANE_SPARED, and
otherwise retires the string and raises STRING_RETIRED; REROUTED moves the transit paths of the partition that pass the lost die to the
other route, to send again what was not acknowledged, and raises the record. (derived: R365, R366, R368, R369, R370, R520, R349) -/
def Obligations.LostAndSpared : Prop :=
  (∀ site course s, let u := farUnit site.val course.val
    Gives (.neighbourLost site course) s (fun t =>
      if s.courseUp site.val course.val = true then
        t.courseOf site.val course.val = 5 ∧ t.bit (Reg.courseStatus site.val) 3 = true ∧
        (u < 108 → s.siteState u = 1 ∨ s.siteState u = 2 → t.siteState u = 5 ∧
          ∃ r, t.faults.undelivered = s.faults.undelivered ++ [r] ∧ r.code = 0x0701) ∧
        (108 ≤ u ∨ (s.siteState u ≠ 1 ∧ s.siteState u ≠ 2) →
          OnlyRegs s t [Reg.linkRec site.val, Reg.courseState site.val course.val, Reg.courseStatus site.val])
      else t = s)) ∧
  (∀ site course str lane s, let m := Reg.lanemap site.val (32 * course.val + str.val)
    let phys := s.physicalLane site.val course.val str.val lane.val
    s.courseUp site.val course.val = true → s.bit m 18 = false →
    4 ≤ Tab.getD (s.half (recvKey site.val course.val str.val)).mismatches lane.val 0 →
    Gives (.laneSpared site course str lane) s (fun t =>
      if s.field m 0 7 = 0x7F ∨ s.field m 8 7 = 0x7F then
        (if s.field m 0 7 = 0x7F then t.field m 0 7 = phys ∧ t.field m 20 2 = 3 ∧ t.field m 8 7 = s.field m 8 7
          else t.field m 8 7 = phys ∧ t.field m 22 2 = 3 ∧ t.field m 0 7 = s.field m 0 7) ∧
        t.field m 16 2 = (s.field m 16 2 + 1) % 4 ∧ t.bit m 18 = false ∧ t.bit (Reg.courseStatus site.val) 0 = true ∧
        ∃ r, t.faults.undelivered = s.faults.undelivered ++ [r] ∧ r.code = 0x0501
      else t.bit m 18 = true ∧ t.bit (Reg.courseStatus site.val) 1 = true ∧
        ∃ r l, t.faults.undelivered = s.faults.undelivered ++ r :: l ∧ r.code = 0x0502)) ∧
  (∀ p lost s, let l := s.layout p.val
    s.siteState lost.val = 5 → s.unitIn l (s.partPort p.val) lost.val = false → l.n ≠ 0 →
    (s.sharedHops l (s.partPort p.val)).any (fun h => h.1 == lost.val) = true → Gives (.rerouted p lost) s (fun t =>
      t.transit = s.transit.map (fun e => if e.1 / 16384 = p.val ∧ s.pathThrough p.val e.1 lost.val e.2 then
        (e.1, { e.2 with alternate := !e.2.alternate, flight := [], resend := e.2.unacked.map (·.1) }) else e) ∧
      ∃ r, t.faults.undelivered = s.faults.undelivered ++ [r] ∧ r.code = 0x0504 ∧ r.rings = [p.val] ∧ r.part = none))

/-- TRANSIT_FRAME sends a frame on a course that is up and changes nothing but transit paths; in its slot a packet on its way crosses the
course; with none there, a new packet ready takes the next sequence number, is kept unacknowledged and crosses the first course.
TRANSIT_EGRESS delivers a packet that has crossed its last course, verifies and has a number above the highest, or passes it on by its
route, discards a resend, asks for a failed one once and raises TRANSIT_AUTH_FAIL at its second failure, delivering nothing.
TRANSIT_SLOT_WRITE takes effect only while no partition that holds a slot on the course before or after it runs, and keeps slot 23.
TUNING_DONE ends start step 5 with every course tuned and every replica to be loaded. (derived: R359, R360, R362, R372, R478, R479, R364) -/
def Obligations.Transit : Prop :=
  (∀ site course s, Gives (.transitFrame site course) s (fun t => t = { s with transit := t.transit } ∧
    if s.courseUp site.val course.val = true then t = (List.range 24).foldl (fun s i => s.sendSlot site.val course.val i) s else t = s)) ∧
  (∀ (s : State) (site c slot k : Nat) (x : TransitPath), slot < 23 → s.slotOwner site c slot < 6 → let p := s.slotOwner site c slot
    (∀ q rest, s.passing p site c = none → s.readyPath p site c = some (k, x) → x.resend = [] → x.ready = q :: rest →
      let sent := (x.nextSeq, 1, s.transitBeats p (k / 128 % 128) (k % 128) x.nextSeq q)
      let y : TransitPath := { x with ready := rest, nextSeq := x.nextSeq + 1, unacked := x.unacked ++ [(x.nextSeq, q)], flight := x.flight ++ [sent] }
      s.sendSlot site c slot = { s with transit := Tab.put s.transit k y }) ∧
    (∀ seq, s.passing p site c = some (k, x, seq) →
      let y : TransitPath := { x with flight := x.flight.map (fun f => if f.1 = seq then (f.1, f.2.1 + 1, f.2.2) else f) }
      s.sendSlot site c slot = { s with transit := Tab.put s.transit k y })) ∧
  (∀ (s : State) (site c slot : Nat), slot < 23 → 6 ≤ s.slotOwner site c slot → s.sendSlot site c slot = s) ∧
  (∀ p ingress egress seq s x e, let k := transitKey p.val ingress.val egress.val
    Tab.get s.transit k = some x → x.unacked.find? (fun e => e.1 == seq) = some e →
    (s.hasCrossed p.val k x seq = false → ∀ ok, Gives (.transitEgress p ingress egress seq ok) s (fun t => t = s)) ∧
    (s.hasCrossed p.val k x seq = true →
      let gone := x.flight.filter (fun f => f.1 != seq)
      Gives (.transitEgress p ingress egress seq true) s (fun t => ∃ y : TransitPath,
        y.unacked = x.unacked.filter (fun e => e.1 != seq) ∧ y.flight = gone ∧ y.ready = x.ready ∧ y.nextSeq = x.nextSeq ∧
        y.highest = (if x.highest < seq then seq else x.highest) ∧
        if x.highest < seq ∧ egress.val < 108 ∧ packetDest e.2 ≠ egress.val then
          y.delivered = x.delivered ∧ t = ({ s with transit := Tab.put s.transit k y } : State).forward egress.val e.2
        else y.delivered = x.delivered ++ (if x.highest < seq then [e.2] else []) ∧ t = { s with transit := Tab.put s.transit k y }) ∧
      Gives (.transitEgress p ingress egress seq false) s (fun t =>
        if x.failedOnce = some seq then t.transit = Tab.put s.transit k { x with flight := gone } ∧ t.bit Reg.secStatus 4 = true ∧
          ∃ r, t.faults.undelivered = s.faults.undelivered ++ [r] ∧ r.code = 0x0505 ∧ r.cls = 3 ∧ r.part = some p.val
        else
          let y : TransitPath := { x with failedOnce := some seq, flight := gone, resend := x.resend ++ [seq] }
          t = { s with transit := Tab.put s.transit k y }))) ∧
  (∀ site i v s, let c := i.val / 3
    let runs := fun (w : W32) => ∃ n, n < 8 ∧ bitsOf w.toNat (4 * n) 4 < 6 ∧ s.partState (bitsOf w.toNat (4 * n) 4) = 2
    Gives (.transitSlotWrite site i v) s (fun t =>
      ((runs v ∨ ∃ j, j < 3 ∧ runs (s.reg (Reg.transitSlot site.val (3 * c + j)))) → t = s) ∧
      (¬ runs v → (∀ j, j < 3 → ¬ runs (s.reg (Reg.transitSlot site.val (3 * c + j)))) →
        t = s.setReg (Reg.transitSlot site.val i.val) (if i.val % 3 = 2 then v &&& 0x0FFFFFFF ||| 0x70000000 else v)))) ∧
  (∀ fails s, Gives (.tuningDone fails) s (fun t =>
    if s.stepOpen 5 [4] = true then t.stepDone 5 = true ∧ t.tb.skew = [] ∧ t.tb.loading = List.range 118 ∧
      ∀ site, site < 108 → t.bit (Reg.courseStatus site) 4 = true
    else t = s))

/-- A tick of a running timebase, once the fixed-rate dies have completed their steps of it, takes the master to its next multiple of 40 and
moves on by 40 every replica that is not held and does not stray, a held one staying where it is and a stray one missing the tick or taking
it twice; no step of the next tick is complete; a broadcast after 1,024 ticks brings a replica that is to be loaded or is behind to the
count of the last tick and stops one ahead; a lost reference clears LOCKED and sets HOLDOVER and REF_LOST with its record, the count going
on; the reference returned and locked again, HOLDOVER clears and LOCKED and REF_RESTORED set; the first lock or the start in holdover begins
the count at 0 and ends start step 0. (derived: R57, R58, R61, R66, R67, R597) -/
def Obligations.TimebaseCounts : Prop :=
  (∀ strays s, Gives (.timebaseTick strays) s (fun t =>
    if s.tb.running = true then let e := s.finishSteps
      (s.fretArrays = [] → e = s) ∧
      t = { e with tb := t.tb, regs := t.regs, power := t.power, halves := t.halves, arrs := t.arrs, accum := t.accum, ahead := t.ahead } ∧
      t.tb.master = e.tb.master + BitVec.ofNat 64 (40 - e.tb.master.toNat % 40) ∧ t.tb.ticks = e.tb.ticks + 1 ∧
      (∀ u, u ∉ e.tb.stalled → (∀ x ∈ strays, x.1.val ≠ u) → t.replica u = e.replica u + 40) ∧
      (∀ u, e.tb.stalled.count u = 1 → (∀ x ∈ strays, x.1.val ≠ u) → t.replica u = e.replica u) ∧
      (∀ u ahead, u.val ∉ e.tb.stalled → strays = [(u, ahead)] → t.replica u.val = e.replica u.val + if ahead then 80 else 0) ∧
      (∀ a, (t.arr a).pos = 0) ∧
      (t.reg Reg.tbHoldover).toNat = (if e.bit Reg.tbStatus 1 then min ((e.reg Reg.tbHoldover).toNat + 1) (2 ^ 32 - 1)
        else (e.reg Reg.tbHoldover).toNat)
    else t = s)) ∧
  (∀ s, s.tb.running = true → 1024 ≤ s.tb.ticks → Gives .timebaseBroadcast s (fun t => t.tb.ticks = 0 ∧ t.tb.master = s.tb.master ∧
    ∀ u, u ∈ s.replicaUnits → let last := s.tb.master - BitVec.ofNat 64 (s.tb.master.toNat % 40)
      let diff := (s.replica u - last).toInt
      (u ∈ s.tb.loading ∨ diff ≤ 0 → t.replica u = last) ∧
      (u ∉ s.tb.loading → 0 < diff → t.replica u = s.replica u ∧ u ∈ t.tb.stalled))) ∧
  (∀ s, Gives .tbRefLost s (fun t =>
    if s.tb.running = true ∧ (s.bit Reg.tbStatus 1 = false ∨ s.tb.relocking = true) then
      t.bit Reg.tbStatus 0 = false ∧ t.bit Reg.tbStatus 1 = true ∧ t.bit Reg.tbStatus 8 = true ∧
      t.tb = { s.tb with refLost := true, relocking := false } ∧ ∃ r, t.faults.undelivered = s.faults.undelivered ++ [r] ∧ r.code = 0x0801
    else t = s)) ∧
  (∀ s, Gives .tbRefReturn s (fun t =>
    t = { s with tb := (if s.tb.refLost = true then { s.tb with refLost := false, relocking := true } else s.tb) })) ∧
  (∀ s, Gives .timebaseLock s (fun t =>
    if s.stepOpen 0 [] = true then t.stepDone 0 = true ∧ t.bit Reg.tbStatus 0 = true ∧
      t.tb = { s.tb with running := true, master := 0, replica := 0 }
    else if s.tb.relocking = true ∧ s.bit Reg.tbStatus 1 = true then
      t.bit Reg.tbStatus 1 = false ∧ t.bit Reg.tbStatus 0 = true ∧ t.bit Reg.tbStatus 9 = true ∧
      t = { s with regs := t.regs, tb := { s.tb with relocking := false } } ∧ RegsBut s t [Reg.tbStatus]
    else t = s)) ∧
  (∀ s, Gives .tbHoldoverStart s (fun t =>
    if s.stepOpen 0 [] = true then t.stepDone 0 = true ∧ t.bit Reg.tbStatus 0 = false ∧ t.bit Reg.tbStatus 1 = true ∧
      t.bit Reg.startStatus 1 = true ∧ t.tb.running = true ∧ t.tb.master = 0
    else t = s))

/-- WINDOW_BOUNDARY, once the master and every loaded replica have reached the next window: the window number grows by one, the sensor
registers show what was sensed, the temperature and the scrub errors a stack reports are kept at its memory-interface die, and the failures
and mismatches counted per window start at zero; before, nothing. RATE_FLOOR raises its fault and sets the status bit for a die in use.
RATE_MODE_WRITE changes nothing while the register is locked or the partition keyed; otherwise it refuses a fret the dies cannot hold, by a
status bit only. For the timebase, deadlock records, dead and parity addresses, poison addresses, courier records and PTM pairs: the read
returns the low word and the high-word register then holds the high word that stood beside it; no other register changes. A port that is not
bound reads zero. (derived: R63, R65, R318, R365, R583, R586, R47, R49, R69, R578, R68, R377) -/
def Obligations.WindowsRatesAndLowWords : Prop :=
  ((∀ (x : WindowSensors) s, let w := s.tb.window + 1
    Gives (.windowBoundary x) s (fun t =>
      if s.tb.running = true ∧ w ≤ s.tb.master.toNat / 1000000 ∧
          (∀ u ∈ s.replicaUnits, u ∉ s.tb.loading → w ≤ (s.replica u).toNat / 1000000) then t.tb = { s.tb with window := w } ∧
        (∀ r, x.hbmStacks = [r] → let m := r.stack.val / 4; let k := r.stack.val % 4
          Tab.getD (t.mid m).temps k 0 = r.degrees.toNat ∧
          Tab.getD (t.mid m).scrubErrors k 0 = Tab.getD (s.mid m).scrubErrors k 0 + r.scrubErrors.toNat) ∧
        t.reg Reg.pwrInput = BitVec.ofNat 32 (x.inputMv.toNat + x.inputDa.toNat * 2 ^ 16) ∧ t.reg Reg.pwrEnergy = x.moduleUj ∧
        t.reg Reg.thCoolant = BitVec.ofNat 32 (x.inlet.toNat + x.outlet.toNat * 2 ^ 8) ∧
        (∀ m, (t.mid m).laneFails = []) ∧ (∀ k, (t.half k).mismatches = []) ∧ t.power.alerts = 0 ∧ t.power.siteMax = []
      else t = s)) ∧
  (∀ d s, Gives (.rateFloor d) s (fun t => match s.siteOf d.val with
    | none => t = s
    | some site => t.bit Reg.rateStatus 16 = true ∧ ∃ r, t.faults.undelivered = s.faults.undelivered ++ [r] ∧ r.code = 0x0206 ∧
        r.unit = unitDest site ∧ r.part = s.partOfDie d.val)) ∧
  (∀ p v s, Gives (.rateModeWrite p v) s (fun t =>
    if s.bit (Reg.rateMode p.val) 31 = true ∨ s.keyState p.val ≠ 0 then t = s
    else if v.getLsbD 0 = true ∧ s.holdsFret (s.partDies p.val) (bitsOf v.toNat 1 3) = false then
      OnlyRegs s t [Reg.rateStatus] ∧ t.bit Reg.rateStatus 17 = true ∧ FieldOnly s t Reg.rateStatus 17 1
    else t = s.setRate p.val v))) ∧
  (let pair := fun (s t : State) (hi : Nat) (v : W64) => t = { s with regs := t.regs, readData := v.setWidth 32 } ∧ RegsBut s t [hi] ∧
    t.reg hi = (v >>> 32).setWidth 32
  let latched := fun (s t : State) (lo hi : Nat) => t = { s with regs := t.regs, readData := s.reg lo } ∧ RegsBut s t [hi] ∧
    t.reg hi = Tab.getD s.latch hi 0
  (∀ s, Gives .tbNowLoRead s (fun t => pair s t Reg.tbNowHi s.tb.master)) ∧
  (∀ a s b, s.arrayBase a.val = some b → Gives (.dlTimeLoRead a) s (fun t => latched s t (Reg.dlTimeLo b) (Reg.dlTimeHi b))) ∧
  (∀ d s b, s.sliceBase d.val = some b → Gives (.deadAddrLoRead d) s (fun t => latched s t (Reg.deadAddrLo b) (Reg.deadAddrHi b))) ∧
  (∀ d s b, s.sliceBase d.val = some b → Gives (.parityAddrLoRead d) s (fun t => latched s t (Reg.parityAddrLo b) (Reg.parityAddrHi b))) ∧
  (∀ m s, Gives (.poisonAddrLoRead m) s (fun t => latched s t (Reg.poisonAddrLo m.val) (Reg.poisonAddrHi m.val))) ∧
  (∀ c s b, s.courierBase c.val = some b → Gives (.crRecordLoRead c) s (fun t => pair s t (Reg.crRecordHi b) (s.courier c.val).record)) ∧
  (∀ port s, Gives (.ptmLocalLoRead port) s (fun t => if s.boundTo port.val = none then t = { s with readData := 0 }
    else t = { s with regs := t.regs, readData := (s.port port.val).ptmLocal.setWidth 32 } ∧
      RegsBut s t [Reg.ptmLocalHi port.val, Reg.ptmMasterLo port.val, Reg.ptmMasterHi port.val] ∧
      t.reg (Reg.ptmLocalHi port.val) = ((s.port port.val).ptmLocal >>> 32).setWidth 32 ∧
      t.reg (Reg.ptmMasterLo port.val) = (s.port port.val).ptmMaster.setWidth 32 ∧
      t.reg (Reg.ptmMasterHi port.val) = ((s.port port.val).ptmMaster >>> 32).setWidth 32)))

/-- A write to an address that holds no register, or that its agent may not write, changes nothing; any other has the effect of a write to
that place. At a register that its table describes whole, nothing but that register changes, and the records that its status bits show,
which clear with the last of those bits (model's choice, log entry 98); and bit by bit: a W1S bit written 1 is set, a W1C bit written 1 is
cleared, a stored bit takes the written value (an RWL bit only while the lock stood open before the write), every other bit stays. (derived:
R10, R11, R32, R34, R376, R491, R671) -/
def Obligations.RegisterWrites : Prop :=
  (∀ agent addr v s, Gives (.registerWrite agent addr v) s (fun t => match placeOf (s.home addr.toNat) with
    | none => t = s
    | some pl => if s.mayWrite agent pl = true then t = s.placeWrite pl (s.home addr.toNat) v else t = s)) ∧
  ∀ (s : State) (pl : Place) (a : Nat) (v : W32) (locked : Bool) (d : RegDesc) (n : Nat), findDesc pl.off (descsOf pl.kind) = some (d, n) →
    pl.off ≤ a → Tab.sorted s.regs = true → let t := s.tableWrite pl a v locked
    let shown := fun (b : Nat) => ∃ r ∈ recordsOf pl.kind pl.off, ∃ o ∈ r.2, a - pl.off + o ≤ b ∧ b < a - pl.off + o + 4
    t = { s with regs := t.regs, accum := t.accum, ahead := t.ahead, latch := t.latch } ∧ (recordsOf pl.kind pl.off = [] → OnlyRegs s t [a]) ∧
    (∀ b, b ≠ a → ¬shown b → t.reg b = s.reg b) ∧
    (∀ r ∈ recordsOf pl.kind pl.off, ∀ o ∈ r.2, t.reg (a - pl.off + o) =
      if s.reg a &&& r.1 ≠ 0 ∧ t.reg a &&& r.1 = 0 then regReset (a - pl.off + o) else s.reg (a - pl.off + o)) ∧
    ∀ i, i < 32 → ((s.tableWrite pl a v locked).reg a).getLsbD i =
      if d.w1s.testBit i ∧ v.getLsbD i = true then true
      else if d.w1c.testBit i ∧ v.getLsbD i = true then false
      else if d.rw.testBit i ∨ (locked = false ∧ d.rwl.testBit i) then v.getLsbD i
      else (s.reg a).getLsbD i

/-- FAULT_RECORD_WRITE takes the oldest undelivered fault and delivers its record to each destination; a BLOCK, PARTITION or PANEL record
enters the panel queue, or with 256 there is dropped and counted. POP drops the head record; KICK restarts the watchdog at the master count;
CLEAR_DROPPED zeroes the drop count; RETIRE_ACK of up to 64 moves that many entries to the log; FR_ENABLE off disables the ring and FR_HEAD
beyond the ring is ignored with its status bit. Nothing else changes. (derived: R503, R504, R505, R508, R511, R512, R529) -/
def Obligations.FaultQueueAndRings : Prop :=
  (∀ s, s.faults.undelivered = [] → Gives .faultRecordWrite s (fun t => t = s)) ∧
  (∀ s r l, s.faults.undelivered = r :: l → Gives .faultRecordWrite s (fun t => ∃ e : State, e.faults = { s.faults with undelivered := l } ∧
    t = (s.destinations r).foldl (fun s d => s.deliverTo r d) e ∧ e = { s with faults := e.faults })) ∧
  (∀ s (r : FaultRec), 2 ≤ r.cls → let t := s.deliverTo r 6
    if s.faults.queue.length < 256 then t = { s with faults := t.faults } ∧ t.faults.queued = s.faults.queued + 1 ∧
      ∃ q, t.faults.queue = s.faults.queue ++ [q] ∧ q.code = r.code ∧ q.cls = r.cls ∧ q.unit = r.unit ∧ q.time = r.time ∧ q.addr = r.addr ∧ q.extra = []
    else OnlyRegs s t [Reg.fltQueue, Reg.fltStatus] ∧ t.bit Reg.fltStatus 2 = true ∧
      t.field Reg.fltQueue 16 16 = min (s.field Reg.fltQueue 16 16 + 1) 0xFFFF) ∧
  (∀ s, Gives .pop s (fun t => t = { s with faults := { s.faults with queue := s.faults.queue.tail } })) ∧
  (∀ s, Gives .kick s (fun t => t = { s with faults := { s.faults with kickedAt := s.tb.master } })) ∧
  (∀ s, Gives .clearDropped s (fun t => OnlyRegs s t [Reg.fltQueue] ∧ t.field Reg.fltQueue 16 16 = 0 ∧ FieldOnly s t Reg.fltQueue 16 16)) ∧
  (∀ n s, Gives (.retireAck n) s (fun t => if n.toNat ≤ 64 then
    t = { s with faults := { s.faults with retire := s.faults.retire.drop n.toNat, logged := s.faults.logged ++ s.faults.retire.take n.toNat } }
    else t = s)) ∧
  (∀ port v s, Gives (.frEnable port v) s (fun t =>
    if s.barOpen port.val = false then t = s
    else if s.bit (Reg.frCtl port.val) 0 = true then
      if v.getLsbD 0 = true then t = s
      else OnlyRegs s t [Reg.frCtl port.val] ∧ FieldOnly s t (Reg.frCtl port.val) 0 1 ∧ t.bit (Reg.frCtl port.val) 0 = false
    else t = { s with regs := t.regs, ports := t.ports } ∧ t.field (Reg.frCtl port.val) 1 4 = bitsOf v.toNat 1 4 ∧
      t.field (Reg.frCtl port.val) 12 14 = bitsOf v.toNat 12 14 ∧ (v.getLsbD 0 = false → t.bit (Reg.frCtl port.val) 0 = false) ∧
      (v.getLsbD 0 = true → t.bit (Reg.frCtl port.val) 0 = true ∨ t.bit (Reg.frStatus port.val) 1 = true) ∧
      (t.bit (Reg.frCtl port.val) 0 = true → (t.port port.val).fcount = 0 ∧ (t.port port.val).fhead = 0))) ∧
  (∀ port v s, s.barOpen port.val = true → Gives (.frHead port v) s (fun t =>
    if 2 ^ s.field (Reg.frCtl port.val) 1 4 < ((s.port port.val).fcount - v).toNat then
      OnlyRegs s t [Reg.frStatus port.val] ∧ t.bit (Reg.frStatus port.val) 2 = true ∧ FieldOnly s t (Reg.frStatus port.val) 2 1
    else t = { s with ports := t.ports } ∧ t.port port.val = { s.port port.val with fhead := v }))

/-- With the read of an entry under way, ENTRY_READ_ERROR stops the mailbag and sets READ_ERROR in its status: no entry is taken, no receipt
is formed or written, HEAD stays, and from then on no entry can be taken from the stopped mailbag. Only those two registers and the mark of
the read change. (stated: R389) -/
def Obligations.EntryReadErrors : Prop :=
  ∀ port m s, (s.mailbag port.val m.val).reading = true → Gives (.entryReadError port m) s (fun t =>
    t.bit (Reg.mailbagCtl port.val m.val) 8 = true ∧ t.bit (Reg.mailbagStatus port.val m.val) 1 = true ∧
    t.mailbag port.val m.val = { s.mailbag port.val m.val with reading := false } ∧
    t = { s with regs := t.regs, mailbags := t.mailbags } ∧ t.mayTake port.val m.val = false ∧
    (∀ q k, q < 6 → k < 4096 → (q ≠ port.val ∨ k ≠ m.val) → t.mailbag q k = s.mailbag q k) ∧
    RegsBut s t [Reg.mailbagCtl port.val m.val, Reg.mailbagStatus port.val m.val])

/-- A doorbell that is heard moves TAIL, stops the mailbag with OVERRUN when TAIL runs more than the ring ahead, or is ignored with IGNORED
when the mailbag is off; RHEAD likewise. MAILBAG_ENABLE starts a mailbag whose configuration fits with its four counts at zero, refuses one
that does not with a status bit, and on disabling drains while entries lack their receipts. ENTRY_TAKE reads the next entry when one is
there and a receipt slot is free; ENTRY_READ_DONE takes it: HEAD moves by one and the entry joins the taken ones, its SEQ counting unless it
is malformed. (derived: R383, R384, R385, R387, R388, R390, R391, R392, R404) -/
def Obligations.Mailbags : Prop :=
  (∀ port m v s, let x := s.mailbag port.val m.val; let st := Reg.mailbagStatus port.val m.val
    s.doorbell port.val m.val = true →
    Gives (.mailbagTail port m v) s (fun t =>
      if s.bit (Reg.mailbagCtl port.val m.val) 0 = false then OnlyRegs s t [st] ∧ t.bit st 2 = true ∧ FieldOnly s t st 2 1
      else if 2 ^ s.mbLog port.val m.val < (v - x.head).toNat then
        t.bit (Reg.mailbagCtl port.val m.val) 8 = true ∧ t.bit st 0 = true ∧ t.mailbag port.val m.val = { x with reading := false } ∧
        t = { s with regs := t.regs, mailbags := t.mailbags } ∧ RegsBut s t [Reg.mailbagCtl port.val m.val, st]
      else t = s.setMailbag port.val m.val { x with tail := v }) ∧
    Gives (.receiptHead port m v) s (fun t =>
      if s.bit (Reg.mailbagCtl port.val m.val) 0 = false ∨ 2 ^ s.mbLog port.val m.val < (x.rcount.setWidth 32 - v).toNat then
        OnlyRegs s t [st] ∧ t.bit st 2 = true ∧ FieldOnly s t st 2 1
      else t = s.setMailbag port.val m.val { x with rhead := v })) ∧
  (∀ port m v s, s.doorbell port.val m.val = false → Gives (.mailbagTail port m v) s (fun t => t = s) ∧ Gives (.receiptHead port m v) s (fun t => t = s)) ∧
  (∀ port m v s, let ctl := Reg.mailbagCtl port.val m.val
    s.barOpen port.val = true → s.bit ctl 9 = false → Gives (.mailbagEnable port m v) s (fun t =>
      if s.bit ctl 0 = true then
        if v.getLsbD 0 = true then t = s
        else t.bit ctl 0 = false ∧ t.bit ctl 9 = s.mbBusy port.val m.val ∧ (t.mailbag port.val m.val).reading = false ∧ RegsBut s t [ctl] ∧
          t = { s with regs := t.regs, mailbags := t.mailbags }
      else t.field ctl 1 5 = bitsOf v.toNat 1 5 ∧
        (v.getLsbD 0 = true → t.bit ctl 0 = true → t.mailbag port.val m.val = Mailbag.reset ∧ t.bit ctl 8 = false) ∧
        (v.getLsbD 0 = true → t.bit ctl 0 = false → t.bit (Reg.mailbagStatus port.val m.val) 3 = true) ∧
        (v.getLsbD 0 = false → OnlyRegs s t [ctl] ∧ t.bit ctl 0 = false))) ∧
  (∀ port m s, Gives (.entryTake port m) s (fun t =>
    if s.mayTake port.val m.val = true then t = s.setMailbag port.val m.val { s.mailbag port.val m.val with reading := true } else t = s)) ∧
  (∀ port m entry s p, let x := s.mailbag port.val m.val
    s.boundTo port.val = some p → x.reading = true → s.taking port.val m.val = true → Gives (.entryReadDone port m entry) s (fun t =>
      (t.mailbag port.val m.val).head = x.head + 1 ∧ (t.mailbag port.val m.val).reading = false ∧ t.ids = s.ids + 1 ∧
      (t.mailbag port.val m.val).lastSeq = (if entryMalformed x entry then x.lastSeq else entrySeq entry) ∧
      t.works.length = s.works.length + 1 ∧
      ∃ k, t.works.getLast? = some k ∧ k.id = s.ids ∧ k.entry = entry ∧ k.port = port.val ∧ k.mailbag = m.val ∧ k.part = p ∧
        k.seq = entrySeq entry ∧ k.slice = s.ownerOf port.val m.val ∧ (entryMalformed x entry = false → k.phase = .handed)))

/-- For an entry that is not finished and whose port has its link: the final receipt stands last among the receipts of its mailbag, the
entry is finished and holds no array, every other mailbag is as it was, and forming another final receipt of that entry changes nothing.
SERVED carries DETAIL, REFUSED its reason. (derived: R401, R400, R388) -/
def Obligations.FinalReceipts : Prop :=
  ∀ (s : State) (id : Nat) (k : Work) (f : Work → Receipt), s.work id = some k → k.phase ≠ .finished → k.why ≠ some .linkDown →
    let t := s.finish id false f
    (t.mailbag k.port k.mailbag).receipts.getLast? = some (f k) ∧
    (∃ e, t.work id = some e ∧ e.phase = .finished ∧ e.arrays = [] ∧ e.seq = k.seq ∧ e.entry = k.entry) ∧
    (∀ port m, 4096 * port + m ≠ 4096 * k.port + k.mailbag → t.mailbag port m = s.mailbag port m) ∧
    (∀ b g, t.finish id b g = t) ∧ t.hostOut = s.hostOut ∧
    (∀ d, ((s.serve1 id d).mailbag k.port k.mailbag).receipts.getLast?.map (fun r => (r.final, r.outcome, r.detail)) =
      some (true, 1, BitVec.ofNat 64 d)) ∧
    (∀ why, ((s.refuse id why).mailbag k.port k.mailbag).receipts.getLast?.map (fun r => (r.final, r.outcome, r.reason)) = some (true, 4, why))

/-- For the oldest unhandled entry of a mailbag: a LAUNCH with a reason against it is refused with the lowest, else queued, the arrays
offered, and DEFERRED with its first obstacle while it stays queued; a CHAIN is refused or waits for its courier; CANCEL and PREEMPT answer
2 without a target, 1 when it has its receipt, 3 when they can do nothing to it, else act and wait; MGMT waits behind AFTER, is refused when
undefined, BUSY beyond 16, else held by the Postmaster; a MARKER is SERVED; a timeout is BUSY. (derived: R393, R395, R396, R397, R398, R405,
R406, R408, R445, R446, R528) -/
def Obligations.EntriesHandled : Prop :=
  ∀ port m s k, (s.handed port.val m.val 1 = some k →
      (s.launchReason k ≠ 0 → s.launchReason k ≠ 0x70 → Gives (.launch port m) s (fun t => t = s.refuse k.id (s.launchReason k))) ∧
      (s.launchReason k = 0x70 → Gives (.launch port m) s (fun t => t = (s.refuse k.id 0x70).setBit (Reg.partStatus k.part) 5)) ∧
      (s.launchReason k = 0 → Gives (.launch port m) s (fun t => let e := (s.queueLaunch k).dispatch k.part
        ∀ j, e.work k.id = some j → if j.phase = .queued then
            ∃ r, (t.mailbag j.port j.mailbag).receipts.getLast? = some r ∧ r.final = false ∧ r.outcome = 2 ∧ r.seq = j.seq ∧
              t = { e with mailbags := t.mailbags, works := t.works, accum := t.accum, ahead := t.ahead }
          else t = e))) ∧
    (s.handed port.val m.val 2 = some k → Gives (.chain port m) s (fun t =>
      if s.chainReason k = 0 then t = (s.modWork k.id (fun k => { k with phase := .waiting })).startChains
      else t = s.refuse k.id (s.chainReason k))) ∧
    (s.handed port.val m.val 3 = some k →
      (s.targetOf k = none → Gives (.cancel port m) s (fun t => t = s.serve1 k.id 2)) ∧
      (∀ j, s.targetOf k = some j → (s.receipted j = true → Gives (.cancel port m) s (fun t => t = s.serve1 k.id 1)) ∧
        (s.receipted j = false → Gives (.cancel port m) s (fun t =>
          if j.type ≠ 3 ∧ j.type ≠ 4 ∧ (s.cancelWork j .cancel 0).1 = true then t = (s.cancelWork j .cancel 0).2.awaits k j.id
          else t = s.serve1 k.id 3)))) ∧
    (s.handed port.val m.val 4 = some k →
      (s.targetOf k = none → Gives (.preempt port m) s (fun t => t = s.serve1 k.id 2)) ∧
      (∀ j, s.targetOf k = some j → (s.receipted j = true → Gives (.preempt port m) s (fun t => t = s.serve1 k.id 1)) ∧
        (s.receipted j = false → Gives (.preempt port m) s (fun t =>
          if j.type = 1 ∧ (j.phase = .running ∨ j.phase = .stopping) ∧ j.latency = false ∧ j.fault = none then
            t = (s.stopFor j.id .preemptEntry).awaits k j.id
          else t = s.serve1 k.id 3)))) ∧
    (s.handed port.val m.val 5 = some k →
      Gives (.mgmt port m) s (fun t =>
        if s.afterHeld k = true then t = s.modWork k.id (fun k => { k with phase := .waiting })
        else if opDefined (entryOp k.entry) = false then t = s.refuse k.id 2
        else if 16 ≤ (s.atPostmaster k.port).length then (if s.follows k.part = true then t = s else t = s.busy k)
        else s.pairState k.part ≠ 2 → t = s.modWork k.id (fun k => { k with phase := .atPostmaster })) ∧
      Gives (.mgmtBusyTimeout port m) s (fun t => if s.follows k.part = true then t = s
        else t = (s.finish k.id false (fun k => k.receipt true 7 0)).setBit (Reg.portStatus k.port) 1)) ∧
    (s.handed port.val m.val 6 = some k → Gives (.marker port m) s (fun t =>
      if s.afterHeld k = true then t = s.modWork k.id (fun k => { k with phase := .waiting }) else t = s.serve1 k.id 0))

/-- RECEIPT_WRITE writes the next receipt that may be written into the slot of its count, adds one to RCOUNT and makes the tail word due;
TAIL_WORD_WRITE writes RCOUNT and is due no more; the oldest flush read of a port goes to the courier, closing fence or subgroup that asked
for it; a failed host read fails the oldest load of the line that waits, the other host lines of its instruction with it; a launch whose
blocks have all stopped ends as its stop calls for and the arrays are offered; nothing is dispatched for a partition that is not RUNNING or
is poisoned; for any other, arrays are offered to the queued latency-critical launches, then the queued best-effort ones, then the running
ones of either class, and an eligible best-effort launch that is alone starts with the arrays picked for it. (derived: R402, R403, R308,
R302, R337, R672, R443, R439, R406, R438, R441) -/
def Obligations.ReceiptsAndHostAnswers : Prop :=
  (∀ port m s p r rest, let x := s.mailbag port.val m.val
    s.boundTo port.val = some p → s.follows p = false → s.pairState p ≠ 5 → s.pairState p ≠ 6 → x.tailDue = false →
    (s.port port.val).linkUp = true → s.mayAsk p = true → takeReceipt (s.mayReceipt p port.val m.val) x.receipts = some (r, rest) → s.needsDone p r = false →
    Gives (.receiptWrite port m) s (fun t => ∃ e : State, (e.mailbag port.val m.val).rcount = x.rcount + 1 ∧
      (e.mailbag port.val m.val).receipts = rest ∧ (e.mailbag port.val m.val).tailDue = true ∧ e.works = s.works ∧
      (if r.final = true then t = e.receiptEnds p port.val m.val r else t = e) ∧
      e.hostOut = (s.hcPut p port.val (s.ownerOf port.val m.val) (s.ringOff port.val m.val + 64 * (x.rcount.toNat % s.mbSlots port.val m.val)) 64
        (r.bytes m.val ((x.rcount.toNat / s.mbSlots port.val m.val + 1) % 2) (s.hidTime port.val))).hostOut)) ∧
  (∀ port m s p, let x := s.mailbag port.val m.val
    s.boundTo port.val = some p → x.tailDue = true → s.pairState p ≠ 5 → s.pairState p ≠ 6 → s.mayAsk p = true → Gives (.tailWordWrite port m) s (fun t =>
      ∃ e : State, t = e.sliceRstEnd p port.val (s.ownerOf port.val m.val) ∧
        e.mailbag port.val m.val = { x with tailDue := false, tellDue := false } ∧ e.works = s.works)) ∧
  (∀ port ok s p f l, s.boundTo port.val = some p → (s.port port.val).flushes = f :: l → s.mayAsk p = true →
    Gives (.hostFlushReadDone port ok) s (fun t => ∃ e : State, e = s.setPort port.val { s.port port.val with flushes := l } ∧
      t = if 0x300 ≤ f.arr then e.crFlushed (f.arr - 0x300) ok else if f.slot = 64 then e.closingFlushed p f.arr ok
        else e.flushed f.arr f.slot f.id ok 0x0601)) ∧
  (∀ p line s r, hostStart ≤ 128 * line.toNat →
    s.reqs.find? (fun r => r.part == p.val && r.line == line.toNat && r.kind.reads && !r.arrived) = some r →
    Gives (.hostReadError p line) s (fun t =>
      t = (((s.reqs.filter (fun q => q.sameLoad r && q.id != r.id)).foldl (fun (s : State) q => (s.dropReq q).complete q) (s.dropReq r))).failReq r 0x0603)) ∧
  (∀ port m seq s k, s.works.find? (fun k => k.port == port.val && k.mailbag == m.val && k.seq == seq && k.type == 1 && k.phase == .stopping) = some k →
    Gives (.launchStopped port m seq) s (fun t => if s.launchStopped k.id = true then t = (s.launchEnd k).dispatch k.part else t = s)) ∧
  (∀ p s, Gives (.dispatchOffer p) s (fun t =>
    (s.partState p.val ≠ 2 ∨ s.poisoned p.val = true → t = s) ∧
    (s.partState p.val = 2 → s.poisoned p.val = false → (s.queue p.val true) = [] → (s.queue p.val false) = [] → (s.hungry p.val true) = [] →
      (s.hungry p.val false) = [] → (s.part p.val).phWanted = [] →
      t = s.setPart p.val { s.part p.val with startSeq := (s.part p.val).startSeq + 1 }))) ∧
  (∀ p s, s.partState p.val = 2 → s.poisoned p.val = false → Gives (.dispatchOffer p) s (fun t =>
    let a := ((s.setPart p.val { s.part p.val with startSeq := (s.part p.val).startSeq + 1 }).wantLoads p.val).phServe p.val
    let b := State.serveLc (a.queue p.val true) true a
    let c := (b.queue p.val false).foldl State.serveBe b
    let d := (c.hungry p.val true).foldl State.serveMore c
    t = (d.hungry p.val false).foldl State.serveMore d)) ∧
  (∀ p s k, s.partState p.val = 2 → s.poisoned p.val = false → s.queue p.val true = [] → s.queue p.val false = [k] → (s.hungry p.val true) = [] →
    (s.hungry p.val false) = [] → (s.part p.val).phWanted = [] → s.work k.id = some k → 64 ≤ k.pigeonhole → s.mayRun k = true →
    s.pick k (min k.want (s.beRoom k)) ≠ [] → Gives (.dispatchOffer p) s (fun t =>
      ∃ j, t.work k.id = some j ∧ j.phase = .running ∧ ∀ a ∈ s.pick k (min k.want (s.beRoom k)), a ∈ j.arrays))

/-- A configuration request is unanswered in the fundamental reset, else Retry until the space is ready; PTM latches the pair; HC_CTL takes
SIZE as written and EN, which locks it; a snoop leaves the line in no home slice. A link that goes down adds 1 to LINK_GEN and goes down,
FLR leaves it up; a bound port has its registers reset: all of the port's registers but PORT_STATE and slice 0's windows read their reset
values, no other register changes. A returned link sets LINK_LOST where the port was bound at the loss. PERST takes the link down. (derived:
R375, R377, R379, R380, R409, R411, R412, R413, R414, R601, R602) -/
def Obligations.HostLinks : Prop :=
  (∀ port s, let x := s.port port.val
    Gives (.configRequest port) s (fun t => t = { s with response := t.response, ports := t.ports } ∧ t.response.data = [] ∧
      t.response.status = (if x.live = false ∨ x.perst = true then 2 else if x.configReady = true then 0 else 1) ∧
      (x.live = true → x.perst = false → t.port port.val = { x with configReady := true }) ∧
      (x.live = false ∨ x.perst = true → t.ports = s.ports))) ∧
  (∀ port time s, Gives (.ptmDialog port time) s (fun t => if (s.boundTo port.val).isSome = true then
      t = { s with ports := t.ports } ∧ t.port port.val = { s.port port.val with ptmLocal := s.hidTime port.val, ptmMaster := time }
    else t = s)) ∧
  (∀ port v s, let a := Reg.hcCtl port.val
    Gives (.hcCtlEn port v) s (fun t => if s.barOpen port.val = false ∨ s.bit a 31 = true then t = s
      else OnlyRegs s t [a, Reg.portState port.val] ∧ t.field a 0 6 = bitsOf v.toNat 0 6 ∧ t.bit a 8 = v.getLsbD 8 ∧
        t.bit a 31 = v.getLsbD 8 ∧ FieldOnly s t (Reg.portState port.val) 2 1 ∧ (v.getLsbD 8 = true → t.bit (Reg.portState port.val) 2 = true) ∧
        (v.getLsbD 8 = false → t.reg (Reg.portState port.val) = s.reg (Reg.portState port.val)))) ∧
  (∀ port line s p, s.boundTo port.val = some p → Gives (.cxlSnoop port line) s (fun t =>
    t = { s with slices := t.slices, hostOut := t.hostOut, regs := t.regs } ∧ (∃ l, t.hostOut = s.hostOut ++ l) ∧
    ((∀ d ∈ s.partDies p, (s.siteOf d).isSome = true) → t.regs = s.regs) ∧
    (hcStart ≤ 128 * line.toNat → ∀ d ∈ s.partDies p, ∀ e ∈ (t.slice d).entries, ∀ l ∈ e.2.lines, l.line ≠ line.toNat))) ∧
  (∀ port line s, s.boundTo port.val = none → Gives (.cxlSnoop port line) s (fun t => t = s)) ∧
  (∀ port s, (s.port port.val).linkUp = false → Gives (.hostLinkDown port) s (fun t => t = s)) ∧
  (∀ port s, (s.port port.val).linkUp = true → Gives (.hostLinkDown port) s (fun t => t = s.linkLoss port.val false)) ∧
  (∀ port s, Gives (.functionLevelReset port) s (fun t => t = s.linkLoss port.val true)) ∧
  (∀ (port : Fin 6) (up : Bool) (s : State), let x := s.port port.val; let t := s.linkLoss port.val up
    x.bound = none → SetsField s { t with ports := s.ports } (Reg.portState port.val) 16 16 ((s.field (Reg.portState port.val) 16 16 + 1) % 2 ^ 16) ∧
      t.port port.val = { x with linkUp := up && x.linkUp, ide := if up then x.ide else [] }) ∧
  (∀ (port : Fin 6) (n a : Nat) (s : State), Tab.sorted s.regs = true → (s.portRegsReset port.val n).reg a =
      if a = Reg.portState port.val then s.reg a &&& 0xFFFF0773
      else if a = Reg.sliceHbm port.val 0 then BitVec.ofNat 32 (189 * n * 2 ^ 16)
      else if a = Reg.sliceFar port.val 0 then BitVec.ofNat 32 (4096 * n * 2 ^ 16)
      else if (Base.port port.val ≤ a ∧ a < Base.port port.val + 0x10000) ∨
        (Base.letterbox port.val 0 ≤ a ∧ a < Base.letterbox port.val 0 + 0x40000) then regReset a
      else s.reg a) ∧
  (∀ (s : State) (k : Work) (f : Work → Receipt), s.work k.id = some k → k.why = some .linkDown → (s.finish k.id true f).mailbags = s.mailbags) ∧
  (∀ port s, let x := s.port port.val; let a := Reg.portStatus port.val
    Gives (.linkLost port) s (fun t => if x.linkUp = true ∨ x.live = false ∨ x.perst = true then t = s
      else t = { s with ports := t.ports, regs := t.regs, deadUnits := t.deadUnits } ∧ t.port port.val = { x with linkUp := true, lost := false } ∧
        t.deadUnits = s.deadUnits.filter (fun u => u != 116 + port.val / 3) ∧
        if x.lost = true ∧ x.bound.isSome = true then t.bit a 0 = true ∧ FieldOnly s t a 0 1 ∧ RegsBut s t [a] else t.regs = s.regs)) ∧
  (∀ port s, Gives (.perst port) s (fun t => (t.port port.val).perst = true ∧ (t.port port.val).configReady = false ∧
      (t.port port.val).linkUp = false ∧
      ((s.port port.val).linkUp = false → t = s.setPort port.val { s.port port.val with perst := true, configReady := false }))) ∧
  (∀ port s, let x := s.port port.val; let a := Reg.portStatus port.val
    Gives (.perstRelease port) s (fun t => if x.perst = false then t = s
      else t = { s with ports := t.ports, regs := t.regs } ∧
        (x.live = false → t.port port.val = { x with perst := false } ∧ t.regs = s.regs) ∧
        (x.live = true → t.port port.val = { x with perst := false, linkUp := true, configReady := false, lost := false } ∧
          if x.lost = true ∧ x.bound.isSome = true then t.bit a 0 = true ∧ FieldOnly s t a 0 1 ∧ RegsBut s t [a] else t.regs = s.regs)))

/-- A slice register takes the bits it has; a logged page sets its bit in its buffer, or ends logging with DLOG_ERROR; a swap turns to the
other buffer and is done when the old one's pages are out. Quiescing marks the slice and gives up its entry reads; QUIESCED comes once all
is held. A save record is 64 bytes, 48 a mailbag, 80 an entry and the memory image; a slice not quiesced or a buffer too small is an error,
as is a restore that may not be. A slice reset waits for a stop or restart. (derived: R382, R415, R416, R417, R418, R419, R420, R423, R604,
R605) -/
def Obligations.Slices : Prop :=
  (∀ port sl n v s, let e := sliceReg port.val sl.val n.val
    Gives (.sliceConfigWrite port sl n v) s (fun t => if s.barOpen port.val = true then OnlyRegs s t [e.1] ∧ t.reg e.1 = v &&& e.2 else t = s)) ∧
  (∀ port sl word ok s, let x := s.port port.val; let a := Reg.dlogCtl port.val sl.val
    (x.dlogPend.find? (fun e => e.1 == sl.val) = none → Gives (.dirtyPageLog port sl word ok) s (fun t => t = s)) ∧
    (∀ e, x.dlogPend.find? (fun e => e.1 == sl.val) = some e → Gives (.dirtyPageLog port sl word ok) s (fun t =>
      t.port port.val = { x with dlogPend := x.dlogPend.erase e } ∧
      if ok = false then t = { s with ports := t.ports, regs := t.regs } ∧ t.bit a 0 = false ∧ t.bit a 9 = true ∧ RegsBut s t [a]
      else t = { s with ports := t.ports, hostOut := t.hostOut } ∧ ∃ w, t.hostOut = s.hostOut ++ [w] ∧ w.port = port.val ∧ w.pasid = 0 ∧
        ∀ b, b = s.dlogBuf port.val sl.val (e.2 / 2 ^ 40) + 8 * (e.2 % 2 ^ 40 / 64) →
          w.addr = b / 128 * 128 ∧ w.mask = maskOf (b % 128) 8 ∧
          (b % 8 = 0 → lineBytes w.data (b % 128) 8 = (word ||| BitVec.ofNat 64 (2 ^ (e.2 % 2 ^ 40 % 64))).toNat)))) ∧
  (∀ port sl s, let a := Reg.dlogCtl port.val sl.val
    Gives (.swap port sl) s (fun t => if s.barOpen port.val = false ∨ s.bit a 1 = true then t = s
      else OnlyRegs s t [a] ∧ FieldOnly s t a 1 2 ∧ t.bit a 1 = true ∧ t.bit a 2 = !s.bit a 2) ∧
    Gives (.swapDone port sl) s (fun t =>
      if s.bit a 1 = true ∧ (∀ e ∈ (s.port port.val).dlogPend, e.1 = sl.val → e.2 / 2 ^ 40 = s.field a 2 1) then
        OnlyRegs s t [a] ∧ t.bit a 1 = false ∧ t.bit a 8 = true ∧ ∀ j, j < 32 → j ≠ 1 → j ≠ 8 → t.bit a j = s.bit a j
      else t = s)) ∧
  (∀ port sl s, let a := Reg.saveCtl port.val sl.val
    (s.barOpen port.val = false → ∀ on, Gives (.quiesce port sl on) s (fun t => t = s)) ∧
    (s.barOpen port.val = true → s.bit a 0 = true → Gives (.quiesce port sl true) s (fun t => t = s)) ∧
    (s.barOpen port.val = true → s.bit a 0 = false → Gives (.quiesce port sl true) s (fun t => ∃ e : State,
      SetsBit s { e with mailbags := s.mailbags } a 0 true ∧ (∀ m ∈ s.sliceMailbags port.val sl.val, (e.mailbag port.val m).reading = false) ∧
      (s.sliceWorks port.val sl.val = [] → t = e) ∧
      (∀ k, s.sliceWorks port.val sl.val = [k] → t =
        if k.type = 1 ∧ (k.phase = .running ∨ k.phase = .stopping) then e.stopFor k.id .quiesce
        else if k.type = 2 ∧ k.phase = .running then e.setCourier k.courier { e.courier k.courier with holdNext := true }
        else e))) ∧
    (s.barOpen port.val = true → s.bit a 0 = false → Gives (.quiesce port sl false) s (fun t => t = s)) ∧
    (∀ p, s.boundTo port.val = some p → s.barOpen port.val = true → s.bit a 0 = true → s.sliceWorks port.val sl.val = [] →
      Gives (.quiesce port sl false) s (fun t => ∃ e : State, OnlyRegs s e [a] ∧ e.bit a 0 = false ∧ e.bit a 8 = false ∧ t = e.afterFinal p))) ∧
  (∀ port sl s, let a := Reg.saveCtl port.val sl.val
    (s.boundTo port.val = none → Gives (.quiesced port sl) s (fun t => t = s)) ∧
    (∀ p, s.boundTo port.val = some p → Gives (.quiesced port sl) s (fun t =>
      if s.bit a 0 = true ∧ s.bit a 8 = false ∧ (∀ k ∈ s.sliceWorks port.val sl.val, s.heldStill k = true) ∧
          (∀ m ∈ s.sliceMailbags port.val sl.val, (s.mailbag port.val m).tailDue = false ∧ ∀ r ∈ (s.mailbag port.val m).receipts, r.final = false) then
        t.bit a 8 = true ∧ t = { s with slices := t.slices, hostOut := t.hostOut, regs := t.regs }
      else t = s))) ∧
  (∀ (s : State) (port p sl : Nat), (s.saveRecord port p sl).length = 0x40 + 48 * ((s.sliceMailbags port sl).filter (s.mbOn port)).length +
    80 * (s.sliceWorks port sl).length + (if s.bit (Reg.saveCtl port sl) 3 = true then (s.memImage port p sl).length else 0)) ∧
  (∀ port sl s, let a := Reg.saveCtl port.val sl.val
    (s.boundTo port.val = none → Gives (.sliceSave port sl) s (fun t => t = s)) ∧
    (∀ p, s.boundTo port.val = some p → Gives (.sliceSave port sl) s (fun t => let l := s.saveRecord port.val p sl.val
      if s.barOpen port.val = false then t = s
      else if s.bit a 8 = false ∨ 2 ^ 20 * (s.reg (Reg.saveSize port.val sl.val)).toNat < l.length then SetsBit s t a 18 true
      else SetsBit s { t with hostOut := s.hostOut } a 16 true ∧ ∃ w, t.hostOut = s.hostOut ++ w ∧ w.length = l.length))) ∧
  (∀ port sl r s, let a := Reg.saveCtl port.val sl.val
    (s.boundTo port.val = none ∨ s.barOpen port.val = false → Gives (.sliceRestore port sl r) s (fun t => t = s)) ∧
    (∀ p, s.boundTo port.val = some p → s.barOpen port.val = true →
      (s.mayRestore port.val sl.val r = false → Gives (.sliceRestore port sl r) s (fun t =>
        OnlyRegs s t [a] ∧ t.bit a 2 = false ∧ t.bit a 18 = true)) ∧
      (s.mayRestore port.val sl.val r = true → Gives (.sliceRestore port sl r) s (fun t => t.bit a 17 = true ∧
        (r.image = [] → r.mailbags = [] → r.held = [] → OnlyRegs s t [a] ∧ t.bit a 2 = false))))) ∧
  (∀ (s : State) (port : Nat) (r : SaveMailbag), (s.restoreMailbag port r).mailbag port r.mailbag.val =
    { Mailbag.reset with tail := r.tail, head := r.head, rhead := r.rhead, rcount := r.rcount, lastSeq := r.lastSeq, anySeq := true }) ∧
  (∀ (s : State) (p port sl : Nat) (r : SaveHeld), entryType r.entry ≠ 1 → ∃ k, (s.restoreHeld p port sl r).works = s.works ++ [k] ∧
    k.id = s.ids ∧ k.preempts = r.preempts.toNat ∧ k.defers = r.defers.toNat ∧ k.slice = sl ∧ k.mailbag = r.mailbag.val ∧
    k.phase = (if entryType r.entry = 2 then WPhase.waiting else WPhase.handed)) ∧
  (∀ port sl s, let b := rstBit port.val sl.val
    (s.boundTo port.val = none ∨ s.barOpen port.val = false → Gives (.sliceRst port sl) s (fun t => t = s)) ∧
    (∀ p, s.boundTo port.val = some p → s.barOpen port.val = true →
      (s.sliceResetting port.val sl.val = true → Gives (.sliceRst port sl) s (fun t => t = s.sliceRstEnd p port.val sl.val)) ∧
      (s.sliceResetting port.val sl.val = false → Gives (.sliceRst port sl) s (fun t => ∃ e : State, SetsBit s e b.1 b.2 true ∧
        t = if s.partState p = 3 ∨ s.partState p = 5 then e else e.sliceRstBegin p port.val sl.val)))) ∧
  (∀ (s : State) (port : Fin 6) (sl : Fin 64) (n a : Nat), let t := s.sliceRegs port.val sl.val n; let lo := Reg.slicePasid port.val sl.val
    t.sliceResetting port.val sl.val = false ∧ (sl.val ≠ 0 → lo ≤ a → a < lo + 64 → t.reg a = regReset a) ∧
    ∀ m ∈ s.sliceMailbags port.val sl.val, t.mailbag port.val m = Mailbag.reset)

/-- A layout is formed under the lowest free number, or refused with the code of the first failing check shown where it was asked for; one
that passes has 1 to 8 free, complete sectors and a free port. FORMING becomes RUNNING after the scrub; a dissolving partition loses its
keys and ends FREE; the first fatal fault poisons and stops a running one, whose running launches receive FAULTED; STOPPED follows the
receipts; a restart goes through its census, which picks the nearest free spare and retires a die by the rule, to RUNNING, or STOPPED_DEAD.
(derived: R26, R425, R426, R427, R430, R431, R432, R434, R517, R521) -/
def Obligations.Partitions : Prop :=
  (∀ (p : Fin 6) (s : State), (s.partState p.val ≠ 0 ∨ s.mgdLost = true → Gives (.partForm p) s (fun t => t = s)) ∧
    (s.partState p.val = 0 → s.mgdLost = false → ∃ q, q ≤ p.val ∧ s.partState q = 0 ∧ (∀ r, r < q → s.partState r ≠ 0) ∧
      Gives (.partForm p) s (fun t => let u := s.renumber p.val q
        if u.formError q = 0 then t.bit (Reg.partCtl q) 0 = true ∧ t = (u.form q).setBit (Reg.partCtl q) 0
        else OnlyRegs s t [Reg.partState p.val, Reg.partStatus p.val, Reg.partCtl p.val] ∧
          t.field (Reg.partState p.val) 16 8 = u.formError q ∧ FieldOnly s t (Reg.partState p.val) 16 8 ∧
          t.bit (Reg.partStatus p.val) 1 = true ∧ t.bit (Reg.partCtl p.val) 0 = false))) ∧
  (∀ (s : State) (p : Nat), s.formError p ≤ 9 ∧ (s.formError p = 0 →
    1 ≤ s.partN p ∧ s.partN p ≤ 8 ∧ s.partK0 p + s.partN p ≤ 8 ∧ s.partPort p < 6 ∧ s.boundTo (s.partPort p) = none ∧
    ∀ k, s.partK0 p ≤ k → k < s.partK0 p + s.partN p → s.partOfSector k = none ∧ s.bit Reg.censusState (8 + k) = false ∧ s.lostIn k = [])) ∧
  (∀ p s, Gives (.formDone p) s (fun t =>
    if s.partState p.val = 1 ∧ (s.keysOf p.val).scrubLeft = [] ∧ (∀ d ∈ s.partDies p.val, s.sliceReady d = true) then
      OnlyRegs s t [Reg.partState p.val, Reg.partStatus p.val, Reg.partCtl p.val] ∧ t.partState p.val = 2 ∧
        FieldOnly s t (Reg.partState p.val) 0 3 ∧ t.bit (Reg.partStatus p.val) 0 = true ∧ t.bit (Reg.partCtl p.val) 0 = false
    else t = s)) ∧
  (∀ p s, Gives (.partDissolve p) s (fun t =>
    (s.partState p.val = 0 ∨ s.partState p.val = 7 → t = s) ∧
    (s.partState p.val = 5 → SetsBit s { t with parts := s.parts } (Reg.partCtl p.val) 1 true ∧
      t.part p.val = { s.part p.val with dissolveAfter := true }) ∧
    (s.partState p.val ≠ 0 → s.partState p.val ≠ 5 → s.partState p.val ≠ 7 → t = (s.setBit (Reg.partCtl p.val) 1).dissolve p.val))) ∧
  (∀ (p : Fin 6) (s : State), (∀ k ∈ s.works, k.part = p.val → k.phase = .finished) → s.pairState p.val = 0 → let t := s.dissolve p.val
    t.partState p.val = 7 ∧ t.keyState p.val = 0 ∧ (t.keysOf p.val).jobSecret = 0 ∧ (t.keysOf p.val).storageSecret = 0 ∧
      (t.keysOf p.val).keyNonce = 0 ∧ (t.keysOf p.val).loaded = false) ∧
  (∀ p s, let bound := s.partPort p.val < 6 ∧ (s.port (s.partPort p.val)).bound = some p.val
    (s.partState p.val ≠ 7 → Gives (.dissolved p) s (fun t => t = s)) ∧
    (s.partState p.val = 7 → bound → Gives (.dissolved p) s (fun t => t =
      if s.partReceipted p.val = true then (s.unbindPort p.val).startScrub p.val 4 else s)) ∧
    (s.partState p.val = 7 → ¬bound → (s.keysOf p.val).scrubLeft ≠ [] → Gives (.dissolved p) s (fun t => t = s)) ∧
    (s.partState p.val = 7 → ¬bound → (s.keysOf p.val).scrubLeft = [] → s.partK0 p.val + s.partN p.val ≤ 8 → Gives (.dissolved p) s (fun t =>
      t.partState p.val = 0 ∧ t.bit (Reg.partStatus p.val) 9 = true ∧ t.keyState p.val = 0 ∧ t.pairState p.val = 0 ∧ t.poisoned p.val = false))) ∧
  (∀ p s, ((s.part p.val).fatal = none → Gives (.partStopping p) s (fun t => t = s)) ∧
    (∀ f, (s.part p.val).fatal = some f → Gives (.partStopping p) s (fun t => let c := s.setPart p.val { s.part p.val with fatal := none }
      (s.partState p.val = 1 → t = s.poison p.val) ∧ (s.partState p.val = 7 → t = c.poison p.val) ∧
      (s.partState p.val ≠ 1 → s.partState p.val ≠ 2 → s.partState p.val ≠ 7 → t = c) ∧
      (s.partState p.val = 2 → let e := c.poison p.val
        (e.pairState p.val = 2 → t = e.failOver p.val f.1 f.2) ∧ (e.pairState p.val = 3 → t = (e.detach p.val 0).stopPartition p.val f.1 f.2) ∧
        (e.pairState p.val = 1 → t = (e.joinFails p.val 2).stopPartition p.val f.1 f.2) ∧
        (e.pairState p.val = 0 ∨ 4 ≤ e.pairState p.val → t = e.stopPartition p.val f.1 f.2))))) ∧
  (∀ (s : State) (k : Work) (f u : W32), s.work k.id = some k → k.type = 1 → k.phase = .running → k.why ≠ some .linkDown →
    ((s.stopEntry k f u).mailbag k.port k.mailbag).receipts.getLast?.map (fun r => (r.final, r.outcome, r.fault, r.unit)) =
      some (true, 6, (k.fault.getD (f, u)).1, (k.fault.getD (f, u)).2)) ∧
  (∀ p s, Gives (.partStopped p) s (fun t =>
    if s.partState p.val = 3 ∧ (∀ k ∈ s.works, k.part = p.val → k.type = 1 ∨ k.type = 2 → s.receipted k = true) then
      (∀ sl, sl < 64 → s.sliceResetting (s.partPort p.val) sl = false) → s.autoRestart p.val = false →
        OnlyRegs s t [Reg.partState p.val, Reg.partStatus p.val] ∧ t.partState p.val = 4 ∧ t.bit (Reg.partStatus p.val) 2 = true
    else t = s)) ∧
  (∀ p s, Gives (.partRestartRequest p) s (fun t => if s.partState p.val = 4 then t = s.beginRestart p.val else SetsBit s t (Reg.partCtl p.val) 2 false)) ∧
  (∀ (s : State) (p : Nat), if s.mgdLost = true then s.beginRestart p = s
    else (s.beginRestart p).field (Reg.partRstState p) 0 3 = 1 ∧ ((s.beginRestart p).part p).joining = []) ∧
  (∀ p pass mids fails s, Gives (.restartCensus p pass mids fails) s (fun t =>
    if s.partState p.val = 5 ∧ s.field (Reg.partRstState p.val) 0 3 = 1 ∧
        (∀ d ∈ s.partDies p.val, s.siteOf d = none ∨ s.sliceReady d = true) then
      ∃ e : State, (e.field (Reg.partRstState p.val) 0 3 = 0 ∨ e.field (Reg.partRstState p.val) 0 3 = 4 ∨ e.field (Reg.partRstState p.val) 0 3 = 5) ∧
        (e.field (Reg.partRstState p.val) 0 3 = 0 → e.partState p.val = 6 ∧ e.bit (Reg.partStatus p.val) 4 = true) ∧
        t = if (e.part p.val).dissolveAfter = true then e.dissolve p.val else e
    else t = s)) ∧
  (∀ (s : State) (pos t : Nat), pos < 108 → s.nearestSpare pos = some t → let far := fun (u : Nat) => max (siteRow u) (siteRow pos) - min (siteRow u) (siteRow pos)
    siteBand t = siteBand pos ∧ siteCol t = 4 ∧ s.siteState t = 2 ∧ ∀ u, u < 108 → siteBand u = siteBand pos → siteCol u = 4 → s.siteState u = 2 →
      far t ≤ far u ∧ (far t = far u → siteRow t ≤ siteRow u)) ∧
  (∀ (s : State) (site : Fin 108) (pass : Bool) (ok : W32), let t := s.testSite site.val pass ok
    let n := if pass = true then 0 else Tab.getD s.faults.failedTests site.val 0 + 1
    Tab.getD t.faults.failedTests site.val 0 = n ∧ t.reg (Reg.siteState site.val) =
      if s.dieRetired site.val = true ∨ 2 ≤ n ∨ 2 ≤ Tab.getD s.faults.lostThisStart site.val 0 ∨ s.dieWorn site.val = true then siteWord site.val 4
      else if pass = true then ok else siteWord site.val 3) ∧
  (∀ p s, s.partState p.val = 5 → 4 ≤ s.field (Reg.partRstState p.val) 0 3 → (s.part p.val).joining = [] → s.keyState p.val ≠ 1 →
    Gives (.restartDone p) s (fun t =>
      if ∃ d ∈ s.partDies p.val, s.siteOf d = none then SetsField s t (Reg.partRstState p.val) 0 3 1
      else if ∃ d ∈ s.partDies p.val, s.sliceReady d = false then t = s
      else ∃ e : State, e.partState p.val = 2 ∧ e.bit (Reg.partStatus p.val) 3 = true ∧ (e.part p.val).fatal = none ∧
        e.field (Reg.partRstState p.val) 16 16 = min ((s.tb.master - (s.part p.val).restartFrom).toNat / 1000) 0xFFFF ∧
        t = (e.sliceRstRestarted p.val (e.partPort p.val)).afterFinal p.val)) ∧
  (∀ p s, s.partState p.val ≠ 5 ∨ s.field (Reg.partRstState p.val) 0 3 < 4 ∨ (s.part p.val).joining ≠ [] ∨ s.keyState p.val = 1 →
    Gives (.restartDone p) s (fun t => t = s))

/-- A management operation runs when its entry is the next one, else nothing happens; a parameter block that cannot be read, or with an out-
of-range value, is answered with DETAIL 1, a state that does not allow it with 2; its reserved bytes are ignored. A FAR_RELEASE that is in
progress goes on instead of beginning another. PART_CONFIG writes class and options; PART_RESTART restarts a STOPPED partition; PH_SETUP
sets area and table; a pigeonhole defined is in FAR without granules, one forgotten is gone, a resident one answers its load at once; a
pinned or used one is not evicted; a load or copy back ends once every part has. (derived: R394, R396, R430, R448, R449, R450, R451, R455,
R456, R458, R459, R461) -/
def Obligations.Management : Prop :=
  (∀ e, MgmtOp e → ∀ (port : Fin 6) (s : State), s.mgmtNext port.val e.2 = none → (e.2 = 0x0600 → (s.boundTo port.val).bind s.releasing = none) → Gives (e.1 port) s (fun t => t = s)) ∧
  (∀ (s : State) (k : Work), (s.paramBlock k).2 = { s with fresh := (s.paramBlock k).2.fresh }) ∧
  (∀ e, BlockOp e → ∀ (port : Fin 6) (s u : State) (k : Work), s.mgmtNext port.val e.2 = some k → s.paramBlock k = (none, u) →
    (e.2 = 0x0600 → (s.boundTo port.val).bind s.releasing = none) →
    Gives (e.1 port) s (fun t => t = u.serve1 k.id 1)) ∧
  (∀ e, HoleOp e → ∀ (port : Fin 6) (s u : State) (k : Work) (b : Nat), s.mgmtNext port.val e.2 = some k → s.paramBlock k = (some b, u) →
    (64 ≤ b % 256 → Gives (e.1 port) s (fun t => t = u.serve1 k.id 1)) ∧
    (b % 256 < 64 → u.partState k.part ≠ 2 → Gives (e.1 port) s (fun t => t = u.serve1 k.id 2))) ∧
  (∀ port s u k b, s.mgmtNext port.val 0x0100 = some k → s.paramBlock k = (some b, u) → Gives (.partConfig port) s (fun t =>
    ∃ e : State, OnlyRegs u e [Reg.partClass k.part, Reg.partOptions k.part] ∧
      e.reg (Reg.partClass k.part) = BitVec.ofNat 32 (min (bitsOf b 0 16) 0x3FF) ∧ e.field (Reg.partOptions k.part) 0 3 = bitsOf b 16 3 ∧
      e.field (Reg.partOptions k.part) 8 8 = bitsOf b 24 8 ∧ t = (e.serve1 k.id 0).dispatch k.part)) ∧
  (∀ port s k, s.mgmtNext port.val 0x0101 = some k → Gives (.partRestart port) s (fun t =>
    t = if s.partState k.part = 4 then (s.serve1 k.id 0).beginRestart k.part else s.serve1 k.id 2)) ∧
  (∀ port s u k b, s.mgmtNext port.val 0x0102 = some k → s.paramBlock k = (some b, u) → Gives (.phSetup port) s (fun t =>
    let base := bitsOf b 0 16; let size := bitsOf b 16 16; let table := bitsOf b 64 64; let p := k.part
    if 189 * u.partN p < base + size ∨ table % 4096 ≠ 0 ∨ 189 * u.partN p * gib < table + 4096 ∨
        (gib * base < table + 4096 ∧ table < gib * (base + size)) then t = u.serve1 k.id 1
    else if (u.part p).pigeonholes ≠ [] then t = u.serve1 k.id 2
    else ∃ e : State, OnlyRegs u e [Reg.phArea p, Reg.phTableLo p, Reg.phTableHi p] ∧ e.field (Reg.phArea p) 0 16 = base ∧
      e.field (Reg.phArea p) 16 16 = size ∧ (e.reg (Reg.phTableLo p)).toNat + (e.reg (Reg.phTableHi p)).toNat * 2 ^ 32 = table ∧
      t = e.serve1 k.id 0)) ∧
  (∀ port s u k b0, b0 % 256 < 64 → u.partState k.part = 2 → s.paramBlock k = (some b0, u) → let b := b0 % 256; let p := k.part; let a := Reg.phState p b; let st := u.phIs p b
    (s.mgmtNext port.val 0x0103 = some k → Gives (.phDefine port) s (fun t => let d := u.readWord p (u.phTable p + 64 * b) 64
      if st ≠ 0 ∧ st ≠ 5 then t = u.serve1 k.id 2
      else if u.descriptorOk p d = false then t = u.serve1 k.id 1
      else ∃ e : State, e = { u with parts := e.parts, regs := e.regs } ∧ RegsBut u e [a] ∧ e.phGranule p b = 0x1FFF ∧ e.phInUse p b = 0 ∧
        e.phPinned p b = false ∧ e.bit a 4 = bitAt d (8 * 0x1C) ∧ (∃ x, Tab.get (e.part p).pigeonholes b = some x ∧
          x.size = BitVec.ofNat 64 (bitsOf d 64 64) ∧ x.farOffset = BitVec.ofNat 64 (bitsOf d 128 64) ∧ x.waiting = [] ∧ x.partsLeft = 0) ∧
        t = (((e.phTo p b 1).phWrite p b 0x20 8 (2 ^ 64 - 1)).serve1 k.id 0).dispatch p)) ∧
    (s.mgmtNext port.val 0x0104 = some k → Gives (.phForget port) s (fun t =>
      if st ≠ 1 ∧ st ≠ 5 then t = u.serve1 k.id 2
      else ∃ e : State, e.reg a = 0xFFF80000 ∧ b ∉ (e.part p).phWanted ∧
        ((∀ j ∈ e.works, j.part = p → j.type = 1 → j.phase = .queued → j.pigeonhole ≠ b) →
          ((Tab.get (u.part p).pigeonholes b).map (·.waiting)).getD [] = [] → t = e.serve1 k.id 0))) ∧
    (∀ pin : Bool, s.mgmtNext port.val (if pin = true then 0x0106 else 0x0105) = some k →
      Gives (if pin = true then .phPin port else .phLoad port) s (fun t =>
        if st = 3 then ∃ e : State, t = e.serve1 k.id 0 ∧ OnlyRegs u e [a] ∧ FieldOnly u e a 3 1 ∧ e.phPinned p b = (pin || u.phPinned p b)
        else if st = 1 ∨ st = 2 then ∃ e : State, e = { u with parts := e.parts } ∧ t = ((e.mgmtBegun k.id).phWant p b).phServe p ∧
          ∀ x, Tab.get (u.part p).pigeonholes b = some x →
            Tab.get (e.part p).pigeonholes b = some { x with waiting := x.waiting ++ [k.id], pinAfter := x.pinAfter || pin }
        else t = u.serve1 k.id 2)) ∧
    (s.mgmtNext port.val 0x0107 = some k → Gives (.phUnpin port) s (fun t =>
      if st = 0 then t = u.serve1 k.id 2
      else ∃ e : State, e = { u with regs := e.regs, parts := e.parts } ∧ RegsBut u e [a] ∧ FieldOnly u e a 3 1 ∧ e.phPinned p b = false ∧
        t = (e.serve1 k.id 0).phServe p)) ∧
    (s.mgmtNext port.val 0x0108 = some k → Gives (.phEvict port) s (fun t =>
      if st ≠ 3 then t = u.serve1 k.id 2
      else if u.phPinned p b = true ∨ u.phInUse p b ≠ 0 then t = u.serve1 k.id 3
      else if u.follows p = true then t = u.serve1 k.id 0 else t = ((u.phEvict p b).serve1 k.id 0).dispatch p))) ∧
  (∀ p h s, (Tab.get (s.part p.val).pigeonholes h.val = none →
      Gives (.phLoadDone p h) s (fun t => t = s) ∧ Gives (.phWritebackDone p h) s (fun t => t = s)) ∧
    (∀ x, Tab.get (s.part p.val).pigeonholes h.val = some x →
      Gives (.phLoadDone p h) s (fun t =>
        if s.phIs p.val h.val = 2 ∧ x.partsLeft = 0 ∧ x.todo = [] ∧ (x.warm = 0 ∨ x.warming = true) then
          (s.follows p.val = false → t = s.phResident p.val h.val (x.loadGen + 1)) ∧
          (s.follows p.val = true → t = if x.decided = true then s.phResident p.val h.val x.loadGen else s)
        else t = s) ∧
      Gives (.phWritebackDone p h) s (fun t =>
        if s.phIs p.val h.val = 4 ∧ x.partsLeft = 0 ∧ x.todo = [] ∧ (s.follows p.val = true → x.decided = true) then
          ∃ e : State, e = { s with parts := e.parts } ∧ Tab.get (e.part p.val).pigeonholes h.val = some { x with decided := false } ∧
            t = (e.phFree p.val h.val).dispatch p.val
        else t = s)))

/-- RATE_CONFIG sets mode, fret and lock, or answers why not; ENERGY_READ writes window and slice energies. FAR_RELEASE takes the region's
lines from the L1s die by die (the model's step, log entry 60), then releases the port, FAR_ATTACH takes it back; a far scrub shows phase 3
and cause 5 and ends with every far byte of the port zero. An on-panel scrub leaves nothing in the arrays of its dies but their counts of
corrected mismatches, one after an envelope goes on to HBM, whose scrub leaves zeros and the partition KEYED. An expander that fits comes up
with F of 255/256 of its raw capacity; a removed one leaves a port that is down and no far byte. (derived: R276, R327, R328, R484, R485,
R486, R487, R488, R578, R592, R616, R618) -/
def Obligations.FarTier : Prop :=
  (∀ port s u k b, s.mgmtNext port.val 0x0500 = some k → s.paramBlock k = (some b, u) → Gives (.rateConfig port) s (fun t =>
    let fixed := bitsOf b 0 8; let fret := bitsOf b 8 8; let lock := bitsOf b 16 8; let a := Reg.rateMode k.part
    if 1 < fixed ∨ 7 < fret ∨ 1 < lock then t = u.serve1 k.id 1
    else if u.bit a 31 = true then t = u.serve1 k.id 2
    else if fixed = 1 ∧ u.holdsFret (u.partDies k.part) fret = false then t = (u.setBit Reg.rateStatus 17).serve1 k.id 5
    else if fixed = 1 ∧ u.budget k.part < u.fretWatts k.part fret then t = u.serve1 k.id 4
    else ∃ e : State, OnlyRegs u e [a] ∧ e.field a 0 1 = fixed ∧ e.field a 1 3 = fret ∧ e.field a 31 1 = lock ∧ t = e.serve1 k.id 0)) ∧
  (∀ port s u k b, s.mgmtNext port.val 0x0501 = some k → s.paramBlock k = (some b, u) → Gives (.energyRead port) s (fun t =>
    if bitsOf b 0 64 % 64 ≠ 0 ∨ u.outFits k (bitsOf b 0 64) 264 = false then t = u.serve1 k.id 1
    else ∃ v, t = (u.putBytes k.part k.slice k.id (bitsOf b 0 64) v 264).serve1 k.id 0 ∧ (u.tb.window < 2 ^ 64 → bitsOf v 0 64 = u.tb.window ∧
      ∀ i, i < 64 → bitsOf v (64 + 32 * i) 32 = (u.reg (Reg.sliceEnergy (64 * k.part + i))).toNat))) ∧
  (∀ port s u k b0, s.paramBlock k = (some b0, u) → let b := b0 % 256; let j := u.partK0 k.part + b
    (s.mgmtNext port.val 0x0600 = some k → (s.boundTo port.val).bind s.releasing = none → Gives (.farRelease port) s (fun t =>
      if u.partN k.part ≤ b then t = u.serve1 k.id 1
      else if (u.mid j).farReleased = true then t = u.serve1 k.id 2
      else t = (u.setMid j { u.mid j with farReleasing := some (k.id, u.partDies k.part) }).mgmtBegun k.id)) ∧
    (s.mgmtNext port.val 0x0601 = some k → Gives (.farAttach port) s (fun t =>
      if u.partN k.part ≤ b then t = u.serve1 k.id 1
      else if u.bit (Reg.farState j) 0 = false then t = u.serve1 k.id 2
      else if u.field (Reg.farState j) 16 13 < u.farCap k.part b then t = u.serve1 k.id 4
      else ∃ e : State, SetsBit u { e with mids := u.mids } (Reg.farHp j) 3 false ∧
        e.mid j = { u.mid j with farReleased := false, farAttached := true } ∧ t = e.serve1 k.id 0)) ∧
    (s.mgmtNext port.val 0x0300 = some k → Gives (.farScrub port) s (fun t =>
      if u.partN k.part ≤ b then t = u.serve1 k.id 1
      else if u.farUp j = false then t = u.serve1 k.id 2
      else ∃ e : State, OnlyRegs u e [Reg.scrubSector j] ∧ e.field (Reg.scrubSector j) 0 2 = 3 ∧ e.field (Reg.scrubSector j) 4 3 = 5 ∧
        t = (e.modWork k.id (fun k => { k with pigeonhole := 64 + j })).mgmtBegun k.id))) ∧
  (∀ port s p j id dies, s.boundTo port.val = some p → s.releasing p = some (j, id, dies) → Gives (.farRelease port) s (fun t =>
    if s.mgdLost = true then t = s
    else (∀ d rest, dies = d :: rest →
        t = ((s.setMid j { s.mid j with farReleasing := some (id, rest) }).releaseDies p j [d]).progressAll) ∧
      (dies = [] → ∃ e : State, (e.mid j).farReleased = true ∧ (e.mid j).farReleasing = none ∧ (e.mid j).verified = [] ∧
        t = ((e.setBit (Reg.farHp j) 3).serve1 id 0).progressAll))) ∧
  (∀ (s : State) (p port ga : Nat), ∀ e ∈ ((s.releaseArrayLines p port ga).arr ga).l1, s.atPort p port e.2.line = false) ∧
  (∀ v s, Gives (.farStart v) s (fun t => t = { s with regs := t.regs } ∧
    RegsBut s t ([Reg.scrubStatus, Reg.scrubCtl] ++ (List.range 8).map Reg.scrubSector) ∧
    ∀ k, k < 8 → if v.getLsbD k = true ∧ s.partOfSector k = none ∧ s.bit (Reg.farState k) 0 = true then
        t.field (Reg.scrubSector k) 0 2 = 3 ∧ t.field (Reg.scrubSector k) 4 3 = 5 ∧ t.bit Reg.scrubCtl k = true
      else t.reg (Reg.scrubSector k) = s.reg (Reg.scrubSector k) ∧ t.bit Reg.scrubCtl k = s.bit Reg.scrubCtl k ∧
        (v.getLsbD k = true → t.bit Reg.scrubStatus 3 = true))) ∧
  (∀ k s, let a := Reg.scrubSector k.val
    (s.field a 0 2 ≠ 3 → Gives (.farScrubDone k) s (fun t => t = s)) ∧
    (s.field a 0 2 = 3 → Gives (.farScrubDone k) s (fun t => ∃ (e : State) (l : List Nat),
      t = l.foldl (fun x id => x.serve1 id (if s.bit (Reg.farState k.val) 0 = true then 0 else 2)) e ∧
      e.field a 0 2 = 0 ∧ e.bit Reg.scrubCtl k.val = false ∧ e.works = s.works ∧
      (∀ id, id ∈ l → ∃ j ∈ s.works, j.id = id ∧ j.phase = .running ∧ j.pigeonhole = 64 + k.val) ∧
      (s.bit (Reg.farState k.val) 0 = true → e.bit Reg.scrubStatus 2 = true ∧
        (∀ off, off < 2 ^ 42 → Mem.read e.far (farKey k.val off) = 0) ∧
        (Memory.wf s.far = true → ∀ x, x < farKey k.val 0 ∨ farKey (k.val + 1) 0 ≤ x → Mem.read e.far x = Mem.read s.far x)) ∧
      (s.bit (Reg.farState k.val) 0 = false → e.far = s.far)))) ∧
  (∀ k s, let a := Reg.scrubSector k.val
    (s.field a 0 2 ≠ 1 → Gives (.onpanelScrubDone k) s (fun t => t = s)) ∧
    (s.field a 0 2 = 1 → Gives (.onpanelScrubDone k) s (fun t => t.bit Reg.scrubStatus 0 = true ∧
      t.field a 0 2 = (if s.field a 4 3 = 2 then 2 else 0) ∧
      t.field a 16 16 = (if s.field a 4 3 = 2 then s.field a 16 16 else (s.field a 16 16 + 1) % 2 ^ 16) ∧
      (s.field a 4 3 ≠ 3 → ∀ ga, ga / 96 = k.val → t.arr ga = { Arr.reset with mismatches := (s.arr ga).mismatches }) ∧
      (∀ p, s.partOfSector k.val = some p → (t.keysOf p).scrubLeft = (s.keysOf p).scrubLeft.filter (fun j => j != k.val))))) ∧
  (∀ p s, Gives (.hbmScrubDone p) s (fun t => let lo := hbmKey (4 * s.partK0 p.val) 0; let hi := hbmKey (4 * (s.partK0 p.val + s.partN p.val)) 0
    if s.keyState p.val = 1 ∧ (s.keysOf p.val).hbmScrubDue = true ∧ (s.keysOf p.val).scrubLeft = [] then
      t.keyState p.val = 2 ∧ t.bit Reg.scrubStatus 1 = true ∧ (t.keysOf p.val) = { s.keysOf p.val with hbmScrubDue := false } ∧
        t = { s with regs := t.regs, keys := t.keys, hbm := t.hbm, hbmCode := t.hbmCode } ∧
        (∀ x, lo ≤ x → x < hi → Mem.read t.hbm x = 0) ∧ (Memory.wf s.hbm = true → ∀ x, x < lo ∨ hi ≤ x → Mem.read t.hbm x = Mem.read s.hbm x)
    else t = s)) ∧
  (∀ port dev s, let a := Reg.farHp port.val; let f := Reg.farState port.val
    Gives (.expanderInserted port dev) s (fun t =>
      if s.stepDone 2 = true ∧ s.bit f 0 = false ∧ s.deadUnits.contains (108 + port.val) = false then
        t = { s with regs := t.regs, shell := t.shell } ∧ RegsBut s t [a, f] ∧ t.bit a 0 = true ∧ t.bit a 1 = true ∧
        t.shell.farPerst.getLsbD port.val = true ∧
        (dev.supported = false ∨ dev.width = 0 → t.reg f = s.reg f) ∧
        (dev.supported = true → dev.width ≠ 0 → t.bit a 2 = true ∧ t.bit a 8 = true ∧ t.bit f 0 = true ∧ t.field f 1 2 = dev.width.toNat ∧
          t.bit f 3 = dev.fullRate ∧ t.field f 16 13 = min 4096 (dev.rawGiB * 255 / 256))
      else t = s)) ∧
  (∀ port s, let a := Reg.farHp port.val; let f := Reg.farState port.val
    Gives (.expanderRemoved port) s (fun t => if s.bit a 0 = false then t = s
      else t.reg f = 0 ∧ (t.mid port.val).farOwner = 0 ∧
        (∀ off, off < 2 ^ 42 → Mem.read t.far (farKey port.val off) = 0) ∧
        ((s.mid port.val).farReleasing = none → s.bit f 0 = false ∨ (s.mid port.val).farReleased = true → t.bit a 9 = true ∧ t.field a 0 4 = 0 ∧ RegsBut s t [a, f] ∧
          t.shell.farPerst.getLsbD port.val = false) ∧
        (∀ e, (s.mid port.val).farReleasing = some e → s.bit f 0 = false ∨ (s.mid port.val).farReleased = true → ∃ u : State,
          (u.mid port.val).farReleasing = none ∧ u.works = s.works ∧ t = ((u.serve1 e.1 1).setReg f 0).dropFar port.val)))

/-- Nothing answers where the mailbox cannot be reached. GET_VERSION starts the connection afresh; capabilities, algorithms, and what needs
them come in order, else ERROR 0x04. GET_DIGESTS answers slot 0 and 48 bytes; another slot is an error; GET_MEASUREMENTS counts 6 blocks for
a bound port, else 5, a signed answer carries the nonce and 96 bytes. KEY_EXCHANGE opens the first free of two sessions; FINISH ends the
handshake or drops the session; a request inside a session that is not ready is ERROR 0x02; a stream starts only with keys programmed.
(derived: R375, R462, R468, R469, R470, R472, R482, R524) -/
def Obligations.Spdm : Prop :=
  (∀ port s slot off len nonce index signed sess ok who env unwrap stream op, s.doeUp port.val = false →
    ∀ c, c ∈ [Instr.getVersion port, .getCapabilities port, .negotiateAlgorithms port, .getDigests port, .getCertificate port slot off len,
      .challenge port slot nonce, .getMeasurements port index signed nonce, .keyExchange port, .finish port sess ok who, .heartbeat port sess,
      .keyUpdate port sess, .endSession port sess, .envelope port sess env ok unwrap, .ideKm port sess stream op] → Gives c s (fun t => t = s)) ∧
  (∀ port s slot off len nonce index signed sess ok who, s.doeUp port.val = true → (s.spdmOf port.val).algsDone = false →
    ∀ c, c ∈ [Instr.getDigests port, .getCertificate port slot off len, .challenge port slot nonce, .getMeasurements port index signed nonce,
      .keyExchange port, .finish port sess ok who] → Gives c s (fun t => t = s.answer 0x104 [])) ∧
  (∀ port s env sess ok unwrap stream op, s.doeUp port.val = true →
    (s.session port.val sess.val).openNow = false ∨ (s.session port.val sess.val).finished = false →
    ∀ c, c ∈ [Instr.heartbeat port sess, .keyUpdate port sess, .endSession port sess, .envelope port sess env ok unwrap, .ideKm port sess stream op] →
      Gives c s (fun t => t = s.answer 0x102 [])) ∧
  (∀ port s, s.doeUp port.val = true → let x := s.spdmOf port.val
    Gives (.getVersion port) s (fun t => t = { s with spdm := t.spdm, response := t.response } ∧ t.response = { status := 0, data := [0x13] } ∧
      t.spdmOf port.val = { x with versionDone := true, capsDone := false, algsDone := false }) ∧
    Gives (.getCapabilities port) s (fun t => if x.versionDone = false then t = s.answer 0x104 []
      else t = { s with spdm := t.spdm, response := t.response } ∧ t.spdmOf port.val = { x with capsDone := true } ∧ t.response.status = 0 ∧
        t.response.data = List.replicate 11 1 ++ List.replicate 7 0) ∧
    Gives (.negotiateAlgorithms port) s (fun t => if x.capsDone = false then t = s.answer 0x104 []
      else t = { s with spdm := t.spdm, response := t.response } ∧ t.spdmOf port.val = { x with algsDone := true } ∧ t.response.status = 0)) ∧
  (∀ port s, s.doeUp port.val = true → (s.spdmOf port.val).algsDone = true →
    Gives (.getDigests port) s (fun t => t = { s with fresh := t.fresh, response := t.response } ∧ t.response.status = 0 ∧
      t.response.data.length = 49 ∧ t.response.data.head? = some 1) ∧
    (∀ slot off len, Gives (.getCertificate port slot off len) s (fun t => if slot.val ≠ 0 then t = s.answer 0x101 []
      else t = { s with response := t.response } ∧ t.response.status = 0 ∧ t.response.data.length = 2 + len.toNat ∧
        t.response.data.take 2 = byteList off.toNat 2)) ∧
    (∀ slot nonce, Gives (.challenge port slot nonce) s (fun t => if slot.val ≠ 0 then t = s.answer 0x101 []
      else t = { s with fresh := t.fresh, response := t.response } ∧ t.response.status = 0 ∧ t.response.data.length = 128 ∧
        t.response.data.take 32 = byteList nonce.toNat 32)) ∧
    (∀ index signed nonce, Gives (.getMeasurements port index signed nonce) s (fun t =>
      if index ≠ 0 ∧ index ≠ 0xFF ∧ (∀ e ∈ s.measurements port.val, e.1 ≠ index.toNat) then t = s.answer 0x101 []
      else t = { s with fresh := t.fresh, response := t.response } ∧ t.response.status = 0 ∧ ∃ body, body =
          (if index = 0 then [(s.measurements port.val).length]
          else if index = 0xFF then (s.measurements port.val).flatMap (fun e => e.1 :: e.2)
          else ((s.measurements port.val).filter (fun e => e.1 == index.toNat)).flatMap (fun e => e.1 :: e.2)) ∧
        if signed = true then t.response.data.length = body.length + 128 ∧ t.response.data.take (body.length + 32) = body ++ byteList nonce.toNat 32
        else t.response.data = body)) ∧
    Gives (.keyExchange port) s (fun t => let i := if (s.session port.val 0).openNow = false then 0 else 1
      if (s.session port.val 0).openNow = true ∧ (s.session port.val 1).openNow = true then t = s.answer 0x10A []
      else t = { s with spdm := t.spdm, response := t.response } ∧ t.response = { status := 0, data := [i] } ∧
        t.session port.val i = { Session.reset with openNow := true } ∧ ∀ j, j ≠ i → t.session port.val j = s.session port.val j) ∧
    (∀ sess ok who, let x := s.session port.val sess.val
      Gives (.finish port sess ok who) s (fun t => if x.openNow = false ∨ x.finished = true then t = s.answer 0x104 []
        else t = { s with spdm := t.spdm, response := t.response } ∧ t.response.data = [] ∧
          if ok = true then t.response.status = 0 ∧ t.session port.val sess.val = { x with finished := true, requester := who }
          else t.response.status = 0x106 ∧ t.session port.val sess.val = Session.reset))) ∧
  (∀ (s : State) (port : Nat), ((s.measurements port).map (·.1)) = [0x01, 0x02, 0x03, 0x10, 0x11] ++ (if (s.boundTo port).isSome = true then [0x12] else []) ∧
    ((s.measurements port).map (·.2.length)) = [48, 48, 48, 72, 24] ++ (if (s.boundTo port).isSome = true then [256] else [])) ∧
  (∀ port sess s, s.doeUp port.val = true → let x := s.session port.val sess.val; x.openNow = true → x.finished = true →
    Gives (.heartbeat port sess) s (fun t => t = s.answer 0 []) ∧
    Gives (.keyUpdate port sess) s (fun t => t = { s with spdm := t.spdm, response := t.response } ∧ t.response = { status := 0, data := [] } ∧
      t.session port.val sess.val = { x with keyGen := x.keyGen + 1 }) ∧
    Gives (.endSession port sess) s (fun t => t = { s with spdm := t.spdm, response := t.response } ∧ t.response = { status := 0, data := [] } ∧
      t.session port.val sess.val = Session.reset) ∧
    ∀ stream op, Gives (.ideKm port sess stream op) s (fun t => t = { s with ports := t.ports, response := t.response } ∧
      t.response = { status := 0, data := [] } ∧ ∃ y, Tab.get (t.port port.val).ide stream.val = some y ∧
        let old := (Tab.get (s.port port.val).ide stream.val).getD { programmed := false, active := false, underTenant := false }
        (op = .stop → y = { old with active := false }) ∧ (op = .start → y = { old with active := old.programmed }) ∧
        (op = .program → y.programmed = true ∧ y.active = old.active ∧ (y.underTenant = true ↔
          ∃ p, s.boundTo port.val = some p ∧ s.keyState p ≠ 0 ∧ x.requester = (s.keysOf p).tenantKeyHash))))

/-- An envelope is accepted only when every check passes, else its status is recorded and nothing else changes; an accepted one on an
unpaired partition without grant or pigeonholes puts it in SCRUBBING with the job's keys. A grant opens only on a partition that is KEYED,
for this panel and job, newer and signed; a revocation or expiry closes it. Firmware bytes are staged, an image closed only complete and
verified; SEC_MIN rises to the running version, at most 64; a restart of the Postmaster counts FW_EPOCH and ends every session; the watchdog
restarts it after 100 ms. (derived: R464, R466, R467, R472, R473, R474, R476, R494, R495, R528, R529, R666) -/
def Obligations.Trust : Prop :=
  (∀ (s : State) (port sess p : Nat) (e : Envelope) (sig unwrap : Bool), let st := s.envelopeStatus port sess p e sig unwrap
    st ≤ 8 ∧ (st = 0 ↔ e.magic = 0x4C45564E ∧ e.version = 1 ∧ e.flags.toNat < 4 ∧ e.reserved = 0 ∧ sig = true ∧ e.panel = s.trust.identity ∧
      e.nonce = (s.keysOf p).nonce ∧ e.firstSector.toNat = s.partK0 p ∧ e.count.toNat = s.partN p ∧ e.port.toNat = s.partPort p ∧
      (s.keyState p = 0 ∨ (s.session port sess).requester = (s.keysOf p).tenantKeyHash) ∧ s.workOutstanding p = false ∧ unwrap = true)) ∧
  (∀ port sess s e sig unwrap, s.doeUp port.val = true → (s.session port.val sess.val).openNow = true → (s.session port.val sess.val).finished = true →
    (s.boundTo port.val = none → Gives (.envelope port sess e sig unwrap) s (fun t => t = s.answer 0x101 [])) ∧
    (∀ p, s.boundTo port.val = some p → p < 6 → let st := s.envelopeStatus port.val sess.val p e sig unwrap
      Gives (.envelope port sess e sig unwrap) s (fun t => t.response = { status := st, data := [] } ∧ t.field (Reg.keyState p) 8 8 = st ∧
        (st ≠ 0 → OnlyRegs s { t with response := s.response } [Reg.secStatus, Reg.keyState p] ∧ t.bit Reg.secStatus 1 = true ∧
          FieldOnly s t (Reg.keyState p) 8 8) ∧
        (st = 0 → t.bit Reg.secStatus 0 = true ∧ (s.bit (Reg.keyState p) 16 = false → s.pairState p = 0 → (s.part p).pigeonholes = [] →
          t.keyState p = 1 ∧ t.field (Reg.keyState p) 2 2 = e.flags.toNat ∧ (t.keysOf p).jobId = e.jobId ∧ (t.keysOf p).jobSecret = e.jobSecret ∧
          (t.keysOf p).storageSecret = e.storageSecret ∧ (t.keysOf p).tenantKeyHash = e.tenantKeyHash ∧ (t.keysOf p).loaded = true ∧
          (t.keysOf p).grantId = 0 ∧ (t.keysOf p).hbmScrubDue = true ∧ (t.part p).takeSeq = 0))))) ∧
  (∀ p g sig s, let a := Reg.keyState p.val; let k := s.keysOf p.val; let st := s.grantStatus p.val g sig
    Gives (.debugGrant p g sig) s (fun t => t.response = { status := st, data := [] } ∧ t.field a 8 8 = st ∧
      (st = 0x10 ∨ st = 0x11 ↔ s.trust.debugBlown = false ∧ s.keyState p.val = 2 ∧ g.panel = s.trust.identity ∧ g.jobId = k.jobId ∧
        k.grantId.toNat < g.grantId.toNat ∧ s.tb.master.toNat < g.notAfter.toNat ∧ sig = true) ∧
      (st = 0x10 → g.rights ≠ 0 ∧ t.bit a 16 = true ∧ t.field a 17 4 = g.rights.toNat % 16 ∧ t.bit Reg.secStatus 2 = true ∧
        t.keysOf p.val = { k with grantId := g.grantId, notAfter := g.notAfter, debugger := g.debugger }) ∧
      (st = 0x11 → g.rights = 0 ∧ t.bit a 16 = false ∧ t.keysOf p.val = { k with grantId := g.grantId }) ∧
      (st ≠ 0x10 → st ≠ 0x11 → OnlyRegs s { t with response := s.response } [a] ∧ FieldOnly s t a 8 8))) ∧
  (∀ p s, Gives (.grantEnded p) s (fun t => if (s.keysOf p.val).notAfter.toNat ≤ s.tb.master.toNat then
      t = s.endGrant p.val ∧ t.bit (Reg.keyState p.val) 16 = false ∧ (s.bit (Reg.keyState p.val) 16 = true → t.field (Reg.keyState p.val) 17 4 = 0)
    else t = s)) ∧
  (∀ off data length image s, s.postmasterUp = false →
    ∀ c, c ∈ [Instr.fwData off data, .fwEnd length image, .pmRestart, .secCommit] → Gives c s (fun t => t = s)) ∧
  (∀ s, s.postmasterUp = true →
    (∀ off data, Gives (.fwData off data) s (fun t => if 1024 < data.length then t = s.answer 3 []
      else t.response = { status := 0, data := [] } ∧ t = { s with trust := t.trust, response := t.response } ∧
        t.trust = { s.trust with staged := t.trust.staged } ∧ (∀ i (h : i < data.length), Tab.get t.trust.staged (off.toNat + i) = some data[i]) ∧
        ∀ x, x < off.toNat ∨ off.toNat + data.length ≤ x → Tab.get t.trust.staged x = Tab.get s.trust.staged x)) ∧
    (∀ length image, Gives (.fwEnd length image) s (fun t =>
      if (s.trust.staged.filter (fun e => decide (e.1 < length.toNat))).length ≠ length.toNat then t = s.answer 3 []
      else if image.sigOk = true ∧ s.trust.secMin ≤ image.secVersion.toNat then
        t = { s with trust := { s.trust with staged := [], stagedImage := some image }, response := { status := 0, data := [] } }
      else t.response = { status := 4, data := [] } ∧ t.trust = { s.trust with staged := [], stagedImage := none } ∧ t.bit Reg.secStatus 5 = true ∧
        RegsBut s t [Reg.secStatus])) ∧
    Gives .pmRestart s (fun t => t = (s.pmRestart s.trust.stagedImage).answer 0 []) ∧
    Gives .secCommit s (fun t => let v := s.field Reg.panelBuild 16 16
      if v ≤ s.trust.secMin then t = s.answer 1 []
      else t = { s with trust := { s.trust with secMin := min v 64 }, response := { status := 0, data := [] } })) ∧
  (∀ image s, Gives (.postmasterRestart image) s (fun t => t = s.pmRestart (some image))) ∧
  (∀ (s : State) (i : Option Image), (∀ k ∈ s.works, k.type = 5 → k.phase ≠ .atPostmaster ∧ k.phase ≠ .running) →
    if ∃ x, i = some x ∧ (x.sigOk = false ∨ x.secVersion.toNat < s.trust.secMin) then SetsBit s (s.pmRestart i) Reg.secStatus 5 true
    else ∃ e : State, s.pmRestart i = e.progressHeld ∧ e.reg Reg.fwEpoch = s.reg Reg.fwEpoch + 1 ∧ e.bit Reg.secStatus 6 = true ∧
      (∀ port sess, e.session port sess = Session.reset) ∧ e.faults.kickedAt = s.tb.master ∧ e.works = s.works ∧
      (∀ x, i = some x → e.field Reg.panelBuild 16 16 = x.secVersion.toNat ∧ e.trust.mBoot = x.mBoot ∧ e.trust.mRuntime = x.mRuntime ∧
        e.trust.mUcode = x.mUcode)) ∧
  (∀ image s, Gives (.watchdog image) s (fun t => if (s.tb.master - s.faults.kickedAt).toNat < 100000000 then t = s
    else ∃ e : State, t = e.pmRestart (some image) ∧ e.bit Reg.fltStatus 4 = true ∧ e.faults.kickedAt = s.tb.master ∧ e.works = s.works ∧
      ∃ r, e.faults.undelivered = s.faults.undelivered ++ [r] ∧ r.code = 0x0803))

/-- The window keeps its address once start is under way and a read returns the register there, 0 outside the blocks it reaches, and moves
on by 4; the Postmaster answers operator requests while it runs: a misaligned one is malformed, a read returns the register's 4 bytes, a
write outside the table is DENIED. A lost edge die, or its lost reference, is recorded once with its courses lost and EDGE_DIE_LOST raised;
the management die's loss stops the timebase, paces every die locally and raises MGD_LOST. (derived: R372, R522, R523, R524, R662, R663,
R664, R665, R666) -/
def Obligations.OperatorAndLosses : Prop :=
  (∀ a s, Gives (.mgmtWindowAddress a) s (fun t => t = if s.shell.starting = true then { s with mgmtAddr := a } else s)) ∧
  (∀ s, Gives .mgmtWindowRead s (fun t => if s.shell.starting = false then t = s
    else t.mgmtAddr = s.mgmtAddr + 4 ∧ ((placeOf s.mgmtAddr.toNat).any (fun pl => windowReaches pl.kind) = true →
        t.readData = (s.readReg s.mgmtAddr.toNat).1) ∧
      ((placeOf s.mgmtAddr.toNat).any (fun pl => windowReaches pl.kind) = false → t = { s with readData := 0, mgmtAddr := s.mgmtAddr + 4 }))) ∧
  (∀ a v s, s.postmasterUp = false → Gives (.operatorRead a) s (fun t => t = s) ∧ Gives (.operatorWrite a v) s (fun t => t = s)) ∧
  (∀ a v s, s.postmasterUp = true → a.toNat % 4 ≠ 0 →
    Gives (.operatorRead a) s (fun t => t = s.answer 3 []) ∧ Gives (.operatorWrite a v) s (fun t => t = s.answer 3 [])) ∧
  (∀ a s, s.postmasterUp = true → a.toNat % 4 = 0 → Gives (.operatorRead a) s (fun t => t.readData = (s.postmasterRead a.toNat).1 ∧
    t.response.status = 0 ∧ t.response.data.length = 4 ∧
    t.response.data = [t.readData.toNat % 256, t.readData.toNat / 2 ^ 8 % 256, t.readData.toNat / 2 ^ 16 % 256, t.readData.toNat / 2 ^ 24])) ∧
  (∀ a v s, s.postmasterUp = true → a.toNat % 4 = 0 → Gives (.operatorWrite a v) s (fun t => match placeOf a.toNat with
    | none => t = s.answer 1 []
    | some pl => t = if s.operatorMay pl = true then (s.placeWrite pl a.toNat v).answer 0 [] else s.answer 1 [])) ∧
  (∀ (s : State) (pl : Place), s.operatorMay pl = true → pl.kind = .partition ∨ pl.kind = .power ∨ pl.kind = .scrub ∨ pl.kind = .rate) ∧
  (∀ target a s, Gives (.setdasa target a) s (fun t => t = { s with shell := t.shell } ∧ t.shell = { s.shell with dynAddr := t.shell.dynAddr } ∧
    Tab.get t.shell.dynAddr target.val = some a.toNat ∧ ∀ k, k ≠ target.val → Tab.get t.shell.dynAddr k = Tab.get s.shell.dynAddr k)) ∧
  (∀ unit s c, c = .edgeDieLost unit ∨ c = .refclkLoss unit →
    (s.deadUnits.contains (108 + unit.val) = true → Gives c s (fun t => t = s)) ∧
    (s.deadUnits.contains (108 + unit.val) = false → unit.val < 8 → Gives c s (fun t =>
      t = { s with regs := t.regs, parts := t.parts, faults := t.faults, deadUnits := s.deadUnits ++ [108 + unit.val] } ∧
      (∃ r, t.faults.undelivered = s.faults.undelivered ++ [r] ∧ r.code = 0x0702 ∧ r.cls = 3 ∧ r.unit = unitDest (108 + unit.val) ∧
        r.part = s.partOfSector unit.val) ∧
      ∀ site ∈ attachments (108 + unit.val), t.field (Reg.courseState site (edgeCourse (108 + unit.val))) 8 3 = 5 ∧
        t.bit (Reg.courseStatus site) 3 = true)) ∧
    (s.deadUnits.contains (108 + unit.val) = false → 8 ≤ unit.val → (∀ i, i < 3 → s.boundTo (i + 3 * (unit.val - 8)) = none ∧
        (s.port (i + 3 * (unit.val - 8))).linkUp = false) → Gives c s (fun t => ∃ e : State, t = e.pairLinkDown (unit.val - 8) ∧
      e = { s with regs := e.regs, parts := e.parts, faults := e.faults, deadUnits := s.deadUnits ++ [108 + unit.val] } ∧
      ∃ r, e.faults.undelivered = s.faults.undelivered ++ [r] ∧ r.code = 0x0702 ∧ r.unit = unitDest (108 + unit.val)))) ∧
  (∀ s, (s.mgdLost = true → Gives .mgdLost s (fun t => t = s)) ∧
    (s.mgdLost = false → Gives .mgdLost s (fun t =>
      t = { s with regs := t.regs, parts := t.parts, faults := t.faults, tb := t.tb, power := t.power, deadUnits := s.deadUnits ++ [118] } ∧
      t.tb = { s.tb with running := false } ∧ (∀ d, d < 96 → Tab.get t.power.pace d = some (52 + (Config.localPace d).val)) ∧
      t.bit Reg.fltStatus 0 = true ∧ ∃ r, t.faults.undelivered = s.faults.undelivered ++ [r] ∧ r.code = 0x0804 ∧ r.cls = 4)))

/-- A message whose SEQ does not exceed every one before is discarded; another is counted, heard, and acts. A joining follower writes a line
at its home; a follower takes a forwarded entry, with its count, and acknowledges it; a leader marks the acknowledged entries, keeps
outcomes and chunk hashes; a follower covers a receipt, follows decisions and takes over on FAILOVER, else REFUSE is sent; ACCEPT drops a
fenced panel's receipts, REFUSE lets it write them; WITHDRAW leaves a leader ALONE and a follower DETACHED. Going ALONE without digests
clears what the pair had. (derived: R535, R536, R540, R541, R542, R544, R545, R548, R549, R552, R555, R556) -/
def Obligations.PairMessages : Prop :=
  (∀ (p : Fin 6) (seq : W64) (s : State) addr data m entry n es out fault h st gr use gen ix ch hash det why, seq.toNat ≤ (s.pair p.val).rxHighest.toNat →
    ∀ c, c ∈ [Instr.pairLine p seq addr data, .pairEntry p seq m entry n, .entryAck p seq n, .pairDone p seq m es out fault, .receipted p seq m n,
      .phDecision p seq h st gr use gen, .digest p seq ix ch hash, .digestResult p seq ix det, .failover p seq fault, .pairAccept p seq,
      .pairRefuse p seq, .withdraw p seq why] → Gives c s (fun t => t = s)) ∧
  (∀ p (msg : JoinMsg) s, msg.seq.toNat ≤ (s.pair 255).rxHighest.toNat → Gives (.pairJoinMsg p msg) s (fun t => t = s)) ∧
  (∀ (s : State) (p : Nat) (seq : W64), (heardMsg s p seq) = { s with pairs := (heardMsg s p seq).pairs } ∧
    ((heardMsg s p seq).pair p).rxHighest = seq ∧ ((heardMsg s p seq).pair p).tagFailed = false ∧
    ((heardMsg s p seq).pair 255).heardAt = s.tb.master ∧ ∀ q, q ≠ p → q ≠ 255 → (heardMsg s p seq).pair q = s.pair q) ∧
  (∀ (p : Fin 6) (seq : W64) (s : State), (s.pair p.val).rxHighest.toNat < seq.toNat → let u := heardMsg s p.val seq; let x := u.pair p.val
    (∀ addr data, Gives (.pairLine p seq addr data) s (fun t =>
      let mine := u.pairState p.val = 1 ∧ x.asFollower = true ∧ addr.toNat % 128 = 0
      t = match u.region p.val addr.toNat with
        | .hbm => if mine then u.updateLine p.val (addr.toNat / 128) data fullMask else u
        | .far _ => if mine ∧ x.withFar = true then u.updateLine p.val (addr.toNat / 128) data fullMask else u
        | _ => u)) ∧
    (∀ m entry n, Gives (.pairEntry p seq m entry n) s (fun t => if u.follows p.val = false then t = u
      else ∃ e : State, t = e.pairSend p.val 2 [n.toNat] ∧ (e.pair p.val).forwarded = n ∧ e.ids = s.ids + 1 ∧
        ∃ k, e.works.getLast? = some k ∧ k.entry = entry ∧ k.fwd = n.toNat ∧ k.part = p.val ∧ k.mailbag = m.val)) ∧
    (∀ n, Gives (.entryAck p seq n) s (fun t => if u.pairState p.val ≠ 2 then t = u
      else t = { u with works := t.works } ∧ t.works.length = u.works.length ∧ ∀ (i : Nat) (k : Work), u.works[i]? = some k → t.works[i]? =
        some (if k.part = p.val ∧ k.fwd ≠ 0 ∧ k.fwd ≤ n.toNat then { k with acked := true } else k))) ∧
    (∀ m es out fault, Gives (.pairDone p seq m es out fault) s (fun t => if u.pairState p.val ≠ 2 then t = u
      else t = { u with pairs := t.pairs } ∧ (t.pair p.val).partnerDone =
        x.partnerDone ++ [{ mailbag := m.val, seq := es, outcome := out.toNat, fault := fault }])) ∧
    (∀ m n, Gives (.receipted p seq m n) s (fun t => if u.follows p.val = false then t = u
      else t = u.receiptCovered p.val m.val n)) ∧
    (∀ h st gr use gen, Gives (.phDecision p seq h st gr use gen) s (fun t => if u.follows p.val = false then t = u
      else t = u.phDecide p.val h.val st.toNat gr.toNat use gen)) ∧
    (∀ ix ch hash, Gives (.digest p seq ix ch hash) s (fun t => if u.pairState p.val ≠ 2 then t = u
      else ∃ e : State, e = { u with pairs := e.pairs } ∧ (e.pair p.val).theirChunks = x.theirChunks ++ [(ix.toNat, ch.toNat, hash)] ∧
        t = e.compareDigest p.val ix.toNat)) ∧
    (∀ ix det, Gives (.digestResult p seq ix det) s (fun t => if u.follows p.val = false then t = u
      else let e := u.digestDone p.val ix.toNat det.toNat
        t = if det.toNat % 256 = 8 then (e.setBit Reg.pairStatus 7).detach p.val 2 else e)) ∧
    (∀ fault, Gives (.failover p seq fault) s (fun t =>
      t = if u.follows p.val = true ∧ u.poisoned p.val = false then (u.pairSend p.val 10 []).takeover p.val else u.pairSend p.val 11 [])) ∧
    Gives (.pairAccept p seq) s (fun t => if u.pairState p.val ≠ 6 then t = u
      else t = { u with pairs := t.pairs, mailbags := t.mailbags } ∧ (t.pair p.val).accepted = true ∧ (t.pair p.val).mayWrite = false ∧
        ∀ m, m < 4096 → (t.mailbag (u.partPort p.val) m).receipts = [] ∧ (t.mailbag (u.partPort p.val) m).tailDue = false) ∧
    Gives (.pairRefuse p seq) s (fun t =>
      if u.pairState p.val = 6 ∧ x.accepted = false then t = (u.setPair p.val { x with mayWrite := true }).flushHc p.val (fun _ => true)
      else if x.joinWork ≠ none then t = u.joinFails p.val 5 else t = u) ∧
    (∀ why, Gives (.withdraw p seq why) s (fun t => ∃ e : State, OnlyRegs u e [Reg.pairStatus] ∧ e.bit Reg.pairStatus 6 = true ∧
      (why = 2 → e.bit Reg.pairStatus 7 = true) ∧
      t = if u.pairState p.val = 2 then e.goAlone p.val else if u.pairState p.val = 3 then e.standDown p.val
        else if x.joinWork.isSome = true then e.joinFails p.val 5 else e))) ∧
  (∀ (p : Fin 6) (msg : JoinMsg) (s : State), (s.pair 255).rxHighest.toNat < msg.seq.toNat → Gives (.pairJoinMsg p msg) s (fun t => ∃ e : State,
    e = { s with pairs := e.pairs } ∧ e.pair p.val = { s.pair p.val with joinMsg := some msg } ∧ (e.pair 255).rxHighest = msg.seq ∧
    t = e.tryJoin p.val ∧ ((s.pair p.val).joinWork = none → t = e))) ∧
  (∀ (s : State) (p : Nat), (s.pair p).digestWork = [] → let t := s.goAlone p
    t = { s with regs := t.regs, pairs := t.pairs } ∧ t.pairState p = 4 ∧ FieldOnly s t (Reg.pairState p) 0 3 ∧ RegsBut s t [Reg.pairState p] ∧
      t.pair p = { s.pair p with digestWork := [], theirChunks := [], ownChunks := [], partnerDone := [] }) ∧
  (∀ (s : State) (p m : Nat) (n : W64), (s.pair p).ownDone = [] →
    s.receiptCovered p m n = s.setMailbag (s.partPort p) m { s.mailbag (s.partPort p) m with rcount := n })

/-- A link that runs shows state 5 and the partner; one that lost a lane shows RETRAINING until it runs again, its replayed flits counted,
or goes down; a second tag failure takes it down. A heartbeat is answered where nothing was sent since. PAIR_JOIN is answered 1, 2 or 6
where it may not go on; a join ends PAIRED for a leader whose entries are receipted, MIRRORING for a follower. A digest's chunks cut a range
at every GiB and cover it. The leader writes its lease word and is FENCED after 30 µs without an acknowledged one; a follower takes over
when links are silent and the lease stands, and leaves when it moves. (derived: R534, R535, R536, R537, R539, R540, R546, R547, R550, R551,
R552, R557) -/
def Obligations.PairLinks : Prop :=
  (∀ (l : Fin 2) partner s, Gives (.pairLinkUp l partner) s (fun t => if s.deadUnits.contains (116 + l.val) = true then t = s
    else t = { s with regs := t.regs, pairs := t.pairs } ∧ t.field (Reg.pairLink l.val) 0 3 = 5 ∧ t.bit Reg.pairStatus 1 = true ∧
      (t.pair 255).heardAt = s.tb.master ∧ ∀ i, i < 12 → (t.reg (Reg.pairPeer i)).toNat = bitsOf partner.toNat (32 * i) 32)) ∧
  (∀ (l : Fin 2) ev s, Gives (.pairLinkRetrain l ev) s (fun t => if s.bit (Reg.pairLink l.val) 0 = false then t = s
    else match ev with
    | .laneLost => SetsBit s t (Reg.pairLink l.val) 1 true
    | .trained n => t = (s.clearBit (Reg.pairLink l.val) 1).count (replayKey l.val) n.toNat
    | .failed => t = s.pairLinkDown l.val)) ∧
  (∀ (l : Fin 2) (s : State), (s.bit (Reg.pairLink l.val) 0 = false → s.pairLinkDown l.val = s) ∧
    (s.bit (Reg.pairLink l.val) 0 = true → ∃ e : State, OnlyRegs s e [Reg.pairLink l.val, Reg.pairStatus] ∧ e.field (Reg.pairLink l.val) 0 3 = 0 ∧
      e.bit Reg.pairStatus 0 = true ∧
      ((∀ p, p < 6 → e.primary p = none ∧ s.pairState p ≠ 2 ∧ (s.pair p).joinWork = none) → s.pairLinkDown l.val = e))) ∧
  (∀ (p : Fin 6) (l : Fin 2) s, Gives (.pairMessageTagFail p l) s (fun t => if (s.pair p.val).tagFailed = true then
      ∃ e : State, (e.pair p.val).tagFailed = false ∧ e.bit Reg.pairStatus 2 = true ∧ t = e.pairLinkDown l.val
    else t = s.setPair p.val { s.pair p.val with tagFailed := true })) ∧
  (∀ (l : Fin 2) time s, Gives (.pairHeartbeat l time) s (fun t => if s.bit (Reg.pairLink l.val) 0 = false then t = s
    else t = { s with pairs := t.pairs, linkSent := t.linkSent, pairOut := t.pairOut } ∧ (t.pair 255).heardAt = s.tb.master ∧
      l.val ∉ t.linkSent ∧ (l.val ∈ s.linkSent → t.pairOut = s.pairOut) ∧
      (l.val ∉ s.linkSent → ∃ m, t.pairOut = s.pairOut ++ [m] ∧ m.link = l.val ∧ m.part = 255 ∧ m.type = 0xD ∧
        m.seq = (s.pair 255).txSeq + 1 ∧ m.fields = [s.tb.master.toNat]))) ∧
  (∀ port s u k b, s.mgmtNext port.val 0x0400 = some k → s.paramBlock k = (some b, u) → Gives (.pairJoin port) s (fun t =>
    let p := k.part; let st := u.pairState p
    if u.joinBlockOk k b = false then t = u.serve1 k.id 1
    else if u.partState p ≠ 2 ∨ u.keyState p ≠ 2 ∨ (u.pair p).joinWork.isSome = true ∨
        ¬(st = 0 ∨ (st = 4 ∧ bitAt b 0 = false) ∨ (st = 5 ∧ bitAt b 0 = true)) then t = u.serve1 k.id 2
    else if u.primary p = none then t = u.serve1 k.id 6
    else ∃ e : State, e = { u with pairs := e.pairs } ∧ (e.pair p).joinWork = some k.id ∧ (e.pair p).prevState = st ∧
      (e.pair p).asFollower = bitAt b 0 ∧ (e.pair p).withFar = bitAt b 8 ∧ (e.pair p).leaseOffset.toNat = bitsOf b 32 32 ∧
      t = ((e.sendJoin p).mgmtBegun k.id).tryJoin p)) ∧
  (∀ p sent s, (s.pairState p.val ≠ 1 → Gives (.joinCopyDone p sent) s (fun t => t = s)) ∧
    (s.pairState p.val = 1 → (s.pair p.val).asFollower = true → Gives (.joinCopyDone p sent) s (fun t =>
      t.pairState p.val = 3 ∧ t.bit Reg.pairStatus 3 = true ∧ (t.pair 255).heardAt = t.tb.master)) ∧
    (s.pairState p.val = 1 → (s.pair p.val).asFollower = false → Gives (.joinCopyDone p sent) s (fun t =>
      if ∃ k ∈ s.works, k.part = p.val ∧ some k.id ≠ (s.pair p.val).joinWork ∧ s.receipted k = false then t = s
      else let c := s.joinCopy p.val; (c.part p.val).pigeonholes = [] → ∃ e : State, e = { c with regs := e.regs, pairs := e.pairs } ∧
        e.pairState p.val = 2 ∧ e.bit Reg.pairStatus 3 = true ∧ (e.pair p.val).leaseCount = 0 ∧ (e.pair p.val).leaseAcked = c.tb.master ∧
        t = (e.joinServed p.val).heard))) ∧
  (∀ (s : State) (p : Nat), ((s.part p).takeSeq = 0 → s.joinCopy p = s) ∧ ∀ line, let d := (s.agentRead p line).1
    let r := s.agentRead p line
    (∀ x, s.closeFor p line = s → s.lineNow p line = (.live, x) → d = x ∧ r.2 = s) ∧
    (r.2.linkQualifies p 0 = true → r.2.linkQualifies p 1 = true → s.sendLine p line = r.2.pairSendOn p (line % 2) 6 [128 * line, d.toNat]) ∧
    (r.2.linkQualifies p 0 = false ∨ r.2.linkQualifies p 1 = false → s.sendLine p line = r.2.pairSend p 6 [128 * line, d.toNat])) ∧
  (∀ base len, ((rangeChunks base len).map (fun c => c.2 - c.1)).foldl (· + ·) 0 = len ∧
    ∀ c ∈ rangeChunks base len, c.1 < c.2 ∧ base ≤ c.1 ∧ c.2 ≤ base + len ∧ c.1 / gib = (c.2 - 1) / gib) ∧
  (∀ port s k, s.mgmtNext port.val 0x0401 = some k → let p := k.part; let st := s.pairState p
    (st < 2 ∨ 4 < st → Gives (.pairDigest port) s (fun t => t = s.serve1 k.id 2)) ∧
    (2 ≤ st → st ≤ 4 → (∃ j ∈ s.works, j.part = p ∧ j.id < k.id ∧ j.phase ≠ .finished) → Gives (.pairDigest port) s (fun t => t = s)) ∧
    (2 ≤ st → st ≤ 4 → (∀ j ∈ s.works, j.part = p → j.id < k.id → j.phase = .finished) → ∀ u,
      (s.paramBlock k = (none, u) → Gives (.pairDigest port) s (fun t => t = u.serve1 k.id 1)) ∧
      (∀ b v, s.paramBlock k = (some b, u) →
        (u.digestRanges k (bitsOf b 0 64) = (none, v) → Gives (.pairDigest port) s (fun t => t = v.serve1 k.id 1)) ∧
        (∀ l, u.digestRanges k (bitsOf b 0 64) = (some l, v) → Gives (.pairDigest port) s (fun t =>
          if v.digestOut k (bitsOf b 64 64) = false then t = v.serve1 k.id 1
          else ∃ (e : State) (ix : Nat) (nd : Bool), Tab.get (e.pair p).digestWork ix = some (k.id, nd) ∧ (e.pair p).nondet = false ∧
            (st = 4 → t = e.digestDone p ix (2 + (if nd = true then 256 else 0))) ∧
            (st = 2 → t = (e.mgmtBegun k.id).compareDigest p ix)))))) ∧
  (∀ port s k, s.mgmtNext port.val 0x0402 = some k → Gives (.pairLeave port) s (fun t => let p := k.part; let st := s.pairState p
    (st < 2 ∨ 6 < st → t = s.serve1 k.id 2) ∧ (st = 2 → t = ((s.serve1 k.id 0).sendWithdraw p 3).goAlone p) ∧
    (st = 3 → t = (s.serve1 k.id 0).detach p 3) ∧
    (st = 4 ∨ st = 5 → (s.pair p).joinWork.isSome = true → t = s.serve1 k.id 2) ∧
    (st = 4 → (s.pair p).joinWork = none → t = ((s.sendWithdraw p 3).setPairState p 0).serve1 k.id 0) ∧
    (st = 5 → (s.pair p).joinWork = none → t = (((s.sendWithdraw p 3).dropMirrored p).setPairState p 0).serve1 k.id 0) ∧
    (st = 6 → t = ((s.sendWithdraw p 3).setPairState p 0).serve1 k.id 0))) ∧
  (∀ port s k, s.mgmtNext port.val 0x0403 = some k → s.journalKib k.part ≤ 8192 ∧ Gives (.pairStatus port) s (fun t =>
    t = s.serve1 k.id (s.pairState k.part + (if s.bit (Reg.pairLink 0) 0 = true then 8 else 0) + (if s.bit (Reg.pairLink 1) 0 = true then 16 else 0) +
      s.journalKib k.part * 2 ^ 16))) ∧
  (∀ p s, let x := s.pair p.val; Gives (.leaseWrite p) s (fun t =>
    if s.pairState p.val ≠ 2 ∨ (s.port (s.partPort p.val)).linkUp = false ∨ s.mayAsk p.val = false then t = s
    else (t.pair p.val).leaseAcked = t.tb.master ∧ ∃ l w, t.hostOut = l ++ [w] ∧ w.port = s.partPort p.val ∧ w.pasid = 0 ∧
      w.mask = maskOf ((hcStart + x.leaseOffset.toNat) % 128) 8 ∧ w.data = putLineBytes 0 ((hcStart + x.leaseOffset.toNat) % 128) 8
        ((x.leaseCount + 1).toNat + s.trust.identity.toNat % 2 ^ 32 * 2 ^ 32))) ∧
  (∀ p s, let x := s.pair p.val; Gives (.leaseLost p) s (fun t =>
    if s.pairState p.val = 2 ∧ 30000 ≤ (s.tb.master - x.leaseAcked).toNat then
      t = { s with regs := t.regs, pairs := t.pairs } ∧ t.pairState p.val = 6 ∧ t.bit Reg.pairStatus 8 = true ∧
        t.pair p.val = { x with accepted := true, mayWrite := false }
    else t = s)) ∧
  (∀ p word s, let x := s.pair p.val; Gives (.leasePoll p word) s (fun t =>
    let u := s.setPair p.val { x with leaseSeen := word, leaseChanged := if word = x.leaseSeen then x.leaseChanged else s.tb.master }
    let silent := 20000 ≤ (s.tb.master - (s.pair 255).heardAt).toNat
    if s.follows p.val = false then t = s
    else if ¬silent then t = u
    else if word ≠ x.leaseSeen then t = u.detach p.val 0
    else if 60000 ≤ (s.tb.master - x.leaseChanged).toNat then t = u.takeover p.val else t = u)) ∧
  (∀ p word s, let x := s.pair p.val; Gives (.fencedTimeout p word) s (fun t =>
    if s.pairState p.val = 6 ∧ x.accepted = false ∧ 200000 ≤ (s.tb.master - x.fencedAt).toNat ∧
        word.toNat / 2 ^ 32 = s.trust.identity.toNat % 2 ^ 32 then
      t = (s.setPair p.val { x with mayWrite := true }).flushHc p.val (fun _ => true)
    else t = s))

/-- The governor moves a governed die's pace toward its share, never above 88 tokens, at most 4 up an interval, at its natural rate where
the budget holds it; under the alert paces stay and act as 52. The alert records its first source, is held after release, and ends at a
window boundary 1 ms later with governed dies at 52. Above 95 °C a die is limited until 92 °C, while a spare powered down gives no sample; a
trip takes every die to retention; a budget write is taken only where the sums and floors allow; a retuning publishes its reports; a supply
moves only without the alert, up freely and down only where the new one holds the die's pace, to the planned code or to what a fixed-rate
fret needs. (derived: R496, R589, R563, R564, R566, R571, R573, R575, R581, R582, R588, R590) -/
def Obligations.Power : Prop :=
  (∀ obs memory s, s.bit Reg.pwrStatus 0 = true ∨ s.bit Reg.pwrStatus 1 = true ∨ s.mgdLost = true →
    Gives (.governorInterval obs memory) s (fun t => t = s)) ∧
  (∀ obs memory s, s.bit Reg.pwrStatus 0 = false → s.bit Reg.pwrStatus 1 = false → s.mgdLost = false →
    Gives (.governorInterval obs memory) s (fun t => t = { s with power := { s.power with pace := t.power.pace } } ∧
      ((∀ p, p < 6 → s.partState p = 0 ∨ s.fixedRate p = true) → t = s) ∧
      ∀ d, (∀ o ∈ obs, o.die.val ≠ d) → Tab.get t.power.pace d = Tab.get s.power.pace d)) ∧
  (∀ (s : State) (obs : List DieObs) (memory p : Nat) (o : DieObs), (obs.map (·.die)).Nodup → o ∈ obs → o.die.val ∈ s.partDies p →
    let now := Tab.getD s.power.pace o.die.val 52; let new := Tab.getD (s.govern obs memory p).power.pace o.die.val 52
    let mine := obs.filter (fun o => (s.partDies p).contains o.die.val)
    new ≤ 88 ∧ new ≤ now + 4 ∧ (48 ≤ now → 52 ≤ new) ∧
      ((mine.map (s.demand p)).foldl (· + ·) 0 + ((mine.map (·.static)).foldl (· + ·) 0 + memory) ≤ 1000000 * s.budget p →
        new = min 88 (if max 52 o.natural < now then max 52 o.natural else min (max 52 o.natural) (now + 4)))) ∧
  (∀ (s : State) (d : Nat), s.bit Reg.pwrStatus 0 = true ∨ s.bit Reg.pwrStatus 1 = true → s.paceOf d = 52) ∧
  (∀ conv pad s, Gives (.pwrAlert conv pad) s (fun t => if s.bit Reg.pwrStatus 0 = true then t = s
    else t = { s with regs := t.regs, power := t.power, faults := t.faults } ∧ RegsBut s t [Reg.pwrStatus, Reg.rateStatus, Reg.pwrAlerts] ∧
      t.bit Reg.pwrStatus 0 = true ∧ t.bit Reg.pwrStatus 1 = false ∧ t.bit Reg.pwrStatus 8 = true ∧ t.bit Reg.rateStatus 8 = true ∧
      t.power = { s.power with alerts := s.power.alerts + 1 } ∧ (∃ r, t.faults.undelivered = s.faults.undelivered ++ [r] ∧ r.code = 0x0901) ∧
      let src := t.field Reg.pwrAlerts 16 8
      (conv = 0 → src = if pad = true then 0xFE else 0xFF) ∧
      (conv ≠ 0 → src < 14 ∧ conv.getLsbD src = true ∧ ∀ j, j < src → conv.getLsbD j = false))) ∧
  (∀ s, Gives .pwrAlertRelease s (fun t => if s.bit Reg.pwrStatus 0 = false then t = s
    else OnlyRegs s { t with power := s.power } [Reg.pwrStatus] ∧ t.bit Reg.pwrStatus 0 = false ∧ t.bit Reg.pwrStatus 1 = true ∧
      t.power = { s.power with alertReleased := s.tb.master })) ∧
  (∀ s, Gives .alertHoldEnd s (fun t =>
    if s.bit Reg.pwrStatus 1 = true ∧ s.power.alertReleased.toNat + 1000000 ≤ s.tb.master.toNat / 1000000 * 1000000 then
      t = { s with regs := t.regs, power := t.power } ∧ t.bit Reg.pwrStatus 1 = false ∧ t.bit Reg.rateStatus 8 = false ∧
      ∀ d v, Tab.get s.power.pace d = some v → Tab.get t.power.pace d = some (match s.partOfDie d with
        | some p => if s.fixedRate p = true then v else 52
        | none => v)
    else t = s)) ∧
  (∀ site temp s, let a := Reg.thDie site.val; Gives (.junctionSample site temp) s (fun t => if s.poweredDown site.val = true then t = s else
    t = { s with regs := t.regs, accum := t.accum, ahead := t.ahead, power := t.power, faults := t.faults } ∧ t.field a 0 8 = temp.toNat ∧
    Tab.getD t.power.siteMax site.val 0 = max temp.toNat (Tab.getD s.power.siteMax site.val 0) ∧
    t.bit a 16 = (if 190 < temp.toNat then true else if temp.toNat ≤ 184 then false else s.bit a 16) ∧
    (190 < temp.toNat → s.bit a 16 = false → t.bit Reg.thStatus 8 = true ∧ (s.bit Reg.thStatus 8 = false → t.field Reg.thFirst 0 7 = site.val) ∧
      ∃ r, t.faults.undelivered = s.faults.undelivered ++ [r] ∧ r.code = 0x0902) ∧
    (temp.toNat ≤ 190 ∨ s.bit a 16 = true → t.faults = s.faults ∧ t.accum = s.accum ∧ t.ahead = s.ahead ∧ RegsBut s t [a]))) ∧
  (∀ src s, Gives (.thermalTrip src) s (fun t => if s.bit Reg.thStatus 0 = true then t = s
    else t.bit Reg.thStatus 0 = true ∧ t.bit Reg.thStatus 9 = true ∧ t.power = { s.power with retention := List.range 108 } ∧
      t.bit Reg.fltStatus 0 = true ∧ ∃ r, t.faults.undelivered = s.faults.undelivered ++ [r] ∧ r.code = 0x0903 ∧ r.cls = 4)) ∧
  (∀ n s, Gives (.ibcFault n) s (fun t => OnlyRegs s t [Reg.ibcState n.val, Reg.pwrStatus] ∧ t.field (Reg.ibcState n.val) 0 2 = 2 ∧
    t.bit Reg.pwrStatus 10 = true)) ∧
  (∀ p v s, let w := v.toNat % 2 ^ 16; Gives (.partBudgetWrite p v) s (fun t =>
    if s.budgetSum p.val w + 1500 ≤ s.moduleBudget ∧ s.fretWatts p.val 0 ≤ w ∧
        (s.fixedRate p.val = true → s.partState p.val ≠ 0 → s.fretWatts p.val (s.fret p.val) ≤ w) then
      OnlyRegs s t [Reg.partBudget p.val] ∧ t.budget p.val = w
    else SetsBit s t Reg.pwrStatus 9 true)) ∧
  (∀ v s, Gives (.pwrModuleBudgetWrite v) s (fun t => let w := min (v.toNat % 2 ^ 16) 24000
    if s.budgetSum 6 0 + 1500 ≤ w then OnlyRegs s t [Reg.pwrModuleBudget] ∧ t.moduleBudget = w else SetsBit s t Reg.pwrStatus 9 true)) ∧
  (∀ s, Gives .retuneStart s (fun t =>
    if (s.bit Reg.retuneCtl 0 = true ∨ (s.stepDone 7 = true ∧ s.power.retuneDue.toNat ≤ s.tb.master.toNat)) ∧ s.bit Reg.retuneCtl 1 = false then
      SetsBit s { t with power := s.power } Reg.retuneCtl 1 true ∧ t.power = { s.power with retuneDue := t.power.retuneDue }
    else t = s)) ∧
  (∀ (s : State) (r : MarginRep), let t := s.report r; let a := Reg.margin r.die.val
    t.field a 0 8 = r.supply.toNat ∧ t.field a 8 3 = r.maxFret.toNat ∧ t.bit a 11 = r.aged ∧ t.field a 16 8 = r.shift.toNat ∧
    t.field a 24 8 = r.slack.toNat ∧ ∀ site, s.siteOf r.die.val = some site → t.field (Reg.snSupply site) 0 8 = r.supply.toNat ∧
      (r.aged = true → site ∈ t.faults.agedDies ∧ t.bit Reg.pwrStatus 12 = true)) ∧
  (∀ reports s, Gives (.retuneDone reports) s (fun t => if s.bit Reg.retuneCtl 1 = false then t = s
    else t.bit Reg.retuneCtl 0 = false ∧ t.bit Reg.retuneCtl 1 = false ∧ t.bit Reg.pwrStatus 11 = true ∧
      t.field Reg.retuneCtl 16 16 = (s.field Reg.retuneCtl 16 16 + 1) % 2 ^ 16)) ∧
  (∀ d s, Gives (.supplySlewDone d) s (fun t =>
    let code := s.supplyGoal d.val
    if s.bit Reg.pwrStatus 0 = true ∨ s.bit Reg.pwrStatus 1 = true ∨
        ((s.partOfDie d.val).isSome = true ∧ code < Tab.getD s.power.supply d.val 0 ∧ s.heldPace d.val code < s.paceOf d.val) then t = s
    else t = { s with regs := t.regs, power := t.power } ∧ Tab.get t.power.supply d.val = some code ∧
      (∀ site, s.siteOf d.val = some site → RegsBut s t [Reg.snSupply site] ∧ (code < 256 → t.field (Reg.snSupply site) 8 8 = code)) ∧
      (s.siteOf d.val = none → t.regs = s.regs))) ∧
  (∀ (s : State) (d : Nat), (s.partOfDie d = none → s.supplyGoal d = 0) ∧
    ∀ p, s.partOfDie d = some p → s.planned d ≤ s.supplyGoal d ∧ (s.fixedRate p = false → s.supplyGoal d = s.planned d) ∧
      (s.fixedRate p = true → ∀ c, 26 ≤ c → c ≤ 60 → fretPace (s.fret p) ≤ s.heldPace d c →
        (∀ c', 26 ≤ c' → c' < c → s.heldPace d c' < fretPace (s.fret p)) → s.supplyGoal d = max (s.planned d) c))

/-- A step of panel start can be done once the steps it follows are; then its bit stands and its time in milliseconds, else nothing happens.
Images that do not verify stop the start and let the host ports enumerate; good ones are measured. The edge dies' step powers the ports,
which come up unless held in reset; a failed test is counted; the census shows each site's state and fills a sector's lost positions, or
marks the sector incomplete where spares are short; stacks are trained or failed; the far step waits for every port or 45 s; the panel is
ready last. (derived: R26, R27, R31, R316, R521, R590, R595, R596, R598, R599, R601, R620) -/
def Obligations.StartSteps : Prop :=
  (∀ s, Gives .panelStart s (fun t => t = if s.shell.converters = true then { s with shell := { s.shell with starting := true } } else s)) ∧
  (∀ (s : State) image pass reports failed lanes, ∀ e, e ∈ [(Instr.startTrustDone image, 1, [0]), (.startEdgeDone, 2, [1]), (.startPostmasterDone, 3, [1]),
      (.siteTestDone pass, 4, [2]), (.census, 6, [3, 5]), (.startMarginDone reports, 7, [6]), (.hbmTrainingDone failed lanes, 9, [2]),
      (.startFarDone, 10, [2]), (.panelReady, 11, List.range 11)] →
    s.shell.starting = false ∨ s.stepDone e.2.1 = true ∨ (∃ j ∈ e.2.2, s.stepDone j = false) → Gives e.1 s (fun t => t = s)) ∧
  (∀ (s : State) (n : Nat), n < 12 → (s.doStep n).stepDone n = true ∧ (s.doStep n).reg (Reg.startTime n) = BitVec.ofNat 32 (s.tb.master.toNat / 1000000) ∧
    OnlyRegs s (s.doStep n) [Reg.startState, Reg.startTime n] ∧ FieldOnly s (s.doStep n) Reg.startState n 1) ∧
  (∀ image s, s.stepOpen 1 [0] = true → Gives (.startTrustDone image) s (fun t =>
    if s.bit Reg.startStatus 0 = true then t = s
    else if image.sigOk = true ∧ s.trust.secMin ≤ image.secVersion.toNat then t.stepDone 1 = true ∧ t.trust.mBoot = image.mBoot ∧
      t.trust.mRuntime = image.mRuntime ∧ t.trust.mUcode = image.mUcode ∧ t.field Reg.panelBuild 16 16 = image.secVersion.toNat ∧
      t.trust.keySet = (Config.random (s.fresh + 1)).truncate 17 ∧ t.fresh = s.fresh + 4
    else t.bit Reg.startStatus 0 = true ∧ t.stepDone 1 = s.stepDone 1 ∧ t.trust = s.trust ∧ ∀ port, port < 6 → (t.port port).live = true)) ∧
  (∀ s, s.stepOpen 2 [1] = true → Gives .startEdgeDone s (fun t => t.stepDone 2 = true ∧ t.field Reg.startState 16 6 = 0x3F ∧
    ∀ port, port < 6 → (t.port port).live = true ∧ ((s.port port).perst = true → t.port port = { s.port port with live := true }) ∧
      ((s.port port).perst = false → t.port port = { s.port port with live := true, linkUp := true, configReady := false, lost := false }))) ∧
  (∀ s, s.stepOpen 3 [1] = true → Gives .startPostmasterDone s (fun t => t.stepDone 3 = true ∧ t.faults = { s.faults with kickedAt := s.tb.master })) ∧
  (∀ pass s, s.stepOpen 4 [2] = true → Gives (.siteTestDone pass) s (fun t => t.stepDone 4 = true ∧
    t = { s with regs := t.regs, faults := { s.faults with failedTests := t.faults.failedTests } } ∧ (pass ≠ BitVec.allOnes 108 → t.bit Reg.startStatus 2 = true) ∧
    ∀ site, site < 108 → Tab.getD t.faults.failedTests site 0 = if pass.getLsbD site = true then 0 else Tab.getD s.faults.failedTests site 0 + 1)) ∧
  (∀ s, s.stepOpen 6 [3, 5] = true → Gives .census s (fun t => t.stepDone 6 = true ∧ t.bit Reg.censusState 0 = true ∧ t.faults.courseSites = [])) ∧
  (∀ (s : State) (site : Fin 108), let t := s.censusSite site.val; let n := Tab.getD s.faults.failedTests site.val 0
    t.siteState site.val = (if s.dieRetired site.val = true ∨ 2 ≤ n ∨ s.dieWorn site.val = true then 4
      else if n ≠ 0 ∨ site.val ∈ s.faults.agedDies ∨ site.val ∈ s.faults.courseSites then 3 else if site.val % 9 = 4 then 2 else 1) ∧
    ∀ other : Fin 108, other ≠ site → t.reg (Reg.siteState other.val) = s.reg (Reg.siteState other.val)) ∧
  (∀ (s : State) (k : Fin 8), if (s.spares (k.val / 2)).length < (s.lostIn k.val).length then SetsBit s (s.censusSector k.val) Reg.censusState (8 + k.val) true
    else (s.censusSector k.val).lostIn k.val = []) ∧
  (∀ reports s, s.stepOpen 7 [6] = true → Gives (.startMarginDone reports) s (fun t => t.stepDone 7 = true ∧
    t.field Reg.retuneCtl 16 16 = (s.field Reg.retuneCtl 16 16 + 1) % 2 ^ 16 ∧ t.tb = s.tb)) ∧
  (∀ failed lanes s, s.stepOpen 9 [2] = true → Gives (.hbmTrainingDone failed lanes) s (fun t =>
    t.stepDone 9 = true ∧ t = { s with regs := t.regs, mids := t.mids } ∧ (failed ≠ 0 → t.bit Reg.startStatus 3 = true) ∧
    let n := fun g c => ((lanes.filter (fun e => e.1.val == g && e.2.1.val == c)).map (fun e => e.2.2.val)).eraseDups.length
    ∀ g, g < 32 →
      if failed.getLsbD g || (List.range 32).any (fun c => decide (Config.hbmRedundantLanes < n g c)) then t.field (Reg.stackState (g / 4) (g % 4)) 0 2 = 2
      else t.field (Reg.stackState (g / 4) (g % 4)) 0 2 = 1 ∧ ∀ c, c < 32 →
        Tab.getD (t.mid (g / 4)).lanesUsed (laneKey g c 0) 0 =
          if n g c = 0 then Tab.getD (s.mid (g / 4)).lanesUsed (laneKey g c 0) 0 else n g c)) ∧
  (∀ s, s.stepOpen 10 [2] = true → let up := ∀ j, j < 8 → s.bit (Reg.farState j) 0 = true
    Gives .startFarDone s (fun t => (up → t = s.doStep 10) ∧ (¬up → s.tb.master.toNat < 45000000000 → t = s) ∧
      (¬up → 45000000000 ≤ s.tb.master.toNat → t.stepDone 10 = true ∧ t.bit Reg.startStatus 4 = true))) ∧
  (∀ s, s.stepOpen 11 (List.range 11) = true → Gives .panelReady s (fun t => t = { s with regs := t.regs } ∧ t.stepDone 11 = true ∧
    t.bit Reg.startState 12 = true ∧ ∀ port, port < 6 → t.bit (Reg.portState port) 0 = true))

/-- A pre-charge begins on an open module unless one began within 10 s, then it is held off until they are over; the main switch closes once
the module is charged and seated, and only then are the converters enabled. A panel reset, for its cause, leaves memory, the fuses, the log,
the record of failed tests and what the host was sent, and sets every register but RESET_CAUSE to its reset value and empties the arrays,
slices, entries and mailbags; removal and a bad input open the switch, stop the converters, and the former leaves the module unseated.
(derived: R512, R600, R603, R614, R615, R620, R650, R655, R656, R657, R658) -/
def Obligations.PowerUpAndResets : Prop :=
  (∀ s, Gives .prechargeBegin s (fun t => t = if s.shell.switchClosed = true then s
    else if s.shell.holdoff = true then { s with shell := { s.shell with precharging := false, precharged := false, heldOff := true } }
    else { s with shell := { s.shell with precharging := true, precharged := false, heldOff := false, holdoff := true } })) ∧
  (∀ s, Gives .prechargeHoldoffEnd s (fun t => t = if s.shell.heldOff = true then
      { s with shell := { s.shell with precharging := true, precharged := false, heldOff := false, holdoff := true } }
    else { s with shell := { s.shell with holdoff := false } })) ∧
  (∀ s, Gives .prechargeDone s (fun t => t = { s with shell := t.shell } ∧ (s.shell.precharging = false → t = s) ∧
    (s.shell.precharging = true →
      t.shell = { s.shell with precharging := false, precharged := true, switchClosed := s.shell.seated || s.shell.switchClosed }))) ∧
  (∀ s, Gives .moduleSeated s (fun t => t = { s with shell := { s.shell with seated := true, switchClosed := s.shell.precharged || s.shell.switchClosed } })) ∧
  (∀ s, Gives .converterEnable s (fun t => t = { s with shell := { s.shell with converters := s.shell.switchClosed || s.shell.converters } })) ∧
  (∀ (s : State) (cause : Nat) (x : Shell), let t := s.panelReset cause x
    t.pending = s.pending ∧ t.hbm = s.hbm ∧ t.far = s.far ∧ t.hostOut = s.hostOut ∧ t.shell = x ∧ t.trust.orderD = s.trust.orderD ∧
    t.trust.debugBlown = s.trust.debugBlown ∧ t.trust.secMin = s.trust.secMin ∧ t.trust.identity = s.trust.identity ∧
    t.trust.aliasKey = 0 ∧ t.faults.logged = s.faults.logged ∧ t.faults.failedTests = s.faults.failedTests ∧ t.faults.undelivered = [] ∧
    t.faults.retire = [] ∧ t.arrs = [] ∧ t.slices = [] ∧ t.works = [] ∧ t.mailbags = [] ∧ t.keys = [] ∧ t.pairs = [] ∧ t.tb = Timebase.reset ∧
    t.reg Reg.resetCause = BitVec.ofNat 32 cause ∧ (∀ a, a ≠ Reg.resetCause → t.reg a = regReset a) ∧
    (∀ port, t.port port = { Port.reset with perst := (s.port port).perst }) ∧ ∀ j, t.mid j = { Mid.reset with farOwner := (s.mid j).farOwner, farIndex := (s.mid j).farIndex }) ∧
  (∀ s, Gives .modReset s (fun t => t = s.panelReset 1 { s.shell with starting := false, farPerst := 0 })) ∧
  (∀ s, Gives .modPresentRemoved s (fun t => t = s.panelReset 4 t.shell ∧ t.shell.seated = false ∧ t.shell.switchClosed = false ∧
    t.shell.converters = false ∧ t.shell.starting = false ∧ t.shell.precharged = s.shell.precharged)) ∧
  (∀ high s, Gives (.inputOutOfRange high) s (fun t => t = s.panelReset (if high = true then 3 else 2) t.shell ∧ t.shell.seated = s.shell.seated ∧
    t.shell.switchClosed = false ∧ t.shell.converters = false ∧ t.shell.starting = false ∧ t.shell.precharged = false ∧
    t.shell.precharging = false))

/-- A panel of order C answers DEBUG_FUSED, a closed session CLOSED; a bad tag or old SEQ is dropped; a message without its right is
NO_RIGHT. A session opens with the grant's key over the nonce given last, with no hold and no breakpoint, and closes. HALT_GROUP holds the
group and is answered once it has completed what it issued, HALT_LAUNCH holds the launch; STEP of 0 or more than 256 is malformed, of a
group not held halted NOT_HALTED, and else lifts the hold for that many instructions: it ends with the group held again and 6 bytes, or
NOT_READY where 256 steps brought no first issue; RESUME releases a group of a block that is not halted; a breakpoint is set, or cleared by
0; EVENTS gives the oldest 32 records, 32 bytes each. (derived: R623, R624, R625, R626, R627, R628, R633, R634, R636, R637) -/
def Obligations.DebugControl : Prop :=
  (∀ (p : Fin 6) (seq : W64) (tag : Bool) (s : State) g m es n i a item off len tile data rows,
    ∀ e, e ∈ [(Instr.haltGroup p seq tag g, 0x10, some 0), (.haltLaunch p seq tag m es, 0x11, some 0), (.dbgStep p seq tag g n, 0x12, some 0), (.resume p seq tag g, 0x13, some 0),
      (.breakSet p seq tag i a, 0x14, some 0), (.events p seq tag, 0x15, some 0), (.readGroup p seq tag g item off len, 0x20, some 1), (.readTile p seq tag tile, 0x21, some 1),
      (.readLocal p seq tag g off len, 0x22, some 1), (.writeGroup p seq tag g item off data, 0x28, some 2), (.writeTile p seq tag tile rows, 0x29, some 2),
      (.writeLocal p seq tag g off data, 0x2A, some 2), (.readMem p seq tag a len, 0x30, some 3), (.writeMem p seq tag a data, 0x31, some 3), (.dbgClose p seq tag, 0x7F, none)] →
    (s.mgdLost = true → Gives e.1 s (fun t => t = s)) ∧
    (s.mgdLost = false → s.trust.orderD = false → Gives e.1 s (fun t => t = s.reply p.val e.2.1 0x0A [])) ∧
    (s.mgdLost = false → s.trust.orderD = true → s.bit (Reg.dbgPart p.val) 0 = false → Gives e.1 s (fun t => t = s.reply p.val e.2.1 8 [])) ∧
    (s.mgdLost = false → s.trust.orderD = true → s.bit (Reg.dbgPart p.val) 0 = true → tag = false ∨ seq.toNat ≤ (s.dbgOf p.val).rxSeq.toNat →
      Gives e.1 s (fun t => t = s)) ∧
    (∀ r, e.2.2 = some r → DbgOpen s p.val seq tag → s.bit (Reg.keyState p.val) (17 + r) = false →
      Gives e.1 s (fun t => t = (heardDbg s p.val seq).reply p.val e.2.1 1 []))) ∧
  (∀ p s, Gives (.dbgHello p) s (fun t => (s.mgdLost = true → t = s) ∧ (s.mgdLost = false → s.trust.orderD = false → t = s.reply p.val 1 0x0A []) ∧
    (s.mgdLost = false → s.trust.orderD = true → t = { s with fresh := s.fresh + 1, dbg := t.dbg, response := t.response } ∧
      t.dbgOf p.val = { s.dbgOf p.val with nonce := (Config.random s.fresh).truncate 256, nonceGiven := true } ∧
      t.response.status = 0 ∧ t.response.data = byteList (t.dbgOf p.val).nonce.toNat 32))) ∧
  (∀ p key sig s, Gives (.dbgOpen p key sig) s (fun t => (s.mgdLost = true → t = s) ∧
    (s.mgdLost = false → s.trust.orderD = false → t = s.reply p.val 2 0x0A []) ∧
    (s.mgdLost = false → s.trust.orderD = true →
      if s.bit (Reg.keyState p.val) 16 = true ∧ (s.dbgOf p.val).nonceGiven = true ∧ key = (s.keysOf p.val).debugger ∧ sig = true then
        t.response.status = 0 ∧ t.response.data.length = 96 ∧ t.bit (Reg.dbgPart p.val) 0 = true ∧ t.field (Reg.dbgPart p.val) 8 8 = 0 ∧
        t.bit Reg.dbgStatus 0 = true ∧ (t.dbgOf p.val).nonceGiven = false ∧ (t.dbgOf p.val).rxSeq = 0 ∧ (t.dbgOf p.val).breaks = [] ∧
        (t.dbgOf p.val).held = [] ∧ (t.dbgOf p.val).heldLaunches = []
      else SetsBit s { t with response := s.response } Reg.dbgStatus 1 true ∧ t.response.status = 9 ∧ t.response.data = []))) ∧
  (∀ (p : Fin 6) (seq : W64) (tag : Bool) (s : State), DbgOpen s p.val seq tag → Gives (.dbgClose p seq tag) s (fun t =>
    t.bit (Reg.dbgPart p.val) 0 = false ∧ (t.dbgOf p.val).held = [] ∧ (t.dbgOf p.val).breaks = [] ∧ t.response.status = 0 ∧ t.response.data = [])) ∧
  (∀ (p : Fin 6) (seq : W64) (tag : Bool) (s : State), DbgOpen s p.val seq tag → s.bit (Reg.keyState p.val) 17 = true → let u := heardDbg s p.val seq
    (∀ g, let ga := g.arr.toNat; let sl := g.slot.toNat
      (s.dbgGroup p.val ga sl = none → Gives (.haltGroup p seq tag g) s (fun t => t = u.reply p.val 0x10 3 [])) ∧
      (∀ x k, s.dbgGroup p.val ga sl = some (x, k) → Gives (.haltGroup p seq tag g) s (fun t => (t.group ga sl).map (·.held) = some true ∧
        (ga, sl) ∈ (t.dbgOf p.val).held ∧ (x.quiet = true → t.response.status = 0 ∧ t.response.data = []) ∧
        (x.quiet = false → t.response = s.response ∧ { op := 0x10, groups := [(ga, sl)], data := [] } ∈ (t.dbgOf p.val).halts)))) ∧
    (∀ m es, let open' := s.works.find? (fun k => k.part == p.val && k.type == 1 && k.mailbag == m.toNat && k.seq == es && k.phase != WPhase.finished)
      (open' = none → Gives (.haltLaunch p seq tag m es) s (fun t => t = u.reply p.val 0x11 3 [])) ∧
      (∀ k, open' = some k → Gives (.haltLaunch p seq tag m es) s (fun t => k.id ∈ (t.dbgOf p.val).heldLaunches ∧
        (t.response = s.response ∨ (t.response.status = 0 ∧ t.response.data.length = 2))))) ∧
    (∀ g n, let ga := g.arr.toNat; let sl := g.slot.toNat
      (n = 0 ∨ 256 < n.toNat → Gives (.dbgStep p seq tag g n) s (fun t => t = u.reply p.val 0x12 7 [])) ∧
      (n ≠ 0 → n.toNat ≤ 256 → s.dbgGroup p.val ga sl = none → Gives (.dbgStep p seq tag g n) s (fun t => t = u.reply p.val 0x12 3 [])) ∧
      (∀ x k, n ≠ 0 → n.toNat ≤ 256 → s.dbgGroup p.val ga sl = some (x, k) → Gives (.dbgStep p seq tag g n) s (fun t =>
        if s.dbgHalted p.val ga sl x = false then t = u.reply p.val 0x12 2 []
        else if k.halted = true then t = u.reply p.val 0x12 5 []
        else t = { u with arrs := t.arrs, dbg := t.dbg } ∧ t.group ga sl = some { x with held := false } ∧ t.stepping p.val ga sl = true ∧
          { arr := ga, slot := sl, left := n.toNat, issued := 0, waited := 0 } ∈ (t.dbgOf p.val).steps))) ∧
    (∀ g, let ga := g.arr.toNat; let sl := g.slot.toNat; g.arr ≠ 0xFFFF →
      (s.dbgGroup p.val ga sl = none → Gives (.resume p seq tag g) s (fun t => t = u.reply p.val 0x13 3 [])) ∧
      (∀ x k, s.dbgGroup p.val ga sl = some (x, k) → Gives (.resume p seq tag g) s (fun t =>
        if s.dbgHolds p.val ga sl x = false then t = u.reply p.val 0x13 2 []
        else if k.halted = true then t = u.reply p.val 0x13 5 []
        else (t.group ga sl).map (·.held) = some false ∧ (ga, sl) ∉ (t.dbgOf p.val).held ∧ t.response.status = 0 ∧ t.response.data = []))) ∧
    (∀ g, g.arr = 0xFFFF → Gives (.resume p seq tag g) s (fun t => t.response.status = 0 ∧ t.response.data = [] ∧
      ∀ e ∈ s.heldGroups p.val, s.blockHalted e.1 e.2 = false → (t.group e.1 e.2).map (·.held) = some false)) ∧
    (∀ i a, Gives (.breakSet p seq tag i a) s (fun t =>
      if 7 < i.toNat ∨ a.toNat % 16 ≠ 0 then t = u.reply p.val 0x14 7 []
      else t.response.status = 0 ∧ t.response.data = [] ∧ t.bit (Reg.dbgPart p.val) (8 + i.toNat) = decide (a ≠ 0) ∧
        FieldOnly s t (Reg.dbgPart p.val) (8 + i.toNat) 1 ∧ (a ≠ 0 → Tab.get (t.dbgOf p.val).breaks i.toNat = some a) ∧
        (a = 0 → Tab.sorted (s.dbgOf p.val).breaks = true → Tab.get (t.dbgOf p.val).breaks i.toNat = none))) ∧
    Gives (.events p seq tag) s (fun t => t.response.status = 0 ∧ t.response.data.length = 32 * min 32 (s.dbgOf p.val).events.length ∧
      t.dbgOf p.val = { s.dbgOf p.val with rxSeq := seq, txSeq := (s.dbgOf p.val).txSeq + 1, events := (s.dbgOf p.val).events.drop 32 })) ∧
  (∀ (s : State) (p b : Nat) (r : DbgRun), (r.issued = 0 → 256 ≤ r.waited → (s.endStep p r).response.status = 4) ∧
    (r.issued ≠ 0 ∨ r.waited < 256 → (s.endStep p r).response.status = 0 ∧ (s.endStep p r).response.data.length = 6) ∧
    (s.endStep p r).stepping p r.arr r.slot = false ∧
    (∀ g k, s.group r.arr r.slot = some g → s.block r.arr g.block = some k → k.stopPending = false →
      ((s.endStep p r).group r.arr r.slot).map (·.held) = some true) ∧
    (∀ g, s.group r.arr r.slot = some g → g.quiet = true → r.left = 0 → r.issued ≠ b → s.runStep p b r = s.endStep p r)) ∧
  (∀ (s : State) (p op st : Nat) (data : List Nat), let w := (s.reply p op st data).response.wire
    w.take 3 = [BitVec.ofNat 8 op, BitVec.ofNat 8 st, BitVec.ofNat 8 p] ∧
      w.length = 16 + data.length + if op ≤ 2 ∨ s.bit (Reg.dbgPart p) 0 = false then 0 else 16)

/-- A read of more than 1,024 bytes, an item above 4, a range outside an item or local store, or rows outside a tile is malformed; a group,
block or array that is not there, or an address outside the partition, is NO_TARGET; a group not held halted is NOT_HALTED. A read answers
as many bytes as asked, an item's own; a tile's element takes 24 bytes. A write in a paired partition is refused, to a halted block too;
performed, it sets WRITTEN, and a byte written to an item is what a read of it gives, every other byte of the item as it was. (derived:
R623, R629, R630, R631, R632, R636, R638, R639) -/
def Obligations.DebugAccess : Prop :=
  (∀ (k : Block) (g : Group) (item i j b : Nat), item ≤ 2 → i < itemSize k g item → j < itemSize k g item → b < 256 →
    itemByte k (g.putItem k item i b) item j = if j = i then b else itemByte k g item j) ∧
  (∀ (p : Fin 6) (seq : W64) (tag : Bool) (s : State), DbgOpen s p.val seq tag → s.bit (Reg.keyState p.val) 18 = true → let u := heardDbg s p.val seq
    (∀ g item off len, let ga := g.arr.toNat; let sl := g.slot.toNat; let it := item.toNat
      (4 < it ∨ 1024 < len.toNat → Gives (.readGroup p seq tag g item off len) s (fun t => t = u.reply p.val 0x20 7 [])) ∧
      (it ≤ 4 → len.toNat ≤ 1024 → s.dbgGroup p.val ga sl = none → Gives (.readGroup p seq tag g item off len) s (fun t => t = u.reply p.val 0x20 3 [])) ∧
      (∀ x k, it ≤ 4 → len.toNat ≤ 1024 → s.dbgGroup p.val ga sl = some (x, k) → Gives (.readGroup p seq tag g item off len) s (fun t =>
        if s.dbgHalted p.val ga sl x = false then t = u.reply p.val 0x20 2 []
        else if itemSize k x it < off.toNat + len.toNat then t = u.reply p.val 0x20 7 []
        else t = { sentDbg u p.val with response := t.response } ∧ t.response.status = 0 ∧ t.response.data.length = len.toNat ∧
          ∀ i, i < len.toNat → t.response.data.getD i 0 = itemByte k x it (off.toNat + i)))) ∧
    (∀ tile, let ga := tile.arr.toNat
      (tile.rows = 0 ∨ 32 < tile.row.toNat + tile.rows.toNat → Gives (.readTile p seq tag tile) s (fun t => t = u.reply p.val 0x21 7 [])) ∧
      (tile.rows ≠ 0 → tile.row.toNat + tile.rows.toNat ≤ 32 →
        (ga ∉ s.partArrays p.val ∨ 4 ≤ tile.quarter.toNat ∨ 4 ≤ tile.tile.toNat → Gives (.readTile p seq tag tile) s (fun t => t = u.reply p.val 0x21 3 [])) ∧
        (∀ y x k, ga ∈ s.partArrays p.val → tile.quarter.toNat < 4 → tile.tile.toNat < 4 →
          Tab.get (s.arr ga).tiles (4 * tile.quarter.toNat + tile.tile.toNat) = some y → s.dbgGroup p.val ga y.owner = some (x, k) →
          Gives (.readTile p seq tag tile) s (fun t => if s.dbgHalted p.val ga y.owner x = false then t = u.reply p.val 0x21 2 []
            else t = { sentDbg u p.val with response := t.response } ∧ t.response.status = 0 ∧ t.response.data.length = 768 * tile.rows.toNat + 4)))) ∧
    (∀ g off len, let ga := g.arr.toNat; let bs := g.slot.toNat
      (1024 < len.toNat → Gives (.readLocal p seq tag g off len) s (fun t => t = u.reply p.val 0x22 7 [])) ∧
      (len.toNat ≤ 1024 → ga ∉ s.partArrays p.val ∨ s.block ga bs = none → Gives (.readLocal p seq tag g off len) s (fun t => t = u.reply p.val 0x22 3 [])) ∧
      (∀ k, len.toNat ≤ 1024 → ga ∈ s.partArrays p.val → s.block ga bs = some k → Gives (.readLocal p seq tag g off len) s (fun t =>
        if ∀ e ∈ (s.arr ga).groups, e.2.block = bs → s.dbgHalted p.val ga e.1 e.2 = false then t = u.reply p.val 0x22 2 []
        else if 16384 * k.units.length < off.toNat + len.toNat then t = u.reply p.val 0x22 7 []
        else t = { sentDbg u p.val with response := t.response } ∧ t.response.status = 0 ∧ t.response.data.length = len.toNat ∧
          ∀ i, i < len.toNat → t.response.data.getD i 0 = (Mem.read (s.arr ga).localMem (localKey k (off.toNat + i))).toNat)))) ∧
  (∀ (p : Fin 6) (seq : W64) (tag : Bool) (s : State), DbgOpen s p.val seq tag → s.bit (Reg.keyState p.val) 19 = true → let u := heardDbg s p.val seq
    let paired := 1 ≤ s.pairState p.val ∧ s.pairState p.val ≤ 3
    (∀ g item off data x k, let ga := g.arr.toNat; let sl := g.slot.toNat; let it := item.toNat
      it ≤ 4 → data.length ≤ 1024 → s.dbgGroup p.val ga sl = some (x, k) → s.dbgHalted p.val ga sl x = true →
      Gives (.writeGroup p seq tag g item off data) s (fun t =>
        if itemSize k x it < off.toNat + data.length then t = u.reply p.val 0x28 7 []
        else match x.written k it off.toNat (data.map (·.toNat)) with
          | none => t = u.reply p.val 0x28 7 []
          | some y => if paired then t = u.reply p.val 0x28 6 [] else if k.halted = true then t = u.reply p.val 0x28 5 []
            else t.group ga sl = some y ∧ t.bit (Reg.dbgPart p.val) 1 = true ∧ t.response.status = 0 ∧ t.response.data = [] ∧
              t = { sentDbg u p.val with arrs := t.arrs, regs := t.regs, response := t.response } ∧ RegsBut s t [Reg.dbgPart p.val])) ∧
    (∀ tile rows, rows.length ≠ 32 * tile.rows.toNat → Gives (.writeTile p seq tag tile rows) s (fun t => t = u.reply p.val 0x29 7 [])) ∧
    (∀ tile rows y x k, let ga := tile.arr.toNat; let n := 4 * tile.quarter.toNat + tile.tile.toNat
      rows.length = 32 * tile.rows.toNat → (∀ e ∈ rows, bitsOf e.toNat 144 8 ≤ 3) → tile.rows ≠ 0 → tile.row.toNat + tile.rows.toNat ≤ 32 →
      ga ∈ s.partArrays p.val → tile.quarter.toNat < 4 → tile.tile.toNat < 4 → Tab.get (s.arr ga).tiles n = some y →
      s.dbgGroup p.val ga y.owner = some (x, k) → s.dbgHalted p.val ga y.owner x = true → Gives (.writeTile p seq tag tile rows) s (fun t =>
        if paired then t = u.reply p.val 0x29 6 [] else if k.halted = true then t = u.reply p.val 0x29 5 []
        else t.bit (Reg.dbgPart p.val) 1 = true ∧ t.response.status = 0 ∧ t.response.data = [] ∧ ∃ z, Tab.get (t.arr ga).tiles n = some z ∧
          z = { y with accs := z.accs, tags := z.tags } ∧ ∀ i (h : i < rows.length),
            Tab.getD z.accs (32 * tile.row.toNat + i) 0 = rows[i].truncate 144 ∧
            Tab.getD z.tags (32 * tile.row.toNat + i) .finite = LTag.ofCode (bitsOf rows[i].toNat 144 8))) ∧
    (∀ g off data k, let ga := g.arr.toNat; let bs := g.slot.toNat
      data.length ≤ 1024 → ga ∈ s.partArrays p.val → s.block ga bs = some k →
      (∃ e ∈ (s.arr ga).groups, e.2.block = bs ∧ s.dbgHalted p.val ga e.1 e.2 = true) → Gives (.writeLocal p seq tag g off data) s (fun t =>
        if 16384 * k.units.length < off.toNat + data.length then t = u.reply p.val 0x2A 7 []
        else if paired then t = u.reply p.val 0x2A 6 [] else if k.halted = true then t = u.reply p.val 0x2A 5 []
        else t.bit (Reg.dbgPart p.val) 1 = true ∧ t.response.status = 0 ∧ t.response.data = [] ∧
          t = { sentDbg u p.val with arrs := t.arrs, regs := t.regs, response := t.response } ∧ t.arr ga = { s.arr ga with localMem := (t.arr ga).localMem } ∧
          ∀ a, (∀ i, i < data.length → a ≠ localKey k (off.toNat + i)) → Memory.wf (s.arr ga).localMem = true →
            Mem.read (t.arr ga).localMem a = Mem.read (s.arr ga).localMem a))) ∧
  (∀ (p : Fin 6) (seq : W64) (tag : Bool) (s : State), DbgOpen s p.val seq tag → s.bit (Reg.keyState p.val) 20 = true → let u := heardDbg s p.val seq
    (∀ addr len, let good := addr.toNat < hostStart ∧ s.rangeIn p.val wholeSnap addr.toNat (max len.toNat 1) = true
      (1024 < len.toNat → Gives (.readMem p seq tag addr len) s (fun t => t = u.reply p.val 0x30 7 [])) ∧
      (len.toNat ≤ 1024 → ¬good → Gives (.readMem p seq tag addr len) s (fun t => t = u.reply p.val 0x30 3 [])) ∧
      (len.toNat ≤ 1024 → good → Gives (.readMem p seq tag addr len) s (fun t => t.response.status = 0 ∧ t.response.data.length = len.toNat))) ∧
    (∀ addr data, let good := addr.toNat < hostStart ∧ s.rangeIn p.val wholeSnap addr.toNat (max data.length 1) = true
      (1024 < data.length → Gives (.writeMem p seq tag addr data) s (fun t => t = u.reply p.val 0x31 7 [])) ∧
      (data.length ≤ 1024 → ¬good → Gives (.writeMem p seq tag addr data) s (fun t => t = u.reply p.val 0x31 3 [])) ∧
      (data.length ≤ 1024 → good → Gives (.writeMem p seq tag addr data) s (fun t =>
        if 1 ≤ s.pairState p.val ∧ s.pairState p.val ≤ 3 then t = u.reply p.val 0x31 6 []
        else t.bit (Reg.dbgPart p.val) 1 = true ∧ t.response.status = 0 ∧ t.response.data = [] ∧ (data = [] → addr.toNat % 128 = 0 → SetsBit (sentDbg u p.val) { t with response := u.response } (Reg.dbgPart p.val) 1 true)))))

/-- For every command and state, a step of the state with the command at the front of its queue is exec of the command on the state with the
queue's rest; with an empty queue a step is one edge of the 1 GHz clock, which is the model's choice (log entries 7 and 94): the master
count gains 1 once it is running, and waits for the tick at the edge that would bring it to a multiple of 40. (derived: R10, R12) -/
def Obligations.StepRuns : Prop :=
  (∀ (c : Instr) (l : List Instr) (s : State), s.pending = c :: l → step s = exec c { s with pending := l }) ∧
  (∀ s : State, s.pending = [] → step s = .next s.edge ∧
    s.edge = if s.tb.running = true ∧ s.tb.master.toNat % 40 ≠ 39 then { s with tb := { s.tb with master := s.tb.master + 1 } } else s)

/-- The state after reset has an empty queue, every register at the reset value of its table (the fret tokens at 52 + 2f, every partition
FREE, UNKEYED and UNPAIRED, no start step done), and meets the invariant that every step keeps: both memories in canonical form, the
register table in order. The fused values and the byte an unlisted address reads as are the model's choice (log entries 2 and 4). (derived:
R10, R44, R461, R499, R559, R595) -/
def Obligations.AfterReset : Prop :=
  State.reset.pending = [] ∧ Sound State.reset ∧ (∀ a, State.reset.reg a = regReset a) ∧
  (∀ f : Fin 8, (State.reset.reg (Reg.fretTokens f.val)).toNat = 52 + 2 * f.val) ∧
  (∀ p : Fin 6, State.reset.partState p.val = 0 ∧ State.reset.keyState p.val = 0 ∧ State.reset.pairState p.val = 0) ∧
  (∀ i : Fin 12, State.reset.stepDone i.val = false) ∧ (∀ a, Mem.read State.reset.hbm a = 0 ∧ Mem.read State.reset.far a = 0)

/-- From every state a step answers a next state whose queue is the rest of the queue. If both memories are in canonical form, the register
table in order and SEC_MIN at most its 64 fuses, so they are after the step; the order code, the debug fuses and the identity never change,
and SEC_MIN never falls (R467). This holds of every command, the panel resets among them. (derived: R1, R7, R10, R12, R467, R487, R603) -/
def Obligations.StepKeeps : Prop :=
  ∀ s : State, ∃ t, step s = .next t ∧ t.pending = s.pending.tail ∧ (Sound s → Sound t) ∧
    t.trust.orderD = s.trust.orderD ∧ t.trust.debugBlown = s.trust.debugBlown ∧ t.trust.identity = s.trust.identity ∧
    (s.trust.secMin ≤ 64 → s.trust.secMin ≤ t.trust.secMin)

end
end

