-- ==== Sys2Proof/Laws/Memory.lean ====
section
/-! SUPPORT. The laws of the sparse tables and of memory: a read after a write, what a write leaves alone, and the canonical form, which
every memory operation keeps. -/

namespace Sys2Proof.Machine

theorem Tab.get_put_self {α : Type} (t : Tab α) (k : Nat) (v : α) : Tab.get (Tab.put t k v) k = some v := by
  induction t with
  | nil => simp [Tab.put, Tab.get]
  | cons e t ih =>
    obtain ⟨j, w⟩ := e
    simp only [Tab.put]
    split
    · simp [Tab.get]
    · split
      · simp [Tab.get]
      · rename_i h1 h2
        simp only [Tab.get, if_neg h2, if_neg h1, ih]

theorem Tab.get_put_other {α : Type} (t : Tab α) (k j : Nat) (v : α) (h : j ≠ k) : Tab.get (Tab.put t k v) j = Tab.get t j := by
  induction t with
  | nil => simp only [Tab.put, Tab.get]; split <;> (try split) <;> first | rfl | omega
  | cons e t ih =>
    obtain ⟨i, w⟩ := e
    simp only [Tab.put]
    split
    · rename_i h1
      simp only [Tab.get, if_neg (Ne.symm h)]
      split
      · rw [if_neg (by omega), if_pos (by omega)]
      · rfl
    · split
      · rename_i h1 h2
        subst h2
        simp only [Tab.get, if_neg (Ne.symm h)]
      · simp only [Tab.get, ih]

theorem Tab.getD_put_self {α : Type} (t : Tab α) (k : Nat) (v d : α) : Tab.getD (Tab.put t k v) k d = v := by
  simp [Tab.getD, Tab.get_put_self]

theorem Tab.getD_put_other {α : Type} (t : Tab α) (k j : Nat) (v d : α) (h : j ≠ k) : Tab.getD (Tab.put t k v) j d = Tab.getD t j d := by
  simp [Tab.getD, Tab.get_put_other t k j v h]

/-- Every key of a table is above a bound. -/
def Tab.above {α : Type} (k : Nat) (t : Tab α) : Prop := ∀ e ∈ t, k < e.1

theorem Tab.sorted_cons {α : Type} (j : Nat) (w : α) (t : Tab α) :
    Tab.sorted ((j, w) :: t) = true ↔ Tab.above j t ∧ Tab.sorted t = true := by
  induction t generalizing j w with
  | nil => simp [Tab.sorted, Tab.above]
  | cons e t ih =>
    obtain ⟨k, v⟩ := e
    simp only [Tab.sorted, Bool.and_eq_true, decide_eq_true_eq]
    constructor
    · rintro ⟨h, hs⟩
      refine ⟨?_, hs⟩
      intro e he
      rcases List.mem_cons.mp he with rfl | he
      · exact h
      · exact Nat.lt_trans h (((ih k v).mp hs).1 e he)
    · rintro ⟨h, hs⟩
      exact ⟨h (k, v) (List.mem_cons_self ..), hs⟩

theorem Tab.above_put {α : Type} (j k : Nat) (v : α) (t : Tab α) (h : Tab.above j t) (hk : j < k) : Tab.above j (Tab.put t k v) := by
  induction t with
  | nil => intro e he; simp [Tab.put] at he; simp [he, hk]
  | cons e t ih =>
    obtain ⟨i, w⟩ := e
    have ht : Tab.above j t := fun e he => h e (List.mem_cons_of_mem _ he)
    have hi : j < i := h (i, w) (List.mem_cons_self ..)
    simp only [Tab.put]
    intro e he
    split at he
    · rcases List.mem_cons.mp he with rfl | he
      · exact hk
      · exact h e he
    · split at he
      · rcases List.mem_cons.mp he with rfl | he
        · exact hk
        · exact ht e he
      · rcases List.mem_cons.mp he with rfl | he
        · exact hi
        · exact ih ht e he

theorem Tab.sorted_put {α : Type} (t : Tab α) (k : Nat) (v : α) (h : Tab.sorted t = true) : Tab.sorted (Tab.put t k v) = true := by
  induction t with
  | nil => rfl
  | cons e t ih =>
    obtain ⟨i, w⟩ := e
    obtain ⟨ha, hs⟩ := (Tab.sorted_cons i w t).mp h
    simp only [Tab.put]
    split
    · rename_i hk
      refine (Tab.sorted_cons _ _ _).mpr ⟨?_, h⟩
      intro e he
      rcases List.mem_cons.mp he with rfl | he
      · exact hk
      · exact Nat.lt_trans hk (ha e he)
    · split
      · rename_i hk
        subst hk
        exact (Tab.sorted_cons _ _ _).mpr ⟨ha, hs⟩
      · exact (Tab.sorted_cons _ _ _).mpr ⟨Tab.above_put i k v t ha (by omega), ih hs⟩

theorem Tab.erase_sublist {α : Type} (t : Tab α) (k : Nat) : (Tab.erase t k).Sublist t := by
  induction t with
  | nil => exact List.Sublist.slnil
  | cons e t ih =>
    obtain ⟨i, w⟩ := e
    simp only [Tab.erase]
    split
    · exact List.sublist_cons_self _ _
    · split
      · exact List.Sublist.refl _
      · exact ih.cons_cons _

theorem Tab.sorted_sublist {α : Type} {a b : Tab α} (h : a.Sublist b) (hb : Tab.sorted b = true) : Tab.sorted a = true := by
  induction h with
  | slnil => rfl
  | cons e _ ih => exact ih ((Tab.sorted_cons e.1 e.2 _).mp hb).2
  | cons_cons e hsub ih =>
    obtain ⟨ha, hs⟩ := (Tab.sorted_cons e.1 e.2 _).mp hb
    exact (Tab.sorted_cons e.1 e.2 _).mpr ⟨fun x hx => ha x (hsub.subset hx), ih hs⟩

theorem Tab.get_above {α : Type} (t : Tab α) (k : Nat) (h : Tab.above k t) : Tab.get t k = none := by
  cases t with
  | nil => rfl
  | cons e t =>
    obtain ⟨i, w⟩ := e
    have hi : k < i := h (i, w) (List.mem_cons_self ..)
    simp only [Tab.get]
    split
    · omega
    · rfl

theorem Tab.get_erase_self {α : Type} (t : Tab α) (k : Nat) (h : Tab.sorted t = true) : Tab.get (Tab.erase t k) k = none := by
  induction t with
  | nil => rfl
  | cons e t ih =>
    obtain ⟨i, w⟩ := e
    obtain ⟨ha, hs⟩ := (Tab.sorted_cons i w t).mp h
    simp only [Tab.erase]
    split
    · rename_i hk
      subst hk
      exact Tab.get_above _ _ ha
    · rename_i h1
      split
      · rename_i h2
        simp only [Tab.get, if_neg h1, if_pos h2]
      · rename_i h2
        simp only [Tab.get, if_neg h1, if_neg h2, ih hs]

theorem Tab.get_erase_other {α : Type} (t : Tab α) (k j : Nat) (h : Tab.sorted t = true) (hj : j ≠ k) :
    Tab.get (Tab.erase t k) j = Tab.get t j := by
  induction t with
  | nil => rfl
  | cons e t ih =>
    obtain ⟨i, w⟩ := e
    obtain ⟨ha, hs⟩ := (Tab.sorted_cons i w t).mp h
    simp only [Tab.erase]
    split
    · rename_i hk
      subst hk
      simp only [Tab.get]
      split
      · omega
      · split
        · exact Tab.get_above _ _ (fun e he => Nat.lt_trans (by assumption) (ha e he))
        · rfl
    · split
      · rfl
      · simp only [Tab.get]; rw [ih hs]

/-! Memory. -/

theorem Memory.wf_iff (m : List Host.Cell) : Memory.wf m = true ↔ Tab.sorted m = true ∧ ∀ c ∈ m, c.2 ≠ 0 := by
  simp [Memory.wf, List.all_eq_true]

theorem Memory.wf_sublist {a b : List Host.Cell} (h : a.Sublist b) (hb : Memory.wf b = true) : Memory.wf a = true := by
  obtain ⟨hs, hz⟩ := (Memory.wf_iff b).mp hb
  exact (Memory.wf_iff a).mpr ⟨Tab.sorted_sublist h hs, fun c hc => hz c (h.subset hc)⟩

theorem Tab.mem_put {α : Type} (t : Tab α) (k : Nat) (v : α) (e : Nat × α) (h : e ∈ Tab.put t k v) : e = (k, v) ∨ e ∈ t := by
  induction t with
  | nil => simp [Tab.put] at h; exact Or.inl h
  | cons x t ih =>
    obtain ⟨i, w⟩ := x
    simp only [Tab.put] at h
    split at h
    · rcases List.mem_cons.mp h with h | h
      · exact Or.inl h
      · exact Or.inr h
    · split at h
      · rcases List.mem_cons.mp h with h | h
        · exact Or.inl h
        · exact Or.inr (List.mem_cons_of_mem _ h)
      · rcases List.mem_cons.mp h with h | h
        · exact Or.inr (h ▸ List.mem_cons_self ..)
        · rcases ih h with h | h
          · exact Or.inl h
          · exact Or.inr (List.mem_cons_of_mem _ h)

theorem Mem.write_wf (m : List Host.Cell) (a : Nat) (b : Byte) (h : Memory.wf m = true) : Memory.wf (Mem.write m a b) = true := by
  obtain ⟨hs, hz⟩ := (Memory.wf_iff m).mp h
  simp only [Mem.write]
  split
  · exact Memory.wf_sublist (Tab.erase_sublist m a) h
  · rename_i hb
    refine (Memory.wf_iff _).mpr ⟨Tab.sorted_put m a b hs, fun c hc => ?_⟩
    rcases Tab.mem_put m a b c hc with rfl | hc
    · exact hb
    · exact hz c hc

theorem Mem.writeLE_wf (n : Nat) (m : List Host.Cell) (a v : Nat) (h : Memory.wf m = true) : Memory.wf (Mem.writeLE m a v n) = true := by
  induction n generalizing m a v with
  | zero => exact h
  | succ n ih => exact ih _ _ _ (Mem.write_wf m a _ h)

theorem Mem.writeMasked_wf (n : Nat) (m : List Host.Cell) (a data mask : Nat) (h : Memory.wf m = true) :
    Memory.wf (Mem.writeMasked m a data mask n) = true := by
  induction n generalizing m a data mask with
  | zero => exact h
  | succ n ih =>
    refine ih _ _ _ _ ?_
    split
    · exact Mem.write_wf m a _ h
    · exact h

theorem Mem.clear_wf (m : List Host.Cell) (lo hi : Nat) (h : Memory.wf m = true) : Memory.wf (Mem.clear m lo hi) = true :=
  Memory.wf_sublist List.filter_sublist h

/-- A read after a write gives the byte written. -/
theorem Mem.read_write_self (m : List Host.Cell) (a : Nat) (b : Byte) (h : Memory.wf m = true) : Mem.read (Mem.write m a b) a = b := by
  have hs := ((Memory.wf_iff m).mp h).1
  simp only [Mem.read, Mem.write]
  split
  · rename_i hb
    simp [Tab.getD, Tab.get_erase_self m a hs, hb]
  · exact Tab.getD_put_self m a b 0

/-- A write leaves every other byte alone. -/
theorem Mem.read_write_other (m : List Host.Cell) (a j : Nat) (b : Byte) (h : Memory.wf m = true) (hj : j ≠ a) :
    Mem.read (Mem.write m a b) j = Mem.read m j := by
  have hs := ((Memory.wf_iff m).mp h).1
  simp only [Mem.read, Mem.write]
  split
  · simp [Tab.getD, Tab.get_erase_other m a j hs hj]
  · exact Tab.getD_put_other m a j b 0 hj

/-- n bytes written leave every byte outside them alone. -/
theorem Mem.read_writeLE_other (n : Nat) (m : List Host.Cell) (a v j : Nat) (h : Memory.wf m = true) (hj : j < a ∨ a + n ≤ j) :
    Mem.read (Mem.writeLE m a v n) j = Mem.read m j := by
  induction n generalizing m a v with
  | zero => rfl
  | succ n ih =>
    simp only [Mem.writeLE]
    rw [ih _ _ _ (Mem.write_wf m a _ h) (by omega), Mem.read_write_other m a j _ h (by omega)]

end Sys2Proof.Machine
end

