-- ==== Sys2Proof/Laws/State.lean ====
section
/-! SUPPORT. What each update of the state leaves in each field of the state: one lemma for each update and field. -/

namespace Sys2Proof.Machine

/-! State.setReg. -/

@[simp] theorem State.setReg_pending (s : State) (a : Nat) (v : W32) : (s.setReg a v).pending = s.pending := rfl
@[simp] theorem State.setReg_fresh (s : State) (a : Nat) (v : W32) : (s.setReg a v).fresh = s.fresh := rfl
@[simp] theorem State.setReg_ids (s : State) (a : Nat) (v : W32) : (s.setReg a v).ids = s.ids := rfl
@[simp] theorem State.setReg_regs (s : State) (a : Nat) (v : W32) : (s.setReg a v).regs = Tab.put s.regs a v := rfl
@[simp] theorem State.setReg_accum (s : State) (a : Nat) (v : W32) : (s.setReg a v).accum = s.accum := rfl
@[simp] theorem State.setReg_ahead (s : State) (a : Nat) (v : W32) : (s.setReg a v).ahead = s.ahead := rfl
@[simp] theorem State.setReg_latch (s : State) (a : Nat) (v : W32) : (s.setReg a v).latch = s.latch := rfl
@[simp] theorem State.setReg_readData (s : State) (a : Nat) (v : W32) : (s.setReg a v).readData = s.readData := rfl
@[simp] theorem State.setReg_mgmtAddr (s : State) (a : Nat) (v : W32) : (s.setReg a v).mgmtAddr = s.mgmtAddr := rfl
@[simp] theorem State.setReg_response (s : State) (a : Nat) (v : W32) : (s.setReg a v).response = s.response := rfl
@[simp] theorem State.setReg_tb (s : State) (a : Nat) (v : W32) : (s.setReg a v).tb = s.tb := rfl
@[simp] theorem State.setReg_arrs (s : State) (a : Nat) (v : W32) : (s.setReg a v).arrs = s.arrs := rfl
@[simp] theorem State.setReg_slices (s : State) (a : Nat) (v : W32) : (s.setReg a v).slices = s.slices := rfl
@[simp] theorem State.setReg_mids (s : State) (a : Nat) (v : W32) : (s.setReg a v).mids = s.mids := rfl
@[simp] theorem State.setReg_hbm (s : State) (a : Nat) (v : W32) : (s.setReg a v).hbm = s.hbm := rfl
@[simp] theorem State.setReg_hbmCode (s : State) (a : Nat) (v : W32) : (s.setReg a v).hbmCode = s.hbmCode := rfl
@[simp] theorem State.setReg_far (s : State) (a : Nat) (v : W32) : (s.setReg a v).far = s.far := rfl
@[simp] theorem State.setReg_farPages (s : State) (a : Nat) (v : W32) : (s.setReg a v).farPages = s.farPages := rfl
@[simp] theorem State.setReg_reqs (s : State) (a : Nat) (v : W32) : (s.setReg a v).reqs = s.reqs := rfl
@[simp] theorem State.setReg_reads (s : State) (a : Nat) (v : W32) : (s.setReg a v).reads = s.reads := rfl
@[simp] theorem State.setReg_fills (s : State) (a : Nat) (v : W32) : (s.setReg a v).fills = s.fills := rfl
@[simp] theorem State.setReg_sideFills (s : State) (a : Nat) (v : W32) : (s.setReg a v).sideFills = s.sideFills := rfl
@[simp] theorem State.setReg_writeAcks (s : State) (a : Nat) (v : W32) : (s.setReg a v).writeAcks = s.writeAcks := rfl
@[simp] theorem State.setReg_couriers (s : State) (a : Nat) (v : W32) : (s.setReg a v).couriers = s.couriers := rfl
@[simp] theorem State.setReg_held (s : State) (a : Nat) (v : W32) : (s.setReg a v).held = s.held := rfl
@[simp] theorem State.setReg_granted (s : State) (a : Nat) (v : W32) : (s.setReg a v).granted = s.granted := rfl
@[simp] theorem State.setReg_halves (s : State) (a : Nat) (v : W32) : (s.setReg a v).halves = s.halves := rfl
@[simp] theorem State.setReg_holds (s : State) (a : Nat) (v : W32) : (s.setReg a v).holds = s.holds := rfl
@[simp] theorem State.setReg_transit (s : State) (a : Nat) (v : W32) : (s.setReg a v).transit = s.transit := rfl
@[simp] theorem State.setReg_deadUnits (s : State) (a : Nat) (v : W32) : (s.setReg a v).deadUnits = s.deadUnits := rfl
@[simp] theorem State.setReg_ports (s : State) (a : Nat) (v : W32) : (s.setReg a v).ports = s.ports := rfl
@[simp] theorem State.setReg_mailbags (s : State) (a : Nat) (v : W32) : (s.setReg a v).mailbags = s.mailbags := rfl
@[simp] theorem State.setReg_works (s : State) (a : Nat) (v : W32) : (s.setReg a v).works = s.works := rfl
@[simp] theorem State.setReg_hostOut (s : State) (a : Nat) (v : W32) : (s.setReg a v).hostOut = s.hostOut := rfl
@[simp] theorem State.setReg_parts (s : State) (a : Nat) (v : W32) : (s.setReg a v).parts = s.parts := rfl
@[simp] theorem State.setReg_trust (s : State) (a : Nat) (v : W32) : (s.setReg a v).trust = s.trust := rfl
@[simp] theorem State.setReg_keys (s : State) (a : Nat) (v : W32) : (s.setReg a v).keys = s.keys := rfl
@[simp] theorem State.setReg_spdm (s : State) (a : Nat) (v : W32) : (s.setReg a v).spdm = s.spdm := rfl
@[simp] theorem State.setReg_faults (s : State) (a : Nat) (v : W32) : (s.setReg a v).faults = s.faults := rfl
@[simp] theorem State.setReg_pairs (s : State) (a : Nat) (v : W32) : (s.setReg a v).pairs = s.pairs := rfl
@[simp] theorem State.setReg_linkSent (s : State) (a : Nat) (v : W32) : (s.setReg a v).linkSent = s.linkSent := rfl
@[simp] theorem State.setReg_pairOut (s : State) (a : Nat) (v : W32) : (s.setReg a v).pairOut = s.pairOut := rfl
@[simp] theorem State.setReg_power (s : State) (a : Nat) (v : W32) : (s.setReg a v).power = s.power := rfl
@[simp] theorem State.setReg_shell (s : State) (a : Nat) (v : W32) : (s.setReg a v).shell = s.shell := rfl
@[simp] theorem State.setReg_dbg (s : State) (a : Nat) (v : W32) : (s.setReg a v).dbg = s.dbg := rfl

/-! State.setField. -/

@[simp] theorem State.setField_pending (s : State) (a lo w v : Nat) : (s.setField a lo w v).pending = s.pending := rfl
@[simp] theorem State.setField_fresh (s : State) (a lo w v : Nat) : (s.setField a lo w v).fresh = s.fresh := rfl
@[simp] theorem State.setField_ids (s : State) (a lo w v : Nat) : (s.setField a lo w v).ids = s.ids := rfl
@[simp] theorem State.setField_accum (s : State) (a lo w v : Nat) : (s.setField a lo w v).accum = s.accum := rfl
@[simp] theorem State.setField_ahead (s : State) (a lo w v : Nat) : (s.setField a lo w v).ahead = s.ahead := rfl
@[simp] theorem State.setField_latch (s : State) (a lo w v : Nat) : (s.setField a lo w v).latch = s.latch := rfl
@[simp] theorem State.setField_readData (s : State) (a lo w v : Nat) : (s.setField a lo w v).readData = s.readData := rfl
@[simp] theorem State.setField_mgmtAddr (s : State) (a lo w v : Nat) : (s.setField a lo w v).mgmtAddr = s.mgmtAddr := rfl
@[simp] theorem State.setField_response (s : State) (a lo w v : Nat) : (s.setField a lo w v).response = s.response := rfl
@[simp] theorem State.setField_tb (s : State) (a lo w v : Nat) : (s.setField a lo w v).tb = s.tb := rfl
@[simp] theorem State.setField_arrs (s : State) (a lo w v : Nat) : (s.setField a lo w v).arrs = s.arrs := rfl
@[simp] theorem State.setField_slices (s : State) (a lo w v : Nat) : (s.setField a lo w v).slices = s.slices := rfl
@[simp] theorem State.setField_mids (s : State) (a lo w v : Nat) : (s.setField a lo w v).mids = s.mids := rfl
@[simp] theorem State.setField_hbm (s : State) (a lo w v : Nat) : (s.setField a lo w v).hbm = s.hbm := rfl
@[simp] theorem State.setField_hbmCode (s : State) (a lo w v : Nat) : (s.setField a lo w v).hbmCode = s.hbmCode := rfl
@[simp] theorem State.setField_far (s : State) (a lo w v : Nat) : (s.setField a lo w v).far = s.far := rfl
@[simp] theorem State.setField_farPages (s : State) (a lo w v : Nat) : (s.setField a lo w v).farPages = s.farPages := rfl
@[simp] theorem State.setField_reqs (s : State) (a lo w v : Nat) : (s.setField a lo w v).reqs = s.reqs := rfl
@[simp] theorem State.setField_reads (s : State) (a lo w v : Nat) : (s.setField a lo w v).reads = s.reads := rfl
@[simp] theorem State.setField_fills (s : State) (a lo w v : Nat) : (s.setField a lo w v).fills = s.fills := rfl
@[simp] theorem State.setField_sideFills (s : State) (a lo w v : Nat) : (s.setField a lo w v).sideFills = s.sideFills := rfl
@[simp] theorem State.setField_writeAcks (s : State) (a lo w v : Nat) : (s.setField a lo w v).writeAcks = s.writeAcks := rfl
@[simp] theorem State.setField_couriers (s : State) (a lo w v : Nat) : (s.setField a lo w v).couriers = s.couriers := rfl
@[simp] theorem State.setField_held (s : State) (a lo w v : Nat) : (s.setField a lo w v).held = s.held := rfl
@[simp] theorem State.setField_granted (s : State) (a lo w v : Nat) : (s.setField a lo w v).granted = s.granted := rfl
@[simp] theorem State.setField_halves (s : State) (a lo w v : Nat) : (s.setField a lo w v).halves = s.halves := rfl
@[simp] theorem State.setField_holds (s : State) (a lo w v : Nat) : (s.setField a lo w v).holds = s.holds := rfl
@[simp] theorem State.setField_transit (s : State) (a lo w v : Nat) : (s.setField a lo w v).transit = s.transit := rfl
@[simp] theorem State.setField_deadUnits (s : State) (a lo w v : Nat) : (s.setField a lo w v).deadUnits = s.deadUnits := rfl
@[simp] theorem State.setField_ports (s : State) (a lo w v : Nat) : (s.setField a lo w v).ports = s.ports := rfl
@[simp] theorem State.setField_mailbags (s : State) (a lo w v : Nat) : (s.setField a lo w v).mailbags = s.mailbags := rfl
@[simp] theorem State.setField_works (s : State) (a lo w v : Nat) : (s.setField a lo w v).works = s.works := rfl
@[simp] theorem State.setField_hostOut (s : State) (a lo w v : Nat) : (s.setField a lo w v).hostOut = s.hostOut := rfl
@[simp] theorem State.setField_parts (s : State) (a lo w v : Nat) : (s.setField a lo w v).parts = s.parts := rfl
@[simp] theorem State.setField_trust (s : State) (a lo w v : Nat) : (s.setField a lo w v).trust = s.trust := rfl
@[simp] theorem State.setField_keys (s : State) (a lo w v : Nat) : (s.setField a lo w v).keys = s.keys := rfl
@[simp] theorem State.setField_spdm (s : State) (a lo w v : Nat) : (s.setField a lo w v).spdm = s.spdm := rfl
@[simp] theorem State.setField_faults (s : State) (a lo w v : Nat) : (s.setField a lo w v).faults = s.faults := rfl
@[simp] theorem State.setField_pairs (s : State) (a lo w v : Nat) : (s.setField a lo w v).pairs = s.pairs := rfl
@[simp] theorem State.setField_linkSent (s : State) (a lo w v : Nat) : (s.setField a lo w v).linkSent = s.linkSent := rfl
@[simp] theorem State.setField_pairOut (s : State) (a lo w v : Nat) : (s.setField a lo w v).pairOut = s.pairOut := rfl
@[simp] theorem State.setField_power (s : State) (a lo w v : Nat) : (s.setField a lo w v).power = s.power := rfl
@[simp] theorem State.setField_shell (s : State) (a lo w v : Nat) : (s.setField a lo w v).shell = s.shell := rfl
@[simp] theorem State.setField_dbg (s : State) (a lo w v : Nat) : (s.setField a lo w v).dbg = s.dbg := rfl

/-! State.setBit. -/

@[simp] theorem State.setBit_pending (s : State) (a i : Nat) : (s.setBit a i).pending = s.pending := rfl
@[simp] theorem State.setBit_fresh (s : State) (a i : Nat) : (s.setBit a i).fresh = s.fresh := rfl
@[simp] theorem State.setBit_ids (s : State) (a i : Nat) : (s.setBit a i).ids = s.ids := rfl
@[simp] theorem State.setBit_accum (s : State) (a i : Nat) : (s.setBit a i).accum = s.accum := rfl
@[simp] theorem State.setBit_ahead (s : State) (a i : Nat) : (s.setBit a i).ahead = s.ahead := rfl
@[simp] theorem State.setBit_latch (s : State) (a i : Nat) : (s.setBit a i).latch = s.latch := rfl
@[simp] theorem State.setBit_readData (s : State) (a i : Nat) : (s.setBit a i).readData = s.readData := rfl
@[simp] theorem State.setBit_mgmtAddr (s : State) (a i : Nat) : (s.setBit a i).mgmtAddr = s.mgmtAddr := rfl
@[simp] theorem State.setBit_response (s : State) (a i : Nat) : (s.setBit a i).response = s.response := rfl
@[simp] theorem State.setBit_tb (s : State) (a i : Nat) : (s.setBit a i).tb = s.tb := rfl
@[simp] theorem State.setBit_arrs (s : State) (a i : Nat) : (s.setBit a i).arrs = s.arrs := rfl
@[simp] theorem State.setBit_slices (s : State) (a i : Nat) : (s.setBit a i).slices = s.slices := rfl
@[simp] theorem State.setBit_mids (s : State) (a i : Nat) : (s.setBit a i).mids = s.mids := rfl
@[simp] theorem State.setBit_hbm (s : State) (a i : Nat) : (s.setBit a i).hbm = s.hbm := rfl
@[simp] theorem State.setBit_hbmCode (s : State) (a i : Nat) : (s.setBit a i).hbmCode = s.hbmCode := rfl
@[simp] theorem State.setBit_far (s : State) (a i : Nat) : (s.setBit a i).far = s.far := rfl
@[simp] theorem State.setBit_farPages (s : State) (a i : Nat) : (s.setBit a i).farPages = s.farPages := rfl
@[simp] theorem State.setBit_reqs (s : State) (a i : Nat) : (s.setBit a i).reqs = s.reqs := rfl
@[simp] theorem State.setBit_reads (s : State) (a i : Nat) : (s.setBit a i).reads = s.reads := rfl
@[simp] theorem State.setBit_fills (s : State) (a i : Nat) : (s.setBit a i).fills = s.fills := rfl
@[simp] theorem State.setBit_sideFills (s : State) (a i : Nat) : (s.setBit a i).sideFills = s.sideFills := rfl
@[simp] theorem State.setBit_writeAcks (s : State) (a i : Nat) : (s.setBit a i).writeAcks = s.writeAcks := rfl
@[simp] theorem State.setBit_couriers (s : State) (a i : Nat) : (s.setBit a i).couriers = s.couriers := rfl
@[simp] theorem State.setBit_held (s : State) (a i : Nat) : (s.setBit a i).held = s.held := rfl
@[simp] theorem State.setBit_granted (s : State) (a i : Nat) : (s.setBit a i).granted = s.granted := rfl
@[simp] theorem State.setBit_halves (s : State) (a i : Nat) : (s.setBit a i).halves = s.halves := rfl
@[simp] theorem State.setBit_holds (s : State) (a i : Nat) : (s.setBit a i).holds = s.holds := rfl
@[simp] theorem State.setBit_transit (s : State) (a i : Nat) : (s.setBit a i).transit = s.transit := rfl
@[simp] theorem State.setBit_deadUnits (s : State) (a i : Nat) : (s.setBit a i).deadUnits = s.deadUnits := rfl
@[simp] theorem State.setBit_ports (s : State) (a i : Nat) : (s.setBit a i).ports = s.ports := rfl
@[simp] theorem State.setBit_mailbags (s : State) (a i : Nat) : (s.setBit a i).mailbags = s.mailbags := rfl
@[simp] theorem State.setBit_works (s : State) (a i : Nat) : (s.setBit a i).works = s.works := rfl
@[simp] theorem State.setBit_hostOut (s : State) (a i : Nat) : (s.setBit a i).hostOut = s.hostOut := rfl
@[simp] theorem State.setBit_parts (s : State) (a i : Nat) : (s.setBit a i).parts = s.parts := rfl
@[simp] theorem State.setBit_trust (s : State) (a i : Nat) : (s.setBit a i).trust = s.trust := rfl
@[simp] theorem State.setBit_keys (s : State) (a i : Nat) : (s.setBit a i).keys = s.keys := rfl
@[simp] theorem State.setBit_spdm (s : State) (a i : Nat) : (s.setBit a i).spdm = s.spdm := rfl
@[simp] theorem State.setBit_faults (s : State) (a i : Nat) : (s.setBit a i).faults = s.faults := rfl
@[simp] theorem State.setBit_pairs (s : State) (a i : Nat) : (s.setBit a i).pairs = s.pairs := rfl
@[simp] theorem State.setBit_linkSent (s : State) (a i : Nat) : (s.setBit a i).linkSent = s.linkSent := rfl
@[simp] theorem State.setBit_pairOut (s : State) (a i : Nat) : (s.setBit a i).pairOut = s.pairOut := rfl
@[simp] theorem State.setBit_power (s : State) (a i : Nat) : (s.setBit a i).power = s.power := rfl
@[simp] theorem State.setBit_shell (s : State) (a i : Nat) : (s.setBit a i).shell = s.shell := rfl
@[simp] theorem State.setBit_dbg (s : State) (a i : Nat) : (s.setBit a i).dbg = s.dbg := rfl

/-! State.clearBit. -/

@[simp] theorem State.clearBit_pending (s : State) (a i : Nat) : (s.clearBit a i).pending = s.pending := rfl
@[simp] theorem State.clearBit_fresh (s : State) (a i : Nat) : (s.clearBit a i).fresh = s.fresh := rfl
@[simp] theorem State.clearBit_ids (s : State) (a i : Nat) : (s.clearBit a i).ids = s.ids := rfl
@[simp] theorem State.clearBit_accum (s : State) (a i : Nat) : (s.clearBit a i).accum = s.accum := rfl
@[simp] theorem State.clearBit_ahead (s : State) (a i : Nat) : (s.clearBit a i).ahead = s.ahead := rfl
@[simp] theorem State.clearBit_latch (s : State) (a i : Nat) : (s.clearBit a i).latch = s.latch := rfl
@[simp] theorem State.clearBit_readData (s : State) (a i : Nat) : (s.clearBit a i).readData = s.readData := rfl
@[simp] theorem State.clearBit_mgmtAddr (s : State) (a i : Nat) : (s.clearBit a i).mgmtAddr = s.mgmtAddr := rfl
@[simp] theorem State.clearBit_response (s : State) (a i : Nat) : (s.clearBit a i).response = s.response := rfl
@[simp] theorem State.clearBit_tb (s : State) (a i : Nat) : (s.clearBit a i).tb = s.tb := rfl
@[simp] theorem State.clearBit_arrs (s : State) (a i : Nat) : (s.clearBit a i).arrs = s.arrs := rfl
@[simp] theorem State.clearBit_slices (s : State) (a i : Nat) : (s.clearBit a i).slices = s.slices := rfl
@[simp] theorem State.clearBit_mids (s : State) (a i : Nat) : (s.clearBit a i).mids = s.mids := rfl
@[simp] theorem State.clearBit_hbm (s : State) (a i : Nat) : (s.clearBit a i).hbm = s.hbm := rfl
@[simp] theorem State.clearBit_hbmCode (s : State) (a i : Nat) : (s.clearBit a i).hbmCode = s.hbmCode := rfl
@[simp] theorem State.clearBit_far (s : State) (a i : Nat) : (s.clearBit a i).far = s.far := rfl
@[simp] theorem State.clearBit_farPages (s : State) (a i : Nat) : (s.clearBit a i).farPages = s.farPages := rfl
@[simp] theorem State.clearBit_reqs (s : State) (a i : Nat) : (s.clearBit a i).reqs = s.reqs := rfl
@[simp] theorem State.clearBit_reads (s : State) (a i : Nat) : (s.clearBit a i).reads = s.reads := rfl
@[simp] theorem State.clearBit_fills (s : State) (a i : Nat) : (s.clearBit a i).fills = s.fills := rfl
@[simp] theorem State.clearBit_sideFills (s : State) (a i : Nat) : (s.clearBit a i).sideFills = s.sideFills := rfl
@[simp] theorem State.clearBit_writeAcks (s : State) (a i : Nat) : (s.clearBit a i).writeAcks = s.writeAcks := rfl
@[simp] theorem State.clearBit_couriers (s : State) (a i : Nat) : (s.clearBit a i).couriers = s.couriers := rfl
@[simp] theorem State.clearBit_held (s : State) (a i : Nat) : (s.clearBit a i).held = s.held := rfl
@[simp] theorem State.clearBit_granted (s : State) (a i : Nat) : (s.clearBit a i).granted = s.granted := rfl
@[simp] theorem State.clearBit_halves (s : State) (a i : Nat) : (s.clearBit a i).halves = s.halves := rfl
@[simp] theorem State.clearBit_holds (s : State) (a i : Nat) : (s.clearBit a i).holds = s.holds := rfl
@[simp] theorem State.clearBit_transit (s : State) (a i : Nat) : (s.clearBit a i).transit = s.transit := rfl
@[simp] theorem State.clearBit_deadUnits (s : State) (a i : Nat) : (s.clearBit a i).deadUnits = s.deadUnits := rfl
@[simp] theorem State.clearBit_ports (s : State) (a i : Nat) : (s.clearBit a i).ports = s.ports := rfl
@[simp] theorem State.clearBit_mailbags (s : State) (a i : Nat) : (s.clearBit a i).mailbags = s.mailbags := rfl
@[simp] theorem State.clearBit_works (s : State) (a i : Nat) : (s.clearBit a i).works = s.works := rfl
@[simp] theorem State.clearBit_hostOut (s : State) (a i : Nat) : (s.clearBit a i).hostOut = s.hostOut := rfl
@[simp] theorem State.clearBit_parts (s : State) (a i : Nat) : (s.clearBit a i).parts = s.parts := rfl
@[simp] theorem State.clearBit_trust (s : State) (a i : Nat) : (s.clearBit a i).trust = s.trust := rfl
@[simp] theorem State.clearBit_keys (s : State) (a i : Nat) : (s.clearBit a i).keys = s.keys := rfl
@[simp] theorem State.clearBit_spdm (s : State) (a i : Nat) : (s.clearBit a i).spdm = s.spdm := rfl
@[simp] theorem State.clearBit_faults (s : State) (a i : Nat) : (s.clearBit a i).faults = s.faults := rfl
@[simp] theorem State.clearBit_pairs (s : State) (a i : Nat) : (s.clearBit a i).pairs = s.pairs := rfl
@[simp] theorem State.clearBit_linkSent (s : State) (a i : Nat) : (s.clearBit a i).linkSent = s.linkSent := rfl
@[simp] theorem State.clearBit_pairOut (s : State) (a i : Nat) : (s.clearBit a i).pairOut = s.pairOut := rfl
@[simp] theorem State.clearBit_power (s : State) (a i : Nat) : (s.clearBit a i).power = s.power := rfl
@[simp] theorem State.clearBit_shell (s : State) (a i : Nat) : (s.clearBit a i).shell = s.shell := rfl
@[simp] theorem State.clearBit_dbg (s : State) (a i : Nat) : (s.clearBit a i).dbg = s.dbg := rfl

/-! State.setPairState. -/

@[simp] theorem State.setPairState_pending (s : State) (p st : Nat) : (s.setPairState p st).pending = s.pending := rfl
@[simp] theorem State.setPairState_fresh (s : State) (p st : Nat) : (s.setPairState p st).fresh = s.fresh := rfl
@[simp] theorem State.setPairState_ids (s : State) (p st : Nat) : (s.setPairState p st).ids = s.ids := rfl
@[simp] theorem State.setPairState_accum (s : State) (p st : Nat) : (s.setPairState p st).accum = s.accum := rfl
@[simp] theorem State.setPairState_ahead (s : State) (p st : Nat) : (s.setPairState p st).ahead = s.ahead := rfl
@[simp] theorem State.setPairState_latch (s : State) (p st : Nat) : (s.setPairState p st).latch = s.latch := rfl
@[simp] theorem State.setPairState_readData (s : State) (p st : Nat) : (s.setPairState p st).readData = s.readData := rfl
@[simp] theorem State.setPairState_mgmtAddr (s : State) (p st : Nat) : (s.setPairState p st).mgmtAddr = s.mgmtAddr := rfl
@[simp] theorem State.setPairState_response (s : State) (p st : Nat) : (s.setPairState p st).response = s.response := rfl
@[simp] theorem State.setPairState_tb (s : State) (p st : Nat) : (s.setPairState p st).tb = s.tb := rfl
@[simp] theorem State.setPairState_arrs (s : State) (p st : Nat) : (s.setPairState p st).arrs = s.arrs := rfl
@[simp] theorem State.setPairState_slices (s : State) (p st : Nat) : (s.setPairState p st).slices = s.slices := rfl
@[simp] theorem State.setPairState_mids (s : State) (p st : Nat) : (s.setPairState p st).mids = s.mids := rfl
@[simp] theorem State.setPairState_hbm (s : State) (p st : Nat) : (s.setPairState p st).hbm = s.hbm := rfl
@[simp] theorem State.setPairState_hbmCode (s : State) (p st : Nat) : (s.setPairState p st).hbmCode = s.hbmCode := rfl
@[simp] theorem State.setPairState_far (s : State) (p st : Nat) : (s.setPairState p st).far = s.far := rfl
@[simp] theorem State.setPairState_farPages (s : State) (p st : Nat) : (s.setPairState p st).farPages = s.farPages := rfl
@[simp] theorem State.setPairState_reqs (s : State) (p st : Nat) : (s.setPairState p st).reqs = s.reqs := rfl
@[simp] theorem State.setPairState_reads (s : State) (p st : Nat) : (s.setPairState p st).reads = s.reads := rfl
@[simp] theorem State.setPairState_fills (s : State) (p st : Nat) : (s.setPairState p st).fills = s.fills := rfl
@[simp] theorem State.setPairState_sideFills (s : State) (p st : Nat) : (s.setPairState p st).sideFills = s.sideFills := rfl
@[simp] theorem State.setPairState_writeAcks (s : State) (p st : Nat) : (s.setPairState p st).writeAcks = s.writeAcks := rfl
@[simp] theorem State.setPairState_couriers (s : State) (p st : Nat) : (s.setPairState p st).couriers = s.couriers := rfl
@[simp] theorem State.setPairState_held (s : State) (p st : Nat) : (s.setPairState p st).held = s.held := rfl
@[simp] theorem State.setPairState_granted (s : State) (p st : Nat) : (s.setPairState p st).granted = s.granted := rfl
@[simp] theorem State.setPairState_halves (s : State) (p st : Nat) : (s.setPairState p st).halves = s.halves := rfl
@[simp] theorem State.setPairState_holds (s : State) (p st : Nat) : (s.setPairState p st).holds = s.holds := rfl
@[simp] theorem State.setPairState_transit (s : State) (p st : Nat) : (s.setPairState p st).transit = s.transit := rfl
@[simp] theorem State.setPairState_deadUnits (s : State) (p st : Nat) : (s.setPairState p st).deadUnits = s.deadUnits := rfl
@[simp] theorem State.setPairState_ports (s : State) (p st : Nat) : (s.setPairState p st).ports = s.ports := rfl
@[simp] theorem State.setPairState_mailbags (s : State) (p st : Nat) : (s.setPairState p st).mailbags = s.mailbags := rfl
@[simp] theorem State.setPairState_works (s : State) (p st : Nat) : (s.setPairState p st).works = s.works := rfl
@[simp] theorem State.setPairState_hostOut (s : State) (p st : Nat) : (s.setPairState p st).hostOut = s.hostOut := rfl
@[simp] theorem State.setPairState_parts (s : State) (p st : Nat) : (s.setPairState p st).parts = s.parts := rfl
@[simp] theorem State.setPairState_trust (s : State) (p st : Nat) : (s.setPairState p st).trust = s.trust := rfl
@[simp] theorem State.setPairState_keys (s : State) (p st : Nat) : (s.setPairState p st).keys = s.keys := rfl
@[simp] theorem State.setPairState_spdm (s : State) (p st : Nat) : (s.setPairState p st).spdm = s.spdm := rfl
@[simp] theorem State.setPairState_faults (s : State) (p st : Nat) : (s.setPairState p st).faults = s.faults := rfl
@[simp] theorem State.setPairState_pairs (s : State) (p st : Nat) : (s.setPairState p st).pairs = s.pairs := rfl
@[simp] theorem State.setPairState_linkSent (s : State) (p st : Nat) : (s.setPairState p st).linkSent = s.linkSent := rfl
@[simp] theorem State.setPairState_pairOut (s : State) (p st : Nat) : (s.setPairState p st).pairOut = s.pairOut := rfl
@[simp] theorem State.setPairState_power (s : State) (p st : Nat) : (s.setPairState p st).power = s.power := rfl
@[simp] theorem State.setPairState_shell (s : State) (p st : Nat) : (s.setPairState p st).shell = s.shell := rfl
@[simp] theorem State.setPairState_dbg (s : State) (p st : Nat) : (s.setPairState p st).dbg = s.dbg := rfl

/-! State.setLastStatus. -/

@[simp] theorem State.setLastStatus_pending (s : State) (p st : Nat) : (s.setLastStatus p st).pending = s.pending := rfl
@[simp] theorem State.setLastStatus_fresh (s : State) (p st : Nat) : (s.setLastStatus p st).fresh = s.fresh := rfl
@[simp] theorem State.setLastStatus_ids (s : State) (p st : Nat) : (s.setLastStatus p st).ids = s.ids := rfl
@[simp] theorem State.setLastStatus_accum (s : State) (p st : Nat) : (s.setLastStatus p st).accum = s.accum := rfl
@[simp] theorem State.setLastStatus_ahead (s : State) (p st : Nat) : (s.setLastStatus p st).ahead = s.ahead := rfl
@[simp] theorem State.setLastStatus_latch (s : State) (p st : Nat) : (s.setLastStatus p st).latch = s.latch := rfl
@[simp] theorem State.setLastStatus_readData (s : State) (p st : Nat) : (s.setLastStatus p st).readData = s.readData := rfl
@[simp] theorem State.setLastStatus_mgmtAddr (s : State) (p st : Nat) : (s.setLastStatus p st).mgmtAddr = s.mgmtAddr := rfl
@[simp] theorem State.setLastStatus_response (s : State) (p st : Nat) : (s.setLastStatus p st).response = s.response := rfl
@[simp] theorem State.setLastStatus_tb (s : State) (p st : Nat) : (s.setLastStatus p st).tb = s.tb := rfl
@[simp] theorem State.setLastStatus_arrs (s : State) (p st : Nat) : (s.setLastStatus p st).arrs = s.arrs := rfl
@[simp] theorem State.setLastStatus_slices (s : State) (p st : Nat) : (s.setLastStatus p st).slices = s.slices := rfl
@[simp] theorem State.setLastStatus_mids (s : State) (p st : Nat) : (s.setLastStatus p st).mids = s.mids := rfl
@[simp] theorem State.setLastStatus_hbm (s : State) (p st : Nat) : (s.setLastStatus p st).hbm = s.hbm := rfl
@[simp] theorem State.setLastStatus_hbmCode (s : State) (p st : Nat) : (s.setLastStatus p st).hbmCode = s.hbmCode := rfl
@[simp] theorem State.setLastStatus_far (s : State) (p st : Nat) : (s.setLastStatus p st).far = s.far := rfl
@[simp] theorem State.setLastStatus_farPages (s : State) (p st : Nat) : (s.setLastStatus p st).farPages = s.farPages := rfl
@[simp] theorem State.setLastStatus_reqs (s : State) (p st : Nat) : (s.setLastStatus p st).reqs = s.reqs := rfl
@[simp] theorem State.setLastStatus_reads (s : State) (p st : Nat) : (s.setLastStatus p st).reads = s.reads := rfl
@[simp] theorem State.setLastStatus_fills (s : State) (p st : Nat) : (s.setLastStatus p st).fills = s.fills := rfl
@[simp] theorem State.setLastStatus_sideFills (s : State) (p st : Nat) : (s.setLastStatus p st).sideFills = s.sideFills := rfl
@[simp] theorem State.setLastStatus_writeAcks (s : State) (p st : Nat) : (s.setLastStatus p st).writeAcks = s.writeAcks := rfl
@[simp] theorem State.setLastStatus_couriers (s : State) (p st : Nat) : (s.setLastStatus p st).couriers = s.couriers := rfl
@[simp] theorem State.setLastStatus_held (s : State) (p st : Nat) : (s.setLastStatus p st).held = s.held := rfl
@[simp] theorem State.setLastStatus_granted (s : State) (p st : Nat) : (s.setLastStatus p st).granted = s.granted := rfl
@[simp] theorem State.setLastStatus_halves (s : State) (p st : Nat) : (s.setLastStatus p st).halves = s.halves := rfl
@[simp] theorem State.setLastStatus_holds (s : State) (p st : Nat) : (s.setLastStatus p st).holds = s.holds := rfl
@[simp] theorem State.setLastStatus_transit (s : State) (p st : Nat) : (s.setLastStatus p st).transit = s.transit := rfl
@[simp] theorem State.setLastStatus_deadUnits (s : State) (p st : Nat) : (s.setLastStatus p st).deadUnits = s.deadUnits := rfl
@[simp] theorem State.setLastStatus_ports (s : State) (p st : Nat) : (s.setLastStatus p st).ports = s.ports := rfl
@[simp] theorem State.setLastStatus_mailbags (s : State) (p st : Nat) : (s.setLastStatus p st).mailbags = s.mailbags := rfl
@[simp] theorem State.setLastStatus_works (s : State) (p st : Nat) : (s.setLastStatus p st).works = s.works := rfl
@[simp] theorem State.setLastStatus_hostOut (s : State) (p st : Nat) : (s.setLastStatus p st).hostOut = s.hostOut := rfl
@[simp] theorem State.setLastStatus_parts (s : State) (p st : Nat) : (s.setLastStatus p st).parts = s.parts := rfl
@[simp] theorem State.setLastStatus_trust (s : State) (p st : Nat) : (s.setLastStatus p st).trust = s.trust := rfl
@[simp] theorem State.setLastStatus_keys (s : State) (p st : Nat) : (s.setLastStatus p st).keys = s.keys := rfl
@[simp] theorem State.setLastStatus_spdm (s : State) (p st : Nat) : (s.setLastStatus p st).spdm = s.spdm := rfl
@[simp] theorem State.setLastStatus_faults (s : State) (p st : Nat) : (s.setLastStatus p st).faults = s.faults := rfl
@[simp] theorem State.setLastStatus_pairs (s : State) (p st : Nat) : (s.setLastStatus p st).pairs = s.pairs := rfl
@[simp] theorem State.setLastStatus_linkSent (s : State) (p st : Nat) : (s.setLastStatus p st).linkSent = s.linkSent := rfl
@[simp] theorem State.setLastStatus_pairOut (s : State) (p st : Nat) : (s.setLastStatus p st).pairOut = s.pairOut := rfl
@[simp] theorem State.setLastStatus_power (s : State) (p st : Nat) : (s.setLastStatus p st).power = s.power := rfl
@[simp] theorem State.setLastStatus_shell (s : State) (p st : Nat) : (s.setLastStatus p st).shell = s.shell := rfl
@[simp] theorem State.setLastStatus_dbg (s : State) (p st : Nat) : (s.setLastStatus p st).dbg = s.dbg := rfl

/-! State.latchHi. -/

@[simp] theorem State.latchHi_pending (s : State) (hi : Nat) : (s.latchHi hi).pending = s.pending := rfl
@[simp] theorem State.latchHi_fresh (s : State) (hi : Nat) : (s.latchHi hi).fresh = s.fresh := rfl
@[simp] theorem State.latchHi_ids (s : State) (hi : Nat) : (s.latchHi hi).ids = s.ids := rfl
@[simp] theorem State.latchHi_accum (s : State) (hi : Nat) : (s.latchHi hi).accum = s.accum := rfl
@[simp] theorem State.latchHi_ahead (s : State) (hi : Nat) : (s.latchHi hi).ahead = s.ahead := rfl
@[simp] theorem State.latchHi_latch (s : State) (hi : Nat) : (s.latchHi hi).latch = s.latch := rfl
@[simp] theorem State.latchHi_readData (s : State) (hi : Nat) : (s.latchHi hi).readData = s.readData := rfl
@[simp] theorem State.latchHi_mgmtAddr (s : State) (hi : Nat) : (s.latchHi hi).mgmtAddr = s.mgmtAddr := rfl
@[simp] theorem State.latchHi_response (s : State) (hi : Nat) : (s.latchHi hi).response = s.response := rfl
@[simp] theorem State.latchHi_tb (s : State) (hi : Nat) : (s.latchHi hi).tb = s.tb := rfl
@[simp] theorem State.latchHi_arrs (s : State) (hi : Nat) : (s.latchHi hi).arrs = s.arrs := rfl
@[simp] theorem State.latchHi_slices (s : State) (hi : Nat) : (s.latchHi hi).slices = s.slices := rfl
@[simp] theorem State.latchHi_mids (s : State) (hi : Nat) : (s.latchHi hi).mids = s.mids := rfl
@[simp] theorem State.latchHi_hbm (s : State) (hi : Nat) : (s.latchHi hi).hbm = s.hbm := rfl
@[simp] theorem State.latchHi_hbmCode (s : State) (hi : Nat) : (s.latchHi hi).hbmCode = s.hbmCode := rfl
@[simp] theorem State.latchHi_far (s : State) (hi : Nat) : (s.latchHi hi).far = s.far := rfl
@[simp] theorem State.latchHi_farPages (s : State) (hi : Nat) : (s.latchHi hi).farPages = s.farPages := rfl
@[simp] theorem State.latchHi_reqs (s : State) (hi : Nat) : (s.latchHi hi).reqs = s.reqs := rfl
@[simp] theorem State.latchHi_reads (s : State) (hi : Nat) : (s.latchHi hi).reads = s.reads := rfl
@[simp] theorem State.latchHi_fills (s : State) (hi : Nat) : (s.latchHi hi).fills = s.fills := rfl
@[simp] theorem State.latchHi_sideFills (s : State) (hi : Nat) : (s.latchHi hi).sideFills = s.sideFills := rfl
@[simp] theorem State.latchHi_writeAcks (s : State) (hi : Nat) : (s.latchHi hi).writeAcks = s.writeAcks := rfl
@[simp] theorem State.latchHi_couriers (s : State) (hi : Nat) : (s.latchHi hi).couriers = s.couriers := rfl
@[simp] theorem State.latchHi_held (s : State) (hi : Nat) : (s.latchHi hi).held = s.held := rfl
@[simp] theorem State.latchHi_granted (s : State) (hi : Nat) : (s.latchHi hi).granted = s.granted := rfl
@[simp] theorem State.latchHi_halves (s : State) (hi : Nat) : (s.latchHi hi).halves = s.halves := rfl
@[simp] theorem State.latchHi_holds (s : State) (hi : Nat) : (s.latchHi hi).holds = s.holds := rfl
@[simp] theorem State.latchHi_transit (s : State) (hi : Nat) : (s.latchHi hi).transit = s.transit := rfl
@[simp] theorem State.latchHi_deadUnits (s : State) (hi : Nat) : (s.latchHi hi).deadUnits = s.deadUnits := rfl
@[simp] theorem State.latchHi_ports (s : State) (hi : Nat) : (s.latchHi hi).ports = s.ports := rfl
@[simp] theorem State.latchHi_mailbags (s : State) (hi : Nat) : (s.latchHi hi).mailbags = s.mailbags := rfl
@[simp] theorem State.latchHi_works (s : State) (hi : Nat) : (s.latchHi hi).works = s.works := rfl
@[simp] theorem State.latchHi_hostOut (s : State) (hi : Nat) : (s.latchHi hi).hostOut = s.hostOut := rfl
@[simp] theorem State.latchHi_parts (s : State) (hi : Nat) : (s.latchHi hi).parts = s.parts := rfl
@[simp] theorem State.latchHi_trust (s : State) (hi : Nat) : (s.latchHi hi).trust = s.trust := rfl
@[simp] theorem State.latchHi_keys (s : State) (hi : Nat) : (s.latchHi hi).keys = s.keys := rfl
@[simp] theorem State.latchHi_spdm (s : State) (hi : Nat) : (s.latchHi hi).spdm = s.spdm := rfl
@[simp] theorem State.latchHi_faults (s : State) (hi : Nat) : (s.latchHi hi).faults = s.faults := rfl
@[simp] theorem State.latchHi_pairs (s : State) (hi : Nat) : (s.latchHi hi).pairs = s.pairs := rfl
@[simp] theorem State.latchHi_linkSent (s : State) (hi : Nat) : (s.latchHi hi).linkSent = s.linkSent := rfl
@[simp] theorem State.latchHi_pairOut (s : State) (hi : Nat) : (s.latchHi hi).pairOut = s.pairOut := rfl
@[simp] theorem State.latchHi_power (s : State) (hi : Nat) : (s.latchHi hi).power = s.power := rfl
@[simp] theorem State.latchHi_shell (s : State) (hi : Nat) : (s.latchHi hi).shell = s.shell := rfl
@[simp] theorem State.latchHi_dbg (s : State) (hi : Nat) : (s.latchHi hi).dbg = s.dbg := rfl

/-! State.setLatch. -/

@[simp] theorem State.setLatch_pending (s : State) (a : Nat) (v : W32) : (s.setLatch a v).pending = s.pending := rfl
@[simp] theorem State.setLatch_fresh (s : State) (a : Nat) (v : W32) : (s.setLatch a v).fresh = s.fresh := rfl
@[simp] theorem State.setLatch_ids (s : State) (a : Nat) (v : W32) : (s.setLatch a v).ids = s.ids := rfl
@[simp] theorem State.setLatch_regs (s : State) (a : Nat) (v : W32) : (s.setLatch a v).regs = s.regs := rfl
@[simp] theorem State.setLatch_accum (s : State) (a : Nat) (v : W32) : (s.setLatch a v).accum = s.accum := rfl
@[simp] theorem State.setLatch_ahead (s : State) (a : Nat) (v : W32) : (s.setLatch a v).ahead = s.ahead := rfl
@[simp] theorem State.setLatch_latch (s : State) (a : Nat) (v : W32) : (s.setLatch a v).latch = Tab.put s.latch a v := rfl
@[simp] theorem State.setLatch_readData (s : State) (a : Nat) (v : W32) : (s.setLatch a v).readData = s.readData := rfl
@[simp] theorem State.setLatch_mgmtAddr (s : State) (a : Nat) (v : W32) : (s.setLatch a v).mgmtAddr = s.mgmtAddr := rfl
@[simp] theorem State.setLatch_response (s : State) (a : Nat) (v : W32) : (s.setLatch a v).response = s.response := rfl
@[simp] theorem State.setLatch_tb (s : State) (a : Nat) (v : W32) : (s.setLatch a v).tb = s.tb := rfl
@[simp] theorem State.setLatch_arrs (s : State) (a : Nat) (v : W32) : (s.setLatch a v).arrs = s.arrs := rfl
@[simp] theorem State.setLatch_slices (s : State) (a : Nat) (v : W32) : (s.setLatch a v).slices = s.slices := rfl
@[simp] theorem State.setLatch_mids (s : State) (a : Nat) (v : W32) : (s.setLatch a v).mids = s.mids := rfl
@[simp] theorem State.setLatch_hbm (s : State) (a : Nat) (v : W32) : (s.setLatch a v).hbm = s.hbm := rfl
@[simp] theorem State.setLatch_hbmCode (s : State) (a : Nat) (v : W32) : (s.setLatch a v).hbmCode = s.hbmCode := rfl
@[simp] theorem State.setLatch_far (s : State) (a : Nat) (v : W32) : (s.setLatch a v).far = s.far := rfl
@[simp] theorem State.setLatch_farPages (s : State) (a : Nat) (v : W32) : (s.setLatch a v).farPages = s.farPages := rfl
@[simp] theorem State.setLatch_reqs (s : State) (a : Nat) (v : W32) : (s.setLatch a v).reqs = s.reqs := rfl
@[simp] theorem State.setLatch_reads (s : State) (a : Nat) (v : W32) : (s.setLatch a v).reads = s.reads := rfl
@[simp] theorem State.setLatch_fills (s : State) (a : Nat) (v : W32) : (s.setLatch a v).fills = s.fills := rfl
@[simp] theorem State.setLatch_sideFills (s : State) (a : Nat) (v : W32) : (s.setLatch a v).sideFills = s.sideFills := rfl
@[simp] theorem State.setLatch_writeAcks (s : State) (a : Nat) (v : W32) : (s.setLatch a v).writeAcks = s.writeAcks := rfl
@[simp] theorem State.setLatch_couriers (s : State) (a : Nat) (v : W32) : (s.setLatch a v).couriers = s.couriers := rfl
@[simp] theorem State.setLatch_held (s : State) (a : Nat) (v : W32) : (s.setLatch a v).held = s.held := rfl
@[simp] theorem State.setLatch_granted (s : State) (a : Nat) (v : W32) : (s.setLatch a v).granted = s.granted := rfl
@[simp] theorem State.setLatch_halves (s : State) (a : Nat) (v : W32) : (s.setLatch a v).halves = s.halves := rfl
@[simp] theorem State.setLatch_holds (s : State) (a : Nat) (v : W32) : (s.setLatch a v).holds = s.holds := rfl
@[simp] theorem State.setLatch_transit (s : State) (a : Nat) (v : W32) : (s.setLatch a v).transit = s.transit := rfl
@[simp] theorem State.setLatch_deadUnits (s : State) (a : Nat) (v : W32) : (s.setLatch a v).deadUnits = s.deadUnits := rfl
@[simp] theorem State.setLatch_ports (s : State) (a : Nat) (v : W32) : (s.setLatch a v).ports = s.ports := rfl
@[simp] theorem State.setLatch_mailbags (s : State) (a : Nat) (v : W32) : (s.setLatch a v).mailbags = s.mailbags := rfl
@[simp] theorem State.setLatch_works (s : State) (a : Nat) (v : W32) : (s.setLatch a v).works = s.works := rfl
@[simp] theorem State.setLatch_hostOut (s : State) (a : Nat) (v : W32) : (s.setLatch a v).hostOut = s.hostOut := rfl
@[simp] theorem State.setLatch_parts (s : State) (a : Nat) (v : W32) : (s.setLatch a v).parts = s.parts := rfl
@[simp] theorem State.setLatch_trust (s : State) (a : Nat) (v : W32) : (s.setLatch a v).trust = s.trust := rfl
@[simp] theorem State.setLatch_keys (s : State) (a : Nat) (v : W32) : (s.setLatch a v).keys = s.keys := rfl
@[simp] theorem State.setLatch_spdm (s : State) (a : Nat) (v : W32) : (s.setLatch a v).spdm = s.spdm := rfl
@[simp] theorem State.setLatch_faults (s : State) (a : Nat) (v : W32) : (s.setLatch a v).faults = s.faults := rfl
@[simp] theorem State.setLatch_pairs (s : State) (a : Nat) (v : W32) : (s.setLatch a v).pairs = s.pairs := rfl
@[simp] theorem State.setLatch_linkSent (s : State) (a : Nat) (v : W32) : (s.setLatch a v).linkSent = s.linkSent := rfl
@[simp] theorem State.setLatch_pairOut (s : State) (a : Nat) (v : W32) : (s.setLatch a v).pairOut = s.pairOut := rfl
@[simp] theorem State.setLatch_power (s : State) (a : Nat) (v : W32) : (s.setLatch a v).power = s.power := rfl
@[simp] theorem State.setLatch_shell (s : State) (a : Nat) (v : W32) : (s.setLatch a v).shell = s.shell := rfl
@[simp] theorem State.setLatch_dbg (s : State) (a : Nat) (v : W32) : (s.setLatch a v).dbg = s.dbg := rfl

/-! State.tally. -/

@[simp] theorem State.tally_pending (s : State) (a : Nat) (f : Nat → Nat) : (s.tally a f).pending = s.pending := by unfold State.tally; split <;> rfl
@[simp] theorem State.tally_fresh (s : State) (a : Nat) (f : Nat → Nat) : (s.tally a f).fresh = s.fresh := by unfold State.tally; split <;> rfl
@[simp] theorem State.tally_ids (s : State) (a : Nat) (f : Nat → Nat) : (s.tally a f).ids = s.ids := by unfold State.tally; split <;> rfl
@[simp] theorem State.tally_regs (s : State) (a : Nat) (f : Nat → Nat) : (s.tally a f).regs = s.regs := by unfold State.tally; split <;> rfl
@[simp] theorem State.tally_latch (s : State) (a : Nat) (f : Nat → Nat) : (s.tally a f).latch = s.latch := by unfold State.tally; split <;> rfl
@[simp] theorem State.tally_readData (s : State) (a : Nat) (f : Nat → Nat) : (s.tally a f).readData = s.readData := by unfold State.tally; split <;> rfl
@[simp] theorem State.tally_mgmtAddr (s : State) (a : Nat) (f : Nat → Nat) : (s.tally a f).mgmtAddr = s.mgmtAddr := by unfold State.tally; split <;> rfl
@[simp] theorem State.tally_response (s : State) (a : Nat) (f : Nat → Nat) : (s.tally a f).response = s.response := by unfold State.tally; split <;> rfl
@[simp] theorem State.tally_tb (s : State) (a : Nat) (f : Nat → Nat) : (s.tally a f).tb = s.tb := by unfold State.tally; split <;> rfl
@[simp] theorem State.tally_arrs (s : State) (a : Nat) (f : Nat → Nat) : (s.tally a f).arrs = s.arrs := by unfold State.tally; split <;> rfl
@[simp] theorem State.tally_slices (s : State) (a : Nat) (f : Nat → Nat) : (s.tally a f).slices = s.slices := by unfold State.tally; split <;> rfl
@[simp] theorem State.tally_mids (s : State) (a : Nat) (f : Nat → Nat) : (s.tally a f).mids = s.mids := by unfold State.tally; split <;> rfl
@[simp] theorem State.tally_hbm (s : State) (a : Nat) (f : Nat → Nat) : (s.tally a f).hbm = s.hbm := by unfold State.tally; split <;> rfl
@[simp] theorem State.tally_hbmCode (s : State) (a : Nat) (f : Nat → Nat) : (s.tally a f).hbmCode = s.hbmCode := by unfold State.tally; split <;> rfl
@[simp] theorem State.tally_far (s : State) (a : Nat) (f : Nat → Nat) : (s.tally a f).far = s.far := by unfold State.tally; split <;> rfl
@[simp] theorem State.tally_farPages (s : State) (a : Nat) (f : Nat → Nat) : (s.tally a f).farPages = s.farPages := by unfold State.tally; split <;> rfl
@[simp] theorem State.tally_reqs (s : State) (a : Nat) (f : Nat → Nat) : (s.tally a f).reqs = s.reqs := by unfold State.tally; split <;> rfl
@[simp] theorem State.tally_reads (s : State) (a : Nat) (f : Nat → Nat) : (s.tally a f).reads = s.reads := by unfold State.tally; split <;> rfl
@[simp] theorem State.tally_fills (s : State) (a : Nat) (f : Nat → Nat) : (s.tally a f).fills = s.fills := by unfold State.tally; split <;> rfl
@[simp] theorem State.tally_sideFills (s : State) (a : Nat) (f : Nat → Nat) : (s.tally a f).sideFills = s.sideFills := by unfold State.tally; split <;> rfl
@[simp] theorem State.tally_writeAcks (s : State) (a : Nat) (f : Nat → Nat) : (s.tally a f).writeAcks = s.writeAcks := by unfold State.tally; split <;> rfl
@[simp] theorem State.tally_couriers (s : State) (a : Nat) (f : Nat → Nat) : (s.tally a f).couriers = s.couriers := by unfold State.tally; split <;> rfl
@[simp] theorem State.tally_held (s : State) (a : Nat) (f : Nat → Nat) : (s.tally a f).held = s.held := by unfold State.tally; split <;> rfl
@[simp] theorem State.tally_granted (s : State) (a : Nat) (f : Nat → Nat) : (s.tally a f).granted = s.granted := by unfold State.tally; split <;> rfl
@[simp] theorem State.tally_halves (s : State) (a : Nat) (f : Nat → Nat) : (s.tally a f).halves = s.halves := by unfold State.tally; split <;> rfl
@[simp] theorem State.tally_holds (s : State) (a : Nat) (f : Nat → Nat) : (s.tally a f).holds = s.holds := by unfold State.tally; split <;> rfl
@[simp] theorem State.tally_transit (s : State) (a : Nat) (f : Nat → Nat) : (s.tally a f).transit = s.transit := by unfold State.tally; split <;> rfl
@[simp] theorem State.tally_deadUnits (s : State) (a : Nat) (f : Nat → Nat) : (s.tally a f).deadUnits = s.deadUnits := by unfold State.tally; split <;> rfl
@[simp] theorem State.tally_ports (s : State) (a : Nat) (f : Nat → Nat) : (s.tally a f).ports = s.ports := by unfold State.tally; split <;> rfl
@[simp] theorem State.tally_mailbags (s : State) (a : Nat) (f : Nat → Nat) : (s.tally a f).mailbags = s.mailbags := by unfold State.tally; split <;> rfl
@[simp] theorem State.tally_works (s : State) (a : Nat) (f : Nat → Nat) : (s.tally a f).works = s.works := by unfold State.tally; split <;> rfl
@[simp] theorem State.tally_hostOut (s : State) (a : Nat) (f : Nat → Nat) : (s.tally a f).hostOut = s.hostOut := by unfold State.tally; split <;> rfl
@[simp] theorem State.tally_parts (s : State) (a : Nat) (f : Nat → Nat) : (s.tally a f).parts = s.parts := by unfold State.tally; split <;> rfl
@[simp] theorem State.tally_trust (s : State) (a : Nat) (f : Nat → Nat) : (s.tally a f).trust = s.trust := by unfold State.tally; split <;> rfl
@[simp] theorem State.tally_keys (s : State) (a : Nat) (f : Nat → Nat) : (s.tally a f).keys = s.keys := by unfold State.tally; split <;> rfl
@[simp] theorem State.tally_spdm (s : State) (a : Nat) (f : Nat → Nat) : (s.tally a f).spdm = s.spdm := by unfold State.tally; split <;> rfl
@[simp] theorem State.tally_faults (s : State) (a : Nat) (f : Nat → Nat) : (s.tally a f).faults = s.faults := by unfold State.tally; split <;> rfl
@[simp] theorem State.tally_pairs (s : State) (a : Nat) (f : Nat → Nat) : (s.tally a f).pairs = s.pairs := by unfold State.tally; split <;> rfl
@[simp] theorem State.tally_linkSent (s : State) (a : Nat) (f : Nat → Nat) : (s.tally a f).linkSent = s.linkSent := by unfold State.tally; split <;> rfl
@[simp] theorem State.tally_pairOut (s : State) (a : Nat) (f : Nat → Nat) : (s.tally a f).pairOut = s.pairOut := by unfold State.tally; split <;> rfl
@[simp] theorem State.tally_power (s : State) (a : Nat) (f : Nat → Nat) : (s.tally a f).power = s.power := by unfold State.tally; split <;> rfl
@[simp] theorem State.tally_shell (s : State) (a : Nat) (f : Nat → Nat) : (s.tally a f).shell = s.shell := by unfold State.tally; split <;> rfl
@[simp] theorem State.tally_dbg (s : State) (a : Nat) (f : Nat → Nat) : (s.tally a f).dbg = s.dbg := by unfold State.tally; split <;> rfl

/-! State.count. -/

@[simp] theorem State.count_pending (s : State) (a n : Nat) : (s.count a n).pending = s.pending := by unfold State.count State.tally; split <;> rfl
@[simp] theorem State.count_fresh (s : State) (a n : Nat) : (s.count a n).fresh = s.fresh := by unfold State.count State.tally; split <;> rfl
@[simp] theorem State.count_ids (s : State) (a n : Nat) : (s.count a n).ids = s.ids := by unfold State.count State.tally; split <;> rfl
@[simp] theorem State.count_regs (s : State) (a n : Nat) : (s.count a n).regs = s.regs := by unfold State.count State.tally; split <;> rfl
@[simp] theorem State.count_latch (s : State) (a n : Nat) : (s.count a n).latch = s.latch := by unfold State.count State.tally; split <;> rfl
@[simp] theorem State.count_readData (s : State) (a n : Nat) : (s.count a n).readData = s.readData := by unfold State.count State.tally; split <;> rfl
@[simp] theorem State.count_mgmtAddr (s : State) (a n : Nat) : (s.count a n).mgmtAddr = s.mgmtAddr := by unfold State.count State.tally; split <;> rfl
@[simp] theorem State.count_response (s : State) (a n : Nat) : (s.count a n).response = s.response := by unfold State.count State.tally; split <;> rfl
@[simp] theorem State.count_tb (s : State) (a n : Nat) : (s.count a n).tb = s.tb := by unfold State.count State.tally; split <;> rfl
@[simp] theorem State.count_arrs (s : State) (a n : Nat) : (s.count a n).arrs = s.arrs := by unfold State.count State.tally; split <;> rfl
@[simp] theorem State.count_slices (s : State) (a n : Nat) : (s.count a n).slices = s.slices := by unfold State.count State.tally; split <;> rfl
@[simp] theorem State.count_mids (s : State) (a n : Nat) : (s.count a n).mids = s.mids := by unfold State.count State.tally; split <;> rfl
@[simp] theorem State.count_hbm (s : State) (a n : Nat) : (s.count a n).hbm = s.hbm := by unfold State.count State.tally; split <;> rfl
@[simp] theorem State.count_hbmCode (s : State) (a n : Nat) : (s.count a n).hbmCode = s.hbmCode := by unfold State.count State.tally; split <;> rfl
@[simp] theorem State.count_far (s : State) (a n : Nat) : (s.count a n).far = s.far := by unfold State.count State.tally; split <;> rfl
@[simp] theorem State.count_farPages (s : State) (a n : Nat) : (s.count a n).farPages = s.farPages := by unfold State.count State.tally; split <;> rfl
@[simp] theorem State.count_reqs (s : State) (a n : Nat) : (s.count a n).reqs = s.reqs := by unfold State.count State.tally; split <;> rfl
@[simp] theorem State.count_reads (s : State) (a n : Nat) : (s.count a n).reads = s.reads := by unfold State.count State.tally; split <;> rfl
@[simp] theorem State.count_fills (s : State) (a n : Nat) : (s.count a n).fills = s.fills := by unfold State.count State.tally; split <;> rfl
@[simp] theorem State.count_sideFills (s : State) (a n : Nat) : (s.count a n).sideFills = s.sideFills := by unfold State.count State.tally; split <;> rfl
@[simp] theorem State.count_writeAcks (s : State) (a n : Nat) : (s.count a n).writeAcks = s.writeAcks := by unfold State.count State.tally; split <;> rfl
@[simp] theorem State.count_couriers (s : State) (a n : Nat) : (s.count a n).couriers = s.couriers := by unfold State.count State.tally; split <;> rfl
@[simp] theorem State.count_held (s : State) (a n : Nat) : (s.count a n).held = s.held := by unfold State.count State.tally; split <;> rfl
@[simp] theorem State.count_granted (s : State) (a n : Nat) : (s.count a n).granted = s.granted := by unfold State.count State.tally; split <;> rfl
@[simp] theorem State.count_halves (s : State) (a n : Nat) : (s.count a n).halves = s.halves := by unfold State.count State.tally; split <;> rfl
@[simp] theorem State.count_holds (s : State) (a n : Nat) : (s.count a n).holds = s.holds := by unfold State.count State.tally; split <;> rfl
@[simp] theorem State.count_transit (s : State) (a n : Nat) : (s.count a n).transit = s.transit := by unfold State.count State.tally; split <;> rfl
@[simp] theorem State.count_deadUnits (s : State) (a n : Nat) : (s.count a n).deadUnits = s.deadUnits := by unfold State.count State.tally; split <;> rfl
@[simp] theorem State.count_ports (s : State) (a n : Nat) : (s.count a n).ports = s.ports := by unfold State.count State.tally; split <;> rfl
@[simp] theorem State.count_mailbags (s : State) (a n : Nat) : (s.count a n).mailbags = s.mailbags := by unfold State.count State.tally; split <;> rfl
@[simp] theorem State.count_works (s : State) (a n : Nat) : (s.count a n).works = s.works := by unfold State.count State.tally; split <;> rfl
@[simp] theorem State.count_hostOut (s : State) (a n : Nat) : (s.count a n).hostOut = s.hostOut := by unfold State.count State.tally; split <;> rfl
@[simp] theorem State.count_parts (s : State) (a n : Nat) : (s.count a n).parts = s.parts := by unfold State.count State.tally; split <;> rfl
@[simp] theorem State.count_trust (s : State) (a n : Nat) : (s.count a n).trust = s.trust := by unfold State.count State.tally; split <;> rfl
@[simp] theorem State.count_keys (s : State) (a n : Nat) : (s.count a n).keys = s.keys := by unfold State.count State.tally; split <;> rfl
@[simp] theorem State.count_spdm (s : State) (a n : Nat) : (s.count a n).spdm = s.spdm := by unfold State.count State.tally; split <;> rfl
@[simp] theorem State.count_faults (s : State) (a n : Nat) : (s.count a n).faults = s.faults := by unfold State.count State.tally; split <;> rfl
@[simp] theorem State.count_pairs (s : State) (a n : Nat) : (s.count a n).pairs = s.pairs := by unfold State.count State.tally; split <;> rfl
@[simp] theorem State.count_linkSent (s : State) (a n : Nat) : (s.count a n).linkSent = s.linkSent := by unfold State.count State.tally; split <;> rfl
@[simp] theorem State.count_pairOut (s : State) (a n : Nat) : (s.count a n).pairOut = s.pairOut := by unfold State.count State.tally; split <;> rfl
@[simp] theorem State.count_power (s : State) (a n : Nat) : (s.count a n).power = s.power := by unfold State.count State.tally; split <;> rfl
@[simp] theorem State.count_shell (s : State) (a n : Nat) : (s.count a n).shell = s.shell := by unfold State.count State.tally; split <;> rfl
@[simp] theorem State.count_dbg (s : State) (a n : Nat) : (s.count a n).dbg = s.dbg := by unfold State.count State.tally; split <;> rfl

/-! State.partCount. -/

@[simp] theorem State.partCount_pending (s : State) (p i : Nat) : (s.partCount p i).pending = s.pending := by unfold State.partCount State.count State.tally; split <;> rfl
@[simp] theorem State.partCount_fresh (s : State) (p i : Nat) : (s.partCount p i).fresh = s.fresh := by unfold State.partCount State.count State.tally; split <;> rfl
@[simp] theorem State.partCount_ids (s : State) (p i : Nat) : (s.partCount p i).ids = s.ids := by unfold State.partCount State.count State.tally; split <;> rfl
@[simp] theorem State.partCount_regs (s : State) (p i : Nat) : (s.partCount p i).regs = s.regs := by unfold State.partCount State.count State.tally; split <;> rfl
@[simp] theorem State.partCount_latch (s : State) (p i : Nat) : (s.partCount p i).latch = s.latch := by unfold State.partCount State.count State.tally; split <;> rfl
@[simp] theorem State.partCount_readData (s : State) (p i : Nat) : (s.partCount p i).readData = s.readData := by unfold State.partCount State.count State.tally; split <;> rfl
@[simp] theorem State.partCount_mgmtAddr (s : State) (p i : Nat) : (s.partCount p i).mgmtAddr = s.mgmtAddr := by unfold State.partCount State.count State.tally; split <;> rfl
@[simp] theorem State.partCount_response (s : State) (p i : Nat) : (s.partCount p i).response = s.response := by unfold State.partCount State.count State.tally; split <;> rfl
@[simp] theorem State.partCount_tb (s : State) (p i : Nat) : (s.partCount p i).tb = s.tb := by unfold State.partCount State.count State.tally; split <;> rfl
@[simp] theorem State.partCount_arrs (s : State) (p i : Nat) : (s.partCount p i).arrs = s.arrs := by unfold State.partCount State.count State.tally; split <;> rfl
@[simp] theorem State.partCount_slices (s : State) (p i : Nat) : (s.partCount p i).slices = s.slices := by unfold State.partCount State.count State.tally; split <;> rfl
@[simp] theorem State.partCount_mids (s : State) (p i : Nat) : (s.partCount p i).mids = s.mids := by unfold State.partCount State.count State.tally; split <;> rfl
@[simp] theorem State.partCount_hbm (s : State) (p i : Nat) : (s.partCount p i).hbm = s.hbm := by unfold State.partCount State.count State.tally; split <;> rfl
@[simp] theorem State.partCount_hbmCode (s : State) (p i : Nat) : (s.partCount p i).hbmCode = s.hbmCode := by unfold State.partCount State.count State.tally; split <;> rfl
@[simp] theorem State.partCount_far (s : State) (p i : Nat) : (s.partCount p i).far = s.far := by unfold State.partCount State.count State.tally; split <;> rfl
@[simp] theorem State.partCount_farPages (s : State) (p i : Nat) : (s.partCount p i).farPages = s.farPages := by unfold State.partCount State.count State.tally; split <;> rfl
@[simp] theorem State.partCount_reqs (s : State) (p i : Nat) : (s.partCount p i).reqs = s.reqs := by unfold State.partCount State.count State.tally; split <;> rfl
@[simp] theorem State.partCount_reads (s : State) (p i : Nat) : (s.partCount p i).reads = s.reads := by unfold State.partCount State.count State.tally; split <;> rfl
@[simp] theorem State.partCount_fills (s : State) (p i : Nat) : (s.partCount p i).fills = s.fills := by unfold State.partCount State.count State.tally; split <;> rfl
@[simp] theorem State.partCount_sideFills (s : State) (p i : Nat) : (s.partCount p i).sideFills = s.sideFills := by unfold State.partCount State.count State.tally; split <;> rfl
@[simp] theorem State.partCount_writeAcks (s : State) (p i : Nat) : (s.partCount p i).writeAcks = s.writeAcks := by unfold State.partCount State.count State.tally; split <;> rfl
@[simp] theorem State.partCount_couriers (s : State) (p i : Nat) : (s.partCount p i).couriers = s.couriers := by unfold State.partCount State.count State.tally; split <;> rfl
@[simp] theorem State.partCount_held (s : State) (p i : Nat) : (s.partCount p i).held = s.held := by unfold State.partCount State.count State.tally; split <;> rfl
@[simp] theorem State.partCount_granted (s : State) (p i : Nat) : (s.partCount p i).granted = s.granted := by unfold State.partCount State.count State.tally; split <;> rfl
@[simp] theorem State.partCount_halves (s : State) (p i : Nat) : (s.partCount p i).halves = s.halves := by unfold State.partCount State.count State.tally; split <;> rfl
@[simp] theorem State.partCount_holds (s : State) (p i : Nat) : (s.partCount p i).holds = s.holds := by unfold State.partCount State.count State.tally; split <;> rfl
@[simp] theorem State.partCount_transit (s : State) (p i : Nat) : (s.partCount p i).transit = s.transit := by unfold State.partCount State.count State.tally; split <;> rfl
@[simp] theorem State.partCount_deadUnits (s : State) (p i : Nat) : (s.partCount p i).deadUnits = s.deadUnits := by unfold State.partCount State.count State.tally; split <;> rfl
@[simp] theorem State.partCount_ports (s : State) (p i : Nat) : (s.partCount p i).ports = s.ports := by unfold State.partCount State.count State.tally; split <;> rfl
@[simp] theorem State.partCount_mailbags (s : State) (p i : Nat) : (s.partCount p i).mailbags = s.mailbags := by unfold State.partCount State.count State.tally; split <;> rfl
@[simp] theorem State.partCount_works (s : State) (p i : Nat) : (s.partCount p i).works = s.works := by unfold State.partCount State.count State.tally; split <;> rfl
@[simp] theorem State.partCount_hostOut (s : State) (p i : Nat) : (s.partCount p i).hostOut = s.hostOut := by unfold State.partCount State.count State.tally; split <;> rfl
@[simp] theorem State.partCount_parts (s : State) (p i : Nat) : (s.partCount p i).parts = s.parts := by unfold State.partCount State.count State.tally; split <;> rfl
@[simp] theorem State.partCount_trust (s : State) (p i : Nat) : (s.partCount p i).trust = s.trust := by unfold State.partCount State.count State.tally; split <;> rfl
@[simp] theorem State.partCount_keys (s : State) (p i : Nat) : (s.partCount p i).keys = s.keys := by unfold State.partCount State.count State.tally; split <;> rfl
@[simp] theorem State.partCount_spdm (s : State) (p i : Nat) : (s.partCount p i).spdm = s.spdm := by unfold State.partCount State.count State.tally; split <;> rfl
@[simp] theorem State.partCount_faults (s : State) (p i : Nat) : (s.partCount p i).faults = s.faults := by unfold State.partCount State.count State.tally; split <;> rfl
@[simp] theorem State.partCount_pairs (s : State) (p i : Nat) : (s.partCount p i).pairs = s.pairs := by unfold State.partCount State.count State.tally; split <;> rfl
@[simp] theorem State.partCount_linkSent (s : State) (p i : Nat) : (s.partCount p i).linkSent = s.linkSent := by unfold State.partCount State.count State.tally; split <;> rfl
@[simp] theorem State.partCount_pairOut (s : State) (p i : Nat) : (s.partCount p i).pairOut = s.pairOut := by unfold State.partCount State.count State.tally; split <;> rfl
@[simp] theorem State.partCount_power (s : State) (p i : Nat) : (s.partCount p i).power = s.power := by unfold State.partCount State.count State.tally; split <;> rfl
@[simp] theorem State.partCount_shell (s : State) (p i : Nat) : (s.partCount p i).shell = s.shell := by unfold State.partCount State.count State.tally; split <;> rfl
@[simp] theorem State.partCount_dbg (s : State) (p i : Nat) : (s.partCount p i).dbg = s.dbg := by unfold State.partCount State.count State.tally; split <;> rfl

/-! State.spend. -/

@[simp] theorem State.spend_pending (s : State) (p sl pj : Nat) : (s.spend p sl pj).pending = s.pending := by unfold State.spend State.count State.tally; split <;> rfl
@[simp] theorem State.spend_fresh (s : State) (p sl pj : Nat) : (s.spend p sl pj).fresh = s.fresh := by unfold State.spend State.count State.tally; split <;> rfl
@[simp] theorem State.spend_ids (s : State) (p sl pj : Nat) : (s.spend p sl pj).ids = s.ids := by unfold State.spend State.count State.tally; split <;> rfl
@[simp] theorem State.spend_regs (s : State) (p sl pj : Nat) : (s.spend p sl pj).regs = s.regs := by unfold State.spend State.count State.tally; split <;> rfl
@[simp] theorem State.spend_latch (s : State) (p sl pj : Nat) : (s.spend p sl pj).latch = s.latch := by unfold State.spend State.count State.tally; split <;> rfl
@[simp] theorem State.spend_readData (s : State) (p sl pj : Nat) : (s.spend p sl pj).readData = s.readData := by unfold State.spend State.count State.tally; split <;> rfl
@[simp] theorem State.spend_mgmtAddr (s : State) (p sl pj : Nat) : (s.spend p sl pj).mgmtAddr = s.mgmtAddr := by unfold State.spend State.count State.tally; split <;> rfl
@[simp] theorem State.spend_response (s : State) (p sl pj : Nat) : (s.spend p sl pj).response = s.response := by unfold State.spend State.count State.tally; split <;> rfl
@[simp] theorem State.spend_tb (s : State) (p sl pj : Nat) : (s.spend p sl pj).tb = s.tb := by unfold State.spend State.count State.tally; split <;> rfl
@[simp] theorem State.spend_arrs (s : State) (p sl pj : Nat) : (s.spend p sl pj).arrs = s.arrs := by unfold State.spend State.count State.tally; split <;> rfl
@[simp] theorem State.spend_slices (s : State) (p sl pj : Nat) : (s.spend p sl pj).slices = s.slices := by unfold State.spend State.count State.tally; split <;> rfl
@[simp] theorem State.spend_mids (s : State) (p sl pj : Nat) : (s.spend p sl pj).mids = s.mids := by unfold State.spend State.count State.tally; split <;> rfl
@[simp] theorem State.spend_hbm (s : State) (p sl pj : Nat) : (s.spend p sl pj).hbm = s.hbm := by unfold State.spend State.count State.tally; split <;> rfl
@[simp] theorem State.spend_hbmCode (s : State) (p sl pj : Nat) : (s.spend p sl pj).hbmCode = s.hbmCode := by unfold State.spend State.count State.tally; split <;> rfl
@[simp] theorem State.spend_far (s : State) (p sl pj : Nat) : (s.spend p sl pj).far = s.far := by unfold State.spend State.count State.tally; split <;> rfl
@[simp] theorem State.spend_farPages (s : State) (p sl pj : Nat) : (s.spend p sl pj).farPages = s.farPages := by unfold State.spend State.count State.tally; split <;> rfl
@[simp] theorem State.spend_reqs (s : State) (p sl pj : Nat) : (s.spend p sl pj).reqs = s.reqs := by unfold State.spend State.count State.tally; split <;> rfl
@[simp] theorem State.spend_reads (s : State) (p sl pj : Nat) : (s.spend p sl pj).reads = s.reads := by unfold State.spend State.count State.tally; split <;> rfl
@[simp] theorem State.spend_fills (s : State) (p sl pj : Nat) : (s.spend p sl pj).fills = s.fills := by unfold State.spend State.count State.tally; split <;> rfl
@[simp] theorem State.spend_sideFills (s : State) (p sl pj : Nat) : (s.spend p sl pj).sideFills = s.sideFills := by unfold State.spend State.count State.tally; split <;> rfl
@[simp] theorem State.spend_writeAcks (s : State) (p sl pj : Nat) : (s.spend p sl pj).writeAcks = s.writeAcks := by unfold State.spend State.count State.tally; split <;> rfl
@[simp] theorem State.spend_couriers (s : State) (p sl pj : Nat) : (s.spend p sl pj).couriers = s.couriers := by unfold State.spend State.count State.tally; split <;> rfl
@[simp] theorem State.spend_held (s : State) (p sl pj : Nat) : (s.spend p sl pj).held = s.held := by unfold State.spend State.count State.tally; split <;> rfl
@[simp] theorem State.spend_granted (s : State) (p sl pj : Nat) : (s.spend p sl pj).granted = s.granted := by unfold State.spend State.count State.tally; split <;> rfl
@[simp] theorem State.spend_halves (s : State) (p sl pj : Nat) : (s.spend p sl pj).halves = s.halves := by unfold State.spend State.count State.tally; split <;> rfl
@[simp] theorem State.spend_holds (s : State) (p sl pj : Nat) : (s.spend p sl pj).holds = s.holds := by unfold State.spend State.count State.tally; split <;> rfl
@[simp] theorem State.spend_transit (s : State) (p sl pj : Nat) : (s.spend p sl pj).transit = s.transit := by unfold State.spend State.count State.tally; split <;> rfl
@[simp] theorem State.spend_deadUnits (s : State) (p sl pj : Nat) : (s.spend p sl pj).deadUnits = s.deadUnits := by unfold State.spend State.count State.tally; split <;> rfl
@[simp] theorem State.spend_ports (s : State) (p sl pj : Nat) : (s.spend p sl pj).ports = s.ports := by unfold State.spend State.count State.tally; split <;> rfl
@[simp] theorem State.spend_mailbags (s : State) (p sl pj : Nat) : (s.spend p sl pj).mailbags = s.mailbags := by unfold State.spend State.count State.tally; split <;> rfl
@[simp] theorem State.spend_works (s : State) (p sl pj : Nat) : (s.spend p sl pj).works = s.works := by unfold State.spend State.count State.tally; split <;> rfl
@[simp] theorem State.spend_hostOut (s : State) (p sl pj : Nat) : (s.spend p sl pj).hostOut = s.hostOut := by unfold State.spend State.count State.tally; split <;> rfl
@[simp] theorem State.spend_parts (s : State) (p sl pj : Nat) : (s.spend p sl pj).parts = s.parts := by unfold State.spend State.count State.tally; split <;> rfl
@[simp] theorem State.spend_trust (s : State) (p sl pj : Nat) : (s.spend p sl pj).trust = s.trust := by unfold State.spend State.count State.tally; split <;> rfl
@[simp] theorem State.spend_keys (s : State) (p sl pj : Nat) : (s.spend p sl pj).keys = s.keys := by unfold State.spend State.count State.tally; split <;> rfl
@[simp] theorem State.spend_spdm (s : State) (p sl pj : Nat) : (s.spend p sl pj).spdm = s.spdm := by unfold State.spend State.count State.tally; split <;> rfl
@[simp] theorem State.spend_faults (s : State) (p sl pj : Nat) : (s.spend p sl pj).faults = s.faults := by unfold State.spend State.count State.tally; split <;> rfl
@[simp] theorem State.spend_pairs (s : State) (p sl pj : Nat) : (s.spend p sl pj).pairs = s.pairs := by unfold State.spend State.count State.tally; split <;> rfl
@[simp] theorem State.spend_linkSent (s : State) (p sl pj : Nat) : (s.spend p sl pj).linkSent = s.linkSent := by unfold State.spend State.count State.tally; split <;> rfl
@[simp] theorem State.spend_pairOut (s : State) (p sl pj : Nat) : (s.spend p sl pj).pairOut = s.pairOut := by unfold State.spend State.count State.tally; split <;> rfl
@[simp] theorem State.spend_power (s : State) (p sl pj : Nat) : (s.spend p sl pj).power = s.power := by unfold State.spend State.count State.tally; split <;> rfl
@[simp] theorem State.spend_shell (s : State) (p sl pj : Nat) : (s.spend p sl pj).shell = s.shell := by unfold State.spend State.count State.tally; split <;> rfl
@[simp] theorem State.spend_dbg (s : State) (p sl pj : Nat) : (s.spend p sl pj).dbg = s.dbg := by unfold State.spend State.count State.tally; split <;> rfl

/-! State.setPart. -/

@[simp] theorem State.setPart_pending (s : State) (p : Nat) (x : Part) : (s.setPart p x).pending = s.pending := rfl
@[simp] theorem State.setPart_fresh (s : State) (p : Nat) (x : Part) : (s.setPart p x).fresh = s.fresh := rfl
@[simp] theorem State.setPart_ids (s : State) (p : Nat) (x : Part) : (s.setPart p x).ids = s.ids := rfl
@[simp] theorem State.setPart_regs (s : State) (p : Nat) (x : Part) : (s.setPart p x).regs = s.regs := rfl
@[simp] theorem State.setPart_accum (s : State) (p : Nat) (x : Part) : (s.setPart p x).accum = s.accum := rfl
@[simp] theorem State.setPart_ahead (s : State) (p : Nat) (x : Part) : (s.setPart p x).ahead = s.ahead := rfl
@[simp] theorem State.setPart_latch (s : State) (p : Nat) (x : Part) : (s.setPart p x).latch = s.latch := rfl
@[simp] theorem State.setPart_readData (s : State) (p : Nat) (x : Part) : (s.setPart p x).readData = s.readData := rfl
@[simp] theorem State.setPart_mgmtAddr (s : State) (p : Nat) (x : Part) : (s.setPart p x).mgmtAddr = s.mgmtAddr := rfl
@[simp] theorem State.setPart_response (s : State) (p : Nat) (x : Part) : (s.setPart p x).response = s.response := rfl
@[simp] theorem State.setPart_tb (s : State) (p : Nat) (x : Part) : (s.setPart p x).tb = s.tb := rfl
@[simp] theorem State.setPart_arrs (s : State) (p : Nat) (x : Part) : (s.setPart p x).arrs = s.arrs := rfl
@[simp] theorem State.setPart_slices (s : State) (p : Nat) (x : Part) : (s.setPart p x).slices = s.slices := rfl
@[simp] theorem State.setPart_mids (s : State) (p : Nat) (x : Part) : (s.setPart p x).mids = s.mids := rfl
@[simp] theorem State.setPart_hbm (s : State) (p : Nat) (x : Part) : (s.setPart p x).hbm = s.hbm := rfl
@[simp] theorem State.setPart_hbmCode (s : State) (p : Nat) (x : Part) : (s.setPart p x).hbmCode = s.hbmCode := rfl
@[simp] theorem State.setPart_far (s : State) (p : Nat) (x : Part) : (s.setPart p x).far = s.far := rfl
@[simp] theorem State.setPart_farPages (s : State) (p : Nat) (x : Part) : (s.setPart p x).farPages = s.farPages := rfl
@[simp] theorem State.setPart_reqs (s : State) (p : Nat) (x : Part) : (s.setPart p x).reqs = s.reqs := rfl
@[simp] theorem State.setPart_reads (s : State) (p : Nat) (x : Part) : (s.setPart p x).reads = s.reads := rfl
@[simp] theorem State.setPart_fills (s : State) (p : Nat) (x : Part) : (s.setPart p x).fills = s.fills := rfl
@[simp] theorem State.setPart_sideFills (s : State) (p : Nat) (x : Part) : (s.setPart p x).sideFills = s.sideFills := rfl
@[simp] theorem State.setPart_writeAcks (s : State) (p : Nat) (x : Part) : (s.setPart p x).writeAcks = s.writeAcks := rfl
@[simp] theorem State.setPart_couriers (s : State) (p : Nat) (x : Part) : (s.setPart p x).couriers = s.couriers := rfl
@[simp] theorem State.setPart_held (s : State) (p : Nat) (x : Part) : (s.setPart p x).held = s.held := rfl
@[simp] theorem State.setPart_granted (s : State) (p : Nat) (x : Part) : (s.setPart p x).granted = s.granted := rfl
@[simp] theorem State.setPart_halves (s : State) (p : Nat) (x : Part) : (s.setPart p x).halves = s.halves := rfl
@[simp] theorem State.setPart_holds (s : State) (p : Nat) (x : Part) : (s.setPart p x).holds = s.holds := rfl
@[simp] theorem State.setPart_transit (s : State) (p : Nat) (x : Part) : (s.setPart p x).transit = s.transit := rfl
@[simp] theorem State.setPart_deadUnits (s : State) (p : Nat) (x : Part) : (s.setPart p x).deadUnits = s.deadUnits := rfl
@[simp] theorem State.setPart_ports (s : State) (p : Nat) (x : Part) : (s.setPart p x).ports = s.ports := rfl
@[simp] theorem State.setPart_mailbags (s : State) (p : Nat) (x : Part) : (s.setPart p x).mailbags = s.mailbags := rfl
@[simp] theorem State.setPart_works (s : State) (p : Nat) (x : Part) : (s.setPart p x).works = s.works := rfl
@[simp] theorem State.setPart_hostOut (s : State) (p : Nat) (x : Part) : (s.setPart p x).hostOut = s.hostOut := rfl
@[simp] theorem State.setPart_parts (s : State) (p : Nat) (x : Part) : (s.setPart p x).parts = Tab.put s.parts p x := rfl
@[simp] theorem State.setPart_trust (s : State) (p : Nat) (x : Part) : (s.setPart p x).trust = s.trust := rfl
@[simp] theorem State.setPart_keys (s : State) (p : Nat) (x : Part) : (s.setPart p x).keys = s.keys := rfl
@[simp] theorem State.setPart_spdm (s : State) (p : Nat) (x : Part) : (s.setPart p x).spdm = s.spdm := rfl
@[simp] theorem State.setPart_faults (s : State) (p : Nat) (x : Part) : (s.setPart p x).faults = s.faults := rfl
@[simp] theorem State.setPart_pairs (s : State) (p : Nat) (x : Part) : (s.setPart p x).pairs = s.pairs := rfl
@[simp] theorem State.setPart_linkSent (s : State) (p : Nat) (x : Part) : (s.setPart p x).linkSent = s.linkSent := rfl
@[simp] theorem State.setPart_pairOut (s : State) (p : Nat) (x : Part) : (s.setPart p x).pairOut = s.pairOut := rfl
@[simp] theorem State.setPart_power (s : State) (p : Nat) (x : Part) : (s.setPart p x).power = s.power := rfl
@[simp] theorem State.setPart_shell (s : State) (p : Nat) (x : Part) : (s.setPart p x).shell = s.shell := rfl
@[simp] theorem State.setPart_dbg (s : State) (p : Nat) (x : Part) : (s.setPart p x).dbg = s.dbg := rfl

/-! State.setArr. -/

@[simp] theorem State.setArr_pending (s : State) (ga : Nat) (x : Arr) : (s.setArr ga x).pending = s.pending := rfl
@[simp] theorem State.setArr_fresh (s : State) (ga : Nat) (x : Arr) : (s.setArr ga x).fresh = s.fresh := rfl
@[simp] theorem State.setArr_ids (s : State) (ga : Nat) (x : Arr) : (s.setArr ga x).ids = s.ids := rfl
@[simp] theorem State.setArr_regs (s : State) (ga : Nat) (x : Arr) : (s.setArr ga x).regs = s.regs := rfl
@[simp] theorem State.setArr_accum (s : State) (ga : Nat) (x : Arr) : (s.setArr ga x).accum = s.accum := rfl
@[simp] theorem State.setArr_ahead (s : State) (ga : Nat) (x : Arr) : (s.setArr ga x).ahead = s.ahead := rfl
@[simp] theorem State.setArr_latch (s : State) (ga : Nat) (x : Arr) : (s.setArr ga x).latch = s.latch := rfl
@[simp] theorem State.setArr_readData (s : State) (ga : Nat) (x : Arr) : (s.setArr ga x).readData = s.readData := rfl
@[simp] theorem State.setArr_mgmtAddr (s : State) (ga : Nat) (x : Arr) : (s.setArr ga x).mgmtAddr = s.mgmtAddr := rfl
@[simp] theorem State.setArr_response (s : State) (ga : Nat) (x : Arr) : (s.setArr ga x).response = s.response := rfl
@[simp] theorem State.setArr_tb (s : State) (ga : Nat) (x : Arr) : (s.setArr ga x).tb = s.tb := rfl
@[simp] theorem State.setArr_arrs (s : State) (ga : Nat) (x : Arr) : (s.setArr ga x).arrs = Tab.put s.arrs ga x := rfl
@[simp] theorem State.setArr_slices (s : State) (ga : Nat) (x : Arr) : (s.setArr ga x).slices = s.slices := rfl
@[simp] theorem State.setArr_mids (s : State) (ga : Nat) (x : Arr) : (s.setArr ga x).mids = s.mids := rfl
@[simp] theorem State.setArr_hbm (s : State) (ga : Nat) (x : Arr) : (s.setArr ga x).hbm = s.hbm := rfl
@[simp] theorem State.setArr_hbmCode (s : State) (ga : Nat) (x : Arr) : (s.setArr ga x).hbmCode = s.hbmCode := rfl
@[simp] theorem State.setArr_far (s : State) (ga : Nat) (x : Arr) : (s.setArr ga x).far = s.far := rfl
@[simp] theorem State.setArr_farPages (s : State) (ga : Nat) (x : Arr) : (s.setArr ga x).farPages = s.farPages := rfl
@[simp] theorem State.setArr_reqs (s : State) (ga : Nat) (x : Arr) : (s.setArr ga x).reqs = s.reqs := rfl
@[simp] theorem State.setArr_reads (s : State) (ga : Nat) (x : Arr) : (s.setArr ga x).reads = s.reads := rfl
@[simp] theorem State.setArr_fills (s : State) (ga : Nat) (x : Arr) : (s.setArr ga x).fills = s.fills := rfl
@[simp] theorem State.setArr_sideFills (s : State) (ga : Nat) (x : Arr) : (s.setArr ga x).sideFills = s.sideFills := rfl
@[simp] theorem State.setArr_writeAcks (s : State) (ga : Nat) (x : Arr) : (s.setArr ga x).writeAcks = s.writeAcks := rfl
@[simp] theorem State.setArr_couriers (s : State) (ga : Nat) (x : Arr) : (s.setArr ga x).couriers = s.couriers := rfl
@[simp] theorem State.setArr_held (s : State) (ga : Nat) (x : Arr) : (s.setArr ga x).held = s.held := rfl
@[simp] theorem State.setArr_granted (s : State) (ga : Nat) (x : Arr) : (s.setArr ga x).granted = s.granted := rfl
@[simp] theorem State.setArr_halves (s : State) (ga : Nat) (x : Arr) : (s.setArr ga x).halves = s.halves := rfl
@[simp] theorem State.setArr_holds (s : State) (ga : Nat) (x : Arr) : (s.setArr ga x).holds = s.holds := rfl
@[simp] theorem State.setArr_transit (s : State) (ga : Nat) (x : Arr) : (s.setArr ga x).transit = s.transit := rfl
@[simp] theorem State.setArr_deadUnits (s : State) (ga : Nat) (x : Arr) : (s.setArr ga x).deadUnits = s.deadUnits := rfl
@[simp] theorem State.setArr_ports (s : State) (ga : Nat) (x : Arr) : (s.setArr ga x).ports = s.ports := rfl
@[simp] theorem State.setArr_mailbags (s : State) (ga : Nat) (x : Arr) : (s.setArr ga x).mailbags = s.mailbags := rfl
@[simp] theorem State.setArr_works (s : State) (ga : Nat) (x : Arr) : (s.setArr ga x).works = s.works := rfl
@[simp] theorem State.setArr_hostOut (s : State) (ga : Nat) (x : Arr) : (s.setArr ga x).hostOut = s.hostOut := rfl
@[simp] theorem State.setArr_parts (s : State) (ga : Nat) (x : Arr) : (s.setArr ga x).parts = s.parts := rfl
@[simp] theorem State.setArr_trust (s : State) (ga : Nat) (x : Arr) : (s.setArr ga x).trust = s.trust := rfl
@[simp] theorem State.setArr_keys (s : State) (ga : Nat) (x : Arr) : (s.setArr ga x).keys = s.keys := rfl
@[simp] theorem State.setArr_spdm (s : State) (ga : Nat) (x : Arr) : (s.setArr ga x).spdm = s.spdm := rfl
@[simp] theorem State.setArr_faults (s : State) (ga : Nat) (x : Arr) : (s.setArr ga x).faults = s.faults := rfl
@[simp] theorem State.setArr_pairs (s : State) (ga : Nat) (x : Arr) : (s.setArr ga x).pairs = s.pairs := rfl
@[simp] theorem State.setArr_linkSent (s : State) (ga : Nat) (x : Arr) : (s.setArr ga x).linkSent = s.linkSent := rfl
@[simp] theorem State.setArr_pairOut (s : State) (ga : Nat) (x : Arr) : (s.setArr ga x).pairOut = s.pairOut := rfl
@[simp] theorem State.setArr_power (s : State) (ga : Nat) (x : Arr) : (s.setArr ga x).power = s.power := rfl
@[simp] theorem State.setArr_shell (s : State) (ga : Nat) (x : Arr) : (s.setArr ga x).shell = s.shell := rfl
@[simp] theorem State.setArr_dbg (s : State) (ga : Nat) (x : Arr) : (s.setArr ga x).dbg = s.dbg := rfl

/-! State.setGroup. -/

@[simp] theorem State.setGroup_pending (s : State) (ga slot : Nat) (x : Group) : (s.setGroup ga slot x).pending = s.pending := rfl
@[simp] theorem State.setGroup_fresh (s : State) (ga slot : Nat) (x : Group) : (s.setGroup ga slot x).fresh = s.fresh := rfl
@[simp] theorem State.setGroup_ids (s : State) (ga slot : Nat) (x : Group) : (s.setGroup ga slot x).ids = s.ids := rfl
@[simp] theorem State.setGroup_regs (s : State) (ga slot : Nat) (x : Group) : (s.setGroup ga slot x).regs = s.regs := rfl
@[simp] theorem State.setGroup_accum (s : State) (ga slot : Nat) (x : Group) : (s.setGroup ga slot x).accum = s.accum := rfl
@[simp] theorem State.setGroup_ahead (s : State) (ga slot : Nat) (x : Group) : (s.setGroup ga slot x).ahead = s.ahead := rfl
@[simp] theorem State.setGroup_latch (s : State) (ga slot : Nat) (x : Group) : (s.setGroup ga slot x).latch = s.latch := rfl
@[simp] theorem State.setGroup_readData (s : State) (ga slot : Nat) (x : Group) : (s.setGroup ga slot x).readData = s.readData := rfl
@[simp] theorem State.setGroup_mgmtAddr (s : State) (ga slot : Nat) (x : Group) : (s.setGroup ga slot x).mgmtAddr = s.mgmtAddr := rfl
@[simp] theorem State.setGroup_response (s : State) (ga slot : Nat) (x : Group) : (s.setGroup ga slot x).response = s.response := rfl
@[simp] theorem State.setGroup_tb (s : State) (ga slot : Nat) (x : Group) : (s.setGroup ga slot x).tb = s.tb := rfl
@[simp] theorem State.setGroup_slices (s : State) (ga slot : Nat) (x : Group) : (s.setGroup ga slot x).slices = s.slices := rfl
@[simp] theorem State.setGroup_mids (s : State) (ga slot : Nat) (x : Group) : (s.setGroup ga slot x).mids = s.mids := rfl
@[simp] theorem State.setGroup_hbm (s : State) (ga slot : Nat) (x : Group) : (s.setGroup ga slot x).hbm = s.hbm := rfl
@[simp] theorem State.setGroup_hbmCode (s : State) (ga slot : Nat) (x : Group) : (s.setGroup ga slot x).hbmCode = s.hbmCode := rfl
@[simp] theorem State.setGroup_far (s : State) (ga slot : Nat) (x : Group) : (s.setGroup ga slot x).far = s.far := rfl
@[simp] theorem State.setGroup_farPages (s : State) (ga slot : Nat) (x : Group) : (s.setGroup ga slot x).farPages = s.farPages := rfl
@[simp] theorem State.setGroup_reqs (s : State) (ga slot : Nat) (x : Group) : (s.setGroup ga slot x).reqs = s.reqs := rfl
@[simp] theorem State.setGroup_reads (s : State) (ga slot : Nat) (x : Group) : (s.setGroup ga slot x).reads = s.reads := rfl
@[simp] theorem State.setGroup_fills (s : State) (ga slot : Nat) (x : Group) : (s.setGroup ga slot x).fills = s.fills := rfl
@[simp] theorem State.setGroup_sideFills (s : State) (ga slot : Nat) (x : Group) : (s.setGroup ga slot x).sideFills = s.sideFills := rfl
@[simp] theorem State.setGroup_writeAcks (s : State) (ga slot : Nat) (x : Group) : (s.setGroup ga slot x).writeAcks = s.writeAcks := rfl
@[simp] theorem State.setGroup_couriers (s : State) (ga slot : Nat) (x : Group) : (s.setGroup ga slot x).couriers = s.couriers := rfl
@[simp] theorem State.setGroup_held (s : State) (ga slot : Nat) (x : Group) : (s.setGroup ga slot x).held = s.held := rfl
@[simp] theorem State.setGroup_granted (s : State) (ga slot : Nat) (x : Group) : (s.setGroup ga slot x).granted = s.granted := rfl
@[simp] theorem State.setGroup_halves (s : State) (ga slot : Nat) (x : Group) : (s.setGroup ga slot x).halves = s.halves := rfl
@[simp] theorem State.setGroup_holds (s : State) (ga slot : Nat) (x : Group) : (s.setGroup ga slot x).holds = s.holds := rfl
@[simp] theorem State.setGroup_transit (s : State) (ga slot : Nat) (x : Group) : (s.setGroup ga slot x).transit = s.transit := rfl
@[simp] theorem State.setGroup_deadUnits (s : State) (ga slot : Nat) (x : Group) : (s.setGroup ga slot x).deadUnits = s.deadUnits := rfl
@[simp] theorem State.setGroup_ports (s : State) (ga slot : Nat) (x : Group) : (s.setGroup ga slot x).ports = s.ports := rfl
@[simp] theorem State.setGroup_mailbags (s : State) (ga slot : Nat) (x : Group) : (s.setGroup ga slot x).mailbags = s.mailbags := rfl
@[simp] theorem State.setGroup_works (s : State) (ga slot : Nat) (x : Group) : (s.setGroup ga slot x).works = s.works := rfl
@[simp] theorem State.setGroup_hostOut (s : State) (ga slot : Nat) (x : Group) : (s.setGroup ga slot x).hostOut = s.hostOut := rfl
@[simp] theorem State.setGroup_parts (s : State) (ga slot : Nat) (x : Group) : (s.setGroup ga slot x).parts = s.parts := rfl
@[simp] theorem State.setGroup_trust (s : State) (ga slot : Nat) (x : Group) : (s.setGroup ga slot x).trust = s.trust := rfl
@[simp] theorem State.setGroup_keys (s : State) (ga slot : Nat) (x : Group) : (s.setGroup ga slot x).keys = s.keys := rfl
@[simp] theorem State.setGroup_spdm (s : State) (ga slot : Nat) (x : Group) : (s.setGroup ga slot x).spdm = s.spdm := rfl
@[simp] theorem State.setGroup_faults (s : State) (ga slot : Nat) (x : Group) : (s.setGroup ga slot x).faults = s.faults := rfl
@[simp] theorem State.setGroup_pairs (s : State) (ga slot : Nat) (x : Group) : (s.setGroup ga slot x).pairs = s.pairs := rfl
@[simp] theorem State.setGroup_linkSent (s : State) (ga slot : Nat) (x : Group) : (s.setGroup ga slot x).linkSent = s.linkSent := rfl
@[simp] theorem State.setGroup_pairOut (s : State) (ga slot : Nat) (x : Group) : (s.setGroup ga slot x).pairOut = s.pairOut := rfl
@[simp] theorem State.setGroup_power (s : State) (ga slot : Nat) (x : Group) : (s.setGroup ga slot x).power = s.power := rfl
@[simp] theorem State.setGroup_shell (s : State) (ga slot : Nat) (x : Group) : (s.setGroup ga slot x).shell = s.shell := rfl
@[simp] theorem State.setGroup_dbg (s : State) (ga slot : Nat) (x : Group) : (s.setGroup ga slot x).dbg = s.dbg := rfl

/-! State.setBlock. -/

@[simp] theorem State.setBlock_pending (s : State) (ga b : Nat) (x : Block) : (s.setBlock ga b x).pending = s.pending := rfl
@[simp] theorem State.setBlock_fresh (s : State) (ga b : Nat) (x : Block) : (s.setBlock ga b x).fresh = s.fresh := rfl
@[simp] theorem State.setBlock_ids (s : State) (ga b : Nat) (x : Block) : (s.setBlock ga b x).ids = s.ids := rfl
@[simp] theorem State.setBlock_regs (s : State) (ga b : Nat) (x : Block) : (s.setBlock ga b x).regs = s.regs := rfl
@[simp] theorem State.setBlock_accum (s : State) (ga b : Nat) (x : Block) : (s.setBlock ga b x).accum = s.accum := rfl
@[simp] theorem State.setBlock_ahead (s : State) (ga b : Nat) (x : Block) : (s.setBlock ga b x).ahead = s.ahead := rfl
@[simp] theorem State.setBlock_latch (s : State) (ga b : Nat) (x : Block) : (s.setBlock ga b x).latch = s.latch := rfl
@[simp] theorem State.setBlock_readData (s : State) (ga b : Nat) (x : Block) : (s.setBlock ga b x).readData = s.readData := rfl
@[simp] theorem State.setBlock_mgmtAddr (s : State) (ga b : Nat) (x : Block) : (s.setBlock ga b x).mgmtAddr = s.mgmtAddr := rfl
@[simp] theorem State.setBlock_response (s : State) (ga b : Nat) (x : Block) : (s.setBlock ga b x).response = s.response := rfl
@[simp] theorem State.setBlock_tb (s : State) (ga b : Nat) (x : Block) : (s.setBlock ga b x).tb = s.tb := rfl
@[simp] theorem State.setBlock_slices (s : State) (ga b : Nat) (x : Block) : (s.setBlock ga b x).slices = s.slices := rfl
@[simp] theorem State.setBlock_mids (s : State) (ga b : Nat) (x : Block) : (s.setBlock ga b x).mids = s.mids := rfl
@[simp] theorem State.setBlock_hbm (s : State) (ga b : Nat) (x : Block) : (s.setBlock ga b x).hbm = s.hbm := rfl
@[simp] theorem State.setBlock_hbmCode (s : State) (ga b : Nat) (x : Block) : (s.setBlock ga b x).hbmCode = s.hbmCode := rfl
@[simp] theorem State.setBlock_far (s : State) (ga b : Nat) (x : Block) : (s.setBlock ga b x).far = s.far := rfl
@[simp] theorem State.setBlock_farPages (s : State) (ga b : Nat) (x : Block) : (s.setBlock ga b x).farPages = s.farPages := rfl
@[simp] theorem State.setBlock_reqs (s : State) (ga b : Nat) (x : Block) : (s.setBlock ga b x).reqs = s.reqs := rfl
@[simp] theorem State.setBlock_reads (s : State) (ga b : Nat) (x : Block) : (s.setBlock ga b x).reads = s.reads := rfl
@[simp] theorem State.setBlock_fills (s : State) (ga b : Nat) (x : Block) : (s.setBlock ga b x).fills = s.fills := rfl
@[simp] theorem State.setBlock_sideFills (s : State) (ga b : Nat) (x : Block) : (s.setBlock ga b x).sideFills = s.sideFills := rfl
@[simp] theorem State.setBlock_writeAcks (s : State) (ga b : Nat) (x : Block) : (s.setBlock ga b x).writeAcks = s.writeAcks := rfl
@[simp] theorem State.setBlock_couriers (s : State) (ga b : Nat) (x : Block) : (s.setBlock ga b x).couriers = s.couriers := rfl
@[simp] theorem State.setBlock_held (s : State) (ga b : Nat) (x : Block) : (s.setBlock ga b x).held = s.held := rfl
@[simp] theorem State.setBlock_granted (s : State) (ga b : Nat) (x : Block) : (s.setBlock ga b x).granted = s.granted := rfl
@[simp] theorem State.setBlock_halves (s : State) (ga b : Nat) (x : Block) : (s.setBlock ga b x).halves = s.halves := rfl
@[simp] theorem State.setBlock_holds (s : State) (ga b : Nat) (x : Block) : (s.setBlock ga b x).holds = s.holds := rfl
@[simp] theorem State.setBlock_transit (s : State) (ga b : Nat) (x : Block) : (s.setBlock ga b x).transit = s.transit := rfl
@[simp] theorem State.setBlock_deadUnits (s : State) (ga b : Nat) (x : Block) : (s.setBlock ga b x).deadUnits = s.deadUnits := rfl
@[simp] theorem State.setBlock_ports (s : State) (ga b : Nat) (x : Block) : (s.setBlock ga b x).ports = s.ports := rfl
@[simp] theorem State.setBlock_mailbags (s : State) (ga b : Nat) (x : Block) : (s.setBlock ga b x).mailbags = s.mailbags := rfl
@[simp] theorem State.setBlock_works (s : State) (ga b : Nat) (x : Block) : (s.setBlock ga b x).works = s.works := rfl
@[simp] theorem State.setBlock_hostOut (s : State) (ga b : Nat) (x : Block) : (s.setBlock ga b x).hostOut = s.hostOut := rfl
@[simp] theorem State.setBlock_parts (s : State) (ga b : Nat) (x : Block) : (s.setBlock ga b x).parts = s.parts := rfl
@[simp] theorem State.setBlock_trust (s : State) (ga b : Nat) (x : Block) : (s.setBlock ga b x).trust = s.trust := rfl
@[simp] theorem State.setBlock_keys (s : State) (ga b : Nat) (x : Block) : (s.setBlock ga b x).keys = s.keys := rfl
@[simp] theorem State.setBlock_spdm (s : State) (ga b : Nat) (x : Block) : (s.setBlock ga b x).spdm = s.spdm := rfl
@[simp] theorem State.setBlock_faults (s : State) (ga b : Nat) (x : Block) : (s.setBlock ga b x).faults = s.faults := rfl
@[simp] theorem State.setBlock_pairs (s : State) (ga b : Nat) (x : Block) : (s.setBlock ga b x).pairs = s.pairs := rfl
@[simp] theorem State.setBlock_linkSent (s : State) (ga b : Nat) (x : Block) : (s.setBlock ga b x).linkSent = s.linkSent := rfl
@[simp] theorem State.setBlock_pairOut (s : State) (ga b : Nat) (x : Block) : (s.setBlock ga b x).pairOut = s.pairOut := rfl
@[simp] theorem State.setBlock_power (s : State) (ga b : Nat) (x : Block) : (s.setBlock ga b x).power = s.power := rfl
@[simp] theorem State.setBlock_shell (s : State) (ga b : Nat) (x : Block) : (s.setBlock ga b x).shell = s.shell := rfl
@[simp] theorem State.setBlock_dbg (s : State) (ga b : Nat) (x : Block) : (s.setBlock ga b x).dbg = s.dbg := rfl

/-! State.setSlice. -/

@[simp] theorem State.setSlice_pending (s : State) (d : Nat) (x : Slice) : (s.setSlice d x).pending = s.pending := rfl
@[simp] theorem State.setSlice_fresh (s : State) (d : Nat) (x : Slice) : (s.setSlice d x).fresh = s.fresh := rfl
@[simp] theorem State.setSlice_ids (s : State) (d : Nat) (x : Slice) : (s.setSlice d x).ids = s.ids := rfl
@[simp] theorem State.setSlice_regs (s : State) (d : Nat) (x : Slice) : (s.setSlice d x).regs = s.regs := rfl
@[simp] theorem State.setSlice_accum (s : State) (d : Nat) (x : Slice) : (s.setSlice d x).accum = s.accum := rfl
@[simp] theorem State.setSlice_ahead (s : State) (d : Nat) (x : Slice) : (s.setSlice d x).ahead = s.ahead := rfl
@[simp] theorem State.setSlice_latch (s : State) (d : Nat) (x : Slice) : (s.setSlice d x).latch = s.latch := rfl
@[simp] theorem State.setSlice_readData (s : State) (d : Nat) (x : Slice) : (s.setSlice d x).readData = s.readData := rfl
@[simp] theorem State.setSlice_mgmtAddr (s : State) (d : Nat) (x : Slice) : (s.setSlice d x).mgmtAddr = s.mgmtAddr := rfl
@[simp] theorem State.setSlice_response (s : State) (d : Nat) (x : Slice) : (s.setSlice d x).response = s.response := rfl
@[simp] theorem State.setSlice_tb (s : State) (d : Nat) (x : Slice) : (s.setSlice d x).tb = s.tb := rfl
@[simp] theorem State.setSlice_arrs (s : State) (d : Nat) (x : Slice) : (s.setSlice d x).arrs = s.arrs := rfl
@[simp] theorem State.setSlice_slices (s : State) (d : Nat) (x : Slice) : (s.setSlice d x).slices = Tab.put s.slices d x := rfl
@[simp] theorem State.setSlice_mids (s : State) (d : Nat) (x : Slice) : (s.setSlice d x).mids = s.mids := rfl
@[simp] theorem State.setSlice_hbm (s : State) (d : Nat) (x : Slice) : (s.setSlice d x).hbm = s.hbm := rfl
@[simp] theorem State.setSlice_hbmCode (s : State) (d : Nat) (x : Slice) : (s.setSlice d x).hbmCode = s.hbmCode := rfl
@[simp] theorem State.setSlice_far (s : State) (d : Nat) (x : Slice) : (s.setSlice d x).far = s.far := rfl
@[simp] theorem State.setSlice_farPages (s : State) (d : Nat) (x : Slice) : (s.setSlice d x).farPages = s.farPages := rfl
@[simp] theorem State.setSlice_reqs (s : State) (d : Nat) (x : Slice) : (s.setSlice d x).reqs = s.reqs := rfl
@[simp] theorem State.setSlice_reads (s : State) (d : Nat) (x : Slice) : (s.setSlice d x).reads = s.reads := rfl
@[simp] theorem State.setSlice_fills (s : State) (d : Nat) (x : Slice) : (s.setSlice d x).fills = s.fills := rfl
@[simp] theorem State.setSlice_sideFills (s : State) (d : Nat) (x : Slice) : (s.setSlice d x).sideFills = s.sideFills := rfl
@[simp] theorem State.setSlice_writeAcks (s : State) (d : Nat) (x : Slice) : (s.setSlice d x).writeAcks = s.writeAcks := rfl
@[simp] theorem State.setSlice_couriers (s : State) (d : Nat) (x : Slice) : (s.setSlice d x).couriers = s.couriers := rfl
@[simp] theorem State.setSlice_held (s : State) (d : Nat) (x : Slice) : (s.setSlice d x).held = s.held := rfl
@[simp] theorem State.setSlice_granted (s : State) (d : Nat) (x : Slice) : (s.setSlice d x).granted = s.granted := rfl
@[simp] theorem State.setSlice_halves (s : State) (d : Nat) (x : Slice) : (s.setSlice d x).halves = s.halves := rfl
@[simp] theorem State.setSlice_holds (s : State) (d : Nat) (x : Slice) : (s.setSlice d x).holds = s.holds := rfl
@[simp] theorem State.setSlice_transit (s : State) (d : Nat) (x : Slice) : (s.setSlice d x).transit = s.transit := rfl
@[simp] theorem State.setSlice_deadUnits (s : State) (d : Nat) (x : Slice) : (s.setSlice d x).deadUnits = s.deadUnits := rfl
@[simp] theorem State.setSlice_ports (s : State) (d : Nat) (x : Slice) : (s.setSlice d x).ports = s.ports := rfl
@[simp] theorem State.setSlice_mailbags (s : State) (d : Nat) (x : Slice) : (s.setSlice d x).mailbags = s.mailbags := rfl
@[simp] theorem State.setSlice_works (s : State) (d : Nat) (x : Slice) : (s.setSlice d x).works = s.works := rfl
@[simp] theorem State.setSlice_hostOut (s : State) (d : Nat) (x : Slice) : (s.setSlice d x).hostOut = s.hostOut := rfl
@[simp] theorem State.setSlice_parts (s : State) (d : Nat) (x : Slice) : (s.setSlice d x).parts = s.parts := rfl
@[simp] theorem State.setSlice_trust (s : State) (d : Nat) (x : Slice) : (s.setSlice d x).trust = s.trust := rfl
@[simp] theorem State.setSlice_keys (s : State) (d : Nat) (x : Slice) : (s.setSlice d x).keys = s.keys := rfl
@[simp] theorem State.setSlice_spdm (s : State) (d : Nat) (x : Slice) : (s.setSlice d x).spdm = s.spdm := rfl
@[simp] theorem State.setSlice_faults (s : State) (d : Nat) (x : Slice) : (s.setSlice d x).faults = s.faults := rfl
@[simp] theorem State.setSlice_pairs (s : State) (d : Nat) (x : Slice) : (s.setSlice d x).pairs = s.pairs := rfl
@[simp] theorem State.setSlice_linkSent (s : State) (d : Nat) (x : Slice) : (s.setSlice d x).linkSent = s.linkSent := rfl
@[simp] theorem State.setSlice_pairOut (s : State) (d : Nat) (x : Slice) : (s.setSlice d x).pairOut = s.pairOut := rfl
@[simp] theorem State.setSlice_power (s : State) (d : Nat) (x : Slice) : (s.setSlice d x).power = s.power := rfl
@[simp] theorem State.setSlice_shell (s : State) (d : Nat) (x : Slice) : (s.setSlice d x).shell = s.shell := rfl
@[simp] theorem State.setSlice_dbg (s : State) (d : Nat) (x : Slice) : (s.setSlice d x).dbg = s.dbg := rfl

/-! State.setMid. -/

@[simp] theorem State.setMid_pending (s : State) (m : Nat) (x : Mid) : (s.setMid m x).pending = s.pending := rfl
@[simp] theorem State.setMid_fresh (s : State) (m : Nat) (x : Mid) : (s.setMid m x).fresh = s.fresh := rfl
@[simp] theorem State.setMid_ids (s : State) (m : Nat) (x : Mid) : (s.setMid m x).ids = s.ids := rfl
@[simp] theorem State.setMid_regs (s : State) (m : Nat) (x : Mid) : (s.setMid m x).regs = s.regs := rfl
@[simp] theorem State.setMid_accum (s : State) (m : Nat) (x : Mid) : (s.setMid m x).accum = s.accum := rfl
@[simp] theorem State.setMid_ahead (s : State) (m : Nat) (x : Mid) : (s.setMid m x).ahead = s.ahead := rfl
@[simp] theorem State.setMid_latch (s : State) (m : Nat) (x : Mid) : (s.setMid m x).latch = s.latch := rfl
@[simp] theorem State.setMid_readData (s : State) (m : Nat) (x : Mid) : (s.setMid m x).readData = s.readData := rfl
@[simp] theorem State.setMid_mgmtAddr (s : State) (m : Nat) (x : Mid) : (s.setMid m x).mgmtAddr = s.mgmtAddr := rfl
@[simp] theorem State.setMid_response (s : State) (m : Nat) (x : Mid) : (s.setMid m x).response = s.response := rfl
@[simp] theorem State.setMid_tb (s : State) (m : Nat) (x : Mid) : (s.setMid m x).tb = s.tb := rfl
@[simp] theorem State.setMid_arrs (s : State) (m : Nat) (x : Mid) : (s.setMid m x).arrs = s.arrs := rfl
@[simp] theorem State.setMid_slices (s : State) (m : Nat) (x : Mid) : (s.setMid m x).slices = s.slices := rfl
@[simp] theorem State.setMid_mids (s : State) (m : Nat) (x : Mid) : (s.setMid m x).mids = Tab.put s.mids m x := rfl
@[simp] theorem State.setMid_hbm (s : State) (m : Nat) (x : Mid) : (s.setMid m x).hbm = s.hbm := rfl
@[simp] theorem State.setMid_hbmCode (s : State) (m : Nat) (x : Mid) : (s.setMid m x).hbmCode = s.hbmCode := rfl
@[simp] theorem State.setMid_far (s : State) (m : Nat) (x : Mid) : (s.setMid m x).far = s.far := rfl
@[simp] theorem State.setMid_farPages (s : State) (m : Nat) (x : Mid) : (s.setMid m x).farPages = s.farPages := rfl
@[simp] theorem State.setMid_reqs (s : State) (m : Nat) (x : Mid) : (s.setMid m x).reqs = s.reqs := rfl
@[simp] theorem State.setMid_reads (s : State) (m : Nat) (x : Mid) : (s.setMid m x).reads = s.reads := rfl
@[simp] theorem State.setMid_fills (s : State) (m : Nat) (x : Mid) : (s.setMid m x).fills = s.fills := rfl
@[simp] theorem State.setMid_sideFills (s : State) (m : Nat) (x : Mid) : (s.setMid m x).sideFills = s.sideFills := rfl
@[simp] theorem State.setMid_writeAcks (s : State) (m : Nat) (x : Mid) : (s.setMid m x).writeAcks = s.writeAcks := rfl
@[simp] theorem State.setMid_couriers (s : State) (m : Nat) (x : Mid) : (s.setMid m x).couriers = s.couriers := rfl
@[simp] theorem State.setMid_held (s : State) (m : Nat) (x : Mid) : (s.setMid m x).held = s.held := rfl
@[simp] theorem State.setMid_granted (s : State) (m : Nat) (x : Mid) : (s.setMid m x).granted = s.granted := rfl
@[simp] theorem State.setMid_halves (s : State) (m : Nat) (x : Mid) : (s.setMid m x).halves = s.halves := rfl
@[simp] theorem State.setMid_holds (s : State) (m : Nat) (x : Mid) : (s.setMid m x).holds = s.holds := rfl
@[simp] theorem State.setMid_transit (s : State) (m : Nat) (x : Mid) : (s.setMid m x).transit = s.transit := rfl
@[simp] theorem State.setMid_deadUnits (s : State) (m : Nat) (x : Mid) : (s.setMid m x).deadUnits = s.deadUnits := rfl
@[simp] theorem State.setMid_ports (s : State) (m : Nat) (x : Mid) : (s.setMid m x).ports = s.ports := rfl
@[simp] theorem State.setMid_mailbags (s : State) (m : Nat) (x : Mid) : (s.setMid m x).mailbags = s.mailbags := rfl
@[simp] theorem State.setMid_works (s : State) (m : Nat) (x : Mid) : (s.setMid m x).works = s.works := rfl
@[simp] theorem State.setMid_hostOut (s : State) (m : Nat) (x : Mid) : (s.setMid m x).hostOut = s.hostOut := rfl
@[simp] theorem State.setMid_parts (s : State) (m : Nat) (x : Mid) : (s.setMid m x).parts = s.parts := rfl
@[simp] theorem State.setMid_trust (s : State) (m : Nat) (x : Mid) : (s.setMid m x).trust = s.trust := rfl
@[simp] theorem State.setMid_keys (s : State) (m : Nat) (x : Mid) : (s.setMid m x).keys = s.keys := rfl
@[simp] theorem State.setMid_spdm (s : State) (m : Nat) (x : Mid) : (s.setMid m x).spdm = s.spdm := rfl
@[simp] theorem State.setMid_faults (s : State) (m : Nat) (x : Mid) : (s.setMid m x).faults = s.faults := rfl
@[simp] theorem State.setMid_pairs (s : State) (m : Nat) (x : Mid) : (s.setMid m x).pairs = s.pairs := rfl
@[simp] theorem State.setMid_linkSent (s : State) (m : Nat) (x : Mid) : (s.setMid m x).linkSent = s.linkSent := rfl
@[simp] theorem State.setMid_pairOut (s : State) (m : Nat) (x : Mid) : (s.setMid m x).pairOut = s.pairOut := rfl
@[simp] theorem State.setMid_power (s : State) (m : Nat) (x : Mid) : (s.setMid m x).power = s.power := rfl
@[simp] theorem State.setMid_shell (s : State) (m : Nat) (x : Mid) : (s.setMid m x).shell = s.shell := rfl
@[simp] theorem State.setMid_dbg (s : State) (m : Nat) (x : Mid) : (s.setMid m x).dbg = s.dbg := rfl

/-! State.setCourier. -/

@[simp] theorem State.setCourier_pending (s : State) (c : Nat) (x : Courier) : (s.setCourier c x).pending = s.pending := rfl
@[simp] theorem State.setCourier_fresh (s : State) (c : Nat) (x : Courier) : (s.setCourier c x).fresh = s.fresh := rfl
@[simp] theorem State.setCourier_ids (s : State) (c : Nat) (x : Courier) : (s.setCourier c x).ids = s.ids := rfl
@[simp] theorem State.setCourier_regs (s : State) (c : Nat) (x : Courier) : (s.setCourier c x).regs = s.regs := rfl
@[simp] theorem State.setCourier_accum (s : State) (c : Nat) (x : Courier) : (s.setCourier c x).accum = s.accum := rfl
@[simp] theorem State.setCourier_ahead (s : State) (c : Nat) (x : Courier) : (s.setCourier c x).ahead = s.ahead := rfl
@[simp] theorem State.setCourier_latch (s : State) (c : Nat) (x : Courier) : (s.setCourier c x).latch = s.latch := rfl
@[simp] theorem State.setCourier_readData (s : State) (c : Nat) (x : Courier) : (s.setCourier c x).readData = s.readData := rfl
@[simp] theorem State.setCourier_mgmtAddr (s : State) (c : Nat) (x : Courier) : (s.setCourier c x).mgmtAddr = s.mgmtAddr := rfl
@[simp] theorem State.setCourier_response (s : State) (c : Nat) (x : Courier) : (s.setCourier c x).response = s.response := rfl
@[simp] theorem State.setCourier_tb (s : State) (c : Nat) (x : Courier) : (s.setCourier c x).tb = s.tb := rfl
@[simp] theorem State.setCourier_arrs (s : State) (c : Nat) (x : Courier) : (s.setCourier c x).arrs = s.arrs := rfl
@[simp] theorem State.setCourier_slices (s : State) (c : Nat) (x : Courier) : (s.setCourier c x).slices = s.slices := rfl
@[simp] theorem State.setCourier_mids (s : State) (c : Nat) (x : Courier) : (s.setCourier c x).mids = s.mids := rfl
@[simp] theorem State.setCourier_hbm (s : State) (c : Nat) (x : Courier) : (s.setCourier c x).hbm = s.hbm := rfl
@[simp] theorem State.setCourier_hbmCode (s : State) (c : Nat) (x : Courier) : (s.setCourier c x).hbmCode = s.hbmCode := rfl
@[simp] theorem State.setCourier_far (s : State) (c : Nat) (x : Courier) : (s.setCourier c x).far = s.far := rfl
@[simp] theorem State.setCourier_farPages (s : State) (c : Nat) (x : Courier) : (s.setCourier c x).farPages = s.farPages := rfl
@[simp] theorem State.setCourier_reqs (s : State) (c : Nat) (x : Courier) : (s.setCourier c x).reqs = s.reqs := rfl
@[simp] theorem State.setCourier_reads (s : State) (c : Nat) (x : Courier) : (s.setCourier c x).reads = s.reads := rfl
@[simp] theorem State.setCourier_fills (s : State) (c : Nat) (x : Courier) : (s.setCourier c x).fills = s.fills := rfl
@[simp] theorem State.setCourier_sideFills (s : State) (c : Nat) (x : Courier) : (s.setCourier c x).sideFills = s.sideFills := rfl
@[simp] theorem State.setCourier_writeAcks (s : State) (c : Nat) (x : Courier) : (s.setCourier c x).writeAcks = s.writeAcks := rfl
@[simp] theorem State.setCourier_couriers (s : State) (c : Nat) (x : Courier) : (s.setCourier c x).couriers = Tab.put s.couriers c x := rfl
@[simp] theorem State.setCourier_held (s : State) (c : Nat) (x : Courier) : (s.setCourier c x).held = s.held := rfl
@[simp] theorem State.setCourier_granted (s : State) (c : Nat) (x : Courier) : (s.setCourier c x).granted = s.granted := rfl
@[simp] theorem State.setCourier_halves (s : State) (c : Nat) (x : Courier) : (s.setCourier c x).halves = s.halves := rfl
@[simp] theorem State.setCourier_holds (s : State) (c : Nat) (x : Courier) : (s.setCourier c x).holds = s.holds := rfl
@[simp] theorem State.setCourier_transit (s : State) (c : Nat) (x : Courier) : (s.setCourier c x).transit = s.transit := rfl
@[simp] theorem State.setCourier_deadUnits (s : State) (c : Nat) (x : Courier) : (s.setCourier c x).deadUnits = s.deadUnits := rfl
@[simp] theorem State.setCourier_ports (s : State) (c : Nat) (x : Courier) : (s.setCourier c x).ports = s.ports := rfl
@[simp] theorem State.setCourier_mailbags (s : State) (c : Nat) (x : Courier) : (s.setCourier c x).mailbags = s.mailbags := rfl
@[simp] theorem State.setCourier_works (s : State) (c : Nat) (x : Courier) : (s.setCourier c x).works = s.works := rfl
@[simp] theorem State.setCourier_hostOut (s : State) (c : Nat) (x : Courier) : (s.setCourier c x).hostOut = s.hostOut := rfl
@[simp] theorem State.setCourier_parts (s : State) (c : Nat) (x : Courier) : (s.setCourier c x).parts = s.parts := rfl
@[simp] theorem State.setCourier_trust (s : State) (c : Nat) (x : Courier) : (s.setCourier c x).trust = s.trust := rfl
@[simp] theorem State.setCourier_keys (s : State) (c : Nat) (x : Courier) : (s.setCourier c x).keys = s.keys := rfl
@[simp] theorem State.setCourier_spdm (s : State) (c : Nat) (x : Courier) : (s.setCourier c x).spdm = s.spdm := rfl
@[simp] theorem State.setCourier_faults (s : State) (c : Nat) (x : Courier) : (s.setCourier c x).faults = s.faults := rfl
@[simp] theorem State.setCourier_pairs (s : State) (c : Nat) (x : Courier) : (s.setCourier c x).pairs = s.pairs := rfl
@[simp] theorem State.setCourier_linkSent (s : State) (c : Nat) (x : Courier) : (s.setCourier c x).linkSent = s.linkSent := rfl
@[simp] theorem State.setCourier_pairOut (s : State) (c : Nat) (x : Courier) : (s.setCourier c x).pairOut = s.pairOut := rfl
@[simp] theorem State.setCourier_power (s : State) (c : Nat) (x : Courier) : (s.setCourier c x).power = s.power := rfl
@[simp] theorem State.setCourier_shell (s : State) (c : Nat) (x : Courier) : (s.setCourier c x).shell = s.shell := rfl
@[simp] theorem State.setCourier_dbg (s : State) (c : Nat) (x : Courier) : (s.setCourier c x).dbg = s.dbg := rfl

/-! State.setHalf. -/

@[simp] theorem State.setHalf_pending (s : State) (k : Nat) (x : Half) : (s.setHalf k x).pending = s.pending := rfl
@[simp] theorem State.setHalf_fresh (s : State) (k : Nat) (x : Half) : (s.setHalf k x).fresh = s.fresh := rfl
@[simp] theorem State.setHalf_ids (s : State) (k : Nat) (x : Half) : (s.setHalf k x).ids = s.ids := rfl
@[simp] theorem State.setHalf_regs (s : State) (k : Nat) (x : Half) : (s.setHalf k x).regs = s.regs := rfl
@[simp] theorem State.setHalf_accum (s : State) (k : Nat) (x : Half) : (s.setHalf k x).accum = s.accum := rfl
@[simp] theorem State.setHalf_ahead (s : State) (k : Nat) (x : Half) : (s.setHalf k x).ahead = s.ahead := rfl
@[simp] theorem State.setHalf_latch (s : State) (k : Nat) (x : Half) : (s.setHalf k x).latch = s.latch := rfl
@[simp] theorem State.setHalf_readData (s : State) (k : Nat) (x : Half) : (s.setHalf k x).readData = s.readData := rfl
@[simp] theorem State.setHalf_mgmtAddr (s : State) (k : Nat) (x : Half) : (s.setHalf k x).mgmtAddr = s.mgmtAddr := rfl
@[simp] theorem State.setHalf_response (s : State) (k : Nat) (x : Half) : (s.setHalf k x).response = s.response := rfl
@[simp] theorem State.setHalf_tb (s : State) (k : Nat) (x : Half) : (s.setHalf k x).tb = s.tb := rfl
@[simp] theorem State.setHalf_arrs (s : State) (k : Nat) (x : Half) : (s.setHalf k x).arrs = s.arrs := rfl
@[simp] theorem State.setHalf_slices (s : State) (k : Nat) (x : Half) : (s.setHalf k x).slices = s.slices := rfl
@[simp] theorem State.setHalf_mids (s : State) (k : Nat) (x : Half) : (s.setHalf k x).mids = s.mids := rfl
@[simp] theorem State.setHalf_hbm (s : State) (k : Nat) (x : Half) : (s.setHalf k x).hbm = s.hbm := rfl
@[simp] theorem State.setHalf_hbmCode (s : State) (k : Nat) (x : Half) : (s.setHalf k x).hbmCode = s.hbmCode := rfl
@[simp] theorem State.setHalf_far (s : State) (k : Nat) (x : Half) : (s.setHalf k x).far = s.far := rfl
@[simp] theorem State.setHalf_farPages (s : State) (k : Nat) (x : Half) : (s.setHalf k x).farPages = s.farPages := rfl
@[simp] theorem State.setHalf_reqs (s : State) (k : Nat) (x : Half) : (s.setHalf k x).reqs = s.reqs := rfl
@[simp] theorem State.setHalf_reads (s : State) (k : Nat) (x : Half) : (s.setHalf k x).reads = s.reads := rfl
@[simp] theorem State.setHalf_fills (s : State) (k : Nat) (x : Half) : (s.setHalf k x).fills = s.fills := rfl
@[simp] theorem State.setHalf_sideFills (s : State) (k : Nat) (x : Half) : (s.setHalf k x).sideFills = s.sideFills := rfl
@[simp] theorem State.setHalf_writeAcks (s : State) (k : Nat) (x : Half) : (s.setHalf k x).writeAcks = s.writeAcks := rfl
@[simp] theorem State.setHalf_couriers (s : State) (k : Nat) (x : Half) : (s.setHalf k x).couriers = s.couriers := rfl
@[simp] theorem State.setHalf_held (s : State) (k : Nat) (x : Half) : (s.setHalf k x).held = s.held := rfl
@[simp] theorem State.setHalf_granted (s : State) (k : Nat) (x : Half) : (s.setHalf k x).granted = s.granted := rfl
@[simp] theorem State.setHalf_halves (s : State) (k : Nat) (x : Half) : (s.setHalf k x).halves = Tab.put s.halves k x := rfl
@[simp] theorem State.setHalf_holds (s : State) (k : Nat) (x : Half) : (s.setHalf k x).holds = s.holds := rfl
@[simp] theorem State.setHalf_transit (s : State) (k : Nat) (x : Half) : (s.setHalf k x).transit = s.transit := rfl
@[simp] theorem State.setHalf_deadUnits (s : State) (k : Nat) (x : Half) : (s.setHalf k x).deadUnits = s.deadUnits := rfl
@[simp] theorem State.setHalf_ports (s : State) (k : Nat) (x : Half) : (s.setHalf k x).ports = s.ports := rfl
@[simp] theorem State.setHalf_mailbags (s : State) (k : Nat) (x : Half) : (s.setHalf k x).mailbags = s.mailbags := rfl
@[simp] theorem State.setHalf_works (s : State) (k : Nat) (x : Half) : (s.setHalf k x).works = s.works := rfl
@[simp] theorem State.setHalf_hostOut (s : State) (k : Nat) (x : Half) : (s.setHalf k x).hostOut = s.hostOut := rfl
@[simp] theorem State.setHalf_parts (s : State) (k : Nat) (x : Half) : (s.setHalf k x).parts = s.parts := rfl
@[simp] theorem State.setHalf_trust (s : State) (k : Nat) (x : Half) : (s.setHalf k x).trust = s.trust := rfl
@[simp] theorem State.setHalf_keys (s : State) (k : Nat) (x : Half) : (s.setHalf k x).keys = s.keys := rfl
@[simp] theorem State.setHalf_spdm (s : State) (k : Nat) (x : Half) : (s.setHalf k x).spdm = s.spdm := rfl
@[simp] theorem State.setHalf_faults (s : State) (k : Nat) (x : Half) : (s.setHalf k x).faults = s.faults := rfl
@[simp] theorem State.setHalf_pairs (s : State) (k : Nat) (x : Half) : (s.setHalf k x).pairs = s.pairs := rfl
@[simp] theorem State.setHalf_linkSent (s : State) (k : Nat) (x : Half) : (s.setHalf k x).linkSent = s.linkSent := rfl
@[simp] theorem State.setHalf_pairOut (s : State) (k : Nat) (x : Half) : (s.setHalf k x).pairOut = s.pairOut := rfl
@[simp] theorem State.setHalf_power (s : State) (k : Nat) (x : Half) : (s.setHalf k x).power = s.power := rfl
@[simp] theorem State.setHalf_shell (s : State) (k : Nat) (x : Half) : (s.setHalf k x).shell = s.shell := rfl
@[simp] theorem State.setHalf_dbg (s : State) (k : Nat) (x : Half) : (s.setHalf k x).dbg = s.dbg := rfl

/-! State.setPort. -/

@[simp] theorem State.setPort_pending (s : State) (port : Nat) (x : Port) : (s.setPort port x).pending = s.pending := rfl
@[simp] theorem State.setPort_fresh (s : State) (port : Nat) (x : Port) : (s.setPort port x).fresh = s.fresh := rfl
@[simp] theorem State.setPort_ids (s : State) (port : Nat) (x : Port) : (s.setPort port x).ids = s.ids := rfl
@[simp] theorem State.setPort_regs (s : State) (port : Nat) (x : Port) : (s.setPort port x).regs = s.regs := rfl
@[simp] theorem State.setPort_accum (s : State) (port : Nat) (x : Port) : (s.setPort port x).accum = s.accum := rfl
@[simp] theorem State.setPort_ahead (s : State) (port : Nat) (x : Port) : (s.setPort port x).ahead = s.ahead := rfl
@[simp] theorem State.setPort_latch (s : State) (port : Nat) (x : Port) : (s.setPort port x).latch = s.latch := rfl
@[simp] theorem State.setPort_readData (s : State) (port : Nat) (x : Port) : (s.setPort port x).readData = s.readData := rfl
@[simp] theorem State.setPort_mgmtAddr (s : State) (port : Nat) (x : Port) : (s.setPort port x).mgmtAddr = s.mgmtAddr := rfl
@[simp] theorem State.setPort_response (s : State) (port : Nat) (x : Port) : (s.setPort port x).response = s.response := rfl
@[simp] theorem State.setPort_tb (s : State) (port : Nat) (x : Port) : (s.setPort port x).tb = s.tb := rfl
@[simp] theorem State.setPort_arrs (s : State) (port : Nat) (x : Port) : (s.setPort port x).arrs = s.arrs := rfl
@[simp] theorem State.setPort_slices (s : State) (port : Nat) (x : Port) : (s.setPort port x).slices = s.slices := rfl
@[simp] theorem State.setPort_mids (s : State) (port : Nat) (x : Port) : (s.setPort port x).mids = s.mids := rfl
@[simp] theorem State.setPort_hbm (s : State) (port : Nat) (x : Port) : (s.setPort port x).hbm = s.hbm := rfl
@[simp] theorem State.setPort_hbmCode (s : State) (port : Nat) (x : Port) : (s.setPort port x).hbmCode = s.hbmCode := rfl
@[simp] theorem State.setPort_far (s : State) (port : Nat) (x : Port) : (s.setPort port x).far = s.far := rfl
@[simp] theorem State.setPort_farPages (s : State) (port : Nat) (x : Port) : (s.setPort port x).farPages = s.farPages := rfl
@[simp] theorem State.setPort_reqs (s : State) (port : Nat) (x : Port) : (s.setPort port x).reqs = s.reqs := rfl
@[simp] theorem State.setPort_reads (s : State) (port : Nat) (x : Port) : (s.setPort port x).reads = s.reads := rfl
@[simp] theorem State.setPort_fills (s : State) (port : Nat) (x : Port) : (s.setPort port x).fills = s.fills := rfl
@[simp] theorem State.setPort_sideFills (s : State) (port : Nat) (x : Port) : (s.setPort port x).sideFills = s.sideFills := rfl
@[simp] theorem State.setPort_writeAcks (s : State) (port : Nat) (x : Port) : (s.setPort port x).writeAcks = s.writeAcks := rfl
@[simp] theorem State.setPort_couriers (s : State) (port : Nat) (x : Port) : (s.setPort port x).couriers = s.couriers := rfl
@[simp] theorem State.setPort_held (s : State) (port : Nat) (x : Port) : (s.setPort port x).held = s.held := rfl
@[simp] theorem State.setPort_granted (s : State) (port : Nat) (x : Port) : (s.setPort port x).granted = s.granted := rfl
@[simp] theorem State.setPort_halves (s : State) (port : Nat) (x : Port) : (s.setPort port x).halves = s.halves := rfl
@[simp] theorem State.setPort_holds (s : State) (port : Nat) (x : Port) : (s.setPort port x).holds = s.holds := rfl
@[simp] theorem State.setPort_transit (s : State) (port : Nat) (x : Port) : (s.setPort port x).transit = s.transit := rfl
@[simp] theorem State.setPort_deadUnits (s : State) (port : Nat) (x : Port) : (s.setPort port x).deadUnits = s.deadUnits := rfl
@[simp] theorem State.setPort_ports (s : State) (port : Nat) (x : Port) : (s.setPort port x).ports = Tab.put s.ports port x := rfl
@[simp] theorem State.setPort_mailbags (s : State) (port : Nat) (x : Port) : (s.setPort port x).mailbags = s.mailbags := rfl
@[simp] theorem State.setPort_works (s : State) (port : Nat) (x : Port) : (s.setPort port x).works = s.works := rfl
@[simp] theorem State.setPort_hostOut (s : State) (port : Nat) (x : Port) : (s.setPort port x).hostOut = s.hostOut := rfl
@[simp] theorem State.setPort_parts (s : State) (port : Nat) (x : Port) : (s.setPort port x).parts = s.parts := rfl
@[simp] theorem State.setPort_trust (s : State) (port : Nat) (x : Port) : (s.setPort port x).trust = s.trust := rfl
@[simp] theorem State.setPort_keys (s : State) (port : Nat) (x : Port) : (s.setPort port x).keys = s.keys := rfl
@[simp] theorem State.setPort_spdm (s : State) (port : Nat) (x : Port) : (s.setPort port x).spdm = s.spdm := rfl
@[simp] theorem State.setPort_faults (s : State) (port : Nat) (x : Port) : (s.setPort port x).faults = s.faults := rfl
@[simp] theorem State.setPort_pairs (s : State) (port : Nat) (x : Port) : (s.setPort port x).pairs = s.pairs := rfl
@[simp] theorem State.setPort_linkSent (s : State) (port : Nat) (x : Port) : (s.setPort port x).linkSent = s.linkSent := rfl
@[simp] theorem State.setPort_pairOut (s : State) (port : Nat) (x : Port) : (s.setPort port x).pairOut = s.pairOut := rfl
@[simp] theorem State.setPort_power (s : State) (port : Nat) (x : Port) : (s.setPort port x).power = s.power := rfl
@[simp] theorem State.setPort_shell (s : State) (port : Nat) (x : Port) : (s.setPort port x).shell = s.shell := rfl
@[simp] theorem State.setPort_dbg (s : State) (port : Nat) (x : Port) : (s.setPort port x).dbg = s.dbg := rfl

/-! State.setMailbag. -/

@[simp] theorem State.setMailbag_pending (s : State) (port m : Nat) (x : Mailbag) : (s.setMailbag port m x).pending = s.pending := rfl
@[simp] theorem State.setMailbag_fresh (s : State) (port m : Nat) (x : Mailbag) : (s.setMailbag port m x).fresh = s.fresh := rfl
@[simp] theorem State.setMailbag_ids (s : State) (port m : Nat) (x : Mailbag) : (s.setMailbag port m x).ids = s.ids := rfl
@[simp] theorem State.setMailbag_regs (s : State) (port m : Nat) (x : Mailbag) : (s.setMailbag port m x).regs = s.regs := rfl
@[simp] theorem State.setMailbag_accum (s : State) (port m : Nat) (x : Mailbag) : (s.setMailbag port m x).accum = s.accum := rfl
@[simp] theorem State.setMailbag_ahead (s : State) (port m : Nat) (x : Mailbag) : (s.setMailbag port m x).ahead = s.ahead := rfl
@[simp] theorem State.setMailbag_latch (s : State) (port m : Nat) (x : Mailbag) : (s.setMailbag port m x).latch = s.latch := rfl
@[simp] theorem State.setMailbag_readData (s : State) (port m : Nat) (x : Mailbag) : (s.setMailbag port m x).readData = s.readData := rfl
@[simp] theorem State.setMailbag_mgmtAddr (s : State) (port m : Nat) (x : Mailbag) : (s.setMailbag port m x).mgmtAddr = s.mgmtAddr := rfl
@[simp] theorem State.setMailbag_response (s : State) (port m : Nat) (x : Mailbag) : (s.setMailbag port m x).response = s.response := rfl
@[simp] theorem State.setMailbag_tb (s : State) (port m : Nat) (x : Mailbag) : (s.setMailbag port m x).tb = s.tb := rfl
@[simp] theorem State.setMailbag_arrs (s : State) (port m : Nat) (x : Mailbag) : (s.setMailbag port m x).arrs = s.arrs := rfl
@[simp] theorem State.setMailbag_slices (s : State) (port m : Nat) (x : Mailbag) : (s.setMailbag port m x).slices = s.slices := rfl
@[simp] theorem State.setMailbag_mids (s : State) (port m : Nat) (x : Mailbag) : (s.setMailbag port m x).mids = s.mids := rfl
@[simp] theorem State.setMailbag_hbm (s : State) (port m : Nat) (x : Mailbag) : (s.setMailbag port m x).hbm = s.hbm := rfl
@[simp] theorem State.setMailbag_hbmCode (s : State) (port m : Nat) (x : Mailbag) : (s.setMailbag port m x).hbmCode = s.hbmCode := rfl
@[simp] theorem State.setMailbag_far (s : State) (port m : Nat) (x : Mailbag) : (s.setMailbag port m x).far = s.far := rfl
@[simp] theorem State.setMailbag_farPages (s : State) (port m : Nat) (x : Mailbag) : (s.setMailbag port m x).farPages = s.farPages := rfl
@[simp] theorem State.setMailbag_reqs (s : State) (port m : Nat) (x : Mailbag) : (s.setMailbag port m x).reqs = s.reqs := rfl
@[simp] theorem State.setMailbag_reads (s : State) (port m : Nat) (x : Mailbag) : (s.setMailbag port m x).reads = s.reads := rfl
@[simp] theorem State.setMailbag_fills (s : State) (port m : Nat) (x : Mailbag) : (s.setMailbag port m x).fills = s.fills := rfl
@[simp] theorem State.setMailbag_sideFills (s : State) (port m : Nat) (x : Mailbag) : (s.setMailbag port m x).sideFills = s.sideFills := rfl
@[simp] theorem State.setMailbag_writeAcks (s : State) (port m : Nat) (x : Mailbag) : (s.setMailbag port m x).writeAcks = s.writeAcks := rfl
@[simp] theorem State.setMailbag_couriers (s : State) (port m : Nat) (x : Mailbag) : (s.setMailbag port m x).couriers = s.couriers := rfl
@[simp] theorem State.setMailbag_held (s : State) (port m : Nat) (x : Mailbag) : (s.setMailbag port m x).held = s.held := rfl
@[simp] theorem State.setMailbag_granted (s : State) (port m : Nat) (x : Mailbag) : (s.setMailbag port m x).granted = s.granted := rfl
@[simp] theorem State.setMailbag_halves (s : State) (port m : Nat) (x : Mailbag) : (s.setMailbag port m x).halves = s.halves := rfl
@[simp] theorem State.setMailbag_holds (s : State) (port m : Nat) (x : Mailbag) : (s.setMailbag port m x).holds = s.holds := rfl
@[simp] theorem State.setMailbag_transit (s : State) (port m : Nat) (x : Mailbag) : (s.setMailbag port m x).transit = s.transit := rfl
@[simp] theorem State.setMailbag_deadUnits (s : State) (port m : Nat) (x : Mailbag) : (s.setMailbag port m x).deadUnits = s.deadUnits := rfl
@[simp] theorem State.setMailbag_ports (s : State) (port m : Nat) (x : Mailbag) : (s.setMailbag port m x).ports = s.ports := rfl
@[simp] theorem State.setMailbag_mailbags (s : State) (port m : Nat) (x : Mailbag) : (s.setMailbag port m x).mailbags = Tab.put s.mailbags (4096 * port + m) x := rfl
@[simp] theorem State.setMailbag_works (s : State) (port m : Nat) (x : Mailbag) : (s.setMailbag port m x).works = s.works := rfl
@[simp] theorem State.setMailbag_hostOut (s : State) (port m : Nat) (x : Mailbag) : (s.setMailbag port m x).hostOut = s.hostOut := rfl
@[simp] theorem State.setMailbag_parts (s : State) (port m : Nat) (x : Mailbag) : (s.setMailbag port m x).parts = s.parts := rfl
@[simp] theorem State.setMailbag_trust (s : State) (port m : Nat) (x : Mailbag) : (s.setMailbag port m x).trust = s.trust := rfl
@[simp] theorem State.setMailbag_keys (s : State) (port m : Nat) (x : Mailbag) : (s.setMailbag port m x).keys = s.keys := rfl
@[simp] theorem State.setMailbag_spdm (s : State) (port m : Nat) (x : Mailbag) : (s.setMailbag port m x).spdm = s.spdm := rfl
@[simp] theorem State.setMailbag_faults (s : State) (port m : Nat) (x : Mailbag) : (s.setMailbag port m x).faults = s.faults := rfl
@[simp] theorem State.setMailbag_pairs (s : State) (port m : Nat) (x : Mailbag) : (s.setMailbag port m x).pairs = s.pairs := rfl
@[simp] theorem State.setMailbag_linkSent (s : State) (port m : Nat) (x : Mailbag) : (s.setMailbag port m x).linkSent = s.linkSent := rfl
@[simp] theorem State.setMailbag_pairOut (s : State) (port m : Nat) (x : Mailbag) : (s.setMailbag port m x).pairOut = s.pairOut := rfl
@[simp] theorem State.setMailbag_power (s : State) (port m : Nat) (x : Mailbag) : (s.setMailbag port m x).power = s.power := rfl
@[simp] theorem State.setMailbag_shell (s : State) (port m : Nat) (x : Mailbag) : (s.setMailbag port m x).shell = s.shell := rfl
@[simp] theorem State.setMailbag_dbg (s : State) (port m : Nat) (x : Mailbag) : (s.setMailbag port m x).dbg = s.dbg := rfl

/-! State.modWork. -/

@[simp] theorem State.modWork_pending (s : State) (id : Nat) (f : Work → Work) : (s.modWork id f).pending = s.pending := rfl
@[simp] theorem State.modWork_fresh (s : State) (id : Nat) (f : Work → Work) : (s.modWork id f).fresh = s.fresh := rfl
@[simp] theorem State.modWork_ids (s : State) (id : Nat) (f : Work → Work) : (s.modWork id f).ids = s.ids := rfl
@[simp] theorem State.modWork_regs (s : State) (id : Nat) (f : Work → Work) : (s.modWork id f).regs = s.regs := rfl
@[simp] theorem State.modWork_accum (s : State) (id : Nat) (f : Work → Work) : (s.modWork id f).accum = s.accum := rfl
@[simp] theorem State.modWork_ahead (s : State) (id : Nat) (f : Work → Work) : (s.modWork id f).ahead = s.ahead := rfl
@[simp] theorem State.modWork_latch (s : State) (id : Nat) (f : Work → Work) : (s.modWork id f).latch = s.latch := rfl
@[simp] theorem State.modWork_readData (s : State) (id : Nat) (f : Work → Work) : (s.modWork id f).readData = s.readData := rfl
@[simp] theorem State.modWork_mgmtAddr (s : State) (id : Nat) (f : Work → Work) : (s.modWork id f).mgmtAddr = s.mgmtAddr := rfl
@[simp] theorem State.modWork_response (s : State) (id : Nat) (f : Work → Work) : (s.modWork id f).response = s.response := rfl
@[simp] theorem State.modWork_tb (s : State) (id : Nat) (f : Work → Work) : (s.modWork id f).tb = s.tb := rfl
@[simp] theorem State.modWork_arrs (s : State) (id : Nat) (f : Work → Work) : (s.modWork id f).arrs = s.arrs := rfl
@[simp] theorem State.modWork_slices (s : State) (id : Nat) (f : Work → Work) : (s.modWork id f).slices = s.slices := rfl
@[simp] theorem State.modWork_mids (s : State) (id : Nat) (f : Work → Work) : (s.modWork id f).mids = s.mids := rfl
@[simp] theorem State.modWork_hbm (s : State) (id : Nat) (f : Work → Work) : (s.modWork id f).hbm = s.hbm := rfl
@[simp] theorem State.modWork_hbmCode (s : State) (id : Nat) (f : Work → Work) : (s.modWork id f).hbmCode = s.hbmCode := rfl
@[simp] theorem State.modWork_far (s : State) (id : Nat) (f : Work → Work) : (s.modWork id f).far = s.far := rfl
@[simp] theorem State.modWork_farPages (s : State) (id : Nat) (f : Work → Work) : (s.modWork id f).farPages = s.farPages := rfl
@[simp] theorem State.modWork_reqs (s : State) (id : Nat) (f : Work → Work) : (s.modWork id f).reqs = s.reqs := rfl
@[simp] theorem State.modWork_reads (s : State) (id : Nat) (f : Work → Work) : (s.modWork id f).reads = s.reads := rfl
@[simp] theorem State.modWork_fills (s : State) (id : Nat) (f : Work → Work) : (s.modWork id f).fills = s.fills := rfl
@[simp] theorem State.modWork_sideFills (s : State) (id : Nat) (f : Work → Work) : (s.modWork id f).sideFills = s.sideFills := rfl
@[simp] theorem State.modWork_writeAcks (s : State) (id : Nat) (f : Work → Work) : (s.modWork id f).writeAcks = s.writeAcks := rfl
@[simp] theorem State.modWork_couriers (s : State) (id : Nat) (f : Work → Work) : (s.modWork id f).couriers = s.couriers := rfl
@[simp] theorem State.modWork_held (s : State) (id : Nat) (f : Work → Work) : (s.modWork id f).held = s.held := rfl
@[simp] theorem State.modWork_granted (s : State) (id : Nat) (f : Work → Work) : (s.modWork id f).granted = s.granted := rfl
@[simp] theorem State.modWork_halves (s : State) (id : Nat) (f : Work → Work) : (s.modWork id f).halves = s.halves := rfl
@[simp] theorem State.modWork_holds (s : State) (id : Nat) (f : Work → Work) : (s.modWork id f).holds = s.holds := rfl
@[simp] theorem State.modWork_transit (s : State) (id : Nat) (f : Work → Work) : (s.modWork id f).transit = s.transit := rfl
@[simp] theorem State.modWork_deadUnits (s : State) (id : Nat) (f : Work → Work) : (s.modWork id f).deadUnits = s.deadUnits := rfl
@[simp] theorem State.modWork_ports (s : State) (id : Nat) (f : Work → Work) : (s.modWork id f).ports = s.ports := rfl
@[simp] theorem State.modWork_mailbags (s : State) (id : Nat) (f : Work → Work) : (s.modWork id f).mailbags = s.mailbags := rfl
@[simp] theorem State.modWork_hostOut (s : State) (id : Nat) (f : Work → Work) : (s.modWork id f).hostOut = s.hostOut := rfl
@[simp] theorem State.modWork_parts (s : State) (id : Nat) (f : Work → Work) : (s.modWork id f).parts = s.parts := rfl
@[simp] theorem State.modWork_trust (s : State) (id : Nat) (f : Work → Work) : (s.modWork id f).trust = s.trust := rfl
@[simp] theorem State.modWork_keys (s : State) (id : Nat) (f : Work → Work) : (s.modWork id f).keys = s.keys := rfl
@[simp] theorem State.modWork_spdm (s : State) (id : Nat) (f : Work → Work) : (s.modWork id f).spdm = s.spdm := rfl
@[simp] theorem State.modWork_faults (s : State) (id : Nat) (f : Work → Work) : (s.modWork id f).faults = s.faults := rfl
@[simp] theorem State.modWork_pairs (s : State) (id : Nat) (f : Work → Work) : (s.modWork id f).pairs = s.pairs := rfl
@[simp] theorem State.modWork_linkSent (s : State) (id : Nat) (f : Work → Work) : (s.modWork id f).linkSent = s.linkSent := rfl
@[simp] theorem State.modWork_pairOut (s : State) (id : Nat) (f : Work → Work) : (s.modWork id f).pairOut = s.pairOut := rfl
@[simp] theorem State.modWork_power (s : State) (id : Nat) (f : Work → Work) : (s.modWork id f).power = s.power := rfl
@[simp] theorem State.modWork_shell (s : State) (id : Nat) (f : Work → Work) : (s.modWork id f).shell = s.shell := rfl
@[simp] theorem State.modWork_dbg (s : State) (id : Nat) (f : Work → Work) : (s.modWork id f).dbg = s.dbg := rfl

/-! State.setKeys. -/

@[simp] theorem State.setKeys_pending (s : State) (p : Nat) (x : PartKeys) : (s.setKeys p x).pending = s.pending := rfl
@[simp] theorem State.setKeys_fresh (s : State) (p : Nat) (x : PartKeys) : (s.setKeys p x).fresh = s.fresh := rfl
@[simp] theorem State.setKeys_ids (s : State) (p : Nat) (x : PartKeys) : (s.setKeys p x).ids = s.ids := rfl
@[simp] theorem State.setKeys_regs (s : State) (p : Nat) (x : PartKeys) : (s.setKeys p x).regs = s.regs := rfl
@[simp] theorem State.setKeys_accum (s : State) (p : Nat) (x : PartKeys) : (s.setKeys p x).accum = s.accum := rfl
@[simp] theorem State.setKeys_ahead (s : State) (p : Nat) (x : PartKeys) : (s.setKeys p x).ahead = s.ahead := rfl
@[simp] theorem State.setKeys_latch (s : State) (p : Nat) (x : PartKeys) : (s.setKeys p x).latch = s.latch := rfl
@[simp] theorem State.setKeys_readData (s : State) (p : Nat) (x : PartKeys) : (s.setKeys p x).readData = s.readData := rfl
@[simp] theorem State.setKeys_mgmtAddr (s : State) (p : Nat) (x : PartKeys) : (s.setKeys p x).mgmtAddr = s.mgmtAddr := rfl
@[simp] theorem State.setKeys_response (s : State) (p : Nat) (x : PartKeys) : (s.setKeys p x).response = s.response := rfl
@[simp] theorem State.setKeys_tb (s : State) (p : Nat) (x : PartKeys) : (s.setKeys p x).tb = s.tb := rfl
@[simp] theorem State.setKeys_arrs (s : State) (p : Nat) (x : PartKeys) : (s.setKeys p x).arrs = s.arrs := rfl
@[simp] theorem State.setKeys_slices (s : State) (p : Nat) (x : PartKeys) : (s.setKeys p x).slices = s.slices := rfl
@[simp] theorem State.setKeys_mids (s : State) (p : Nat) (x : PartKeys) : (s.setKeys p x).mids = s.mids := rfl
@[simp] theorem State.setKeys_hbm (s : State) (p : Nat) (x : PartKeys) : (s.setKeys p x).hbm = s.hbm := rfl
@[simp] theorem State.setKeys_hbmCode (s : State) (p : Nat) (x : PartKeys) : (s.setKeys p x).hbmCode = s.hbmCode := rfl
@[simp] theorem State.setKeys_far (s : State) (p : Nat) (x : PartKeys) : (s.setKeys p x).far = s.far := rfl
@[simp] theorem State.setKeys_farPages (s : State) (p : Nat) (x : PartKeys) : (s.setKeys p x).farPages = s.farPages := rfl
@[simp] theorem State.setKeys_reqs (s : State) (p : Nat) (x : PartKeys) : (s.setKeys p x).reqs = s.reqs := rfl
@[simp] theorem State.setKeys_reads (s : State) (p : Nat) (x : PartKeys) : (s.setKeys p x).reads = s.reads := rfl
@[simp] theorem State.setKeys_fills (s : State) (p : Nat) (x : PartKeys) : (s.setKeys p x).fills = s.fills := rfl
@[simp] theorem State.setKeys_sideFills (s : State) (p : Nat) (x : PartKeys) : (s.setKeys p x).sideFills = s.sideFills := rfl
@[simp] theorem State.setKeys_writeAcks (s : State) (p : Nat) (x : PartKeys) : (s.setKeys p x).writeAcks = s.writeAcks := rfl
@[simp] theorem State.setKeys_couriers (s : State) (p : Nat) (x : PartKeys) : (s.setKeys p x).couriers = s.couriers := rfl
@[simp] theorem State.setKeys_held (s : State) (p : Nat) (x : PartKeys) : (s.setKeys p x).held = s.held := rfl
@[simp] theorem State.setKeys_granted (s : State) (p : Nat) (x : PartKeys) : (s.setKeys p x).granted = s.granted := rfl
@[simp] theorem State.setKeys_halves (s : State) (p : Nat) (x : PartKeys) : (s.setKeys p x).halves = s.halves := rfl
@[simp] theorem State.setKeys_holds (s : State) (p : Nat) (x : PartKeys) : (s.setKeys p x).holds = s.holds := rfl
@[simp] theorem State.setKeys_transit (s : State) (p : Nat) (x : PartKeys) : (s.setKeys p x).transit = s.transit := rfl
@[simp] theorem State.setKeys_deadUnits (s : State) (p : Nat) (x : PartKeys) : (s.setKeys p x).deadUnits = s.deadUnits := rfl
@[simp] theorem State.setKeys_ports (s : State) (p : Nat) (x : PartKeys) : (s.setKeys p x).ports = s.ports := rfl
@[simp] theorem State.setKeys_mailbags (s : State) (p : Nat) (x : PartKeys) : (s.setKeys p x).mailbags = s.mailbags := rfl
@[simp] theorem State.setKeys_works (s : State) (p : Nat) (x : PartKeys) : (s.setKeys p x).works = s.works := rfl
@[simp] theorem State.setKeys_hostOut (s : State) (p : Nat) (x : PartKeys) : (s.setKeys p x).hostOut = s.hostOut := rfl
@[simp] theorem State.setKeys_parts (s : State) (p : Nat) (x : PartKeys) : (s.setKeys p x).parts = s.parts := rfl
@[simp] theorem State.setKeys_trust (s : State) (p : Nat) (x : PartKeys) : (s.setKeys p x).trust = s.trust := rfl
@[simp] theorem State.setKeys_keys (s : State) (p : Nat) (x : PartKeys) : (s.setKeys p x).keys = Tab.put s.keys p x := rfl
@[simp] theorem State.setKeys_spdm (s : State) (p : Nat) (x : PartKeys) : (s.setKeys p x).spdm = s.spdm := rfl
@[simp] theorem State.setKeys_faults (s : State) (p : Nat) (x : PartKeys) : (s.setKeys p x).faults = s.faults := rfl
@[simp] theorem State.setKeys_pairs (s : State) (p : Nat) (x : PartKeys) : (s.setKeys p x).pairs = s.pairs := rfl
@[simp] theorem State.setKeys_linkSent (s : State) (p : Nat) (x : PartKeys) : (s.setKeys p x).linkSent = s.linkSent := rfl
@[simp] theorem State.setKeys_pairOut (s : State) (p : Nat) (x : PartKeys) : (s.setKeys p x).pairOut = s.pairOut := rfl
@[simp] theorem State.setKeys_power (s : State) (p : Nat) (x : PartKeys) : (s.setKeys p x).power = s.power := rfl
@[simp] theorem State.setKeys_shell (s : State) (p : Nat) (x : PartKeys) : (s.setKeys p x).shell = s.shell := rfl
@[simp] theorem State.setKeys_dbg (s : State) (p : Nat) (x : PartKeys) : (s.setKeys p x).dbg = s.dbg := rfl

/-! State.setSpdm. -/

@[simp] theorem State.setSpdm_pending (s : State) (port : Nat) (x : Spdm) : (s.setSpdm port x).pending = s.pending := rfl
@[simp] theorem State.setSpdm_fresh (s : State) (port : Nat) (x : Spdm) : (s.setSpdm port x).fresh = s.fresh := rfl
@[simp] theorem State.setSpdm_ids (s : State) (port : Nat) (x : Spdm) : (s.setSpdm port x).ids = s.ids := rfl
@[simp] theorem State.setSpdm_regs (s : State) (port : Nat) (x : Spdm) : (s.setSpdm port x).regs = s.regs := rfl
@[simp] theorem State.setSpdm_accum (s : State) (port : Nat) (x : Spdm) : (s.setSpdm port x).accum = s.accum := rfl
@[simp] theorem State.setSpdm_ahead (s : State) (port : Nat) (x : Spdm) : (s.setSpdm port x).ahead = s.ahead := rfl
@[simp] theorem State.setSpdm_latch (s : State) (port : Nat) (x : Spdm) : (s.setSpdm port x).latch = s.latch := rfl
@[simp] theorem State.setSpdm_readData (s : State) (port : Nat) (x : Spdm) : (s.setSpdm port x).readData = s.readData := rfl
@[simp] theorem State.setSpdm_mgmtAddr (s : State) (port : Nat) (x : Spdm) : (s.setSpdm port x).mgmtAddr = s.mgmtAddr := rfl
@[simp] theorem State.setSpdm_response (s : State) (port : Nat) (x : Spdm) : (s.setSpdm port x).response = s.response := rfl
@[simp] theorem State.setSpdm_tb (s : State) (port : Nat) (x : Spdm) : (s.setSpdm port x).tb = s.tb := rfl
@[simp] theorem State.setSpdm_arrs (s : State) (port : Nat) (x : Spdm) : (s.setSpdm port x).arrs = s.arrs := rfl
@[simp] theorem State.setSpdm_slices (s : State) (port : Nat) (x : Spdm) : (s.setSpdm port x).slices = s.slices := rfl
@[simp] theorem State.setSpdm_mids (s : State) (port : Nat) (x : Spdm) : (s.setSpdm port x).mids = s.mids := rfl
@[simp] theorem State.setSpdm_hbm (s : State) (port : Nat) (x : Spdm) : (s.setSpdm port x).hbm = s.hbm := rfl
@[simp] theorem State.setSpdm_hbmCode (s : State) (port : Nat) (x : Spdm) : (s.setSpdm port x).hbmCode = s.hbmCode := rfl
@[simp] theorem State.setSpdm_far (s : State) (port : Nat) (x : Spdm) : (s.setSpdm port x).far = s.far := rfl
@[simp] theorem State.setSpdm_farPages (s : State) (port : Nat) (x : Spdm) : (s.setSpdm port x).farPages = s.farPages := rfl
@[simp] theorem State.setSpdm_reqs (s : State) (port : Nat) (x : Spdm) : (s.setSpdm port x).reqs = s.reqs := rfl
@[simp] theorem State.setSpdm_reads (s : State) (port : Nat) (x : Spdm) : (s.setSpdm port x).reads = s.reads := rfl
@[simp] theorem State.setSpdm_fills (s : State) (port : Nat) (x : Spdm) : (s.setSpdm port x).fills = s.fills := rfl
@[simp] theorem State.setSpdm_sideFills (s : State) (port : Nat) (x : Spdm) : (s.setSpdm port x).sideFills = s.sideFills := rfl
@[simp] theorem State.setSpdm_writeAcks (s : State) (port : Nat) (x : Spdm) : (s.setSpdm port x).writeAcks = s.writeAcks := rfl
@[simp] theorem State.setSpdm_couriers (s : State) (port : Nat) (x : Spdm) : (s.setSpdm port x).couriers = s.couriers := rfl
@[simp] theorem State.setSpdm_held (s : State) (port : Nat) (x : Spdm) : (s.setSpdm port x).held = s.held := rfl
@[simp] theorem State.setSpdm_granted (s : State) (port : Nat) (x : Spdm) : (s.setSpdm port x).granted = s.granted := rfl
@[simp] theorem State.setSpdm_halves (s : State) (port : Nat) (x : Spdm) : (s.setSpdm port x).halves = s.halves := rfl
@[simp] theorem State.setSpdm_holds (s : State) (port : Nat) (x : Spdm) : (s.setSpdm port x).holds = s.holds := rfl
@[simp] theorem State.setSpdm_transit (s : State) (port : Nat) (x : Spdm) : (s.setSpdm port x).transit = s.transit := rfl
@[simp] theorem State.setSpdm_deadUnits (s : State) (port : Nat) (x : Spdm) : (s.setSpdm port x).deadUnits = s.deadUnits := rfl
@[simp] theorem State.setSpdm_ports (s : State) (port : Nat) (x : Spdm) : (s.setSpdm port x).ports = s.ports := rfl
@[simp] theorem State.setSpdm_mailbags (s : State) (port : Nat) (x : Spdm) : (s.setSpdm port x).mailbags = s.mailbags := rfl
@[simp] theorem State.setSpdm_works (s : State) (port : Nat) (x : Spdm) : (s.setSpdm port x).works = s.works := rfl
@[simp] theorem State.setSpdm_hostOut (s : State) (port : Nat) (x : Spdm) : (s.setSpdm port x).hostOut = s.hostOut := rfl
@[simp] theorem State.setSpdm_parts (s : State) (port : Nat) (x : Spdm) : (s.setSpdm port x).parts = s.parts := rfl
@[simp] theorem State.setSpdm_trust (s : State) (port : Nat) (x : Spdm) : (s.setSpdm port x).trust = s.trust := rfl
@[simp] theorem State.setSpdm_keys (s : State) (port : Nat) (x : Spdm) : (s.setSpdm port x).keys = s.keys := rfl
@[simp] theorem State.setSpdm_spdm (s : State) (port : Nat) (x : Spdm) : (s.setSpdm port x).spdm = Tab.put s.spdm port x := rfl
@[simp] theorem State.setSpdm_faults (s : State) (port : Nat) (x : Spdm) : (s.setSpdm port x).faults = s.faults := rfl
@[simp] theorem State.setSpdm_pairs (s : State) (port : Nat) (x : Spdm) : (s.setSpdm port x).pairs = s.pairs := rfl
@[simp] theorem State.setSpdm_linkSent (s : State) (port : Nat) (x : Spdm) : (s.setSpdm port x).linkSent = s.linkSent := rfl
@[simp] theorem State.setSpdm_pairOut (s : State) (port : Nat) (x : Spdm) : (s.setSpdm port x).pairOut = s.pairOut := rfl
@[simp] theorem State.setSpdm_power (s : State) (port : Nat) (x : Spdm) : (s.setSpdm port x).power = s.power := rfl
@[simp] theorem State.setSpdm_shell (s : State) (port : Nat) (x : Spdm) : (s.setSpdm port x).shell = s.shell := rfl
@[simp] theorem State.setSpdm_dbg (s : State) (port : Nat) (x : Spdm) : (s.setSpdm port x).dbg = s.dbg := rfl

/-! State.setSession. -/

@[simp] theorem State.setSession_pending (s : State) (port sess : Nat) (x : Session) : (s.setSession port sess x).pending = s.pending := rfl
@[simp] theorem State.setSession_fresh (s : State) (port sess : Nat) (x : Session) : (s.setSession port sess x).fresh = s.fresh := rfl
@[simp] theorem State.setSession_ids (s : State) (port sess : Nat) (x : Session) : (s.setSession port sess x).ids = s.ids := rfl
@[simp] theorem State.setSession_regs (s : State) (port sess : Nat) (x : Session) : (s.setSession port sess x).regs = s.regs := rfl
@[simp] theorem State.setSession_accum (s : State) (port sess : Nat) (x : Session) : (s.setSession port sess x).accum = s.accum := rfl
@[simp] theorem State.setSession_ahead (s : State) (port sess : Nat) (x : Session) : (s.setSession port sess x).ahead = s.ahead := rfl
@[simp] theorem State.setSession_latch (s : State) (port sess : Nat) (x : Session) : (s.setSession port sess x).latch = s.latch := rfl
@[simp] theorem State.setSession_readData (s : State) (port sess : Nat) (x : Session) : (s.setSession port sess x).readData = s.readData := rfl
@[simp] theorem State.setSession_mgmtAddr (s : State) (port sess : Nat) (x : Session) : (s.setSession port sess x).mgmtAddr = s.mgmtAddr := rfl
@[simp] theorem State.setSession_response (s : State) (port sess : Nat) (x : Session) : (s.setSession port sess x).response = s.response := rfl
@[simp] theorem State.setSession_tb (s : State) (port sess : Nat) (x : Session) : (s.setSession port sess x).tb = s.tb := rfl
@[simp] theorem State.setSession_arrs (s : State) (port sess : Nat) (x : Session) : (s.setSession port sess x).arrs = s.arrs := rfl
@[simp] theorem State.setSession_slices (s : State) (port sess : Nat) (x : Session) : (s.setSession port sess x).slices = s.slices := rfl
@[simp] theorem State.setSession_mids (s : State) (port sess : Nat) (x : Session) : (s.setSession port sess x).mids = s.mids := rfl
@[simp] theorem State.setSession_hbm (s : State) (port sess : Nat) (x : Session) : (s.setSession port sess x).hbm = s.hbm := rfl
@[simp] theorem State.setSession_hbmCode (s : State) (port sess : Nat) (x : Session) : (s.setSession port sess x).hbmCode = s.hbmCode := rfl
@[simp] theorem State.setSession_far (s : State) (port sess : Nat) (x : Session) : (s.setSession port sess x).far = s.far := rfl
@[simp] theorem State.setSession_farPages (s : State) (port sess : Nat) (x : Session) : (s.setSession port sess x).farPages = s.farPages := rfl
@[simp] theorem State.setSession_reqs (s : State) (port sess : Nat) (x : Session) : (s.setSession port sess x).reqs = s.reqs := rfl
@[simp] theorem State.setSession_reads (s : State) (port sess : Nat) (x : Session) : (s.setSession port sess x).reads = s.reads := rfl
@[simp] theorem State.setSession_fills (s : State) (port sess : Nat) (x : Session) : (s.setSession port sess x).fills = s.fills := rfl
@[simp] theorem State.setSession_sideFills (s : State) (port sess : Nat) (x : Session) : (s.setSession port sess x).sideFills = s.sideFills := rfl
@[simp] theorem State.setSession_writeAcks (s : State) (port sess : Nat) (x : Session) : (s.setSession port sess x).writeAcks = s.writeAcks := rfl
@[simp] theorem State.setSession_couriers (s : State) (port sess : Nat) (x : Session) : (s.setSession port sess x).couriers = s.couriers := rfl
@[simp] theorem State.setSession_held (s : State) (port sess : Nat) (x : Session) : (s.setSession port sess x).held = s.held := rfl
@[simp] theorem State.setSession_granted (s : State) (port sess : Nat) (x : Session) : (s.setSession port sess x).granted = s.granted := rfl
@[simp] theorem State.setSession_halves (s : State) (port sess : Nat) (x : Session) : (s.setSession port sess x).halves = s.halves := rfl
@[simp] theorem State.setSession_holds (s : State) (port sess : Nat) (x : Session) : (s.setSession port sess x).holds = s.holds := rfl
@[simp] theorem State.setSession_transit (s : State) (port sess : Nat) (x : Session) : (s.setSession port sess x).transit = s.transit := rfl
@[simp] theorem State.setSession_deadUnits (s : State) (port sess : Nat) (x : Session) : (s.setSession port sess x).deadUnits = s.deadUnits := rfl
@[simp] theorem State.setSession_ports (s : State) (port sess : Nat) (x : Session) : (s.setSession port sess x).ports = s.ports := rfl
@[simp] theorem State.setSession_mailbags (s : State) (port sess : Nat) (x : Session) : (s.setSession port sess x).mailbags = s.mailbags := rfl
@[simp] theorem State.setSession_works (s : State) (port sess : Nat) (x : Session) : (s.setSession port sess x).works = s.works := rfl
@[simp] theorem State.setSession_hostOut (s : State) (port sess : Nat) (x : Session) : (s.setSession port sess x).hostOut = s.hostOut := rfl
@[simp] theorem State.setSession_parts (s : State) (port sess : Nat) (x : Session) : (s.setSession port sess x).parts = s.parts := rfl
@[simp] theorem State.setSession_trust (s : State) (port sess : Nat) (x : Session) : (s.setSession port sess x).trust = s.trust := rfl
@[simp] theorem State.setSession_keys (s : State) (port sess : Nat) (x : Session) : (s.setSession port sess x).keys = s.keys := rfl
@[simp] theorem State.setSession_faults (s : State) (port sess : Nat) (x : Session) : (s.setSession port sess x).faults = s.faults := rfl
@[simp] theorem State.setSession_pairs (s : State) (port sess : Nat) (x : Session) : (s.setSession port sess x).pairs = s.pairs := rfl
@[simp] theorem State.setSession_linkSent (s : State) (port sess : Nat) (x : Session) : (s.setSession port sess x).linkSent = s.linkSent := rfl
@[simp] theorem State.setSession_pairOut (s : State) (port sess : Nat) (x : Session) : (s.setSession port sess x).pairOut = s.pairOut := rfl
@[simp] theorem State.setSession_power (s : State) (port sess : Nat) (x : Session) : (s.setSession port sess x).power = s.power := rfl
@[simp] theorem State.setSession_shell (s : State) (port sess : Nat) (x : Session) : (s.setSession port sess x).shell = s.shell := rfl
@[simp] theorem State.setSession_dbg (s : State) (port sess : Nat) (x : Session) : (s.setSession port sess x).dbg = s.dbg := rfl

/-! State.setPair. -/

@[simp] theorem State.setPair_pending (s : State) (p : Nat) (x : PairPart) : (s.setPair p x).pending = s.pending := rfl
@[simp] theorem State.setPair_fresh (s : State) (p : Nat) (x : PairPart) : (s.setPair p x).fresh = s.fresh := rfl
@[simp] theorem State.setPair_ids (s : State) (p : Nat) (x : PairPart) : (s.setPair p x).ids = s.ids := rfl
@[simp] theorem State.setPair_regs (s : State) (p : Nat) (x : PairPart) : (s.setPair p x).regs = s.regs := rfl
@[simp] theorem State.setPair_accum (s : State) (p : Nat) (x : PairPart) : (s.setPair p x).accum = s.accum := rfl
@[simp] theorem State.setPair_ahead (s : State) (p : Nat) (x : PairPart) : (s.setPair p x).ahead = s.ahead := rfl
@[simp] theorem State.setPair_latch (s : State) (p : Nat) (x : PairPart) : (s.setPair p x).latch = s.latch := rfl
@[simp] theorem State.setPair_readData (s : State) (p : Nat) (x : PairPart) : (s.setPair p x).readData = s.readData := rfl
@[simp] theorem State.setPair_mgmtAddr (s : State) (p : Nat) (x : PairPart) : (s.setPair p x).mgmtAddr = s.mgmtAddr := rfl
@[simp] theorem State.setPair_response (s : State) (p : Nat) (x : PairPart) : (s.setPair p x).response = s.response := rfl
@[simp] theorem State.setPair_tb (s : State) (p : Nat) (x : PairPart) : (s.setPair p x).tb = s.tb := rfl
@[simp] theorem State.setPair_arrs (s : State) (p : Nat) (x : PairPart) : (s.setPair p x).arrs = s.arrs := rfl
@[simp] theorem State.setPair_slices (s : State) (p : Nat) (x : PairPart) : (s.setPair p x).slices = s.slices := rfl
@[simp] theorem State.setPair_mids (s : State) (p : Nat) (x : PairPart) : (s.setPair p x).mids = s.mids := rfl
@[simp] theorem State.setPair_hbm (s : State) (p : Nat) (x : PairPart) : (s.setPair p x).hbm = s.hbm := rfl
@[simp] theorem State.setPair_hbmCode (s : State) (p : Nat) (x : PairPart) : (s.setPair p x).hbmCode = s.hbmCode := rfl
@[simp] theorem State.setPair_far (s : State) (p : Nat) (x : PairPart) : (s.setPair p x).far = s.far := rfl
@[simp] theorem State.setPair_farPages (s : State) (p : Nat) (x : PairPart) : (s.setPair p x).farPages = s.farPages := rfl
@[simp] theorem State.setPair_reqs (s : State) (p : Nat) (x : PairPart) : (s.setPair p x).reqs = s.reqs := rfl
@[simp] theorem State.setPair_reads (s : State) (p : Nat) (x : PairPart) : (s.setPair p x).reads = s.reads := rfl
@[simp] theorem State.setPair_fills (s : State) (p : Nat) (x : PairPart) : (s.setPair p x).fills = s.fills := rfl
@[simp] theorem State.setPair_sideFills (s : State) (p : Nat) (x : PairPart) : (s.setPair p x).sideFills = s.sideFills := rfl
@[simp] theorem State.setPair_writeAcks (s : State) (p : Nat) (x : PairPart) : (s.setPair p x).writeAcks = s.writeAcks := rfl
@[simp] theorem State.setPair_couriers (s : State) (p : Nat) (x : PairPart) : (s.setPair p x).couriers = s.couriers := rfl
@[simp] theorem State.setPair_held (s : State) (p : Nat) (x : PairPart) : (s.setPair p x).held = s.held := rfl
@[simp] theorem State.setPair_granted (s : State) (p : Nat) (x : PairPart) : (s.setPair p x).granted = s.granted := rfl
@[simp] theorem State.setPair_halves (s : State) (p : Nat) (x : PairPart) : (s.setPair p x).halves = s.halves := rfl
@[simp] theorem State.setPair_holds (s : State) (p : Nat) (x : PairPart) : (s.setPair p x).holds = s.holds := rfl
@[simp] theorem State.setPair_transit (s : State) (p : Nat) (x : PairPart) : (s.setPair p x).transit = s.transit := rfl
@[simp] theorem State.setPair_deadUnits (s : State) (p : Nat) (x : PairPart) : (s.setPair p x).deadUnits = s.deadUnits := rfl
@[simp] theorem State.setPair_ports (s : State) (p : Nat) (x : PairPart) : (s.setPair p x).ports = s.ports := rfl
@[simp] theorem State.setPair_mailbags (s : State) (p : Nat) (x : PairPart) : (s.setPair p x).mailbags = s.mailbags := rfl
@[simp] theorem State.setPair_works (s : State) (p : Nat) (x : PairPart) : (s.setPair p x).works = s.works := rfl
@[simp] theorem State.setPair_hostOut (s : State) (p : Nat) (x : PairPart) : (s.setPair p x).hostOut = s.hostOut := rfl
@[simp] theorem State.setPair_parts (s : State) (p : Nat) (x : PairPart) : (s.setPair p x).parts = s.parts := rfl
@[simp] theorem State.setPair_trust (s : State) (p : Nat) (x : PairPart) : (s.setPair p x).trust = s.trust := rfl
@[simp] theorem State.setPair_keys (s : State) (p : Nat) (x : PairPart) : (s.setPair p x).keys = s.keys := rfl
@[simp] theorem State.setPair_spdm (s : State) (p : Nat) (x : PairPart) : (s.setPair p x).spdm = s.spdm := rfl
@[simp] theorem State.setPair_faults (s : State) (p : Nat) (x : PairPart) : (s.setPair p x).faults = s.faults := rfl
@[simp] theorem State.setPair_pairs (s : State) (p : Nat) (x : PairPart) : (s.setPair p x).pairs = Tab.put s.pairs p x := rfl
@[simp] theorem State.setPair_linkSent (s : State) (p : Nat) (x : PairPart) : (s.setPair p x).linkSent = s.linkSent := rfl
@[simp] theorem State.setPair_pairOut (s : State) (p : Nat) (x : PairPart) : (s.setPair p x).pairOut = s.pairOut := rfl
@[simp] theorem State.setPair_power (s : State) (p : Nat) (x : PairPart) : (s.setPair p x).power = s.power := rfl
@[simp] theorem State.setPair_shell (s : State) (p : Nat) (x : PairPart) : (s.setPair p x).shell = s.shell := rfl
@[simp] theorem State.setPair_dbg (s : State) (p : Nat) (x : PairPart) : (s.setPair p x).dbg = s.dbg := rfl

/-! State.setDbg. -/

@[simp] theorem State.setDbg_pending (s : State) (p : Nat) (x : Dbg) : (s.setDbg p x).pending = s.pending := rfl
@[simp] theorem State.setDbg_fresh (s : State) (p : Nat) (x : Dbg) : (s.setDbg p x).fresh = s.fresh := rfl
@[simp] theorem State.setDbg_ids (s : State) (p : Nat) (x : Dbg) : (s.setDbg p x).ids = s.ids := rfl
@[simp] theorem State.setDbg_regs (s : State) (p : Nat) (x : Dbg) : (s.setDbg p x).regs = s.regs := rfl
@[simp] theorem State.setDbg_accum (s : State) (p : Nat) (x : Dbg) : (s.setDbg p x).accum = s.accum := rfl
@[simp] theorem State.setDbg_ahead (s : State) (p : Nat) (x : Dbg) : (s.setDbg p x).ahead = s.ahead := rfl
@[simp] theorem State.setDbg_latch (s : State) (p : Nat) (x : Dbg) : (s.setDbg p x).latch = s.latch := rfl
@[simp] theorem State.setDbg_readData (s : State) (p : Nat) (x : Dbg) : (s.setDbg p x).readData = s.readData := rfl
@[simp] theorem State.setDbg_mgmtAddr (s : State) (p : Nat) (x : Dbg) : (s.setDbg p x).mgmtAddr = s.mgmtAddr := rfl
@[simp] theorem State.setDbg_response (s : State) (p : Nat) (x : Dbg) : (s.setDbg p x).response = s.response := rfl
@[simp] theorem State.setDbg_tb (s : State) (p : Nat) (x : Dbg) : (s.setDbg p x).tb = s.tb := rfl
@[simp] theorem State.setDbg_arrs (s : State) (p : Nat) (x : Dbg) : (s.setDbg p x).arrs = s.arrs := rfl
@[simp] theorem State.setDbg_slices (s : State) (p : Nat) (x : Dbg) : (s.setDbg p x).slices = s.slices := rfl
@[simp] theorem State.setDbg_mids (s : State) (p : Nat) (x : Dbg) : (s.setDbg p x).mids = s.mids := rfl
@[simp] theorem State.setDbg_hbm (s : State) (p : Nat) (x : Dbg) : (s.setDbg p x).hbm = s.hbm := rfl
@[simp] theorem State.setDbg_hbmCode (s : State) (p : Nat) (x : Dbg) : (s.setDbg p x).hbmCode = s.hbmCode := rfl
@[simp] theorem State.setDbg_far (s : State) (p : Nat) (x : Dbg) : (s.setDbg p x).far = s.far := rfl
@[simp] theorem State.setDbg_farPages (s : State) (p : Nat) (x : Dbg) : (s.setDbg p x).farPages = s.farPages := rfl
@[simp] theorem State.setDbg_reqs (s : State) (p : Nat) (x : Dbg) : (s.setDbg p x).reqs = s.reqs := rfl
@[simp] theorem State.setDbg_reads (s : State) (p : Nat) (x : Dbg) : (s.setDbg p x).reads = s.reads := rfl
@[simp] theorem State.setDbg_fills (s : State) (p : Nat) (x : Dbg) : (s.setDbg p x).fills = s.fills := rfl
@[simp] theorem State.setDbg_sideFills (s : State) (p : Nat) (x : Dbg) : (s.setDbg p x).sideFills = s.sideFills := rfl
@[simp] theorem State.setDbg_writeAcks (s : State) (p : Nat) (x : Dbg) : (s.setDbg p x).writeAcks = s.writeAcks := rfl
@[simp] theorem State.setDbg_couriers (s : State) (p : Nat) (x : Dbg) : (s.setDbg p x).couriers = s.couriers := rfl
@[simp] theorem State.setDbg_held (s : State) (p : Nat) (x : Dbg) : (s.setDbg p x).held = s.held := rfl
@[simp] theorem State.setDbg_granted (s : State) (p : Nat) (x : Dbg) : (s.setDbg p x).granted = s.granted := rfl
@[simp] theorem State.setDbg_halves (s : State) (p : Nat) (x : Dbg) : (s.setDbg p x).halves = s.halves := rfl
@[simp] theorem State.setDbg_holds (s : State) (p : Nat) (x : Dbg) : (s.setDbg p x).holds = s.holds := rfl
@[simp] theorem State.setDbg_transit (s : State) (p : Nat) (x : Dbg) : (s.setDbg p x).transit = s.transit := rfl
@[simp] theorem State.setDbg_deadUnits (s : State) (p : Nat) (x : Dbg) : (s.setDbg p x).deadUnits = s.deadUnits := rfl
@[simp] theorem State.setDbg_ports (s : State) (p : Nat) (x : Dbg) : (s.setDbg p x).ports = s.ports := rfl
@[simp] theorem State.setDbg_mailbags (s : State) (p : Nat) (x : Dbg) : (s.setDbg p x).mailbags = s.mailbags := rfl
@[simp] theorem State.setDbg_works (s : State) (p : Nat) (x : Dbg) : (s.setDbg p x).works = s.works := rfl
@[simp] theorem State.setDbg_hostOut (s : State) (p : Nat) (x : Dbg) : (s.setDbg p x).hostOut = s.hostOut := rfl
@[simp] theorem State.setDbg_parts (s : State) (p : Nat) (x : Dbg) : (s.setDbg p x).parts = s.parts := rfl
@[simp] theorem State.setDbg_trust (s : State) (p : Nat) (x : Dbg) : (s.setDbg p x).trust = s.trust := rfl
@[simp] theorem State.setDbg_keys (s : State) (p : Nat) (x : Dbg) : (s.setDbg p x).keys = s.keys := rfl
@[simp] theorem State.setDbg_spdm (s : State) (p : Nat) (x : Dbg) : (s.setDbg p x).spdm = s.spdm := rfl
@[simp] theorem State.setDbg_faults (s : State) (p : Nat) (x : Dbg) : (s.setDbg p x).faults = s.faults := rfl
@[simp] theorem State.setDbg_pairs (s : State) (p : Nat) (x : Dbg) : (s.setDbg p x).pairs = s.pairs := rfl
@[simp] theorem State.setDbg_linkSent (s : State) (p : Nat) (x : Dbg) : (s.setDbg p x).linkSent = s.linkSent := rfl
@[simp] theorem State.setDbg_pairOut (s : State) (p : Nat) (x : Dbg) : (s.setDbg p x).pairOut = s.pairOut := rfl
@[simp] theorem State.setDbg_power (s : State) (p : Nat) (x : Dbg) : (s.setDbg p x).power = s.power := rfl
@[simp] theorem State.setDbg_shell (s : State) (p : Nat) (x : Dbg) : (s.setDbg p x).shell = s.shell := rfl
@[simp] theorem State.setDbg_dbg (s : State) (p : Nat) (x : Dbg) : (s.setDbg p x).dbg = Tab.put s.dbg p x := rfl

end Sys2Proof.Machine
end

