-- ==== Sys2Proof/Laws/Regs.lean ====
section
/-! SUPPORT. Reading back what was stored: a table after a put, a register, a field and a bit after an update of a register. -/

namespace Sys2Proof.Machine

theorem Tab.getD_put {α : Type} (t : Tab α) (k j : Nat) (v d : α) :
    Tab.getD (Tab.put t k v) j d = if j = k then v else Tab.getD t j d := by
  split
  · next h => rw [h, Tab.getD_put_self]
  · next h => rw [Tab.getD_put_other _ _ _ _ _ h]

theorem Tab.get_put {α : Type} (t : Tab α) (k j : Nat) (v : α) : Tab.get (Tab.put t k v) j = if j = k then some v else Tab.get t j := by
  split
  · next h => rw [h, Tab.get_put_self]
  · next h => rw [Tab.get_put_other _ _ _ _ h]

theorem Tab.getD_modify {α : Type} (t : Tab α) (k j : Nat) (d : α) (f : α → α) :
    Tab.getD (Tab.modify t k d f) j d = if j = k then f (Tab.getD t k d) else Tab.getD t j d := Tab.getD_put _ _ _ _ _

theorem Tab.put_put {α : Type} (t : Tab α) (k : Nat) (v w : α) : Tab.put (Tab.put t k v) k w = Tab.put t k w := by
  induction t with
  | nil => simp [Tab.put]
  | cons e t ih =>
    simp only [Tab.put]
    split
    · simp [Tab.put]
    · next h =>
      split
      · simp [Tab.put]
      · next h' => simp [Tab.put, h, h', ih]

/-! Bits of numbers. -/

theorem bitsOf_lt (x lo w : Nat) : bitsOf x lo w < 2 ^ w := Nat.mod_lt _ (Nat.two_pow_pos w)

theorem testBit_bitsOf (x lo w i : Nat) : (bitsOf x lo w).testBit i = (decide (i < w) && x.testBit (lo + i)) := by
  simp [bitsOf, Nat.testBit_mod_two_pow, Nat.testBit_shiftRight]

/-- A number cut at two places. -/
theorem bits_split (x lo w : Nat) : x = 2 ^ (lo + w) * (x / 2 ^ (lo + w)) + (bitsOf x lo w * 2 ^ lo + x % 2 ^ lo) := by
  have h1 := Nat.div_add_mod x (2 ^ lo)
  have h2 := Nat.div_add_mod (x / 2 ^ lo) (2 ^ w)
  have h3 : x / 2 ^ lo / 2 ^ w = x / 2 ^ (lo + w) := by rw [Nat.div_div_eq_div_mul, pow_add]
  simp only [bitsOf, Nat.shiftRight_eq_div_pow]
  rw [h3] at h2
  calc x = 2 ^ lo * (x / 2 ^ lo) + x % 2 ^ lo := h1.symm
    _ = 2 ^ lo * (2 ^ w * (x / 2 ^ (lo + w)) + x / 2 ^ lo % 2 ^ w) + x % 2 ^ lo := by rw [h2]
    _ = _ := by rw [pow_add]; ring

theorem withBits_eq (x lo w v : Nat) : withBits x lo w v = 2 ^ (lo + w) * (x / 2 ^ (lo + w)) + (v % 2 ^ w * 2 ^ lo + x % 2 ^ lo) := by
  have h := bits_split x lo w
  simp only [withBits]
  omega

theorem testBit_withBits (x lo w v i : Nat) :
    (withBits x lo w v).testBit i = if lo ≤ i ∧ i < lo + w then v.testBit (i - lo) else x.testBit i := by
  have hlow : v % 2 ^ w * 2 ^ lo + x % 2 ^ lo < 2 ^ (lo + w) := by
    have h1 := Nat.mod_lt v (Nat.two_pow_pos w)
    have h2 := Nat.mod_lt x (Nat.two_pow_pos lo)
    calc v % 2 ^ w * 2 ^ lo + x % 2 ^ lo < v % 2 ^ w * 2 ^ lo + 2 ^ lo := by omega
      _ = (v % 2 ^ w + 1) * 2 ^ lo := by ring
      _ ≤ 2 ^ w * 2 ^ lo := Nat.mul_le_mul_right _ h1
      _ = 2 ^ (lo + w) := by rw [pow_add]; ring
  have h2 := Nat.mod_lt x (Nat.two_pow_pos lo)
  rw [withBits_eq, Nat.testBit_two_pow_mul_add _ hlow, Nat.mul_comm (v % 2 ^ w), Nat.testBit_two_pow_mul_add _ h2]
  by_cases ha : i < lo
  · have : i < lo + w := by omega
    simp [this, ha, Nat.testBit_mod_two_pow, show ¬ lo ≤ i by omega]
  · by_cases hb : i < lo + w
    · simp [ha, hb, Nat.testBit_mod_two_pow, show lo ≤ i by omega, show i - lo < w by omega]
    · simp only [hb, if_false, and_false]
      rw [Nat.testBit_div_two_pow]
      congr 1
      omega

theorem withBits_lt (x lo w v n : Nat) (hx : x < 2 ^ n) (h : lo + w ≤ n) : withBits x lo w v < 2 ^ n := by
  apply Nat.lt_pow_two_of_testBit
  intro i hi
  rw [testBit_withBits, if_neg (by omega)]
  exact Nat.testBit_lt_two_pow (lt_of_lt_of_le hx (Nat.pow_le_pow_right (by decide) hi))

theorem bitsOf_withBits_self (x lo w v : Nat) : bitsOf (withBits x lo w v) lo w = v % 2 ^ w := by
  apply Nat.eq_of_testBit_eq
  intro i
  rw [testBit_bitsOf, testBit_withBits, Nat.testBit_mod_two_pow]
  by_cases h : i < w
  · simp [h]
  · simp [h]

theorem bitsOf_withBits_other (x lo w v lo' w' : Nat) (h : lo' + w' ≤ lo ∨ lo + w ≤ lo') :
    bitsOf (withBits x lo w v) lo' w' = bitsOf x lo' w' := by
  apply Nat.eq_of_testBit_eq
  intro i
  rw [testBit_bitsOf, testBit_bitsOf, testBit_withBits]
  by_cases hi : i < w'
  · rw [if_neg (by omega)]
  · simp [hi]

/-! Registers. -/

theorem State.reg_setReg (s : State) (a b : Nat) (v : W32) : (s.setReg a v).reg b = if b = a then v else s.reg b := by
  simp only [State.reg, State.setReg_regs, Tab.getD_put]

@[simp] theorem State.reg_setReg_self (s : State) (a : Nat) (v : W32) : (s.setReg a v).reg a = v := by simp [State.reg_setReg]

theorem State.reg_setReg_other (s : State) (a b : Nat) (v : W32) (h : b ≠ a) : (s.setReg a v).reg b = s.reg b := by simp [State.reg_setReg, h]

theorem State.reg_setField (s : State) (a b lo w v : Nat) :
    (s.setField a lo w v).reg b = if b = a then BitVec.ofNat 32 (withBits (s.reg a).toNat lo w v) else s.reg b := State.reg_setReg ..

theorem State.reg_setField_other (s : State) (a b lo w v : Nat) (h : b ≠ a) : (s.setField a lo w v).reg b = s.reg b := by
  simp [State.reg_setField, h]

theorem State.reg_setBit_other (s : State) (a b i : Nat) (h : b ≠ a) : (s.setBit a i).reg b = s.reg b := State.reg_setField_other _ _ _ _ _ _ h
theorem State.reg_clearBit_other (s : State) (a b i : Nat) (h : b ≠ a) : (s.clearBit a i).reg b = s.reg b := State.reg_setField_other _ _ _ _ _ _ h

/-- A field after a field of the same register was stored, for fields that lie in the register. -/
theorem State.field_setField_same (s : State) (a lo w v lo' w' : Nat) (h : lo + w ≤ 32) :
    (s.setField a lo w v).field a lo' w' = bitsOf (withBits (s.reg a).toNat lo w v) lo' w' := by
  have hx := withBits_lt (s.reg a).toNat lo w v 32 (s.reg a).isLt h
  simp only [State.field, State.reg_setField, if_pos, BitVec.toNat_ofNat, Nat.mod_eq_of_lt hx]

@[simp] theorem State.field_setField_self (s : State) (a lo w v : Nat) (h : lo + w ≤ 32) :
    (s.setField a lo w v).field a lo w = v % 2 ^ w := by
  rw [State.field_setField_same _ _ _ _ _ _ _ h, bitsOf_withBits_self]

theorem State.field_setField_disjoint (s : State) (a lo w v lo' w' : Nat) (h : lo + w ≤ 32) (hd : lo' + w' ≤ lo ∨ lo + w ≤ lo') :
    (s.setField a lo w v).field a lo' w' = s.field a lo' w' := by
  rw [State.field_setField_same _ _ _ _ _ _ _ h, bitsOf_withBits_other _ _ _ _ _ _ hd]; rfl

theorem State.field_setField_other (s : State) (a b lo w v lo' w' : Nat) (h : b ≠ a) : (s.setField a lo w v).field b lo' w' = s.field b lo' w' := by
  simp [State.field, State.reg_setField, h]

theorem State.field_setReg (s : State) (a b lo w : Nat) (v : W32) :
    (s.setReg a v).field b lo w = if b = a then bitsOf v.toNat lo w else s.field b lo w := by
  simp only [State.field, State.reg_setReg]; split <;> rfl

@[simp] theorem State.bit_setBit_self (s : State) (a i : Nat) (h : i < 32) : (s.setBit a i).bit a i = true := by
  simp [State.bit, State.setBit, State.field_setField_self _ _ _ _ _ (show i + 1 ≤ 32 by omega)]

@[simp] theorem State.bit_clearBit_self (s : State) (a i : Nat) (h : i < 32) : (s.clearBit a i).bit a i = false := by
  simp [State.bit, State.clearBit, State.field_setField_self _ _ _ _ _ (show i + 1 ≤ 32 by omega)]

theorem State.field_setBit (s : State) (a b i lo w : Nat) (h : i < 32) (hd : b ≠ a ∨ lo + w ≤ i ∨ i < lo) :
    (s.setBit a i).field b lo w = s.field b lo w := by
  by_cases hb : b = a
  · subst hb; exact State.field_setField_disjoint _ _ _ _ _ _ _ (by omega) (by omega)
  · exact State.field_setField_other _ _ _ _ _ _ _ _ hb

theorem State.field_clearBit (s : State) (a b i lo w : Nat) (h : i < 32) (hd : b ≠ a ∨ lo + w ≤ i ∨ i < lo) :
    (s.clearBit a i).field b lo w = s.field b lo w := by
  by_cases hb : b = a
  · subst hb; exact State.field_setField_disjoint _ _ _ _ _ _ _ (by omega) (by omega)
  · exact State.field_setField_other _ _ _ _ _ _ _ _ hb

theorem State.bit_setBit (s : State) (a b i j : Nat) (h : i < 32) : (s.setBit a i).bit b j = if b = a ∧ j = i then true else s.bit b j := by
  split
  · next e => rw [e.1, e.2, State.bit_setBit_self _ _ _ h]
  · next e => simp only [State.bit]; rw [State.field_setBit _ _ _ _ _ _ h (by omega)]

theorem State.bit_clearBit (s : State) (a b i j : Nat) (h : i < 32) : (s.clearBit a i).bit b j = if b = a ∧ j = i then false else s.bit b j := by
  split
  · next e => rw [e.1, e.2, State.bit_clearBit_self _ _ _ h]
  · next e => simp only [State.bit]; rw [State.field_clearBit _ _ _ _ _ _ h (by omega)]

end Sys2Proof.Machine
end

