-- ==== Sys2Proof/Laws/Reads.lean ====
section
/-! SUPPORT. What each read of the state gives after each update: the same where the update is of something else, the stored value where it
is of the very thing read. -/

namespace Sys2Proof.Machine

/-! State.reg. -/

@[simp] theorem State.reg_setLatch (s : State) (a : Nat) (v : W32) (b : Nat) : (s.setLatch a v).reg b = s.reg b := rfl
@[simp] theorem State.reg_tally (s : State) (a : Nat) (f : Nat → Nat) (b : Nat) : (s.tally a f).reg b = s.reg b := by unfold State.tally; split <;> rfl
@[simp] theorem State.reg_count (s : State) (a n : Nat) (b : Nat) : (s.count a n).reg b = s.reg b := by unfold State.count State.tally; split <;> rfl
@[simp] theorem State.reg_partCount (s : State) (p i : Nat) (b : Nat) : (s.partCount p i).reg b = s.reg b := by unfold State.partCount State.count State.tally; split <;> rfl
@[simp] theorem State.reg_spend (s : State) (p sl pj : Nat) (b : Nat) : (s.spend p sl pj).reg b = s.reg b := by unfold State.spend State.count State.tally; split <;> rfl
@[simp] theorem State.reg_setPart (s : State) (p : Nat) (x : Part) (b : Nat) : (s.setPart p x).reg b = s.reg b := rfl
@[simp] theorem State.reg_setArr (s : State) (ga : Nat) (x : Arr) (b : Nat) : (s.setArr ga x).reg b = s.reg b := rfl
@[simp] theorem State.reg_setGroup (s : State) (ga slot : Nat) (x : Group) (b : Nat) : (s.setGroup ga slot x).reg b = s.reg b := rfl
@[simp] theorem State.reg_setBlock (s : State) (ga bs : Nat) (x : Block) (b : Nat) : (s.setBlock ga bs x).reg b = s.reg b := rfl
@[simp] theorem State.reg_setSlice (s : State) (d : Nat) (x : Slice) (b : Nat) : (s.setSlice d x).reg b = s.reg b := rfl
@[simp] theorem State.reg_setMid (s : State) (m : Nat) (x : Mid) (b : Nat) : (s.setMid m x).reg b = s.reg b := rfl
@[simp] theorem State.reg_setCourier (s : State) (c : Nat) (x : Courier) (b : Nat) : (s.setCourier c x).reg b = s.reg b := rfl
@[simp] theorem State.reg_setHalf (s : State) (k : Nat) (x : Half) (b : Nat) : (s.setHalf k x).reg b = s.reg b := rfl
@[simp] theorem State.reg_setPort (s : State) (port : Nat) (x : Port) (b : Nat) : (s.setPort port x).reg b = s.reg b := rfl
@[simp] theorem State.reg_setMailbag (s : State) (port m : Nat) (x : Mailbag) (b : Nat) : (s.setMailbag port m x).reg b = s.reg b := rfl
@[simp] theorem State.reg_modWork (s : State) (id : Nat) (f : Work → Work) (b : Nat) : (s.modWork id f).reg b = s.reg b := rfl
@[simp] theorem State.reg_setKeys (s : State) (p : Nat) (x : PartKeys) (b : Nat) : (s.setKeys p x).reg b = s.reg b := rfl
@[simp] theorem State.reg_setSpdm (s : State) (port : Nat) (x : Spdm) (b : Nat) : (s.setSpdm port x).reg b = s.reg b := rfl
@[simp] theorem State.reg_setSession (s : State) (port sess : Nat) (x : Session) (b : Nat) : (s.setSession port sess x).reg b = s.reg b := rfl
@[simp] theorem State.reg_setPair (s : State) (p : Nat) (x : PairPart) (b : Nat) : (s.setPair p x).reg b = s.reg b := rfl
@[simp] theorem State.reg_setDbg (s : State) (p : Nat) (x : Dbg) (b : Nat) : (s.setDbg p x).reg b = s.reg b := rfl

/-! State.field. -/

@[simp] theorem State.field_setLatch (s : State) (a : Nat) (v : W32) (b l n : Nat) : (s.setLatch a v).field b l n = s.field b l n := rfl
@[simp] theorem State.field_tally (s : State) (a : Nat) (f : Nat → Nat) (b l n : Nat) : (s.tally a f).field b l n = s.field b l n := by unfold State.tally; split <;> rfl
@[simp] theorem State.field_count (s : State) (a k : Nat) (b l n : Nat) : (s.count a k).field b l n = s.field b l n := by unfold State.count State.tally; split <;> rfl
@[simp] theorem State.field_partCount (s : State) (p i : Nat) (b l n : Nat) : (s.partCount p i).field b l n = s.field b l n := by unfold State.partCount State.count State.tally; split <;> rfl
@[simp] theorem State.field_spend (s : State) (p sl pj : Nat) (b l n : Nat) : (s.spend p sl pj).field b l n = s.field b l n := by unfold State.spend State.count State.tally; split <;> rfl
@[simp] theorem State.field_setPart (s : State) (p : Nat) (x : Part) (b l n : Nat) : (s.setPart p x).field b l n = s.field b l n := rfl
@[simp] theorem State.field_setArr (s : State) (ga : Nat) (x : Arr) (b l n : Nat) : (s.setArr ga x).field b l n = s.field b l n := rfl
@[simp] theorem State.field_setGroup (s : State) (ga slot : Nat) (x : Group) (b l n : Nat) : (s.setGroup ga slot x).field b l n = s.field b l n := rfl
@[simp] theorem State.field_setBlock (s : State) (ga bs : Nat) (x : Block) (b l n : Nat) : (s.setBlock ga bs x).field b l n = s.field b l n := rfl
@[simp] theorem State.field_setSlice (s : State) (d : Nat) (x : Slice) (b l n : Nat) : (s.setSlice d x).field b l n = s.field b l n := rfl
@[simp] theorem State.field_setMid (s : State) (m : Nat) (x : Mid) (b l n : Nat) : (s.setMid m x).field b l n = s.field b l n := rfl
@[simp] theorem State.field_setCourier (s : State) (c : Nat) (x : Courier) (b l n : Nat) : (s.setCourier c x).field b l n = s.field b l n := rfl
@[simp] theorem State.field_setHalf (s : State) (k : Nat) (x : Half) (b l n : Nat) : (s.setHalf k x).field b l n = s.field b l n := rfl
@[simp] theorem State.field_setPort (s : State) (port : Nat) (x : Port) (b l n : Nat) : (s.setPort port x).field b l n = s.field b l n := rfl
@[simp] theorem State.field_setMailbag (s : State) (port m : Nat) (x : Mailbag) (b l n : Nat) : (s.setMailbag port m x).field b l n = s.field b l n := rfl
@[simp] theorem State.field_modWork (s : State) (id : Nat) (f : Work → Work) (b l n : Nat) : (s.modWork id f).field b l n = s.field b l n := rfl
@[simp] theorem State.field_setKeys (s : State) (p : Nat) (x : PartKeys) (b l n : Nat) : (s.setKeys p x).field b l n = s.field b l n := rfl
@[simp] theorem State.field_setSpdm (s : State) (port : Nat) (x : Spdm) (b l n : Nat) : (s.setSpdm port x).field b l n = s.field b l n := rfl
@[simp] theorem State.field_setSession (s : State) (port sess : Nat) (x : Session) (b l n : Nat) : (s.setSession port sess x).field b l n = s.field b l n := rfl
@[simp] theorem State.field_setPair (s : State) (p : Nat) (x : PairPart) (b l n : Nat) : (s.setPair p x).field b l n = s.field b l n := rfl
@[simp] theorem State.field_setDbg (s : State) (p : Nat) (x : Dbg) (b l n : Nat) : (s.setDbg p x).field b l n = s.field b l n := rfl

/-! State.bit. -/

@[simp] theorem State.bit_setLatch (s : State) (a : Nat) (v : W32) (b j : Nat) : (s.setLatch a v).bit b j = s.bit b j := rfl
@[simp] theorem State.bit_tally (s : State) (a : Nat) (f : Nat → Nat) (b j : Nat) : (s.tally a f).bit b j = s.bit b j := by unfold State.tally; split <;> rfl
@[simp] theorem State.bit_count (s : State) (a n : Nat) (b j : Nat) : (s.count a n).bit b j = s.bit b j := by unfold State.count State.tally; split <;> rfl
@[simp] theorem State.bit_partCount (s : State) (p i : Nat) (b j : Nat) : (s.partCount p i).bit b j = s.bit b j := by unfold State.partCount State.count State.tally; split <;> rfl
@[simp] theorem State.bit_spend (s : State) (p sl pj : Nat) (b j : Nat) : (s.spend p sl pj).bit b j = s.bit b j := by unfold State.spend State.count State.tally; split <;> rfl
@[simp] theorem State.bit_setPart (s : State) (p : Nat) (x : Part) (b j : Nat) : (s.setPart p x).bit b j = s.bit b j := rfl
@[simp] theorem State.bit_setArr (s : State) (ga : Nat) (x : Arr) (b j : Nat) : (s.setArr ga x).bit b j = s.bit b j := rfl
@[simp] theorem State.bit_setGroup (s : State) (ga slot : Nat) (x : Group) (b j : Nat) : (s.setGroup ga slot x).bit b j = s.bit b j := rfl
@[simp] theorem State.bit_setBlock (s : State) (ga bs : Nat) (x : Block) (b j : Nat) : (s.setBlock ga bs x).bit b j = s.bit b j := rfl
@[simp] theorem State.bit_setSlice (s : State) (d : Nat) (x : Slice) (b j : Nat) : (s.setSlice d x).bit b j = s.bit b j := rfl
@[simp] theorem State.bit_setMid (s : State) (m : Nat) (x : Mid) (b j : Nat) : (s.setMid m x).bit b j = s.bit b j := rfl
@[simp] theorem State.bit_setCourier (s : State) (c : Nat) (x : Courier) (b j : Nat) : (s.setCourier c x).bit b j = s.bit b j := rfl
@[simp] theorem State.bit_setHalf (s : State) (k : Nat) (x : Half) (b j : Nat) : (s.setHalf k x).bit b j = s.bit b j := rfl
@[simp] theorem State.bit_setPort (s : State) (port : Nat) (x : Port) (b j : Nat) : (s.setPort port x).bit b j = s.bit b j := rfl
@[simp] theorem State.bit_setMailbag (s : State) (port m : Nat) (x : Mailbag) (b j : Nat) : (s.setMailbag port m x).bit b j = s.bit b j := rfl
@[simp] theorem State.bit_modWork (s : State) (id : Nat) (f : Work → Work) (b j : Nat) : (s.modWork id f).bit b j = s.bit b j := rfl
@[simp] theorem State.bit_setKeys (s : State) (p : Nat) (x : PartKeys) (b j : Nat) : (s.setKeys p x).bit b j = s.bit b j := rfl
@[simp] theorem State.bit_setSpdm (s : State) (port : Nat) (x : Spdm) (b j : Nat) : (s.setSpdm port x).bit b j = s.bit b j := rfl
@[simp] theorem State.bit_setSession (s : State) (port sess : Nat) (x : Session) (b j : Nat) : (s.setSession port sess x).bit b j = s.bit b j := rfl
@[simp] theorem State.bit_setPair (s : State) (p : Nat) (x : PairPart) (b j : Nat) : (s.setPair p x).bit b j = s.bit b j := rfl
@[simp] theorem State.bit_setDbg (s : State) (p : Nat) (x : Dbg) (b j : Nat) : (s.setDbg p x).bit b j = s.bit b j := rfl

/-! State.part. -/

@[simp] theorem State.part_setReg (s : State) (a : Nat) (v : W32) (q : Nat) : (s.setReg a v).part q = s.part q := rfl
@[simp] theorem State.part_setField (s : State) (a lo w v : Nat) (q : Nat) : (s.setField a lo w v).part q = s.part q := rfl
@[simp] theorem State.part_setBit (s : State) (a i : Nat) (q : Nat) : (s.setBit a i).part q = s.part q := rfl
@[simp] theorem State.part_clearBit (s : State) (a i : Nat) (q : Nat) : (s.clearBit a i).part q = s.part q := rfl
@[simp] theorem State.part_setPairState (s : State) (p st : Nat) (q : Nat) : (s.setPairState p st).part q = s.part q := rfl
@[simp] theorem State.part_setLastStatus (s : State) (p st : Nat) (q : Nat) : (s.setLastStatus p st).part q = s.part q := rfl
@[simp] theorem State.part_latchHi (s : State) (hi : Nat) (q : Nat) : (s.latchHi hi).part q = s.part q := rfl
@[simp] theorem State.part_setLatch (s : State) (a : Nat) (v : W32) (q : Nat) : (s.setLatch a v).part q = s.part q := rfl
@[simp] theorem State.part_tally (s : State) (a : Nat) (f : Nat → Nat) (q : Nat) : (s.tally a f).part q = s.part q := by unfold State.tally; split <;> rfl
@[simp] theorem State.part_count (s : State) (a n : Nat) (q : Nat) : (s.count a n).part q = s.part q := by unfold State.count State.tally; split <;> rfl
@[simp] theorem State.part_partCount (s : State) (p i : Nat) (q : Nat) : (s.partCount p i).part q = s.part q := by unfold State.partCount State.count State.tally; split <;> rfl
@[simp] theorem State.part_spend (s : State) (p sl pj : Nat) (q : Nat) : (s.spend p sl pj).part q = s.part q := by unfold State.spend State.count State.tally; split <;> rfl
@[simp] theorem State.part_setArr (s : State) (ga : Nat) (x : Arr) (q : Nat) : (s.setArr ga x).part q = s.part q := rfl
@[simp] theorem State.part_setGroup (s : State) (ga slot : Nat) (x : Group) (q : Nat) : (s.setGroup ga slot x).part q = s.part q := rfl
@[simp] theorem State.part_setBlock (s : State) (ga b : Nat) (x : Block) (q : Nat) : (s.setBlock ga b x).part q = s.part q := rfl
@[simp] theorem State.part_setSlice (s : State) (d : Nat) (x : Slice) (q : Nat) : (s.setSlice d x).part q = s.part q := rfl
@[simp] theorem State.part_setMid (s : State) (m : Nat) (x : Mid) (q : Nat) : (s.setMid m x).part q = s.part q := rfl
@[simp] theorem State.part_setCourier (s : State) (c : Nat) (x : Courier) (q : Nat) : (s.setCourier c x).part q = s.part q := rfl
@[simp] theorem State.part_setHalf (s : State) (k : Nat) (x : Half) (q : Nat) : (s.setHalf k x).part q = s.part q := rfl
@[simp] theorem State.part_setPort (s : State) (port : Nat) (x : Port) (q : Nat) : (s.setPort port x).part q = s.part q := rfl
@[simp] theorem State.part_setMailbag (s : State) (port m : Nat) (x : Mailbag) (q : Nat) : (s.setMailbag port m x).part q = s.part q := rfl
@[simp] theorem State.part_modWork (s : State) (id : Nat) (f : Work → Work) (q : Nat) : (s.modWork id f).part q = s.part q := rfl
@[simp] theorem State.part_setKeys (s : State) (p : Nat) (x : PartKeys) (q : Nat) : (s.setKeys p x).part q = s.part q := rfl
@[simp] theorem State.part_setSpdm (s : State) (port : Nat) (x : Spdm) (q : Nat) : (s.setSpdm port x).part q = s.part q := rfl
@[simp] theorem State.part_setSession (s : State) (port sess : Nat) (x : Session) (q : Nat) : (s.setSession port sess x).part q = s.part q := rfl
@[simp] theorem State.part_setPair (s : State) (p : Nat) (x : PairPart) (q : Nat) : (s.setPair p x).part q = s.part q := rfl
@[simp] theorem State.part_setDbg (s : State) (p : Nat) (x : Dbg) (q : Nat) : (s.setDbg p x).part q = s.part q := rfl

/-! State.arr. -/

@[simp] theorem State.arr_setReg (s : State) (a : Nat) (v : W32) (q : Nat) : (s.setReg a v).arr q = s.arr q := rfl
@[simp] theorem State.arr_setField (s : State) (a lo w v : Nat) (q : Nat) : (s.setField a lo w v).arr q = s.arr q := rfl
@[simp] theorem State.arr_setBit (s : State) (a i : Nat) (q : Nat) : (s.setBit a i).arr q = s.arr q := rfl
@[simp] theorem State.arr_clearBit (s : State) (a i : Nat) (q : Nat) : (s.clearBit a i).arr q = s.arr q := rfl
@[simp] theorem State.arr_setPairState (s : State) (p st : Nat) (q : Nat) : (s.setPairState p st).arr q = s.arr q := rfl
@[simp] theorem State.arr_setLastStatus (s : State) (p st : Nat) (q : Nat) : (s.setLastStatus p st).arr q = s.arr q := rfl
@[simp] theorem State.arr_latchHi (s : State) (hi : Nat) (q : Nat) : (s.latchHi hi).arr q = s.arr q := rfl
@[simp] theorem State.arr_setLatch (s : State) (a : Nat) (v : W32) (q : Nat) : (s.setLatch a v).arr q = s.arr q := rfl
@[simp] theorem State.arr_tally (s : State) (a : Nat) (f : Nat → Nat) (q : Nat) : (s.tally a f).arr q = s.arr q := by unfold State.tally; split <;> rfl
@[simp] theorem State.arr_count (s : State) (a n : Nat) (q : Nat) : (s.count a n).arr q = s.arr q := by unfold State.count State.tally; split <;> rfl
@[simp] theorem State.arr_partCount (s : State) (p i : Nat) (q : Nat) : (s.partCount p i).arr q = s.arr q := by unfold State.partCount State.count State.tally; split <;> rfl
@[simp] theorem State.arr_spend (s : State) (p sl pj : Nat) (q : Nat) : (s.spend p sl pj).arr q = s.arr q := by unfold State.spend State.count State.tally; split <;> rfl
@[simp] theorem State.arr_setPart (s : State) (p : Nat) (x : Part) (q : Nat) : (s.setPart p x).arr q = s.arr q := rfl
@[simp] theorem State.arr_setSlice (s : State) (d : Nat) (x : Slice) (q : Nat) : (s.setSlice d x).arr q = s.arr q := rfl
@[simp] theorem State.arr_setMid (s : State) (m : Nat) (x : Mid) (q : Nat) : (s.setMid m x).arr q = s.arr q := rfl
@[simp] theorem State.arr_setCourier (s : State) (c : Nat) (x : Courier) (q : Nat) : (s.setCourier c x).arr q = s.arr q := rfl
@[simp] theorem State.arr_setHalf (s : State) (k : Nat) (x : Half) (q : Nat) : (s.setHalf k x).arr q = s.arr q := rfl
@[simp] theorem State.arr_setPort (s : State) (port : Nat) (x : Port) (q : Nat) : (s.setPort port x).arr q = s.arr q := rfl
@[simp] theorem State.arr_setMailbag (s : State) (port m : Nat) (x : Mailbag) (q : Nat) : (s.setMailbag port m x).arr q = s.arr q := rfl
@[simp] theorem State.arr_modWork (s : State) (id : Nat) (f : Work → Work) (q : Nat) : (s.modWork id f).arr q = s.arr q := rfl
@[simp] theorem State.arr_setKeys (s : State) (p : Nat) (x : PartKeys) (q : Nat) : (s.setKeys p x).arr q = s.arr q := rfl
@[simp] theorem State.arr_setSpdm (s : State) (port : Nat) (x : Spdm) (q : Nat) : (s.setSpdm port x).arr q = s.arr q := rfl
@[simp] theorem State.arr_setSession (s : State) (port sess : Nat) (x : Session) (q : Nat) : (s.setSession port sess x).arr q = s.arr q := rfl
@[simp] theorem State.arr_setPair (s : State) (p : Nat) (x : PairPart) (q : Nat) : (s.setPair p x).arr q = s.arr q := rfl
@[simp] theorem State.arr_setDbg (s : State) (p : Nat) (x : Dbg) (q : Nat) : (s.setDbg p x).arr q = s.arr q := rfl

/-! State.group. -/

@[simp] theorem State.group_setReg (s : State) (a : Nat) (v : W32) (q t : Nat) : (s.setReg a v).group q t = s.group q t := rfl
@[simp] theorem State.group_setField (s : State) (a lo w v : Nat) (q t : Nat) : (s.setField a lo w v).group q t = s.group q t := rfl
@[simp] theorem State.group_setBit (s : State) (a i : Nat) (q t : Nat) : (s.setBit a i).group q t = s.group q t := rfl
@[simp] theorem State.group_clearBit (s : State) (a i : Nat) (q t : Nat) : (s.clearBit a i).group q t = s.group q t := rfl
@[simp] theorem State.group_setPairState (s : State) (p st : Nat) (q t : Nat) : (s.setPairState p st).group q t = s.group q t := rfl
@[simp] theorem State.group_setLastStatus (s : State) (p st : Nat) (q t : Nat) : (s.setLastStatus p st).group q t = s.group q t := rfl
@[simp] theorem State.group_latchHi (s : State) (hi : Nat) (q t : Nat) : (s.latchHi hi).group q t = s.group q t := rfl
@[simp] theorem State.group_setLatch (s : State) (a : Nat) (v : W32) (q t : Nat) : (s.setLatch a v).group q t = s.group q t := rfl
@[simp] theorem State.group_tally (s : State) (a : Nat) (f : Nat → Nat) (q t : Nat) : (s.tally a f).group q t = s.group q t := by unfold State.tally; split <;> rfl
@[simp] theorem State.group_count (s : State) (a n : Nat) (q t : Nat) : (s.count a n).group q t = s.group q t := by unfold State.count State.tally; split <;> rfl
@[simp] theorem State.group_partCount (s : State) (p i : Nat) (q t : Nat) : (s.partCount p i).group q t = s.group q t := by unfold State.partCount State.count State.tally; split <;> rfl
@[simp] theorem State.group_spend (s : State) (p sl pj : Nat) (q t : Nat) : (s.spend p sl pj).group q t = s.group q t := by unfold State.spend State.count State.tally; split <;> rfl
@[simp] theorem State.group_setPart (s : State) (p : Nat) (x : Part) (q t : Nat) : (s.setPart p x).group q t = s.group q t := rfl
@[simp] theorem State.group_setSlice (s : State) (d : Nat) (x : Slice) (q t : Nat) : (s.setSlice d x).group q t = s.group q t := rfl
@[simp] theorem State.group_setMid (s : State) (m : Nat) (x : Mid) (q t : Nat) : (s.setMid m x).group q t = s.group q t := rfl
@[simp] theorem State.group_setCourier (s : State) (c : Nat) (x : Courier) (q t : Nat) : (s.setCourier c x).group q t = s.group q t := rfl
@[simp] theorem State.group_setHalf (s : State) (k : Nat) (x : Half) (q t : Nat) : (s.setHalf k x).group q t = s.group q t := rfl
@[simp] theorem State.group_setPort (s : State) (port : Nat) (x : Port) (q t : Nat) : (s.setPort port x).group q t = s.group q t := rfl
@[simp] theorem State.group_setMailbag (s : State) (port m : Nat) (x : Mailbag) (q t : Nat) : (s.setMailbag port m x).group q t = s.group q t := rfl
@[simp] theorem State.group_modWork (s : State) (id : Nat) (f : Work → Work) (q t : Nat) : (s.modWork id f).group q t = s.group q t := rfl
@[simp] theorem State.group_setKeys (s : State) (p : Nat) (x : PartKeys) (q t : Nat) : (s.setKeys p x).group q t = s.group q t := rfl
@[simp] theorem State.group_setSpdm (s : State) (port : Nat) (x : Spdm) (q t : Nat) : (s.setSpdm port x).group q t = s.group q t := rfl
@[simp] theorem State.group_setSession (s : State) (port sess : Nat) (x : Session) (q t : Nat) : (s.setSession port sess x).group q t = s.group q t := rfl
@[simp] theorem State.group_setPair (s : State) (p : Nat) (x : PairPart) (q t : Nat) : (s.setPair p x).group q t = s.group q t := rfl
@[simp] theorem State.group_setDbg (s : State) (p : Nat) (x : Dbg) (q t : Nat) : (s.setDbg p x).group q t = s.group q t := rfl

/-! State.block. -/

@[simp] theorem State.block_setReg (s : State) (a : Nat) (v : W32) (q t : Nat) : (s.setReg a v).block q t = s.block q t := rfl
@[simp] theorem State.block_setField (s : State) (a lo w v : Nat) (q t : Nat) : (s.setField a lo w v).block q t = s.block q t := rfl
@[simp] theorem State.block_setBit (s : State) (a i : Nat) (q t : Nat) : (s.setBit a i).block q t = s.block q t := rfl
@[simp] theorem State.block_clearBit (s : State) (a i : Nat) (q t : Nat) : (s.clearBit a i).block q t = s.block q t := rfl
@[simp] theorem State.block_setPairState (s : State) (p st : Nat) (q t : Nat) : (s.setPairState p st).block q t = s.block q t := rfl
@[simp] theorem State.block_setLastStatus (s : State) (p st : Nat) (q t : Nat) : (s.setLastStatus p st).block q t = s.block q t := rfl
@[simp] theorem State.block_latchHi (s : State) (hi : Nat) (q t : Nat) : (s.latchHi hi).block q t = s.block q t := rfl
@[simp] theorem State.block_setLatch (s : State) (a : Nat) (v : W32) (q t : Nat) : (s.setLatch a v).block q t = s.block q t := rfl
@[simp] theorem State.block_tally (s : State) (a : Nat) (f : Nat → Nat) (q t : Nat) : (s.tally a f).block q t = s.block q t := by unfold State.tally; split <;> rfl
@[simp] theorem State.block_count (s : State) (a n : Nat) (q t : Nat) : (s.count a n).block q t = s.block q t := by unfold State.count State.tally; split <;> rfl
@[simp] theorem State.block_partCount (s : State) (p i : Nat) (q t : Nat) : (s.partCount p i).block q t = s.block q t := by unfold State.partCount State.count State.tally; split <;> rfl
@[simp] theorem State.block_spend (s : State) (p sl pj : Nat) (q t : Nat) : (s.spend p sl pj).block q t = s.block q t := by unfold State.spend State.count State.tally; split <;> rfl
@[simp] theorem State.block_setPart (s : State) (p : Nat) (x : Part) (q t : Nat) : (s.setPart p x).block q t = s.block q t := rfl
@[simp] theorem State.block_setSlice (s : State) (d : Nat) (x : Slice) (q t : Nat) : (s.setSlice d x).block q t = s.block q t := rfl
@[simp] theorem State.block_setMid (s : State) (m : Nat) (x : Mid) (q t : Nat) : (s.setMid m x).block q t = s.block q t := rfl
@[simp] theorem State.block_setCourier (s : State) (c : Nat) (x : Courier) (q t : Nat) : (s.setCourier c x).block q t = s.block q t := rfl
@[simp] theorem State.block_setHalf (s : State) (k : Nat) (x : Half) (q t : Nat) : (s.setHalf k x).block q t = s.block q t := rfl
@[simp] theorem State.block_setPort (s : State) (port : Nat) (x : Port) (q t : Nat) : (s.setPort port x).block q t = s.block q t := rfl
@[simp] theorem State.block_setMailbag (s : State) (port m : Nat) (x : Mailbag) (q t : Nat) : (s.setMailbag port m x).block q t = s.block q t := rfl
@[simp] theorem State.block_modWork (s : State) (id : Nat) (f : Work → Work) (q t : Nat) : (s.modWork id f).block q t = s.block q t := rfl
@[simp] theorem State.block_setKeys (s : State) (p : Nat) (x : PartKeys) (q t : Nat) : (s.setKeys p x).block q t = s.block q t := rfl
@[simp] theorem State.block_setSpdm (s : State) (port : Nat) (x : Spdm) (q t : Nat) : (s.setSpdm port x).block q t = s.block q t := rfl
@[simp] theorem State.block_setSession (s : State) (port sess : Nat) (x : Session) (q t : Nat) : (s.setSession port sess x).block q t = s.block q t := rfl
@[simp] theorem State.block_setPair (s : State) (p : Nat) (x : PairPart) (q t : Nat) : (s.setPair p x).block q t = s.block q t := rfl
@[simp] theorem State.block_setDbg (s : State) (p : Nat) (x : Dbg) (q t : Nat) : (s.setDbg p x).block q t = s.block q t := rfl

/-! State.slice. -/

@[simp] theorem State.slice_setReg (s : State) (a : Nat) (v : W32) (q : Nat) : (s.setReg a v).slice q = s.slice q := rfl
@[simp] theorem State.slice_setField (s : State) (a lo w v : Nat) (q : Nat) : (s.setField a lo w v).slice q = s.slice q := rfl
@[simp] theorem State.slice_setBit (s : State) (a i : Nat) (q : Nat) : (s.setBit a i).slice q = s.slice q := rfl
@[simp] theorem State.slice_clearBit (s : State) (a i : Nat) (q : Nat) : (s.clearBit a i).slice q = s.slice q := rfl
@[simp] theorem State.slice_setPairState (s : State) (p st : Nat) (q : Nat) : (s.setPairState p st).slice q = s.slice q := rfl
@[simp] theorem State.slice_setLastStatus (s : State) (p st : Nat) (q : Nat) : (s.setLastStatus p st).slice q = s.slice q := rfl
@[simp] theorem State.slice_latchHi (s : State) (hi : Nat) (q : Nat) : (s.latchHi hi).slice q = s.slice q := rfl
@[simp] theorem State.slice_setLatch (s : State) (a : Nat) (v : W32) (q : Nat) : (s.setLatch a v).slice q = s.slice q := rfl
@[simp] theorem State.slice_tally (s : State) (a : Nat) (f : Nat → Nat) (q : Nat) : (s.tally a f).slice q = s.slice q := by unfold State.tally; split <;> rfl
@[simp] theorem State.slice_count (s : State) (a n : Nat) (q : Nat) : (s.count a n).slice q = s.slice q := by unfold State.count State.tally; split <;> rfl
@[simp] theorem State.slice_partCount (s : State) (p i : Nat) (q : Nat) : (s.partCount p i).slice q = s.slice q := by unfold State.partCount State.count State.tally; split <;> rfl
@[simp] theorem State.slice_spend (s : State) (p sl pj : Nat) (q : Nat) : (s.spend p sl pj).slice q = s.slice q := by unfold State.spend State.count State.tally; split <;> rfl
@[simp] theorem State.slice_setPart (s : State) (p : Nat) (x : Part) (q : Nat) : (s.setPart p x).slice q = s.slice q := rfl
@[simp] theorem State.slice_setArr (s : State) (ga : Nat) (x : Arr) (q : Nat) : (s.setArr ga x).slice q = s.slice q := rfl
@[simp] theorem State.slice_setGroup (s : State) (ga slot : Nat) (x : Group) (q : Nat) : (s.setGroup ga slot x).slice q = s.slice q := rfl
@[simp] theorem State.slice_setBlock (s : State) (ga b : Nat) (x : Block) (q : Nat) : (s.setBlock ga b x).slice q = s.slice q := rfl
@[simp] theorem State.slice_setMid (s : State) (m : Nat) (x : Mid) (q : Nat) : (s.setMid m x).slice q = s.slice q := rfl
@[simp] theorem State.slice_setCourier (s : State) (c : Nat) (x : Courier) (q : Nat) : (s.setCourier c x).slice q = s.slice q := rfl
@[simp] theorem State.slice_setHalf (s : State) (k : Nat) (x : Half) (q : Nat) : (s.setHalf k x).slice q = s.slice q := rfl
@[simp] theorem State.slice_setPort (s : State) (port : Nat) (x : Port) (q : Nat) : (s.setPort port x).slice q = s.slice q := rfl
@[simp] theorem State.slice_setMailbag (s : State) (port m : Nat) (x : Mailbag) (q : Nat) : (s.setMailbag port m x).slice q = s.slice q := rfl
@[simp] theorem State.slice_modWork (s : State) (id : Nat) (f : Work → Work) (q : Nat) : (s.modWork id f).slice q = s.slice q := rfl
@[simp] theorem State.slice_setKeys (s : State) (p : Nat) (x : PartKeys) (q : Nat) : (s.setKeys p x).slice q = s.slice q := rfl
@[simp] theorem State.slice_setSpdm (s : State) (port : Nat) (x : Spdm) (q : Nat) : (s.setSpdm port x).slice q = s.slice q := rfl
@[simp] theorem State.slice_setSession (s : State) (port sess : Nat) (x : Session) (q : Nat) : (s.setSession port sess x).slice q = s.slice q := rfl
@[simp] theorem State.slice_setPair (s : State) (p : Nat) (x : PairPart) (q : Nat) : (s.setPair p x).slice q = s.slice q := rfl
@[simp] theorem State.slice_setDbg (s : State) (p : Nat) (x : Dbg) (q : Nat) : (s.setDbg p x).slice q = s.slice q := rfl

/-! State.mid. -/

@[simp] theorem State.mid_setReg (s : State) (a : Nat) (v : W32) (q : Nat) : (s.setReg a v).mid q = s.mid q := rfl
@[simp] theorem State.mid_setField (s : State) (a lo w v : Nat) (q : Nat) : (s.setField a lo w v).mid q = s.mid q := rfl
@[simp] theorem State.mid_setBit (s : State) (a i : Nat) (q : Nat) : (s.setBit a i).mid q = s.mid q := rfl
@[simp] theorem State.mid_clearBit (s : State) (a i : Nat) (q : Nat) : (s.clearBit a i).mid q = s.mid q := rfl
@[simp] theorem State.mid_setPairState (s : State) (p st : Nat) (q : Nat) : (s.setPairState p st).mid q = s.mid q := rfl
@[simp] theorem State.mid_setLastStatus (s : State) (p st : Nat) (q : Nat) : (s.setLastStatus p st).mid q = s.mid q := rfl
@[simp] theorem State.mid_latchHi (s : State) (hi : Nat) (q : Nat) : (s.latchHi hi).mid q = s.mid q := rfl
@[simp] theorem State.mid_setLatch (s : State) (a : Nat) (v : W32) (q : Nat) : (s.setLatch a v).mid q = s.mid q := rfl
@[simp] theorem State.mid_tally (s : State) (a : Nat) (f : Nat → Nat) (q : Nat) : (s.tally a f).mid q = s.mid q := by unfold State.tally; split <;> rfl
@[simp] theorem State.mid_count (s : State) (a n : Nat) (q : Nat) : (s.count a n).mid q = s.mid q := by unfold State.count State.tally; split <;> rfl
@[simp] theorem State.mid_partCount (s : State) (p i : Nat) (q : Nat) : (s.partCount p i).mid q = s.mid q := by unfold State.partCount State.count State.tally; split <;> rfl
@[simp] theorem State.mid_spend (s : State) (p sl pj : Nat) (q : Nat) : (s.spend p sl pj).mid q = s.mid q := by unfold State.spend State.count State.tally; split <;> rfl
@[simp] theorem State.mid_setPart (s : State) (p : Nat) (x : Part) (q : Nat) : (s.setPart p x).mid q = s.mid q := rfl
@[simp] theorem State.mid_setArr (s : State) (ga : Nat) (x : Arr) (q : Nat) : (s.setArr ga x).mid q = s.mid q := rfl
@[simp] theorem State.mid_setGroup (s : State) (ga slot : Nat) (x : Group) (q : Nat) : (s.setGroup ga slot x).mid q = s.mid q := rfl
@[simp] theorem State.mid_setBlock (s : State) (ga b : Nat) (x : Block) (q : Nat) : (s.setBlock ga b x).mid q = s.mid q := rfl
@[simp] theorem State.mid_setSlice (s : State) (d : Nat) (x : Slice) (q : Nat) : (s.setSlice d x).mid q = s.mid q := rfl
@[simp] theorem State.mid_setCourier (s : State) (c : Nat) (x : Courier) (q : Nat) : (s.setCourier c x).mid q = s.mid q := rfl
@[simp] theorem State.mid_setHalf (s : State) (k : Nat) (x : Half) (q : Nat) : (s.setHalf k x).mid q = s.mid q := rfl
@[simp] theorem State.mid_setPort (s : State) (port : Nat) (x : Port) (q : Nat) : (s.setPort port x).mid q = s.mid q := rfl
@[simp] theorem State.mid_setMailbag (s : State) (port m : Nat) (x : Mailbag) (q : Nat) : (s.setMailbag port m x).mid q = s.mid q := rfl
@[simp] theorem State.mid_modWork (s : State) (id : Nat) (f : Work → Work) (q : Nat) : (s.modWork id f).mid q = s.mid q := rfl
@[simp] theorem State.mid_setKeys (s : State) (p : Nat) (x : PartKeys) (q : Nat) : (s.setKeys p x).mid q = s.mid q := rfl
@[simp] theorem State.mid_setSpdm (s : State) (port : Nat) (x : Spdm) (q : Nat) : (s.setSpdm port x).mid q = s.mid q := rfl
@[simp] theorem State.mid_setSession (s : State) (port sess : Nat) (x : Session) (q : Nat) : (s.setSession port sess x).mid q = s.mid q := rfl
@[simp] theorem State.mid_setPair (s : State) (p : Nat) (x : PairPart) (q : Nat) : (s.setPair p x).mid q = s.mid q := rfl
@[simp] theorem State.mid_setDbg (s : State) (p : Nat) (x : Dbg) (q : Nat) : (s.setDbg p x).mid q = s.mid q := rfl

/-! State.courier. -/

@[simp] theorem State.courier_setReg (s : State) (a : Nat) (v : W32) (q : Nat) : (s.setReg a v).courier q = s.courier q := rfl
@[simp] theorem State.courier_setField (s : State) (a lo w v : Nat) (q : Nat) : (s.setField a lo w v).courier q = s.courier q := rfl
@[simp] theorem State.courier_setBit (s : State) (a i : Nat) (q : Nat) : (s.setBit a i).courier q = s.courier q := rfl
@[simp] theorem State.courier_clearBit (s : State) (a i : Nat) (q : Nat) : (s.clearBit a i).courier q = s.courier q := rfl
@[simp] theorem State.courier_setPairState (s : State) (p st : Nat) (q : Nat) : (s.setPairState p st).courier q = s.courier q := rfl
@[simp] theorem State.courier_setLastStatus (s : State) (p st : Nat) (q : Nat) : (s.setLastStatus p st).courier q = s.courier q := rfl
@[simp] theorem State.courier_latchHi (s : State) (hi : Nat) (q : Nat) : (s.latchHi hi).courier q = s.courier q := rfl
@[simp] theorem State.courier_setLatch (s : State) (a : Nat) (v : W32) (q : Nat) : (s.setLatch a v).courier q = s.courier q := rfl
@[simp] theorem State.courier_tally (s : State) (a : Nat) (f : Nat → Nat) (q : Nat) : (s.tally a f).courier q = s.courier q := by unfold State.tally; split <;> rfl
@[simp] theorem State.courier_count (s : State) (a n : Nat) (q : Nat) : (s.count a n).courier q = s.courier q := by unfold State.count State.tally; split <;> rfl
@[simp] theorem State.courier_partCount (s : State) (p i : Nat) (q : Nat) : (s.partCount p i).courier q = s.courier q := by unfold State.partCount State.count State.tally; split <;> rfl
@[simp] theorem State.courier_spend (s : State) (p sl pj : Nat) (q : Nat) : (s.spend p sl pj).courier q = s.courier q := by unfold State.spend State.count State.tally; split <;> rfl
@[simp] theorem State.courier_setPart (s : State) (p : Nat) (x : Part) (q : Nat) : (s.setPart p x).courier q = s.courier q := rfl
@[simp] theorem State.courier_setArr (s : State) (ga : Nat) (x : Arr) (q : Nat) : (s.setArr ga x).courier q = s.courier q := rfl
@[simp] theorem State.courier_setGroup (s : State) (ga slot : Nat) (x : Group) (q : Nat) : (s.setGroup ga slot x).courier q = s.courier q := rfl
@[simp] theorem State.courier_setBlock (s : State) (ga b : Nat) (x : Block) (q : Nat) : (s.setBlock ga b x).courier q = s.courier q := rfl
@[simp] theorem State.courier_setSlice (s : State) (d : Nat) (x : Slice) (q : Nat) : (s.setSlice d x).courier q = s.courier q := rfl
@[simp] theorem State.courier_setMid (s : State) (m : Nat) (x : Mid) (q : Nat) : (s.setMid m x).courier q = s.courier q := rfl
@[simp] theorem State.courier_setHalf (s : State) (k : Nat) (x : Half) (q : Nat) : (s.setHalf k x).courier q = s.courier q := rfl
@[simp] theorem State.courier_setPort (s : State) (port : Nat) (x : Port) (q : Nat) : (s.setPort port x).courier q = s.courier q := rfl
@[simp] theorem State.courier_setMailbag (s : State) (port m : Nat) (x : Mailbag) (q : Nat) : (s.setMailbag port m x).courier q = s.courier q := rfl
@[simp] theorem State.courier_modWork (s : State) (id : Nat) (f : Work → Work) (q : Nat) : (s.modWork id f).courier q = s.courier q := rfl
@[simp] theorem State.courier_setKeys (s : State) (p : Nat) (x : PartKeys) (q : Nat) : (s.setKeys p x).courier q = s.courier q := rfl
@[simp] theorem State.courier_setSpdm (s : State) (port : Nat) (x : Spdm) (q : Nat) : (s.setSpdm port x).courier q = s.courier q := rfl
@[simp] theorem State.courier_setSession (s : State) (port sess : Nat) (x : Session) (q : Nat) : (s.setSession port sess x).courier q = s.courier q := rfl
@[simp] theorem State.courier_setPair (s : State) (p : Nat) (x : PairPart) (q : Nat) : (s.setPair p x).courier q = s.courier q := rfl
@[simp] theorem State.courier_setDbg (s : State) (p : Nat) (x : Dbg) (q : Nat) : (s.setDbg p x).courier q = s.courier q := rfl

/-! State.half. -/

@[simp] theorem State.half_setReg (s : State) (a : Nat) (v : W32) (q : Nat) : (s.setReg a v).half q = s.half q := rfl
@[simp] theorem State.half_setField (s : State) (a lo w v : Nat) (q : Nat) : (s.setField a lo w v).half q = s.half q := rfl
@[simp] theorem State.half_setBit (s : State) (a i : Nat) (q : Nat) : (s.setBit a i).half q = s.half q := rfl
@[simp] theorem State.half_clearBit (s : State) (a i : Nat) (q : Nat) : (s.clearBit a i).half q = s.half q := rfl
@[simp] theorem State.half_setPairState (s : State) (p st : Nat) (q : Nat) : (s.setPairState p st).half q = s.half q := rfl
@[simp] theorem State.half_setLastStatus (s : State) (p st : Nat) (q : Nat) : (s.setLastStatus p st).half q = s.half q := rfl
@[simp] theorem State.half_latchHi (s : State) (hi : Nat) (q : Nat) : (s.latchHi hi).half q = s.half q := rfl
@[simp] theorem State.half_setLatch (s : State) (a : Nat) (v : W32) (q : Nat) : (s.setLatch a v).half q = s.half q := rfl
@[simp] theorem State.half_tally (s : State) (a : Nat) (f : Nat → Nat) (q : Nat) : (s.tally a f).half q = s.half q := by unfold State.tally; split <;> rfl
@[simp] theorem State.half_count (s : State) (a n : Nat) (q : Nat) : (s.count a n).half q = s.half q := by unfold State.count State.tally; split <;> rfl
@[simp] theorem State.half_partCount (s : State) (p i : Nat) (q : Nat) : (s.partCount p i).half q = s.half q := by unfold State.partCount State.count State.tally; split <;> rfl
@[simp] theorem State.half_spend (s : State) (p sl pj : Nat) (q : Nat) : (s.spend p sl pj).half q = s.half q := by unfold State.spend State.count State.tally; split <;> rfl
@[simp] theorem State.half_setPart (s : State) (p : Nat) (x : Part) (q : Nat) : (s.setPart p x).half q = s.half q := rfl
@[simp] theorem State.half_setArr (s : State) (ga : Nat) (x : Arr) (q : Nat) : (s.setArr ga x).half q = s.half q := rfl
@[simp] theorem State.half_setGroup (s : State) (ga slot : Nat) (x : Group) (q : Nat) : (s.setGroup ga slot x).half q = s.half q := rfl
@[simp] theorem State.half_setBlock (s : State) (ga b : Nat) (x : Block) (q : Nat) : (s.setBlock ga b x).half q = s.half q := rfl
@[simp] theorem State.half_setSlice (s : State) (d : Nat) (x : Slice) (q : Nat) : (s.setSlice d x).half q = s.half q := rfl
@[simp] theorem State.half_setMid (s : State) (m : Nat) (x : Mid) (q : Nat) : (s.setMid m x).half q = s.half q := rfl
@[simp] theorem State.half_setCourier (s : State) (c : Nat) (x : Courier) (q : Nat) : (s.setCourier c x).half q = s.half q := rfl
@[simp] theorem State.half_setPort (s : State) (port : Nat) (x : Port) (q : Nat) : (s.setPort port x).half q = s.half q := rfl
@[simp] theorem State.half_setMailbag (s : State) (port m : Nat) (x : Mailbag) (q : Nat) : (s.setMailbag port m x).half q = s.half q := rfl
@[simp] theorem State.half_modWork (s : State) (id : Nat) (f : Work → Work) (q : Nat) : (s.modWork id f).half q = s.half q := rfl
@[simp] theorem State.half_setKeys (s : State) (p : Nat) (x : PartKeys) (q : Nat) : (s.setKeys p x).half q = s.half q := rfl
@[simp] theorem State.half_setSpdm (s : State) (port : Nat) (x : Spdm) (q : Nat) : (s.setSpdm port x).half q = s.half q := rfl
@[simp] theorem State.half_setSession (s : State) (port sess : Nat) (x : Session) (q : Nat) : (s.setSession port sess x).half q = s.half q := rfl
@[simp] theorem State.half_setPair (s : State) (p : Nat) (x : PairPart) (q : Nat) : (s.setPair p x).half q = s.half q := rfl
@[simp] theorem State.half_setDbg (s : State) (p : Nat) (x : Dbg) (q : Nat) : (s.setDbg p x).half q = s.half q := rfl

/-! State.port. -/

@[simp] theorem State.port_setReg (s : State) (a : Nat) (v : W32) (q : Nat) : (s.setReg a v).port q = s.port q := rfl
@[simp] theorem State.port_setField (s : State) (a lo w v : Nat) (q : Nat) : (s.setField a lo w v).port q = s.port q := rfl
@[simp] theorem State.port_setBit (s : State) (a i : Nat) (q : Nat) : (s.setBit a i).port q = s.port q := rfl
@[simp] theorem State.port_clearBit (s : State) (a i : Nat) (q : Nat) : (s.clearBit a i).port q = s.port q := rfl
@[simp] theorem State.port_setPairState (s : State) (p st : Nat) (q : Nat) : (s.setPairState p st).port q = s.port q := rfl
@[simp] theorem State.port_setLastStatus (s : State) (p st : Nat) (q : Nat) : (s.setLastStatus p st).port q = s.port q := rfl
@[simp] theorem State.port_latchHi (s : State) (hi : Nat) (q : Nat) : (s.latchHi hi).port q = s.port q := rfl
@[simp] theorem State.port_setLatch (s : State) (a : Nat) (v : W32) (q : Nat) : (s.setLatch a v).port q = s.port q := rfl
@[simp] theorem State.port_tally (s : State) (a : Nat) (f : Nat → Nat) (q : Nat) : (s.tally a f).port q = s.port q := by unfold State.tally; split <;> rfl
@[simp] theorem State.port_count (s : State) (a n : Nat) (q : Nat) : (s.count a n).port q = s.port q := by unfold State.count State.tally; split <;> rfl
@[simp] theorem State.port_partCount (s : State) (p i : Nat) (q : Nat) : (s.partCount p i).port q = s.port q := by unfold State.partCount State.count State.tally; split <;> rfl
@[simp] theorem State.port_spend (s : State) (p sl pj : Nat) (q : Nat) : (s.spend p sl pj).port q = s.port q := by unfold State.spend State.count State.tally; split <;> rfl
@[simp] theorem State.port_setPart (s : State) (p : Nat) (x : Part) (q : Nat) : (s.setPart p x).port q = s.port q := rfl
@[simp] theorem State.port_setArr (s : State) (ga : Nat) (x : Arr) (q : Nat) : (s.setArr ga x).port q = s.port q := rfl
@[simp] theorem State.port_setGroup (s : State) (ga slot : Nat) (x : Group) (q : Nat) : (s.setGroup ga slot x).port q = s.port q := rfl
@[simp] theorem State.port_setBlock (s : State) (ga b : Nat) (x : Block) (q : Nat) : (s.setBlock ga b x).port q = s.port q := rfl
@[simp] theorem State.port_setSlice (s : State) (d : Nat) (x : Slice) (q : Nat) : (s.setSlice d x).port q = s.port q := rfl
@[simp] theorem State.port_setMid (s : State) (m : Nat) (x : Mid) (q : Nat) : (s.setMid m x).port q = s.port q := rfl
@[simp] theorem State.port_setCourier (s : State) (c : Nat) (x : Courier) (q : Nat) : (s.setCourier c x).port q = s.port q := rfl
@[simp] theorem State.port_setHalf (s : State) (k : Nat) (x : Half) (q : Nat) : (s.setHalf k x).port q = s.port q := rfl
@[simp] theorem State.port_setMailbag (s : State) (port m : Nat) (x : Mailbag) (q : Nat) : (s.setMailbag port m x).port q = s.port q := rfl
@[simp] theorem State.port_modWork (s : State) (id : Nat) (f : Work → Work) (q : Nat) : (s.modWork id f).port q = s.port q := rfl
@[simp] theorem State.port_setKeys (s : State) (p : Nat) (x : PartKeys) (q : Nat) : (s.setKeys p x).port q = s.port q := rfl
@[simp] theorem State.port_setSpdm (s : State) (port : Nat) (x : Spdm) (q : Nat) : (s.setSpdm port x).port q = s.port q := rfl
@[simp] theorem State.port_setSession (s : State) (port sess : Nat) (x : Session) (q : Nat) : (s.setSession port sess x).port q = s.port q := rfl
@[simp] theorem State.port_setPair (s : State) (p : Nat) (x : PairPart) (q : Nat) : (s.setPair p x).port q = s.port q := rfl
@[simp] theorem State.port_setDbg (s : State) (p : Nat) (x : Dbg) (q : Nat) : (s.setDbg p x).port q = s.port q := rfl

/-! State.mailbag. -/

@[simp] theorem State.mailbag_setReg (s : State) (a : Nat) (v : W32) (q t : Nat) : (s.setReg a v).mailbag q t = s.mailbag q t := rfl
@[simp] theorem State.mailbag_setField (s : State) (a lo w v : Nat) (q t : Nat) : (s.setField a lo w v).mailbag q t = s.mailbag q t := rfl
@[simp] theorem State.mailbag_setBit (s : State) (a i : Nat) (q t : Nat) : (s.setBit a i).mailbag q t = s.mailbag q t := rfl
@[simp] theorem State.mailbag_clearBit (s : State) (a i : Nat) (q t : Nat) : (s.clearBit a i).mailbag q t = s.mailbag q t := rfl
@[simp] theorem State.mailbag_setPairState (s : State) (p st : Nat) (q t : Nat) : (s.setPairState p st).mailbag q t = s.mailbag q t := rfl
@[simp] theorem State.mailbag_setLastStatus (s : State) (p st : Nat) (q t : Nat) : (s.setLastStatus p st).mailbag q t = s.mailbag q t := rfl
@[simp] theorem State.mailbag_latchHi (s : State) (hi : Nat) (q t : Nat) : (s.latchHi hi).mailbag q t = s.mailbag q t := rfl
@[simp] theorem State.mailbag_setLatch (s : State) (a : Nat) (v : W32) (q t : Nat) : (s.setLatch a v).mailbag q t = s.mailbag q t := rfl
@[simp] theorem State.mailbag_tally (s : State) (a : Nat) (f : Nat → Nat) (q t : Nat) : (s.tally a f).mailbag q t = s.mailbag q t := by unfold State.tally; split <;> rfl
@[simp] theorem State.mailbag_count (s : State) (a n : Nat) (q t : Nat) : (s.count a n).mailbag q t = s.mailbag q t := by unfold State.count State.tally; split <;> rfl
@[simp] theorem State.mailbag_partCount (s : State) (p i : Nat) (q t : Nat) : (s.partCount p i).mailbag q t = s.mailbag q t := by unfold State.partCount State.count State.tally; split <;> rfl
@[simp] theorem State.mailbag_spend (s : State) (p sl pj : Nat) (q t : Nat) : (s.spend p sl pj).mailbag q t = s.mailbag q t := by unfold State.spend State.count State.tally; split <;> rfl
@[simp] theorem State.mailbag_setPart (s : State) (p : Nat) (x : Part) (q t : Nat) : (s.setPart p x).mailbag q t = s.mailbag q t := rfl
@[simp] theorem State.mailbag_setArr (s : State) (ga : Nat) (x : Arr) (q t : Nat) : (s.setArr ga x).mailbag q t = s.mailbag q t := rfl
@[simp] theorem State.mailbag_setGroup (s : State) (ga slot : Nat) (x : Group) (q t : Nat) : (s.setGroup ga slot x).mailbag q t = s.mailbag q t := rfl
@[simp] theorem State.mailbag_setBlock (s : State) (ga b : Nat) (x : Block) (q t : Nat) : (s.setBlock ga b x).mailbag q t = s.mailbag q t := rfl
@[simp] theorem State.mailbag_setSlice (s : State) (d : Nat) (x : Slice) (q t : Nat) : (s.setSlice d x).mailbag q t = s.mailbag q t := rfl
@[simp] theorem State.mailbag_setMid (s : State) (m : Nat) (x : Mid) (q t : Nat) : (s.setMid m x).mailbag q t = s.mailbag q t := rfl
@[simp] theorem State.mailbag_setCourier (s : State) (c : Nat) (x : Courier) (q t : Nat) : (s.setCourier c x).mailbag q t = s.mailbag q t := rfl
@[simp] theorem State.mailbag_setHalf (s : State) (k : Nat) (x : Half) (q t : Nat) : (s.setHalf k x).mailbag q t = s.mailbag q t := rfl
@[simp] theorem State.mailbag_setPort (s : State) (port : Nat) (x : Port) (q t : Nat) : (s.setPort port x).mailbag q t = s.mailbag q t := rfl
@[simp] theorem State.mailbag_modWork (s : State) (id : Nat) (f : Work → Work) (q t : Nat) : (s.modWork id f).mailbag q t = s.mailbag q t := rfl
@[simp] theorem State.mailbag_setKeys (s : State) (p : Nat) (x : PartKeys) (q t : Nat) : (s.setKeys p x).mailbag q t = s.mailbag q t := rfl
@[simp] theorem State.mailbag_setSpdm (s : State) (port : Nat) (x : Spdm) (q t : Nat) : (s.setSpdm port x).mailbag q t = s.mailbag q t := rfl
@[simp] theorem State.mailbag_setSession (s : State) (port sess : Nat) (x : Session) (q t : Nat) : (s.setSession port sess x).mailbag q t = s.mailbag q t := rfl
@[simp] theorem State.mailbag_setPair (s : State) (p : Nat) (x : PairPart) (q t : Nat) : (s.setPair p x).mailbag q t = s.mailbag q t := rfl
@[simp] theorem State.mailbag_setDbg (s : State) (p : Nat) (x : Dbg) (q t : Nat) : (s.setDbg p x).mailbag q t = s.mailbag q t := rfl

/-! State.work. -/

@[simp] theorem State.work_setReg (s : State) (a : Nat) (v : W32) (q : Nat) : (s.setReg a v).work q = s.work q := rfl
@[simp] theorem State.work_setField (s : State) (a lo w v : Nat) (q : Nat) : (s.setField a lo w v).work q = s.work q := rfl
@[simp] theorem State.work_setBit (s : State) (a i : Nat) (q : Nat) : (s.setBit a i).work q = s.work q := rfl
@[simp] theorem State.work_clearBit (s : State) (a i : Nat) (q : Nat) : (s.clearBit a i).work q = s.work q := rfl
@[simp] theorem State.work_setPairState (s : State) (p st : Nat) (q : Nat) : (s.setPairState p st).work q = s.work q := rfl
@[simp] theorem State.work_setLastStatus (s : State) (p st : Nat) (q : Nat) : (s.setLastStatus p st).work q = s.work q := rfl
@[simp] theorem State.work_latchHi (s : State) (hi : Nat) (q : Nat) : (s.latchHi hi).work q = s.work q := rfl
@[simp] theorem State.work_setLatch (s : State) (a : Nat) (v : W32) (q : Nat) : (s.setLatch a v).work q = s.work q := rfl
@[simp] theorem State.work_tally (s : State) (a : Nat) (f : Nat → Nat) (q : Nat) : (s.tally a f).work q = s.work q := by unfold State.tally; split <;> rfl
@[simp] theorem State.work_count (s : State) (a n : Nat) (q : Nat) : (s.count a n).work q = s.work q := by unfold State.count State.tally; split <;> rfl
@[simp] theorem State.work_partCount (s : State) (p i : Nat) (q : Nat) : (s.partCount p i).work q = s.work q := by unfold State.partCount State.count State.tally; split <;> rfl
@[simp] theorem State.work_spend (s : State) (p sl pj : Nat) (q : Nat) : (s.spend p sl pj).work q = s.work q := by unfold State.spend State.count State.tally; split <;> rfl
@[simp] theorem State.work_setPart (s : State) (p : Nat) (x : Part) (q : Nat) : (s.setPart p x).work q = s.work q := rfl
@[simp] theorem State.work_setArr (s : State) (ga : Nat) (x : Arr) (q : Nat) : (s.setArr ga x).work q = s.work q := rfl
@[simp] theorem State.work_setGroup (s : State) (ga slot : Nat) (x : Group) (q : Nat) : (s.setGroup ga slot x).work q = s.work q := rfl
@[simp] theorem State.work_setBlock (s : State) (ga b : Nat) (x : Block) (q : Nat) : (s.setBlock ga b x).work q = s.work q := rfl
@[simp] theorem State.work_setSlice (s : State) (d : Nat) (x : Slice) (q : Nat) : (s.setSlice d x).work q = s.work q := rfl
@[simp] theorem State.work_setMid (s : State) (m : Nat) (x : Mid) (q : Nat) : (s.setMid m x).work q = s.work q := rfl
@[simp] theorem State.work_setCourier (s : State) (c : Nat) (x : Courier) (q : Nat) : (s.setCourier c x).work q = s.work q := rfl
@[simp] theorem State.work_setHalf (s : State) (k : Nat) (x : Half) (q : Nat) : (s.setHalf k x).work q = s.work q := rfl
@[simp] theorem State.work_setPort (s : State) (port : Nat) (x : Port) (q : Nat) : (s.setPort port x).work q = s.work q := rfl
@[simp] theorem State.work_setMailbag (s : State) (port m : Nat) (x : Mailbag) (q : Nat) : (s.setMailbag port m x).work q = s.work q := rfl
@[simp] theorem State.work_setKeys (s : State) (p : Nat) (x : PartKeys) (q : Nat) : (s.setKeys p x).work q = s.work q := rfl
@[simp] theorem State.work_setSpdm (s : State) (port : Nat) (x : Spdm) (q : Nat) : (s.setSpdm port x).work q = s.work q := rfl
@[simp] theorem State.work_setSession (s : State) (port sess : Nat) (x : Session) (q : Nat) : (s.setSession port sess x).work q = s.work q := rfl
@[simp] theorem State.work_setPair (s : State) (p : Nat) (x : PairPart) (q : Nat) : (s.setPair p x).work q = s.work q := rfl
@[simp] theorem State.work_setDbg (s : State) (p : Nat) (x : Dbg) (q : Nat) : (s.setDbg p x).work q = s.work q := rfl

/-! State.keysOf. -/

@[simp] theorem State.keysOf_setReg (s : State) (a : Nat) (v : W32) (q : Nat) : (s.setReg a v).keysOf q = s.keysOf q := rfl
@[simp] theorem State.keysOf_setField (s : State) (a lo w v : Nat) (q : Nat) : (s.setField a lo w v).keysOf q = s.keysOf q := rfl
@[simp] theorem State.keysOf_setBit (s : State) (a i : Nat) (q : Nat) : (s.setBit a i).keysOf q = s.keysOf q := rfl
@[simp] theorem State.keysOf_clearBit (s : State) (a i : Nat) (q : Nat) : (s.clearBit a i).keysOf q = s.keysOf q := rfl
@[simp] theorem State.keysOf_setPairState (s : State) (p st : Nat) (q : Nat) : (s.setPairState p st).keysOf q = s.keysOf q := rfl
@[simp] theorem State.keysOf_setLastStatus (s : State) (p st : Nat) (q : Nat) : (s.setLastStatus p st).keysOf q = s.keysOf q := rfl
@[simp] theorem State.keysOf_latchHi (s : State) (hi : Nat) (q : Nat) : (s.latchHi hi).keysOf q = s.keysOf q := rfl
@[simp] theorem State.keysOf_setLatch (s : State) (a : Nat) (v : W32) (q : Nat) : (s.setLatch a v).keysOf q = s.keysOf q := rfl
@[simp] theorem State.keysOf_tally (s : State) (a : Nat) (f : Nat → Nat) (q : Nat) : (s.tally a f).keysOf q = s.keysOf q := by unfold State.tally; split <;> rfl
@[simp] theorem State.keysOf_count (s : State) (a n : Nat) (q : Nat) : (s.count a n).keysOf q = s.keysOf q := by unfold State.count State.tally; split <;> rfl
@[simp] theorem State.keysOf_partCount (s : State) (p i : Nat) (q : Nat) : (s.partCount p i).keysOf q = s.keysOf q := by unfold State.partCount State.count State.tally; split <;> rfl
@[simp] theorem State.keysOf_spend (s : State) (p sl pj : Nat) (q : Nat) : (s.spend p sl pj).keysOf q = s.keysOf q := by unfold State.spend State.count State.tally; split <;> rfl
@[simp] theorem State.keysOf_setPart (s : State) (p : Nat) (x : Part) (q : Nat) : (s.setPart p x).keysOf q = s.keysOf q := rfl
@[simp] theorem State.keysOf_setArr (s : State) (ga : Nat) (x : Arr) (q : Nat) : (s.setArr ga x).keysOf q = s.keysOf q := rfl
@[simp] theorem State.keysOf_setGroup (s : State) (ga slot : Nat) (x : Group) (q : Nat) : (s.setGroup ga slot x).keysOf q = s.keysOf q := rfl
@[simp] theorem State.keysOf_setBlock (s : State) (ga b : Nat) (x : Block) (q : Nat) : (s.setBlock ga b x).keysOf q = s.keysOf q := rfl
@[simp] theorem State.keysOf_setSlice (s : State) (d : Nat) (x : Slice) (q : Nat) : (s.setSlice d x).keysOf q = s.keysOf q := rfl
@[simp] theorem State.keysOf_setMid (s : State) (m : Nat) (x : Mid) (q : Nat) : (s.setMid m x).keysOf q = s.keysOf q := rfl
@[simp] theorem State.keysOf_setCourier (s : State) (c : Nat) (x : Courier) (q : Nat) : (s.setCourier c x).keysOf q = s.keysOf q := rfl
@[simp] theorem State.keysOf_setHalf (s : State) (k : Nat) (x : Half) (q : Nat) : (s.setHalf k x).keysOf q = s.keysOf q := rfl
@[simp] theorem State.keysOf_setPort (s : State) (port : Nat) (x : Port) (q : Nat) : (s.setPort port x).keysOf q = s.keysOf q := rfl
@[simp] theorem State.keysOf_setMailbag (s : State) (port m : Nat) (x : Mailbag) (q : Nat) : (s.setMailbag port m x).keysOf q = s.keysOf q := rfl
@[simp] theorem State.keysOf_modWork (s : State) (id : Nat) (f : Work → Work) (q : Nat) : (s.modWork id f).keysOf q = s.keysOf q := rfl
@[simp] theorem State.keysOf_setSpdm (s : State) (port : Nat) (x : Spdm) (q : Nat) : (s.setSpdm port x).keysOf q = s.keysOf q := rfl
@[simp] theorem State.keysOf_setSession (s : State) (port sess : Nat) (x : Session) (q : Nat) : (s.setSession port sess x).keysOf q = s.keysOf q := rfl
@[simp] theorem State.keysOf_setPair (s : State) (p : Nat) (x : PairPart) (q : Nat) : (s.setPair p x).keysOf q = s.keysOf q := rfl
@[simp] theorem State.keysOf_setDbg (s : State) (p : Nat) (x : Dbg) (q : Nat) : (s.setDbg p x).keysOf q = s.keysOf q := rfl

/-! State.spdmOf. -/

@[simp] theorem State.spdmOf_setReg (s : State) (a : Nat) (v : W32) (q : Nat) : (s.setReg a v).spdmOf q = s.spdmOf q := rfl
@[simp] theorem State.spdmOf_setField (s : State) (a lo w v : Nat) (q : Nat) : (s.setField a lo w v).spdmOf q = s.spdmOf q := rfl
@[simp] theorem State.spdmOf_setBit (s : State) (a i : Nat) (q : Nat) : (s.setBit a i).spdmOf q = s.spdmOf q := rfl
@[simp] theorem State.spdmOf_clearBit (s : State) (a i : Nat) (q : Nat) : (s.clearBit a i).spdmOf q = s.spdmOf q := rfl
@[simp] theorem State.spdmOf_setPairState (s : State) (p st : Nat) (q : Nat) : (s.setPairState p st).spdmOf q = s.spdmOf q := rfl
@[simp] theorem State.spdmOf_setLastStatus (s : State) (p st : Nat) (q : Nat) : (s.setLastStatus p st).spdmOf q = s.spdmOf q := rfl
@[simp] theorem State.spdmOf_latchHi (s : State) (hi : Nat) (q : Nat) : (s.latchHi hi).spdmOf q = s.spdmOf q := rfl
@[simp] theorem State.spdmOf_setLatch (s : State) (a : Nat) (v : W32) (q : Nat) : (s.setLatch a v).spdmOf q = s.spdmOf q := rfl
@[simp] theorem State.spdmOf_tally (s : State) (a : Nat) (f : Nat → Nat) (q : Nat) : (s.tally a f).spdmOf q = s.spdmOf q := by unfold State.tally; split <;> rfl
@[simp] theorem State.spdmOf_count (s : State) (a n : Nat) (q : Nat) : (s.count a n).spdmOf q = s.spdmOf q := by unfold State.count State.tally; split <;> rfl
@[simp] theorem State.spdmOf_partCount (s : State) (p i : Nat) (q : Nat) : (s.partCount p i).spdmOf q = s.spdmOf q := by unfold State.partCount State.count State.tally; split <;> rfl
@[simp] theorem State.spdmOf_spend (s : State) (p sl pj : Nat) (q : Nat) : (s.spend p sl pj).spdmOf q = s.spdmOf q := by unfold State.spend State.count State.tally; split <;> rfl
@[simp] theorem State.spdmOf_setPart (s : State) (p : Nat) (x : Part) (q : Nat) : (s.setPart p x).spdmOf q = s.spdmOf q := rfl
@[simp] theorem State.spdmOf_setArr (s : State) (ga : Nat) (x : Arr) (q : Nat) : (s.setArr ga x).spdmOf q = s.spdmOf q := rfl
@[simp] theorem State.spdmOf_setGroup (s : State) (ga slot : Nat) (x : Group) (q : Nat) : (s.setGroup ga slot x).spdmOf q = s.spdmOf q := rfl
@[simp] theorem State.spdmOf_setBlock (s : State) (ga b : Nat) (x : Block) (q : Nat) : (s.setBlock ga b x).spdmOf q = s.spdmOf q := rfl
@[simp] theorem State.spdmOf_setSlice (s : State) (d : Nat) (x : Slice) (q : Nat) : (s.setSlice d x).spdmOf q = s.spdmOf q := rfl
@[simp] theorem State.spdmOf_setMid (s : State) (m : Nat) (x : Mid) (q : Nat) : (s.setMid m x).spdmOf q = s.spdmOf q := rfl
@[simp] theorem State.spdmOf_setCourier (s : State) (c : Nat) (x : Courier) (q : Nat) : (s.setCourier c x).spdmOf q = s.spdmOf q := rfl
@[simp] theorem State.spdmOf_setHalf (s : State) (k : Nat) (x : Half) (q : Nat) : (s.setHalf k x).spdmOf q = s.spdmOf q := rfl
@[simp] theorem State.spdmOf_setPort (s : State) (port : Nat) (x : Port) (q : Nat) : (s.setPort port x).spdmOf q = s.spdmOf q := rfl
@[simp] theorem State.spdmOf_setMailbag (s : State) (port m : Nat) (x : Mailbag) (q : Nat) : (s.setMailbag port m x).spdmOf q = s.spdmOf q := rfl
@[simp] theorem State.spdmOf_modWork (s : State) (id : Nat) (f : Work → Work) (q : Nat) : (s.modWork id f).spdmOf q = s.spdmOf q := rfl
@[simp] theorem State.spdmOf_setKeys (s : State) (p : Nat) (x : PartKeys) (q : Nat) : (s.setKeys p x).spdmOf q = s.spdmOf q := rfl
@[simp] theorem State.spdmOf_setPair (s : State) (p : Nat) (x : PairPart) (q : Nat) : (s.setPair p x).spdmOf q = s.spdmOf q := rfl
@[simp] theorem State.spdmOf_setDbg (s : State) (p : Nat) (x : Dbg) (q : Nat) : (s.setDbg p x).spdmOf q = s.spdmOf q := rfl

/-! State.pair. -/

@[simp] theorem State.pair_setReg (s : State) (a : Nat) (v : W32) (q : Nat) : (s.setReg a v).pair q = s.pair q := rfl
@[simp] theorem State.pair_setField (s : State) (a lo w v : Nat) (q : Nat) : (s.setField a lo w v).pair q = s.pair q := rfl
@[simp] theorem State.pair_setBit (s : State) (a i : Nat) (q : Nat) : (s.setBit a i).pair q = s.pair q := rfl
@[simp] theorem State.pair_clearBit (s : State) (a i : Nat) (q : Nat) : (s.clearBit a i).pair q = s.pair q := rfl
@[simp] theorem State.pair_setPairState (s : State) (p st : Nat) (q : Nat) : (s.setPairState p st).pair q = s.pair q := rfl
@[simp] theorem State.pair_setLastStatus (s : State) (p st : Nat) (q : Nat) : (s.setLastStatus p st).pair q = s.pair q := rfl
@[simp] theorem State.pair_latchHi (s : State) (hi : Nat) (q : Nat) : (s.latchHi hi).pair q = s.pair q := rfl
@[simp] theorem State.pair_setLatch (s : State) (a : Nat) (v : W32) (q : Nat) : (s.setLatch a v).pair q = s.pair q := rfl
@[simp] theorem State.pair_tally (s : State) (a : Nat) (f : Nat → Nat) (q : Nat) : (s.tally a f).pair q = s.pair q := by unfold State.tally; split <;> rfl
@[simp] theorem State.pair_count (s : State) (a n : Nat) (q : Nat) : (s.count a n).pair q = s.pair q := by unfold State.count State.tally; split <;> rfl
@[simp] theorem State.pair_partCount (s : State) (p i : Nat) (q : Nat) : (s.partCount p i).pair q = s.pair q := by unfold State.partCount State.count State.tally; split <;> rfl
@[simp] theorem State.pair_spend (s : State) (p sl pj : Nat) (q : Nat) : (s.spend p sl pj).pair q = s.pair q := by unfold State.spend State.count State.tally; split <;> rfl
@[simp] theorem State.pair_setPart (s : State) (p : Nat) (x : Part) (q : Nat) : (s.setPart p x).pair q = s.pair q := rfl
@[simp] theorem State.pair_setArr (s : State) (ga : Nat) (x : Arr) (q : Nat) : (s.setArr ga x).pair q = s.pair q := rfl
@[simp] theorem State.pair_setGroup (s : State) (ga slot : Nat) (x : Group) (q : Nat) : (s.setGroup ga slot x).pair q = s.pair q := rfl
@[simp] theorem State.pair_setBlock (s : State) (ga b : Nat) (x : Block) (q : Nat) : (s.setBlock ga b x).pair q = s.pair q := rfl
@[simp] theorem State.pair_setSlice (s : State) (d : Nat) (x : Slice) (q : Nat) : (s.setSlice d x).pair q = s.pair q := rfl
@[simp] theorem State.pair_setMid (s : State) (m : Nat) (x : Mid) (q : Nat) : (s.setMid m x).pair q = s.pair q := rfl
@[simp] theorem State.pair_setCourier (s : State) (c : Nat) (x : Courier) (q : Nat) : (s.setCourier c x).pair q = s.pair q := rfl
@[simp] theorem State.pair_setHalf (s : State) (k : Nat) (x : Half) (q : Nat) : (s.setHalf k x).pair q = s.pair q := rfl
@[simp] theorem State.pair_setPort (s : State) (port : Nat) (x : Port) (q : Nat) : (s.setPort port x).pair q = s.pair q := rfl
@[simp] theorem State.pair_setMailbag (s : State) (port m : Nat) (x : Mailbag) (q : Nat) : (s.setMailbag port m x).pair q = s.pair q := rfl
@[simp] theorem State.pair_modWork (s : State) (id : Nat) (f : Work → Work) (q : Nat) : (s.modWork id f).pair q = s.pair q := rfl
@[simp] theorem State.pair_setKeys (s : State) (p : Nat) (x : PartKeys) (q : Nat) : (s.setKeys p x).pair q = s.pair q := rfl
@[simp] theorem State.pair_setSpdm (s : State) (port : Nat) (x : Spdm) (q : Nat) : (s.setSpdm port x).pair q = s.pair q := rfl
@[simp] theorem State.pair_setSession (s : State) (port sess : Nat) (x : Session) (q : Nat) : (s.setSession port sess x).pair q = s.pair q := rfl
@[simp] theorem State.pair_setDbg (s : State) (p : Nat) (x : Dbg) (q : Nat) : (s.setDbg p x).pair q = s.pair q := rfl

/-! State.dbgOf. -/

@[simp] theorem State.dbgOf_setReg (s : State) (a : Nat) (v : W32) (q : Nat) : (s.setReg a v).dbgOf q = s.dbgOf q := rfl
@[simp] theorem State.dbgOf_setField (s : State) (a lo w v : Nat) (q : Nat) : (s.setField a lo w v).dbgOf q = s.dbgOf q := rfl
@[simp] theorem State.dbgOf_setBit (s : State) (a i : Nat) (q : Nat) : (s.setBit a i).dbgOf q = s.dbgOf q := rfl
@[simp] theorem State.dbgOf_clearBit (s : State) (a i : Nat) (q : Nat) : (s.clearBit a i).dbgOf q = s.dbgOf q := rfl
@[simp] theorem State.dbgOf_setPairState (s : State) (p st : Nat) (q : Nat) : (s.setPairState p st).dbgOf q = s.dbgOf q := rfl
@[simp] theorem State.dbgOf_setLastStatus (s : State) (p st : Nat) (q : Nat) : (s.setLastStatus p st).dbgOf q = s.dbgOf q := rfl
@[simp] theorem State.dbgOf_latchHi (s : State) (hi : Nat) (q : Nat) : (s.latchHi hi).dbgOf q = s.dbgOf q := rfl
@[simp] theorem State.dbgOf_setLatch (s : State) (a : Nat) (v : W32) (q : Nat) : (s.setLatch a v).dbgOf q = s.dbgOf q := rfl
@[simp] theorem State.dbgOf_tally (s : State) (a : Nat) (f : Nat → Nat) (q : Nat) : (s.tally a f).dbgOf q = s.dbgOf q := by unfold State.tally; split <;> rfl
@[simp] theorem State.dbgOf_count (s : State) (a n : Nat) (q : Nat) : (s.count a n).dbgOf q = s.dbgOf q := by unfold State.count State.tally; split <;> rfl
@[simp] theorem State.dbgOf_partCount (s : State) (p i : Nat) (q : Nat) : (s.partCount p i).dbgOf q = s.dbgOf q := by unfold State.partCount State.count State.tally; split <;> rfl
@[simp] theorem State.dbgOf_spend (s : State) (p sl pj : Nat) (q : Nat) : (s.spend p sl pj).dbgOf q = s.dbgOf q := by unfold State.spend State.count State.tally; split <;> rfl
@[simp] theorem State.dbgOf_setPart (s : State) (p : Nat) (x : Part) (q : Nat) : (s.setPart p x).dbgOf q = s.dbgOf q := rfl
@[simp] theorem State.dbgOf_setArr (s : State) (ga : Nat) (x : Arr) (q : Nat) : (s.setArr ga x).dbgOf q = s.dbgOf q := rfl
@[simp] theorem State.dbgOf_setGroup (s : State) (ga slot : Nat) (x : Group) (q : Nat) : (s.setGroup ga slot x).dbgOf q = s.dbgOf q := rfl
@[simp] theorem State.dbgOf_setBlock (s : State) (ga b : Nat) (x : Block) (q : Nat) : (s.setBlock ga b x).dbgOf q = s.dbgOf q := rfl
@[simp] theorem State.dbgOf_setSlice (s : State) (d : Nat) (x : Slice) (q : Nat) : (s.setSlice d x).dbgOf q = s.dbgOf q := rfl
@[simp] theorem State.dbgOf_setMid (s : State) (m : Nat) (x : Mid) (q : Nat) : (s.setMid m x).dbgOf q = s.dbgOf q := rfl
@[simp] theorem State.dbgOf_setCourier (s : State) (c : Nat) (x : Courier) (q : Nat) : (s.setCourier c x).dbgOf q = s.dbgOf q := rfl
@[simp] theorem State.dbgOf_setHalf (s : State) (k : Nat) (x : Half) (q : Nat) : (s.setHalf k x).dbgOf q = s.dbgOf q := rfl
@[simp] theorem State.dbgOf_setPort (s : State) (port : Nat) (x : Port) (q : Nat) : (s.setPort port x).dbgOf q = s.dbgOf q := rfl
@[simp] theorem State.dbgOf_setMailbag (s : State) (port m : Nat) (x : Mailbag) (q : Nat) : (s.setMailbag port m x).dbgOf q = s.dbgOf q := rfl
@[simp] theorem State.dbgOf_modWork (s : State) (id : Nat) (f : Work → Work) (q : Nat) : (s.modWork id f).dbgOf q = s.dbgOf q := rfl
@[simp] theorem State.dbgOf_setKeys (s : State) (p : Nat) (x : PartKeys) (q : Nat) : (s.setKeys p x).dbgOf q = s.dbgOf q := rfl
@[simp] theorem State.dbgOf_setSpdm (s : State) (port : Nat) (x : Spdm) (q : Nat) : (s.setSpdm port x).dbgOf q = s.dbgOf q := rfl
@[simp] theorem State.dbgOf_setSession (s : State) (port sess : Nat) (x : Session) (q : Nat) : (s.setSession port sess x).dbgOf q = s.dbgOf q := rfl
@[simp] theorem State.dbgOf_setPair (s : State) (p : Nat) (x : PairPart) (q : Nat) : (s.setPair p x).dbgOf q = s.dbgOf q := rfl

theorem State.part_setPart (s : State) (p q : Nat) (x : Part) : (s.setPart p x).part q = if q = p then x else s.part q := Tab.getD_put ..
@[simp] theorem State.part_setPart_self (s : State) (p : Nat) (x : Part) : (s.setPart p x).part p = x := Tab.getD_put_self ..
theorem State.arr_setArr (s : State) (p q : Nat) (x : Arr) : (s.setArr p x).arr q = if q = p then x else s.arr q := Tab.getD_put ..
@[simp] theorem State.arr_setArr_self (s : State) (p : Nat) (x : Arr) : (s.setArr p x).arr p = x := Tab.getD_put_self ..
theorem State.slice_setSlice (s : State) (p q : Nat) (x : Slice) : (s.setSlice p x).slice q = if q = p then x else s.slice q := Tab.getD_put ..
@[simp] theorem State.slice_setSlice_self (s : State) (p : Nat) (x : Slice) : (s.setSlice p x).slice p = x := Tab.getD_put_self ..
theorem State.mid_setMid (s : State) (p q : Nat) (x : Mid) : (s.setMid p x).mid q = if q = p then x else s.mid q := Tab.getD_put ..
@[simp] theorem State.mid_setMid_self (s : State) (p : Nat) (x : Mid) : (s.setMid p x).mid p = x := Tab.getD_put_self ..
theorem State.courier_setCourier (s : State) (p q : Nat) (x : Courier) : (s.setCourier p x).courier q = if q = p then x else s.courier q := Tab.getD_put ..
@[simp] theorem State.courier_setCourier_self (s : State) (p : Nat) (x : Courier) : (s.setCourier p x).courier p = x := Tab.getD_put_self ..
theorem State.half_setHalf (s : State) (p q : Nat) (x : Half) : (s.setHalf p x).half q = if q = p then x else s.half q := Tab.getD_put ..
@[simp] theorem State.half_setHalf_self (s : State) (p : Nat) (x : Half) : (s.setHalf p x).half p = x := Tab.getD_put_self ..
theorem State.port_setPort (s : State) (p q : Nat) (x : Port) : (s.setPort p x).port q = if q = p then x else s.port q := Tab.getD_put ..
@[simp] theorem State.port_setPort_self (s : State) (p : Nat) (x : Port) : (s.setPort p x).port p = x := Tab.getD_put_self ..
theorem State.keysOf_setKeys (s : State) (p q : Nat) (x : PartKeys) : (s.setKeys p x).keysOf q = if q = p then x else s.keysOf q := Tab.getD_put ..
@[simp] theorem State.keysOf_setKeys_self (s : State) (p : Nat) (x : PartKeys) : (s.setKeys p x).keysOf p = x := Tab.getD_put_self ..
theorem State.spdmOf_setSpdm (s : State) (p q : Nat) (x : Spdm) : (s.setSpdm p x).spdmOf q = if q = p then x else s.spdmOf q := Tab.getD_put ..
@[simp] theorem State.spdmOf_setSpdm_self (s : State) (p : Nat) (x : Spdm) : (s.setSpdm p x).spdmOf p = x := Tab.getD_put_self ..
theorem State.pair_setPair (s : State) (p q : Nat) (x : PairPart) : (s.setPair p x).pair q = if q = p then x else s.pair q := Tab.getD_put ..
@[simp] theorem State.pair_setPair_self (s : State) (p : Nat) (x : PairPart) : (s.setPair p x).pair p = x := Tab.getD_put_self ..
theorem State.dbgOf_setDbg (s : State) (p q : Nat) (x : Dbg) : (s.setDbg p x).dbgOf q = if q = p then x else s.dbgOf q := Tab.getD_put ..
@[simp] theorem State.dbgOf_setDbg_self (s : State) (p : Nat) (x : Dbg) : (s.setDbg p x).dbgOf p = x := Tab.getD_put_self ..
@[simp] theorem State.mailbag_setMailbag_self (s : State) (p m : Nat) (x : Mailbag) : (s.setMailbag p m x).mailbag p m = x := Tab.getD_put_self ..
theorem State.mailbag_setMailbag_other (s : State) (p m q n : Nat) (x : Mailbag) (h : 4096 * q + n ≠ 4096 * p + m) :
    (s.setMailbag p m x).mailbag q n = s.mailbag q n := Tab.getD_put_other _ _ _ _ _ h

end Sys2Proof.Machine
end

