-- ==== Sys2Proof/Laws/Issue.lean ====
section
/-! SUPPORT. What the issue of an instruction leaves: the context it issues in, and that what follows an issue (subgroups meet, barriers
complete) changes nothing but where lanes stand and wait. -/

namespace Sys2Proof.Machine

/-! The context. -/

theorem Group.mem_rotation (g : Group) (u : Sub) (h : u ∈ g.rotation) : u ∈ g.subs := by
  simp only [Group.rotation, List.mem_append, List.mem_filter, List.mem_filterMap] at h
  rcases h with ⟨⟨i, -, h⟩, -⟩ | ⟨⟨i, -, h⟩, -⟩ <;> exact List.mem_of_find?_eq_some h

theorem Group.issuing_spec {g : Group} {ok : Sub → Bool} {u : Sub} (h : g.issuing ok = some u) :
    u ∈ g.subs ∧ Sub.canIssue g u = true ∧ ok u = true := by
  simp only [Group.issuing] at h
  split at h
  · have h1 := List.mem_of_find?_eq_some h
    have h2 := List.find?_some h
    simp only [Bool.and_eq_true] at h2
    exact ⟨Group.mem_rotation _ _ h1, h2⟩
  · obtain ⟨h1, h2⟩ := Option.filter_eq_some_iff.mp h
    simp only [Bool.and_eq_true] at h2
    exact ⟨List.mem_of_find?_eq_some h1, h2⟩

/-- What a context of an issue is. -/
theorem State.issueCtx_spec {s : State} {ga slot : Nat} {act : Group → Sub → BitVec 32} {ok : Ctx → Bool} {c : Ctx}
    (h : s.issueCtx ga slot act ok = some c) :
    c.ga = ga ∧ c.slot = slot ∧ s.group ga slot = some c.grp ∧ s.block ga c.grp.block = some c.blk ∧ c.blk.halted = false ∧
      c.grp.held = false ∧ c.sub ∈ c.grp.subs ∧ Sub.canIssue c.grp c.sub = true ∧ c.act = act c.grp c.sub ∧ ok c = true := by
  simp only [State.issueCtx] at h
  split at h
  · cases h
  · next g hg =>
    split at h
    · cases h
    · next k hk =>
      split at h
      · cases h
      · next hh =>
        obtain ⟨u, hu, rfl⟩ := Option.map_eq_some_iff.mp h
        obtain ⟨h1, h2, h3⟩ := Group.issuing_spec hu
        simp only [Bool.or_eq_true, not_or, Bool.not_eq_true] at hh
        exact ⟨rfl, rfl, hg, hk, hh.1.1, hh.1.2, h1, h2, rfl, h3⟩

theorem Sem.ctx_spec {m : Sem} {g : GRef} {w : Fields} {s : State} {c : Ctx} (h : m.ctx g w s = some c) :
    c.ga = g.arr.val ∧ c.slot = g.slot.val ∧ s.group c.ga c.slot = some c.grp ∧ s.block c.ga c.grp.block = some c.blk ∧
      c.blk.halted = false ∧ c.grp.held = false ∧ c.sub ∈ c.grp.subs ∧ Sub.canIssue c.grp c.sub = true ∧
      c.act = c.grp.guarded w c.sub.lanes ∧ m.isReady s c w = true := by
  obtain ⟨h1, h2, h3⟩ := State.issueCtx_spec h
  refine ⟨h1, h2, ?_⟩
  rw [h1, h2]
  exact h3

/-- An issue that nothing stops, with sound reads. -/
theorem Sem.issue_go {m : Sem} {g : GRef} {w : Fields} {s : State} {c : Ctx} {d : Desc} (h : Issues m g w s c d) :
    m.issue g w s =
      (((m.perform s c w d).occupy m c.ga (c.slot / 16) [c] w).issued c.ga c.slot (granules c.sub.lanes)).afterIssue c.ga c.slot c.grp.block := by
  have h1 := h.sound
  simp only [Sem.issue, h.ctx, h1, Sem.issueNow, Sem.issueAt, h.go]

/-! The shape of a word that nothing stops. -/

theorem Sem.verdict_go {m : Sem} {s : State} {c : Ctx} {w : Fields} {b : Bool} {d : Desc} (h : m.verdict s c w b = .go d) :
    c.blk.inText c.sub.pc = true ∧ m.desc w = some d ∧ d.legal w = true ∧ d.outOfRange w c.blk.regs = false ∧
      (d.coll = true → c.sub.lanes = c.grp.live) ∧ m.check s c w = none := by
  simp only [Sem.verdict] at h
  split at h
  · cases h
  · next h1 =>
    split at h
    · cases h
    · split at h
      · cases h
      · next d' h2 =>
        split at h
        · cases h
        · next h3 =>
          split at h
          · cases h
          · next h4 =>
            split at h
            · cases h
            · next h5 =>
              split at h
              · cases h
              · next h6 =>
                cases h
                refine ⟨by simpa using h1, h2, by simpa using h3, by simpa using h4, fun hc => ?_, h6⟩
                simpa [hc] using h5

/-! Groups after the lanes have met. -/

theorem StandsAt.mono {l l' : List Sub} {i : Nat} {pc : W64}
    (h : ∀ u ∈ l, u.lanes.getLsbD i = true → ∃ v ∈ l', v.lanes.getLsbD i = true ∧ v.pc = u.pc) (hl : ∃ u ∈ l, u.lanes.getLsbD i = true ∧ u.pc = pc) :
    ∃ u ∈ l', u.lanes.getLsbD i = true ∧ u.pc = pc := by
  obtain ⟨u, hu, hi, hp⟩ := hl
  obtain ⟨v, hv, hvi, hvp⟩ := h u hu hi
  exact ⟨v, hv, hvi, hvp.trans hp⟩

theorem standsAt_map {l : List Sub} {f : Sub → Sub} {i : Nat} {pc : W64} (hf : ∀ u, (f u).lanes = u.lanes ∧ (f u).pc = u.pc)
    (h : ∃ u ∈ l, u.lanes.getLsbD i = true ∧ u.pc = pc) : ∃ u ∈ l.map f, u.lanes.getLsbD i = true ∧ u.pc = pc :=
  StandsAt.mono (fun u hu hi => ⟨f u, List.mem_map_of_mem hu, by rw [(hf u).1, hi], (hf u).2⟩) h

theorem Sub.startReconv_keeps (n : Nat) (u : Sub) : (Sub.startReconv n u).lanes = u.lanes ∧ (Sub.startReconv n u).pc = u.pc := by
  simp only [Sub.startReconv]
  split
  · split <;> exact ⟨rfl, rfl⟩
  · exact ⟨rfl, rfl⟩

theorem Sub.endReconv_keeps (live : BitVec 32) (u : Sub) : (Sub.endReconv live u).lanes = u.lanes ∧ (Sub.endReconv live u).pc = u.pc := by
  simp only [Sub.endReconv]
  split
  · split <;> exact ⟨rfl, rfl⟩
  · exact ⟨rfl, rfl⟩

theorem Sub.restAtCollective_keeps (live : BitVec 32) (u : Sub) :
    (Sub.restAtCollective live u).lanes = u.lanes ∧ (Sub.restAtCollective live u).pc = u.pc := by
  simp only [Sub.restAtCollective]
  split <;> exact ⟨rfl, rfl⟩

@[simp] theorem Sub.merge_lanes (u v : Sub) : (Sub.merge u v).lanes = u.lanes ||| v.lanes := rfl
@[simp] theorem Sub.merge_pc (u v : Sub) : (Sub.merge u v).pc = u.pc := rfl

theorem Sub.merges_pc {u v : Sub} (h : Sub.merges u v = true) : u.pc = v.pc := by
  simp only [Sub.merges, Bool.and_eq_true, beq_iff_eq] at h
  exact h.1.1.1

theorem insertMerged_standsAt (u : Sub) (l : List Sub) (i : Nat) (pc : W64)
    (h : (u.lanes.getLsbD i = true ∧ u.pc = pc) ∨ ∃ v ∈ l, v.lanes.getLsbD i = true ∧ v.pc = pc) :
    ∃ v ∈ insertMerged u l, v.lanes.getLsbD i = true ∧ v.pc = pc := by
  induction l with
  | nil =>
    rcases h with h | ⟨v, hv, -⟩
    · exact ⟨u, by simp [insertMerged], h⟩
    · simp at hv
  | cons v l ih =>
    simp only [insertMerged]
    split
    · next hm =>
      have hpc := Sub.merges_pc hm
      rcases h with ⟨hi, hp⟩ | ⟨x, hx, hi, hp⟩
      · exact ⟨Sub.merge v u, List.mem_cons_self, by simp [hi], by simp [← hpc, hp]⟩
      · rcases List.mem_cons.mp hx with rfl | hx
        · exact ⟨Sub.merge x u, List.mem_cons_self, by simp [hi], by simp [hp]⟩
        · exact ⟨x, List.mem_cons_of_mem _ hx, hi, hp⟩
    · rcases h with h | ⟨x, hx, hi, hp⟩
      · obtain ⟨y, hy, h'⟩ := ih (Or.inl h)
        exact ⟨y, List.mem_cons_of_mem _ hy, h'⟩
      · rcases List.mem_cons.mp hx with rfl | hx
        · exact ⟨x, List.mem_cons_self, hi, hp⟩
        · obtain ⟨y, hy, h'⟩ := ih (Or.inr ⟨x, hx, hi, hp⟩)
          exact ⟨y, List.mem_cons_of_mem _ hy, h'⟩

theorem foldl_insertMerged_standsAt (l acc : List Sub) (i : Nat) (pc : W64)
    (h : (∃ u ∈ l, u.lanes.getLsbD i = true ∧ u.pc = pc) ∨ ∃ u ∈ acc, u.lanes.getLsbD i = true ∧ u.pc = pc) :
    ∃ v ∈ l.foldl (fun acc u => insertMerged u acc) acc, v.lanes.getLsbD i = true ∧ v.pc = pc := by
  induction l generalizing acc with
  | nil =>
    rcases h with ⟨u, hu, -⟩ | h
    · simp at hu
    · exact h
  | cons u l ih =>
    refine ih _ ?_
    rcases h with ⟨x, hx, h'⟩ | h
    · rcases List.mem_cons.mp hx with rfl | hx
      · exact Or.inr (insertMerged_standsAt _ _ _ _ (Or.inl h'))
      · exact Or.inl ⟨x, hx, h'⟩
    · exact Or.inr (insertMerged_standsAt _ _ _ _ (Or.inr h))

/-- Subgroups that meet leave every lane where it stands. -/
theorem Group.settle_standsAt (g : Group) (n i : Nat) (pc : W64) (h : StandsAt g i pc) : StandsAt (g.settle n) i pc := by
  simp only [Group.settle]
  split
  · exact h
  simp only [StandsAt]
  refine standsAt_map (fun u => ⟨(Sub.restAtCollective_keeps _ _).1.trans (Sub.endReconv_keeps _ _).1,
    (Sub.restAtCollective_keeps _ _).2.trans (Sub.endReconv_keeps _ _).2⟩)
    (foldl_insertMerged_standsAt _ _ _ _ (Or.inl (standsAt_map (Sub.startReconv_keeps n) ?_)))
  obtain ⟨u, hu, hi, hp⟩ := h
  refine ⟨u, List.mem_filter.mpr ⟨hu, ?_⟩, hi, hp⟩
  simp only [bne_iff_ne, ne_eq]
  intro h0
  rw [h0] at hi
  simp at hi

theorem Group.settle_holds (g : Group) (n : Nat) : Group.holds (g.settle n) = Group.holds g := by
  simp only [Group.settle]
  split <;> rfl

@[simp] theorem Group.settle_block (g : Group) (n : Nat) : (g.settle n).block = g.block := by
  simp only [Group.settle]
  split <;> rfl

/-! What follows an issue. -/

theorem Tab.get_map {α : Type} (t : Tab α) (f : Nat → α → α) (k : Nat) : Tab.get (Tab.mapAll t f) k = (Tab.get t k).map (f k) := by
  induction t with
  | nil => rfl
  | cons e t ih =>
    simp only [Tab.mapAll, List.map_cons, Tab.get]
    split
    · next h => subst h; rfl
    · split
      · rfl
      · exact ih

theorem Tab.mem_of_get {α : Type} (t : Tab α) (k : Nat) (v : α) (h : Tab.get t k = some v) : (k, v) ∈ t := by
  induction t with
  | nil => cases h
  | cons e t ih =>
    simp only [Tab.get] at h
    split at h
    · next hk => cases h; subst hk; exact List.mem_cons_self
    · split at h
      · cases h
      · exact List.mem_cons_of_mem _ (ih h)

/-- An array on which only lanes moved and barriers were counted. -/
structure ArrIdle (a b : Arr) : Prop where
  rest : b = { a with blocks := b.blocks, groups := b.groups, pointers := b.pointers, busy := b.busy, bankBusy := b.bankBusy }
  groups : ∀ slot, (Tab.get b.groups slot).map Group.holds = (Tab.get a.groups slot).map Group.holds
  blocks : ∀ k, (Tab.get b.blocks k).map Block.still = (Tab.get a.blocks k).map Block.still
  stands : ∀ slot x i pc, Tab.get a.groups slot = some x → StandsAt x i pc → ∃ y, Tab.get b.groups slot = some y ∧ StandsAt y i pc

theorem ArrIdle.refl (a : Arr) : ArrIdle a a := ⟨rfl, fun _ => rfl, fun _ => rfl, fun _ x _ _ h k => ⟨x, h, k⟩⟩

theorem ArrIdle.trans {a b c : Arr} (h : ArrIdle a b) (k : ArrIdle b c) : ArrIdle a c where
  rest := by rw [k.rest, h.rest]
  groups slot := (k.groups slot).trans (h.groups slot)
  blocks i := (k.blocks i).trans (h.blocks i)
  stands slot x i pc e f := by
    obtain ⟨y, hy, hs⟩ := h.stands slot x i pc e f
    exact k.stands slot y i pc hy hs

/-- Groups changed each by itself, in nothing but where its lanes stand and wait. -/
theorem ArrIdle.mapGroups (a : Arr) (f : Nat → Group → Group) (hh : ∀ k g, Group.holds (f k g) = Group.holds g)
    (hs : ∀ k g i pc, StandsAt g i pc → StandsAt (f k g) i pc) : ArrIdle a { a with groups := Tab.mapAll a.groups f } where
  rest := rfl
  groups slot := by
    rw [Tab.get_map, Option.map_map]
    congr 1
    funext g
    exact hh slot g
  blocks _ := rfl
  stands slot x i pc e h := ⟨f slot x, by simp only [Tab.get_map, e, Option.map_some], hs slot x i pc h⟩

theorem ArrIdle.putGroup (a : Arr) (slot : Nat) (g g' : Group) (hg : Tab.get a.groups slot = some g) (hh : Group.holds g' = Group.holds g)
    (hs : ∀ i pc, StandsAt g i pc → StandsAt g' i pc) : ArrIdle a { a with groups := Tab.put a.groups slot g' } where
  rest := rfl
  groups k := by
    simp only [Tab.get_put]
    split
    · next e => subst e; simp [hg, hh]
    · rfl
  blocks _ := rfl
  stands k x i pc e h := by
    simp only [Tab.get_put]
    split
    · next e' => subst e'; rw [hg] at e; cases e; exact ⟨g', rfl, hs i pc h⟩
    · exact ⟨x, e, h⟩

theorem ArrIdle.putBlock (a : Arr) (b : Nat) (k k' : Block) (hk : Tab.get a.blocks b = some k) (hs : Block.still k' = Block.still k) :
    ArrIdle a { a with blocks := Tab.put a.blocks b k' } where
  rest := rfl
  groups _ := rfl
  blocks j := by
    simp only [Tab.get_put]
    split
    · next e => subst e; simp [hk, hs]
    · rfl
  stands _ x _ _ e h := ⟨x, e, h⟩

/-- A block whose arrivals changed, and groups changed each by itself. -/
theorem ArrIdle.putBlock_mapGroups (a : Arr) (b : Nat) (k k' : Block) (hk : Tab.get a.blocks b = some k) (hs : Block.still k' = Block.still k)
    (f : Nat → Group → Group) (hh : ∀ k g, Group.holds (f k g) = Group.holds g) (ht : ∀ k g i pc, StandsAt g i pc → StandsAt (f k g) i pc) :
    ArrIdle a { a with blocks := Tab.put a.blocks b k', groups := Tab.mapAll a.groups f } where
  rest := rfl
  groups := (ArrIdle.mapGroups a f hh ht).groups
  blocks := (ArrIdle.putBlock a b k k' hk hs).blocks
  stands := (ArrIdle.mapGroups a f hh ht).stands

theorem completeBarrier_idle (a : Arr) (bs b : Nat) : ArrIdle a (completeBarrier a bs b) := by
  simp only [completeBarrier]
  split
  · exact ArrIdle.refl a
  · next k hk =>
    split
    · refine ArrIdle.putBlock_mapGroups a bs k _ hk ?_ _ ?_ ?_
      · rfl
      · intro j g
        split
        · exact Group.settle_holds _ _
        · rfl
      · intro j g i pc h
        split
        · refine Group.settle_standsAt _ _ _ _ (standsAt_map (fun u => ?_) h)
          split <;> exact ⟨rfl, rfl⟩
        · exact h
    · exact ArrIdle.refl a

theorem completeBarriers_idle (a : Arr) (bs : Nat) : ArrIdle a (completeBarriers a bs) := by
  simp only [completeBarriers]
  generalize List.range 16 = l
  induction l generalizing a with
  | nil => exact ArrIdle.refl a
  | cons b l ih => exact (completeBarrier_idle a bs b).trans (ih _)

theorem stopWaiting_idle (a : Arr) (bs : Nat) : ArrIdle a (stopWaiting a bs) := by
  simp only [stopWaiting]
  refine ArrIdle.mapGroups a _ ?_ ?_
  · intro j g
    split <;> rfl
  · intro j g i pc h
    split
    · refine standsAt_map (fun u => ?_) h
      split <;> exact ⟨rfl, rfl⟩
    · exact h

/-- A block with a lane that has not exited is not done. -/
theorem blockDone_false (a : Arr) (bs slot : Nat) (g : Group) (hg : Tab.get a.groups slot = some g) (hb : g.block = bs) (hl : g.live ≠ 0) :
    blockDone a bs = false := by
  simp only [blockDone, List.all_eq_false]
  exact ⟨(slot, g), Tab.mem_of_get _ _ _ hg, by simpa [hb] using hl⟩

theorem live_of_holds {x y : Group} (h : Group.holds x = Group.holds y) : x.live = y.live ∧ x.block = y.block := by
  simp only [Group.holds, Prod.mk.injEq] at h
  simp [Group.live, h]

theorem Arr.meetLanes_idle (a : Arr) (slot : Nat) : ArrIdle a (a.meetLanes slot) := by
  simp only [Arr.meetLanes]
  split
  · next g hg => exact ArrIdle.putGroup a slot g _ hg (Group.settle_holds g _) (fun i pc h => Group.settle_standsAt g _ i pc h)
  · exact ArrIdle.refl a

theorem Arr.takeStop_idle (a : Arr) (bs : Nat) : ArrIdle a (a.takeStop bs) := by
  simp only [Arr.takeStop]
  split
  · split
    · exact stopWaiting_idle a bs
    · exact ArrIdle.refl a
  · exact ArrIdle.refl a

theorem Arr.afterIssue_idle (a : Arr) (slot bs : Nat) : ArrIdle a (a.afterIssue slot bs) :=
  ((Arr.meetLanes_idle a slot).trans (completeBarriers_idle _ bs)).trans (Arr.takeStop_idle _ bs)

/-- What follows an issue: lanes meet and barriers complete on the array, and nothing else changes, as long as a lane of the group has not
exited. -/
theorem State.afterIssue_spec (s : State) (ga slot bs : Nat) (g : Group) (hg : s.group ga slot = some g) (hb : g.block = bs) (hl : g.live ≠ 0) :
    s.afterIssue ga slot bs = s.setArr ga ((s.arr ga).afterIssue slot bs) := by
  have hm := (Arr.afterIssue_idle (s.arr ga) slot bs).groups slot
  rw [show Tab.get (s.arr ga).groups slot = some g from hg] at hm
  obtain ⟨x, hx, hxh⟩ := Option.map_eq_some_iff.mp hm
  obtain ⟨h4, h5⟩ := live_of_holds hxh
  have hd := blockDone_false _ bs slot x hx (h5.trans hb) (by rw [h4]; exact hl)
  unfold State.afterIssue
  generalize Arr.afterIssue (s.arr ga) slot bs = b at hd ⊢
  dsimp only
  split
  · rfl
  · simp [hd]

/-! The state after an issue. -/

theorem State.group_setGroup (s : State) (ga slot ga' slot' : Nat) (x : Group) :
    (s.setGroup ga slot x).group ga' slot' = if ga' = ga ∧ slot' = slot then some x else s.group ga' slot' := by
  simp only [State.group, State.setGroup, State.arr_setArr]
  by_cases h : ga' = ga
  · subst h; simp [Tab.get_put]
  · simp [h]

theorem State.block_setGroup (s : State) (ga slot ga' b : Nat) (x : Group) : (s.setGroup ga slot x).block ga' b = s.block ga' b := by
  simp only [State.block, State.setGroup, State.arr_setArr]
  split
  · next h => subst h; rfl
  · rfl

/-- Work on one array as `ArrIdle` says, and its issue counts, make the whole state idle but for it. -/
theorem idle_of_arr {s t : State} {ga : Nat} (h : ArrIdle (s.arr ga) (t.arr ga)) (hr : t = { s with arrs := t.arrs, accum := t.accum, ahead := t.ahead })
    (ha : ∀ k, k ≠ ga → t.arr k = s.arr k)
    (hc : ∀ a, (∀ b, s.arrayBase ga = some b → a ≠ Reg.arrIssued b ∧ a ≠ Reg.arrGranules b) →
      Tab.getD t.accum a 0 = Tab.getD s.accum a 0 ∧ Tab.getD t.ahead a 0 = Tab.getD s.ahead a 0) :
    Idle s t ga :=
  ⟨hr, ha, h.rest, h.groups, h.blocks, h.stands, hc⟩

theorem State.atBase_eq (s : State) (b : Option Nat) (f : State → Nat → State) : s.atBase b f = match b with
    | none => s
    | some a => f s a := rfl

theorem State.count_rest (s : State) (a n : Nat) : s.count a n = { s with accum := (s.count a n).accum, ahead := (s.count a n).ahead } := by
  unfold State.count State.tally
  split <;> rfl

/-- What a window counts for other registers stays. -/
theorem State.count_other (s : State) (a n b : Nat) (h : b ≠ a) :
    Tab.getD (s.count a n).accum b 0 = Tab.getD s.accum b 0 ∧ Tab.getD (s.count a n).ahead b 0 = Tab.getD s.ahead b 0 := by
  unfold State.count State.tally
  split <;> simp [Tab.getD_modify, h]

/-- The units occupied by an issue: nothing else changes. -/
theorem State.occupy_idle (s : State) (m : Sem) (ga q : Nat) (cs : List Ctx) (w : Fields) : Idle s (s.occupy m ga q cs w) ga := by
  refine idle_of_arr ?_ rfl ?_ (fun _ _ => ⟨rfl, rfl⟩)
  · simp only [State.occupy, State.arr_setArr, if_true]
    exact ⟨rfl, fun _ => rfl, fun _ => rfl, fun _ x _ _ h k => ⟨x, h, k⟩⟩
  · intro k hk
    simp only [State.occupy, State.arr_setArr, if_neg hk]

/-- The issue counted: only the quarter's pointer and the array's two counts. -/
theorem State.issued_idle (s : State) (ga slot n : Nat) : Idle s (s.issued ga slot n) ga := by
  have hi : ArrIdle (s.arr ga) { s.arr ga with pointers := Tab.put (s.arr ga).pointers (slot / 16) slot } :=
    ⟨rfl, fun _ => rfl, fun _ => rfl, fun _ x _ _ h k => ⟨x, h, k⟩⟩
  have hb : ∀ a, (s.setArr ga a).arrayBase ga = s.arrayBase ga := fun _ => rfl
  have ha : ∀ k, (s.issued ga slot n).arr k = if k = ga then { s.arr ga with pointers := Tab.put (s.arr ga).pointers (slot / 16) slot }
      else s.arr k := by
    intro k
    rw [← State.arr_setArr s ga k]
    simp only [State.issued, State.atBase_eq]
    split <;> simp only [State.arr_count]
  refine idle_of_arr ?_ ?_ ?_ ?_
  · rw [ha ga, if_pos rfl]; exact hi
  · simp only [State.issued, State.atBase_eq]
    split
    · rfl
    · rw [State.count_rest, State.count_rest (s.setArr _ _)]; rfl
  · intro k hk; rw [ha k, if_neg hk]
  · intro a hk
    simp only [State.issued, State.atBase_eq, hb]
    split
    · exact ⟨rfl, rfl⟩
    · next b e =>
      obtain ⟨h1, h2⟩ := hk b e
      have x := State.count_other ((s.setArr ga { s.arr ga with pointers := Tab.put (s.arr ga).pointers (slot / 16) slot }).count (Reg.arrIssued b) 1)
        (Reg.arrGranules b) n a h2
      have y := State.count_other (s.setArr ga { s.arr ga with pointers := Tab.put (s.arr ga).pointers (slot / 16) slot }) (Reg.arrIssued b) 1 a h1
      exact ⟨x.1.trans y.1, x.2.trans y.2⟩

theorem idle_comp {s t u : State} {ga : Nat} (h : Idle s t ga) (k : Idle t u ga) : Idle s u ga where
  rest := by rw [k.rest, h.rest]
  arrays i hi := (k.arrays i hi).trans (h.arrays i hi)
  array := by rw [k.array, h.array]
  groups i := (k.groups i).trans (h.groups i)
  blocks i := (k.blocks i).trans (h.blocks i)
  stands slot x i pc e f := by
    obtain ⟨y, hy, hs⟩ := h.stands slot x i pc e f
    exact k.stands slot y i pc hy hs
  counts a ha :=
    have x := k.counts a (by rw [h.rest]; exact ha)
    ⟨x.1.trans (h.counts a ha).1, x.2.trans (h.counts a ha).2⟩

theorem idle_group {s t : State} {ga slot : Nat} {g : Group} (h : Idle s t ga) (hg : s.group ga slot = some g) :
    ∃ x, t.group ga slot = some x ∧ x.live = g.live ∧ x.block = g.block := by
  obtain ⟨x, hx, hxh⟩ := Option.map_eq_some_iff.mp (((h.groups slot).trans (by rw [hg])) :
    (t.group ga slot).map Group.holds = (some g).map Group.holds)
  exact ⟨x, hx, live_of_holds hxh⟩

/-- What follows the effect of an issue: the state is idle but for its array. -/
theorem State.finish_idle (e : State) (m : Sem) (cs : List Ctx) (w : Fields) (ga slot bs n : Nat) (g : Group) (hg : e.group ga slot = some g)
    (hb : g.block = bs) (hl : g.live ≠ 0) :
    Idle e (((e.occupy m ga (slot / 16) cs w).issued ga slot n).afterIssue ga slot bs) ga := by
  have h := idle_comp (State.occupy_idle e m ga (slot / 16) cs w) (State.issued_idle _ ga slot n)
  obtain ⟨x, hx, h4, h5⟩ := idle_group h hg
  rw [State.afterIssue_spec _ ga slot bs x hx (h5.trans hb) (by rw [h4]; exact hl)]
  refine idle_comp h (idle_of_arr ?_ rfl ?_ (fun _ _ => ⟨rfl, rfl⟩))
  · rw [State.arr_setArr, if_pos rfl]; exact Arr.afterIssue_idle _ _ _
  · intro k hk; rw [State.arr_setArr, if_neg hk]

/-- An instruction whose effect is on the group's registers: nothing else changes. -/
theorem Sem.regs_goes {m : Sem} {f : Ctx → Fields → Group} (he : ∀ s c w, m.eff s c w = s.setGroup c.ga c.slot (f c w))
    {g : GRef} {w : Fields} {s : State} {c : Ctx} {d : Desc} (h : Issues m g w s c d) (hs : (f (c.advance d) w).subs = (c.advance d).grp.subs)
    (hb : (f (c.advance d) w).block = c.grp.block) (hl : (f (c.advance d) w).live = c.grp.live) :
    GroupIssue s (m.issue g w s) c (f (c.advance d) w) := by
  obtain ⟨h1, h2, h3, h4, h5, h6, h7, h8, h9, h10⟩ := Sem.ctx_spec h.ctx
  rw [Sem.issue_go h]
  have e : m.perform s c w d = (s.setGroup c.ga c.slot (c.advance d).grp).setGroup c.ga c.slot (f (c.advance d) w) := he _ _ _
  have e2 : m.perform s c w d = s.setGroup c.ga c.slot (f (c.advance d) w) := by
    rw [e]
    simp only [State.setGroup, State.setArr, State.arr, Tab.getD_put, if_true, Tab.put_put]
  rw [e2]
  have hi := State.finish_idle (s.setGroup c.ga c.slot (f (c.advance d) w)) m [c] w c.ga c.slot c.grp.block (granules c.sub.lanes) (f (c.advance d) w)
    (by simp [State.group_setGroup]) hb (by rw [hl]; exact h.live)
  have hsub : ∀ i, c.sub.lanes.getLsbD i = true → StandsAt (f (c.advance d) w) i (c.sub.pc + 16) := by
    intro i hi
    refine ⟨{ c.sub with pc := c.sub.pc + 16, wait := .running }, ?_, hi, rfl⟩
    rw [hs]
    simp only [Ctx.advance, Group.setSub, List.mem_map]
    exact ⟨c.sub, h7, by simp⟩
  refine ⟨f (c.advance d) w, ⟨rfl, ?_⟩, hi, ?_⟩
  · rintro i pc hc ⟨u, hu, hui, hup⟩
    refine ⟨u, ?_, hui, hup⟩
    rw [hs]
    simp only [Ctx.advance, Group.setSub, List.mem_map]
    refine ⟨u, hu, ?_⟩
    have : (u.lanes == c.sub.lanes) = false := by
      simp only [beq_eq_false_iff_ne, ne_eq]
      intro hh
      rw [hh, hc] at hui
      cases hui
    simp [this]
  · intro i hc
    exact hi.stands c.slot _ i _ (by simp [State.group_setGroup]) (hsub i hc)

/-- An issue that nothing stops leaves the state of its effect, as long as that still has the group with a live lane, and with the lanes that
issued at the next instruction. -/
theorem Sem.issue_leaves {m : Sem} {g : GRef} {w : Fields} {s : State} {c : Ctx} {d : Desc} (h : Issues m g w s c d) (y : Group)
    (hg : (m.perform s c w d).group c.ga c.slot = some y) (hb : y.block = c.grp.block) (hl : y.live ≠ 0)
    (hs : ∀ i, c.sub.lanes.getLsbD i = true → StandsAt y i (c.sub.pc + 16)) : Issued (m.perform s c w d) (m.issue g w s) c := by
  rw [Sem.issue_go h]
  have hi := State.finish_idle (m.perform s c w d) m [c] w c.ga c.slot c.grp.block (granules c.sub.lanes) y hg hb hl
  exact ⟨hi, fun i hc => hi.stands c.slot y i _ hg (hs i hc)⟩

/-! Registers of a group after a write. -/

theorem Group.treg_setTreg (g : Group) (i r i' r' : Nat) (v : W32) (hi : i < 32) (hi' : i' < 32) :
    (g.setTreg i r v).treg i' r' = if i' = i ∧ r' = r then v else g.treg i' r' := by
  simp only [Group.treg, Group.setTreg, Tab.getD_put]
  by_cases h : i' = i ∧ r' = r
  · simp [h]
  · rw [if_neg h, if_neg]
    intro h2
    exact h (by omega)

theorem Group.treg_setTwords (g : Group) (i r n v i' r' : Nat) (hi : i < 32) (hi' : i' < 32) :
    (g.setTwords i r v n).treg i' r' =
      if i' = i ∧ r ≤ r' ∧ r' < r + n then BitVec.ofNat 32 (v / 2 ^ (32 * (r' - r))) else g.treg i' r' := by
  induction n generalizing g r v with
  | zero =>
    simp only [Group.setTwords]
    rw [if_neg (by omega)]
  | succ n ih =>
    simp only [Group.setTwords, ih, Group.treg_setTreg _ _ _ _ _ _ hi hi']
    by_cases h : i' = i
    · subst h
      by_cases h1 : r' = r
      · subst h1
        simp
      · by_cases h2 : r + 1 ≤ r' ∧ r' < r + 1 + n
        · have h3 : r ≤ r' ∧ r' < r + (n + 1) := by omega
          have h4 : 32 * (r' - r) = 32 + 32 * (r' - (r + 1)) := by omega
          simp [h2, h3, h4, Nat.pow_add, Nat.div_div_eq_div_mul]
        · rw [if_neg (fun k => h2 k.2), if_neg (fun k => h1 k.2), if_neg (by omega)]
    · simp [h]

theorem Group.ureg_setUreg (g : Group) (r r' : Nat) (v : W32) : (g.setUreg r v).ureg r' = if r' = r then v else g.ureg r' := by
  simp only [Group.ureg, Group.setUreg, Tab.getD_put]

theorem Group.ureg_setUwords (g : Group) (r n v r' : Nat) :
    (g.setUwords r v n).ureg r' = if r ≤ r' ∧ r' < r + n then BitVec.ofNat 32 (v / 2 ^ (32 * (r' - r))) else g.ureg r' := by
  induction n generalizing g r v with
  | zero =>
    simp only [Group.setUwords]
    rw [if_neg (by omega)]
  | succ n ih =>
    simp only [Group.setUwords, ih, Group.ureg_setUreg]
    by_cases h1 : r' = r
    · subst h1
      simp
    · by_cases h2 : r + 1 ≤ r' ∧ r' < r + 1 + n
      · have h3 : r ≤ r' ∧ r' < r + (n + 1) := by omega
        have h4 : 32 * (r' - r) = 32 + 32 * (r' - (r + 1)) := by omega
        simp [h2, h3, h4, Nat.pow_add, Nat.div_div_eq_div_mul]
      · rw [if_neg h2, if_neg h1, if_neg (by omega)]

theorem Group.setTwords_frame (g : Group) (i r n v : Nat) : ∃ x, g.setTwords i r v n = { g with tregs := x } := by
  induction n generalizing g r v with
  | zero => exact ⟨g.tregs, rfl⟩
  | succ n ih =>
    obtain ⟨x, hx⟩ := ih (g.setTreg i r (BitVec.ofNat 32 v)) (r + 1) (v / 2 ^ 32)
    exact ⟨x, hx⟩

theorem Group.setUwords_frame (g : Group) (r n v : Nat) : ∃ x, g.setUwords r v n = { g with uregs := x } := by
  induction n generalizing g r v with
  | zero => exact ⟨g.uregs, rfl⟩
  | succ n ih =>
    obtain ⟨x, hx⟩ := ih (g.setUreg r (BitVec.ofNat 32 v)) (r + 1) (v / 2 ^ 32)
    exact ⟨x, hx⟩

theorem mem_lanesOf (m : BitVec 32) (i : Nat) : i ∈ lanesOf m ↔ i < 32 ∧ m.getLsbD i = true := by
  simp [lanesOf]

theorem nodup_lanesOf (m : BitVec 32) : (lanesOf m).Nodup := List.Nodup.filter _ List.nodup_range

theorem foldl_setTwords (l : List Nat) (r n : Nat) (f : Nat → Nat) (g : Group) (hn : l.Nodup) (hl : ∀ i ∈ l, i < 32) :
    (∃ x, l.foldl (fun g i => g.setTwords i r (f i) n) g = { g with tregs := x }) ∧
      ∀ i, i < 32 → ∀ r', (l.foldl (fun g i => g.setTwords i r (f i) n) g).treg i r' =
        if i ∈ l ∧ r ≤ r' ∧ r' < r + n then BitVec.ofNat 32 (f i / 2 ^ (32 * (r' - r))) else g.treg i r' := by
  induction l generalizing g with
  | nil => exact ⟨⟨g.tregs, rfl⟩, by simp⟩
  | cons j l ih =>
    have hj : j < 32 := hl j List.mem_cons_self
    obtain ⟨⟨x, hx⟩, h2⟩ := ih (g.setTwords j r (f j) n) (List.nodup_cons.mp hn).2 (fun i hi => hl i (List.mem_cons_of_mem _ hi))
    obtain ⟨y, hy⟩ := Group.setTwords_frame g j r n (f j)
    refine ⟨⟨x, ?_⟩, ?_⟩
    · rw [List.foldl_cons, hx, hy]
    · intro i hi r'
      rw [List.foldl_cons, h2 i hi r', Group.treg_setTwords _ _ _ _ _ _ _ hj hi]
      by_cases h : i = j
      · subst h
        have hm : i ∉ l := (List.nodup_cons.mp hn).1
        by_cases h1 : r ≤ r' ∧ r' < r + n
        · simp [hm, h1]
        · simp [hm, h1]
      · simp [h]

/-- What `writeD` does. -/
theorem Group.writeD_writes (g : Group) (w : Fields) (act : BitVec 32) (n : Nat) (f : Nat → Nat) :
    WritesD g (g.writeD w act n f) w act n (fun i k => BitVec.ofNat 32 (f i / 2 ^ (32 * k))) := by
  simp only [Group.writeD]
  by_cases hd : w.du = true
  · simp only [hd, if_true]
    by_cases ha : act = 0
    · simp only [ha, if_true]
      exact ⟨rfl, by simp [hd], by simp⟩
    · simp only [ha, if_false]
      obtain ⟨x, hx⟩ := Group.setUwords_frame g w.d.toNat n (f (lowLane act))
      refine ⟨by rw [hx], ?_, ?_⟩
      · intro i hi r; rw [hx]; simp [hd, Group.treg]
      · intro r
        rw [Group.ureg_setUwords]
        simp only [hd, true_and, ne_eq, ha, not_false_eq_true]
  · simp only [hd, Bool.false_eq_true, if_false]
    obtain ⟨⟨x, hx⟩, h2⟩ := foldl_setTwords (lanesOf act) w.d.toNat n f g (nodup_lanesOf act) (fun i hi => ((mem_lanesOf act i).mp hi).1)
    refine ⟨by rw [hx], ?_, ?_⟩
    · intro i hi r
      rw [h2 i hi r]
      simp [hd, mem_lanesOf, hi]
    · intro r; rw [hx]; simp [hd, Group.ureg]

theorem Group.setPred_pred (g : Group) (i p j q : Nat) (v : Bool) (hp : p < 8) (hq : q < 8) :
    (g.setPred i p v).pred j q = if j = i ∧ q = p then v else g.pred j q := by
  simp only [Group.pred, Group.setPred, Tab.getD_put]
  by_cases h : j = i
  · subst h
    have : p = 0 ∨ p = 1 ∨ p = 2 ∨ p = 3 ∨ p = 4 ∨ p = 5 ∨ p = 6 ∨ p = 7 := by omega
    have : q = 0 ∨ q = 1 ∨ q = 2 ∨ q = 3 ∨ q = 4 ∨ q = 5 ∨ q = 6 ∨ q = 7 := by omega
    rcases this with rfl | rfl | rfl | rfl | rfl | rfl | rfl | rfl <;> rcases ‹p = 0 ∨ _› with rfl | rfl | rfl | rfl | rfl | rfl | rfl | rfl <;>
      cases v <;> simp
  · simp [h]

theorem foldl_setPred (l : List Nat) (p : Nat) (f : Nat → Bool) (g : Group) (hp : p < 8) :
    (∃ x, l.foldl (fun g i => g.setPred i p (f i)) g = { g with preds := x }) ∧
      ∀ i q, q < 8 → (l.foldl (fun g i => g.setPred i p (f i)) g).pred i q = if i ∈ l ∧ q = p then f i else g.pred i q := by
  induction l generalizing g with
  | nil => exact ⟨⟨g.preds, rfl⟩, by simp⟩
  | cons j l ih =>
    obtain ⟨⟨x, hx⟩, h2⟩ := ih (g.setPred j p (f j))
    refine ⟨⟨x, by rw [List.foldl_cons, hx]; rfl⟩, ?_⟩
    intro i q hq
    rw [List.foldl_cons, h2 i q hq, Group.setPred_pred _ _ _ _ _ _ hp hq]
    by_cases h : i = j
    · subst h
      by_cases hm : i ∈ l <;> by_cases hq : q = p <;> simp [hm, hq]
    · simp [h]

/-- What `writePd` does. -/
theorem Group.writePd_writes (g : Group) (w : Fields) (act : BitVec 32) (f : Nat → Bool) : WritesPd g (g.writePd w act f) w act f := by
  obtain ⟨⟨x, hx⟩, h2⟩ := foldl_setPred (lanesOf act) w.pd.toNat f g w.pd.isLt
  refine ⟨by simp only [Group.writePd, hx], ?_⟩
  intro i hi p hp
  simp only [Group.writePd, h2 i p hp, mem_lanesOf, hi, true_and]

theorem foldl_or_getLsbD {α : Type} {n : Nat} (l : List α) (f : α → BitVec n) (z : BitVec n) (b : Nat) :
    (l.foldl (fun acc i => acc ||| f i) z).getLsbD b = true ↔ z.getLsbD b = true ∨ ∃ i ∈ l, (f i).getLsbD b = true := by
  induction l generalizing z with
  | nil => simp
  | cons a l ih => simp [ih, or_assoc]

/-- Word k of a joined vector is the word of its element. -/
theorem joinElems_word (n : Nat) (hn : 0 < n) (l : List Nat) (k : Nat) (hk : k < n * l.length) :
    BitVec.ofNat 32 (joinElems n l / 2 ^ (32 * k)) = BitVec.ofNat 32 (l.getD (k / n) 0 % 2 ^ (32 * n) / 2 ^ (32 * (k % n))) := by
  induction l generalizing k with
  | nil => simp at hk
  | cons x l ih =>
    simp only [joinElems]
    by_cases h : k < n
    · rw [Nat.div_eq_of_lt h, Nat.mod_eq_of_lt h]
      simp only [List.getD_cons_zero]
      apply BitVec.eq_of_toNat_eq
      simp only [BitVec.toNat_ofNat]
      have h1 : 32 * n = 32 * k + (32 + 32 * (n - k - 1)) := by omega
      rw [h1, Nat.pow_add 2 (32 * k), Nat.mul_assoc, Nat.add_mul_div_left _ _ (Nat.two_pow_pos _), Nat.pow_add 2 32, Nat.mul_assoc]
      simp
    · have h1 : k = n + (k - n) := by omega
      have h2 : k / n = (k - n) / n + 1 := by
        conv_lhs => rw [h1]
        rw [Nat.add_div_left _ hn]
      have h3 : k % n = (k - n) % n := by
        conv_lhs => rw [h1]
        rw [Nat.add_mod_left]
      rw [h2, h3, List.getD_cons_succ, ← ih (k - n) (by simp only [List.length_cons, Nat.mul_add] at hk; omega)]
      have h4 : 32 * k = 32 * n + 32 * (k - n) := by omega
      rw [h4, Nat.pow_add, ← Nat.div_div_eq_div_mul, Nat.add_mul_div_left _ _ (Nat.two_pow_pos _),
        Nat.div_eq_of_lt (Nat.mod_lt _ (Nat.two_pow_pos _)), Nat.zero_add]

/-- A register write whose words agree within the range written. -/
theorem writesD_congr {g x : Group} {w : Fields} {act : BitVec 32} {n : Nat} {f f' : Nat → Nat → W32} (h : WritesD g x w act n f)
    (e : ∀ i k, k < n → f i k = f' i k) : WritesD g x w act n f' := by
  refine ⟨h.frame, ?_, ?_⟩
  · intro i hi r
    rw [h.thread i hi r]
    split
    · next h' => rw [e _ _ (by omega)]
    · rfl
  · intro r
    rw [h.uniform r]
    split
    · next h' => rw [e _ _ (by omega)]
    · rfl

/-- What `mapElems` does. -/
theorem Group.mapElems_writes (g : Group) (w : Fields) (act : BitVec 32) (width n : Nat) (hn : 0 < n) (f : Nat → Nat → Nat) :
    WritesD g (g.mapElems w act width n f) w act (width * n) (fun i k => BitVec.ofNat 32 (f i (k / n) % 2 ^ (32 * n) / 2 ^ (32 * (k % n)))) := by
  refine writesD_congr (Group.writeD_writes g w act (width * n) _) ?_
  intro i k hk
  have h : k / n < width := (Nat.div_lt_iff_lt_mul hn).mpr hk
  rw [joinElems_word n hn _ k (by simp [Nat.mul_comm] at hk ⊢; exact hk)]
  simp [List.getD_eq_getElem?_getD, h]

/-! Instructions that write D or PD. -/

theorem Group.twords_congr (g g' : Group) (h : g'.tregs = g.tregs) (i r n : Nat) : g'.twords i r n = g.twords i r n := by
  induction n generalizing r with
  | zero => rfl
  | succ n ih => simp only [Group.twords, ih, Group.treg, h]

theorem Group.uwords_congr (g g' : Group) (h : g'.uregs = g.uregs) (r n : Nat) : g'.uwords r n = g.uwords r n := by
  induction n generalizing r with
  | zero => rfl
  | succ n ih => simp only [Group.uwords, ih, Group.ureg, h]

/-- What a source reads depends on the registers alone. -/
theorem Desc.read_congr (d : Desc) (w : Fields) (g g' : Group) (h : g'.tregs = g.tregs) (h' : g'.uregs = g.uregs) (k n i e : Nat) :
    d.read w g' k n i e = d.read w g k n i e := by
  simp only [Desc.read, Group.twords_congr g g' h, Group.uwords_congr g g' h']

@[simp] theorem Ctx.advance_read (c : Ctx) (d d' : Desc) (w : Fields) (k n i e : Nat) : d.read w (c.advance d').grp k n i e = d.read w c.grp k n i e :=
  Desc.read_congr d w c.grp (c.advance d').grp rfl rfl k n i e
@[simp] theorem Ctx.advance_twords (c : Ctx) (d : Desc) (i r n : Nat) : (c.advance d).grp.twords i r n = c.grp.twords i r n :=
  Group.twords_congr c.grp (c.advance d).grp rfl i r n
@[simp] theorem Ctx.advance_uwords (c : Ctx) (d : Desc) (r n : Nat) : (c.advance d).grp.uwords r n = c.grp.uwords r n :=
  Group.uwords_congr c.grp (c.advance d).grp rfl r n
@[simp] theorem Ctx.advance_act (c : Ctx) (d : Desc) : (c.advance d).act = c.act := rfl

/-- A group with what `x` holds but where the lanes of `g` stand. -/
def Group.onto (x g : Group) : Group :=
  { x with subs := g.subs, cur := g.cur, isOpen := g.isOpen, held := g.held }

theorem writesD_onto {g y x : Group} {w : Fields} {act : BitVec 32} {n : Nat} {f : Nat → Nat → W32} (h : WritesD y x w act n f)
    (e : y.onto g = g) : WritesD g (x.onto g) w act n f := by
  refine ⟨?_, ?_, ?_⟩
  · rw [← e, h.frame]; rfl
  · intro i hi r; rw [← e]; exact h.thread i hi r
  · intro r; rw [← e]; exact h.uniform r

theorem writesPd_onto {g y x : Group} {w : Fields} {act : BitVec 32} {f : Nat → Bool} (h : WritesPd y x w act f) (e : y.onto g = g) :
    WritesPd g (x.onto g) w act f := by
  refine ⟨?_, ?_⟩
  · rw [← e, h.frame]; rfl
  · intro i hi p hp; rw [← e]; exact h.preds i hi p hp

theorem groupIssue_congr {s t : State} {c : Ctx} {x x' : Group} (h : GroupIssue s t c x) (e : Group.holds x' = Group.holds x) : GroupIssue s t c x' := by
  obtain ⟨y, ⟨h1, h2⟩, h3⟩ := h
  exact ⟨y, ⟨h1.trans e.symm, h2⟩, h3⟩

theorem Ctx.advance_onto (c : Ctx) (d : Desc) : (c.advance d).grp.onto c.grp = c.grp := rfl

/-- An instruction on registers: what it does, told of the group as it stood. -/
theorem Sem.regs_issue {m : Sem} {f : Ctx → Fields → Group} (he : ∀ s c w, m.eff s c w = s.setGroup c.ga c.slot (f c w))
    {g : GRef} {w : Fields} {s : State} {c : Ctx} {d : Desc} (h : Issues m g w s c d)
    (hf : f (c.advance d) w = { (c.advance d).grp with tregs := (f (c.advance d) w).tregs, uregs := (f (c.advance d) w).uregs,
                                                        preds := (f (c.advance d) w).preds, fpflags := (f (c.advance d) w).fpflags }) :
    GroupIssue s (m.issue g w s) c ((f (c.advance d) w).onto c.grp) :=
  groupIssue_congr (Sem.regs_goes he h (by rw [hf]) (by rw [hf]; rfl) (by rw [hf]; rfl)) rfl

/-- An instruction that writes D, each lane by its elements. -/
theorem Sem.regs_elements {m : Sem} {f : Ctx → Fields → Group} (he : ∀ s c w, m.eff s c w = s.setGroup c.ga c.slot (f c w)) {width n : Fields → Nat}
    {v : Ctx → Desc → Fields → Nat → Nat → Nat} {ins : GRef → Fields → Instr} {claim : Fields → Ctx → Desc → Group → Prop}
    (hx : ∀ g w s, exec (ins g w) s = next (m.issue g w s))
    (hf : ∀ (c : Ctx) w d, m.desc w = some d → f (c.advance d) w = (c.advance d).grp.mapElems w c.act (width w) (n w) (v c d w)) (hn : ∀ w, 0 < n w)
    (hc : ∀ w (c : Ctx) d x, m.desc w = some d → WritesD c.grp x w c.act (width w * n w)
      (fun i k => BitVec.ofNat 32 (v c d w i (k / n w) % 2 ^ (32 * n w) / 2 ^ (32 * (k % n w)))) → claim w c d x) :
    Computes ins m claim := by
  intro g w s c d h
  refine ⟨_, hx g w s, ?_⟩
  have hd : m.desc w = some d := (Sem.verdict_go h.go).2.1
  have hw := Group.mapElems_writes (c.advance d).grp w c.act (width w) (n w) (hn w) (v c d w)
  rw [← hf c w d hd] at hw
  refine ⟨_, Sem.regs_issue he h ?_, hc w c d _ hd (writesD_onto hw (Ctx.advance_onto c d))⟩
  conv_lhs => rw [hw.frame]
  rw [hw.frame]

end Sys2Proof.Machine
end

