-- ==== Sys2Proof/Laws/Kept.lean ====
section
/-! SUPPORT. What every operation of the model keeps, said once: the queue of waiting commands, the fused identity, the anti-rollback count,
the canonical form of the two memories and the order of the register table. Each file of this family proves it of the operations of its part of the model. -/

namespace Sys2Proof.Machine

/-- What a change of state from s to t keeps: the queue (exec acts on everything else), the fuses and the identity (R1, R467), SEC_MIN, a
count of at most 64 that never falls (R467), the canonical form of HBM and of the far tier, and the order of the register table. -/
structure Kept (s t : State) : Prop where
  queue : t.pending = s.pending
  orderD : t.trust.orderD = s.trust.orderD
  debugBlown : t.trust.debugBlown = s.trust.debugBlown
  identity : t.trust.identity = s.trust.identity
  secMin : s.trust.secMin ≤ 64 → s.trust.secMin ≤ t.trust.secMin ∧ t.trust.secMin ≤ 64
  hbm : Memory.wf s.hbm = true → Memory.wf t.hbm = true
  far : Memory.wf s.far = true → Memory.wf t.far = true
  regs : Tab.sorted s.regs = true → Tab.sorted t.regs = true

/-- Kept of a result that may be absent. -/
structure KeptO (s : State) (o : Option State) : Prop where
  of : ∀ t, o = some t → Kept s t

/-- Kept of a result beside a value that may be absent. -/
structure KeptOP {α : Type} (s : State) (o : Option (α × State)) : Prop where
  of : ∀ r, o = some r → Kept s r.2

/-- An outcome that is a next state, and one that keeps. -/
structure KeptX (s : State) (o : Host.Outcome State Fault Refusal) : Prop where
  of : ∃ t, o = .next t ∧ Kept s t

variable {s0 s t : State}

theorem Kept.refl (s : State) : Kept s s := ⟨rfl, rfl, rfl, rfl, fun h => ⟨Nat.le_refl _, h⟩, id, id, id⟩

theorem Kept.trans (a : Kept s0 s) (b : Kept s t) : Kept s0 t :=
  ⟨b.queue.trans a.queue, b.orderD.trans a.orderD, b.debugBlown.trans a.debugBlown, b.identity.trans a.identity,
    fun h => ⟨Nat.le_trans (a.secMin h).1 (b.secMin (a.secMin h).2).1, (b.secMin (a.secMin h).2).2⟩,
    fun h => b.hbm (a.hbm h), fun h => b.far (a.far h), fun h => b.regs (a.regs h)⟩

theorem Kept.ite {c : Prop} [Decidable c] (ha : Kept s0 s) (hb : Kept s0 t) : Kept s0 (if c then s else t) := by
  split <;> assumption

theorem KeptO.ite {c : Prop} [Decidable c] {a b : Option State} (ha : KeptO s0 a) (hb : KeptO s0 b) : KeptO s0 (if c then a else b) := by
  split <;> assumption

theorem KeptOP.ite {α : Type} {c : Prop} [Decidable c] {a b : Option (α × State)} (ha : KeptOP s0 a) (hb : KeptOP s0 b) :
    KeptOP s0 (if c then a else b) := by
  split <;> assumption

theorem Kept.ite_snd {α : Type} {c : Prop} [Decidable c] {a b : α × State} (ha : Kept s0 a.2) (hb : Kept s0 b.2) :
    Kept s0 (if c then a else b).2 := by
  split <;> assumption

theorem Kept.ite_snd_snd {α β : Type} {c : Prop} [Decidable c] {a b : α × β × State} (ha : Kept s0 a.2.2) (hb : Kept s0 b.2.2) :
    Kept s0 (if c then a else b).2.2 := by
  split <;> assumption

theorem KeptX.ite {c : Prop} [Decidable c] {a b : Host.Outcome State Fault Refusal} (ha : KeptX s0 a) (hb : KeptX s0 b) :
    KeptX s0 (if c then a else b) := by
  split <;> assumption

theorem KeptX.next (h : Kept s0 s) : KeptX s0 (Sys2Proof.Machine.next s) := ⟨s, rfl, h⟩

theorem KeptO.none : KeptO s0 none := ⟨fun _ h => nomatch h⟩

theorem KeptO.some (h : Kept s0 s) : KeptO s0 (some s) := ⟨fun _ e => Option.some.inj e ▸ h⟩

theorem KeptOP.none {α : Type} : KeptOP s0 (none : Option (α × State)) := ⟨fun _ h => nomatch h⟩

theorem KeptOP.some {α : Type} {a : α} (h : Kept s0 s) : KeptOP s0 (some (a, s)) := ⟨fun _ e => Option.some.inj e ▸ h⟩

theorem Kept.of_some {o : Option State} (e : o = some t) (h : KeptO s0 o) : Kept s0 t := h.of t e

theorem Kept.of_some_snd {α : Type} {o : Option (α × State)} {a : α} (e : o = some (a, t)) (h : KeptOP s0 o) : Kept s0 t := h.of _ e

theorem Kept.of_some_pair {α : Type} {o : Option (α × State)} {r : α × State} (e : o = some r) (h : KeptOP s0 o) : Kept s0 r.2 := h.of _ e

theorem Kept.of_snd {α : Type} {p : α × State} {a : α} (e : p = (a, t)) (h : Kept s0 p.2) : Kept s0 t := by
  subst e; exact h

theorem Kept.of_snd_snd {α β : Type} {p : α × β × State} {a : α} {b : β} (e : p = (a, b, t)) (h : Kept s0 p.2.2) : Kept s0 t := by
  subst e; exact h

theorem Kept.of_fst {α : Type} {p : State × α} {a : α} (e : p = (t, a)) (h : Kept s0 p.1) : Kept s0 t := by
  subst e; exact h

theorem Kept.getD {o : Option State} (h : KeptO s0 o) (hs : Kept s0 s) : Kept s0 (o.getD s) := by
  cases o with
  | none => exact hs
  | some t => exact h.of t rfl

theorem KeptO.get (h : KeptO s0 (Option.some s)) : Kept s0 s := h.of s rfl

theorem KeptOP.get {α : Type} {a : α} (h : KeptOP s0 (Option.some (a, s))) : Kept s0 s := h.of (a, s) rfl

theorem KeptO.map_snd {α : Type} {o : Option (α × State)} (h : KeptOP s0 o) : KeptO s0 (o.map (·.2)) := by
  cases o with
  | none => exact KeptO.none
  | some r => exact KeptO.some (h.of r rfl)

theorem KeptO.map {o : Option State} {f : State → State} (h : KeptO s0 o) (hf : ∀ t, Kept s0 t → Kept s0 (f t)) : KeptO s0 (o.map f) := by
  cases o with
  | none => exact KeptO.none
  | some r => exact KeptO.some (hf _ (h.of r rfl))

theorem KeptO.map_any {α : Type} {o : Option α} {f : α → State} (hf : ∀ a, Kept s0 (f a)) : KeptO s0 (o.map f) := by
  cases o with
  | none => exact KeptO.none
  | some a => exact KeptO.some (hf a)

theorem KeptO.map_pair {α : Type} {o : Option (α × State)} {f : α × State → State} (h : KeptOP s0 o)
    (hf : ∀ a t, Kept s0 t → Kept s0 (f (a, t))) : KeptO s0 (o.map f) := by
  cases o with
  | none => exact KeptO.none
  | some r => exact KeptO.some (hf _ _ (h.of r rfl))

theorem KeptO.findSome {α : Type} {l : List α} {f : α → Option State} (hf : ∀ a, KeptO s0 (f a)) : KeptO s0 (l.findSome? f) :=
  ⟨fun t ht => by obtain ⟨a, _, ha⟩ := List.exists_of_findSome?_eq_some ht; exact (hf a).of t ha⟩

theorem KeptO.bind {o : Option State} {f : State → Option State} (h : KeptO s0 o) (hf : ∀ t, Kept s0 t → KeptO s0 (f t)) :
    KeptO s0 (o.bind f) := by
  cases o with
  | none => exact KeptO.none
  | some r => exact hf _ (h.of r rfl)

theorem KeptO.bind_any {α : Type} {o : Option α} {f : α → Option State} (hf : ∀ a, KeptO s0 (f a)) : KeptO s0 (o.bind f) := by
  cases o with
  | none => exact KeptO.none
  | some r => exact hf r

theorem Kept.foldl {β : Type} {f : State → β → State} {l : List β} (hs : Kept s0 s) (hf : ∀ t b, Kept s0 t → Kept s0 (f t b)) :
    Kept s0 (l.foldl f s) := by
  induction l generalizing s with
  | nil => exact hs
  | cons b l ih => exact ih (hf _ _ hs)

theorem Kept.foldl_snd {α β : Type} {f : α × State → β → α × State} {l : List β} {p : α × State} (hs : Kept s0 p.2)
    (hf : ∀ t b, Kept s0 t.2 → Kept s0 (f t b).2) : Kept s0 (l.foldl f p).2 := by
  induction l generalizing p with
  | nil => exact hs
  | cons b l ih => exact ih (hf _ _ hs)

theorem Kept.foldl_fst {α β : Type} {f : State × α → β → State × α} {l : List β} {p : State × α} (hs : Kept s0 p.1)
    (hf : ∀ t b, Kept s0 t.1 → Kept s0 (f t b).1) : Kept s0 (l.foldl f p).1 := by
  induction l generalizing p with
  | nil => exact hs
  | cons b l ih => exact ih (hf _ _ hs)

theorem Kept.foldl_mid {α β γ : Type} {f : α × State × γ → β → α × State × γ} {l : List β} {p : α × State × γ} (hs : Kept s0 p.2.1)
    (hf : ∀ t b, Kept s0 t.2.1 → Kept s0 (f t b).2.1) : Kept s0 (l.foldl f p).2.1 := by
  induction l generalizing p with
  | nil => exact hs
  | cons b l ih => exact ih (hf _ _ hs)

/-- Kept of every effect an instruction has once it issues. -/
structure SemKept (m : Sem) : Prop where
  eff : ∀ {s0 s : State} (c : Ctx) (w : Fields), Kept s0 s → Kept s0 (m.eff s c w)

/-- An update that leaves the queue, the fuses and the memories as they are. -/
theorem Kept.mk' {pending fresh ids regs accum ahead latch readData mgmtAddr response tb arrs slices mids hbm hbmCode far farPages reqs reads fills sideFills writeAcks couriers held granted halves holds transit deadUnits ports mailbags works hostOut parts trust keys spdm faults pairs linkSent pairOut power shell dbg} (h : Kept s0 s) (e1 : pending = s.pending) (e2 : trust = s.trust) (e3 : hbm = s.hbm) (e4 : far = s.far)
    (e5 : regs = s.regs) : Kept s0 (State.mk pending fresh ids regs accum ahead latch readData mgmtAddr response tb arrs slices mids hbm hbmCode far farPages reqs reads fills sideFills writeAcks couriers held granted halves holds transit deadUnits ports mailbags works hostOut parts trust keys spdm faults pairs linkSent pairOut power shell dbg) := by
  subst e1 e2 e3 e4 e5
  exact ⟨h.queue, h.orderD, h.debugBlown, h.identity, h.secMin, h.hbm, h.far, h.regs⟩

/-- An update of HBM that keeps its form. -/
theorem Kept.mkHbm {pending fresh ids regs accum ahead latch readData mgmtAddr response tb arrs slices mids hbm hbmCode far farPages reqs reads fills sideFills writeAcks couriers held granted halves holds transit deadUnits ports mailbags works hostOut parts trust keys spdm faults pairs linkSent pairOut power shell dbg} (h : Kept s0 s) (e1 : pending = s.pending) (e2 : trust = s.trust)
    (e3 : Memory.wf s.hbm = true → Memory.wf hbm = true) (e4 : far = s.far) (e5 : regs = s.regs) :
    Kept s0 (State.mk pending fresh ids regs accum ahead latch readData mgmtAddr response tb arrs slices mids hbm hbmCode far farPages reqs reads fills sideFills writeAcks couriers held granted halves holds transit deadUnits ports mailbags works hostOut parts trust keys spdm faults pairs linkSent pairOut power shell dbg) := by
  subst e1 e2 e4 e5
  exact ⟨h.queue, h.orderD, h.debugBlown, h.identity, h.secMin, fun w => e3 (h.hbm w), h.far, h.regs⟩

/-- An update of the far tier that keeps its form. -/
theorem Kept.mkFar {pending fresh ids regs accum ahead latch readData mgmtAddr response tb arrs slices mids hbm hbmCode far farPages reqs reads fills sideFills writeAcks couriers held granted halves holds transit deadUnits ports mailbags works hostOut parts trust keys spdm faults pairs linkSent pairOut power shell dbg} (h : Kept s0 s) (e1 : pending = s.pending) (e2 : trust = s.trust) (e3 : hbm = s.hbm)
    (e4 : Memory.wf s.far = true → Memory.wf far = true) (e5 : regs = s.regs) : Kept s0 (State.mk pending fresh ids regs accum ahead latch readData mgmtAddr response tb arrs slices mids hbm hbmCode far farPages reqs reads fills sideFills writeAcks couriers held granted halves holds transit deadUnits ports mailbags works hostOut parts trust keys spdm faults pairs linkSent pairOut power shell dbg) := by
  subst e1 e2 e3 e5
  exact ⟨h.queue, h.orderD, h.debugBlown, h.identity, h.secMin, h.hbm, fun w => e4 (h.far w), h.regs⟩

/-- An update of the root of trust that leaves its fuses, its identity and SEC_MIN as they are. -/
theorem Kept.mkTrust {pending fresh ids regs accum ahead latch readData mgmtAddr response tb arrs slices mids hbm hbmCode far farPages reqs reads fills sideFills writeAcks couriers held granted halves holds transit deadUnits ports mailbags works hostOut parts trust keys spdm faults pairs linkSent pairOut power shell dbg} (h : Kept s0 s) (e1 : pending = s.pending) (e2 : trust.orderD = s.trust.orderD)
    (e3 : trust.debugBlown = s.trust.debugBlown) (e4 : trust.identity = s.trust.identity) (e5 : trust.secMin = s.trust.secMin)
    (e6 : hbm = s.hbm) (e7 : far = s.far) (e8 : regs = s.regs) : Kept s0 (State.mk pending fresh ids regs accum ahead latch readData mgmtAddr response tb arrs slices mids hbm hbmCode far farPages reqs reads fills sideFills writeAcks couriers held granted halves holds transit deadUnits ports mailbags works hostOut parts trust keys spdm faults pairs linkSent pairOut power shell dbg) := by
  subst e1 e6 e7 e8
  exact ⟨h.queue, e2.trans h.orderD, e3.trans h.debugBlown, e4.trans h.identity,
    fun w => by show s0.trust.secMin ≤ trust.secMin ∧ trust.secMin ≤ 64; rw [e5]; exact h.secMin w, h.hbm, h.far, h.regs⟩

/-- An update of the register table that keeps its order. -/
theorem Kept.mkRegs {pending fresh ids regs accum ahead latch readData mgmtAddr response tb arrs slices mids hbm hbmCode far farPages reqs reads fills sideFills writeAcks couriers held granted halves holds transit deadUnits ports mailbags works hostOut parts trust keys spdm faults pairs linkSent pairOut power shell dbg} (h : Kept s0 s) (e1 : pending = s.pending) (e2 : trust = s.trust) (e3 : hbm = s.hbm) (e4 : far = s.far)
    (e5 : Tab.sorted s.regs = true → Tab.sorted regs = true) : Kept s0 (State.mk pending fresh ids regs accum ahead latch readData mgmtAddr response tb arrs slices mids hbm hbmCode far farPages reqs reads fills sideFills writeAcks couriers held granted halves holds transit deadUnits ports mailbags works hostOut parts trust keys spdm faults pairs linkSent pairOut power shell dbg) := by
  subst e1 e2 e3 e4
  exact ⟨h.queue, h.orderD, h.debugBlown, h.identity, h.secMin, h.hbm, h.far, fun w => e5 (h.regs w)⟩

end Sys2Proof.Machine
end

