-- ==== Sys2Proof/Laws/KeptOps.lean ====
section
/-! SUPPORT. What the operations of Machine/Ops.lean keep. -/

namespace Sys2Proof.Machine

set_option linter.tactic.unusedName false

theorem State.resetRegs_kept {s0 : State} {s : State} {lo : Nat} {hi : Nat} (h : Kept s0 s) : Kept s0 (State.resetRegs s lo hi) := by
  unfold State.resetRegs
  repeat' first
    | with_reducible assumption
    | fail_if_no_progress refine Kept.mkRegs ?_ rfl rfl rfl rfl (fun w => Tab.sorted_sublist List.filter_sublist w)

theorem State.setReg_kept {s0 : State} {s : State} {a : Nat} {v : W32} (h : Kept s0 s) : Kept s0 (State.setReg s a v) := by
  unfold State.setReg
  exact Kept.mkRegs h rfl rfl rfl rfl (Tab.sorted_put _ _ _)

theorem next_kept {s0 : State} {s : State} (h : Kept s0 s) : KeptX s0 (next s) := by
  exact KeptX.next h

theorem State.atBase_kept {s0 : State} {s : State} {b : Option Nat} {f : State → Nat → State} (h : Kept s0 s) (hf : ∀ t y0, Kept s0 t → Kept s0 (f t y0)) : Kept s0 (State.atBase s b f) := by
  unfold State.atBase
  repeat' first
    | with_reducible assumption
    | with_reducible apply hf
    | split

theorem State.setField_kept {s0 : State} {s : State} {a : Nat} {lo : Nat} {w : Nat} {v : Nat} (h : Kept s0 s) : Kept s0 (State.setField s a lo w v) := by
  unfold State.setField
  repeat' first
    | with_reducible assumption
    | with_reducible apply State.setReg_kept

theorem State.setBit_kept {s0 : State} {s : State} {a : Nat} {i : Nat} (h : Kept s0 s) : Kept s0 (State.setBit s a i) := by
  unfold State.setBit
  repeat' first
    | with_reducible assumption
    | with_reducible apply State.setField_kept

theorem State.tally_kept {s0 : State} {s : State} {a : Nat} {f : Nat → Nat} (h : Kept s0 s) : Kept s0 (State.tally s a f) := by
  unfold State.tally
  repeat' first
    | with_reducible assumption
    | extract_lets +onlyGivenNames x
    | with_reducible apply Kept.ite
    | fail_if_no_progress with_reducible refine Kept.mk' ?_ rfl rfl rfl rfl rfl

theorem State.count_kept {s0 : State} {s : State} {a : Nat} {n : Nat} (h : Kept s0 s) : Kept s0 (State.count s a n) := by
  unfold State.count
  repeat' first
    | with_reducible assumption
    | with_reducible apply State.tally_kept

theorem State.setPart_kept {s0 : State} {s : State} {p : Nat} {x : Part} (h : Kept s0 s) : Kept s0 (State.setPart s p x) := by
  unfold State.setPart
  repeat' first
    | with_reducible assumption
    | fail_if_no_progress with_reducible refine Kept.mk' ?_ rfl rfl rfl rfl rfl

theorem State.raise_kept {s0 : State} {s : State} {r : FaultRec} (h : Kept s0 s) : Kept s0 (State.raise s r) := by
  unfold State.raise
  repeat' first
    | with_reducible assumption
    | (intro t b (ht : Kept s0 t))
    | (extract_lets +onlyGivenNames x; refine (fun (hx : Kept s0 x) => ?_) ?_; (on_goal 2 => unfold x; clear x); (on_goal 1 => clear_value x))
    | (extract_lets +onlyGivenNames x; clear_value x)
    | extract_lets +onlyGivenNames x
    | with_reducible apply Kept.ite
    | with_reducible apply State.atBase_kept
    | with_reducible apply State.setReg_kept
    | with_reducible apply State.setBit_kept
    | with_reducible apply State.count_kept
    | with_reducible apply State.setPart_kept
    | fail_if_no_progress with_reducible refine Kept.mk' ?_ rfl rfl rfl rfl rfl
    | with_reducible apply Kept.foldl
    | split

theorem State.spend_kept {s0 : State} {s : State} {p : Nat} {sl : Nat} {pj : Nat} (h : Kept s0 s) : Kept s0 (State.spend s p sl pj) := by
  unfold State.spend
  repeat' first
    | with_reducible assumption
    | with_reducible apply State.count_kept

theorem State.newId_kept {s0 : State} {s : State} (h : Kept s0 s) : Kept s0 (State.newId s).2 := by
  unfold State.newId
  repeat' first
    | with_reducible assumption
    | fail_if_no_progress with_reducible refine Kept.mk' ?_ rfl rfl rfl rfl rfl

theorem State.setLatch_kept {s0 : State} {s : State} {a : Nat} {v : W32} (h : Kept s0 s) : Kept s0 (State.setLatch s a v) := by
  unfold State.setLatch
  repeat' first
    | with_reducible assumption
    | fail_if_no_progress with_reducible refine Kept.mk' ?_ rfl rfl rfl rfl rfl

theorem State.draw_kept {s0 : State} {s : State} (h : Kept s0 s) : Kept s0 (State.draw s).2 := by
  unfold State.draw
  repeat' first
    | with_reducible assumption
    | fail_if_no_progress with_reducible refine Kept.mk' ?_ rfl rfl rfl rfl rfl

theorem State.clearBit_kept {s0 : State} {s : State} {a : Nat} {i : Nat} (h : Kept s0 s) : Kept s0 (State.clearBit s a i) := by
  unfold State.clearBit
  repeat' first
    | with_reducible assumption
    | with_reducible apply State.setField_kept

theorem State.retire_kept {s0 : State} {s : State} {r : Retire} (h : Kept s0 s) : Kept s0 (State.retire s r) := by
  unfold State.retire
  repeat' first
    | with_reducible assumption
    | (extract_lets +onlyGivenNames x; refine (fun (hx : Kept s0 x) => ?_) ?_; (on_goal 2 => unfold x; clear x); (on_goal 1 => clear_value x))
    | (extract_lets +onlyGivenNames x; clear_value x)
    | extract_lets +onlyGivenNames x
    | with_reducible apply Kept.ite
    | with_reducible apply State.setBit_kept
    | fail_if_no_progress with_reducible refine Kept.mk' ?_ rfl rfl rfl rfl rfl

theorem State.recordDie_kept {s0 : State} {s : State} {site : Nat} (h : Kept s0 s) : Kept s0 (State.recordDie s site) := by
  unfold State.recordDie
  repeat' first
    | with_reducible assumption
    | with_reducible apply State.retire_kept

theorem State.doStep_kept {s0 : State} {s : State} {i : Nat} (h : Kept s0 s) : Kept s0 (State.doStep s i) := by
  unfold State.doStep
  repeat' first
    | with_reducible assumption
    | extract_lets +onlyGivenNames x
    | with_reducible apply State.setReg_kept
    | with_reducible apply State.setBit_kept

theorem State.latchHi_kept {s0 : State} {s : State} {hi : Nat} (h : Kept s0 s) : Kept s0 (State.latchHi s hi) := by
  unfold State.latchHi
  repeat' first
    | with_reducible assumption
    | with_reducible apply State.setReg_kept

theorem State.recordWorn_kept {s0 : State} {s : State} {site : Nat} (h : Kept s0 s) : Kept s0 (State.recordWorn s site) := by
  unfold State.recordWorn
  repeat' first
    | with_reducible assumption
    | extract_lets +onlyGivenNames x
    | with_reducible apply Kept.ite
    | with_reducible apply State.recordDie_kept

end Sys2Proof.Machine
end

