-- ==== Sys2Proof/Laws/KeptGroups.lean ====
section
/-! SUPPORT. What the operations of Machine/Groups.lean keep. -/

namespace Sys2Proof.Machine

set_option linter.tactic.unusedName false

theorem State.setArr_kept {s0 : State} {s : State} {ga : Nat} {x : Arr} (h : Kept s0 s) : Kept s0 (State.setArr s ga x) := by
  unfold State.setArr
  repeat' first
    | with_reducible assumption
    | fail_if_no_progress with_reducible refine Kept.mk' ?_ rfl rfl rfl rfl rfl

theorem noteLaunchFault_kept {s0 : State} {s : State} {id : Nat} {f : W32} {unit : W32} (h : Kept s0 s) : Kept s0 (noteLaunchFault s id f unit) := by
  unfold noteLaunchFault
  repeat' first
    | with_reducible assumption
    | fail_if_no_progress with_reducible refine Kept.mk' ?_ rfl rfl rfl rfl rfl

theorem State.setBlock_kept {s0 : State} {s : State} {ga : Nat} {b : Nat} {x : Block} (h : Kept s0 s) : Kept s0 (State.setBlock s ga b x) := by
  unfold State.setBlock
  repeat' first
    | with_reducible assumption
    | (extract_lets +onlyGivenNames x; clear_value x)
    | with_reducible apply State.setArr_kept

theorem haltBlock_kept {s0 : State} {s : State} {ga : Nat} {bs : Nat} (h : Kept s0 s) : Kept s0 (haltBlock s ga bs) := by
  unfold haltBlock
  repeat' first
    | with_reducible assumption
    | with_reducible apply State.setBlock_kept
    | split

theorem blockFault_kept {s0 : State} {s : State} {c : Ctx} {code : Nat} {addr : W64} {word4 : W32} (h : Kept s0 s) : Kept s0 (blockFault s c code addr word4) := by
  unfold blockFault
  repeat' first
    | with_reducible assumption
    | (extract_lets +onlyGivenNames x; clear_value x)
    | extract_lets +onlyGivenNames x
    | with_reducible apply noteLaunchFault_kept
    | with_reducible apply haltBlock_kept
    | with_reducible apply State.raise_kept

theorem State.setGroup_kept {s0 : State} {s : State} {ga : Nat} {slot : Nat} {x : Group} (h : Kept s0 s) : Kept s0 (State.setGroup s ga slot x) := by
  unfold State.setGroup
  repeat' first
    | with_reducible assumption
    | (extract_lets +onlyGivenNames x; clear_value x)
    | with_reducible apply State.setArr_kept

theorem poisonFault_kept {s0 : State} {s : State} {c : Ctx} {addr : W64} {detail : List W32} (h : Kept s0 s) : Kept s0 (poisonFault s c addr detail) := by
  unfold poisonFault
  repeat' first
    | with_reducible assumption
    | (extract_lets +onlyGivenNames x; clear_value x)
    | extract_lets +onlyGivenNames x
    | with_reducible apply Kept.ite
    | with_reducible apply State.raise_kept
    | with_reducible apply noteLaunchFault_kept
    | with_reducible apply haltBlock_kept

end Sys2Proof.Machine
end

