-- ==== Sys2Proof/Laws/KeptStore.lean ====
section
/-! SUPPORT. What the operations of Machine/Store.lean keep. -/

namespace Sys2Proof.Machine

set_option linter.tactic.unusedName false

theorem State.setPort_kept {s0 : State} {s : State} {port : Nat} {x : Port} (h : Kept s0 s) : Kept s0 (State.setPort s port x) := by
  unfold State.setPort
  repeat' first
    | with_reducible assumption
    | fail_if_no_progress with_reducible refine Kept.mk' ?_ rfl rfl rfl rfl rfl

theorem State.logDirty_kept {s0 : State} {s : State} {port : Nat} {sl : Nat} {addr : Nat} (h : Kept s0 s) : Kept s0 (State.logDirty s port sl addr) := by
  unfold State.logDirty
  repeat' first
    | with_reducible assumption
    | (extract_lets +onlyGivenNames x; clear_value x)
    | extract_lets +onlyGivenNames x
    | with_reducible apply Kept.ite
    | with_reducible apply State.setPort_kept

theorem State.logWrite_kept {s0 : State} {s : State} {p : Nat} {sl : Nat} {addr : Nat} (h : Kept s0 s) : Kept s0 (State.logWrite s p sl addr) := by
  unfold State.logWrite
  repeat' first
    | with_reducible assumption
    | extract_lets +onlyGivenNames x
    | with_reducible apply Kept.ite
    | with_reducible apply State.logDirty_kept

theorem State.setPair_kept {s0 : State} {s : State} {p : Nat} {x : PairPart} (h : Kept s0 s) : Kept s0 (State.setPair s p x) := by
  unfold State.setPair
  repeat' first
    | with_reducible assumption
    | fail_if_no_progress with_reducible refine Kept.mk' ?_ rfl rfl rfl rfl rfl

theorem State.hostPost_kept {s0 : State} {s : State} {p : Nat} {work : Nat} {id : Nat} {pasid : W32} {addr : Nat} {data : LineData} {mask : ByteMask} (h : Kept s0 s) : Kept s0 (State.hostPost s p work id pasid addr data mask) := by
  unfold State.hostPost
  repeat' first
    | with_reducible assumption
    | (extract_lets +onlyGivenNames x; refine (fun (hx : Kept s0 x) => ?_) ?_; (on_goal 2 => unfold x; clear x); (on_goal 1 => clear_value x))
    | (extract_lets +onlyGivenNames x; clear_value x)
    | extract_lets +onlyGivenNames x
    | with_reducible apply Kept.ite
    | with_reducible apply State.setBit_kept
    | with_reducible apply State.setPair_kept
    | fail_if_no_progress with_reducible refine Kept.mk' ?_ rfl rfl rfl rfl rfl

theorem State.hostWrite_kept {s0 : State} {s : State} {p : Nat} {work : Nat} {id : Nat} {sl : Nat} {pasid : W32} {addr : Nat} {data : LineData} {mask : ByteMask} (h : Kept s0 s) : Kept s0 (State.hostWrite s p work id sl pasid addr data mask) := by
  unfold State.hostWrite
  repeat' first
    | with_reducible assumption
    | (extract_lets +onlyGivenNames x; refine (fun (hx : Kept s0 x) => ?_) ?_; (on_goal 2 => unfold x; clear x); (on_goal 1 => clear_value x))
    | (extract_lets +onlyGivenNames x; clear_value x)
    | extract_lets +onlyGivenNames x
    | with_reducible apply State.spend_kept
    | with_reducible apply State.logWrite_kept
    | with_reducible apply State.hostPost_kept
    | with_reducible apply State.setPort_kept

theorem State.dropWrite_kept {s0 : State} {s : State} {p : Nat} {line : Nat} (h : Kept s0 s) : Kept s0 (State.dropWrite s p line) := by
  unfold State.dropWrite
  repeat' first
    | with_reducible assumption
    | (extract_lets +onlyGivenNames x; clear_value x)
    | extract_lets +onlyGivenNames x
    | with_reducible apply Kept.ite
    | with_reducible apply State.raise_kept
    | with_reducible apply State.setBit_kept

theorem State.setMid_kept {s0 : State} {s : State} {m : Nat} {x : Mid} (h : Kept s0 s) : Kept s0 (State.setMid s m x) := by
  unfold State.setMid
  repeat' first
    | with_reducible assumption
    | fail_if_no_progress with_reducible refine Kept.mk' ?_ rfl rfl rfl rfl rfl

theorem State.touchPage_kept {s0 : State} {s : State} {port : Nat} {off : Nat} (h : Kept s0 s) : Kept s0 (State.touchPage s port off) := by
  unfold State.touchPage
  repeat' first
    | with_reducible assumption
    | (extract_lets +onlyGivenNames x; clear_value x)
    | extract_lets +onlyGivenNames x
    | with_reducible apply Kept.ite
    | with_reducible apply State.setMid_kept

theorem State.putPage_kept {s0 : State} {s : State} {port : Nat} {off : Nat} {pg : FarPage} (h : Kept s0 s) : Kept s0 (State.putPage s port off pg) := by
  unfold State.putPage
  repeat' first
    | with_reducible assumption
    | fail_if_no_progress with_reducible refine Kept.mk' ?_ rfl rfl rfl rfl rfl

theorem State.memWrite_kept {s0 : State} {s : State} {p : Nat} {line : Nat} {data : LineData} {mask : ByteMask} {dead : Bool} (h : Kept s0 s) : Kept s0 (State.memWrite s p line data mask dead) := by
  have htf : ∀ port off, (s.touchPage port off).far = s.far := fun port off => by
    unfold State.touchPage; dsimp only; split <;> rfl
  unfold State.memWrite
  dsimp only
  refine Kept.ite (Kept.ite ?_ (Kept.ite (State.dropWrite_kept h) ?_)) ?_
  · exact Kept.mkHbm h rfl rfl (Mem.clear_wf _ _ _) rfl rfl
  · refine Kept.mkHbm h rfl rfl (fun w => Mem.writeMasked_wf _ _ _ _ _ ?_) rfl rfl
    split
    · exact w
    · exact Mem.clear_wf _ _ _ w
  · refine Kept.ite h (Kept.ite (State.raise_kept h) ?_)
    split
    · refine Kept.ite (State.dropWrite_kept h) (Kept.ite (State.putPage_kept ?_) (State.putPage_kept ?_))
      · exact Kept.mkFar (State.touchPage_kept h) rfl rfl rfl (fun w => Mem.clear_wf _ _ _ (by rw [← htf]; exact w)) rfl
      · refine Kept.mkFar (State.touchPage_kept h) rfl rfl rfl (fun w => Mem.writeMasked_wf _ _ _ _ _ ?_) rfl
        rw [htf] at w
        split
        · exact w
        · exact Mem.clear_wf _ _ _ w
    · exact State.dropWrite_kept h

theorem State.memSend_kept {s0 : State} {s : State} {p : Nat} {line : Nat} {data : LineData} {mask : ByteMask} {dead : Bool} {through : Bool} (h : Kept s0 s) : Kept s0 (State.memSend s p line data mask dead through) := by
  unfold State.memSend
  repeat' first
    | with_reducible assumption
    | (extract_lets +onlyGivenNames x; clear_value x)
    | extract_lets +onlyGivenNames x
    | with_reducible apply Kept.ite
    | with_reducible apply State.memWrite_kept
    | fail_if_no_progress with_reducible refine Kept.mk' ?_ rfl rfl rfl rfl rfl

theorem State.memPut_kept {s0 : State} {s : State} {p : Nat} {line : Nat} {data : LineData} {mask : ByteMask} {dead : Bool} (h : Kept s0 s) : Kept s0 (State.memPut s p line data mask dead) := by
  unfold State.memPut
  repeat' first
    | with_reducible assumption
    | with_reducible apply State.memSend_kept

theorem State.grant_kept {s0 : State} {s : State} {region : Nat} {i : Nat} {cost : Nat} {lines : Nat} (h : Kept s0 s) : Kept s0 (State.grant s region i cost lines) := by
  unfold State.grant
  repeat' first
    | with_reducible assumption
    | (extract_lets +onlyGivenNames x; refine (fun (hx : Kept s0 x) => ?_) ?_; (on_goal 2 => unfold x; clear x); (on_goal 1 => clear_value x))
    | (extract_lets +onlyGivenNames x; clear_value x)
    | extract_lets +onlyGivenNames x
    | with_reducible apply Kept.ite
    | with_reducible apply State.setReg_kept
    | with_reducible apply State.count_kept
    | fail_if_no_progress with_reducible refine Kept.mk' ?_ rfl rfl rfl rfl rfl

theorem State.charge_kept {s0 : State} {s : State} {region : Nat} {i : Nat} {cost : Nat} {lines : Nat} (h : Kept s0 s) : KeptO s0 (State.charge s region i cost lines) := by
  unfold State.charge
  repeat' first
    | with_reducible assumption
    | extract_lets +onlyGivenNames x
    | with_reducible exact KeptO.none
    | with_reducible apply KeptO.some
    | with_reducible apply KeptO.ite
    | with_reducible apply State.grant_kept

theorem State.chargeLine_kept {s0 : State} {s : State} {p : Nat} {sl : Nat} {line : Nat} (h : Kept s0 s) : KeptO s0 (State.chargeLine s p sl line) := by
  unfold State.chargeLine
  repeat' first
    | with_reducible assumption
    | (intro t (ht : Kept s0 t))
    | (extract_lets +onlyGivenNames x; clear_value x)
    | extract_lets +onlyGivenNames x
    | with_reducible apply KeptO.ite
    | with_reducible apply State.spend_kept
    | with_reducible apply State.charge_kept
    | with_reducible apply KeptO.map

theorem State.askRead_kept {s0 : State} {s : State} {p : Nat} {line : Nat} {side : Bool} (h : Kept s0 s) : Kept s0 (State.askRead s p line side) := by
  unfold State.askRead
  repeat' first
    | with_reducible assumption
    | (extract_lets +onlyGivenNames x; refine (fun (hx : Kept s0 x) => ?_) ?_; (on_goal 2 => unfold x; clear x); (on_goal 1 => clear_value x))
    | (extract_lets +onlyGivenNames x; clear_value x)
    | extract_lets +onlyGivenNames x
    | with_reducible apply Kept.ite
    | with_reducible apply State.touchPage_kept
    | fail_if_no_progress with_reducible refine Kept.mk' ?_ rfl rfl rfl rfl rfl

theorem State.hostLine_kept {s0 : State} {s : State} (h : Kept s0 s) : Kept s0 (State.hostLine s).2 := by
  unfold State.hostLine
  repeat' first
    | with_reducible assumption
    | fail_if_no_progress with_reducible refine Kept.mk' ?_ rfl rfl rfl rfl rfl

theorem State.hostLineOut_kept {s0 : State} {s : State} {p : Nat} {l : SLine} (h : Kept s0 s) : Kept s0 (State.hostLineOut s p l) := by
  unfold State.hostLineOut
  repeat' first
    | with_reducible assumption
    | (extract_lets +onlyGivenNames x; clear_value x)
    | extract_lets +onlyGivenNames x
    | with_reducible apply Kept.ite
    | fail_if_no_progress with_reducible refine Kept.mk' ?_ rfl rfl rfl rfl rfl

theorem State.notePoison_kept {s0 : State} {s : State} {m : Nat} {wherW : Nat} {addr : Nat} (h : Kept s0 s) : Kept s0 (State.notePoison s m wherW addr) := by
  unfold State.notePoison
  repeat' first
    | with_reducible assumption
    | (extract_lets +onlyGivenNames x; refine (fun (hx : Kept s0 x) => ?_) ?_; (on_goal 2 => unfold x; clear x); (on_goal 1 => clear_value x))
    | extract_lets +onlyGivenNames x
    | with_reducible apply Kept.ite
    | with_reducible apply State.setReg_kept
    | with_reducible apply State.setLatch_kept
    | with_reducible apply State.setBit_kept

theorem State.drainWrites_kept {s0 : State} {p : Nat} {line : Nat} {x0 : Nat} {x1 : State} (h : Kept s0 x1) : Kept s0 (State.drainWrites p line x0 x1) := by
  induction x0 generalizing x1 with
  | zero =>
    unfold State.drainWrites
    repeat' with_reducible assumption
  | succ n ih =>
    unfold State.drainWrites
    repeat' first
      | with_reducible assumption
      | with_reducible apply ih
      | (extract_lets +onlyGivenNames x; refine (fun (hx : Kept s0 x) => ?_) ?_; (on_goal 2 => unfold x; clear x); (on_goal 1 => clear_value x))
      | extract_lets +onlyGivenNames x
      | with_reducible apply Kept.ite
      | with_reducible apply State.memWrite_kept
      | fail_if_no_progress with_reducible refine Kept.mk' ?_ rfl rfl rfl rfl rfl
      | split

end Sys2Proof.Machine
end

