-- ==== Sys2Proof/Laws/KeptSlice.lean ====
section
/-! SUPPORT. What the operations of Machine/Slice.lean keep. -/

namespace Sys2Proof.Machine

set_option linter.tactic.unusedName false

theorem State.setSlice_kept {s0 : State} {s : State} {d : Nat} {x : Slice} (h : Kept s0 s) : Kept s0 (State.setSlice s d x) := by
  unfold State.setSlice
  repeat' first
    | with_reducible assumption
    | fail_if_no_progress with_reducible refine Kept.mk' ?_ rfl rfl rfl rfl rfl

theorem State.sliceBit_kept {s0 : State} {s : State} {d : Nat} {i : Nat} (h : Kept s0 s) : Kept s0 (State.sliceBit s d i) := by
  unfold State.sliceBit
  repeat' first
    | with_reducible assumption
    | (intro t b (ht : Kept s0 t))
    | extract_lets +onlyGivenNames x
    | with_reducible apply State.atBase_kept
    | with_reducible apply State.setBit_kept

theorem State.acquire_kept {s0 : State} {s : State} {ga : Nat} (h : Kept s0 s) : Kept s0 (State.acquire s ga) := by
  unfold State.acquire
  repeat' first
    | with_reducible assumption
    | (extract_lets +onlyGivenNames x; refine (fun (hx : Kept s0 x) => ?_) ?_; (on_goal 2 => unfold x; clear x); (on_goal 1 => clear_value x))
    | (extract_lets +onlyGivenNames x; clear_value x)
    | extract_lets +onlyGivenNames x
    | with_reducible apply Kept.ite
    | with_reducible apply State.setSlice_kept
    | with_reducible apply State.sliceBit_kept
    | with_reducible apply State.setArr_kept
    | fail_if_no_progress with_reducible refine Kept.mk' ?_ rfl rfl rfl rfl rfl

theorem State.l1Count_kept {s0 : State} {s : State} {ga : Nat} {c : Nat} (h : Kept s0 s) : Kept s0 (State.l1Count s ga c) := by
  unfold State.l1Count
  repeat' first
    | with_reducible assumption
    | (intro t b (ht : Kept s0 t))
    | extract_lets +onlyGivenNames x
    | with_reducible apply State.atBase_kept
    | with_reducible apply State.count_kept

theorem State.sliceCount_kept {s0 : State} {s : State} {d : Nat} {i : Nat} (h : Kept s0 s) : Kept s0 (State.sliceCount s d i) := by
  unfold State.sliceCount
  repeat' first
    | with_reducible assumption
    | (intro t b (ht : Kept s0 t))
    | extract_lets +onlyGivenNames x
    | with_reducible apply State.atBase_kept
    | with_reducible apply State.count_kept

theorem State.evictLine_kept {s0 : State} {s : State} {d : Nat} {p : Nat} {l : SLine} (h : Kept s0 s) : Kept s0 (State.evictLine s d p l) := by
  unfold State.evictLine
  repeat' first
    | with_reducible assumption
    | extract_lets +onlyGivenNames x
    | with_reducible apply Kept.ite
    | with_reducible apply State.sliceCount_kept
    | with_reducible apply State.hostPost_kept
    | with_reducible apply State.memPut_kept
    | split

theorem State.allocWay_kept {s0 : State} {s : State} {d : Nat} {p : Nat} {set : Nat} {limit : Option Nat} {skip : Nat} (h : Kept s0 s) : KeptOP s0 (State.allocWay s d p set limit skip) := by
  unfold State.allocWay
  repeat' first
    | with_reducible assumption
    | (intro t b (ht : Kept s0 t))
    | (extract_lets +onlyGivenNames x; refine (fun (hx : Kept s0 x) => ?_) ?_; (on_goal 2 => unfold x; clear x); (on_goal 1 => clear_value x))
    | (extract_lets +onlyGivenNames x; clear_value x)
    | extract_lets +onlyGivenNames x
    | with_reducible exact KeptOP.none
    | with_reducible apply KeptOP.some
    | with_reducible apply State.setSlice_kept
    | with_reducible apply State.evictLine_kept
    | with_reducible apply Kept.foldl
    | split

theorem State.placeLine_kept {s0 : State} {s : State} {d : Nat} {set : Nat} {w : Nat} {l : SLine} (h : Kept s0 s) : Kept s0 (State.placeLine s d set w l) := by
  unfold State.placeLine
  repeat' first
    | with_reducible assumption
    | (extract_lets +onlyGivenNames x; clear_value x)
    | with_reducible apply State.setSlice_kept

theorem State.resettle_kept {s0 : State} {s : State} {d : Nat} {p : Nat} {set : Nat} {line : Nat} {visitor : Bool} (h : Kept s0 s) : Kept s0 (State.resettle s d p set line visitor) := by
  unfold State.resettle
  repeat' first
    | with_reducible assumption
    | (extract_lets +onlyGivenNames x; clear_value x)
    | extract_lets +onlyGivenNames x
    | with_reducible apply Kept.ite
    | with_reducible apply State.allocWay_kept
    | with_reducible apply State.setSlice_kept
    | with_reducible apply State.placeLine_kept
    | split
    | (with_reducible eapply Kept.of_some_snd; focus assumption)

theorem State.writeLine_kept {s0 : State} {s : State} {d : Nat} {p : Nat} {touch : Bool} {l : SLine} (h : Kept s0 s) : Kept s0 (State.writeLine s d p touch l) := by
  unfold State.writeLine
  repeat' first
    | with_reducible assumption
    | (extract_lets +onlyGivenNames x; clear_value x)
    | extract_lets +onlyGivenNames x
    | with_reducible apply State.resettle_kept
    | with_reducible apply State.setSlice_kept

theorem State.storeLine_kept {s0 : State} {s : State} {d : Nat} {p : Nat} {l : SLine} (h : Kept s0 s) : Kept s0 (State.storeLine s d p l) := by
  unfold State.storeLine
  repeat' first
    | with_reducible assumption
    | with_reducible apply State.writeLine_kept

theorem State.visitorStore_kept {s0 : State} {s : State} {d : Nat} {p : Nat} {line : Nat} {data : LineData} {mask : ByteMask} (h : Kept s0 s) : Kept s0 (State.visitorStore s d p line data mask) := by
  unfold State.visitorStore
  repeat' first
    | with_reducible assumption
    | (extract_lets +onlyGivenNames x; refine (fun (hx : Kept s0 x) => ?_) ?_; (on_goal 2 => unfold x; clear x); (on_goal 1 => clear_value x))
    | (extract_lets +onlyGivenNames x; clear_value x)
    | extract_lets +onlyGivenNames x
    | with_reducible apply Kept.ite
    | with_reducible apply State.setSlice_kept
    | with_reducible apply State.storeLine_kept
    | split

theorem State.visitorDrop_kept {s0 : State} {s : State} {d : Nat} {line : Nat} (h : Kept s0 s) : Kept s0 (State.visitorDrop s d line) := by
  unfold State.visitorDrop
  repeat' first
    | with_reducible assumption
    | (extract_lets +onlyGivenNames x; clear_value x)
    | with_reducible apply State.setSlice_kept

theorem State.sendReq_kept {s0 : State} {s : State} {r : MemReq} (h : Kept s0 s) : Kept s0 (State.sendReq s r) := by
  unfold State.sendReq
  repeat' first
    | with_reducible assumption
    | (extract_lets +onlyGivenNames x; refine (fun (hx : Kept s0 x) => ?_) ?_; (on_goal 2 => unfold x; clear x); (on_goal 1 => clear_value x))
    | (extract_lets +onlyGivenNames x; clear_value x)
    | with_reducible apply State.visitorStore_kept
    | with_reducible apply State.visitorDrop_kept
    | fail_if_no_progress with_reducible refine Kept.mk' ?_ rfl rfl rfl rfl rfl
    | split

theorem State.writeBack_kept {s0 : State} {s : State} {ga : Nat} {p : Nat} {l : L1Line} (h : Kept s0 s) : Kept s0 (State.writeBack s ga p l) := by
  unfold State.writeBack
  repeat' first
    | with_reducible assumption
    | extract_lets +onlyGivenNames x
    | with_reducible apply State.newId_kept
    | with_reducible apply State.setArr_kept
    | with_reducible apply State.l1Count_kept
    | with_reducible apply State.sendReq_kept

theorem State.cleanL1_kept {s0 : State} {s : State} {ga : Nat} {p : Nat} {key : Nat} (h : Kept s0 s) : Kept s0 (State.cleanL1 s ga p key) := by
  unfold State.cleanL1
  repeat' first
    | with_reducible assumption
    | (extract_lets +onlyGivenNames x; refine (fun (hx : Kept s0 x) => ?_) ?_; (on_goal 2 => unfold x; clear x); (on_goal 1 => clear_value x))
    | (extract_lets +onlyGivenNames x; clear_value x)
    | extract_lets +onlyGivenNames x
    | with_reducible apply Kept.ite
    | with_reducible apply State.writeBack_kept
    | with_reducible apply State.setArr_kept
    | split

theorem State.dirtyRoom_kept {s0 : State} {s : State} {ga : Nat} {p : Nat} {line : Nat} (h : Kept s0 s) : Kept s0 (State.dirtyRoom s ga p line) := by
  unfold State.dirtyRoom
  repeat' first
    | with_reducible assumption
    | (extract_lets +onlyGivenNames x; clear_value x)
    | extract_lets +onlyGivenNames x
    | with_reducible apply Kept.ite
    | with_reducible apply State.cleanL1_kept
    | split

theorem State.allocL1_kept {s0 : State} {s : State} {ga : Nat} {p : Nat} {line : Nat} (h : Kept s0 s) : KeptOP s0 (State.allocL1 s ga p line) := by
  unfold State.allocL1
  repeat' first
    | with_reducible assumption
    | (extract_lets +onlyGivenNames x; refine (fun (hx : Kept s0 x) => ?_) ?_; (on_goal 2 => unfold x; clear x); (on_goal 1 => clear_value x))
    | (extract_lets +onlyGivenNames x; clear_value x)
    | extract_lets +onlyGivenNames x
    | with_reducible exact KeptOP.none
    | with_reducible apply KeptOP.some
    | with_reducible apply State.cleanL1_kept
    | with_reducible apply State.setArr_kept
    | split

theorem State.storeL1_kept {s0 : State} {s : State} {ga : Nat} {p : Nat} {line : Nat} {data : LineData} {mask : ByteMask} (h : Kept s0 s) : KeptO s0 (State.storeL1 s ga p line data mask) := by
  unfold State.storeL1
  have hn := State.newId_kept (State.dirtyRoom_kept (ga := ga) (p := p) (line := line) h)
  refine ⟨fun t ht => ?_⟩
  obtain ⟨e, he, rfl⟩ := Option.map_eq_some_iff.mp ht
  refine State.setArr_kept ?_
  split at he
  · obtain ⟨l, -, rfl⟩ := Option.map_eq_some_iff.mp he
    exact hn
  · obtain ⟨r, hr, rfl⟩ := Option.map_eq_some_iff.mp he
    exact (State.allocL1_kept hn).of r hr

theorem State.pushL1_kept {s0 : State} {s : State} {ga : Nat} {p : Nat} (h : Kept s0 s) : Kept s0 (State.pushL1 s ga p) := by
  unfold State.pushL1
  repeat' first
    | with_reducible assumption
    | (intro t b (ht : Kept s0 t))
    | (extract_lets +onlyGivenNames x; clear_value x)
    | extract_lets +onlyGivenNames x
    | with_reducible apply State.cleanL1_kept
    | with_reducible apply Kept.foldl

theorem State.dropL1_kept {s0 : State} {s : State} {ga : Nat} {p : Nat} {line : Nat} {keep : Bool} (h : Kept s0 s) : Kept s0 (State.dropL1 s ga p line keep) := by
  unfold State.dropL1
  repeat' first
    | with_reducible assumption
    | (extract_lets +onlyGivenNames x; refine (fun (hx : Kept s0 x) => ?_) ?_; (on_goal 2 => unfold x; clear x); (on_goal 1 => clear_value x))
    | (extract_lets +onlyGivenNames x; clear_value x)
    | extract_lets +onlyGivenNames x
    | with_reducible apply Kept.ite
    | with_reducible apply State.cleanL1_kept
    | with_reducible apply State.setArr_kept
    | split

theorem State.enterLine_kept {s0 : State} {s : State} {d : Nat} {p : Nat} {w : Nat} {l : SLine} (h : Kept s0 s) : Kept s0 (State.enterLine s d p w l) := by
  unfold State.enterLine
  repeat' first
    | with_reducible assumption
    | extract_lets +onlyGivenNames x
    | with_reducible apply State.writeLine_kept
    | with_reducible apply State.placeLine_kept

theorem State.l1Uncount_kept {s0 : State} {s : State} {ga : Nat} {c : Nat} {n : Nat} (h : Kept s0 s) : Kept s0 (State.l1Uncount s ga c n) := by
  unfold State.l1Uncount
  repeat' first
    | with_reducible assumption
    | (intro t b (ht : Kept s0 t))
    | extract_lets +onlyGivenNames x
    | with_reducible apply State.atBase_kept
    | with_reducible apply State.tally_kept

theorem State.sideAdd_kept {s0 : State} {s : State} {d : Nat} {line : Nat} {data : LineData} (h : Kept s0 s) : Kept s0 (State.sideAdd s d line data) := by
  unfold State.sideAdd
  repeat' first
    | with_reducible assumption
    | (extract_lets +onlyGivenNames x; refine (fun (hx : Kept s0 x) => ?_) ?_; (on_goal 2 => unfold x; clear x); (on_goal 1 => clear_value x))
    | (extract_lets +onlyGivenNames x; clear_value x)
    | extract_lets +onlyGivenNames x
    | with_reducible apply Kept.ite
    | with_reducible apply State.setSlice_kept
    | with_reducible apply State.sliceCount_kept

end Sys2Proof.Machine
end

