-- ==== Sys2Proof/Laws/KeptHome.lean ====
section
/-! SUPPORT. What the operations of Machine/Home.lean keep. -/

namespace Sys2Proof.Machine

set_option linter.tactic.unusedName false

theorem State.complete_kept {s0 : State} {s : State} {r : MemReq} (h : Kept s0 s) : Kept s0 (State.complete s r) := by
  unfold State.complete
  repeat' first
    | with_reducible assumption
    | (intro t b (ht : Kept s0 t))
    | extract_lets +onlyGivenNames x
    | with_reducible apply State.setGroup_kept
    | with_reducible apply Kept.foldl
    | split

theorem State.failReq_kept {s0 : State} {s : State} {r : MemReq} {code : Nat} (h : Kept s0 s) : Kept s0 (State.failReq s r code) := by
  unfold State.failReq
  repeat' first
    | with_reducible assumption
    | (intro t b (ht : Kept s0 t))
    | extract_lets +onlyGivenNames x
    | with_reducible apply blockFault_kept
    | with_reducible apply State.complete_kept
    | with_reducible apply Kept.foldl

theorem State.closeSum_kept {s0 : State} {s : State} {d : Nat} {p : Nat} {line : Nat} (h : Kept s0 s) : Kept s0 (State.closeSum s d p line) := by
  unfold State.closeSum
  repeat' first
    | with_reducible assumption
    | (extract_lets +onlyGivenNames x; refine (fun (hx : Kept s0 x) => ?_) ?_; (on_goal 2 => unfold x; clear x); (on_goal 1 => clear_value x))
    | (extract_lets +onlyGivenNames x; clear_value x)
    | with_reducible apply State.setSlice_kept
    | with_reducible apply State.storeLine_kept
    | split

theorem State.rawWrite_kept {s0 : State} {s : State} {p : Nat} {addr : Nat} {v : Nat} {n : Nat} (h : Kept s0 s) : Kept s0 (State.rawWrite s p addr v n) := by
  unfold State.rawWrite
  repeat' first
    | with_reducible assumption
    | extract_lets +onlyGivenNames x
    | with_reducible refine Kept.mkHbm ?_ rfl rfl (fun w => ?_) rfl rfl
    | (with_reducible apply Mem.writeLE_wf; assumption)

theorem State.takeSpill_kept {s0 : State} {s : State} {p : Nat} {d : Nat} {line : Nat} {i : Nat} (h : Kept s0 s) : Kept s0 (State.takeSpill s p d line i).2 := by
  unfold State.takeSpill
  repeat' first
    | with_reducible assumption
    | (extract_lets +onlyGivenNames x; refine (fun (hx : Kept s0 x) => ?_) ?_; (on_goal 2 => unfold x; clear x); (on_goal 1 => clear_value x))
    | (extract_lets +onlyGivenNames x; clear_value x)
    | with_reducible apply State.setSlice_kept
    | with_reducible apply State.rawWrite_kept

theorem State.mergeRecord_kept {s0 : State} {s : State} {d : Nat} {p : Nat} {line : Nat} (h : Kept s0 s) : Kept s0 (State.mergeRecord s d p line) := by
  unfold State.mergeRecord
  repeat' first
    | with_reducible assumption
    | extract_lets +onlyGivenNames x
    | with_reducible apply State.takeSpill_kept
    | with_reducible apply State.setSlice_kept
    | split

theorem State.closeFor_kept {s0 : State} {s : State} {p : Nat} {line : Nat} (h : Kept s0 s) : Kept s0 (State.closeFor s p line) := by
  unfold State.closeFor
  repeat' first
    | with_reducible assumption
    | (extract_lets +onlyGivenNames x; clear_value x)
    | extract_lets +onlyGivenNames x
    | with_reducible apply Kept.ite
    | with_reducible apply State.closeSum_kept
    | with_reducible apply State.mergeRecord_kept
    | with_reducible apply State.takeSpill_kept
    | with_reducible apply State.memPut_kept
    | split

theorem State.uncrowd_kept {s0 : State} {s : State} {d : Nat} {p : Nat} {line : Nat} (h : Kept s0 s) : Kept s0 (State.uncrowd s d p line) := by
  unfold State.uncrowd
  repeat' first
    | with_reducible assumption
    | (extract_lets +onlyGivenNames x; clear_value x)
    | extract_lets +onlyGivenNames x
    | with_reducible apply Kept.ite
    | with_reducible apply State.evictLine_kept
    | with_reducible apply State.setSlice_kept
    | split

theorem State.updateLine_kept {s0 : State} {s : State} {p : Nat} {line : Nat} {data : LineData} {mask : ByteMask} (h : Kept s0 s) : Kept s0 (State.updateLine s p line data mask) := by
  unfold State.updateLine
  repeat' first
    | with_reducible assumption
    | (extract_lets +onlyGivenNames x; refine (fun (hx : Kept s0 x) => ?_) ?_; (on_goal 2 => unfold x; clear x); (on_goal 1 => clear_value x))
    | (extract_lets +onlyGivenNames x; clear_value x)
    | extract_lets +onlyGivenNames x
    | with_reducible apply State.closeFor_kept
    | with_reducible apply State.setSlice_kept
    | with_reducible apply State.uncrowd_kept
    | with_reducible apply State.storeLine_kept
    | with_reducible apply State.memSend_kept
    | split

theorem State.writeWord_kept {s0 : State} {s : State} {p : Nat} {addr : Nat} {n : Nat} {v : Nat} (h : Kept s0 s) : Kept s0 (State.writeWord s p addr n v) := by
  unfold State.writeWord
  repeat' first
    | with_reducible assumption
    | with_reducible apply State.updateLine_kept

theorem State.deliver_kept {s0 : State} {s : State} {r : MemReq} {value : LaneAcc → Nat} (h : Kept s0 s) : Kept s0 (State.deliver s r value) := by
  unfold State.deliver
  repeat' first
    | with_reducible assumption
    | (intro t b (ht : Kept s0 t))
    | extract_lets +onlyGivenNames x
    | with_reducible apply Kept.ite
    | with_reducible apply State.setGroup_kept
    | with_reducible apply Kept.foldl
    | split

theorem State.askAgain_kept {s0 : State} {s : State} {m : L1Miss} (h : Kept s0 s) : Kept s0 (State.askAgain s m) := by
  unfold State.askAgain
  repeat' first
    | with_reducible assumption
    | (extract_lets +onlyGivenNames x; clear_value x)
    | extract_lets +onlyGivenNames x
    | with_reducible apply State.newId_kept
    | with_reducible apply State.sendReq_kept
    | with_reducible apply State.setArr_kept
    | split

theorem State.fillL1_kept {s0 : State} {s : State} {r : MemReq} {data : LineData} {keep : Bool} (h : Kept s0 s) : Kept s0 (State.fillL1 s r data keep) := by
  unfold State.fillL1
  repeat' first
    | with_reducible assumption
    | (intro t b (ht : Kept s0 t))
    | (extract_lets +onlyGivenNames x; refine (fun (hx : Kept s0 x) => ?_) ?_; (on_goal 2 => unfold x; clear x); (on_goal 1 => clear_value x))
    | (extract_lets +onlyGivenNames x; clear_value x)
    | extract_lets +onlyGivenNames x
    | with_reducible apply State.setArr_kept
    | with_reducible apply State.askAgain_kept
    | with_reducible apply State.deliver_kept
    | with_reducible apply Kept.foldl
    | split

theorem State.sendSide_kept {s0 : State} {s : State} {r : MemReq} {code : FillCode} {data : LineData} (h : Kept s0 s) : Kept s0 (State.sendSide s r code data) := by
  unfold State.sendSide
  repeat' first
    | with_reducible assumption
    | (extract_lets +onlyGivenNames x; clear_value x)
    | fail_if_no_progress with_reducible refine Kept.mk' ?_ rfl rfl rfl rfl rfl

theorem State.waitMiss_kept {s0 : State} {s : State} {d : Nat} {r : MemReq} (h : Kept s0 s) : KeptO s0 (State.waitMiss s d r) := by
  unfold State.waitMiss
  repeat' first
    | with_reducible assumption
    | (extract_lets +onlyGivenNames x; clear_value x)
    | extract_lets +onlyGivenNames x
    | with_reducible exact KeptO.none
    | with_reducible apply KeptO.some
    | with_reducible apply KeptO.ite
    | with_reducible apply State.setSlice_kept
    | split

theorem State.ackWrite_kept {s0 : State} {s : State} {r : MemReq} (h : Kept s0 s) : Kept s0 (State.ackWrite s r) := by
  unfold State.ackWrite
  repeat' first
    | with_reducible assumption
    | fail_if_no_progress with_reducible refine Kept.mk' ?_ rfl rfl rfl rfl rfl

theorem State.contribute_kept {s0 : State} {s : State} {d : Nat} {r : MemReq} (h : Kept s0 s) : Kept s0 (State.contribute s d r) := by
  unfold State.contribute
  repeat' first
    | with_reducible assumption
    | (extract_lets +onlyGivenNames x; refine (fun (hx : Kept s0 x) => ?_) ?_; (on_goal 2 => unfold x; clear x); (on_goal 1 => clear_value x))
    | (extract_lets +onlyGivenNames x; clear_value x)
    | with_reducible apply State.setSlice_kept
    | with_reducible apply State.complete_kept

theorem State.putHome_kept {s0 : State} {s : State} {d : Nat} {r : MemReq} {l : SLine} (h : Kept s0 s) : Kept s0 (State.putHome s d r l) := by
  unfold State.putHome
  repeat' first
    | with_reducible assumption
    | extract_lets +onlyGivenNames x
    | with_reducible apply Kept.ite
    | with_reducible apply State.storeLine_kept
    | with_reducible apply State.hostPost_kept
    | with_reducible apply State.logDirty_kept

theorem State.freeVisitor_kept {s0 : State} {s : State} {r : MemReq} (h : Kept s0 s) : Kept s0 (State.freeVisitor s r) := by
  unfold State.freeVisitor
  repeat' first
    | with_reducible assumption
    | (extract_lets +onlyGivenNames x; clear_value x)
    | with_reducible apply State.setSlice_kept

theorem State.installVisitor_kept {s0 : State} {s : State} {r : MemReq} {data : LineData} (h : Kept s0 s) : Kept s0 (State.installVisitor s r data) := by
  unfold State.installVisitor
  repeat' first
    | with_reducible assumption
    | (extract_lets +onlyGivenNames x; refine (fun (hx : Kept s0 x) => ?_) ?_; (on_goal 2 => unfold x; clear x); (on_goal 1 => clear_value x))
    | (extract_lets +onlyGivenNames x; clear_value x)
    | extract_lets +onlyGivenNames x
    | with_reducible apply Kept.ite
    | with_reducible apply State.freeVisitor_kept
    | with_reducible apply State.storeLine_kept
    | with_reducible apply State.setSlice_kept
    | with_reducible apply State.allocWay_kept
    | with_reducible apply State.enterLine_kept
    | split
    | (with_reducible eapply Kept.of_some_snd; focus assumption)

theorem State.answerRead_kept {s0 : State} {s : State} {r : MemReq} {data : LineData} {keep : Bool} (h : Kept s0 s) : Kept s0 (State.answerRead s r data keep) := by
  unfold State.answerRead
  repeat' first
    | with_reducible assumption
    | (extract_lets +onlyGivenNames x; refine (fun (hx : Kept s0 x) => ?_) ?_; (on_goal 2 => unfold x; clear x); (on_goal 1 => clear_value x))
    | extract_lets +onlyGivenNames x
    | with_reducible apply Kept.ite
    | with_reducible apply State.fillL1_kept
    | with_reducible apply State.installVisitor_kept
    | with_reducible apply State.freeVisitor_kept
    | with_reducible apply State.sendSide_kept
    | with_reducible apply State.deliver_kept
    | split

theorem State.deadHalt1_kept {s0 : State} {s : State} {addr : Nat} {c : Ctx} (h : Kept s0 s) : Kept s0 (State.deadHalt1 s addr c) := by
  unfold State.deadHalt1
  repeat' first
    | with_reducible assumption
    | (extract_lets +onlyGivenNames x; clear_value x)
    | extract_lets +onlyGivenNames x
    | with_reducible apply noteLaunchFault_kept
    | with_reducible apply haltBlock_kept
    | with_reducible apply State.raise_kept

theorem State.recordDead_kept {s0 : State} {s : State} {d : Nat} {addr : Nat} {source : Nat} {halted : Bool} (h : Kept s0 s) : Kept s0 (State.recordDead s d addr source halted) := by
  unfold State.recordDead
  repeat' first
    | with_reducible assumption
    | (intro t b (ht : Kept s0 t))
    | (extract_lets +onlyGivenNames x; refine (fun (hx : Kept s0 x) => ?_) ?_; (on_goal 2 => unfold x; clear x); (on_goal 1 => clear_value x))
    | extract_lets +onlyGivenNames x
    | with_reducible apply Kept.ite
    | with_reducible apply State.atBase_kept
    | with_reducible apply State.setBit_kept
    | with_reducible apply State.setLatch_kept
    | with_reducible apply State.setReg_kept

theorem State.deadHaltReq_kept {s0 : State} {s : State} {d : Nat} {r : MemReq} (h : Kept s0 s) : Kept s0 (State.deadHaltReq s d r) := by
  unfold State.deadHaltReq
  repeat' first
    | with_reducible assumption
    | (intro t b (ht : Kept s0 t))
    | extract_lets +onlyGivenNames x
    | with_reducible apply State.deadHalt1_kept
    | with_reducible apply State.freeVisitor_kept
    | with_reducible apply State.complete_kept
    | with_reducible apply State.recordDead_kept
    | with_reducible apply Kept.foldl

theorem State.deadRead_kept {s0 : State} {s : State} {d : Nat} {p : Nat} {addr : Nat} {source : Nat} (h : Kept s0 s) : Kept s0 (State.deadRead s d p addr source) := by
  unfold State.deadRead
  repeat' first
    | with_reducible assumption
    | extract_lets +onlyGivenNames x
    | with_reducible apply State.raise_kept
    | with_reducible apply State.recordDead_kept

theorem State.endMissL1_kept {s0 : State} {s : State} {r : MemReq} (h : Kept s0 s) : Kept s0 (State.endMissL1 s r).2 := by
  unfold State.endMissL1
  repeat' first
    | with_reducible assumption
    | (extract_lets +onlyGivenNames x; clear_value x)
    | with_reducible apply State.setArr_kept

theorem State.access_kept {s0 : State} {s : State} {d : Nat} {r : MemReq} {l : SLine} (h : Kept s0 s) : Kept s0 (State.access s d r l) := by
  unfold State.access
  repeat' first
    | with_reducible assumption
    | (intro t b (ht : Kept s0 t))
    | (intro t (ht : Kept s0 t))
    | (extract_lets +onlyGivenNames x; refine (fun (hx : ∀ t, Kept s0 t → Kept s0 (x t)) => ?_) ?_; (on_goal 2 => unfold x; clear x); (on_goal 1 => clear_value x))
    | (extract_lets +onlyGivenNames x; clear_value x)
    | extract_lets +onlyGivenNames x
    | with_reducible apply Kept.ite
    | with_reducible apply State.setSlice_kept
    | with_reducible apply State.ackWrite_kept
    | with_reducible apply State.putHome_kept
    | with_reducible apply State.complete_kept
    | with_reducible apply State.answerRead_kept
    | with_reducible apply State.deadHaltReq_kept
    | with_reducible apply State.deliver_kept
    | with_reducible apply State.deadRead_kept
    | with_reducible apply State.endMissL1_kept
    | with_reducible apply State.freeVisitor_kept
    | with_reducible apply Kept.foldl
    | split
    | with_reducible apply_assumption

theorem State.discardSum_kept {s0 : State} {s : State} {d : Nat} {p : Nat} {line : Nat} (h : Kept s0 s) : Kept s0 (State.discardSum s d p line) := by
  unfold State.discardSum
  repeat' first
    | with_reducible assumption
    | (extract_lets +onlyGivenNames x; refine (fun (hx : Kept s0 x) => ?_) ?_; (on_goal 2 => unfold x; clear x); (on_goal 1 => clear_value x))
    | (extract_lets +onlyGivenNames x; clear_value x)
    | with_reducible apply State.takeSpill_kept
    | with_reducible apply State.setSlice_kept
    | split

theorem State.missLine_kept {s0 : State} {s : State} {d : Nat} {r : MemReq} (h : Kept s0 s) : KeptO s0 (State.missLine s d r) := by
  unfold State.missLine
  repeat' first
    | with_reducible assumption
    | (extract_lets +onlyGivenNames x; refine (fun (hx : Kept s0 x) => ?_) ?_; (on_goal 2 => unfold x; clear x); (on_goal 1 => clear_value x))
    | (extract_lets +onlyGivenNames x; refine (fun (hx : KeptO s0 x) => ?_) ?_; (on_goal 2 => unfold x; clear x); (on_goal 1 => clear_value x))
    | (extract_lets +onlyGivenNames x; clear_value x)
    | extract_lets +onlyGivenNames x
    | with_reducible exact KeptO.none
    | with_reducible apply KeptO.some
    | with_reducible apply KeptO.ite
    | with_reducible apply Kept.ite
    | with_reducible apply State.chargeLine_kept
    | with_reducible apply State.setSlice_kept
    | with_reducible apply State.allocWay_kept
    | with_reducible apply State.placeLine_kept
    | with_reducible apply State.askRead_kept
    | (with_reducible refine KeptO.get ?_; focus assumption)
    | split
    | (with_reducible eapply Kept.of_some; focus assumption)
    | (with_reducible eapply Kept.of_some_snd; focus assumption)

theorem State.startSum_kept {s0 : State} {s : State} {d : Nat} {p : Nat} {l : SLine} {elems : List SumElem} {merging : Bool} (h : Kept s0 s) : KeptO s0 (State.startSum s d p l elems merging) := by
  unfold State.startSum
  repeat' first
    | with_reducible assumption
    | extract_lets +onlyGivenNames x
    | with_reducible exact KeptO.none
    | with_reducible apply KeptO.some
    | with_reducible apply KeptO.ite
    | with_reducible apply State.newId_kept
    | with_reducible apply State.resettle_kept
    | with_reducible apply State.setSlice_kept

theorem State.spill_kept {s0 : State} {s : State} {p : Nat} {d : Nat} {u : SumLine} (h : Kept s0 s) : KeptO s0 (State.spill s p d u) := by
  unfold State.spill
  repeat' first
    | with_reducible assumption
    | (extract_lets +onlyGivenNames x; refine (fun (hx : Kept s0 x) => ?_) ?_; (on_goal 2 => unfold x; clear x); (on_goal 1 => clear_value x))
    | (extract_lets +onlyGivenNames x; clear_value x)
    | extract_lets +onlyGivenNames x
    | with_reducible exact KeptO.none
    | with_reducible apply KeptO.some
    | with_reducible apply Kept.ite
    | with_reducible apply State.setSlice_kept
    | with_reducible apply State.sliceCount_kept
    | with_reducible apply State.rawWrite_kept
    | with_reducible apply State.memPut_kept
    | split

theorem State.spillAny_kept {s0 : State} {s : State} {p : Nat} {d : Nat} (h : Kept s0 s) : KeptO s0 (State.spillAny s p d) := by
  unfold State.spillAny
  exact KeptO.findSome (fun u => KeptO.ite KeptO.none (State.spill_kept h))

/-- What a state has after room is made for a sum line. -/
theorem State.sumRoom_kept {s0 s : State} {p d set : Nat} (h : Kept s0 s) : ∀ t, s.sumRoom p d set = .room t ∨ s.sumRoom p d set = .full t → Kept s0 t := by
  intro t e
  unfold State.sumRoom at e
  have hb : Kept s0 (s.sliceBit d 2) := State.sliceBit_kept h
  have hs : ∀ u t, s.spill p d u = some t → Kept s0 t := fun u t e => (State.spill_kept h).of t e
  have ha : ∀ t, (s.sliceBit d 2).spillAny p d = some t → Kept s0 t := fun t e => (State.spillAny_kept hb).of t e
  rcases e with e | e
  all_goals
    dsimp only at e
    repeat' split at e
    all_goals first
      | (cases e; done)
      | (cases e; assumption)
      | (cases e; apply hs; assumption)
      | (cases e; apply ha; assumption)

theorem State.beginSum_kept {s0 : State} {s : State} {d : Nat} {r : MemReq} {l : SLine} {elems : List SumElem} {merging : Bool} (h : Kept s0 s) : KeptO s0 (State.beginSum s d r l elems merging) := by
  unfold State.beginSum
  split
  · exact KeptO.none
  · rename_i e
    exact KeptO.some (State.failReq_kept (State.sumRoom_kept h _ (.inr e)))
  · rename_i e
    exact KeptO.map (State.startSum_kept (State.sumRoom_kept h _ (.inl e))) (fun t ht => State.contribute_kept ht)

theorem State.serveHeld_kept {s0 : State} {s : State} {d : Nat} {r : MemReq} {l : SLine} (h : Kept s0 s) : KeptO s0 (State.serveHeld s d r l) := by
  unfold State.serveHeld
  repeat' first
    | with_reducible assumption
    | (extract_lets +onlyGivenNames x; refine (fun (hx : Kept s0 x) => ?_) ?_; (on_goal 2 => unfold x; clear x); (on_goal 1 => clear_value x))
    | (extract_lets +onlyGivenNames x; clear_value x)
    | extract_lets +onlyGivenNames x
    | with_reducible exact KeptO.none
    | with_reducible apply KeptO.some
    | with_reducible apply KeptO.ite
    | with_reducible apply State.waitMiss_kept
    | with_reducible apply State.ackWrite_kept
    | with_reducible apply State.setSlice_kept
    | with_reducible apply State.contribute_kept
    | with_reducible apply State.access_kept
    | with_reducible apply State.discardSum_kept
    | with_reducible apply State.closeSum_kept
    | with_reducible apply State.missLine_kept
    | with_reducible apply State.beginSum_kept
    | split

theorem State.enterHome_kept {s0 : State} {s : State} {d : Nat} {p : Nat} {l : SLine} (h : Kept s0 s) : KeptO s0 (State.enterHome s d p l) := by
  unfold State.enterHome
  exact KeptO.map_pair (State.allocWay_kept h) (fun a t ht => State.enterLine_kept ht)

theorem State.leaveSide_kept {s0 : State} {s : State} {d : Nat} {p : Nat} {line : Nat} {data : LineData} (h : Kept s0 s) : KeptO s0 (State.leaveSide s d p line data) := by
  unfold State.leaveSide
  repeat' first
    | with_reducible assumption
    | (extract_lets +onlyGivenNames x; clear_value x)
    | extract_lets +onlyGivenNames x
    | with_reducible apply State.enterHome_kept
    | with_reducible apply State.setSlice_kept

theorem State.takeHostLine_kept {s0 : State} {s : State} {d : Nat} {p : Nat} {line : Nat} (h : Kept s0 s) : KeptO s0 (State.takeHostLine s d p line) := by
  unfold State.takeHostLine
  repeat' first
    | with_reducible assumption
    | extract_lets +onlyGivenNames x
    | with_reducible exact KeptO.none
    | with_reducible apply KeptO.ite
    | with_reducible apply State.hostLine_kept
    | with_reducible apply State.enterHome_kept

theorem State.dropPrefetch_kept {s0 : State} {s : State} {r : MemReq} (h : Kept s0 s) : Kept s0 (State.dropPrefetch s r) := by
  unfold State.dropPrefetch
  repeat' first
    | with_reducible assumption
    | (extract_lets +onlyGivenNames x; clear_value x)
    | with_reducible apply State.setArr_kept

theorem State.serveAbsent_kept {s0 : State} {s : State} {d : Nat} {r : MemReq} (h : Kept s0 s) : KeptO s0 (State.serveAbsent s d r) := by
  unfold State.serveAbsent
  repeat' first
    | with_reducible assumption
    | (intro t (ht : Kept s0 t))
    | (extract_lets +onlyGivenNames x; clear_value x)
    | extract_lets +onlyGivenNames x
    | with_reducible exact KeptO.none
    | with_reducible apply KeptO.some
    | with_reducible apply KeptO.ite
    | with_reducible apply State.takeHostLine_kept
    | with_reducible apply State.access_kept
    | with_reducible apply State.failReq_kept
    | with_reducible apply State.allocWay_kept
    | with_reducible apply State.contribute_kept
    | with_reducible apply State.startSum_kept
    | with_reducible apply State.placeLine_kept
    | with_reducible apply State.complete_kept
    | with_reducible apply State.enterHome_kept
    | with_reducible apply State.discardSum_kept
    | with_reducible apply State.ackWrite_kept
    | with_reducible apply State.chargeLine_kept
    | with_reducible apply State.askRead_kept
    | with_reducible apply State.setSlice_kept
    | with_reducible apply State.dropPrefetch_kept
    | with_reducible apply State.missLine_kept
    | with_reducible apply KeptO.map
    | split
    | (refine State.sumRoom_kept ?_ _ (Or.inl (by assumption)); assumption)
    | (refine State.sumRoom_kept ?_ _ (Or.inr (by assumption)); assumption)
    | (with_reducible apply KeptO.map_any; intro a)
    | (with_reducible eapply Kept.of_some; focus assumption)
    | (with_reducible eapply Kept.of_some_snd; focus assumption)

theorem State.serve_kept {s0 : State} {s : State} {d : Nat} {r : MemReq} (h : Kept s0 s) : KeptO s0 (State.serve s d r) := by
  unfold State.serve
  repeat' first
    | with_reducible assumption
    | (intro t (ht : Kept s0 t))
    | (extract_lets +onlyGivenNames x; refine (fun (hx : KeptO s0 x) => ?_) ?_; (on_goal 2 => unfold x; clear x); (on_goal 1 => clear_value x))
    | (extract_lets +onlyGivenNames x; clear_value x)
    | extract_lets +onlyGivenNames x
    | with_reducible exact KeptO.none
    | with_reducible apply KeptO.some
    | with_reducible apply KeptO.ite
    | with_reducible apply State.serveHeld_kept
    | with_reducible apply State.leaveSide_kept
    | with_reducible apply State.serveAbsent_kept
    | with_reducible apply KeptO.bind
    | split

theorem State.homeFault_kept {s0 : State} {s : State} {d : Nat} {p : Nat} {addr : Nat} (h : Kept s0 s) : Kept s0 (State.homeFault s d p addr) := by
  unfold State.homeFault
  repeat' first
    | with_reducible assumption
    | (extract_lets +onlyGivenNames x; clear_value x)
    | with_reducible apply State.raise_kept

theorem State.serveChecked_kept {s0 : State} {s : State} {d : Nat} {r : MemReq} {fails : Bool} (h : Kept s0 s) : KeptO s0 (State.serveChecked s d r fails) := by
  unfold State.serveChecked
  repeat' first
    | with_reducible assumption
    | extract_lets +onlyGivenNames x
    | with_reducible exact KeptO.none
    | with_reducible apply KeptO.some
    | with_reducible apply KeptO.ite
    | with_reducible apply State.serve_kept
    | with_reducible apply State.homeFault_kept
    | with_reducible apply State.complete_kept
    | split
    | (with_reducible eapply Kept.of_some; focus assumption)

theorem State.serveAll_kept {s0 : State} {d : Nat} {failed : List Nat} {ok : State → MemReq → Bool} {bad : State → MemReq → State} {x0 : List MemReq} {x1 : State} (h : Kept s0 x1) (hbad : ∀ t y0, Kept s0 t → Kept s0 (bad t y0)) : Kept s0 (State.serveAll d failed ok bad x0 x1) := by
  induction x0 generalizing x1 with
  | nil =>
    unfold State.serveAll
    repeat' with_reducible assumption
  | cons a l ih =>
    unfold State.serveAll
    repeat' first
      | with_reducible assumption
      | with_reducible apply ih
      | extract_lets +onlyGivenNames x
      | with_reducible apply Kept.ite
      | with_reducible apply State.serveChecked_kept
      | with_reducible apply hbad
      | fail_if_no_progress with_reducible refine Kept.mk' ?_ rfl rfl rfl rfl rfl
      | split
      | (with_reducible eapply Kept.of_some; focus assumption)

theorem State.serveFilled_kept {s0 : State} {s : State} {d : Nat} {failed : List Nat} {waiters : List MemReq} (h : Kept s0 s) : Kept s0 (State.serveFilled s d failed waiters) := by
  unfold State.serveFilled
  repeat' first
    | with_reducible assumption
    | (intro t b (ht : Kept s0 t))
    | with_reducible apply State.serveAll_kept

theorem State.hcWrite_kept {s0 : State} {s : State} {p : Nat} {sl : Nat} {work : Nat} {line : Nat} {pasid : W32} {data : LineData} {mask : ByteMask} (h : Kept s0 s) : Kept s0 (State.hcWrite s p sl work line pasid data mask) := by
  unfold State.hcWrite
  repeat' first
    | with_reducible assumption
    | (extract_lets +onlyGivenNames x; clear_value x)
    | extract_lets +onlyGivenNames x
    | with_reducible apply Kept.ite
    | with_reducible apply State.logWrite_kept
    | with_reducible apply State.hostPost_kept
    | with_reducible apply State.storeLine_kept
    | with_reducible apply State.uncrowd_kept
    | with_reducible apply State.logDirty_kept
    | split

theorem State.writeHc_kept {s0 : State} {s : State} {p : Nat} {sl : Nat} {work : Nat} {addr : Nat} {n : Nat} {v : Nat} (h : Kept s0 s) : Kept s0 (State.writeHc s p sl work addr n v) := by
  unfold State.writeHc
  repeat' first
    | with_reducible assumption
    | (extract_lets +onlyGivenNames x; refine (fun (hx : Kept s0 x) => ?_) ?_; (on_goal 2 => unfold x; clear x); (on_goal 1 => clear_value x))
    | (extract_lets +onlyGivenNames x; clear_value x)
    | extract_lets +onlyGivenNames x
    | with_reducible apply Kept.ite
    | with_reducible apply State.takeHostLine_kept
    | with_reducible apply State.hcWrite_kept
    | with_reducible apply Kept.getD
    | split

theorem State.poisonReq_kept {s0 : State} {s : State} {r : MemReq} (h : Kept s0 s) : Kept s0 (State.poisonReq s r) := by
  unfold State.poisonReq
  repeat' first
    | with_reducible assumption
    | (intro t b (ht : Kept s0 t))
    | extract_lets +onlyGivenNames x
    | with_reducible apply poisonFault_kept
    | with_reducible apply State.complete_kept
    | with_reducible apply Kept.foldl

theorem State.answerPoison_kept {s0 : State} {s : State} {r : MemReq} (h : Kept s0 s) : Kept s0 (State.answerPoison s r) := by
  unfold State.answerPoison
  repeat' first
    | with_reducible assumption
    | (intro t b (ht : Kept s0 t))
    | (extract_lets +onlyGivenNames x; refine (fun (hx : Kept s0 x) => ?_) ?_; (on_goal 2 => unfold x; clear x); (on_goal 1 => clear_value x))
    | extract_lets +onlyGivenNames x
    | with_reducible apply State.freeVisitor_kept
    | with_reducible apply State.endMissL1_kept
    | with_reducible apply State.poisonReq_kept
    | with_reducible apply State.sendSide_kept
    | with_reducible apply Kept.foldl
    | split

theorem State.unfill_kept {s0 : State} {s : State} {d : Nat} {l : SLine} (h : Kept s0 s) : Kept s0 (State.unfill s d l) := by
  unfold State.unfill
  repeat' first
    | with_reducible assumption
    | with_reducible apply State.setSlice_kept

theorem State.answerReleased_kept {s0 : State} {s : State} {r : MemReq} (h : Kept s0 s) : Kept s0 (State.answerReleased s r) := by
  unfold State.answerReleased
  repeat' first
    | with_reducible assumption
    | extract_lets +onlyGivenNames x
    | with_reducible apply State.hostLine_kept
    | with_reducible apply State.freeVisitor_kept
    | with_reducible apply State.fillL1_kept
    | with_reducible apply State.sendSide_kept
    | with_reducible apply State.deliver_kept
    | split
    | (with_reducible eapply Kept.of_snd; focus assumption)

theorem State.fillHome_kept {s0 : State} {s : State} {d : Nat} {p : Nat} {line : Nat} {code : FillCode} {data : LineData} {failed : List Nat} (h : Kept s0 s) : Kept s0 (State.fillHome s d p line code data failed) := by
  unfold State.fillHome
  repeat' first
    | with_reducible assumption
    | (intro t b (ht : Kept s0 t))
    | (extract_lets +onlyGivenNames x; refine (fun (hx : Kept s0 x) => ?_) ?_; (on_goal 2 => unfold x; clear x); (on_goal 1 => clear_value x))
    | (extract_lets +onlyGivenNames x; clear_value x)
    | extract_lets +onlyGivenNames x
    | with_reducible apply State.setSlice_kept
    | with_reducible apply State.serveFilled_kept
    | with_reducible apply State.takeSpill_kept
    | with_reducible apply State.storeLine_kept
    | with_reducible apply State.serveAll_kept
    | with_reducible apply State.answerPoison_kept
    | with_reducible apply State.unfill_kept
    | with_reducible apply State.answerReleased_kept
    | split

theorem State.killLineAt_kept {s0 : State} {s : State} {p : Nat} {line : Nat} (h : Kept s0 s) : Kept s0 (State.killLineAt s p line) := by
  unfold State.killLineAt
  repeat' first
    | with_reducible assumption
    | (extract_lets +onlyGivenNames x; refine (fun (hx : Kept s0 x) => ?_) ?_; (on_goal 2 => unfold x; clear x); (on_goal 1 => clear_value x))
    | (extract_lets +onlyGivenNames x; clear_value x)
    | extract_lets +onlyGivenNames x
    | with_reducible apply Kept.ite
    | with_reducible apply State.setSlice_kept
    | with_reducible apply State.serve_kept
    | with_reducible apply State.discardSum_kept
    | with_reducible apply State.memPut_kept
    | split
    | (with_reducible eapply Kept.of_some; focus assumption)

theorem State.takeVisitor_kept {s0 : State} {s : State} {r : MemReq} (h : Kept s0 s) : KeptO s0 (State.takeVisitor s r) := by
  unfold State.takeVisitor
  repeat' first
    | with_reducible assumption
    | (extract_lets +onlyGivenNames x; clear_value x)
    | extract_lets +onlyGivenNames x
    | with_reducible exact KeptO.none
    | with_reducible apply KeptO.some
    | with_reducible apply KeptO.ite
    | with_reducible apply State.setSlice_kept

theorem State.countHit_kept {s0 : State} {s : State} {d : Nat} {x0 : Option Nat} (h : Kept s0 s) : Kept s0 (State.countHit s d x0) := by
  unfold State.countHit
  repeat' first
    | with_reducible assumption
    | with_reducible apply State.sliceCount_kept
    | split

end Sys2Proof.Machine
end

