-- ==== Sys2Proof/Laws/KeptWork.lean ====
section
/-! SUPPORT. What the operations of Machine/Work.lean keep. -/

namespace Sys2Proof.Machine

set_option linter.tactic.unusedName false

theorem State.discardBlocks_kept {s0 : State} {s : State} {id : Nat} (h : Kept s0 s) : Kept s0 (State.discardBlocks s id) := by
  unfold State.discardBlocks
  repeat' first
    | with_reducible assumption
    | (intro t b (ht : Kept s0 t))
    | extract_lets +onlyGivenNames x
    | with_reducible apply State.setArr_kept
    | with_reducible apply Kept.foldl

theorem State.modWork_kept {s0 : State} {s : State} {id : Nat} {f : Work → Work} (h : Kept s0 s) : Kept s0 (State.modWork s id f) := by
  unfold State.modWork
  repeat' first
    | with_reducible assumption
    | fail_if_no_progress with_reducible refine Kept.mk' ?_ rfl rfl rfl rfl rfl

theorem State.stopLaunch_kept {s0 : State} {s : State} {id : Nat} {why : StopWhy} (h : Kept s0 s) : Kept s0 (State.stopLaunch s id why) := by
  unfold State.stopLaunch
  repeat' first
    | with_reducible assumption
    | (intro t b (ht : Kept s0 t))
    | (extract_lets +onlyGivenNames x; refine (fun (hx : Kept s0 x) => ?_) ?_; (on_goal 2 => unfold x; clear x); (on_goal 1 => clear_value x))
    | (extract_lets +onlyGivenNames x; clear_value x)
    | extract_lets +onlyGivenNames x
    | with_reducible apply Kept.ite
    | with_reducible apply State.modWork_kept
    | with_reducible apply State.setBit_kept
    | with_reducible apply State.setArr_kept
    | with_reducible apply Kept.foldl
    | split

theorem State.phUsers_kept {s0 : State} {s : State} {p : Nat} {h' : Nat} {up : Bool} (h : Kept s0 s) : Kept s0 (State.phUsers s p h' up) := by
  unfold State.phUsers
  repeat' first
    | with_reducible assumption
    | (extract_lets +onlyGivenNames x; clear_value x)
    | with_reducible apply State.setField_kept

theorem State.setMailbag_kept {s0 : State} {s : State} {port : Nat} {m : Nat} {x : Mailbag} (h : Kept s0 s) : Kept s0 (State.setMailbag s port m x) := by
  unfold State.setMailbag
  repeat' first
    | with_reducible assumption
    | fail_if_no_progress with_reducible refine Kept.mk' ?_ rfl rfl rfl rfl rfl

theorem State.partCount_kept {s0 : State} {s : State} {p : Nat} {i : Nat} (h : Kept s0 s) : Kept s0 (State.partCount s p i) := by
  unfold State.partCount
  repeat' first
    | with_reducible assumption
    | with_reducible apply State.count_kept

theorem State.finish_kept {s0 : State} {s : State} {id : Nat} {silent : Bool} {f : Work → Receipt} (h : Kept s0 s) : Kept s0 (State.finish s id silent f) := by
  unfold State.finish
  repeat' first
    | with_reducible assumption
    | (extract_lets +onlyGivenNames x; refine (fun (hx : Kept s0 x) => ?_) ?_; (on_goal 2 => unfold x; clear x); (on_goal 1 => clear_value x))
    | (extract_lets +onlyGivenNames x; clear_value x)
    | extract_lets +onlyGivenNames x
    | with_reducible apply Kept.ite
    | with_reducible apply State.phUsers_kept
    | with_reducible apply State.modWork_kept
    | with_reducible apply State.setMailbag_kept
    | with_reducible apply State.partCount_kept
    | split

theorem State.addPend_kept {s0 : State} {s : State} {r : MemReq} {nregs : Nat} {isStore : Bool} (h : Kept s0 s) : Kept s0 (State.addPend s r nregs isStore) := by
  unfold State.addPend
  repeat' first
    | with_reducible assumption
    | (extract_lets +onlyGivenNames x; clear_value x)
    | with_reducible apply State.setGroup_kept
    | split

theorem State.hostStore_kept {s0 : State} {s : State} {pasid : W32} {r : MemReq} (h : Kept s0 s) : Kept s0 (State.hostStore s pasid r) := by
  unfold State.hostStore
  repeat' first
    | with_reducible assumption
    | (extract_lets +onlyGivenNames x; refine (fun (hx : Kept s0 x) => ?_) ?_; (on_goal 2 => unfold x; clear x); (on_goal 1 => clear_value x))
    | (extract_lets +onlyGivenNames x; clear_value x)
    | extract_lets +onlyGivenNames x
    | with_reducible apply Kept.ite
    | with_reducible apply State.hostWrite_kept
    | with_reducible apply State.setGroup_kept
    | with_reducible apply State.addPend_kept
    | split

theorem State.queuePath_kept {s0 : State} {s : State} {r : MemReq} (h : Kept s0 s) : Kept s0 (State.queuePath s r) := by
  unfold State.queuePath
  repeat' first
    | with_reducible assumption
    | (extract_lets +onlyGivenNames x; clear_value x)
    | with_reducible apply State.setArr_kept

theorem State.storeOrWait_kept {s0 : State} {s : State} {r : MemReq} (h : Kept s0 s) : Kept s0 (State.storeOrWait s r) := by
  unfold State.storeOrWait
  repeat' first
    | with_reducible assumption
    | extract_lets +onlyGivenNames x
    | with_reducible apply State.storeL1_kept
    | with_reducible apply State.queuePath_kept
    | with_reducible apply State.addPend_kept
    | split
    | (with_reducible eapply Kept.of_some; focus assumption)

theorem State.releaseStore_kept {s0 : State} {s : State} {scope : Nat} {r : MemReq} (h : Kept s0 s) : Kept s0 (State.releaseStore s scope r) := by
  unfold State.releaseStore
  repeat' first
    | with_reducible assumption
    | (extract_lets +onlyGivenNames x; refine (fun (hx : Kept s0 x) => ?_) ?_; (on_goal 2 => unfold x; clear x); (on_goal 1 => clear_value x))
    | (extract_lets +onlyGivenNames x; clear_value x)
    | extract_lets +onlyGivenNames x
    | with_reducible apply Kept.ite
    | with_reducible apply State.hostStore_kept
    | with_reducible apply State.storeOrWait_kept
    | with_reducible apply State.setArr_kept
    | with_reducible apply State.sendReq_kept
    | with_reducible apply State.addPend_kept

theorem State.finishOrder_kept {s0 : State} {s : State} {ga : Nat} {slot : Nat} {o : OrderOp} (h : Kept s0 s) : Kept s0 (State.finishOrder s ga slot o) := by
  unfold State.finishOrder
  repeat' first
    | with_reducible assumption
    | (intro t b (ht : Kept s0 t))
    | (extract_lets +onlyGivenNames x; refine (fun (hx : Kept s0 x) => ?_) ?_; (on_goal 2 => unfold x; clear x); (on_goal 1 => clear_value x))
    | extract_lets +onlyGivenNames x
    | with_reducible apply Kept.ite
    | with_reducible apply State.setGroup_kept
    | with_reducible apply State.acquire_kept
    | with_reducible apply State.releaseStore_kept
    | with_reducible apply Kept.foldl
    | split

theorem State.refuse_kept {s0 : State} {s : State} {id : Nat} {reason : Nat} (h : Kept s0 s) : Kept s0 (State.refuse s id reason) := by
  unfold State.refuse
  repeat' first
    | with_reducible assumption
    | with_reducible apply State.finish_kept

theorem State.serve1_kept {s0 : State} {s : State} {id : Nat} {detail : Nat} (h : Kept s0 s) : Kept s0 (State.serve1 s id detail) := by
  unfold State.serve1
  repeat' first
    | with_reducible assumption
    | with_reducible apply State.finish_kept

theorem State.releaseArray_kept {s0 : State} {s : State} {ga : Nat} {id : Nat} (h : Kept s0 s) : Kept s0 (State.releaseArray s ga id) := by
  unfold State.releaseArray
  repeat' first
    | with_reducible assumption
    | extract_lets +onlyGivenNames x
    | with_reducible apply Kept.ite
    | with_reducible apply State.modWork_kept
    | split

theorem State.faulted_kept {s0 : State} {s : State} {id : Nat} {fault : W32} {unit : W32} (h : Kept s0 s) : Kept s0 (State.faulted s id fault unit) := by
  unfold State.faulted
  repeat' first
    | with_reducible assumption
    | with_reducible apply State.finish_kept

theorem State.progressClosing_kept {s0 : State} {s : State} (h : Kept s0 s) : Kept s0 (State.progressClosing s) := by
  unfold State.progressClosing
  repeat' first
    | with_reducible assumption
    | (intro t b (ht : Kept s0 t))
    | (extract_lets +onlyGivenNames x; refine (fun (hx : Kept s0 x) => ?_) ?_; (on_goal 2 => unfold x; clear x); (on_goal 1 => clear_value x))
    | (extract_lets +onlyGivenNames x; clear_value x)
    | extract_lets +onlyGivenNames x
    | with_reducible apply Kept.ite
    | with_reducible apply State.acquire_kept
    | with_reducible apply State.modWork_kept
    | with_reducible apply State.faulted_kept
    | with_reducible apply State.serve1_kept
    | with_reducible apply Kept.foldl
    | split

theorem State.askFlush_kept {s0 : State} {s : State} {p : Nat} {ga : Nat} {slot : Nat} {id : Nat} {sl : Nat} {pasid : W32} (h : Kept s0 s) : Kept s0 (State.askFlush s p ga slot id sl pasid) := by
  unfold State.askFlush
  repeat' first
    | with_reducible assumption
    | (extract_lets +onlyGivenNames x; clear_value x)
    | with_reducible apply State.setPort_kept

theorem State.beginClosing_kept {s0 : State} {s : State} {id : Nat} (h : Kept s0 s) : Kept s0 (State.beginClosing s id) := by
  unfold State.beginClosing
  repeat' first
    | with_reducible assumption
    | (intro t b (ht : Kept s0 t))
    | (extract_lets +onlyGivenNames x; refine (fun (hx : Kept s0 x) => ?_) ?_; (on_goal 2 => unfold x; clear x); (on_goal 1 => clear_value x))
    | extract_lets +onlyGivenNames x
    | with_reducible apply Kept.ite
    | with_reducible apply State.modWork_kept
    | with_reducible apply State.pushL1_kept
    | with_reducible apply State.askFlush_kept
    | with_reducible apply Kept.foldl
    | split

theorem State.retireBlock_kept {s0 : State} {s : State} {ga : Nat} {bs : Nat} (h : Kept s0 s) : Kept s0 (State.retireBlock s ga bs) := by
  unfold State.retireBlock
  repeat' first
    | with_reducible assumption
    | (extract_lets +onlyGivenNames x; refine (fun (hx : Kept s0 x) => ?_) ?_; (on_goal 2 => unfold x; clear x); (on_goal 1 => clear_value x))
    | (extract_lets +onlyGivenNames x; clear_value x)
    | extract_lets +onlyGivenNames x
    | with_reducible apply Kept.ite
    | with_reducible apply State.setArr_kept
    | with_reducible apply State.modWork_kept
    | with_reducible apply State.releaseArray_kept
    | with_reducible apply State.progressClosing_kept
    | with_reducible apply State.beginClosing_kept
    | split

theorem State.afterIssue_kept {s0 : State} {s : State} {ga : Nat} {slot : Nat} {bs : Nat} (h : Kept s0 s) : Kept s0 (State.afterIssue s ga slot bs) := by
  unfold State.afterIssue
  repeat' first
    | with_reducible assumption
    | (extract_lets +onlyGivenNames x; refine (fun (hx : Kept s0 x) => ?_) ?_; (on_goal 2 => unfold x; clear x); (on_goal 1 => clear_value x))
    | (extract_lets +onlyGivenNames x; clear_value x)
    | extract_lets +onlyGivenNames x
    | with_reducible apply Kept.ite
    | with_reducible apply State.setArr_kept
    | with_reducible apply State.retireBlock_kept
    | split

theorem State.progressOrder_kept {s0 : State} {s : State} {ga : Nat} {slot : Nat} {o : OrderOp} (h : Kept s0 s) : Kept s0 (State.progressOrder s ga slot o) := by
  unfold State.progressOrder
  repeat' first
    | with_reducible assumption
    | (extract_lets +onlyGivenNames x; clear_value x)
    | extract_lets +onlyGivenNames x
    | with_reducible apply Kept.ite
    | with_reducible apply State.askFlush_kept
    | with_reducible apply State.setGroup_kept
    | with_reducible apply State.finishOrder_kept
    | split

theorem State.progressArr_kept {s0 : State} {s : State} {ga : Nat} (h : Kept s0 s) : Kept s0 (State.progressArr s ga) := by
  unfold State.progressArr
  repeat' first
    | with_reducible assumption
    | (intro t b (ht : Kept s0 t))
    | extract_lets +onlyGivenNames x
    | with_reducible apply State.progressOrder_kept
    | with_reducible apply Kept.foldl

theorem State.cancelled_kept {s0 : State} {s : State} {id : Nat} {reason : Nat} (h : Kept s0 s) : Kept s0 (State.cancelled s id reason) := by
  unfold State.cancelled
  repeat' first
    | with_reducible assumption
    | with_reducible apply State.finish_kept

theorem State.interim_kept {s0 : State} {s : State} {r : Receipt} {k : Work} (h : Kept s0 s) : Kept s0 (State.interim s r k) := by
  unfold State.interim
  repeat' first
    | with_reducible assumption
    | (extract_lets +onlyGivenNames x; clear_value x)
    | extract_lets +onlyGivenNames x
    | with_reducible apply State.setMailbag_kept

end Sys2Proof.Machine
end

