-- ==== Sys2Proof/Laws/KeptParity.lean ====
section
/-! SUPPORT. What the operations of Machine/Parity.lean keep. -/

namespace Sys2Proof.Machine

set_option linter.tactic.unusedName false

theorem State.icacheUpset_kept {s0 : State} {s : State} {ga : Nat} {line : Nat} (h : Kept s0 s) : Kept s0 (State.icacheUpset s ga line) := by
  unfold State.icacheUpset
  repeat' first
    | with_reducible assumption
    | (extract_lets +onlyGivenNames x; clear_value x)
    | extract_lets +onlyGivenNames x
    | with_reducible apply Kept.ite
    | with_reducible apply State.raise_kept
    | with_reducible apply State.setArr_kept

theorem State.noteParity_kept {s0 : State} {s : State} {d : Nat} {i : Nat} {addr : Nat} {place : Nat} (h : Kept s0 s) : Kept s0 (State.noteParity s d i addr place) := by
  unfold State.noteParity
  repeat' first
    | with_reducible assumption
    | (intro t b (ht : Kept s0 t))
    | (extract_lets +onlyGivenNames x; refine (fun (hx : Kept s0 x) => ?_) ?_; (on_goal 2 => unfold x; clear x); (on_goal 1 => clear_value x))
    | extract_lets +onlyGivenNames x
    | with_reducible apply Kept.ite
    | with_reducible apply State.atBase_kept
    | with_reducible apply State.setReg_kept
    | with_reducible apply State.setLatch_kept
    | with_reducible apply State.setBit_kept

theorem State.cacheParity_kept {s0 : State} {s : State} {d : Nat} {p : Nat} {unit : W32} {code : Nat} {i : Nat} {addr : Nat} {place : Nat} (h : Kept s0 s) : Kept s0 (State.cacheParity s d p unit code i addr place) := by
  unfold State.cacheParity
  repeat' first
    | with_reducible assumption
    | (extract_lets +onlyGivenNames x; clear_value x)
    | extract_lets +onlyGivenNames x
    | with_reducible apply State.raise_kept
    | with_reducible apply State.noteParity_kept

theorem State.l1MissUpset_kept {s0 : State} {s : State} {ga : Nat} {p : Nat} {line : Nat} (h : Kept s0 s) : Kept s0 (State.l1MissUpset s ga p line) := by
  unfold State.l1MissUpset
  repeat' first
    | with_reducible assumption
    | extract_lets +onlyGivenNames x
    | with_reducible apply Kept.ite
    | with_reducible apply State.cacheParity_kept

theorem State.groupUpset_kept {s0 : State} {s : State} {c : Ctx} {isMem : Bool} {u : Upset} (h : Kept s0 s) : Kept s0 (State.groupUpset s c isMem u).1 := by
  unfold State.groupUpset
  repeat' first
    | with_reducible assumption
    | (extract_lets +onlyGivenNames x; clear_value x)
    | extract_lets +onlyGivenNames x
    | with_reducible apply blockFault_kept
    | with_reducible apply State.icacheUpset_kept
    | with_reducible apply State.noteParity_kept
    | with_reducible apply State.cacheParity_kept
    | with_reducible apply State.setArr_kept
    | with_reducible apply State.l1MissUpset_kept
    | with_reducible apply State.setSlice_kept
    | split

theorem State.homeUpset_kept {s0 : State} {s : State} {d : Nat} {p : Nat} {killed : Option Nat} {u : HomeUpset} (h : Kept s0 s) : Kept s0 (State.homeUpset s d p killed u).1 := by
  unfold State.homeUpset
  repeat' first
    | with_reducible assumption
    | (extract_lets +onlyGivenNames x; clear_value x)
    | extract_lets +onlyGivenNames x
    | with_reducible apply State.cacheParity_kept
    | with_reducible apply State.setSlice_kept
    | with_reducible apply State.l1MissUpset_kept
    | split

theorem State.withUpset_kept {s0 : State} {s : State} {d : Nat} {p : Nat} {killed : Option Nat} {u : Option HomeUpset} {f : State → State} (h : Kept s0 s) (hf : ∀ t , Kept s0 t → Kept s0 (f t)) : Kept s0 (State.withUpset s d p killed u f) := by
  unfold State.withUpset
  repeat' first
    | with_reducible assumption
    | extract_lets +onlyGivenNames x
    | with_reducible apply Kept.ite
    | with_reducible apply State.homeUpset_kept
    | with_reducible apply hf
    | split

end Sys2Proof.Machine
end

