-- ==== Sys2Proof/Laws/KeptIssue.lean ====
section
/-! SUPPORT. What the operations of Machine/Issue.lean keep. -/

namespace Sys2Proof.Machine

set_option linter.tactic.unusedName false

theorem State.answer_kept {s0 : State} {s : State} {status : Nat} {data : List Nat} (h : Kept s0 s) : Kept s0 (State.answer s status data) := by
  unfold State.answer
  repeat' first
    | with_reducible assumption
    | fail_if_no_progress with_reducible refine Kept.mk' ?_ rfl rfl rfl rfl rfl

theorem Sem.meet_kept {s0 : State} {m : Sem} {s : State} {c : Ctx} {w : Fields} {u : Upset} (h : Kept s0 s) (_hm : SemKept m) : Kept s0 (Sem.meet m s c w u).1 := by
  unfold Sem.meet
  repeat' first
    | with_reducible assumption
    | with_reducible apply State.groupUpset_kept
    | split

theorem State.issued_kept {s0 : State} {s : State} {ga : Nat} {slot : Nat} {used : Nat} (h : Kept s0 s) : Kept s0 (State.issued s ga slot used) := by
  unfold State.issued
  repeat' first
    | with_reducible assumption
    | (intro t b (ht : Kept s0 t))
    | (extract_lets +onlyGivenNames x; refine (fun (hx : Kept s0 x) => ?_) ?_; (on_goal 2 => unfold x; clear x); (on_goal 1 => clear_value x))
    | (extract_lets +onlyGivenNames x; clear_value x)
    | extract_lets +onlyGivenNames x
    | with_reducible apply State.setArr_kept
    | with_reducible apply State.atBase_kept
    | with_reducible apply State.count_kept

theorem State.occupy_kept {s0 : State} {s : State} {m : Sem} {ga : Nat} {q : Nat} {cs : List Ctx} {w : Fields} (h : Kept s0 s) (_hm : SemKept m) : Kept s0 (State.occupy s m ga q cs w) := by
  unfold State.occupy
  repeat' first
    | with_reducible assumption
    | (extract_lets +onlyGivenNames x; clear_value x)
    | with_reducible apply State.setArr_kept

theorem Sem.perform_kept {s0 : State} {m : Sem} {s : State} {c : Ctx} {w : Fields} {d : Desc} (h : Kept s0 s) (hm : SemKept m) : Kept s0 (Sem.perform m s c w d) := by
  unfold Sem.perform
  repeat' first
    | with_reducible assumption
    | (extract_lets +onlyGivenNames x; clear_value x)
    | extract_lets +onlyGivenNames x
    | with_reducible apply State.setGroup_kept
    | with_reducible refine hm.eff _ _ ?_

theorem State.waitCollective_kept {s0 : State} {s : State} {c : Ctx} (h : Kept s0 s) : Kept s0 (State.waitCollective s c) := by
  unfold State.waitCollective
  repeat' first
    | with_reducible assumption
    | (extract_lets +onlyGivenNames x; clear_value x)
    | with_reducible apply State.setGroup_kept

theorem State.setDbg_kept {s0 : State} {s : State} {p : Nat} {x : Dbg} (h : Kept s0 s) : Kept s0 (State.setDbg s p x) := by
  unfold State.setDbg
  repeat' first
    | with_reducible assumption
    | fail_if_no_progress with_reducible refine Kept.mk' ?_ rfl rfl rfl rfl rfl

theorem State.dbgEvent_kept {s0 : State} {s : State} {p : Nat} {ga : Nat} {slot : Nat} {cause : Nat} {brk : Nat} {pc : W64} (h : Kept s0 s) : Kept s0 (State.dbgEvent s p ga slot cause brk pc) := by
  unfold State.dbgEvent
  repeat' first
    | with_reducible assumption
    | (extract_lets +onlyGivenNames x; clear_value x)
    | extract_lets +onlyGivenNames x
    | with_reducible apply Kept.ite
    | with_reducible apply State.setBit_kept
    | with_reducible apply State.setDbg_kept

theorem State.holdGroup_kept {s0 : State} {s : State} {p : Nat} {ga : Nat} {slot : Nat} (h : Kept s0 s) : Kept s0 (State.holdGroup s p ga slot) := by
  unfold State.holdGroup
  repeat' first
    | with_reducible assumption
    | (extract_lets +onlyGivenNames x; refine (fun (hx : Kept s0 x) => ?_) ?_; (on_goal 2 => unfold x; clear x); (on_goal 1 => clear_value x))
    | (extract_lets +onlyGivenNames x; clear_value x)
    | extract_lets +onlyGivenNames x
    | with_reducible apply Kept.ite
    | with_reducible apply State.setGroup_kept
    | with_reducible apply State.setDbg_kept
    | split

theorem State.haltFor_kept {s0 : State} {s : State} {c : Ctx} {cause : Nat} {brk : Nat} (h : Kept s0 s) : Kept s0 (State.haltFor s c cause brk) := by
  unfold State.haltFor
  repeat' first
    | with_reducible assumption
    | extract_lets +onlyGivenNames x
    | with_reducible apply State.dbgEvent_kept
    | with_reducible apply State.holdGroup_kept

theorem Sem.issueAt_kept {s0 : State} {m : Sem} {s : State} {c : Ctx} {w : Fields} {breaks : Bool} (h : Kept s0 s) (hm : SemKept m) : Kept s0 (Sem.issueAt m s c w breaks) := by
  unfold Sem.issueAt
  repeat' first
    | with_reducible assumption
    | extract_lets +onlyGivenNames x
    | with_reducible apply State.afterIssue_kept
    | with_reducible apply State.issued_kept
    | with_reducible apply State.occupy_kept
    | with_reducible apply Sem.perform_kept
    | with_reducible apply blockFault_kept
    | with_reducible apply State.waitCollective_kept
    | with_reducible apply State.haltFor_kept
    | split

theorem Sem.issueNow_kept {s0 : State} {m : Sem} {g : GRef} {w : Fields} {s : State} (h : Kept s0 s) (hm : SemKept m) : Kept s0 (Sem.issueNow m g w s) := by
  unfold Sem.issueNow
  repeat' first
    | with_reducible assumption
    | with_reducible apply Sem.issueAt_kept
    | split

theorem Sem.issue_kept {s0 : State} {m : Sem} {g : GRef} {w : Fields} {s : State} (h : Kept s0 s) (hm : SemKept m) : Kept s0 (Sem.issue m g w s) := by
  unfold Sem.issue
  repeat' first
    | with_reducible assumption
    | extract_lets +onlyGivenNames x
    | with_reducible apply Kept.ite
    | with_reducible apply Sem.meet_kept
    | with_reducible apply Sem.issueNow_kept
    | split

theorem Sem.regs_kept {op : Nat} {desc : Fields → Option Desc} {f : Ctx → Fields → Group} : SemKept (Sem.regs op desc f) := by
  exact ⟨fun c w h => State.setGroup_kept h⟩

theorem State.reply_kept {s0 : State} {s : State} {p : Nat} {op : Nat} {status : Nat} {data : List Nat} (h : Kept s0 s) : Kept s0 (State.reply s p op status data) := by
  unfold State.reply
  repeat' first
    | with_reducible assumption
    | (extract_lets +onlyGivenNames x; refine (fun (hx : Kept s0 x) => ?_) ?_; (on_goal 2 => unfold x; clear x); (on_goal 1 => clear_value x))
    | (extract_lets +onlyGivenNames x; clear_value x)
    | extract_lets +onlyGivenNames x
    | with_reducible apply Kept.ite
    | with_reducible apply State.setDbg_kept
    | fail_if_no_progress with_reducible refine Kept.mk' ?_ rfl rfl rfl rfl rfl

theorem State.opaqueBytes_kept {s0 : State} {s : State} {n : Nat} (h : Kept s0 s) : Kept s0 (State.opaqueBytes s n).2 := by
  unfold State.opaqueBytes
  repeat' first
    | with_reducible assumption
    | with_reducible apply State.draw_kept

end Sys2Proof.Machine
end

