-- ==== Sys2Proof/Laws/KeptInteger.lean ====
section
/-! SUPPORT. What the operations of Machine/Integer.lean keep. -/

namespace Sys2Proof.Machine

set_option linter.tactic.unusedName false

theorem intSem_kept {op : Nat} {n : Nat} {sat : Bool} {f : Fields → Nat → Nat → Nat → Nat} : SemKept (intSem op n sat f) := by
  unfold intSem
  first
    | apply Sem.regs_kept

theorem subOpSem_kept : SemKept (subOpSem) := by
  unfold subOpSem
  first
    | apply Sem.regs_kept

theorem execSubOp_kept {s0 : State} {g : GRef} {w : Fields} {s : State} (h : Kept s0 s) : KeptX s0 (execSubOp g w s) := by
  unfold execSubOp
  repeat' first
    | with_reducible assumption
    | extract_lets +onlyGivenNames x
    | with_reducible apply KeptX.next
    | with_reducible apply Sem.issue_kept
    | with_reducible apply subOpSem_kept

theorem bfeSem_kept : SemKept (bfeSem) := by
  unfold bfeSem
  first
    | apply Sem.regs_kept

theorem setpSem_kept : SemKept (setpSem) := by
  unfold setpSem
  first
    | apply Sem.regs_kept

theorem execSetp_kept {s0 : State} {g : GRef} {w : Fields} {s : State} (h : Kept s0 s) : KeptX s0 (execSetp g w s) := by
  unfold execSetp
  repeat' first
    | with_reducible assumption
    | extract_lets +onlyGivenNames x
    | with_reducible apply KeptX.next
    | with_reducible apply Sem.issue_kept
    | with_reducible apply setpSem_kept

theorem addOpSem_kept : SemKept (addOpSem) := by
  unfold addOpSem
  first
    | apply Sem.regs_kept

theorem mulLoSem_kept : SemKept (mulLoSem) := by
  unfold mulLoSem
  first
    | apply Sem.regs_kept

theorem mulHiSem_kept : SemKept (mulHiSem) := by
  unfold mulHiSem
  first
    | apply Sem.regs_kept

theorem madLoSem_kept : SemKept (madLoSem) := by
  unfold madLoSem
  first
    | apply Sem.regs_kept

theorem divOpSem_kept : SemKept (divOpSem) := by
  unfold divOpSem
  first
    | apply Sem.regs_kept

theorem remSem_kept : SemKept (remSem) := by
  unfold remSem
  first
    | apply Sem.regs_kept

theorem minOpSem_kept : SemKept (minOpSem) := by
  unfold minOpSem
  first
    | apply Sem.regs_kept

theorem maxOpSem_kept : SemKept (maxOpSem) := by
  unfold maxOpSem
  first
    | apply Sem.regs_kept

theorem absOpSem_kept : SemKept (absOpSem) := by
  unfold absOpSem
  first
    | apply Sem.regs_kept

theorem negOpSem_kept : SemKept (negOpSem) := by
  unfold negOpSem
  first
    | apply Sem.regs_kept

theorem andOpSem_kept : SemKept (andOpSem) := by
  unfold andOpSem
  first
    | apply Sem.regs_kept

theorem orOpSem_kept : SemKept (orOpSem) := by
  unfold orOpSem
  first
    | apply Sem.regs_kept

theorem xorOpSem_kept : SemKept (xorOpSem) := by
  unfold xorOpSem
  first
    | apply Sem.regs_kept

theorem notOpSem_kept : SemKept (notOpSem) := by
  unfold notOpSem
  first
    | apply Sem.regs_kept

theorem shlSem_kept : SemKept (shlSem) := by
  unfold shlSem
  first
    | apply Sem.regs_kept

theorem shrSem_kept : SemKept (shrSem) := by
  unfold shrSem
  first
    | apply Sem.regs_kept

theorem sarSem_kept : SemKept (sarSem) := by
  unfold sarSem
  first
    | apply Sem.regs_kept

theorem popcSem_kept : SemKept (popcSem) := by
  unfold popcSem
  first
    | apply Sem.regs_kept

theorem clzSem_kept : SemKept (clzSem) := by
  unfold clzSem
  first
    | apply Sem.regs_kept

theorem brevSem_kept : SemKept (brevSem) := by
  unfold brevSem
  first
    | apply Sem.regs_kept

theorem bfiSem_kept : SemKept (bfiSem) := by
  unfold bfiSem
  first
    | apply Sem.regs_kept

theorem movSem_kept : SemKept (movSem) := by
  unfold movSem
  first
    | apply Sem.regs_kept

theorem selpSem_kept : SemKept (selpSem) := by
  unfold selpSem
  first
    | apply Sem.regs_kept

theorem plopSem_kept : SemKept (plopSem) := by
  unfold plopSem
  first
    | apply Sem.regs_kept

theorem cvtSem_kept : SemKept (cvtSem) := by
  unfold cvtSem
  first
    | apply Sem.regs_kept

theorem execXorOp_kept {s0 : State} {g : GRef} {w : Fields} {s : State} (h : Kept s0 s) : KeptX s0 (execXorOp g w s) := by
  unfold execXorOp
  repeat' first
    | with_reducible assumption
    | extract_lets +onlyGivenNames x
    | with_reducible apply KeptX.next
    | with_reducible apply Sem.issue_kept
    | with_reducible apply xorOpSem_kept

theorem execClz_kept {s0 : State} {g : GRef} {w : Fields} {s : State} (h : Kept s0 s) : KeptX s0 (execClz g w s) := by
  unfold execClz
  repeat' first
    | with_reducible assumption
    | extract_lets +onlyGivenNames x
    | with_reducible apply KeptX.next
    | with_reducible apply Sem.issue_kept
    | with_reducible apply clzSem_kept

theorem execNotOp_kept {s0 : State} {g : GRef} {w : Fields} {s : State} (h : Kept s0 s) : KeptX s0 (execNotOp g w s) := by
  unfold execNotOp
  repeat' first
    | with_reducible assumption
    | extract_lets +onlyGivenNames x
    | with_reducible apply KeptX.next
    | with_reducible apply Sem.issue_kept
    | with_reducible apply notOpSem_kept

theorem execCvt_kept {s0 : State} {g : GRef} {w : Fields} {s : State} (h : Kept s0 s) : KeptX s0 (execCvt g w s) := by
  unfold execCvt
  repeat' first
    | with_reducible assumption
    | extract_lets +onlyGivenNames x
    | with_reducible apply KeptX.next
    | with_reducible apply Sem.issue_kept
    | with_reducible apply cvtSem_kept

theorem execNegOp_kept {s0 : State} {g : GRef} {w : Fields} {s : State} (h : Kept s0 s) : KeptX s0 (execNegOp g w s) := by
  unfold execNegOp
  repeat' first
    | with_reducible assumption
    | extract_lets +onlyGivenNames x
    | with_reducible apply KeptX.next
    | with_reducible apply Sem.issue_kept
    | with_reducible apply negOpSem_kept

theorem execAbsOp_kept {s0 : State} {g : GRef} {w : Fields} {s : State} (h : Kept s0 s) : KeptX s0 (execAbsOp g w s) := by
  unfold execAbsOp
  repeat' first
    | with_reducible assumption
    | extract_lets +onlyGivenNames x
    | with_reducible apply KeptX.next
    | with_reducible apply Sem.issue_kept
    | with_reducible apply absOpSem_kept

theorem execShr_kept {s0 : State} {g : GRef} {w : Fields} {s : State} (h : Kept s0 s) : KeptX s0 (execShr g w s) := by
  unfold execShr
  repeat' first
    | with_reducible assumption
    | extract_lets +onlyGivenNames x
    | with_reducible apply KeptX.next
    | with_reducible apply Sem.issue_kept
    | with_reducible apply shrSem_kept

theorem execMov_kept {s0 : State} {g : GRef} {w : Fields} {s : State} (h : Kept s0 s) : KeptX s0 (execMov g w s) := by
  unfold execMov
  repeat' first
    | with_reducible assumption
    | extract_lets +onlyGivenNames x
    | with_reducible apply KeptX.next
    | with_reducible apply Sem.issue_kept
    | with_reducible apply movSem_kept

theorem execSar_kept {s0 : State} {g : GRef} {w : Fields} {s : State} (h : Kept s0 s) : KeptX s0 (execSar g w s) := by
  unfold execSar
  repeat' first
    | with_reducible assumption
    | extract_lets +onlyGivenNames x
    | with_reducible apply KeptX.next
    | with_reducible apply Sem.issue_kept
    | with_reducible apply sarSem_kept

theorem execMulHi_kept {s0 : State} {g : GRef} {w : Fields} {s : State} (h : Kept s0 s) : KeptX s0 (execMulHi g w s) := by
  unfold execMulHi
  repeat' first
    | with_reducible assumption
    | extract_lets +onlyGivenNames x
    | with_reducible apply KeptX.next
    | with_reducible apply Sem.issue_kept
    | with_reducible apply mulHiSem_kept

theorem execOrOp_kept {s0 : State} {g : GRef} {w : Fields} {s : State} (h : Kept s0 s) : KeptX s0 (execOrOp g w s) := by
  unfold execOrOp
  repeat' first
    | with_reducible assumption
    | extract_lets +onlyGivenNames x
    | with_reducible apply KeptX.next
    | with_reducible apply Sem.issue_kept
    | with_reducible apply orOpSem_kept

theorem execBfe_kept {s0 : State} {g : GRef} {w : Fields} {s : State} (h : Kept s0 s) : KeptX s0 (execBfe g w s) := by
  unfold execBfe
  repeat' first
    | with_reducible assumption
    | extract_lets +onlyGivenNames x
    | with_reducible apply KeptX.next
    | with_reducible apply Sem.issue_kept
    | with_reducible apply bfeSem_kept

theorem execPlop_kept {s0 : State} {g : GRef} {w : Fields} {s : State} (h : Kept s0 s) : KeptX s0 (execPlop g w s) := by
  unfold execPlop
  repeat' first
    | with_reducible assumption
    | extract_lets +onlyGivenNames x
    | with_reducible apply KeptX.next
    | with_reducible apply Sem.issue_kept
    | with_reducible apply plopSem_kept

theorem execBfi_kept {s0 : State} {g : GRef} {w : Fields} {s : State} (h : Kept s0 s) : KeptX s0 (execBfi g w s) := by
  unfold execBfi
  repeat' first
    | with_reducible assumption
    | extract_lets +onlyGivenNames x
    | with_reducible apply KeptX.next
    | with_reducible apply Sem.issue_kept
    | with_reducible apply bfiSem_kept

theorem execAddOp_kept {s0 : State} {g : GRef} {w : Fields} {s : State} (h : Kept s0 s) : KeptX s0 (execAddOp g w s) := by
  unfold execAddOp
  repeat' first
    | with_reducible assumption
    | extract_lets +onlyGivenNames x
    | with_reducible apply KeptX.next
    | with_reducible apply Sem.issue_kept
    | with_reducible apply addOpSem_kept

theorem execMulLo_kept {s0 : State} {g : GRef} {w : Fields} {s : State} (h : Kept s0 s) : KeptX s0 (execMulLo g w s) := by
  unfold execMulLo
  repeat' first
    | with_reducible assumption
    | extract_lets +onlyGivenNames x
    | with_reducible apply KeptX.next
    | with_reducible apply Sem.issue_kept
    | with_reducible apply mulLoSem_kept

theorem execMadLo_kept {s0 : State} {g : GRef} {w : Fields} {s : State} (h : Kept s0 s) : KeptX s0 (execMadLo g w s) := by
  unfold execMadLo
  repeat' first
    | with_reducible assumption
    | extract_lets +onlyGivenNames x
    | with_reducible apply KeptX.next
    | with_reducible apply Sem.issue_kept
    | with_reducible apply madLoSem_kept

theorem execDivOp_kept {s0 : State} {g : GRef} {w : Fields} {s : State} (h : Kept s0 s) : KeptX s0 (execDivOp g w s) := by
  unfold execDivOp
  repeat' first
    | with_reducible assumption
    | extract_lets +onlyGivenNames x
    | with_reducible apply KeptX.next
    | with_reducible apply Sem.issue_kept
    | with_reducible apply divOpSem_kept

theorem execRem_kept {s0 : State} {g : GRef} {w : Fields} {s : State} (h : Kept s0 s) : KeptX s0 (execRem g w s) := by
  unfold execRem
  repeat' first
    | with_reducible assumption
    | extract_lets +onlyGivenNames x
    | with_reducible apply KeptX.next
    | with_reducible apply Sem.issue_kept
    | with_reducible apply remSem_kept

theorem execMinOp_kept {s0 : State} {g : GRef} {w : Fields} {s : State} (h : Kept s0 s) : KeptX s0 (execMinOp g w s) := by
  unfold execMinOp
  repeat' first
    | with_reducible assumption
    | extract_lets +onlyGivenNames x
    | with_reducible apply KeptX.next
    | with_reducible apply Sem.issue_kept
    | with_reducible apply minOpSem_kept

theorem execMaxOp_kept {s0 : State} {g : GRef} {w : Fields} {s : State} (h : Kept s0 s) : KeptX s0 (execMaxOp g w s) := by
  unfold execMaxOp
  repeat' first
    | with_reducible assumption
    | extract_lets +onlyGivenNames x
    | with_reducible apply KeptX.next
    | with_reducible apply Sem.issue_kept
    | with_reducible apply maxOpSem_kept

theorem execAndOp_kept {s0 : State} {g : GRef} {w : Fields} {s : State} (h : Kept s0 s) : KeptX s0 (execAndOp g w s) := by
  unfold execAndOp
  repeat' first
    | with_reducible assumption
    | extract_lets +onlyGivenNames x
    | with_reducible apply KeptX.next
    | with_reducible apply Sem.issue_kept
    | with_reducible apply andOpSem_kept

theorem execShl_kept {s0 : State} {g : GRef} {w : Fields} {s : State} (h : Kept s0 s) : KeptX s0 (execShl g w s) := by
  unfold execShl
  repeat' first
    | with_reducible assumption
    | extract_lets +onlyGivenNames x
    | with_reducible apply KeptX.next
    | with_reducible apply Sem.issue_kept
    | with_reducible apply shlSem_kept

theorem execPopc_kept {s0 : State} {g : GRef} {w : Fields} {s : State} (h : Kept s0 s) : KeptX s0 (execPopc g w s) := by
  unfold execPopc
  repeat' first
    | with_reducible assumption
    | extract_lets +onlyGivenNames x
    | with_reducible apply KeptX.next
    | with_reducible apply Sem.issue_kept
    | with_reducible apply popcSem_kept

theorem execBrev_kept {s0 : State} {g : GRef} {w : Fields} {s : State} (h : Kept s0 s) : KeptX s0 (execBrev g w s) := by
  unfold execBrev
  repeat' first
    | with_reducible assumption
    | extract_lets +onlyGivenNames x
    | with_reducible apply KeptX.next
    | with_reducible apply Sem.issue_kept
    | with_reducible apply brevSem_kept

theorem execSelp_kept {s0 : State} {g : GRef} {w : Fields} {s : State} (h : Kept s0 s) : KeptX s0 (execSelp g w s) := by
  unfold execSelp
  repeat' first
    | with_reducible assumption
    | extract_lets +onlyGivenNames x
    | with_reducible apply KeptX.next
    | with_reducible apply Sem.issue_kept
    | with_reducible apply selpSem_kept

end Sys2Proof.Machine
end

