-- ==== Sys2Proof/Laws/KeptFloat.lean ====
section
/-! SUPPORT. What the operations of Machine/Float.lean keep. -/

namespace Sys2Proof.Machine

set_option linter.tactic.unusedName false

theorem fpSem_kept {op : Nat} {n : Nat} {rounds : Bool} {f : Nat → Bool → Nat → Nat → Nat → Nat × FFlags} : SemKept (fpSem op n rounds f) := by
  exact ⟨fun c w h => State.setGroup_kept h⟩

theorem rcpF32Sem_kept : SemKept (rcpF32Sem) := by
  unfold rcpF32Sem
  first
    | apply fpSem_kept

theorem execRcpF32_kept {s0 : State} {g : GRef} {w : Fields} {s : State} (h : Kept s0 s) : KeptX s0 (execRcpF32 g w s) := by
  unfold execRcpF32
  repeat' first
    | with_reducible assumption
    | extract_lets +onlyGivenNames x
    | with_reducible apply KeptX.next
    | with_reducible apply Sem.issue_kept
    | with_reducible apply rcpF32Sem_kept

theorem setpF32Sem_kept : SemKept (setpF32Sem) := by
  unfold setpF32Sem
  first
    | apply Sem.regs_kept

theorem execSetpF32_kept {s0 : State} {g : GRef} {w : Fields} {s : State} (h : Kept s0 s) : KeptX s0 (execSetpF32 g w s) := by
  unfold execSetpF32
  repeat' first
    | with_reducible assumption
    | extract_lets +onlyGivenNames x
    | with_reducible apply KeptX.next
    | with_reducible apply Sem.issue_kept
    | with_reducible apply setpF32Sem_kept

theorem addF32Sem_kept : SemKept (addF32Sem) := by
  unfold addF32Sem
  first
    | apply Sem.regs_kept

theorem subF32Sem_kept : SemKept (subF32Sem) := by
  unfold subF32Sem
  first
    | apply Sem.regs_kept

theorem mulF32Sem_kept : SemKept (mulF32Sem) := by
  unfold mulF32Sem
  first
    | apply Sem.regs_kept

theorem fmaF32Sem_kept : SemKept (fmaF32Sem) := by
  unfold fmaF32Sem
  first
    | apply Sem.regs_kept

theorem minF32Sem_kept : SemKept (minF32Sem) := by
  unfold minF32Sem
  first
    | apply Sem.regs_kept

theorem maxF32Sem_kept : SemKept (maxF32Sem) := by
  unfold maxF32Sem
  first
    | apply Sem.regs_kept

theorem absF32Sem_kept : SemKept (absF32Sem) := by
  unfold absF32Sem
  first
    | apply Sem.regs_kept

theorem negF32Sem_kept : SemKept (negF32Sem) := by
  unfold negF32Sem
  first
    | apply Sem.regs_kept

theorem rsqrtF32Sem_kept : SemKept (rsqrtF32Sem) := by
  unfold rsqrtF32Sem
  first
    | apply fpSem_kept

theorem sqrtF32Sem_kept : SemKept (sqrtF32Sem) := by
  unfold sqrtF32Sem
  first
    | apply fpSem_kept

theorem ex2F32Sem_kept : SemKept (ex2F32Sem) := by
  unfold ex2F32Sem
  first
    | apply fpSem_kept

theorem lg2F32Sem_kept : SemKept (lg2F32Sem) := by
  unfold lg2F32Sem
  first
    | apply fpSem_kept

theorem addBf16x2Sem_kept : SemKept (addBf16x2Sem) := by
  unfold addBf16x2Sem
  first
    | apply Sem.regs_kept

theorem mulBf16x2Sem_kept : SemKept (mulBf16x2Sem) := by
  unfold mulBf16x2Sem
  first
    | apply Sem.regs_kept

theorem fmaBf16x2Sem_kept : SemKept (fmaBf16x2Sem) := by
  unfold fmaBf16x2Sem
  first
    | apply Sem.regs_kept

theorem minBf16x2Sem_kept : SemKept (minBf16x2Sem) := by
  unfold minBf16x2Sem
  first
    | apply Sem.regs_kept

theorem maxBf16x2Sem_kept : SemKept (maxBf16x2Sem) := by
  unfold maxBf16x2Sem
  first
    | apply Sem.regs_kept

theorem addF16x2Sem_kept : SemKept (addF16x2Sem) := by
  unfold addF16x2Sem
  first
    | apply Sem.regs_kept

theorem mulF16x2Sem_kept : SemKept (mulF16x2Sem) := by
  unfold mulF16x2Sem
  first
    | apply Sem.regs_kept

theorem fmaF16x2Sem_kept : SemKept (fmaF16x2Sem) := by
  unfold fmaF16x2Sem
  first
    | apply Sem.regs_kept

theorem minF16x2Sem_kept : SemKept (minF16x2Sem) := by
  unfold minF16x2Sem
  first
    | apply Sem.regs_kept

theorem maxF16x2Sem_kept : SemKept (maxF16x2Sem) := by
  unfold maxF16x2Sem
  first
    | apply Sem.regs_kept

theorem execMaxBf16x2_kept {s0 : State} {g : GRef} {w : Fields} {s : State} (h : Kept s0 s) : KeptX s0 (execMaxBf16x2 g w s) := by
  unfold execMaxBf16x2
  repeat' first
    | with_reducible assumption
    | extract_lets +onlyGivenNames x
    | with_reducible apply KeptX.next
    | with_reducible apply Sem.issue_kept
    | with_reducible apply maxBf16x2Sem_kept

theorem execAddF16x2_kept {s0 : State} {g : GRef} {w : Fields} {s : State} (h : Kept s0 s) : KeptX s0 (execAddF16x2 g w s) := by
  unfold execAddF16x2
  repeat' first
    | with_reducible assumption
    | extract_lets +onlyGivenNames x
    | with_reducible apply KeptX.next
    | with_reducible apply Sem.issue_kept
    | with_reducible apply addF16x2Sem_kept

theorem execAddF32_kept {s0 : State} {g : GRef} {w : Fields} {s : State} (h : Kept s0 s) : KeptX s0 (execAddF32 g w s) := by
  unfold execAddF32
  repeat' first
    | with_reducible assumption
    | extract_lets +onlyGivenNames x
    | with_reducible apply KeptX.next
    | with_reducible apply Sem.issue_kept
    | with_reducible apply addF32Sem_kept

theorem execAddBf16x2_kept {s0 : State} {g : GRef} {w : Fields} {s : State} (h : Kept s0 s) : KeptX s0 (execAddBf16x2 g w s) := by
  unfold execAddBf16x2
  repeat' first
    | with_reducible assumption
    | extract_lets +onlyGivenNames x
    | with_reducible apply KeptX.next
    | with_reducible apply Sem.issue_kept
    | with_reducible apply addBf16x2Sem_kept

theorem execRsqrtF32_kept {s0 : State} {g : GRef} {w : Fields} {s : State} (h : Kept s0 s) : KeptX s0 (execRsqrtF32 g w s) := by
  unfold execRsqrtF32
  repeat' first
    | with_reducible assumption
    | extract_lets +onlyGivenNames x
    | with_reducible apply KeptX.next
    | with_reducible apply Sem.issue_kept
    | with_reducible apply rsqrtF32Sem_kept

theorem execMulF32_kept {s0 : State} {g : GRef} {w : Fields} {s : State} (h : Kept s0 s) : KeptX s0 (execMulF32 g w s) := by
  unfold execMulF32
  repeat' first
    | with_reducible assumption
    | extract_lets +onlyGivenNames x
    | with_reducible apply KeptX.next
    | with_reducible apply Sem.issue_kept
    | with_reducible apply mulF32Sem_kept

theorem execMulBf16x2_kept {s0 : State} {g : GRef} {w : Fields} {s : State} (h : Kept s0 s) : KeptX s0 (execMulBf16x2 g w s) := by
  unfold execMulBf16x2
  repeat' first
    | with_reducible assumption
    | extract_lets +onlyGivenNames x
    | with_reducible apply KeptX.next
    | with_reducible apply Sem.issue_kept
    | with_reducible apply mulBf16x2Sem_kept

theorem execEx2F32_kept {s0 : State} {g : GRef} {w : Fields} {s : State} (h : Kept s0 s) : KeptX s0 (execEx2F32 g w s) := by
  unfold execEx2F32
  repeat' first
    | with_reducible assumption
    | extract_lets +onlyGivenNames x
    | with_reducible apply KeptX.next
    | with_reducible apply Sem.issue_kept
    | with_reducible apply ex2F32Sem_kept

theorem execMinF16x2_kept {s0 : State} {g : GRef} {w : Fields} {s : State} (h : Kept s0 s) : KeptX s0 (execMinF16x2 g w s) := by
  unfold execMinF16x2
  repeat' first
    | with_reducible assumption
    | extract_lets +onlyGivenNames x
    | with_reducible apply KeptX.next
    | with_reducible apply Sem.issue_kept
    | with_reducible apply minF16x2Sem_kept

theorem execFmaF16x2_kept {s0 : State} {g : GRef} {w : Fields} {s : State} (h : Kept s0 s) : KeptX s0 (execFmaF16x2 g w s) := by
  unfold execFmaF16x2
  repeat' first
    | with_reducible assumption
    | extract_lets +onlyGivenNames x
    | with_reducible apply KeptX.next
    | with_reducible apply Sem.issue_kept
    | with_reducible apply fmaF16x2Sem_kept

theorem execSubF32_kept {s0 : State} {g : GRef} {w : Fields} {s : State} (h : Kept s0 s) : KeptX s0 (execSubF32 g w s) := by
  unfold execSubF32
  repeat' first
    | with_reducible assumption
    | extract_lets +onlyGivenNames x
    | with_reducible apply KeptX.next
    | with_reducible apply Sem.issue_kept
    | with_reducible apply subF32Sem_kept

theorem execFmaF32_kept {s0 : State} {g : GRef} {w : Fields} {s : State} (h : Kept s0 s) : KeptX s0 (execFmaF32 g w s) := by
  unfold execFmaF32
  repeat' first
    | with_reducible assumption
    | extract_lets +onlyGivenNames x
    | with_reducible apply KeptX.next
    | with_reducible apply Sem.issue_kept
    | with_reducible apply fmaF32Sem_kept

theorem execMinF32_kept {s0 : State} {g : GRef} {w : Fields} {s : State} (h : Kept s0 s) : KeptX s0 (execMinF32 g w s) := by
  unfold execMinF32
  repeat' first
    | with_reducible assumption
    | extract_lets +onlyGivenNames x
    | with_reducible apply KeptX.next
    | with_reducible apply Sem.issue_kept
    | with_reducible apply minF32Sem_kept

theorem execMaxF32_kept {s0 : State} {g : GRef} {w : Fields} {s : State} (h : Kept s0 s) : KeptX s0 (execMaxF32 g w s) := by
  unfold execMaxF32
  repeat' first
    | with_reducible assumption
    | extract_lets +onlyGivenNames x
    | with_reducible apply KeptX.next
    | with_reducible apply Sem.issue_kept
    | with_reducible apply maxF32Sem_kept

theorem execAbsF32_kept {s0 : State} {g : GRef} {w : Fields} {s : State} (h : Kept s0 s) : KeptX s0 (execAbsF32 g w s) := by
  unfold execAbsF32
  repeat' first
    | with_reducible assumption
    | extract_lets +onlyGivenNames x
    | with_reducible apply KeptX.next
    | with_reducible apply Sem.issue_kept
    | with_reducible apply absF32Sem_kept

theorem execNegF32_kept {s0 : State} {g : GRef} {w : Fields} {s : State} (h : Kept s0 s) : KeptX s0 (execNegF32 g w s) := by
  unfold execNegF32
  repeat' first
    | with_reducible assumption
    | extract_lets +onlyGivenNames x
    | with_reducible apply KeptX.next
    | with_reducible apply Sem.issue_kept
    | with_reducible apply negF32Sem_kept

theorem execSqrtF32_kept {s0 : State} {g : GRef} {w : Fields} {s : State} (h : Kept s0 s) : KeptX s0 (execSqrtF32 g w s) := by
  unfold execSqrtF32
  repeat' first
    | with_reducible assumption
    | extract_lets +onlyGivenNames x
    | with_reducible apply KeptX.next
    | with_reducible apply Sem.issue_kept
    | with_reducible apply sqrtF32Sem_kept

theorem execLg2F32_kept {s0 : State} {g : GRef} {w : Fields} {s : State} (h : Kept s0 s) : KeptX s0 (execLg2F32 g w s) := by
  unfold execLg2F32
  repeat' first
    | with_reducible assumption
    | extract_lets +onlyGivenNames x
    | with_reducible apply KeptX.next
    | with_reducible apply Sem.issue_kept
    | with_reducible apply lg2F32Sem_kept

theorem execFmaBf16x2_kept {s0 : State} {g : GRef} {w : Fields} {s : State} (h : Kept s0 s) : KeptX s0 (execFmaBf16x2 g w s) := by
  unfold execFmaBf16x2
  repeat' first
    | with_reducible assumption
    | extract_lets +onlyGivenNames x
    | with_reducible apply KeptX.next
    | with_reducible apply Sem.issue_kept
    | with_reducible apply fmaBf16x2Sem_kept

theorem execMinBf16x2_kept {s0 : State} {g : GRef} {w : Fields} {s : State} (h : Kept s0 s) : KeptX s0 (execMinBf16x2 g w s) := by
  unfold execMinBf16x2
  repeat' first
    | with_reducible assumption
    | extract_lets +onlyGivenNames x
    | with_reducible apply KeptX.next
    | with_reducible apply Sem.issue_kept
    | with_reducible apply minBf16x2Sem_kept

theorem execMulF16x2_kept {s0 : State} {g : GRef} {w : Fields} {s : State} (h : Kept s0 s) : KeptX s0 (execMulF16x2 g w s) := by
  unfold execMulF16x2
  repeat' first
    | with_reducible assumption
    | extract_lets +onlyGivenNames x
    | with_reducible apply KeptX.next
    | with_reducible apply Sem.issue_kept
    | with_reducible apply mulF16x2Sem_kept

theorem execMaxF16x2_kept {s0 : State} {g : GRef} {w : Fields} {s : State} (h : Kept s0 s) : KeptX s0 (execMaxF16x2 g w s) := by
  unfold execMaxF16x2
  repeat' first
    | with_reducible assumption
    | extract_lets +onlyGivenNames x
    | with_reducible apply KeptX.next
    | with_reducible apply Sem.issue_kept
    | with_reducible apply maxF16x2Sem_kept

end Sys2Proof.Machine
end

