-- ==== Sys2Proof/Laws/KeptControl.lean ====
section
/-! SUPPORT. What the operations of Machine/Control.lean keep. -/

namespace Sys2Proof.Machine

set_option linter.tactic.unusedName false

theorem State.branch_kept {s0 : State} {s : State} {c : Ctx} {w : Fields} {target : Nat → W64} (h : Kept s0 s) : Kept s0 (State.branch s c w target) := by
  unfold State.branch
  repeat' first
    | with_reducible assumption
    | (extract_lets +onlyGivenNames x; clear_value x)
    | extract_lets +onlyGivenNames x
    | with_reducible apply State.setGroup_kept
    | with_reducible apply State.newId_kept
    | split

theorem brxSem_kept : SemKept (brxSem) := by
  unfold brxSem
  refine ⟨fun {s0 s} c w h => ?_⟩
  dsimp only
  repeat' first
    | with_reducible assumption
    | with_reducible apply State.branch_kept

theorem callSem_kept : SemKept (callSem) := by
  unfold callSem
  refine ⟨fun {s0 s} c w h => ?_⟩
  dsimp only
  repeat' first
    | with_reducible assumption
    | with_reducible apply State.branch_kept

theorem execCall_kept {s0 : State} {g : GRef} {w : Fields} {s : State} (h : Kept s0 s) : KeptX s0 (execCall g w s) := by
  unfold execCall
  repeat' first
    | with_reducible assumption
    | extract_lets +onlyGivenNames x
    | with_reducible apply KeptX.next
    | with_reducible apply Sem.issue_kept
    | with_reducible apply callSem_kept

theorem State.foldPhase_kept {s0 : State} {s : State} {ga : Nat} (h : Kept s0 s) : Kept s0 (State.foldPhase s ga) := by
  unfold State.foldPhase
  repeat' first
    | with_reducible assumption
    | (extract_lets +onlyGivenNames x; clear_value x)
    | extract_lets +onlyGivenNames x
    | with_reducible apply Kept.ite
    | with_reducible apply State.setArr_kept
    | with_reducible apply State.setPart_kept
    | split

theorem leaPcSem_kept : SemKept (leaPcSem) := by
  unfold leaPcSem
  first
    | apply Sem.regs_kept

theorem fpflagsClrSem_kept : SemKept (fpflagsClrSem) := by
  unfold fpflagsClrSem
  first
    | apply Sem.regs_kept

theorem execFpflagsClr_kept {s0 : State} {g : GRef} {w : Fields} {s : State} (h : Kept s0 s) : KeptX s0 (execFpflagsClr g w s) := by
  unfold execFpflagsClr
  repeat' first
    | with_reducible assumption
    | extract_lets +onlyGivenNames x
    | with_reducible apply KeptX.next
    | with_reducible apply Sem.issue_kept
    | with_reducible apply fpflagsClrSem_kept

theorem State.arrive_kept {s0 : State} {s : State} {ga : Nat} {g : Group} {lanes : BitVec 32} {b : Nat} (h : Kept s0 s) : Kept s0 (State.arrive s ga g lanes b) := by
  unfold State.arrive
  repeat' first
    | with_reducible assumption
    | with_reducible apply State.setBlock_kept
    | split

theorem exitSem_kept : SemKept (exitSem) := by
  unfold exitSem
  refine ⟨fun {s0 s} c w h => ?_⟩
  dsimp only
  repeat' first
    | with_reducible assumption
    | with_reducible apply State.setGroup_kept

theorem execExitOp_kept {s0 : State} {g : GRef} {w : Fields} {s : State} (h : Kept s0 s) : KeptX s0 (execExitOp g w s) := by
  unfold execExitOp
  repeat' first
    | with_reducible assumption
    | extract_lets +onlyGivenNames x
    | with_reducible apply KeptX.next
    | with_reducible apply Sem.issue_kept
    | with_reducible apply exitSem_kept

theorem movSrSem_kept : SemKept (movSrSem) := by
  unfold movSrSem
  refine ⟨fun {s0 s} c w h => ?_⟩
  dsimp only
  repeat' first
    | with_reducible assumption
    | with_reducible apply State.setGroup_kept

theorem barArriveSem_kept : SemKept (barArriveSem) := by
  unfold barArriveSem
  refine ⟨fun {s0 s} c w h => ?_⟩
  dsimp only
  repeat' first
    | with_reducible assumption
    | with_reducible apply State.arrive_kept

theorem execBarArrive_kept {s0 : State} {g : GRef} {w : Fields} {s : State} (h : Kept s0 s) : KeptX s0 (execBarArrive g w s) := by
  unfold execBarArrive
  repeat' first
    | with_reducible assumption
    | extract_lets +onlyGivenNames x
    | with_reducible apply KeptX.next
    | with_reducible apply Sem.issue_kept
    | with_reducible apply barArriveSem_kept

theorem trapSem_kept : SemKept (trapSem) := by
  unfold trapSem
  refine ⟨fun {s0 s} c w h => ?_⟩
  dsimp only
  repeat' with_reducible assumption

theorem State.setPhase_kept {s0 : State} {s : State} {ga : Nat} {k : W64} {v : BitVec 16} (h : Kept s0 s) : Kept s0 (State.setPhase s ga k v) := by
  unfold State.setPhase
  repeat' first
    | with_reducible assumption
    | (extract_lets +onlyGivenNames x; refine (fun (hx : Kept s0 x) => ?_) ?_; (on_goal 2 => unfold x; clear x); (on_goal 1 => clear_value x))
    | (extract_lets +onlyGivenNames x; clear_value x)
    | with_reducible apply State.foldPhase_kept
    | with_reducible apply State.setArr_kept
    | with_reducible apply State.setPart_kept
    | split

theorem phaseSem_kept : SemKept (phaseSem) := by
  unfold phaseSem
  refine ⟨fun {s0 s} c w h => ?_⟩
  dsimp only
  repeat' first
    | with_reducible assumption
    | extract_lets +onlyGivenNames x
    | with_reducible apply Kept.ite
    | with_reducible apply State.setPhase_kept

theorem execPhase_kept {s0 : State} {g : GRef} {w : Fields} {s : State} (h : Kept s0 s) : KeptX s0 (execPhase g w s) := by
  unfold execPhase
  repeat' first
    | with_reducible assumption
    | extract_lets +onlyGivenNames x
    | with_reducible apply KeptX.next
    | with_reducible apply Sem.issue_kept
    | with_reducible apply phaseSem_kept

theorem nopSem_kept : SemKept (nopSem) := by
  unfold nopSem
  first
    | apply Sem.regs_kept

theorem yieldSem_kept : SemKept (yieldSem) := by
  unfold yieldSem
  refine ⟨fun {s0 s} c w h => ?_⟩
  dsimp only
  repeat' first
    | with_reducible assumption
    | with_reducible apply State.setGroup_kept

theorem timeReadSem_kept : SemKept (timeReadSem) := by
  unfold timeReadSem
  refine ⟨fun {s0 s} c w h => ?_⟩
  dsimp only
  repeat' first
    | with_reducible assumption
    | with_reducible apply State.setGroup_kept

theorem brkSem_kept : SemKept (brkSem) := by
  unfold brkSem
  refine ⟨fun {s0 s} c w h => ?_⟩
  dsimp only
  repeat' first
    | with_reducible assumption
    | extract_lets +onlyGivenNames x
    | with_reducible apply Kept.ite
    | with_reducible apply State.haltFor_kept

theorem braSem_kept : SemKept (braSem) := by
  unfold braSem
  refine ⟨fun {s0 s} c w h => ?_⟩
  dsimp only
  repeat' first
    | with_reducible assumption
    | with_reducible apply State.branch_kept

theorem barSyncSem_kept : SemKept (barSyncSem) := by
  unfold barSyncSem
  refine ⟨fun {s0 s} c w h => ?_⟩
  dsimp only
  repeat' first
    | with_reducible assumption
    | extract_lets +onlyGivenNames x
    | with_reducible apply State.arrive_kept
    | with_reducible apply State.setGroup_kept

theorem execLeaPc_kept {s0 : State} {g : GRef} {w : Fields} {s : State} (h : Kept s0 s) : KeptX s0 (execLeaPc g w s) := by
  unfold execLeaPc
  repeat' first
    | with_reducible assumption
    | extract_lets +onlyGivenNames x
    | with_reducible apply KeptX.next
    | with_reducible apply Sem.issue_kept
    | with_reducible apply leaPcSem_kept

theorem execBrk_kept {s0 : State} {g : GRef} {w : Fields} {s : State} (h : Kept s0 s) : KeptX s0 (execBrk g w s) := by
  unfold execBrk
  repeat' first
    | with_reducible assumption
    | extract_lets +onlyGivenNames x
    | with_reducible apply KeptX.next
    | with_reducible apply Sem.issue_kept
    | with_reducible apply brkSem_kept

theorem execNop_kept {s0 : State} {g : GRef} {w : Fields} {s : State} (h : Kept s0 s) : KeptX s0 (execNop g w s) := by
  unfold execNop
  repeat' first
    | with_reducible assumption
    | extract_lets +onlyGivenNames x
    | with_reducible apply KeptX.next
    | with_reducible apply Sem.issue_kept
    | with_reducible apply nopSem_kept

theorem execYield_kept {s0 : State} {g : GRef} {w : Fields} {s : State} (h : Kept s0 s) : KeptX s0 (execYield g w s) := by
  unfold execYield
  repeat' first
    | with_reducible assumption
    | extract_lets +onlyGivenNames x
    | with_reducible apply KeptX.next
    | with_reducible apply Sem.issue_kept
    | with_reducible apply yieldSem_kept

theorem execTimeRead_kept {s0 : State} {g : GRef} {w : Fields} {s : State} (h : Kept s0 s) : KeptX s0 (execTimeRead g w s) := by
  unfold execTimeRead
  repeat' first
    | with_reducible assumption
    | extract_lets +onlyGivenNames x
    | with_reducible apply KeptX.next
    | with_reducible apply Sem.issue_kept
    | with_reducible apply timeReadSem_kept

theorem execTrap_kept {s0 : State} {g : GRef} {w : Fields} {s : State} (h : Kept s0 s) : KeptX s0 (execTrap g w s) := by
  unfold execTrap
  repeat' first
    | with_reducible assumption
    | extract_lets +onlyGivenNames x
    | with_reducible apply KeptX.next
    | with_reducible apply Sem.issue_kept
    | with_reducible apply trapSem_kept

theorem execMovSr_kept {s0 : State} {g : GRef} {w : Fields} {s : State} (h : Kept s0 s) : KeptX s0 (execMovSr g w s) := by
  unfold execMovSr
  repeat' first
    | with_reducible assumption
    | extract_lets +onlyGivenNames x
    | with_reducible apply KeptX.next
    | with_reducible apply Sem.issue_kept
    | with_reducible apply movSrSem_kept

theorem execBra_kept {s0 : State} {g : GRef} {w : Fields} {s : State} (h : Kept s0 s) : KeptX s0 (execBra g w s) := by
  unfold execBra
  repeat' first
    | with_reducible assumption
    | extract_lets +onlyGivenNames x
    | with_reducible apply KeptX.next
    | with_reducible apply Sem.issue_kept
    | with_reducible apply braSem_kept

theorem execBrx_kept {s0 : State} {g : GRef} {w : Fields} {s : State} (h : Kept s0 s) : KeptX s0 (execBrx g w s) := by
  unfold execBrx
  repeat' first
    | with_reducible assumption
    | extract_lets +onlyGivenNames x
    | with_reducible apply KeptX.next
    | with_reducible apply Sem.issue_kept
    | with_reducible apply brxSem_kept

theorem execBarSync_kept {s0 : State} {g : GRef} {w : Fields} {s : State} (h : Kept s0 s) : KeptX s0 (execBarSync g w s) := by
  unfold execBarSync
  repeat' first
    | with_reducible assumption
    | extract_lets +onlyGivenNames x
    | with_reducible apply KeptX.next
    | with_reducible apply Sem.issue_kept
    | with_reducible apply barSyncSem_kept

end Sys2Proof.Machine
end

