-- ==== Sys2Proof/Laws/KeptMatrix.lean ====
section
/-! SUPPORT. What the operations of Machine/Matrix.lean keep. -/

namespace Sys2Proof.Machine

set_option linter.tactic.unusedName false

theorem cvtUnpackSem_kept : SemKept (cvtUnpackSem) := by
  unfold cvtUnpackSem
  first
    | apply Sem.regs_kept

theorem execCvtUnpack_kept {s0 : State} {g : GRef} {w : Fields} {s : State} (h : Kept s0 s) : KeptX s0 (execCvtUnpack g w s) := by
  unfold execCvtUnpack
  repeat' first
    | with_reducible assumption
    | extract_lets +onlyGivenNames x
    | with_reducible apply KeptX.next
    | with_reducible apply Sem.issue_kept
    | with_reducible apply cvtUnpackSem_kept

theorem mmaLedgerSem_kept : SemKept (mmaLedgerSem) := by
  unfold mmaLedgerSem
  refine ⟨fun {s0 s} c w h => ?_⟩
  dsimp only
  repeat' first
    | with_reducible assumption
    | with_reducible apply State.setArr_kept
    | split

theorem execMmaLedger_kept {s0 : State} {g : GRef} {w : Fields} {s : State} (h : Kept s0 s) : KeptX s0 (execMmaLedger g w s) := by
  unfold execMmaLedger
  repeat' first
    | with_reducible assumption
    | extract_lets +onlyGivenNames x
    | with_reducible apply KeptX.next
    | with_reducible apply Sem.issue_kept
    | with_reducible apply mmaLedgerSem_kept

theorem State.putTile_kept {s0 : State} {s : State} {c : Ctx} {w : Fields} {t : Tile} (h : Kept s0 s) : Kept s0 (State.putTile s c w t) := by
  unfold State.putTile
  repeat' first
    | with_reducible assumption
    | (extract_lets +onlyGivenNames x; clear_value x)
    | with_reducible apply State.setArr_kept

theorem State.onTile_kept {s0 : State} {s : State} {c : Ctx} {w : Fields} {f : Tile → Tile} (h : Kept s0 s) : Kept s0 (State.onTile s c w f) := by
  unfold State.onTile
  repeat' first
    | with_reducible assumption
    | with_reducible apply State.putTile_kept
    | split

theorem mxScaleSem_kept : SemKept (mxScaleSem) := by
  unfold mxScaleSem
  first
    | apply Sem.regs_kept

theorem ltileStatSem_kept : SemKept (ltileStatSem) := by
  unfold ltileStatSem
  refine ⟨fun {s0 s} c w h => ?_⟩
  dsimp only
  repeat' first
    | with_reducible assumption
    | with_reducible apply State.setGroup_kept
    | split

theorem execLtileStat_kept {s0 : State} {g : GRef} {w : Fields} {s : State} (h : Kept s0 s) : KeptX s0 (execLtileStat g w s) := by
  unfold execLtileStat
  repeat' first
    | with_reducible assumption
    | extract_lets +onlyGivenNames x
    | with_reducible apply KeptX.next
    | with_reducible apply Sem.issue_kept
    | with_reducible apply ltileStatSem_kept

theorem ltileWriteSem_kept : SemKept (ltileWriteSem) := by
  unfold ltileWriteSem
  refine ⟨fun {s0 s} c w h => ?_⟩
  dsimp only
  repeat' first
    | with_reducible assumption
    | with_reducible apply State.onTile_kept

theorem execLtileWrite_kept {s0 : State} {g : GRef} {w : Fields} {s : State} (h : Kept s0 s) : KeptX s0 (execLtileWrite g w s) := by
  unfold execLtileWrite
  repeat' first
    | with_reducible assumption
    | extract_lets +onlyGivenNames x
    | with_reducible apply KeptX.next
    | with_reducible apply Sem.issue_kept
    | with_reducible apply ltileWriteSem_kept

theorem State.closeTile_kept {s0 : State} {s : State} {c : Ctx} {w : Fields} (h : Kept s0 s) : Kept s0 (State.closeTile s c w) := by
  unfold State.closeTile
  repeat' first
    | with_reducible assumption
    | (extract_lets +onlyGivenNames x; clear_value x)
    | with_reducible apply State.setArr_kept

theorem ltileCloseSem_kept : SemKept (ltileCloseSem) := by
  unfold ltileCloseSem
  refine ⟨fun {s0 s} c w h => ?_⟩
  dsimp only
  repeat' first
    | with_reducible assumption
    | with_reducible apply State.closeTile_kept

theorem cvtPackSem_kept : SemKept (cvtPackSem) := by
  unfold cvtPackSem
  first
    | apply Sem.regs_kept

theorem execLtileClose_kept {s0 : State} {g : GRef} {w : Fields} {s : State} (h : Kept s0 s) : KeptX s0 (execLtileClose g w s) := by
  unfold execLtileClose
  repeat' first
    | with_reducible assumption
    | extract_lets +onlyGivenNames x
    | with_reducible apply KeptX.next
    | with_reducible apply Sem.issue_kept
    | with_reducible apply ltileCloseSem_kept

theorem mmaSem_kept : SemKept (mmaSem) := by
  unfold mmaSem
  exact ⟨fun c w h => State.setGroup_kept h⟩

theorem ltileOpenSem_kept : SemKept (ltileOpenSem) := by
  unfold ltileOpenSem
  refine ⟨fun {s0 s} c w h => ?_⟩
  dsimp only
  repeat' first
    | with_reducible assumption
    | with_reducible apply State.setArr_kept
    | with_reducible apply State.setGroup_kept
    | split

theorem ltileFlushSem_kept : SemKept (ltileFlushSem) := by
  unfold ltileFlushSem
  refine ⟨fun {s0 s} c w h => ?_⟩
  dsimp only
  repeat' first
    | with_reducible assumption
    | extract_lets +onlyGivenNames x
    | with_reducible apply Kept.ite
    | with_reducible apply State.setGroup_kept
    | with_reducible apply State.putTile_kept
    | with_reducible apply State.closeTile_kept
    | split

theorem ltileReadSem_kept : SemKept (ltileReadSem) := by
  unfold ltileReadSem
  refine ⟨fun {s0 s} c w h => ?_⟩
  dsimp only
  repeat' first
    | with_reducible assumption
    | with_reducible apply State.setGroup_kept
    | split

theorem execLtileOpen_kept {s0 : State} {g : GRef} {w : Fields} {s : State} (h : Kept s0 s) : KeptX s0 (execLtileOpen g w s) := by
  unfold execLtileOpen
  repeat' first
    | with_reducible assumption
    | extract_lets +onlyGivenNames x
    | with_reducible apply KeptX.next
    | with_reducible apply Sem.issue_kept
    | with_reducible apply ltileOpenSem_kept

theorem execMma_kept {s0 : State} {g : GRef} {w : Fields} {s : State} (h : Kept s0 s) : KeptX s0 (execMma g w s) := by
  unfold execMma
  repeat' first
    | with_reducible assumption
    | extract_lets +onlyGivenNames x
    | with_reducible apply KeptX.next
    | with_reducible apply Sem.issue_kept
    | with_reducible apply mmaSem_kept

theorem execLtileFlush_kept {s0 : State} {g : GRef} {w : Fields} {s : State} (h : Kept s0 s) : KeptX s0 (execLtileFlush g w s) := by
  unfold execLtileFlush
  repeat' first
    | with_reducible assumption
    | extract_lets +onlyGivenNames x
    | with_reducible apply KeptX.next
    | with_reducible apply Sem.issue_kept
    | with_reducible apply ltileFlushSem_kept

theorem execLtileRead_kept {s0 : State} {g : GRef} {w : Fields} {s : State} (h : Kept s0 s) : KeptX s0 (execLtileRead g w s) := by
  unfold execLtileRead
  repeat' first
    | with_reducible assumption
    | extract_lets +onlyGivenNames x
    | with_reducible apply KeptX.next
    | with_reducible apply Sem.issue_kept
    | with_reducible apply ltileReadSem_kept

theorem execCvtPack_kept {s0 : State} {g : GRef} {w : Fields} {s : State} (h : Kept s0 s) : KeptX s0 (execCvtPack g w s) := by
  unfold execCvtPack
  repeat' first
    | with_reducible assumption
    | extract_lets +onlyGivenNames x
    | with_reducible apply KeptX.next
    | with_reducible apply Sem.issue_kept
    | with_reducible apply cvtPackSem_kept

theorem execMxScale_kept {s0 : State} {g : GRef} {w : Fields} {s : State} (h : Kept s0 s) : KeptX s0 (execMxScale g w s) := by
  unfold execMxScale
  repeat' first
    | with_reducible assumption
    | extract_lets +onlyGivenNames x
    | with_reducible apply KeptX.next
    | with_reducible apply Sem.issue_kept
    | with_reducible apply mxScaleSem_kept

end Sys2Proof.Machine
end

