-- ==== Sys2Proof/Laws/KeptExchange.lean ====
section
/-! SUPPORT. What the operations of Machine/Exchange.lean keep. -/

namespace Sys2Proof.Machine

set_option linter.tactic.unusedName false

theorem shflSem_kept {op : Nat} {src : Nat → Nat → Option Nat} : SemKept (shflSem op src) := by
  unfold shflSem
  first
    | apply Sem.regs_kept

theorem shflUpSem_kept : SemKept (shflUpSem) := by
  unfold shflUpSem
  first
    | apply Sem.regs_kept

theorem voteAllSem_kept : SemKept (voteAllSem) := by
  unfold voteAllSem
  first
    | apply Sem.regs_kept

theorem execVoteAll_kept {s0 : State} {g : GRef} {w : Fields} {s : State} (h : Kept s0 s) : KeptX s0 (execVoteAll g w s) := by
  unfold execVoteAll
  repeat' first
    | with_reducible assumption
    | extract_lets +onlyGivenNames x
    | with_reducible apply KeptX.next
    | with_reducible apply Sem.issue_kept
    | with_reducible apply voteAllSem_kept

theorem voteBallotSem_kept : SemKept (voteBallotSem) := by
  unfold voteBallotSem
  first
    | apply Sem.regs_kept

theorem shflXorSem_kept : SemKept (shflXorSem) := by
  unfold shflXorSem
  first
    | apply Sem.regs_kept

theorem execShflXor_kept {s0 : State} {g : GRef} {w : Fields} {s : State} (h : Kept s0 s) : KeptX s0 (execShflXor g w s) := by
  unfold execShflXor
  repeat' first
    | with_reducible assumption
    | extract_lets +onlyGivenNames x
    | with_reducible apply KeptX.next
    | with_reducible apply Sem.issue_kept
    | with_reducible apply shflXorSem_kept

theorem execShflUp_kept {s0 : State} {g : GRef} {w : Fields} {s : State} (h : Kept s0 s) : KeptX s0 (execShflUp g w s) := by
  unfold execShflUp
  repeat' first
    | with_reducible assumption
    | extract_lets +onlyGivenNames x
    | with_reducible apply KeptX.next
    | with_reducible apply Sem.issue_kept
    | with_reducible apply shflUpSem_kept

theorem voteAnySem_kept : SemKept (voteAnySem) := by
  unfold voteAnySem
  first
    | apply Sem.regs_kept

theorem execVoteAny_kept {s0 : State} {g : GRef} {w : Fields} {s : State} (h : Kept s0 s) : KeptX s0 (execVoteAny g w s) := by
  unfold execVoteAny
  repeat' first
    | with_reducible assumption
    | extract_lets +onlyGivenNames x
    | with_reducible apply KeptX.next
    | with_reducible apply Sem.issue_kept
    | with_reducible apply voteAnySem_kept

theorem shflDownSem_kept : SemKept (shflDownSem) := by
  unfold shflDownSem
  first
    | apply Sem.regs_kept

theorem execShflDown_kept {s0 : State} {g : GRef} {w : Fields} {s : State} (h : Kept s0 s) : KeptX s0 (execShflDown g w s) := by
  unfold execShflDown
  repeat' first
    | with_reducible assumption
    | extract_lets +onlyGivenNames x
    | with_reducible apply KeptX.next
    | with_reducible apply Sem.issue_kept
    | with_reducible apply shflDownSem_kept

theorem execVoteBallot_kept {s0 : State} {g : GRef} {w : Fields} {s : State} (h : Kept s0 s) : KeptX s0 (execVoteBallot g w s) := by
  unfold execVoteBallot
  repeat' first
    | with_reducible assumption
    | extract_lets +onlyGivenNames x
    | with_reducible apply KeptX.next
    | with_reducible apply Sem.issue_kept
    | with_reducible apply voteBallotSem_kept

theorem shflIdxSem_kept : SemKept (shflIdxSem) := by
  unfold shflIdxSem
  first
    | apply Sem.regs_kept

theorem execShflIdx_kept {s0 : State} {g : GRef} {w : Fields} {s : State} (h : Kept s0 s) : KeptX s0 (execShflIdx g w s) := by
  unfold execShflIdx
  repeat' first
    | with_reducible assumption
    | extract_lets +onlyGivenNames x
    | with_reducible apply KeptX.next
    | with_reducible apply Sem.issue_kept
    | with_reducible apply shflIdxSem_kept

end Sys2Proof.Machine
end

