-- ==== Sys2Proof/Laws/KeptMemory.lean ====
section
/-! SUPPORT. What the operations of Machine/Memory.lean keep. -/

namespace Sys2Proof.Machine

set_option linter.tactic.unusedName false

theorem State.localLoad_kept {s0 : State} {s : State} {c : Ctx} {w : Fields} {addr : Nat → Nat} (h : Kept s0 s) : Kept s0 (State.localLoad s c w addr) := by
  unfold State.localLoad
  repeat' first
    | with_reducible assumption
    | (extract_lets +onlyGivenNames x; clear_value x)
    | with_reducible apply State.setGroup_kept

theorem State.beyondL1_kept {s0 : State} {s : State} {r : MemReq} {answer : State → LineData → State} (h : Kept s0 s) (hanswer : ∀ t y0, Kept s0 t → Kept s0 (answer t y0)) : Kept s0 (State.beyondL1 s r answer) := by
  unfold State.beyondL1
  repeat' first
    | with_reducible assumption
    | (extract_lets +onlyGivenNames x; refine (fun (hx : Kept s0 x) => ?_) ?_; (on_goal 2 => unfold x; clear x); (on_goal 1 => clear_value x))
    | (extract_lets +onlyGivenNames x; clear_value x)
    | extract_lets +onlyGivenNames x
    | with_reducible apply Kept.ite
    | with_reducible apply State.sendReq_kept
    | with_reducible apply State.setSlice_kept
    | with_reducible apply State.sliceCount_kept
    | with_reducible apply hanswer
    | split

theorem State.l1Place_kept {s0 : State} {s : State} {ga : Nat} {p : Nat} {line : Nat} (h : Kept s0 s) : KeptOP s0 (State.l1Place s ga p line) := by
  unfold State.l1Place
  repeat' first
    | with_reducible assumption
    | (extract_lets +onlyGivenNames x; clear_value x)
    | extract_lets +onlyGivenNames x
    | with_reducible exact KeptOP.none
    | with_reducible apply KeptOP.some
    | with_reducible apply State.allocL1_kept
    | with_reducible apply State.setArr_kept
    | split
    | (with_reducible eapply Kept.of_some_snd; focus assumption)

theorem State.missL1_kept {s0 : State} {s : State} {r : MemReq} (h : Kept s0 s) : KeptO s0 (State.missL1 s r) := by
  unfold State.missL1
  repeat' first
    | with_reducible assumption
    | (intro t b (ht : Kept s0 t))
    | (extract_lets +onlyGivenNames x; refine (fun (hx : Kept s0 x) => ?_) ?_; (on_goal 2 => unfold x; clear x); (on_goal 1 => clear_value x))
    | (extract_lets +onlyGivenNames x; clear_value x)
    | extract_lets +onlyGivenNames x
    | with_reducible exact KeptO.none
    | with_reducible apply KeptO.some
    | with_reducible apply KeptO.ite
    | with_reducible apply State.l1Place_kept
    | with_reducible apply State.setArr_kept
    | with_reducible apply State.deliver_kept
    | with_reducible apply State.l1Count_kept
    | with_reducible apply State.newId_kept
    | with_reducible apply State.beyondL1_kept
    | with_reducible apply State.fillL1_kept
    | split
    | (with_reducible eapply Kept.of_some_snd; focus assumption)

theorem State.loadLine_kept {s0 : State} {s : State} {r : MemReq} (h : Kept s0 s) : KeptO s0 (State.loadLine s r) := by
  unfold State.loadLine
  repeat' first
    | with_reducible assumption
    | (intro t b (ht : Kept s0 t))
    | (extract_lets +onlyGivenNames x; refine (fun (hx : Kept s0 x) => ?_) ?_; (on_goal 2 => unfold x; clear x); (on_goal 1 => clear_value x))
    | (extract_lets +onlyGivenNames x; clear_value x)
    | extract_lets +onlyGivenNames x
    | with_reducible apply KeptO.some
    | with_reducible apply KeptO.ite
    | with_reducible apply State.sendReq_kept
    | with_reducible apply State.deliver_kept
    | with_reducible apply State.beyondL1_kept
    | with_reducible apply State.l1Count_kept
    | with_reducible apply State.setArr_kept
    | with_reducible apply State.missL1_kept
    | split

theorem ldLine_kept {s0 : State} {c : Ctx} {w : Fields} {s : State} {l : Nat × List LaneAcc} (h : Kept s0 s) : Kept s0 (ldLine c w s l) := by
  unfold ldLine
  repeat' first
    | with_reducible assumption
    | extract_lets +onlyGivenNames x
    | with_reducible apply Kept.ite
    | with_reducible apply State.newId_kept
    | with_reducible apply State.addPend_kept
    | with_reducible apply State.loadLine_kept
    | with_reducible apply State.queuePath_kept
    | with_reducible apply Kept.getD

theorem ldSem_kept : SemKept (ldSem) := by
  unfold ldSem
  refine ⟨fun {s0 s} c w h => ?_⟩
  dsimp only
  repeat' first
    | with_reducible assumption
    | (intro t b (ht : Kept s0 t))
    | extract_lets +onlyGivenNames x
    | with_reducible apply Kept.ite
    | with_reducible apply State.localLoad_kept
    | with_reducible apply ldLine_kept
    | with_reducible apply Kept.foldl

theorem State.startOrder_kept {s0 : State} {s : State} {c : Ctx} {scope : Nat} {isFence : Bool} {bound : Nat} {stores : List MemReq} (h : Kept s0 s) : Kept s0 (State.startOrder s c scope isFence bound stores) := by
  unfold State.startOrder
  repeat' first
    | with_reducible assumption
    | extract_lets +onlyGivenNames x
    | with_reducible apply State.newId_kept
    | with_reducible apply State.progressOrder_kept
    | with_reducible apply State.setGroup_kept
    | split

theorem ldAcqLine_kept {s0 : State} {c : Ctx} {w : Fields} {s : State} {l : Nat × List LaneAcc} (h : Kept s0 s) : Kept s0 (ldAcqLine c w s l) := by
  unfold ldAcqLine
  repeat' first
    | with_reducible assumption
    | (extract_lets +onlyGivenNames x; refine (fun (hx : Kept s0 x) => ?_) ?_; (on_goal 2 => unfold x; clear x); (on_goal 1 => clear_value x))
    | extract_lets +onlyGivenNames x
    | with_reducible apply State.cleanL1_kept
    | with_reducible apply State.newId_kept
    | with_reducible apply State.sendReq_kept
    | with_reducible apply State.addPend_kept
    | split

theorem ldAcqSem_kept : SemKept (ldAcqSem) := by
  unfold ldAcqSem
  refine ⟨fun {s0 s} c w h => ?_⟩
  dsimp only
  repeat' first
    | with_reducible assumption
    | (intro t b (ht : Kept s0 t))
    | extract_lets +onlyGivenNames x
    | with_reducible apply Kept.ite
    | with_reducible apply State.startOrder_kept
    | with_reducible apply ldAcqLine_kept
    | with_reducible apply ldLine_kept
    | with_reducible apply Kept.foldl

theorem ldLastLine_kept {s0 : State} {c : Ctx} {w : Fields} {s : State} {l : Nat × List LaneAcc} (h : Kept s0 s) : Kept s0 (ldLastLine c w s l) := by
  unfold ldLastLine
  repeat' first
    | with_reducible assumption
    | (extract_lets +onlyGivenNames x; refine (fun (hx : Kept s0 x) => ?_) ?_; (on_goal 2 => unfold x; clear x); (on_goal 1 => clear_value x))
    | extract_lets +onlyGivenNames x
    | with_reducible apply Kept.ite
    | with_reducible apply State.dropL1_kept
    | with_reducible apply State.newId_kept
    | with_reducible apply State.sendReq_kept
    | with_reducible apply State.addPend_kept

theorem ldLastSem_kept : SemKept (ldLastSem) := by
  unfold ldLastSem
  refine ⟨fun {s0 s} c w h => ?_⟩
  dsimp only
  repeat' first
    | with_reducible assumption
    | (intro t b (ht : Kept s0 t))
    | extract_lets +onlyGivenNames x
    | with_reducible apply ldLastLine_kept
    | with_reducible apply Kept.foldl

theorem State.localStore_kept {s0 : State} {s : State} {c : Ctx} {w : Fields} {addr : Nat → Nat} {data : Nat → Nat} (h : Kept s0 s) : Kept s0 (State.localStore s c w addr data) := by
  unfold State.localStore
  repeat' first
    | with_reducible assumption
    | (extract_lets +onlyGivenNames x; clear_value x)
    | with_reducible apply State.setArr_kept

theorem stLine_kept {s0 : State} {c : Ctx} {w : Fields} {s : State} {l : Nat × List LaneAcc} (h : Kept s0 s) : Kept s0 (stLine c w s l) := by
  unfold stLine
  repeat' first
    | with_reducible assumption
    | (extract_lets +onlyGivenNames x; clear_value x)
    | extract_lets +onlyGivenNames x
    | with_reducible apply Kept.ite
    | with_reducible apply State.newId_kept
    | with_reducible apply State.hostStore_kept
    | with_reducible apply State.storeOrWait_kept
    | with_reducible apply State.sendReq_kept
    | with_reducible apply State.addPend_kept
    | with_reducible apply State.setArr_kept

theorem stSem_kept : SemKept (stSem) := by
  unfold stSem
  refine ⟨fun {s0 s} c w h => ?_⟩
  dsimp only
  repeat' first
    | with_reducible assumption
    | (intro t b (ht : Kept s0 t))
    | extract_lets +onlyGivenNames x
    | with_reducible apply Kept.ite
    | with_reducible apply State.localStore_kept
    | with_reducible apply stLine_kept
    | with_reducible apply Kept.foldl

theorem numberReqs_kept {s0 : State} {c : Ctx} {w : Fields} {kind : ReqKind} {dst : Nat} {x0 : List (Nat × List LaneAcc)} {x1 : State} (h : Kept s0 x1) : Kept s0 (numberReqs c w kind dst x0 x1).2 := by
  induction x0 generalizing x1 with
  | nil =>
    unfold numberReqs
    repeat' with_reducible assumption
  | cons a l ih =>
    unfold numberReqs
    repeat' first
      | with_reducible assumption
      | with_reducible apply ih
      | extract_lets +onlyGivenNames x
      | with_reducible apply State.newId_kept

theorem stRelSem_kept : SemKept (stRelSem) := by
  unfold stRelSem
  refine ⟨fun {s0 s} c w h => ?_⟩
  dsimp only
  repeat' first
    | with_reducible assumption
    | extract_lets +onlyGivenNames x
    | with_reducible apply Kept.ite
    | with_reducible apply State.pushL1_kept
    | with_reducible apply numberReqs_kept
    | with_reducible apply State.startOrder_kept

theorem fenceSem_kept : SemKept (fenceSem) := by
  unfold fenceSem
  refine ⟨fun {s0 s} c w h => ?_⟩
  dsimp only
  repeat' first
    | with_reducible assumption
    | extract_lets +onlyGivenNames x
    | with_reducible apply Kept.ite
    | with_reducible apply State.pushL1_kept
    | with_reducible apply State.startOrder_kept

theorem prefetchLine_kept {s0 : State} {c : Ctx} {w : Fields} {s : State} {l : Nat × List LaneAcc} (h : Kept s0 s) : Kept s0 (prefetchLine c w s l) := by
  unfold prefetchLine
  repeat' first
    | with_reducible assumption
    | (intro t b (ht : Kept s0 t))
    | (extract_lets +onlyGivenNames x; refine (fun (hx : Kept s0 x) => ?_) ?_; (on_goal 2 => unfold x; clear x); (on_goal 1 => clear_value x))
    | (extract_lets +onlyGivenNames x; clear_value x)
    | extract_lets +onlyGivenNames x
    | with_reducible apply Kept.ite
    | with_reducible apply State.newId_kept
    | with_reducible apply State.sendReq_kept
    | with_reducible apply State.setArr_kept
    | with_reducible apply State.beyondL1_kept
    | with_reducible apply State.sendSide_kept

theorem prefetchSem_kept : SemKept (prefetchSem) := by
  unfold prefetchSem
  refine ⟨fun {s0 s} c w h => ?_⟩
  dsimp only
  repeat' first
    | with_reducible assumption
    | (intro t b (ht : Kept s0 t))
    | extract_lets +onlyGivenNames x
    | with_reducible apply prefetchLine_kept
    | with_reducible apply Kept.foldl

theorem killLineOf_kept {s0 : State} {c : Ctx} {w : Fields} {s : State} {l : Nat × List LaneAcc} (h : Kept s0 s) : Kept s0 (killLineOf c w s l) := by
  unfold killLineOf
  repeat' first
    | with_reducible assumption
    | (extract_lets +onlyGivenNames x; refine (fun (hx : Kept s0 x) => ?_) ?_; (on_goal 2 => unfold x; clear x); (on_goal 1 => clear_value x))
    | extract_lets +onlyGivenNames x
    | with_reducible apply Kept.ite
    | with_reducible apply State.dropL1_kept
    | with_reducible apply State.newId_kept
    | with_reducible apply State.sendReq_kept
    | with_reducible apply State.addPend_kept

theorem killLineSem_kept : SemKept (killLineSem) := by
  unfold killLineSem
  refine ⟨fun {s0 s} c w h => ?_⟩
  dsimp only
  repeat' first
    | with_reducible assumption
    | (intro t b (ht : Kept s0 t))
    | extract_lets +onlyGivenNames x
    | with_reducible apply killLineOf_kept
    | with_reducible apply Kept.foldl

theorem State.localAtom_kept {s0 : State} {s : State} {c : Ctx} {w : Fields} {op : Nat} {result : Bool} {addr : Nat → Nat} {x : Nat → Nat} {y : Nat → Nat} (h : Kept s0 s) : Kept s0 (State.localAtom s c w op result addr x y) := by
  unfold State.localAtom
  repeat' first
    | with_reducible assumption
    | (extract_lets +onlyGivenNames x; refine (fun (hx : Kept s0 x) => ?_) ?_; (on_goal 2 => unfold x; clear x); (on_goal 1 => clear_value x))
    | (extract_lets +onlyGivenNames x; clear_value x)
    | extract_lets +onlyGivenNames x
    | with_reducible apply Kept.ite
    | with_reducible apply State.setArr_kept
    | with_reducible apply State.setGroup_kept

theorem atomOut_kept {s0 : State} {c : Ctx} {w : Fields} {kind : ReqKind} {nregs : Nat} {s : State} {l : Nat × List LaneAcc} (h : Kept s0 s) : Kept s0 (atomOut c w kind nregs s l) := by
  unfold atomOut
  repeat' first
    | with_reducible assumption
    | (extract_lets +onlyGivenNames x; refine (fun (hx : Kept s0 x) => ?_) ?_; (on_goal 2 => unfold x; clear x); (on_goal 1 => clear_value x))
    | extract_lets +onlyGivenNames x
    | with_reducible apply Kept.ite
    | with_reducible apply State.dropL1_kept
    | with_reducible apply State.newId_kept
    | with_reducible apply State.sendReq_kept
    | with_reducible apply State.addPend_kept

theorem atomSem_kept {code : Nat} {op : Nat} {result : Bool} {float : Bool} {order : Bool} : SemKept (atomSem code op result float order) := by
  unfold atomSem
  refine ⟨fun {s0 s} c w h => ?_⟩
  dsimp only
  repeat' first
    | with_reducible assumption
    | (intro t b (ht : Kept s0 t))
    | extract_lets +onlyGivenNames x
    | with_reducible apply Kept.ite
    | with_reducible apply State.localAtom_kept
    | with_reducible apply atomOut_kept
    | with_reducible apply Kept.foldl

theorem atomAddSem_kept : SemKept (atomAddSem) := by
  unfold atomAddSem
  first
    | apply atomSem_kept

theorem atomMinSem_kept : SemKept (atomMinSem) := by
  unfold atomMinSem
  first
    | apply atomSem_kept

theorem atomMaxSem_kept : SemKept (atomMaxSem) := by
  unfold atomMaxSem
  first
    | apply atomSem_kept

theorem atomAndSem_kept : SemKept (atomAndSem) := by
  unfold atomAndSem
  first
    | apply atomSem_kept

theorem atomOrSem_kept : SemKept (atomOrSem) := by
  unfold atomOrSem
  first
    | apply atomSem_kept

theorem atomXorSem_kept : SemKept (atomXorSem) := by
  unfold atomXorSem
  first
    | apply atomSem_kept

theorem atomExchSem_kept : SemKept (atomExchSem) := by
  unfold atomExchSem
  first
    | apply atomSem_kept

theorem atomCasSem_kept : SemKept (atomCasSem) := by
  unfold atomCasSem
  first
    | apply atomSem_kept

theorem redAddSem_kept : SemKept (redAddSem) := by
  unfold redAddSem
  first
    | apply atomSem_kept

theorem redMinSem_kept : SemKept (redMinSem) := by
  unfold redMinSem
  first
    | apply atomSem_kept

theorem redMaxSem_kept : SemKept (redMaxSem) := by
  unfold redMaxSem
  first
    | apply atomSem_kept

theorem redAndSem_kept : SemKept (redAndSem) := by
  unfold redAndSem
  first
    | apply atomSem_kept

theorem redOrSem_kept : SemKept (redOrSem) := by
  unfold redOrSem
  first
    | apply atomSem_kept

theorem redXorSem_kept : SemKept (redXorSem) := by
  unfold redXorSem
  first
    | apply atomSem_kept

theorem redAddLedgerSem_kept : SemKept (redAddLedgerSem) := by
  unfold redAddLedgerSem
  refine ⟨fun {s0 s} c w h => ?_⟩
  dsimp only
  repeat' first
    | with_reducible assumption
    | (intro t b (ht : Kept s0 t))
    | extract_lets +onlyGivenNames x
    | with_reducible apply atomOut_kept
    | with_reducible apply Kept.foldl

theorem execRedXor_kept {s0 : State} {g : GRef} {w : Fields} {s : State} (h : Kept s0 s) : KeptX s0 (execRedXor g w s) := by
  unfold execRedXor
  repeat' first
    | with_reducible assumption
    | extract_lets +onlyGivenNames x
    | with_reducible apply KeptX.next
    | with_reducible apply Sem.issue_kept
    | with_reducible apply redXorSem_kept

theorem execKillLine_kept {s0 : State} {g : GRef} {w : Fields} {s : State} (h : Kept s0 s) : KeptX s0 (execKillLine g w s) := by
  unfold execKillLine
  repeat' first
    | with_reducible assumption
    | extract_lets +onlyGivenNames x
    | with_reducible apply KeptX.next
    | with_reducible apply Sem.issue_kept
    | with_reducible apply killLineSem_kept

theorem execRedMax_kept {s0 : State} {g : GRef} {w : Fields} {s : State} (h : Kept s0 s) : KeptX s0 (execRedMax g w s) := by
  unfold execRedMax
  repeat' first
    | with_reducible assumption
    | extract_lets +onlyGivenNames x
    | with_reducible apply KeptX.next
    | with_reducible apply Sem.issue_kept
    | with_reducible apply redMaxSem_kept

theorem execAtomMax_kept {s0 : State} {g : GRef} {w : Fields} {s : State} (h : Kept s0 s) : KeptX s0 (execAtomMax g w s) := by
  unfold execAtomMax
  repeat' first
    | with_reducible assumption
    | extract_lets +onlyGivenNames x
    | with_reducible apply KeptX.next
    | with_reducible apply Sem.issue_kept
    | with_reducible apply atomMaxSem_kept

theorem State.acceptReq_kept {s0 : State} {s : State} {r : MemReq} (h : Kept s0 s) : KeptO s0 (State.acceptReq s r) := by
  unfold State.acceptReq
  repeat' first
    | with_reducible assumption
    | (intro t (ht : Kept s0 t))
    | extract_lets +onlyGivenNames x
    | with_reducible apply State.complete_kept
    | with_reducible apply State.storeL1_kept
    | with_reducible apply State.loadLine_kept
    | with_reducible apply KeptO.map
    | split

theorem State.drainPath_kept {s0 : State} {ga : Nat} {q : Nat} {x0 : List MemReq} {x1 : State} (h : Kept s0 x1) : Kept s0 (State.drainPath ga q x0 x1) := by
  induction x0 generalizing x1 with
  | nil =>
    unfold State.drainPath
    repeat' with_reducible assumption
  | cons a l ih =>
    unfold State.drainPath
    repeat' first
      | with_reducible assumption
      | with_reducible apply ih
      | extract_lets +onlyGivenNames x
      | with_reducible apply State.acceptReq_kept
      | with_reducible apply State.setArr_kept
      | split
      | (with_reducible eapply Kept.of_some; focus assumption)

theorem execLdAcq_kept {s0 : State} {g : GRef} {w : Fields} {s : State} (h : Kept s0 s) : KeptX s0 (execLdAcq g w s) := by
  unfold execLdAcq
  repeat' first
    | with_reducible assumption
    | extract_lets +onlyGivenNames x
    | with_reducible apply KeptX.next
    | with_reducible apply Sem.issue_kept
    | with_reducible apply ldAcqSem_kept

theorem execFence_kept {s0 : State} {g : GRef} {w : Fields} {s : State} (h : Kept s0 s) : KeptX s0 (execFence g w s) := by
  unfold execFence
  repeat' first
    | with_reducible assumption
    | extract_lets +onlyGivenNames x
    | with_reducible apply KeptX.next
    | with_reducible apply Sem.issue_kept
    | with_reducible apply fenceSem_kept

theorem execAtomAdd_kept {s0 : State} {g : GRef} {w : Fields} {s : State} (h : Kept s0 s) : KeptX s0 (execAtomAdd g w s) := by
  unfold execAtomAdd
  repeat' first
    | with_reducible assumption
    | extract_lets +onlyGivenNames x
    | with_reducible apply KeptX.next
    | with_reducible apply Sem.issue_kept
    | with_reducible apply atomAddSem_kept

theorem execRedAnd_kept {s0 : State} {g : GRef} {w : Fields} {s : State} (h : Kept s0 s) : KeptX s0 (execRedAnd g w s) := by
  unfold execRedAnd
  repeat' first
    | with_reducible assumption
    | extract_lets +onlyGivenNames x
    | with_reducible apply KeptX.next
    | with_reducible apply Sem.issue_kept
    | with_reducible apply redAndSem_kept

theorem execAtomCas_kept {s0 : State} {g : GRef} {w : Fields} {s : State} (h : Kept s0 s) : KeptX s0 (execAtomCas g w s) := by
  unfold execAtomCas
  repeat' first
    | with_reducible assumption
    | extract_lets +onlyGivenNames x
    | with_reducible apply KeptX.next
    | with_reducible apply Sem.issue_kept
    | with_reducible apply atomCasSem_kept

theorem execRedMin_kept {s0 : State} {g : GRef} {w : Fields} {s : State} (h : Kept s0 s) : KeptX s0 (execRedMin g w s) := by
  unfold execRedMin
  repeat' first
    | with_reducible assumption
    | extract_lets +onlyGivenNames x
    | with_reducible apply KeptX.next
    | with_reducible apply Sem.issue_kept
    | with_reducible apply redMinSem_kept

theorem execLdLast_kept {s0 : State} {g : GRef} {w : Fields} {s : State} (h : Kept s0 s) : KeptX s0 (execLdLast g w s) := by
  unfold execLdLast
  repeat' first
    | with_reducible assumption
    | extract_lets +onlyGivenNames x
    | with_reducible apply KeptX.next
    | with_reducible apply Sem.issue_kept
    | with_reducible apply ldLastSem_kept

theorem execLd_kept {s0 : State} {g : GRef} {w : Fields} {s : State} (h : Kept s0 s) : KeptX s0 (execLd g w s) := by
  unfold execLd
  repeat' first
    | with_reducible assumption
    | extract_lets +onlyGivenNames x
    | with_reducible apply KeptX.next
    | with_reducible apply Sem.issue_kept
    | with_reducible apply ldSem_kept

theorem execSt_kept {s0 : State} {g : GRef} {w : Fields} {s : State} (h : Kept s0 s) : KeptX s0 (execSt g w s) := by
  unfold execSt
  repeat' first
    | with_reducible assumption
    | extract_lets +onlyGivenNames x
    | with_reducible apply KeptX.next
    | with_reducible apply Sem.issue_kept
    | with_reducible apply stSem_kept

theorem execStRel_kept {s0 : State} {g : GRef} {w : Fields} {s : State} (h : Kept s0 s) : KeptX s0 (execStRel g w s) := by
  unfold execStRel
  repeat' first
    | with_reducible assumption
    | extract_lets +onlyGivenNames x
    | with_reducible apply KeptX.next
    | with_reducible apply Sem.issue_kept
    | with_reducible apply stRelSem_kept

theorem execPrefetch_kept {s0 : State} {g : GRef} {w : Fields} {s : State} (h : Kept s0 s) : KeptX s0 (execPrefetch g w s) := by
  unfold execPrefetch
  repeat' first
    | with_reducible assumption
    | extract_lets +onlyGivenNames x
    | with_reducible apply KeptX.next
    | with_reducible apply Sem.issue_kept
    | with_reducible apply prefetchSem_kept

theorem execAtomMin_kept {s0 : State} {g : GRef} {w : Fields} {s : State} (h : Kept s0 s) : KeptX s0 (execAtomMin g w s) := by
  unfold execAtomMin
  repeat' first
    | with_reducible assumption
    | extract_lets +onlyGivenNames x
    | with_reducible apply KeptX.next
    | with_reducible apply Sem.issue_kept
    | with_reducible apply atomMinSem_kept

theorem execAtomAnd_kept {s0 : State} {g : GRef} {w : Fields} {s : State} (h : Kept s0 s) : KeptX s0 (execAtomAnd g w s) := by
  unfold execAtomAnd
  repeat' first
    | with_reducible assumption
    | extract_lets +onlyGivenNames x
    | with_reducible apply KeptX.next
    | with_reducible apply Sem.issue_kept
    | with_reducible apply atomAndSem_kept

theorem execAtomOr_kept {s0 : State} {g : GRef} {w : Fields} {s : State} (h : Kept s0 s) : KeptX s0 (execAtomOr g w s) := by
  unfold execAtomOr
  repeat' first
    | with_reducible assumption
    | extract_lets +onlyGivenNames x
    | with_reducible apply KeptX.next
    | with_reducible apply Sem.issue_kept
    | with_reducible apply atomOrSem_kept

theorem execAtomXor_kept {s0 : State} {g : GRef} {w : Fields} {s : State} (h : Kept s0 s) : KeptX s0 (execAtomXor g w s) := by
  unfold execAtomXor
  repeat' first
    | with_reducible assumption
    | extract_lets +onlyGivenNames x
    | with_reducible apply KeptX.next
    | with_reducible apply Sem.issue_kept
    | with_reducible apply atomXorSem_kept

theorem execAtomExch_kept {s0 : State} {g : GRef} {w : Fields} {s : State} (h : Kept s0 s) : KeptX s0 (execAtomExch g w s) := by
  unfold execAtomExch
  repeat' first
    | with_reducible assumption
    | extract_lets +onlyGivenNames x
    | with_reducible apply KeptX.next
    | with_reducible apply Sem.issue_kept
    | with_reducible apply atomExchSem_kept

theorem execRedAdd_kept {s0 : State} {g : GRef} {w : Fields} {s : State} (h : Kept s0 s) : KeptX s0 (execRedAdd g w s) := by
  unfold execRedAdd
  repeat' first
    | with_reducible assumption
    | extract_lets +onlyGivenNames x
    | with_reducible apply KeptX.next
    | with_reducible apply Sem.issue_kept
    | with_reducible apply redAddSem_kept

theorem execRedOr_kept {s0 : State} {g : GRef} {w : Fields} {s : State} (h : Kept s0 s) : KeptX s0 (execRedOr g w s) := by
  unfold execRedOr
  repeat' first
    | with_reducible assumption
    | extract_lets +onlyGivenNames x
    | with_reducible apply KeptX.next
    | with_reducible apply Sem.issue_kept
    | with_reducible apply redOrSem_kept

theorem execRedAddLedger_kept {s0 : State} {g : GRef} {w : Fields} {s : State} (h : Kept s0 s) : KeptX s0 (execRedAddLedger g w s) := by
  unfold execRedAddLedger
  repeat' first
    | with_reducible assumption
    | extract_lets +onlyGivenNames x
    | with_reducible apply KeptX.next
    | with_reducible apply Sem.issue_kept
    | with_reducible apply redAddLedgerSem_kept

end Sys2Proof.Machine
end

