-- ==== Sys2Proof/Laws/KeptArray.lean ====
section
/-! SUPPORT. What the operations of Machine/Array.lean keep. -/

namespace Sys2Proof.Machine

set_option linter.tactic.unusedName false

theorem semsMemory_kept : ∀ m ∈ semsMemory, SemKept m := by
  unfold semsMemory
  repeat' first
    | exact List.forall_mem_nil _
    | refine List.forall_mem_cons.mpr ⟨?_, ?_⟩
    | exact ldSem_kept
    | exact ldAcqSem_kept
    | exact ldLastSem_kept
    | exact stSem_kept
    | exact stRelSem_kept
    | exact fenceSem_kept
    | exact prefetchSem_kept
    | exact killLineSem_kept
    | exact atomAddSem_kept
    | exact atomMinSem_kept
    | exact atomMaxSem_kept
    | exact atomAndSem_kept
    | exact atomOrSem_kept
    | exact atomXorSem_kept
    | exact atomExchSem_kept
    | exact atomCasSem_kept
    | exact redAddSem_kept
    | exact redMinSem_kept
    | exact redMaxSem_kept
    | exact redAndSem_kept
    | exact redOrSem_kept
    | exact redXorSem_kept
    | exact redAddLedgerSem_kept

theorem semsInteger_kept : ∀ m ∈ semsInteger, SemKept m := by
  unfold semsInteger
  repeat' first
    | exact List.forall_mem_nil _
    | refine List.forall_mem_cons.mpr ⟨?_, ?_⟩
    | exact addOpSem_kept
    | exact subOpSem_kept
    | exact mulLoSem_kept
    | exact mulHiSem_kept
    | exact madLoSem_kept
    | exact divOpSem_kept
    | exact remSem_kept
    | exact minOpSem_kept
    | exact maxOpSem_kept
    | exact absOpSem_kept
    | exact negOpSem_kept
    | exact andOpSem_kept
    | exact orOpSem_kept
    | exact xorOpSem_kept
    | exact notOpSem_kept
    | exact shlSem_kept
    | exact shrSem_kept
    | exact sarSem_kept
    | exact popcSem_kept
    | exact clzSem_kept
    | exact brevSem_kept
    | exact bfeSem_kept
    | exact bfiSem_kept
    | exact movSem_kept
    | exact setpSem_kept
    | exact selpSem_kept
    | exact plopSem_kept
    | exact cvtSem_kept

theorem semsFloat_kept : ∀ m ∈ semsFloat, SemKept m := by
  unfold semsFloat
  repeat' first
    | exact List.forall_mem_nil _
    | refine List.forall_mem_cons.mpr ⟨?_, ?_⟩
    | exact addF32Sem_kept
    | exact subF32Sem_kept
    | exact mulF32Sem_kept
    | exact fmaF32Sem_kept
    | exact minF32Sem_kept
    | exact maxF32Sem_kept
    | exact absF32Sem_kept
    | exact negF32Sem_kept
    | exact rcpF32Sem_kept
    | exact rsqrtF32Sem_kept
    | exact sqrtF32Sem_kept
    | exact ex2F32Sem_kept
    | exact lg2F32Sem_kept
    | exact setpF32Sem_kept
    | exact addBf16x2Sem_kept
    | exact mulBf16x2Sem_kept
    | exact fmaBf16x2Sem_kept
    | exact minBf16x2Sem_kept
    | exact maxBf16x2Sem_kept
    | exact addF16x2Sem_kept
    | exact mulF16x2Sem_kept
    | exact fmaF16x2Sem_kept
    | exact minF16x2Sem_kept
    | exact maxF16x2Sem_kept

theorem semsControl_kept : ∀ m ∈ semsControl, SemKept m := by
  unfold semsControl
  repeat' first
    | exact List.forall_mem_nil _
    | refine List.forall_mem_cons.mpr ⟨?_, ?_⟩
    | exact nopSem_kept
    | exact exitSem_kept
    | exact yieldSem_kept
    | exact phaseSem_kept
    | exact timeReadSem_kept
    | exact trapSem_kept
    | exact brkSem_kept
    | exact movSrSem_kept
    | exact braSem_kept
    | exact brxSem_kept
    | exact callSem_kept
    | exact leaPcSem_kept
    | exact fpflagsClrSem_kept
    | exact barSyncSem_kept
    | exact barArriveSem_kept

theorem semsMatrix_kept : ∀ m ∈ semsMatrix, SemKept m := by
  unfold semsMatrix
  repeat' first
    | exact List.forall_mem_nil _
    | refine List.forall_mem_cons.mpr ⟨?_, ?_⟩
    | exact mmaSem_kept
    | exact mmaLedgerSem_kept
    | exact ltileOpenSem_kept
    | exact ltileFlushSem_kept
    | exact ltileReadSem_kept
    | exact ltileWriteSem_kept
    | exact ltileStatSem_kept
    | exact ltileCloseSem_kept
    | exact cvtPackSem_kept
    | exact cvtUnpackSem_kept
    | exact mxScaleSem_kept

theorem semsExchange_kept : ∀ m ∈ semsExchange, SemKept m := by
  unfold semsExchange
  repeat' first
    | exact List.forall_mem_nil _
    | refine List.forall_mem_cons.mpr ⟨?_, ?_⟩
    | exact shflIdxSem_kept
    | exact shflXorSem_kept
    | exact shflUpSem_kept
    | exact shflDownSem_kept
    | exact voteAllSem_kept
    | exact voteAnySem_kept
    | exact voteBallotSem_kept

theorem allSems_kept : ∀ m ∈ allSems, SemKept m := by
  intro m hm
  simp only [allSems, List.mem_append] at hm
  rcases hm with ((((hm | hm) | hm) | hm) | hm) | hm
  · exact semsControl_kept m hm
  · exact semsInteger_kept m hm
  · exact semsFloat_kept m hm
  · exact semsMatrix_kept m hm
  · exact semsExchange_kept m hm
  · exact semsMemory_kept m hm

/-- An instruction that a fetch finds is one of the opcode map. -/
theorem fetchAt_sem {s : State} {ga : Nat} {k : Block} {pc : W64} {m : Sem} {w : Fields} (e : s.fetchAt ga k pc = .instr m w) : SemKept m := by
  unfold State.fetchAt at e
  repeat' split at e
  all_goals first
    | (cases e; done)
    | (rename_i hm; cases e; exact allSems_kept _ (List.mem_of_find?_eq_some hm))

theorem State.keepText_kept {s0 : State} {s : State} {c : Ctx} (h : Kept s0 s) : Kept s0 (State.keepText s c) := by
  unfold State.keepText
  repeat' first
    | with_reducible assumption
    | (extract_lets +onlyGivenNames x; clear_value x)
    | extract_lets +onlyGivenNames x
    | with_reducible apply Kept.ite
    | with_reducible apply State.draw_kept
    | with_reducible apply State.deadRead_kept
    | with_reducible apply State.setArr_kept
    | split

theorem State.sliceUncount_kept {s0 : State} {s : State} {d : Nat} {i : Nat} {n : Nat} (h : Kept s0 s) : Kept s0 (State.sliceUncount s d i n) := by
  unfold State.sliceUncount
  repeat' first
    | with_reducible assumption
    | (intro t b (ht : Kept s0 t))
    | extract_lets +onlyGivenNames x
    | with_reducible apply State.atBase_kept
    | with_reducible apply State.tally_kept

theorem Sem.performJoined_kept {s0 : State} {m : Sem} {s : State} {x : Ctx} {w : Fields} {d : Desc} {seen : List Nat} (h : Kept s0 s) (hm : SemKept m) : Kept s0 (Sem.performJoined m s x w d seen) := by
  unfold Sem.performJoined
  repeat' first
    | with_reducible assumption
    | (extract_lets +onlyGivenNames x; refine (fun (hx : Kept s0 x) => ?_) ?_; (on_goal 2 => unfold x; clear x); (on_goal 1 => clear_value x))
    | (extract_lets +onlyGivenNames x; clear_value x)
    | extract_lets +onlyGivenNames x
    | with_reducible apply Kept.ite
    | with_reducible apply Sem.perform_kept
    | with_reducible apply State.sliceUncount_kept
    | with_reducible apply State.l1Uncount_kept

theorem State.coalesceFrom_kept {s0 : State} {s : State} {ga : Nat} {q : Nat} {start : Nat} (h : Kept s0 s) : Kept s0 (State.coalesceFrom s ga q start) := by
  unfold State.coalesceFrom
  repeat' first
    | with_reducible assumption
    | (extract_lets +onlyGivenNames x; clear_value x)
    | extract_lets +onlyGivenNames x
    | with_reducible apply State.setArr_kept
    | fail_if_no_progress with_reducible refine Kept.mk' ?_ rfl rfl rfl rfl rfl

theorem Sem.issueAll_kept {s0 : State} {m : Sem} {s : State} {c : Ctx} {w : Fields} {d : Desc} (h : Kept s0 s) (hm : SemKept m) : Kept s0 (Sem.issueAll m s c w d).1 := by
  unfold Sem.issueAll
  repeat' first
    | with_reducible assumption
    | (intro t b (ht : Kept s0 t))
    | (intro t b (ht : Kept s0 t.1))
    | (extract_lets +onlyGivenNames x; refine (fun (hx : Kept s0 x) => ?_) ?_; (on_goal 2 => unfold x; clear x); (on_goal 1 => clear_value x))
    | (extract_lets +onlyGivenNames x; refine (fun (hx : Kept s0 x.1) => ?_) ?_; (on_goal 2 => unfold x; clear x); (on_goal 1 => clear_value x))
    | (extract_lets +onlyGivenNames x; clear_value x)
    | extract_lets +onlyGivenNames x
    | with_reducible apply Kept.ite
    | with_reducible apply Sem.performJoined_kept
    | with_reducible apply State.coalesceFrom_kept
    | with_reducible apply State.occupy_kept
    | with_reducible apply State.issued_kept
    | with_reducible apply State.atBase_kept
    | with_reducible apply State.count_kept
    | with_reducible apply blockFault_kept
    | with_reducible apply Kept.foldl
    | with_reducible apply Kept.foldl_fst
    | split

theorem State.noteStep_kept {s0 : State} {s : State} {p : Nat} {ga : Nat} {slot : Nat} (h : Kept s0 s) : Kept s0 (State.noteStep s p ga slot) := by
  unfold State.noteStep
  repeat' first
    | with_reducible assumption
    | (extract_lets +onlyGivenNames x; clear_value x)
    | extract_lets +onlyGivenNames x
    | with_reducible apply Kept.ite
    | with_reducible apply State.setDbg_kept

theorem State.fetchFault_kept {s0 : State} {s : State} {c : Ctx} {x0 : Fetched} (h : Kept s0 s) : Kept s0 (State.fetchFault s c x0) := by
  unfold State.fetchFault
  repeat' first
    | with_reducible assumption
    | (extract_lets +onlyGivenNames x; refine (fun (hx : Kept s0 x) => ?_) ?_; (on_goal 2 => unfold x; clear x); (on_goal 1 => clear_value x))
    | (extract_lets +onlyGivenNames x; clear_value x)
    | extract_lets +onlyGivenNames x
    | with_reducible apply blockFault_kept
    | with_reducible apply poisonFault_kept
    | with_reducible apply State.recordDead_kept
    | with_reducible apply noteLaunchFault_kept
    | with_reducible apply haltBlock_kept
    | with_reducible apply State.raise_kept
    | split

theorem State.trySlot_kept {s0 : State} {s : State} {ga : Nat} {slot : Nat} (h : Kept s0 s) : Kept s0 (State.trySlot s ga slot).2.1 := by
  unfold State.trySlot
  repeat' first
    | with_reducible assumption
    | (extract_lets +onlyGivenNames x; refine (fun (hx : Kept s0 x) => ?_) ?_; (on_goal 2 => unfold x; clear x); (on_goal 1 => clear_value x))
    | (extract_lets +onlyGivenNames x; refine (fun (hx : Kept s0 x.1) => ?_) ?_; (on_goal 2 => unfold x; clear x); (on_goal 1 => clear_value x))
    | extract_lets +onlyGivenNames x
    | with_reducible apply State.keepText_kept
    | with_reducible apply State.haltFor_kept
    | with_reducible apply State.waitCollective_kept
    | with_reducible apply Sem.issueAll_kept
    | with_reducible apply State.noteStep_kept
    | with_reducible apply State.issued_kept
    | with_reducible apply blockFault_kept
    | with_reducible apply State.fetchFault_kept
    | (with_reducible eapply fetchAt_sem; focus assumption)
    | split

theorem State.stepQuarter_kept {s0 : State} {s : State} {ga : Nat} {q : Nat} (h : Kept s0 s) : Kept s0 (State.stepQuarter s ga q).1 := by
  unfold State.stepQuarter
  repeat' first
    | with_reducible assumption
    | (intro t b (ht : Kept s0 t.2.1))
    | (extract_lets +onlyGivenNames x; refine (fun (hx : Kept s0 x.2.1) => ?_) ?_; (on_goal 2 => unfold x; clear x); (on_goal 1 => clear_value x))
    | (extract_lets +onlyGivenNames x; clear_value x)
    | with_reducible apply State.trySlot_kept
    | with_reducible apply Kept.foldl_mid
    | split

theorem State.progressAll_kept {s0 : State} {s : State} (h : Kept s0 s) : Kept s0 (State.progressAll s) := by
  unfold State.progressAll
  repeat' first
    | with_reducible assumption
    | (intro t b (ht : Kept s0 t))
    | extract_lets +onlyGivenNames x
    | with_reducible apply State.progressClosing_kept
    | with_reducible apply State.progressArr_kept
    | with_reducible apply Kept.foldl

theorem execReconvergenceTimeout_kept {s0 : State} {g : GRef} {s : State} (h : Kept s0 s) : KeptX s0 (execReconvergenceTimeout g s) := by
  unfold execReconvergenceTimeout
  repeat' first
    | with_reducible assumption
    | (extract_lets +onlyGivenNames x; clear_value x)
    | extract_lets +onlyGivenNames x
    | with_reducible apply KeptX.next
    | with_reducible apply State.setGroup_kept
    | split

theorem State.deadlock_kept {s0 : State} {s : State} {ga : Nat} {bs : Nat} {k : Block} (h : Kept s0 s) : Kept s0 (State.deadlock s ga bs k) := by
  unfold State.deadlock
  repeat' first
    | with_reducible assumption
    | (intro t b (ht : Kept s0 t))
    | (extract_lets +onlyGivenNames x; refine (fun (hx : Kept s0 x) => ?_) ?_; (on_goal 2 => unfold x; clear x); (on_goal 1 => clear_value x))
    | (extract_lets +onlyGivenNames x; clear_value x)
    | extract_lets +onlyGivenNames x
    | with_reducible apply Kept.ite
    | with_reducible apply State.atBase_kept
    | with_reducible apply State.setBit_kept
    | with_reducible apply State.setReg_kept
    | with_reducible apply State.setLatch_kept
    | with_reducible apply noteLaunchFault_kept
    | with_reducible apply haltBlock_kept
    | with_reducible apply State.raise_kept
    | with_reducible apply Kept.foldl

theorem execBarrierDeadlock_kept {s0 : State} {a : Fin 768} {s : State} (h : Kept s0 s) : KeptX s0 (execBarrierDeadlock a s) := by
  unfold execBarrierDeadlock
  repeat' first
    | with_reducible assumption
    | (intro t b (ht : Kept s0 t))
    | (extract_lets +onlyGivenNames x; clear_value x)
    | extract_lets +onlyGivenNames x
    | with_reducible apply KeptX.next
    | with_reducible apply State.deadlock_kept
    | with_reducible apply Kept.foldl

theorem execReconfigDone_kept {s0 : State} {a : Fin 768} {s : State} (h : Kept s0 s) : KeptX s0 (execReconfigDone a s) := by
  unfold execReconfigDone
  repeat' first
    | with_reducible assumption
    | (intro t b (ht : Kept s0 t))
    | (extract_lets +onlyGivenNames x; refine (fun (hx : Kept s0 x) => ?_) ?_; (on_goal 2 => unfold x; clear x); (on_goal 1 => clear_value x))
    | (extract_lets +onlyGivenNames x; clear_value x)
    | extract_lets +onlyGivenNames x
    | with_reducible apply KeptX.next
    | with_reducible apply State.setArr_kept
    | with_reducible apply State.atBase_kept
    | with_reducible apply State.setBit_kept
    | split

theorem State.overdue_kept {s0 : State} {s : State} {ga : Nat} {slot : Nat} {g : Group} {u : Sub} (h : Kept s0 s) : Kept s0 (State.overdue s ga slot g u) := by
  unfold State.overdue
  repeat' first
    | with_reducible assumption
    | (intro t b (ht : Kept s0 t))
    | (extract_lets +onlyGivenNames x; refine (fun (hx : Kept s0 x) => ?_) ?_; (on_goal 2 => unfold x; clear x); (on_goal 1 => clear_value x))
    | extract_lets +onlyGivenNames x
    | with_reducible apply Kept.ite
    | with_reducible apply State.atBase_kept
    | with_reducible apply State.setBit_kept
    | with_reducible apply State.setReg_kept
    | with_reducible apply blockFault_kept
    | split

theorem execYieldOverdue_kept {s0 : State} {a : Fin 768} {s : State} (h : Kept s0 s) : KeptX s0 (execYieldOverdue a s) := by
  unfold execYieldOverdue
  repeat' first
    | with_reducible assumption
    | (intro t b (ht : Kept s0 t))
    | extract_lets +onlyGivenNames x
    | with_reducible apply KeptX.next
    | with_reducible apply Kept.ite
    | with_reducible apply State.overdue_kept
    | with_reducible apply Kept.foldl

theorem State.countStep_kept {s0 : State} {s : State} {ga : Nat} (h : Kept s0 s) : Kept s0 (State.countStep s ga) := by
  unfold State.countStep
  repeat' first
    | with_reducible assumption
    | (extract_lets +onlyGivenNames x; refine (fun (hx : Kept s0 x) => ?_) ?_; (on_goal 2 => unfold x; clear x); (on_goal 1 => clear_value x))
    | (extract_lets +onlyGivenNames x; clear_value x)
    | extract_lets +onlyGivenNames x
    | with_reducible apply State.setArr_kept
    | with_reducible apply State.spend_kept
    | with_reducible apply State.modWork_kept
    | with_reducible apply State.count_kept
    | split

theorem State.retireCell_kept {s0 : State} {s : State} {c : Ctx} {cell : Nat} {pc : W64} (h : Kept s0 s) : Kept s0 (State.retireCell s c cell pc) := by
  unfold State.retireCell
  repeat' first
    | with_reducible assumption
    | (extract_lets +onlyGivenNames x; refine (fun (hx : Kept s0 x) => ?_) ?_; (on_goal 2 => unfold x; clear x); (on_goal 1 => clear_value x))
    | extract_lets +onlyGivenNames x
    | with_reducible apply Kept.ite
    | with_reducible apply State.retire_kept
    | with_reducible apply State.recordWorn_kept
    | with_reducible apply State.raise_kept
    | split

theorem State.mismatch_kept {s0 : State} {s : State} {c : Ctx} {cell : Nat} {pc : W64} (h : Kept s0 s) : Kept s0 (State.mismatch s c cell pc) := by
  unfold State.mismatch
  repeat' first
    | with_reducible assumption
    | (extract_lets +onlyGivenNames x; refine (fun (hx : Kept s0 x) => ?_) ?_; (on_goal 2 => unfold x; clear x); (on_goal 1 => clear_value x))
    | (extract_lets +onlyGivenNames x; clear_value x)
    | extract_lets +onlyGivenNames x
    | with_reducible apply Kept.ite
    | with_reducible apply State.setArr_kept
    | with_reducible apply State.retireCell_kept

theorem State.meetCollectives_kept {s0 : State} {s : State} {ga : Nat} (h : Kept s0 s) : Kept s0 (State.meetCollectives s ga) := by
  unfold State.meetCollectives
  repeat' first
    | with_reducible assumption
    | (extract_lets +onlyGivenNames x; clear_value x)
    | with_reducible apply State.setArr_kept

theorem State.endHalts_kept {s0 : State} {s : State} {p : Nat} (h : Kept s0 s) : Kept s0 (State.endHalts s p) := by
  unfold State.endHalts
  repeat' first
    | with_reducible assumption
    | (intro t b (ht : Kept s0 t))
    | (extract_lets +onlyGivenNames x; clear_value x)
    | extract_lets +onlyGivenNames x
    | with_reducible apply Kept.ite
    | with_reducible apply State.reply_kept
    | with_reducible apply State.setDbg_kept
    | with_reducible apply Kept.foldl

theorem State.endStep_kept {s0 : State} {s : State} {p : Nat} {r : DbgRun} (h : Kept s0 s) : Kept s0 (State.endStep s p r) := by
  unfold State.endStep
  repeat' first
    | with_reducible assumption
    | (extract_lets +onlyGivenNames x; refine (fun (hx : Kept s0 x) => ?_) ?_; (on_goal 2 => unfold x; clear x); (on_goal 1 => clear_value x))
    | (extract_lets +onlyGivenNames x; clear_value x)
    | extract_lets +onlyGivenNames x
    | with_reducible apply Kept.ite
    | with_reducible apply State.setDbg_kept
    | with_reducible apply State.dbgEvent_kept
    | with_reducible apply State.holdGroup_kept
    | with_reducible apply State.reply_kept
    | with_reducible apply State.opaqueBytes_kept
    | split

theorem State.runStep_kept {s0 : State} {s : State} {p : Nat} {before : Nat} {r : DbgRun} (h : Kept s0 s) : Kept s0 (State.runStep s p before r) := by
  unfold State.runStep
  repeat' first
    | with_reducible assumption
    | (extract_lets +onlyGivenNames x; clear_value x)
    | extract_lets +onlyGivenNames x
    | with_reducible apply Kept.ite
    | with_reducible apply State.endStep_kept
    | with_reducible apply State.setDbg_kept
    | split

theorem State.debugStep_kept {s0 : State} {runs : List DbgRun} {s : State} {ga : Nat} (h : Kept s0 s) : Kept s0 (State.debugStep runs s ga) := by
  unfold State.debugStep
  repeat' first
    | with_reducible assumption
    | (intro t b (ht : Kept s0 t))
    | (extract_lets +onlyGivenNames x; clear_value x)
    | extract_lets +onlyGivenNames x
    | with_reducible apply State.endHalts_kept
    | with_reducible apply State.runStep_kept
    | with_reducible apply Kept.foldl
    | split

theorem State.stepArray_kept {s0 : State} {s : State} {ga : Nat} (h : Kept s0 s) : Kept s0 (State.stepArray s ga) := by
  unfold State.stepArray
  repeat' first
    | with_reducible assumption
    | (intro t b (ht : Kept s0 t))
    | (intro t b (ht : Kept s0 t.1))
    | (extract_lets +onlyGivenNames x; refine (fun (hx : Kept s0 x) => ?_) ?_; (on_goal 2 => unfold x; clear x); (on_goal 1 => clear_value x))
    | (extract_lets +onlyGivenNames x; refine (fun (hx : Kept s0 x.1) => ?_) ?_; (on_goal 2 => unfold x; clear x); (on_goal 1 => clear_value x))
    | (extract_lets +onlyGivenNames x; clear_value x)
    | extract_lets +onlyGivenNames x
    | with_reducible apply State.countStep_kept
    | with_reducible apply State.drainPath_kept
    | with_reducible apply State.meetCollectives_kept
    | with_reducible apply State.stepQuarter_kept
    | with_reducible apply State.debugStep_kept
    | with_reducible apply State.afterIssue_kept
    | with_reducible apply Kept.foldl
    | with_reducible apply Kept.foldl_fst
    | split

theorem State.stepUpset_kept {s0 : State} {s : State} {ga : Nat} {slot : Nat} {u : Upset} (h : Kept s0 s) : Kept s0 (State.stepUpset s ga slot u).1 := by
  unfold State.stepUpset
  repeat' first
    | with_reducible assumption
    | extract_lets +onlyGivenNames x
    | with_reducible apply State.icacheUpset_kept
    | with_reducible apply Sem.meet_kept
    | (with_reducible eapply fetchAt_sem; focus assumption)
    | split

theorem State.stepWith_kept {s0 : State} {s : State} {ga : Nat} {upset : Option (Fin 64 × Upset)} (h : Kept s0 s) : Kept s0 (State.stepWith s ga upset) := by
  unfold State.stepWith
  repeat' first
    | with_reducible assumption
    | extract_lets +onlyGivenNames x
    | with_reducible apply Kept.ite
    | with_reducible apply State.stepArray_kept
    | with_reducible apply State.stepUpset_kept
    | split

theorem State.firstOfStep_kept {s0 : State} {s : State} {n : Nat} {site : Nat} (h : Kept s0 s) : Kept s0 (State.firstOfStep s n site) := by
  unfold State.firstOfStep
  repeat' first
    | with_reducible assumption
    | (extract_lets +onlyGivenNames x; clear_value x)
    | with_reducible apply State.setReg_kept
    | split

theorem execSchedulerIssue_kept {s0 : State} {a : Fin 768} {upset : Option (Fin 64 × Upset)} {s : State} (h : Kept s0 s) : KeptX s0 (execSchedulerIssue a upset s) := by
  unfold execSchedulerIssue
  repeat' first
    | with_reducible assumption
    | extract_lets +onlyGivenNames x
    | with_reducible apply KeptX.next
    | with_reducible apply Kept.ite
    | with_reducible apply State.stepWith_kept
    | with_reducible apply State.firstOfStep_kept
    | split

theorem execLsBanksChange_kept {s0 : State} {a : Fin 768} {n : Fin 9} {s : State} (h : Kept s0 s) : KeptX s0 (execLsBanksChange a n s) := by
  unfold execLsBanksChange
  repeat' first
    | with_reducible assumption
    | (intro t b (ht : Kept s0 t))
    | (extract_lets +onlyGivenNames x; refine (fun (hx : Kept s0 x) => ?_) ?_; (on_goal 2 => unfold x; clear x); (on_goal 1 => clear_value x))
    | (extract_lets +onlyGivenNames x; clear_value x)
    | extract_lets +onlyGivenNames x
    | with_reducible apply KeptX.next
    | with_reducible apply Kept.ite
    | with_reducible apply State.cleanL1_kept
    | with_reducible apply State.setArr_kept
    | with_reducible apply Kept.foldl
    | split

theorem State.recompute_kept {s0 : State} {s : State} {c : Ctx} {q : Nat} {k : Nat} {x : Staging} {same : Staging} {other : Staging} (h : Kept s0 s) : Kept s0 (State.recompute s c q k x same other) := by
  unfold State.recompute
  have hput : ∀ y, Kept s0 (s.setArr c.ga { s.arr c.ga with staged := Tab.put (s.arr c.ga).staged q y }) := fun y => State.setArr_kept h
  have hcor : ∀ {t : State} (n : Nat), Kept s0 t →
      Kept s0 ((t.mismatch c n x.pc).raise (residueFault (t.mismatch c n x.pc) c 0x0201 n (Tab.getD ((t.mismatch c n x.pc).arr c.ga).mismatches n 0) x.pc)) :=
    fun n ht => State.raise_kept (State.mismatch_kept ht)
  refine Kept.ite (hcor _ (hput same)) (Kept.ite (State.retireCell_kept (hcor _ (hput other))) ?_)
  exact blockFault_kept (State.mismatch_kept (State.setArr_kept (State.retireCell_kept h)))

theorem State.acceptBlock_kept {s0 : State} {s : State} {ga : Nat} {k : Work} {bs : Nat} {slots : List Nat} {units : List Nat} (h : Kept s0 s) : Kept s0 (State.acceptBlock s ga k bs slots units) := by
  unfold State.acceptBlock
  repeat' first
    | with_reducible assumption
    | (extract_lets +onlyGivenNames x; refine (fun (hx : Kept s0 x) => ?_) ?_; (on_goal 2 => unfold x; clear x); (on_goal 1 => clear_value x))
    | (extract_lets +onlyGivenNames x; clear_value x)
    | extract_lets +onlyGivenNames x
    | with_reducible apply Kept.ite
    | with_reducible apply State.setPhase_kept
    | with_reducible apply State.pushL1_kept
    | with_reducible apply State.setArr_kept
    | with_reducible apply State.modWork_kept
    | with_reducible apply State.progressArr_kept

theorem execBlockAccept_kept {s0 : State} {a : Fin 768} {s : State} (h : Kept s0 s) : KeptX s0 (execBlockAccept a s) := by
  unfold execBlockAccept
  repeat' first
    | with_reducible assumption
    | extract_lets +onlyGivenNames x
    | with_reducible apply KeptX.next
    | with_reducible apply Kept.ite
    | with_reducible apply State.acceptBlock_kept
    | split

theorem execResidueRecompute_kept {s0 : State} {g : GRef} {k : Fin 4} {errs : List (BitVec 10 × BitVec 144) × List (BitVec 10 × BitVec 144) × List (BitVec 10 × BitVec 144)} {s : State} (h : Kept s0 s) : KeptX s0 (execResidueRecompute g k errs s) := by
  unfold execResidueRecompute
  repeat' first
    | with_reducible assumption
    | (extract_lets +onlyGivenNames x; clear_value x)
    | extract_lets +onlyGivenNames x
    | with_reducible apply KeptX.next
    | with_reducible apply Kept.ite
    | with_reducible apply State.setArr_kept
    | with_reducible apply State.recompute_kept
    | split

end Sys2Proof.Machine
end

