-- ==== Sys2Proof/Laws/KeptCache.lean ====
section
/-! SUPPORT. What the operations of Machine/Cache.lean keep. -/

namespace Sys2Proof.Machine

set_option linter.tactic.unusedName false

theorem State.accessUpset_kept {s0 : State} {s : State} {p : Nat} {line : Nat} {u : HomeUpset} (h : Kept s0 s) : Kept s0 (State.accessUpset s p line u).1 := by
  unfold State.accessUpset
  repeat' first
    | with_reducible assumption
    | with_reducible apply State.homeUpset_kept
    | split

theorem execFillArrive_kept {s0 : State} {p : Fin 6} {line : BitVec 41} {failed : List Nat} {upset : Option HomeUpset} {s : State} (h : Kept s0 s) : KeptX s0 (execFillArrive p line failed upset s) := by
  unfold execFillArrive
  repeat' first
    | with_reducible assumption
    | (intro t (ht : Kept s0 t))
    | (extract_lets +onlyGivenNames x; clear_value x)
    | extract_lets +onlyGivenNames x
    | with_reducible apply KeptX.next
    | with_reducible apply State.withUpset_kept
    | with_reducible apply State.progressAll_kept
    | with_reducible apply State.fillHome_kept
    | fail_if_no_progress with_reducible refine Kept.mk' ?_ rfl rfl rfl rfl rfl
    | split

theorem State.dropTraffic_kept {s0 : State} {s : State} {p : Nat} (h : Kept s0 s) : Kept s0 (State.dropTraffic s p) := by
  unfold State.dropTraffic
  repeat' first
    | with_reducible assumption
    | (extract_lets +onlyGivenNames x; clear_value x)
    | fail_if_no_progress with_reducible refine Kept.mk' ?_ rfl rfl rfl rfl rfl

theorem State.invalidateDie_kept {s0 : State} {s : State} {d : Nat} (h : Kept s0 s) : Kept s0 (State.invalidateDie s d) := by
  unfold State.invalidateDie
  repeat' first
    | with_reducible assumption
    | (intro t b (ht : Kept s0 t))
    | (extract_lets +onlyGivenNames x; refine (fun (hx : Kept s0 x) => ?_) ?_; (on_goal 2 => unfold x; clear x); (on_goal 1 => clear_value x))
    | (extract_lets +onlyGivenNames x; clear_value x)
    | extract_lets +onlyGivenNames x
    | with_reducible apply State.setSlice_kept
    | with_reducible apply State.setArr_kept
    | with_reducible apply State.atBase_kept
    | with_reducible apply State.setField_kept
    | with_reducible apply Kept.foldl

theorem State.dropReq_kept {s0 : State} {s : State} {r : MemReq} (h : Kept s0 s) : Kept s0 (State.dropReq s r) := by
  unfold State.dropReq
  repeat' first
    | with_reducible assumption
    | fail_if_no_progress with_reducible refine Kept.mk' ?_ rfl rfl rfl rfl rfl

theorem State.hostLoad_kept {s0 : State} {s : State} {r : MemReq} (h : Kept s0 s) : Kept s0 (State.hostLoad s r) := by
  unfold State.hostLoad
  repeat' first
    | with_reducible assumption
    | (intro t b (ht : Kept s0 t))
    | extract_lets +onlyGivenNames x
    | with_reducible apply Kept.ite
    | with_reducible apply State.hostLine_kept
    | with_reducible apply State.deliver_kept
    | with_reducible apply State.dropReq_kept
    | fail_if_no_progress with_reducible refine Kept.mk' ?_ rfl rfl rfl rfl rfl
    | with_reducible apply Kept.foldl

theorem State.keepWaiting_kept {s0 : State} {s : State} {r : MemReq} (h : Kept s0 s) : Kept s0 (State.keepWaiting s r) := by
  unfold State.keepWaiting
  repeat' first
    | with_reducible assumption
    | (extract_lets +onlyGivenNames x; clear_value x)
    | extract_lets +onlyGivenNames x
    | with_reducible apply Kept.ite
    | fail_if_no_progress with_reducible refine Kept.mk' ?_ rfl rfl rfl rfl rfl

theorem State.contribution_kept {s0 : State} {s : State} {p : Nat} {line : Nat} {mismatches : Nat} (h : Kept s0 s) : Kept s0 (State.contribution s p line mismatches) := by
  unfold State.contribution
  repeat' first
    | with_reducible assumption
    | (extract_lets +onlyGivenNames x; clear_value x)
    | extract_lets +onlyGivenNames x
    | with_reducible apply Kept.ite
    | with_reducible apply State.serveChecked_kept
    | with_reducible apply State.dropReq_kept
    | with_reducible apply State.keepWaiting_kept
    | with_reducible apply State.progressAll_kept
    | with_reducible apply State.spend_kept
    | split
    | (with_reducible eapply Kept.of_some; focus assumption)

theorem execSumLineContribution_kept {s0 : State} {p : Fin 6} {line : BitVec 41} {mismatches : Fin 3} {upset : Option HomeUpset} {s : State} (h : Kept s0 s) : KeptX s0 (execSumLineContribution p line mismatches upset s) := by
  unfold execSumLineContribution
  repeat' first
    | with_reducible assumption
    | extract_lets +onlyGivenNames x
    | with_reducible apply KeptX.next
    | with_reducible apply Kept.ite
    | with_reducible apply State.contribution_kept
    | with_reducible apply State.accessUpset_kept
    | split

theorem State.sideHome_kept {s0 : State} {s : State} {p : Nat} {line : Nat} {code : FillCode} (h : Kept s0 s) : Kept s0 (State.sideHome s p line code) := by
  unfold State.sideHome
  repeat' first
    | with_reducible assumption
    | (extract_lets +onlyGivenNames x; refine (fun (hx : Kept s0 x) => ?_) ?_; (on_goal 2 => unfold x; clear x); (on_goal 1 => clear_value x))
    | (extract_lets +onlyGivenNames x; clear_value x)
    | extract_lets +onlyGivenNames x
    | with_reducible apply Kept.ite
    | with_reducible apply State.progressAll_kept
    | with_reducible apply State.fillHome_kept
    | with_reducible apply State.setSlice_kept
    | with_reducible apply State.sideAdd_kept

theorem execSpillBucketReadDone_kept {s0 : State} {p : Fin 6} {line : BitVec 41} {mismatches : Fin 3} {upset : Option HomeUpset} {s : State} (h : Kept s0 s) : KeptX s0 (execSpillBucketReadDone p line mismatches upset s) := by
  unfold execSpillBucketReadDone
  repeat' first
    | with_reducible assumption
    | (intro t (ht : Kept s0 t))
    | (extract_lets +onlyGivenNames x; clear_value x)
    | extract_lets +onlyGivenNames x
    | with_reducible apply KeptX.next
    | with_reducible apply Kept.ite
    | with_reducible apply State.withUpset_kept
    | with_reducible apply State.homeFault_kept
    | with_reducible apply State.mergeRecord_kept

theorem State.sideArray_kept {s0 : State} {s : State} {ga : Nat} {f : Fill} (h : Kept s0 s) : Kept s0 (State.sideArray s ga f) := by
  unfold State.sideArray
  repeat' first
    | with_reducible assumption
    | (extract_lets +onlyGivenNames x; clear_value x)
    | extract_lets +onlyGivenNames x
    | with_reducible apply Kept.ite
    | with_reducible apply State.setArr_kept

theorem execSideBufferFill_kept {s0 : State} {p : Fin 6} {line : BitVec 41} {upset : Option HomeUpset} {s : State} (h : Kept s0 s) : KeptX s0 (execSideBufferFill p line upset s) := by
  unfold execSideBufferFill
  repeat' first
    | with_reducible assumption
    | (intro t (ht : Kept s0 t))
    | (extract_lets +onlyGivenNames x; refine (fun (hx : Kept s0 x) => ?_) ?_; (on_goal 2 => unfold x; clear x); (on_goal 1 => clear_value x))
    | (extract_lets +onlyGivenNames x; clear_value x)
    | extract_lets +onlyGivenNames x
    | with_reducible apply KeptX.next
    | with_reducible apply State.withUpset_kept
    | with_reducible apply State.sideArray_kept
    | with_reducible apply State.sideHome_kept
    | fail_if_no_progress with_reducible refine Kept.mk' ?_ rfl rfl rfl rfl rfl
    | split

theorem State.invalidated_kept {s0 : State} {s : State} {d : Nat} (h : Kept s0 s) : Kept s0 (State.invalidated s d) := by
  unfold State.invalidated
  repeat' first
    | with_reducible assumption
    | (intro t b (ht : Kept s0 t))
    | (extract_lets +onlyGivenNames x; refine (fun (hx : Kept s0 x) => ?_) ?_; (on_goal 2 => unfold x; clear x); (on_goal 1 => clear_value x))
    | extract_lets +onlyGivenNames x
    | with_reducible apply Kept.ite
    | with_reducible apply State.atBase_kept
    | with_reducible apply State.setBit_kept
    | with_reducible apply State.setField_kept
    | with_reducible apply State.doStep_kept

theorem State.homeAccess_kept {s0 : State} {s : State} {p : Nat} {line : Nat} (h : Kept s0 s) : Kept s0 (State.homeAccess s p line) := by
  unfold State.homeAccess
  repeat' first
    | with_reducible assumption
    | (extract_lets +onlyGivenNames x; clear_value x)
    | extract_lets +onlyGivenNames x
    | with_reducible apply Kept.ite
    | with_reducible apply State.progressAll_kept
    | with_reducible apply State.hostLoad_kept
    | with_reducible apply State.takeVisitor_kept
    | with_reducible apply State.serve_kept
    | with_reducible apply State.dropReq_kept
    | with_reducible apply State.keepWaiting_kept
    | with_reducible apply State.spend_kept
    | with_reducible apply State.countHit_kept
    | split
    | (with_reducible eapply Kept.of_some; focus assumption)

theorem execHomeAccess_kept {s0 : State} {p : Fin 6} {line : BitVec 41} {upset : Option HomeUpset} {s : State} (h : Kept s0 s) : KeptX s0 (execHomeAccess p line upset s) := by
  unfold execHomeAccess
  repeat' first
    | with_reducible assumption
    | extract_lets +onlyGivenNames x
    | with_reducible apply KeptX.next
    | with_reducible apply Kept.ite
    | with_reducible apply State.homeAccess_kept
    | with_reducible apply State.accessUpset_kept
    | split

theorem execHomeWriteAck_kept {s0 : State} {a : Fin 768} {line : BitVec 41} {s : State} (h : Kept s0 s) : KeptX s0 (execHomeWriteAck a line s) := by
  unfold execHomeWriteAck
  repeat' first
    | with_reducible assumption
    | (extract_lets +onlyGivenNames x; clear_value x)
    | extract_lets +onlyGivenNames x
    | with_reducible apply KeptX.next
    | with_reducible apply State.progressAll_kept
    | with_reducible apply State.setArr_kept
    | fail_if_no_progress with_reducible refine Kept.mk' ?_ rfl rfl rfl rfl rfl
    | split

theorem execCacheInvalidateDone_kept {s0 : State} {d : Fin 96} {s : State} (h : Kept s0 s) : KeptX s0 (execCacheInvalidateDone d s) := by
  unfold execCacheInvalidateDone
  repeat' first
    | with_reducible assumption
    | extract_lets +onlyGivenNames x
    | with_reducible apply KeptX.next
    | with_reducible apply State.invalidated_kept

end Sys2Proof.Machine
end

