-- ==== Sys2Proof/Laws/KeptExternal.lean ====
section
/-! SUPPORT. What the operations of Machine/External.lean keep. -/

namespace Sys2Proof.Machine

set_option linter.tactic.unusedName false

theorem State.setCourier_kept {s0 : State} {s : State} {c : Nat} {x : Courier} (h : Kept s0 s) : Kept s0 (State.setCourier s c x) := by
  unfold State.setCourier
  repeat' first
    | with_reducible assumption
    | fail_if_no_progress with_reducible refine Kept.mk' ?_ rfl rfl rfl rfl rfl

theorem State.crStop_kept {s0 : State} {s : State} {c : Nat} {status : Nat} (h : Kept s0 s) : Kept s0 (State.crStop s c status) := by
  unfold State.crStop
  repeat' first
    | with_reducible assumption
    | (extract_lets +onlyGivenNames x; clear_value x)
    | with_reducible apply State.setCourier_kept

theorem State.courierFault_kept {s0 : State} {s : State} {c : Nat} {code : Nat} {addr : Nat} {detail : List W32} (h : Kept s0 s) : Kept s0 (State.courierFault s c code addr detail) := by
  unfold State.courierFault
  repeat' first
    | with_reducible assumption
    | (extract_lets +onlyGivenNames x; clear_value x)
    | with_reducible apply State.raise_kept

theorem State.startPhPart_kept {s0 : State} {s : State} {p : Nat} {h' : Nat} {j : Nat} (h : Kept s0 s) : Kept s0 (State.startPhPart s p h' j) := by
  unfold State.startPhPart
  repeat' first
    | with_reducible assumption
    | (extract_lets +onlyGivenNames x; refine (fun (hx : Kept s0 x) => ?_) ?_; (on_goal 2 => unfold x; clear x); (on_goal 1 => clear_value x))
    | (extract_lets +onlyGivenNames x; clear_value x)
    | extract_lets +onlyGivenNames x
    | with_reducible apply State.setPart_kept
    | with_reducible apply State.setCourier_kept
    | split

theorem State.startPhParts_kept {s0 : State} {s : State} {p : Nat} (h : Kept s0 s) : Kept s0 (State.startPhParts s p) := by
  unfold State.startPhParts
  repeat' first
    | with_reducible assumption
    | (intro t b (ht : Kept s0 t))
    | extract_lets +onlyGivenNames x
    | with_reducible apply Kept.ite
    | with_reducible apply State.startPhPart_kept
    | with_reducible apply Kept.foldl

theorem State.sendPair_kept {s0 : State} {s : State} {m : PairMsg} (h : Kept s0 s) : Kept s0 (State.sendPair s m) := by
  unfold State.sendPair
  repeat' first
    | with_reducible assumption
    | (extract_lets +onlyGivenNames x; refine (fun (hx : Kept s0 x) => ?_) ?_; (on_goal 2 => unfold x; clear x); (on_goal 1 => clear_value x))
    | (extract_lets +onlyGivenNames x; clear_value x)
    | extract_lets +onlyGivenNames x
    | with_reducible exact KeptO.none
    | with_reducible apply KeptO.ite
    | with_reducible apply Kept.ite
    | with_reducible apply State.charge_kept
    | fail_if_no_progress with_reducible refine Kept.mk' ?_ rfl rfl rfl rfl rfl
    | split
    | (with_reducible eapply Kept.of_some; focus assumption)

theorem State.phWrite_kept {s0 : State} {s : State} {p : Nat} {h' : Nat} {off : Nat} {n : Nat} {v : Nat} (h : Kept s0 s) : Kept s0 (State.phWrite s p h' off n v) := by
  unfold State.phWrite
  repeat' first
    | with_reducible assumption
    | with_reducible apply State.writeWord_kept

theorem State.phTo_kept {s0 : State} {s : State} {p : Nat} {h' : Nat} {st : Nat} (h : Kept s0 s) : Kept s0 (State.phTo s p h' st) := by
  unfold State.phTo
  repeat' first
    | with_reducible assumption
    | extract_lets +onlyGivenNames x
    | with_reducible apply State.phWrite_kept
    | with_reducible apply State.setField_kept

theorem State.startChain_kept {s0 : State} {s : State} {k : Work} (h : Kept s0 s) : Kept s0 (State.startChain s k) := by
  unfold State.startChain
  repeat' first
    | with_reducible assumption
    | (extract_lets +onlyGivenNames x; refine (fun (hx : Kept s0 x) => ?_) ?_; (on_goal 2 => unfold x; clear x); (on_goal 1 => clear_value x))
    | (extract_lets +onlyGivenNames x; clear_value x)
    | with_reducible apply State.modWork_kept
    | with_reducible apply State.setCourier_kept

theorem State.startChains_kept {s0 : State} {s : State} (h : Kept s0 s) : Kept s0 (State.startChains s) := by
  unfold State.startChains
  repeat' first
    | with_reducible assumption
    | (intro t b (ht : Kept s0 t))
    | extract_lets +onlyGivenNames x
    | with_reducible apply Kept.ite
    | with_reducible apply State.startChain_kept
    | with_reducible apply Kept.foldl

theorem State.crMoved_kept {s0 : State} {s : State} {c : Nat} (h : Kept s0 s) : Kept s0 (State.crMoved s c) := by
  unfold State.crMoved
  repeat' first
    | with_reducible assumption
    | (intro t b (ht : Kept s0 t))
    | (extract_lets +onlyGivenNames x; refine (fun (hx : Kept s0 x) => ?_) ?_; (on_goal 2 => unfold x; clear x); (on_goal 1 => clear_value x))
    | (extract_lets +onlyGivenNames x; clear_value x)
    | extract_lets +onlyGivenNames x
    | with_reducible apply State.spend_kept
    | with_reducible apply State.setCourier_kept
    | with_reducible apply State.atBase_kept
    | with_reducible apply State.count_kept

theorem State.poisonLine_kept {s0 : State} {s : State} {p : Nat} {line : Nat} {o : MidOp} (h : Kept s0 s) : Kept s0 (State.poisonLine s p line o) := by
  unfold State.poisonLine
  repeat' first
    | with_reducible assumption
    | extract_lets +onlyGivenNames x
    | with_reducible apply State.notePoison_kept
    | with_reducible apply State.setMid_kept
    | with_reducible refine Kept.mkHbm ?_ rfl rfl (fun w => ?_) rfl rfl
    | (with_reducible apply Mem.clear_wf; assumption)

theorem State.rereadPassed_kept {s0 : State} {s : State} {p : Nat} {line : Nat} {bits : List Nat} (h : Kept s0 s) : Kept s0 (State.rereadPassed s p line bits) := by
  unfold State.rereadPassed
  repeat' first
    | with_reducible assumption
    | extract_lets +onlyGivenNames x
    | with_reducible apply State.setMid_kept
    | with_reducible apply State.raise_kept
    | with_reducible apply State.setBit_kept

theorem State.crTries_kept {s0 : State} {s : State} {p : Nat} {line : Nat} {x : MemReads} (h : Kept s0 s) : Kept s0 (State.crTries s p line x) := by
  unfold State.crTries
  repeat' first
    | with_reducible assumption
    | (extract_lets +onlyGivenNames x; clear_value x)
    | extract_lets +onlyGivenNames x
    | with_reducible apply Kept.ite
    | with_reducible apply State.poisonLine_kept
    | with_reducible apply State.rereadPassed_kept

theorem State.keepPage_kept {s0 : State} {s : State} {port : Nat} {page : Nat} (h : Kept s0 s) : Kept s0 (State.keepPage s port page) := by
  unfold State.keepPage
  repeat' first
    | with_reducible assumption
    | (extract_lets +onlyGivenNames x; clear_value x)
    | with_reducible apply State.setMid_kept

theorem State.failPage_kept {s0 : State} {s : State} {port : Nat} {page : Nat} (h : Kept s0 s) : Kept s0 (State.failPage s port page) := by
  unfold State.failPage
  repeat' first
    | with_reducible assumption
    | (extract_lets +onlyGivenNames x; refine (fun (hx : Kept s0 x) => ?_) ?_; (on_goal 2 => unfold x; clear x); (on_goal 1 => clear_value x))
    | (extract_lets +onlyGivenNames x; clear_value x)
    | extract_lets +onlyGivenNames x
    | with_reducible apply State.setMid_kept
    | with_reducible apply State.setBit_kept
    | with_reducible apply State.notePoison_kept
    | with_reducible apply State.raise_kept
    | fail_if_no_progress with_reducible refine Kept.mk' ?_ rfl rfl rfl rfl rfl

theorem State.crAsk_kept {s0 : State} {s : State} {p : Nat} {sl : Nat} {line : Nat} {x : MemReads} (h : Kept s0 s) : KeptO s0 (State.crAsk s p sl line x) := by
  unfold State.crAsk
  repeat' first
    | with_reducible assumption
    | (extract_lets +onlyGivenNames x; clear_value x)
    | extract_lets +onlyGivenNames x
    | with_reducible exact KeptO.none
    | with_reducible apply KeptO.some
    | with_reducible apply KeptO.ite
    | with_reducible apply Kept.ite
    | with_reducible apply State.chargeLine_kept
    | with_reducible apply State.crTries_kept
    | with_reducible apply State.touchPage_kept
    | with_reducible apply State.keepPage_kept
    | with_reducible apply State.failPage_kept
    | split
    | (with_reducible eapply Kept.of_some; focus assumption)

theorem State.holdCourier_kept {s0 : State} {s : State} {c : Nat} (h : Kept s0 s) : Kept s0 (State.holdCourier s c) := by
  unfold State.holdCourier
  repeat' first
    | with_reducible assumption
    | extract_lets +onlyGivenNames x
    | with_reducible apply Kept.ite
    | fail_if_no_progress with_reducible refine Kept.mk' ?_ rfl rfl rfl rfl rfl

theorem State.crSide_kept {s0 : State} {s : State} {p : Nat} {line : Nat} (h : Kept s0 s) : Kept s0 (State.crSide s p line) := by
  unfold State.crSide
  repeat' first
    | with_reducible assumption
    | (extract_lets +onlyGivenNames x; refine (fun (hx : Kept s0 x) => ?_) ?_; (on_goal 2 => unfold x; clear x); (on_goal 1 => clear_value x))
    | (extract_lets +onlyGivenNames x; clear_value x)
    | extract_lets +onlyGivenNames x
    | with_reducible apply Kept.ite
    | with_reducible apply State.closeFor_kept
    | with_reducible apply State.sideAdd_kept
    | split

theorem State.crAskWrite_kept {s0 : State} {s : State} {p : Nat} {sl : Nat} {line : Nat} {x : MemReads} (h : Kept s0 s) : KeptO s0 (State.crAskWrite s p sl line x) := by
  unfold State.crAskWrite
  repeat' first
    | with_reducible assumption
    | extract_lets +onlyGivenNames x
    | with_reducible apply KeptO.some
    | with_reducible apply KeptO.ite
    | with_reducible apply State.chargeLine_kept
    | with_reducible apply State.crAsk_kept

theorem State.crRead_kept {s0 : State} {s : State} {c : Nat} {p : Nat} {addr : Nat} (h : Kept s0 s) : Kept s0 (State.crRead s c p addr).2 := by
  unfold State.crRead
  repeat' first
    | with_reducible assumption
    | (extract_lets +onlyGivenNames x; refine (fun (hx : Kept s0 x) => ?_) ?_; (on_goal 2 => unfold x; clear x); (on_goal 1 => clear_value x))
    | (extract_lets +onlyGivenNames x; clear_value x)
    | extract_lets +onlyGivenNames x
    | with_reducible apply State.hostLine_kept
    | with_reducible apply State.closeFor_kept
    | with_reducible apply State.deadRead_kept
    | with_reducible apply Kept.ite_snd
    | split

theorem State.crPoison_kept {s0 : State} {s : State} {c : Nat} {p : Nat} {addr : Nat} (h : Kept s0 s) : Kept s0 (State.crPoison s c p addr) := by
  unfold State.crPoison
  repeat' first
    | with_reducible assumption
    | extract_lets +onlyGivenNames x
    | with_reducible apply State.crStop_kept
    | with_reducible apply State.courierFault_kept

theorem State.renewPage_kept {s0 : State} {s : State} {p : Nat} {dst : Nat} {lines : List (Nat × LineData)} (h : Kept s0 s) : Kept s0 (State.renewPage s p dst lines) := by
  unfold State.renewPage
  repeat' first
    | with_reducible assumption
    | (intro t b (ht : Kept s0 t))
    | (extract_lets +onlyGivenNames x; refine (fun (hx : Kept s0 x) => ?_) ?_; (on_goal 2 => unfold x; clear x); (on_goal 1 => clear_value x))
    | (extract_lets +onlyGivenNames x; clear_value x)
    | extract_lets +onlyGivenNames x
    | with_reducible apply State.putPage_kept
    | with_reducible apply State.updateLine_kept
    | with_reducible apply State.keepPage_kept
    | with_reducible apply Kept.foldl

theorem State.dropHeld_kept {s0 : State} {s : State} {c : Nat} (h : Kept s0 s) : Kept s0 (State.dropHeld s c) := by
  unfold State.dropHeld
  repeat' first
    | with_reducible assumption
    | (intro t b (ht : Kept s0 t))
    | (extract_lets +onlyGivenNames x; clear_value x)
    | extract_lets +onlyGivenNames x
    | with_reducible apply Kept.ite
    | with_reducible apply State.dropWrite_kept
    | with_reducible apply State.setCourier_kept
    | with_reducible apply Kept.foldl

theorem State.crWrite_kept {s0 : State} {s : State} {c : Nat} {p : Nat} {sl : Nat} {addr : Nat} {data : LineData} (h : Kept s0 s) : Kept s0 (State.crWrite s c p sl addr data) := by
  unfold State.crWrite
  repeat' first
    | with_reducible assumption
    | (extract_lets +onlyGivenNames x; clear_value x)
    | extract_lets +onlyGivenNames x
    | with_reducible apply Kept.ite
    | with_reducible apply State.updateLine_kept
    | with_reducible apply State.hcWrite_kept
    | with_reducible apply State.newId_kept
    | with_reducible apply State.hostWrite_kept

theorem State.crPut_kept {s0 : State} {s : State} {c : Nat} {dst : Nat} {data : LineData} (h : Kept s0 s) : Kept s0 (State.crPut s c dst data) := by
  unfold State.crPut
  repeat' first
    | with_reducible assumption
    | (extract_lets +onlyGivenNames x; refine (fun (hx : Kept s0 x) => ?_) ?_; (on_goal 2 => unfold x; clear x); (on_goal 1 => clear_value x))
    | (extract_lets +onlyGivenNames x; clear_value x)
    | extract_lets +onlyGivenNames x
    | with_reducible apply Kept.ite
    | with_reducible apply State.renewPage_kept
    | with_reducible apply State.setCourier_kept
    | with_reducible apply State.dropHeld_kept
    | with_reducible apply State.crWrite_kept

theorem State.courierLine_kept {s0 : State} {s : State} {c : Nat} {x : MemReads} (h : Kept s0 s) : Kept s0 (State.courierLine s c x) := by
  unfold State.courierLine
  repeat' first
    | with_reducible assumption
    | (intro t (ht : Kept s0 t))
    | (extract_lets +onlyGivenNames x; clear_value x)
    | extract_lets +onlyGivenNames x
    | with_reducible apply KeptO.some
    | with_reducible apply KeptO.ite
    | with_reducible apply Kept.ite
    | with_reducible apply State.crStop_kept
    | with_reducible apply State.courierFault_kept
    | with_reducible apply State.crMoved_kept
    | with_reducible apply State.killLineAt_kept
    | with_reducible apply State.crAsk_kept
    | with_reducible apply State.holdCourier_kept
    | with_reducible apply State.crSide_kept
    | with_reducible apply State.chargeLine_kept
    | with_reducible apply State.crAskWrite_kept
    | with_reducible apply State.crRead_kept
    | with_reducible apply State.crPoison_kept
    | with_reducible apply State.crPut_kept
    | with_reducible apply KeptO.bind
    | split
    | (with_reducible eapply Kept.of_snd; focus assumption)
    | (with_reducible eapply Kept.of_some; focus assumption)

theorem execCourierLine_kept {s0 : State} {c : Fin 448} {reads : MemReads} {upset : Option HomeUpset} {s : State} (h : Kept s0 s) : KeptX s0 (execCourierLine c reads upset s) := by
  unfold execCourierLine
  repeat' first
    | with_reducible assumption
    | (intro t (ht : Kept s0 t))
    | (extract_lets +onlyGivenNames x; clear_value x)
    | extract_lets +onlyGivenNames x
    | with_reducible apply KeptX.next
    | with_reducible apply Kept.ite
    | with_reducible apply State.progressAll_kept
    | with_reducible apply State.withUpset_kept
    | with_reducible apply State.courierLine_kept

theorem State.giveLine_kept {s0 : State} {s : State} {p : Nat} {line : Nat} {code : FillCode} {data : LineData} (h : Kept s0 s) : Kept s0 (State.giveLine s p line code data) := by
  unfold State.giveLine
  repeat' first
    | with_reducible assumption
    | (extract_lets +onlyGivenNames x; clear_value x)
    | extract_lets +onlyGivenNames x
    | with_reducible apply Kept.ite
    | fail_if_no_progress with_reducible refine Kept.mk' ?_ rfl rfl rfl rfl rfl

theorem State.serveFar_kept {s0 : State} {port : Nat} {f : MidOp → Bool} {x0 : Nat} {x1 : State} (h : Kept s0 x1) : Kept s0 (State.serveFar port f x0 x1) := by
  induction x0 generalizing x1 with
  | zero =>
    unfold State.serveFar
    repeat' with_reducible assumption
  | succ n ih =>
    unfold State.serveFar
    repeat' first
      | with_reducible assumption
      | with_reducible apply ih
      | (extract_lets +onlyGivenNames x; refine (fun (hx : Kept s0 x) => ?_) ?_; (on_goal 2 => unfold x; clear x); (on_goal 1 => clear_value x))
      | extract_lets +onlyGivenNames x
      | with_reducible apply Kept.ite
      | with_reducible apply State.memWrite_kept
      | with_reducible apply State.giveLine_kept
      | fail_if_no_progress with_reducible refine Kept.mk' ?_ rfl rfl rfl rfl rfl
      | split

theorem State.farDown_kept {s0 : State} {s : State} {port : Nat} (h : Kept s0 s) : Kept s0 (State.farDown s port) := by
  unfold State.farDown
  repeat' first
    | with_reducible assumption
    | (extract_lets +onlyGivenNames x; refine (fun (hx : Kept s0 x) => ?_) ?_; (on_goal 2 => unfold x; clear x); (on_goal 1 => clear_value x))
    | (extract_lets +onlyGivenNames x; clear_value x)
    | extract_lets +onlyGivenNames x
    | with_reducible apply State.setMid_kept
    | with_reducible apply State.setBit_kept
    | with_reducible apply State.setField_kept
    | with_reducible apply State.raise_kept
    | with_reducible apply State.serveFar_kept

theorem execFarUnavailable_kept {s0 : State} {port : Fin 8} {s : State} (h : Kept s0 s) : KeptX s0 (execFarUnavailable port s) := by
  unfold execFarUnavailable
  repeat' first
    | with_reducible assumption
    | extract_lets +onlyGivenNames x
    | with_reducible apply KeptX.next
    | with_reducible apply Kept.ite
    | with_reducible apply State.farDown_kept

theorem execFarPageReadDone_kept {s0 : State} {port : Fin 8} {page : BitVec 30} {tagFails : Fin 4} {s : State} (h : Kept s0 s) : KeptX s0 (execFarPageReadDone port page tagFails s) := by
  unfold execFarPageReadDone
  repeat' first
    | with_reducible assumption
    | (extract_lets +onlyGivenNames x; refine (fun (hx : Kept s0 x) => ?_) ?_; (on_goal 2 => unfold x; clear x); (on_goal 1 => clear_value x))
    | (extract_lets +onlyGivenNames x; clear_value x)
    | extract_lets +onlyGivenNames x
    | with_reducible apply KeptX.next
    | with_reducible apply Kept.ite
    | with_reducible apply State.keepPage_kept
    | with_reducible apply State.failPage_kept
    | with_reducible apply State.serveFar_kept
    | split

theorem State.doneWrite_kept {s0 : State} {s : State} {cr : Courier} (h : Kept s0 s) : Kept s0 (State.doneWrite s cr) := by
  unfold State.doneWrite
  repeat' first
    | with_reducible assumption
    | (extract_lets +onlyGivenNames x; clear_value x)
    | extract_lets +onlyGivenNames x
    | with_reducible apply Kept.ite
    | with_reducible apply State.writeHc_kept
    | with_reducible apply State.writeWord_kept

theorem State.phPartDone_kept {s0 : State} {s : State} {p : Nat} {h' : Nat} (h : Kept s0 s) : Kept s0 (State.phPartDone s p h') := by
  unfold State.phPartDone
  repeat' first
    | with_reducible assumption
    | (extract_lets +onlyGivenNames x; clear_value x)
    | extract_lets +onlyGivenNames x
    | with_reducible apply State.startPhParts_kept
    | with_reducible apply State.setPart_kept
    | split

theorem State.phFail_kept {s0 : State} {s : State} {p : Nat} {h' : Nat} (h : Kept s0 s) : Kept s0 (State.phFail s p h') := by
  unfold State.phFail
  repeat' first
    | with_reducible assumption
    | (intro t b (ht : Kept s0 t))
    | (extract_lets +onlyGivenNames x; refine (fun (hx : Kept s0 x) => ?_) ?_; (on_goal 2 => unfold x; clear x); (on_goal 1 => clear_value x))
    | (extract_lets +onlyGivenNames x; clear_value x)
    | extract_lets +onlyGivenNames x
    | with_reducible apply State.setPart_kept
    | with_reducible apply State.setBit_kept
    | with_reducible apply State.phWrite_kept
    | with_reducible apply State.setField_kept
    | with_reducible apply State.phTo_kept
    | with_reducible apply State.refuse_kept
    | with_reducible apply State.serve1_kept
    | with_reducible apply Kept.foldl

theorem State.endChain_kept {s0 : State} {s : State} {c : Nat} {status : Nat} (h : Kept s0 s) : Kept s0 (State.endChain s c status) := by
  unfold State.endChain
  repeat' first
    | with_reducible assumption
    | (intro t b (ht : Kept s0 t))
    | (extract_lets +onlyGivenNames x; refine (fun (hx : Kept s0 x) => ?_) ?_; (on_goal 2 => unfold x; clear x); (on_goal 1 => clear_value x))
    | (extract_lets +onlyGivenNames x; clear_value x)
    | extract_lets +onlyGivenNames x
    | with_reducible apply Kept.ite
    | with_reducible apply State.setCourier_kept
    | with_reducible apply State.atBase_kept
    | with_reducible apply State.setBit_kept
    | with_reducible apply State.phPartDone_kept
    | with_reducible apply State.phFail_kept
    | with_reducible apply State.finish_kept
    | with_reducible apply State.startChains_kept
    | with_reducible apply State.startPhParts_kept
    | split

theorem State.recordDone_kept {s0 : State} {s : State} {c : Nat} (h : Kept s0 s) : Kept s0 (State.recordDone s c) := by
  unfold State.recordDone
  repeat' first
    | with_reducible assumption
    | (extract_lets +onlyGivenNames x; refine (fun (hx : Kept s0 x) => ?_) ?_; (on_goal 2 => unfold x; clear x); (on_goal 1 => clear_value x))
    | (extract_lets +onlyGivenNames x; clear_value x)
    | extract_lets +onlyGivenNames x
    | with_reducible apply KeptO.some
    | with_reducible apply KeptO.ite
    | with_reducible apply Kept.ite
    | with_reducible apply State.dropHeld_kept
    | with_reducible apply State.askFlush_kept
    | with_reducible apply State.setCourier_kept
    | with_reducible apply State.crAskWrite_kept
    | with_reducible apply State.holdCourier_kept
    | with_reducible apply State.doneWrite_kept
    | with_reducible apply State.endChain_kept
    | split
    | (with_reducible eapply Kept.of_some; focus assumption)

theorem State.midFailed_kept {s0 : State} {s : State} {p : Nat} {line : Nat} {o : MidOp} (h : Kept s0 s) : Kept s0 (State.midFailed s p line o) := by
  unfold State.midFailed
  repeat' first
    | with_reducible assumption
    | (extract_lets +onlyGivenNames x; refine (fun (hx : Kept s0 x) => ?_) ?_; (on_goal 2 => unfold x; clear x); (on_goal 1 => clear_value x))
    | extract_lets +onlyGivenNames x
    | with_reducible apply Kept.ite
    | with_reducible apply State.poisonLine_kept
    | with_reducible apply State.memWrite_kept
    | with_reducible apply State.giveLine_kept
    | with_reducible apply State.drainWrites_kept
    | fail_if_no_progress with_reducible refine Kept.mk' ?_ rfl rfl rfl rfl rfl

theorem State.midPassed_kept {s0 : State} {s : State} {p : Nat} {line : Nat} {o : MidOp} {errs : List SectorErr} (h : Kept s0 s) : Kept s0 (State.midPassed s p line o errs) := by
  unfold State.midPassed
  repeat' first
    | with_reducible assumption
    | (extract_lets +onlyGivenNames x; refine (fun (hx : Kept s0 x) => ?_) ?_; (on_goal 2 => unfold x; clear x); (on_goal 1 => clear_value x))
    | extract_lets +onlyGivenNames x
    | with_reducible apply Kept.ite
    | with_reducible apply State.memWrite_kept
    | with_reducible apply State.giveLine_kept
    | with_reducible apply State.drainWrites_kept
    | fail_if_no_progress with_reducible refine Kept.mk' ?_ rfl rfl rfl rfl rfl

theorem execSectorMergeWrite_kept {s0 : State} {p : Fin 6} {line : BitVec 41} {reads : List (List SectorErr)} {s : State} (h : Kept s0 s) : KeptX s0 (execSectorMergeWrite p line reads s) := by
  unfold execSectorMergeWrite
  repeat' first
    | with_reducible assumption
    | (extract_lets +onlyGivenNames x; clear_value x)
    | extract_lets +onlyGivenNames x
    | with_reducible apply KeptX.next
    | with_reducible apply Kept.ite
    | with_reducible apply State.midFailed_kept
    | with_reducible apply State.midPassed_kept
    | with_reducible apply State.rereadPassed_kept
    | split

theorem execHbmLaneRemapped_kept {s0 : State} {stack : Fin 32} {channel : Fin 32} {lane : Fin 32} {s : State} (h : Kept s0 s) : KeptX s0 (execHbmLaneRemapped stack channel lane s) := by
  unfold execHbmLaneRemapped
  repeat' first
    | with_reducible assumption
    | (extract_lets +onlyGivenNames x; refine (fun (hx : Kept s0 x) => ?_) ?_; (on_goal 2 => unfold x; clear x); (on_goal 1 => clear_value x))
    | (extract_lets +onlyGivenNames x; clear_value x)
    | extract_lets +onlyGivenNames x
    | with_reducible apply KeptX.next
    | with_reducible apply Kept.ite
    | with_reducible apply State.setMid_kept
    | with_reducible apply State.raise_kept
    | with_reducible apply State.setBit_kept
    | with_reducible apply State.setField_kept

theorem execCourierRecordDone_kept {s0 : State} {c : Fin 448} {s : State} (h : Kept s0 s) : KeptX s0 (execCourierRecordDone c s) := by
  unfold execCourierRecordDone
  repeat' first
    | with_reducible assumption
    | extract_lets +onlyGivenNames x
    | with_reducible apply KeptX.next
    | with_reducible apply State.recordDone_kept

theorem State.setMidHead_kept {s0 : State} {s : State} {p : Nat} {line : Nat} {o : MidOp} (h : Kept s0 s) : Kept s0 (State.setMidHead s p line o) := by
  unfold State.setMidHead
  repeat' first
    | with_reducible assumption
    | fail_if_no_progress with_reducible refine Kept.mk' ?_ rfl rfl rfl rfl rfl

theorem execHbmReread_kept {s0 : State} {p : Fin 6} {line : BitVec 41} {errs : List SectorErr} {s : State} (h : Kept s0 s) : KeptX s0 (execHbmReread p line errs s) := by
  unfold execHbmReread
  repeat' first
    | with_reducible assumption
    | extract_lets +onlyGivenNames x
    | with_reducible apply KeptX.next
    | with_reducible apply Kept.ite
    | with_reducible apply State.midPassed_kept
    | with_reducible apply State.rereadPassed_kept
    | with_reducible apply State.setMidHead_kept
    | with_reducible apply State.midFailed_kept
    | split

theorem State.crWord_kept {s0 : State} {s : State} {c : Nat} {p : Nat} {addr : Nat} {n : Nat} (h : Kept s0 s) : Kept s0 (State.crWord s c p addr n).2.2 := by
  unfold State.crWord
  repeat' first
    | with_reducible assumption
    | (extract_lets +onlyGivenNames x; refine (fun (hx : Kept s0 x) => ?_) ?_; (on_goal 2 => unfold x; clear x); (on_goal 1 => clear_value x))
    | (extract_lets +onlyGivenNames x; clear_value x)
    | extract_lets +onlyGivenNames x
    | with_reducible apply State.hostLine_kept
    | with_reducible apply State.closeFor_kept
    | with_reducible apply State.deadRead_kept
    | with_reducible apply Kept.ite_snd_snd
    | split

theorem State.tryGate_kept {s0 : State} {s : State} {c : Nat} {x : MemReads} (h : Kept s0 s) : Kept s0 (State.tryGate s c x) := by
  unfold State.tryGate
  repeat' first
    | with_reducible assumption
    | (extract_lets +onlyGivenNames x; clear_value x)
    | extract_lets +onlyGivenNames x
    | with_reducible apply Kept.ite
    | with_reducible apply State.setCourier_kept
    | with_reducible apply State.crAsk_kept
    | with_reducible apply State.holdCourier_kept
    | with_reducible apply State.crWord_kept
    | with_reducible apply State.crPoison_kept
    | split
    | (with_reducible eapply Kept.of_snd_snd; focus assumption)
    | (with_reducible eapply Kept.of_some; focus assumption)

theorem State.recordStart_kept {s0 : State} {s : State} {c : Nat} {x : MemReads} (h : Kept s0 s) : Kept s0 (State.recordStart s c x) := by
  unfold State.recordStart
  repeat' first
    | with_reducible assumption
    | (extract_lets +onlyGivenNames x; refine (fun (hx : Kept s0 x) => ?_) ?_; (on_goal 2 => unfold x; clear x); (on_goal 1 => clear_value x))
    | (extract_lets +onlyGivenNames x; clear_value x)
    | extract_lets +onlyGivenNames x
    | with_reducible apply Kept.ite
    | with_reducible apply State.setCourier_kept
    | with_reducible apply State.crStop_kept
    | with_reducible apply State.courierFault_kept
    | with_reducible apply State.crAsk_kept
    | with_reducible apply State.holdCourier_kept
    | with_reducible apply State.closeFor_kept
    | with_reducible apply State.crPoison_kept
    | with_reducible apply State.deadRead_kept
    | with_reducible apply State.tryGate_kept
    | split
    | (with_reducible eapply Kept.of_some; focus assumption)

theorem execHbmReadDone_kept {s0 : State} {p : Fin 6} {line : BitVec 41} {errs : List SectorErr} {s : State} (h : Kept s0 s) : KeptX s0 (execHbmReadDone p line errs s) := by
  unfold execHbmReadDone
  repeat' first
    | with_reducible assumption
    | extract_lets +onlyGivenNames x
    | with_reducible apply KeptX.next
    | with_reducible apply Kept.ite
    | with_reducible apply State.setMidHead_kept
    | with_reducible apply State.midPassed_kept
    | split

theorem State.gateAgain_kept {s0 : State} {s : State} {c : Nat} {x : MemReads} (h : Kept s0 s) : Kept s0 (State.gateAgain s c x) := by
  unfold State.gateAgain
  repeat' first
    | with_reducible assumption
    | (extract_lets +onlyGivenNames x; clear_value x)
    | extract_lets +onlyGivenNames x
    | with_reducible apply Kept.ite
    | with_reducible apply State.crStop_kept
    | with_reducible apply State.tryGate_kept

theorem State.startNext_kept {s0 : State} {s : State} {c : Nat} {x : MemReads} (h : Kept s0 s) : Kept s0 (State.startNext s c x) := by
  unfold State.startNext
  repeat' first
    | with_reducible assumption
    | (extract_lets +onlyGivenNames x; clear_value x)
    | extract_lets +onlyGivenNames x
    | with_reducible apply Kept.ite
    | with_reducible apply State.recordStart_kept

theorem State.refill_kept {s0 : State} {s : State} {a : Nat} (h : Kept s0 s) : Kept s0 (State.refill s a) := by
  unfold State.refill
  repeat' first
    | with_reducible assumption
    | (extract_lets +onlyGivenNames x; clear_value x)
    | with_reducible apply State.setReg_kept

theorem State.offer_kept {s0 : State} {s : State} {h' : Held} (h : Kept s0 s) : Kept s0 (State.offer s h') := by
  unfold State.offer
  repeat' first
    | with_reducible assumption
    | (extract_lets +onlyGivenNames x; clear_value x)
    | extract_lets +onlyGivenNames x
    | with_reducible apply Kept.ite
    | with_reducible apply State.gateAgain_kept
    | with_reducible apply State.startNext_kept
    | with_reducible apply State.courierLine_kept
    | with_reducible apply State.recordDone_kept
    | with_reducible apply State.sendPair_kept
    | with_reducible apply State.contribution_kept
    | with_reducible apply State.homeAccess_kept
    | split

theorem execRegulatorTick_kept {s0 : State} {s : State} (h : Kept s0 s) : KeptX s0 (execRegulatorTick s) := by
  unfold execRegulatorTick
  repeat' first
    | with_reducible assumption
    | (intro t b (ht : Kept s0 t))
    | (extract_lets +onlyGivenNames x; refine (fun (hx : Kept s0 x) => ?_) ?_; (on_goal 2 => unfold x; clear x); (on_goal 1 => clear_value x))
    | (extract_lets +onlyGivenNames x; clear_value x)
    | extract_lets +onlyGivenNames x
    | with_reducible apply KeptX.next
    | with_reducible apply State.refill_kept
    | with_reducible apply State.offer_kept
    | fail_if_no_progress with_reducible refine Kept.mk' ?_ rfl rfl rfl rfl rfl
    | with_reducible apply Kept.foldl

theorem State.logRepair_kept {s0 : State} {s : State} {g : Nat} {page : Nat} {subst : Bool} (h : Kept s0 s) : Kept s0 (State.logRepair s g page subst) := by
  unfold State.logRepair
  repeat' first
    | with_reducible assumption
    | (extract_lets +onlyGivenNames x; clear_value x)
    | fail_if_no_progress with_reducible refine Kept.mk' ?_ rfl rfl rfl rfl rfl

theorem execPageRetireDone_kept {s0 : State} {p : Fin 6} {line : BitVec 41} {repairRow : Bool} {s : State} (h : Kept s0 s) : KeptX s0 (execPageRetireDone p line repairRow s) := by
  unfold execPageRetireDone
  repeat' first
    | with_reducible assumption
    | (intro t (ht : Kept s0 t))
    | (extract_lets +onlyGivenNames x; refine (fun (hx : Kept s0 x) => ?_) ?_; (on_goal 2 => unfold x; clear x); (on_goal 1 => clear_value x))
    | (extract_lets +onlyGivenNames x; refine (fun (hx : ∀ t, Kept s0 t → Kept s0 (x t)) => ?_) ?_; (on_goal 2 => unfold x; clear x); (on_goal 1 => clear_value x))
    | (extract_lets +onlyGivenNames x; clear_value x)
    | extract_lets +onlyGivenNames x
    | with_reducible apply KeptX.next
    | with_reducible apply Kept.ite
    | with_reducible apply State.setMid_kept
    | with_reducible apply State.raise_kept
    | with_reducible apply State.setBit_kept
    | with_reducible apply State.logRepair_kept
    | with_reducible apply State.setField_kept
    | with_reducible apply_assumption

theorem execCourierRecordStart_kept {s0 : State} {c : Fin 448} {reads : MemReads} {s : State} (h : Kept s0 s) : KeptX s0 (execCourierRecordStart c reads s) := by
  unfold execCourierRecordStart
  repeat' first
    | with_reducible assumption
    | extract_lets +onlyGivenNames x
    | with_reducible apply KeptX.next
    | with_reducible apply State.startNext_kept

theorem execCourierGateReread_kept {s0 : State} {c : Fin 448} {reads : MemReads} {s : State} (h : Kept s0 s) : KeptX s0 (execCourierGateReread c reads s) := by
  unfold execCourierGateReread
  repeat' first
    | with_reducible assumption
    | extract_lets +onlyGivenNames x
    | with_reducible apply KeptX.next
    | with_reducible apply State.gateAgain_kept

end Sys2Proof.Machine
end

