-- ==== Sys2Proof/Laws/KeptLinks.lean ====
section
/-! SUPPORT. What the operations of Machine/Links.lean keep. -/

namespace Sys2Proof.Machine

set_option linter.tactic.unusedName false

theorem State.setHalf_kept {s0 : State} {s : State} {k : Nat} {h' : Half} (h : Kept s0 s) : Kept s0 (State.setHalf s k h') := by
  unfold State.setHalf
  repeat' first
    | with_reducible assumption
    | fail_if_no_progress with_reducible refine Kept.mk' ?_ rfl rfl rfl rfl rfl

theorem State.sendControl_kept {s0 : State} {s : State} {site : Nat} {c : Nat} {str : Nat} {type : Nat} {count : Nat} (h : Kept s0 s) : Kept s0 (State.sendControl s site c str type count) := by
  unfold State.sendControl
  repeat' first
    | with_reducible assumption
    | (extract_lets +onlyGivenNames x; clear_value x)
    | with_reducible apply State.setHalf_kept

theorem State.sendString_kept {s0 : State} {s : State} {site : Nat} {c : Nat} {k : Packet} (h : Kept s0 s) : Kept s0 (State.sendString s site c k) := by
  unfold State.sendString
  repeat' first
    | with_reducible assumption
    | (extract_lets +onlyGivenNames x; clear_value x)
    | with_reducible apply State.setHalf_kept
    | split

theorem State.sendOrdinary_kept {s0 : State} {s : State} {site : Nat} {c : Nat} {k : Packet} (h : Kept s0 s) : Kept s0 (State.sendOrdinary s site c k) := by
  unfold State.sendOrdinary
  repeat' first
    | with_reducible assumption
    | with_reducible apply State.sendString_kept
    | fail_if_no_progress with_reducible refine Kept.mk' ?_ rfl rfl rfl rfl rfl
    | split

theorem State.forward_kept {s0 : State} {s : State} {site : Nat} {k : Packet} (h : Kept s0 s) : Kept s0 (State.forward s site k) := by
  unfold State.forward
  repeat' first
    | with_reducible assumption
    | (extract_lets +onlyGivenNames x; clear_value x)
    | extract_lets +onlyGivenNames x
    | with_reducible apply Kept.ite
    | with_reducible apply State.sendOrdinary_kept
    | fail_if_no_progress with_reducible refine Kept.mk' ?_ rfl rfl rfl rfl rfl
    | split

theorem State.receive_kept {s0 : State} {s : State} {site : Nat} {c : Nat} {str : Nat} {k : Packet} (h : Kept s0 s) : Kept s0 (State.receive s site c str k) := by
  unfold State.receive
  repeat' first
    | with_reducible assumption
    | (extract_lets +onlyGivenNames x; refine (fun (hx : Kept s0 x) => ?_) ?_; (on_goal 2 => unfold x; clear x); (on_goal 1 => clear_value x))
    | (extract_lets +onlyGivenNames x; clear_value x)
    | extract_lets +onlyGivenNames x
    | with_reducible apply Kept.ite
    | with_reducible apply State.sendControl_kept
    | with_reducible apply State.setHalf_kept
    | with_reducible apply State.forward_kept

theorem execPacketReceive_kept {s0 : State} {site : Fin 108} {course : Fin 4} {str : Fin 32} {pkt : Packet} {s : State} (h : Kept s0 s) : KeptX s0 (execPacketReceive site course str pkt s) := by
  unfold execPacketReceive
  repeat' first
    | with_reducible assumption
    | extract_lets +onlyGivenNames x
    | with_reducible apply KeptX.next
    | with_reducible apply State.receive_kept

theorem State.retireEnd_kept {s0 : State} {s : State} {site : Nat} {c : Nat} {str : Nat} (h : Kept s0 s) : Kept s0 (State.retireEnd s site c str) := by
  unfold State.retireEnd
  repeat' first
    | with_reducible assumption
    | (extract_lets +onlyGivenNames x; refine (fun (hx : Kept s0 x) => ?_) ?_; (on_goal 2 => unfold x; clear x); (on_goal 1 => clear_value x))
    | (extract_lets +onlyGivenNames x; clear_value x)
    | extract_lets +onlyGivenNames x
    | with_reducible apply State.clearBit_kept
    | with_reducible apply State.setBit_kept
    | split

theorem State.linkRecord_kept {s0 : State} {s : State} {site : Nat} {c : Nat} {str : Nat} {lane : Nat} {event : Nat} (h : Kept s0 s) : Kept s0 (State.linkRecord s site c str lane event) := by
  unfold State.linkRecord
  repeat' first
    | with_reducible assumption
    | extract_lets +onlyGivenNames x
    | with_reducible apply Kept.ite
    | with_reducible apply State.setReg_kept

theorem State.errorResponses_kept {s0 : State} {s : State} {p : Nat} {site : Nat} {die : Option Nat} (h : Kept s0 s) : Kept s0 (State.errorResponses s p site die) := by
  unfold State.errorResponses
  repeat' first
    | with_reducible assumption
    | (intro t b (ht : Kept s0 t))
    | (extract_lets +onlyGivenNames x; clear_value x)
    | extract_lets +onlyGivenNames x
    | with_reducible apply Kept.ite
    | with_reducible apply State.complete_kept
    | fail_if_no_progress with_reducible refine Kept.mk' ?_ rfl rfl rfl rfl rfl
    | with_reducible apply Kept.foldl

theorem State.dieAnswered_kept {s0 : State} {s : State} {p : Option Nat} {site : Nat} {die : Option Nat} (h : Kept s0 s) : Kept s0 (State.dieAnswered s p site die) := by
  unfold State.dieAnswered
  repeat' first
    | with_reducible assumption
    | with_reducible apply State.errorResponses_kept
    | split

theorem State.dieLost_kept {s0 : State} {s : State} {site : Nat} {declared : Nat} {c : Nat} (h : Kept s0 s) : Kept s0 (State.dieLost s site declared c) := by
  unfold State.dieLost
  repeat' first
    | with_reducible assumption
    | (extract_lets +onlyGivenNames x; refine (fun (hx : Kept s0 x) => ?_) ?_; (on_goal 2 => unfold x; clear x); (on_goal 1 => clear_value x))
    | (extract_lets +onlyGivenNames x; clear_value x)
    | extract_lets +onlyGivenNames x
    | with_reducible apply Kept.ite
    | with_reducible apply State.dieAnswered_kept
    | with_reducible apply State.setBit_kept
    | with_reducible apply State.setReg_kept
    | with_reducible apply State.clearBit_kept
    | with_reducible apply State.recordDie_kept
    | with_reducible apply State.raise_kept
    | fail_if_no_progress with_reducible refine Kept.mk' ?_ rfl rfl rfl rfl rfl

theorem State.settleCourse_kept {s0 : State} {s : State} {site : Nat} {c : Nat} (h : Kept s0 s) : Kept s0 (State.settleCourse s site c) := by
  unfold State.settleCourse
  repeat' first
    | with_reducible assumption
    | (extract_lets +onlyGivenNames x; refine (fun (hx : Kept s0 x) => ?_) ?_; (on_goal 2 => unfold x; clear x); (on_goal 1 => clear_value x))
    | (extract_lets +onlyGivenNames x; clear_value x)
    | extract_lets +onlyGivenNames x
    | with_reducible apply Kept.ite
    | with_reducible apply State.setField_kept
    | with_reducible apply State.linkRecord_kept
    | with_reducible apply State.setBit_kept
    | with_reducible apply State.dieLost_kept
    | with_reducible apply State.raise_kept
    | fail_if_no_progress with_reducible refine Kept.mk' ?_ rfl rfl rfl rfl rfl

theorem State.syncCourse_kept {s0 : State} {s : State} {site : Nat} {c : Nat} (h : Kept s0 s) : Kept s0 (State.syncCourse s site c) := by
  unfold State.syncCourse
  repeat' first
    | with_reducible assumption
    | (intro t b (ht : Kept s0 t))
    | (extract_lets +onlyGivenNames x; refine (fun (hx : Kept s0 x) => ?_) ?_; (on_goal 2 => unfold x; clear x); (on_goal 1 => clear_value x))
    | (extract_lets +onlyGivenNames x; clear_value x)
    | extract_lets +onlyGivenNames x
    | with_reducible apply Kept.ite
    | with_reducible apply State.retireEnd_kept
    | with_reducible apply State.settleCourse_kept
    | with_reducible apply Kept.foldl

theorem State.fillTransit_kept {s0 : State} {s : State} {site : Nat} {c : Nat} (h : Kept s0 s) : Kept s0 (State.fillTransit s site c) := by
  unfold State.fillTransit
  repeat' first
    | with_reducible assumption
    | (intro t b (ht : Kept s0 t))
    | extract_lets +onlyGivenNames x
    | with_reducible apply Kept.ite
    | with_reducible apply State.setBit_kept
    | with_reducible apply Kept.foldl
    | split

theorem State.tuneCourse_kept {s0 : State} {s : State} {fails : List LaneFail} {site : Nat} {c : Nat} (h : Kept s0 s) : Kept s0 (State.tuneCourse s fails site c) := by
  unfold State.tuneCourse
  repeat' first
    | with_reducible assumption
    | (intro t b (ht : Kept s0 t))
    | (extract_lets +onlyGivenNames x; refine (fun (hx : Kept s0 x) => ?_) ?_; (on_goal 2 => unfold x; clear x); (on_goal 1 => clear_value x))
    | (extract_lets +onlyGivenNames x; clear_value x)
    | extract_lets +onlyGivenNames x
    | with_reducible apply Kept.ite
    | with_reducible apply State.setReg_kept
    | with_reducible apply State.setBit_kept
    | with_reducible apply State.fillTransit_kept
    | with_reducible apply State.settleCourse_kept
    | fail_if_no_progress with_reducible refine Kept.mk' ?_ rfl rfl rfl rfl rfl
    | with_reducible apply Kept.foldl

theorem execNeighbourLost_kept {s0 : State} {site : Fin 108} {course : Fin 4} {s : State} (h : Kept s0 s) : KeptX s0 (execNeighbourLost site course s) := by
  unfold execNeighbourLost
  repeat' first
    | with_reducible assumption
    | (extract_lets +onlyGivenNames x; refine (fun (hx : Kept s0 x) => ?_) ?_; (on_goal 2 => unfold x; clear x); (on_goal 1 => clear_value x))
    | (extract_lets +onlyGivenNames x; clear_value x)
    | extract_lets +onlyGivenNames x
    | with_reducible apply KeptX.next
    | with_reducible apply Kept.ite
    | with_reducible apply State.linkRecord_kept
    | with_reducible apply State.setBit_kept
    | with_reducible apply State.setField_kept
    | with_reducible apply State.dieLost_kept

theorem State.transitSlotWrite_kept {s0 : State} {s : State} {site : Nat} {i : Nat} {v : W32} (h : Kept s0 s) : Kept s0 (State.transitSlotWrite s site i v) := by
  unfold State.transitSlotWrite
  repeat' first
    | with_reducible assumption
    | (extract_lets +onlyGivenNames x; clear_value x)
    | extract_lets +onlyGivenNames x
    | with_reducible apply Kept.ite
    | with_reducible apply State.setReg_kept

theorem State.sendSlot_kept {s0 : State} {s : State} {site : Nat} {c : Nat} {slot : Nat} (h : Kept s0 s) : Kept s0 (State.sendSlot s site c slot) := by
  unfold State.sendSlot
  repeat' first
    | with_reducible assumption
    | (extract_lets +onlyGivenNames x; clear_value x)
    | extract_lets +onlyGivenNames x
    | with_reducible apply Kept.ite
    | fail_if_no_progress with_reducible refine Kept.mk' ?_ rfl rfl rfl rfl rfl
    | split

theorem execTransitFrame_kept {s0 : State} {site : Fin 108} {course : Fin 4} {s : State} (h : Kept s0 s) : KeptX s0 (execTransitFrame site course s) := by
  unfold execTransitFrame
  repeat' first
    | with_reducible assumption
    | (intro t b (ht : Kept s0 t))
    | extract_lets +onlyGivenNames x
    | with_reducible apply KeptX.next
    | with_reducible apply Kept.ite
    | with_reducible apply State.sendSlot_kept
    | with_reducible apply Kept.foldl

theorem State.ackHalf_kept {s0 : State} {s : State} {key : Nat} (h : Kept s0 s) : Kept s0 (State.ackHalf s key) := by
  unfold State.ackHalf
  repeat' first
    | with_reducible assumption
    | (extract_lets +onlyGivenNames x; clear_value x)
    | extract_lets +onlyGivenNames x
    | with_reducible apply Kept.ite
    | with_reducible apply State.sendControl_kept
    | with_reducible apply State.setHalf_kept

theorem State.leaveTransit_kept {s0 : State} {s : State} {key : Nat} {egress : Nat} {y : TransitPath} {q : Packet} (h : Kept s0 s) : Kept s0 (State.leaveTransit s key egress y q) := by
  unfold State.leaveTransit
  repeat' first
    | with_reducible assumption
    | extract_lets +onlyGivenNames x
    | with_reducible apply Kept.ite
    | with_reducible apply State.forward_kept
    | fail_if_no_progress with_reducible refine Kept.mk' ?_ rfl rfl rfl rfl rfl

theorem State.releaseCourse_kept {s0 : State} {s : State} {site : Nat} {c : Nat} (h : Kept s0 s) : Kept s0 (State.releaseCourse s site c) := by
  unfold State.releaseCourse
  repeat' first
    | with_reducible assumption
    | (intro t b (ht : Kept s0 t))
    | extract_lets +onlyGivenNames x
    | with_reducible apply Kept.ite
    | with_reducible apply State.sendString_kept
    | fail_if_no_progress with_reducible refine Kept.mk' ?_ rfl rfl rfl rfl rfl
    | with_reducible apply Kept.foldl
    | split

theorem State.holdCourse_kept {s0 : State} {s : State} {site : Nat} {c : Nat} (h : Kept s0 s) : Kept s0 (State.holdCourse s site c) := by
  unfold State.holdCourse
  repeat' first
    | with_reducible assumption
    | (intro t b (ht : Kept s0 t))
    | (extract_lets +onlyGivenNames x; refine (fun (hx : Kept s0 x) => ?_) ?_; (on_goal 2 => unfold x; clear x); (on_goal 1 => clear_value x))
    | (extract_lets +onlyGivenNames x; clear_value x)
    | extract_lets +onlyGivenNames x
    | with_reducible apply State.setHalf_kept
    | fail_if_no_progress with_reducible refine Kept.mk' ?_ rfl rfl rfl rfl rfl
    | with_reducible apply Kept.foldl
    | split

theorem State.moveReplay_kept {s0 : State} {s : State} {site : Nat} {c : Nat} {str : Nat} (h : Kept s0 s) : Kept s0 (State.moveReplay s site c str) := by
  unfold State.moveReplay
  repeat' first
    | with_reducible assumption
    | (extract_lets +onlyGivenNames x; refine (fun (hx : Kept s0 x) => ?_) ?_; (on_goal 2 => unfold x; clear x); (on_goal 1 => clear_value x))
    | (extract_lets +onlyGivenNames x; clear_value x)
    | extract_lets +onlyGivenNames x
    | with_reducible apply State.setHalf_kept
    | with_reducible apply State.releaseCourse_kept
    | with_reducible apply State.holdCourse_kept
    | fail_if_no_progress with_reducible refine Kept.mk' ?_ rfl rfl rfl rfl rfl

theorem execPacketAcknowledgement_kept {s0 : State} {site : Fin 108} {course : Fin 4} {str : Fin 32} {count : BitVec 41} {s : State} (h : Kept s0 s) : KeptX s0 (execPacketAcknowledgement site course str count s) := by
  unfold execPacketAcknowledgement
  repeat' first
    | with_reducible assumption
    | (extract_lets +onlyGivenNames x; clear_value x)
    | extract_lets +onlyGivenNames x
    | with_reducible apply KeptX.next
    | with_reducible apply Kept.ite
    | with_reducible apply State.releaseCourse_kept
    | with_reducible apply State.setHalf_kept

theorem execRerouted_kept {s0 : State} {p : Fin 6} {lost : Fin 108} {s : State} (h : Kept s0 s) : KeptX s0 (execRerouted p lost s) := by
  unfold execRerouted
  repeat' first
    | with_reducible assumption
    | (intro t b (ht : Kept s0 t))
    | (extract_lets +onlyGivenNames x; refine (fun (hx : Kept s0 x) => ?_) ?_; (on_goal 2 => unfold x; clear x); (on_goal 1 => clear_value x))
    | (extract_lets +onlyGivenNames x; clear_value x)
    | extract_lets +onlyGivenNames x
    | with_reducible apply KeptX.next
    | with_reducible apply Kept.ite
    | with_reducible apply State.setBit_kept
    | with_reducible apply State.raise_kept
    | fail_if_no_progress with_reducible refine Kept.mk' ?_ rfl rfl rfl rfl rfl
    | with_reducible apply Kept.foldl
    | split

theorem State.tuneSite_kept {s0 : State} {s : State} {fails : List LaneFail} {site : Nat} (h : Kept s0 s) : Kept s0 (State.tuneSite s fails site) := by
  unfold State.tuneSite
  repeat' first
    | with_reducible assumption
    | (intro t b (ht : Kept s0 t))
    | extract_lets +onlyGivenNames x
    | with_reducible apply State.setBit_kept
    | with_reducible apply State.tuneCourse_kept
    | with_reducible apply Kept.foldl

theorem execRetry_kept {s0 : State} {site : Fin 108} {course : Fin 4} {str : Fin 32} {count : BitVec 41} {s : State} (h : Kept s0 s) : KeptX s0 (execRetry site course str count s) := by
  unfold execRetry
  repeat' first
    | with_reducible assumption
    | (extract_lets +onlyGivenNames x; clear_value x)
    | extract_lets +onlyGivenNames x
    | with_reducible apply KeptX.next
    | with_reducible apply Kept.ite
    | with_reducible apply State.count_kept
    | with_reducible apply State.setHalf_kept

theorem execBeacon_kept {s0 : State} {site : Fin 108} {course : Fin 4} {str : Fin 32} {s : State} (h : Kept s0 s) : KeptX s0 (execBeacon site course str s) := by
  unfold execBeacon
  repeat' first
    | with_reducible assumption
    | (extract_lets +onlyGivenNames x; clear_value x)
    | extract_lets +onlyGivenNames x
    | with_reducible apply KeptX.next
    | with_reducible apply Kept.ite
    | with_reducible apply State.draw_kept
    | with_reducible apply State.sendControl_kept

theorem State.retireString_kept {s0 : State} {s : State} {site : Nat} {c : Nat} {str : Nat} (h : Kept s0 s) : Kept s0 (State.retireString s site c str) := by
  unfold State.retireString
  repeat' first
    | with_reducible assumption
    | (extract_lets +onlyGivenNames x; refine (fun (hx : Kept s0 x) => ?_) ?_; (on_goal 2 => unfold x; clear x); (on_goal 1 => clear_value x))
    | (extract_lets +onlyGivenNames x; clear_value x)
    | extract_lets +onlyGivenNames x
    | with_reducible apply Kept.ite
    | with_reducible apply State.retireEnd_kept
    | with_reducible apply State.moveReplay_kept
    | with_reducible apply State.linkRecord_kept
    | with_reducible apply State.setBit_kept
    | with_reducible apply State.raise_kept
    | with_reducible apply State.settleCourse_kept

theorem execLaneSpared_kept {s0 : State} {site : Fin 108} {course : Fin 4} {str : Fin 32} {lane : Fin 64} {s : State} (h : Kept s0 s) : KeptX s0 (execLaneSpared site course str lane s) := by
  unfold execLaneSpared
  repeat' first
    | with_reducible assumption
    | (extract_lets +onlyGivenNames x; refine (fun (hx : Kept s0 x) => ?_) ?_; (on_goal 2 => unfold x; clear x); (on_goal 1 => clear_value x))
    | (extract_lets +onlyGivenNames x; clear_value x)
    | extract_lets +onlyGivenNames x
    | with_reducible apply KeptX.next
    | with_reducible apply Kept.ite
    | with_reducible apply State.setHalf_kept
    | with_reducible apply State.setField_kept
    | with_reducible apply State.setBit_kept
    | with_reducible apply State.linkRecord_kept
    | with_reducible apply State.raise_kept
    | with_reducible apply State.retireString_kept

theorem execTransitEgress_kept {s0 : State} {p : Fin 6} {ingress : Fin 119} {egress : Fin 119} {seq : BitVec 57} {tagOk : Bool} {s : State} (h : Kept s0 s) : KeptX s0 (execTransitEgress p ingress egress seq tagOk s) := by
  unfold execTransitEgress
  repeat' first
    | with_reducible assumption
    | (intro t b (ht : Kept s0 t))
    | (extract_lets +onlyGivenNames x; refine (fun (hx : Kept s0 x) => ?_) ?_; (on_goal 2 => unfold x; clear x); (on_goal 1 => clear_value x))
    | (extract_lets +onlyGivenNames x; refine (fun (hx : ∀ t a, Kept s0 t → Kept s0 (x t a)) => ?_) ?_; (on_goal 2 => unfold x; clear x); (on_goal 1 => clear_value x))
    | (extract_lets +onlyGivenNames x; clear_value x)
    | extract_lets +onlyGivenNames x
    | with_reducible apply KeptX.next
    | with_reducible apply Kept.ite
    | with_reducible apply State.leaveTransit_kept
    | with_reducible apply State.raise_kept
    | with_reducible apply State.setBit_kept
    | fail_if_no_progress with_reducible refine Kept.mk' ?_ rfl rfl rfl rfl rfl
    | split
    | with_reducible apply_assumption

theorem execTransitSlotWrite_kept {s0 : State} {site : Fin 108} {i : Fin 12} {v : BitVec 32} {s : State} (h : Kept s0 s) : KeptX s0 (execTransitSlotWrite site i v s) := by
  unfold execTransitSlotWrite
  repeat' first
    | with_reducible assumption
    | extract_lets +onlyGivenNames x
    | with_reducible apply KeptX.next
    | with_reducible apply State.transitSlotWrite_kept

end Sys2Proof.Machine
end

