-- ==== Sys2Proof/Laws/KeptFaults.lean ====
section
/-! SUPPORT. What the operations of Machine/Faults.lean keep. -/

namespace Sys2Proof.Machine

set_option linter.tactic.unusedName false

theorem State.queueWrite_kept {s0 : State} {s : State} {r : FaultRec} {count : Nat} (h : Kept s0 s) : Kept s0 (State.queueWrite s r count) := by
  unfold State.queueWrite
  repeat' first
    | with_reducible assumption
    | (extract_lets +onlyGivenNames x; clear_value x)
    | extract_lets +onlyGivenNames x
    | with_reducible apply Kept.ite
    | with_reducible apply State.setBit_kept
    | with_reducible apply State.setField_kept
    | fail_if_no_progress with_reducible refine Kept.mk' ?_ rfl rfl rfl rfl rfl

theorem State.hidWrite_kept {s0 : State} {s : State} {p : Nat} {port : Nat} {addr : Nat} {n : Nat} {v : Nat} (h : Kept s0 s) : Kept s0 (State.hidWrite s p port addr n v) := by
  unfold State.hidWrite
  repeat' first
    | with_reducible assumption
    | (extract_lets +onlyGivenNames x; refine (fun (hx : Kept s0 x) => ?_) ?_; (on_goal 2 => unfold x; clear x); (on_goal 1 => clear_value x))
    | (extract_lets +onlyGivenNames x; clear_value x)
    | extract_lets +onlyGivenNames x
    | with_reducible apply Kept.ite
    | with_reducible apply State.setSlice_kept
    | with_reducible apply State.hostLineOut_kept
    | fail_if_no_progress with_reducible refine Kept.mk' ?_ rfl rfl rfl rfl rfl
    | split

theorem State.ringWrite_kept {s0 : State} {s : State} {port : Nat} {r : FaultRec} {count : Nat} (h : Kept s0 s) : Kept s0 (State.ringWrite s port r count) := by
  unfold State.ringWrite
  repeat' first
    | with_reducible assumption
    | (intro t b (ht : Kept s0 t))
    | (extract_lets +onlyGivenNames x; refine (fun (hx : Kept s0 x) => ?_) ?_; (on_goal 2 => unfold x; clear x); (on_goal 1 => clear_value x))
    | (extract_lets +onlyGivenNames x; clear_value x)
    | extract_lets +onlyGivenNames x
    | with_reducible apply Kept.ite
    | with_reducible apply State.setBit_kept
    | with_reducible apply State.setField_kept
    | with_reducible apply State.hidWrite_kept
    | with_reducible apply State.setPort_kept
    | with_reducible apply Kept.foldl
    | split

theorem State.recordTo_kept {s0 : State} {s : State} {dest : Nat} {r : FaultRec} {count : Nat} (h : Kept s0 s) : Kept s0 (State.recordTo s dest r count) := by
  unfold State.recordTo
  repeat' first
    | with_reducible assumption
    | extract_lets +onlyGivenNames x
    | with_reducible apply Kept.ite
    | with_reducible apply State.queueWrite_kept
    | with_reducible apply State.ringWrite_kept
    | split

theorem State.deliverTo_kept {s0 : State} {s : State} {r : FaultRec} {dest : Nat} (h : Kept s0 s) : Kept s0 (State.deliverTo s r dest) := by
  unfold State.deliverTo
  repeat' first
    | with_reducible assumption
    | (extract_lets +onlyGivenNames x; clear_value x)
    | extract_lets +onlyGivenNames x
    | with_reducible apply Kept.ite
    | with_reducible apply State.recordTo_kept
    | fail_if_no_progress with_reducible refine Kept.mk' ?_ rfl rfl rfl rfl rfl

theorem State.deliverFault_kept {s0 : State} {s : State} (h : Kept s0 s) : Kept s0 (State.deliverFault s) := by
  unfold State.deliverFault
  repeat' first
    | with_reducible assumption
    | (intro t b (ht : Kept s0 t))
    | (extract_lets +onlyGivenNames x; refine (fun (hx : Kept s0 x) => ?_) ?_; (on_goal 2 => unfold x; clear x); (on_goal 1 => clear_value x))
    | (extract_lets +onlyGivenNames x; clear_value x)
    | extract_lets +onlyGivenNames x
    | with_reducible apply State.deliverTo_kept
    | fail_if_no_progress with_reducible refine Kept.mk' ?_ rfl rfl rfl rfl rfl
    | with_reducible apply Kept.foldl
    | split

theorem execFaultRecordWrite_kept {s0 : State} {s : State} (h : Kept s0 s) : KeptX s0 (execFaultRecordWrite s) := by
  unfold execFaultRecordWrite
  repeat' first
    | with_reducible assumption
    | extract_lets +onlyGivenNames x
    | with_reducible apply KeptX.next
    | with_reducible apply State.deliverFault_kept

theorem State.summarise_kept {s0 : State} {s : State} (h : Kept s0 s) : Kept s0 (State.summarise s) := by
  unfold State.summarise
  repeat' first
    | with_reducible assumption
    | (intro t b (ht : Kept s0 t))
    | (extract_lets +onlyGivenNames x; clear_value x)
    | extract_lets +onlyGivenNames x
    | with_reducible apply Kept.ite
    | with_reducible apply State.recordTo_kept
    | fail_if_no_progress with_reducible refine Kept.mk' ?_ rfl rfl rfl rfl rfl
    | with_reducible apply Kept.foldl

theorem State.retireAck_kept {s0 : State} {s : State} {n : Nat} (h : Kept s0 s) : Kept s0 (State.retireAck s n) := by
  unfold State.retireAck
  repeat' first
    | with_reducible assumption
    | (extract_lets +onlyGivenNames x; clear_value x)
    | fail_if_no_progress with_reducible refine Kept.mk' ?_ rfl rfl rfl rfl rfl

theorem execRetireAck_kept {s0 : State} {n : BitVec 7} {s : State} (h : Kept s0 s) : KeptX s0 (execRetireAck n s) := by
  unfold execRetireAck
  repeat' first
    | with_reducible assumption
    | extract_lets +onlyGivenNames x
    | with_reducible apply KeptX.next
    | with_reducible apply Kept.ite
    | with_reducible apply State.retireAck_kept

theorem State.kick_kept {s0 : State} {s : State} (h : Kept s0 s) : Kept s0 (State.kick s) := by
  unfold State.kick
  repeat' first
    | with_reducible assumption
    | (extract_lets +onlyGivenNames x; clear_value x)
    | fail_if_no_progress with_reducible refine Kept.mk' ?_ rfl rfl rfl rfl rfl

theorem execKick_kept {s0 : State} {s : State} (h : Kept s0 s) : KeptX s0 (execKick s) := by
  unfold execKick
  repeat' first
    | with_reducible assumption
    | extract_lets +onlyGivenNames x
    | with_reducible apply KeptX.next
    | with_reducible apply State.kick_kept

theorem State.frHeadWrite_kept {s0 : State} {s : State} {port : Nat} {v : W32} (h : Kept s0 s) : Kept s0 (State.frHeadWrite s port v) := by
  unfold State.frHeadWrite
  repeat' first
    | with_reducible assumption
    | (extract_lets +onlyGivenNames x; clear_value x)
    | extract_lets +onlyGivenNames x
    | with_reducible apply Kept.ite
    | with_reducible apply State.setBit_kept
    | with_reducible apply State.setPort_kept

theorem execFrHead_kept {s0 : State} {port : Fin 6} {v : BitVec 32} {s : State} (h : Kept s0 s) : KeptX s0 (execFrHead port v s) := by
  unfold execFrHead
  repeat' first
    | with_reducible assumption
    | extract_lets +onlyGivenNames x
    | with_reducible apply KeptX.next
    | with_reducible apply Kept.ite
    | with_reducible apply State.frHeadWrite_kept

theorem State.popFault_kept {s0 : State} {s : State} (h : Kept s0 s) : Kept s0 (State.popFault s) := by
  unfold State.popFault
  repeat' first
    | with_reducible assumption
    | (extract_lets +onlyGivenNames x; clear_value x)
    | fail_if_no_progress with_reducible refine Kept.mk' ?_ rfl rfl rfl rfl rfl

theorem State.clearDropped_kept {s0 : State} {s : State} (h : Kept s0 s) : Kept s0 (State.clearDropped s) := by
  unfold State.clearDropped
  repeat' first
    | with_reducible assumption
    | with_reducible apply State.setField_kept

theorem State.frEnable_kept {s0 : State} {s : State} {port : Nat} {v : W32} (h : Kept s0 s) : Kept s0 (State.frEnable s port v) := by
  unfold State.frEnable
  repeat' first
    | with_reducible assumption
    | (extract_lets +onlyGivenNames x; refine (fun (hx : Kept s0 x) => ?_) ?_; (on_goal 2 => unfold x; clear x); (on_goal 1 => clear_value x))
    | (extract_lets +onlyGivenNames x; clear_value x)
    | extract_lets +onlyGivenNames x
    | with_reducible apply Kept.ite
    | with_reducible apply State.clearBit_kept
    | with_reducible apply State.setReg_kept
    | with_reducible apply State.setBit_kept
    | with_reducible apply State.setField_kept
    | with_reducible apply State.setPort_kept

theorem execFrEnable_kept {s0 : State} {port : Fin 6} {v : BitVec 32} {s : State} (h : Kept s0 s) : KeptX s0 (execFrEnable port v s) := by
  unfold execFrEnable
  repeat' first
    | with_reducible assumption
    | extract_lets +onlyGivenNames x
    | with_reducible apply KeptX.next
    | with_reducible apply Kept.ite
    | with_reducible apply State.frEnable_kept

theorem execPop_kept {s0 : State} {s : State} (h : Kept s0 s) : KeptX s0 (execPop s) := by
  unfold execPop
  repeat' first
    | with_reducible assumption
    | extract_lets +onlyGivenNames x
    | with_reducible apply KeptX.next
    | with_reducible apply State.popFault_kept

theorem execClearDropped_kept {s0 : State} {s : State} (h : Kept s0 s) : KeptX s0 (execClearDropped s) := by
  unfold execClearDropped
  repeat' first
    | with_reducible assumption
    | extract_lets +onlyGivenNames x
    | with_reducible apply KeptX.next
    | with_reducible apply State.clearDropped_kept

end Sys2Proof.Machine
end

