-- ==== Sys2Proof/Laws/KeptTimebase.lean ====
section
/-! SUPPORT. What the operations of Machine/Timebase.lean keep. -/

namespace Sys2Proof.Machine

set_option linter.tactic.unusedName false

theorem State.edge_kept {s0 : State} {s : State} (h : Kept s0 s) : Kept s0 (State.edge s) := by
  unfold State.edge
  repeat' first
    | with_reducible assumption
    | (extract_lets +onlyGivenNames x; clear_value x)
    | extract_lets +onlyGivenNames x
    | with_reducible apply Kept.ite
    | fail_if_no_progress with_reducible refine Kept.mk' ?_ rfl rfl rfl rfl rfl

theorem State.readPair_kept {s0 : State} {s : State} {hi : Nat} {v : W64} (h : Kept s0 s) : Kept s0 (State.readPair s hi v) := by
  unfold State.readPair
  repeat' first
    | with_reducible assumption
    | (extract_lets +onlyGivenNames x; refine (fun (hx : Kept s0 x) => ?_) ?_; (on_goal 2 => unfold x; clear x); (on_goal 1 => clear_value x))
    | with_reducible apply State.setReg_kept
    | fail_if_no_progress with_reducible refine Kept.mk' ?_ rfl rfl rfl rfl rfl

theorem execTbNowLoRead_kept {s0 : State} {s : State} (h : Kept s0 s) : KeptX s0 (execTbNowLoRead s) := by
  unfold execTbNowLoRead
  repeat' first
    | with_reducible assumption
    | extract_lets +onlyGivenNames x
    | with_reducible apply KeptX.next
    | with_reducible apply State.readPair_kept

theorem State.floors_kept {s0 : State} {s : State} {accum : Tab Nat} (h : Kept s0 s) : Kept s0 (State.floors s accum) := by
  unfold State.floors
  repeat' first
    | with_reducible assumption
    | (intro t b (ht : Kept s0 t))
    | extract_lets +onlyGivenNames x
    | with_reducible apply Kept.ite
    | with_reducible apply State.setBit_kept
    | with_reducible apply Kept.foldl

theorem State.partEnergy_kept {s0 : State} {s : State} {accum : Tab Nat} {w : Nat} {p : Nat} (h : Kept s0 s) : Kept s0 (State.partEnergy s accum w p) := by
  unfold State.partEnergy
  repeat' first
    | with_reducible assumption
    | (intro t b (ht : Kept s0 t))
    | (extract_lets +onlyGivenNames x; refine (fun (hx : Kept s0 x) => ?_) ?_; (on_goal 2 => unfold x; clear x); (on_goal 1 => clear_value x))
    | (extract_lets +onlyGivenNames x; clear_value x)
    | extract_lets +onlyGivenNames x
    | with_reducible apply Kept.ite
    | with_reducible apply State.setReg_kept
    | with_reducible apply Kept.foldl

theorem State.readOut_kept {s0 : State} {s : State} {w : Nat} (h : Kept s0 s) : Kept s0 (State.readOut s w) := by
  unfold State.readOut
  repeat' first
    | with_reducible assumption
    | (intro t b (ht : Kept s0 t))
    | (extract_lets +onlyGivenNames x; refine (fun (hx : Kept s0 x) => ?_) ?_; (on_goal 2 => unfold x; clear x); (on_goal 1 => clear_value x))
    | (extract_lets +onlyGivenNames x; clear_value x)
    | extract_lets +onlyGivenNames x
    | with_reducible apply State.setReg_kept
    | with_reducible apply State.floors_kept
    | with_reducible apply State.partEnergy_kept
    | with_reducible apply State.setField_kept
    | with_reducible apply Kept.foldl
    | fail_if_no_progress refine Kept.mkRegs ?_ rfl rfl rfl rfl (fun w => Tab.sorted_sublist List.filter_sublist w)

theorem State.readStack_kept {s0 : State} {s : State} {r : StackReport} (h : Kept s0 s) : Kept s0 (State.readStack s r) := by
  unfold State.readStack
  repeat' first
    | with_reducible assumption
    | (extract_lets +onlyGivenNames x; clear_value x)
    | with_reducible apply State.setMid_kept

theorem State.readSensors_kept {s0 : State} {s : State} {x : WindowSensors} (h : Kept s0 s) : Kept s0 (State.readSensors s x) := by
  unfold State.readSensors
  repeat' first
    | with_reducible assumption
    | (intro t b (ht : Kept s0 t))
    | (extract_lets +onlyGivenNames x; refine (fun (hx : Kept s0 x) => ?_) ?_; (on_goal 2 => unfold x; clear x); (on_goal 1 => clear_value x))
    | (extract_lets +onlyGivenNames x; clear_value x)
    | extract_lets +onlyGivenNames x
    | with_reducible apply Kept.ite
    | with_reducible apply State.readStack_kept
    | with_reducible apply State.setField_kept
    | with_reducible apply State.setReg_kept
    | with_reducible apply State.setBit_kept
    | fail_if_no_progress with_reducible refine Kept.mk' ?_ rfl rfl rfl rfl rfl
    | with_reducible apply Kept.foldl

theorem State.endWindow_kept {s0 : State} {s : State} {x : WindowSensors} (h : Kept s0 s) : Kept s0 (State.endWindow s x) := by
  unfold State.endWindow
  repeat' first
    | with_reducible assumption
    | (intro t b (ht : Kept s0 t))
    | (extract_lets +onlyGivenNames x; refine (fun (hx : Kept s0 x) => ?_) ?_; (on_goal 2 => unfold x; clear x); (on_goal 1 => clear_value x))
    | (extract_lets +onlyGivenNames x; clear_value x)
    | extract_lets +onlyGivenNames x
    | with_reducible apply State.foldPhase_kept
    | with_reducible apply State.readOut_kept
    | with_reducible apply State.atBase_kept
    | with_reducible apply State.setReg_kept
    | with_reducible apply State.readSensors_kept
    | with_reducible apply State.summarise_kept
    | fail_if_no_progress with_reducible refine Kept.mk' ?_ rfl rfl rfl rfl rfl
    | with_reducible apply Kept.foldl

theorem execWindowBoundary_kept {s0 : State} {sensed : WindowSensors} {s : State} (h : Kept s0 s) : KeptX s0 (execWindowBoundary sensed s) := by
  unfold execWindowBoundary
  repeat' first
    | with_reducible assumption
    | (extract_lets +onlyGivenNames x; clear_value x)
    | extract_lets +onlyGivenNames x
    | with_reducible apply KeptX.next
    | with_reducible apply Kept.ite
    | with_reducible apply State.endWindow_kept
    | fail_if_no_progress with_reducible refine Kept.mk' ?_ rfl rfl rfl rfl rfl

theorem State.readLo_kept {s0 : State} {s : State} {lo : Nat} {hi : Nat} (h : Kept s0 s) : Kept s0 (State.readLo s lo hi) := by
  unfold State.readLo
  repeat' first
    | with_reducible assumption
    | (extract_lets +onlyGivenNames x; refine (fun (hx : Kept s0 x) => ?_) ?_; (on_goal 2 => unfold x; clear x); (on_goal 1 => clear_value x))
    | with_reducible apply State.latchHi_kept
    | fail_if_no_progress with_reducible refine Kept.mk' ?_ rfl rfl rfl rfl rfl

theorem execDlTimeLoRead_kept {s0 : State} {a : Fin 768} {s : State} (h : Kept s0 s) : KeptX s0 (execDlTimeLoRead a s) := by
  unfold execDlTimeLoRead
  repeat' first
    | with_reducible assumption
    | extract_lets +onlyGivenNames x
    | with_reducible apply KeptX.next
    | with_reducible apply State.readLo_kept
    | fail_if_no_progress with_reducible refine Kept.mk' ?_ rfl rfl rfl rfl rfl
    | split

theorem State.readPtm_kept {s0 : State} {s : State} {port : Nat} (h : Kept s0 s) : Kept s0 (State.readPtm s port) := by
  unfold State.readPtm
  repeat' first
    | with_reducible assumption
    | (extract_lets +onlyGivenNames x; refine (fun (hx : Kept s0 x) => ?_) ?_; (on_goal 2 => unfold x; clear x); (on_goal 1 => clear_value x))
    | (extract_lets +onlyGivenNames x; clear_value x)
    | extract_lets +onlyGivenNames x
    | with_reducible apply State.readPair_kept
    | with_reducible apply State.setReg_kept

theorem execRateFloor_kept {s0 : State} {d : Fin 96} {s : State} (h : Kept s0 s) : KeptX s0 (execRateFloor d s) := by
  unfold execRateFloor
  repeat' first
    | with_reducible assumption
    | (extract_lets +onlyGivenNames x; refine (fun (hx : Kept s0 x) => ?_) ?_; (on_goal 2 => unfold x; clear x); (on_goal 1 => clear_value x))
    | (extract_lets +onlyGivenNames x; clear_value x)
    | extract_lets +onlyGivenNames x
    | with_reducible apply KeptX.next
    | with_reducible apply State.setBit_kept
    | with_reducible apply State.count_kept
    | with_reducible apply State.raise_kept
    | split

theorem State.refLost_kept {s0 : State} {s : State} (h : Kept s0 s) : Kept s0 (State.refLost s) := by
  unfold State.refLost
  repeat' first
    | with_reducible assumption
    | (extract_lets +onlyGivenNames x; refine (fun (hx : Kept s0 x) => ?_) ?_; (on_goal 2 => unfold x; clear x); (on_goal 1 => clear_value x))
    | (extract_lets +onlyGivenNames x; clear_value x)
    | extract_lets +onlyGivenNames x
    | with_reducible apply State.setBit_kept
    | with_reducible apply State.clearBit_kept
    | with_reducible apply State.raise_kept
    | fail_if_no_progress with_reducible refine Kept.mk' ?_ rfl rfl rfl rfl rfl

theorem execTbRefLost_kept {s0 : State} {s : State} (h : Kept s0 s) : KeptX s0 (execTbRefLost s) := by
  unfold execTbRefLost
  repeat' first
    | with_reducible assumption
    | extract_lets +onlyGivenNames x
    | with_reducible apply KeptX.next
    | with_reducible apply Kept.ite
    | with_reducible apply State.refLost_kept

theorem execParityAddrLoRead_kept {s0 : State} {d : Fin 96} {s : State} (h : Kept s0 s) : KeptX s0 (execParityAddrLoRead d s) := by
  unfold execParityAddrLoRead
  repeat' first
    | with_reducible assumption
    | extract_lets +onlyGivenNames x
    | with_reducible apply KeptX.next
    | with_reducible apply State.readLo_kept
    | fail_if_no_progress with_reducible refine Kept.mk' ?_ rfl rfl rfl rfl rfl
    | split

theorem execPoisonAddrLoRead_kept {s0 : State} {mid : Fin 8} {s : State} (h : Kept s0 s) : KeptX s0 (execPoisonAddrLoRead mid s) := by
  unfold execPoisonAddrLoRead
  repeat' first
    | with_reducible assumption
    | extract_lets +onlyGivenNames x
    | with_reducible apply KeptX.next
    | with_reducible apply State.readLo_kept

theorem State.tickSteps_kept {s0 : State} {s : State} (h : Kept s0 s) : Kept s0 (State.tickSteps s) := by
  unfold State.tickSteps
  repeat' first
    | with_reducible assumption
    | (intro t b (ht : Kept s0 t))
    | (extract_lets +onlyGivenNames x; refine (fun (hx : Kept s0 x) => ?_) ?_; (on_goal 2 => unfold x; clear x); (on_goal 1 => clear_value x))
    | (extract_lets +onlyGivenNames x; clear_value x)
    | extract_lets +onlyGivenNames x
    | with_reducible apply State.count_kept
    | fail_if_no_progress with_reducible refine Kept.mk' ?_ rfl rfl rfl rfl rfl
    | with_reducible apply Kept.foldl

theorem State.finishSteps_kept {s0 : State} {s : State} (h : Kept s0 s) : Kept s0 (State.finishSteps s) := by
  unfold State.finishSteps
  repeat' first
    | with_reducible assumption
    | (intro t b (ht : Kept s0 t))
    | extract_lets +onlyGivenNames x
    | with_reducible apply Kept.ite
    | with_reducible apply State.stepArray_kept
    | with_reducible apply Kept.foldl

theorem State.holdReplica_kept {s0 : State} {s : State} {u : Nat} (h : Kept s0 s) : Kept s0 (State.holdReplica s u) := by
  unfold State.holdReplica
  repeat' first
    | with_reducible assumption
    | (extract_lets +onlyGivenNames x; clear_value x)
    | extract_lets +onlyGivenNames x
    | fail_if_no_progress with_reducible refine Kept.mk' ?_ rfl rfl rfl rfl rfl

theorem State.stray_kept {s0 : State} {s : State} {u : Nat} {ahead : Bool} (h : Kept s0 s) : Kept s0 (State.stray s u ahead) := by
  unfold State.stray
  repeat' first
    | with_reducible assumption
    | (extract_lets +onlyGivenNames x; clear_value x)
    | extract_lets +onlyGivenNames x
    | with_reducible apply Kept.ite
    | fail_if_no_progress with_reducible refine Kept.mk' ?_ rfl rfl rfl rfl rfl

theorem State.rateTick_kept {s0 : State} {s : State} {p : Nat} (h : Kept s0 s) : Kept s0 (State.rateTick s p) := by
  unfold State.rateTick
  repeat' first
    | with_reducible assumption
    | (extract_lets +onlyGivenNames x; refine (fun (hx : Kept s0 x) => ?_) ?_; (on_goal 2 => unfold x; clear x); (on_goal 1 => clear_value x))
    | (extract_lets +onlyGivenNames x; clear_value x)
    | extract_lets +onlyGivenNames x
    | with_reducible apply Kept.ite
    | with_reducible apply State.clearBit_kept
    | with_reducible apply State.setBit_kept
    | fail_if_no_progress with_reducible refine Kept.mk' ?_ rfl rfl rfl rfl rfl

theorem State.tick_kept {s0 : State} {s : State} {strays : List (Fin 118 × Bool)} (h : Kept s0 s) : Kept s0 (State.tick s strays) := by
  unfold State.tick
  repeat' first
    | with_reducible assumption
    | (intro t b (ht : Kept s0 t))
    | (extract_lets +onlyGivenNames x; refine (fun (hx : Kept s0 x) => ?_) ?_; (on_goal 2 => unfold x; clear x); (on_goal 1 => clear_value x))
    | (extract_lets +onlyGivenNames x; clear_value x)
    | extract_lets +onlyGivenNames x
    | with_reducible apply Kept.ite
    | with_reducible apply State.tickSteps_kept
    | with_reducible apply State.finishSteps_kept
    | with_reducible apply State.holdReplica_kept
    | with_reducible apply State.stray_kept
    | with_reducible apply State.setReg_kept
    | with_reducible apply State.ackHalf_kept
    | with_reducible apply State.rateTick_kept
    | fail_if_no_progress with_reducible refine Kept.mk' ?_ rfl rfl rfl rfl rfl
    | with_reducible apply Kept.foldl

theorem execPtmLocalLoRead_kept {s0 : State} {port : Fin 6} {s : State} (h : Kept s0 s) : KeptX s0 (execPtmLocalLoRead port s) := by
  unfold execPtmLocalLoRead
  repeat' first
    | with_reducible assumption
    | extract_lets +onlyGivenNames x
    | with_reducible apply KeptX.next
    | with_reducible apply Kept.ite
    | with_reducible apply State.readPtm_kept
    | fail_if_no_progress with_reducible refine Kept.mk' ?_ rfl rfl rfl rfl rfl

theorem execTimebaseTick_kept {s0 : State} {strays : List (Fin 118 × Bool)} {s : State} (h : Kept s0 s) : KeptX s0 (execTimebaseTick strays s) := by
  unfold execTimebaseTick
  repeat' first
    | with_reducible assumption
    | extract_lets +onlyGivenNames x
    | with_reducible apply KeptX.next
    | with_reducible apply State.tick_kept

theorem State.checkReplica_kept {s0 : State} {s : State} {u : Nat} (h : Kept s0 s) : Kept s0 (State.checkReplica s u) := by
  unfold State.checkReplica
  dsimp only
  refine Kept.ite (Kept.mk' h rfl rfl rfl rfl rfl) (Kept.ite h (State.raise_kept (State.setReg_kept (State.setBit_kept ?_))))
  exact Kept.ite (Kept.mk' h rfl rfl rfl rfl rfl) (Kept.mk' h rfl rfl rfl rfl rfl)

theorem execTimebaseBroadcast_kept {s0 : State} {s : State} (h : Kept s0 s) : KeptX s0 (execTimebaseBroadcast s) := by
  unfold execTimebaseBroadcast
  repeat' first
    | with_reducible assumption
    | (intro t b (ht : Kept s0 t))
    | (extract_lets +onlyGivenNames x; refine (fun (hx : Kept s0 x) => ?_) ?_; (on_goal 2 => unfold x; clear x); (on_goal 1 => clear_value x))
    | (extract_lets +onlyGivenNames x; clear_value x)
    | extract_lets +onlyGivenNames x
    | with_reducible apply KeptX.next
    | with_reducible apply Kept.ite
    | with_reducible apply State.checkReplica_kept
    | fail_if_no_progress with_reducible refine Kept.mk' ?_ rfl rfl rfl rfl rfl
    | with_reducible apply Kept.foldl

theorem execTbRefReturn_kept {s0 : State} {s : State} (h : Kept s0 s) : KeptX s0 (execTbRefReturn s) := by
  unfold execTbRefReturn
  repeat' first
    | with_reducible assumption
    | (extract_lets +onlyGivenNames x; clear_value x)
    | extract_lets +onlyGivenNames x
    | with_reducible apply KeptX.next
    | with_reducible apply Kept.ite
    | fail_if_no_progress with_reducible refine Kept.mk' ?_ rfl rfl rfl rfl rfl

theorem execDeadAddrLoRead_kept {s0 : State} {d : Fin 96} {s : State} (h : Kept s0 s) : KeptX s0 (execDeadAddrLoRead d s) := by
  unfold execDeadAddrLoRead
  repeat' first
    | with_reducible assumption
    | extract_lets +onlyGivenNames x
    | with_reducible apply KeptX.next
    | with_reducible apply State.readLo_kept
    | fail_if_no_progress with_reducible refine Kept.mk' ?_ rfl rfl rfl rfl rfl
    | split

theorem execCrRecordLoRead_kept {s0 : State} {c : Fin 448} {s : State} (h : Kept s0 s) : KeptX s0 (execCrRecordLoRead c s) := by
  unfold execCrRecordLoRead
  repeat' first
    | with_reducible assumption
    | extract_lets +onlyGivenNames x
    | with_reducible apply KeptX.next
    | with_reducible apply State.readPair_kept
    | fail_if_no_progress with_reducible refine Kept.mk' ?_ rfl rfl rfl rfl rfl
    | split

end Sys2Proof.Machine
end

