-- ==== Sys2Proof/Laws/KeptStop.lean ====
section
/-! SUPPORT. What the operations of Machine/Stop.lean keep. -/

namespace Sys2Proof.Machine

set_option linter.tactic.unusedName false

theorem State.hcLost_kept {s0 : State} {s : State} {port : Nat} {n : Nat} (h : Kept s0 s) : Kept s0 (State.hcLost s port n) := by
  unfold State.hcLost
  repeat' first
    | with_reducible assumption
    | with_reducible apply State.setField_kept

theorem State.pairSendOn_kept {s0 : State} {s : State} {p : Nat} {l : Nat} {type : Nat} {fields : List Nat} (h : Kept s0 s) : Kept s0 (State.pairSendOn s p l type fields) := by
  unfold State.pairSendOn
  repeat' first
    | with_reducible assumption
    | (extract_lets +onlyGivenNames x; clear_value x)
    | extract_lets +onlyGivenNames x
    | with_reducible apply State.sendPair_kept
    | with_reducible apply State.setPair_kept

theorem State.pairSend_kept {s0 : State} {s : State} {p : Nat} {type : Nat} {fields : List Nat} (h : Kept s0 s) : Kept s0 (State.pairSend s p type fields) := by
  unfold State.pairSend
  repeat' first
    | with_reducible assumption
    | with_reducible apply State.pairSendOn_kept
    | split

theorem State.setPairState_kept {s0 : State} {s : State} {p : Nat} {st : Nat} (h : Kept s0 s) : Kept s0 (State.setPairState s p st) := by
  unfold State.setPairState
  repeat' first
    | with_reducible assumption
    | with_reducible apply State.setField_kept

theorem State.goAlone_kept {s0 : State} {s : State} {p : Nat} (h : Kept s0 s) : Kept s0 (State.goAlone s p) := by
  unfold State.goAlone
  repeat' first
    | with_reducible assumption
    | (intro t b (ht : Kept s0 t))
    | (extract_lets +onlyGivenNames x; refine (fun (hx : Kept s0 x) => ?_) ?_; (on_goal 2 => unfold x; clear x); (on_goal 1 => clear_value x))
    | (extract_lets +onlyGivenNames x; clear_value x)
    | extract_lets +onlyGivenNames x
    | with_reducible apply State.setPair_kept
    | with_reducible apply State.setPairState_kept
    | with_reducible apply State.setField_kept
    | with_reducible apply State.serve1_kept
    | with_reducible apply Kept.foldl

theorem State.sendWithdraw_kept {s0 : State} {s : State} {p : Nat} {reason : Nat} (h : Kept s0 s) : Kept s0 (State.sendWithdraw s p reason) := by
  unfold State.sendWithdraw
  repeat' first
    | with_reducible assumption
    | extract_lets +onlyGivenNames x
    | with_reducible apply State.setBit_kept
    | with_reducible apply State.pairSendOn_kept
    | split

theorem State.stopCouriers_kept {s0 : State} {s : State} {p : Nat} (h : Kept s0 s) : Kept s0 (State.stopCouriers s p) := by
  unfold State.stopCouriers
  repeat' first
    | with_reducible assumption
    | (intro t b (ht : Kept s0 t))
    | (extract_lets +onlyGivenNames x; clear_value x)
    | extract_lets +onlyGivenNames x
    | with_reducible apply Kept.ite
    | with_reducible apply State.setCourier_kept
    | with_reducible apply Kept.foldl

theorem State.haltAll_kept {s0 : State} {s : State} {p : Nat} (h : Kept s0 s) : Kept s0 (State.haltAll s p) := by
  unfold State.haltAll
  repeat' first
    | with_reducible assumption
    | (intro t b (ht : Kept s0 t))
    | (extract_lets +onlyGivenNames x; clear_value x)
    | extract_lets +onlyGivenNames x
    | with_reducible apply Kept.ite
    | with_reducible apply State.setArr_kept
    | with_reducible apply Kept.foldl

theorem State.standDown_kept {s0 : State} {s : State} {p : Nat} (h : Kept s0 s) : Kept s0 (State.standDown s p) := by
  unfold State.standDown
  repeat' first
    | with_reducible assumption
    | extract_lets +onlyGivenNames x
    | with_reducible apply State.stopCouriers_kept
    | with_reducible apply State.haltAll_kept
    | with_reducible apply State.setPairState_kept

theorem State.detach_kept {s0 : State} {s : State} {p : Nat} {reason : Nat} (h : Kept s0 s) : Kept s0 (State.detach s p reason) := by
  unfold State.detach
  repeat' first
    | with_reducible assumption
    | extract_lets +onlyGivenNames x
    | with_reducible apply State.standDown_kept
    | with_reducible apply State.sendWithdraw_kept

theorem State.flushHc_kept {s0 : State} {s : State} {p : Nat} {f : SLine → Bool} (h : Kept s0 s) : Kept s0 (State.flushHc s p f) := by
  unfold State.flushHc
  repeat' first
    | with_reducible assumption
    | (intro t b (ht : Kept s0 t))
    | (extract_lets +onlyGivenNames x; refine (fun (hx : Kept s0 x) => ?_) ?_; (on_goal 2 => unfold x; clear x); (on_goal 1 => clear_value x))
    | (extract_lets +onlyGivenNames x; clear_value x)
    | extract_lets +onlyGivenNames x
    | with_reducible apply Kept.ite
    | with_reducible apply State.setSlice_kept
    | with_reducible apply State.hostLineOut_kept
    | with_reducible apply State.hcLost_kept
    | with_reducible apply Kept.foldl

theorem State.stopEntry_kept {s0 : State} {s : State} {k : Work} {fault : W32} {unit : W32} (h : Kept s0 s) : Kept s0 (State.stopEntry s k fault unit) := by
  unfold State.stopEntry
  repeat' first
    | with_reducible assumption
    | (extract_lets +onlyGivenNames x; clear_value x)
    | extract_lets +onlyGivenNames x
    | with_reducible apply Kept.ite
    | with_reducible apply State.refuse_kept
    | with_reducible apply State.faulted_kept
    | with_reducible apply State.finish_kept
    | split

theorem State.stopPartition_kept {s0 : State} {s : State} {p : Nat} {fault : W32} {unit : W32} (h : Kept s0 s) : Kept s0 (State.stopPartition s p fault unit) := by
  unfold State.stopPartition
  repeat' first
    | with_reducible assumption
    | (intro t b (ht : Kept s0 t))
    | (extract_lets +onlyGivenNames x; refine (fun (hx : Kept s0 x) => ?_) ?_; (on_goal 2 => unfold x; clear x); (on_goal 1 => clear_value x))
    | extract_lets +onlyGivenNames x
    | with_reducible apply Kept.ite
    | with_reducible apply State.haltAll_kept
    | with_reducible apply State.setField_kept
    | with_reducible apply State.stopEntry_kept
    | with_reducible apply State.stopCouriers_kept
    | with_reducible apply State.flushHc_kept
    | with_reducible apply Kept.foldl

theorem State.failOver_kept {s0 : State} {s : State} {p : Nat} {fault : W32} {unit : W32} (h : Kept s0 s) : Kept s0 (State.failOver s p fault unit) := by
  unfold State.failOver
  repeat' first
    | with_reducible assumption
    | (extract_lets +onlyGivenNames x; refine (fun (hx : Kept s0 x) => ?_) ?_; (on_goal 2 => unfold x; clear x); (on_goal 1 => clear_value x))
    | (extract_lets +onlyGivenNames x; clear_value x)
    | extract_lets +onlyGivenNames x
    | with_reducible apply State.setBit_kept
    | with_reducible apply State.pairSend_kept
    | with_reducible apply State.setPair_kept
    | with_reducible apply State.setPairState_kept
    | with_reducible apply State.stopPartition_kept

theorem State.poison_kept {s0 : State} {s : State} {p : Nat} (h : Kept s0 s) : Kept s0 (State.poison s p) := by
  unfold State.poison
  repeat' first
    | with_reducible assumption
    | extract_lets +onlyGivenNames x
    | with_reducible apply State.stopCouriers_kept
    | with_reducible apply State.haltAll_kept
    | with_reducible apply State.setBit_kept

end Sys2Proof.Machine
end

