-- ==== Sys2Proof/Laws/KeptDispatcher.lean ====
section
/-! SUPPORT. What the operations of Machine/Dispatcher.lean keep. -/

namespace Sys2Proof.Machine

set_option linter.tactic.unusedName false

theorem State.stopFor_kept {s0 : State} {s : State} {id : Nat} {why : StopWhy} (h : Kept s0 s) : Kept s0 (State.stopFor s id why) := by
  unfold State.stopFor
  repeat' first
    | with_reducible assumption
    | (extract_lets +onlyGivenNames x; refine (fun (hx : Kept s0 x) => ?_) ?_; (on_goal 2 => unfold x; clear x); (on_goal 1 => clear_value x))
    | with_reducible apply State.modWork_kept
    | with_reducible apply State.stopLaunch_kept

theorem State.modPh_kept {s0 : State} {s : State} {p : Nat} {h' : Nat} {f : Pigeonhole → Pigeonhole} (h : Kept s0 s) : Kept s0 (State.modPh s p h' f) := by
  unfold State.modPh
  repeat' first
    | with_reducible assumption
    | (extract_lets +onlyGivenNames x; clear_value x)
    | with_reducible apply State.setPart_kept
    | split

theorem State.phNoRoom_kept {s0 : State} {s : State} {p : Nat} {h' : Nat} (h : Kept s0 s) : Kept s0 (State.phNoRoom s p h') := by
  unfold State.phNoRoom
  repeat' first
    | with_reducible assumption
    | (intro t b (ht : Kept s0 t))
    | (extract_lets +onlyGivenNames x; refine (fun (hx : Kept s0 x) => ?_) ?_; (on_goal 2 => unfold x; clear x); (on_goal 1 => clear_value x))
    | (extract_lets +onlyGivenNames x; clear_value x)
    | extract_lets +onlyGivenNames x
    | with_reducible apply State.setPart_kept
    | with_reducible apply State.modPh_kept
    | with_reducible apply State.refuse_kept
    | with_reducible apply State.serve1_kept
    | with_reducible apply Kept.foldl

theorem State.phTell_kept {s0 : State} {s : State} {p : Nat} {h' : Nat} (h : Kept s0 s) : Kept s0 (State.phTell s p h') := by
  unfold State.phTell
  repeat' first
    | with_reducible assumption
    | extract_lets +onlyGivenNames x
    | with_reducible apply Kept.ite
    | with_reducible apply State.pairSend_kept
    | split

theorem State.phPlace_kept {s0 : State} {s : State} {p : Nat} {h' : Nat} {g : Nat} (h : Kept s0 s) : Kept s0 (State.phPlace s p h' g) := by
  unfold State.phPlace
  repeat' first
    | with_reducible assumption
    | (extract_lets +onlyGivenNames x; refine (fun (hx : Kept s0 x) => ?_) ?_; (on_goal 2 => unfold x; clear x); (on_goal 1 => clear_value x))
    | (extract_lets +onlyGivenNames x; clear_value x)
    | extract_lets +onlyGivenNames x
    | with_reducible apply State.setPart_kept
    | with_reducible apply State.modPh_kept
    | with_reducible apply State.startPhParts_kept
    | with_reducible apply State.phTell_kept
    | with_reducible apply State.phTo_kept
    | with_reducible apply State.setField_kept

theorem State.phFree_kept {s0 : State} {s : State} {p : Nat} {h' : Nat} (h : Kept s0 s) : Kept s0 (State.phFree s p h') := by
  unfold State.phFree
  repeat' first
    | with_reducible assumption
    | extract_lets +onlyGivenNames x
    | with_reducible apply State.phTell_kept
    | with_reducible apply State.setField_kept
    | with_reducible apply State.phTo_kept

theorem State.phEvict_kept {s0 : State} {s : State} {p : Nat} {h' : Nat} (h : Kept s0 s) : Kept s0 (State.phEvict s p h') := by
  unfold State.phEvict
  repeat' first
    | with_reducible assumption
    | (extract_lets +onlyGivenNames x; refine (fun (hx : Kept s0 x) => ?_) ?_; (on_goal 2 => unfold x; clear x); (on_goal 1 => clear_value x))
    | (extract_lets +onlyGivenNames x; clear_value x)
    | extract_lets +onlyGivenNames x
    | with_reducible apply Kept.ite
    | with_reducible apply State.partCount_kept
    | with_reducible apply State.setBit_kept
    | with_reducible apply State.phWrite_kept
    | with_reducible apply State.phFree_kept
    | with_reducible apply State.modPh_kept
    | with_reducible apply State.startPhParts_kept
    | with_reducible apply State.phTell_kept
    | with_reducible apply State.phTo_kept

theorem State.phDo_kept {s0 : State} {s : State} {p : Nat} {h' : Nat} {x0 : PhMove} (h : Kept s0 s) : Kept s0 (State.phDo s p h' x0) := by
  unfold State.phDo
  repeat' first
    | with_reducible assumption
    | with_reducible apply State.phNoRoom_kept
    | with_reducible apply State.phPlace_kept
    | with_reducible apply State.phEvict_kept
    | split

theorem State.phTry_kept {s0 : State} {p : Nat} {h' : Nat} {x0 : Nat} {x1 : State} (h : Kept s0 x1) : Kept s0 (State.phTry p h' x0 x1) := by
  induction x0 generalizing x1 with
  | zero =>
    unfold State.phTry
    repeat' with_reducible assumption
  | succ n ih =>
    unfold State.phTry
    repeat' first
      | with_reducible assumption
      | with_reducible apply ih
      | extract_lets +onlyGivenNames x
      | with_reducible apply Kept.ite
      | with_reducible apply State.phDo_kept

theorem State.phServe_kept {s0 : State} {s : State} {p : Nat} (h : Kept s0 s) : Kept s0 (State.phServe s p) := by
  unfold State.phServe
  repeat' first
    | with_reducible assumption
    | (intro t b (ht : Kept s0 t))
    | extract_lets +onlyGivenNames x
    | with_reducible apply Kept.ite
    | with_reducible apply State.phTry_kept
    | with_reducible apply State.phNoRoom_kept
    | with_reducible apply Kept.foldl
    | split

theorem State.phWant_kept {s0 : State} {s : State} {p : Nat} {h' : Nat} (h : Kept s0 s) : Kept s0 (State.phWant s p h') := by
  unfold State.phWant
  repeat' first
    | with_reducible assumption
    | (extract_lets +onlyGivenNames x; clear_value x)
    | extract_lets +onlyGivenNames x
    | with_reducible apply Kept.ite
    | with_reducible apply State.setPart_kept

theorem State.wantLoads_kept {s0 : State} {s : State} {p : Nat} (h : Kept s0 s) : Kept s0 (State.wantLoads s p) := by
  unfold State.wantLoads
  repeat' first
    | with_reducible assumption
    | (intro t b (ht : Kept s0 t))
    | (extract_lets +onlyGivenNames x; clear_value x)
    | extract_lets +onlyGivenNames x
    | with_reducible apply Kept.ite
    | with_reducible apply State.phWant_kept
    | with_reducible apply Kept.foldl

theorem State.give_kept {s0 : State} {s : State} {id : Nat} {l : List Nat} (h : Kept s0 s) : Kept s0 (State.give s id l) := by
  unfold State.give
  repeat' first
    | with_reducible assumption
    | with_reducible apply State.modWork_kept

theorem State.startLaunch_kept {s0 : State} {s : State} {id : Nat} (h : Kept s0 s) : Kept s0 (State.startLaunch s id) := by
  unfold State.startLaunch
  repeat' first
    | with_reducible assumption
    | (extract_lets +onlyGivenNames x; refine (fun (hx : Kept s0 x) => ?_) ?_; (on_goal 2 => unfold x; clear x); (on_goal 1 => clear_value x))
    | (extract_lets +onlyGivenNames x; clear_value x)
    | extract_lets +onlyGivenNames x
    | with_reducible apply Kept.ite
    | with_reducible apply State.partCount_kept
    | with_reducible apply State.modWork_kept
    | with_reducible apply State.setPair_kept
    | with_reducible apply State.phUsers_kept
    | with_reducible apply State.phWrite_kept
    | with_reducible apply State.modPh_kept
    | split

theorem State.preemptFor_kept {s0 : State} {id : Nat} {need : Nat} {x0 : Nat} {x1 : State} (h : Kept s0 x1) : Kept s0 (State.preemptFor id need x0 x1) := by
  induction x0 generalizing x1 with
  | zero =>
    unfold State.preemptFor
    repeat' with_reducible assumption
  | succ n ih =>
    unfold State.preemptFor
    repeat' first
      | with_reducible assumption
      | with_reducible apply ih
      | (extract_lets +onlyGivenNames x; clear_value x)
      | extract_lets +onlyGivenNames x
      | with_reducible apply Kept.ite
      | with_reducible apply State.stopFor_kept
      | split

theorem State.serveLc_kept {s0 : State} {x0 : List Work} {x1 : Bool} {x2 : State} (h : Kept s0 x2) : Kept s0 (State.serveLc x0 x1 x2) := by
  induction x0 generalizing x1 x2 with
  | nil =>
    unfold State.serveLc
    repeat' with_reducible assumption
  | cons a l ih =>
    unfold State.serveLc
    repeat' first
      | with_reducible assumption
      | with_reducible apply ih
      | (extract_lets +onlyGivenNames x; refine (fun (hx : Kept s0 x) => ?_) ?_; (on_goal 2 => unfold x; clear x); (on_goal 1 => clear_value x))
      | (extract_lets +onlyGivenNames x; clear_value x)
      | extract_lets +onlyGivenNames x
      | with_reducible apply Kept.ite
      | with_reducible apply State.give_kept
      | with_reducible apply State.startLaunch_kept
      | with_reducible apply State.preemptFor_kept
      | split

theorem State.serveBe_kept {s0 : State} {s : State} {k : Work} (h : Kept s0 s) : Kept s0 (State.serveBe s k) := by
  unfold State.serveBe
  repeat' first
    | with_reducible assumption
    | extract_lets +onlyGivenNames x
    | with_reducible apply Kept.ite
    | with_reducible apply State.startLaunch_kept
    | with_reducible apply State.give_kept
    | split

theorem State.serveMore_kept {s0 : State} {s : State} {k : Work} (h : Kept s0 s) : Kept s0 (State.serveMore s k) := by
  unfold State.serveMore
  repeat' first
    | with_reducible assumption
    | (extract_lets +onlyGivenNames x; clear_value x)
    | with_reducible apply State.give_kept

theorem State.dispatch_kept {s0 : State} {s : State} {p : Nat} (h : Kept s0 s) : Kept s0 (State.dispatch s p) := by
  unfold State.dispatch
  repeat' first
    | with_reducible assumption
    | (intro t b (ht : Kept s0 t))
    | (extract_lets +onlyGivenNames x; refine (fun (hx : Kept s0 x) => ?_) ?_; (on_goal 2 => unfold x; clear x); (on_goal 1 => clear_value x))
    | (extract_lets +onlyGivenNames x; clear_value x)
    | extract_lets +onlyGivenNames x
    | with_reducible apply Kept.ite
    | with_reducible apply State.setPart_kept
    | with_reducible apply State.phServe_kept
    | with_reducible apply State.wantLoads_kept
    | with_reducible apply State.serveLc_kept
    | with_reducible apply State.serveBe_kept
    | with_reducible apply State.serveMore_kept
    | with_reducible apply Kept.foldl

theorem State.answerTargets_kept {s0 : State} {s : State} {id : Nat} {detail : Nat} {f : Work → Bool} (h : Kept s0 s) : Kept s0 (State.answerTargets s id detail f) := by
  unfold State.answerTargets
  repeat' first
    | with_reducible assumption
    | (intro t b (ht : Kept s0 t))
    | extract_lets +onlyGivenNames x
    | with_reducible apply State.serve1_kept
    | with_reducible apply Kept.foldl

theorem State.unstop_kept {s0 : State} {s : State} {id : Nat} (h : Kept s0 s) : Kept s0 (State.unstop s id) := by
  unfold State.unstop
  repeat' first
    | with_reducible assumption
    | (intro t b (ht : Kept s0 t))
    | (extract_lets +onlyGivenNames x; refine (fun (hx : Kept s0 x) => ?_) ?_; (on_goal 2 => unfold x; clear x); (on_goal 1 => clear_value x))
    | (extract_lets +onlyGivenNames x; clear_value x)
    | with_reducible apply State.modWork_kept
    | with_reducible apply State.setArr_kept
    | with_reducible apply Kept.foldl
    | split

theorem State.requeue_kept {s0 : State} {s : State} {id : Nat} (h : Kept s0 s) : Kept s0 (State.requeue s id) := by
  unfold State.requeue
  repeat' first
    | with_reducible assumption
    | extract_lets +onlyGivenNames x
    | with_reducible apply State.modWork_kept
    | with_reducible apply State.discardBlocks_kept

theorem State.preempted_kept {s0 : State} {s : State} {k : Work} {reason : Nat} (h : Kept s0 s) : Kept s0 (State.preempted s k reason) := by
  unfold State.preempted
  repeat' first
    | with_reducible assumption
    | (extract_lets +onlyGivenNames x; refine (fun (hx : Kept s0 x) => ?_) ?_; (on_goal 2 => unfold x; clear x); (on_goal 1 => clear_value x))
    | (extract_lets +onlyGivenNames x; clear_value x)
    | extract_lets +onlyGivenNames x
    | with_reducible apply Kept.ite
    | with_reducible apply State.partCount_kept
    | with_reducible apply State.modWork_kept
    | with_reducible apply State.setBit_kept
    | with_reducible apply State.refuse_kept
    | with_reducible apply State.discardBlocks_kept
    | with_reducible apply State.requeue_kept
    | with_reducible apply State.interim_kept
    | with_reducible apply State.answerTargets_kept
    | split

theorem State.launchEnd_kept {s0 : State} {s : State} {k : Work} (h : Kept s0 s) : Kept s0 (State.launchEnd s k) := by
  unfold State.launchEnd
  repeat' first
    | with_reducible assumption
    | (intro t b (ht : Kept s0 t))
    | (extract_lets +onlyGivenNames x; refine (fun (hx : ∀ t a, Kept s0 t → Kept s0 (x t a)) => ?_) ?_; (on_goal 2 => unfold x; clear x); (on_goal 1 => clear_value x))
    | extract_lets +onlyGivenNames x
    | with_reducible apply Kept.ite
    | with_reducible apply State.faulted_kept
    | with_reducible apply State.cancelled_kept
    | with_reducible apply State.answerTargets_kept
    | with_reducible apply State.unstop_kept
    | with_reducible apply State.preempted_kept
    | with_reducible apply State.requeue_kept
    | with_reducible apply State.discardBlocks_kept
    | with_reducible apply State.finish_kept
    | split
    | with_reducible apply_assumption

theorem execLaunchStopped_kept {s0 : State} {port : Fin 6} {m : Fin 4096} {seq : BitVec 64} {s : State} (h : Kept s0 s) : KeptX s0 (execLaunchStopped port m seq s) := by
  unfold execLaunchStopped
  repeat' first
    | with_reducible assumption
    | extract_lets +onlyGivenNames x
    | with_reducible apply KeptX.next
    | with_reducible apply Kept.ite
    | with_reducible apply State.dispatch_kept
    | with_reducible apply State.launchEnd_kept
    | split

theorem execDispatchOffer_kept {s0 : State} {p : Fin 6} {s : State} (h : Kept s0 s) : KeptX s0 (execDispatchOffer p s) := by
  unfold execDispatchOffer
  repeat' first
    | with_reducible assumption
    | extract_lets +onlyGivenNames x
    | with_reducible apply KeptX.next
    | with_reducible apply State.dispatch_kept

end Sys2Proof.Machine
end

