-- ==== Sys2Proof/Laws/KeptMailbag.lean ====
section
/-! SUPPORT. What the operations of Machine/Mailbag.lean keep. -/

namespace Sys2Proof.Machine

set_option linter.tactic.unusedName false

theorem State.tailWrite_kept {s0 : State} {s : State} {port : Nat} {m : Nat} {v : W32} (h : Kept s0 s) : Kept s0 (State.tailWrite s port m v) := by
  unfold State.tailWrite
  repeat' first
    | with_reducible assumption
    | (extract_lets +onlyGivenNames x; clear_value x)
    | extract_lets +onlyGivenNames x
    | with_reducible apply Kept.ite
    | with_reducible apply State.setBit_kept
    | with_reducible apply State.setMailbag_kept

theorem State.mbStart_kept {s0 : State} {s : State} {port : Nat} {m : Nat} (h : Kept s0 s) : Kept s0 (State.mbStart s port m) := by
  unfold State.mbStart
  repeat' first
    | with_reducible assumption
    | (extract_lets +onlyGivenNames x; refine (fun (hx : Kept s0 x) => ?_) ?_; (on_goal 2 => unfold x; clear x); (on_goal 1 => clear_value x))
    | extract_lets +onlyGivenNames x
    | with_reducible apply State.setMailbag_kept
    | with_reducible apply State.clearBit_kept
    | with_reducible apply State.setBit_kept
    | fail_if_no_progress with_reducible refine Kept.mk' ?_ rfl rfl rfl rfl rfl

theorem State.forwardEntry_kept {s0 : State} {s : State} {k : Work} (h : Kept s0 s) : Kept s0 (State.forwardEntry s k) := by
  unfold State.forwardEntry
  repeat' first
    | with_reducible assumption
    | (extract_lets +onlyGivenNames x; refine (fun (hx : Kept s0 x) => ?_) ?_; (on_goal 2 => unfold x; clear x); (on_goal 1 => clear_value x))
    | (extract_lets +onlyGivenNames x; clear_value x)
    | extract_lets +onlyGivenNames x
    | with_reducible apply State.modWork_kept
    | with_reducible apply State.setPair_kept
    | with_reducible apply State.pairSend_kept

theorem State.rheadWrite_kept {s0 : State} {s : State} {port : Nat} {m : Nat} {v : W32} (h : Kept s0 s) : Kept s0 (State.rheadWrite s port m v) := by
  unfold State.rheadWrite
  repeat' first
    | with_reducible assumption
    | (extract_lets +onlyGivenNames x; clear_value x)
    | extract_lets +onlyGivenNames x
    | with_reducible apply Kept.ite
    | with_reducible apply State.setBit_kept
    | with_reducible apply State.setMailbag_kept

theorem execReceiptHead_kept {s0 : State} {port : Fin 6} {m : Fin 4096} {v : BitVec 32} {s : State} (h : Kept s0 s) : KeptX s0 (execReceiptHead port m v s) := by
  unfold execReceiptHead
  repeat' first
    | with_reducible assumption
    | extract_lets +onlyGivenNames x
    | with_reducible apply KeptX.next
    | with_reducible apply State.rheadWrite_kept

theorem State.mbCtlWrite_kept {s0 : State} {s : State} {port : Nat} {m : Nat} {v : W32} (h : Kept s0 s) : Kept s0 (State.mbCtlWrite s port m v) := by
  unfold State.mbCtlWrite
  repeat' first
    | with_reducible assumption
    | (extract_lets +onlyGivenNames x; refine (fun (hx : Kept s0 x) => ?_) ?_; (on_goal 2 => unfold x; clear x); (on_goal 1 => clear_value x))
    | (extract_lets +onlyGivenNames x; clear_value x)
    | extract_lets +onlyGivenNames x
    | with_reducible apply Kept.ite
    | with_reducible apply State.setMailbag_kept
    | with_reducible apply State.clearBit_kept
    | with_reducible apply State.setBit_kept
    | with_reducible apply State.setField_kept
    | with_reducible apply State.mbStart_kept

theorem execMailbagTail_kept {s0 : State} {port : Fin 6} {m : Fin 4096} {v : BitVec 32} {s : State} (h : Kept s0 s) : KeptX s0 (execMailbagTail port m v s) := by
  unfold execMailbagTail
  repeat' first
    | with_reducible assumption
    | extract_lets +onlyGivenNames x
    | with_reducible apply KeptX.next
    | with_reducible apply State.tailWrite_kept

theorem execEntryTake_kept {s0 : State} {port : Fin 6} {m : Fin 4096} {s : State} (h : Kept s0 s) : KeptX s0 (execEntryTake port m s) := by
  unfold execEntryTake
  repeat' first
    | with_reducible assumption
    | (extract_lets +onlyGivenNames x; clear_value x)
    | extract_lets +onlyGivenNames x
    | with_reducible apply KeptX.next
    | with_reducible apply Kept.ite
    | with_reducible apply State.setMailbag_kept

theorem execMailbagEnable_kept {s0 : State} {port : Fin 6} {m : Fin 4096} {v : BitVec 32} {s : State} (h : Kept s0 s) : KeptX s0 (execMailbagEnable port m v s) := by
  unfold execMailbagEnable
  repeat' first
    | with_reducible assumption
    | extract_lets +onlyGivenNames x
    | with_reducible apply KeptX.next
    | with_reducible apply State.mbCtlWrite_kept

theorem State.addWork_kept {s0 : State} {s : State} {p : Nat} {port : Nat} {m : Nat} {e : BitVec 512} (h : Kept s0 s) : Kept s0 (State.addWork s p port m e).2 := by
  unfold State.addWork
  repeat' first
    | with_reducible assumption
    | (extract_lets +onlyGivenNames x; clear_value x)
    | extract_lets +onlyGivenNames x
    | with_reducible apply Kept.ite
    | with_reducible apply State.newId_kept
    | with_reducible apply State.setMailbag_kept
    | with_reducible apply State.setPart_kept
    | with_reducible apply State.refuse_kept
    | fail_if_no_progress with_reducible refine Kept.mk' ?_ rfl rfl rfl rfl rfl

theorem execEntryReadDone_kept {s0 : State} {port : Fin 6} {m : Fin 4096} {entry : BitVec 512} {s : State} (h : Kept s0 s) : KeptX s0 (execEntryReadDone port m entry s) := by
  unfold execEntryReadDone
  repeat' first
    | with_reducible assumption
    | (extract_lets +onlyGivenNames x; clear_value x)
    | extract_lets +onlyGivenNames x
    | with_reducible apply KeptX.next
    | with_reducible apply Kept.ite
    | with_reducible apply State.setMailbag_kept
    | with_reducible apply State.addWork_kept
    | with_reducible apply State.forwardEntry_kept
    | split
    | (with_reducible eapply Kept.of_snd; focus assumption)

theorem execEntryReadError_kept {s0 : State} {port : Fin 6} {m : Fin 4096} {s : State} (h : Kept s0 s) : KeptX s0 (execEntryReadError port m s) := by
  unfold execEntryReadError
  repeat' first
    | with_reducible assumption
    | (extract_lets +onlyGivenNames x; clear_value x)
    | extract_lets +onlyGivenNames x
    | with_reducible apply KeptX.next
    | with_reducible apply Kept.ite
    | with_reducible apply State.setBit_kept
    | with_reducible apply State.setMailbag_kept

end Sys2Proof.Machine
end

