-- ==== Sys2Proof/Laws/KeptEntries.lean ====
section
/-! SUPPORT. What the operations of Machine/Entries.lean keep. -/

namespace Sys2Proof.Machine

set_option linter.tactic.unusedName false

theorem State.cancelChain_kept {s0 : State} {s : State} {j : Work} {why : StopWhy} (h : Kept s0 s) : Kept s0 (State.cancelChain s j why) := by
  unfold State.cancelChain
  repeat' first
    | with_reducible assumption
    | (extract_lets +onlyGivenNames x; refine (fun (hx : Kept s0 x) => ?_) ?_; (on_goal 2 => unfold x; clear x); (on_goal 1 => clear_value x))
    | (extract_lets +onlyGivenNames x; clear_value x)
    | extract_lets +onlyGivenNames x
    | with_reducible apply Kept.ite
    | with_reducible apply State.modWork_kept
    | with_reducible apply State.setCourier_kept
    | with_reducible apply State.crStop_kept

theorem State.mgmtBegun_kept {s0 : State} {s : State} {id : Nat} (h : Kept s0 s) : Kept s0 (State.mgmtBegun s id) := by
  unfold State.mgmtBegun
  repeat' first
    | with_reducible assumption
    | with_reducible apply State.modWork_kept

theorem State.busy_kept {s0 : State} {s : State} {k : Work} (h : Kept s0 s) : Kept s0 (State.busy s k) := by
  unfold State.busy
  repeat' first
    | with_reducible assumption
    | extract_lets +onlyGivenNames x
    | with_reducible apply State.setBit_kept
    | with_reducible apply State.finish_kept

theorem State.passMgmt_kept {s0 : State} {s : State} {k : Work} (h : Kept s0 s) : Kept s0 (State.passMgmt s k) := by
  unfold State.passMgmt
  repeat' first
    | with_reducible assumption
    | (extract_lets +onlyGivenNames x; refine (fun (hx : Kept s0 x) => ?_) ?_; (on_goal 2 => unfold x; clear x); (on_goal 1 => clear_value x))
    | extract_lets +onlyGivenNames x
    | with_reducible apply Kept.ite
    | with_reducible apply State.refuse_kept
    | with_reducible apply State.busy_kept
    | with_reducible apply State.modWork_kept
    | with_reducible apply State.forwardEntry_kept

theorem State.progressHeld_kept {s0 : State} {s : State} (h : Kept s0 s) : Kept s0 (State.progressHeld s) := by
  unfold State.progressHeld
  repeat' first
    | with_reducible assumption
    | (intro t b (ht : Kept s0 t))
    | extract_lets +onlyGivenNames x
    | with_reducible apply Kept.ite
    | with_reducible apply State.serve1_kept
    | with_reducible apply State.passMgmt_kept
    | with_reducible apply Kept.foldl

theorem State.afterFinal_kept {s0 : State} {s : State} {p : Nat} (h : Kept s0 s) : Kept s0 (State.afterFinal s p) := by
  unfold State.afterFinal
  repeat' first
    | with_reducible assumption
    | extract_lets +onlyGivenNames x
    | with_reducible apply State.dispatch_kept
    | with_reducible apply State.startChains_kept
    | with_reducible apply State.progressHeld_kept

theorem State.cancelWork_kept {s0 : State} {s : State} {j : Work} {why : StopWhy} {reason : Nat} (h : Kept s0 s) : Kept s0 (State.cancelWork s j why reason).2 := by
  unfold State.cancelWork
  repeat' first
    | with_reducible assumption
    | (extract_lets +onlyGivenNames x; refine (fun (hx : Kept s0 x.2) => ?_) ?_; (on_goal 2 => unfold x; clear x); (on_goal 1 => clear_value x))
    | with_reducible apply State.cancelled_kept
    | with_reducible apply State.stopFor_kept
    | with_reducible apply State.cancelChain_kept
    | split

theorem State.queueLaunch_kept {s0 : State} {s : State} {k : Work} (h : Kept s0 s) : Kept s0 (State.queueLaunch s k) := by
  unfold State.queueLaunch
  repeat' first
    | with_reducible assumption
    | (extract_lets +onlyGivenNames x; clear_value x)
    | with_reducible apply State.modWork_kept

theorem State.awaits_kept {s0 : State} {s : State} {k : Work} {id : Nat} (h : Kept s0 s) : Kept s0 (State.awaits s k id) := by
  unfold State.awaits
  repeat' first
    | with_reducible assumption
    | with_reducible apply State.modWork_kept

theorem execPreempt_kept {s0 : State} {port : Fin 6} {m : Fin 4096} {s : State} (h : Kept s0 s) : KeptX s0 (execPreempt port m s) := by
  unfold execPreempt
  repeat' first
    | with_reducible assumption
    | extract_lets +onlyGivenNames x
    | with_reducible apply KeptX.next
    | with_reducible apply Kept.ite
    | with_reducible apply State.serve1_kept
    | with_reducible apply State.awaits_kept
    | with_reducible apply State.stopFor_kept
    | split

theorem execMgmt_kept {s0 : State} {port : Fin 6} {m : Fin 4096} {s : State} (h : Kept s0 s) : KeptX s0 (execMgmt port m s) := by
  unfold execMgmt
  repeat' first
    | with_reducible assumption
    | extract_lets +onlyGivenNames x
    | with_reducible apply KeptX.next
    | with_reducible apply Kept.ite
    | with_reducible apply State.modWork_kept
    | with_reducible apply State.passMgmt_kept
    | split

theorem execMgmtBusyTimeout_kept {s0 : State} {port : Fin 6} {m : Fin 4096} {s : State} (h : Kept s0 s) : KeptX s0 (execMgmtBusyTimeout port m s) := by
  unfold execMgmtBusyTimeout
  repeat' first
    | with_reducible assumption
    | extract_lets +onlyGivenNames x
    | with_reducible apply KeptX.next
    | with_reducible apply Kept.ite
    | with_reducible apply State.busy_kept
    | split

theorem State.launch_kept {s0 : State} {s : State} {k : Work} (h : Kept s0 s) : Kept s0 (State.launch s k) := by
  unfold State.launch
  repeat' first
    | with_reducible assumption
    | (extract_lets +onlyGivenNames x; refine (fun (hx : Kept s0 x) => ?_) ?_; (on_goal 2 => unfold x; clear x); (on_goal 1 => clear_value x))
    | (extract_lets +onlyGivenNames x; clear_value x)
    | extract_lets +onlyGivenNames x
    | with_reducible apply Kept.ite
    | with_reducible apply State.refuse_kept
    | with_reducible apply State.setBit_kept
    | with_reducible apply State.queueLaunch_kept
    | with_reducible apply State.dispatch_kept
    | with_reducible apply State.partCount_kept
    | with_reducible apply State.modWork_kept
    | with_reducible apply State.interim_kept
    | split

theorem execLaunch_kept {s0 : State} {port : Fin 6} {m : Fin 4096} {s : State} (h : Kept s0 s) : KeptX s0 (execLaunch port m s) := by
  unfold execLaunch
  repeat' first
    | with_reducible assumption
    | extract_lets +onlyGivenNames x
    | with_reducible apply KeptX.next
    | with_reducible apply State.launch_kept
    | split

theorem execChain_kept {s0 : State} {port : Fin 6} {m : Fin 4096} {s : State} (h : Kept s0 s) : KeptX s0 (execChain port m s) := by
  unfold execChain
  repeat' first
    | with_reducible assumption
    | (extract_lets +onlyGivenNames x; clear_value x)
    | extract_lets +onlyGivenNames x
    | with_reducible apply KeptX.next
    | with_reducible apply Kept.ite
    | with_reducible apply State.refuse_kept
    | with_reducible apply State.startChains_kept
    | with_reducible apply State.modWork_kept
    | split

theorem execCancel_kept {s0 : State} {port : Fin 6} {m : Fin 4096} {s : State} (h : Kept s0 s) : KeptX s0 (execCancel port m s) := by
  unfold execCancel
  repeat' first
    | with_reducible assumption
    | extract_lets +onlyGivenNames x
    | with_reducible apply KeptX.next
    | with_reducible apply Kept.ite
    | with_reducible apply State.serve1_kept
    | with_reducible apply State.cancelWork_kept
    | with_reducible apply State.awaits_kept
    | split

theorem execMarker_kept {s0 : State} {port : Fin 6} {m : Fin 4096} {s : State} (h : Kept s0 s) : KeptX s0 (execMarker port m s) := by
  unfold execMarker
  repeat' first
    | with_reducible assumption
    | extract_lets +onlyGivenNames x
    | with_reducible apply KeptX.next
    | with_reducible apply Kept.ite
    | with_reducible apply State.modWork_kept
    | with_reducible apply State.serve1_kept
    | split

end Sys2Proof.Machine
end

