-- ==== Sys2Proof/Laws/KeptPasidSlices.lean ====
section
/-! SUPPORT. What the operations of Machine/PasidSlices.lean keep. -/

namespace Sys2Proof.Machine

set_option linter.tactic.unusedName false

theorem State.wholeWindows_kept {s0 : State} {s : State} {port : Nat} {n : Nat} (h : Kept s0 s) : Kept s0 (State.wholeWindows s port n) := by
  unfold State.wholeWindows
  repeat' first
    | with_reducible assumption
    | extract_lets +onlyGivenNames x
    | with_reducible apply State.setReg_kept

theorem State.restoreMailbag_kept {s0 : State} {s : State} {port : Nat} {r : SaveMailbag} (h : Kept s0 s) : Kept s0 (State.restoreMailbag s port r) := by
  unfold State.restoreMailbag
  repeat' first
    | with_reducible assumption
    | (extract_lets +onlyGivenNames x; refine (fun (hx : Kept s0 x) => ?_) ?_; (on_goal 2 => unfold x; clear x); (on_goal 1 => clear_value x))
    | (extract_lets +onlyGivenNames x; clear_value x)
    | extract_lets +onlyGivenNames x
    | with_reducible apply State.setReg_kept
    | with_reducible apply State.mbStart_kept
    | with_reducible apply State.setField_kept
    | with_reducible apply State.setMailbag_kept

theorem State.unquiesce_kept {s0 : State} {s : State} {port : Nat} {sl : Nat} (h : Kept s0 s) : Kept s0 (State.unquiesce s port sl) := by
  unfold State.unquiesce
  repeat' first
    | with_reducible assumption
    | (intro t b (ht : Kept s0 t))
    | (extract_lets +onlyGivenNames x; refine (fun (hx : Kept s0 x) => ?_) ?_; (on_goal 2 => unfold x; clear x); (on_goal 1 => clear_value x))
    | (extract_lets +onlyGivenNames x; clear_value x)
    | extract_lets +onlyGivenNames x
    | with_reducible apply Kept.ite
    | with_reducible apply State.clearBit_kept
    | with_reducible apply State.setCourier_kept
    | with_reducible apply State.afterFinal_kept
    | with_reducible apply Kept.foldl
    | split

theorem State.dropReads_kept {s0 : State} {s : State} {port : Nat} {sl : Nat} (h : Kept s0 s) : Kept s0 (State.dropReads s port sl) := by
  unfold State.dropReads
  repeat' first
    | with_reducible assumption
    | (extract_lets +onlyGivenNames x; clear_value x)
    | fail_if_no_progress with_reducible refine Kept.mk' ?_ rfl rfl rfl rfl rfl

theorem State.sliceRegs_kept {s0 : State} {s : State} {port : Nat} {sl : Nat} {n : Nat} (h : Kept s0 s) : Kept s0 (State.sliceRegs s port sl n) := by
  unfold State.sliceRegs
  repeat' first
    | with_reducible assumption
    | (intro t b (ht : Kept s0 t))
    | (extract_lets +onlyGivenNames x; refine (fun (hx : Kept s0 x) => ?_) ?_; (on_goal 2 => unfold x; clear x); (on_goal 1 => clear_value x))
    | (extract_lets +onlyGivenNames x; clear_value x)
    | extract_lets +onlyGivenNames x
    | with_reducible apply Kept.ite
    | with_reducible apply State.resetRegs_kept
    | with_reducible apply State.wholeWindows_kept
    | with_reducible apply State.clearBit_kept
    | fail_if_no_progress with_reducible refine Kept.mk' ?_ rfl rfl rfl rfl rfl
    | with_reducible apply Kept.foldl

theorem State.sliceRstEnd_kept {s0 : State} {s : State} {p : Nat} {port : Nat} {sl : Nat} (h : Kept s0 s) : Kept s0 (State.sliceRstEnd s p port sl) := by
  unfold State.sliceRstEnd
  repeat' first
    | with_reducible assumption
    | extract_lets +onlyGivenNames x
    | with_reducible apply Kept.ite
    | with_reducible apply State.sliceRegs_kept
    | with_reducible apply State.flushHc_kept

theorem State.sliceRstBegin_kept {s0 : State} {s : State} {p : Nat} {port : Nat} {sl : Nat} (h : Kept s0 s) : Kept s0 (State.sliceRstBegin s p port sl) := by
  unfold State.sliceRstBegin
  repeat' first
    | with_reducible assumption
    | (intro t b (ht : Kept s0 t))
    | (extract_lets +onlyGivenNames x; refine (fun (hx : Kept s0 x) => ?_) ?_; (on_goal 2 => unfold x; clear x); (on_goal 1 => clear_value x))
    | extract_lets +onlyGivenNames x
    | with_reducible apply State.dropReads_kept
    | with_reducible apply State.cancelWork_kept
    | with_reducible apply State.sliceRstEnd_kept
    | with_reducible apply Kept.foldl

theorem State.sliceRstRestarted_kept {s0 : State} {s : State} {p : Nat} {port : Nat} (h : Kept s0 s) : Kept s0 (State.sliceRstRestarted s p port) := by
  unfold State.sliceRstRestarted
  repeat' first
    | with_reducible assumption
    | (intro t b (ht : Kept s0 t))
    | extract_lets +onlyGivenNames x
    | with_reducible apply State.sliceRstBegin_kept
    | with_reducible apply Kept.foldl

theorem execSliceConfigWrite_kept {s0 : State} {port : Fin 6} {sl : Fin 64} {reg : Fin 4} {v : BitVec 32} {s : State} (h : Kept s0 s) : KeptX s0 (execSliceConfigWrite port sl reg v s) := by
  unfold execSliceConfigWrite
  repeat' first
    | with_reducible assumption
    | (extract_lets +onlyGivenNames x; clear_value x)
    | extract_lets +onlyGivenNames x
    | with_reducible apply KeptX.next
    | with_reducible apply Kept.ite
    | with_reducible apply State.setReg_kept

theorem State.hostPut_kept {s0 : State} {s : State} {port : Nat} {addr : Nat} {n : Nat} {v : Nat} (h : Kept s0 s) : Kept s0 (State.hostPut s port addr n v) := by
  unfold State.hostPut
  repeat' first
    | with_reducible assumption
    | (extract_lets +onlyGivenNames x; clear_value x)
    | fail_if_no_progress with_reducible refine Kept.mk' ?_ rfl rfl rfl rfl rfl

theorem State.hostBytesOut_kept {s0 : State} {port : Nat} {x0 : List Byte} {x1 : Nat} {x2 : State} (h : Kept s0 x2) : Kept s0 (State.hostBytesOut port x0 x1 x2) := by
  induction x0 generalizing x1 x2 with
  | nil =>
    unfold State.hostBytesOut
    repeat' with_reducible assumption
  | cons a l ih =>
    unfold State.hostBytesOut
    repeat' first
      | with_reducible assumption
      | with_reducible apply ih
      | extract_lets +onlyGivenNames x
      | with_reducible apply State.hostPut_kept

theorem State.saveSlice_kept {s0 : State} {s : State} {port : Nat} {sl : Nat} (h : Kept s0 s) : Kept s0 (State.saveSlice s port sl) := by
  unfold State.saveSlice
  repeat' first
    | with_reducible assumption
    | (extract_lets +onlyGivenNames x; clear_value x)
    | extract_lets +onlyGivenNames x
    | with_reducible apply Kept.ite
    | with_reducible apply State.setBit_kept
    | with_reducible apply State.hostBytesOut_kept
    | split

theorem execDirtyPageLog_kept {s0 : State} {port : Fin 6} {sl : Fin 64} {word : BitVec 64} {ok : Bool} {s : State} (h : Kept s0 s) : KeptX s0 (execDirtyPageLog port sl word ok s) := by
  unfold execDirtyPageLog
  repeat' first
    | with_reducible assumption
    | (extract_lets +onlyGivenNames x; refine (fun (hx : Kept s0 x) => ?_) ?_; (on_goal 2 => unfold x; clear x); (on_goal 1 => clear_value x))
    | (extract_lets +onlyGivenNames x; clear_value x)
    | extract_lets +onlyGivenNames x
    | with_reducible apply KeptX.next
    | with_reducible apply Kept.ite
    | with_reducible apply State.setPort_kept
    | with_reducible apply State.setBit_kept
    | with_reducible apply State.clearBit_kept
    | with_reducible apply State.hostPut_kept
    | split

theorem execSliceSave_kept {s0 : State} {port : Fin 6} {sl : Fin 64} {s : State} (h : Kept s0 s) : KeptX s0 (execSliceSave port sl s) := by
  unfold execSliceSave
  repeat' first
    | with_reducible assumption
    | extract_lets +onlyGivenNames x
    | with_reducible apply KeptX.next
    | with_reducible apply State.saveSlice_kept

theorem State.swapDlog_kept {s0 : State} {s : State} {port : Nat} {sl : Nat} (h : Kept s0 s) : Kept s0 (State.swapDlog s port sl) := by
  unfold State.swapDlog
  repeat' first
    | with_reducible assumption
    | (extract_lets +onlyGivenNames x; clear_value x)
    | extract_lets +onlyGivenNames x
    | with_reducible apply Kept.ite
    | with_reducible apply State.setField_kept
    | with_reducible apply State.setBit_kept

theorem State.quiesce_kept {s0 : State} {s : State} {port : Nat} {sl : Nat} (h : Kept s0 s) : Kept s0 (State.quiesce s port sl) := by
  unfold State.quiesce
  repeat' first
    | with_reducible assumption
    | (intro t b (ht : Kept s0 t))
    | (extract_lets +onlyGivenNames x; refine (fun (hx : Kept s0 x) => ?_) ?_; (on_goal 2 => unfold x; clear x); (on_goal 1 => clear_value x))
    | (extract_lets +onlyGivenNames x; clear_value x)
    | extract_lets +onlyGivenNames x
    | with_reducible apply Kept.ite
    | with_reducible apply State.dropReads_kept
    | with_reducible apply State.setBit_kept
    | with_reducible apply State.stopFor_kept
    | with_reducible apply State.setCourier_kept
    | with_reducible apply Kept.foldl

theorem State.quiesceWrite_kept {s0 : State} {s : State} {port : Nat} {sl : Nat} {on : Bool} (h : Kept s0 s) : Kept s0 (State.quiesceWrite s port sl on) := by
  unfold State.quiesceWrite
  repeat' first
    | with_reducible assumption
    | extract_lets +onlyGivenNames x
    | with_reducible apply Kept.ite
    | with_reducible apply State.unquiesce_kept
    | with_reducible apply State.quiesce_kept

theorem State.sliceRst_kept {s0 : State} {s : State} {port : Nat} {sl : Nat} (h : Kept s0 s) : Kept s0 (State.sliceRst s port sl) := by
  unfold State.sliceRst
  repeat' first
    | with_reducible assumption
    | (extract_lets +onlyGivenNames x; refine (fun (hx : Kept s0 x) => ?_) ?_; (on_goal 2 => unfold x; clear x); (on_goal 1 => clear_value x))
    | extract_lets +onlyGivenNames x
    | with_reducible apply Kept.ite
    | with_reducible apply State.sliceRstEnd_kept
    | with_reducible apply State.setBit_kept
    | with_reducible apply State.sliceRstBegin_kept
    | split

theorem State.restoreHeld_kept {s0 : State} {s : State} {p : Nat} {port : Nat} {sl : Nat} {r : SaveHeld} (h : Kept s0 s) : Kept s0 (State.restoreHeld s p port sl r) := by
  unfold State.restoreHeld
  repeat' first
    | with_reducible assumption
    | extract_lets +onlyGivenNames x
    | with_reducible apply Kept.ite
    | with_reducible apply State.newId_kept
    | with_reducible apply State.queueLaunch_kept
    | with_reducible apply State.refuse_kept
    | fail_if_no_progress with_reducible refine Kept.mk' ?_ rfl rfl rfl rfl rfl

theorem State.restoreSlice_kept {s0 : State} {s : State} {port : Nat} {sl : Nat} {r : SaveRec} (h : Kept s0 s) : Kept s0 (State.restoreSlice s port sl r) := by
  unfold State.restoreSlice
  repeat' first
    | with_reducible assumption
    | (intro t b (ht : Kept s0 t))
    | (extract_lets +onlyGivenNames x; refine (fun (hx : Kept s0 x) => ?_) ?_; (on_goal 2 => unfold x; clear x); (on_goal 1 => clear_value x))
    | (extract_lets +onlyGivenNames x; clear_value x)
    | extract_lets +onlyGivenNames x
    | with_reducible apply Kept.ite
    | with_reducible apply State.setBit_kept
    | with_reducible apply State.clearBit_kept
    | with_reducible apply State.writeWord_kept
    | with_reducible apply State.restoreMailbag_kept
    | with_reducible apply State.restoreHeld_kept
    | with_reducible apply Kept.foldl
    | split

theorem execQuiesced_kept {s0 : State} {port : Fin 6} {sl : Fin 64} {s : State} (h : Kept s0 s) : KeptX s0 (execQuiesced port sl s) := by
  unfold execQuiesced
  repeat' first
    | with_reducible assumption
    | (extract_lets +onlyGivenNames x; clear_value x)
    | extract_lets +onlyGivenNames x
    | with_reducible apply KeptX.next
    | with_reducible apply Kept.ite
    | with_reducible apply State.setBit_kept
    | with_reducible apply State.flushHc_kept
    | split

theorem execSwapDone_kept {s0 : State} {port : Fin 6} {sl : Fin 64} {s : State} (h : Kept s0 s) : KeptX s0 (execSwapDone port sl s) := by
  unfold execSwapDone
  repeat' first
    | with_reducible assumption
    | (extract_lets +onlyGivenNames x; clear_value x)
    | extract_lets +onlyGivenNames x
    | with_reducible apply KeptX.next
    | with_reducible apply Kept.ite
    | with_reducible apply State.setBit_kept
    | with_reducible apply State.clearBit_kept

theorem State.sliceRstStopped_kept {s0 : State} {s : State} {p : Nat} {port : Nat} (h : Kept s0 s) : Kept s0 (State.sliceRstStopped s p port) := by
  unfold State.sliceRstStopped
  repeat' first
    | with_reducible assumption
    | (intro t b (ht : Kept s0 t))
    | extract_lets +onlyGivenNames x
    | with_reducible apply State.sliceRegs_kept
    | with_reducible apply Kept.foldl

theorem execSliceRst_kept {s0 : State} {port : Fin 6} {sl : Fin 64} {s : State} (h : Kept s0 s) : KeptX s0 (execSliceRst port sl s) := by
  unfold execSliceRst
  repeat' first
    | with_reducible assumption
    | extract_lets +onlyGivenNames x
    | with_reducible apply KeptX.next
    | with_reducible apply State.sliceRst_kept

theorem execSwap_kept {s0 : State} {port : Fin 6} {sl : Fin 64} {s : State} (h : Kept s0 s) : KeptX s0 (execSwap port sl s) := by
  unfold execSwap
  repeat' first
    | with_reducible assumption
    | extract_lets +onlyGivenNames x
    | with_reducible apply KeptX.next
    | with_reducible apply Kept.ite
    | with_reducible apply State.swapDlog_kept

theorem execQuiesce_kept {s0 : State} {port : Fin 6} {sl : Fin 64} {on : Bool} {s : State} (h : Kept s0 s) : KeptX s0 (execQuiesce port sl on s) := by
  unfold execQuiesce
  repeat' first
    | with_reducible assumption
    | extract_lets +onlyGivenNames x
    | with_reducible apply KeptX.next
    | with_reducible apply State.quiesceWrite_kept

theorem execSliceRestore_kept {s0 : State} {port : Fin 6} {sl : Fin 64} {r : SaveRec} {s : State} (h : Kept s0 s) : KeptX s0 (execSliceRestore port sl r s) := by
  unfold execSliceRestore
  repeat' first
    | with_reducible assumption
    | extract_lets +onlyGivenNames x
    | with_reducible apply KeptX.next
    | with_reducible apply State.restoreSlice_kept

end Sys2Proof.Machine
end

