-- ==== Sys2Proof/Laws/KeptReceipts.lean ====
section
/-! SUPPORT. What the operations of Machine/Receipts.lean keep. -/

namespace Sys2Proof.Machine

set_option linter.tactic.unusedName false

theorem State.flushed_kept {s0 : State} {s : State} {ga : Nat} {slot : Nat} {id : Nat} {ok : Bool} {code : Nat} (h : Kept s0 s) : Kept s0 (State.flushed s ga slot id ok code) := by
  unfold State.flushed
  repeat' first
    | with_reducible assumption
    | (extract_lets +onlyGivenNames x; refine (fun (hx : Kept s0 x) => ?_) ?_; (on_goal 2 => unfold x; clear x); (on_goal 1 => clear_value x))
    | extract_lets +onlyGivenNames x
    | with_reducible apply Kept.ite
    | with_reducible apply State.finishOrder_kept
    | with_reducible apply State.setGroup_kept
    | with_reducible apply blockFault_kept
    | split

theorem State.receiptEnds_kept {s0 : State} {s : State} {p : Nat} {port : Nat} {m : Nat} {r : Receipt} (h : Kept s0 s) : Kept s0 (State.receiptEnds s p port m r) := by
  unfold State.receiptEnds
  repeat' first
    | with_reducible assumption
    | (extract_lets +onlyGivenNames x; refine (fun (hx : Kept s0 x) => ?_) ?_; (on_goal 2 => unfold x; clear x); (on_goal 1 => clear_value x))
    | extract_lets +onlyGivenNames x
    | with_reducible apply Kept.ite
    | with_reducible apply State.answerTargets_kept
    | with_reducible apply State.clearBit_kept
    | with_reducible apply State.afterFinal_kept
    | with_reducible apply State.sliceRstEnd_kept
    | split

theorem State.hcPut_kept {s0 : State} {s : State} {p : Nat} {port : Nat} {sl : Nat} {off : Nat} {n : Nat} {v : Nat} (h : Kept s0 s) : Kept s0 (State.hcPut s p port sl off n v) := by
  unfold State.hcPut
  repeat' first
    | with_reducible assumption
    | (extract_lets +onlyGivenNames x; clear_value x)
    | extract_lets +onlyGivenNames x
    | with_reducible apply Kept.ite
    | with_reducible apply State.hidWrite_kept
    | with_reducible apply State.logDirty_kept
    | with_reducible apply State.writeHc_kept

theorem State.receiptOut_kept {s0 : State} {s : State} {p : Nat} {port : Nat} {m : Nat} {r : Receipt} {rest : List Receipt} (h : Kept s0 s) : Kept s0 (State.receiptOut s p port m r rest) := by
  unfold State.receiptOut
  repeat' first
    | with_reducible assumption
    | (extract_lets +onlyGivenNames x; refine (fun (hx : Kept s0 x) => ?_) ?_; (on_goal 2 => unfold x; clear x); (on_goal 1 => clear_value x))
    | (extract_lets +onlyGivenNames x; clear_value x)
    | extract_lets +onlyGivenNames x
    | with_reducible apply Kept.ite
    | with_reducible apply State.hcPut_kept
    | with_reducible apply State.setMailbag_kept
    | with_reducible apply State.setPair_kept
    | with_reducible apply State.receiptEnds_kept

theorem State.leaderReceipt_kept {s0 : State} {s : State} {p : Nat} {port : Nat} {m : Nat} {r : Receipt} {rest : List Receipt} (h : Kept s0 s) : Kept s0 (State.leaderReceipt s p port m r rest) := by
  unfold State.leaderReceipt
  repeat' first
    | with_reducible assumption
    | extract_lets +onlyGivenNames x
    | with_reducible apply Kept.ite
    | with_reducible apply State.receiptOut_kept
    | with_reducible apply State.failOver_kept
    | with_reducible apply State.poison_kept
    | with_reducible apply State.goAlone_kept
    | with_reducible apply State.sendWithdraw_kept
    | split

theorem State.crFlushed_kept {s0 : State} {s : State} {c : Nat} {ok : Bool} (h : Kept s0 s) : Kept s0 (State.crFlushed s c ok) := by
  unfold State.crFlushed
  repeat' first
    | with_reducible assumption
    | (extract_lets +onlyGivenNames x; refine (fun (hx : Kept s0 x) => ?_) ?_; (on_goal 2 => unfold x; clear x); (on_goal 1 => clear_value x))
    | (extract_lets +onlyGivenNames x; clear_value x)
    | extract_lets +onlyGivenNames x
    | with_reducible apply Kept.ite
    | with_reducible apply State.recordDone_kept
    | with_reducible apply State.setCourier_kept
    | with_reducible apply State.courierFault_kept

theorem State.closingFlushed_kept {s0 : State} {s : State} {p : Nat} {ga : Nat} {ok : Bool} (h : Kept s0 s) : Kept s0 (State.closingFlushed s p ga ok) := by
  unfold State.closingFlushed
  repeat' first
    | with_reducible assumption
    | (extract_lets +onlyGivenNames x; refine (fun (hx : Kept s0 x) => ?_) ?_; (on_goal 2 => unfold x; clear x); (on_goal 1 => clear_value x))
    | (extract_lets +onlyGivenNames x; clear_value x)
    | extract_lets +onlyGivenNames x
    | with_reducible apply Kept.ite
    | with_reducible apply State.modWork_kept
    | with_reducible apply State.afterFinal_kept
    | with_reducible apply State.progressClosing_kept
    | with_reducible apply State.raise_kept
    | split

theorem execHostFlushReadDone_kept {s0 : State} {port : Fin 6} {ok : Bool} {s : State} (h : Kept s0 s) : KeptX s0 (execHostFlushReadDone port ok s) := by
  unfold execHostFlushReadDone
  repeat' first
    | with_reducible assumption
    | (extract_lets +onlyGivenNames x; refine (fun (hx : Kept s0 x) => ?_) ?_; (on_goal 2 => unfold x; clear x); (on_goal 1 => clear_value x))
    | (extract_lets +onlyGivenNames x; clear_value x)
    | extract_lets +onlyGivenNames x
    | with_reducible apply KeptX.next
    | with_reducible apply Kept.ite
    | with_reducible apply State.setPort_kept
    | with_reducible apply State.crFlushed_kept
    | with_reducible apply State.closingFlushed_kept
    | with_reducible apply State.flushed_kept
    | split

theorem State.tailWordWrite_kept {s0 : State} {s : State} {port : Nat} {m : Nat} (h : Kept s0 s) : Kept s0 (State.tailWordWrite s port m) := by
  unfold State.tailWordWrite
  repeat' first
    | with_reducible assumption
    | (extract_lets +onlyGivenNames x; refine (fun (hx : Kept s0 x) => ?_) ?_; (on_goal 2 => unfold x; clear x); (on_goal 1 => clear_value x))
    | (extract_lets +onlyGivenNames x; clear_value x)
    | extract_lets +onlyGivenNames x
    | with_reducible apply Kept.ite
    | with_reducible apply State.hcPut_kept
    | with_reducible apply State.setMailbag_kept
    | with_reducible apply State.pairSend_kept
    | with_reducible apply State.sliceRstEnd_kept
    | split

theorem State.hostReadError_kept {s0 : State} {s : State} {p : Nat} {line : Nat} (h : Kept s0 s) : Kept s0 (State.hostReadError s p line) := by
  unfold State.hostReadError
  repeat' first
    | with_reducible assumption
    | (intro t b (ht : Kept s0 t))
    | (extract_lets +onlyGivenNames x; clear_value x)
    | extract_lets +onlyGivenNames x
    | with_reducible apply Kept.ite
    | with_reducible apply State.failReq_kept
    | with_reducible apply State.complete_kept
    | with_reducible apply State.dropReq_kept
    | with_reducible apply State.crStop_kept
    | with_reducible apply State.courierFault_kept
    | with_reducible apply Kept.foldl
    | split

theorem execHostReadError_kept {s0 : State} {p : Fin 6} {line : BitVec 41} {s : State} (h : Kept s0 s) : KeptX s0 (execHostReadError p line s) := by
  unfold execHostReadError
  repeat' first
    | with_reducible assumption
    | extract_lets +onlyGivenNames x
    | with_reducible apply KeptX.next
    | with_reducible apply State.hostReadError_kept

theorem State.followerDone_kept {s0 : State} {s : State} {p : Nat} {port : Nat} {m : Nat} (h : Kept s0 s) : Kept s0 (State.followerDone s p port m) := by
  unfold State.followerDone
  repeat' first
    | with_reducible assumption
    | (extract_lets +onlyGivenNames x; refine (fun (hx : Kept s0 x) => ?_) ?_; (on_goal 2 => unfold x; clear x); (on_goal 1 => clear_value x))
    | (extract_lets +onlyGivenNames x; clear_value x)
    | extract_lets +onlyGivenNames x
    | with_reducible apply State.setMailbag_kept
    | with_reducible apply State.setPair_kept
    | with_reducible apply State.receiptEnds_kept
    | with_reducible apply State.pairSend_kept
    | split

theorem State.dropReceipt_kept {s0 : State} {s : State} {p : Nat} {port : Nat} {m : Nat} {r : Receipt} {rest : List Receipt} (h : Kept s0 s) : Kept s0 (State.dropReceipt s p port m r rest) := by
  unfold State.dropReceipt
  repeat' first
    | with_reducible assumption
    | (extract_lets +onlyGivenNames x; refine (fun (hx : Kept s0 x) => ?_) ?_; (on_goal 2 => unfold x; clear x); (on_goal 1 => clear_value x))
    | (extract_lets +onlyGivenNames x; clear_value x)
    | extract_lets +onlyGivenNames x
    | with_reducible apply Kept.ite
    | with_reducible apply State.setMailbag_kept
    | with_reducible apply State.receiptEnds_kept

theorem State.receiptWrite_kept {s0 : State} {s : State} {port : Nat} {m : Nat} (h : Kept s0 s) : Kept s0 (State.receiptWrite s port m) := by
  unfold State.receiptWrite
  repeat' first
    | with_reducible assumption
    | (extract_lets +onlyGivenNames x; clear_value x)
    | extract_lets +onlyGivenNames x
    | with_reducible apply Kept.ite
    | with_reducible apply State.followerDone_kept
    | with_reducible apply State.dropReceipt_kept
    | with_reducible apply State.leaderReceipt_kept
    | with_reducible apply State.receiptOut_kept
    | split

theorem execReceiptWrite_kept {s0 : State} {port : Fin 6} {m : Fin 4096} {s : State} (h : Kept s0 s) : KeptX s0 (execReceiptWrite port m s) := by
  unfold execReceiptWrite
  repeat' first
    | with_reducible assumption
    | extract_lets +onlyGivenNames x
    | with_reducible apply KeptX.next
    | with_reducible apply State.receiptWrite_kept

theorem execTailWordWrite_kept {s0 : State} {port : Fin 6} {m : Fin 4096} {s : State} (h : Kept s0 s) : KeptX s0 (execTailWordWrite port m s) := by
  unfold execTailWordWrite
  repeat' first
    | with_reducible assumption
    | extract_lets +onlyGivenNames x
    | with_reducible apply KeptX.next
    | with_reducible apply State.tailWordWrite_kept

end Sys2Proof.Machine
end

