-- ==== Sys2Proof/Laws/KeptHostLink.lean ====
section
/-! SUPPORT. What the operations of Machine/HostLink.lean keep. -/

namespace Sys2Proof.Machine

set_option linter.tactic.unusedName false

theorem State.portRegsReset_kept {s0 : State} {s : State} {port : Nat} {n : Nat} (h : Kept s0 s) : Kept s0 (State.portRegsReset s port n) := by
  unfold State.portRegsReset
  repeat' first
    | with_reducible assumption
    | (extract_lets +onlyGivenNames x; refine (fun (hx : Kept s0 x) => ?_) ?_; (on_goal 2 => unfold x; clear x); (on_goal 1 => clear_value x))
    | (extract_lets +onlyGivenNames x; clear_value x)
    | extract_lets +onlyGivenNames x
    | with_reducible apply State.resetRegs_kept
    | with_reducible apply State.wholeWindows_kept
    | with_reducible apply State.setReg_kept
    | with_reducible apply State.setPort_kept
    | fail_if_no_progress with_reducible refine Kept.mk' ?_ rfl rfl rfl rfl rfl

theorem State.linkStop_kept {s0 : State} {s : State} {k : Work} (h : Kept s0 s) : Kept s0 (State.linkStop s k) := by
  unfold State.linkStop
  repeat' first
    | with_reducible assumption
    | (extract_lets +onlyGivenNames x; refine (fun (hx : Kept s0 x) => ?_) ?_; (on_goal 2 => unfold x; clear x); (on_goal 1 => clear_value x))
    | with_reducible apply State.modWork_kept
    | with_reducible apply State.stopFor_kept
    | with_reducible apply State.cancelChain_kept
    | with_reducible apply State.finish_kept
    | split

theorem State.failHost_kept {s0 : State} {s : State} {p : Nat} {port : Nat} (h : Kept s0 s) : Kept s0 (State.failHost s p port) := by
  unfold State.failHost
  repeat' first
    | with_reducible assumption
    | (intro t b (ht : Kept s0 t))
    | (extract_lets +onlyGivenNames x; refine (fun (hx : Kept s0 x) => ?_) ?_; (on_goal 2 => unfold x; clear x); (on_goal 1 => clear_value x))
    | (extract_lets +onlyGivenNames x; clear_value x)
    | extract_lets +onlyGivenNames x
    | with_reducible apply Kept.ite
    | with_reducible apply State.failReq_kept
    | with_reducible apply State.courierFault_kept
    | with_reducible apply State.setCourier_kept
    | with_reducible apply State.flushed_kept
    | with_reducible apply State.setPort_kept
    | fail_if_no_progress with_reducible refine Kept.mk' ?_ rfl rfl rfl rfl rfl
    | with_reducible apply Kept.foldl

theorem State.loseHc_kept {s0 : State} {s : State} {p : Nat} (h : Kept s0 s) : Kept s0 (State.loseHc s p).2 := by
  unfold State.loseHc
  repeat' first
    | with_reducible assumption
    | (intro t b (ht : Kept s0 t.2))
    | (extract_lets +onlyGivenNames x; clear_value x)
    | extract_lets +onlyGivenNames x
    | with_reducible apply State.setSlice_kept
    | with_reducible apply Kept.foldl_snd
    | with_reducible apply Kept.ite_snd

theorem State.linkLoss_kept {s0 : State} {s : State} {port : Nat} {up : Bool} (h : Kept s0 s) : Kept s0 (State.linkLoss s port up) := by
  unfold State.linkLoss
  repeat' first
    | with_reducible assumption
    | (intro t b (ht : Kept s0 t))
    | (extract_lets +onlyGivenNames x; refine (fun (hx : Kept s0 x) => ?_) ?_; (on_goal 2 => unfold x; clear x); (on_goal 1 => clear_value x))
    | (extract_lets +onlyGivenNames x; clear_value x)
    | extract_lets +onlyGivenNames x
    | with_reducible apply State.setField_kept
    | with_reducible apply State.setPort_kept
    | with_reducible apply State.linkStop_kept
    | with_reducible apply State.failHost_kept
    | with_reducible apply State.loseHc_kept
    | with_reducible apply State.hcLost_kept
    | with_reducible apply State.portRegsReset_kept
    | with_reducible apply State.dispatch_kept
    | with_reducible apply State.startChains_kept
    | fail_if_no_progress with_reducible refine Kept.mk' ?_ rfl rfl rfl rfl rfl
    | with_reducible apply Kept.foldl
    | split

theorem execHostLinkDown_kept {s0 : State} {port : Fin 6} {s : State} (h : Kept s0 s) : KeptX s0 (execHostLinkDown port s) := by
  unfold execHostLinkDown
  repeat' first
    | with_reducible assumption
    | extract_lets +onlyGivenNames x
    | with_reducible apply KeptX.next
    | with_reducible apply Kept.ite
    | with_reducible apply State.linkLoss_kept

theorem State.hcCtlWrite_kept {s0 : State} {s : State} {port : Nat} {v : W32} (h : Kept s0 s) : Kept s0 (State.hcCtlWrite s port v) := by
  unfold State.hcCtlWrite
  repeat' first
    | with_reducible assumption
    | (extract_lets +onlyGivenNames x; refine (fun (hx : Kept s0 x) => ?_) ?_; (on_goal 2 => unfold x; clear x); (on_goal 1 => clear_value x))
    | (extract_lets +onlyGivenNames x; clear_value x)
    | extract_lets +onlyGivenNames x
    | with_reducible apply Kept.ite
    | with_reducible apply State.setField_kept
    | with_reducible apply State.setBit_kept

theorem execPerst_kept {s0 : State} {port : Fin 6} {s : State} (h : Kept s0 s) : KeptX s0 (execPerst port s) := by
  unfold execPerst
  repeat' first
    | with_reducible assumption
    | (extract_lets +onlyGivenNames x; refine (fun (hx : Kept s0 x) => ?_) ?_; (on_goal 2 => unfold x; clear x); (on_goal 1 => clear_value x))
    | (extract_lets +onlyGivenNames x; clear_value x)
    | extract_lets +onlyGivenNames x
    | with_reducible apply KeptX.next
    | with_reducible apply Kept.ite
    | with_reducible apply State.linkLoss_kept
    | with_reducible apply State.setPort_kept

theorem execPtmDialog_kept {s0 : State} {port : Fin 6} {hostTime : BitVec 64} {s : State} (h : Kept s0 s) : KeptX s0 (execPtmDialog port hostTime s) := by
  unfold execPtmDialog
  repeat' first
    | with_reducible assumption
    | (extract_lets +onlyGivenNames x; clear_value x)
    | extract_lets +onlyGivenNames x
    | with_reducible apply KeptX.next
    | with_reducible apply Kept.ite
    | with_reducible apply State.setPort_kept

theorem execLinkLost_kept {s0 : State} {port : Fin 6} {s : State} (h : Kept s0 s) : KeptX s0 (execLinkLost port s) := by
  unfold execLinkLost
  repeat' first
    | with_reducible assumption
    | (extract_lets +onlyGivenNames x; refine (fun (hx : Kept s0 x) => ?_) ?_; (on_goal 2 => unfold x; clear x); (on_goal 1 => clear_value x))
    | (extract_lets +onlyGivenNames x; clear_value x)
    | extract_lets +onlyGivenNames x
    | with_reducible apply KeptX.next
    | with_reducible apply Kept.ite
    | with_reducible apply State.setPort_kept
    | with_reducible apply State.setBit_kept
    | fail_if_no_progress with_reducible refine Kept.mk' ?_ rfl rfl rfl rfl rfl

theorem execFunctionLevelReset_kept {s0 : State} {port : Fin 6} {s : State} (h : Kept s0 s) : KeptX s0 (execFunctionLevelReset port s) := by
  unfold execFunctionLevelReset
  repeat' first
    | with_reducible assumption
    | extract_lets +onlyGivenNames x
    | with_reducible apply KeptX.next
    | with_reducible apply State.linkLoss_kept

theorem execConfigRequest_kept {s0 : State} {port : Fin 6} {s : State} (h : Kept s0 s) : KeptX s0 (execConfigRequest port s) := by
  unfold execConfigRequest
  repeat' first
    | with_reducible assumption
    | (extract_lets +onlyGivenNames x; refine (fun (hx : Kept s0 x) => ?_) ?_; (on_goal 2 => unfold x; clear x); (on_goal 1 => clear_value x))
    | (extract_lets +onlyGivenNames x; clear_value x)
    | extract_lets +onlyGivenNames x
    | with_reducible apply KeptX.next
    | with_reducible apply Kept.ite
    | with_reducible apply State.setPort_kept
    | fail_if_no_progress with_reducible refine Kept.mk' ?_ rfl rfl rfl rfl rfl

theorem execHcCtlEn_kept {s0 : State} {port : Fin 6} {v : BitVec 32} {s : State} (h : Kept s0 s) : KeptX s0 (execHcCtlEn port v s) := by
  unfold execHcCtlEn
  repeat' first
    | with_reducible assumption
    | extract_lets +onlyGivenNames x
    | with_reducible apply KeptX.next
    | with_reducible apply State.hcCtlWrite_kept

theorem execCxlSnoop_kept {s0 : State} {port : Fin 6} {line : BitVec 41} {s : State} (h : Kept s0 s) : KeptX s0 (execCxlSnoop port line s) := by
  unfold execCxlSnoop
  repeat' first
    | with_reducible assumption
    | extract_lets +onlyGivenNames x
    | with_reducible apply KeptX.next
    | with_reducible apply State.flushHc_kept
    | split

end Sys2Proof.Machine
end

