-- ==== Sys2Proof/Laws/KeptPower.lean ====
section
/-! SUPPORT. What the operations of Machine/Power.lean keep. -/

namespace Sys2Proof.Machine

set_option linter.tactic.unusedName false

theorem State.retainAll_kept {s0 : State} {s : State} (h : Kept s0 s) : Kept s0 (State.retainAll s) := by
  unfold State.retainAll
  repeat' first
    | with_reducible assumption
    | (extract_lets +onlyGivenNames x; clear_value x)
    | fail_if_no_progress with_reducible refine Kept.mk' ?_ rfl rfl rfl rfl rfl

theorem execThermalTrip_kept {s0 : State} {source : Fin 109} {s : State} (h : Kept s0 s) : KeptX s0 (execThermalTrip source s) := by
  unfold execThermalTrip
  repeat' first
    | with_reducible assumption
    | (extract_lets +onlyGivenNames x; clear_value x)
    | extract_lets +onlyGivenNames x
    | with_reducible apply KeptX.next
    | with_reducible apply Kept.ite
    | with_reducible apply State.raise_kept
    | with_reducible apply State.retainAll_kept
    | with_reducible apply State.setBit_kept

theorem State.hostValue_kept {s0 : State} {s : State} {n : Nat} (h : Kept s0 s) : Kept s0 (State.hostValue s n).2 := by
  unfold State.hostValue
  repeat' first
    | with_reducible assumption
    | fail_if_no_progress with_reducible refine Kept.mk' ?_ rfl rfl rfl rfl rfl

theorem State.entryBytes_kept {s0 : State} {s : State} {k : Work} {a : Nat} {n : Nat} (h : Kept s0 s) : Kept s0 (State.entryBytes s k a n).2 := by
  unfold State.entryBytes
  repeat' first
    | with_reducible assumption
    | (extract_lets +onlyGivenNames x; clear_value x)
    | with_reducible apply State.hostValue_kept
    | split

theorem State.paramBlock_kept {s0 : State} {s : State} {k : Work} (h : Kept s0 s) : Kept s0 (State.paramBlock s k).2 := by
  unfold State.paramBlock
  repeat' first
    | with_reducible assumption
    | with_reducible apply State.entryBytes_kept

theorem State.reportsOut_kept {s0 : State} {s : State} (h : Kept s0 s) : Kept s0 (State.reportsOut s) := by
  unfold State.reportsOut
  repeat' first
    | with_reducible assumption
    | with_reducible apply State.setField_kept

theorem execJunctionSample_kept {s0 : State} {site : Fin 108} {temp : BitVec 8} {s : State} (h : Kept s0 s) : KeptX s0 (execJunctionSample site temp s) := by
  unfold execJunctionSample
  repeat' first
    | with_reducible assumption
    | (extract_lets +onlyGivenNames x; refine (fun (hx : Kept s0 x) => ?_) ?_; (on_goal 2 => unfold x; clear x); (on_goal 1 => clear_value x))
    | (extract_lets +onlyGivenNames x; clear_value x)
    | extract_lets +onlyGivenNames x
    | with_reducible apply KeptX.next
    | with_reducible apply Kept.ite
    | with_reducible apply State.setField_kept
    | with_reducible apply State.setBit_kept
    | with_reducible apply State.raise_kept
    | with_reducible apply State.clearBit_kept
    | fail_if_no_progress with_reducible refine Kept.mk' ?_ rfl rfl rfl rfl rfl

theorem execAlertHoldEnd_kept {s0 : State} {s : State} (h : Kept s0 s) : KeptX s0 (execAlertHoldEnd s) := by
  unfold execAlertHoldEnd
  repeat' first
    | with_reducible assumption
    | (extract_lets +onlyGivenNames x; refine (fun (hx : Kept s0 x) => ?_) ?_; (on_goal 2 => unfold x; clear x); (on_goal 1 => clear_value x))
    | (extract_lets +onlyGivenNames x; clear_value x)
    | extract_lets +onlyGivenNames x
    | with_reducible apply KeptX.next
    | with_reducible apply Kept.ite
    | with_reducible apply State.clearBit_kept
    | fail_if_no_progress with_reducible refine Kept.mk' ?_ rfl rfl rfl rfl rfl

theorem State.supplySet_kept {s0 : State} {s : State} {d : Nat} (h : Kept s0 s) : Kept s0 (State.supplySet s d) := by
  unfold State.supplySet
  repeat' first
    | with_reducible assumption
    | (extract_lets +onlyGivenNames x; refine (fun (hx : Kept s0 x) => ?_) ?_; (on_goal 2 => unfold x; clear x); (on_goal 1 => clear_value x))
    | (extract_lets +onlyGivenNames x; clear_value x)
    | with_reducible apply State.setField_kept
    | fail_if_no_progress with_reducible refine Kept.mk' ?_ rfl rfl rfl rfl rfl
    | split

theorem State.setRate_kept {s0 : State} {s : State} {p : Nat} {v : W32} (h : Kept s0 s) : Kept s0 (State.setRate s p v) := by
  unfold State.setRate
  repeat' first
    | with_reducible assumption
    | with_reducible apply State.setReg_kept

theorem State.rateModeWrite_kept {s0 : State} {s : State} {p : Nat} {v : W32} (h : Kept s0 s) : Kept s0 (State.rateModeWrite s p v) := by
  unfold State.rateModeWrite
  repeat' first
    | with_reducible assumption
    | extract_lets +onlyGivenNames x
    | with_reducible apply Kept.ite
    | with_reducible apply State.setBit_kept
    | with_reducible apply State.setRate_kept

theorem State.moduleBudgetWrite_kept {s0 : State} {s : State} {v : W32} (h : Kept s0 s) : Kept s0 (State.moduleBudgetWrite s v) := by
  unfold State.moduleBudgetWrite
  repeat' first
    | with_reducible assumption
    | extract_lets +onlyGivenNames x
    | with_reducible apply Kept.ite
    | with_reducible apply State.setBit_kept
    | with_reducible apply State.setReg_kept

theorem State.partBudgetWrite_kept {s0 : State} {s : State} {p : Nat} {v : W32} (h : Kept s0 s) : Kept s0 (State.partBudgetWrite s p v) := by
  unfold State.partBudgetWrite
  repeat' first
    | with_reducible assumption
    | (extract_lets +onlyGivenNames x; clear_value x)
    | extract_lets +onlyGivenNames x
    | with_reducible apply Kept.ite
    | with_reducible apply State.setBit_kept
    | with_reducible apply State.setReg_kept

theorem State.rateConfig_kept {s0 : State} {s : State} {k : Work} (h : Kept s0 s) : Kept s0 (State.rateConfig s k) := by
  unfold State.rateConfig
  repeat' first
    | with_reducible assumption
    | (extract_lets +onlyGivenNames x; clear_value x)
    | extract_lets +onlyGivenNames x
    | with_reducible apply Kept.ite
    | with_reducible apply State.paramBlock_kept
    | with_reducible apply State.serve1_kept
    | with_reducible apply State.setBit_kept
    | with_reducible apply State.setRate_kept
    | split
    | (with_reducible eapply Kept.of_snd; focus assumption)

theorem State.putBytes_kept {s0 : State} {s : State} {p : Nat} {sl : Nat} {work : Nat} {addr : Nat} {x0 : Nat} {x1 : Nat} (h : Kept s0 s) : Kept s0 (State.putBytes s p sl work addr x0 x1) := by
  induction x1 generalizing s addr x0 with
  | zero =>
    unfold State.putBytes
    repeat' with_reducible assumption
  | succ n ih =>
    unfold State.putBytes
    repeat' first
      | with_reducible assumption
      | with_reducible apply ih
      | extract_lets +onlyGivenNames x
      | with_reducible apply Kept.ite
      | with_reducible apply State.writeHc_kept
      | with_reducible apply State.writeWord_kept

theorem State.energyRead_kept {s0 : State} {s : State} {k : Work} (h : Kept s0 s) : Kept s0 (State.energyRead s k) := by
  unfold State.energyRead
  repeat' first
    | with_reducible assumption
    | (extract_lets +onlyGivenNames x; clear_value x)
    | extract_lets +onlyGivenNames x
    | with_reducible apply Kept.ite
    | with_reducible apply State.paramBlock_kept
    | with_reducible apply State.serve1_kept
    | with_reducible apply State.putBytes_kept
    | split
    | (with_reducible eapply Kept.of_snd; focus assumption)

theorem execEnergyRead_kept {s0 : State} {port : Fin 6} {s : State} (h : Kept s0 s) : KeptX s0 (execEnergyRead port s) := by
  unfold execEnergyRead
  repeat' first
    | with_reducible assumption
    | extract_lets +onlyGivenNames x
    | with_reducible apply KeptX.next
    | with_reducible apply State.energyRead_kept
    | split

theorem execRateConfig_kept {s0 : State} {port : Fin 6} {s : State} (h : Kept s0 s) : KeptX s0 (execRateConfig port s) := by
  unfold execRateConfig
  repeat' first
    | with_reducible assumption
    | extract_lets +onlyGivenNames x
    | with_reducible apply KeptX.next
    | with_reducible apply State.rateConfig_kept
    | split

theorem execPwrAlertRelease_kept {s0 : State} {s : State} (h : Kept s0 s) : KeptX s0 (execPwrAlertRelease s) := by
  unfold execPwrAlertRelease
  repeat' first
    | with_reducible assumption
    | (extract_lets +onlyGivenNames x; refine (fun (hx : Kept s0 x) => ?_) ?_; (on_goal 2 => unfold x; clear x); (on_goal 1 => clear_value x))
    | (extract_lets +onlyGivenNames x; clear_value x)
    | extract_lets +onlyGivenNames x
    | with_reducible apply KeptX.next
    | with_reducible apply Kept.ite
    | with_reducible apply State.setBit_kept
    | with_reducible apply State.clearBit_kept
    | fail_if_no_progress with_reducible refine Kept.mk' ?_ rfl rfl rfl rfl rfl

theorem execPartBudgetWrite_kept {s0 : State} {p : Fin 6} {v : BitVec 32} {s : State} (h : Kept s0 s) : KeptX s0 (execPartBudgetWrite p v s) := by
  unfold execPartBudgetWrite
  repeat' first
    | with_reducible assumption
    | extract_lets +onlyGivenNames x
    | with_reducible apply KeptX.next
    | with_reducible apply State.partBudgetWrite_kept

theorem execRateModeWrite_kept {s0 : State} {p : Fin 6} {v : BitVec 32} {s : State} (h : Kept s0 s) : KeptX s0 (execRateModeWrite p v s) := by
  unfold execRateModeWrite
  repeat' first
    | with_reducible assumption
    | extract_lets +onlyGivenNames x
    | with_reducible apply KeptX.next
    | with_reducible apply State.rateModeWrite_kept

theorem State.govern_kept {s0 : State} {s : State} {obs : List DieObs} {memory : Nat} {p : Nat} (h : Kept s0 s) : Kept s0 (State.govern s obs memory p) := by
  unfold State.govern
  repeat' first
    | with_reducible assumption
    | (extract_lets +onlyGivenNames x; clear_value x)
    | fail_if_no_progress with_reducible refine Kept.mk' ?_ rfl rfl rfl rfl rfl

theorem execPwrModuleBudgetWrite_kept {s0 : State} {v : BitVec 32} {s : State} (h : Kept s0 s) : KeptX s0 (execPwrModuleBudgetWrite v s) := by
  unfold execPwrModuleBudgetWrite
  repeat' first
    | with_reducible assumption
    | extract_lets +onlyGivenNames x
    | with_reducible apply KeptX.next
    | with_reducible apply State.moduleBudgetWrite_kept

theorem execGovernorInterval_kept {s0 : State} {obs : List DieObs} {memory : List (Fin 6 × Nat)} {s : State} (h : Kept s0 s) : KeptX s0 (execGovernorInterval obs memory s) := by
  unfold execGovernorInterval
  repeat' first
    | with_reducible assumption
    | (intro t b (ht : Kept s0 t))
    | (extract_lets +onlyGivenNames x; clear_value x)
    | extract_lets +onlyGivenNames x
    | with_reducible apply KeptX.next
    | with_reducible apply Kept.ite
    | with_reducible apply State.govern_kept
    | with_reducible apply Kept.foldl

theorem execPwrAlert_kept {s0 : State} {converters : BitVec 14} {pad : Bool} {s : State} (h : Kept s0 s) : KeptX s0 (execPwrAlert converters pad s) := by
  unfold execPwrAlert
  repeat' first
    | with_reducible assumption
    | (extract_lets +onlyGivenNames x; refine (fun (hx : Kept s0 x) => ?_) ?_; (on_goal 2 => unfold x; clear x); (on_goal 1 => clear_value x))
    | (extract_lets +onlyGivenNames x; clear_value x)
    | extract_lets +onlyGivenNames x
    | with_reducible apply KeptX.next
    | with_reducible apply Kept.ite
    | with_reducible apply State.setBit_kept
    | with_reducible apply State.clearBit_kept
    | with_reducible apply State.setField_kept
    | with_reducible apply State.raise_kept
    | fail_if_no_progress with_reducible refine Kept.mk' ?_ rfl rfl rfl rfl rfl

theorem execIbcFault_kept {s0 : State} {i : Fin 14} {s : State} (h : Kept s0 s) : KeptX s0 (execIbcFault i s) := by
  unfold execIbcFault
  repeat' first
    | with_reducible assumption
    | extract_lets +onlyGivenNames x
    | with_reducible apply KeptX.next
    | with_reducible apply State.setBit_kept
    | with_reducible apply State.setField_kept

theorem State.nextRetune_kept {s0 : State} {s : State} (h : Kept s0 s) : Kept s0 (State.nextRetune s) := by
  unfold State.nextRetune
  repeat' first
    | with_reducible assumption
    | (extract_lets +onlyGivenNames x; clear_value x)
    | fail_if_no_progress with_reducible refine Kept.mk' ?_ rfl rfl rfl rfl rfl

theorem State.retuneStart_kept {s0 : State} {s : State} (h : Kept s0 s) : Kept s0 (State.retuneStart s) := by
  unfold State.retuneStart
  repeat' first
    | with_reducible assumption
    | extract_lets +onlyGivenNames x
    | with_reducible apply Kept.ite
    | with_reducible apply State.nextRetune_kept
    | with_reducible apply State.setBit_kept

theorem execRetuneStart_kept {s0 : State} {s : State} (h : Kept s0 s) : KeptX s0 (execRetuneStart s) := by
  unfold execRetuneStart
  repeat' first
    | with_reducible assumption
    | extract_lets +onlyGivenNames x
    | with_reducible apply KeptX.next
    | with_reducible apply Kept.ite
    | with_reducible apply State.retuneStart_kept

theorem State.report_kept {s0 : State} {s : State} {r : MarginRep} (h : Kept s0 s) : Kept s0 (State.report s r) := by
  unfold State.report
  repeat' first
    | with_reducible assumption
    | (intro t b (ht : Kept s0 t))
    | (extract_lets +onlyGivenNames x; refine (fun (hx : Kept s0 x) => ?_) ?_; (on_goal 2 => unfold x; clear x); (on_goal 1 => clear_value x))
    | (extract_lets +onlyGivenNames x; clear_value x)
    | extract_lets +onlyGivenNames x
    | with_reducible apply Kept.ite
    | with_reducible apply State.setReg_kept
    | with_reducible apply State.draw_kept
    | with_reducible apply State.setField_kept
    | with_reducible apply State.setBit_kept
    | fail_if_no_progress with_reducible refine Kept.mk' ?_ rfl rfl rfl rfl rfl
    | with_reducible apply Kept.foldl
    | split

theorem execRetuneDone_kept {s0 : State} {reports : List MarginRep} {s : State} (h : Kept s0 s) : KeptX s0 (execRetuneDone reports s) := by
  unfold execRetuneDone
  repeat' first
    | with_reducible assumption
    | (intro t b (ht : Kept s0 t))
    | (extract_lets +onlyGivenNames x; refine (fun (hx : Kept s0 x) => ?_) ?_; (on_goal 2 => unfold x; clear x); (on_goal 1 => clear_value x))
    | (extract_lets +onlyGivenNames x; clear_value x)
    | extract_lets +onlyGivenNames x
    | with_reducible apply KeptX.next
    | with_reducible apply Kept.ite
    | with_reducible apply State.report_kept
    | with_reducible apply State.reportsOut_kept
    | with_reducible apply State.setBit_kept
    | with_reducible apply State.clearBit_kept
    | fail_if_no_progress with_reducible refine Kept.mk' ?_ rfl rfl rfl rfl rfl
    | with_reducible apply Kept.foldl

theorem execSupplySlewDone_kept {s0 : State} {d : Fin 96} {s : State} (h : Kept s0 s) : KeptX s0 (execSupplySlewDone d s) := by
  unfold execSupplySlewDone
  repeat' first
    | with_reducible assumption
    | extract_lets +onlyGivenNames x
    | with_reducible apply KeptX.next
    | with_reducible apply Kept.ite
    | with_reducible apply State.supplySet_kept

end Sys2Proof.Machine
end

