-- ==== Sys2Proof/Laws/KeptRestart.lean ====
section
/-! SUPPORT. What the operations of Machine/Restart.lean keep. -/

namespace Sys2Proof.Machine

set_option linter.tactic.unusedName false

theorem State.joinFails_kept {s0 : State} {s : State} {p : Nat} {detail : Nat} (h : Kept s0 s) : Kept s0 (State.joinFails s p detail) := by
  unfold State.joinFails
  repeat' first
    | with_reducible assumption
    | (extract_lets +onlyGivenNames x; refine (fun (hx : Kept s0 x) => ?_) ?_; (on_goal 2 => unfold x; clear x); (on_goal 1 => clear_value x))
    | (extract_lets +onlyGivenNames x; clear_value x)
    | extract_lets +onlyGivenNames x
    | with_reducible apply State.setPair_kept
    | with_reducible apply State.setPairState_kept
    | with_reducible apply State.serve1_kept
    | split

theorem State.clearReplay_kept {s0 : State} {s : State} {site : Nat} (h : Kept s0 s) : Kept s0 (State.clearReplay s site) := by
  unfold State.clearReplay
  repeat' first
    | with_reducible assumption
    | (intro t b (ht : Kept s0 t))
    | (extract_lets +onlyGivenNames x; clear_value x)
    | with_reducible apply State.setHalf_kept
    | with_reducible apply Kept.foldl
    | split

theorem State.scrubDie_kept {s0 : State} {s : State} {d : Nat} (h : Kept s0 s) : Kept s0 (State.scrubDie s d) := by
  unfold State.scrubDie
  repeat' first
    | with_reducible assumption
    | (intro t b (ht : Kept s0 t))
    | (extract_lets +onlyGivenNames x; refine (fun (hx : Kept s0 x) => ?_) ?_; (on_goal 2 => unfold x; clear x); (on_goal 1 => clear_value x))
    | (extract_lets +onlyGivenNames x; clear_value x)
    | extract_lets +onlyGivenNames x
    | with_reducible apply Kept.ite
    | with_reducible apply State.setArr_kept
    | with_reducible apply State.atBase_kept
    | with_reducible apply State.setBit_kept
    | with_reducible apply State.setField_kept
    | with_reducible apply State.clearReplay_kept
    | fail_if_no_progress with_reducible refine Kept.mk' ?_ rfl rfl rfl rfl rfl
    | with_reducible apply Kept.foldl
    | split

theorem State.setKeys_kept {s0 : State} {s : State} {p : Nat} {x : PartKeys} (h : Kept s0 s) : Kept s0 (State.setKeys s p x) := by
  unfold State.setKeys
  repeat' first
    | with_reducible assumption
    | fail_if_no_progress with_reducible refine Kept.mk' ?_ rfl rfl rfl rfl rfl

theorem State.freshNonce_kept {s0 : State} {s : State} {p : Nat} (h : Kept s0 s) : Kept s0 (State.freshNonce s p) := by
  unfold State.freshNonce
  repeat' first
    | with_reducible assumption
    | extract_lets +onlyGivenNames x
    | with_reducible apply State.draw_kept
    | with_reducible apply State.setKeys_kept

theorem State.resetSite_kept {s0 : State} {s : State} {site : Nat} (h : Kept s0 s) : Kept s0 (State.resetSite s site) := by
  unfold State.resetSite
  repeat' first
    | with_reducible assumption
    | (extract_lets +onlyGivenNames x; refine (fun (hx : Kept s0 x) => ?_) ?_; (on_goal 2 => unfold x; clear x); (on_goal 1 => clear_value x))
    | (extract_lets +onlyGivenNames x; clear_value x)
    | extract_lets +onlyGivenNames x
    | with_reducible apply State.resetRegs_kept
    | with_reducible apply State.clearReplay_kept
    | fail_if_no_progress with_reducible refine Kept.mk' ?_ rfl rfl rfl rfl rfl

theorem State.retireDie_kept {s0 : State} {s : State} {site : Nat} (h : Kept s0 s) : Kept s0 (State.retireDie s site) := by
  unfold State.retireDie
  repeat' first
    | with_reducible assumption
    | extract_lets +onlyGivenNames x
    | with_reducible apply State.setReg_kept
    | with_reducible apply State.recordDie_kept

theorem State.testSite_kept {s0 : State} {s : State} {site : Nat} {pass : Bool} {ok : W32} (h : Kept s0 s) : Kept s0 (State.testSite s site pass ok) := by
  unfold State.testSite
  repeat' first
    | with_reducible assumption
    | (extract_lets +onlyGivenNames x; refine (fun (hx : Kept s0 x) => ?_) ?_; (on_goal 2 => unfold x; clear x); (on_goal 1 => clear_value x))
    | (extract_lets +onlyGivenNames x; clear_value x)
    | extract_lets +onlyGivenNames x
    | with_reducible apply Kept.ite
    | with_reducible apply State.setBit_kept
    | with_reducible apply State.setReg_kept
    | with_reducible apply State.retireDie_kept
    | fail_if_no_progress with_reducible refine Kept.mk' ?_ rfl rfl rfl rfl rfl

theorem State.bringSpare_kept {s0 : State} {s : State} {pos : Nat} {pass : BitVec 108} {x0 : Nat} (h : Kept s0 s) : Kept s0 (State.bringSpare s pos pass x0) := by
  induction x0 generalizing s with
  | zero =>
    unfold State.bringSpare
    repeat' with_reducible assumption
  | succ n ih =>
    unfold State.bringSpare
    repeat' first
      | with_reducible assumption
      | with_reducible apply ih
      | (extract_lets +onlyGivenNames x; refine (fun (hx : Kept s0 x) => ?_) ?_; (on_goal 2 => unfold x; clear x); (on_goal 1 => clear_value x))
      | extract_lets +onlyGivenNames x
      | with_reducible apply Kept.ite
      | with_reducible apply State.resetSite_kept
      | with_reducible apply State.testSite_kept
      | with_reducible apply State.clearBit_kept
      | split

theorem State.retuneSite_kept {s0 : State} {s : State} {fails : List LaneFail} {site : Nat} (h : Kept s0 s) : Kept s0 (State.retuneSite s fails site) := by
  unfold State.retuneSite
  repeat' first
    | with_reducible assumption
    | (intro t b (ht : Kept s0 t))
    | (extract_lets +onlyGivenNames x; refine (fun (hx : Kept s0 x) => ?_) ?_; (on_goal 2 => unfold x; clear x); (on_goal 1 => clear_value x))
    | (extract_lets +onlyGivenNames x; clear_value x)
    | extract_lets +onlyGivenNames x
    | with_reducible apply Kept.ite
    | with_reducible apply State.tuneCourse_kept
    | with_reducible apply State.syncCourse_kept
    | with_reducible apply State.setBit_kept
    | with_reducible apply Kept.foldl

theorem State.startScrub_kept {s0 : State} {s : State} {p : Nat} {cause : Nat} (h : Kept s0 s) : Kept s0 (State.startScrub s p cause) := by
  unfold State.startScrub
  repeat' first
    | with_reducible assumption
    | (intro t b (ht : Kept s0 t))
    | (extract_lets +onlyGivenNames x; refine (fun (hx : Kept s0 x) => ?_) ?_; (on_goal 2 => unfold x; clear x); (on_goal 1 => clear_value x))
    | (extract_lets +onlyGivenNames x; clear_value x)
    | extract_lets +onlyGivenNames x
    | with_reducible apply State.setKeys_kept
    | with_reducible apply State.setField_kept
    | with_reducible apply State.dropTraffic_kept
    | with_reducible apply State.invalidateDie_kept
    | with_reducible apply Kept.foldl

theorem State.phReset_kept {s0 : State} {s : State} {p : Nat} {h' : Nat} (h : Kept s0 s) : Kept s0 (State.phReset s p h') := by
  unfold State.phReset
  repeat' first
    | with_reducible assumption
    | (intro t b (ht : Kept s0 t))
    | (extract_lets +onlyGivenNames x; refine (fun (hx : Kept s0 x) => ?_) ?_; (on_goal 2 => unfold x; clear x); (on_goal 1 => clear_value x))
    | (extract_lets +onlyGivenNames x; clear_value x)
    | extract_lets +onlyGivenNames x
    | with_reducible apply State.modPh_kept
    | with_reducible apply State.setReg_kept
    | with_reducible apply State.phWrite_kept
    | with_reducible apply State.phTo_kept
    | with_reducible apply State.serve1_kept
    | with_reducible apply Kept.foldl

theorem State.phResetAll_kept {s0 : State} {s : State} {p : Nat} (h : Kept s0 s) : Kept s0 (State.phResetAll s p) := by
  unfold State.phResetAll
  repeat' first
    | with_reducible assumption
    | (intro t b (ht : Kept s0 t))
    | (extract_lets +onlyGivenNames x; refine (fun (hx : Kept s0 x) => ?_) ?_; (on_goal 2 => unfold x; clear x); (on_goal 1 => clear_value x))
    | (extract_lets +onlyGivenNames x; clear_value x)
    | extract_lets +onlyGivenNames x
    | with_reducible apply State.setPart_kept
    | with_reducible apply State.phReset_kept
    | with_reducible apply Kept.foldl

theorem State.partReset_kept {s0 : State} {s : State} {p : Nat} (h : Kept s0 s) : Kept s0 (State.partReset s p) := by
  unfold State.partReset
  repeat' first
    | with_reducible assumption
    | (intro t b (ht : Kept s0 t))
    | (extract_lets +onlyGivenNames x; refine (fun (hx : Kept s0 x) => ?_) ?_; (on_goal 2 => unfold x; clear x); (on_goal 1 => clear_value x))
    | (extract_lets +onlyGivenNames x; clear_value x)
    | extract_lets +onlyGivenNames x
    | with_reducible apply Kept.ite
    | with_reducible apply State.setArr_kept
    | with_reducible apply State.dropTraffic_kept
    | with_reducible apply State.invalidateDie_kept
    | with_reducible apply State.setCourier_kept
    | with_reducible apply State.setPort_kept
    | with_reducible apply State.clearBit_kept
    | with_reducible apply State.atBase_kept
    | with_reducible apply State.setDbg_kept
    | with_reducible apply State.phResetAll_kept
    | with_reducible apply State.setField_kept
    | with_reducible apply State.setPart_kept
    | with_reducible apply State.startScrub_kept
    | with_reducible apply State.setKeys_kept
    | fail_if_no_progress with_reducible refine Kept.mk' ?_ rfl rfl rfl rfl rfl
    | with_reducible apply Kept.foldl

theorem State.releaseHolds_kept {s0 : State} {s : State} {p : Nat} (h : Kept s0 s) : Kept s0 (State.releaseHolds s p) := by
  unfold State.releaseHolds
  repeat' first
    | with_reducible assumption
    | (intro t b (ht : Kept s0 t))
    | (extract_lets +onlyGivenNames x; refine (fun (hx : Kept s0 x) => ?_) ?_; (on_goal 2 => unfold x; clear x); (on_goal 1 => clear_value x))
    | (extract_lets +onlyGivenNames x; clear_value x)
    | extract_lets +onlyGivenNames x
    | with_reducible apply Kept.ite
    | with_reducible apply State.setGroup_kept
    | with_reducible apply State.setDbg_kept
    | with_reducible apply State.setBit_kept
    | with_reducible apply Kept.foldl
    | split

theorem State.endSession_kept {s0 : State} {s : State} {p : Nat} (h : Kept s0 s) : Kept s0 (State.endSession s p) := by
  unfold State.endSession
  repeat' first
    | with_reducible assumption
    | (extract_lets +onlyGivenNames x; refine (fun (hx : Kept s0 x) => ?_) ?_; (on_goal 2 => unfold x; clear x); (on_goal 1 => clear_value x))
    | (extract_lets +onlyGivenNames x; clear_value x)
    | extract_lets +onlyGivenNames x
    | with_reducible apply State.releaseHolds_kept
    | with_reducible apply State.setDbg_kept
    | with_reducible apply State.setField_kept
    | with_reducible apply State.clearBit_kept

theorem State.endGrant_kept {s0 : State} {s : State} {p : Nat} (h : Kept s0 s) : Kept s0 (State.endGrant s p) := by
  unfold State.endGrant
  repeat' first
    | with_reducible assumption
    | extract_lets +onlyGivenNames x
    | with_reducible apply Kept.ite
    | with_reducible apply State.endSession_kept
    | with_reducible apply State.setBit_kept
    | with_reducible apply State.setField_kept

theorem State.beginRestart_kept {s0 : State} {s : State} {p : Nat} (h : Kept s0 s) : Kept s0 (State.beginRestart s p) := by
  unfold State.beginRestart
  repeat' first
    | with_reducible assumption
    | (extract_lets +onlyGivenNames x; refine (fun (hx : Kept s0 x) => ?_) ?_; (on_goal 2 => unfold x; clear x); (on_goal 1 => clear_value x))
    | (extract_lets +onlyGivenNames x; clear_value x)
    | extract_lets +onlyGivenNames x
    | with_reducible apply Kept.ite
    | with_reducible apply State.partReset_kept
    | with_reducible apply State.endGrant_kept
    | with_reducible apply State.clearBit_kept
    | with_reducible apply State.setField_kept
    | with_reducible apply State.setPart_kept

theorem State.zeroKeys_kept {s0 : State} {s : State} {p : Nat} (h : Kept s0 s) : Kept s0 (State.zeroKeys s p) := by
  unfold State.zeroKeys
  repeat' first
    | with_reducible assumption
    | (extract_lets +onlyGivenNames x; clear_value x)
    | with_reducible apply State.setKeys_kept

theorem State.scrubbed_kept {s0 : State} {s : State} {k : Nat} (h : Kept s0 s) : Kept s0 (State.scrubbed s k) := by
  unfold State.scrubbed
  repeat' first
    | with_reducible assumption
    | with_reducible apply State.setField_kept

theorem State.restartFailed_kept {s0 : State} {s : State} {p : Nat} {k : Nat} (h : Kept s0 s) : Kept s0 (State.restartFailed s p k) := by
  unfold State.restartFailed
  repeat' first
    | with_reducible assumption
    | (extract_lets +onlyGivenNames x; clear_value x)
    | with_reducible apply State.raise_kept

theorem State.fillSector_kept {s0 : State} {s : State} {k : Nat} {pass : BitVec 108} (h : Kept s0 s) : Kept s0 (State.fillSector s k pass).2 := by
  unfold State.fillSector
  repeat' first
    | with_reducible assumption
    | (intro t b (ht : Kept s0 t.2))
    | (extract_lets +onlyGivenNames x; refine (fun (hx : Kept s0 x) => ?_) ?_; (on_goal 2 => unfold x; clear x); (on_goal 1 => clear_value x))
    | (extract_lets +onlyGivenNames x; clear_value x)
    | with_reducible apply State.bringSpare_kept
    | with_reducible apply Kept.foldl_snd

theorem State.assignSpare_kept {s0 : State} {s : State} {t : Nat} {pos : Nat} (h : Kept s0 s) : Kept s0 (State.assignSpare s t pos) := by
  unfold State.assignSpare
  repeat' first
    | with_reducible assumption
    | (extract_lets +onlyGivenNames x; clear_value x)
    | extract_lets +onlyGivenNames x
    | with_reducible apply State.clearBit_kept
    | with_reducible apply State.setReg_kept

theorem State.onpanelDone_kept {s0 : State} {s : State} {k : Nat} (h : Kept s0 s) : Kept s0 (State.onpanelDone s k) := by
  unfold State.onpanelDone
  repeat' first
    | with_reducible assumption
    | (intro t b (ht : Kept s0 t))
    | (extract_lets +onlyGivenNames x; refine (fun (hx : Kept s0 x) => ?_) ?_; (on_goal 2 => unfold x; clear x); (on_goal 1 => clear_value x))
    | (extract_lets +onlyGivenNames x; clear_value x)
    | extract_lets +onlyGivenNames x
    | with_reducible apply Kept.ite
    | with_reducible apply State.scrubDie_kept
    | with_reducible apply State.setMid_kept
    | with_reducible apply State.setKeys_kept
    | with_reducible apply State.setPart_kept
    | with_reducible apply State.setField_kept
    | with_reducible apply State.scrubbed_kept
    | with_reducible apply State.setBit_kept
    | with_reducible apply Kept.foldl
    | split

theorem execOnpanelScrubDone_kept {s0 : State} {k : Fin 8} {s : State} (h : Kept s0 s) : KeptX s0 (execOnpanelScrubDone k s) := by
  unfold execOnpanelScrubDone
  repeat' first
    | with_reducible assumption
    | extract_lets +onlyGivenNames x
    | with_reducible apply KeptX.next
    | with_reducible apply State.onpanelDone_kept

end Sys2Proof.Machine
end

