-- ==== Sys2Proof/Laws/KeptPartitions.lean ====
section
/-! SUPPORT. What the operations of Machine/Partitions.lean keep. -/

namespace Sys2Proof.Machine

set_option linter.tactic.unusedName false

theorem State.dissolvePair_kept {s0 : State} {s : State} {p : Nat} (h : Kept s0 s) : Kept s0 (State.dissolvePair s p) := by
  unfold State.dissolvePair
  repeat' first
    | with_reducible assumption
    | extract_lets +onlyGivenNames x
    | with_reducible apply State.joinFails_kept
    | with_reducible apply State.goAlone_kept
    | with_reducible apply State.sendWithdraw_kept
    | with_reducible apply State.detach_kept
    | split

theorem State.setSlot_kept {s0 : State} {s : State} {h' : Nat × Nat} {i : Nat} {p : Nat} (h : Kept s0 s) : Kept s0 (State.setSlot s h' i p) := by
  unfold State.setSlot
  repeat' first
    | with_reducible assumption
    | with_reducible apply State.setField_kept

theorem State.assignSlots_kept {s0 : State} {s : State} {p : Nat} {hops : List (Nat × Nat)} (h : Kept s0 s) : Kept s0 (State.assignSlots s p hops) := by
  unfold State.assignSlots
  repeat' first
    | with_reducible assumption
    | (intro t b (ht : Kept s0 t))
    | (extract_lets +onlyGivenNames x; refine (fun (hx : Kept s0 x) => ?_) ?_; (on_goal 2 => unfold x; clear x); (on_goal 1 => clear_value x))
    | (extract_lets +onlyGivenNames x; clear_value x)
    | extract_lets +onlyGivenNames x
    | with_reducible apply Kept.ite
    | with_reducible apply State.setSlot_kept
    | with_reducible apply State.setReg_kept
    | with_reducible apply Kept.foldl

theorem State.claimDie_kept {s0 : State} {s : State} {p : Nat} {d : Nat} (h : Kept s0 s) : Kept s0 (State.claimDie s p d) := by
  unfold State.claimDie
  repeat' first
    | with_reducible assumption
    | (intro t b (ht : Kept s0 t))
    | (extract_lets +onlyGivenNames x; clear_value x)
    | extract_lets +onlyGivenNames x
    | with_reducible apply State.supplySet_kept
    | with_reducible apply State.atBase_kept
    | with_reducible apply State.setReg_kept

theorem State.formRate_kept {s0 : State} {s : State} {p : Nat} (h : Kept s0 s) : Kept s0 (State.formRate s p) := by
  unfold State.formRate
  repeat' first
    | with_reducible assumption
    | extract_lets +onlyGivenNames x
    | with_reducible apply Kept.ite
    | with_reducible apply State.setRate_kept
    | with_reducible apply State.setBit_kept
    | with_reducible apply State.clearBit_kept
    | split

theorem State.bindPort_kept {s0 : State} {s : State} {p : Nat} (h : Kept s0 s) : Kept s0 (State.bindPort s p) := by
  unfold State.bindPort
  repeat' first
    | with_reducible assumption
    | (extract_lets +onlyGivenNames x; refine (fun (hx : Kept s0 x) => ?_) ?_; (on_goal 2 => unfold x; clear x); (on_goal 1 => clear_value x))
    | (extract_lets +onlyGivenNames x; clear_value x)
    | extract_lets +onlyGivenNames x
    | with_reducible apply State.setField_kept
    | with_reducible apply State.portRegsReset_kept
    | with_reducible apply State.setPort_kept

theorem State.lockSlices_kept {s0 : State} {s : State} {p : Nat} (h : Kept s0 s) : Kept s0 (State.lockSlices s p) := by
  unfold State.lockSlices
  repeat' first
    | with_reducible assumption
    | (intro t b (ht : Kept s0 t))
    | extract_lets +onlyGivenNames x
    | with_reducible apply State.atBase_kept
    | with_reducible apply State.setReg_kept
    | with_reducible apply Kept.foldl

theorem State.form_kept {s0 : State} {s : State} {p : Nat} (h : Kept s0 s) : Kept s0 (State.form s p) := by
  unfold State.form
  repeat' first
    | with_reducible assumption
    | (intro t b (ht : Kept s0 t))
    | (extract_lets +onlyGivenNames x; refine (fun (hx : Kept s0 x) => ?_) ?_; (on_goal 2 => unfold x; clear x); (on_goal 1 => clear_value x))
    | (extract_lets +onlyGivenNames x; clear_value x)
    | extract_lets +onlyGivenNames x
    | with_reducible apply State.setReg_kept
    | with_reducible apply State.setPart_kept
    | with_reducible apply State.setMid_kept
    | with_reducible apply State.freshNonce_kept
    | with_reducible apply State.setKeys_kept
    | with_reducible apply State.assignSlots_kept
    | with_reducible apply State.startScrub_kept
    | with_reducible apply State.setField_kept
    | with_reducible apply State.claimDie_kept
    | with_reducible apply State.formRate_kept
    | with_reducible apply State.bindPort_kept
    | with_reducible apply State.lockSlices_kept
    | fail_if_no_progress with_reducible refine Kept.mk' ?_ rfl rfl rfl rfl rfl
    | with_reducible apply Kept.foldl

theorem State.dissolveWork_kept {s0 : State} {s : State} {k : Work} (h : Kept s0 s) : Kept s0 (State.dissolveWork s k) := by
  unfold State.dissolveWork
  repeat' first
    | with_reducible assumption
    | extract_lets +onlyGivenNames x
    | with_reducible apply Kept.ite
    | with_reducible apply State.cancelWork_kept
    | with_reducible apply State.cancelled_kept

theorem State.dissolve_kept {s0 : State} {s : State} {p : Nat} (h : Kept s0 s) : Kept s0 (State.dissolve s p) := by
  unfold State.dissolve
  repeat' first
    | with_reducible assumption
    | (intro t b (ht : Kept s0 t))
    | (extract_lets +onlyGivenNames x; refine (fun (hx : Kept s0 x) => ?_) ?_; (on_goal 2 => unfold x; clear x); (on_goal 1 => clear_value x))
    | (extract_lets +onlyGivenNames x; clear_value x)
    | extract_lets +onlyGivenNames x
    | with_reducible apply State.endGrant_kept
    | with_reducible apply State.setField_kept
    | with_reducible apply State.setPart_kept
    | with_reducible apply State.dissolveWork_kept
    | with_reducible apply State.zeroKeys_kept
    | with_reducible apply State.dissolvePair_kept
    | with_reducible apply Kept.foldl

theorem State.partDissolve_kept {s0 : State} {s : State} {p : Nat} (h : Kept s0 s) : Kept s0 (State.partDissolve s p) := by
  unfold State.partDissolve
  repeat' first
    | with_reducible assumption
    | (extract_lets +onlyGivenNames x; refine (fun (hx : Kept s0 x) => ?_) ?_; (on_goal 2 => unfold x; clear x); (on_goal 1 => clear_value x))
    | (extract_lets +onlyGivenNames x; clear_value x)
    | extract_lets +onlyGivenNames x
    | with_reducible apply Kept.ite
    | with_reducible apply State.setBit_kept
    | with_reducible apply State.setPart_kept
    | with_reducible apply State.dissolve_kept

theorem State.renumber_kept {s0 : State} {s : State} {p : Nat} {q : Nat} (h : Kept s0 s) : Kept s0 (State.renumber s p q) := by
  unfold State.renumber
  repeat' first
    | with_reducible assumption
    | extract_lets +onlyGivenNames x
    | with_reducible apply Kept.ite
    | with_reducible apply State.clearBit_kept
    | with_reducible apply State.setReg_kept

theorem State.partForm_kept {s0 : State} {s : State} {p : Nat} (h : Kept s0 s) : Kept s0 (State.partForm s p) := by
  unfold State.partForm
  repeat' first
    | with_reducible assumption
    | (extract_lets +onlyGivenNames x; refine (fun (hx : Kept s0 x) => ?_) ?_; (on_goal 2 => unfold x; clear x); (on_goal 1 => clear_value x))
    | (extract_lets +onlyGivenNames x; clear_value x)
    | extract_lets +onlyGivenNames x
    | with_reducible apply Kept.ite
    | with_reducible apply State.renumber_kept
    | with_reducible apply State.clearBit_kept
    | with_reducible apply State.setBit_kept
    | with_reducible apply State.setField_kept
    | with_reducible apply State.form_kept

theorem State.restartRequest_kept {s0 : State} {s : State} {p : Nat} (h : Kept s0 s) : Kept s0 (State.restartRequest s p) := by
  unfold State.restartRequest
  repeat' first
    | with_reducible assumption
    | extract_lets +onlyGivenNames x
    | with_reducible apply Kept.ite
    | with_reducible apply State.beginRestart_kept
    | with_reducible apply State.clearBit_kept

theorem State.partStopping_kept {s0 : State} {s : State} {p : Nat} (h : Kept s0 s) : Kept s0 (State.partStopping s p) := by
  unfold State.partStopping
  repeat' first
    | with_reducible assumption
    | (intro t (ht : Kept s0 t))
    | (extract_lets +onlyGivenNames x; refine (fun (hx : Kept s0 x) => ?_) ?_; (on_goal 2 => unfold x; clear x); (on_goal 1 => clear_value x))
    | (extract_lets +onlyGivenNames x; refine (fun (hx : ∀ t, Kept s0 t → Kept s0 (x t)) => ?_) ?_; (on_goal 2 => unfold x; clear x); (on_goal 1 => clear_value x))
    | (extract_lets +onlyGivenNames x; clear_value x)
    | extract_lets +onlyGivenNames x
    | with_reducible apply Kept.ite
    | with_reducible apply State.setPart_kept
    | with_reducible apply State.poison_kept
    | with_reducible apply State.failOver_kept
    | with_reducible apply State.stopPartition_kept
    | with_reducible apply State.detach_kept
    | with_reducible apply State.joinFails_kept
    | split
    | with_reducible apply_assumption

theorem execPartStopping_kept {s0 : State} {p : Fin 6} {s : State} (h : Kept s0 s) : KeptX s0 (execPartStopping p s) := by
  unfold execPartStopping
  repeat' first
    | with_reducible assumption
    | extract_lets +onlyGivenNames x
    | with_reducible apply KeptX.next
    | with_reducible apply State.partStopping_kept

theorem State.restartDone_kept {s0 : State} {s : State} {p : Nat} (h : Kept s0 s) : Kept s0 (State.restartDone s p) := by
  unfold State.restartDone
  repeat' first
    | with_reducible assumption
    | (extract_lets +onlyGivenNames x; refine (fun (hx : Kept s0 x) => ?_) ?_; (on_goal 2 => unfold x; clear x); (on_goal 1 => clear_value x))
    | (extract_lets +onlyGivenNames x; clear_value x)
    | extract_lets +onlyGivenNames x
    | with_reducible apply Kept.ite
    | with_reducible apply State.setField_kept
    | with_reducible apply State.setKeys_kept
    | with_reducible apply State.lockSlices_kept
    | with_reducible apply State.setReg_kept
    | with_reducible apply State.setPart_kept
    | with_reducible apply State.setBit_kept
    | with_reducible apply State.setPairState_kept
    | with_reducible apply State.afterFinal_kept
    | with_reducible apply State.sliceRstRestarted_kept

theorem execRestartDone_kept {s0 : State} {p : Fin 6} {s : State} (h : Kept s0 s) : KeptX s0 (execRestartDone p s) := by
  unfold execRestartDone
  repeat' first
    | with_reducible assumption
    | extract_lets +onlyGivenNames x
    | with_reducible apply KeptX.next
    | with_reducible apply State.restartDone_kept

theorem State.unbindPort_kept {s0 : State} {s : State} {p : Nat} (h : Kept s0 s) : Kept s0 (State.unbindPort s p) := by
  unfold State.unbindPort
  repeat' first
    | with_reducible assumption
    | (extract_lets +onlyGivenNames x; refine (fun (hx : Kept s0 x) => ?_) ?_; (on_goal 2 => unfold x; clear x); (on_goal 1 => clear_value x))
    | (extract_lets +onlyGivenNames x; clear_value x)
    | extract_lets +onlyGivenNames x
    | with_reducible apply State.setField_kept
    | with_reducible apply State.portRegsReset_kept
    | with_reducible apply State.setPort_kept
    | fail_if_no_progress with_reducible refine Kept.mk' ?_ rfl rfl rfl rfl rfl

theorem State.freePartSlots_kept {s0 : State} {s : State} {p : Nat} (h : Kept s0 s) : Kept s0 (State.freePartSlots s p) := by
  unfold State.freePartSlots
  repeat' first
    | with_reducible assumption
    | (intro t b (ht : Kept s0 t))
    | (extract_lets +onlyGivenNames x; refine (fun (hx : Kept s0 x) => ?_) ?_; (on_goal 2 => unfold x; clear x); (on_goal 1 => clear_value x))
    | extract_lets +onlyGivenNames x
    | with_reducible apply Kept.ite
    | with_reducible apply State.setSlot_kept
    | with_reducible apply State.setReg_kept
    | with_reducible apply Kept.foldl

theorem State.dissolved_kept {s0 : State} {s : State} {p : Nat} (h : Kept s0 s) : Kept s0 (State.dissolved s p) := by
  unfold State.dissolved
  repeat' first
    | with_reducible assumption
    | (intro t b (ht : Kept s0 t))
    | (extract_lets +onlyGivenNames x; refine (fun (hx : Kept s0 x) => ?_) ?_; (on_goal 2 => unfold x; clear x); (on_goal 1 => clear_value x))
    | (extract_lets +onlyGivenNames x; clear_value x)
    | extract_lets +onlyGivenNames x
    | with_reducible apply Kept.ite
    | with_reducible apply State.startScrub_kept
    | with_reducible apply State.unbindPort_kept
    | with_reducible apply State.resetRegs_kept
    | with_reducible apply State.freePartSlots_kept
    | with_reducible apply State.setBit_kept
    | with_reducible apply State.setReg_kept
    | with_reducible apply State.supplySet_kept
    | with_reducible apply State.atBase_kept
    | with_reducible apply State.clearBit_kept
    | with_reducible apply State.setPairState_kept
    | fail_if_no_progress with_reducible refine Kept.mk' ?_ rfl rfl rfl rfl rfl
    | with_reducible apply Kept.foldl

theorem execPartRestartRequest_kept {s0 : State} {p : Fin 6} {s : State} (h : Kept s0 s) : KeptX s0 (execPartRestartRequest p s) := by
  unfold execPartRestartRequest
  repeat' first
    | with_reducible assumption
    | extract_lets +onlyGivenNames x
    | with_reducible apply KeptX.next
    | with_reducible apply State.restartRequest_kept

theorem State.testMids_kept {s0 : State} {s : State} {p : Nat} {answer : BitVec 8} (h : Kept s0 s) : Kept s0 (State.testMids s p answer) := by
  unfold State.testMids
  repeat' first
    | with_reducible assumption
    | (extract_lets +onlyGivenNames x; clear_value x)
    | fail_if_no_progress with_reducible refine Kept.mk' ?_ rfl rfl rfl rfl rfl

theorem State.dropWorn_kept {s0 : State} {s : State} {p : Nat} (h : Kept s0 s) : Kept s0 (State.dropWorn s p) := by
  unfold State.dropWorn
  repeat' first
    | with_reducible assumption
    | (intro t b (ht : Kept s0 t))
    | extract_lets +onlyGivenNames x
    | with_reducible apply Kept.ite
    | with_reducible apply State.retireDie_kept
    | with_reducible apply Kept.foldl

theorem State.resetDie_kept {s0 : State} {s : State} {d : Nat} (h : Kept s0 s) : Kept s0 (State.resetDie s d) := by
  unfold State.resetDie
  repeat' first
    | with_reducible assumption
    | (extract_lets +onlyGivenNames x; refine (fun (hx : Kept s0 x) => ?_) ?_; (on_goal 2 => unfold x; clear x); (on_goal 1 => clear_value x))
    | with_reducible apply State.scrubDie_kept
    | fail_if_no_progress with_reducible refine Kept.mk' ?_ rfl rfl rfl rfl rfl

theorem State.testFenced_kept {s0 : State} {s : State} {p : Nat} {pass : BitVec 108} (h : Kept s0 s) : Kept s0 (State.testFenced s p pass) := by
  unfold State.testFenced
  repeat' first
    | with_reducible assumption
    | (intro t b (ht : Kept s0 t))
    | (extract_lets +onlyGivenNames x; refine (fun (hx : Kept s0 x) => ?_) ?_; (on_goal 2 => unfold x; clear x); (on_goal 1 => clear_value x))
    | (extract_lets +onlyGivenNames x; clear_value x)
    | extract_lets +onlyGivenNames x
    | with_reducible apply State.testSite_kept
    | with_reducible apply State.resetSite_kept
    | with_reducible apply State.resetDie_kept
    | fail_if_no_progress with_reducible refine Kept.mk' ?_ rfl rfl rfl rfl rfl
    | with_reducible apply Kept.foldl

theorem State.restartCensus_kept {s0 : State} {s : State} {p : Nat} {pass : BitVec 108} {answer : BitVec 8} {fails : List LaneFail} (h : Kept s0 s) : Kept s0 (State.restartCensus s p pass answer fails) := by
  unfold State.restartCensus
  repeat' first
    | with_reducible assumption
    | (intro t b (ht : Kept s0 t))
    | (intro t b (ht : Kept s0 t.2))
    | (extract_lets +onlyGivenNames x; refine (fun (hx : Kept s0 x) => ?_) ?_; (on_goal 2 => unfold x; clear x); (on_goal 1 => clear_value x))
    | (extract_lets +onlyGivenNames x; refine (fun (hx : Kept s0 x.2) => ?_) ?_; (on_goal 2 => unfold x; clear x); (on_goal 1 => clear_value x))
    | (extract_lets +onlyGivenNames x; clear_value x)
    | extract_lets +onlyGivenNames x
    | with_reducible apply Kept.ite
    | with_reducible apply State.testMids_kept
    | with_reducible apply State.dropWorn_kept
    | with_reducible apply State.testFenced_kept
    | with_reducible apply State.fillSector_kept
    | with_reducible apply State.setBit_kept
    | with_reducible apply State.retuneSite_kept
    | with_reducible apply State.claimDie_kept
    | with_reducible apply State.invalidateDie_kept
    | with_reducible apply State.resetDie_kept
    | with_reducible apply State.setPart_kept
    | with_reducible apply State.setField_kept
    | with_reducible apply State.restartFailed_kept
    | with_reducible apply State.dissolve_kept
    | with_reducible apply Kept.foldl
    | with_reducible apply Kept.foldl_snd

theorem execDissolved_kept {s0 : State} {p : Fin 6} {s : State} (h : Kept s0 s) : KeptX s0 (execDissolved p s) := by
  unfold execDissolved
  repeat' first
    | with_reducible assumption
    | extract_lets +onlyGivenNames x
    | with_reducible apply KeptX.next
    | with_reducible apply State.dissolved_kept

theorem execFormDone_kept {s0 : State} {p : Fin 6} {s : State} (h : Kept s0 s) : KeptX s0 (execFormDone p s) := by
  unfold execFormDone
  repeat' first
    | with_reducible assumption
    | (extract_lets +onlyGivenNames x; clear_value x)
    | extract_lets +onlyGivenNames x
    | with_reducible apply KeptX.next
    | with_reducible apply Kept.ite
    | with_reducible apply State.clearBit_kept
    | with_reducible apply State.setBit_kept
    | with_reducible apply State.setField_kept

theorem execPartDissolve_kept {s0 : State} {p : Fin 6} {s : State} (h : Kept s0 s) : KeptX s0 (execPartDissolve p s) := by
  unfold execPartDissolve
  repeat' first
    | with_reducible assumption
    | extract_lets +onlyGivenNames x
    | with_reducible apply KeptX.next
    | with_reducible apply State.partDissolve_kept

theorem execPartForm_kept {s0 : State} {p : Fin 6} {s : State} (h : Kept s0 s) : KeptX s0 (execPartForm p s) := by
  unfold execPartForm
  repeat' first
    | with_reducible assumption
    | extract_lets +onlyGivenNames x
    | with_reducible apply KeptX.next
    | with_reducible apply State.partForm_kept

theorem State.partStopped_kept {s0 : State} {s : State} {p : Nat} (h : Kept s0 s) : Kept s0 (State.partStopped s p) := by
  unfold State.partStopped
  repeat' first
    | with_reducible assumption
    | (extract_lets +onlyGivenNames x; refine (fun (hx : Kept s0 x) => ?_) ?_; (on_goal 2 => unfold x; clear x); (on_goal 1 => clear_value x))
    | (extract_lets +onlyGivenNames x; clear_value x)
    | extract_lets +onlyGivenNames x
    | with_reducible apply Kept.ite
    | with_reducible apply State.sliceRstStopped_kept
    | with_reducible apply State.setBit_kept
    | with_reducible apply State.setField_kept
    | with_reducible apply State.beginRestart_kept

theorem execPartStopped_kept {s0 : State} {p : Fin 6} {s : State} (h : Kept s0 s) : KeptX s0 (execPartStopped p s) := by
  unfold execPartStopped
  repeat' first
    | with_reducible assumption
    | extract_lets +onlyGivenNames x
    | with_reducible apply KeptX.next
    | with_reducible apply State.partStopped_kept

theorem execRestartCensus_kept {s0 : State} {p : Fin 6} {pass : BitVec 108} {midsAnswer : BitVec 8} {fails : List LaneFail} {s : State} (h : Kept s0 s) : KeptX s0 (execRestartCensus p pass midsAnswer fails s) := by
  unfold execRestartCensus
  repeat' first
    | with_reducible assumption
    | extract_lets +onlyGivenNames x
    | with_reducible apply KeptX.next
    | with_reducible apply State.restartCensus_kept

end Sys2Proof.Machine
end

