-- ==== Sys2Proof/Laws/KeptManage.lean ====
section
/-! SUPPORT. What the operations of Machine/Manage.lean keep. -/

namespace Sys2Proof.Machine

set_option linter.tactic.unusedName false

theorem State.phResident_kept {s0 : State} {s : State} {p : Nat} {h' : Nat} {gen : W32} (h : Kept s0 s) : Kept s0 (State.phResident s p h' gen) := by
  unfold State.phResident
  repeat' first
    | with_reducible assumption
    | (intro t b (ht : Kept s0 t))
    | (extract_lets +onlyGivenNames x; refine (fun (hx : Kept s0 x) => ?_) ?_; (on_goal 2 => unfold x; clear x); (on_goal 1 => clear_value x))
    | extract_lets +onlyGivenNames x
    | with_reducible apply Kept.ite
    | with_reducible apply State.modPh_kept
    | with_reducible apply State.phTo_kept
    | with_reducible apply State.phWrite_kept
    | with_reducible apply State.setBit_kept
    | with_reducible apply State.phTell_kept
    | with_reducible apply State.partCount_kept
    | with_reducible apply State.dispatch_kept
    | with_reducible apply State.serve1_kept
    | with_reducible apply Kept.foldl
    | split

theorem State.onMgmt_kept {s0 : State} {s : State} {port : Nat} {op : Nat} {f : State → Work → State} (h : Kept s0 s) (hf : ∀ t y0, Kept s0 t → Kept s0 (f t y0)) : Kept s0 (State.onMgmt s port op f) := by
  unfold State.onMgmt
  repeat' first
    | with_reducible assumption
    | with_reducible apply hf
    | split

theorem State.onHole_kept {s0 : State} {s : State} {k : Work} {f : State → Nat → State} (h : Kept s0 s) (hf : ∀ t y0, Kept s0 t → Kept s0 (f t y0)) : Kept s0 (State.onHole s k f) := by
  unfold State.onHole
  repeat' first
    | with_reducible assumption
    | extract_lets +onlyGivenNames x
    | with_reducible apply Kept.ite
    | with_reducible apply State.paramBlock_kept
    | with_reducible apply State.serve1_kept
    | with_reducible apply hf
    | split
    | (with_reducible eapply Kept.of_snd; focus assumption)

theorem State.phForget_kept {s0 : State} {s : State} {k : Work} {h' : Nat} (h : Kept s0 s) : Kept s0 (State.phForget s k h') := by
  unfold State.phForget
  repeat' first
    | with_reducible assumption
    | (intro t b (ht : Kept s0 t))
    | (extract_lets +onlyGivenNames x; refine (fun (hx : Kept s0 x) => ?_) ?_; (on_goal 2 => unfold x; clear x); (on_goal 1 => clear_value x))
    | (extract_lets +onlyGivenNames x; clear_value x)
    | extract_lets +onlyGivenNames x
    | with_reducible apply Kept.ite
    | with_reducible apply State.serve1_kept
    | with_reducible apply State.setReg_kept
    | with_reducible apply State.phTo_kept
    | with_reducible apply State.setPart_kept
    | with_reducible apply State.refuse_kept
    | with_reducible apply Kept.foldl

theorem execPhForget_kept {s0 : State} {port : Fin 6} {s : State} (h : Kept s0 s) : KeptX s0 (execPhForget port s) := by
  unfold execPhForget
  repeat' first
    | with_reducible assumption
    | (intro t b (ht : Kept s0 t))
    | extract_lets +onlyGivenNames x
    | with_reducible apply KeptX.next
    | with_reducible apply State.onMgmt_kept
    | with_reducible apply State.onHole_kept
    | with_reducible apply State.phForget_kept

theorem State.partConfig_kept {s0 : State} {s : State} {k : Work} (h : Kept s0 s) : Kept s0 (State.partConfig s k) := by
  unfold State.partConfig
  repeat' first
    | with_reducible assumption
    | (extract_lets +onlyGivenNames x; refine (fun (hx : Kept s0 x) => ?_) ?_; (on_goal 2 => unfold x; clear x); (on_goal 1 => clear_value x))
    | extract_lets +onlyGivenNames x
    | with_reducible apply State.paramBlock_kept
    | with_reducible apply State.serve1_kept
    | with_reducible apply State.setReg_kept
    | with_reducible apply State.dispatch_kept
    | split
    | (with_reducible eapply Kept.of_snd; focus assumption)

theorem execPartConfig_kept {s0 : State} {port : Fin 6} {s : State} (h : Kept s0 s) : KeptX s0 (execPartConfig port s) := by
  unfold execPartConfig
  repeat' first
    | with_reducible assumption
    | (intro t b (ht : Kept s0 t))
    | extract_lets +onlyGivenNames x
    | with_reducible apply KeptX.next
    | with_reducible apply State.onMgmt_kept
    | with_reducible apply State.partConfig_kept

theorem State.phFetch_kept {s0 : State} {s : State} {k : Work} {h' : Nat} {pin : Bool} (h : Kept s0 s) : Kept s0 (State.phFetch s k h' pin) := by
  unfold State.phFetch
  repeat' first
    | with_reducible assumption
    | (extract_lets +onlyGivenNames x; refine (fun (hx : Kept s0 x) => ?_) ?_; (on_goal 2 => unfold x; clear x); (on_goal 1 => clear_value x))
    | (extract_lets +onlyGivenNames x; clear_value x)
    | extract_lets +onlyGivenNames x
    | with_reducible apply Kept.ite
    | with_reducible apply State.serve1_kept
    | with_reducible apply State.setBit_kept
    | with_reducible apply State.modPh_kept
    | with_reducible apply State.phServe_kept
    | with_reducible apply State.phWant_kept
    | with_reducible apply State.mgmtBegun_kept

theorem execPhLoad_kept {s0 : State} {port : Fin 6} {s : State} (h : Kept s0 s) : KeptX s0 (execPhLoad port s) := by
  unfold execPhLoad
  repeat' first
    | with_reducible assumption
    | (intro t b (ht : Kept s0 t))
    | extract_lets +onlyGivenNames x
    | with_reducible apply KeptX.next
    | with_reducible apply State.onMgmt_kept
    | with_reducible apply State.onHole_kept
    | with_reducible apply State.phFetch_kept

theorem State.phSetup_kept {s0 : State} {s : State} {k : Work} (h : Kept s0 s) : Kept s0 (State.phSetup s k) := by
  unfold State.phSetup
  repeat' first
    | with_reducible assumption
    | (extract_lets +onlyGivenNames x; refine (fun (hx : Kept s0 x) => ?_) ?_; (on_goal 2 => unfold x; clear x); (on_goal 1 => clear_value x))
    | (extract_lets +onlyGivenNames x; clear_value x)
    | extract_lets +onlyGivenNames x
    | with_reducible apply Kept.ite
    | with_reducible apply State.paramBlock_kept
    | with_reducible apply State.serve1_kept
    | with_reducible apply State.setReg_kept
    | split
    | (with_reducible eapply Kept.of_snd; focus assumption)

theorem State.phUnpin_kept {s0 : State} {s : State} {k : Work} {h' : Nat} (h : Kept s0 s) : Kept s0 (State.phUnpin s k h') := by
  unfold State.phUnpin
  repeat' first
    | with_reducible assumption
    | (extract_lets +onlyGivenNames x; refine (fun (hx : Kept s0 x) => ?_) ?_; (on_goal 2 => unfold x; clear x); (on_goal 1 => clear_value x))
    | (extract_lets +onlyGivenNames x; clear_value x)
    | extract_lets +onlyGivenNames x
    | with_reducible apply Kept.ite
    | with_reducible apply State.serve1_kept
    | with_reducible apply State.modPh_kept
    | with_reducible apply State.clearBit_kept
    | with_reducible apply State.phServe_kept

theorem execPhUnpin_kept {s0 : State} {port : Fin 6} {s : State} (h : Kept s0 s) : KeptX s0 (execPhUnpin port s) := by
  unfold execPhUnpin
  repeat' first
    | with_reducible assumption
    | (intro t b (ht : Kept s0 t))
    | extract_lets +onlyGivenNames x
    | with_reducible apply KeptX.next
    | with_reducible apply State.onMgmt_kept
    | with_reducible apply State.onHole_kept
    | with_reducible apply State.phUnpin_kept

theorem State.phWritebackDone_kept {s0 : State} {s : State} {p : Nat} {h' : Nat} (h : Kept s0 s) : Kept s0 (State.phWritebackDone s p h') := by
  unfold State.phWritebackDone
  repeat' first
    | with_reducible assumption
    | extract_lets +onlyGivenNames x
    | with_reducible apply Kept.ite
    | with_reducible apply State.dispatch_kept
    | with_reducible apply State.phFree_kept
    | with_reducible apply State.modPh_kept
    | split

theorem execPhWritebackDone_kept {s0 : State} {p : Fin 6} {h' : Fin 64} {s : State} (h : Kept s0 s) : KeptX s0 (execPhWritebackDone p h' s) := by
  unfold execPhWritebackDone
  repeat' first
    | with_reducible assumption
    | extract_lets +onlyGivenNames x
    | with_reducible apply KeptX.next
    | with_reducible apply State.phWritebackDone_kept

theorem State.phEvictOp_kept {s0 : State} {s : State} {k : Work} {h' : Nat} (h : Kept s0 s) : Kept s0 (State.phEvictOp s k h') := by
  unfold State.phEvictOp
  repeat' first
    | with_reducible assumption
    | (extract_lets +onlyGivenNames x; clear_value x)
    | extract_lets +onlyGivenNames x
    | with_reducible apply Kept.ite
    | with_reducible apply State.serve1_kept
    | with_reducible apply State.dispatch_kept
    | with_reducible apply State.phEvict_kept

theorem execPhEvict_kept {s0 : State} {port : Fin 6} {s : State} (h : Kept s0 s) : KeptX s0 (execPhEvict port s) := by
  unfold execPhEvict
  repeat' first
    | with_reducible assumption
    | (intro t b (ht : Kept s0 t))
    | extract_lets +onlyGivenNames x
    | with_reducible apply KeptX.next
    | with_reducible apply State.onMgmt_kept
    | with_reducible apply State.onHole_kept
    | with_reducible apply State.phEvictOp_kept

theorem execPhPin_kept {s0 : State} {port : Fin 6} {s : State} (h : Kept s0 s) : KeptX s0 (execPhPin port s) := by
  unfold execPhPin
  repeat' first
    | with_reducible assumption
    | (intro t b (ht : Kept s0 t))
    | extract_lets +onlyGivenNames x
    | with_reducible apply KeptX.next
    | with_reducible apply State.onMgmt_kept
    | with_reducible apply State.onHole_kept
    | with_reducible apply State.phFetch_kept

theorem State.phLoadDone_kept {s0 : State} {s : State} {p : Nat} {h' : Nat} (h : Kept s0 s) : Kept s0 (State.phLoadDone s p h') := by
  unfold State.phLoadDone
  repeat' first
    | with_reducible assumption
    | extract_lets +onlyGivenNames x
    | with_reducible apply Kept.ite
    | with_reducible apply State.phResident_kept
    | split

theorem execPhLoadDone_kept {s0 : State} {p : Fin 6} {h' : Fin 64} {s : State} (h : Kept s0 s) : KeptX s0 (execPhLoadDone p h' s) := by
  unfold execPhLoadDone
  repeat' first
    | with_reducible assumption
    | extract_lets +onlyGivenNames x
    | with_reducible apply KeptX.next
    | with_reducible apply State.phLoadDone_kept

theorem execPartRestart_kept {s0 : State} {port : Fin 6} {s : State} (h : Kept s0 s) : KeptX s0 (execPartRestart port s) := by
  unfold execPartRestart
  repeat' first
    | with_reducible assumption
    | (intro t b (ht : Kept s0 t))
    | extract_lets +onlyGivenNames x
    | with_reducible apply KeptX.next
    | with_reducible apply Kept.ite
    | with_reducible apply State.onMgmt_kept
    | with_reducible apply State.beginRestart_kept
    | with_reducible apply State.serve1_kept

theorem execPhSetup_kept {s0 : State} {port : Fin 6} {s : State} (h : Kept s0 s) : KeptX s0 (execPhSetup port s) := by
  unfold execPhSetup
  repeat' first
    | with_reducible assumption
    | (intro t b (ht : Kept s0 t))
    | extract_lets +onlyGivenNames x
    | with_reducible apply KeptX.next
    | with_reducible apply State.onMgmt_kept
    | with_reducible apply State.phSetup_kept

theorem State.phDefine_kept {s0 : State} {s : State} {k : Work} {h' : Nat} (h : Kept s0 s) : Kept s0 (State.phDefine s k h') := by
  unfold State.phDefine
  repeat' first
    | with_reducible assumption
    | (extract_lets +onlyGivenNames x; refine (fun (hx : Kept s0 x) => ?_) ?_; (on_goal 2 => unfold x; clear x); (on_goal 1 => clear_value x))
    | (extract_lets +onlyGivenNames x; clear_value x)
    | extract_lets +onlyGivenNames x
    | with_reducible apply Kept.ite
    | with_reducible apply State.serve1_kept
    | with_reducible apply State.setPart_kept
    | with_reducible apply State.setReg_kept
    | with_reducible apply State.dispatch_kept
    | with_reducible apply State.phWrite_kept
    | with_reducible apply State.phTo_kept

theorem execPhDefine_kept {s0 : State} {port : Fin 6} {s : State} (h : Kept s0 s) : KeptX s0 (execPhDefine port s) := by
  unfold execPhDefine
  repeat' first
    | with_reducible assumption
    | (intro t b (ht : Kept s0 t))
    | extract_lets +onlyGivenNames x
    | with_reducible apply KeptX.next
    | with_reducible apply State.onMgmt_kept
    | with_reducible apply State.onHole_kept
    | with_reducible apply State.phDefine_kept

end Sys2Proof.Machine
end

