-- ==== Sys2Proof/Laws/KeptSecurity.lean ====
section
/-! SUPPORT. What the operations of Machine/Security.lean keep. -/

namespace Sys2Proof.Machine

set_option linter.tactic.unusedName false

theorem State.spdmError_kept {s0 : State} {s : State} {code : Nat} (h : Kept s0 s) : Kept s0 (State.spdmError s code) := by
  unfold State.spdmError
  repeat' first
    | with_reducible assumption
    | with_reducible apply State.answer_kept

theorem State.inSession_kept {s0 : State} {s : State} {port : Nat} {sess : Nat} {f : State → State} (h : Kept s0 s) (hf : ∀ t , Kept s0 t → Kept s0 (f t)) : Kept s0 (State.inSession s port sess f) := by
  unfold State.inSession
  repeat' first
    | with_reducible assumption
    | extract_lets +onlyGivenNames x
    | with_reducible apply Kept.ite
    | with_reducible apply State.spdmError_kept
    | with_reducible apply hf

theorem State.farOperand_kept {s0 : State} {s : State} {k : Work} (h : Kept s0 s) : Kept s0 (State.farOperand s k).2 := by
  unfold State.farOperand
  repeat' first
    | with_reducible assumption
    | extract_lets +onlyGivenNames x
    | with_reducible apply State.paramBlock_kept
    | split
    | (with_reducible eapply Kept.of_snd; focus assumption)

theorem State.farStart_kept {s0 : State} {s : State} {v : W32} (h : Kept s0 s) : Kept s0 (State.farStart s v) := by
  unfold State.farStart
  repeat' first
    | with_reducible assumption
    | (intro t b (ht : Kept s0 t))
    | extract_lets +onlyGivenNames x
    | with_reducible apply Kept.ite
    | with_reducible apply State.setBit_kept
    | with_reducible apply State.setField_kept
    | with_reducible apply Kept.foldl

theorem State.setLastStatus_kept {s0 : State} {s : State} {p : Nat} {st : Nat} (h : Kept s0 s) : Kept s0 (State.setLastStatus s p st) := by
  unfold State.setLastStatus
  repeat' first
    | with_reducible assumption
    | with_reducible apply State.setField_kept

theorem State.debugGrant_kept {s0 : State} {s : State} {p : Nat} {g : Grant} {sigOk : Bool} (h : Kept s0 s) : Kept s0 (State.debugGrant s p g sigOk) := by
  unfold State.debugGrant
  repeat' first
    | with_reducible assumption
    | (extract_lets +onlyGivenNames x; refine (fun (hx : Kept s0 x) => ?_) ?_; (on_goal 2 => unfold x; clear x); (on_goal 1 => clear_value x))
    | (extract_lets +onlyGivenNames x; clear_value x)
    | extract_lets +onlyGivenNames x
    | with_reducible apply Kept.ite
    | with_reducible apply State.setKeys_kept
    | with_reducible apply State.setBit_kept
    | with_reducible apply State.setField_kept
    | with_reducible apply State.endGrant_kept
    | with_reducible apply State.answer_kept
    | with_reducible apply State.setLastStatus_kept

theorem execDebugGrant_kept {s0 : State} {p : Fin 6} {grant : Grant} {sigOk : Bool} {s : State} (h : Kept s0 s) : KeptX s0 (execDebugGrant p grant sigOk s) := by
  unfold execDebugGrant
  repeat' first
    | with_reducible assumption
    | extract_lets +onlyGivenNames x
    | with_reducible apply KeptX.next
    | with_reducible apply State.debugGrant_kept

theorem State.onSpdm_kept {s0 : State} {s : State} {port : Nat} {ready : Spdm → Bool} {f : State → State} (h : Kept s0 s) (hf : ∀ t , Kept s0 t → Kept s0 (f t)) : Kept s0 (State.onSpdm s port ready f) := by
  unfold State.onSpdm
  repeat' first
    | with_reducible assumption
    | extract_lets +onlyGivenNames x
    | with_reducible apply Kept.ite
    | with_reducible apply State.spdmError_kept
    | with_reducible apply hf

theorem State.setSpdm_kept {s0 : State} {s : State} {port : Nat} {x : Spdm} (h : Kept s0 s) : Kept s0 (State.setSpdm s port x) := by
  unfold State.setSpdm
  repeat' first
    | with_reducible assumption
    | fail_if_no_progress with_reducible refine Kept.mk' ?_ rfl rfl rfl rfl rfl

theorem State.setSession_kept {s0 : State} {s : State} {port : Nat} {sess : Nat} {x : Session} (h : Kept s0 s) : Kept s0 (State.setSession s port sess x) := by
  unfold State.setSession
  repeat' first
    | with_reducible assumption
    | (extract_lets +onlyGivenNames x; clear_value x)
    | with_reducible apply State.setSpdm_kept

theorem execKeyExchange_kept {s0 : State} {port : Fin 6} {s : State} (h : Kept s0 s) : KeptX s0 (execKeyExchange port s) := by
  unfold execKeyExchange
  repeat' first
    | with_reducible assumption
    | (intro t (ht : Kept s0 t))
    | (extract_lets +onlyGivenNames x; clear_value x)
    | extract_lets +onlyGivenNames x
    | with_reducible apply KeptX.next
    | with_reducible apply State.onSpdm_kept
    | with_reducible apply State.answer_kept
    | with_reducible apply State.setSession_kept
    | with_reducible apply State.spdmError_kept
    | split

theorem State.hbmScrubbed_kept {s0 : State} {s : State} {p : Nat} (h : Kept s0 s) : Kept s0 (State.hbmScrubbed s p) := by
  unfold State.hbmScrubbed
  repeat' first
    | with_reducible assumption
    | (intro t b (ht : Kept s0 t))
    | (extract_lets +onlyGivenNames x; refine (fun (hx : Kept s0 x) => ?_) ?_; (on_goal 2 => unfold x; clear x); (on_goal 1 => clear_value x))
    | (extract_lets +onlyGivenNames x; clear_value x)
    | extract_lets +onlyGivenNames x
    | with_reducible apply Kept.ite
    | with_reducible apply State.setKeys_kept
    | with_reducible apply State.scrubbed_kept
    | with_reducible apply State.setField_kept
    | with_reducible apply State.setBit_kept
    | with_reducible apply Kept.foldl
    | with_reducible refine Kept.mkHbm ?_ rfl rfl (fun w => ?_) rfl rfl
    | (with_reducible apply Mem.clear_wf; assumption)

theorem execHbmScrubDone_kept {s0 : State} {p : Fin 6} {s : State} (h : Kept s0 s) : KeptX s0 (execHbmScrubDone p s) := by
  unfold execHbmScrubDone
  repeat' first
    | with_reducible assumption
    | extract_lets +onlyGivenNames x
    | with_reducible apply KeptX.next
    | with_reducible apply State.hbmScrubbed_kept

theorem State.measure_kept {s0 : State} {s : State} {i : Image} (h : Kept s0 s) : Kept s0 (State.measure s i) := by
  unfold State.measure
  repeat' first
    | with_reducible assumption
    | extract_lets +onlyGivenNames x
    | with_reducible apply State.draw_kept
    | with_reducible apply State.setField_kept
    | fail_if_no_progress with_reducible refine Kept.mkTrust ?_ rfl rfl rfl rfl rfl rfl rfl rfl

theorem State.dropAccepted_kept {s0 : State} {s : State} {k : Work} (h : Kept s0 s) : Kept s0 (State.dropAccepted s k) := by
  unfold State.dropAccepted
  repeat' first
    | with_reducible assumption
    | (extract_lets +onlyGivenNames x; refine (fun (hx : Kept s0 x) => ?_) ?_; (on_goal 2 => unfold x; clear x); (on_goal 1 => clear_value x))
    | (extract_lets +onlyGivenNames x; clear_value x)
    | extract_lets +onlyGivenNames x
    | with_reducible apply Kept.ite
    | with_reducible apply State.setPair_kept
    | with_reducible apply State.setPairState_kept
    | with_reducible apply State.setPart_kept
    | with_reducible apply State.modWork_kept
    | with_reducible apply State.busy_kept

theorem State.pmRestart_kept {s0 : State} {s : State} {i : Option Image} (h : Kept s0 s) : Kept s0 (State.pmRestart s i) := by
  unfold State.pmRestart
  repeat' first
    | with_reducible assumption
    | (intro t b (ht : Kept s0 t))
    | (extract_lets +onlyGivenNames x; refine (fun (hx : Kept s0 x) => ?_) ?_; (on_goal 2 => unfold x; clear x); (on_goal 1 => clear_value x))
    | extract_lets +onlyGivenNames x
    | with_reducible apply Kept.ite
    | with_reducible apply State.setBit_kept
    | with_reducible apply State.measure_kept
    | with_reducible apply State.draw_kept
    | with_reducible apply State.setReg_kept
    | with_reducible apply State.dropAccepted_kept
    | with_reducible apply State.progressHeld_kept
    | fail_if_no_progress with_reducible refine Kept.mk' ?_ rfl rfl rfl rfl rfl
    | with_reducible apply Kept.foldl
    | fail_if_no_progress with_reducible refine Kept.mkTrust ?_ rfl rfl rfl rfl rfl rfl rfl rfl
    | split

theorem execPostmasterRestart_kept {s0 : State} {image : Image} {s : State} (h : Kept s0 s) : KeptX s0 (execPostmasterRestart image s) := by
  unfold execPostmasterRestart
  repeat' first
    | with_reducible assumption
    | extract_lets +onlyGivenNames x
    | with_reducible apply KeptX.next
    | with_reducible apply State.pmRestart_kept

theorem State.zeroFar_kept {s0 : State} {s : State} {k : Nat} {owner : Nat} {index : Nat} (h : Kept s0 s) : Kept s0 (State.zeroFar s k owner index) := by
  unfold State.zeroFar
  repeat' first
    | with_reducible assumption
    | (extract_lets +onlyGivenNames x; refine (fun (hx : Kept s0 x) => ?_) ?_; (on_goal 2 => unfold x; clear x); (on_goal 1 => clear_value x))
    | (extract_lets +onlyGivenNames x; clear_value x)
    | extract_lets +onlyGivenNames x
    | with_reducible apply State.setMid_kept
    | with_reducible refine Kept.mkFar ?_ rfl rfl rfl (fun w => ?_) rfl
    | (with_reducible apply Mem.clear_wf; assumption)

theorem State.rekey_kept {s0 : State} {s : State} {p : Nat} {e : Envelope} (h : Kept s0 s) : Kept s0 (State.rekey s p e) := by
  unfold State.rekey
  repeat' first
    | with_reducible assumption
    | (extract_lets +onlyGivenNames x; refine (fun (hx : Kept s0 x) => ?_) ?_; (on_goal 2 => unfold x; clear x); (on_goal 1 => clear_value x))
    | (extract_lets +onlyGivenNames x; clear_value x)
    | extract_lets +onlyGivenNames x
    | with_reducible apply State.setPairState_kept
    | with_reducible apply State.dissolvePair_kept
    | with_reducible apply State.endGrant_kept
    | with_reducible apply State.setField_kept
    | with_reducible apply State.zeroKeys_kept
    | with_reducible apply State.setKeys_kept
    | with_reducible apply State.startScrub_kept
    | with_reducible apply State.clearBit_kept
    | with_reducible apply State.phResetAll_kept
    | with_reducible apply State.freshNonce_kept
    | with_reducible apply State.setPart_kept
    | fail_if_no_progress with_reducible refine Kept.mk' ?_ rfl rfl rfl rfl rfl

theorem State.envelope_kept {s0 : State} {s : State} {port : Nat} {sess : Nat} {e : Envelope} {sigOk : Bool} {unwrapOk : Bool} (h : Kept s0 s) : Kept s0 (State.envelope s port sess e sigOk unwrapOk) := by
  unfold State.envelope
  repeat' first
    | with_reducible assumption
    | (extract_lets +onlyGivenNames x; refine (fun (hx : Kept s0 x) => ?_) ?_; (on_goal 2 => unfold x; clear x); (on_goal 1 => clear_value x))
    | (extract_lets +onlyGivenNames x; clear_value x)
    | extract_lets +onlyGivenNames x
    | with_reducible apply Kept.ite
    | with_reducible apply State.spdmError_kept
    | with_reducible apply State.setBit_kept
    | with_reducible apply State.rekey_kept
    | with_reducible apply State.answer_kept
    | with_reducible apply State.setLastStatus_kept
    | split

theorem execChallenge_kept {s0 : State} {port : Fin 6} {slot : Fin 8} {nonce : BitVec 256} {s : State} (h : Kept s0 s) : KeptX s0 (execChallenge port slot nonce s) := by
  unfold execChallenge
  repeat' first
    | with_reducible assumption
    | (intro t (ht : Kept s0 t))
    | extract_lets +onlyGivenNames x
    | with_reducible apply KeptX.next
    | with_reducible apply Kept.ite
    | with_reducible apply State.onSpdm_kept
    | with_reducible apply State.spdmError_kept
    | with_reducible apply State.opaqueBytes_kept
    | with_reducible apply State.answer_kept

theorem State.farScrubbed_kept {s0 : State} {s : State} {k : Nat} (h : Kept s0 s) : Kept s0 (State.farScrubbed s k) := by
  unfold State.farScrubbed
  repeat' first
    | with_reducible assumption
    | (intro t b (ht : Kept s0 t))
    | (extract_lets +onlyGivenNames x; refine (fun (hx : Kept s0 x) => ?_) ?_; (on_goal 2 => unfold x; clear x); (on_goal 1 => clear_value x))
    | (extract_lets +onlyGivenNames x; clear_value x)
    | extract_lets +onlyGivenNames x
    | with_reducible apply Kept.ite
    | with_reducible apply State.clearBit_kept
    | with_reducible apply State.setField_kept
    | with_reducible apply State.setBit_kept
    | with_reducible apply State.scrubbed_kept
    | with_reducible apply State.zeroFar_kept
    | with_reducible apply State.serve1_kept
    | with_reducible apply Kept.foldl

theorem execFarScrubDone_kept {s0 : State} {k : Fin 8} {s : State} (h : Kept s0 s) : KeptX s0 (execFarScrubDone k s) := by
  unfold execFarScrubDone
  repeat' first
    | with_reducible assumption
    | extract_lets +onlyGivenNames x
    | with_reducible apply KeptX.next
    | with_reducible apply State.farScrubbed_kept

theorem State.watchdog_kept {s0 : State} {s : State} {i : Image} (h : Kept s0 s) : Kept s0 (State.watchdog s i) := by
  unfold State.watchdog
  repeat' first
    | with_reducible assumption
    | (extract_lets +onlyGivenNames x; refine (fun (hx : Kept s0 x) => ?_) ?_; (on_goal 2 => unfold x; clear x); (on_goal 1 => clear_value x))
    | (extract_lets +onlyGivenNames x; clear_value x)
    | extract_lets +onlyGivenNames x
    | with_reducible apply Kept.ite
    | with_reducible apply State.raise_kept
    | with_reducible apply State.setBit_kept
    | with_reducible apply State.pmRestart_kept
    | fail_if_no_progress with_reducible refine Kept.mk' ?_ rfl rfl rfl rfl rfl

theorem execWatchdog_kept {s0 : State} {image : Image} {s : State} (h : Kept s0 s) : KeptX s0 (execWatchdog image s) := by
  unfold execWatchdog
  repeat' first
    | with_reducible assumption
    | extract_lets +onlyGivenNames x
    | with_reducible apply KeptX.next
    | with_reducible apply State.watchdog_kept

theorem execFinish_kept {s0 : State} {port : Fin 6} {sess : Fin 2} {ok : Bool} {requester : BitVec 384} {s : State} (h : Kept s0 s) : KeptX s0 (execFinish port sess ok requester s) := by
  unfold execFinish
  repeat' first
    | with_reducible assumption
    | (intro t (ht : Kept s0 t))
    | (extract_lets +onlyGivenNames x; clear_value x)
    | extract_lets +onlyGivenNames x
    | with_reducible apply KeptX.next
    | with_reducible apply Kept.ite
    | with_reducible apply State.onSpdm_kept
    | with_reducible apply State.spdmError_kept
    | with_reducible apply State.answer_kept
    | with_reducible apply State.setSession_kept

theorem execEndSession_kept {s0 : State} {port : Fin 6} {sess : Fin 2} {s : State} (h : Kept s0 s) : KeptX s0 (execEndSession port sess s) := by
  unfold execEndSession
  repeat' first
    | with_reducible assumption
    | (intro t (ht : Kept s0 t))
    | extract_lets +onlyGivenNames x
    | with_reducible apply KeptX.next
    | with_reducible apply State.inSession_kept
    | with_reducible apply State.answer_kept
    | with_reducible apply State.setSession_kept

theorem execGrantEnded_kept {s0 : State} {p : Fin 6} {s : State} (h : Kept s0 s) : KeptX s0 (execGrantEnded p s) := by
  unfold execGrantEnded
  repeat' first
    | with_reducible assumption
    | extract_lets +onlyGivenNames x
    | with_reducible apply KeptX.next
    | with_reducible apply Kept.ite
    | with_reducible apply State.endGrant_kept

theorem execGetDigests_kept {s0 : State} {port : Fin 6} {s : State} (h : Kept s0 s) : KeptX s0 (execGetDigests port s) := by
  unfold execGetDigests
  repeat' first
    | with_reducible assumption
    | (intro t (ht : Kept s0 t))
    | extract_lets +onlyGivenNames x
    | with_reducible apply KeptX.next
    | with_reducible apply State.onSpdm_kept
    | with_reducible apply State.opaqueBytes_kept
    | with_reducible apply State.answer_kept

theorem execGetCertificate_kept {s0 : State} {port : Fin 6} {slot : Fin 8} {offset : BitVec 16} {length : BitVec 16} {s : State} (h : Kept s0 s) : KeptX s0 (execGetCertificate port slot offset length s) := by
  unfold execGetCertificate
  repeat' first
    | with_reducible assumption
    | (intro t (ht : Kept s0 t))
    | (extract_lets +onlyGivenNames x; clear_value x)
    | extract_lets +onlyGivenNames x
    | with_reducible apply KeptX.next
    | with_reducible apply Kept.ite
    | with_reducible apply State.onSpdm_kept
    | with_reducible apply State.spdmError_kept
    | with_reducible apply State.answer_kept

theorem execFarStart_kept {s0 : State} {v : BitVec 32} {s : State} (h : Kept s0 s) : KeptX s0 (execFarStart v s) := by
  unfold execFarStart
  repeat' first
    | with_reducible assumption
    | extract_lets +onlyGivenNames x
    | with_reducible apply KeptX.next
    | with_reducible apply State.farStart_kept

theorem execEnvelope_kept {s0 : State} {port : Fin 6} {sess : Fin 2} {env : Envelope} {sigOk : Bool} {unwrapOk : Bool} {s : State} (h : Kept s0 s) : KeptX s0 (execEnvelope port sess env sigOk unwrapOk s) := by
  unfold execEnvelope
  repeat' first
    | with_reducible assumption
    | (intro t (ht : Kept s0 t))
    | extract_lets +onlyGivenNames x
    | with_reducible apply KeptX.next
    | with_reducible apply State.inSession_kept
    | with_reducible apply State.envelope_kept

theorem execGetVersion_kept {s0 : State} {port : Fin 6} {s : State} (h : Kept s0 s) : KeptX s0 (execGetVersion port s) := by
  unfold execGetVersion
  repeat' first
    | with_reducible assumption
    | (intro t (ht : Kept s0 t))
    | (extract_lets +onlyGivenNames x; clear_value x)
    | extract_lets +onlyGivenNames x
    | with_reducible apply KeptX.next
    | with_reducible apply State.onSpdm_kept
    | with_reducible apply State.answer_kept
    | with_reducible apply State.setSpdm_kept

theorem execGetCapabilities_kept {s0 : State} {port : Fin 6} {s : State} (h : Kept s0 s) : KeptX s0 (execGetCapabilities port s) := by
  unfold execGetCapabilities
  repeat' first
    | with_reducible assumption
    | (intro t (ht : Kept s0 t))
    | (extract_lets +onlyGivenNames x; clear_value x)
    | extract_lets +onlyGivenNames x
    | with_reducible apply KeptX.next
    | with_reducible apply State.onSpdm_kept
    | with_reducible apply State.answer_kept
    | with_reducible apply State.setSpdm_kept

theorem execNegotiateAlgorithms_kept {s0 : State} {port : Fin 6} {s : State} (h : Kept s0 s) : KeptX s0 (execNegotiateAlgorithms port s) := by
  unfold execNegotiateAlgorithms
  repeat' first
    | with_reducible assumption
    | (intro t (ht : Kept s0 t))
    | (extract_lets +onlyGivenNames x; clear_value x)
    | extract_lets +onlyGivenNames x
    | with_reducible apply KeptX.next
    | with_reducible apply State.onSpdm_kept
    | with_reducible apply State.answer_kept
    | with_reducible apply State.setSpdm_kept

theorem execGetMeasurements_kept {s0 : State} {port : Fin 6} {index : BitVec 8} {signed : Bool} {nonce : BitVec 256} {s : State} (h : Kept s0 s) : KeptX s0 (execGetMeasurements port index signed nonce s) := by
  unfold execGetMeasurements
  repeat' first
    | with_reducible assumption
    | (intro t (ht : Kept s0 t))
    | (extract_lets +onlyGivenNames x; clear_value x)
    | extract_lets +onlyGivenNames x
    | with_reducible apply KeptX.next
    | with_reducible apply Kept.ite
    | with_reducible apply State.onSpdm_kept
    | with_reducible apply State.spdmError_kept
    | with_reducible apply State.answer_kept
    | with_reducible apply State.opaqueBytes_kept

theorem execHeartbeat_kept {s0 : State} {port : Fin 6} {sess : Fin 2} {s : State} (h : Kept s0 s) : KeptX s0 (execHeartbeat port sess s) := by
  unfold execHeartbeat
  repeat' first
    | with_reducible assumption
    | (intro t (ht : Kept s0 t))
    | extract_lets +onlyGivenNames x
    | with_reducible apply KeptX.next
    | with_reducible apply State.inSession_kept
    | with_reducible apply State.answer_kept

theorem execKeyUpdate_kept {s0 : State} {port : Fin 6} {sess : Fin 2} {s : State} (h : Kept s0 s) : KeptX s0 (execKeyUpdate port sess s) := by
  unfold execKeyUpdate
  repeat' first
    | with_reducible assumption
    | (intro t (ht : Kept s0 t))
    | (extract_lets +onlyGivenNames x; clear_value x)
    | extract_lets +onlyGivenNames x
    | with_reducible apply KeptX.next
    | with_reducible apply State.inSession_kept
    | with_reducible apply State.answer_kept
    | with_reducible apply State.setSession_kept

theorem State.farScrub_kept {s0 : State} {s : State} {k : Work} (h : Kept s0 s) : Kept s0 (State.farScrub s k) := by
  unfold State.farScrub
  repeat' first
    | with_reducible assumption
    | (extract_lets +onlyGivenNames x; refine (fun (hx : Kept s0 x) => ?_) ?_; (on_goal 2 => unfold x; clear x); (on_goal 1 => clear_value x))
    | extract_lets +onlyGivenNames x
    | with_reducible apply Kept.ite
    | with_reducible apply State.farOperand_kept
    | with_reducible apply State.serve1_kept
    | with_reducible apply State.setField_kept
    | with_reducible apply State.mgmtBegun_kept
    | with_reducible apply State.modWork_kept
    | split
    | (with_reducible eapply Kept.of_snd; focus assumption)

theorem execFarScrub_kept {s0 : State} {port : Fin 6} {s : State} (h : Kept s0 s) : KeptX s0 (execFarScrub port s) := by
  unfold execFarScrub
  repeat' first
    | with_reducible assumption
    | (intro t b (ht : Kept s0 t))
    | extract_lets +onlyGivenNames x
    | with_reducible apply KeptX.next
    | with_reducible apply State.onMgmt_kept
    | with_reducible apply State.farScrub_kept

theorem State.ideKm_kept {s0 : State} {s : State} {port : Nat} {sess : Nat} {stream : Nat} {op : IdeOp} (h : Kept s0 s) : Kept s0 (State.ideKm s port sess stream op) := by
  unfold State.ideKm
  repeat' first
    | with_reducible assumption
    | (extract_lets +onlyGivenNames x; clear_value x)
    | extract_lets +onlyGivenNames x
    | with_reducible apply State.answer_kept
    | with_reducible apply State.setPort_kept

theorem execIdeKm_kept {s0 : State} {port : Fin 6} {sess : Fin 2} {stream : Fin 4} {op : IdeOp} {s : State} (h : Kept s0 s) : KeptX s0 (execIdeKm port sess stream op s) := by
  unfold execIdeKm
  repeat' first
    | with_reducible assumption
    | (intro t (ht : Kept s0 t))
    | extract_lets +onlyGivenNames x
    | with_reducible apply KeptX.next
    | with_reducible apply State.inSession_kept
    | with_reducible apply State.ideKm_kept

end Sys2Proof.Machine
end

