-- ==== Sys2Proof/Laws/KeptPair.lean ====
section
/-! SUPPORT. What the operations of Machine/Pair.lean keep. -/

namespace Sys2Proof.Machine

set_option linter.tactic.unusedName false

theorem State.linksLost_kept {s0 : State} {s : State} {p : Nat} (h : Kept s0 s) : Kept s0 (State.linksLost s p) := by
  unfold State.linksLost
  repeat' first
    | with_reducible assumption
    | extract_lets +onlyGivenNames x
    | with_reducible apply Kept.ite
    | with_reducible apply State.goAlone_kept
    | with_reducible apply State.joinFails_kept

theorem State.resendOn_kept {s0 : State} {s : State} {p : Nat} {l : Nat} {other : Nat} (h : Kept s0 s) : Kept s0 (State.resendOn s p l other) := by
  unfold State.resendOn
  repeat' first
    | with_reducible assumption
    | (intro t b (ht : Kept s0 t))
    | (extract_lets +onlyGivenNames x; refine (fun (hx : Kept s0 x) => ?_) ?_; (on_goal 2 => unfold x; clear x); (on_goal 1 => clear_value x))
    | (extract_lets +onlyGivenNames x; clear_value x)
    | extract_lets +onlyGivenNames x
    | with_reducible apply State.sendPair_kept
    | fail_if_no_progress with_reducible refine Kept.mk' ?_ rfl rfl rfl rfl rfl
    | with_reducible apply Kept.foldl

theorem State.pairLinkDown_kept {s0 : State} {s : State} {l : Nat} (h : Kept s0 s) : Kept s0 (State.pairLinkDown s l) := by
  unfold State.pairLinkDown
  repeat' first
    | with_reducible assumption
    | (intro t b (ht : Kept s0 t))
    | (extract_lets +onlyGivenNames x; refine (fun (hx : Kept s0 x) => ?_) ?_; (on_goal 2 => unfold x; clear x); (on_goal 1 => clear_value x))
    | (extract_lets +onlyGivenNames x; clear_value x)
    | extract_lets +onlyGivenNames x
    | with_reducible apply Kept.ite
    | with_reducible apply State.setBit_kept
    | with_reducible apply State.setField_kept
    | with_reducible apply State.linksLost_kept
    | with_reducible apply State.resendOn_kept
    | with_reducible apply Kept.foldl
    | split

theorem State.digestRanges_kept {s0 : State} {s : State} {k : Work} {table : Nat} (h : Kept s0 s) : Kept s0 (State.digestRanges s k table).2 := by
  unfold State.digestRanges
  repeat' first
    | with_reducible assumption
    | (extract_lets +onlyGivenNames x; clear_value x)
    | extract_lets +onlyGivenNames x
    | with_reducible apply State.entryBytes_kept
    | with_reducible apply Kept.ite_snd
    | split
    | (with_reducible eapply Kept.of_snd; focus assumption)

theorem State.closeRanges_kept {s0 : State} {s : State} {p : Nat} {ranges : List (Nat × Nat)} (h : Kept s0 s) : Kept s0 (State.closeRanges s p ranges) := by
  unfold State.closeRanges
  repeat' first
    | with_reducible assumption
    | (intro t b (ht : Kept s0 t))
    | extract_lets +onlyGivenNames x
    | with_reducible apply State.closeFor_kept
    | with_reducible apply Kept.foldl

theorem State.writeDigest_kept {s0 : State} {s : State} {k : Work} {a : Nat} {d : BitVec 384} (h : Kept s0 s) : Kept s0 (State.writeDigest s k a d) := by
  unfold State.writeDigest
  repeat' first
    | with_reducible assumption
    | extract_lets +onlyGivenNames x
    | with_reducible apply Kept.ite
    | with_reducible apply State.writeWord_kept
    | with_reducible apply State.writeHc_kept

theorem State.digestDone_kept {s0 : State} {s : State} {p : Nat} {index : Nat} {detail : Nat} (h : Kept s0 s) : Kept s0 (State.digestDone s p index detail) := by
  unfold State.digestDone
  repeat' first
    | with_reducible assumption
    | (extract_lets +onlyGivenNames x; refine (fun (hx : Kept s0 x) => ?_) ?_; (on_goal 2 => unfold x; clear x); (on_goal 1 => clear_value x))
    | (extract_lets +onlyGivenNames x; clear_value x)
    | extract_lets +onlyGivenNames x
    | with_reducible apply State.setPair_kept
    | with_reducible apply State.serve1_kept
    | with_reducible apply State.setField_kept
    | split

theorem State.compareDigest_kept {s0 : State} {s : State} {p : Nat} {index : Nat} (h : Kept s0 s) : Kept s0 (State.compareDigest s p index) := by
  unfold State.compareDigest
  repeat' first
    | with_reducible assumption
    | (extract_lets +onlyGivenNames x; refine (fun (hx : Kept s0 x) => ?_) ?_; (on_goal 2 => unfold x; clear x); (on_goal 1 => clear_value x))
    | (extract_lets +onlyGivenNames x; clear_value x)
    | extract_lets +onlyGivenNames x
    | with_reducible apply Kept.ite
    | with_reducible apply State.digestDone_kept
    | with_reducible apply State.pairSend_kept
    | with_reducible apply State.goAlone_kept
    | with_reducible apply State.setBit_kept
    | with_reducible apply State.sendWithdraw_kept
    | split

theorem State.pairDigest_kept {s0 : State} {s : State} {k : Work} (h : Kept s0 s) : Kept s0 (State.pairDigest s k) := by
  unfold State.pairDigest
  repeat' first
    | with_reducible assumption
    | (intro t b (ht : Kept s0 t))
    | (extract_lets +onlyGivenNames x; refine (fun (hx : Kept s0 x) => ?_) ?_; (on_goal 2 => unfold x; clear x); (on_goal 1 => clear_value x))
    | (extract_lets +onlyGivenNames x; clear_value x)
    | extract_lets +onlyGivenNames x
    | with_reducible apply Kept.ite
    | with_reducible apply State.serve1_kept
    | with_reducible apply State.paramBlock_kept
    | with_reducible apply State.digestRanges_kept
    | with_reducible apply State.closeRanges_kept
    | with_reducible apply State.writeDigest_kept
    | with_reducible apply State.setPair_kept
    | with_reducible apply State.digestDone_kept
    | with_reducible apply State.mgmtBegun_kept
    | with_reducible apply State.compareDigest_kept
    | with_reducible apply State.pairSend_kept
    | with_reducible apply Kept.foldl
    | split
    | (with_reducible eapply Kept.of_snd; focus assumption)

theorem State.heard_kept {s0 : State} {s : State} (h : Kept s0 s) : Kept s0 (State.heard s) := by
  unfold State.heard
  repeat' first
    | with_reducible assumption
    | (extract_lets +onlyGivenNames x; clear_value x)
    | with_reducible apply State.setPair_kept

theorem State.onMsg_kept {s0 : State} {s : State} {p : Nat} {seq : W64} {f : State → State} (h : Kept s0 s) (hf : ∀ t , Kept s0 t → Kept s0 (f t)) : Kept s0 (State.onMsg s p seq f) := by
  unfold State.onMsg
  repeat' first
    | with_reducible assumption
    | (extract_lets +onlyGivenNames x; clear_value x)
    | extract_lets +onlyGivenNames x
    | with_reducible apply Kept.ite
    | with_reducible apply State.heard_kept
    | with_reducible apply State.setPair_kept
    | with_reducible apply hf

theorem State.unmute_kept {s0 : State} {s : State} {p : Nat} (h : Kept s0 s) : Kept s0 (State.unmute s p) := by
  unfold State.unmute
  repeat' first
    | with_reducible assumption
    | (extract_lets +onlyGivenNames x; clear_value x)
    | extract_lets +onlyGivenNames x
    | with_reducible apply State.flushHc_kept
    | with_reducible apply State.setPair_kept

theorem execPairRefuse_kept {s0 : State} {p : Fin 6} {seq : BitVec 64} {s : State} (h : Kept s0 s) : KeptX s0 (execPairRefuse p seq s) := by
  unfold execPairRefuse
  repeat' first
    | with_reducible assumption
    | (intro t (ht : Kept s0 t))
    | (extract_lets +onlyGivenNames x; clear_value x)
    | extract_lets +onlyGivenNames x
    | with_reducible apply KeptX.next
    | with_reducible apply Kept.ite
    | with_reducible apply State.onMsg_kept
    | with_reducible apply State.unmute_kept
    | with_reducible apply State.joinFails_kept

theorem execPairLine_kept {s0 : State} {p : Fin 6} {seq : BitVec 64} {addr : BitVec 64} {data : BitVec 1024} {s : State} (h : Kept s0 s) : KeptX s0 (execPairLine p seq addr data s) := by
  unfold execPairLine
  repeat' first
    | with_reducible assumption
    | (intro t (ht : Kept s0 t))
    | (extract_lets +onlyGivenNames x; clear_value x)
    | extract_lets +onlyGivenNames x
    | with_reducible apply KeptX.next
    | with_reducible apply Kept.ite
    | with_reducible apply State.onMsg_kept
    | with_reducible apply State.updateLine_kept
    | split

theorem State.joinHole_kept {s0 : State} {s : State} {p : Nat} {x : JoinHole} (h : Kept s0 s) : Kept s0 (State.joinHole s p x) := by
  unfold State.joinHole
  repeat' first
    | with_reducible assumption
    | (extract_lets +onlyGivenNames x; refine (fun (hx : Kept s0 x) => ?_) ?_; (on_goal 2 => unfold x; clear x); (on_goal 1 => clear_value x))
    | (extract_lets +onlyGivenNames x; clear_value x)
    | extract_lets +onlyGivenNames x
    | with_reducible apply Kept.ite
    | with_reducible apply State.setPart_kept
    | with_reducible apply State.setReg_kept
    | with_reducible apply State.phPlace_kept
    | with_reducible apply State.setField_kept
    | with_reducible apply State.phEvict_kept

theorem State.letIn_kept {s0 : State} {s : State} {p : Nat} {ids : List Nat} (h : Kept s0 s) : Kept s0 (State.letIn s p ids) := by
  unfold State.letIn
  repeat' first
    | with_reducible assumption
    | (intro t b (ht : Kept s0 t))
    | (extract_lets +onlyGivenNames x; clear_value x)
    | extract_lets +onlyGivenNames x
    | with_reducible apply Kept.ite
    | with_reducible apply State.setArr_kept
    | with_reducible apply Kept.foldl

theorem State.dropMirrored_kept {s0 : State} {s : State} {p : Nat} (h : Kept s0 s) : Kept s0 (State.dropMirrored s p) := by
  unfold State.dropMirrored
  repeat' first
    | with_reducible assumption
    | (intro t b (ht : Kept s0 t))
    | extract_lets +onlyGivenNames x
    | with_reducible apply State.finish_kept
    | with_reducible apply State.discardBlocks_kept
    | with_reducible apply Kept.foldl

theorem State.phDecide_kept {s0 : State} {s : State} {p : Nat} {h' : Nat} {st : Nat} {g : Nat} {lastUse : W64} {gen : W32} (h : Kept s0 s) : Kept s0 (State.phDecide s p h' st g lastUse gen) := by
  unfold State.phDecide
  repeat' first
    | with_reducible assumption
    | (extract_lets +onlyGivenNames x; refine (fun (hx : Kept s0 x) => ?_) ?_; (on_goal 2 => unfold x; clear x); (on_goal 1 => clear_value x))
    | extract_lets +onlyGivenNames x
    | with_reducible apply Kept.ite
    | with_reducible apply State.phWrite_kept
    | with_reducible apply State.modPh_kept
    | with_reducible apply State.dispatch_kept
    | with_reducible apply State.phFree_kept
    | with_reducible apply State.phPlace_kept
    | with_reducible apply State.phResident_kept
    | with_reducible apply State.phEvict_kept
    | with_reducible apply State.phTo_kept
    | split

theorem State.agentRead_kept {s0 : State} {s : State} {p : Nat} {line : Nat} (h : Kept s0 s) : Kept s0 (State.agentRead s p line).2 := by
  unfold State.agentRead
  repeat' first
    | with_reducible assumption
    | (extract_lets +onlyGivenNames x; refine (fun (hx : Kept s0 x) => ?_) ?_; (on_goal 2 => unfold x; clear x); (on_goal 1 => clear_value x))
    | with_reducible apply State.closeFor_kept

theorem State.sendLine_kept {s0 : State} {s : State} {p : Nat} {line : Nat} (h : Kept s0 s) : Kept s0 (State.sendLine s p line) := by
  unfold State.sendLine
  repeat' first
    | with_reducible assumption
    | extract_lets +onlyGivenNames x
    | with_reducible apply Kept.ite
    | with_reducible apply State.agentRead_kept
    | with_reducible apply State.pairSendOn_kept
    | with_reducible apply State.pairSend_kept

theorem State.joinCopy_kept {s0 : State} {s : State} {p : Nat} (h : Kept s0 s) : Kept s0 (State.joinCopy s p) := by
  unfold State.joinCopy
  repeat' first
    | with_reducible assumption
    | (intro t b (ht : Kept s0 t))
    | extract_lets +onlyGivenNames x
    | with_reducible apply Kept.ite
    | with_reducible apply State.sendLine_kept
    | with_reducible apply Kept.foldl

theorem State.refuseJoin_kept {s0 : State} {s : State} {p : Nat} {detail : Nat} (h : Kept s0 s) : Kept s0 (State.refuseJoin s p detail) := by
  unfold State.refuseJoin
  repeat' first
    | with_reducible assumption
    | extract_lets +onlyGivenNames x
    | with_reducible apply State.joinFails_kept
    | with_reducible apply State.pairSend_kept

theorem State.beginJoin_kept {s0 : State} {s : State} {p : Nat} (h : Kept s0 s) : Kept s0 (State.beginJoin s p) := by
  unfold State.beginJoin
  repeat' first
    | with_reducible assumption
    | (extract_lets +onlyGivenNames x; refine (fun (hx : Kept s0 x) => ?_) ?_; (on_goal 2 => unfold x; clear x); (on_goal 1 => clear_value x))
    | (extract_lets +onlyGivenNames x; clear_value x)
    | extract_lets +onlyGivenNames x
    | with_reducible apply Kept.ite
    | with_reducible apply State.dropMirrored_kept
    | with_reducible apply State.setPair_kept
    | with_reducible apply State.setPairState_kept
    | with_reducible apply State.setField_kept
    | fail_if_no_progress with_reducible refine Kept.mk' ?_ rfl rfl rfl rfl rfl

theorem State.tryJoin_kept {s0 : State} {s : State} {p : Nat} (h : Kept s0 s) : Kept s0 (State.tryJoin s p) := by
  unfold State.tryJoin
  repeat' first
    | with_reducible assumption
    | (extract_lets +onlyGivenNames x; clear_value x)
    | extract_lets +onlyGivenNames x
    | with_reducible apply Kept.ite
    | with_reducible apply State.refuseJoin_kept
    | with_reducible apply State.joinFails_kept
    | with_reducible apply State.beginJoin_kept
    | split

theorem State.sendPlain_kept {s0 : State} {s : State} {l : Nat} {type : Nat} {fields : List Nat} (h : Kept s0 s) : Kept s0 (State.sendPlain s l type fields) := by
  unfold State.sendPlain
  repeat' first
    | with_reducible assumption
    | (extract_lets +onlyGivenNames x; clear_value x)
    | extract_lets +onlyGivenNames x
    | with_reducible apply State.sendPair_kept
    | with_reducible apply State.setPair_kept

theorem State.sendJoin_kept {s0 : State} {s : State} {p : Nat} (h : Kept s0 s) : Kept s0 (State.sendJoin s p) := by
  unfold State.sendJoin
  repeat' first
    | with_reducible assumption
    | (extract_lets +onlyGivenNames x; clear_value x)
    | with_reducible apply State.sendPlain_kept
    | split

theorem State.pairJoin_kept {s0 : State} {s : State} {k : Work} (h : Kept s0 s) : Kept s0 (State.pairJoin s k) := by
  unfold State.pairJoin
  repeat' first
    | with_reducible assumption
    | (extract_lets +onlyGivenNames x; refine (fun (hx : Kept s0 x) => ?_) ?_; (on_goal 2 => unfold x; clear x); (on_goal 1 => clear_value x))
    | (extract_lets +onlyGivenNames x; clear_value x)
    | extract_lets +onlyGivenNames x
    | with_reducible apply Kept.ite
    | with_reducible apply State.paramBlock_kept
    | with_reducible apply State.serve1_kept
    | with_reducible apply State.setPair_kept
    | with_reducible apply State.tryJoin_kept
    | with_reducible apply State.mgmtBegun_kept
    | with_reducible apply State.sendJoin_kept
    | split
    | (with_reducible eapply Kept.of_snd; focus assumption)

theorem execPairJoin_kept {s0 : State} {port : Fin 6} {s : State} (h : Kept s0 s) : KeptX s0 (execPairJoin port s) := by
  unfold execPairJoin
  repeat' first
    | with_reducible assumption
    | (intro t b (ht : Kept s0 t))
    | extract_lets +onlyGivenNames x
    | with_reducible apply KeptX.next
    | with_reducible apply State.onMgmt_kept
    | with_reducible apply State.pairJoin_kept

theorem execLeaseLost_kept {s0 : State} {p : Fin 6} {s : State} (h : Kept s0 s) : KeptX s0 (execLeaseLost p s) := by
  unfold execLeaseLost
  repeat' first
    | with_reducible assumption
    | (extract_lets +onlyGivenNames x; clear_value x)
    | extract_lets +onlyGivenNames x
    | with_reducible apply KeptX.next
    | with_reducible apply Kept.ite
    | with_reducible apply State.setPair_kept
    | with_reducible apply State.setBit_kept
    | with_reducible apply State.setPairState_kept

theorem State.joinCounts_kept {s0 : State} {s : State} {port : Nat} {c : JoinCounts} (h : Kept s0 s) : Kept s0 (State.joinCounts s port c) := by
  unfold State.joinCounts
  repeat' first
    | with_reducible assumption
    | (extract_lets +onlyGivenNames x; clear_value x)
    | with_reducible apply State.setMailbag_kept

theorem State.joinServed_kept {s0 : State} {s : State} {p : Nat} (h : Kept s0 s) : Kept s0 (State.joinServed s p) := by
  unfold State.joinServed
  repeat' first
    | with_reducible assumption
    | (extract_lets +onlyGivenNames x; refine (fun (hx : Kept s0 x) => ?_) ?_; (on_goal 2 => unfold x; clear x); (on_goal 1 => clear_value x))
    | (extract_lets +onlyGivenNames x; clear_value x)
    | extract_lets +onlyGivenNames x
    | with_reducible apply Kept.ite
    | with_reducible apply State.setPair_kept
    | with_reducible apply State.serve1_kept
    | with_reducible apply State.tailWordWrite_kept
    | with_reducible apply State.receiptOut_kept
    | split

theorem State.joinCopyDone_kept {s0 : State} {s : State} {p : Nat} {sent : JoinState} (h : Kept s0 s) : Kept s0 (State.joinCopyDone s p sent) := by
  unfold State.joinCopyDone
  repeat' first
    | with_reducible assumption
    | (intro t b (ht : Kept s0 t))
    | (extract_lets +onlyGivenNames x; refine (fun (hx : Kept s0 x) => ?_) ?_; (on_goal 2 => unfold x; clear x); (on_goal 1 => clear_value x))
    | (extract_lets +onlyGivenNames x; clear_value x)
    | extract_lets +onlyGivenNames x
    | with_reducible apply Kept.ite
    | with_reducible apply State.joinCounts_kept
    | with_reducible apply State.joinServed_kept
    | with_reducible apply State.setReg_kept
    | with_reducible apply State.joinHole_kept
    | with_reducible apply State.setPair_kept
    | with_reducible apply State.heard_kept
    | with_reducible apply State.setBit_kept
    | with_reducible apply State.setPairState_kept
    | with_reducible apply State.joinCopy_kept
    | with_reducible apply State.phTell_kept
    | with_reducible apply Kept.foldl

theorem execPhDecision_kept {s0 : State} {p : Fin 6} {seq : BitVec 64} {h' : Fin 64} {state : BitVec 3} {granule : BitVec 16} {lastUse : BitVec 64} {loadGen : BitVec 32} {s : State} (h : Kept s0 s) : KeptX s0 (execPhDecision p seq h' state granule lastUse loadGen s) := by
  unfold execPhDecision
  repeat' first
    | with_reducible assumption
    | (intro t (ht : Kept s0 t))
    | extract_lets +onlyGivenNames x
    | with_reducible apply KeptX.next
    | with_reducible apply Kept.ite
    | with_reducible apply State.onMsg_kept
    | with_reducible apply State.phDecide_kept

theorem State.journalOut_kept {s0 : State} {s : State} {port : Nat} {j : JournalWrite} (h : Kept s0 s) : Kept s0 (State.journalOut s port j) := by
  unfold State.journalOut
  repeat' first
    | with_reducible assumption
    | (extract_lets +onlyGivenNames x; refine (fun (hx : Kept s0 x) => ?_) ?_; (on_goal 2 => unfold x; clear x); (on_goal 1 => clear_value x))
    | with_reducible apply State.logDirty_kept
    | fail_if_no_progress with_reducible refine Kept.mk' ?_ rfl rfl rfl rfl rfl
    | split

theorem execFencedTimeout_kept {s0 : State} {p : Fin 6} {word : BitVec 64} {s : State} (h : Kept s0 s) : KeptX s0 (execFencedTimeout p word s) := by
  unfold execFencedTimeout
  repeat' first
    | with_reducible assumption
    | (extract_lets +onlyGivenNames x; clear_value x)
    | extract_lets +onlyGivenNames x
    | with_reducible apply KeptX.next
    | with_reducible apply Kept.ite
    | with_reducible apply State.unmute_kept

theorem State.writeLease_kept {s0 : State} {s : State} {p : Nat} (h : Kept s0 s) : Kept s0 (State.writeLease s p) := by
  unfold State.writeLease
  repeat' first
    | with_reducible assumption
    | (extract_lets +onlyGivenNames x; clear_value x)
    | extract_lets +onlyGivenNames x
    | with_reducible apply State.hidWrite_kept
    | with_reducible apply State.setPair_kept

theorem State.takeover_kept {s0 : State} {s : State} {p : Nat} (h : Kept s0 s) : Kept s0 (State.takeover s p) := by
  unfold State.takeover
  repeat' first
    | with_reducible assumption
    | (intro t b (ht : Kept s0 t))
    | (extract_lets +onlyGivenNames x; refine (fun (hx : Kept s0 x) => ?_) ?_; (on_goal 2 => unfold x; clear x); (on_goal 1 => clear_value x))
    | (extract_lets +onlyGivenNames x; clear_value x)
    | extract_lets +onlyGivenNames x
    | with_reducible apply Kept.ite
    | with_reducible apply State.writeLease_kept
    | with_reducible apply State.journalOut_kept
    | with_reducible apply State.setPort_kept
    | with_reducible apply State.setPair_kept
    | with_reducible apply State.setBit_kept
    | with_reducible apply State.goAlone_kept
    | with_reducible apply State.letIn_kept
    | with_reducible apply State.dispatch_kept
    | with_reducible apply State.progressAll_kept
    | with_reducible apply Kept.foldl

theorem execFailover_kept {s0 : State} {p : Fin 6} {seq : BitVec 64} {_fault : BitVec 32} {s : State} (h : Kept s0 s) : KeptX s0 (execFailover p seq _fault s) := by
  unfold execFailover
  repeat' first
    | with_reducible assumption
    | (intro t (ht : Kept s0 t))
    | extract_lets +onlyGivenNames x
    | with_reducible apply KeptX.next
    | with_reducible apply Kept.ite
    | with_reducible apply State.onMsg_kept
    | with_reducible apply State.takeover_kept
    | with_reducible apply State.pairSend_kept

theorem execPairHeartbeat_kept {s0 : State} {l : Fin 2} {_peerTime : BitVec 64} {s : State} (h : Kept s0 s) : KeptX s0 (execPairHeartbeat l _peerTime s) := by
  unfold execPairHeartbeat
  repeat' first
    | with_reducible assumption
    | (extract_lets +onlyGivenNames x; refine (fun (hx : Kept s0 x) => ?_) ?_; (on_goal 2 => unfold x; clear x); (on_goal 1 => clear_value x))
    | extract_lets +onlyGivenNames x
    | with_reducible apply KeptX.next
    | with_reducible apply Kept.ite
    | with_reducible apply State.heard_kept
    | with_reducible apply State.sendPlain_kept
    | fail_if_no_progress with_reducible refine Kept.mk' ?_ rfl rfl rfl rfl rfl

theorem State.receiptCovered_kept {s0 : State} {s : State} {p : Nat} {m : Nat} {rcount : W64} (h : Kept s0 s) : Kept s0 (State.receiptCovered s p m rcount) := by
  unfold State.receiptCovered
  repeat' first
    | with_reducible assumption
    | (extract_lets +onlyGivenNames x; refine (fun (hx : Kept s0 x) => ?_) ?_; (on_goal 2 => unfold x; clear x); (on_goal 1 => clear_value x))
    | (extract_lets +onlyGivenNames x; clear_value x)
    | extract_lets +onlyGivenNames x
    | with_reducible apply Kept.ite
    | with_reducible apply State.setMailbag_kept
    | with_reducible apply State.setPair_kept
    | with_reducible apply State.progressAll_kept
    | with_reducible apply State.letIn_kept
    | split

theorem execEntryAck_kept {s0 : State} {p : Fin 6} {seq : BitVec 64} {count : BitVec 64} {s : State} (h : Kept s0 s) : KeptX s0 (execEntryAck p seq count s) := by
  unfold execEntryAck
  repeat' first
    | with_reducible assumption
    | (intro t (ht : Kept s0 t))
    | extract_lets +onlyGivenNames x
    | with_reducible apply KeptX.next
    | with_reducible apply Kept.ite
    | with_reducible apply State.onMsg_kept
    | fail_if_no_progress with_reducible refine Kept.mk' ?_ rfl rfl rfl rfl rfl

theorem State.dropReceipts_kept {s0 : State} {s : State} {p : Nat} (h : Kept s0 s) : Kept s0 (State.dropReceipts s p) := by
  unfold State.dropReceipts
  repeat' first
    | with_reducible assumption
    | (intro t b (ht : Kept s0 t))
    | (extract_lets +onlyGivenNames x; clear_value x)
    | extract_lets +onlyGivenNames x
    | with_reducible apply Kept.ite
    | with_reducible apply State.setMailbag_kept
    | with_reducible apply Kept.foldl

theorem execLeasePoll_kept {s0 : State} {p : Fin 6} {word : BitVec 64} {s : State} (h : Kept s0 s) : KeptX s0 (execLeasePoll p word s) := by
  unfold execLeasePoll
  repeat' first
    | with_reducible assumption
    | (extract_lets +onlyGivenNames x; refine (fun (hx : Kept s0 x) => ?_) ?_; (on_goal 2 => unfold x; clear x); (on_goal 1 => clear_value x))
    | (extract_lets +onlyGivenNames x; clear_value x)
    | extract_lets +onlyGivenNames x
    | with_reducible apply KeptX.next
    | with_reducible apply Kept.ite
    | with_reducible apply State.setPair_kept
    | with_reducible apply State.detach_kept
    | with_reducible apply State.takeover_kept

theorem execPairAccept_kept {s0 : State} {p : Fin 6} {seq : BitVec 64} {s : State} (h : Kept s0 s) : KeptX s0 (execPairAccept p seq s) := by
  unfold execPairAccept
  repeat' first
    | with_reducible assumption
    | (intro t (ht : Kept s0 t))
    | (extract_lets +onlyGivenNames x; clear_value x)
    | extract_lets +onlyGivenNames x
    | with_reducible apply KeptX.next
    | with_reducible apply Kept.ite
    | with_reducible apply State.onMsg_kept
    | with_reducible apply State.dropReceipts_kept
    | with_reducible apply State.setPair_kept

theorem execReceipted_kept {s0 : State} {p : Fin 6} {seq : BitVec 64} {m : Fin 4096} {rcount : BitVec 64} {s : State} (h : Kept s0 s) : KeptX s0 (execReceipted p seq m rcount s) := by
  unfold execReceipted
  repeat' first
    | with_reducible assumption
    | (intro t (ht : Kept s0 t))
    | extract_lets +onlyGivenNames x
    | with_reducible apply KeptX.next
    | with_reducible apply Kept.ite
    | with_reducible apply State.onMsg_kept
    | with_reducible apply State.receiptCovered_kept

theorem execPairDigest_kept {s0 : State} {port : Fin 6} {s : State} (h : Kept s0 s) : KeptX s0 (execPairDigest port s) := by
  unfold execPairDigest
  repeat' first
    | with_reducible assumption
    | (intro t b (ht : Kept s0 t))
    | extract_lets +onlyGivenNames x
    | with_reducible apply KeptX.next
    | with_reducible apply State.onMgmt_kept
    | with_reducible apply State.pairDigest_kept

theorem State.pairLeave_kept {s0 : State} {s : State} {k : Work} (h : Kept s0 s) : Kept s0 (State.pairLeave s k) := by
  unfold State.pairLeave
  repeat' first
    | with_reducible assumption
    | (extract_lets +onlyGivenNames x; clear_value x)
    | extract_lets +onlyGivenNames x
    | with_reducible apply Kept.ite
    | with_reducible apply State.goAlone_kept
    | with_reducible apply State.sendWithdraw_kept
    | with_reducible apply State.serve1_kept
    | with_reducible apply State.detach_kept
    | with_reducible apply State.setPairState_kept
    | with_reducible apply State.dropMirrored_kept
    | split

theorem execPairLeave_kept {s0 : State} {port : Fin 6} {s : State} (h : Kept s0 s) : KeptX s0 (execPairLeave port s) := by
  unfold execPairLeave
  repeat' first
    | with_reducible assumption
    | (intro t b (ht : Kept s0 t))
    | extract_lets +onlyGivenNames x
    | with_reducible apply KeptX.next
    | with_reducible apply State.onMgmt_kept
    | with_reducible apply State.pairLeave_kept

theorem execPairStatus_kept {s0 : State} {port : Fin 6} {s : State} (h : Kept s0 s) : KeptX s0 (execPairStatus port s) := by
  unfold execPairStatus
  repeat' first
    | with_reducible assumption
    | (intro t b (ht : Kept s0 t))
    | (extract_lets +onlyGivenNames x; clear_value x)
    | extract_lets +onlyGivenNames x
    | with_reducible apply KeptX.next
    | with_reducible apply State.onMgmt_kept
    | with_reducible apply State.serve1_kept

theorem execJoinCopyDone_kept {s0 : State} {p : Fin 6} {sent : JoinState} {s : State} (h : Kept s0 s) : KeptX s0 (execJoinCopyDone p sent s) := by
  unfold execJoinCopyDone
  repeat' first
    | with_reducible assumption
    | extract_lets +onlyGivenNames x
    | with_reducible apply KeptX.next
    | with_reducible apply State.joinCopyDone_kept

theorem execPairEntry_kept {s0 : State} {p : Fin 6} {seq : BitVec 64} {m : Fin 4096} {entry : BitVec 512} {count : BitVec 64} {s : State} (h : Kept s0 s) : KeptX s0 (execPairEntry p seq m entry count s) := by
  unfold execPairEntry
  repeat' first
    | with_reducible assumption
    | (intro t (ht : Kept s0 t))
    | (extract_lets +onlyGivenNames x; clear_value x)
    | extract_lets +onlyGivenNames x
    | with_reducible apply KeptX.next
    | with_reducible apply Kept.ite
    | with_reducible apply State.onMsg_kept
    | with_reducible apply State.addWork_kept
    | with_reducible apply State.modWork_kept
    | with_reducible apply State.pairSend_kept
    | with_reducible apply State.setPair_kept

theorem execPairDone_kept {s0 : State} {p : Fin 6} {seq : BitVec 64} {m : Fin 4096} {entrySeq : BitVec 64} {outcome : BitVec 8} {fault : BitVec 32} {s : State} (h : Kept s0 s) : KeptX s0 (execPairDone p seq m entrySeq outcome fault s) := by
  unfold execPairDone
  repeat' first
    | with_reducible assumption
    | (intro t (ht : Kept s0 t))
    | (extract_lets +onlyGivenNames x; clear_value x)
    | extract_lets +onlyGivenNames x
    | with_reducible apply KeptX.next
    | with_reducible apply Kept.ite
    | with_reducible apply State.onMsg_kept
    | with_reducible apply State.setPair_kept

theorem execDigest_kept {s0 : State} {p : Fin 6} {seq : BitVec 64} {index : BitVec 32} {chunk : BitVec 32} {hash : BitVec 384} {s : State} (h : Kept s0 s) : KeptX s0 (execDigest p seq index chunk hash s) := by
  unfold execDigest
  repeat' first
    | with_reducible assumption
    | (intro t (ht : Kept s0 t))
    | (extract_lets +onlyGivenNames x; clear_value x)
    | extract_lets +onlyGivenNames x
    | with_reducible apply KeptX.next
    | with_reducible apply Kept.ite
    | with_reducible apply State.onMsg_kept
    | with_reducible apply State.compareDigest_kept
    | with_reducible apply State.setPair_kept

theorem execDigestResult_kept {s0 : State} {p : Fin 6} {seq : BitVec 64} {index : BitVec 32} {detail : BitVec 64} {s : State} (h : Kept s0 s) : KeptX s0 (execDigestResult p seq index detail s) := by
  unfold execDigestResult
  repeat' first
    | with_reducible assumption
    | (intro t (ht : Kept s0 t))
    | (extract_lets +onlyGivenNames x; refine (fun (hx : Kept s0 x) => ?_) ?_; (on_goal 2 => unfold x; clear x); (on_goal 1 => clear_value x))
    | extract_lets +onlyGivenNames x
    | with_reducible apply KeptX.next
    | with_reducible apply Kept.ite
    | with_reducible apply State.onMsg_kept
    | with_reducible apply State.digestDone_kept
    | with_reducible apply State.detach_kept
    | with_reducible apply State.setBit_kept

theorem execWithdraw_kept {s0 : State} {p : Fin 6} {seq : BitVec 64} {reason : BitVec 8} {s : State} (h : Kept s0 s) : KeptX s0 (execWithdraw p seq reason s) := by
  unfold execWithdraw
  repeat' first
    | with_reducible assumption
    | (intro t (ht : Kept s0 t))
    | (extract_lets +onlyGivenNames x; refine (fun (hx : Kept s0 x) => ?_) ?_; (on_goal 2 => unfold x; clear x); (on_goal 1 => clear_value x))
    | extract_lets +onlyGivenNames x
    | with_reducible apply KeptX.next
    | with_reducible apply Kept.ite
    | with_reducible apply State.onMsg_kept
    | with_reducible apply State.setBit_kept
    | with_reducible apply State.goAlone_kept
    | with_reducible apply State.standDown_kept
    | with_reducible apply State.joinFails_kept

theorem execPairJoinMsg_kept {s0 : State} {p : Fin 6} {msg : JoinMsg} {s : State} (h : Kept s0 s) : KeptX s0 (execPairJoinMsg p msg s) := by
  unfold execPairJoinMsg
  repeat' first
    | with_reducible assumption
    | (intro t (ht : Kept s0 t))
    | (extract_lets +onlyGivenNames x; clear_value x)
    | extract_lets +onlyGivenNames x
    | with_reducible apply KeptX.next
    | with_reducible apply State.onMsg_kept
    | with_reducible apply State.tryJoin_kept
    | with_reducible apply State.setPair_kept

theorem execPairMessageTagFail_kept {s0 : State} {p : Fin 6} {l : Fin 2} {s : State} (h : Kept s0 s) : KeptX s0 (execPairMessageTagFail p l s) := by
  unfold execPairMessageTagFail
  repeat' first
    | with_reducible assumption
    | (extract_lets +onlyGivenNames x; clear_value x)
    | extract_lets +onlyGivenNames x
    | with_reducible apply KeptX.next
    | with_reducible apply Kept.ite
    | with_reducible apply State.pairLinkDown_kept
    | with_reducible apply State.setBit_kept
    | with_reducible apply State.setPair_kept

theorem execPairLinkRetrain_kept {s0 : State} {l : Fin 2} {ev : PairTrain} {s : State} (h : Kept s0 s) : KeptX s0 (execPairLinkRetrain l ev s) := by
  unfold execPairLinkRetrain
  repeat' first
    | with_reducible assumption
    | extract_lets +onlyGivenNames x
    | with_reducible apply KeptX.next
    | with_reducible apply Kept.ite
    | with_reducible apply State.setBit_kept
    | with_reducible apply State.count_kept
    | with_reducible apply State.clearBit_kept
    | with_reducible apply State.pairLinkDown_kept
    | split

theorem execLeaseWrite_kept {s0 : State} {p : Fin 6} {s : State} (h : Kept s0 s) : KeptX s0 (execLeaseWrite p s) := by
  unfold execLeaseWrite
  repeat' first
    | with_reducible assumption
    | (extract_lets +onlyGivenNames x; refine (fun (hx : Kept s0 x) => ?_) ?_; (on_goal 2 => unfold x; clear x); (on_goal 1 => clear_value x))
    | (extract_lets +onlyGivenNames x; clear_value x)
    | extract_lets +onlyGivenNames x
    | with_reducible apply KeptX.next
    | with_reducible apply Kept.ite
    | with_reducible apply State.writeLease_kept
    | with_reducible apply State.setPair_kept

theorem execPairLinkUp_kept {s0 : State} {l : Fin 2} {partner : BitVec 384} {s : State} (h : Kept s0 s) : KeptX s0 (execPairLinkUp l partner s) := by
  unfold execPairLinkUp
  repeat' first
    | with_reducible assumption
    | (intro t b (ht : Kept s0 t))
    | (extract_lets +onlyGivenNames x; refine (fun (hx : Kept s0 x) => ?_) ?_; (on_goal 2 => unfold x; clear x); (on_goal 1 => clear_value x))
    | extract_lets +onlyGivenNames x
    | with_reducible apply KeptX.next
    | with_reducible apply Kept.ite
    | with_reducible apply State.setBit_kept
    | with_reducible apply State.setField_kept
    | with_reducible apply State.heard_kept
    | with_reducible apply State.setReg_kept
    | with_reducible apply Kept.foldl

end Sys2Proof.Machine
end

