-- ==== Sys2Proof/Laws/KeptLosses.lean ====
section
/-! SUPPORT. What the operations of Machine/Losses.lean keep. -/

namespace Sys2Proof.Machine

set_option linter.tactic.unusedName false

theorem State.loseCourses_kept {s0 : State} {s : State} {u : Nat} (h : Kept s0 s) : Kept s0 (State.loseCourses s u) := by
  unfold State.loseCourses
  repeat' first
    | with_reducible assumption
    | (intro t b (ht : Kept s0 t))
    | extract_lets +onlyGivenNames x
    | with_reducible apply State.setBit_kept
    | with_reducible apply State.setField_kept
    | with_reducible apply Kept.foldl

theorem State.loseMid_kept {s0 : State} {s : State} {m : Nat} (h : Kept s0 s) : Kept s0 (State.loseMid s m) := by
  unfold State.loseMid
  repeat' first
    | with_reducible assumption
    | extract_lets +onlyGivenNames x
    | with_reducible apply State.raise_kept
    | with_reducible apply State.loseCourses_kept

theorem State.loseHid_kept {s0 : State} {s : State} {h' : Nat} (h : Kept s0 s) : Kept s0 (State.loseHid s h') := by
  unfold State.loseHid
  repeat' first
    | with_reducible assumption
    | (intro t b (ht : Kept s0 t))
    | (extract_lets +onlyGivenNames x; refine (fun (hx : Kept s0 x) => ?_) ?_; (on_goal 2 => unfold x; clear x); (on_goal 1 => clear_value x))
    | (extract_lets +onlyGivenNames x; clear_value x)
    | extract_lets +onlyGivenNames x
    | with_reducible apply Kept.ite
    | with_reducible apply State.loseCourses_kept
    | with_reducible apply State.raise_kept
    | with_reducible apply State.linkLoss_kept
    | with_reducible apply State.pairLinkDown_kept
    | with_reducible apply Kept.foldl

theorem State.edgeDieLost_kept {s0 : State} {s : State} {u : Nat} (h : Kept s0 s) : Kept s0 (State.edgeDieLost s u) := by
  unfold State.edgeDieLost
  repeat' first
    | with_reducible assumption
    | (extract_lets +onlyGivenNames x; refine (fun (hx : Kept s0 x) => ?_) ?_; (on_goal 2 => unfold x; clear x); (on_goal 1 => clear_value x))
    | extract_lets +onlyGivenNames x
    | with_reducible apply Kept.ite
    | with_reducible apply State.loseMid_kept
    | with_reducible apply State.loseHid_kept
    | fail_if_no_progress with_reducible refine Kept.mk' ?_ rfl rfl rfl rfl rfl

theorem execRefclkLoss_kept {s0 : State} {unit : Fin 10} {s : State} (h : Kept s0 s) : KeptX s0 (execRefclkLoss unit s) := by
  unfold execRefclkLoss
  repeat' first
    | with_reducible assumption
    | extract_lets +onlyGivenNames x
    | with_reducible apply KeptX.next
    | with_reducible apply State.edgeDieLost_kept

theorem execEdgeDieLost_kept {s0 : State} {unit : Fin 10} {s : State} (h : Kept s0 s) : KeptX s0 (execEdgeDieLost unit s) := by
  unfold execEdgeDieLost
  repeat' first
    | with_reducible assumption
    | extract_lets +onlyGivenNames x
    | with_reducible apply KeptX.next
    | with_reducible apply State.edgeDieLost_kept

theorem execMgdLost_kept {s0 : State} {s : State} (h : Kept s0 s) : KeptX s0 (execMgdLost s) := by
  unfold execMgdLost
  repeat' first
    | with_reducible assumption
    | (extract_lets +onlyGivenNames x; refine (fun (hx : Kept s0 x) => ?_) ?_; (on_goal 2 => unfold x; clear x); (on_goal 1 => clear_value x))
    | (extract_lets +onlyGivenNames x; clear_value x)
    | extract_lets +onlyGivenNames x
    | with_reducible apply KeptX.next
    | with_reducible apply Kept.ite
    | with_reducible apply State.raise_kept
    | with_reducible apply State.loseCourses_kept
    | fail_if_no_progress with_reducible refine Kept.mk' ?_ rfl rfl rfl rfl rfl

end Sys2Proof.Machine
end

