-- ==== Sys2Proof/Laws/KeptStart.lean ====
section
/-! SUPPORT. What the operations of Machine/Start.lean keep. -/

namespace Sys2Proof.Machine

set_option linter.tactic.unusedName false

theorem State.panelReset_kept {s0 : State} {s : State} {cause : Nat} {shell : Shell} (h : Kept s0 s) : Kept s0 (State.panelReset s cause shell) := by
  unfold State.panelReset
  apply State.setReg_kept
  exact ⟨h.queue, h.orderD, h.debugBlown, h.identity, h.secMin, h.hbm, h.far, fun _ => rfl⟩

theorem execModReset_kept {s0 : State} {s : State} (h : Kept s0 s) : KeptX s0 (execModReset s) := by
  unfold execModReset
  repeat' first
    | with_reducible assumption
    | (extract_lets +onlyGivenNames x; clear_value x)
    | extract_lets +onlyGivenNames x
    | with_reducible apply KeptX.next
    | with_reducible apply State.panelReset_kept

theorem State.trainStack_kept {s0 : State} {s : State} {g : Nat} {failed : Bool} {lanes : List (Nat × Nat)} (h : Kept s0 s) : Kept s0 (State.trainStack s g failed lanes) := by
  unfold State.trainStack
  repeat' first
    | with_reducible assumption
    | (extract_lets +onlyGivenNames x; clear_value x)
    | extract_lets +onlyGivenNames x
    | with_reducible apply Kept.ite
    | with_reducible apply State.setBit_kept
    | with_reducible apply State.setField_kept
    | with_reducible apply State.setMid_kept

theorem State.portUp_kept {s0 : State} {s : State} {port : Nat} (h : Kept s0 s) : Kept s0 (State.portUp s port) := by
  unfold State.portUp
  repeat' first
    | with_reducible assumption
    | (extract_lets +onlyGivenNames x; refine (fun (hx : Kept s0 x) => ?_) ?_; (on_goal 2 => unfold x; clear x); (on_goal 1 => clear_value x))
    | (extract_lets +onlyGivenNames x; clear_value x)
    | extract_lets +onlyGivenNames x
    | with_reducible apply Kept.ite
    | with_reducible apply State.setPort_kept
    | with_reducible apply State.setBit_kept

theorem State.portsLive_kept {s0 : State} {s : State} (h : Kept s0 s) : Kept s0 (State.portsLive s) := by
  unfold State.portsLive
  repeat' first
    | with_reducible assumption
    | (intro t b (ht : Kept s0 t))
    | (extract_lets +onlyGivenNames x; refine (fun (hx : Kept s0 x) => ?_) ?_; (on_goal 2 => unfold x; clear x); (on_goal 1 => clear_value x))
    | (extract_lets +onlyGivenNames x; clear_value x)
    | extract_lets +onlyGivenNames x
    | with_reducible apply State.setField_kept
    | with_reducible apply State.portUp_kept
    | with_reducible apply State.setPort_kept
    | with_reducible apply Kept.foldl

theorem execStartEdgeDone_kept {s0 : State} {s : State} (h : Kept s0 s) : KeptX s0 (execStartEdgeDone s) := by
  unfold execStartEdgeDone
  repeat' first
    | with_reducible assumption
    | extract_lets +onlyGivenNames x
    | with_reducible apply KeptX.next
    | with_reducible apply Kept.ite
    | with_reducible apply State.doStep_kept
    | with_reducible apply State.portsLive_kept

theorem State.closeSwitch_kept {s0 : State} {s : State} (h : Kept s0 s) : Kept s0 (State.closeSwitch s) := by
  unfold State.closeSwitch
  repeat' first
    | with_reducible assumption
    | (extract_lets +onlyGivenNames x; clear_value x)
    | extract_lets +onlyGivenNames x
    | with_reducible apply Kept.ite
    | fail_if_no_progress with_reducible refine Kept.mk' ?_ rfl rfl rfl rfl rfl

theorem execPrechargeDone_kept {s0 : State} {s : State} (h : Kept s0 s) : KeptX s0 (execPrechargeDone s) := by
  unfold execPrechargeDone
  repeat' first
    | with_reducible assumption
    | (extract_lets +onlyGivenNames x; clear_value x)
    | extract_lets +onlyGivenNames x
    | with_reducible apply KeptX.next
    | with_reducible apply Kept.ite
    | with_reducible apply State.closeSwitch_kept
    | fail_if_no_progress with_reducible refine Kept.mk' ?_ rfl rfl rfl rfl rfl

theorem execModPresentRemoved_kept {s0 : State} {s : State} (h : Kept s0 s) : KeptX s0 (execModPresentRemoved s) := by
  unfold execModPresentRemoved
  repeat' first
    | with_reducible assumption
    | (extract_lets +onlyGivenNames x; clear_value x)
    | extract_lets +onlyGivenNames x
    | with_reducible apply KeptX.next
    | with_reducible apply State.panelReset_kept

theorem State.precharge_kept {s0 : State} {s : State} (h : Kept s0 s) : Kept s0 (State.precharge s) := by
  unfold State.precharge
  repeat' first
    | with_reducible assumption
    | (extract_lets +onlyGivenNames x; clear_value x)
    | fail_if_no_progress with_reducible refine Kept.mk' ?_ rfl rfl rfl rfl rfl

theorem execPrechargeHoldoffEnd_kept {s0 : State} {s : State} (h : Kept s0 s) : KeptX s0 (execPrechargeHoldoffEnd s) := by
  unfold execPrechargeHoldoffEnd
  repeat' first
    | with_reducible assumption
    | (extract_lets +onlyGivenNames x; clear_value x)
    | extract_lets +onlyGivenNames x
    | with_reducible apply KeptX.next
    | with_reducible apply Kept.ite
    | with_reducible apply State.precharge_kept
    | fail_if_no_progress with_reducible refine Kept.mk' ?_ rfl rfl rfl rfl rfl

theorem execStartPostmasterDone_kept {s0 : State} {s : State} (h : Kept s0 s) : KeptX s0 (execStartPostmasterDone s) := by
  unfold execStartPostmasterDone
  repeat' first
    | with_reducible assumption
    | (extract_lets +onlyGivenNames x; clear_value x)
    | extract_lets +onlyGivenNames x
    | with_reducible apply KeptX.next
    | with_reducible apply Kept.ite
    | with_reducible apply State.doStep_kept
    | fail_if_no_progress with_reducible refine Kept.mk' ?_ rfl rfl rfl rfl rfl

theorem State.censusSector_kept {s0 : State} {s : State} {k : Nat} (h : Kept s0 s) : Kept s0 (State.censusSector s k) := by
  unfold State.censusSector
  repeat' first
    | with_reducible assumption
    | (intro t b (ht : Kept s0 t))
    | (extract_lets +onlyGivenNames x; clear_value x)
    | extract_lets +onlyGivenNames x
    | with_reducible apply Kept.ite
    | with_reducible apply State.setBit_kept
    | with_reducible apply State.assignSpare_kept
    | with_reducible apply Kept.foldl
    | split

theorem State.censusBand_kept {s0 : State} {s : State} {b : Nat} (h : Kept s0 s) : Kept s0 (State.censusBand s b) := by
  unfold State.censusBand
  repeat' first
    | with_reducible assumption
    | (intro t b (ht : Kept s0 t))
    | extract_lets +onlyGivenNames x
    | with_reducible apply State.censusSector_kept
    | with_reducible apply Kept.foldl

theorem execPerstRelease_kept {s0 : State} {port : Fin 6} {s : State} (h : Kept s0 s) : KeptX s0 (execPerstRelease port s) := by
  unfold execPerstRelease
  repeat' first
    | with_reducible assumption
    | (extract_lets +onlyGivenNames x; clear_value x)
    | extract_lets +onlyGivenNames x
    | with_reducible apply KeptX.next
    | with_reducible apply Kept.ite
    | with_reducible apply State.portUp_kept
    | with_reducible apply State.setPort_kept

theorem State.startCount_kept {s0 : State} {s : State} (h : Kept s0 s) : Kept s0 (State.startCount s) := by
  unfold State.startCount
  repeat' first
    | with_reducible assumption
    | (extract_lets +onlyGivenNames x; clear_value x)
    | fail_if_no_progress with_reducible refine Kept.mk' ?_ rfl rfl rfl rfl rfl

theorem execTimebaseLock_kept {s0 : State} {s : State} (h : Kept s0 s) : KeptX s0 (execTimebaseLock s) := by
  unfold execTimebaseLock
  repeat' first
    | with_reducible assumption
    | (extract_lets +onlyGivenNames x; refine (fun (hx : Kept s0 x) => ?_) ?_; (on_goal 2 => unfold x; clear x); (on_goal 1 => clear_value x))
    | (extract_lets +onlyGivenNames x; clear_value x)
    | extract_lets +onlyGivenNames x
    | with_reducible apply KeptX.next
    | with_reducible apply Kept.ite
    | with_reducible apply State.doStep_kept
    | with_reducible apply State.setBit_kept
    | with_reducible apply State.startCount_kept
    | with_reducible apply State.clearBit_kept
    | fail_if_no_progress with_reducible refine Kept.mk' ?_ rfl rfl rfl rfl rfl

theorem execPrechargeBegin_kept {s0 : State} {s : State} (h : Kept s0 s) : KeptX s0 (execPrechargeBegin s) := by
  unfold execPrechargeBegin
  repeat' first
    | with_reducible assumption
    | (extract_lets +onlyGivenNames x; clear_value x)
    | extract_lets +onlyGivenNames x
    | with_reducible apply KeptX.next
    | with_reducible apply Kept.ite
    | with_reducible apply State.precharge_kept
    | fail_if_no_progress with_reducible refine Kept.mk' ?_ rfl rfl rfl rfl rfl

theorem execHbmTrainingDone_kept {s0 : State} {failed : BitVec 32} {lanes : List (Fin 32 × Fin 32 × Fin 32)} {s : State} (h : Kept s0 s) : KeptX s0 (execHbmTrainingDone failed lanes s) := by
  unfold execHbmTrainingDone
  repeat' first
    | with_reducible assumption
    | (intro t b (ht : Kept s0 t))
    | extract_lets +onlyGivenNames x
    | with_reducible apply KeptX.next
    | with_reducible apply Kept.ite
    | with_reducible apply State.doStep_kept
    | with_reducible apply State.trainStack_kept
    | with_reducible apply Kept.foldl

theorem State.censusSite_kept {s0 : State} {s : State} {site : Nat} (h : Kept s0 s) : Kept s0 (State.censusSite s site) := by
  unfold State.censusSite
  repeat' first
    | with_reducible assumption
    | (extract_lets +onlyGivenNames x; clear_value x)
    | extract_lets +onlyGivenNames x
    | with_reducible apply Kept.ite
    | with_reducible apply State.setReg_kept
    | with_reducible apply State.retireDie_kept
    | with_reducible apply State.setBit_kept

theorem execCensus_kept {s0 : State} {s : State} (h : Kept s0 s) : KeptX s0 (execCensus s) := by
  unfold execCensus
  repeat' first
    | with_reducible assumption
    | (intro t b (ht : Kept s0 t))
    | (extract_lets +onlyGivenNames x; refine (fun (hx : Kept s0 x) => ?_) ?_; (on_goal 2 => unfold x; clear x); (on_goal 1 => clear_value x))
    | (extract_lets +onlyGivenNames x; clear_value x)
    | extract_lets +onlyGivenNames x
    | with_reducible apply KeptX.next
    | with_reducible apply Kept.ite
    | with_reducible apply State.censusSite_kept
    | with_reducible apply State.censusBand_kept
    | with_reducible apply State.invalidateDie_kept
    | with_reducible apply State.doStep_kept
    | with_reducible apply State.setBit_kept
    | fail_if_no_progress with_reducible refine Kept.mk' ?_ rfl rfl rfl rfl rfl
    | with_reducible apply Kept.foldl

theorem execConverterEnable_kept {s0 : State} {s : State} (h : Kept s0 s) : KeptX s0 (execConverterEnable s) := by
  unfold execConverterEnable
  repeat' first
    | with_reducible assumption
    | (extract_lets +onlyGivenNames x; clear_value x)
    | extract_lets +onlyGivenNames x
    | with_reducible apply KeptX.next
    | with_reducible apply Kept.ite
    | fail_if_no_progress with_reducible refine Kept.mk' ?_ rfl rfl rfl rfl rfl

theorem execPanelReady_kept {s0 : State} {s : State} (h : Kept s0 s) : KeptX s0 (execPanelReady s) := by
  unfold execPanelReady
  repeat' first
    | with_reducible assumption
    | (intro t b (ht : Kept s0 t))
    | extract_lets +onlyGivenNames x
    | with_reducible apply KeptX.next
    | with_reducible apply Kept.ite
    | with_reducible apply State.setBit_kept
    | with_reducible apply State.doStep_kept
    | with_reducible apply Kept.foldl

theorem execModuleSeated_kept {s0 : State} {s : State} (h : Kept s0 s) : KeptX s0 (execModuleSeated s) := by
  unfold execModuleSeated
  repeat' first
    | with_reducible assumption
    | (extract_lets +onlyGivenNames x; clear_value x)
    | extract_lets +onlyGivenNames x
    | with_reducible apply KeptX.next
    | with_reducible apply State.closeSwitch_kept
    | fail_if_no_progress with_reducible refine Kept.mk' ?_ rfl rfl rfl rfl rfl

theorem execStartTrustDone_kept {s0 : State} {image : Image} {s : State} (h : Kept s0 s) : KeptX s0 (execStartTrustDone image s) := by
  unfold execStartTrustDone
  repeat' first
    | with_reducible assumption
    | extract_lets +onlyGivenNames x
    | with_reducible apply KeptX.next
    | with_reducible apply Kept.ite
    | with_reducible apply State.portsLive_kept
    | with_reducible apply State.setBit_kept
    | with_reducible apply State.draw_kept
    | with_reducible apply State.measure_kept
    | with_reducible apply State.doStep_kept
    | fail_if_no_progress with_reducible refine Kept.mkTrust ?_ rfl rfl rfl rfl rfl rfl rfl rfl

theorem execTbHoldoverStart_kept {s0 : State} {s : State} (h : Kept s0 s) : KeptX s0 (execTbHoldoverStart s) := by
  unfold execTbHoldoverStart
  repeat' first
    | with_reducible assumption
    | extract_lets +onlyGivenNames x
    | with_reducible apply KeptX.next
    | with_reducible apply Kept.ite
    | with_reducible apply State.doStep_kept
    | with_reducible apply State.setBit_kept
    | with_reducible apply State.refLost_kept
    | with_reducible apply State.startCount_kept

theorem execStartFarDone_kept {s0 : State} {s : State} (h : Kept s0 s) : KeptX s0 (execStartFarDone s) := by
  unfold execStartFarDone
  repeat' first
    | with_reducible assumption
    | (extract_lets +onlyGivenNames x; clear_value x)
    | extract_lets +onlyGivenNames x
    | with_reducible apply KeptX.next
    | with_reducible apply Kept.ite
    | with_reducible apply State.doStep_kept
    | with_reducible apply State.setBit_kept

theorem execTuningDone_kept {s0 : State} {fails : List LaneFail} {s : State} (h : Kept s0 s) : KeptX s0 (execTuningDone fails s) := by
  unfold execTuningDone
  repeat' first
    | with_reducible assumption
    | (intro t b (ht : Kept s0 t))
    | (extract_lets +onlyGivenNames x; refine (fun (hx : Kept s0 x) => ?_) ?_; (on_goal 2 => unfold x; clear x); (on_goal 1 => clear_value x))
    | (extract_lets +onlyGivenNames x; clear_value x)
    | extract_lets +onlyGivenNames x
    | with_reducible apply KeptX.next
    | with_reducible apply Kept.ite
    | with_reducible apply State.tuneSite_kept
    | with_reducible apply State.syncCourse_kept
    | with_reducible apply State.doStep_kept
    | fail_if_no_progress with_reducible refine Kept.mk' ?_ rfl rfl rfl rfl rfl
    | with_reducible apply Kept.foldl

theorem execPanelStart_kept {s0 : State} {s : State} (h : Kept s0 s) : KeptX s0 (execPanelStart s) := by
  unfold execPanelStart
  repeat' first
    | with_reducible assumption
    | (extract_lets +onlyGivenNames x; clear_value x)
    | extract_lets +onlyGivenNames x
    | with_reducible apply KeptX.next
    | with_reducible apply Kept.ite
    | fail_if_no_progress with_reducible refine Kept.mk' ?_ rfl rfl rfl rfl rfl

theorem execSiteTestDone_kept {s0 : State} {pass : BitVec 108} {s : State} (h : Kept s0 s) : KeptX s0 (execSiteTestDone pass s) := by
  unfold execSiteTestDone
  repeat' first
    | with_reducible assumption
    | (intro t b (ht : Kept s0 t))
    | (extract_lets +onlyGivenNames x; refine (fun (hx : Kept s0 x) => ?_) ?_; (on_goal 2 => unfold x; clear x); (on_goal 1 => clear_value x))
    | (extract_lets +onlyGivenNames x; clear_value x)
    | extract_lets +onlyGivenNames x
    | with_reducible apply KeptX.next
    | with_reducible apply Kept.ite
    | with_reducible apply State.doStep_kept
    | with_reducible apply State.setBit_kept
    | fail_if_no_progress with_reducible refine Kept.mk' ?_ rfl rfl rfl rfl rfl
    | with_reducible apply Kept.foldl

theorem execStartMarginDone_kept {s0 : State} {reports : List MarginRep} {s : State} (h : Kept s0 s) : KeptX s0 (execStartMarginDone reports s) := by
  unfold execStartMarginDone
  repeat' first
    | with_reducible assumption
    | (intro t b (ht : Kept s0 t))
    | extract_lets +onlyGivenNames x
    | with_reducible apply KeptX.next
    | with_reducible apply Kept.ite
    | with_reducible apply State.doStep_kept
    | with_reducible apply State.nextRetune_kept
    | with_reducible apply State.reportsOut_kept
    | with_reducible apply State.report_kept
    | with_reducible apply Kept.foldl

theorem execInputOutOfRange_kept {s0 : State} {high : Bool} {s : State} (h : Kept s0 s) : KeptX s0 (execInputOutOfRange high s) := by
  unfold execInputOutOfRange
  repeat' first
    | with_reducible assumption
    | (extract_lets +onlyGivenNames x; clear_value x)
    | extract_lets +onlyGivenNames x
    | with_reducible apply KeptX.next
    | with_reducible apply State.panelReset_kept

theorem execSetdasa_kept {s0 : State} {target : Fin 2} {addr : BitVec 7} {s : State} (h : Kept s0 s) : KeptX s0 (execSetdasa target addr s) := by
  unfold execSetdasa
  repeat' first
    | with_reducible assumption
    | (extract_lets +onlyGivenNames x; clear_value x)
    | extract_lets +onlyGivenNames x
    | with_reducible apply KeptX.next
    | fail_if_no_progress with_reducible refine Kept.mk' ?_ rfl rfl rfl rfl rfl

end Sys2Proof.Machine
end

