-- ==== Sys2Proof/Laws/KeptFarPorts.lean ====
section
/-! SUPPORT. What the operations of Machine/FarPorts.lean keep. -/

namespace Sys2Proof.Machine

set_option linter.tactic.unusedName false

theorem State.farRelease_kept {s0 : State} {s : State} {k : Work} (h : Kept s0 s) : Kept s0 (State.farRelease s k) := by
  unfold State.farRelease
  repeat' first
    | with_reducible assumption
    | (extract_lets +onlyGivenNames x; clear_value x)
    | extract_lets +onlyGivenNames x
    | with_reducible apply Kept.ite
    | with_reducible apply State.farOperand_kept
    | with_reducible apply State.serve1_kept
    | with_reducible apply State.mgmtBegun_kept
    | with_reducible apply State.setMid_kept
    | split
    | (with_reducible eapply Kept.of_snd; focus assumption)

theorem State.releaseSliceLines_kept {s0 : State} {s : State} {p : Nat} {port : Nat} {d : Nat} (h : Kept s0 s) : Kept s0 (State.releaseSliceLines s p port d) := by
  unfold State.releaseSliceLines
  repeat' first
    | with_reducible assumption
    | (intro t b (ht : Kept s0 t))
    | (extract_lets +onlyGivenNames x; refine (fun (hx : Kept s0 x) => ?_) ?_; (on_goal 2 => unfold x; clear x); (on_goal 1 => clear_value x))
    | (extract_lets +onlyGivenNames x; clear_value x)
    | extract_lets +onlyGivenNames x
    | with_reducible apply Kept.ite
    | with_reducible apply State.closeSum_kept
    | with_reducible apply State.evictLine_kept
    | with_reducible apply State.setSlice_kept
    | with_reducible apply Kept.foldl

theorem State.releaseArrayLines_kept {s0 : State} {s : State} {p : Nat} {port : Nat} {ga : Nat} (h : Kept s0 s) : Kept s0 (State.releaseArrayLines s p port ga) := by
  unfold State.releaseArrayLines
  repeat' first
    | with_reducible assumption
    | (intro t b (ht : Kept s0 t))
    | (extract_lets +onlyGivenNames x; refine (fun (hx : Kept s0 x) => ?_) ?_; (on_goal 2 => unfold x; clear x); (on_goal 1 => clear_value x))
    | (extract_lets +onlyGivenNames x; clear_value x)
    | extract_lets +onlyGivenNames x
    | with_reducible apply Kept.ite
    | with_reducible apply State.l1Count_kept
    | with_reducible apply State.updateLine_kept
    | with_reducible apply State.setArr_kept
    | with_reducible apply Kept.foldl

theorem State.releaseDies_kept {s0 : State} {s : State} {p : Nat} {port : Nat} {dies : List Nat} (h : Kept s0 s) : Kept s0 (State.releaseDies s p port dies) := by
  unfold State.releaseDies
  repeat' first
    | with_reducible assumption
    | (intro t b (ht : Kept s0 t))
    | (extract_lets +onlyGivenNames x; refine (fun (hx : Kept s0 x) => ?_) ?_; (on_goal 2 => unfold x; clear x); (on_goal 1 => clear_value x))
    | extract_lets +onlyGivenNames x
    | with_reducible apply State.releaseArrayLines_kept
    | with_reducible apply State.serveFar_kept
    | with_reducible apply State.releaseSliceLines_kept
    | with_reducible apply Kept.foldl

theorem State.releaseNext_kept {s0 : State} {s : State} {p : Nat} {port : Nat} {id : Nat} {x0 : List Nat} (h : Kept s0 s) : Kept s0 (State.releaseNext s p port id x0) := by
  unfold State.releaseNext
  repeat' first
    | with_reducible assumption
    | (extract_lets +onlyGivenNames x; refine (fun (hx : Kept s0 x) => ?_) ?_; (on_goal 2 => unfold x; clear x); (on_goal 1 => clear_value x))
    | (extract_lets +onlyGivenNames x; clear_value x)
    | extract_lets +onlyGivenNames x
    | with_reducible apply State.progressAll_kept
    | with_reducible apply State.releaseDies_kept
    | with_reducible apply State.setMid_kept
    | with_reducible apply State.serve1_kept
    | with_reducible apply State.setBit_kept
    | split

theorem State.endRelease_kept {s0 : State} {s : State} {j : Nat} (h : Kept s0 s) : Kept s0 (State.endRelease s j) := by
  unfold State.endRelease
  repeat' first
    | with_reducible assumption
    | (extract_lets +onlyGivenNames x; clear_value x)
    | extract_lets +onlyGivenNames x
    | with_reducible apply State.serve1_kept
    | with_reducible apply State.setMid_kept
    | split

theorem execFarRelease_kept {s0 : State} {port : Fin 6} {s : State} (h : Kept s0 s) : KeptX s0 (execFarRelease port s) := by
  unfold execFarRelease
  repeat' first
    | with_reducible assumption
    | (intro t b (ht : Kept s0 t))
    | extract_lets +onlyGivenNames x
    | with_reducible apply KeptX.next
    | with_reducible apply Kept.ite
    | with_reducible apply State.releaseNext_kept
    | with_reducible apply State.onMgmt_kept
    | with_reducible apply State.farRelease_kept
    | split

theorem State.insertExpander_kept {s0 : State} {s : State} {j : Nat} {e : Expander} (h : Kept s0 s) : Kept s0 (State.insertExpander s j e) := by
  unfold State.insertExpander
  repeat' first
    | with_reducible assumption
    | (extract_lets +onlyGivenNames x; refine (fun (hx : Kept s0 x) => ?_) ?_; (on_goal 2 => unfold x; clear x); (on_goal 1 => clear_value x))
    | (extract_lets +onlyGivenNames x; clear_value x)
    | extract_lets +onlyGivenNames x
    | with_reducible apply Kept.ite
    | with_reducible apply State.setBit_kept
    | with_reducible apply State.setReg_kept
    | fail_if_no_progress with_reducible refine Kept.mk' ?_ rfl rfl rfl rfl rfl

theorem execExpanderInserted_kept {s0 : State} {port : Fin 8} {dev : Expander} {s : State} (h : Kept s0 s) : KeptX s0 (execExpanderInserted port dev s) := by
  unfold execExpanderInserted
  repeat' first
    | with_reducible assumption
    | extract_lets +onlyGivenNames x
    | with_reducible apply KeptX.next
    | with_reducible apply Kept.ite
    | with_reducible apply State.insertExpander_kept

theorem State.dropFar_kept {s0 : State} {s : State} {j : Nat} (h : Kept s0 s) : Kept s0 (State.dropFar s j) := by
  unfold State.dropFar
  repeat' first
    | with_reducible assumption
    | (extract_lets +onlyGivenNames x; refine (fun (hx : Kept s0 x) => ?_) ?_; (on_goal 2 => unfold x; clear x); (on_goal 1 => clear_value x))
    | (extract_lets +onlyGivenNames x; clear_value x)
    | extract_lets +onlyGivenNames x
    | with_reducible apply State.setMid_kept
    | with_reducible refine Kept.mkFar ?_ rfl rfl rfl (fun w => ?_) rfl
    | (with_reducible apply Mem.clear_wf; assumption)

theorem execExpanderRemoved_kept {s0 : State} {port : Fin 8} {s : State} (h : Kept s0 s) : KeptX s0 (execExpanderRemoved port s) := by
  unfold execExpanderRemoved
  repeat' first
    | with_reducible assumption
    | (extract_lets +onlyGivenNames x; refine (fun (hx : Kept s0 x) => ?_) ?_; (on_goal 2 => unfold x; clear x); (on_goal 1 => clear_value x))
    | (extract_lets +onlyGivenNames x; clear_value x)
    | extract_lets +onlyGivenNames x
    | with_reducible apply KeptX.next
    | with_reducible apply Kept.ite
    | with_reducible apply State.setBit_kept
    | with_reducible apply State.setField_kept
    | with_reducible apply State.setMid_kept
    | with_reducible apply State.farDown_kept
    | with_reducible apply State.endRelease_kept
    | with_reducible apply State.dropFar_kept
    | with_reducible apply State.setReg_kept
    | fail_if_no_progress with_reducible refine Kept.mk' ?_ rfl rfl rfl rfl rfl

theorem State.farAttach_kept {s0 : State} {s : State} {k : Work} (h : Kept s0 s) : Kept s0 (State.farAttach s k) := by
  unfold State.farAttach
  repeat' first
    | with_reducible assumption
    | (extract_lets +onlyGivenNames x; refine (fun (hx : Kept s0 x) => ?_) ?_; (on_goal 2 => unfold x; clear x); (on_goal 1 => clear_value x))
    | (extract_lets +onlyGivenNames x; clear_value x)
    | extract_lets +onlyGivenNames x
    | with_reducible apply Kept.ite
    | with_reducible apply State.farOperand_kept
    | with_reducible apply State.serve1_kept
    | with_reducible apply State.setMid_kept
    | with_reducible apply State.clearBit_kept
    | split
    | (with_reducible eapply Kept.of_snd; focus assumption)

theorem execFarAttach_kept {s0 : State} {port : Fin 6} {s : State} (h : Kept s0 s) : KeptX s0 (execFarAttach port s) := by
  unfold execFarAttach
  repeat' first
    | with_reducible assumption
    | (intro t b (ht : Kept s0 t))
    | extract_lets +onlyGivenNames x
    | with_reducible apply KeptX.next
    | with_reducible apply State.onMgmt_kept
    | with_reducible apply State.farAttach_kept

end Sys2Proof.Machine
end

