-- ==== Sys2Proof/Laws/KeptDebug.lean ====
section
/-! SUPPORT. What the operations of Machine/Debug.lean keep. -/

namespace Sys2Proof.Machine

set_option linter.tactic.unusedName false

theorem State.onDebug_kept {s0 : State} {s : State} {p : Nat} {op : Nat} {seq : W64} {tagOk : Bool} {right : Option Nat} {f : State → State} (h : Kept s0 s) (hf : ∀ t , Kept s0 t → Kept s0 (f t)) : Kept s0 (State.onDebug s p op seq tagOk right f) := by
  unfold State.onDebug
  repeat' first
    | with_reducible assumption
    | (extract_lets +onlyGivenNames x; refine (fun (hx : Kept s0 x) => ?_) ?_; (on_goal 2 => unfold x; clear x); (on_goal 1 => clear_value x))
    | (extract_lets +onlyGivenNames x; clear_value x)
    | extract_lets +onlyGivenNames x
    | with_reducible apply Kept.ite
    | with_reducible apply State.reply_kept
    | with_reducible apply State.setDbg_kept
    | with_reducible apply hf
    | split

theorem State.haltReply_kept {s0 : State} {s : State} {p : Nat} {op : Nat} {groups : List (Nat × Nat)} {data : List Nat} (h : Kept s0 s) : Kept s0 (State.haltReply s p op groups data) := by
  unfold State.haltReply
  repeat' first
    | with_reducible assumption
    | (extract_lets +onlyGivenNames x; clear_value x)
    | extract_lets +onlyGivenNames x
    | with_reducible apply Kept.ite
    | with_reducible apply State.reply_kept
    | with_reducible apply State.setDbg_kept

theorem State.haltLaunch_kept {s0 : State} {s : State} {p : Nat} {m : Nat} {seq : W64} (h : Kept s0 s) : Kept s0 (State.haltLaunch s p m seq) := by
  unfold State.haltLaunch
  repeat' first
    | with_reducible assumption
    | (intro t b (ht : Kept s0 t))
    | (extract_lets +onlyGivenNames x; refine (fun (hx : Kept s0 x) => ?_) ?_; (on_goal 2 => unfold x; clear x); (on_goal 1 => clear_value x))
    | (extract_lets +onlyGivenNames x; clear_value x)
    | extract_lets +onlyGivenNames x
    | with_reducible apply Kept.ite
    | with_reducible apply State.reply_kept
    | with_reducible apply State.setDbg_kept
    | with_reducible apply State.dbgEvent_kept
    | with_reducible apply State.holdGroup_kept
    | with_reducible apply State.haltReply_kept
    | with_reducible apply Kept.foldl
    | split

theorem execHaltLaunch_kept {s0 : State} {p : Fin 6} {seq : BitVec 64} {tagOk : Bool} {m : BitVec 16} {entrySeq : BitVec 64} {s : State} (h : Kept s0 s) : KeptX s0 (execHaltLaunch p seq tagOk m entrySeq s) := by
  unfold execHaltLaunch
  repeat' first
    | with_reducible assumption
    | (intro t (ht : Kept s0 t))
    | extract_lets +onlyGivenNames x
    | with_reducible apply KeptX.next
    | with_reducible apply State.onDebug_kept
    | with_reducible apply State.haltLaunch_kept

theorem State.onDbgTile_kept {s0 : State} {s : State} {p : Nat} {op : Nat} {t : DbgTile} {f : State → Tile → Block → State} (h : Kept s0 s) (hf : ∀ t y0 y1, Kept s0 t → Kept s0 (f t y0 y1)) : Kept s0 (State.onDbgTile s p op t f) := by
  unfold State.onDbgTile
  repeat' first
    | with_reducible assumption
    | (extract_lets +onlyGivenNames x; clear_value x)
    | extract_lets +onlyGivenNames x
    | with_reducible apply Kept.ite
    | with_reducible apply State.reply_kept
    | with_reducible apply hf
    | split

theorem State.onHalted_kept {s0 : State} {s : State} {p : Nat} {op : Nat} {t : DbgGroup} {f : State → Group → Block → State} (h : Kept s0 s) (hf : ∀ t y0 y1, Kept s0 t → Kept s0 (f t y0 y1)) : Kept s0 (State.onHalted s p op t f) := by
  unfold State.onHalted
  repeat' first
    | with_reducible assumption
    | extract_lets +onlyGivenNames x
    | with_reducible apply Kept.ite
    | with_reducible apply State.reply_kept
    | with_reducible apply hf
    | split

theorem State.dbgReadGroup_kept {s0 : State} {s : State} {p : Nat} {t : DbgGroup} {item : Nat} {off : Nat} {len : Nat} (h : Kept s0 s) : Kept s0 (State.dbgReadGroup s p t item off len) := by
  unfold State.dbgReadGroup
  repeat' first
    | with_reducible assumption
    | (intro t a b (ht : Kept s0 t))
    | extract_lets +onlyGivenNames x
    | with_reducible apply Kept.ite
    | with_reducible apply State.reply_kept
    | with_reducible apply State.onHalted_kept

theorem State.haltGroup_kept {s0 : State} {s : State} {p : Nat} {t : DbgGroup} (h : Kept s0 s) : Kept s0 (State.haltGroup s p t) := by
  unfold State.haltGroup
  repeat' first
    | with_reducible assumption
    | extract_lets +onlyGivenNames x
    | with_reducible apply State.reply_kept
    | with_reducible apply State.haltReply_kept
    | with_reducible apply State.holdGroup_kept
    | split

theorem State.onMemory_kept {s0 : State} {s : State} {p : Nat} {op : Nat} {addr : Nat} {len : Nat} {f : State → State} (h : Kept s0 s) (hf : ∀ t , Kept s0 t → Kept s0 (f t)) : Kept s0 (State.onMemory s p op addr len f) := by
  unfold State.onMemory
  repeat' first
    | with_reducible assumption
    | extract_lets +onlyGivenNames x
    | with_reducible apply Kept.ite
    | with_reducible apply State.reply_kept
    | with_reducible apply hf

theorem State.dbgLine_kept {s0 : State} {s : State} {p : Nat} {line : Nat} (h : Kept s0 s) : Kept s0 (State.dbgLine s p line).2 := by
  unfold State.dbgLine
  repeat' first
    | with_reducible assumption
    | (extract_lets +onlyGivenNames x; refine (fun (hx : Kept s0 x) => ?_) ?_; (on_goal 2 => unfold x; clear x); (on_goal 1 => clear_value x))
    | extract_lets +onlyGivenNames x
    | with_reducible apply State.hostLine_kept
    | with_reducible apply State.closeFor_kept
    | with_reducible apply Kept.ite_snd
    | split

theorem State.dbgReadMem_kept {s0 : State} {s : State} {p : Nat} {addr : Nat} {len : Nat} (h : Kept s0 s) : Kept s0 (State.dbgReadMem s p addr len) := by
  unfold State.dbgReadMem
  repeat' first
    | with_reducible assumption
    | (intro t (ht : Kept s0 t))
    | (intro t b (ht : Kept s0 t.2))
    | (extract_lets +onlyGivenNames x; refine (fun (hx : Kept s0 x.2) => ?_) ?_; (on_goal 2 => unfold x; clear x); (on_goal 1 => clear_value x))
    | with_reducible apply State.onMemory_kept
    | with_reducible apply State.dbgLine_kept
    | with_reducible apply State.reply_kept
    | with_reducible apply Kept.foldl_snd

theorem execReadMem_kept {s0 : State} {p : Fin 6} {seq : BitVec 64} {tagOk : Bool} {addr : BitVec 64} {length : BitVec 16} {s : State} (h : Kept s0 s) : KeptX s0 (execReadMem p seq tagOk addr length s) := by
  unfold execReadMem
  repeat' first
    | with_reducible assumption
    | (intro t (ht : Kept s0 t))
    | extract_lets +onlyGivenNames x
    | with_reducible apply KeptX.next
    | with_reducible apply State.onDebug_kept
    | with_reducible apply State.dbgReadMem_kept

theorem State.breakSet_kept {s0 : State} {s : State} {p : Nat} {i : Nat} {addr : W64} (h : Kept s0 s) : Kept s0 (State.breakSet s p i addr) := by
  unfold State.breakSet
  repeat' first
    | with_reducible assumption
    | (extract_lets +onlyGivenNames x; refine (fun (hx : Kept s0 x) => ?_) ?_; (on_goal 2 => unfold x; clear x); (on_goal 1 => clear_value x))
    | (extract_lets +onlyGivenNames x; clear_value x)
    | extract_lets +onlyGivenNames x
    | with_reducible apply Kept.ite
    | with_reducible apply State.reply_kept
    | with_reducible apply State.setDbg_kept
    | with_reducible apply State.setField_kept

theorem execBreakSet_kept {s0 : State} {p : Fin 6} {seq : BitVec 64} {tagOk : Bool} {index : BitVec 8} {addr : BitVec 64} {s : State} (h : Kept s0 s) : KeptX s0 (execBreakSet p seq tagOk index addr s) := by
  unfold execBreakSet
  repeat' first
    | with_reducible assumption
    | (intro t (ht : Kept s0 t))
    | extract_lets +onlyGivenNames x
    | with_reducible apply KeptX.next
    | with_reducible apply State.onDebug_kept
    | with_reducible apply State.breakSet_kept

theorem State.dbgEvents_kept {s0 : State} {s : State} {p : Nat} (h : Kept s0 s) : Kept s0 (State.dbgEvents s p) := by
  unfold State.dbgEvents
  repeat' first
    | with_reducible assumption
    | (extract_lets +onlyGivenNames x; clear_value x)
    | extract_lets +onlyGivenNames x
    | with_reducible apply State.reply_kept
    | with_reducible apply State.setDbg_kept

theorem execEvents_kept {s0 : State} {p : Fin 6} {seq : BitVec 64} {tagOk : Bool} {s : State} (h : Kept s0 s) : KeptX s0 (execEvents p seq tagOk s) := by
  unfold execEvents
  repeat' first
    | with_reducible assumption
    | (intro t (ht : Kept s0 t))
    | extract_lets +onlyGivenNames x
    | with_reducible apply KeptX.next
    | with_reducible apply State.onDebug_kept
    | with_reducible apply State.dbgEvents_kept

theorem State.onLocal_kept {s0 : State} {s : State} {p : Nat} {op : Nat} {t : DbgGroup} {off : Nat} {len : Nat} {f : State → Block → State} (h : Kept s0 s) (hf : ∀ t y0, Kept s0 t → Kept s0 (f t y0)) : Kept s0 (State.onLocal s p op t off len f) := by
  unfold State.onLocal
  repeat' first
    | with_reducible assumption
    | (extract_lets +onlyGivenNames x; clear_value x)
    | extract_lets +onlyGivenNames x
    | with_reducible apply Kept.ite
    | with_reducible apply State.reply_kept
    | with_reducible apply hf
    | split

theorem State.dbgWrite_kept {s0 : State} {s : State} {p : Nat} {op : Nat} {halted : Bool} {f : State → State} (h : Kept s0 s) (hf : ∀ t , Kept s0 t → Kept s0 (f t)) : Kept s0 (State.dbgWrite s p op halted f) := by
  unfold State.dbgWrite
  repeat' first
    | with_reducible assumption
    | extract_lets +onlyGivenNames x
    | with_reducible apply Kept.ite
    | with_reducible apply State.reply_kept
    | with_reducible apply State.setBit_kept
    | with_reducible apply hf

theorem State.dbgPutLine_kept {s0 : State} {s : State} {p : Nat} {line : Nat} {data : LineData} {mask : ByteMask} (h : Kept s0 s) : Kept s0 (State.dbgPutLine s p line data mask) := by
  unfold State.dbgPutLine
  repeat' first
    | with_reducible assumption
    | extract_lets +onlyGivenNames x
    | with_reducible apply Kept.ite
    | with_reducible apply State.updateLine_kept
    | with_reducible apply State.uncrowd_kept
    | with_reducible apply State.storeLine_kept
    | with_reducible apply State.hostPost_kept
    | split

theorem State.dbgWriteMem_kept {s0 : State} {s : State} {p : Nat} {addr : Nat} {data : List (BitVec 8)} (h : Kept s0 s) : Kept s0 (State.dbgWriteMem s p addr data) := by
  unfold State.dbgWriteMem
  repeat' first
    | with_reducible assumption
    | (intro t b (ht : Kept s0 t))
    | (intro t (ht : Kept s0 t))
    | (extract_lets +onlyGivenNames x; clear_value x)
    | extract_lets +onlyGivenNames x
    | with_reducible apply State.onMemory_kept
    | with_reducible apply State.dbgWrite_kept
    | with_reducible apply State.dbgPutLine_kept
    | with_reducible apply Kept.foldl

theorem execWriteMem_kept {s0 : State} {p : Fin 6} {seq : BitVec 64} {tagOk : Bool} {addr : BitVec 64} {data : List (BitVec 8)} {s : State} (h : Kept s0 s) : KeptX s0 (execWriteMem p seq tagOk addr data s) := by
  unfold execWriteMem
  repeat' first
    | with_reducible assumption
    | (intro t (ht : Kept s0 t))
    | extract_lets +onlyGivenNames x
    | with_reducible apply KeptX.next
    | with_reducible apply State.onDebug_kept
    | with_reducible apply State.dbgWriteMem_kept

theorem execDbgClose_kept {s0 : State} {p : Fin 6} {seq : BitVec 64} {tagOk : Bool} {s : State} (h : Kept s0 s) : KeptX s0 (execDbgClose p seq tagOk s) := by
  unfold execDbgClose
  repeat' first
    | with_reducible assumption
    | (intro t (ht : Kept s0 t))
    | extract_lets +onlyGivenNames x
    | with_reducible apply KeptX.next
    | with_reducible apply State.onDebug_kept
    | with_reducible apply State.endSession_kept
    | with_reducible apply State.reply_kept

theorem execWriteLocal_kept {s0 : State} {p : Fin 6} {seq : BitVec 64} {tagOk : Bool} {g : DbgGroup} {offset : BitVec 32} {data : List (BitVec 8)} {s : State} (h : Kept s0 s) : KeptX s0 (execWriteLocal p seq tagOk g offset data s) := by
  unfold execWriteLocal
  repeat' first
    | with_reducible assumption
    | (intro t b (ht : Kept s0 t))
    | (intro t (ht : Kept s0 t))
    | (extract_lets +onlyGivenNames x; clear_value x)
    | extract_lets +onlyGivenNames x
    | with_reducible apply KeptX.next
    | with_reducible apply State.onDebug_kept
    | with_reducible apply State.onLocal_kept
    | with_reducible apply State.dbgWrite_kept
    | with_reducible apply State.setArr_kept

theorem State.dbgOpen_kept {s0 : State} {s : State} {p : Nat} {keyHash : BitVec 384} {sigOk : Bool} (h : Kept s0 s) : Kept s0 (State.dbgOpen s p keyHash sigOk) := by
  unfold State.dbgOpen
  repeat' first
    | with_reducible assumption
    | (extract_lets +onlyGivenNames x; refine (fun (hx : Kept s0 x) => ?_) ?_; (on_goal 2 => unfold x; clear x); (on_goal 1 => clear_value x))
    | (extract_lets +onlyGivenNames x; clear_value x)
    | extract_lets +onlyGivenNames x
    | with_reducible apply Kept.ite
    | with_reducible apply State.reply_kept
    | with_reducible apply State.setBit_kept
    | with_reducible apply State.endSession_kept
    | with_reducible apply State.setDbg_kept
    | with_reducible apply State.opaqueBytes_kept

theorem execDbgOpen_kept {s0 : State} {p : Fin 6} {keyHash : BitVec 384} {sigOk : Bool} {s : State} (h : Kept s0 s) : KeptX s0 (execDbgOpen p keyHash sigOk s) := by
  unfold execDbgOpen
  repeat' first
    | with_reducible assumption
    | extract_lets +onlyGivenNames x
    | with_reducible apply KeptX.next
    | with_reducible apply State.dbgOpen_kept

theorem execReadLocal_kept {s0 : State} {p : Fin 6} {seq : BitVec 64} {tagOk : Bool} {g : DbgGroup} {offset : BitVec 32} {length : BitVec 16} {s : State} (h : Kept s0 s) : KeptX s0 (execReadLocal p seq tagOk g offset length s) := by
  unfold execReadLocal
  repeat' first
    | with_reducible assumption
    | (intro t b (ht : Kept s0 t))
    | (intro t (ht : Kept s0 t))
    | extract_lets +onlyGivenNames x
    | with_reducible apply KeptX.next
    | with_reducible apply State.onDebug_kept
    | with_reducible apply State.onLocal_kept
    | with_reducible apply State.reply_kept

theorem State.resumeGroups_kept {s0 : State} {s : State} {p : Nat} {l : List (Nat × Nat)} (h : Kept s0 s) : Kept s0 (State.resumeGroups s p l) := by
  unfold State.resumeGroups
  repeat' first
    | with_reducible assumption
    | (intro t b (ht : Kept s0 t))
    | (extract_lets +onlyGivenNames x; refine (fun (hx : Kept s0 x) => ?_) ?_; (on_goal 2 => unfold x; clear x); (on_goal 1 => clear_value x))
    | (extract_lets +onlyGivenNames x; clear_value x)
    | extract_lets +onlyGivenNames x
    | with_reducible apply Kept.ite
    | with_reducible apply State.setGroup_kept
    | with_reducible apply State.setDbg_kept
    | with_reducible apply Kept.foldl
    | split

theorem State.dbgResume_kept {s0 : State} {s : State} {p : Nat} {t : DbgGroup} (h : Kept s0 s) : Kept s0 (State.dbgResume s p t) := by
  unfold State.dbgResume
  repeat' first
    | with_reducible assumption
    | extract_lets +onlyGivenNames x
    | with_reducible apply Kept.ite
    | with_reducible apply State.reply_kept
    | with_reducible apply State.resumeGroups_kept
    | split

theorem execResume_kept {s0 : State} {p : Fin 6} {seq : BitVec 64} {tagOk : Bool} {g : DbgGroup} {s : State} (h : Kept s0 s) : KeptX s0 (execResume p seq tagOk g s) := by
  unfold execResume
  repeat' first
    | with_reducible assumption
    | (intro t (ht : Kept s0 t))
    | extract_lets +onlyGivenNames x
    | with_reducible apply KeptX.next
    | with_reducible apply State.onDebug_kept
    | with_reducible apply State.dbgResume_kept

theorem State.dbgHello_kept {s0 : State} {s : State} {p : Nat} (h : Kept s0 s) : Kept s0 (State.dbgHello s p) := by
  unfold State.dbgHello
  repeat' first
    | with_reducible assumption
    | (extract_lets +onlyGivenNames x; clear_value x)
    | extract_lets +onlyGivenNames x
    | with_reducible apply Kept.ite
    | with_reducible apply State.reply_kept
    | with_reducible apply State.draw_kept
    | with_reducible apply State.setDbg_kept

theorem execDbgHello_kept {s0 : State} {p : Fin 6} {s : State} (h : Kept s0 s) : KeptX s0 (execDbgHello p s) := by
  unfold execDbgHello
  repeat' first
    | with_reducible assumption
    | extract_lets +onlyGivenNames x
    | with_reducible apply KeptX.next
    | with_reducible apply State.dbgHello_kept

theorem State.dbgWriteGroup_kept {s0 : State} {s : State} {p : Nat} {t : DbgGroup} {item : Nat} {off : Nat} {data : List Nat} (h : Kept s0 s) : Kept s0 (State.dbgWriteGroup s p t item off data) := by
  unfold State.dbgWriteGroup
  repeat' first
    | with_reducible assumption
    | (intro t (ht : Kept s0 t))
    | (intro t a b (ht : Kept s0 t))
    | extract_lets +onlyGivenNames x
    | with_reducible apply Kept.ite
    | with_reducible apply State.reply_kept
    | with_reducible apply State.onHalted_kept
    | with_reducible apply State.dbgWrite_kept
    | with_reducible apply State.setGroup_kept
    | split

theorem execHaltGroup_kept {s0 : State} {p : Fin 6} {seq : BitVec 64} {tagOk : Bool} {g : DbgGroup} {s : State} (h : Kept s0 s) : KeptX s0 (execHaltGroup p seq tagOk g s) := by
  unfold execHaltGroup
  repeat' first
    | with_reducible assumption
    | (intro t (ht : Kept s0 t))
    | extract_lets +onlyGivenNames x
    | with_reducible apply KeptX.next
    | with_reducible apply State.onDebug_kept
    | with_reducible apply State.haltGroup_kept

theorem State.dbgStep_kept {s0 : State} {s : State} {p : Nat} {t : DbgGroup} {count : Nat} (h : Kept s0 s) : Kept s0 (State.dbgStep s p t count) := by
  unfold State.dbgStep
  repeat' first
    | with_reducible assumption
    | (intro t a b (ht : Kept s0 t))
    | (extract_lets +onlyGivenNames x; clear_value x)
    | extract_lets +onlyGivenNames x
    | with_reducible apply Kept.ite
    | with_reducible apply State.reply_kept
    | with_reducible apply State.onHalted_kept
    | with_reducible apply State.setGroup_kept
    | with_reducible apply State.setDbg_kept

theorem execDbgStep_kept {s0 : State} {p : Fin 6} {seq : BitVec 64} {tagOk : Bool} {g : DbgGroup} {count : BitVec 16} {s : State} (h : Kept s0 s) : KeptX s0 (execDbgStep p seq tagOk g count s) := by
  unfold execDbgStep
  repeat' first
    | with_reducible assumption
    | (intro t (ht : Kept s0 t))
    | extract_lets +onlyGivenNames x
    | with_reducible apply KeptX.next
    | with_reducible apply State.onDebug_kept
    | with_reducible apply State.dbgStep_kept

theorem execReadGroup_kept {s0 : State} {p : Fin 6} {seq : BitVec 64} {tagOk : Bool} {g : DbgGroup} {item : BitVec 8} {offset : BitVec 32} {length : BitVec 16} {s : State} (h : Kept s0 s) : KeptX s0 (execReadGroup p seq tagOk g item offset length s) := by
  unfold execReadGroup
  repeat' first
    | with_reducible assumption
    | (intro t (ht : Kept s0 t))
    | extract_lets +onlyGivenNames x
    | with_reducible apply KeptX.next
    | with_reducible apply State.onDebug_kept
    | with_reducible apply State.dbgReadGroup_kept

theorem execReadTile_kept {s0 : State} {p : Fin 6} {seq : BitVec 64} {tagOk : Bool} {t : DbgTile} {s : State} (h : Kept s0 s) : KeptX s0 (execReadTile p seq tagOk t s) := by
  unfold execReadTile
  repeat' first
    | with_reducible assumption
    | (intro t (ht : Kept s0 t))
    | (intro t a b (ht : Kept s0 t))
    | extract_lets +onlyGivenNames x
    | with_reducible apply KeptX.next
    | with_reducible apply State.onDebug_kept
    | with_reducible apply State.onDbgTile_kept
    | with_reducible apply State.reply_kept

theorem execWriteGroup_kept {s0 : State} {p : Fin 6} {seq : BitVec 64} {tagOk : Bool} {g : DbgGroup} {item : BitVec 8} {offset : BitVec 32} {data : List (BitVec 8)} {s : State} (h : Kept s0 s) : KeptX s0 (execWriteGroup p seq tagOk g item offset data s) := by
  unfold execWriteGroup
  repeat' first
    | with_reducible assumption
    | (intro t (ht : Kept s0 t))
    | extract_lets +onlyGivenNames x
    | with_reducible apply KeptX.next
    | with_reducible apply State.onDebug_kept
    | with_reducible apply State.dbgWriteGroup_kept

theorem State.dbgWriteTile_kept {s0 : State} {s : State} {p : Nat} {t : DbgTile} {rows : List (BitVec 192)} (h : Kept s0 s) : Kept s0 (State.dbgWriteTile s p t rows) := by
  unfold State.dbgWriteTile
  repeat' first
    | with_reducible assumption
    | (intro t (ht : Kept s0 t))
    | (intro t a b (ht : Kept s0 t))
    | (extract_lets +onlyGivenNames x; clear_value x)
    | extract_lets +onlyGivenNames x
    | with_reducible apply Kept.ite
    | with_reducible apply State.reply_kept
    | with_reducible apply State.onDbgTile_kept
    | with_reducible apply State.dbgWrite_kept
    | with_reducible apply State.setArr_kept

theorem execWriteTile_kept {s0 : State} {p : Fin 6} {seq : BitVec 64} {tagOk : Bool} {t : DbgTile} {rows : List (BitVec 192)} {s : State} (h : Kept s0 s) : KeptX s0 (execWriteTile p seq tagOk t rows s) := by
  unfold execWriteTile
  repeat' first
    | with_reducible assumption
    | (intro t (ht : Kept s0 t))
    | extract_lets +onlyGivenNames x
    | with_reducible apply KeptX.next
    | with_reducible apply State.onDebug_kept
    | with_reducible apply State.dbgWriteTile_kept

end Sys2Proof.Machine
end

