-- ==== Sys2Proof/Laws/KeptRegisters.lean ====
section
/-! SUPPORT. What the operations of Machine/Registers.lean keep. -/

namespace Sys2Proof.Machine

set_option linter.tactic.unusedName false

theorem State.storeBits_kept {s0 : State} {s : State} {a : Nat} {v : W32} {stored : W32} {w1c : W32} {w1s : W32} (h : Kept s0 s) : Kept s0 (State.storeBits s a v stored w1c w1s) := by
  unfold State.storeBits
  repeat' first
    | with_reducible assumption
    | with_reducible apply State.setReg_kept

theorem State.clearRecords_kept {s0 : State} {s : State} {pl : Place} {a : Nat} {old : W32} (h : Kept s0 s) : Kept s0 (State.clearRecords s pl a old) := by
  unfold State.clearRecords
  repeat' first
    | with_reducible assumption
    | (intro t b (ht : Kept s0 t))
    | extract_lets +onlyGivenNames x
    | with_reducible apply Kept.ite
    | with_reducible apply State.resetRegs_kept
    | with_reducible apply Kept.foldl

theorem State.tableWrite_kept {s0 : State} {s : State} {pl : Place} {a : Nat} {v : W32} {locked : Bool} (h : Kept s0 s) : Kept s0 (State.tableWrite s pl a v locked) := by
  unfold State.tableWrite
  repeat' first
    | with_reducible assumption
    | (extract_lets +onlyGivenNames x; refine (fun (hx : Kept s0 x) => ?_) ?_; (on_goal 2 => unfold x; clear x); (on_goal 1 => clear_value x))
    | with_reducible apply State.storeBits_kept
    | with_reducible apply State.clearRecords_kept
    | split

theorem State.partCtlWrite_kept {s0 : State} {s : State} {p : Nat} {v : W32} (h : Kept s0 s) : Kept s0 (State.partCtlWrite s p v) := by
  unfold State.partCtlWrite
  repeat' first
    | with_reducible assumption
    | (extract_lets +onlyGivenNames x; refine (fun (hx : Kept s0 x) => ?_) ?_; (on_goal 2 => unfold x; clear x); (on_goal 1 => clear_value x))
    | extract_lets +onlyGivenNames x
    | with_reducible apply Kept.ite
    | with_reducible apply State.partForm_kept
    | with_reducible apply State.partDissolve_kept
    | with_reducible apply State.restartRequest_kept

theorem State.fltCtlWrite_kept {s0 : State} {s : State} {v : W32} (h : Kept s0 s) : Kept s0 (State.fltCtlWrite s v) := by
  unfold State.fltCtlWrite
  repeat' first
    | with_reducible assumption
    | (extract_lets +onlyGivenNames x; refine (fun (hx : Kept s0 x) => ?_) ?_; (on_goal 2 => unfold x; clear x); (on_goal 1 => clear_value x))
    | (extract_lets +onlyGivenNames x; clear_value x)
    | extract_lets +onlyGivenNames x
    | with_reducible apply Kept.ite
    | with_reducible apply State.popFault_kept
    | with_reducible apply State.kick_kept
    | with_reducible apply State.clearDropped_kept
    | with_reducible apply State.retireAck_kept

theorem State.pairTakes_kept {s0 : State} {s : State} {lo : Nat} (h : Kept s0 s) : Kept s0 (State.pairTakes s lo) := by
  unfold State.pairTakes
  repeat' first
    | with_reducible assumption
    | with_reducible apply State.setLatch_kept

theorem State.dlogCtlWrite_kept {s0 : State} {s : State} {port : Nat} {sl : Nat} {v : W32} (h : Kept s0 s) : Kept s0 (State.dlogCtlWrite s port sl v) := by
  unfold State.dlogCtlWrite
  repeat' first
    | with_reducible assumption
    | (extract_lets +onlyGivenNames x; refine (fun (hx : Kept s0 x) => ?_) ?_; (on_goal 2 => unfold x; clear x); (on_goal 1 => clear_value x))
    | extract_lets +onlyGivenNames x
    | with_reducible apply Kept.ite
    | with_reducible apply State.storeBits_kept
    | with_reducible apply State.swapDlog_kept

theorem State.saveCtlWrite_kept {s0 : State} {s : State} {port : Nat} {sl : Nat} {v : W32} (h : Kept s0 s) : Kept s0 (State.saveCtlWrite s port sl v) := by
  unfold State.saveCtlWrite
  repeat' first
    | with_reducible assumption
    | (extract_lets +onlyGivenNames x; refine (fun (hx : Kept s0 x) => ?_) ?_; (on_goal 2 => unfold x; clear x); (on_goal 1 => clear_value x))
    | (extract_lets +onlyGivenNames x; clear_value x)
    | extract_lets +onlyGivenNames x
    | with_reducible apply Kept.ite
    | with_reducible apply State.storeBits_kept
    | with_reducible apply State.quiesceWrite_kept
    | with_reducible apply State.saveSlice_kept

theorem State.sliceRegWrite_kept {s0 : State} {s : State} {pl : Place} {a : Nat} {v : W32} (h : Kept s0 s) : Kept s0 (State.sliceRegWrite s pl a v) := by
  unfold State.sliceRegWrite
  repeat' first
    | with_reducible assumption
    | (extract_lets +onlyGivenNames x; clear_value x)
    | extract_lets +onlyGivenNames x
    | with_reducible apply State.dlogCtlWrite_kept
    | with_reducible apply State.pairTakes_kept
    | with_reducible apply State.tableWrite_kept
    | with_reducible apply State.saveCtlWrite_kept
    | split

theorem State.rstWrite_kept {s0 : State} {s : State} {port : Nat} {first : Nat} {v : W32} (h : Kept s0 s) : Kept s0 (State.rstWrite s port first v) := by
  unfold State.rstWrite
  repeat' first
    | with_reducible assumption
    | (intro t b (ht : Kept s0 t))
    | extract_lets +onlyGivenNames x
    | with_reducible apply State.sliceRst_kept
    | with_reducible apply Kept.foldl

theorem State.portWrite_kept {s0 : State} {s : State} {pl : Place} {a : Nat} {v : W32} (h : Kept s0 s) : Kept s0 (State.portWrite s pl a v) := by
  unfold State.portWrite
  repeat' first
    | with_reducible assumption
    | (extract_lets +onlyGivenNames x; clear_value x)
    | extract_lets +onlyGivenNames x
    | with_reducible apply Kept.ite
    | with_reducible apply State.hcCtlWrite_kept
    | with_reducible apply State.pairTakes_kept
    | with_reducible apply State.tableWrite_kept
    | with_reducible apply State.sliceRegWrite_kept
    | with_reducible apply State.rstWrite_kept
    | with_reducible apply State.frEnable_kept
    | with_reducible apply State.frHeadWrite_kept

theorem State.letterboxWrite_kept {s0 : State} {s : State} {pl : Place} {a : Nat} {v : W32} (h : Kept s0 s) : Kept s0 (State.letterboxWrite s pl a v) := by
  unfold State.letterboxWrite
  repeat' first
    | with_reducible assumption
    | (extract_lets +onlyGivenNames x; clear_value x)
    | extract_lets +onlyGivenNames x
    | with_reducible apply Kept.ite
    | with_reducible apply State.tailWrite_kept
    | with_reducible apply State.rheadWrite_kept
    | with_reducible apply State.mbCtlWrite_kept
    | with_reducible apply State.tableWrite_kept
    | split

theorem State.placeWrite_kept {s0 : State} {s : State} {pl : Place} {a : Nat} {v : W32} (h : Kept s0 s) : Kept s0 (State.placeWrite s pl a v) := by
  unfold State.placeWrite
  repeat' first
    | with_reducible assumption
    | (extract_lets +onlyGivenNames x; clear_value x)
    | extract_lets +onlyGivenNames x
    | with_reducible apply Kept.ite
    | with_reducible apply State.rateModeWrite_kept
    | with_reducible apply State.tableWrite_kept
    | with_reducible apply State.moduleBudgetWrite_kept
    | with_reducible apply State.partBudgetWrite_kept
    | with_reducible apply State.partCtlWrite_kept
    | with_reducible apply State.farStart_kept
    | with_reducible apply State.fltCtlWrite_kept
    | with_reducible apply State.transitSlotWrite_kept
    | with_reducible apply State.portWrite_kept
    | with_reducible apply State.letterboxWrite_kept
    | split

theorem State.readReg_kept {s0 : State} {s : State} {a : Nat} (h : Kept s0 s) : Kept s0 (State.readReg s a).2 := by
  unfold State.readReg
  repeat' first
    | with_reducible assumption
    | (extract_lets +onlyGivenNames x; refine (fun (hx : Kept s0 x) => ?_) ?_; (on_goal 2 => unfold x; clear x); (on_goal 1 => clear_value x))
    | (extract_lets +onlyGivenNames x; clear_value x)
    | extract_lets +onlyGivenNames x
    | with_reducible apply Kept.ite
    | with_reducible apply State.setReg_kept
    | with_reducible apply State.latchHi_kept
    | with_reducible apply State.readPtm_kept
    | fail_if_no_progress with_reducible refine Kept.mk' ?_ rfl rfl rfl rfl rfl
    | split

theorem State.postmasterRead_kept {s0 : State} {s : State} {a : Nat} (h : Kept s0 s) : Kept s0 (State.postmasterRead s a).2 := by
  unfold State.postmasterRead
  repeat' first
    | with_reducible assumption
    | (extract_lets +onlyGivenNames x; clear_value x)
    | extract_lets +onlyGivenNames x
    | with_reducible apply State.readReg_kept
    | with_reducible apply Kept.ite_snd

theorem State.regWrite_kept {s0 : State} {s : State} {agent : Agent} {addr : Nat} {v : W32} (h : Kept s0 s) : Kept s0 (State.regWrite s agent addr v) := by
  unfold State.regWrite
  repeat' first
    | with_reducible assumption
    | (extract_lets +onlyGivenNames x; clear_value x)
    | extract_lets +onlyGivenNames x
    | with_reducible apply Kept.ite
    | with_reducible apply State.placeWrite_kept
    | split

theorem execRegisterWrite_kept {s0 : State} {agent : Agent} {addr : BitVec 32} {v : BitVec 32} {s : State} (h : Kept s0 s) : KeptX s0 (execRegisterWrite agent addr v s) := by
  unfold execRegisterWrite
  repeat' first
    | with_reducible assumption
    | extract_lets +onlyGivenNames x
    | with_reducible apply KeptX.next
    | with_reducible apply State.regWrite_kept

end Sys2Proof.Machine
end

