-- ==== Sys2Proof/Laws/KeptOperator.lean ====
section
/-! SUPPORT. What the operations of Machine/Operator.lean keep. -/

namespace Sys2Proof.Machine

set_option linter.tactic.unusedName false

theorem State.onOperator_kept {s0 : State} {s : State} {f : State → State} (h : Kept s0 s) (hf : ∀ t , Kept s0 t → Kept s0 (f t)) : Kept s0 (State.onOperator s f) := by
  unfold State.onOperator
  repeat' first
    | with_reducible assumption
    | extract_lets +onlyGivenNames x
    | with_reducible apply Kept.ite
    | with_reducible apply hf

theorem State.stage_kept {s0 : State} {s : State} {off : Nat} {data : List (BitVec 8)} (h : Kept s0 s) : Kept s0 (State.stage s off data) := by
  unfold State.stage
  repeat' first
    | with_reducible assumption
    | extract_lets +onlyGivenNames x
    | with_reducible apply Kept.ite
    | with_reducible apply State.answer_kept
    | fail_if_no_progress with_reducible refine Kept.mkTrust ?_ rfl rfl rfl rfl rfl rfl rfl rfl

theorem execFwData_kept {s0 : State} {offset : BitVec 32} {data : List (BitVec 8)} {s : State} (h : Kept s0 s) : KeptX s0 (execFwData offset data s) := by
  unfold execFwData
  repeat' first
    | with_reducible assumption
    | (intro t (ht : Kept s0 t))
    | extract_lets +onlyGivenNames x
    | with_reducible apply KeptX.next
    | with_reducible apply State.onOperator_kept
    | with_reducible apply State.stage_kept

theorem State.windowRead_kept {s0 : State} {s : State} (h : Kept s0 s) : Kept s0 (State.windowRead s) := by
  unfold State.windowRead
  repeat' first
    | with_reducible assumption
    | (extract_lets +onlyGivenNames x; refine (fun (hx : Kept s0 x) => ?_) ?_; (on_goal 2 => unfold x; clear x); (on_goal 1 => clear_value x))
    | (extract_lets +onlyGivenNames x; refine (fun (hx : Kept s0 x.2) => ?_) ?_; (on_goal 2 => unfold x; clear x); (on_goal 1 => clear_value x))
    | (extract_lets +onlyGivenNames x; clear_value x)
    | extract_lets +onlyGivenNames x
    | with_reducible apply State.readReg_kept
    | fail_if_no_progress with_reducible refine Kept.mk' ?_ rfl rfl rfl rfl rfl
    | with_reducible apply Kept.ite_snd

theorem execMgmtWindowRead_kept {s0 : State} {s : State} (h : Kept s0 s) : KeptX s0 (execMgmtWindowRead s) := by
  unfold execMgmtWindowRead
  repeat' first
    | with_reducible assumption
    | extract_lets +onlyGivenNames x
    | with_reducible apply KeptX.next
    | with_reducible apply Kept.ite
    | with_reducible apply State.windowRead_kept

theorem State.closeImage_kept {s0 : State} {s : State} {length : Nat} {i : Image} (h : Kept s0 s) : Kept s0 (State.closeImage s length i) := by
  unfold State.closeImage
  repeat' first
    | with_reducible assumption
    | extract_lets +onlyGivenNames x
    | with_reducible apply Kept.ite
    | with_reducible apply State.answer_kept
    | with_reducible apply State.setBit_kept
    | fail_if_no_progress with_reducible refine Kept.mkTrust ?_ rfl rfl rfl rfl rfl rfl rfl rfl

theorem State.secCommit_kept {s0 : State} {s : State} (h : Kept s0 s) : Kept s0 (State.secCommit s) := by
  unfold State.secCommit
  dsimp only
  split
  · exact State.answer_kept h
  · rename_i hv
    refine State.answer_kept ⟨h.queue, h.orderD, h.debugBlown, h.identity, fun w => ?_, h.hbm, h.far, h.regs⟩
    have := h.secMin w
    dsimp only
    omega

theorem State.operatorRead_kept {s0 : State} {s : State} {a : Nat} (h : Kept s0 s) : Kept s0 (State.operatorRead s a) := by
  unfold State.operatorRead
  repeat' first
    | with_reducible assumption
    | (extract_lets +onlyGivenNames x; refine (fun (hx : Kept s0 x) => ?_) ?_; (on_goal 2 => unfold x; clear x); (on_goal 1 => clear_value x))
    | (extract_lets +onlyGivenNames x; refine (fun (hx : Kept s0 x.2) => ?_) ?_; (on_goal 2 => unfold x; clear x); (on_goal 1 => clear_value x))
    | extract_lets +onlyGivenNames x
    | with_reducible apply Kept.ite
    | with_reducible apply State.answer_kept
    | with_reducible apply State.postmasterRead_kept
    | fail_if_no_progress with_reducible refine Kept.mk' ?_ rfl rfl rfl rfl rfl

theorem execOperatorRead_kept {s0 : State} {addr : BitVec 32} {s : State} (h : Kept s0 s) : KeptX s0 (execOperatorRead addr s) := by
  unfold execOperatorRead
  repeat' first
    | with_reducible assumption
    | (intro t (ht : Kept s0 t))
    | extract_lets +onlyGivenNames x
    | with_reducible apply KeptX.next
    | with_reducible apply State.onOperator_kept
    | with_reducible apply State.operatorRead_kept

theorem execMgmtWindowAddress_kept {s0 : State} {addr : BitVec 32} {s : State} (h : Kept s0 s) : KeptX s0 (execMgmtWindowAddress addr s) := by
  unfold execMgmtWindowAddress
  repeat' first
    | with_reducible assumption
    | extract_lets +onlyGivenNames x
    | with_reducible apply KeptX.next
    | with_reducible apply Kept.ite
    | fail_if_no_progress with_reducible refine Kept.mk' ?_ rfl rfl rfl rfl rfl

theorem State.operatorWrite_kept {s0 : State} {s : State} {a : Nat} {v : W32} (h : Kept s0 s) : Kept s0 (State.operatorWrite s a v) := by
  unfold State.operatorWrite
  repeat' first
    | with_reducible assumption
    | extract_lets +onlyGivenNames x
    | with_reducible apply Kept.ite
    | with_reducible apply State.answer_kept
    | with_reducible apply State.placeWrite_kept
    | split

theorem execOperatorWrite_kept {s0 : State} {addr : BitVec 32} {v : BitVec 32} {s : State} (h : Kept s0 s) : KeptX s0 (execOperatorWrite addr v s) := by
  unfold execOperatorWrite
  repeat' first
    | with_reducible assumption
    | (intro t (ht : Kept s0 t))
    | extract_lets +onlyGivenNames x
    | with_reducible apply KeptX.next
    | with_reducible apply State.onOperator_kept
    | with_reducible apply State.operatorWrite_kept

theorem execFwEnd_kept {s0 : State} {length : BitVec 32} {image : Image} {s : State} (h : Kept s0 s) : KeptX s0 (execFwEnd length image s) := by
  unfold execFwEnd
  repeat' first
    | with_reducible assumption
    | (intro t (ht : Kept s0 t))
    | extract_lets +onlyGivenNames x
    | with_reducible apply KeptX.next
    | with_reducible apply State.onOperator_kept
    | with_reducible apply State.closeImage_kept

theorem execPmRestart_kept {s0 : State} {s : State} (h : Kept s0 s) : KeptX s0 (execPmRestart s) := by
  unfold execPmRestart
  repeat' first
    | with_reducible assumption
    | (intro t (ht : Kept s0 t))
    | extract_lets +onlyGivenNames x
    | with_reducible apply KeptX.next
    | with_reducible apply State.onOperator_kept
    | with_reducible apply State.answer_kept
    | with_reducible apply State.pmRestart_kept

theorem execSecCommit_kept {s0 : State} {s : State} (h : Kept s0 s) : KeptX s0 (execSecCommit s) := by
  unfold execSecCommit
  repeat' first
    | with_reducible assumption
    | (intro t (ht : Kept s0 t))
    | extract_lets +onlyGivenNames x
    | with_reducible apply KeptX.next
    | with_reducible apply State.onOperator_kept
    | with_reducible apply State.secCommit_kept

end Sys2Proof.Machine
end

