-- ==== Sys2Proof/Laws/KeptStep.lean ====
section
/-! SUPPORT. What every command and every step keeps. -/

namespace Sys2Proof.Machine

variable {s0 s : State}

/-- Every command answers a next state, one that keeps. -/
theorem exec_kept (c : Instr) (h : Kept s0 s) : KeptX s0 (exec c s) := by
  cases c with
  | nop _ _ => exact execNop_kept h
  | exitOp _ _ => exact execExitOp_kept h
  | yield _ _ => exact execYield_kept h
  | phase _ _ => exact execPhase_kept h
  | timeRead _ _ => exact execTimeRead_kept h
  | trap _ _ => exact execTrap_kept h
  | brk _ _ => exact execBrk_kept h
  | movSr _ _ => exact execMovSr_kept h
  | bra _ _ => exact execBra_kept h
  | brx _ _ => exact execBrx_kept h
  | call _ _ => exact execCall_kept h
  | leaPc _ _ => exact execLeaPc_kept h
  | fpflagsClr _ _ => exact execFpflagsClr_kept h
  | barSync _ _ => exact execBarSync_kept h
  | barArrive _ _ => exact execBarArrive_kept h
  | addOp _ _ => exact execAddOp_kept h
  | subOp _ _ => exact execSubOp_kept h
  | mulLo _ _ => exact execMulLo_kept h
  | mulHi _ _ => exact execMulHi_kept h
  | madLo _ _ => exact execMadLo_kept h
  | divOp _ _ => exact execDivOp_kept h
  | rem _ _ => exact execRem_kept h
  | minOp _ _ => exact execMinOp_kept h
  | maxOp _ _ => exact execMaxOp_kept h
  | absOp _ _ => exact execAbsOp_kept h
  | negOp _ _ => exact execNegOp_kept h
  | andOp _ _ => exact execAndOp_kept h
  | orOp _ _ => exact execOrOp_kept h
  | xorOp _ _ => exact execXorOp_kept h
  | notOp _ _ => exact execNotOp_kept h
  | shl _ _ => exact execShl_kept h
  | shr _ _ => exact execShr_kept h
  | sar _ _ => exact execSar_kept h
  | popc _ _ => exact execPopc_kept h
  | clz _ _ => exact execClz_kept h
  | brev _ _ => exact execBrev_kept h
  | bfe _ _ => exact execBfe_kept h
  | bfi _ _ => exact execBfi_kept h
  | setp _ _ => exact execSetp_kept h
  | selp _ _ => exact execSelp_kept h
  | mov _ _ => exact execMov_kept h
  | cvt _ _ => exact execCvt_kept h
  | plop _ _ => exact execPlop_kept h
  | addF32 _ _ => exact execAddF32_kept h
  | subF32 _ _ => exact execSubF32_kept h
  | mulF32 _ _ => exact execMulF32_kept h
  | fmaF32 _ _ => exact execFmaF32_kept h
  | minF32 _ _ => exact execMinF32_kept h
  | maxF32 _ _ => exact execMaxF32_kept h
  | absF32 _ _ => exact execAbsF32_kept h
  | negF32 _ _ => exact execNegF32_kept h
  | rcpF32 _ _ => exact execRcpF32_kept h
  | rsqrtF32 _ _ => exact execRsqrtF32_kept h
  | sqrtF32 _ _ => exact execSqrtF32_kept h
  | ex2F32 _ _ => exact execEx2F32_kept h
  | lg2F32 _ _ => exact execLg2F32_kept h
  | setpF32 _ _ => exact execSetpF32_kept h
  | addBf16x2 _ _ => exact execAddBf16x2_kept h
  | mulBf16x2 _ _ => exact execMulBf16x2_kept h
  | fmaBf16x2 _ _ => exact execFmaBf16x2_kept h
  | minBf16x2 _ _ => exact execMinBf16x2_kept h
  | maxBf16x2 _ _ => exact execMaxBf16x2_kept h
  | addF16x2 _ _ => exact execAddF16x2_kept h
  | mulF16x2 _ _ => exact execMulF16x2_kept h
  | fmaF16x2 _ _ => exact execFmaF16x2_kept h
  | minF16x2 _ _ => exact execMinF16x2_kept h
  | maxF16x2 _ _ => exact execMaxF16x2_kept h
  | mma _ _ => exact execMma_kept h
  | mmaLedger _ _ => exact execMmaLedger_kept h
  | ltileOpen _ _ => exact execLtileOpen_kept h
  | ltileFlush _ _ => exact execLtileFlush_kept h
  | ltileRead _ _ => exact execLtileRead_kept h
  | ltileWrite _ _ => exact execLtileWrite_kept h
  | ltileStat _ _ => exact execLtileStat_kept h
  | ltileClose _ _ => exact execLtileClose_kept h
  | cvtPack _ _ => exact execCvtPack_kept h
  | cvtUnpack _ _ => exact execCvtUnpack_kept h
  | mxScale _ _ => exact execMxScale_kept h
  | shflIdx _ _ => exact execShflIdx_kept h
  | shflXor _ _ => exact execShflXor_kept h
  | shflUp _ _ => exact execShflUp_kept h
  | shflDown _ _ => exact execShflDown_kept h
  | voteAll _ _ => exact execVoteAll_kept h
  | voteAny _ _ => exact execVoteAny_kept h
  | voteBallot _ _ => exact execVoteBallot_kept h
  | ld _ _ => exact execLd_kept h
  | ldAcq _ _ => exact execLdAcq_kept h
  | ldLast _ _ => exact execLdLast_kept h
  | st _ _ => exact execSt_kept h
  | stRel _ _ => exact execStRel_kept h
  | fence _ _ => exact execFence_kept h
  | prefetch _ _ => exact execPrefetch_kept h
  | killLine _ _ => exact execKillLine_kept h
  | atomAdd _ _ => exact execAtomAdd_kept h
  | atomMin _ _ => exact execAtomMin_kept h
  | atomMax _ _ => exact execAtomMax_kept h
  | atomAnd _ _ => exact execAtomAnd_kept h
  | atomOr _ _ => exact execAtomOr_kept h
  | atomXor _ _ => exact execAtomXor_kept h
  | atomExch _ _ => exact execAtomExch_kept h
  | atomCas _ _ => exact execAtomCas_kept h
  | redAdd _ _ => exact execRedAdd_kept h
  | redMin _ _ => exact execRedMin_kept h
  | redMax _ _ => exact execRedMax_kept h
  | redAnd _ _ => exact execRedAnd_kept h
  | redOr _ _ => exact execRedOr_kept h
  | redXor _ _ => exact execRedXor_kept h
  | redAddLedger _ _ => exact execRedAddLedger_kept h
  | schedulerIssue _ _ => exact execSchedulerIssue_kept h
  | reconvergenceTimeout _ => exact execReconvergenceTimeout_kept h
  | barrierDeadlock _ => exact execBarrierDeadlock_kept h
  | yieldOverdue _ => exact execYieldOverdue_kept h
  | blockAccept _ => exact execBlockAccept_kept h
  | lsBanksChange _ _ => exact execLsBanksChange_kept h
  | reconfigDone _ => exact execReconfigDone_kept h
  | residueRecompute _ _ _ => exact execResidueRecompute_kept h
  | homeAccess _ _ _ => exact execHomeAccess_kept h
  | sumLineContribution _ _ _ _ => exact execSumLineContribution_kept h
  | spillBucketReadDone _ _ _ _ => exact execSpillBucketReadDone_kept h
  | fillArrive _ _ _ _ => exact execFillArrive_kept h
  | homeWriteAck _ _ => exact execHomeWriteAck_kept h
  | sideBufferFill _ _ _ => exact execSideBufferFill_kept h
  | cacheInvalidateDone _ => exact execCacheInvalidateDone_kept h
  | hbmReadDone _ _ _ => exact execHbmReadDone_kept h
  | hbmReread _ _ _ => exact execHbmReread_kept h
  | pageRetireDone _ _ _ => exact execPageRetireDone_kept h
  | sectorMergeWrite _ _ _ => exact execSectorMergeWrite_kept h
  | hbmLaneRemapped _ _ _ => exact execHbmLaneRemapped_kept h
  | hbmTrainingDone _ _ => exact execHbmTrainingDone_kept h
  | farPageReadDone _ _ _ => exact execFarPageReadDone_kept h
  | farUnavailable _ => exact execFarUnavailable_kept h
  | courierRecordStart _ _ => exact execCourierRecordStart_kept h
  | courierLine _ _ _ => exact execCourierLine_kept h
  | courierGateReread _ _ => exact execCourierGateReread_kept h
  | courierRecordDone _ => exact execCourierRecordDone_kept h
  | regulatorTick => exact execRegulatorTick_kept h
  | packetReceive _ _ _ _ => exact execPacketReceive_kept h
  | retry _ _ _ _ => exact execRetry_kept h
  | packetAcknowledgement _ _ _ _ => exact execPacketAcknowledgement_kept h
  | beacon _ _ _ => exact execBeacon_kept h
  | neighbourLost _ _ => exact execNeighbourLost_kept h
  | laneSpared _ _ _ _ => exact execLaneSpared_kept h
  | rerouted _ _ => exact execRerouted_kept h
  | transitFrame _ _ => exact execTransitFrame_kept h
  | transitEgress _ _ _ _ _ => exact execTransitEgress_kept h
  | transitSlotWrite _ _ _ => exact execTransitSlotWrite_kept h
  | tuningDone _ => exact execTuningDone_kept h
  | timebaseTick _ => exact execTimebaseTick_kept h
  | timebaseBroadcast => exact execTimebaseBroadcast_kept h
  | windowBoundary _ => exact execWindowBoundary_kept h
  | tbRefLost => exact execTbRefLost_kept h
  | tbRefReturn => exact execTbRefReturn_kept h
  | timebaseLock => exact execTimebaseLock_kept h
  | tbNowLoRead => exact execTbNowLoRead_kept h
  | dlTimeLoRead _ => exact execDlTimeLoRead_kept h
  | deadAddrLoRead _ => exact execDeadAddrLoRead_kept h
  | parityAddrLoRead _ => exact execParityAddrLoRead_kept h
  | poisonAddrLoRead _ => exact execPoisonAddrLoRead_kept h
  | crRecordLoRead _ => exact execCrRecordLoRead_kept h
  | ptmLocalLoRead _ => exact execPtmLocalLoRead_kept h
  | rateFloor _ => exact execRateFloor_kept h
  | rateModeWrite _ _ => exact execRateModeWrite_kept h
  | registerWrite _ _ _ => exact execRegisterWrite_kept h
  | mailbagTail _ _ _ => exact execMailbagTail_kept h
  | receiptHead _ _ _ => exact execReceiptHead_kept h
  | mailbagEnable _ _ _ => exact execMailbagEnable_kept h
  | entryTake _ _ => exact execEntryTake_kept h
  | entryReadDone _ _ _ => exact execEntryReadDone_kept h
  | entryReadError _ _ => exact execEntryReadError_kept h
  | launch _ _ => exact execLaunch_kept h
  | chain _ _ => exact execChain_kept h
  | cancel _ _ => exact execCancel_kept h
  | preempt _ _ => exact execPreempt_kept h
  | mgmt _ _ => exact execMgmt_kept h
  | marker _ _ => exact execMarker_kept h
  | mgmtBusyTimeout _ _ => exact execMgmtBusyTimeout_kept h
  | receiptWrite _ _ => exact execReceiptWrite_kept h
  | tailWordWrite _ _ => exact execTailWordWrite_kept h
  | hostFlushReadDone _ _ => exact execHostFlushReadDone_kept h
  | hostReadError _ _ => exact execHostReadError_kept h
  | hostLinkDown _ => exact execHostLinkDown_kept h
  | linkLost _ => exact execLinkLost_kept h
  | functionLevelReset _ => exact execFunctionLevelReset_kept h
  | configRequest _ => exact execConfigRequest_kept h
  | ptmDialog _ _ => exact execPtmDialog_kept h
  | hcCtlEn _ _ => exact execHcCtlEn_kept h
  | cxlSnoop _ _ => exact execCxlSnoop_kept h
  | sliceConfigWrite _ _ _ _ => exact execSliceConfigWrite_kept h
  | dirtyPageLog _ _ _ _ => exact execDirtyPageLog_kept h
  | swap _ _ => exact execSwap_kept h
  | swapDone _ _ => exact execSwapDone_kept h
  | quiesce _ _ _ => exact execQuiesce_kept h
  | quiesced _ _ => exact execQuiesced_kept h
  | sliceSave _ _ => exact execSliceSave_kept h
  | sliceRestore _ _ _ => exact execSliceRestore_kept h
  | partForm _ => exact execPartForm_kept h
  | formDone _ => exact execFormDone_kept h
  | partDissolve _ => exact execPartDissolve_kept h
  | dissolved _ => exact execDissolved_kept h
  | partStopping _ => exact execPartStopping_kept h
  | partStopped _ => exact execPartStopped_kept h
  | partRestartRequest _ => exact execPartRestartRequest_kept h
  | restartCensus _ _ _ _ => exact execRestartCensus_kept h
  | restartDone _ => exact execRestartDone_kept h
  | dispatchOffer _ => exact execDispatchOffer_kept h
  | launchStopped _ _ _ => exact execLaunchStopped_kept h
  | partConfig _ => exact execPartConfig_kept h
  | partRestart _ => exact execPartRestart_kept h
  | phSetup _ => exact execPhSetup_kept h
  | phDefine _ => exact execPhDefine_kept h
  | phForget _ => exact execPhForget_kept h
  | phLoad _ => exact execPhLoad_kept h
  | phPin _ => exact execPhPin_kept h
  | phUnpin _ => exact execPhUnpin_kept h
  | phEvict _ => exact execPhEvict_kept h
  | phLoadDone _ _ => exact execPhLoadDone_kept h
  | phWritebackDone _ _ => exact execPhWritebackDone_kept h
  | getVersion _ => exact execGetVersion_kept h
  | getCapabilities _ => exact execGetCapabilities_kept h
  | negotiateAlgorithms _ => exact execNegotiateAlgorithms_kept h
  | getDigests _ => exact execGetDigests_kept h
  | getCertificate _ _ _ _ => exact execGetCertificate_kept h
  | challenge _ _ _ => exact execChallenge_kept h
  | getMeasurements _ _ _ _ => exact execGetMeasurements_kept h
  | keyExchange _ => exact execKeyExchange_kept h
  | finish _ _ _ _ => exact execFinish_kept h
  | heartbeat _ _ => exact execHeartbeat_kept h
  | keyUpdate _ _ => exact execKeyUpdate_kept h
  | endSession _ _ => exact execEndSession_kept h
  | envelope _ _ _ _ _ => exact execEnvelope_kept h
  | debugGrant _ _ _ => exact execDebugGrant_kept h
  | grantEnded _ => exact execGrantEnded_kept h
  | onpanelScrubDone _ => exact execOnpanelScrubDone_kept h
  | hbmScrubDone _ => exact execHbmScrubDone_kept h
  | farScrub _ => exact execFarScrub_kept h
  | farStart _ => exact execFarStart_kept h
  | farScrubDone _ => exact execFarScrubDone_kept h
  | postmasterRestart _ => exact execPostmasterRestart_kept h
  | faultRecordWrite => exact execFaultRecordWrite_kept h
  | frEnable _ _ => exact execFrEnable_kept h
  | frHead _ _ => exact execFrHead_kept h
  | pop => exact execPop_kept h
  | kick => exact execKick_kept h
  | clearDropped => exact execClearDropped_kept h
  | retireAck _ => exact execRetireAck_kept h
  | watchdog _ => exact execWatchdog_kept h
  | edgeDieLost _ => exact execEdgeDieLost_kept h
  | mgdLost => exact execMgdLost_kept h
  | refclkLoss _ => exact execRefclkLoss_kept h
  | pairJoin _ => exact execPairJoin_kept h
  | pairDigest _ => exact execPairDigest_kept h
  | pairLeave _ => exact execPairLeave_kept h
  | pairStatus _ => exact execPairStatus_kept h
  | joinCopyDone _ _ => exact execJoinCopyDone_kept h
  | pairEntry _ _ _ _ _ => exact execPairEntry_kept h
  | entryAck _ _ _ => exact execEntryAck_kept h
  | pairDone _ _ _ _ _ _ => exact execPairDone_kept h
  | receipted _ _ _ _ => exact execReceipted_kept h
  | phDecision _ _ _ _ _ _ _ => exact execPhDecision_kept h
  | pairLine _ _ _ _ => exact execPairLine_kept h
  | digest _ _ _ _ _ => exact execDigest_kept h
  | digestResult _ _ _ _ => exact execDigestResult_kept h
  | failover p seq fault => exact execFailover_kept (_fault := fault) h
  | pairAccept _ _ => exact execPairAccept_kept h
  | pairRefuse _ _ => exact execPairRefuse_kept h
  | withdraw _ _ _ => exact execWithdraw_kept h
  | pairHeartbeat l peerTime => exact execPairHeartbeat_kept (_peerTime := peerTime) h
  | pairJoinMsg _ _ => exact execPairJoinMsg_kept h
  | pairMessageTagFail _ _ => exact execPairMessageTagFail_kept h
  | pairLinkRetrain _ _ => exact execPairLinkRetrain_kept h
  | leaseWrite _ => exact execLeaseWrite_kept h
  | leaseLost _ => exact execLeaseLost_kept h
  | leasePoll _ _ => exact execLeasePoll_kept h
  | fencedTimeout _ _ => exact execFencedTimeout_kept h
  | governorInterval _ _ => exact execGovernorInterval_kept h
  | pwrAlert _ _ => exact execPwrAlert_kept h
  | pwrAlertRelease => exact execPwrAlertRelease_kept h
  | alertHoldEnd => exact execAlertHoldEnd_kept h
  | junctionSample _ _ => exact execJunctionSample_kept h
  | thermalTrip _ => exact execThermalTrip_kept h
  | ibcFault _ => exact execIbcFault_kept h
  | pwrModuleBudgetWrite _ => exact execPwrModuleBudgetWrite_kept h
  | partBudgetWrite _ _ => exact execPartBudgetWrite_kept h
  | rateConfig _ => exact execRateConfig_kept h
  | energyRead _ => exact execEnergyRead_kept h
  | retuneStart => exact execRetuneStart_kept h
  | retuneDone _ => exact execRetuneDone_kept h
  | supplySlewDone _ => exact execSupplySlewDone_kept h
  | panelStart => exact execPanelStart_kept h
  | startTrustDone _ => exact execStartTrustDone_kept h
  | startEdgeDone => exact execStartEdgeDone_kept h
  | startPostmasterDone => exact execStartPostmasterDone_kept h
  | siteTestDone _ => exact execSiteTestDone_kept h
  | census => exact execCensus_kept h
  | startMarginDone _ => exact execStartMarginDone_kept h
  | startFarDone => exact execStartFarDone_kept h
  | panelReady => exact execPanelReady_kept h
  | modReset => exact execModReset_kept h
  | modPresentRemoved => exact execModPresentRemoved_kept h
  | inputOutOfRange _ => exact execInputOutOfRange_kept h
  | prechargeDone => exact execPrechargeDone_kept h
  | converterEnable => exact execConverterEnable_kept h
  | prechargeHoldoffEnd => exact execPrechargeHoldoffEnd_kept h
  | perst _ => exact execPerst_kept h
  | sliceRst _ _ => exact execSliceRst_kept h
  | expanderInserted _ _ => exact execExpanderInserted_kept h
  | expanderRemoved _ => exact execExpanderRemoved_kept h
  | farRelease _ => exact execFarRelease_kept h
  | farAttach _ => exact execFarAttach_kept h
  | dbgHello _ => exact execDbgHello_kept h
  | dbgOpen _ _ _ => exact execDbgOpen_kept h
  | haltGroup _ _ _ _ => exact execHaltGroup_kept h
  | haltLaunch _ _ _ _ _ => exact execHaltLaunch_kept h
  | dbgStep _ _ _ _ _ => exact execDbgStep_kept h
  | resume _ _ _ _ => exact execResume_kept h
  | breakSet _ _ _ _ _ => exact execBreakSet_kept h
  | events _ _ _ => exact execEvents_kept h
  | readGroup _ _ _ _ _ _ _ => exact execReadGroup_kept h
  | readTile _ _ _ _ => exact execReadTile_kept h
  | readLocal _ _ _ _ _ _ => exact execReadLocal_kept h
  | writeGroup _ _ _ _ _ _ _ => exact execWriteGroup_kept h
  | writeTile _ _ _ _ _ => exact execWriteTile_kept h
  | writeLocal _ _ _ _ _ _ => exact execWriteLocal_kept h
  | readMem _ _ _ _ _ => exact execReadMem_kept h
  | writeMem _ _ _ _ _ => exact execWriteMem_kept h
  | dbgClose _ _ _ => exact execDbgClose_kept h
  | mgmtWindowAddress _ => exact execMgmtWindowAddress_kept h
  | mgmtWindowRead => exact execMgmtWindowRead_kept h
  | operatorRead _ => exact execOperatorRead_kept h
  | operatorWrite _ _ => exact execOperatorWrite_kept h
  | fwData _ _ => exact execFwData_kept h
  | fwEnd _ _ => exact execFwEnd_kept h
  | pmRestart => exact execPmRestart_kept h
  | secCommit => exact execSecCommit_kept h
  | pairLinkUp _ _ => exact execPairLinkUp_kept h
  | perstRelease _ => exact execPerstRelease_kept h
  | tbHoldoverStart => exact execTbHoldoverStart_kept h
  | prechargeBegin => exact execPrechargeBegin_kept h
  | moduleSeated => exact execModuleSeated_kept h
  | ideKm _ _ _ _ => exact execIdeKm_kept h
  | setdasa _ _ => exact execSetdasa_kept h

/-- Every step answers a next state: one that keeps what the state without the command at its front holds. -/
theorem step_kept (s : State) : ∃ t, step s = .next t ∧ Kept { s with pending := s.pending.tail } t := by
  unfold step
  split
  · rename_i e; exact ⟨s.edge, rfl, State.edge_kept ⟨by rw [e]; rfl, rfl, rfl, rfl, fun h => ⟨Nat.le_refl _, h⟩, id, id, id⟩⟩
  · rename_i c l e; rw [e]; exact (exec_kept c (Kept.refl _)).of

end Sys2Proof.Machine
end

