-- ==== Sys2Proof/Tests/Slice0.lean ====
section
/-! SUPPORT. Small tests of one step each, and for every statement with hypotheses a state and operands that meet them. -/

namespace Sys2Proof.Tests

set_option Elab.async false

open Sys2Proof Sys2Proof.Machine

/-! States and words the tests stand on. -/

/-- A panel on which partition 0 runs on sector 0 under port 0, whose die 0 is in use. -/
def onePanel : State :=
  (((State.reset.setReg (Reg.partState 0) 0x102).setReg (Reg.partLayout 0) 0x10).setReg (Reg.siteState 0) 0x001).setPort 0
    { Port.reset with bound := some 0, live := true, perst := false, linkUp := true }

/-- A subgroup of a set of lanes at the start of the text. -/
def subOf (lanes : BitVec 32) : Sub :=
  { lanes := lanes, pc := 0x1000, wait := .running, stopped := false, stack := [], waitFrom := 0, yieldCount := 0, orders := [] }

/-- A group whose lanes stand together; the first lane alone has predicate 0 set. -/
def oneGroup : Group :=
  { block := 0, index := 0, absent := 0, exited := 0, tregs := [], uregs := [], preds := [(0, 1)], fpflags := 0, subs := [subOf 0xFFFFFFFF],
    cur := 0xFFFFFFFF, isOpen := false, pend := [], hostStored := 0, held := false }

/-- A block of one group, of launch 1, with one unit of local store. -/
def oneBlock : Block :=
  { launch := 1, part := 0, seq := 1, mailbag := 0, slice := 0, index := 0, nblocks := 1, threads := 32, regs := 255, units := [0],
    textLo := 0x1000, textHi := 0x2000, kernelId := 0, seed := 0, arrived := [], halted := false, stopPending := false }

/-- A tile of slot 0. -/
def oneTile : Tile := { owner := 0, fmt := 0, w := 0, flags := 0, accs := [], tags := [] }

/-- An array with that group and its tile. -/
def oneArr : Arr := { Arr.reset with lsBanks := 1, blocks := [(0, oneBlock)], groups := [(0, oneGroup)], tiles := [(0, oneTile)] }

/-- The panel with the group, the block and the tile on array 0. -/
def working : State := onePanel.setArr 0 oneArr

/-- The group of the tests, which meets no parity error. -/
def theGroup : GRef := { arr := 0, slot := 0, upset := none }

/-- An instruction word of zeros. -/
def blank : Fields :=
  { ge := false, gp := 0, gn := false, d := 0, a := 0, b := 0, c := 0, ka := 0, kb := 0, kc := 0, du := false, mod := 0, pd := 0, aux := 0,
    imm0 := 0, imm1 := 0 }

/-- A legal word of each opcode, on thread register 0, uniform register 0, tile 0 and address 0. -/
def sampleWord (op : Nat) : Fields :=
  if op = 0x0D ∨ op = 0x0E then { blank with kb := 2 }
  else if op = 0x50 then { blank with aux := 1 }
  else if op = 0x51 then { blank with kc := 1, aux := 1 }
  else if op = 0x52 then { blank with ka := 1, du := true }
  else if op = 0x53 then { blank with ka := 3, kc := 1 }
  else if op = 0x54 ∨ op = 0x55 ∨ op = 0x57 then { blank with kc := 1 }
  else if op = 0x56 then { blank with kc := 1, du := true }
  else if op = 0x5A then { blank with mod := 10 }
  else if op = 0x71 ∨ op = 0x74 ∨ op = 0x77 then { blank with aux := 1 }
  else if op = 0x8E then { blank with aux := 3, mod := 4 }
  else if 0x80 ≤ op then { blank with aux := 3 }
  else blank

/-- The same on local store, for the instructions that reach it. -/
def localWord (_op : Nat) : Fields := { blank with mod := 16 }

/-- Whether a word issues with nothing in its way. -/
def mayIssue (m : Sem) (w : Fields) (s : State) : Bool :=
  match m.ctx theGroup w s with
  | some c => (match m.verdict s c w true with
    | .go _ => c.grp.live != 0
    | _ => false)
  | none => false

theorem mayIssue_issues {m : Sem} {w : Fields} {s : State} (h : mayIssue m w s = true) : ∃ c d, Issues m theGroup w s c d := by
  unfold mayIssue at h
  split at h
  · rename_i c hc
    split at h
    · rename_i d hd
      exact ⟨c, d, rfl, hc, hd, by simpa using h⟩
    · cases h
  · cases h

/-- Whether a word issues into a fault. -/
def stops (m : Sem) (w : Fields) (s : State) : Bool :=
  match m.ctx theGroup w s with
  | some c => (match m.verdict s c w true with
    | .stop .. => true
    | _ => false)
  | none => false

theorem stops_faults {m : Sem} {w : Fields} {s : State} (h : stops m w s = true) :
    ∃ c code addr word, Faults m theGroup w s c code addr word := by
  unfold stops at h
  split at h
  · rename_i c hc
    split at h
    · rename_i code addr word hd
      exact ⟨c, code, addr, word, rfl, hc, hd⟩
    · cases h
  · cases h

/-! Witnesses: instructions. -/

/-- Every instruction but TRAP issues with nothing in its way (the statements on instructions). -/
theorem witness_every_instruction_issues : ∀ e ∈ instructions, e.2.op ≠ 5 → ∃ w c d, Issues e.2 theGroup w working c d := by
  have h : instructions.all (fun e => e.2.op == 5 || mayIssue e.2 (sampleWord e.2.op) working) = true := by decide +kernel
  intro e he h5
  have := List.all_eq_true.1 h e he
  simp only [Bool.or_eq_true, beq_iff_eq, h5, false_or] at this
  exact ⟨_, mayIssue_issues this⟩

/-- Every instruction meets a fault somewhere: outside the text of its block (InstructionFaults). -/
theorem witness_every_instruction_faults : ∀ e ∈ instructions, ∃ w s c code addr word, Faults e.2 theGroup w s c code addr word := by
  have h : instructions.all (fun e => stops e.2 (sampleWord e.2.op)
      (onePanel.setArr 0 { oneArr with blocks := [(0, { oneBlock with textHi := 0x100F })] })) = true := by decide +kernel
  intro e he
  exact ⟨_, _, stops_faults (List.all_eq_true.1 h e he)⟩

/-- A word that no shape allows: a destination beyond the uniform registers, a guard without GE (IllegalWords). -/
def badWord : Fields := { blank with d := 255, du := true, gp := 7, ka := 3, a := 255, b := 255, kb := 3, mod := 63, aux := 7 }

theorem witness_every_instruction_illegal : ∀ e ∈ instructions, ∃ c, e.2.ctx theGroup badWord working = some c ∧ c.blk.inText c.sub.pc = true ∧
    working.breakAt c.blk.part c.sub.pc = none ∧ ∀ d, e.2.desc badWord = some d → d.legal badWord = false := by
  have h : instructions.all (fun e => (match e.2.ctx theGroup badWord working with
      | some c => c.blk.inText c.sub.pc && (working.breakAt c.blk.part c.sub.pc).isNone
      | none => false) && (match e.2.desc badWord with
      | some d => !d.legal badWord
      | none => true)) = true := by decide +kernel
  intro e he
  have := List.all_eq_true.1 h e he
  rw [Bool.and_eq_true] at this
  obtain ⟨h1, h2⟩ := this
  split at h1
  · rename_i c hc
    rw [Bool.and_eq_true] at h1
    refine ⟨c, hc, h1.1, by simpa using h1.2, ?_⟩
    intro d hd
    rw [hd] at h2
    simpa using h2
  · cases h1

/-- Saturating ADD and SUB (IntegerArithmetic), MMA on integers (MatrixRegisters). -/
theorem witness_saturation : mayIssue addOpSem { blank with mod := 16 } working = true ∧ mayIssue subOpSem { blank with mod := 31 } working = true := by
  decide +kernel

/-- An EXIT of one lane of 32 (YieldsExitsAndTraps), and a TRAP of all. -/
theorem witness_exit : (match exitSem.ctx theGroup { blank with ge := true } working with
    | some c => c.act == 1 && (c.grp.live &&& ~~~c.act) != 0
    | none => false) = true ∧ mayIssue exitSem { blank with ge := true } working = true := by decide +kernel

theorem witness_trap : (match trapSem.ctx theGroup blank working, trapSem.desc blank with
    | some c, some d => c.blk.inText c.sub.pc && (working.breakAt c.blk.part c.sub.pc).isNone && d.legal blank &&
        !d.outOfRange blank c.blk.regs && c.act != 0
    | _, _ => false) = true := by decide +kernel

/-- BRK with the session open to the group of its block and without. -/
theorem witness_brk : mayIssue brkSem blank working = true ∧ mayIssue brkSem blank (working.setBit (Reg.keyState 0) 16) = true := by decide +kernel

/-- LTILE_OPEN with every tile of the quarter free, and with none (LedgerTiles). -/
theorem witness_tiles : mayIssue ltileOpenSem (sampleWord 0x52) (onePanel.setArr 0 { oneArr with tiles := [] }) = true ∧
    mayIssue ltileOpenSem (sampleWord 0x52)
      (onePanel.setArr 0 { oneArr with tiles := [(0, oneTile), (1, oneTile), (2, oneTile), (3, oneTile)] }) = true := by decide +kernel

/-- The memory instructions that reach local store (LocalAccesses); `witness_every_instruction_issues` has them on the global space. -/
theorem witness_local : (instructions.filter (fun e => decide (e.2.op = 0x70 ∨ e.2.op = 0x73 ∨ (0x80 ≤ e.2.op ∧ e.2.op < 0x8E)))).all
    (fun e => memLocal (localWord e.2.op) && !memLocal (sampleWord e.2.op) && mayIssue e.2 (localWord e.2.op) working) = true ∧
    Memory.wf (working.arr 0).localMem = true := by decide +kernel


/-! Witnesses: operands, requests, arithmetic. -/

/-- A line request of one lane (LineRequests), a rounding by one bit (NearestEven), a byte of a line (StoredBytes). -/
theorem witness_small : (127 < 128 ∧ ∀ a ∈ [({ slot := 0, lane := 0, off := 127, data := 0, cmp := 0, w := 0, nan := false } : LaneAcc)],
    a.off + memSize blank ≤ 128) ∧ 0 < 1 := by decide

/-- The kinds of a source: thread and uniform registers, zero, one 64-bit immediate, and two immediates (Operands). -/
theorem witness_operands :
    (match addOpSem.desc blank with
      | some d => d.legal blank && blank.kind 0 == 0
      | none => false) = true ∧
    (let w := { blank with ka := 1, kb := 3 }; match addOpSem.desc w with
      | some d => d.legal w && w.kind 0 == 1 && w.kind 1 == 3
      | none => false) = true ∧
    (let w := { blank with kb := 2, mod := 2, imm1 := 1 }; match addOpSem.desc w with
      | some d => d.legal w && !d.own0 && !d.own1 && w.kind 1 == 2 && (d.use 1).uwords == 2
      | none => false) = true ∧
    (let w := { blank with ka := 2, kb := 2, imm0 := 1, imm1 := 2 }; match addOpSem.desc w with
      | some d => d.legal w && !d.own0 && !d.own1 && w.kind 0 == 2 && w.kind 1 == 2 && (d.use 0).uwords == 1 && (d.use 1).uwords == 1
      | none => false) = true := by decide +kernel

/-- An element that is not NaN, two contributions at one W within range, and their other order (SumOrder). -/
theorem witness_sum : let e : SumElem := { acc := 5, w := 3, wKnown := true, tag := .finite, count := 0, entry := 0 }
    let l : List (BitVec 128 × BitVec 16 × Bool) := [(1, 3, false), (BitVec.ofInt 128 (-7), 3, false)]
    l.Perm l.reverse ∧ e.tag ≠ .nan ∧ e.w = 3 ∧ l.all (fun c => c.2.1 == 3 && !c.2.2) = true ∧ e.acc.toInt + (l.map (fun c => c.1.toInt)).sum = -1 :=
  ⟨(List.reverse_perm _).symm, by decide +kernel⟩

/-! Witnesses: scheduling, blocks and tiles. -/

/-- A group at slot 5, the slots before it empty, takes the issue (SchedulingAndTimeouts). -/
theorem witness_quarter : let s := onePanel.setArr 0 { oneArr with groups := [(5, oneGroup)] }
    (∀ j, j < 5 → s.fetchCtx 0 j = none) ∧ (s.trySlot 0 5).1 = true := by decide +kernel

/-- A subgroup that waits for its fellows, a block none of whose lanes can go on, a subgroup overdue. -/
theorem witness_waiting :
    let g := { oneGroup with subs := [{ subOf 0xFFFFFFFF with wait := .reconv 0xFFFFFFFF }] }
    let b := { oneGroup with subs := [{ subOf 0xFFFFFFFF with wait := .barrier 1 }] }
    let y := { oneGroup with subs := [{ subOf 0xFFFFFFFF with yieldCount := 262144 }] }
    (onePanel.setArr 0 { oneArr with groups := [(0, g)], steps := 256 }).group 0 0 = some g ∧
    deadlocked { oneArr with groups := [(0, b)] } 0 oneBlock = true ∧ deadlocked oneArr 0 oneBlock = false ∧
    y.held = false ∧ (∀ u ∈ y.subs, u.wait = .running ∧ u.stopped = false ∧ 262144 ≤ u.yieldCount) := by decide +kernel

/-- A barrier at which all 32 threads have arrived is complete, one at which none has is not (Barriers). -/
theorem witness_barrier : let k := { oneBlock with arrived := [(1, 2 ^ 32 - 1)] }
    Tab.getD k.arrived 1 0 ≠ 0 ∧ k.complete (exitedThreads { oneArr with blocks := [(0, k)] } 0) 1 = true ∧
    ¬ (Tab.getD oneBlock.arrived 1 0 ≠ 0 ∧ oneBlock.complete (exitedThreads oneArr 0) 1 = true) := by decide +kernel

/-- A launch of three blocks of 33 threads, 32 registers, one unit in one bank, that runs on array 0. -/
def oneLaunch : Work :=
  { id := 1, port := 0, part := 0, mailbag := 0, seq := 1, type := 1, after := false,
    entry := BitVec.ofNat 512 (1 + 2 ^ 64 + 3 * 2 ^ 320 + 33 * 2 ^ 368 + 32 * 2 ^ 384 + 2 ^ 400 + 2 ^ 416), slice := 0, snap := wholeSnap,
    phase := .running, why := none, preempts := 0, defers := 0, steps := 0, latency := false, pigeonhole := 0xFF, kernelEntry := 0x1000,
    textLo := 0x1000, textHi := 0x2000, kernelId := 0, loadGen := 0, kflags := 0, want := 1, nextBlock := 0, retired := 0, arrays := [0],
    startSeq := 0, haltDispatch := false, fault := none, fwd := 0, acked := false, target := none, fences := [0], hostArrays := [],
    lostOrder := [], options := 0, lcArrays := 0 }

/-- The panel with that launch. -/
def launched : State := { onePanel with works := [oneLaunch] }

theorem witness_block_accept : let s := launched.setArr 0 { oneArr with blocks := [], groups := [], tiles := [] }
    s.launchOn 0 = some oneLaunch ∧ (s.roomFor 0 oneLaunch).isSome = true ∧
      oneLaunch.arrays.find? (fun ga => (s.roomFor ga oneLaunch).isSome) = some 0 ∧ oneLaunch.fences.contains 0 = true := by decide +kernel

/-- A split to change, and one under way; the last group of the launch, which has one thread (BlockStart). -/
theorem witness_split : launched.launchOn 0 = some oneLaunch ∧ (launched.arr 0).groups = [] ∧ (launched.arr 0).reconfig = none ∧
    (launched.arr 0).lsBanks ≠ 1 ∧ oneLaunch.lsBanks = 1 ∧ ((onePanel.setArr 0 { oneArr with reconfig := some 8 }).arr 0).reconfig = some 8 ∧
    32 * 1 < oneLaunch.threads := by decide +kernel

/-- The MMA_LEDGER that quarter 0 holds, with 62 mismatches counted of cell 1: errors that the check misses, one that it finds and a
recomputation mends, one that stays (ResidueCheck). -/
theorem witness_residue : let x : Staging := { slot := 0, tileNo := 0, pc := 0x1000, after := oneTile, sums := [], expected := [] }
    let s := onePanel.setArr 0 { oneArr with staged := [(0, x)], mismatches := [(1, 62)] }
    Tab.get (s.arr 0).staged 0 = some x ∧ x.slot = 0 ∧ s.group 0 0 = some oneGroup ∧ s.block 0 0 = some oneBlock ∧
    s.servingCell 0 0 1 = 1 ∧ Tab.getD (s.arr 0).mismatches 1 0 < 63 ∧ Tab.sorted (s.arr 0).staged = true ∧
    (x.withErrors 1 []).passes 1 = true ∧ (x.withErrors 1 [(256, 1)]).passes 1 = false := by
  decide +kernel

/-! Witnesses: caches and memory. -/

/-- A request of array 0 for line 0. -/
def oneReq (kind : ReqKind) (line : Nat) : MemReq :=
  { id := 7, part := 0, arr := 0, slot := 0, kind := kind, line := line, lanes := [], size := 4, signed := false, isFloat := false, dst := 0, mask := 0,
    data := 0, stamp := 0, sl := 0, pc := 0x1000, mask32 := 1 }

/-- The panel with the slices of every die of the sector ready. -/
def ready : State := (List.range 12).foldl (fun s d => (s.setReg (Reg.siteState (posSite d)) (useWord (posSite d) d none)).setBit
  (Reg.sliceState (Base.slice (posSite d))) 0) onePanel

theorem witness_home : (∀ kind, kind = .load ∨ kind = .ledger → let s := { ready with reqs := [oneReq kind 0] }
      s.headReq 0 0 = some (oneReq kind 0) ∧ s.sliceReady (s.homeDie 0 0) = true) ∧
    ((({ ready with reqs := [oneReq .load 0] } : State).setSlice (ready.homeDie 0 0) { Slice.reset with misses := [{ line := 0, waiters := [] }] }).accessUpset
      0 0 (.missRegister 0)).2 = false ∧
    takeFill 0 5 [{ part := 0, line := 5, code := .live, data := 1, arr := none }] = some ({ part := 0, line := 5, code := .live, data := 1, arr := none }, []) ∧
    takeFill 0 5 [{ part := 0, line := 5, code := .live, data := 1, arr := some 0 }] = some ({ part := 0, line := 5, code := .live, data := 1, arr := some 0 }, []) ∧
    takeAck 3 5 [(3, 5, 9)] = some (9, []) ∧ (ready.sliceBase 0).isSome = true := by
  refine ⟨?_, by decide +kernel⟩
  rintro kind (rfl | rfl) <;> decide +kernel

/-- A side buffer that awaits a line it does not hold (HomesSpillsAndSideBuffer). -/
theorem witness_side_buffer : let a := { oneArr with sidePend := [5] }
    a.sidePend.contains 5 = true ∧ a.l1Find 5 = none ∧ a.l1Pending 5 = false := by decide +kernel

/-- A merging sum line whose spill record stands in HBM. -/
theorem witness_spill : let u : SumLine := { line := 0, since := 0, merging := true, mask := 0, elems := [] }
    let sl := { Slice.reset with sums := [u], spills := [(ready.setOf 0 / 2, 1)] }
    let s := (ready.setSlice (ready.homeDie 0 0) sl).rawWrite 0 (ready.spillAddr 0 (ready.homeDie 0 0) (ready.setOf 0 / 2) 0) 1 8
    Memory.wf s.hbm = true ∧ ((s.slice (s.homeDie 0 0)).sums.find? (fun u => u.line == 0 && u.merging)).isSome = true ∧
      s.findSpill 0 (s.homeDie 0 0) 0 = some 0 := by decide +kernel

/-- A read of HBM waiting, never failed and twice failed, and a masked write (MemoryReadsAndRepair). -/
def oneRead (fails : Nat) (line : Nat) : MidOp := { part := 0, line := line, isWrite := true, mask := 1, data := 0, dead := false, fails := fails, bits := [], through := false }

theorem witness_hbm : (∀ n ∈ [0, 1, 2], ({ onePanel with reads := [oneRead n 0] } : State).hbmHead 0 0 = some (oneRead n 0)) ∧
    (0 < onePanel.partN 0 ∧ 128 * 0 < farStart ∧
      oneRead 0 0 ∈ ((onePanel.setMid 0 { Mid.reset with retiring := [oneRead 0 0] }).mid ((onePanel.stackOf 0 0).1 / 4)).retiring) ∧
    8 ≤ Tab.getD ((onePanel.setMid 7 { Mid.reset with laneFails := [(laneKey 31 0 0, 8)] }).mid (31 / 4)).laneFails (laneKey 31 0 0) 0 := by
  decide +kernel

theorem witness_far : let o := oneRead 0 (farStart / 128 + 32)
    let s := ({ onePanel with reads := [o] } : State).setBit (Reg.farState 0) 0
    let s := s.setMid 0 { Mid.reset with farAttached := true }
    s.reads.find? (fun o => s.opAtFar 0 o && opPage o == 1) = some o ∧ s.farUp 0 = true ∧ onePanel.bit (Reg.farState 0) 0 = false := by
  decide +kernel

/-! Witnesses: couriers and regulators. -/

/-- A courier of partition 0 with a chain under way. -/
def oneCourier : Courier := { Courier.reset with st := .running, part := 0, work := some 1, record := 0x40 }

theorem witness_courier_record : let s := onePanel.setCourier 0 oneCourier
    ((s.courier 0).st = .running ∧ (s.courier 0).started = false ∧ (s.courier 0).holdNext = false ∧ s.poisoned (s.courier 0).part = false ∧
      (s.courier 0).pigeonhole = none ∧ ({ oneCourier with cancel := true }).cancel = true ∧ ({ oneCourier with record := 0x41 }).record.toNat % 64 ≠ 0) ∧
    (s.setBit Reg.partPoison 0).poisoned 0 = true ∧
    ((onePanel.setCourier 447 { oneCourier with st := .gated, gateEn := true }).courier 447).st = .gated := by decide +kernel

/-- The reads of a courier's access, none of which fails. -/
def goodReads : MemReads := { hbm := [], tagFails := 0 }

theorem witness_courier_lines : ∀ op ∈ [1, 2, 3], let cr := { oneCourier with started := true, op := op, total := 2, dst := 0x100 }
    let s := onePanel.setCourier 0 cr
    cr.done < cr.total ∧ s.crDown 0 cr.src.toNat = false ∧ s.crDown 0 cr.dst.toNat = false ∧ cr.src.toNat < hcStart ∧ s.hostUp 0 = true ∧
      s.hostRoom 0 = true ∧ s.mayAsk 0 = true ∧ (match s.crAsk 0 0 (cr.src.toNat / 128) goodReads with
        | some u => (match (if u.renews cr 0x100 then u.chargeLine 0 0 2 else u.crAskWrite 0 0 2 goodReads) with
          | some v => (v.crRead 0 0 0).1.isSome
          | none => false)
        | none => false) = true := by decide +kernel

theorem witness_courier_done : let cr := { oneCourier with started := true, total := 1, done := 1, next := 0x80 }
    cr.total ≤ cr.done ∧ cr.doneAddr.toNat < hcStart ∧ (onePanel.setCourier 0 cr).crFlush cr = false ∧ ({ cr with status := 4 }).status ≠ 0 := by decide +kernel

/-- A bucket that is disabled, one with a level, one that may use an idle resource, and one that may not (CouriersAndRegulators). -/
theorem witness_buckets : let rate := Reg.bktRate 0 0
    onePanel.held = [] ∧ Tab.sorted onePanel.regs = true ∧ onePanel.bit rate 31 = false ∧
    0 < ((onePanel.setBit rate 31).setReg (Reg.bktLevel 0 0) 1).bucketLevel 0 0 ∧ (onePanel.setReg rate 0xC0000000).bit rate 30 = true ∧
    bucketResource 0 0 ∉ onePanel.granted ∧ (onePanel.setBit rate 31).bit rate 31 = true ∧ (onePanel.setBit rate 31).bucketLevel 0 0 ≤ 0 ∧
    (onePanel.setBit rate 31).bit rate 30 = false := by decide +kernel

/-! Witnesses: courses and transit. -/

/-- The panel with a course up. -/
def coursed : State := onePanel.setReg (Reg.courseState 0 0) 0x200

/-- A packet of a type whose parity and trailer are right. -/
def packetOf (header : BitVec 64) : Packet :=
  let k : Packet := { header := header, body := [], trailer := 0 }
  { k with trailer := packetTrailer k }

theorem witness_strings : coursed.courseUp 0 0 = true ∧ coursed.bit (Reg.lanemap 0 0) 18 = false ∧ (coursed.half (recvKey 0 0 0)).discarding = false ∧
    onePanel.courseUp 0 0 = false ∧ (packetTrailer (packetOf 0) ^^^ ({ packetOf 0 with trailer := 1 }).trailer ≠ 0) ∧
    packetTrailer (packetOf 0) ^^^ (packetOf 0).trailer = 0 := by decide +kernel

/-- A packet that carries nothing, and the three of link control (StringHalves). -/
theorem witness_packets : let data := (List.range 4).filterMap (fun h => let k := packetOf (BitVec.ofNat 64 h)
        if oddParity k.header || !k.wf then none else some k.type)
    let control := [0x9, 0xA, 0xC].map (fun t => let k := controlPacket t 1 0 0
      (k.type, packetTrailer k ^^^ k.trailer, oddParity k.header))
    data ≠ [] ∧ (∀ t ∈ data, t ≠ 0x9 ∧ t ≠ 0xA ∧ t ≠ 0xC) ∧ control = [(0x9, 0, false), (0xA, 0, false), (0xC, 0, false)] := by decide +kernel

theorem witness_lane : let s := { coursed with halves := [(recvKey 0 0 0, { Half.reset with mismatches := [(0, 4)] })] }
    s.courseUp 0 0 = true ∧ s.bit (Reg.lanemap 0 0) 18 = false ∧ 4 ≤ Tab.getD (s.half (recvKey 0 0 0)).mismatches 0 0 := by decide +kernel

/-- A transit path with a packet to send, one that awaits its acknowledgement, slots of a running partition and of none (Transit). -/
theorem witness_transit_egress : let x := { TransitPath.reset with unacked := [(1, packetOf 0)] }
    let s := { onePanel with transit := [(transitKey 0 0 1, x)] }
    Tab.get s.transit (transitKey 0 0 1) = some x ∧ x.unacked.find? (fun e => e.1 == 1) = some (1, packetOf 0) := by decide +kernel

theorem witness_transit_slots :
    (let v : W32 := 0; ∃ n, n < 8 ∧ bitsOf v.toNat (4 * n) 4 < 6 ∧ onePanel.partState (bitsOf v.toNat (4 * n) 4) = 2) ∧
    (let v : W32 := 0x77777777; ∀ n, n < 8 → ¬ bitsOf v.toNat (4 * n) 4 < 6) ∧
    (∀ j, j < 3 → ∀ n, n < 8 → State.reset.partState (bitsOf (State.reset.reg (Reg.transitSlot 0 j)).toNat (4 * n) 4) ≠ 2) := by decide +kernel

/-! Witnesses: the timebase, windows, low words, registers. -/

/-- A replica ahead of the master and one behind it (TimebaseCounts). -/
theorem witness_timebase : let s := { onePanel with tb := { Timebase.reset with running := true, ticks := 1024, master := 40, skew := [(0, 80)] } }
    s.tb.running = true ∧ 1024 ≤ s.tb.ticks ∧ 0 ∈ s.replicaUnits ∧ 0 ∉ s.tb.loading ∧ 0 < (s.replica 0 - s.tb.master).toInt ∧
    108 ∈ s.replicaUnits ∧ (s.replica 108 - s.tb.master).toInt ≤ 0 := by decide +kernel

theorem witness_low_words : (onePanel.arrayBase 0).isSome = true ∧ (onePanel.sliceBase 0).isSome = true ∧ (onePanel.courierBase 0).isSome = true ∧
    (onePanel.courierBase 447).isSome = true ∧ onePanel.boundTo 0 = some 0 ∧ onePanel.boundTo 5 = none := by decide +kernel

/-- A register that its table describes whole (RegisterWrites). -/
theorem witness_register : (match placeOf (Reg.partOptions 0) with
    | some pl => (findDesc pl.off (descsOf pl.kind)).isSome
    | none => false) = true := by decide +kernel

/-- A status register whose bits show a record, at its address (RegisterWrites). -/
theorem witness_records : (match onePanel.arrayBase 0 with
    | some b => (match placeOf (Reg.arrStatus b) with
      | some pl => (findDesc pl.off (descsOf pl.kind)).isSome && recordsOf pl.kind pl.off != [] && decide (pl.off ≤ Reg.arrStatus b)
      | none => false)
    | none => false) = true ∧ Tab.sorted onePanel.regs = true := by decide +kernel

/-! Witnesses: faults, mailbags and entries. -/

theorem witness_fault_queue : let r := FaultRec.plain 0x0804 unitNone 0 none
    (onePanel.raise r).faults.undelivered ≠ [] ∧ 2 ≤ ({ r with cls := 4 }).cls ∧ onePanel.barOpen 0 = true ∧ onePanel.barOpen 1 = false := by
  decide +kernel

/-- The panel with mailbag 0 of port 0 enabled on slice 0, and its partition KEYED. -/
def posted : State :=
  (((onePanel.setReg (Reg.keyState 0) 2).setReg (Reg.mailbagCtl 0 0) 0x9).setReg (Reg.slicePasid 0 0) 0x80000001).setMailbag 0 0
    { Mailbag.reset with tail := 1 }

theorem witness_mailbag : posted.doorbell 0 0 = true ∧ posted.doorbell 1 0 = false ∧ posted.barOpen 0 = true ∧ posted.bit (Reg.mailbagCtl 0 0) 9 = false ∧
    posted.mayTake 0 0 = true ∧ (let s := posted.setMailbag 0 0 { Mailbag.reset with tail := 1, reading := true }
      (s.mailbag 0 0).reading = true ∧ s.taking 0 0 = true ∧ s.boundTo 0 = some 0) := by decide +kernel

/-- An entry of a type, taken and not handled yet; a management entry names its operation, a CANCEL and a PREEMPT their target. -/
def oneEntry (t more : Nat) (phase : WPhase) : Work :=
  { oneLaunch with id := 5, type := t, entry := BitVec.ofNat 512 (t + 2 ^ 64 + more), phase := phase, arrays := [], fences := [] }

theorem witness_final : let s := { onePanel with works := [oneLaunch] }
    s.work oneLaunch.id = some oneLaunch ∧ oneLaunch.phase ≠ .finished ∧ oneLaunch.why ≠ some .linkDown := by decide +kernel

theorem witness_handed : ∀ t ∈ [1, 2, 3, 4, 5, 6], ({ onePanel with works := [oneEntry t 0 .handed] } : State).handed 0 0 t = some (oneEntry t 0 .handed) := by
  decide +kernel

/-- Launches refused, chains refused and taken. -/
theorem witness_reasons : onePanel.launchReason (oneEntry 1 0 .handed) = 0x10 ∧ onePanel.chainReason (oneEntry 2 0 .handed) = 0x60 ∧
    onePanel.chainReason (oneEntry 2 (0x300 * 2 ^ 128) .handed) = 0 := by decide +kernel

/-- A code object at address 0 of one kernel of 1,024 threads, 64 bytes of text. -/
def coded : State := onePanel.writeWord 0 0 64
    (0x4358524D + 2 ^ 32 + 0x1000 * 2 ^ 64 + 0x200 * 2 ^ 128 + 64 * 2 ^ 160 + 0x40 * 2 ^ 256 + 2 ^ 288)

/-- A launch of it. -/
def goodLaunch : Work := { oneLaunch with id := 5, entry := oneLaunch.entry + BitVec.ofNat 512 (2 ^ 424 + 0xFF * 2 ^ 432), phase := .handed, arrays := [], fences := [] }

theorem witness_launch : (coded.writeWord 0 0x40 64 (33 * 2 ^ 112)).launchReason goodLaunch = 0 := by decide +kernel

/-- A check that answers a reason, passed. -/
theorem passes {c : Prop} [Decidable c] {x y : Nat} (h : (if c then x else y) = 0) (hx : c → x ≠ 0) : ¬c ∧ y = 0 := by
  by_cases hc : c
  · exact absurd (by rwa [if_pos hc] at h) (hx hc)
  · exact ⟨hc, by rwa [if_neg hc] at h⟩

/-- What stands against a launch but for the queue does not depend on the other entries. -/
theorem launchReason_works (b : State) (W : List Work) (k : Work) (h : b.launchReason k = 0) :
    ({ b with works := W } : State).launchReason k = if 32768 ≤ (({ b with works := W } : State).queue k.part (k.cls == 0)).length then 0x70 else 0 := by
  have h1 : ({ b with works := W } : State).codeReason k = b.codeReason k := rfl
  have h2 : ({ b with works := W } : State).partArrays k.part = b.partArrays k.part := rfl
  have h4 : ({ b with works := W } : State).couldHold k = b.couldHold k := rfl
  have h3 : ∀ x, ({ b with works := W } : State).regionFor k.part k.snap x = b.regionFor k.part k.snap x := fun _ => rfl
  have h5 : ({ b with works := W } : State).partState k.part = b.partState k.part := rfl
  have h6 : ({ b with works := W } : State).phIs k.part k.hole = b.phIs k.part k.hole := rfl
  have h7 : ({ b with works := W } : State).phHopeless k.part k.hole = b.phHopeless k.part k.hole := rfl
  unfold State.launchReason at h ⊢
  simp only [h1, h2, h3, h4, h5, h6, h7]
  iterate 13
    obtain ⟨hc, h⟩ := passes h (by first | exact fun _ => by decide | exact fun h => h)
    rw [if_neg hc]
  obtain ⟨_, h⟩ := passes h (fun _ => by decide)
  obtain ⟨hc, _⟩ := passes h (fun _ => by decide)
  rw [if_neg hc]

/-- A launch on a full class queue: every check before that of the queue passes. -/
theorem witness_full_queue : let full := List.replicate 32768 { oneLaunch with phase := .queued }
    ({ coded.writeWord 0 0x40 64 (33 * 2 ^ 112) with works := full } : State).launchReason goodLaunch = 0x70 := by
  intro full
  have cls : (goodLaunch.cls == 0) = false ∧ goodLaunch.part = 0 := by decide +kernel
  rw [launchReason_works _ full _ witness_launch, if_pos]
  rw [cls.1, cls.2]
  show 32768 ≤ (full.filter _).length
  refine Nat.le_of_eq ?_
  rw [List.filter_replicate_of_pos (by decide), List.length_replicate]

/-- CANCEL and PREEMPT: no target, a finished one, one that runs. -/
theorem witness_targets : let k := oneEntry 3 (2 ^ 192) .handed
    ({ onePanel with works := [k] } : State).targetOf k = none ∧
    (let j := { oneLaunch with phase := .finished }; let s := { onePanel with works := [j, k] }; s.targetOf k = some j ∧ s.receipted j = true) ∧
    (let s := { onePanel with works := [oneLaunch, k] }; s.targetOf k = some oneLaunch ∧ s.receipted oneLaunch = false) := by decide +kernel

/-- A flush read of the group of array 0. -/
def oneFlush : FlushRead := { arr := 0, slot := 0, id := 1, pasid := 0x80000001, addr := 0 }

/-- A receipt that may be written, a tail word that is due, a flush read, a host read, a launch whose blocks have stopped, an empty queue. -/
theorem witness_receipts : let k := oneEntry 6 0 .finished
    let s := ({ posted with works := [k] } : State).setMailbag 0 0 { Mailbag.reset with receipts := [k.receipt true 1 0] }
    s.boundTo 0 = some 0 ∧ s.follows 0 = false ∧ s.pairState 0 ≠ 5 ∧ s.pairState 0 ≠ 6 ∧ (s.mailbag 0 0).tailDue = false ∧ (s.port 0).linkUp = true ∧ s.mayAsk 0 = true ∧
      takeReceipt (s.mayReceipt 0 0 0) (s.mailbag 0 0).receipts = some (k.receipt true 1 0, []) ∧ s.needsDone 0 (k.receipt true 1 0) = false ∧
      ((posted.setMailbag 0 0 { Mailbag.reset with tailDue := true }).mailbag 0 0).tailDue = true ∧
      ((posted.setPort 0 { posted.port 0 with flushes := [oneFlush] }).port 0).flushes = [oneFlush] := by decide +kernel

theorem witness_host_read : let r := oneReq .load (hostStart / 128)
    hostStart ≤ 128 * r.line ∧ ({ onePanel with reqs := [r] } : State).reqs.find? (fun q => q.part == 0 && q.line == r.line && q.kind.reads && !q.arrived) = some r ∧
    ([{ oneLaunch with phase := .stopping }].find? (fun k => k.port == 0 && k.mailbag == 0 && k.seq == 1 && k.type == 1 && k.phase == .stopping)).isSome = true ∧
    onePanel.partState 0 = 2 ∧ onePanel.queue 0 true = [] ∧ onePanel.queue 0 false = [] ∧ onePanel.hungry 0 true = [] ∧ onePanel.hungry 0 false = [] ∧
    (onePanel.part 0).phWanted = [] ∧ State.reset.partState 0 ≠ 2 := by decide +kernel

/-- A best-effort launch alone in the queue, with an array to pick for it. -/
theorem witness_dispatch : let k := { oneLaunch with phase := .queued, arrays := [], fences := [], pigeonhole := 64 }
    let s := { onePanel with works := [k] }
    s.partState 0 = 2 ∧ s.poisoned 0 = false ∧ s.queue 0 true = [] ∧ s.queue 0 false = [k] ∧ s.hungry 0 true = [] ∧ s.hungry 0 false = [] ∧
    (s.part 0).phWanted = [] ∧ s.work k.id = some k ∧ 64 ≤ k.pigeonhole ∧ s.mayRun k = true ∧ s.pick k (min k.want (s.beRoom k)) ≠ [] := by
  decide +kernel

/-! Witnesses: routes. -/

/-- A panel whose partition 0 is sector 6 under port 0, so that its traffic to the port passes the sites above. -/
def distant : State := (List.range 12).foldl (fun s d => s.setReg (Reg.siteState (posSite (72 + d))) (useWord (posSite (72 + d)) (72 + d) none))
  ((onePanel.setReg (Reg.partLayout 0) 0x16).setReg (Reg.partState 0) 0x4002)

theorem witness_reroute : let s := distant.setReg (Reg.siteState 36) 5; let l := s.layout 0
    s.siteState 36 = 5 ∧ s.unitIn l (s.partPort 0) 36 = false ∧ l.n ≠ 0 ∧ (s.sharedHops l (s.partPort 0)).any (fun h => h.1 == 36) = true := by
  decide +kernel

theorem witness_send_slot : let k := transitKey 0 72 116; let x := { TransitPath.reset with ready := [packetOf 0] }
    let s := { distant.setReg (Reg.transitSlot 72 0) 0 with transit := [(k, x)] }
    s.slotOwner 72 0 0 < 6 ∧ s.passing 0 72 0 = none ∧ s.readyPath (s.slotOwner 72 0 0) 72 0 = some (k, x) ∧ x.resend = [] ∧
    x.ready = packetOf 0 :: [] := by decide +kernel

/-- A packet on its way that its slot takes a course further, and the same past its last course, where its egress takes it (Transit). -/
theorem witness_transit_flight : let k := transitKey 0 72 116
    let on := fun (n : Nat) => { TransitPath.reset with unacked := [(1, packetOf 0)], flight := [(1, n, [])] }
    let s := fun (n : Nat) => { distant.setReg (Reg.transitSlot 72 0) 0 with transit := [(k, on n)] }
    (s 0).passing 0 72 0 = some (k, on 0, 1) ∧ (s 0).hasCrossed 0 k (on 0) 1 = false ∧
    (s 0).hasCrossed 0 k (on ((s 0).pathHops 0 k (on 0)).length) 1 = true := by decide +kernel

/-! Witnesses: slices and partitions. -/

theorem witness_slices : let a := Reg.saveCtl 0 63
    ((onePanel.setPort 0 { onePanel.port 0 with dlogPend := [(0, 1)] }).port 0).dlogPend.find? (fun e => e.1 == 0) = some (0, 1) ∧
    onePanel.barOpen 0 = true ∧ onePanel.barOpen 1 = false ∧ onePanel.bit a 0 = false ∧ (onePanel.setBit a 0).bit a 0 = true ∧
    onePanel.sliceWorks 0 63 = [] ∧ launched.sliceWorks 0 0 = [oneLaunch] ∧ onePanel.boundTo 5 = none ∧ onePanel.sliceResetting 0 63 = false ∧
    (onePanel.setBit (Reg.sliceRstHi 0) 31).sliceResetting 0 63 = true := by decide +kernel

theorem witness_restore :
    let r : SaveRec := { magic := 0x43564153, version := 1, fits := true, pasid := 0, hbm := 0, far := 0, hc := 0, mailbags := [], held := [], image := [] }
    let s := onePanel.setBit (Reg.saveCtl 0 63) 8
    s.mayRestore 0 63 r = true ∧ s.mayRestore 0 63 { r with version := 2 } = false ∧ entryType (2 : BitVec 512) ≠ 1 := by decide +kernel

/-- A panel on which sector 0 is complete and free, its stacks trained, under ordering code D. -/
def formable : State :=
  let s := (List.range 4).foldl (fun s i => s.setReg (Reg.stackState 0 i) 1) ((ready.setReg (Reg.partState 0) 0).setPort 0 Port.reset)
  { s with trust := { s.trust with orderD := true } }

theorem witness_form : formable.partState 0 = 0 ∧ formable.mgdLost = false ∧ formable.formError 0 = 0 ∧ State.reset.formError 5 = 1 := by decide +kernel

theorem witness_partitions : let at' := fun (v : W32) => onePanel.setReg (Reg.partState 0) v
    (at' 0x105).partState 0 = 5 ∧ (at' 0x107).partState 0 = 7 ∧ onePanel.partState 0 = 2 ∧ (at' 0x104).partState 0 = 4 ∧
    (∀ k ∈ onePanel.works, k.part = 0 → k.phase = .finished) ∧ onePanel.pairState 0 = 0 ∧ (onePanel.port (onePanel.partPort 0)).bound = some 0 ∧
    (State.reset.port (State.reset.partPort 0)).bound ≠ some 0 ∧ (onePanel.keysOf 0).scrubLeft = [] ∧
    ((onePanel.setKeys 0 { PartKeys.reset with scrubLeft := [0] }).keysOf 0).scrubLeft ≠ [] ∧ onePanel.partK0 0 + onePanel.partN 0 ≤ 8 ∧
    (onePanel.part 0).fatal = none ∧ ((onePanel.setPart 0 { Part.reset with fatal := some (1, 2) }).part 0).fatal = some (1, 2) ∧
    launched.work oneLaunch.id = some oneLaunch ∧ oneLaunch.type = 1 ∧ oneLaunch.phase = .running := by decide +kernel

theorem witness_restart : let s := (ready.setReg (Reg.partState 0) 0x105).setReg (Reg.partRstState 0) 4
    s.partState 0 = 5 ∧ 4 ≤ s.field (Reg.partRstState 0) 0 3 ∧ (s.part 0).joining = [] ∧ s.keyState 0 ≠ 1 ∧
    (onePanel.setReg (Reg.siteState 4) 2).nearestSpare 0 = some 4 := by decide +kernel

/-! Witnesses: management. -/

/-- A management entry of an operation at the Postmaster, its parameter block at an address. -/
def oneMgmt (op addr : Nat) : State := { onePanel with works := [oneEntry 5 (op * 2 ^ 128 + addr * 2 ^ 192) .atPostmaster] }

/-- Every operation has its entry; its block is one of zeros, or cannot be read (Management, FarTier, PairLinks). -/
theorem witness_management : onePanel.mgmtNext 0 0x0100 = none ∧
    (∀ op ∈ [0x100, 0x101, 0x102, 0x103, 0x104, 0x105, 0x106, 0x107, 0x108, 0x300, 0x400, 0x401, 0x402, 0x403, 0x500, 0x501, 0x600, 0x601],
      (oneMgmt op 0).mgmtNext 0 op = some (oneEntry 5 (op * 2 ^ 128) .atPostmaster)) ∧
    ((oneMgmt 0x100 0).paramBlock (oneEntry 5 (0x100 * 2 ^ 128) .atPostmaster)).1 = some 0 ∧
    ((oneMgmt 0x100 (192 * gib)).paramBlock (oneEntry 5 (0x100 * 2 ^ 128 + 192 * gib * 2 ^ 192) .atPostmaster)).1 = none ∧
    (oneMgmt 0x103 0).partState 0 = 2 ∧ ((oneMgmt 0x103 0).setReg (Reg.partState 0) 0x104).partState 0 ≠ 2 := by decide +kernel

/-- A FAR_RELEASE in progress with a die to go, and with none; no release, as it begins (FarTier). -/
theorem witness_far_release : onePanel.boundTo 0 = some 0 ∧ onePanel.releasing 0 = none ∧
    (onePanel.setMid 0 { Mid.reset with farReleasing := some (5, [3]) }).releasing 0 = some (0, 5, [3]) ∧
    (onePanel.setMid 0 { Mid.reset with farReleasing := some (5, []) }).releasing 0 = some (0, 5, []) := by decide +kernel

/-- The ranges of a digest: a table of one range, and none. -/
theorem witness_digest : let k := oneEntry 5 (0x401 * 2 ^ 128) .atPostmaster
    let s := { onePanel with works := [k], hbm := [(0, 1), (25, 16)] }
    (s.digestRanges k 0).1 = some [(0, 0x1000)] ∧ (s.digestRanges k (192 * gib)).1 = none ∧
    (∀ j ∈ s.works, j.part = 0 → j.id < k.id → j.phase = .finished) ∧ oneLaunch.id < k.id ∧ oneLaunch.phase ≠ .finished := by decide +kernel

/-- A pigeonhole with nothing under way. -/
def oneHole : Pigeonhole :=
  { size := 0x1000, farOffset := 0, warm := 0, lastUse := 0, loadGen := 0, todo := [], partsLeft := 0, warming := false, pinAfter := false,
    decided := false, waiting := [] }

theorem witness_pigeonhole :
    Tab.get (onePanel.part 0).pigeonholes 63 = none ∧ Tab.get ((onePanel.setPart 0 { Part.reset with pigeonholes := [(63, oneHole)] }).part 0).pigeonholes 63 = some oneHole := by
  decide +kernel

theorem witness_scrubs : let a := Reg.scrubSector 7
    (onePanel.setReg a 3).field a 0 2 = 3 ∧ (onePanel.setReg a 1).field a 0 2 = 1 ∧ onePanel.field a 0 2 ≠ 1 ∧ onePanel.field a 0 2 ≠ 3 := by decide +kernel

/-! Witnesses: trust and the operator. -/

/-- A host port whose responder has come as far as the algorithms, with session 1 ready. -/
def connected : State := onePanel.setSpdm 0 { versionDone := true, capsDone := true, algsDone := true, sessions := [(1, { Session.reset with openNow := true, finished := true })] }

theorem witness_spdm : connected.doeUp 0 = true ∧ connected.doeUp 5 = false ∧ (connected.spdmOf 0).algsDone = true ∧ (onePanel.spdmOf 0).algsDone = false ∧
    (connected.session 0 1).openNow = true ∧ (connected.session 0 1).finished = true ∧ (connected.session 0 0).openNow = false ∧
    connected.boundTo 0 = some 0 ∧ ((connected.setPort 0 { connected.port 0 with bound := none }).boundTo 0) = none := by decide +kernel

/-- An envelope that passes every check, a grant of a right and a revocation (Trust). -/
def oneEnvelope : Envelope :=
  { magic := 0x4C45564E, version := 1, flags := 0, jobId := 9, panel := 0, nonce := 0, firstSector := 0, count := 1, port := 0, reserved := 0, tenantKey := 0,
    tenantKeyHash := 0, jobSecret := 1, storageSecret := 2, partner := 0 }

/-- The control register of a mailbag of port 0 by its place and its reset value. -/
theorem mailbagCtl_place {m : Nat} (h : m < 4096) : placeOf (Reg.mailbagCtl 0 m) = some ⟨.letterbox, m / 64, 0x808 + 32 * (m % 64)⟩ := by
  have e : Reg.mailbagCtl 0 m = 0x1040000 + 0x1000 * (m / 64) + 0x808 + 32 * (m % 64) := by
    simp [Reg.mailbagCtl, Base.letterbox]
  have h1 : m / 64 < 64 := by omega
  have h2 : m % 64 < 64 := by omega
  rw [e]
  generalize m / 64 = q at *
  generalize m % 64 = r at *
  unfold placeOf
  simp only []
  repeat' (first | rw [if_neg (by omega)] | rw [if_pos (by omega)])
  simp only [Option.some.injEq, Place.mk.injEq, true_and]
  omega

theorem mailbagCtl_reset {m : Nat} (h : m < 4096) : regReset (Reg.mailbagCtl 0 m) = 0 := by
  have : ∀ r, r < 64 → (match findDesc (0x808 + 32 * r) (descsOf .letterbox) with
      | none => true
      | some (d, _) => d.reset == 0) = true := by decide +kernel
  have := this (m % 64) (by omega)
  unfold regReset
  rw [mailbagCtl_place h]
  simp only
  split
  · rfl
  · rename_i d i hd
    rw [hd] at this
    simp at this
    simp [this]

theorem get_absent {α : Type} {k : Nat} : ∀ {l : Tab α}, (∀ e ∈ l, e.1 ≠ k) → Tab.get l k = none
  | [], _ => rfl
  | e :: l, h => by
    have h1 := h e (by simp)
    have := get_absent (l := l) (fun x hx => h x (by simp [hx]))
    simp [Tab.get, h1, this]

theorem connected_no_work : connected.workOutstanding 0 = false := by
  have h : ∀ m, m < 4096 → connected.reg (Reg.mailbagCtl 0 m) = 0 := by
    intro m hm
    have keys : ∀ e ∈ connected.regs, e.1 < 0x1040000 := by decide +kernel
    have : Tab.get connected.regs (Reg.mailbagCtl 0 m) = none := get_absent (fun e he => by
      have := keys e he
      simp only [Reg.mailbagCtl, Base.letterbox]
      omega)
    simp [State.reg, Tab.getD, this, mailbagCtl_reset hm]
  have p : connected.partPort 0 = 0 ∧ connected.partState 0 = 2 ∧ connected.keyState 0 = 0 ∧ connected.works = [] := by decide +kernel
  have bits : ∀ m, m < 4096 → ∀ i, connected.bit (Reg.mailbagCtl 0 m) i = false := by
    intro m hm i
    simp [State.bit, State.field, bitsOf, h m hm]
  have : ((List.range 4096).any (fun m => connected.mbOn 0 m || connected.bit (Reg.mailbagCtl 0 m) 9)) = false := by
    rw [List.any_eq_false]
    intro m hm
    have hm := List.mem_range.1 hm
    simp only [State.mbOn, bits m hm, Bool.or_self, Bool.false_eq_true, not_false_eq_true]
  simp only [State.workOutstanding, p.1, p.2.1, p.2.2.1, p.2.2.2, this, List.any_nil]
  decide

/-- An envelope that passes every check, and one whose signature fails. -/
theorem witness_envelope : connected.envelopeStatus 0 1 0 oneEnvelope true true = 0 ∧ connected.envelopeStatus 0 1 0 oneEnvelope false true = 2 := by
  have h : oneEnvelope.panel = connected.trust.identity ∧ oneEnvelope.nonce = (connected.keysOf 0).nonce ∧ connected.partK0 0 = 0 ∧
    connected.partN 0 = 1 ∧ connected.partPort 0 = 0 ∧ connected.keyState 0 = 0 := by decide +kernel
  refine ⟨?_, by decide +kernel⟩
  simp only [State.envelopeStatus, connected_no_work, h.1, h.2.1, h.2.2.1, h.2.2.2.1, h.2.2.2.2.1, h.2.2.2.2.2]
  decide +kernel

theorem witness_grant : let s := onePanel.setReg (Reg.keyState 0) 2; let s := { s with trust := { s.trust with debugBlown := false } }
    let g : Grant := { magic := 0, version := 1, rights := 15, jobId := 0, grantId := 1, notAfter := 1, panel := 0, debugger := 0 }
    s.grantStatus 0 g true = 0x10 ∧ s.grantStatus 0 { g with rights := 0 } true = 0x11 ∧ onePanel.grantStatus 0 g true = 0x12 := by decide +kernel

/-- The panel with its Postmaster started. -/
def operated : State := onePanel.setBit Reg.startState 3

theorem witness_operator : operated.postmasterUp = true ∧ onePanel.postmasterUp = false ∧ (2 : BitVec 32).toNat % 4 ≠ 0 ∧
    (∀ k ∈ operated.works, k.type = 5 → k.phase ≠ .atPostmaster ∧ k.phase ≠ .running) ∧
    (match placeOf (Reg.partBudget 0) with
      | some pl => operated.operatorMay pl
      | none => false) = true := by decide +kernel

theorem witness_losses : let s := { State.reset with deadUnits := [108, 118] }
    s.deadUnits.contains 108 = true ∧ State.reset.deadUnits.contains 115 = false ∧ s.mgdLost = true ∧ State.reset.mgdLost = false ∧
    (∀ i, i < 3 → State.reset.boundTo (i + 3 * (9 - 8)) = none ∧ (State.reset.port (i + 3 * (9 - 8))).linkUp = false) := by decide +kernel

/-! Witnesses: pairs. -/

theorem witness_pairs : let s := onePanel.setPair 0 { PairPart.reset with rxHighest := 7 }
    (7 : BitVec 64).toNat ≤ (s.pair 0).rxHighest.toNat ∧ (s.pair 0).rxHighest.toNat < (8 : BitVec 64).toNat ∧ (s.pair 255).rxHighest.toNat < (1 : BitVec 64).toNat ∧
    (s.pair 255).rxHighest.toNat ≥ (0 : BitVec 64).toNat ∧ (s.pair 0).digestWork = [] ∧ (s.pair 0).ownDone = [] ∧ (s.pair 0).joinWork = none := by
  decide +kernel

/-- A line that the pair agent reads as memory holds it; nothing sent yet at a join (PairLinks). -/
theorem witness_agent : onePanel.closeFor 0 0 = onePanel ∧ onePanel.lineNow 0 0 = (.live, 0) ∧ (onePanel.part 0).takeSeq = 0 ∧
    (onePanel.agentRead 0 0).2.linkQualifies 0 0 = false ∧
    (let s := [0, 1].foldl (fun (s : State) l => (s.setReg (Reg.pairLink l) 5).setReg (Reg.bktRate Bucket.pair (6 * l)) 1) onePanel;
      (s.agentRead 0 0).2.linkQualifies 0 0 = true ∧ (s.agentRead 0 0).2.linkQualifies 0 1 = true) := by decide +kernel

theorem witness_pair_links : let l := Reg.pairLink 0
    onePanel.bit l 0 = false ∧ (onePanel.setReg l 5).bit l 0 = true ∧
    (∀ p, p < 6 → (onePanel.clearBit l 0).primary p = none ∧ onePanel.pairState p ≠ 2 ∧ (onePanel.pair p).joinWork = none) ∧
    (∀ f ∈ [true, false], let s := (onePanel.setReg (Reg.pairState 0) 1).setPair 0 { PairPart.reset with asFollower := f }
      s.pairState 0 = 1 ∧ (s.pair 0).asFollower = f) := by decide +kernel

/-! Witnesses: power and start. -/

theorem witness_power : let o : DieObs := { die := 0, natural := 60, meas := 0, static := 0 }
    onePanel.bit Reg.pwrStatus 0 = false ∧ onePanel.bit Reg.pwrStatus 1 = false ∧ onePanel.mgdLost = false ∧ (onePanel.setBit Reg.pwrStatus 1).bit Reg.pwrStatus 1 = true ∧
    ([o].map (·.die)).Nodup ∧ o ∈ [o] ∧ o.die.val ∈ onePanel.partDies 0 := by decide +kernel

theorem witness_start_steps : ∀ e ∈ ([(0, []), (1, [0]), (2, [1]), (3, [1]), (4, [2]), (5, [4]), (6, [3, 5]), (7, [6]), (9, [2]), (10, [2]), (11, List.range 11)] :
      List (Nat × List Nat)),
    let s := e.2.foldl (fun s i => s.setBit Reg.startState i) { State.reset with shell := { Shell.reset with starting := true } }
    s.stepOpen e.1 e.2 = true ∧ (s.setBit Reg.startState e.1).stepDone e.1 = true := by decide +kernel

theorem witness_start_closed : State.reset.shell.starting = false ∧ State.reset.stepDone 0 = false := by decide +kernel

/-! Witnesses: the debugger. -/

/-- A session open on partition 0 with every right, which holds the group of array 0. -/
def debugged : State :=
  let s := ((working.setReg (Reg.keyState 0) 0x1F0002).setReg (Reg.dbgPart 0) 1).setGroup 0 0 { oneGroup with held := true }
  ({ s with trust := { s.trust with orderD := true } } : State).setDbg 0 { Dbg.reset with held := [(0, 0)] }

theorem witness_dbg_open : DbgOpen debugged 0 1 true where
  reach := by decide +kernel
  order := by decide +kernel
  session := by decide +kernel
  tag := rfl
  new := by decide +kernel

theorem witness_dbg_rights : ∀ r, r < 4 → debugged.bit (Reg.keyState 0) (17 + r) = true ∧ (debugged.setReg (Reg.keyState 0) 0x10002).bit (Reg.keyState 0) (17 + r) = false := by
  decide +kernel

/-- Messages turned away: of a lost management die, of order C, with no session, with an old number. -/
theorem witness_dbg_closed : ({ debugged with deadUnits := [118] } : State).mgdLost = true ∧ working.trust.orderD = false ∧ working.mgdLost = false ∧
    (debugged.setReg (Reg.dbgPart 0) 0).bit (Reg.dbgPart 0) 0 = false ∧ (1 : BitVec 64).toNat ≤ (heardDbg debugged 0 1 |>.dbgOf 0).rxSeq.toNat := by
  decide +kernel

theorem witness_dbg_groups : debugged.dbgGroup 0 0 0 = some ({ oneGroup with held := true }, oneBlock) ∧ debugged.dbgGroup 0 0 1 = none ∧
    debugged.dbgGroup 0 96 0 = none ∧ debugged.dbgHalted 0 0 0 { oneGroup with held := true } = true ∧ debugged.dbgHalted 0 0 0 oneGroup = false ∧
    0 ∈ debugged.partArrays 0 ∧ 96 ∉ debugged.partArrays 0 ∧ Tab.get (debugged.arr 0).tiles 0 = some oneTile ∧ debugged.block 0 0 = some oneBlock ∧
    debugged.block 0 1 = none ∧ (∃ e ∈ (debugged.arr 0).groups, e.2.block = 0 ∧ debugged.dbgHalted 0 0 e.1 e.2 = true) := by decide +kernel

theorem witness_dbg_launch : launched.works.find? (fun k => k.part == 0 && k.type == 1 && k.mailbag == 0 && k.seq == 1 && k.phase != WPhase.finished) = some oneLaunch ∧
    launched.works.find? (fun k => k.part == 0 && k.type == 1 && k.mailbag == 0 && k.seq == 2 && k.phase != WPhase.finished) = none := by decide +kernel

/-- A STEP that ends on a group of a block with no stop pending, all that it issued completed. -/
theorem witness_dbg_step : (debugged.group 0 0).isSome = true ∧ (debugged.block 0 0).any (fun k => !k.stopPending) = true ∧
    (debugged.group 0 0).any (·.quiet) = true ∧ debugged.stepping 0 0 0 = false := by decide +kernel

/-- Addresses that a debug access may reach, at the ends of HBM, and that it may not. -/
theorem witness_dbg_memory : debugged.rangeIn 0 wholeSnap 0 1024 = true ∧ debugged.rangeIn 0 wholeSnap (189 * gib - 1024) 1024 = true ∧
    debugged.rangeIn 0 wholeSnap (189 * gib - 1023) 1024 = false := by decide +kernel

/-- A tile row of a well-formed element, and one row. -/
theorem witness_dbg_rows : bitsOf ((3 : BitVec 192) <<< 144).toNat 144 8 ≤ 3 ∧ (List.replicate 32 (0 : BitVec 192)).length = 32 * (1 : BitVec 8).toNat := by decide +kernel

/-! Witnesses: the machine. -/

/-- The state after reset meets the invariant that every step keeps. -/
theorem witness_sound : Sound State.reset where
  hbm := by decide
  far := by decide
  regs := by decide
  secMin := by decide

/-! Ill-formed commands, each refused by its check, beside one at the bound. -/

theorem test_wf_packet : let h := BitVec.ofNat 64 (2 ^ 62 + 2)
    (Instr.packetReceive 0 0 0 { header := h, body := List.replicate 19 0, trailer := 0 }).wf = false ∧
    (Instr.packetReceive 0 0 0 { header := h, body := List.replicate 18 0, trailer := 0 }).wf = true := by decide +kernel

theorem test_wf_tuning : let e : LaneFail := { site := 107, course := 3, str := 31, lane := 65 }
    (Instr.tuningDone [e, e]).wf = false ∧ (Instr.tuningDone [e, { e with lane := 0 }]).wf = true := by decide +kernel

theorem test_wf_restore :
    let m : SaveMailbag := { mailbag := 1, log2 := 4, ring := 0, tailAt := 0, head := 0, tail := 0, rhead := 0, base := 0, rcount := 0, lastSeq := 0 }
    let r : SaveRec := { magic := 0, version := 1, fits := true, pasid := 0, hbm := 0, far := 0, hc := 0, mailbags := [m, m], held := [], image := [] }
    (Instr.sliceRestore 0 0 r).wf = false ∧ (Instr.sliceRestore 0 0 { r with mailbags := [m, { m with mailbag := 2 }] }).wf = true := by decide +kernel

theorem test_wf_join : let c : JoinCounts := { m := 3, head := 0, rcount := 0, lastSeq := 0 }
    let h : JoinHole := { h := 3, word := 0, size := 0, farOffset := 0, warm := 0, lastUse := 0, loadGen := 0 }
    let j : JoinState := { counts := [c], area := 0, table := 0, holes := [h] }
    (Instr.joinCopyDone 0 { j with counts := [c, c] }).wf = false ∧ (Instr.joinCopyDone 0 { j with holes := [h, h] }).wf = false ∧
    (Instr.joinCopyDone 0 j).wf = true := by decide +kernel

theorem test_wf_reports : let r : MarginRep := { die := 95, supply := 0, maxFret := 0, aged := false, shift := 0, slack := 0 }
    let o : DieObs := { die := 95, natural := 0, meas := 0, static := 0 }
    (Instr.governorInterval [o, o] []).wf = false ∧ (Instr.governorInterval [o] []).wf = true ∧ (Instr.governorInterval [] [(0, 1), (0, 2)]).wf = false ∧ (Instr.retuneDone [r, r]).wf = false ∧
    (Instr.startMarginDone [r, r]).wf = false ∧ (Instr.startMarginDone [r]).wf = true := by decide +kernel

theorem test_wf_firmware : (Instr.fwData 0 (List.replicate 1025 0)).wf = false ∧ (Instr.fwData 0 (List.replicate 1024 0)).wf = true := by decide +kernel

/-! One step each: what the rule named says, worked out by hand. -/

/-- Thread register 0 of lane 5 after a command. -/
def lane5 (o : Host.Outcome State Fault Refusal) : Option W32 := match o with
  | .next t => (t.group 0 0).map (fun g => g.treg 5 0)
  | _ => none

/-- A word on two immediates. -/
def immWord (mod : BitVec 6) (x y : BitVec 32) : Fields := { blank with ka := 2, kb := 2, mod := mod, imm0 := x, imm1 := y }

/-- R137: a sum wraps; with MOD[56] it is clamped to the range of the type. -/
theorem test_add : lane5 (exec (.addOp theGroup (immWord 0 0xFFFFFFFF 3)) working) = some 2 ∧
    lane5 (exec (.addOp theGroup (immWord 16 0xFFFFFFFF 3)) working) = some 0xFFFFFFFF ∧
    lane5 (exec (.addOp theGroup (immWord 17 0x7FFFFFFF 3)) working) = some 0x7FFFFFFF := by decide +kernel

/-- R137: division by zero gives all ones, its remainder the dividend, and the least signed number by minus one itself. -/
theorem test_division : lane5 (exec (.divOp theGroup (immWord 0 7 0)) working) = some 0xFFFFFFFF ∧
    lane5 (exec (.rem theGroup (immWord 0 7 0)) working) = some 7 ∧
    lane5 (exec (.divOp theGroup (immWord 1 0x80000000 0xFFFFFFFF)) working) = some 0x80000000 := by decide +kernel

/-- R137: a shift by the width gives zero, and an arithmetic one the sign. -/
theorem test_shift : lane5 (exec (.shl theGroup (immWord 0 5 31)) working) = some 0x80000000 ∧
    lane5 (exec (.sar theGroup (immWord 1 0x80000000 32)) working) = some 0xFFFFFFFF := by decide +kernel

/-- R138: 1 + 2 in FP32. -/
theorem test_fp32 : lane5 (exec (.addF32 theGroup (immWord 0 0x3F800000 0x40000000)) working) = some 0x40400000 := by decide +kernel

/-- R134, R158: an EXIT guarded by predicate 0 takes lane 0 out. -/
theorem test_exit : (match exec (.exitOp theGroup { blank with ge := true }) working with
    | .next t => (t.group 0 0).map (·.exited)
    | _ => none) = some 1 := by decide +kernel

/-- R57: a tick moves a running master count by 40. -/
theorem test_tick : (match exec (.timebaseTick []) { State.reset with tb := { Timebase.reset with running := true } } with
    | .next t => some t.tb.master
    | _ => none) = some 40 := by decide +kernel

/-- Log entries 7 and 94: with no command waiting a running master count gains 1; with one, the panel runs it. -/
theorem test_idle : (match step State.reset with
    | .next t => t == State.reset
    | _ => false) = true ∧
    (match step { State.reset with tb := { Timebase.reset with running := true, master := 38 } } with
    | .next t => some (t.tb.master, t.edge.tb.master)
    | _ => none) = some (39, 39) := by decide +kernel

theorem test_step : (match step { State.reset with pending := [.moduleSeated] } with
    | .next t => some (t.shell.seated, t.pending)
    | _ => none) = some (true, []) := by decide +kernel

/-- R44: fret 7 has 66 tokens a tick. -/
theorem test_reset : (State.reset.reg (Reg.fretTokens 7)).toNat = 66 := by decide +kernel

end Sys2Proof.Tests
end

section
/-! SUPPORT. What holds of the machine as a whole: what a step does and keeps, the state after reset, and what a register write does (R10 to
R12, R467, R671). -/

namespace Sys2Proof.Machine

/-! A step. -/

theorem step_cons (s : State) (c : Instr) (l : List Instr) (h : s.pending = c :: l) : step s = exec c { s with pending := l } := by
  simp only [step, h]

theorem step_nil (s : State) (h : s.pending = []) : step s = .next s.edge := by
  simp only [step, h]

theorem State.edge_eq (s : State) :
    s.edge = if s.tb.running = true ∧ s.tb.master.toNat % 40 ≠ 39 then { s with tb := { s.tb with master := s.tb.master + 1 } } else s := by
  simp only [State.edge, Bool.and_eq_true, bne_iff_ne]

/-- The invariant of every step goes along with what an operation keeps. -/
theorem Kept.sound {s t : State} (h : Kept s t) (hs : Sound s) : Sound t where
  hbm := h.hbm hs.hbm
  far := h.far hs.far
  regs := h.regs hs.regs
  secMin := (h.secMin hs.secMin).2

/-- The invariant does not speak of the queue. -/
theorem sound_setPending {s : State} (h : Sound s) (l : List Instr) : Sound { s with pending := l } := ⟨h.hbm, h.far, h.regs, h.secMin⟩

/-! The state after reset. -/

theorem reset_reg (a : Nat) : State.reset.reg a = regReset a := rfl

theorem reset_sound : Sound State.reset where
  hbm := rfl
  far := rfl
  regs := rfl
  secMin := Nat.zero_le 64

/-- R44: fret f starts with 52 + 2f tokens. -/
theorem regReset_fretTokens (f : Fin 8) : (regReset (Reg.fretTokens f.val)).toNat = 52 + 2 * f.val := by
  revert f; decide

/-- R461, R499, R559: the registers of the partitions' states start at zero. -/
theorem regReset_partitionStates (p : Fin 6) :
    regReset (Reg.partState p.val) = 0 ∧ regReset (Reg.keyState p.val) = 0 ∧ regReset (Reg.pairState p.val) = 0 := by
  revert p; decide

theorem regReset_startState : regReset Reg.startState = 0 := by decide

/-- A field of a register that is zero after reset. -/
theorem reset_field_zero {a : Nat} (h : regReset a = 0) (lo w : Nat) : State.reset.field a lo w = 0 := by
  simp [State.field, reset_reg, h, bitsOf]

/-! A table whose entries a test keeps. -/

theorem Tab.get_keep {α : Type} (t : Tab α) (f : Nat → Bool) (k : Nat) (h : Tab.sorted t = true) :
    Tab.get (Tab.keep t f) k = if f k = true then Tab.get t k else none := by
  induction t with
  | nil => simp [Tab.keep, Tab.get]
  | cons e t ih =>
    obtain ⟨j, w⟩ := e
    obtain ⟨ha, hs⟩ := (Tab.sorted_cons j w t).mp h
    by_cases hj : f j = true
    · have hk : Tab.keep ((j, w) :: t) f = (j, w) :: Tab.keep t f := by simp [Tab.keep, hj]
      rw [hk]
      simp only [Tab.get, ih hs]
      by_cases hjk : j = k
      · simp [← hjk, hj]
      · simp only [if_neg hjk]; split <;> simp
    · have hk : Tab.keep ((j, w) :: t) f = Tab.keep t f := by simp [Tab.keep, hj]
      rw [hk, ih hs]
      refine if_ctx_congr Iff.rfl (fun hf => ?_) (fun _ => rfl)
      have hjk : j ≠ k := fun e => hj (e ▸ hf)
      simp only [Tab.get, if_neg hjk]
      split
      · next hlt => exact Tab.get_above _ _ (fun e he => Nat.lt_trans hlt (ha e he))
      · rfl

/-! Registers back at their reset values. -/

theorem State.reg_resetRegs (s : State) (lo hi b : Nat) (h : Tab.sorted s.regs = true) :
    (s.resetRegs lo hi).reg b = if lo ≤ b ∧ b < hi then regReset b else s.reg b := by
  simp only [State.reg, State.resetRegs, Tab.getD, Tab.get_keep _ _ _ h, Bool.not_eq_true', ← Bool.decide_and, decide_eq_false_iff_not,
    ite_not]
  split <;> rfl

/-- From s to t the registers at the addresses P came back to their reset values, the register table stayed in order, and nothing else
changed but what a window has counted for registers and what reads will latch. -/
structure Cleared (P : Nat → Prop) (s t : State) : Prop where
  frame : t = { s with regs := t.regs, accum := t.accum, ahead := t.ahead, latch := t.latch }
  sorted : Tab.sorted t.regs = true
  inside : ∀ b, P b → t.reg b = regReset b
  outside : ∀ b, ¬P b → t.reg b = s.reg b

theorem Cleared.refl (s : State) (h : Tab.sorted s.regs = true) : Cleared (fun _ => False) s s :=
  ⟨rfl, h, fun _ hb => hb.elim, fun _ _ => rfl⟩

theorem Cleared.trans {P Q : Nat → Prop} {s t u : State} (a : Cleared P s t) (b : Cleared Q t u) : Cleared (fun x => P x ∨ Q x) s u where
  frame := b.frame.trans (by rw [a.frame])
  sorted := b.sorted
  inside x hx := by
    by_cases hq : Q x
    · exact b.inside x hq
    · exact (b.outside x hq).trans (a.inside x (hx.resolve_right hq))
  outside x hx := (b.outside x (hx ∘ Or.inr)).trans (a.outside x (hx ∘ Or.inl))

theorem Cleared.congr {P Q : Nat → Prop} {s t : State} (h : ∀ x, P x ↔ Q x) (a : Cleared P s t) : Cleared Q s t :=
  ⟨a.frame, a.sorted, fun x hx => a.inside x ((h x).mpr hx), fun x hx => a.outside x (fun hp => hx ((h x).mp hp))⟩

theorem State.resetRegs_cleared (s : State) (lo hi : Nat) (h : Tab.sorted s.regs = true) :
    Cleared (fun b => lo ≤ b ∧ b < hi) s (s.resetRegs lo hi) :=
  ⟨rfl, (State.resetRegs_kept (Kept.refl s)).regs h, fun b hb => by rw [State.reg_resetRegs _ _ _ _ h, if_pos hb],
    fun b hb => by rw [State.reg_resetRegs _ _ _ _ h, if_neg hb]⟩

/-! Records that a status register speaks for (log entry 98). -/

/-- An address within the registers of a record, at these offsets of its block. -/
def InRecord (base : Nat) (offs : List Nat) (b : Nat) : Prop := ∃ o ∈ offs, base + o ≤ b ∧ b < base + o + 4

/-- An address within a record whose last status bit went from old to now. -/
def InGoneRecord (rs : List (W32 × List Nat)) (base : Nat) (old now : W32) (b : Nat) : Prop :=
  ∃ r ∈ rs, (old &&& r.1 ≠ 0 ∧ now &&& r.1 = 0) ∧ InRecord base r.2 b

/-- A status register lies outside the records it speaks for. -/
theorem recordsOf_apart (kind : BlockKind) (off : Nat) : ∀ r ∈ recordsOf kind off, ∀ o ∈ r.2, off + 4 ≤ o ∨ o + 4 ≤ off := by
  unfold recordsOf
  split
  case h_7 => exact fun _ hr => nomatch hr
  all_goals decide

/-- The registers of two records of one status register do not overlap. -/
theorem recordsOf_disjoint (kind : BlockKind) (off : Nat) : ∀ r ∈ recordsOf kind off, ∀ o ∈ r.2, ∀ r' ∈ recordsOf kind off, ∀ o' ∈ r'.2,
    o' ≤ o → o < o' + 4 → r' = r := by
  unfold recordsOf
  split
  case h_7 => exact fun _ hr => nomatch hr
  all_goals decide

theorem inGoneRecord_cons (r : W32 × List Nat) (rs : List (W32 × List Nat)) (base : Nat) (old now : W32) (b : Nat) :
    InGoneRecord (r :: rs) base old now b ↔
      ((old &&& r.1 ≠ 0 ∧ now &&& r.1 = 0) ∧ InRecord base r.2 b) ∨ InGoneRecord rs base old now b := List.exists_mem_cons_iff ..

theorem foldl_resetRegs_cleared (base : Nat) (offs : List Nat) (s : State) (h : Tab.sorted s.regs = true) :
    Cleared (InRecord base offs) s (offs.foldl (fun s o => s.resetRegs (base + o) (base + o + 4)) s) := by
  induction offs generalizing s with
  | nil => exact (Cleared.refl s h).congr (by simp [InRecord])
  | cons o offs ih =>
    have h1 := State.resetRegs_cleared s (base + o) (base + o + 4) h
    exact (h1.trans (ih _ h1.sorted)).congr (by simp [InRecord])

/-- The loop of `State.clearRecords`, of a status register outside the records: its value is the same in every round. -/
theorem foldl_clearRecords_cleared (a base : Nat) (old : W32) (rs : List (W32 × List Nat)) (s : State) (h : Tab.sorted s.regs = true)
    (ha : ∀ r ∈ rs, ¬InRecord base r.2 a) :
    Cleared (InGoneRecord rs base old (s.reg a)) s (rs.foldl (fun s r =>
      if old &&& r.1 ≠ 0 ∧ s.reg a &&& r.1 = 0 then r.2.foldl (fun s o => s.resetRegs (base + o) (base + o + 4)) s else s) s) := by
  induction rs generalizing s with
  | nil => exact (Cleared.refl s h).congr (by simp [InGoneRecord])
  | cons r rs ih =>
    rw [List.foldl_cons]
    obtain ⟨har, hars⟩ := List.forall_mem_cons.mp ha
    split
    · next hc =>
      have h1 := foldl_resetRegs_cleared base r.2 s h
      have h2 := ih _ h1.sorted hars
      rw [h1.outside a har] at h2
      exact (h1.trans h2).congr (fun x => by rw [inGoneRecord_cons, and_iff_right hc])
    · next hc =>
      exact (ih s h hars).congr (fun x => by rw [inGoneRecord_cons, or_iff_right (fun hg => hc hg.1)])

theorem State.clearRecords_cleared (s : State) (pl : Place) (a : Nat) (old : W32) (h : Tab.sorted s.regs = true) (hoff : pl.off ≤ a) :
    Cleared (InGoneRecord (recordsOf pl.kind pl.off) (a - pl.off) old (s.reg a)) s (s.clearRecords pl a old) := by
  refine foldl_clearRecords_cleared a _ old _ s h (fun r hr => ?_)
  rintro ⟨o, ho, h1, h2⟩
  have := recordsOf_apart pl.kind pl.off r hr o ho
  omega

/-- A status register is outside the records that clear with its bits. -/
theorem not_inGoneRecord_self (pl : Place) (a : Nat) (old now : W32) (hoff : pl.off ≤ a) :
    ¬InGoneRecord (recordsOf pl.kind pl.off) (a - pl.off) old now a := by
  rintro ⟨r, hr, -, o, ho, h1, h2⟩
  have := recordsOf_apart pl.kind pl.off r hr o ho
  omega

/-- A register of a record clears exactly when the last status bit of that record goes. -/
theorem inGoneRecord_iff (kind : BlockKind) (off base : Nat) (old now : W32) (r : W32 × List Nat) (hr : r ∈ recordsOf kind off) (o : Nat)
    (ho : o ∈ r.2) : InGoneRecord (recordsOf kind off) base old now (base + o) ↔ old &&& r.1 ≠ 0 ∧ now &&& r.1 = 0 := by
  constructor
  · rintro ⟨r', hr', hgone, o', ho', h1, h2⟩
    rwa [recordsOf_disjoint kind off r hr o ho r' hr' o' ho' (by omega) (by omega)] at hgone
  · exact fun hgone => ⟨r, hr, hgone, o, ho, by omega, by omega⟩

/-! Bits by access type (R671). -/

theorem State.reg_storeBits_other (s : State) (a b : Nat) (v st w1c w1s : W32) (h : b ≠ a) : (s.storeBits a v st w1c w1s).reg b = s.reg b :=
  State.reg_setReg_other _ _ _ _ h

/-- One bit x written with v, stored where st, cleared by a 1 where c, set by a 1 where t. -/
theorem bit_by_access (x v st c t : Bool) : (((x && !st || v && st) && !(v && c)) || v && t) =
    if t = true ∧ v = true then true else if c = true ∧ v = true then false else if st = true then v else x := by
  decide +revert

theorem State.getLsbD_storeBits_self (s : State) (a i : Nat) (v st w1c w1s : W32) (hi : i < 32) :
    ((s.storeBits a v st w1c w1s).reg a).getLsbD i =
      if w1s.getLsbD i = true ∧ v.getLsbD i = true then true
      else if w1c.getLsbD i = true ∧ v.getLsbD i = true then false
      else if st.getLsbD i = true then v.getLsbD i else (s.reg a).getLsbD i := by
  simp only [State.storeBits, State.reg_setReg_self, BitVec.getLsbD_or, BitVec.getLsbD_and, BitVec.getLsbD_not, hi, decide_true, Bool.true_and]
  exact bit_by_access ..

/-- The bits of a register that a write stores: those under its lock only while it stands open. -/
def RegDesc.storedBits (d : RegDesc) (locked : Bool) : W32 := BitVec.ofNat 32 (d.rw ||| if locked then 0 else d.rwl)

theorem RegDesc.getLsbD_storedBits (d : RegDesc) (locked : Bool) (i : Nat) (hi : i < 32) :
    (d.storedBits locked).getLsbD i = true ↔ d.rw.testBit i = true ∨ (locked = false ∧ d.rwl.testBit i = true) := by
  simp only [RegDesc.storedBits, BitVec.getLsbD_ofNat, Nat.testBit_or, hi, decide_true, Bool.true_and, Bool.or_eq_true]
  cases locked <;> simp

/-! A write to a register that its table describes whole. -/

section
variable {s : State} {pl : Place} {a n : Nat} {v : W32} {locked : Bool} {d : RegDesc}

/-- The state in which a table's bits have been written, its records still as they were. -/
def State.bitsWritten (s : State) (d : RegDesc) (a : Nat) (v : W32) (locked : Bool) : State :=
  s.storeBits a v (d.storedBits locked) (BitVec.ofNat 32 d.w1c) (BitVec.ofNat 32 d.w1s)

theorem State.tableWrite_eq (hd : findDesc pl.off (descsOf pl.kind) = some (d, n)) :
    s.tableWrite pl a v locked = (s.bitsWritten d a v locked).clearRecords pl a (s.reg a) := by
  simp only [State.tableWrite, hd]; rfl

theorem State.tableWrite_cleared (hd : findDesc pl.off (descsOf pl.kind) = some (d, n)) (hoff : pl.off ≤ a) (hs : Tab.sorted s.regs = true) :
    Cleared (InGoneRecord (recordsOf pl.kind pl.off) (a - pl.off) (s.reg a) ((s.tableWrite pl a v locked).reg a)) (s.bitsWritten d a v locked)
      (s.tableWrite pl a v locked) := by
  rw [State.tableWrite_eq hd]
  have h := State.clearRecords_cleared (s.bitsWritten d a v locked) pl a (s.reg a) ((State.storeBits_kept (Kept.refl s)).regs hs) hoff
  rwa [h.outside a (not_inGoneRecord_self pl a _ _ hoff)]

theorem State.tableWrite_frame (hd : findDesc pl.off (descsOf pl.kind) = some (d, n)) (hoff : pl.off ≤ a) (hs : Tab.sorted s.regs = true) :
    let t := s.tableWrite pl a v locked
    t = { s with regs := t.regs, accum := t.accum, ahead := t.ahead, latch := t.latch } :=
  (State.tableWrite_cleared hd hoff hs).frame

/-- Where a register speaks for no record, a write to it changes that register alone. -/
theorem State.tableWrite_onlyRegs (hd : findDesc pl.off (descsOf pl.kind) = some (d, n)) (hr : recordsOf pl.kind pl.off = []) :
    OnlyRegs s (s.tableWrite pl a v locked) [a] := by
  have h : s.tableWrite pl a v locked = s.bitsWritten d a v locked := by
    rw [State.tableWrite_eq hd, State.clearRecords, hr, List.foldl_nil]
  rw [h]
  exact ⟨rfl, fun b hb => State.reg_storeBits_other _ _ _ _ _ _ _ (by simpa using hb)⟩

theorem State.reg_tableWrite_other (hd : findDesc pl.off (descsOf pl.kind) = some (d, n)) (hoff : pl.off ≤ a) (hs : Tab.sorted s.regs = true)
    (b : Nat) (hb : b ≠ a) (hr : ∀ r ∈ recordsOf pl.kind pl.off, ¬InRecord (a - pl.off) r.2 b) :
    (s.tableWrite pl a v locked).reg b = s.reg b := by
  rw [(State.tableWrite_cleared hd hoff hs).outside b (fun ⟨r, hmem, _, hin⟩ => hr r hmem hin)]
  exact State.reg_storeBits_other _ _ _ _ _ _ _ hb

/-- A register of a record goes back to its reset value when the record's last status bit goes, and else stays. -/
theorem State.reg_tableWrite_record (hd : findDesc pl.off (descsOf pl.kind) = some (d, n)) (hoff : pl.off ≤ a) (hs : Tab.sorted s.regs = true)
    (r : W32 × List Nat) (hr : r ∈ recordsOf pl.kind pl.off) (o : Nat) (ho : o ∈ r.2) : let t := s.tableWrite pl a v locked
    t.reg (a - pl.off + o) =
      if s.reg a &&& r.1 ≠ 0 ∧ t.reg a &&& r.1 = 0 then regReset (a - pl.off + o) else s.reg (a - pl.off + o) := by
  intro t
  have hc := State.tableWrite_cleared (v := v) (locked := locked) hd hoff hs
  have hgone := inGoneRecord_iff pl.kind pl.off (a - pl.off) (s.reg a) (t.reg a) r hr o ho
  split
  · next hg => exact hc.inside _ (hgone.mpr hg)
  · next hg =>
    have hne : a - pl.off + o ≠ a := by
      have := recordsOf_apart pl.kind pl.off r hr o ho
      omega
    rw [hc.outside _ (mt hgone.mp hg)]
    exact State.reg_storeBits_other _ _ _ _ _ _ _ hne

/-- R10, R671: each bit of the written register follows its access type. -/
theorem State.getLsbD_tableWrite_self (hd : findDesc pl.off (descsOf pl.kind) = some (d, n)) (hoff : pl.off ≤ a)
    (hs : Tab.sorted s.regs = true) (i : Nat) (hi : i < 32) :
    ((s.tableWrite pl a v locked).reg a).getLsbD i =
      if d.w1s.testBit i ∧ v.getLsbD i = true then true
      else if d.w1c.testBit i ∧ v.getLsbD i = true then false
      else if d.rw.testBit i ∨ (locked = false ∧ d.rwl.testBit i) then v.getLsbD i
      else (s.reg a).getLsbD i := by
  rw [(State.tableWrite_cleared hd hoff hs).outside a (not_inGoneRecord_self pl a _ _ hoff), State.bitsWritten,
    State.getLsbD_storeBits_self _ _ _ _ _ _ _ hi]
  simp only [RegDesc.getLsbD_storedBits _ _ _ hi, BitVec.getLsbD_ofNat, hi, decide_true, Bool.true_and]

end

/-! A write by an agent (R32, R376, R491). -/

theorem State.regWrite_none {s : State} {addr : Nat} (h : placeOf (s.home addr) = none) (agent : Agent) (v : W32) :
    s.regWrite agent addr v = s := by
  simp only [State.regWrite, h]

theorem State.regWrite_some {s : State} {addr : Nat} {pl : Place} (h : placeOf (s.home addr) = some pl) (agent : Agent) (v : W32) :
    s.regWrite agent addr v = if s.mayWrite agent pl = true then s.placeWrite pl (s.home addr) v else s := by
  simp only [State.regWrite, h]

theorem exec_registerWrite (agent : Agent) (addr : BitVec 32) (v : BitVec 32) (s : State) :
    exec (.registerWrite agent addr v) s = .next (s.regWrite agent addr.toNat v) := rfl

end Sys2Proof.Machine

section

open Sys2Proof Sys2Proof.Machine

/-- Settles O60: every command answers a next state that keeps what `Kept` names (`step_kept`), and the invariant is among it. -/
theorem stepKeeps : Obligations.StepKeeps := by
  intro s
  obtain ⟨t, ht, hk⟩ := step_kept s
  exact ⟨t, ht, hk.queue, fun hs => hk.sound (sound_setPending hs _), hk.orderD, hk.debugBlown, hk.identity, fun h => (hk.secMin h).1⟩

/-- Settles O36: the records that clear lie outside the written register and apart from each other, so that the bits of the register are
those that the access types leave, and a record clears by its own status bits alone. -/
theorem registerWrites : Obligations.RegisterWrites := by
  refine ⟨fun agent addr v s => ⟨_, exec_registerWrite agent addr v s, ?_⟩, ?_⟩
  · cases h : placeOf (s.home addr.toNat) with
    | none => exact State.regWrite_none h agent v
    | some pl =>
      simp only [State.regWrite_some h agent v]
      split <;> rfl
  · intro s pl a v locked d n hd hoff hs t shown
    exact ⟨State.tableWrite_frame hd hoff hs, State.tableWrite_onlyRegs hd,
      fun b hb hns => State.reg_tableWrite_other hd hoff hs b hb (fun r hr hin => hns ⟨r, hr, hin⟩),
      State.reg_tableWrite_record hd hoff hs, State.getLsbD_tableWrite_self hd hoff hs⟩

/-- Settles O58: a step is its front command on the state with the queue's rest, or an edge of the clock. -/
theorem stepRuns : Obligations.StepRuns :=
  ⟨fun c l s h => step_cons s c l h, fun s h => ⟨step_nil s h, s.edge_eq⟩⟩

/-- Settles O59: no store holds anything after reset, so a register reads what its table gives. -/
theorem afterReset : Obligations.AfterReset := by
  refine ⟨rfl, reset_sound, reset_reg, regReset_fretTokens, fun p => ?_, fun i => ?_, fun a => ⟨rfl, rfl⟩⟩
  · obtain ⟨hpart, hkey, hpair⟩ := regReset_partitionStates p
    exact ⟨reset_field_zero hpart 0 3, reset_field_zero hkey 0 2, reset_field_zero hpair 0 3⟩
  · simp [State.stepDone, State.bit, reset_field_zero regReset_startState]

end
end

section
/-! SUPPORT. What the operations that several commands share leave unchanged: registers by address, a table changed as a whole, a loop, and
raising a fault (R500, R513, R530). -/

namespace Sys2Proof.Machine

/-! Loops and tables. -/

/-- What every round of a loop leaves as it is, the loop leaves as it is. -/
theorem State.foldl_keeps {β γ : Type} (g : State → γ) {f : State → β → State} (h : ∀ s b, g (f s b) = g s) (l : List β) (s : State) :
    g (l.foldl f s) = g s :=
  List.foldlRecOn l f (motive := fun t => g t = g s) rfl (fun t ht b _ => (h t b).trans ht)

theorem Tab.getD_mapAll {α : Type} (t : Tab α) (f : Nat → α → α) (k : Nat) (d : α) :
    Tab.getD (Tab.mapAll t f) k d = ((Tab.get t k).map (f k)).getD d := by
  rw [Tab.getD, Tab.get_map]

/-- A change of every value that takes the default to itself. -/
theorem Tab.getD_mapAll_of_default {α : Type} (t : Tab α) (f : Nat → α → α) (k : Nat) (d : α) (h : f k d = d) :
    Tab.getD (Tab.mapAll t f) k d = f k (Tab.getD t k d) := by
  rw [Tab.getD_mapAll, Tab.getD]
  cases Tab.get t k with
  | none => exact h.symm
  | some v => rfl

/-! Registers. -/

/-- A bit of a register that reads as before. -/
theorem State.bit_congr {s t : State} {a : Nat} (h : t.reg a = s.reg a) (i : Nat) : t.bit a i = s.bit a i := by
  unfold State.bit State.field
  rw [h]

theorem State.bit_setReg_other (s : State) (a b i : Nat) (v : W32) (h : b ≠ a) : (s.setReg a v).bit b i = s.bit b i :=
  State.bit_congr (State.reg_setReg_other s a b v h) i

theorem RegsBut.setReg (s : State) (a : Nat) (v : W32) : RegsBut s (s.setReg a v) [a] :=
  fun b hb => State.reg_setReg_other s a b v (by simpa using hb)

/-- Setting a bit changes that bit of its register alone. -/
theorem State.setBit_fieldOnly (s : State) (a i : Nat) (hi : i < 32) : FieldOnly s (s.setBit a i) a i 1 := by
  intro j _ hj
  rw [State.bit_setBit _ _ _ _ _ hi, if_neg (by omega)]

/-! Raising a fault. -/

/-- The addresses of the registers that raising a fault may write: its die's block, and the status of the FAULT block. -/
def FaultAddress (a : Nat) : Prop := 0x20000000 ≤ a ∨ a = Reg.fltStatus

theorem faultAddress_dfFirst (site : Nat) : FaultAddress (Reg.dfFirst site) := Or.inl (by
  simp only [Reg.dfFirst, Base.dieFault, Base.site]; omega)

theorem faultAddress_dfStatus (site : Nat) : FaultAddress (Reg.dfStatus site) := Or.inl (by
  simp only [Reg.dfStatus, Base.dieFault, Base.site]; omega)

/-- From s to t a fault was noted: nothing changed but registers of fault reporting, counts, and what partitions remember. -/
structure FaultNoted (s t : State) : Prop where
  frame : t = { s with regs := t.regs, accum := t.accum, ahead := t.ahead, parts := t.parts }
  regs : ∀ b, ¬FaultAddress b → t.reg b = s.reg b

theorem FaultNoted.refl (s : State) : FaultNoted s s := ⟨rfl, fun _ _ => rfl⟩

theorem FaultNoted.trans {s t u : State} (h : FaultNoted s t) (k : FaultNoted t u) : FaultNoted s u where
  frame := k.frame.trans (by rw [h.frame])
  regs b hb := (k.regs b hb).trans (h.regs b hb)

theorem FaultNoted.ite {s t u : State} {c : Prop} [Decidable c] (h : FaultNoted s t) (k : FaultNoted s u) :
    FaultNoted s (if c then t else u) := by
  split <;> assumption

theorem FaultNoted.setReg {s t : State} (h : FaultNoted s t) {a : Nat} (ha : FaultAddress a) (v : W32) : FaultNoted s (t.setReg a v) :=
  h.trans ⟨rfl, fun _ hb => State.reg_setReg_other _ _ _ _ (fun e => hb (e ▸ ha))⟩

theorem FaultNoted.setBit {s t : State} (h : FaultNoted s t) {a : Nat} (ha : FaultAddress a) (i : Nat) : FaultNoted s (t.setBit a i) :=
  h.setReg ha _

theorem FaultNoted.count {s t : State} (h : FaultNoted s t) (a n : Nat) : FaultNoted s (t.count a n) :=
  h.trans ⟨by unfold State.count State.tally; split <;> rfl, fun b _ => State.reg_count t a n b⟩

theorem FaultNoted.setPart {s t : State} (h : FaultNoted s t) (p : Nat) (x : Part) : FaultNoted s (t.setPart p x) :=
  h.trans ⟨rfl, fun _ _ => rfl⟩

/-- Raising a fault notes it and puts its record up for delivery. -/
theorem State.raise_noted (s : State) (r : FaultRec) : ∃ t, FaultNoted s t ∧
    s.raise r = { t with faults := { s.faults with undelivered := s.faults.undelivered ++ [r] } } := by
  unfold State.raise
  extract_lets +onlyGivenNames atDie onPanel hit inParts
  have hDie : FaultNoted s atDie := by
    unfold atDie State.atBase
    split
    · exact FaultNoted.refl s
    · next site _ =>
      refine FaultNoted.ite (FaultNoted.count ?_ _ _) ?_
      all_goals
        refine FaultNoted.ite (FaultNoted.setBit ?_ (faultAddress_dfStatus site) _) ?_
        all_goals exact FaultNoted.ite ((FaultNoted.refl s).setReg (faultAddress_dfFirst site) _) (FaultNoted.refl s)
  have hPanel : FaultNoted s onPanel := FaultNoted.ite (hDie.setBit (Or.inr rfl) 0) (FaultNoted.ite (hDie.setBit (Or.inr rfl) 1) hDie)
  have hParts : FaultNoted s inParts := by
    refine List.foldlRecOn hit _ hPanel (fun t ht p _ => FaultNoted.ite ht ?_)
    split
    · exact ht
    · exact ht.setPart _ _
  have hFaults : inParts.faults = s.faults := by rw [hParts.frame]
  exact ⟨inParts, hParts, by rw [hFaults]⟩

@[simp] theorem State.raise_tb (s : State) (r : FaultRec) : (s.raise r).tb = s.tb := by
  obtain ⟨t, ht, e⟩ := s.raise_noted r
  rw [e]; simp only; rw [ht.frame]

@[simp] theorem State.raise_undelivered (s : State) (r : FaultRec) : (s.raise r).faults.undelivered = s.faults.undelivered ++ [r] := by
  obtain ⟨t, -, e⟩ := s.raise_noted r
  rw [e]

theorem State.reg_raise (s : State) (r : FaultRec) (b : Nat) (hb : ¬FaultAddress b) : (s.raise r).reg b = s.reg b := by
  obtain ⟨t, ht, e⟩ := s.raise_noted r
  rw [e]; exact ht.regs b hb

theorem State.bit_raise (s : State) (r : FaultRec) (b i : Nat) (hb : ¬FaultAddress b) : (s.raise r).bit b i = s.bit b i :=
  State.bit_congr (s.reg_raise r b hb) i

end Sys2Proof.Machine
end

section
/-! SUPPORT. The count of the timebase and its replicas, tick by tick and at a broadcast (R57, R58, R61, R66). -/

namespace Sys2Proof.Machine

/-! The parts of a tick. -/

/-- The master at its next multiple of 40, and the count that the replicas share a tick further (log entry 94). -/
def State.advance (s : State) : State :=
  { s with tb := { s.tb with master := s.tb.master + BitVec.ofNat 64 (40 - s.tb.master.toNat % 40), replica := s.tb.replica + 40,
                             ticks := s.tb.ticks + 1 } }

/-- The replicas that are held and those that stray, after the count has advanced (R61). -/
def State.moveReplicas (s : State) (strays : List (Fin 118 × Bool)) : State :=
  strays.foldl (fun s e => s.stray e.1.val e.2) (s.tb.stalled.foldl State.holdReplica s)

/-- A tick in holdover counted, up to the register's limit (R66). -/
def State.countHoldover (s : State) : State :=
  let h := (s.reg Reg.tbHoldover).toNat
  if s.bit Reg.tbStatus 1 ∧ h < 2 ^ 32 - 1 then s.setReg Reg.tbHoldover (BitVec.ofNat 32 (h + 1)) else s

/-- The acknowledgements of receivers, once a microsecond (R352). -/
def State.acknowledge (s : State) : State :=
  if s.tb.replica.toNat / 40 % 25 = 0 then (s.halves.map (·.1)).foldl State.ackHalf s else s

/-- Fixed-rate modes taken on and left (R69). -/
def State.rateTicks (s : State) : State := (List.range 6).foldl State.rateTick s

theorem State.tick_running {s : State} (h : s.tb.running = true) (strays : List (Fin 118 × Bool)) :
    s.tick strays = (s.finishSteps.tickSteps.advance.moveReplicas strays).countHoldover.acknowledge.rateTicks := by
  unfold State.tick
  rw [if_neg (by simp [h])]
  generalize s.finishSteps.tickSteps = e
  rfl

theorem State.tick_stopped {s : State} (h : s.tb.running = false) (strays : List (Fin 118 × Bool)) : s.tick strays = s := by
  unfold State.tick
  rw [if_pos (by simp [h])]

/-- Dies that run at no fixed rate have no steps to finish. -/
theorem State.finishSteps_of_none {s : State} (h : s.fretArrays = []) : s.finishSteps = s :=
  List.foldlRecOn _ _ (motive := fun t => t = s) rfl (fun t ht _ _ => by rw [ht, h]; rfl)

/-! What each part of a tick changes, and what it leaves. -/

theorem State.tickSteps_eq (s : State) :
    s.tickSteps = { s with arrs := s.tickSteps.arrs, accum := s.tickSteps.accum, ahead := s.tickSteps.ahead } := by
  unfold State.tickSteps
  extract_lets dies counted
  have h : counted = { s with accum := counted.accum, ahead := counted.ahead } := by
    refine List.foldlRecOn dies _ (motive := fun t : State => t = { s with accum := t.accum, ahead := t.ahead }) rfl (fun t ht d _ => ?_)
    rw [ht]; unfold State.count State.tally; split <;> rfl
  clear_value counted
  rw [h]

@[simp] theorem State.tickSteps_tb (s : State) : s.tickSteps.tb = s.tb := by rw [s.tickSteps_eq]
@[simp] theorem State.reg_tickSteps (s : State) (b : Nat) : s.tickSteps.reg b = s.reg b := by rw [s.tickSteps_eq]; rfl

/-- R48: no step of the next tick is complete. -/
theorem State.tickSteps_pos (s : State) (a : Nat) : (s.tickSteps.arr a).pos = 0 := by
  unfold State.tickSteps State.arr
  dsimp only
  rw [Tab.getD_mapAll_of_default _ _ _ _ rfl]

@[simp] theorem State.advance_arrs (s : State) : s.advance.arrs = s.arrs := rfl
@[simp] theorem State.advance_stalled (s : State) : s.advance.tb.stalled = s.tb.stalled := rfl
@[simp] theorem State.reg_advance (s : State) (b : Nat) : s.advance.reg b = s.reg b := rfl

/-- The movement of replicas changes the skew and who is held, and nothing else. -/
theorem State.moveReplicas_eq (s : State) (strays : List (Fin 118 × Bool)) :
    let t := s.moveReplicas strays
    t = { s with tb := { s.tb with skew := t.tb.skew, stalled := t.tb.stalled } } := by
  refine List.foldlRecOn strays _ (motive := fun t : State => t = { s with tb := { s.tb with skew := t.tb.skew, stalled := t.tb.stalled } })
    ?_ (fun t ht x _ => ?_)
  · refine List.foldlRecOn _ _ (motive := fun t : State => t = { s with tb := { s.tb with skew := t.tb.skew, stalled := t.tb.stalled } })
      rfl (fun t ht x _ => ?_)
    rw [ht]; rfl
  · rw [ht]; unfold State.stray; split <;> rfl

@[simp] theorem State.moveReplicas_master (s : State) (strays : List (Fin 118 × Bool)) :
    (s.moveReplicas strays).tb.master = s.tb.master := by rw [s.moveReplicas_eq]
@[simp] theorem State.moveReplicas_replica (s : State) (strays : List (Fin 118 × Bool)) :
    (s.moveReplicas strays).tb.replica = s.tb.replica := by rw [s.moveReplicas_eq]
@[simp] theorem State.moveReplicas_ticks (s : State) (strays : List (Fin 118 × Bool)) :
    (s.moveReplicas strays).tb.ticks = s.tb.ticks := by rw [s.moveReplicas_eq]
@[simp] theorem State.moveReplicas_arrs (s : State) (strays : List (Fin 118 × Bool)) :
    (s.moveReplicas strays).arrs = s.arrs := by rw [s.moveReplicas_eq]
@[simp] theorem State.reg_moveReplicas (s : State) (strays : List (Fin 118 × Bool)) (b : Nat) :
    (s.moveReplicas strays).reg b = s.reg b := by rw [s.moveReplicas_eq]; rfl

theorem State.countHoldover_eq (s : State) : s.countHoldover = { s with regs := s.countHoldover.regs } := by
  unfold State.countHoldover; dsimp only; split <;> rfl

@[simp] theorem State.countHoldover_tb (s : State) : s.countHoldover.tb = s.tb := by rw [s.countHoldover_eq]
@[simp] theorem State.countHoldover_arrs (s : State) : s.countHoldover.arrs = s.arrs := by rw [s.countHoldover_eq]

theorem State.reg_countHoldover (s : State) :
    (s.countHoldover.reg Reg.tbHoldover).toNat = if s.bit Reg.tbStatus 1 then min ((s.reg Reg.tbHoldover).toNat + 1) (2 ^ 32 - 1)
      else (s.reg Reg.tbHoldover).toNat := by
  have hlt := (s.reg Reg.tbHoldover).isLt
  unfold State.countHoldover
  dsimp only
  by_cases hb : s.bit Reg.tbStatus 1 = true
  · by_cases hm : (s.reg Reg.tbHoldover).toNat < 2 ^ 32 - 1
    · simp only [hb, hm, and_self, if_true, State.reg_setReg_self, BitVec.toNat_ofNat]
      omega
    · simp only [hb, hm, and_false, if_true, if_false]
      omega
  · rw [if_neg (fun h => hb h.1), if_neg hb]

/-- An acknowledgement changes halves alone. -/
theorem State.acknowledge_eq (s : State) : s.acknowledge = { s with halves := s.acknowledge.halves } := by
  unfold State.acknowledge
  split
  · refine List.foldlRecOn _ _ (motive := fun t : State => t = { s with halves := t.halves }) rfl (fun t ht k _ => ?_)
    rw [ht]; unfold State.ackHalf; dsimp only; split <;> rfl
  · rfl

@[simp] theorem State.acknowledge_tb (s : State) : s.acknowledge.tb = s.tb := by rw [s.acknowledge_eq]
@[simp] theorem State.acknowledge_arrs (s : State) : s.acknowledge.arrs = s.arrs := by rw [s.acknowledge_eq]
@[simp] theorem State.reg_acknowledge (s : State) (b : Nat) : s.acknowledge.reg b = s.reg b := by rw [s.acknowledge_eq]; rfl

theorem State.rateTicks_eq (s : State) : s.rateTicks = { s with regs := s.rateTicks.regs, power := s.rateTicks.power } := by
  refine List.foldlRecOn _ _ (motive := fun t : State => t = { s with regs := t.regs, power := t.power }) rfl (fun t ht p _ => ?_)
  rw [ht]
  unfold State.rateTick
  dsimp only
  split
  · rfl
  · split <;> rfl

@[simp] theorem State.rateTicks_tb (s : State) : s.rateTicks.tb = s.tb := by rw [s.rateTicks_eq]
@[simp] theorem State.rateTicks_arrs (s : State) : s.rateTicks.arrs = s.arrs := by rw [s.rateTicks_eq]

theorem State.reg_rateTick_other (s : State) (p b : Nat) (hb : b ≠ Reg.rateStatus) : (s.rateTick p).reg b = s.reg b := by
  unfold State.rateTick
  dsimp only
  split
  · exact State.reg_clearBit_other _ _ _ _ hb
  · split
    · rfl
    · exact State.reg_setBit_other _ _ _ _ hb

theorem State.reg_rateTicks_other (s : State) (b : Nat) (hb : b ≠ Reg.rateStatus) : s.rateTicks.reg b = s.reg b :=
  State.foldl_keeps (fun s : State => s.reg b) (fun s p => s.reg_rateTick_other p b hb) _ s

/-! Replicas. -/

/-- How far a unit's replica lies from the common count. -/
def State.skewOf (s : State) (u : Nat) : Int := Tab.getD s.tb.skew u 0

theorem State.replica_eq (s : State) (u : Nat) : s.replica u = s.tb.replica + BitVec.ofInt 64 (s.skewOf u) := rfl

theorem State.skewOf_holdReplica (s : State) (v u : Nat) : (s.holdReplica v).skewOf u = s.skewOf u - if v = u then 40 else 0 := by
  unfold State.holdReplica State.skewOf
  simp only [Tab.getD_put]
  by_cases h : u = v
  · simp [h]
  · simp [h, Ne.symm h]

theorem State.mem_stalled_holdReplica {s : State} {v u : Nat} (h : u ∈ (s.holdReplica v).tb.stalled) : u ∈ s.tb.stalled := by
  unfold State.holdReplica at h
  dsimp only at h
  split at h
  · exact (List.mem_filter.mp h).1
  · exact h

/-- A held replica falls behind the common count by a tick each time it is held. -/
theorem State.skewOf_holdReplicas (l : List Nat) (s : State) (u : Nat) :
    (l.foldl State.holdReplica s).skewOf u = s.skewOf u - 40 * l.count u := by
  induction l generalizing s with
  | nil => simp
  | cons v l ih =>
    rw [List.foldl_cons, ih, State.skewOf_holdReplica, List.count_cons]
    by_cases h : v = u
    · simp [h]; ring
    · simp [h]

theorem State.mem_stalled_holdReplicas {l : List Nat} {s : State} {u : Nat} (h : u ∈ (l.foldl State.holdReplica s).tb.stalled) :
    u ∈ s.tb.stalled :=
  List.foldlRecOn l State.holdReplica (motive := fun t => u ∈ t.tb.stalled → u ∈ s.tb.stalled) id
    (fun _ ht _ _ hu => ht (State.mem_stalled_holdReplica hu)) h

theorem State.skewOf_stray (s : State) (v u : Nat) (ahead : Bool) :
    (s.stray v ahead).skewOf u = s.skewOf u + if u = v ∧ v ∉ s.tb.stalled then (if ahead then 40 else -40) else 0 := by
  unfold State.stray State.skewOf
  by_cases hs : v ∈ s.tb.stalled
  · simp [hs]
  · simp only [List.contains_eq_mem, hs, decide_false, Bool.false_eq_true, if_false, Tab.getD_modify, not_false_eq_true, and_true]
    by_cases h : u = v
    · simp [h]
    · simp [h]

/-- R61: replicas that no stray names lose a tick for each time they are held, and only those. -/
theorem State.skewOf_moveReplicas (s : State) (strays : List (Fin 118 × Bool)) (u : Nat) (h : ∀ x ∈ strays, x.1.val ≠ u) :
    (s.moveReplicas strays).skewOf u = s.skewOf u - 40 * s.tb.stalled.count u := by
  rw [← State.skewOf_holdReplicas]
  refine List.foldlRecOn strays _ (motive := fun t : State => t.skewOf u = (s.tb.stalled.foldl State.holdReplica s).skewOf u) rfl
    (fun t ht x hx => ?_)
  rw [State.skewOf_stray, ht, if_neg (fun e => h x hx e.1.symm), Int.add_zero]

/-- R61: the one replica that strays, where it is not held, misses the tick or takes it twice. -/
theorem State.skewOf_moveReplicas_stray (s : State) (u : Fin 118) (ahead : Bool) (h : u.val ∉ s.tb.stalled) :
    (s.moveReplicas [(u, ahead)]).skewOf u = s.skewOf u + if ahead then 40 else -40 := by
  have hheld : u.val ∉ (s.tb.stalled.foldl State.holdReplica s).tb.stalled := mt State.mem_stalled_holdReplicas h
  unfold State.moveReplicas
  rw [List.foldl_cons, List.foldl_nil, State.skewOf_stray, if_pos ⟨rfl, hheld⟩, State.skewOf_holdReplicas, List.count_eq_zero.mpr h]
  simp

@[simp] theorem State.skewOf_advance (s : State) (u : Nat) : s.advance.skewOf u = s.skewOf u := rfl

@[simp] theorem State.skewOf_tickSteps (s : State) (u : Nat) : s.tickSteps.skewOf u = s.skewOf u := by
  unfold State.skewOf; rw [State.tickSteps_tb]

/-- A count that moves on by a tick, and a skew that falls back by one. -/
theorem add_ofInt_sub (c : W64) (k : Int) : c + 40 + BitVec.ofInt 64 (k - 40) = c + BitVec.ofInt 64 k := by
  have h : BitVec.ofInt 64 k = BitVec.ofInt 64 (k - 40) + 40 := by
    conv_lhs => rw [← Int.sub_add_cancel k 40, BitVec.ofInt_add]
    rfl
  rw [h]
  abel

theorem add_ofInt_add (c : W64) (k : Int) : c + 40 + BitVec.ofInt 64 (k + 40) = c + BitVec.ofInt 64 k + 80 := by
  rw [BitVec.ofInt_add, show (80 : W64) = 40 + BitVec.ofInt 64 40 by decide]
  abel

/-! The tick as a whole. -/

/-- From s to t nothing changed but what a tick changes. -/
def TickFrame (s t : State) : Prop :=
  t = { s with tb := t.tb, regs := t.regs, power := t.power, halves := t.halves, arrs := t.arrs, accum := t.accum, ahead := t.ahead }

theorem TickFrame.trans {s t u : State} (h : TickFrame s t) (k : TickFrame t u) : TickFrame s u := by
  unfold TickFrame at h k ⊢
  exact k.trans (by rw [h])

theorem State.tickSteps_frame (s : State) : TickFrame s s.tickSteps := by unfold TickFrame; rw [s.tickSteps_eq]
theorem State.advance_frame (s : State) : TickFrame s s.advance := rfl
theorem State.moveReplicas_frame (s : State) (strays : List (Fin 118 × Bool)) : TickFrame s (s.moveReplicas strays) := by
  unfold TickFrame; rw [s.moveReplicas_eq]
theorem State.countHoldover_frame (s : State) : TickFrame s s.countHoldover := by unfold TickFrame; rw [s.countHoldover_eq]
theorem State.acknowledge_frame (s : State) : TickFrame s s.acknowledge := by unfold TickFrame; rw [s.acknowledge_eq]
theorem State.rateTicks_frame (s : State) : TickFrame s s.rateTicks := by unfold TickFrame; rw [s.rateTicks_eq]

section
variable {s : State} (hrun : s.tb.running = true) (strays : List (Fin 118 × Bool))
include hrun

theorem State.tick_frame : TickFrame s.finishSteps (s.tick strays) := by
  rw [State.tick_running hrun]
  exact ((((State.tickSteps_frame _).trans (State.advance_frame _)).trans (State.moveReplicas_frame _ _)).trans
    (State.countHoldover_frame _)).trans ((State.acknowledge_frame _).trans (State.rateTicks_frame _))

theorem State.tick_tb : (s.tick strays).tb = (s.finishSteps.tickSteps.advance.moveReplicas strays).tb := by
  rw [State.tick_running hrun, State.rateTicks_tb, State.acknowledge_tb, State.countHoldover_tb]

/-- R57, R58: the counts after a tick. -/
theorem State.tick_counts : let e := s.finishSteps; let t := s.tick strays
    t.tb.master = e.tb.master + BitVec.ofNat 64 (40 - e.tb.master.toNat % 40) ∧ t.tb.ticks = e.tb.ticks + 1 ∧
      t.tb.replica = e.tb.replica + 40 := by
  intro e t
  have h : t.tb = (e.tickSteps.advance.moveReplicas strays).tb := State.tick_tb hrun strays
  simp [h, State.advance]

/-- A replica after a tick, by its skew after the replicas have moved. -/
theorem State.tick_replica (u : Nat) :
    (s.tick strays).replica u = s.finishSteps.tb.replica + 40 + BitVec.ofInt 64 ((s.finishSteps.tickSteps.advance.moveReplicas strays).skewOf u) := by
  rw [State.replica_eq, (State.tick_counts hrun strays).2.2, State.skewOf, State.tick_tb hrun]
  rfl

/-- R58: a replica that is not held and does not stray takes the tick. -/
theorem State.tick_replica_moves {u : Nat} (hu : u ∉ s.finishSteps.tb.stalled) (hs : ∀ x ∈ strays, x.1.val ≠ u) :
    (s.tick strays).replica u = s.finishSteps.replica u + 40 := by
  rw [State.tick_replica hrun, State.skewOf_moveReplicas _ _ _ hs, State.advance_stalled, State.tickSteps_tb, List.count_eq_zero.mpr hu,
    State.skewOf_advance, State.skewOf_tickSteps, State.replica_eq]
  simp only [Int.natCast_zero, Int.mul_zero, Int.sub_zero]
  abel

/-- R61: a held replica stays where it is. -/
theorem State.tick_replica_held {u : Nat} (hu : s.finishSteps.tb.stalled.count u = 1) (hs : ∀ x ∈ strays, x.1.val ≠ u) :
    (s.tick strays).replica u = s.finishSteps.replica u := by
  rw [State.tick_replica hrun, State.skewOf_moveReplicas _ _ _ hs, State.advance_stalled, State.tickSteps_tb, hu, State.skewOf_advance,
    State.skewOf_tickSteps, State.replica_eq]
  exact add_ofInt_sub _ _

/-- R61: a replica that strays misses the tick or takes it twice. -/
theorem State.tick_replica_stray (u : Fin 118) (ahead : Bool) (hu : u.val ∉ s.finishSteps.tb.stalled) :
    (s.tick [(u, ahead)]).replica u.val = s.finishSteps.replica u.val + if ahead then 80 else 0 := by
  have h := State.skewOf_moveReplicas_stray s.finishSteps.tickSteps.advance u ahead (by simpa using hu)
  rw [State.tick_replica hrun, h, State.skewOf_advance, State.skewOf_tickSteps, State.replica_eq]
  cases ahead with
  | true => rw [if_pos rfl, if_pos rfl, add_ofInt_add]
  | false => rw [if_neg Bool.false_ne_true, if_neg Bool.false_ne_true, ← sub_eq_add_neg, add_ofInt_sub, add_zero]

theorem State.tick_pos (a : Nat) : ((s.tick strays).arr a).pos = 0 := by
  rw [← State.tickSteps_pos s.finishSteps a]
  have h : (s.tick strays).arrs = s.finishSteps.tickSteps.arrs := by
    rw [State.tick_running hrun, State.rateTicks_arrs, State.acknowledge_arrs, State.countHoldover_arrs,
      State.moveReplicas_arrs, State.advance_arrs]
  unfold State.arr
  rw [h]

theorem State.tick_holdover : let e := s.finishSteps
    ((s.tick strays).reg Reg.tbHoldover).toNat = if e.bit Reg.tbStatus 1 then min ((e.reg Reg.tbHoldover).toNat + 1) (2 ^ 32 - 1)
      else (e.reg Reg.tbHoldover).toNat := by
  intro e
  have h : ∀ b, (e.tickSteps.advance.moveReplicas strays).reg b = e.reg b := fun b => by
    rw [State.reg_moveReplicas, State.reg_advance, State.reg_tickSteps]
  rw [State.tick_running hrun, State.reg_rateTicks_other _ _ (by decide), State.reg_acknowledge, State.reg_countHoldover,
    State.bit_congr (h _), h]

end

/-! A broadcast of the master count (R61). -/

/-- The count of the last tick. -/
def State.lastTick (s : State) : W64 := s.tb.master - BitVec.ofNat 64 (s.tb.master.toNat % 40)

/-- How far a replica lies ahead of the count of the last tick. -/
def State.lead (s : State) (u : Nat) : Int := (s.replica u - s.lastTick).toInt

/-- The timebase with a unit's replica at the count of the last tick, loaded. -/
def State.jumpedTb (s : State) (u : Nat) : Timebase :=
  { s.tb with skew := Tab.put s.tb.skew u (s.skewOf u - s.lead u), loading := s.tb.loading.filter (· != u) }

/-- The timebase with a unit's replica held. -/
def State.stoppedTb (s : State) (u : Nat) : Timebase :=
  { s.tb with stalled := if s.tb.stalled.contains u then s.tb.stalled else s.tb.stalled ++ [u] }

/-- What a broadcast makes of the timebase for one unit. -/
theorem State.checkReplica_tb (s : State) (u : Nat) : (s.checkReplica u).tb =
    if u ∈ s.tb.loading then s.jumpedTb u else if s.lead u = 0 then s.tb else if 0 < s.lead u then s.stoppedTb u else s.jumpedTb u := by
  unfold State.checkReplica
  extract_lets +onlyGivenNames tb diff put skew
  split
  · next h => rw [if_pos (List.contains_iff_mem.mp h)]; rfl
  · next h =>
    rw [if_neg (mt List.contains_iff_mem.mpr h)]
    split
    · next h0 => exact (if_pos (c := s.lead u = 0) h0).symm
    · next h0 =>
      rw [if_neg (show ¬s.lead u = 0 from h0), State.raise_tb, State.setReg_tb, State.setBit_tb, apply_ite State.tb]
      exact if_congr decide_eq_true_iff rfl rfl

/-- From s to t nothing changed but what a broadcast changes for other units than u. -/
structure ReplicaKept (u : Nat) (s t : State) : Prop where
  master : t.tb.master = s.tb.master
  ticks : t.tb.ticks = s.tb.ticks
  common : t.tb.replica = s.tb.replica
  skew : t.skewOf u = s.skewOf u
  loading : u ∈ t.tb.loading ↔ u ∈ s.tb.loading
  stalled : u ∈ s.tb.stalled → u ∈ t.tb.stalled

theorem ReplicaKept.of_tb {u : Nat} {s t : State} (h : t.tb = s.tb) : ReplicaKept u s t := by
  constructor <;> simp [State.skewOf, h]

theorem ReplicaKept.trans {u : Nat} {s t r : State} (h : ReplicaKept u s t) (k : ReplicaKept u t r) : ReplicaKept u s r :=
  ⟨k.master.trans h.master, k.ticks.trans h.ticks, k.common.trans h.common, k.skew.trans h.skew, k.loading.trans h.loading,
    k.stalled ∘ h.stalled⟩

theorem ReplicaKept.replica {u : Nat} {s t : State} (h : ReplicaKept u s t) : t.replica u = s.replica u := by
  rw [State.replica_eq, h.common, h.skew, State.replica_eq]

theorem ReplicaKept.lastTick {u : Nat} {s t : State} (h : ReplicaKept u s t) : t.lastTick = s.lastTick := by
  rw [State.lastTick, h.master, State.lastTick]

theorem ReplicaKept.lead {u : Nat} {s t : State} (h : ReplicaKept u s t) : t.lead u = s.lead u := by
  rw [State.lead, h.replica, h.lastTick, State.lead]

theorem ReplicaKept.of_jumped {s t : State} {u v : Nat} (hne : v ≠ u) (h : t.tb = s.jumpedTb v) : ReplicaKept u s t := by
  constructor <;> simp [State.skewOf, h, State.jumpedTb, Tab.getD_put, hne.symm]

theorem ReplicaKept.of_stopped {s t : State} {u v : Nat} (h : t.tb = s.stoppedTb v) : ReplicaKept u s t := by
  constructor <;> simp only [State.skewOf, h, State.stoppedTb]
  intro hu
  split
  · exact hu
  · exact List.mem_append_left _ hu

theorem State.checkReplica_kept_other {u v : Nat} (hne : v ≠ u) (s : State) : ReplicaKept u s (s.checkReplica v) := by
  have h := s.checkReplica_tb v
  split at h
  · exact .of_jumped hne h
  · split at h
    · exact .of_tb h
    · split at h
      · exact .of_stopped h
      · exact .of_jumped hne h

/-- R61: the unit compared, at the count of the last tick after it, or held. -/
structure ReplicaChecked (u : Nat) (s t : State) : Prop where
  jumps : u ∈ s.tb.loading ∨ s.lead u ≤ 0 → t.replica u = s.lastTick
  stops : u ∉ s.tb.loading → 0 < s.lead u → t.replica u = s.replica u ∧ u ∈ t.tb.stalled

/-- A replica that its lead has been taken from. -/
theorem State.replica_sub_lead (s : State) (u : Nat) : s.tb.replica + BitVec.ofInt 64 (s.skewOf u - s.lead u) = s.lastTick := by
  have h : BitVec.ofInt 64 (s.lead u) = s.replica u - s.lastTick := BitVec.ofInt_toInt
  rw [sub_eq_add_neg, BitVec.ofInt_add, BitVec.ofInt_neg, h, State.replica_eq]
  abel

theorem State.replica_of_jumped {s t : State} {u : Nat} (h : t.tb = s.jumpedTb u) : t.replica u = s.lastTick := by
  rw [← s.replica_sub_lead u, State.replica_eq, State.skewOf, h]
  simp only [State.jumpedTb, Tab.getD_put_self]

theorem State.checkReplica_checked (u : Nat) (s : State) : ReplicaChecked u s (s.checkReplica u) := by
  have h := s.checkReplica_tb u
  split at h
  · next hl => exact ⟨fun _ => State.replica_of_jumped h, fun hl' => absurd hl hl'⟩
  · next hl =>
    split at h
    · next h0 =>
      refine ⟨fun _ => ?_, fun _ hp => absurd h0 (by omega)⟩
      have hs := s.replica_sub_lead u
      rwa [h0, sub_zero, ← State.replica_eq, ← (ReplicaKept.of_tb h).replica] at hs
    · split at h
      · next hp =>
        refine ⟨fun hj => absurd hp (by have := hj.resolve_left hl; omega), fun _ _ => ⟨(ReplicaKept.of_stopped h).replica, ?_⟩⟩
        rw [h, State.stoppedTb]
        dsimp only
        split
        · next hc => exact List.contains_iff_mem.mp hc
        · exact List.mem_append_right _ (List.mem_singleton_self u)
      · next hp => exact ⟨fun _ => State.replica_of_jumped h, fun _ hp' => absurd hp' hp⟩

theorem ReplicaChecked.congr {u : Nat} {s s' t t' : State} (h : ReplicaChecked u s' t) (hs : ReplicaKept u s s') (ht : ReplicaKept u t t') :
    ReplicaChecked u s t' where
  jumps hj := by
    rw [ht.replica, h.jumps (by rwa [hs.loading, hs.lead]), hs.lastTick]
  stops hl hp := by
    obtain ⟨h1, h2⟩ := h.stops (by rwa [hs.loading]) (by rwa [hs.lead])
    exact ⟨by rw [ht.replica, h1, hs.replica], ht.stalled h2⟩

theorem State.checkReplicas_kept {u : Nat} {l : List Nat} (h : u ∉ l) (s : State) : ReplicaKept u s (l.foldl State.checkReplica s) :=
  List.foldlRecOn l _ (motive := ReplicaKept u s) (.of_tb rfl)
    (fun t ht _ hv => ht.trans (t.checkReplica_kept_other (ne_of_mem_of_not_mem hv h)))

/-- A broadcast to units that differ checks each of them. -/
theorem State.checkReplicas_checked {u : Nat} {l : List Nat} (hl : l.Nodup) (hu : u ∈ l) (s : State) :
    ReplicaChecked u s (l.foldl State.checkReplica s) := by
  obtain ⟨a, b, rfl⟩ := List.append_of_mem hu
  have hab := List.nodup_middle.mp hl
  obtain ⟨hn, -⟩ := List.nodup_cons.mp hab
  rw [List.mem_append, not_or] at hn
  rw [List.foldl_append, List.foldl_cons]
  exact (State.checkReplica_checked u _).congr (State.checkReplicas_kept hn.1 s) (State.checkReplicas_kept hn.2 _)

/-- R58: no unit holds two replicas. -/
theorem State.replicaUnits_nodup (s : State) : s.replicaUnits.Nodup := by
  unfold State.replicaUnits
  refine List.Nodup.append (List.nodup_range.filter _) (List.nodup_range.map (add_left_injective 108)) (fun u h1 h2 => ?_)
  have hlt := List.mem_range.mp (List.mem_filter.mp h1).1
  obtain ⟨i, -, rfl⟩ := List.mem_map.mp h2
  omega

/-- A broadcast once it is due: the ticks since it begin again, and every unit that holds a replica is checked. -/
def State.broadcast (s : State) : State := s.replicaUnits.foldl State.checkReplica { s with tb := { s.tb with ticks := 0 } }

theorem exec_timebaseBroadcast {s : State} (hrun : s.tb.running = true) (ht : 1024 ≤ s.tb.ticks) :
    exec .timebaseBroadcast s = .next s.broadcast := by
  show execTimebaseBroadcast s = _
  unfold execTimebaseBroadcast
  rw [if_neg (by simp [hrun, ht])]
  rfl

theorem State.broadcast_counts (s : State) : s.broadcast.tb.ticks = 0 ∧ s.broadcast.tb.master = s.tb.master := by
  have h118 : 118 ∉ s.replicaUnits := by
    unfold State.replicaUnits
    simp
  have h := State.checkReplicas_kept h118 { s with tb := { s.tb with ticks := 0 } }
  exact ⟨h.ticks, h.master⟩

theorem State.broadcast_checked {s : State} {u : Nat} (hu : u ∈ s.replicaUnits) : ReplicaChecked u s s.broadcast :=
  have h := State.checkReplicas_checked s.replicaUnits_nodup hu { s with tb := { s.tb with ticks := 0 } }
  ⟨h.jumps, h.stops⟩

end Sys2Proof.Machine
end

section
/-! SUPPORT. The reference of the timebase lost and returned, and the count begun (R57, R66, R67, R597). -/

namespace Sys2Proof.Machine

/-- The statuses of the timebase and of the start lie outside what raising a fault writes. -/
theorem tbStatus_not_faultAddress : ¬FaultAddress Reg.tbStatus := by unfold FaultAddress; decide

/-- The record of a lost reference. -/
def State.refLostRecord (s : State) : FaultRec := { FaultRec.plain 0x0801 (unitDest 118) s.tb.master none with toAll := true }

theorem State.refLost_undelivered (s : State) : s.refLost.faults.undelivered = s.faults.undelivered ++ [s.refLostRecord] :=
  State.raise_undelivered _ _

theorem State.refLost_tb (s : State) : s.refLost.tb = { s.tb with refLost := true, relocking := false } := State.raise_tb _ _

/-- R66: LOCKED cleared, HOLDOVER and REF_LOST set. -/
theorem State.refLost_status (s : State) :
    s.refLost.bit Reg.tbStatus 0 = false ∧ s.refLost.bit Reg.tbStatus 1 = true ∧ s.refLost.bit Reg.tbStatus 8 = true := by
  unfold State.refLost
  simp [State.bit_raise _ _ _ _ tbStatus_not_faultAddress, State.bit_setBit]

theorem State.stepDone_doStep (s : State) (i : Nat) (hi : i < 12) : (s.doStep i).stepDone i = true := by
  unfold State.stepDone State.doStep
  rw [State.bit_setReg_other _ _ _ _ _ (by simp only [Reg.startState, Reg.startTime]; omega), State.bit_setBit_self _ _ _ (by omega)]

/-- A start step done leaves the bits of registers outside START. -/
theorem State.bit_doStep (s : State) (i b j : Nat) (h1 : b ≠ Reg.startState) (h2 : b ≠ Reg.startTime i) :
    (s.doStep i).bit b j = s.bit b j := by
  unfold State.doStep
  rw [State.bit_setReg_other _ _ _ _ _ h2]
  exact State.bit_congr (State.reg_setBit_other _ _ _ _ h1) j

/-- R57, R597: the first lock. -/
theorem State.firstLock (s : State) : let t := (s.startCount.setBit Reg.tbStatus 0).doStep 0
    t.stepDone 0 = true ∧ t.bit Reg.tbStatus 0 = true ∧ t.tb = { s.tb with running := true, master := 0, replica := 0 } := by
  refine ⟨State.stepDone_doStep _ 0 (by decide), ?_, rfl⟩
  rw [State.bit_doStep _ _ _ _ (by decide) (by decide), State.bit_setBit_self _ _ _ (by decide)]

/-- R67: a lock after the reference has returned changes the status of the timebase alone. -/
theorem State.relock (s : State) : let t := ((s.clearBit Reg.tbStatus 1).setBit Reg.tbStatus 0).setBit Reg.tbStatus 9
    t.bit Reg.tbStatus 1 = false ∧ t.bit Reg.tbStatus 0 = true ∧ t.bit Reg.tbStatus 9 = true ∧ OnlyRegs s t [Reg.tbStatus] := by
  refine ⟨by simp [State.bit_setBit], by simp [State.bit_setBit], by simp, rfl, fun b hb => ?_⟩
  have hne : b ≠ Reg.tbStatus := by simpa using hb
  rw [State.reg_setBit_other _ _ _ _ hne, State.reg_setBit_other _ _ _ _ hne, State.reg_clearBit_other _ _ _ _ hne]

/-- R66, R597: the start in holdover. -/
theorem State.holdoverStart (s : State) : let t := (s.startCount.refLost.setBit Reg.startStatus 1).doStep 0
    t.stepDone 0 = true ∧ t.bit Reg.tbStatus 0 = false ∧ t.bit Reg.tbStatus 1 = true ∧ t.bit Reg.startStatus 1 = true ∧
      t.tb.running = true ∧ t.tb.master = 0 := by
  intro t
  obtain ⟨hlocked, hholdover, -⟩ := s.startCount.refLost_status
  have htb : ∀ j, t.bit Reg.tbStatus j = s.startCount.refLost.bit Reg.tbStatus j := fun j => by
    rw [State.bit_doStep _ _ _ _ (by decide) (by decide)]
    exact State.bit_congr (State.reg_setBit_other _ _ _ _ (by decide)) j
  have hcount : t.tb = s.startCount.refLost.tb := rfl
  refine ⟨State.stepDone_doStep _ 0 (by decide), (htb 0).trans hlocked, (htb 1).trans hholdover, ?_, ?_, ?_⟩
  · rw [State.bit_doStep _ _ _ _ (by decide) (by decide), State.bit_setBit_self _ _ _ (by decide)]
  · rw [hcount, State.refLost_tb]; rfl
  · rw [hcount, State.refLost_tb]; rfl

end Sys2Proof.Machine

section

open Sys2Proof Sys2Proof.Machine

/-- Settles O34: a tick moves the common count, and the skew of a replica says whether it goes along; a broadcast treats each unit on its
own. -/
theorem timebaseCounts : Obligations.TimebaseCounts := by
  refine ⟨fun strays s => ⟨s.tick strays, rfl, ?_⟩, fun s hrun ht => ⟨s.broadcast, exec_timebaseBroadcast hrun ht, ?_⟩,
    fun s => ⟨_, rfl, ?_⟩, fun s => ⟨_, rfl, ?_⟩, fun s => ⟨_, rfl, ?_⟩, fun s => ⟨_, rfl, ?_⟩⟩
  · split
    · next hrun =>
      obtain ⟨hmaster, hticks, -⟩ := State.tick_counts hrun strays
      exact ⟨State.finishSteps_of_none, State.tick_frame hrun strays, hmaster, hticks, fun u => State.tick_replica_moves hrun strays,
        fun u => State.tick_replica_held hrun strays, fun u ahead hu hs => hs ▸ State.tick_replica_stray hrun u ahead hu,
        State.tick_pos hrun strays, State.tick_holdover hrun strays⟩
    · next hrun => exact State.tick_stopped (Bool.eq_false_iff.mpr hrun) strays
  · exact ⟨s.broadcast_counts.1, s.broadcast_counts.2, fun u hu => ⟨(State.broadcast_checked hu).jumps, (State.broadcast_checked hu).stops⟩⟩
  · simp only [Bool.not_eq_true']
    by_cases h : s.tb.running = true ∧ (s.bit Reg.tbStatus 1 = false ∨ s.tb.relocking = true)
    · simp only [if_pos h]
      obtain ⟨hlocked, hholdover, hlost⟩ := s.refLost_status
      exact ⟨hlocked, hholdover, hlost, s.refLost_tb, _, s.refLost_undelivered, rfl⟩
    · simp only [if_neg h]
  · split <;> rfl
  · by_cases h : s.stepOpen 0 [] = true
    · simp only [if_pos h]
      exact s.firstLock
    · simp only [if_neg h]
      by_cases h' : s.tb.relocking = true ∧ s.bit Reg.tbStatus 1 = true
      · simp only [if_pos h']
        obtain ⟨hholdover, hlocked, hrestored, hframe, hregs⟩ := State.relock { s with tb := { s.tb with relocking := false } }
        exact ⟨hholdover, hlocked, hrestored, hframe, hregs⟩
      · simp only [if_neg h']
  · by_cases h : s.stepOpen 0 [] = true
    · simp only [if_pos h]
      exact s.holdoverStart
    · simp only [if_neg h]

end
end

section
/-! SUPPORT. The end of a window: what is read out, what is sensed, and the records of the window's suppressed faults (R65, R314, R504, R583,
R586). -/

namespace Sys2Proof.Machine

/-! What is read out before the sensors. -/

/-- From s to t no more changed than what the read-out of a window may change: the counters and what holds them. -/
structure ReadOut (s t : State) : Prop where
  tb : t.tb = s.tb
  mids : t.mids = s.mids

theorem ReadOut.refl (s : State) : ReadOut s s := ⟨rfl, rfl⟩

theorem ReadOut.trans {s t u : State} (h : ReadOut s t) (k : ReadOut t u) : ReadOut s u := ⟨k.tb.trans h.tb, k.mids.trans h.mids⟩

theorem ReadOut.foldl {β : Type} {f : State → β → State} (h : ∀ s b, ReadOut s (f s b)) (l : List β) (s : State) :
    ReadOut s (l.foldl f s) :=
  List.foldlRecOn l f (motive := ReadOut s) (.refl s) (fun t ht b _ => ht.trans (h t b))

theorem ReadOut.setReg (s : State) (a : Nat) (v : W32) : ReadOut s (s.setReg a v) := ⟨rfl, rfl⟩

theorem State.foldPhase_readOut (s : State) (ga : Nat) : ReadOut s (s.foldPhase ga) := by
  unfold State.foldPhase
  dsimp only
  split
  · exact .refl s
  · split
    · exact .refl s
    · exact ⟨rfl, rfl⟩

theorem State.floors_readOut (s : State) (accum : Tab Nat) : ReadOut s (s.floors accum) := by
  refine ReadOut.foldl (fun t d => ?_) _ s
  split
  · exact .refl t
  · exact .setReg t _ _

theorem State.partEnergy_readOut (s : State) (accum : Tab Nat) (w p : Nat) : ReadOut s (s.partEnergy accum w p) := by
  unfold State.partEnergy
  split
  · exact .refl s
  · exact (ReadOut.foldl (fun t i => .setReg t _ _) _ s).trans (.setReg _ _ _)

theorem State.readOut_readOut (s : State) (w : Nat) : ReadOut s (s.readOut w) := by
  unfold State.readOut
  extract_lets accum begun counted floored charged linked
  have hbegun : ReadOut s begun := ⟨rfl, rfl⟩
  have hcounted : ReadOut begun counted := ReadOut.foldl (fun t e => .setReg t _ _) _ begun
  have hcharged : ReadOut floored charged := ReadOut.foldl (fun t p => t.partEnergy_readOut accum w p) _ floored
  have hlinked : ReadOut charged linked := ReadOut.foldl (fun t l => .setReg t _ _) _ charged
  exact ((((hbegun.trans hcounted).trans (counted.floors_readOut accum)).trans hcharged).trans hlinked).trans (.setReg _ _ _)

/-! What is recorded after the sensors. -/

/-- From s to t no more changed than what the delivery of fault records may change. Below 0x10000 no register is one of fault delivery. -/
structure Recorded (s t : State) : Prop where
  frame : t = { s with regs := t.regs, slices := t.slices, ports := t.ports, hostOut := t.hostOut, faults := t.faults }
  regs : ∀ b, b < 0x10000 → t.reg b = s.reg b

theorem Recorded.refl (s : State) : Recorded s s := ⟨rfl, fun _ _ => rfl⟩

theorem Recorded.trans {s t u : State} (h : Recorded s t) (k : Recorded t u) : Recorded s u where
  frame := k.frame.trans (by rw [h.frame])
  regs b hb := (k.regs b hb).trans (h.regs b hb)

theorem Recorded.foldl {β : Type} {f : State → β → State} (h : ∀ s b, Recorded s (f s b)) (l : List β) (s : State) :
    Recorded s (l.foldl f s) :=
  List.foldlRecOn l f (motive := Recorded s) (.refl s) (fun t ht b _ => ht.trans (h t b))

theorem Recorded.setReg (s : State) {a : Nat} (ha : 0x10000 ≤ a) (v : W32) : Recorded s (s.setReg a v) :=
  ⟨rfl, fun b hb => State.reg_setReg_other s a b v (by omega)⟩

theorem State.hostLineOut_recorded (s : State) (p : Nat) (l : SLine) : Recorded s (s.hostLineOut p l) := by
  unfold State.hostLineOut
  dsimp only
  split
  · exact .refl s
  · exact ⟨rfl, fun _ _ => rfl⟩

theorem State.hidWrite_recorded (s : State) (p port addr n v : Nat) : Recorded s (s.hidWrite p port addr n v) := by
  unfold State.hidWrite
  extract_lets line d set copied written w
  have hwritten : Recorded s written := by
    have hcopied : Recorded s copied := ⟨rfl, fun _ _ => rfl⟩
    unfold written
    split
    · split
      · exact hcopied.trans (copied.hostLineOut_recorded _ _)
      · exact hcopied
    · exact .refl s
  clear_value written
  exact hwritten.trans ⟨rfl, fun _ _ => rfl⟩

theorem frStatus_ge (port : Nat) : 0x10000 ≤ Reg.frStatus port := by
  simp only [Reg.frStatus, Base.port]; omega

theorem State.ringWrite_recorded (s : State) (port : Nat) (r : FaultRec) (count : Nat) : Recorded s (s.ringWrite port r count) := by
  unfold State.ringWrite
  split
  · exact .refl s
  · next p _ =>
    dsimp only
    split
    · exact .refl s
    · split
      · exact (Recorded.setReg s (frStatus_ge port) _).trans (Recorded.setReg _ (frStatus_ge port) _)
      · exact ((Recorded.foldl (fun t j => t.hidWrite_recorded p port _ 64 _) _ s).trans (State.hidWrite_recorded _ p port _ 64 _)).trans
          ⟨rfl, fun _ _ => rfl⟩

theorem State.queueWrite_recorded (s : State) (r : FaultRec) (count : Nat) : Recorded s (s.queueWrite r count) := by
  unfold State.queueWrite
  split
  · exact (Recorded.setReg s (a := Reg.fltQueue) (by decide) _).trans (Recorded.setReg _ (a := Reg.fltStatus) (by decide) _)
  · exact ⟨rfl, fun _ _ => rfl⟩

theorem State.recordTo_recorded (s : State) (dest : Nat) (r : FaultRec) (count : Nat) : Recorded s (s.recordTo dest r count) := by
  unfold State.recordTo
  split
  · exact s.queueWrite_recorded r count
  · split
    · exact s.ringWrite_recorded _ r count
    · exact .refl s

theorem State.summarise_recorded (s : State) : Recorded s s.summarise := by
  have hsupp : Recorded s { s with faults := { s.faults with supp := [] } } := ⟨rfl, fun _ _ => rfl⟩
  refine hsupp.trans (Recorded.foldl (fun t x => ?_) _ _)
  split
  · exact .refl t
  · exact t.recordTo_recorded _ _ _

/-! What is sensed. -/

/-- The failures and mismatches that are counted per window, counted from zero (R318, R365). -/
def State.restartCounts (s : State) : State :=
  { s with mids := Tab.mapAll s.mids (fun _ m => { m with laneFails := [] }), halves := Tab.mapAll s.halves (fun _ h => { h with mismatches := [] }) }

@[simp] theorem State.restartCounts_tb (s : State) : s.restartCounts.tb = s.tb := rfl
@[simp] theorem State.reg_restartCounts (s : State) (b : Nat) : s.restartCounts.reg b = s.reg b := rfl

/-- The end of a window is a read-out, the sensors, the counts begun again, and the records of suppressed faults. -/
theorem State.endWindow_sensed (s : State) (x : WindowSensors) :
    ∃ u, ReadOut s u ∧ Recorded (u.readSensors x).restartCounts (s.endWindow x) := by
  unfold State.endWindow
  extract_lets folded out twice counted sensed restarted
  have hfolded : ReadOut s folded := ReadOut.foldl State.foldPhase_readOut _ s
  have hcounted : ReadOut out counted := ReadOut.foldl (fun t e => by unfold State.atBase; split <;> exact ⟨rfl, rfl⟩) _ out
  exact ⟨counted, (hfolded.trans (folded.readOut_readOut _)).trans hcounted, restarted.summarise_recorded⟩

/-- What one stack reports, kept at its memory-interface die (R314; log entry 99). -/
theorem State.mid_readStack (s : State) (r : StackReport) : let m := r.stack.val / 4; let k := r.stack.val % 4
    Tab.getD ((s.readStack r).mid m).temps k 0 = r.degrees.toNat ∧
      Tab.getD ((s.readStack r).mid m).scrubErrors k 0 = Tab.getD (s.mid m).scrubErrors k 0 + r.scrubErrors.toNat := by
  simp only [State.readStack, State.setMid, State.mid, Tab.getD_put_self, Tab.getD_modify, if_true, and_self]

/-- The registers of the module's sensors, apart from those that hold several fields (R583, R586). -/
structure Senses (x : WindowSensors) (t : State) : Prop where
  input : t.reg Reg.pwrInput = BitVec.ofNat 32 (x.inputMv.toNat + x.inputDa.toNat * 2 ^ 16)
  energy : t.reg Reg.pwrEnergy = x.moduleUj
  coolant : t.reg Reg.thCoolant = BitVec.ofNat 32 (x.inlet.toNat + x.outlet.toNat * 2 ^ 8)

/-- The converters' reports (R586). -/
def State.readConverters (s : State) (l : List ConverterReport) : State :=
  l.foldl (fun s c => (s.setField (Reg.ibcState c.converter.val) 8 8 c.degrees.toNat).setField (Reg.ibcState c.converter.val) 16 16 c.outDa.toNat) s

/-- Input, energy and coolant (R583, R586). -/
def State.readModule (s : State) (x : WindowSensors) : State :=
  ((s.setReg Reg.pwrInput (BitVec.ofNat 32 (x.inputMv.toNat + x.inputDa.toNat * 2 ^ 16))).setReg Reg.pwrEnergy x.moduleUj).setReg
    Reg.thCoolant (BitVec.ofNat 32 (x.inlet.toNat + x.outlet.toNat * 2 ^ 8))

/-- A warm inlet noted, and the alerts and junction maxima of the window shown (R583, R594). -/
def State.readMaxima (s : State) (x : WindowSensors) : State :=
  let s := if 60 < x.inlet.toNat then s.setBit Reg.thStatus 10 else s
  let s := s.setField Reg.pwrAlerts 0 16 (min s.power.alerts 0xFFFF)
  (List.range 108).foldl (fun s u => s.setField (Reg.thDie u) 8 8 (Tab.getD s.power.siteMax u 0)) s

/-- The alerts and junction maxima counted from zero. -/
def State.restartMaxima (s : State) : State := { s with power := { s.power with alerts := 0, siteMax := [] } }

theorem State.readSensors_eq (s : State) (x : WindowSensors) :
    s.readSensors x = ((((x.hbmStacks.foldl State.readStack s).readConverters x.converters).readModule x).readMaxima x).restartMaxima := rfl

theorem State.readConverters_readOut (s : State) (l : List ConverterReport) : ReadOut s (s.readConverters l) :=
  ReadOut.foldl (fun t _ => (ReadOut.setReg t _ _).trans (.setReg _ _ _)) l s

theorem State.readModule_senses (s : State) (x : WindowSensors) : Senses x (s.readModule x) := by
  unfold State.readModule
  constructor
  · rw [State.reg_setReg_other _ _ _ _ (by decide), State.reg_setReg_other _ _ _ _ (by decide), State.reg_setReg_self]
  · rw [State.reg_setReg_other _ _ _ _ (by decide), State.reg_setReg_self]
  · rw [State.reg_setReg_self]

/-- The address of a register that is none of the module's sensors. -/
def NoSensor (a : Nat) : Prop := a ≠ Reg.pwrInput ∧ a ≠ Reg.pwrEnergy ∧ a ≠ Reg.thCoolant

theorem noSensor_thDie (u : Nat) : NoSensor (Reg.thDie u) := by
  simp only [NoSensor, Reg.thDie, Reg.pwrInput, Reg.pwrEnergy, Reg.thCoolant]
  omega

/-- From s to t only registers changed, none of the module's sensors among them. -/
structure Shown (s t : State) : Prop where
  frame : t = { s with regs := t.regs }
  regs : ∀ a, ¬NoSensor a → t.reg a = s.reg a

theorem Shown.refl (s : State) : Shown s s := ⟨rfl, fun _ _ => rfl⟩

theorem Shown.trans {s t u : State} (h : Shown s t) (k : Shown t u) : Shown s u where
  frame := k.frame.trans (by rw [h.frame])
  regs a ha := (k.regs a ha).trans (h.regs a ha)

theorem Shown.setField (s : State) {a : Nat} (ha : NoSensor a) (lo w v : Nat) : Shown s (s.setField a lo w v) :=
  ⟨rfl, fun b hb => State.reg_setField_other s a b lo w v (by rintro rfl; exact hb ha)⟩

theorem State.readMaxima_shown (s : State) (x : WindowSensors) : Shown s (s.readMaxima x) := by
  unfold State.readMaxima
  extract_lets warned alerted
  have hwarned : Shown s warned := by
    unfold warned
    split
    · exact .setField s (by unfold NoSensor; decide) 10 1 1
    · exact .refl s
  have halerted : Shown warned alerted := .setField warned (by unfold NoSensor; decide) _ _ _
  exact List.foldlRecOn _ _ (motive := Shown s) (hwarned.trans halerted) (fun t ht u _ => ht.trans (.setField t (noSensor_thDie u) _ _ _))

theorem Shown.readOut {s t : State} (h : Shown s t) : ReadOut s t := ⟨by rw [h.frame], by rw [h.frame]⟩

theorem State.readModule_readOut (s : State) (x : WindowSensors) : ReadOut s (s.readModule x) :=
  ((ReadOut.setReg s _ _).trans (.setReg _ _ _)).trans (.setReg _ _ _)

theorem State.restartMaxima_readOut (s : State) : ReadOut s s.restartMaxima := ⟨rfl, rfl⟩

@[simp] theorem State.reg_restartMaxima (s : State) (b : Nat) : s.restartMaxima.reg b = s.reg b := rfl

theorem State.readSensors_senses (s : State) (x : WindowSensors) : Senses x (s.readSensors x) := by
  rw [State.readSensors_eq]
  generalize (x.hbmStacks.foldl State.readStack s).readConverters x.converters = t
  have h := (t.readModule x).readMaxima_shown x
  have hm := t.readModule_senses x
  constructor
  · rw [State.reg_restartMaxima, h.regs _ (fun hn => hn.1 rfl), hm.input]
  · rw [State.reg_restartMaxima, h.regs _ (fun hn => hn.2.1 rfl), hm.energy]
  · rw [State.reg_restartMaxima, h.regs _ (fun hn => hn.2.2 rfl), hm.coolant]

/-- What the sensors give of the stacks is kept; the rest of them go to registers and to the state of power. -/
theorem State.readSensors_readOut (s : State) (x : WindowSensors) : ReadOut (x.hbmStacks.foldl State.readStack s) (s.readSensors x) := by
  rw [State.readSensors_eq]
  generalize x.hbmStacks.foldl State.readStack s = t
  exact (((t.readConverters_readOut _).trans (State.readModule_readOut _ x)).trans (State.readMaxima_shown _ x).readOut).trans
    (State.restartMaxima_readOut _)

end Sys2Proof.Machine
end

section
/-! SUPPORT. The state after the end of a window, and after the other commands of the timebase's family (R47, R63, R65, R68, R69). -/

namespace Sys2Proof.Machine

theorem State.reached_iff (s : State) (w : Nat) : s.reached w = true ↔
    w ≤ s.tb.master.toNat / 1000000 ∧ (∀ u ∈ s.replicaUnits, u ∉ s.tb.loading → w ≤ (s.replica u).toNat / 1000000) := by
  simp only [State.reached, Bool.and_eq_true, decide_eq_true_eq, List.all_eq_true, Bool.or_eq_true, List.contains_iff_mem,
    or_iff_not_imp_left]

/-- When WINDOW_BOUNDARY acts: the master and every loaded replica have reached the window (R63; log entry 94). -/
theorem State.windowDue_iff (s : State) (w : Nat) : ¬((!s.tb.running) = true ∨ (!s.reached w) = true) ↔
    s.tb.running = true ∧ w ≤ s.tb.master.toNat / 1000000 ∧
      (∀ u ∈ s.replicaUnits, u ∉ s.tb.loading → w ≤ (s.replica u).toNat / 1000000) := by
  rw [not_or, ← State.reached_iff, Bool.not_eq_true', Bool.not_eq_true', Bool.not_eq_false, Bool.not_eq_false]

section
variable (s : State) (x : WindowSensors)

theorem State.endWindow_tb : (s.endWindow x).tb = s.tb := by
  obtain ⟨u, hu, ht⟩ := s.endWindow_sensed x
  have hs := u.readSensors_readOut x
  have hl : (x.hbmStacks.foldl State.readStack u).tb = u.tb := State.foldl_keeps State.tb (f := State.readStack) (fun _ _ => rfl) _ u
  rw [ht.frame, State.restartCounts_tb, hs.tb, hl, hu.tb]

theorem State.endWindow_senses : Senses x (s.endWindow x) := by
  obtain ⟨u, -, ht⟩ := s.endWindow_sensed x
  have h := u.readSensors_senses x
  constructor
  · rw [ht.regs _ (by decide), State.reg_restartCounts, h.input]
  · rw [ht.regs _ (by decide), State.reg_restartCounts, h.energy]
  · rw [ht.regs _ (by decide), State.reg_restartCounts, h.coolant]

/-- R314: with one stack reporting, its interface die holds what it reports. -/
theorem State.endWindow_stack (r : StackReport) (hr : x.hbmStacks = [r]) : let m := r.stack.val / 4; let k := r.stack.val % 4
    Tab.getD ((s.endWindow x).mid m).temps k 0 = r.degrees.toNat ∧
      Tab.getD ((s.endWindow x).mid m).scrubErrors k 0 = Tab.getD (s.mid m).scrubErrors k 0 + r.scrubErrors.toNat := by
  intro m k
  obtain ⟨u, hu, ht⟩ := s.endWindow_sensed x
  have hmids : (u.readSensors x).mids = (u.readStack r).mids := by rw [(u.readSensors_readOut x).mids, hr]; rfl
  have hmid : (s.endWindow x).mid m = { (u.readStack r).mid m with laneFails := [] } := by
    rw [ht.frame]
    unfold State.mid State.restartCounts
    dsimp only
    rw [hmids, Tab.getD_mapAll_of_default _ _ _ _ rfl]
  have hs : u.mid m = s.mid m := by unfold State.mid; rw [hu.mids]
  rw [hmid, ← hs]
  exact u.mid_readStack r

/-- R318, R365, R583: what is counted per window starts again. -/
theorem State.endWindow_restarts : (∀ m, ((s.endWindow x).mid m).laneFails = []) ∧ (∀ k, ((s.endWindow x).half k).mismatches = []) ∧
    (s.endWindow x).power.alerts = 0 ∧ (s.endWindow x).power.siteMax = [] := by
  obtain ⟨u, -, ht⟩ := s.endWindow_sensed x
  rw [ht.frame]
  refine ⟨fun m => ?_, fun k => ?_, rfl, rfl⟩
  · unfold State.mid State.restartCounts
    dsimp only
    rw [Tab.getD_mapAll_of_default _ _ _ _ rfl]
  · unfold State.half State.restartCounts
    dsimp only
    rw [Tab.getD_mapAll_of_default _ _ _ _ rfl]

end

/-! A fall below fret 0 (R47). -/

/-- What holds of a die's partition is held in other registers than RATE_STATUS. -/
theorem State.partOfDie_setBit_rateStatus (s : State) (i d : Nat) : (s.setBit Reg.rateStatus i).partOfDie d = s.partOfDie d := by
  have h : ∀ p, (s.setBit Reg.rateStatus i).partSectors p = s.partSectors p := fun p =>
    State.field_setField_other _ _ _ _ _ _ _ _ (by simp only [Reg.partState, Reg.rateStatus]; omega)
  unfold State.partOfDie State.partOfSector
  simp only [h]

theorem State.partOfDie_count (s : State) (a n d : Nat) : (s.count a n).partOfDie d = s.partOfDie d := by
  unfold State.partOfDie State.partOfSector State.partSectors
  simp only [State.field_count]

/-- The record of a die that fell below fret 0. -/
def State.floorRecord (s : State) (d site : Nat) : FaultRec :=
  { FaultRec.plain 0x0206 (unitDest site) (s.replica site) (s.partOfDie d) with detail := [BitVec.ofNat 32 site, 0, 0, 0, 0] }

theorem rateStatus_not_faultAddress : ¬FaultAddress Reg.rateStatus := by unfold FaultAddress; decide

/-! Low words (R68). -/

/-- A pair of registers read: the low word returned, and of the registers only the high word written. -/
theorem State.readPair_reads (s : State) (hi : Nat) (v : W64) : let t := s.readPair hi v
    t = { s with regs := t.regs, readData := v.setWidth 32 } ∧ RegsBut s t [hi] ∧ t.reg hi = (v >>> 32).setWidth 32 :=
  ⟨rfl, RegsBut.setReg s hi _, State.reg_setReg_self s hi _⟩

theorem State.readLo_reads (s : State) (lo hi : Nat) : let t := s.readLo lo hi
    t = { s with regs := t.regs, readData := s.reg lo } ∧ RegsBut s t [hi] ∧ t.reg hi = Tab.getD s.latch hi 0 :=
  ⟨rfl, RegsBut.setReg s hi _, State.reg_setReg_self s hi _⟩

theorem State.readPtm_reads (s : State) (port : Nat) : let t := s.readPtm port; let x := s.port port
    t = { s with regs := t.regs, readData := x.ptmLocal.setWidth 32 } ∧
      RegsBut s t [Reg.ptmLocalHi port, Reg.ptmMasterLo port, Reg.ptmMasterHi port] ∧
      t.reg (Reg.ptmLocalHi port) = (x.ptmLocal >>> 32).setWidth 32 ∧ t.reg (Reg.ptmMasterLo port) = x.ptmMaster.setWidth 32 ∧
      t.reg (Reg.ptmMasterHi port) = (x.ptmMaster >>> 32).setWidth 32 := by
  intro t x
  have hlo : Reg.ptmLocalHi port ≠ Reg.ptmMasterLo port := by simp [Reg.ptmLocalHi, Reg.ptmMasterLo]
  have hhi : Reg.ptmLocalHi port ≠ Reg.ptmMasterHi port := by simp [Reg.ptmLocalHi, Reg.ptmMasterHi]
  have hmm : Reg.ptmMasterLo port ≠ Reg.ptmMasterHi port := by simp [Reg.ptmMasterLo, Reg.ptmMasterHi]
  have hreg : ∀ b, t.reg b = if b = Reg.ptmMasterHi port then (x.ptmMaster >>> 32).setWidth 32
      else if b = Reg.ptmMasterLo port then x.ptmMaster.setWidth 32
      else if b = Reg.ptmLocalHi port then (x.ptmLocal >>> 32).setWidth 32 else s.reg b := fun b => by
    unfold t State.readPtm
    rw [State.reg_setReg, State.reg_setReg]
    exact congrArg _ (congrArg _ (State.reg_setReg s _ b _))
  refine ⟨rfl, fun b hb => ?_, ?_, ?_, ?_⟩
  · simp only [List.mem_cons, List.not_mem_nil, or_false, not_or] at hb
    rw [hreg, if_neg hb.2.2, if_neg hb.2.1, if_neg hb.1]
  · rw [hreg, if_neg hhi, if_neg hlo, if_pos rfl]
  · rw [hreg, if_neg hmm, if_pos rfl]
  · rw [hreg, if_pos rfl]

end Sys2Proof.Machine

section

open Sys2Proof Sys2Proof.Machine

/-- Settles O35: the end of a window keeps the timebase and, of the stacks, what they report; a read of a low word writes the register of
its high word alone. -/
theorem windowsRatesAndLowWords : Obligations.WindowsRatesAndLowWords := by
  refine ⟨⟨fun x s => ⟨_, rfl, ?_⟩, fun d s => ⟨_, rfl, ?_⟩, fun p v s => ⟨_, rfl, ?_⟩⟩,
    fun s => ⟨_, rfl, s.readPair_reads _ _⟩, fun a s b hb => ⟨_, rfl, ?_⟩, fun d s b hb => ⟨_, rfl, ?_⟩, fun d s b hb => ⟨_, rfl, ?_⟩,
    fun m s => ⟨_, rfl, s.readLo_reads _ _⟩, fun c s b hb => ⟨_, rfl, ?_⟩, fun port s => ⟨_, rfl, ?_⟩⟩
  · dsimp only
    split
    · next h =>
      rw [if_neg ((s.windowDue_iff _).mpr h)]
      have hs := State.endWindow_senses { s with tb := { s.tb with window := s.tb.window + 1 } } x
      exact ⟨State.endWindow_tb _ x, State.endWindow_stack _ x, hs.input, hs.energy, hs.coolant, State.endWindow_restarts _ x⟩
    · next h => rw [if_pos (not_not.mp (mt (s.windowDue_iff _).mp h))]
  · cases hsite : s.siteOf d.val with
    | none => rfl
    | some site =>
      refine ⟨?_, ((s.count (floorKey d.val) 1).setBit Reg.rateStatus 16).floorRecord d.val site, ?_, rfl, rfl, ?_⟩
      · rw [State.bit_raise _ _ _ _ rateStatus_not_faultAddress, State.bit_setBit_self _ _ _ (by decide)]
      · rw [State.raise_undelivered, State.setBit_faults, State.count_faults]
        rfl
      · exact (State.partOfDie_setBit_rateStatus _ 16 _).trans (s.partOfDie_count (floorKey d.val) 1 _)
  · simp only [State.rateModeWrite, Bool.not_eq_true']
    split
    · rfl
    · split
      · exact ⟨⟨rfl, RegsBut.setReg s _ _⟩, State.bit_setBit_self _ _ _ (by decide), State.setBit_fieldOnly _ _ _ (by decide)⟩
      · rfl
  · rw [hb]; exact s.readLo_reads _ _
  · rw [hb]; exact s.readLo_reads _ _
  · rw [hb]; exact s.readLo_reads _ _
  · rw [hb]; exact s.readPair_reads _ _
  · cases hb : s.boundTo port.val with
    | none => rfl
    | some p => exact s.readPtm_reads port.val

end
end

section
/-! SUPPORT. What an issue leaves of the subgroup that makes it: it moves on, and may split (R92, R95, R134). -/

namespace Sys2Proof.Machine

/-! Lanes. -/

theorem getLsbD_two_pow (k i : Nat) (hi : i < 32) : (BitVec.ofNat 32 (2 ^ k)).getLsbD i = decide (k = i) := by
  rw [BitVec.getLsbD_ofNat, Nat.testBit_two_pow]
  simp [hi]

theorem getLsbD_lanesMask (l : List Nat) (i : Nat) (hi : i < 32) : (lanesMask l).getLsbD i = true ↔ i ∈ l := by
  unfold lanesMask
  rw [foldl_or_getLsbD]
  simp only [getLsbD_two_pow _ _ hi, decide_eq_true_eq, exists_eq_right, BitVec.ofNat_eq_ofNat, BitVec.getLsbD_zero,
    Bool.false_eq_true, false_or]

/-- The lanes whose guard holds are among those that issue. -/
theorem Group.guarded_subset (g : Group) (w : Fields) (lanes : BitVec 32) : lanes &&& g.guarded w lanes = g.guarded w lanes := by
  refine BitVec.eq_of_getLsbD_eq fun i hi => ?_
  rw [BitVec.getLsbD_and, Bool.and_eq_right_iff_imp]
  unfold Group.guarded
  split
  · rw [getLsbD_lanesMask _ _ hi, List.mem_filter, mem_lanesOf]
    exact fun h => h.1.2
  · exact id

/-! The subgroup that issued, moved on. -/

/-- The subgroup of a context, as it stands at the next instruction. -/
def Ctx.nextSub (c : Ctx) : Sub := { c.sub with pc := c.sub.pc + 16, wait := .running }

theorem Ctx.advance_subs (c : Ctx) (d : Desc) :
    (c.advance d).grp.subs = c.grp.subs.map (fun v => if v.lanes == c.sub.lanes then c.nextSub else v) := rfl

theorem Ctx.nextSub_mem {c : Ctx} (h : c.sub ∈ c.grp.subs) (d : Desc) : c.nextSub ∈ (c.advance d).grp.subs :=
  List.mem_map.mpr ⟨c.sub, h, if_pos (beq_self_eq_true _)⟩

/-- Only the subgroup that moved on has its lanes. -/
theorem Ctx.movedSub_advance {c : Ctx} (h : c.sub ∈ c.grp.subs) (d : Desc) : (c.advance d).movedSub = c.nextSub := by
  have hlanes : ∀ u ∈ (c.advance d).grp.subs, (u.lanes == c.sub.lanes) = true → u = c.nextSub := by
    intro u hu hl
    obtain ⟨v, -, rfl⟩ := List.mem_map.mp hu
    dsimp only at hl ⊢
    split
    · rfl
    · next hv => rw [if_neg hv] at hl; exact absurd hl hv
  have hfind : ((c.advance d).grp.subs.find? (fun u => u.lanes == c.sub.lanes)).isSome = true :=
    List.find?_isSome.mpr ⟨c.nextSub, c.nextSub_mem h d, beq_self_eq_true c.sub.lanes⟩
  obtain ⟨u, hu⟩ := Option.isSome_iff_exists.mp hfind
  have he := hlanes u (List.mem_of_find?_eq_some hu) (List.find?_some (p := fun u : Sub => u.lanes == c.sub.lanes) hu)
  unfold Ctx.movedSub
  rw [show (c.advance d).sub = c.sub from rfl, hu, he]
  rfl

/-- A group in which the subgroup of a context stands at the next instruction, and nothing else changed but how it splits. -/
structure Advanced (c : Ctx) (y : Group) : Prop where
  moved : MovedOn c c.grp y
  next : ∀ i, c.sub.lanes.getLsbD i = true → StandsAt y i (c.sub.pc + 16)

/-- A lane of another subgroup stands where it stood, in a subgroup that is not the one that moved on. -/
theorem Ctx.advance_others {c : Ctx} (d : Desc) {i : Nat} {pc : W64} (hi : c.sub.lanes.getLsbD i = false) (h : StandsAt c.grp i pc) :
    ∃ u ∈ (c.advance d).grp.subs, (u.lanes != c.sub.lanes) = true ∧ u.lanes.getLsbD i = true ∧ u.pc = pc := by
  obtain ⟨u, hu, hui, hpc⟩ := h
  have hne : u.lanes ≠ c.sub.lanes := by
    rintro e
    rw [e, hi] at hui
    cases hui
  exact ⟨u, List.mem_map.mpr ⟨u, hu, by simp [hne]⟩, bne_iff_ne.mpr hne, hui, hpc⟩

theorem Ctx.advance_advanced {c : Ctx} (h : c.sub ∈ c.grp.subs) (d : Desc) : Advanced c (c.advance d).grp where
  moved := ⟨rfl, fun _ _ hi hs =>
    have ⟨u, hu, _, hui, hpc⟩ := c.advance_others d hi hs
    ⟨u, hu, hui, hpc⟩⟩
  next _ hi := ⟨c.nextSub, c.nextSub_mem h d, hi, rfl⟩

theorem Ctx.mem_replaceSub {c : Ctx} {us : List Sub} {u : Sub} (hu : u ∈ us) (h0 : u.lanes ≠ 0) : u ∈ (c.replaceSub us).subs :=
  List.mem_append_right _ (List.mem_filter.mpr ⟨hu, bne_iff_ne.mpr h0⟩)

theorem ne_zero_of_getLsbD {m : BitVec 32} {i : Nat} (h : m.getLsbD i = true) : m ≠ 0 := by
  rintro rfl
  simp at h

/-- The subgroup that moved on replaced by subgroups that have its lanes and stand where it stands. -/
theorem Ctx.replaceSub_advanced {c : Ctx} (d : Desc) {us : List Sub}
    (h : ∀ i, c.sub.lanes.getLsbD i = true → ∃ u ∈ us, u.lanes.getLsbD i = true ∧ u.pc = c.sub.pc + 16) :
    Advanced c ((c.advance d).replaceSub us) where
  moved := ⟨rfl, fun _ _ hi hs =>
    have ⟨u, hu, hne, hui, hpc⟩ := c.advance_others d hi hs
    ⟨u, List.mem_append_left _ (List.mem_filter.mpr ⟨hu, hne⟩), hui, hpc⟩⟩
  next i hi :=
    have ⟨u, hu, hui, hpc⟩ := h i hi
    ⟨u, Ctx.mem_replaceSub hu (ne_zero_of_getLsbD hui), hui, hpc⟩

/-- One subgroup in the place of the one that moved on. -/
theorem Ctx.replaceSub_one_advanced {c : Ctx} (d : Desc) {u : Sub} (hl : u.lanes = c.sub.lanes) (hp : u.pc = c.sub.pc + 16) :
    Advanced c ((c.advance d).replaceSub [u]) :=
  Ctx.replaceSub_advanced d fun _ hi => ⟨u, List.mem_singleton_self u, hl ▸ hi, hp⟩

section
variable {c : Ctx} (h : c.sub ∈ c.grp.subs) (d : Desc) {f : Sub → Sub} (hf : ∀ u, (f u).lanes = u.lanes ∧ (f u).pc = u.pc)
include h hf

theorem Ctx.splitOff_advanced : Advanced c ((c.advance d).splitOff f) := by
  unfold Ctx.splitOff
  rw [c.movedSub_advance h d]
  dsimp only
  split
  · exact c.advance_advanced h d
  · split
    · exact Ctx.replaceSub_one_advanced d (hf _).1 (hf _).2
    · refine Ctx.replaceSub_advanced d fun i hi => ?_
      cases ha : c.act.getLsbD i with
      | true => exact ⟨_, List.mem_cons_self, (congrArg (·.getLsbD i) (hf _).1).trans ha, (hf _).2⟩
      | false =>
        refine ⟨_, List.mem_cons_of_mem _ (List.mem_singleton_self _), ?_, rfl⟩
        simp [-BitVec.getLsbD_eq_getElem, Ctx.advance, hi, ha, BitVec.lt_of_getLsbD hi]

/-- The lanes that act, split off. -/
theorem Ctx.mem_splitOff (ha : c.act ≠ 0) : f { c.nextSub with lanes := c.act } ∈ ((c.advance d).splitOff f).subs := by
  unfold Ctx.splitOff
  rw [c.movedSub_advance h d]
  dsimp only
  rw [if_neg (show (c.advance d).act ≠ 0 from ha)]
  have h0 : (f { c.nextSub with lanes := c.act }).lanes ≠ 0 := by rw [(hf _).1]; exact ha
  split
  · next e =>
    have he : { c.nextSub with lanes := c.act } = c.nextSub := by
      rw [show c.act = c.nextSub.lanes from e]
    rw [he] at h0 ⊢
    exact Ctx.mem_replaceSub (List.mem_singleton_self _) h0
  · exact Ctx.mem_replaceSub List.mem_cons_self h0

end

/-! The state of an effect. -/

theorem State.setArr_setArr (s : State) (ga : Nat) (x y : Arr) : (s.setArr ga x).setArr ga y = s.setArr ga y := by
  unfold State.setArr
  rw [Tab.put_put]

theorem State.setGroup_setGroup (s : State) (ga slot : Nat) (x y : Group) :
    (s.setGroup ga slot x).setGroup ga slot y = s.setGroup ga slot y := by
  simp only [State.setGroup, State.arr_setArr_self, State.setArr_setArr, Tab.put_put]

@[simp] theorem State.group_setGroup_self (s : State) (ga slot : Nat) (x : Group) : (s.setGroup ga slot x).group ga slot = some x := by
  rw [State.group_setGroup, if_pos ⟨rfl, rfl⟩]

theorem Sem.perform_eq (m : Sem) (s : State) (c : Ctx) (w : Fields) (d : Desc) : m.perform s c w d = m.eff (movedOn s c d) (c.advance d) w := rfl

@[simp] theorem movedOn_setGroup (s : State) (c : Ctx) (d : Desc) (y : Group) :
    (movedOn s c d).setGroup c.ga c.slot y = s.setGroup c.ga c.slot y := State.setGroup_setGroup ..

@[simp] theorem movedOn_group (s : State) (c : Ctx) (d : Desc) : (movedOn s c d).group c.ga c.slot = some (c.advance d).grp :=
  State.group_setGroup_self ..

@[simp] theorem movedOn_block (s : State) (c : Ctx) (d : Desc) (ga b : Nat) : (movedOn s c d).block ga b = s.block ga b :=
  State.block_setGroup ..

theorem issues_sub_mem {m : Sem} {g : GRef} {w : Fields} {s : State} {c : Ctx} {d : Desc} (h : Issues m g w s c d) : c.sub ∈ c.grp.subs :=
  have ⟨_, _, _, _, _, _, hsub, _⟩ := Sem.ctx_spec h.ctx
  hsub

theorem issues_block {m : Sem} {g : GRef} {w : Fields} {s : State} {c : Ctx} {d : Desc} (h : Issues m g w s c d) :
    s.block c.ga c.grp.block = some c.blk :=
  have ⟨_, _, _, hblk, _⟩ := Sem.ctx_spec h.ctx
  hblk

theorem issues_act {m : Sem} {g : GRef} {w : Fields} {s : State} {c : Ctx} {d : Desc} (h : Issues m g w s c d) :
    c.act = c.grp.guarded w c.sub.lanes :=
  have ⟨_, _, _, _, _, _, _, _, hact, _⟩ := Sem.ctx_spec h.ctx
  hact

theorem issues_not_stopped {m : Sem} {g : GRef} {w : Fields} {s : State} {c : Ctx} {d : Desc} (h : Issues m g w s c d) : c.sub.stopped = false := by
  obtain ⟨_, _, _, _, _, _, _, hcan, _⟩ := Sem.ctx_spec h.ctx
  unfold Sub.canIssue at hcan
  simp only [Bool.and_eq_true, Bool.not_eq_true'] at hcan
  exact hcan.1.1

/-- An issue whose effect leaves its group moved on. -/
theorem Sem.issue_advanced {m : Sem} {g : GRef} {w : Fields} {s e : State} {c : Ctx} {d : Desc} (h : Issues m g w s c d) {y : Group}
    (he : m.perform s c w d = e) (hg : e.group c.ga c.slot = some y) (hy : Advanced c y) : Issued e (m.issue g w s) c := by
  subst he
  obtain ⟨hlive, hblock⟩ := live_of_holds hy.moved.1
  exact Sem.issue_leaves h y hg hblock (hlive ▸ h.live) hy.next

end Sys2Proof.Machine
end

section
/-! SUPPORT. Barriers: who still waits at one that has completed, and the arrivals that an issue counts (R107 to R111). -/

namespace Sys2Proof.Machine

/-! Waiters at a barrier after lanes have met. -/

/-- None of a list of subgroups waits at a barrier. -/
def NoneWaits (b : Nat) (l : List Sub) : Prop := ∀ u ∈ l, u.wait ≠ .barrier b

theorem NoneWaits.map {b : Nat} {l : List Sub} {f : Sub → Sub} (hf : ∀ u, (f u).wait = .barrier b → u.wait = .barrier b)
    (h : NoneWaits b l) : NoneWaits b (l.map f) := by
  intro u hu
  obtain ⟨v, hv, rfl⟩ := List.mem_map.mp hu
  exact mt (hf v) (h v hv)

theorem Sub.startReconv_barrier {n b : Nat} {u : Sub} (h : (Sub.startReconv n u).wait = .barrier b) : u.wait = .barrier b := by
  unfold Sub.startReconv at h
  split at h
  · split at h
    · cases h
    · exact h
  · exact h

theorem Sub.endReconv_barrier {live : BitVec 32} {b : Nat} {u : Sub} (h : (Sub.endReconv live u).wait = .barrier b) :
    u.wait = .barrier b := by
  unfold Sub.endReconv at h
  split at h
  · split at h
    · cases h
    · exact h
  · exact h

@[simp] theorem Sub.restAtCollective_wait (live : BitVec 32) (u : Sub) : (Sub.restAtCollective live u).wait = u.wait := by
  unfold Sub.restAtCollective
  split <;> rfl

/-- A merged subgroup waits at a barrier only where one of the two did. -/
theorem Sub.merge_barrier {u v : Sub} {b : Nat} (h : (Sub.merge u v).wait = .barrier b) : u.wait = .barrier b ∨ v.wait = .barrier b := by
  obtain ⟨_, _, wait, _, _, _, _, _⟩ := u
  obtain ⟨_, _, wait', _, _, _, _, _⟩ := v
  unfold Sub.merge at h
  dsimp only at h ⊢
  cases wait with
  | barrier c => exact Or.inl h
  | running => cases wait' <;> exact Or.inr h
  | tile fmt w dst => cases wait' <;> exact Or.inr h
  | collective => cases wait' <;> cases h
  | reconv mates => cases wait' <;> cases h

theorem insertMerged_noneWaits {b : Nat} {u : Sub} (hu : u.wait ≠ .barrier b) {l : List Sub} (hl : NoneWaits b l) :
    NoneWaits b (insertMerged u l) := by
  induction l with
  | nil => exact fun v hv => List.mem_singleton.mp hv ▸ hu
  | cons v l ih =>
    obtain ⟨hv, hl⟩ := List.forall_mem_cons.mp hl
    unfold insertMerged
    split
    · exact List.forall_mem_cons.mpr ⟨fun h => (Sub.merge_barrier h).elim hv hu, hl⟩
    · exact List.forall_mem_cons.mpr ⟨hv, ih hl⟩

theorem Group.settle_noneWaits {g : Group} {b : Nat} (n : Nat) (h : NoneWaits b g.subs) : NoneWaits b (g.settle n).subs := by
  unfold Group.settle
  split
  · exact h
  · refine NoneWaits.map (fun u hu => Sub.endReconv_barrier (by simpa using hu)) ?_
    have hstart := (show NoneWaits b (g.subs.filter (fun u => u.lanes != 0)) from fun u hu => h u (List.mem_of_mem_filter hu)).map
      (f := Sub.startReconv n) (fun _ => Sub.startReconv_barrier)
    exact List.foldlRecOn _ _ (motive := NoneWaits b) (fun _ hu => absurd hu List.not_mem_nil)
      (fun _ hl u hu => insertMerged_noneWaits (hstart u hu) hl)

/-! The completion of a barrier (R110). -/

/-- A subgroup that waits at a barrier goes on, past a yield point; any other stays. -/
def Sub.passBarrier (b : Nat) (u : Sub) : Sub := if u.wait == .barrier b then { u with wait := .running, yieldCount := 0 } else u

theorem Sub.passBarrier_wait (b : Nat) (u : Sub) : (Sub.passBarrier b u).wait ≠ .barrier b := by
  unfold Sub.passBarrier
  split
  · simp
  · next h => simpa using h

/-- A group as the completion of a barrier leaves it. -/
def Group.passBarrier (bs b n : Nat) (g : Group) : Group :=
  if g.block = bs then Group.settle { g with subs := g.subs.map (Sub.passBarrier b) } n else g

/-- Whether a barrier of a block completes now: a thread has arrived, and every thread has arrived or exited. -/
def Completes (a : Arr) (bs b : Nat) (k : Block) : Prop := Tab.getD k.arrived b 0 ≠ 0 ∧ k.complete (exitedThreads a bs) b = true

section
variable {a : Arr} {bs b : Nat} {k : Block} (hk : Tab.get a.blocks bs = some k)
include hk

theorem completeBarrier_of_completes (h : Completes a bs b k) : completeBarrier a bs b =
    { a with blocks := Tab.put a.blocks bs { k with arrived := Tab.put k.arrived b 0 },
             groups := Tab.mapAll a.groups (fun _ => Group.passBarrier bs b a.steps) } := by
  unfold completeBarrier
  rw [hk]
  exact if_pos h

theorem completeBarrier_of_not (h : ¬Completes a bs b k) : completeBarrier a bs b = a := by
  unfold completeBarrier
  rw [hk]
  exact if_neg h

/-- R110: the arrivals at a barrier that completes begin again, and those at the others stay. -/
theorem completeBarrier_arrived (h : Completes a bs b k) : ∃ k', Tab.get (completeBarrier a bs b).blocks bs = some k' ∧
    Tab.getD k'.arrived b 0 = 0 ∧ ∀ b', b' ≠ b → Tab.getD k'.arrived b' 0 = Tab.getD k.arrived b' 0 := by
  rw [completeBarrier_of_completes hk h]
  exact ⟨_, Tab.get_put_self .., Tab.getD_put_self .., fun b' hb => Tab.getD_put_other _ _ _ _ _ hb⟩

/-- R110: nobody of the block waits any more at a barrier that completes. -/
theorem completeBarrier_noneWaits (h : Completes a bs b k) (slot : Nat) (x : Group)
    (hx : Tab.get (completeBarrier a bs b).groups slot = some x) (hb : x.block = bs) : NoneWaits b x.subs := by
  rw [completeBarrier_of_completes hk h, Tab.get_map] at hx
  obtain ⟨g, -, rfl⟩ := Option.map_eq_some_iff.mp hx
  unfold Group.passBarrier at hb ⊢
  split at hb
  · next hg =>
    rw [if_pos hg]
    refine Group.settle_noneWaits _ fun u hu => ?_
    obtain ⟨v, -, rfl⟩ := List.mem_map.mp hu
    exact v.passBarrier_wait b
  · next hg => exact absurd hb hg

end

/-- Whatever completes, every group holds what it held and its lanes stand where they stood. -/
theorem ArrIdle.group {a b : Arr} (h : ArrIdle a b) {slot : Nat} {x : Group} (hx : Tab.get a.groups slot = some x) :
    ∃ y, Tab.get b.groups slot = some y ∧ Group.holds y = Group.holds x ∧ ∀ i pc, StandsAt x i pc → StandsAt y i pc := by
  have hg := h.groups slot
  rw [hx] at hg
  obtain ⟨y, hy, hh⟩ := Option.map_eq_some_iff.mp hg
  refine ⟨y, hy, hh, fun i pc hs => ?_⟩
  obtain ⟨z, hz, hst⟩ := h.stands slot x i pc hx hs
  rw [hy] at hz
  cases hz
  exact hst

/-! The arrivals of an issue (R108). -/

theorem State.group_setBlock (s : State) (ga b ga' slot : Nat) (x : Block) : (s.setBlock ga b x).group ga' slot = s.group ga' slot := by
  simp only [State.group, State.setBlock, State.arr_setArr]
  split
  · next h => subst h; rfl
  · rfl

/-- A block with the threads of some lanes of a group counted at a barrier, beside those that had arrived. -/
def Block.countArrivals (k : Block) (g : Group) (lanes : BitVec 32) (b : Nat) : Block :=
  { k with arrived := Tab.put k.arrived b (Tab.getD k.arrived b 0 ||| threadSet g lanes) }

theorem State.arrive_eq {s : State} {ga : Nat} {g : Group} {k : Block} (hk : s.block ga g.block = some k) (lanes : BitVec 32) (b : Nat) :
    s.arrive ga g lanes b = s.setBlock ga g.block (k.countArrivals g lanes b) := by
  unfold State.arrive
  rw [hk]
  rfl

/-- A subgroup that waits at a barrier. -/
def Sub.waitAt (b : Nat) (u : Sub) : Sub := { u with wait := .barrier b, yieldCount := 0 }

theorem barArrive_issued {g : GRef} {w : Fields} {s : State} {c : Ctx} {d : Desc} (h : Issues barArriveSem g w s c d) :
    Issued ((movedOn s c d).setBlock c.ga c.grp.block (c.blk.countArrivals c.grp c.act (barNumber c w))) (barArriveSem.issue g w s) c := by
  refine Sem.issue_advanced h ?_ ((State.group_setBlock ..).trans (movedOn_group s c d)) (c.advance_advanced (issues_sub_mem h) d)
  exact State.arrive_eq (g := (c.advance d).grp) ((movedOn_block s c d c.ga c.grp.block).trans (issues_block h)) _ _

theorem barSync_issued {g : GRef} {w : Fields} {s : State} {c : Ctx} {d : Desc} (h : Issues barSyncSem g w s c d) :
    let y := (c.advance d).splitOff (Sub.waitAt (barNumber c w))
    Issued ((s.setGroup c.ga c.slot y).setBlock c.ga c.grp.block (c.blk.countArrivals c.grp c.act (barNumber c w)))
      (barSyncSem.issue g w s) c := by
  intro y
  refine Sem.issue_advanced h ?_ ((State.group_setBlock ..).trans (State.group_setGroup_self ..))
    (c.splitOff_advanced (issues_sub_mem h) d (fun _ => ⟨rfl, rfl⟩))
  have hperform : barSyncSem.perform s c w d = (s.setGroup c.ga c.slot y).arrive c.ga (c.advance d).grp c.act (barNumber c w) := by
    rw [← movedOn_setGroup s c d y]
    rfl
  rw [hperform]
  exact State.arrive_eq (g := (c.advance d).grp) (by rw [State.block_setGroup]; exact issues_block h) _ _

end Sys2Proof.Machine

section

open Sys2Proof Sys2Proof.Machine

/-- Settles O14: an issue counts the threads of its acting lanes at the barrier, beside those that had arrived, and a barrier that completes
leaves no subgroup of its block waiting at it, since a merged subgroup waits at a barrier only where one of the two did. -/
theorem barriers : Obligations.Barriers := by
  refine ⟨fun g w s c d h => ⟨_, rfl, c.blk, (issues_block h), barArrive_issued h⟩, fun g w s c d h => ⟨_, rfl, c.blk, ?_⟩, fun a bs b k hk => ?_⟩
  · refine ⟨(c.advance d).splitOff (Sub.waitAt (barNumber c w)), (issues_block h), ?_, fun ha => ?_, barSync_issued h⟩
    · exact (c.splitOff_advanced (issues_sub_mem h) d (f := Sub.waitAt (barNumber c w)) (fun _ => ⟨rfl, rfl⟩)).moved
    · exact ⟨_, c.mem_splitOff (issues_sub_mem h) d (fun _ => ⟨rfl, rfl⟩) ha, rfl, rfl, rfl⟩
  · exact ⟨fun hc => ⟨completeBarrier_arrived hk hc, completeBarrier_noneWaits hk hc⟩, completeBarrier_of_not hk,
      fun slot x hx => (completeBarrier_idle a bs b).group hx⟩

end
end

section
/-! SUPPORT. What YIELD, PHASE, EXIT, TRAP and BRK do to their group and its block (R117, R119, R134, R158, R568, R627). -/

namespace Sys2Proof.Machine

/-! YIELD (R117, R119). -/

/-- A subgroup that stops at its yield. -/
def Sub.stopAtYield (u : Sub) : Sub := { u with yieldCount := 0, stopped := true }

/-- The group after a yield. -/
def Ctx.yieldGroup (c : Ctx) : Group :=
  if c.act = 0 then c.grp
  else if c.blk.stopPending then c.splitOff Sub.stopAtYield
  else c.replaceSub [{ c.movedSub with yieldCount := 0 }]

theorem Ctx.yieldGroup_advanced {c : Ctx} (h : c.sub ∈ c.grp.subs) (d : Desc) : Advanced c (c.advance d).yieldGroup := by
  unfold Ctx.yieldGroup
  split
  · exact c.advance_advanced h d
  · split
    · exact c.splitOff_advanced h d (fun _ => ⟨rfl, rfl⟩)
    · rw [c.movedSub_advance h d]
      exact Ctx.replaceSub_one_advanced d rfl rfl

/-- The lanes that yield stand in a subgroup that counts from zero again, stopped when a stop is pending for the block. -/
theorem Ctx.yieldGroup_yields {c : Ctx} (h : c.sub ∈ c.grp.subs) (d : Desc) (hl : c.sub.lanes &&& c.act = c.act) (hr : c.sub.stopped = false)
    (ha : c.act ≠ 0) : ∃ u ∈ (c.advance d).yieldGroup.subs,
      u.lanes &&& c.act = c.act ∧ u.yieldCount = 0 ∧ u.pc = c.sub.pc + 16 ∧ u.stopped = c.blk.stopPending := by
  unfold Ctx.yieldGroup
  rw [if_neg (show (c.advance d).act ≠ 0 from ha)]
  split
  · next hs => exact ⟨_, c.mem_splitOff h d (fun _ => ⟨rfl, rfl⟩) ha, BitVec.and_self, rfl, rfl, hs.symm⟩
  · next hs =>
    have h0 : c.sub.lanes ≠ 0 := by
      rintro e
      exact ha (hl.symm.trans (by rw [e]; exact BitVec.zero_and))
    rw [c.movedSub_advance h d]
    exact ⟨_, Ctx.mem_replaceSub (List.mem_singleton_self _) h0, hl, rfl, rfl, hr.trans (Bool.eq_false_of_not_eq_true hs).symm⟩

theorem yield_issued {g : GRef} {w : Fields} {s : State} {c : Ctx} {d : Desc} (h : Issues yieldSem g w s c d) :
    Issued (s.setGroup c.ga c.slot (c.advance d).yieldGroup) (yieldSem.issue g w s) c := by
  refine Sem.issue_advanced h ?_ (State.group_setGroup_self ..) (c.yieldGroup_advanced (issues_sub_mem h) d)
  rw [← movedOn_setGroup s c d]
  rfl

/-! PHASE (R158, R568, R569). -/

theorem State.arr_foldPhase (s : State) (ga j : Nat) : ∃ n e, (s.foldPhase ga).arr j =
    if j = ga then { s.arr ga with phaseSteps := n, phaseEnergy := e } else s.arr j := by
  have hsame : s.arr j = if j = ga then { s.arr ga with phaseSteps := (s.arr ga).phaseSteps, phaseEnergy := (s.arr ga).phaseEnergy }
      else s.arr j := by
    split
    · next h => rw [h]
    · rfl
  unfold State.foldPhase
  dsimp only
  split
  · exact ⟨_, _, hsame⟩
  · split
    · exact ⟨_, _, hsame⟩
    · exact ⟨0, 0, by rw [State.arr_setArr]; rfl⟩

@[simp] theorem State.foldPhase_regs (s : State) (ga : Nat) : (s.foldPhase ga).regs = s.regs := by
  unfold State.foldPhase
  dsimp only
  split
  · rfl
  · split <;> rfl

/-- R568: the array takes its new phase, and nothing else of an array changes. -/
theorem State.arr_setPhase (s : State) (ga : Nat) (k : W64) (v : BitVec 16) (j : Nat) : (s.setPhase ga k v).arr j =
    if j = ga then { s.arr ga with phaseKernel := k, phaseValue := v, phaseSteps := 0, phaseEnergy := 0 } else s.arr j := by
  obtain ⟨n, e, hfold⟩ := s.arr_foldPhase ga ga
  obtain ⟨_, _, hother⟩ := s.arr_foldPhase ga j
  have harr : (s.setPhase ga k v).arr j = ((s.foldPhase ga).setArr ga
      { (s.foldPhase ga).arr ga with phaseKernel := k, phaseValue := v, phaseSteps := 0, phaseEnergy := 0 }).arr j := by
    unfold State.setPhase
    dsimp only
    split <;> rfl
  rw [harr, State.arr_setArr]
  split
  · rw [hfold, if_pos rfl]
  · next hj => rw [hother, if_neg hj]

@[simp] theorem State.setPhase_regs (s : State) (ga : Nat) (k : W64) (v : BitVec 16) : (s.setPhase ga k v).regs = s.regs := by
  rw [← s.foldPhase_regs ga]
  unfold State.setPhase
  dsimp only
  split <;> rfl

theorem State.group_setPhase (s : State) (ga : Nat) (k : W64) (v : BitVec 16) (j slot : Nat) :
    (s.setPhase ga k v).group j slot = s.group j slot := by
  unfold State.group
  rw [State.arr_setPhase]
  split
  · next h => rw [h]
  · rfl

/-- The state of the effect of a phase. -/
def phaseEffect (s : State) (c : Ctx) (d : Desc) (w : Fields) : State :=
  if c.act = 0 then movedOn s c d else (movedOn s c d).setPhase c.ga c.blk.kernelId (w.imm0.setWidth 16)

theorem phase_issued {g : GRef} {w : Fields} {s : State} {c : Ctx} {d : Desc} (h : Issues phaseSem g w s c d) :
    Issued (phaseEffect s c d w) (phaseSem.issue g w s) c := by
  refine Sem.issue_advanced h rfl ?_ (c.advance_advanced (issues_sub_mem h) d)
  unfold phaseEffect
  split
  · exact movedOn_group s c d
  · rw [State.group_setPhase]
    exact movedOn_group s c d

/-- R568: after a phase that a lane issued, the array is in it. -/
theorem issued_phase {s t : State} {c : Ctx} {k : W64} {v : BitVec 16} (h : Issued (s.setPhase c.ga k v) t c) :
    (t.arr c.ga).phaseKernel = k ∧ (t.arr c.ga).phaseValue = v ∧ (t.arr c.ga).phaseSteps = 0 ∧ (t.arr c.ga).phaseEnergy = 0 ∧
      t.regs = s.regs := by
  rw [h.idle.array, State.arr_setPhase, if_pos rfl, h.idle.rest]
  exact ⟨rfl, rfl, rfl, rfl, State.setPhase_regs ..⟩

/-! EXIT (R86, R109). -/

/-- The group after an exit. -/
def Ctx.exitGroup (c : Ctx) : Group :=
  { c.grp with subs := c.grp.subs.map (fun u => if u.lanes == c.sub.lanes then { u with lanes := u.lanes &&& ~~~c.act } else u),
               exited := c.grp.exited ||| c.act }

theorem Ctx.exitGroup_live (c : Ctx) (d : Desc) : (c.advance d).exitGroup.live = c.grp.live &&& ~~~c.act := by
  show ~~~((c.grp.exited ||| c.act) ||| c.grp.absent) = ~~~(c.grp.exited ||| c.grp.absent) &&& ~~~c.act
  ext i
  simp only [BitVec.getElem_not, BitVec.getElem_or, BitVec.getElem_and, Bool.not_or]
  rw [Bool.and_right_comm]

/-- The lanes of the subgroup that did not act stand at the next instruction. -/
theorem Ctx.exitGroup_next {c : Ctx} (h : c.sub ∈ c.grp.subs) (d : Desc) {i : Nat} (hi : c.sub.lanes.getLsbD i = true)
    (ha : c.act.getLsbD i = false) : StandsAt (c.advance d).exitGroup i (c.sub.pc + 16) := by
  refine ⟨{ c.nextSub with lanes := c.sub.lanes &&& ~~~c.act }, List.mem_map.mpr ⟨c.nextSub, c.nextSub_mem h d, ?_⟩, ?_, rfl⟩
  · exact if_pos (beq_self_eq_true c.sub.lanes)
  · simp [-BitVec.getLsbD_eq_getElem, hi, ha, BitVec.lt_of_getLsbD hi]

/-- The lanes of the other subgroups stand where they stood. -/
theorem Ctx.exitGroup_others {c : Ctx} (d : Desc) {i : Nat} {pc : W64} (hi : c.sub.lanes.getLsbD i = false) (h : StandsAt c.grp i pc) :
    StandsAt (c.advance d).exitGroup i pc := by
  obtain ⟨u, hu, hne, hui, hpc⟩ := c.advance_others d hi h
  refine ⟨u, List.mem_map.mpr ⟨u, hu, if_neg ?_⟩, hui, hpc⟩
  exact mt beq_iff_eq.mp (bne_iff_ne.mp hne)

theorem exit_idle {g : GRef} {w : Fields} {s : State} {c : Ctx} {d : Desc} (h : Issues exitSem g w s c d) (hl : c.grp.live &&& ~~~c.act ≠ 0) :
    Idle (s.setGroup c.ga c.slot (c.advance d).exitGroup) (exitSem.issue g w s) c.ga := by
  have hperform : exitSem.perform s c w d = s.setGroup c.ga c.slot (c.advance d).exitGroup := by
    rw [← movedOn_setGroup s c d]
    rfl
  rw [Sem.issue_go h, hperform]
  exact State.finish_idle _ exitSem [c] w c.ga c.slot c.grp.block _ _ (State.group_setGroup_self ..) rfl (by rw [Ctx.exitGroup_live]; exact hl)

/-- A lane stands after an issue where it stood in the state of the effect. -/
theorem idle_laneAt {s t : State} {c : Ctx} {y : Group} {i : Nat} {pc : W64} (h : Idle (s.setGroup c.ga c.slot y) t c.ga) (hs : StandsAt y i pc) :
    LaneAt t c i pc :=
  h.stands c.slot y i pc (State.group_setGroup_self ..) hs

/-! A fault that halts a block (R500, R515, R516). -/

theorem State.raise_arrs (s : State) (r : FaultRec) : (s.raise r).arrs = s.arrs := by
  obtain ⟨t, ht, he⟩ := s.raise_noted r
  rw [he, ht.frame]

theorem State.arr_congr {s t : State} (h : t.arrs = s.arrs) (ga : Nat) : t.arr ga = s.arr ga := by
  unfold State.arr
  rw [h]

theorem State.group_congr {s t : State} (h : t.arrs = s.arrs) (ga slot : Nat) : t.group ga slot = s.group ga slot := by
  unfold State.group
  rw [State.arr_congr h]

theorem State.block_congr {s t : State} (h : t.arrs = s.arrs) (ga b : Nat) : t.block ga b = s.block ga b := by
  unfold State.block
  rw [State.arr_congr h]

theorem State.block_setBlock (s : State) (ga b ga' b' : Nat) (x : Block) :
    (s.setBlock ga b x).block ga' b' = if ga' = ga ∧ b' = b then some x else s.block ga' b' := by
  simp only [State.block, State.setBlock, State.arr_setArr]
  by_cases h : ga' = ga
  · subst h; simp [Tab.get_put]
  · simp [h]

theorem haltBlock_group (s : State) (ga bs ga' slot : Nat) : (haltBlock s ga bs).group ga' slot = s.group ga' slot := by
  unfold haltBlock
  split
  · rfl
  · exact State.group_setBlock ..

theorem haltBlock_faults (s : State) (ga bs : Nat) : (haltBlock s ga bs).faults = s.faults := by
  unfold haltBlock
  split <;> rfl

/-- A halted block. -/
def Block.halt (k : Block) : Block := { k with halted := true }

theorem haltBlock_block (s : State) (ga bs ga' b : Nat) :
    (haltBlock s ga bs).block ga' b = if ga' = ga ∧ b = bs then (s.block ga bs).map Block.halt else s.block ga' b := by
  unfold haltBlock
  split
  · next h =>
    split
    · next e => rw [e.1, e.2, h]; rfl
    · rfl
  · next k h =>
    rw [State.block_setBlock, h]
    rfl

section
variable (s : State) (c : Ctx) (code : Nat) (addr : W64) (word : W32)

theorem blockFault_arrs : (blockFault s c code addr word).arrs = (haltBlock (s.raise (groupFault s c code addr word)) c.ga c.grp.block).arrs := rfl

/-- A BLOCK fault leaves every group alone. -/
theorem blockFault_group (ga slot : Nat) : (blockFault s c code addr word).group ga slot = s.group ga slot := by
  rw [State.group_congr (blockFault_arrs s c code addr word), haltBlock_group, State.group_congr (s.raise_arrs _)]

/-- A BLOCK fault halts its block, and touches no other. -/
theorem blockFault_block (ga b : Nat) : (blockFault s c code addr word).block ga b =
    if ga = c.ga ∧ b = c.grp.block then (s.block c.ga c.grp.block).map Block.halt else s.block ga b := by
  rw [State.block_congr (blockFault_arrs s c code addr word), haltBlock_block]
  simp only [State.block_congr (s.raise_arrs _)]

theorem blockFault_undelivered :
    (blockFault s c code addr word).faults.undelivered = s.faults.undelivered ++ [groupFault s c code addr word] := by
  rw [← s.raise_undelivered]
  exact congrArg FaultLog.undelivered (haltBlock_faults _ _ _)

end

/-! An issue counted (R89, R124). -/

theorem State.arr_issued (s : State) (ga slot n j : Nat) : (s.issued ga slot n).arr j =
    if j = ga then { s.arr ga with pointers := Tab.put (s.arr ga).pointers (slot / 16) slot } else s.arr j := by
  rw [← State.arr_setArr]
  unfold State.issued State.atBase
  dsimp only
  split
  · rfl
  · rw [State.arr_count, State.arr_count]

theorem State.issued_group (s : State) (ga slot n ga' slot' : Nat) : (s.issued ga slot n).group ga' slot' = s.group ga' slot' := by
  unfold State.group
  rw [State.arr_issued]
  split
  · next h => rw [h]
  · rfl

theorem State.issued_block (s : State) (ga slot n ga' b : Nat) : (s.issued ga slot n).block ga' b = s.block ga' b := by
  unfold State.block
  rw [State.arr_issued]
  split
  · next h => rw [h]
  · rfl

theorem State.issued_faults (s : State) (ga slot n : Nat) : (s.issued ga slot n).faults = s.faults := by
  rw [(s.issued_idle ga slot n).rest]

/-- An issue that a fault stops: the fault raised, the block halted, and the issue counted. -/
theorem Sem.issue_stop {m : Sem} {g : GRef} {w : Fields} {s : State} {c : Ctx} {code : Nat} {addr : W64} {word : W32}
    (h : Faults m g w s c code addr word) :
    m.issue g w s = (blockFault s c code addr word).issued c.ga c.slot (granules c.sub.lanes) := by
  unfold Sem.issue Sem.issueNow Sem.issueAt
  simp only [h.sound, h.ctx, h.stops]

/-- What an issue that a fault stops leaves: its block halted, every group as it was, and the record of the fault to be delivered. -/
theorem Sem.issue_faulted {m : Sem} {g : GRef} {w : Fields} {s : State} {c : Ctx} {code : Nat} {addr : W64} {word : W32}
    (h : Faults m g w s c code addr word) : let t := m.issue g w s
    (t.block c.ga c.grp.block).map (·.halted) = some true ∧ (∀ ga slot, t.group ga slot = s.group ga slot) ∧
      t.faults.undelivered = s.faults.undelivered ++ [groupFault s c code addr word] := by
  obtain ⟨_, _, _, hblk, _⟩ := Sem.ctx_spec h.ctx
  intro t
  rw [show t = _ from Sem.issue_stop h]
  refine ⟨?_, fun ga slot => ?_, ?_⟩
  · rw [State.issued_block, blockFault_block, if_pos ⟨rfl, rfl⟩, hblk]
    rfl
  · rw [State.issued_group, blockFault_group]
  · rw [State.issued_faults, blockFault_undelivered]

/-! TRAP (R158). -/

/-- R158: where nothing comes before it, a trap that a lane issues stops at its own fault. -/
theorem trap_faults {g : GRef} {w : Fields} {s : State} {c : Ctx} {d : Desc} (hu : g.upset = none) (hc : trapSem.ctx g w s = some c)
    (hin : c.blk.inText c.sub.pc = true) (hb : s.breakAt c.blk.part c.sub.pc = none) (hd : trapSem.desc w = some d)
    (hlegal : d.legal w = true) (hrange : d.outOfRange w c.blk.regs = false) (ha : c.act ≠ 0) :
    Faults trapSem g w s c 0x0107 0 w.imm0 := by
  have hcoll : d.coll = false := by
    have h : noBits w { Desc.plain with own0 := true } = some d := hd
    unfold noBits at h
    split at h
    · cases h; rfl
    · cases h
  have hcheck : trapSem.check s c w = some (0x0107, 0, w.imm0) := if_neg ha
  refine ⟨hu, hc, ?_⟩
  unfold Sem.verdict
  simp [hin, hb, hd, hlegal, hrange, hcoll, hcheck]

/-! BRK (R493, R626, R627). -/

theorem State.holdGroup_group {s : State} {p ga slot : Nat} {x : Group} (hx : s.group ga slot = some x) :
    (s.holdGroup p ga slot).group ga slot = some { x with held := true } := by
  unfold State.holdGroup
  rw [hx]
  dsimp only
  split
  · exact State.group_setGroup_self ..
  · rw [State.group_setDbg]
    exact State.group_setGroup_self ..

theorem State.holdGroup_held {s : State} {p ga slot : Nat} {x : Group} (hx : s.group ga slot = some x) :
    ((s.holdGroup p ga slot).dbgOf p).held.contains (ga, slot) = true := by
  unfold State.holdGroup
  rw [hx]
  dsimp only
  split
  · next h => exact h
  · rw [State.dbgOf_setDbg_self, List.contains_iff_mem]
    exact List.mem_append_right _ (List.mem_singleton_self _)

theorem State.dbgEvent_arrs (s : State) (p ga slot cause brk : Nat) (pc : W64) : (s.dbgEvent p ga slot cause brk pc).arrs = s.arrs := by
  unfold State.dbgEvent
  dsimp only
  split <;> rfl

theorem State.dbgEvent_held (s : State) (p ga slot cause brk : Nat) (pc : W64) :
    ((s.dbgEvent p ga slot cause brk pc).dbgOf p).held = (s.dbgOf p).held := by
  unfold State.dbgEvent
  dsimp only
  split
  · rfl
  · rw [State.dbgOf_setDbg_self]

/-- R626, R627: a group that halts for the debugger is held by the session. -/
theorem State.haltFor_holds {s : State} {c : Ctx} {x : Group} (hx : s.group c.ga c.slot = some x) (cause brk : Nat) :
    (s.haltFor c cause brk).group c.ga c.slot = some { x with held := true } ∧
      ((s.haltFor c cause brk).dbgOf c.blk.part).held.contains (c.ga, c.slot) = true := by
  unfold State.haltFor
  rw [State.group_congr (State.dbgEvent_arrs ..), State.dbgEvent_held]
  exact ⟨State.holdGroup_group hx, State.holdGroup_held hx⟩

/-- The state of the effect of `brk`. -/
def brkEffect (s : State) (c : Ctx) (d : Desc) : State :=
  if c.act ≠ 0 ∧ s.bit (Reg.keyState c.blk.part) 16 = true then (movedOn s c d).haltFor c 0 0 else movedOn s c d

theorem brk_issued {g : GRef} {w : Fields} {s : State} {c : Ctx} {d : Desc} (h : Issues brkSem g w s c d) :
    Issued (brkEffect s c d) (brkSem.issue g w s) c := by
  have hadv := c.advance_advanced (issues_sub_mem h) d
  unfold brkEffect
  split
  · next hopen =>
    exact Sem.issue_advanced h (if_pos hopen) (State.haltFor_holds (movedOn_group s c d) 0 0).1 ⟨hadv.moved, hadv.next⟩
  · next hopen => exact Sem.issue_advanced h (if_neg hopen) (movedOn_group s c d) hadv

/-- What an issue leaves of the debugger's state is that of its effect. -/
theorem issued_dbgOf {e t : State} {c : Ctx} (h : Issued e t c) (p : Nat) : t.dbgOf p = e.dbgOf p := by
  rw [h.idle.rest]
  rfl

end Sys2Proof.Machine

section

open Sys2Proof Sys2Proof.Machine

/-- Settles O11: each instruction by the state of its own effect, which an issue leaves but for lanes that meet and barriers that complete; a
trap by the fault that stops its issue. -/
theorem yieldsExitsAndTraps : Obligations.YieldsExitsAndTraps := by
  refine ⟨⟨fun g w s c d h => ⟨_, rfl, ?_⟩, fun g w s c d h => ⟨_, rfl, phaseEffect s c d w, phase_issued h, ?_⟩⟩,
    fun g w s c d h hl => ⟨_, rfl, (c.advance d).exitGroup, rfl, exit_idle h hl, ?_, ?_⟩,
    fun g w s c d hu hc hin hb hd hlegal hrange ha => ⟨_, rfl, ?_⟩, fun g w s c d h => ⟨_, rfl, ?_⟩⟩
  · have hl : c.sub.lanes &&& c.act = c.act := (issues_act h) ▸ c.grp.guarded_subset w c.sub.lanes
    exact ⟨_, (c.yieldGroup_advanced (issues_sub_mem h) d).moved, yield_issued h, c.yieldGroup_yields (issues_sub_mem h) d hl (issues_not_stopped h)⟩
  · split
    · next ha => exact if_pos ha
    · next ha =>
      have hissued := phase_issued h
      rw [phaseEffect, if_neg ha] at hissued ⊢
      have hphase := issued_phase hissued
      exact ⟨rfl, hphase⟩
  · exact fun i hi ha => idle_laneAt (exit_idle h hl) (c.exitGroup_next (issues_sub_mem h) d hi ha)
  · exact fun i pc hi hs => idle_laneAt (exit_idle h hl) (c.exitGroup_others d hi hs)
  · obtain ⟨hhalted, hgroups, hrecord⟩ := Sem.issue_faulted (trap_faults hu hc hin hb hd hlegal hrange ha)
    exact ⟨hhalted, hgroups, _, hrecord, rfl, rfl⟩
  · have hissued := brk_issued h
    unfold brkEffect at hissued
    split
    · next hopen =>
      rw [if_pos hopen] at hissued
      exact ⟨hissued, by rw [issued_dbgOf hissued]; exact (State.haltFor_holds (movedOn_group s c d) 0 0).2⟩
    · next hopen =>
      rw [if_neg hopen] at hissued
      exact hissued

end
end

section
/-! SUPPORT. Who issues, what an issue occupies, and what time ends: the step of an array, the units of a quarter, the bounded waits (R40, R42,
R43, R88, R89, R99, R113, R122, R184, R238). -/

namespace Sys2Proof.Machine

/-! Whether an array steps (R40, R42, R43). -/

theorem State.canStep_iff (s : State) (ga : Nat) : s.canStep ga = true ↔
    (s.arr ga).groups ≠ [] ∧ s.retained (ga / 8) = false ∧ 26 ≤ Tab.getD s.power.supply (ga / 8) 0 ∧
      (s.tb.running = false ∨ s.mgdLost = true ∨ (s.arr ga).pos < s.paceOf (ga / 8)) := by
  unfold State.canStep State.hasToken steppingSupply
  simp only [Bool.and_eq_true, Bool.or_eq_true, Bool.not_eq_true', decide_eq_true_eq, List.isEmpty_eq_false_iff, and_assoc, or_assoc]

/-- A die that is not in use has no array to step. -/
theorem State.stepArray_of_none {s : State} {ga : Nat} (h : s.siteOf (ga / 8) = none) : s.stepArray ga = s := by
  unfold State.stepArray
  rw [h]

/-! The units of a quarter (R88, R184, R238). -/

/-- R88: an instruction that nothing stops has units that accept it. -/
theorem Sem.accepts_of_go {m : Sem} {s : State} {c : Ctx} {w : Fields} {b : Bool} {d : Desc} (hready : m.isReady s c w = true)
    (hgo : m.verdict s c w b = .go d) : (s.arr c.ga).accepts m.op (c.slot / 16) c.sub.lanes = true := by
  obtain ⟨hin, hd, hlegal, hrange, hcoll, -⟩ := Sem.verdict_go hgo
  have hmet : (d.coll && c.sub.lanes != c.grp.live) = false := by
    rw [Bool.and_eq_false_imp]
    exact fun h => bne_eq_false_iff_eq.mpr (hcoll h)
  unfold Sem.isReady at hready
  rw [hd] at hready
  simp only [hin, hlegal, hrange, hmet, Bool.not_true, Bool.false_or, Bool.and_eq_true] at hready
  exact hready.1.2

theorem Arr.busy_of_accepts {a : Arr} {op q : Nat} {lanes : BitVec 32} (h : a.accepts op q lanes = true) (k : Nat)
    (hk : k ∈ unitKeys op q lanes) : Tab.getD a.busy k 0 = 0 := by
  unfold Arr.accepts at h
  rw [Bool.and_eq_true, List.all_eq_true] at h
  exact beq_iff_eq.mp (h.1 k hk)

/-- R184, R238: the matrix cells of a quarter are occupied together, twice as long where one of them is retired. -/
theorem State.occupy_busy {m : Sem} (hm : unitKind m.op = .matrix) (s : State) (ga q : Nat) (cs : List Ctx) (w : Fields) :
    Tab.getD ((s.occupy m ga q cs w).arr ga).busy (16 + q) 0 =
      if (List.range 4).any (s.cellRetired ga q) then 2 * m.occ w else m.occ w := by
  unfold State.occupy unitKeys State.occupancy
  simp only [hm, State.arr_setArr_self, List.foldl_cons, List.foldl_nil, Tab.getD_put_self]
  rfl

theorem completeBarrier_busy (a : Arr) (bs b : Nat) : (completeBarrier a bs b).busy = a.busy := by
  unfold completeBarrier
  split
  · rfl
  · split <;> rfl

theorem completeBarriers_busy (a : Arr) (bs : Nat) : (completeBarriers a bs).busy = a.busy :=
  List.foldlRecOn _ _ (motive := fun x : Arr => x.busy = a.busy) rfl (fun x hx b _ => (completeBarrier_busy x bs b).trans hx)

/-- What follows an issue on its array frees no unit. -/
theorem Arr.afterIssue_busy (a : Arr) (slot bs : Nat) : (a.afterIssue slot bs).busy = a.busy := by
  have hstop : ∀ x : Arr, (x.takeStop bs).busy = x.busy := fun x => by
    unfold Arr.takeStop
    split
    · split <;> rfl
    · rfl
  have hmeet : (a.meetLanes slot).busy = a.busy := by
    unfold Arr.meetLanes
    split <;> rfl
  unfold Arr.afterIssue
  rw [hstop, completeBarriers_busy, hmeet]

/-- What an instruction on the matrix cells does by itself: its group stays with a live lane, and no cell is retired. -/
structure MatrixEffect (s e : State) (c : Ctx) : Prop where
  group : ∃ y, e.group c.ga c.slot = some y ∧ y.block = c.grp.block ∧ y.live = c.grp.live
  retired : ∀ ga q k, e.cellRetired ga q k = s.cellRetired ga q k

/-- The matrix cells of the quarter after the issue of an instruction that runs on them. -/
theorem Sem.issue_busy {m : Sem} {g : GRef} {w : Fields} {s : State} {c : Ctx} {d : Desc} (h : Issues m g w s c d)
    (hm : unitKind m.op = .matrix) (he : MatrixEffect s (m.perform s c w d) c) :
    Tab.getD ((m.issue g w s).arr c.ga).busy (16 + c.slot / 16) 0 =
      if (List.range 4).any (s.cellRetired c.ga (c.slot / 16)) then 2 * m.occ w else m.occ w := by
  obtain ⟨y, hy, hblock, hlive⟩ := he.group
  have hidle := idle_comp (State.occupy_idle (m.perform s c w d) m c.ga (c.slot / 16) [c] w)
    (State.issued_idle _ c.ga c.slot (granules c.sub.lanes))
  obtain ⟨x, hx, hxlive, hxblock⟩ := idle_group hidle hy
  rw [Sem.issue_go h, State.afterIssue_spec _ _ _ _ x hx (hxblock.trans hblock) (by rw [hxlive, hlive]; exact h.live),
    State.arr_setArr_self, Arr.afterIssue_busy, State.arr_issued, if_pos rfl, State.occupy_busy hm]
  simp only [show (m.perform s c w d).cellRetired c.ga (c.slot / 16) = s.cellRetired c.ga (c.slot / 16) from
    funext (he.retired _ _)]

/-! The instructions on the matrix cells. -/

theorem State.group_setArr_self (s : State) (ga slot : Nat) (a : Arr) : (s.setArr ga a).group ga slot = Tab.get a.groups slot := by
  unfold State.group
  rw [State.arr_setArr_self]

/-- Where a group stands in its block, and its live lanes. -/
def Group.place (g : Group) : Nat × BitVec 32 := (g.block, g.live)

theorem Group.place_writeD (g : Group) (w : Fields) (act : BitVec 32) (n : Nat) (f : Nat → Nat) : (g.writeD w act n f).place = g.place := by
  rw [(g.writeD_writes w act n f).frame]
  rfl

theorem matrixEffect_of_place {s e : State} {c : Ctx} {y : Group} (hg : e.group c.ga c.slot = some y) (hy : y.place = c.grp.place)
    (hr : ∀ ga q k, e.cellRetired ga q k = s.cellRetired ga q k) : MatrixEffect s e c :=
  ⟨⟨y, hg, congrArg Prod.fst hy, congrArg Prod.snd hy⟩, hr⟩

theorem mma_effect (s : State) (c : Ctx) (w : Fields) (d : Desc) : MatrixEffect s (mmaSem.perform s c w d) c := by
  refine matrixEffect_of_place (State.group_setGroup_self ..) ?_ (fun _ _ _ => rfl)
  dsimp only
  split
  · exact Group.place_writeD ..
  · exact Group.place_writeD ..

theorem mmaLedger_effect (s : State) (c : Ctx) (w : Fields) (d : Desc) : MatrixEffect s (mmaLedgerSem.perform s c w d) c := by
  rw [Sem.perform_eq]
  unfold mmaLedgerSem
  dsimp only
  split
  · exact matrixEffect_of_place (movedOn_group s c d) rfl (fun _ _ _ => rfl)
  · exact matrixEffect_of_place ((State.group_setArr_self ..).trans (movedOn_group s c d)) rfl (fun _ _ _ => rfl)

/-- From one array to another every group stays where it stands, with its live lanes. -/
def SamePlaces (a b : Arr) : Prop := ∀ slot, (Tab.get b.groups slot).map Group.place = (Tab.get a.groups slot).map Group.place

theorem SamePlaces.refl (a : Arr) : SamePlaces a a := fun _ => rfl

theorem SamePlaces.trans {a b c : Arr} (h : SamePlaces a b) (k : SamePlaces b c) : SamePlaces a c := fun slot => (k slot).trans (h slot)

/-- A group of an array changed where it stands. -/
theorem SamePlaces.put {a b : Arr} {slot : Nat} {x y : Group} (hx : Tab.get a.groups slot = some x) (hy : y.place = x.place)
    (hb : b.groups = Tab.put a.groups slot y) : SamePlaces a b := by
  intro j
  rw [hb, Tab.get_put]
  split
  · next e => rw [e, hx, Option.map_some, Option.map_some, hy]
  · rfl

theorem openTile_places (a : Arr) (slot key fmt : Nat) (w : Int) (dst : Nat) : SamePlaces a (openTile a slot key fmt w dst) := by
  cases hx : Tab.get a.groups slot with
  | none =>
    refine fun j => ?_
    unfold openTile
    rw [hx]
  | some x =>
    refine SamePlaces.put (y := { x with uregs := Tab.put x.uregs dst (BitVec.ofNat 32 (key % 4)) }) hx rfl ?_
    unfold openTile
    rw [hx]

theorem serveTile_places (a : Arr) (q : Nat) : SamePlaces a (serveTile a q) := by
  unfold serveTile
  split
  · next key slot f w d _ _ =>
    refine (openTile_places a slot key f w d).trans ?_
    generalize openTile a slot key f w d = b
    dsimp only
    split
    · next x hx =>
      refine SamePlaces.put hx ?_ rfl
      rfl
    · exact SamePlaces.refl b
  · exact SamePlaces.refl a

theorem serveTiles_places (a : Arr) : SamePlaces a (serveTiles a) :=
  List.foldlRecOn _ _ (motive := SamePlaces a) (SamePlaces.refl a) (fun b hb i _ => hb.trans (serveTile_places b (i / 4)))

/-- A tile closed, and given to those who wait, leaves every group of its array where it stands. -/
theorem State.closeTile_group {s : State} {c : Ctx} {w : Fields} {y : Group} (hy : s.group c.ga c.slot = some y) :
    ∃ x, (s.closeTile c w).group c.ga c.slot = some x ∧ x.place = y.place := by
  unfold State.closeTile
  dsimp only
  rw [State.group_setArr_self]
  refine Option.map_eq_some_iff.mp ((serveTiles_places _ c.slot).trans ?_)
  rw [show Tab.get _ c.slot = some y from hy, Option.map_some]

theorem ltileFlush_effect (s : State) (c : Ctx) (w : Fields) (d : Desc) : MatrixEffect s (ltileFlushSem.perform s c w d) c := by
  rw [Sem.perform_eq]
  unfold ltileFlushSem
  dsimp only
  split
  · exact matrixEffect_of_place (movedOn_group s c d) rfl (fun _ _ _ => rfl)
  · generalize hy : (c.advance d).grp.writeD w _ _ _ = y
    have hplace : y.place = c.grp.place := by
      rw [← hy, Group.place_writeD]
      rfl
    have hgroup : ((movedOn s c d).setGroup c.ga c.slot y).group c.ga c.slot = some y := State.group_setGroup_self ..
    split
    · exact matrixEffect_of_place ((State.group_setArr_self ..).trans hgroup) hplace (fun _ _ _ => rfl)
    · obtain ⟨x, hx, hxy⟩ := State.closeTile_group (c := c.advance d) (w := w) hgroup
      exact matrixEffect_of_place hx (hxy.trans hplace) (fun _ _ _ => rfl)

/-! A quarter's step (R89). -/

/-- One slot of a quarter's step: passed over once an issue is used up. -/
def State.scanSlot (ga : Nat) (acc : Bool × State × List (Nat × Nat)) (slot : Nat) : Bool × State × List (Nat × Nat) :=
  if acc.1 then acc else ((acc.2.1.trySlot ga slot).1, (acc.2.1.trySlot ga slot).2.1, acc.2.2 ++ (acc.2.1.trySlot ga slot).2.2)

/-- The slot a quarter looks at in place j: the j-th after its pointer. -/
def State.slotAfter (s : State) (ga q j : Nat) : Nat := 16 * q + (Tab.getD (s.arr ga).pointers q (16 * q + 15) % 16 + 1 + j) % 16

theorem State.stepQuarter_eq (s : State) (ga q : Nat) :
    s.stepQuarter ga q = (((List.range 16).map (s.slotAfter ga q)).foldl (State.scanSlot ga) (false, s, [])).2 := by
  rw [List.foldl_map]
  rfl

theorem State.trySlot_of_none {s : State} {ga slot : Nat} (h : s.fetchCtx ga slot = none) : s.trySlot ga slot = (false, s, []) := by
  unfold State.trySlot
  rw [h]

/-- Slots whose groups cannot issue are passed over. -/
theorem foldl_scanSlot_none {s : State} {ga : Nat} {l : List Nat} (h : ∀ slot ∈ l, s.fetchCtx ga slot = none) :
    l.foldl (State.scanSlot ga) (false, s, []) = (false, s, []) :=
  List.foldlRecOn l _ (motive := fun acc => acc = (false, s, [])) rfl (fun acc hacc slot hs => by
    rw [hacc]
    unfold State.scanSlot
    rw [State.trySlot_of_none (h slot hs)]
    rfl)

/-- Once an issue is used up nothing else happens. -/
theorem foldl_scanSlot_used {ga : Nat} {l : List Nat} {acc : Bool × State × List (Nat × Nat)} (h : acc.1 = true) :
    l.foldl (State.scanSlot ga) acc = acc :=
  List.foldlRecOn l _ (motive := fun x => x = acc) rfl (fun x hx slot _ => by rw [hx]; exact if_pos h)

/-- The places of a list of 16 before a place, that place, and those after it. -/
theorem range_split {n i : Nat} (h : i < n) : ∃ rest, List.range n = List.range i ++ i :: rest := by
  obtain ⟨k, rfl⟩ := Nat.exists_eq_add_of_lt h
  rw [Nat.add_assoc, List.range_add, List.range_succ_eq_map, List.map_cons, Nat.add_zero]
  exact ⟨_, rfl⟩

/-- R89: the first slot after the pointer that uses up the issue is the quarter's step. -/
theorem State.stepQuarter_first {s : State} {ga q i : Nat} (hi : i < 16) (hbefore : ∀ j < i, s.fetchCtx ga (s.slotAfter ga q j) = none)
    (hused : (s.trySlot ga (s.slotAfter ga q i)).1 = true) :
    s.stepQuarter ga q = ((s.trySlot ga (s.slotAfter ga q i)).2.1, (s.trySlot ga (s.slotAfter ga q i)).2.2) := by
  obtain ⟨rest, hrest⟩ := range_split hi
  have hnone : ∀ slot ∈ (List.range i).map (s.slotAfter ga q), s.fetchCtx ga slot = none := by
    intro slot hslot
    obtain ⟨j, hj, rfl⟩ := List.mem_map.mp hslot
    exact hbefore j (List.mem_range.mp hj)
  have hstep : State.scanSlot ga (false, s, []) (s.slotAfter ga q i) = s.trySlot ga (s.slotAfter ga q i) := rfl
  rw [State.stepQuarter_eq, hrest, List.map_append, List.foldl_append, foldl_scanSlot_none hnone, List.map_cons, List.foldl_cons, hstep,
    foldl_scanSlot_used hused]

/-! Waits at a reconvergence address that time ends (R99). -/

/-- A subgroup past its wait at the address it stands at, which leaves its stack where it stands on top. -/
theorem Sub.leaveReconv_eq (u : Sub) : u.leaveReconv = { u with wait := .running, stack := (match u.stack with
    | r :: l => if r.addr = u.pc then l else u.stack
    | [] => []) } := by
  unfold Sub.leaveReconv
  cases u.stack with
  | nil => rfl
  | cons r l => simp only [beq_iff_eq]

theorem Sub.timeOut_of_due {u : Sub} {n : Nat} (h : (∃ m, u.wait = .reconv m) ∧ u.waitFrom + 256 ≤ n) : u.timeOut n = u.leaveReconv := by
  obtain ⟨⟨m, hm⟩, hdue⟩ := h
  unfold Sub.timeOut
  rw [hm]
  exact if_pos hdue

theorem Sub.timeOut_of_not {u : Sub} {n : Nat} (h : ¬((∃ m, u.wait = .reconv m) ∧ u.waitFrom + 256 ≤ n)) : u.timeOut n = u := by
  unfold Sub.timeOut
  split
  · next m hm => exact if_neg fun hdue => h ⟨⟨m, hm⟩, hdue⟩
  · rfl

/-! Blocks that time halts (R112, R113, R122). -/

/-- A loop that meets an element establishes what that element establishes and every element keeps. -/
theorem foldl_of_mem {β : Type} {f : State → β → State} {I P : State → Prop} {l : List β} {a : β} (ha : a ∈ l)
    (hI : ∀ s, ∀ b ∈ l, I s → I (f s b)) (hP : ∀ s, ∀ b ∈ l, P s → P (f s b)) (hmeet : ∀ s, I s → P (f s a)) {s : State} (h : I s) :
    P (l.foldl f s) := by
  obtain ⟨before, after, rfl⟩ := List.append_of_mem ha
  rw [List.foldl_append, List.foldl_cons]
  have hbefore : I (before.foldl f s) :=
    List.foldlRecOn before f h (fun t ht b hb => hI t b (List.mem_append_left _ hb) ht)
  exact List.foldlRecOn after f (hmeet _ hbefore) (fun t ht b hb => hP t b (List.mem_append_right _ (List.mem_cons_of_mem _ hb)) ht)

theorem State.atBase_arrs {s : State} {b : Option Nat} {f : State → Nat → State} (h : ∀ t a, (f t a).arrs = t.arrs) :
    (s.atBase b f).arrs = s.arrs := by
  cases b with
  | none => rfl
  | some a => exact h s a

/-- A deadlocked block's halt is, to the arrays, the halt alone. -/
theorem State.deadlock_arrs (s : State) (ga bs : Nat) (k : Block) : ∃ t, t.arrs = s.arrs ∧ (s.deadlock ga bs k).arrs = (haltBlock t ga bs).arrs := by
  unfold State.deadlock
  extract_lets words time recorded plain r
  have hrecorded : recorded.arrs = s.arrs := by
    refine State.atBase_arrs fun t b => ?_
    split
    · rfl
    · dsimp only
      rw [State.setBit_arrs, State.foldl_keeps State.arrs (fun u i => State.setReg_arrs u (Reg.dlGranule b i) (words.getD i 0))]
      rfl
  exact ⟨recorded.raise r, (recorded.raise_arrs r).trans hrecorded, rfl⟩

theorem State.deadlock_group (s : State) (ga bs : Nat) (k : Block) (ga' slot : Nat) :
    (s.deadlock ga bs k).group ga' slot = s.group ga' slot := by
  obtain ⟨t, ht, he⟩ := s.deadlock_arrs ga bs k
  rw [State.group_congr he, haltBlock_group, State.group_congr ht]

theorem State.deadlock_block (s : State) (ga bs : Nat) (k : Block) (ga' b : Nat) : (s.deadlock ga bs k).block ga' b =
    if ga' = ga ∧ b = bs then (s.block ga bs).map Block.halt else s.block ga' b := by
  obtain ⟨t, ht, he⟩ := s.deadlock_arrs ga bs k
  rw [State.block_congr he, haltBlock_block]
  simp only [State.block_congr ht]

/-- The deadlocked blocks of an array, as BARRIER_DEADLOCK takes them. -/
def Arr.deadlocks (a : Arr) : List (Nat × Block) := a.blocks.filter (fun e => deadlocked a e.1 e.2)

/-- Blocks of an array halted for deadlock. -/
def State.haltDeadlocks (ga : Nat) (s : State) (l : List (Nat × Block)) : State := l.foldl (fun s e => s.deadlock ga e.1 e.2) s

theorem State.haltDeadlocks_group (s : State) (ga : Nat) (l : List (Nat × Block)) (ga' slot : Nat) :
    (s.haltDeadlocks ga l).group ga' slot = s.group ga' slot :=
  List.foldlRecOn l _ (motive := fun t : State => t.group ga' slot = s.group ga' slot) rfl
    (fun t ht e _ => (t.deadlock_group ga e.1 e.2 ga' slot).trans ht)

/-- A block that is taken for deadlock is halted, however often it is taken. -/
theorem State.haltDeadlocks_block {s : State} {ga bs : Nat} {k k' : Block} {l : List (Nat × Block)} (hl : (bs, k') ∈ l)
    (hk : s.block ga bs = some k) : (s.haltDeadlocks ga l).block ga bs = some k.halt := by
  have hkeep : ∀ t : State, ∀ e ∈ l, t.block ga bs = some k.halt → (t.deadlock ga e.1 e.2).block ga bs = some k.halt := by
    intro t e _ ht
    rw [State.deadlock_block]
    split
    · next h => rw [← h.2, ht]; rfl
    · exact ht
  refine foldl_of_mem (I := fun t => t.block ga bs = some k ∨ t.block ga bs = some k.halt) (P := fun t => t.block ga bs = some k.halt)
    hl (fun t e he ht => ?_) hkeep (fun t ht => ?_) (Or.inl hk)
  · rcases ht with ht | ht
    · rw [State.deadlock_block]
      split
      · next h => right; rw [← h.2, ht]; rfl
      · exact Or.inl ht
    · exact Or.inr (hkeep t e he ht)
  · rw [State.deadlock_block, if_pos ⟨rfl, rfl⟩]
    rcases ht with ht | ht
    all_goals rw [ht]; rfl

/-- A block that is not taken stays. -/
theorem State.haltDeadlocks_block_other {s : State} {ga bs : Nat} {l : List (Nat × Block)} (hl : ∀ e ∈ l, e.1 ≠ bs) :
    (s.haltDeadlocks ga l).block ga bs = s.block ga bs :=
  List.foldlRecOn l _ (motive := fun t : State => t.block ga bs = s.block ga bs) rfl (fun t ht e he => by
    rw [State.deadlock_block, if_neg (fun h => hl e he h.2.symm), ht])

/-- From s to t groups stayed, and blocks of an array stayed or were halted. -/
structure HaltsOnly (ga : Nat) (s t : State) : Prop where
  groups : ∀ ga slot, t.group ga slot = s.group ga slot
  blocks : ∀ b, t.block ga b = s.block ga b ∨ t.block ga b = (s.block ga b).map Block.halt

theorem HaltsOnly.refl (ga : Nat) (s : State) : HaltsOnly ga s s := ⟨fun _ _ => rfl, fun _ => Or.inl rfl⟩

theorem HaltsOnly.trans {ga : Nat} {s t u : State} (h : HaltsOnly ga s t) (k : HaltsOnly ga t u) : HaltsOnly ga s u where
  groups ga slot := (k.groups ga slot).trans (h.groups ga slot)
  blocks b := by
    rcases k.blocks b with hk | hk
    · rw [hk]; exact h.blocks b
    · rw [hk]
      rcases h.blocks b with hh | hh
      · exact Or.inr (by rw [hh])
      · exact Or.inr (by rw [hh, Option.map_map]; rfl)

/-- A block of an array, if there is one, is halted. -/
def BlockHalted (ga b : Nat) (s : State) : Prop := ∀ k, s.block ga b = some k → k.halted = true

theorem HaltsOnly.blockHalted {ga b : Nat} {s t : State} (h : HaltsOnly ga s t) (hs : BlockHalted ga b s) : BlockHalted ga b t := by
  intro k hk
  rcases h.blocks b with hb | hb
  · exact hs k (hb ▸ hk)
  · obtain ⟨k0, -, rfl⟩ := Option.map_eq_some_iff.mp (hb.symm.trans hk)
    rfl

/-- A block that there was at first is there, and halted. -/
theorem HaltsOnly.map_halted {ga b : Nat} {s t : State} (h : HaltsOnly ga s t) (ht : BlockHalted ga b t) :
    (t.block ga b).map (·.halted) = (s.block ga b).map (fun _ => true) := by
  have hsame : (s.block ga b).map (fun _ => true) = (t.block ga b).map (fun _ => true) := by
    rcases h.blocks b with hb | hb
    · rw [hb]
    · rw [hb, Option.map_map]
      rfl
  rw [hsame]
  exact Option.map_congr ht

/-- A subgroup that ran too long halts its block, and does nothing else to groups and blocks. -/
theorem State.overdue_arrs {s : State} {ga slot : Nat} {g x : Group} {u : Sub} {k : Block} (hx : s.group ga slot = some x)
    (hk : s.block ga x.block = some k) (hh : k.halted = false) :
    HaltsOnly ga s (s.overdue ga slot g u) ∧ (s.overdue ga slot g u).block ga x.block = some k.halt := by
  unfold State.overdue ctxFor
  rw [hx]
  dsimp only
  rw [hk]
  dsimp only
  rw [hh, if_neg (by decide)]
  generalize hrec : State.atBase s _ _ = recorded
  have harrs : recorded.arrs = s.arrs := by
    rw [← hrec]
    refine State.atBase_arrs fun t b => ?_
    split <;> rfl
  refine ⟨⟨fun ga' slot' => ?_, fun b => ?_⟩, ?_⟩
  · rw [blockFault_group, State.group_congr harrs]
  · rw [blockFault_block]
    split
    · next h => rw [h.2]; exact Or.inr (by rw [State.block_congr harrs])
    · exact Or.inl (State.block_congr harrs ..)
  · rw [blockFault_block, if_pos ⟨rfl, rfl⟩, State.block_congr harrs, hk]
    rfl

/-- Without its group, without its block, or with that block halted already, nothing is overdue. -/
theorem State.overdue_skips {s : State} {ga slot : Nat} {g : Group} {u : Sub}
    (h : ∀ x k, s.group ga slot = some x → s.block ga x.block = some k → k.halted = true) : s.overdue ga slot g u = s := by
  unfold State.overdue ctxFor
  cases hx : s.group ga slot with
  | none => rfl
  | some x =>
    dsimp only
    cases hk : s.block ga x.block with
    | none => rfl
    | some k => exact if_pos (h x k hx hk)

theorem State.overdue_haltsOnly (s : State) (ga slot : Nat) (g : Group) (u : Sub) : HaltsOnly ga s (s.overdue ga slot g u) := by
  by_cases h : ∀ x k, s.group ga slot = some x → s.block ga x.block = some k → k.halted = true
  · rw [State.overdue_skips h]
    exact HaltsOnly.refl ga s
  · push Not at h
    obtain ⟨x, k, hx, hk, hh⟩ := h
    exact (State.overdue_arrs hx hk (Bool.eq_false_of_not_eq_true hh)).1

/-- One subgroup looked at by YIELD_OVERDUE. -/
def State.checkOverdue (ga slot : Nat) (g : Group) (s : State) (u : Sub) : State :=
  if u.wait == .running && !u.stopped && !g.held && decide (yieldLimit ≤ u.yieldCount) then s.overdue ga slot g u else s

/-- One group looked at by YIELD_OVERDUE. -/
def State.checkGroup (ga : Nat) (s : State) (e : Nat × Group) : State := e.2.subs.foldl (State.checkOverdue ga e.1 e.2) s

theorem exec_yieldOverdue (a : Fin 768) (s : State) :
    exec (.yieldOverdue a) s = .next ((s.arr a.val).groups.foldl (State.checkGroup a.val) s) := rfl

theorem State.checkOverdue_haltsOnly (ga slot : Nat) (g : Group) (s : State) (u : Sub) : HaltsOnly ga s (State.checkOverdue ga slot g s u) := by
  unfold State.checkOverdue
  split
  · exact s.overdue_haltsOnly ga slot g u
  · exact HaltsOnly.refl ga s

theorem State.checkGroup_haltsOnly (ga : Nat) (s : State) (e : Nat × Group) : HaltsOnly ga s (State.checkGroup ga s e) :=
  List.foldlRecOn _ _ (motive := HaltsOnly ga s) (HaltsOnly.refl ga s)
    (fun t ht u _ => ht.trans (State.checkOverdue_haltsOnly ga e.1 e.2 t u))

theorem foldl_checkGroup_haltsOnly (ga : Nat) (l : List (Nat × Group)) (s : State) : HaltsOnly ga s (l.foldl (State.checkGroup ga) s) :=
  List.foldlRecOn l _ (motive := HaltsOnly ga s) (HaltsOnly.refl ga s) (fun t ht e _ => ht.trans (State.checkGroup_haltsOnly ga t e))

/-- A subgroup that runs and has gone the limit of R122 without a yield point. -/
structure Overdue (g : Group) (u : Sub) : Prop where
  held : g.held = false
  runs : u.wait = .running
  stopped : u.stopped = false
  count : 262144 ≤ u.yieldCount

/-- The block of a group that has an overdue subgroup is halted once that subgroup is looked at. -/
theorem State.checkOverdue_halts {s : State} {ga slot : Nat} {x : Group} {u : Sub} (hx : s.group ga slot = some x) (hu : Overdue x u) :
    BlockHalted ga x.block (State.checkOverdue ga slot x s u) := by
  by_cases hhalted : BlockHalted ga x.block s
  · exact (State.checkOverdue_haltsOnly ga slot x s u).blockHalted hhalted
  · unfold BlockHalted at hhalted
    push Not at hhalted
    obtain ⟨k, hk, hh⟩ := hhalted
    have hdue : State.checkOverdue ga slot x s u = s.overdue ga slot x u :=
      if_pos (by simp [hu.held, hu.runs, hu.stopped, yieldLimit, hu.count])
    intro k' hk'
    rw [hdue, (State.overdue_arrs hx hk (Bool.eq_false_of_not_eq_true hh)).2] at hk'
    cases hk'
    rfl

/-- R122: YIELD_OVERDUE halts the block of every overdue subgroup. -/
theorem foldl_checkGroup_halts {s : State} {ga slot : Nat} {x : Group} {u : Sub} (hx : s.group ga slot = some x) (hmem : u ∈ x.subs)
    (hu : Overdue x u) : BlockHalted ga x.block ((s.arr ga).groups.foldl (State.checkGroup ga) s) := by
  refine foldl_of_mem (I := fun t => t.group ga slot = some x) (Tab.mem_of_get _ _ _ hx)
    (fun t e _ ht => ((State.checkGroup_haltsOnly ga t e).groups ga slot).trans ht)
    (fun t e _ ht => (State.checkGroup_haltsOnly ga t e).blockHalted ht) (fun t ht => ?_) hx
  exact foldl_of_mem (I := fun t => t.group ga slot = some x) hmem
    (fun r v _ hr => ((State.checkOverdue_haltsOnly ga slot x r v).groups ga slot).trans hr)
    (fun r v _ hr => (State.checkOverdue_haltsOnly ga slot x r v).blockHalted hr) (fun r hr => State.checkOverdue_halts hr hu) ht

end Sys2Proof.Machine

section

open Sys2Proof Sys2Proof.Machine

/-- Settles O23: a step is taken exactly under the conditions of R40, R42 and R43; the units that an issue needs are free before it and occupied
after it; of a quarter's slots the first that uses up the issue acts; and what time ends touches waits and halts alone. -/
theorem schedulingAndTimeouts : Obligations.SchedulingAndTimeouts := by
  refine ⟨⟨fun a s => ⟨_, rfl, fun h => ?_, fun site h hsite => ?_⟩, fun e _ g w s c d hc hgo k hk => ?_, ?_, fun s ga q i hi => ?_⟩,
    fun g s x hx => ⟨_, rfl, ?_⟩, fun a s => ⟨_, rfl, ?_⟩, fun a s => ⟨_, exec_yieldOverdue a s, ?_⟩⟩
  · rw [← State.canStep_iff] at h
    by_cases hc : s.canStep a.val = true
    · have hsite := h.resolve_left (not_not.mpr hc)
      rw [if_neg (by simp [hc]), hsite]
      exact State.stepArray_of_none hsite
    · exact if_pos (by simpa using hc)
  · rw [← State.canStep_iff] at h
    rw [if_neg (by simp [h]), hsite]
    dsimp only
    exact ite_not ..
  · obtain ⟨_, _, _, _, _, _, _, _, _, hready⟩ := Sem.ctx_spec hc
    exact Arr.busy_of_accepts (Sem.accepts_of_go hready hgo) k hk
  · simp only [List.forall_mem_cons, List.not_mem_nil, false_implies, implies_true, and_true]
    exact ⟨fun g w s c d h => ⟨_, rfl, Sem.issue_busy h rfl (mma_effect s c w d)⟩,
      fun g w s c d h => ⟨_, rfl, Sem.issue_busy h rfl (mmaLedger_effect s c w d)⟩,
      fun g w s c d h => ⟨_, rfl, Sem.issue_busy h rfl (ltileFlush_effect s c w d)⟩⟩
  · exact State.stepQuarter_first hi
  · rw [hx]
    refine congrArg (fun l => s.setGroup g.arr.val g.slot.val { x with subs := l }) (List.map_congr_left fun u _ => ?_)
    split
    · next h => exact (Sub.timeOut_of_due h).trans u.leaveReconv_eq
    · next h => exact Sub.timeOut_of_not h
  · refine ⟨s.haltDeadlocks_group a.val _, fun bs => ⟨fun k hk hd => ?_, fun h => ?_⟩⟩
    · exact State.haltDeadlocks_block (List.mem_filter.mpr ⟨Tab.mem_of_get _ _ _ hk, hd⟩) hk
    · refine State.haltDeadlocks_block_other fun e he hbs => ?_
      obtain ⟨hmem, hd⟩ := List.mem_filter.mp he
      subst hbs
      rw [h e.2 hmem] at hd
      cases hd
  · have honly := foldl_checkGroup_haltsOnly a.val (s.arr a.val).groups s
    exact ⟨honly.groups, fun slot x u hx hheld hmem hruns hstopped hcount =>
      honly.map_halted (foldl_checkGroup_halts hx hmem ⟨hheld, hruns, hstopped, hcount⟩)⟩

end
end

section
/-! SUPPORT. A line that an L1 writes back leaves every array alone, but for the line and the acknowledgement that its own array awaits (R246,
R250, R265). -/

namespace Sys2Proof.Machine

/-! Memory and host. -/

theorem State.dropWrite_arrs (s : State) (p line : Nat) : (s.dropWrite p line).arrs = s.arrs := by
  unfold State.dropWrite
  dsimp only
  split <;> rw [State.raise_arrs, State.setBit_arrs]

theorem State.touchPage_arrs (s : State) (port off : Nat) : (s.touchPage port off).arrs = s.arrs := by
  unfold State.touchPage
  dsimp only
  split <;> rfl

theorem State.memWrite_arrs (s : State) (p line : Nat) (data : LineData) (mask : ByteMask) (dead : Bool) :
    (s.memWrite p line data mask dead).arrs = s.arrs := by
  unfold State.memWrite
  dsimp only
  split
  · split
    · rfl
    · split
      · exact s.dropWrite_arrs p line
      · rfl
  · split
    · rfl
    · split
      · exact s.raise_arrs _
      · split
        · split
          · exact s.dropWrite_arrs p line
          · split <;> exact State.touchPage_arrs ..
        · exact s.dropWrite_arrs p line

theorem State.memPut_arrs (s : State) (p line : Nat) (data : LineData) (mask : ByteMask) (dead : Bool) :
    (s.memPut p line data mask dead).arrs = s.arrs := by
  unfold State.memPut State.memSend
  split
  · rfl
  · split
    · exact s.memWrite_arrs ..
    · rfl

theorem State.hostPost_arrs (s : State) (p work id : Nat) (pasid : W32) (addr : Nat) (data : LineData) (mask : ByteMask) :
    (s.hostPost p work id pasid addr data mask).arrs = s.arrs := by
  unfold State.hostPost
  dsimp only
  split
  · rfl
  · split
    · split <;> rfl
    · rfl

/-! Slices. -/

theorem State.sliceCount_arrs (s : State) (d i : Nat) : (s.sliceCount d i).arrs = s.arrs :=
  State.atBase_arrs fun t _ => State.count_arrs t _ _

theorem State.evictLine_arrs (s : State) (d p : Nat) (l : SLine) : (s.evictLine d p l).arrs = s.arrs := by
  unfold State.evictLine
  split
  · rfl
  · split
    · rw [State.sliceCount_arrs, State.hostPost_arrs]
    · split
      · rw [State.sliceCount_arrs, State.memPut_arrs]
      · rw [State.sliceCount_arrs, State.memPut_arrs]
      · rw [State.sliceCount_arrs, State.memPut_arrs]
      · rfl

theorem State.allocWay_arrs {s t : State} {d p set skip w : Nat} {limit : Option Nat} (h : s.allocWay d p set limit skip = some (w, t)) :
    t.arrs = s.arrs := by
  unfold State.allocWay at h
  split at h
  · cases h
  · cases h
    exact State.foldl_keeps State.arrs (fun u l => u.evictLine_arrs d p l) _ _

theorem State.placeLine_arrs (s : State) (d set w : Nat) (l : SLine) : (s.placeLine d set w l).arrs = s.arrs := rfl

theorem State.resettle_arrs (s : State) (d p set line : Nat) (visitor : Bool) : (s.resettle d p set line visitor).arrs = s.arrs := by
  unfold State.resettle
  dsimp only
  split
  · rfl
  · split
    · rfl
    · split
      · split
        · next h =>
          have hevicted := State.allocWay_arrs h
          rw [State.setSlice_arrs] at hevicted
          exact (State.placeLine_arrs ..).trans hevicted
        · rfl
      · split
        · split <;> rfl
        · rfl

theorem State.writeLine_arrs (s : State) (d p : Nat) (touch : Bool) (l : SLine) : (s.writeLine d p touch l).arrs = s.arrs :=
  State.resettle_arrs ..

theorem State.visitorStore_arrs (s : State) (d p line : Nat) (data : LineData) (mask : ByteMask) :
    (s.visitorStore d p line data mask).arrs = s.arrs := by
  unfold State.visitorStore State.storeLine
  dsimp only
  split
  · rfl
  · split
    · rw [State.setSlice_arrs, State.writeLine_arrs, State.setSlice_arrs]
    · rw [State.writeLine_arrs, State.setSlice_arrs]

/-- A request on its way changes slices alone. -/
theorem State.sendReq_arrs (s : State) (r : MemReq) : (s.sendReq r).arrs = s.arrs := by
  unfold State.sendReq
  dsimp only
  split
  · exact State.visitorStore_arrs ..
  all_goals rfl

/-! The L1. -/

theorem State.l1Count_arrs (s : State) (ga c : Nat) : (s.l1Count ga c).arrs = s.arrs :=
  State.atBase_arrs fun t _ => State.count_arrs t _ _

/-- Two arrays that differ in the lines of their L1s and in the acknowledgements that they await. -/
def L1Changed (a b : Arr) : Prop := b = { a with l1 := b.l1, unacked := b.unacked }

theorem L1Changed.refl (a : Arr) : L1Changed a a := rfl

theorem L1Changed.trans {a b c : Arr} (h : L1Changed a b) (k : L1Changed b c) : L1Changed a c := by
  unfold L1Changed at h k ⊢
  rw [k, h]

theorem L1Changed.lsBanks {a b : Arr} (h : L1Changed a b) : b.lsBanks = a.lsBanks := by
  unfold L1Changed at h
  rw [h]

theorem L1Changed.localMem {a b : Arr} (h : L1Changed a b) : b.localMem = a.localMem := by
  unfold L1Changed at h
  rw [h]

theorem State.writeBack_arr (s : State) (ga p : Nat) (l : L1Line) : L1Changed (s.arr ga) ((s.writeBack ga p l).arr ga) := by
  unfold State.writeBack
  dsimp only
  rw [State.arr_congr (State.l1Count_arrs ..), State.arr_congr (State.sendReq_arrs ..), State.arr_setArr_self]
  rfl

theorem State.cleanL1_arr (s : State) (ga p key : Nat) : L1Changed (s.arr ga) ((s.cleanL1 ga p key).arr ga) := by
  unfold State.cleanL1
  split
  · exact L1Changed.refl _
  · next l _ =>
    split
    · exact L1Changed.refl _
    · refine (s.writeBack_arr ga p l).trans ?_
      rw [State.arr_setArr_self]
      rfl

end Sys2Proof.Machine
end

section
/-! SUPPORT. A block placed on an array, what its groups start with, and the split of an array's memory (R78, R82 to R85, R128). -/

namespace Sys2Proof.Machine

/-! Group slots (R84). -/

/-- The slots that groups take are all different, and different from those taken before. -/
theorem State.placeGroups_nodup {s : State} {ga r n : Nat} {taken slots : List Nat} (ht : taken.Nodup)
    (h : s.placeGroups ga r n taken = some slots) : slots.Nodup := by
  induction n generalizing taken with
  | zero =>
    unfold State.placeGroups at h
    cases h
    exact ht
  | succ n ih =>
    unfold State.placeGroups at h
    dsimp only at h
    split at h
    · cases h
    · split at h
      · cases h
      · next i hi =>
        have hfree := List.find?_some hi
        rw [Bool.and_eq_true, Bool.not_eq_true', List.contains_eq_mem, decide_eq_false_iff_not] at hfree
        refine ih (List.nodup_append.mpr ⟨ht, List.nodup_singleton _, fun a ha b hb hab => hfree.2 ?_⟩) h
        rw [← List.mem_singleton.mp hb, ← hab]
        exact ha

theorem State.roomFor_nodup {s : State} {ga : Nat} {k : Work} {bs : Nat} {slots units : List Nat} (h : s.roomFor ga k = some (bs, slots, units)) :
    slots.Nodup := by
  unfold State.roomFor at h
  dsimp only at h
  split at h
  · cases h
  · split at h
    · next hplace =>
      cases h
      exact State.placeGroups_nodup List.nodup_nil hplace
    · cases h

/-- Groups put in a table, each at its slot. -/
def putGroups (f : Nat → Group) (t : Tab Group) (l : List (Nat × Nat)) : Tab Group := l.foldl (fun t e => Tab.put t e.2 (f e.1)) t

theorem putGroups_other {f : Nat → Group} {t : Tab Group} {l : List (Nat × Nat)} {j : Nat} (h : ∀ e ∈ l, e.2 ≠ j) :
    Tab.get (putGroups f t l) j = Tab.get t j :=
  List.foldlRecOn l _ (motive := fun u => Tab.get u j = Tab.get t j) rfl (fun u hu e he => by
    rw [Tab.get_put_other _ _ _ _ (h e he).symm, hu])

theorem putGroups_of_mem {f : Nat → Group} {t : Tab Group} {l : List (Nat × Nat)} {i j : Nat} (hl : (l.map Prod.snd).Nodup)
    (h : (i, j) ∈ l) : Tab.get (putGroups f t l) j = some (f i) := by
  induction l generalizing t with
  | nil => cases h
  | cons e l ih =>
    obtain ⟨he, hl⟩ := List.nodup_cons.mp hl
    rcases List.mem_cons.mp h with rfl | h
    · refine (putGroups_other (f := f) (t := Tab.put t j (f i)) fun x hmem hxj => he ?_).trans (Tab.get_put_self ..)
      exact List.mem_map.mpr ⟨x, hmem, hxj⟩
    · exact ih hl h

/-- The groups of a block by their slots, numbered. -/
def numbered (slots : List Nat) : List (Nat × Nat) := (List.range slots.length).zip slots

theorem numbered_snd (slots : List Nat) : (numbered slots).map Prod.snd = slots :=
  List.map_snd_zip (List.length_range (n := slots.length)).ge

theorem mem_numbered {slots : List Nat} {i slot : Nat} (h : slots[i]? = some slot) : (i, slot) ∈ numbered slots := by
  have hi : (List.range slots.length)[i]? = some i := List.getElem?_range (List.getElem?_eq_some_iff.mp h).1
  exact List.mem_of_getElem? (List.getElem?_zip_eq_some.mpr ⟨hi, h⟩)

/-! A block accepted (R83, R85, R128, R302). -/

/-- A block of a launch with the local store units it holds. -/
def Work.newBlock (k : Work) (units : List Nat) : Block :=
  { launch := k.id, part := k.part, seq := k.seq, mailbag := k.mailbag, slice := k.slice, index := k.nextBlock, nblocks := k.blocks,
    threads := k.threads, regs := k.regs, units := units, textLo := k.textLo, textHi := k.textHi, kernelId := k.kernelId, seed := k.seed,
    arrived := [], halted := false, stopPending := false }

/-- The fence that groups of a launch's later blocks wait for, while it is in progress (R302). -/
def Arr.laterOrders (a : Arr) (id : Nat) : List OrderOp := match a.startFence id with
  | some o => [{ o with isFence := false }]
  | none => []

/-- An array after it accepted a block of a launch that it has begun before. -/
def State.acceptedArr (s : State) (ga : Nat) (k : Work) (bs : Nat) (slots units : List Nat) : Arr :=
  let a := s.arr ga
  let addr : W64 := BitVec.ofNat 64 k.codeAddr
  { a with blocks := Tab.put a.blocks bs (k.newBlock units),
           groups := putGroups (fun j => startGroup k bs j k.nextBlock (a.laterOrders k.id)) a.groups (numbered slots),
           lastCode := addr, lastGen := k.loadGen, icache := if a.lastCode = addr ∧ a.lastGen = k.loadGen then a.icache else [],
           pos := if a.groups.isEmpty then max a.pos (s.diePos (ga / 8)) else a.pos }

theorem State.acceptedArr_groups (s : State) (ga : Nat) (k : Work) (bs : Nat) (slots units : List Nat) :
    (s.acceptedArr ga k bs slots units).groups =
      putGroups (fun j => startGroup k bs j k.nextBlock ((s.arr ga).laterOrders k.id)) (s.arr ga).groups (numbered slots) := rfl

/-- A block accepted changes its array and the taken entries alone. -/
theorem State.acceptBlock_later {s : State} {ga : Nat} {k : Work} (h : k.fences.contains ga = true) (bs : Nat) (slots units : List Nat) :
    ∃ works, s.acceptBlock ga k bs slots units = { s.setArr ga (s.acceptedArr ga k bs slots units) with works := works } := by
  unfold State.acceptBlock
  dsimp only
  rw [h]
  exact ⟨_, rfl⟩

theorem exec_blockAccept {a : Fin 768} {s : State} {k : Work} {bs : Nat} {slots units : List Nat} (hk : s.launchOn a.val = some k)
    (hfirst : k.arrays.find? (fun ga => (s.roomFor ga k).isSome) = some a.val) (hroom : s.roomFor a.val k = some (bs, slots, units)) :
    exec (.blockAccept a) s = .next (s.acceptBlock a.val k bs slots units) := by
  show execBlockAccept a s = _
  unfold execBlockAccept next
  rw [hk]
  dsimp only
  rw [if_pos hfirst, hroom]

/-! What a group starts with (R75, R78, R128). -/

/-- The threads of a group of a launch. -/
def Work.groupThreads (k : Work) (index : Nat) : Nat := min 32 (k.threads - 32 * index)

/-- The lanes of a group that no thread of its block has. -/
def Work.absentLanes (k : Work) (index : Nat) : BitVec 32 := BitVec.ofNat 32 (2 ^ 32 - 2 ^ k.groupThreads index)

/-- The one subgroup a group starts with. -/
def Work.startSub (k : Work) (index : Nat) (orders : List OrderOp) : Sub :=
  { lanes := ~~~k.absentLanes index, pc := k.kernelEntry, wait := .running, stopped := false, stack := [], waitFrom := 0, yieldCount := 0,
    orders := orders }

/-- A group before its registers are set. -/
def Work.bareGroup (k : Work) (bs index : Nat) (orders : List OrderOp) : Group :=
  { block := bs, index := index, absent := k.absentLanes index, exited := 0, tregs := [], uregs := [], preds := [], fpflags := 0,
    subs := [k.startSub index orders], cur := ~~~k.absentLanes index, isOpen := false, pend := [], hostStored := 0, held := false }

/-- A group with its thread numbers in register 0. -/
def Work.numberedGroup (k : Work) (bs index : Nat) (orders : List OrderOp) : Group :=
  (List.range (k.groupThreads index)).foldl (fun g i => g.setTwords i 0 (32 * index + i) 1) (k.bareGroup bs index orders)

/-- What the uniform registers start with. -/
def Work.startUniforms (k : Work) (index blockIndex : Nat) : List (Nat × Nat) :=
  [(0, k.argAddr), (1, k.argAddr / 2 ^ 32), (2, blockIndex), (3, k.blocks), (4, k.threads), (5, index)]

section
variable (k : Work) (bs index blockIndex : Nat) (orders : List OrderOp)

theorem startGroup_eq : startGroup k bs index blockIndex orders =
    (k.startUniforms index blockIndex).foldl (fun g e => g.setUreg e.1 (BitVec.ofNat 32 e.2)) (k.numberedGroup bs index orders) := rfl

theorem Work.numberedGroup_registers : (∃ x, k.numberedGroup bs index orders = { k.bareGroup bs index orders with tregs := x }) ∧
    ∀ i, i < 32 → ∀ r, (k.numberedGroup bs index orders).treg i r =
      if i ∈ List.range (k.groupThreads index) ∧ 0 ≤ r ∧ r < 0 + 1 then BitVec.ofNat 32 ((32 * index + i) / 2 ^ (32 * (r - 0)))
      else (k.bareGroup bs index orders).treg i r :=
  foldl_setTwords _ 0 1 (fun i => 32 * index + i) _ List.nodup_range
    (fun _ hi => Nat.lt_of_lt_of_le (List.mem_range.mp hi) (Nat.min_le_left 32 _))

/-- But for its registers a group starts bare. -/
theorem startGroup_frame : ∃ x y, startGroup k bs index blockIndex orders = { k.bareGroup bs index orders with tregs := x, uregs := y } := by
  obtain ⟨⟨x, hx⟩, -⟩ := k.numberedGroup_registers bs index orders
  rw [startGroup_eq, hx]
  exact ⟨x, _, rfl⟩

theorem startGroup_treg (i r : Nat) (hi : i < 32) : (startGroup k bs index blockIndex orders).treg i r =
    if r = 0 ∧ 32 * index + i < k.threads then BitVec.ofNat 32 (32 * index + i) else 0 := by
  obtain ⟨-, htreg⟩ := k.numberedGroup_registers bs index orders
  have hsame : (startGroup k bs index blockIndex orders).treg i r = (k.numberedGroup bs index orders).treg i r := by
    rw [startGroup_eq]
    exact List.foldlRecOn _ _ (motive := fun g : Group => g.treg i r = (k.numberedGroup bs index orders).treg i r) rfl (fun _ hg _ _ => hg)
  have hpresent : i ∈ List.range (k.groupThreads index) ↔ 32 * index + i < k.threads := by
    rw [List.mem_range, Work.groupThreads]
    omega
  rw [hsame, htreg i hi r]
  by_cases hr : r = 0
  · subst hr
    simp only [hpresent, Nat.sub_zero, Nat.mul_zero, Nat.pow_zero, Nat.div_one, Nat.le_refl, Nat.zero_add, Nat.zero_lt_one, and_self, and_true, true_and]
    rfl
  · rw [if_neg (by omega), if_neg (fun h => hr h.1)]
    rfl

theorem startGroup_ureg (r : Nat) : (startGroup k bs index blockIndex orders).ureg r =
    if r = 5 then BitVec.ofNat 32 index else if r = 4 then BitVec.ofNat 32 k.threads else if r = 3 then BitVec.ofNat 32 k.blocks
    else if r = 2 then BitVec.ofNat 32 blockIndex else if r = 1 then BitVec.ofNat 32 (k.argAddr / 2 ^ 32)
    else if r = 0 then BitVec.ofNat 32 k.argAddr else 0 := by
  obtain ⟨⟨x, hx⟩, -⟩ := k.numberedGroup_registers bs index orders
  have hbare : (k.numberedGroup bs index orders).ureg r = 0 := by rw [hx]; rfl
  rw [startGroup_eq, Work.startUniforms]
  simp only [List.foldl_cons, List.foldl_nil, Group.ureg_setUreg, hbare]

/-- The lanes from the number of threads on are absent. -/
theorem Work.absentLanes_iff (i : Nat) (hi : i < 32) : (k.absentLanes index).getLsbD i = true ↔ k.threads ≤ 32 * index + i := by
  have hn : k.groupThreads index ≤ 32 := Nat.min_le_left 32 _
  have hmask : 2 ^ 32 - 2 ^ k.groupThreads index = (2 ^ (32 - k.groupThreads index) - 1) <<< k.groupThreads index := by
    rw [Nat.shiftLeft_eq, Nat.sub_mul, Nat.one_mul, ← Nat.pow_add, Nat.sub_add_cancel hn]
  rw [Work.absentLanes, BitVec.getLsbD_ofNat, hmask, Nat.testBit_shiftLeft, Nat.testBit_two_pow_sub_one]
  simp only [hi, decide_true, Bool.true_and, Bool.and_eq_true, decide_eq_true_eq]
  rw [Work.groupThreads] at hn ⊢
  omega

theorem startGroup_standsAt (i : Nat) (hi : i < 32) (hp : 32 * index + i < k.threads) :
    StandsAt (startGroup k bs index blockIndex orders) i k.kernelEntry := by
  obtain ⟨x, y, he⟩ := startGroup_frame k bs index blockIndex orders
  rw [he]
  refine ⟨k.startSub index orders, List.mem_singleton_self _, ?_, rfl⟩
  have habsent : (k.absentLanes index).getLsbD i = false :=
    Bool.eq_false_of_not_eq_true (mt (k.absentLanes_iff index i hi).mp (by omega))
  rw [Work.startSub, BitVec.getLsbD_not, habsent]
  simp [hi]

end

/-! The split (R82). -/

/-- An array that has begun a new split: the lines of the banks that become local store are gone. -/
def Arr.beginSplit (a : Arr) (n : Nat) (goes : Nat → Bool) : Arr := { a with reconfig := some n, l1 := a.l1.filter (fun e => !goes e.1) }

/-- The lines of an L1 that a change of split to n banks of local store takes away, by their keys. -/
def Arr.splitTakes (a : Arr) (n key : Nat) : Bool := decide (a.lsBanks + key / 32768 < n)

/-- The dirty lines among those written back. -/
def State.cleanSplit (s : State) (ga p n : Nat) : State :=
  (((s.arr ga).l1.filter (fun e => (s.arr ga).splitTakes n e.1)).map (·.1)).foldl (fun s key => s.cleanL1 ga p key) s

theorem exec_lsBanksChange {a : Fin 768} {n : Fin 9} {s : State} {k : Work} (hk : s.launchOn a.val = some k) (hempty : (s.arr a.val).groups = [])
    (hnone : (s.arr a.val).reconfig = none) (hold : (s.arr a.val).lsBanks ≠ n.val) (hnew : k.lsBanks = n.val) :
    exec (.lsBanksChange a n) s = .next ((s.cleanSplit a.val k.part n.val).setArr a.val
      (((s.cleanSplit a.val k.part n.val).arr a.val).beginSplit n.val ((s.arr a.val).splitTakes n.val))) := by
  show execLsBanksChange a n s = _
  unfold execLsBanksChange next
  dsimp only
  rw [hk]
  dsimp only
  rw [if_neg (by simp [hempty, hnone, hold, hnew])]
  rfl

theorem State.cleanSplit_arr (s : State) (ga p n : Nat) : L1Changed (s.arr ga) ((s.cleanSplit ga p n).arr ga) :=
  List.foldlRecOn _ _ (motive := fun t : State => L1Changed (s.arr ga) (t.arr ga)) (L1Changed.refl _)
    (fun t ht key _ => ht.trans (t.cleanL1_arr ga p key))

theorem Tab.get_eq_none {α : Type} {t : Tab α} {k : Nat} (h : ∀ e ∈ t, e.1 ≠ k) : Tab.get t k = none := by
  cases hk : Tab.get t k with
  | none => rfl
  | some v => exact absurd rfl (h (k, v) (Tab.mem_of_get t k v hk))

/-- No line stays that the split takes away. -/
theorem Arr.beginSplit_l1 (a : Arr) (n : Nat) {goes : Nat → Bool} {key : Nat} (h : goes key = true) :
    Tab.get (a.beginSplit n goes).l1 key = none := by
  refine Tab.get_eq_none fun e he hkey => ?_
  have hkept := (List.mem_filter.mp he).2
  rw [hkey, h] at hkept
  cases hkept

/-- An array with its new split in force. -/
def Arr.endSplit (a : Arr) (n : Nat) : Arr :=
  { a with reconfig := none, lsBanks := n, l1 := moveL1 a.l1 a.lsBanks n, localMem := moveLocal a.localMem a.lsBanks n }

theorem exec_reconfigDone {a : Fin 768} {s : State} {n : Nat} (h : (s.arr a.val).reconfig = some n) :
    exec (.reconfigDone a) s = .next ((s.setArr a.val ((s.arr a.val).endSplit n)).atBase (s.arrayBase a.val)
      (fun s b => s.setBit (Reg.arrStatus b) 4)) := by
  show execReconfigDone a s = _
  unfold execReconfigDone next
  dsimp only
  rw [h]
  rfl

/-- A status bit set where the array's die is in use: registers alone change. -/
theorem State.atBase_setBit_frame (s : State) (b : Option Nat) (f : Nat → Nat) (i : Nat) :
    s.atBase b (fun s b => s.setBit (f b) i) = { s with regs := (s.atBase b (fun s b => s.setBit (f b) i)).regs } := by
  cases b <;> rfl

end Sys2Proof.Machine

section

open Sys2Proof Sys2Proof.Machine

/-- Settles O24: an accepted block changes its array and its launch alone, its groups at slots that are all different; a change of split
writes lines back, which touches no other part of its array; a group starts with the registers of R128. -/
theorem blockStart : Obligations.BlockStart := by
  refine ⟨⟨fun a s k bs slots units hk hfirst hroom hbegun => ⟨_, exec_blockAccept hk hfirst hroom, ?_⟩,
    fun a n s k hk hempty hnone hold hnew => ⟨_, exec_lsBanksChange hk hempty hnone hold hnew, ?_⟩,
    fun a s n hn => ⟨_, exec_reconfigDone hn, ?_⟩⟩, fun k bs index blockIndex orders hindex => ?_⟩
  · obtain ⟨works, hw⟩ := State.acceptBlock_later (s := s) hbegun bs slots units
    rw [hw]
    have harr : ∀ j, State.arr { s.setArr a.val (s.acceptedArr a.val k bs slots units) with works := works } j =
        if j = a.val then s.acceptedArr a.val k bs slots units else s.arr j := fun j => State.arr_setArr s a.val j _
    have hnodup : ((numbered slots).map Prod.snd).Nodup := by
      rw [numbered_snd]
      exact State.roomFor_nodup hroom
    refine ⟨⟨k.newBlock units, ?_, rfl, rfl, rfl, rfl, rfl, rfl, rfl, rfl, rfl, rfl, rfl, rfl, rfl⟩, fun i slot hi => ?_, fun slot hslot => ?_,
      fun b hb => ?_, rfl, fun ga hga => ?_⟩
    · rw [State.block, harr, if_pos rfl]
      exact Tab.get_put_self ..
    · rw [State.group, harr, if_pos rfl]
      exact (congrArg (Tab.get · slot) (s.acceptedArr_groups a.val k bs slots units)).trans (putGroups_of_mem hnodup (mem_numbered hi))
    · rw [State.group, harr, if_pos rfl]
      refine (congrArg (Tab.get · slot) (s.acceptedArr_groups a.val k bs slots units)).trans (putGroups_other fun e he hej => hslot ?_)
      rw [← numbered_snd slots, ← hej]
      exact List.mem_map_of_mem he
    · rw [State.block, harr, if_pos rfl]
      exact Tab.get_put_other _ _ _ _ hb
    · rw [harr, if_neg hga]
  · have hclean := s.cleanSplit_arr a.val k.part n.val
    dsimp only
    rw [State.arr_setArr_self]
    exact ⟨rfl, hclean.lsBanks, hclean.localMem, fun key hkey => Arr.beginSplit_l1 _ _ (decide_eq_true hkey)⟩
  · have harr : ∀ j, ((s.setArr a.val ((s.arr a.val).endSplit n)).atBase (s.arrayBase a.val) (fun s b => s.setBit (Reg.arrStatus b) 4)).arr j =
        if j = a.val then (s.arr a.val).endSplit n else s.arr j := fun j => by
      rw [State.atBase_setBit_frame]
      exact State.arr_setArr ..
    refine ⟨?_, ?_, ?_, fun ga hga => ?_, ?_, fun b hb => ?_⟩
    · rw [harr, if_pos rfl]; rfl
    · rw [harr, if_pos rfl]; rfl
    · rw [harr, if_pos rfl]; rfl
    · rw [harr, if_neg hga]
    · rw [State.atBase_setBit_frame]
      rfl
    · rw [hb]
      exact ⟨State.bit_setBit_self _ _ _ (by decide), fun r hr => State.reg_setBit_other _ _ _ _ (mt List.mem_singleton.mpr hr),
        State.setBit_fieldOnly (s.setArr a.val ((s.arr a.val).endSplit n)) _ _ (by decide)⟩
  · obtain ⟨x, y, hframe⟩ := startGroup_frame k bs index blockIndex orders
    have hureg := startGroup_ureg k bs index blockIndex orders
    refine ⟨startGroup_treg k bs index blockIndex orders, hureg 0, hureg 1, hureg 2, hureg 3, hureg 4, hureg 5, fun r hr => ?_,
      fun i p => ?_, ?_, ?_, ?_, startGroup_standsAt k bs index blockIndex orders⟩
    · rw [hureg, if_neg (by omega), if_neg (by omega), if_neg (by omega), if_neg (by omega), if_neg (by omega), if_neg (by omega)]
    · rw [hframe]
      exact BitVec.getLsbD_zero
    · rw [hframe]; rfl
    · rw [hframe]; rfl
    · rw [hframe]
      exact k.absentLanes_iff index

end
end

section
/-! SUPPORT. What a source reads, and integers as bit vectors of a width (R132, R137, R141). -/

namespace Sys2Proof.Machine

/-! What a source reads. -/

theorem Group.twords_lt (g : Group) (i r n : Nat) : g.twords i r n < 2 ^ (32 * n) := by
  induction n generalizing r with
  | zero => exact Nat.one_pos
  | succ n ih =>
    have hword := (g.treg i r).isLt
    have hrest := ih (r + 1)
    rw [Group.twords, Nat.mul_succ, Nat.pow_add]
    omega

theorem Group.uwords_lt (g : Group) (r n : Nat) : g.uwords r n < 2 ^ (32 * n) := by
  induction n generalizing r with
  | zero => exact Nat.one_pos
  | succ n ih =>
    have hword := (g.ureg r).isLt
    have hrest := ih (r + 1)
    rw [Group.uwords, Nat.mul_succ, Nat.pow_add]
    omega

theorem Desc.read_lt (d : Desc) (w : Fields) (g : Group) (k n i e : Nat) : d.read w g k n i e < 2 ^ (32 * n) := by
  unfold Desc.read
  split
  · exact g.twords_lt i _ n
  · exact g.uwords_lt _ n
  · exact Nat.mod_lt _ (Nat.two_pow_pos _)
  · exact Nat.two_pow_pos _

/-- An operand is the number its source reads. -/
@[simp] theorem operand_toNat (n : Nat) (d : Desc) (w : Fields) (g : Group) (j i e : Nat) : (operand n d w g j i e).toNat = d.read w g j n i e :=
  Nat.mod_eq_of_lt (d.read_lt w g j n i e)

theorem intWords_pos (w : Fields) : 0 < intWords w := by
  unfold intWords
  split <;> decide

/-! Integers as bits. -/

/-- The integer that the bits of an element stand for. -/
def bitsInt (sg : Bool) {n : Nat} (x : BitVec n) : Int := if sg then x.toInt else x.toNat

theorem ofInt_bitsInt (sg : Bool) {n : Nat} (x : BitVec n) : BitVec.ofInt n (bitsInt sg x) = x := by
  unfold bitsInt
  split
  · exact BitVec.ofInt_toInt
  · rw [BitVec.ofInt_natCast, BitVec.ofNat_toNat, BitVec.setWidth_eq]

theorem bitsInt_eq_zero {sg : Bool} {n : Nat} {x : BitVec n} : bitsInt sg x = 0 ↔ x = 0 := by
  refine ⟨fun h => ?_, ?_⟩
  · rw [← ofInt_bitsInt sg x, h]
    exact BitVec.ofInt_ofNat n 0
  · rintro rfl
    unfold bitsInt
    split <;> simp

theorem bitsInt_lt {sg : Bool} {n : Nat} (x y : BitVec n) : bitsInt sg x < bitsInt sg y ↔ (if sg then x.slt y else x.ult y) = true := by
  unfold bitsInt
  cases sg
  · simp [BitVec.ult_eq_decide]
  · simp [BitVec.slt_iff_toInt_lt]

theorem readInt_toNat (sg : Bool) {n : Nat} (x : BitVec n) : readInt n sg x.toNat = bitsInt sg x := by
  unfold readInt bitsInt
  rw [Nat.mod_eq_of_lt x.isLt]
  cases sg
  · simp
  · cases n with
    | zero => simp [BitVec.of_length_zero]
    | succ n =>
      simp only [true_and, if_true, Nat.add_sub_cancel, BitVec.toInt_eq_toNat_cond, Nat.pow_succ]
      split_ifs <;> omega

/-- Only the bits of its width count in the integer that a number stands for. -/
theorem readInt_mod_two_pow (n : Nat) (sg : Bool) (x : Nat) : readInt n sg (x % 2 ^ n) = readInt n sg x := by
  unfold readInt
  rw [Nat.mod_mod]

theorem wrapInt_eq (n : Nat) (x : Int) : wrapInt n x = (BitVec.ofInt n x).toNat := (BitVec.toNat_ofInt x).symm

theorem ofInt_sub (n : Nat) (x y : Int) : BitVec.ofInt n (x - y) = BitVec.ofInt n x - BitVec.ofInt n y := by
  rw [Int.sub_eq_add_neg, BitVec.ofInt_add, BitVec.ofInt_neg, BitVec.sub_eq_add_neg]

theorem ofInt_tdiv {sg : Bool} {n : Nat} (x y : BitVec n) :
    BitVec.ofInt n ((bitsInt sg x).tdiv (bitsInt sg y)) = if sg then x.sdiv y else x / y := by
  unfold bitsInt
  cases sg
  · simp only [Bool.false_eq_true, if_false, ← Int.ofNat_tdiv, BitVec.ofInt_natCast]
    rw [← BitVec.toNat_udiv, BitVec.ofNat_toNat, BitVec.setWidth_eq]
  · refine BitVec.eq_of_toInt_eq ?_
    simp only [if_true, BitVec.toInt_ofInt, BitVec.toInt_sdiv]

theorem ofInt_tmod {sg : Bool} {n : Nat} (x y : BitVec n) :
    BitVec.ofInt n ((bitsInt sg x).tmod (bitsInt sg y)) = if sg then x.srem y else x % y := by
  unfold bitsInt
  cases sg
  · simp only [Bool.false_eq_true, if_false, ← Int.ofNat_tmod, BitVec.ofInt_natCast]
    rw [← BitVec.toNat_umod, BitVec.ofNat_toNat, BitVec.setWidth_eq]
  · simp only [if_true, ← BitVec.toInt_srem, BitVec.ofInt_toInt]

/-- The upper half of a number of twice the width. -/
theorem setWidth_ofInt_ushiftRight (n : Nat) (p : Int) : (BitVec.ofInt (2 * n) p >>> n).setWidth n = BitVec.ofInt n (p / (2 ^ n : Nat)) := by
  refine BitVec.eq_of_toNat_eq (Int.ofNat_inj.mp ?_)
  have hpos : ((2 ^ n : Nat) : Int) ≠ 0 := by positivity
  have hsplit : ((2 ^ (2 * n) : Nat) : Int) = (2 ^ n : Nat) * (2 ^ n : Nat) := by rw [Nat.two_mul, Nat.pow_add, Nat.cast_mul]
  simp only [BitVec.toNat_setWidth, BitVec.toNat_ushiftRight, BitVec.toNat_ofInt, Nat.shiftRight_eq_div_pow, Int.natCast_emod, Int.natCast_ediv]
  rw [Int.toNat_of_nonneg (Int.emod_nonneg _ (by rw [hsplit]; positivity)), Int.toNat_of_nonneg (Int.emod_nonneg _ hpos), hsplit,
    Int.emod_def p, Int.mul_assoc, Int.sub_eq_add_neg, ← Int.mul_neg, Int.add_mul_ediv_left _ _ hpos, ← Int.mul_neg, Int.add_mul_emod_self_left]

theorem ofInt_mulHi {sg : Bool} {n : Nat} (x y : BitVec n) : BitVec.ofInt n (bitsInt sg x * bitsInt sg y / (2 ^ n : Nat)) =
    (if sg then ((x.signExtend (2 * n) * y.signExtend (2 * n)) >>> n).setWidth n
    else ((x.setWidth (2 * n) * y.setWidth (2 * n)) >>> n).setWidth n) := by
  rw [← setWidth_ofInt_ushiftRight, BitVec.ofInt_mul]
  unfold bitsInt
  cases sg
  · simp only [Bool.false_eq_true, if_false, BitVec.ofInt_natCast, BitVec.ofNat_toNat]
  · rfl

theorem ofInt_natAbs {sg : Bool} {n : Nat} (x : BitVec n) : BitVec.ofInt n (bitsInt sg x).natAbs = if sg && x.msb then -x else x := by
  have hsign : bitsInt sg x < 0 ↔ (sg && x.msb) = true := by
    unfold bitsInt
    cases sg
    · simp
    · simp [BitVec.msb_eq_toInt]
  split
  · next h => rw [Int.ofNat_natAbs_of_nonpos (Int.le_of_lt (hsign.mpr h)), BitVec.ofInt_neg, ofInt_bitsInt]
  · next h => rw [Int.natAbs_of_nonneg (Int.not_lt.mp (mt hsign.mp h)), ofInt_bitsInt]

/-- A value of fewer bits widened by its own sign or by zeros. -/
theorem ofInt_bitsInt_extend {sg : Bool} {m : Nat} (n : Nat) (x : BitVec m) :
    BitVec.ofInt n (bitsInt sg x) = if sg then x.signExtend n else x.setWidth n := by
  unfold bitsInt
  cases sg
  · simp only [Bool.false_eq_true, if_false, BitVec.ofInt_natCast, BitVec.ofNat_toNat]
  · rfl

theorem intMin_eq (n : Nat) (sg : Bool) : intMin n sg = if sg then -(2 ^ (n - 1)) else 0 := by
  unfold intMin
  push_cast
  rfl

theorem intMax_eq (n : Nat) (sg : Bool) : intMax n sg = if sg then 2 ^ (n - 1) - 1 else 2 ^ n - 1 := by
  unfold intMax
  push_cast
  rfl

end Sys2Proof.Machine
end

section
/-! SUPPORT. The integer operations on the bits of their elements, and an integer instruction by its operation (R137, R141, R673). -/

namespace Sys2Proof.Machine

/-- In words that meet a condition, an operation on the numbers of elements is an operation on their bits. -/
def ElementsAre (P : Fields → Prop) (f : Fields → Nat → Nat → Nat → Nat)
    (r : (w : Fields) → BitVec (32 * intWords w) → BitVec (32 * intWords w) → BitVec (32 * intWords w) → BitVec (32 * intWords w)) : Prop :=
  ∀ w x y z, P w → f w x.toNat y.toNat z.toNat = (r w x y z).toNat

/-- The same for an operation of the type of a word, without saturation. -/
def PlainIs (f : Fields → Nat → Nat → Nat → Nat) (r : Bool → (n : Nat) → BitVec n → BitVec n → BitVec n → BitVec n) : Prop :=
  ElementsAre (fun w => w.mod.toNat < 16) f (fun w => r (intSigned w) (32 * intWords w))

theorem intRead_toNat (w : Fields) (x : BitVec (32 * intWords w)) : intRead w x.toNat = bitsInt (intSigned w) x :=
  readInt_toNat (intSigned w) x

theorem intWrap_eq (w : Fields) (i : Int) : wrapInt (intBits w) i = (BitVec.ofInt (32 * intWords w) i).toNat := wrapInt_eq _ i

/-! Arithmetic (R137). -/

theorem intFit_plain {w : Fields} (h : w.mod.toNat < 16) (i : Int) : intFit w i = (BitVec.ofInt (32 * intWords w) i).toNat := by
  rw [intFit, if_neg (Nat.not_le.mpr h), intWrap_eq]

theorem addElem_is : PlainIs addElem (fun _ _ x y _ => x + y) := fun w x y z h => by
  rw [addElem, intFit_plain h, intRead_toNat, intRead_toNat, BitVec.ofInt_add, ofInt_bitsInt, ofInt_bitsInt]

theorem subElem_is : PlainIs subElem (fun _ _ x y _ => x - y) := fun w x y z h => by
  rw [subElem, intFit_plain h, intRead_toNat, intRead_toNat, ofInt_sub, ofInt_bitsInt, ofInt_bitsInt]

theorem mulLoElem_is : PlainIs mulLoElem (fun _ _ x y _ => x * y) := fun w x y z _ => by
  rw [mulLoElem, intWrap_eq, intRead_toNat, intRead_toNat, BitVec.ofInt_mul, ofInt_bitsInt, ofInt_bitsInt]

theorem mulHiElem_is : PlainIs mulHiElem (fun sg n x y _ =>
    if sg then ((x.signExtend (2 * n) * y.signExtend (2 * n)) >>> n).setWidth n
    else ((x.setWidth (2 * n) * y.setWidth (2 * n)) >>> n).setWidth n) := fun w x y z _ => by
  rw [mulHiElem, intWrap_eq, intRead_toNat, intRead_toNat]
  exact congrArg BitVec.toNat (ofInt_mulHi x y)

theorem madLoElem_is : PlainIs madLoElem (fun _ _ x y z => x * y + z) := fun w x y z _ => by
  rw [madLoElem, intWrap_eq, intRead_toNat, intRead_toNat, intRead_toNat, BitVec.ofInt_add, BitVec.ofInt_mul, ofInt_bitsInt, ofInt_bitsInt,
    ofInt_bitsInt]

theorem divElem_is :
    PlainIs divElem (fun sg n x y _ => if y = 0 then BitVec.allOnes n else if sg then x.sdiv y else x / y) := fun w x y z _ => by
  rw [divElem, intRead_toNat, intRead_toNat, intWrap_eq, ofInt_tdiv, apply_ite BitVec.toNat (y = 0), BitVec.toNat_allOnes]
  exact if_congr bitsInt_eq_zero rfl rfl

theorem remElem_is : PlainIs remElem (fun sg _ x y _ => if y = 0 then x else if sg then x.srem y else x % y) := fun w x y z _ => by
  rw [remElem, intRead_toNat, intRead_toNat, intWrap_eq, ofInt_tmod, apply_ite BitVec.toNat (y = 0)]
  exact if_congr bitsInt_eq_zero rfl rfl

theorem minElem_is : PlainIs minElem (fun sg _ x y _ => if (if sg then y.slt x else y.ult x) then y else x) := fun w x y z _ => by
  rw [minElem, intRead_toNat, intRead_toNat, apply_ite BitVec.toNat]
  exact if_congr (bitsInt_lt y x) rfl rfl

theorem maxElem_is : PlainIs maxElem (fun sg _ x y _ => if (if sg then x.slt y else x.ult y) then y else x) := fun w x y z _ => by
  rw [maxElem, intRead_toNat, intRead_toNat, apply_ite BitVec.toNat]
  exact if_congr (bitsInt_lt x y) rfl rfl

theorem absElem_is : PlainIs absElem (fun sg _ x _ _ => if sg && x.msb then -x else x) := fun w x y z _ => by
  rw [absElem, intRead_toNat, intWrap_eq, ofInt_natAbs]

theorem negElem_is : PlainIs negElem (fun _ _ x _ _ => -x) := fun w x y z _ => by
  rw [negElem, intRead_toNat, intWrap_eq, BitVec.ofInt_neg, ofInt_bitsInt]

/-- What saturation leaves of a sum or difference of two elements. -/
def saturated (op : Int → Int → Int) (w : Fields) (x y : BitVec (32 * intWords w)) : BitVec (32 * intWords w) :=
  let n := 32 * intWords w
  let lo : Int := if intSigned w then -(2 ^ (n - 1)) else 0
  let hi : Int := if intSigned w then 2 ^ (n - 1) - 1 else 2 ^ n - 1
  BitVec.ofInt n (max lo (min hi (op (bitsInt (intSigned w) x) (bitsInt (intSigned w) y))))

theorem intFit_saturated {op : Int → Int → Int} {w : Fields} (h : 16 ≤ w.mod.toNat) (x y : BitVec (32 * intWords w)) :
    intFit w (op (intRead w x.toNat) (intRead w y.toNat)) = (saturated op w x y).toNat := by
  rw [intFit, if_pos h, intWrap_eq, intMin_eq, intMax_eq, intRead_toNat, intRead_toNat]
  rfl

theorem addElem_saturated : ElementsAre (fun w => 16 ≤ w.mod.toNat) addElem (fun w x y _ => saturated (fun i j => i + j) w x y) :=
  fun _ x y _ h => intFit_saturated h x y

theorem subElem_saturated : ElementsAre (fun w => 16 ≤ w.mod.toNat) subElem (fun w x y _ => saturated (fun i j => i - j) w x y) :=
  fun _ x y _ h => intFit_saturated h x y

/-! Logic, shifts and counts (R673). -/

theorem andElem_is : PlainIs andElem (fun _ _ x y _ => x &&& y) := fun _ x y _ _ => (BitVec.toNat_and x y).symm

theorem orElem_is : PlainIs orElem (fun _ _ x y _ => x ||| y) := fun _ x y _ _ => (BitVec.toNat_or x y).symm

theorem xorElem_is : PlainIs xorElem (fun _ _ x y _ => x ^^^ y) := fun _ x y _ _ => (BitVec.toNat_xor x y).symm

theorem notElem_is : PlainIs notElem (fun _ _ x _ _ => ~~~x) := fun _ _ _ _ _ => BitVec.toNat_not.symm

theorem shlElem_is : PlainIs shlElem (fun _ _ x y _ => x <<< y.toNat) := fun w x y z _ => by
  rw [shlElem, BitVec.toNat_shiftLeft, Nat.shiftLeft_eq]
  split
  · next h => exact (Nat.mod_eq_zero_of_dvd (Dvd.dvd.mul_left (Nat.pow_dvd_pow 2 h) _)).symm
  · rfl

theorem shrElem_is : PlainIs shrElem (fun _ _ x y _ => x >>> y.toNat) := fun w x y z _ => by
  rw [shrElem, BitVec.toNat_ushiftRight, Nat.shiftRight_eq_div_pow]
  split
  · next h => exact (Nat.div_eq_of_lt (x.isLt.trans_le (Nat.pow_le_pow_right Nat.two_pos h))).symm
  · rfl

/-- A shift by the width or more leaves the sign alone. -/
theorem toInt_div_two_pow {n : Nat} (hn : 0 < n) (x : BitVec n) {k : Nat} (hk : n ≤ k) :
    x.toInt / (2 ^ (n - 1) : Nat) = x.toInt / (2 ^ k : Nat) := by
  obtain ⟨m, rfl⟩ : ∃ m, n = m + 1 := ⟨n - 1, by omega⟩
  have hle : (2 : Int) ^ m ≤ 2 ^ k := pow_le_pow_right₀ (by decide) (by omega)
  have hlt := BitVec.two_mul_toInt_lt (x := x)
  have hge := BitVec.le_two_mul_toInt (x := x)
  rw [pow_succ] at hlt hge
  rw [Nat.add_sub_cancel, Nat.cast_pow, Nat.cast_pow, Nat.cast_ofNat]
  rcases Int.lt_or_le x.toInt 0 with h | h
  · rw [Int.ediv_eq_neg_one_of_neg_of_le h (by omega), Int.ediv_eq_neg_one_of_neg_of_le h (by omega)]
  · rw [Int.ediv_eq_zero_of_lt h (by omega), Int.ediv_eq_zero_of_lt h (by omega)]

theorem sarElem_is : PlainIs sarElem (fun _ _ x y _ => x.sshiftRight y.toNat) := fun w x y z _ => by
  dsimp only
  rw [sarElem, intWrap_eq, BitVec.sshiftRight_eq, Int.shiftRight_eq_div_pow, show readInt (intBits w) true x.toNat = x.toInt from readInt_toNat true x]
  congr 2
  split
  · next h => exact toInt_div_two_pow (Nat.mul_pos (by decide) (intWords_pos w)) x h
  · rfl

theorem popcElem_is : PlainIs popcElem (fun _ n x _ _ => BitVec.ofNat n ((List.range n).countP x.getLsbD)) := fun w x y z _ => by
  rw [BitVec.toNat_ofNat, Nat.mod_eq_of_lt, List.countP_eq_length_filter]
  · rfl
  · exact (List.countP_le_length.trans_eq List.length_range).trans_lt Nat.lt_two_pow_self

/-- The place of the most significant bit, from the count of zeros above it. -/
theorem log2_of_clz {n : Nat} {x : BitVec n} (h : x.toNat ≠ 0) : x.clz.toNat < n ∧ Nat.log2 x.toNat = n - 1 - x.clz.toNat := by
  have hn : 0 < n := Nat.pos_of_ne_zero fun e => h (by subst e; exact congrArg BitVec.toNat BitVec.of_length_zero)
  have hx : x ≠ 0#n := fun e => h (by rw [e]; exact BitVec.toNat_zero)
  have hlt := BitVec.toNat_lt_two_pow_sub_clz (x := x)
  have hge : 2 ^ (n - 1 - x.clz.toNat) ≤ x.toNat := Nat.ge_two_pow_of_testBit (BitVec.getLsbD_true_clz_of_ne_zero hn hx)
  have hclz : x.clz.toNat < n := by
    by_contra hc
    rw [Nat.sub_eq_zero_of_le (Nat.not_lt.mp hc)] at hlt
    omega
  exact ⟨hclz, (Nat.log2_eq_iff h).mpr ⟨hge, hlt.trans_eq (congrArg _ (by omega))⟩⟩

theorem clzElem_is : PlainIs clzElem (fun _ _ x _ _ => x.clz) := fun w x y z _ => by
  dsimp only [clzElem]
  split
  · next h =>
    rw [BitVec.clz_eq_iff_eq_zero.mpr (BitVec.eq_of_toNat_eq h)]
    exact (Nat.mod_eq_of_lt Nat.lt_two_pow_self).symm
  · next h =>
    obtain ⟨hclz, hlog⟩ := log2_of_clz h
    rw [msb, hlog, intBits]
    omega

/-- Bits collected from the lowest, each below what came before it, stand in reverse order. -/
theorem testBit_foldl_bits (f : Nat → Bool) (n j : Nat) :
    ((List.range n).foldl (fun acc i => 2 * acc + (if f i then 1 else 0)) 0).testBit j = (decide (j < n) && f (n - 1 - j)) := by
  induction n generalizing j with
  | zero => simp
  | succ n ih =>
    rw [List.range_succ, List.foldl_append, List.foldl_cons, List.foldl_nil]
    cases j with
    | zero => cases h : f n <;> simp [h]
    | succ j =>
      have hhalf : ∀ a : Nat, (2 * a + if f n then 1 else 0) / 2 = a := fun a => by split <;> omega
      rw [Nat.testBit_succ, hhalf, ih]
      simp [Nat.sub_sub, Nat.add_comm 1]

theorem brevElem_is : PlainIs brevElem (fun _ _ x _ _ => x.reverse) := fun w x y z _ => by
  refine Nat.eq_of_testBit_eq fun j => ?_
  rw [brevElem, testBit_foldl_bits, BitVec.testBit_toNat x.reverse, BitVec.getLsbD_reverse, BitVec.getMsbD]
  rfl

/-! Fields (R673). -/

theorem bfeElem_is : PlainIs bfeElem (fun sg n x y _ =>
    let len := min (y.toNat / 256 % 256) (n - y.toNat % 256)
    let f := x.extractLsb' (y.toNat % 256) len
    if len = 0 then 0 else if sg then f.signExtend n else f.setWidth n) := fun w x y z _ => by
  dsimp only
  rw [apply_ite BitVec.toNat, ← ofInt_bitsInt_extend, ← intWrap_eq, ← readInt_toNat, BitVec.extractLsb'_toNat, Nat.shiftRight_eq_div_pow,
    readInt_mod_two_pow]
  rfl

/-- A field put into a number, as bits: those of the field from one, the others from the other. -/
theorem withBits_toNat {n pos len : Nat} (z x : BitVec n) (h : len ≤ n - pos) : let m := (BitVec.allOnes len).setWidth n <<< pos
    withBits z.toNat pos len x.toNat = ((z &&& ~~~m) ||| (x <<< pos &&& m)).toNat := by
  intro m
  have hm : ∀ i, m.getLsbD i = decide (pos ≤ i ∧ i < pos + len) := fun i => by
    rw [Bool.eq_iff_iff, decide_eq_true_iff]
    simp only [m, BitVec.getLsbD_shiftLeft, BitVec.getLsbD_setWidth, BitVec.getLsbD_allOnes, Bool.and_eq_true, Bool.not_eq_true',
      decide_eq_false_iff_not, decide_eq_true_eq]
    omega
  refine Nat.eq_of_testBit_eq fun i => ?_
  rw [testBit_withBits, BitVec.testBit_toNat, BitVec.testBit_toNat, BitVec.testBit_toNat, BitVec.getLsbD_or, BitVec.getLsbD_and, BitVec.getLsbD_and,
    BitVec.getLsbD_not, hm, BitVec.getLsbD_shiftLeft]
  by_cases hin : pos ≤ i ∧ i < pos + len
  · have hi : i < n := by omega
    simp [-BitVec.getLsbD_eq_getElem, hin, hi, Nat.not_lt.mpr hin.1]
  · rw [if_neg hin, decide_eq_false hin]
    by_cases hi : i < n
    · simp [-BitVec.getLsbD_eq_getElem, hi]
    · simp [BitVec.getLsbD_of_ge _ _ (Nat.not_lt.mp hi)]

/-- A field of no bits leaves the number. -/
theorem withBits_zero (x lo v : Nat) : withBits x lo 0 v = x := by
  simp [withBits, bitsOf, Nat.mod_one]

theorem bfiElem_is : PlainIs bfiElem (fun _ n x y z =>
    let len := min (y.toNat / 256 % 256) (n - y.toNat % 256)
    let m := (BitVec.allOnes len).setWidth n <<< (y.toNat % 256)
    (z &&& ~~~m) ||| (x <<< (y.toNat % 256) &&& m)) := fun w x y z _ => by
  dsimp only
  rw [← withBits_toNat z x (Nat.min_le_right ..)]
  unfold bfiElem fieldOf
  dsimp only
  split
  · next h =>
    have hlen : min (y.toNat / 256 % 256) (32 * intWords w - y.toNat % 256) = 0 := h
    rw [hlen, withBits_zero]
  · rfl

theorem movElem_is : PlainIs movElem (fun _ _ x _ _ => x) := fun _ _ _ _ _ => rfl

/-! An integer instruction by its operation. -/

/-- An integer instruction writes at D what its operation makes of the elements of A, B and C. -/
theorem intSem_computes {op n : Nat} {sat : Bool} {f : Fields → Nat → Nat → Nat → Nat} {ins : GRef → Fields → Instr} {P : Fields → Prop}
    {r : (w : Fields) → BitVec (32 * intWords w) → BitVec (32 * intWords w) → BitVec (32 * intWords w) → BitVec (32 * intWords w)}
    (hr : ElementsAre P f r) (hx : ∀ g w s, exec (ins g w) s = next ((intSem op n sat f).issue g w s)) :
    Computes ins (intSem op n sat f) (fun w c d x => P w → WritesElements c.grp x w c.act (vecWidth w) (intWords w) (fun i k =>
      r w (operand (intWords w) d w c.grp 0 i k) (operand (intWords w) d w c.grp 1 i k) (operand (intWords w) d w c.grp 2 i k))) := by
  refine Sem.regs_elements (v := fun c d w i k =>
      f w (d.read w c.grp 0 (intWords w) i k) (d.read w c.grp 1 (intWords w) i k) (d.read w c.grp 2 (intWords w) i k))
    (fun _ _ _ => rfl) hx (fun c w d hd => ?_) intWords_pos (fun w c d x _ h hP => writesD_congr h fun i k _ => ?_)
  · have hdesc : intDesc n sat w = some d := hd
    simp only [hdesc, Option.getD_some, Ctx.advance_read, Ctx.advance_act]
  · have he := hr w (operand _ d w c.grp 0 i (k / intWords w)) (operand _ d w c.grp 1 i (k / intWords w))
      (operand _ d w c.grp 2 i (k / intWords w)) hP
    rw [operand_toNat, operand_toNat, operand_toNat] at he
    dsimp only
    rw [he, Nat.mod_eq_of_lt (BitVec.isLt _)]

end Sys2Proof.Machine

section

open Sys2Proof Sys2Proof.Machine

/-- Settles O1: an integer and the bits that stand for it agree modulo the width, so that each operation on integers is one on bits. -/
theorem integerArithmetic : Obligations.IntegerArithmetic := by
  constructor
  · refine List.forall_mem_cons.mpr ⟨intSem_computes addElem_is fun _ _ _ => rfl, ?_⟩
    refine List.forall_mem_cons.mpr ⟨intSem_computes subElem_is fun _ _ _ => rfl, ?_⟩
    refine List.forall_mem_cons.mpr ⟨intSem_computes mulLoElem_is fun _ _ _ => rfl, ?_⟩
    refine List.forall_mem_cons.mpr ⟨intSem_computes mulHiElem_is fun _ _ _ => rfl, ?_⟩
    refine List.forall_mem_cons.mpr ⟨intSem_computes madLoElem_is fun _ _ _ => rfl, ?_⟩
    refine List.forall_mem_cons.mpr ⟨intSem_computes divElem_is fun _ _ _ => rfl, ?_⟩
    refine List.forall_mem_cons.mpr ⟨intSem_computes remElem_is fun _ _ _ => rfl, ?_⟩
    refine List.forall_mem_cons.mpr ⟨intSem_computes minElem_is fun _ _ _ => rfl, ?_⟩
    refine List.forall_mem_cons.mpr ⟨intSem_computes maxElem_is fun _ _ _ => rfl, ?_⟩
    refine List.forall_mem_cons.mpr ⟨intSem_computes absElem_is fun _ _ _ => rfl, ?_⟩
    refine List.forall_mem_cons.mpr ⟨intSem_computes negElem_is fun _ _ _ => rfl, ?_⟩
    exact fun _ h => absurd h List.not_mem_nil
  · refine List.forall_mem_cons.mpr ⟨intSem_computes addElem_saturated fun _ _ _ => rfl, ?_⟩
    refine List.forall_mem_cons.mpr ⟨intSem_computes subElem_saturated fun _ _ _ => rfl, ?_⟩
    exact fun _ h => absurd h List.not_mem_nil

/-- Settles O2: each bitwise operation, shift, count and field is the same on the number of an element as on its bits. -/
theorem integerLogic : Obligations.IntegerLogic := by
  refine List.forall_mem_cons.mpr ⟨intSem_computes andElem_is fun _ _ _ => rfl, ?_⟩
  refine List.forall_mem_cons.mpr ⟨intSem_computes orElem_is fun _ _ _ => rfl, ?_⟩
  refine List.forall_mem_cons.mpr ⟨intSem_computes xorElem_is fun _ _ _ => rfl, ?_⟩
  refine List.forall_mem_cons.mpr ⟨intSem_computes notElem_is fun _ _ _ => rfl, ?_⟩
  refine List.forall_mem_cons.mpr ⟨intSem_computes shlElem_is fun _ _ _ => rfl, ?_⟩
  refine List.forall_mem_cons.mpr ⟨intSem_computes shrElem_is fun _ _ _ => rfl, ?_⟩
  refine List.forall_mem_cons.mpr ⟨intSem_computes sarElem_is fun _ _ _ => rfl, ?_⟩
  refine List.forall_mem_cons.mpr ⟨intSem_computes popcElem_is fun _ _ _ => rfl, ?_⟩
  refine List.forall_mem_cons.mpr ⟨intSem_computes clzElem_is fun _ _ _ => rfl, ?_⟩
  refine List.forall_mem_cons.mpr ⟨intSem_computes brevElem_is fun _ _ _ => rfl, ?_⟩
  refine List.forall_mem_cons.mpr ⟨intSem_computes bfeElem_is fun _ _ _ => rfl, ?_⟩
  refine List.forall_mem_cons.mpr ⟨intSem_computes bfiElem_is fun _ _ _ => rfl, ?_⟩
  refine List.forall_mem_cons.mpr ⟨intSem_computes movElem_is fun _ _ _ => rfl, ?_⟩
  exact fun _ h => absurd h List.not_mem_nil

end
end

section
/-! SUPPORT. An instruction on registers by what it writes: D, PD, or elements with their flags (R126, R135, R139). -/

namespace Sys2Proof.Machine

/-! The group an instruction leaves. -/

/-- A group that differs from another in its registers, predicates and flags alone. -/
def OnRegisters (g y : Group) : Prop := y = { g with tregs := y.tregs, uregs := y.uregs, preds := y.preds, fpflags := y.fpflags }

theorem writesD_onRegisters {g x : Group} {w : Fields} {act : BitVec 32} {n : Nat} {f : Nat → Nat → W32} (h : WritesD g x w act n f) :
    OnRegisters g x := by
  unfold OnRegisters
  rw [h.frame]

theorem writesPd_onRegisters {g x : Group} {w : Fields} {act : BitVec 32} {f : Nat → Bool} (h : WritesPd g x w act f) : OnRegisters g x := by
  unfold OnRegisters
  rw [h.frame]

theorem onRegisters_raiseFlags {g x : Group} (h : OnRegisters g x) (fl : FFlags) : OnRegisters g (x.raiseFlags fl) := by
  unfold OnRegisters Group.raiseFlags
  conv_lhs => rw [h]

/-- An issue whose effect leaves its group moved on, with its registers written. -/
theorem Sem.issue_onRegisters {m : Sem} {g : GRef} {w : Fields} {s e : State} {c : Ctx} {d : Desc} (h : Issues m g w s c d) {y : Group}
    (hp : m.perform s c w d = e) (hg : e.group c.ga c.slot = some y) (hy : OnRegisters (c.advance d).grp y) :
    MovedOn c (y.onto c.grp) y ∧ Issued e (m.issue g w s) c := by
  obtain ⟨⟨-, hstay⟩, hnext⟩ := c.advance_advanced (issues_sub_mem h) d
  have hsubs : y.subs = (c.advance d).grp.subs := by rw [hy]
  have hstands : ∀ i pc, StandsAt (c.advance d).grp i pc → StandsAt y i pc := fun i pc hs => by rwa [StandsAt, hsubs]
  refine ⟨⟨?_, fun i pc hi hs => hstands i pc (hstay i pc hi hs)⟩, hp ▸ Sem.issue_leaves h y (hp ▸ hg) ?_ ?_ fun i hi => hstands i _ (hnext i hi)⟩
  · rw [hy]; rfl
  · rw [hy]; rfl
  · rw [hy]; exact h.live

/-- An issue whose effect is on the registers of its group: nothing else changes. -/
theorem Sem.issue_registers {m : Sem} {g : GRef} {w : Fields} {s : State} {c : Ctx} {d : Desc} (h : Issues m g w s c d) {y : Group}
    (hp : m.perform s c w d = s.setGroup c.ga c.slot y) (hy : OnRegisters (c.advance d).grp y) :
    GroupIssue s (m.issue g w s) c (y.onto c.grp) :=
  ⟨y, Sem.issue_onRegisters h hp (State.group_setGroup_self ..) hy⟩

section
variable {m : Sem} {ins : GRef → Fields → Instr} {claim : Fields → Ctx → Desc → Group → Prop} {f : Ctx → Fields → Group}
  (hx : ∀ g w s, exec (ins g w) s = next (m.issue g w s)) (he : ∀ s c w, m.eff s c w = s.setGroup c.ga c.slot (f c w))
include hx he

/-- An instruction on registers, by the group it leaves. -/
theorem Sem.regs_computes (hy : ∀ c w d, m.desc w = some d →
    OnRegisters (c.advance d).grp (f (c.advance d) w) ∧ claim w c d ((f (c.advance d) w).onto c.grp)) : Computes ins m claim := by
  intro g w s c d h
  obtain ⟨hregs, hclaim⟩ := hy c w d (Sem.verdict_go h.go).2.1
  refine ⟨_, hx g w s, _, Sem.issue_registers h ?_ hregs, hclaim⟩
  rw [Sem.perform_eq, he]
  exact movedOn_setGroup s c d _

/-- An instruction that writes D. -/
theorem Sem.regs_writeD {n : Nat} {v : Ctx → Fields → Desc → Nat → Nat}
    (hf : ∀ (c : Ctx) w d, m.desc w = some d → f (c.advance d) w = (c.advance d).grp.writeD w c.act n (v c w d))
    (hc : ∀ w c d x, WritesD c.grp x w c.act n (fun i k => BitVec.ofNat 32 (v c w d i / 2 ^ (32 * k))) → claim w c d x) :
    Computes ins m claim := by
  refine Sem.regs_computes hx he fun c w d hd => ?_
  have hw := Group.writeD_writes (c.advance d).grp w c.act n (v c w d)
  rw [hf c w d hd]
  exact ⟨writesD_onRegisters hw, hc w c d _ (writesD_onto hw (c.advance_onto d))⟩

/-- An instruction that writes PD. -/
theorem Sem.regs_writePd {v : Ctx → Fields → Desc → Nat → Bool}
    (hf : ∀ (c : Ctx) w d, m.desc w = some d → f (c.advance d) w = (c.advance d).grp.writePd w c.act (v c w d))
    (hc : ∀ w c d x, WritesPd c.grp x w c.act (v c w d) → claim w c d x) : Computes ins m claim := by
  refine Sem.regs_computes hx he fun c w d hd => ?_
  have hw := Group.writePd_writes (c.advance d).grp w c.act (v c w d)
  rw [hf c w d hd]
  exact ⟨writesPd_onRegisters hw, hc w c d _ (writesPd_onto hw (c.advance_onto d))⟩

end

/-! Writes that agree where they are made. -/

theorem lowLane_mem {act : BitVec 32} (h : act ≠ 0) : lowLane act ∈ lanesOf act := by
  obtain ⟨i, hi⟩ : ∃ i, i ∈ lanesOf act := by
    by_contra hne
    refine h (BitVec.eq_of_getLsbD_eq fun i hi => ?_)
    rw [show (0 : BitVec 32).getLsbD i = false from BitVec.getLsbD_zero, ← Bool.not_eq_true]
    exact fun ht => hne ⟨i, (mem_lanesOf act i).mpr ⟨hi, ht⟩⟩
  unfold lowLane
  rw [List.headD_eq_head?_getD, List.head?_eq_some_head (List.ne_nil_of_mem hi)]
  exact List.head_mem _

/-- A register write whose words agree for the lanes that act. -/
theorem writesD_congr_lanes {g x : Group} {w : Fields} {act : BitVec 32} {n : Nat} {f f' : Nat → Nat → W32} (h : WritesD g x w act n f)
    (e : ∀ i k, i ∈ lanesOf act → k < n → f i k = f' i k) : WritesD g x w act n f' where
  frame := h.frame
  thread i hi r := by
    rw [h.thread i hi r]
    split
    · next hw => exact e i _ ((mem_lanesOf act i).mpr ⟨hi, hw.2.1⟩) (by omega)
    · rfl
  uniform r := by
    rw [h.uniform r]
    split
    · next hw => exact e _ _ (lowLane_mem hw.2.1) (by omega)
    · rfl

/-- One word written at D. -/
theorem writesD_one {g x : Group} {w : Fields} {act : BitVec 32} {f : Nat → Nat} (h : WritesD g x w act 1 (fun i k => BitVec.ofNat 32 (f i / 2 ^ (32 * k)))) :
    WritesD g x w act 1 (fun i _ => BitVec.ofNat 32 (f i)) :=
  writesD_congr h fun i k hk => by rw [Nat.lt_one_iff.mp hk, Nat.mul_zero, Nat.pow_zero, Nat.div_one]

/-- A pair written at D. -/
theorem writesD_pair {g x : Group} {w : Fields} {act : BitVec 32} {f : Nat → W64}
    (h : WritesD g x w act 2 (fun i k => BitVec.ofNat 32 ((f i).toNat / 2 ^ (32 * k)))) :
    WritesD g x w act 2 (fun i k => (f i >>> (32 * k)).setWidth 32) :=
  writesD_congr h fun i k _ => BitVec.eq_of_toNat_eq (by
    rw [BitVec.toNat_ofNat, BitVec.toNat_setWidth, BitVec.toNat_ushiftRight, Nat.shiftRight_eq_div_pow])

/-! Elements with their flags (R139). -/

/-- The flags that the lanes that act collect are those of their elements. -/
theorem foldl_flags_getLsbD (l : List Nat) (width : Nat) (f : Nat → Nat → FFlags) (z : FFlags) (b : Nat) :
    (l.foldl (fun acc i => (List.range width).foldl (fun acc e => acc ||| f i e) acc) z).getLsbD b = true ↔
      z.getLsbD b = true ∨ ∃ i ∈ l, ∃ k < width, (f i k).getLsbD b = true := by
  induction l generalizing z with
  | nil => simp
  | cons i l ih =>
    rw [List.foldl_cons, ih, foldl_or_getLsbD]
    simp only [List.mem_range, List.exists_mem_cons_iff, or_assoc]

/-- A group whose flags grew by those that the elements of the lanes that act collect. -/
theorem raisesFlags_raiseFlags {g y : Group} (act : BitVec 32) (width : Nat) {f : Nat → Nat → FFlags} {fl : FFlags} (hy : y.fpflags = g.fpflags)
    (hfl : ∀ b, fl.getLsbD b = true ↔ ∃ i ∈ lanesOf act, ∃ k < width, (f i k).getLsbD b = true) :
    RaisesFlags g ((y.raiseFlags fl).onto g) act width f := by
  intro b
  show (y.fpflags ||| fl).getLsbD b = true ↔ _
  rw [BitVec.getLsbD_or, Bool.or_eq_true, hfl, hy]
  simp only [Acts, mem_lanesOf, and_assoc, exists_and_left]

theorem raisesFlags_congr {g x : Group} {act : BitVec 32} {width : Nat} {f f' : Nat → Nat → FFlags} (h : RaisesFlags g x act width f)
    (e : ∀ i k, f i k = f' i k) : RaisesFlags g x act width f' :=
  (funext fun i => funext fun k => e i k : f = f') ▸ h

/-- Without the flags raised, the group is the one they were raised in. -/
theorem flagsOf_raiseFlags {g y : Group} (hy : y.fpflags = g.fpflags) (fl : FFlags) :
    Group.flagsOf ((y.raiseFlags fl).onto g) g = y.onto g := by
  show { (y.raiseFlags fl).onto g with fpflags := g.fpflags } = _
  rw [← hy]
  rfl

/-- The value of a vector operation with flags: its elements at D, and the flags they raise. -/
theorem Group.mapFlagged_writes (c : Ctx) (d : Desc) (w : Fields) (width n : Nat) (hn : 0 < n) (v : Nat → Nat → Nat × FFlags) :
    let y := (c.advance d).grp.mapFlagged w c.act width n v
    let x := y.onto c.grp
    OnRegisters (c.advance d).grp y ∧
      WritesElements c.grp (Group.flagsOf x c.grp) w c.act width n (fun i k => BitVec.ofNat (32 * n) (v i k).1) ∧
      RaisesFlags c.grp x c.act width (fun i k => (v i k).2) := by
  intro y x
  have hw := Group.mapElems_writes (c.advance d).grp w c.act width n hn (fun i k => (v i k).1)
  have hfl : Group.fpflags _ = c.grp.fpflags := (congrArg Group.fpflags hw.frame :).trans rfl
  refine ⟨onRegisters_raiseFlags (writesD_onRegisters hw) _, ?_, raisesFlags_raiseFlags c.act width hfl fun b => ?_⟩
  · have hx : Group.flagsOf x c.grp = _ := flagsOf_raiseFlags hfl _
    rw [hx]
    exact writesD_onto hw (c.advance_onto d)
  · rw [foldl_flags_getLsbD]
    simp

end Sys2Proof.Machine
end

section
/-! SUPPORT. Comparisons and predicates on the bits of elements (R673). -/

namespace Sys2Proof.Machine

theorem bitsInt_inj {sg : Bool} {n : Nat} {x y : BitVec n} : bitsInt sg x = bitsInt sg y ↔ x = y :=
  ⟨fun h => by rw [← ofInt_bitsInt sg x, h, ofInt_bitsInt], fun h => by rw [h]⟩

/-- The comparison of two elements that AUX names. -/
def compareBits (aux : Nat) (sg : Bool) {n : Nat} (a b : BitVec n) : Bool :=
  let lt := if sg then a.slt b else a.ult b
  match aux with
  | 0 => a == b
  | 1 => a != b
  | 2 => lt
  | 3 => lt || a == b
  | 4 => !(lt || a == b)
  | _ => !lt

theorem cmpCode_eq (aux : Nat) (sg : Bool) {n : Nat} (a b : BitVec n) : cmpCode aux (bitsInt sg a - bitsInt sg b) = compareBits aux sg a b := by
  have heq : (bitsInt sg a - bitsInt sg b = 0) ↔ a = b := Int.sub_eq_zero.trans bitsInt_inj
  have hlt : bitsInt sg a - bitsInt sg b < 0 ↔ (if sg then a.slt b else a.ult b) = true :=
    sub_neg.trans (bitsInt_lt a b)
  have hle : bitsInt sg a - bitsInt sg b ≤ 0 ↔ (if sg then a.slt b else a.ult b) = true ∨ a = b := by
    rw [← hlt, ← heq, Int.le_iff_lt_or_eq]
  match aux with
  | 0 => exact Bool.eq_iff_iff.mpr (by simpa [cmpCode, compareBits] using heq)
  | 1 => exact Bool.eq_iff_iff.mpr (by simpa [cmpCode, compareBits] using not_congr heq)
  | 2 => exact Bool.eq_iff_iff.mpr (by simpa [cmpCode, compareBits] using hlt)
  | 3 => exact Bool.eq_iff_iff.mpr (by simpa [cmpCode, compareBits] using hle)
  | 4 => exact Bool.eq_iff_iff.mpr (by simpa [cmpCode, compareBits] using not_congr hle)
  | _ + 5 => exact Bool.eq_iff_iff.mpr (by simpa [cmpCode, compareBits] using not_congr hlt)

@[simp] theorem Ctx.advance_pred (c : Ctx) (d : Desc) (i p : Nat) : (c.advance d).grp.pred i p = c.grp.pred i p := rfl

/-- What the comparison of an instruction reads of two elements. -/
theorem cmpCode_read (w : Fields) (d : Desc) (g : Group) (i : Nat) :
    cmpCode w.aux.toNat (intRead w (d.read w g 0 (intWords w) i 0) - intRead w (d.read w g 1 (intWords w) i 0)) =
      compareBits w.aux.toNat (intSigned w) (operand (intWords w) d w g 0 i 0) (operand (intWords w) d w g 1 i 0) := by
  rw [← cmpCode_eq, ← intRead_toNat, ← intRead_toNat, operand_toNat, operand_toNat]

/-- The operand that SELP takes for an element. -/
theorem selp_operand (b : Bool) (n : Nat) (d : Desc) (w : Fields) (g : Group) (i k : Nat) :
    (if b then operand n d w g 0 i k else operand n d w g 1 i k) =
      BitVec.ofNat (32 * n) (if b then d.read w g 0 n i k else d.read w g 1 n i k) := by
  cases b <;> rfl

end Sys2Proof.Machine

section

open Sys2Proof Sys2Proof.Machine

/-- Settles O3: a difference of integers compares as the bits that stand for them. -/
theorem comparisonsAndPredicates : Obligations.ComparisonsAndPredicates := by
  refine ⟨?_, ?_, ?_⟩
  · refine Sem.regs_writePd (v := fun c w d i => compareBits w.aux.toNat (intSigned w) (operand (intWords w) d w c.grp 0 i 0)
      (operand (intWords w) d w c.grp 1 i 0)) (fun _ _ _ => rfl) (fun _ _ _ => rfl) (fun c w d hd => ?_) (fun w c d x h => h)
    have hdesc : setpDesc w = some d := hd
    simp only [hdesc, Option.getD_some, Ctx.advance_read, Ctx.advance_act, cmpCode_read]
  · refine Sem.regs_elements (v := fun c d w i k => if c.grp.pred i w.c.toNat then d.read w c.grp 0 (intWords w) i k else d.read w c.grp 1 (intWords w) i k)
      (fun _ _ _ => rfl) (fun _ _ _ => rfl) (fun c w d hd => ?_) intWords_pos (fun w c d x _ h => writesD_congr h fun i k _ => ?_)
    · have hdesc : selpDesc w = some d := hd
      simp only [hdesc, Option.getD_some, Ctx.advance_read, Ctx.advance_act, Ctx.advance_pred]
    · dsimp only
      rw [selp_operand, BitVec.toNat_ofNat]
  · exact Sem.regs_writePd (fun _ _ _ => rfl) (fun _ _ _ => rfl) (fun _ _ _ _ => rfl) (fun w c d x h => h)

end
end

section
/-! SUPPORT. FP32 and packed operations by their elements (R138 to R142). -/

namespace Sys2Proof.Machine

/-- A claim that follows from another. -/
theorem computes_mono {ins : GRef → Fields → Instr} {m : Sem} {claim claim' : Fields → Ctx → Desc → Group → Prop} (h : Computes ins m claim)
    (hc : ∀ w c d x, claim w c d x → claim' w c d x) : Computes ins m claim' := fun g w s c d hi =>
  have ⟨t, ht, x, hx, hclaim⟩ := h g w s c d hi
  ⟨t, ht, x, hx, hc w c d x hclaim⟩

/-- A floating-point instruction writes at D what its operation makes of the elements of A, B and C, and raises their flags. -/
theorem fpSem_computes {op n : Nat} {rounds : Bool} {f r : Nat → Bool → Nat → Nat → Nat → Nat × FFlags} {ins : GRef → Fields → Instr}
    (hf : f = r) (hx : ∀ g w s, exec (ins g w) s = next ((fpSem op n rounds f).issue g w s)) :
    Computes ins (fpSem op n rounds f) (fun w c d x =>
      let el := fun i k => r w.aux.toNat (fpFtz w) (operand 1 d w c.grp 0 i k).toNat (operand 1 d w c.grp 1 i k).toNat
        (operand 1 d w c.grp 2 i k).toNat
      WritesElements c.grp (Group.flagsOf x c.grp) w c.act (fpWidth w) 1 (fun i k => BitVec.ofNat 32 (el i k).1) ∧
        RaisesFlags c.grp x c.act (fpWidth w) (fun i k => (el i k).2)) := by
  subst hf
  refine Sem.regs_computes hx (fun _ _ _ => rfl) fun c w d hd => ?_
  have hdesc : fpDesc n rounds w = some d := hd
  simp only [operand_toNat, hdesc, Option.getD_some, Ctx.advance_read, Ctx.advance_act]
  exact Group.mapFlagged_writes c d w (fpWidth w) 1 Nat.one_pos _

theorem absBits_eq : absBits = fun _ _ x _ _ => (x &&& 0x7FFFFFFF, 0) := by
  funext m z x y v
  rw [absBits, ← Nat.and_two_pow_sub_one_eq_mod]

/-! Results fit their format (R138). -/

/-- A format whose special encodings and largest finite value leave the sign bit free. -/
structure Fmt.Fits (f : Fmt) : Prop where
  nan : f.nanBits < f.signBit
  inf : f.infBits < f.signBit
  finite : f.maxFinite < f.signBit

theorem bf16_fits : bf16.Fits := by constructor <;> decide

theorem fp16_fits : fp16.Fits := by constructor <;> decide

theorem Fmt.signed_lt {f : Fmt} {bits : Nat} (hb : bits < f.signBit) (neg : Bool) : f.signed neg bits < 2 * f.signBit := by
  unfold Fmt.signed
  split <;> omega

section
variable {f : Fmt} (h : f.Fits)
include h

theorem Fmt.Fits.nan_lt : f.nanBits < 2 * f.signBit := by
  have := h.nan
  omega

theorem Fmt.Fits.zero_lt : 0 < f.signBit := Nat.zero_lt_of_lt h.nan

theorem Fmt.Fits.finish_lt (mode : Nat) (ftz sat lost neg : Bool) (r : Rounded) (hr : r.tooBig = decide (f.maxFinite < r.bits)) :
    (f.finish mode ftz sat lost neg r).1 < 2 * f.signBit := by
  unfold Fmt.finish
  split
  · refine Fmt.signed_lt ?_ neg
    split
    · exact h.inf
    · exact h.finite
  · next hbig =>
    split
    · exact Fmt.signed_lt h.zero_lt neg
    · refine Fmt.signed_lt (Nat.lt_of_le_of_lt ?_ h.finite) neg
      rw [hr, decide_eq_true_iff] at hbig
      exact Nat.not_lt.mp hbig

theorem Fmt.Fits.encode_lt (mode : Nat) (ftz neg : Bool) (m : Nat) (e : Int) (sticky : Bool) :
    (f.encode mode ftz neg m e sticky).1 < 2 * f.signBit := by
  unfold Fmt.encode
  split
  · exact Fmt.signed_lt h.zero_lt neg
  · refine h.finish_lt mode ftz false false neg _ ?_
    unfold Fmt.round
    split
    · rfl
    · rfl

theorem Fmt.Fits.add_lt (mode : Nat) (ftz : Bool) (x y : FVal) : (f.add mode ftz x y).1 < 2 * f.signBit := by
  unfold Fmt.add
  split
  · exact h.nan_lt
  · exact h.nan_lt
  · split
    · exact Fmt.signed_lt h.inf _
    · exact h.nan_lt
  · exact Fmt.signed_lt h.inf _
  · exact Fmt.signed_lt h.inf _
  · exact h.encode_lt ..

theorem Fmt.Fits.mul_lt (mode : Nat) (ftz : Bool) (x y : FVal) : (f.mul mode ftz x y).1 < 2 * f.signBit := by
  unfold Fmt.mul
  split
  · exact h.nan_lt
  · exact h.nan_lt
  · exact Fmt.signed_lt h.inf _
  · split
    · exact h.nan_lt
    · exact Fmt.signed_lt h.inf _
  · split
    · exact h.nan_lt
    · exact Fmt.signed_lt h.inf _
  · exact h.encode_lt ..

/-- A sum of infinities: the infinity of both, or the NaN where their signs differ. -/
theorem Fmt.Fits.infSum_lt (p : Prop) [Decidable p] (neg : Bool) :
    (if p then (f.signed neg f.infBits, (0 : FFlags)) else (f.nanBits, fInvalid)).1 < 2 * f.signBit := by
  split
  · exact Fmt.signed_lt h.inf _
  · exact h.nan_lt

theorem Fmt.Fits.fma_lt (mode : Nat) (ftz : Bool) (x y z : FVal) : (f.fma mode ftz x y z).1 < 2 * f.signBit := by
  unfold Fmt.fma
  split
  · exact h.nan_lt
  · split
    · exact h.nan_lt
    · split
      · exact h.encode_lt ..
      · exact Fmt.signed_lt h.inf _
      · exact h.infSum_lt ..
      · exact h.infSum_lt ..
      · exact h.infSum_lt ..
      · exact Fmt.signed_lt h.inf _
      · exact Fmt.signed_lt h.inf _
      · exact Fmt.signed_lt h.inf _
      · exact h.nan_lt

theorem Fmt.Fits.minMax_lt (isMax : Bool) (x y : FVal) : (f.minMax isMax x y).1 < 2 * f.signBit := by
  unfold Fmt.minMax Fmt.encodeExact
  dsimp only
  split
  · exact h.nan_lt
  · exact Fmt.signed_lt h.inf _
  · exact h.encode_lt ..

end

/-! Packed halves (R142). -/

/-- The halves of a packed result stand side by side when the lower fits its half. -/
theorem packed_bits {f : Nat → Bool → Nat → Nat → Nat → Nat × FFlags} (hf : ∀ m z x y v, (f m z x y v).1 < 2 ^ 16) (m : Nat) (z : Bool) (x y v : Nat) :
    BitVec.ofNat 32 (packed f m z x y v).1 = BitVec.ofNat 16 (f m z (x / 2 ^ 16) (y / 2 ^ 16) (v / 2 ^ 16)).1 ++
      BitVec.ofNat 16 (f m z (x % 2 ^ 16) (y % 2 ^ 16) (v % 2 ^ 16)).1 := by
  have hlo := hf m z (x % 2 ^ 16) (y % 2 ^ 16) (v % 2 ^ 16)
  refine BitVec.eq_of_toNat_eq ?_
  rw [BitVec.toNat_append, ← Nat.shiftLeft_add_eq_or_of_lt (BitVec.isLt _), Nat.shiftLeft_eq, BitVec.toNat_ofNat, BitVec.toNat_ofNat, BitVec.toNat_ofNat,
    packed]
  omega

/-- A packed instruction writes at D the operation on the low and on the high halves, and raises the flags of both. -/
theorem packed_computes {op n : Nat} {f r : Nat → Bool → Nat → Nat → Nat → Nat × FFlags} {ins : GRef → Fields → Instr}
    (hr : f = r) (hf : ∀ m z x y v, (f m z x y v).1 < 2 ^ 16) (hx : ∀ g w s, exec (ins g w) s = next ((fpSem op n true (packed f)).issue g w s)) :
    Computes ins (fpSem op n true (packed f)) (fun w c d x =>
      let a := fun j i k => (operand 1 d w c.grp j i k).toNat
      let lo := fun i k => r w.aux.toNat (fpFtz w) (a 0 i k % 2 ^ 16) (a 1 i k % 2 ^ 16) (a 2 i k % 2 ^ 16)
      let hi := fun i k => r w.aux.toNat (fpFtz w) (a 0 i k / 2 ^ 16) (a 1 i k / 2 ^ 16) (a 2 i k / 2 ^ 16)
      WritesElements c.grp (Group.flagsOf x c.grp) w c.act (fpWidth w) 1 (fun i k => BitVec.ofNat 16 (hi i k).1 ++ BitVec.ofNat 16 (lo i k).1) ∧
        RaisesFlags c.grp x c.act (fpWidth w) (fun i k => (lo i k).2 ||| (hi i k).2)) := by
  subst hr
  refine computes_mono (fpSem_computes rfl hx) fun w c d x h => ?_
  dsimp only at h ⊢
  simp only [packed_bits hf] at h
  exact h

end Sys2Proof.Machine

section

open Sys2Proof Sys2Proof.Machine

/-- Settles O4: each instruction maps its operation over its elements; ABS clears and NEG turns the sign bit. -/
theorem floatArithmetic : Obligations.FloatArithmetic := by
  iterate 6 refine List.forall_mem_cons.mpr ⟨fpSem_computes rfl fun _ _ _ => rfl, ?_⟩
  refine List.forall_mem_cons.mpr ⟨fpSem_computes absBits_eq fun _ _ _ => rfl, ?_⟩
  iterate 6 refine List.forall_mem_cons.mpr ⟨fpSem_computes rfl fun _ _ _ => rfl, ?_⟩
  exact fun _ h => absurd h List.not_mem_nil

/-- Settles O5: a result fits its half, so that the two halves of an element do not meet. -/
theorem packedArithmetic : Obligations.PackedArithmetic := by
  refine List.forall_mem_cons.mpr ⟨packed_computes rfl (fun _ _ _ _ _ => bf16_fits.add_lt ..) fun _ _ _ => rfl, ?_⟩
  refine List.forall_mem_cons.mpr ⟨packed_computes rfl (fun _ _ _ _ _ => bf16_fits.mul_lt ..) fun _ _ _ => rfl, ?_⟩
  refine List.forall_mem_cons.mpr ⟨packed_computes rfl (fun _ _ _ _ _ => bf16_fits.fma_lt ..) fun _ _ _ => rfl, ?_⟩
  iterate 2 refine List.forall_mem_cons.mpr ⟨packed_computes rfl (fun _ _ _ _ _ => bf16_fits.minMax_lt ..) fun _ _ _ => rfl, ?_⟩
  refine List.forall_mem_cons.mpr ⟨packed_computes rfl (fun _ _ _ _ _ => fp16_fits.add_lt ..) fun _ _ _ => rfl, ?_⟩
  refine List.forall_mem_cons.mpr ⟨packed_computes rfl (fun _ _ _ _ _ => fp16_fits.mul_lt ..) fun _ _ _ => rfl, ?_⟩
  refine List.forall_mem_cons.mpr ⟨packed_computes rfl (fun _ _ _ _ _ => fp16_fits.fma_lt ..) fun _ _ _ => rfl, ?_⟩
  iterate 2 refine List.forall_mem_cons.mpr ⟨packed_computes rfl (fun _ _ _ _ _ => fp16_fits.minMax_lt ..) fun _ _ _ => rfl, ?_⟩
  exact fun _ h => absurd h List.not_mem_nil

end
end

section
/-! SUPPORT. The FP32 comparison and the conversions (R138, R139, R674). -/

namespace Sys2Proof.Machine

/-- R674: between integers the value is wrapped or widened by its own sign, and no flag is raised. -/
theorem cvtElem_integers {mode dt st : Nat} (hst : st < 4) (hdt : dt < 4) (x : BitVec (32 * cvtWords st)) :
    cvtElem mode dt st x.toNat =
      ((if st % 2 = 1 then x.signExtend (32 * cvtWords dt) else x.setWidth (32 * cvtWords dt)).toNat, 0) := by
  unfold cvtElem
  dsimp only
  rw [if_pos hst, if_pos hdt, readInt_toNat, wrapInt_eq, ofInt_bitsInt_extend]
  simp only [decide_eq_true_eq]

/-- The element a conversion writes. -/
def cvtBits (mode dt st : Nat) (x : BitVec (32 * cvtWords st)) : BitVec (32 * cvtWords dt) :=
  if st < 4 ∧ dt < 4 then (if st % 2 = 1 then x.signExtend _ else x.setWidth _) else BitVec.ofNat _ (cvtElem mode dt st x.toNat).1

section
variable (mode dt st : Nat) (d : Desc) (w : Fields) (g : Group) (i : Nat)

theorem cvtElem_bits : BitVec.ofNat (32 * cvtWords dt) (cvtElem mode dt st (d.read w g 0 (cvtWords st) i 0)).1 =
    cvtBits mode dt st (operand (cvtWords st) d w g 0 i 0) := by
  rw [← operand_toNat]
  unfold cvtBits
  split
  · next h => rw [cvtElem_integers h.1 h.2, BitVec.ofNat_toNat, BitVec.setWidth_eq]
  · rfl

theorem cvtElem_flags : (cvtElem mode dt st (d.read w g 0 (cvtWords st) i 0)).2 =
    if st < 4 ∧ dt < 4 then 0 else (cvtElem mode dt st (operand (cvtWords st) d w g 0 i 0).toNat).2 := by
  rw [← operand_toNat]
  split
  · next h => rw [cvtElem_integers h.1 h.2]
  · rfl

end

theorem cvtWords_pos (t : Nat) : 0 < cvtWords t := by
  unfold cvtWords
  split <;> decide

/-- PD written, and the flags of the lanes that act raised. -/
theorem writePd_raiseFlags (c : Ctx) (d : Desc) (w : Fields) (r : Nat → Bool × FFlags) :
    let y := ((c.advance d).grp.writePd w c.act (fun i => (r i).1)).raiseFlags ((lanesOf c.act).foldl (fun acc i => acc ||| (r i).2) 0)
    let x := y.onto c.grp
    OnRegisters (c.advance d).grp y ∧ WritesPd c.grp (Group.flagsOf x c.grp) w c.act (fun i => (r i).1) ∧
      RaisesFlags c.grp x c.act 1 (fun i _ => (r i).2) := by
  intro y x
  have hw := Group.writePd_writes (c.advance d).grp w c.act (fun i => (r i).1)
  have hfl : Group.fpflags _ = c.grp.fpflags := (congrArg Group.fpflags hw.frame :).trans rfl
  refine ⟨onRegisters_raiseFlags (writesPd_onRegisters hw) _, ?_, raisesFlags_raiseFlags c.act 1 hfl fun b => ?_⟩
  · have hx : Group.flagsOf x c.grp = _ := flagsOf_raiseFlags hfl _
    rw [hx]
    exact writesPd_onto hw (c.advance_onto d)
  · rw [foldl_or_getLsbD]
    simp

end Sys2Proof.Machine

section

open Sys2Proof Sys2Proof.Machine

/-- Settles O6: the comparison is of the decoded operands; a conversion between integers wraps or widens, any other is that of R674. -/
theorem floatComparisonAndConversion : Obligations.FloatComparisonAndConversion := by
  refine ⟨?_, ?_⟩
  · refine Sem.regs_computes (fun _ _ _ => rfl) (fun _ _ _ => rfl) fun c w d hd => ?_
    have hdesc : setpF32Desc w = some d := hd
    simp only [operand_toNat, hdesc, Option.getD_some, Ctx.advance_read, Ctx.advance_act]
    exact writePd_raiseFlags c d w _
  · refine Sem.regs_computes (fun _ _ _ => rfl) (fun _ _ _ => rfl) fun c w d hd => ?_
    have hdesc : cvtDesc w = some d := hd
    obtain ⟨hregs, hbits, hflags⟩ := Group.mapFlagged_writes c d w 1 (cvtWords (w.mod.toNat % 8)) (cvtWords_pos _)
      (fun i _ => cvtElem w.aux.toNat (w.mod.toNat % 8) (w.mod.toNat / 8) (d.read w c.grp 0 (cvtWords (w.mod.toNat / 8)) i 0))
    simp only [cvtElem_bits] at hbits
    simp only [hdesc, Option.getD_some, Ctx.advance_read, Ctx.advance_act]
    exact ⟨hregs, hbits, raisesFlags_congr hflags fun i _ => cvtElem_flags ..⟩

end
end

section
/-! SUPPORT. Lane exchange and vote by what each lane receives (R106, R148). -/

namespace Sys2Proof.Machine

@[simp] theorem Ctx.advance_absent (c : Ctx) (d : Desc) : (c.advance d).grp.absent = c.grp.absent := rfl

/-- An exchange writes at D what A holds in the lane its rule names, or zero where that lane is absent. -/
theorem shflSem_computes {op : Nat} {src : Nat → Nat → Option Nat} {r : Nat → BitVec 32 → Nat} {ins : GRef → Fields → Instr}
    (hr : ∀ i b, i < 32 → (src i b.toNat).getD i = r i b) (hx : ∀ g w s, exec (ins g w) s = next ((shflSem op src).issue g w s)) :
    Computes ins (shflSem op src) (fun w c d x => WritesD c.grp x w c.act 1 (fun i _ =>
      let j := r i (operand 1 d w c.grp 1 i 0)
      if c.grp.absent.getLsbD j then 0 else operand 1 d w c.grp 0 j 0)) := by
  refine Sem.regs_writeD (v := fun c w d i =>
      let j := (src i (d.read w c.grp 1 1 i 0)).getD i
      if c.grp.absent.getLsbD j then 0 else d.read w c.grp 0 1 j 0)
    hx (fun _ _ _ => rfl) (fun c w d hd => ?_) (fun w c d x h => writesD_congr_lanes (writesD_one h) fun i _ hi _ => ?_)
  · have hdesc : shflDesc w = some d := hd
    simp only [hdesc, Option.getD_some, Ctx.advance_read, Ctx.advance_act, Ctx.advance_absent]
  · have hlane := hr i (operand 1 d w c.grp 1 i 0) ((mem_lanesOf _ i).mp hi).1
    rw [operand_toNat] at hlane
    dsimp only
    rw [hlane]
    split <;> rfl

theorem xor_mod_lanes (i b : Nat) (hi : i < 32) : (i ^^^ b) % 32 = Nat.xor i (b % 32) := by
  have h := Nat.xor_mod_two_pow (a := i) (b := b) (n := 5)
  rwa [Nat.mod_eq_of_lt (show i < 2 ^ 5 from hi)] at h

@[simp] theorem Ctx.advance_voteBit (c : Ctx) (d : Desc) (w : Fields) : voteBit (c.advance d) w = voteBit c w := rfl

/-- The mask of a ballot: the lanes whose predicate is true. -/
def ballot (c : Ctx) (w : Fields) : BitVec 32 := lanesMask ((List.range 32).filter (voteBit c w))

theorem ballot_getLsbD (c : Ctx) (w : Fields) (i : Nat) (hi : i < 32) : (ballot c w).getLsbD i = voteBit c w i := by
  rw [Bool.eq_iff_iff, ballot, getLsbD_lanesMask _ _ hi, List.mem_filter, List.mem_range]
  exact and_iff_right hi

end Sys2Proof.Machine

section

open Sys2Proof Sys2Proof.Machine

/-- Settles O8: each form of SHFL by the lane it reads, a vote by the predicates of the lanes that are present. -/
theorem laneExchange : Obligations.LaneExchange := by
  refine ⟨?_, ?_, ?_, ?_⟩
  · simp only [List.forall_mem_cons]
    exact ⟨shflSem_computes (r := fun _ b => b.toNat % 32) (fun _ _ _ => rfl) fun _ _ _ => rfl,
      shflSem_computes (r := fun i b => Nat.xor i (b.toNat % 32)) (fun i b hi => xor_mod_lanes i b.toNat hi) fun _ _ _ => rfl,
      shflSem_computes (r := fun i b => if b.toNat ≤ i then i - b.toNat else i) (fun i _ _ => apply_ite (Option.getD · i) ..) fun _ _ _ => rfl,
      shflSem_computes (r := fun i b => if i + b.toNat ≤ 31 then i + b.toNat else i) (fun i _ _ => apply_ite (Option.getD · i) ..)
        fun _ _ _ => rfl,
      fun _ h => absurd h List.not_mem_nil⟩
  · exact Sem.regs_writePd (fun _ _ _ => rfl) (fun _ _ _ => rfl) (fun _ _ _ _ => rfl) fun _ _ _ _ h => h
  · exact Sem.regs_writePd (fun _ _ _ => rfl) (fun _ _ _ => rfl) (fun _ _ _ _ => rfl) fun _ _ _ _ h => h
  · refine Sem.regs_writeD (v := fun c w _ _ => (ballot c w).toNat) (fun _ _ _ => rfl) (fun _ _ _ => rfl) (fun _ _ _ _ => rfl)
      fun w c d x h => ⟨ballot c w, ballot_getLsbD c w, ?_⟩
    simpa only [BitVec.ofNat_toNat, BitVec.setWidth_eq] using writesD_one h

end
end

section
/-! SUPPORT. Control instructions that write registers (R59, R129, R139, R146, R158). -/

namespace Sys2Proof.Machine

@[simp] theorem movedOn_dieTime (s : State) (c : Ctx) (d : Desc) (die : Nat) : (movedOn s c d).dieTime die = s.dieTime die := rfl

theorem movedOn_arr_phaseValue (s : State) (c : Ctx) (d : Desc) : ((movedOn s c d).arr c.ga).phaseValue = (s.arr c.ga).phaseValue := by
  unfold movedOn State.setGroup
  rw [State.arr_setArr_self]

/-- A special register reads the same once the subgroup has moved on. -/
theorem movedOn_srValue (s : State) (c : Ctx) (d : Desc) (n i : Nat) : srValue (movedOn s c d) (c.advance d) n i = srValue s c n i := by
  unfold srValue
  split <;> first | rfl | exact congrArg BitVec.toNat (movedOn_arr_phaseValue s c d)

/-- What `time.read` writes. -/
theorem timeRead_writes {g : GRef} {w : Fields} {s : State} {c : Ctx} {d : Desc} (h : Issues timeReadSem g w s c d) :
    ∃ x, GroupIssue s (timeReadSem.issue g w s) c x ∧
      WritesD c.grp x w c.act 2 (fun _ k => (s.dieTime (c.ga / 8) >>> (32 * k)).setWidth 32) := by
  have hw := Group.writeD_writes (c.advance d).grp w c.act 2 (fun _ => (s.dieTime (c.ga / 8)).toNat)
  exact ⟨_, Sem.issue_registers h (movedOn_setGroup s c d _) (writesD_onRegisters hw), writesD_pair (writesD_onto hw (c.advance_onto d))⟩

/-- What `mov.sr` writes. -/
theorem movSr_writes {g : GRef} {w : Fields} {s : State} {c : Ctx} {d : Desc} (h : Issues movSrSem g w s c d) :
    ∃ x, GroupIssue s (movSrSem.issue g w s) c x ∧ WritesD c.grp x w c.act 1 (fun i _ => BitVec.ofNat 32 (srValue s c w.a.toNat i)) := by
  have hw := Group.writeD_writes (c.advance d).grp w c.act 1 (srValue s c w.a.toNat)
  refine ⟨_, Sem.issue_registers h ?_ (writesD_onRegisters hw), writesD_one (writesD_onto hw (c.advance_onto d))⟩
  rw [← movedOn_setGroup s c d, ← show srValue (movedOn s c d) (c.advance d) w.a.toNat = _ from funext (movedOn_srValue s c d w.a.toNat)]
  rfl

/-- The table of R129: what each special register holds for a lane. -/
def srTable (s : State) (c : Ctx) : List (Nat × (Nat → Nat)) := [
  (0x00, fun i => i), (0x01, fun i => 32 * c.grp.index + i), (0x02, fun _ => c.blk.threads), (0x03, fun _ => c.grp.index),
  (0x04, fun _ => c.blk.index), (0x05, fun _ => c.blk.nblocks), (0x06, fun _ => c.blk.seq.toNat), (0x07, fun _ => c.sub.lanes.toNat),
  (0x08, fun _ => (~~~(c.grp.exited ||| c.grp.absent)).toNat), (0x09, fun _ => 16384 * c.blk.units.length),
  (0x0A, fun _ => c.grp.fpflags.toNat), (0x0B, fun _ => c.blk.seed.toNat), (0x0C, fun _ => c.blk.seed.toNat / 2 ^ 32),
  (0x10, fun _ => c.ga), (0x11, fun _ => c.slot / 16), (0x12, fun _ => c.slot), (0x13, fun _ => (s.arr c.ga).phaseValue.toNat)]

theorem ofNat_mod_two_pow (n x : Nat) : BitVec.ofNat n (x % 2 ^ n) = BitVec.ofNat n x :=
  BitVec.eq_of_toNat_eq (by rw [BitVec.toNat_ofNat, BitVec.toNat_ofNat, Nat.mod_mod])

/-- A special register reads the word of its row. -/
theorem srValue_row (s : State) (c : Ctx) : ∀ e ∈ srTable s c, ∀ i, BitVec.ofNat 32 (srValue s c e.1 i) = BitVec.ofNat 32 (e.2 i) := by
  simp only [srTable, List.forall_mem_cons, srValue, ofNat_mod_two_pow]
  simp [Group.live]

end Sys2Proof.Machine

section

open Sys2Proof Sys2Proof.Machine

/-- Settles O9: each instruction by the registers it writes; a special register reads the state before the issue, which moving on does not
change. -/
theorem registerControl : Obligations.RegisterControl := by
  refine ⟨?_, ?_, ?_, fun g w s c d h => ⟨_, rfl, timeRead_writes h⟩, fun g w s c d h => ⟨_, rfl, ?_⟩⟩
  · exact Sem.regs_computes (fun _ _ _ => rfl) (fun _ _ _ => rfl) fun c w d _ => ⟨rfl, c.advance_onto d⟩
  · exact Sem.regs_writeD (fun _ _ _ => rfl) (fun _ _ _ => rfl) (fun _ _ _ _ => rfl) fun _ _ _ _ h => writesD_pair h
  · refine Sem.regs_computes (fun _ _ _ => rfl) (fun _ _ _ => rfl) fun c w d _ => ?_
    have hflags : (if (c.advance d).act = 0 then (c.advance d).grp
        else { (c.advance d).grp with fpflags := (c.advance d).grp.fpflags &&& ~~~(w.imm0.truncate 5) }) =
        { (c.advance d).grp with fpflags := if c.act = 0 then c.grp.fpflags else c.grp.fpflags &&& ~~~(w.imm0.setWidth 5) } := by
      by_cases ha : c.act = 0
      · rw [if_pos ha, if_pos (show (c.advance d).act = 0 from ha)]; rfl
      · rw [if_neg ha, if_neg (show ¬(c.advance d).act = 0 from ha)]; rfl
    rw [hflags]
    exact ⟨rfl, rfl⟩
  · obtain ⟨x, hx, hw⟩ := movSr_writes h
    exact ⟨x, hx, fun e he ha => writesD_congr hw fun i _ _ => ha ▸ srValue_row s c e he i⟩

end
end

section
/-! SUPPORT. Every instruction of the opcode map, and what an issue that a fault stops leaves alone (R133, R136, R500, R515). -/

namespace Sys2Proof.Machine

/-- Every instruction of the opcode map runs as the issue of its meaning. -/
theorem exec_instructions : ∀ e ∈ instructions, ∀ g w s, exec (e.1 g w) s = next (e.2.issue g w s) := by
  simp only [instructions, List.forall_mem_append, List.forall_mem_cons, List.not_mem_nil, false_imp_iff, implies_true, and_true]
  and_intros <;> exact fun _ _ _ => rfl

theorem haltBlock_arr (s : State) (ga bs k : Nat) : (haltBlock s ga bs).arr k = { s.arr k with blocks := ((haltBlock s ga bs).arr k).blocks } := by
  unfold haltBlock
  split
  · rfl
  · unfold State.setBlock
    rw [State.arr_setArr]
    split
    · next h => rw [h]
    · rfl

theorem haltBlock_frame (s : State) (ga bs : Nat) : haltBlock s ga bs = { s with arrs := (haltBlock s ga bs).arrs } := by
  unfold haltBlock
  split <;> rfl

section
variable (s : State) (c : Ctx) (code : Nat) (addr : W64) (word : W32)

/-- A BLOCK fault changes nothing of an array but its blocks. -/
theorem blockFault_arr (k : Nat) :
    (blockFault s c code addr word).arr k = { s.arr k with blocks := ((blockFault s c code addr word).arr k).blocks } := by
  rw [State.arr_congr (blockFault_arrs s c code addr word), haltBlock_arr, State.arr_congr (s.raise_arrs _)]

theorem blockFault_frame : let t := blockFault s c code addr word
    t = { s with regs := t.regs, accum := t.accum, ahead := t.ahead, arrs := t.arrs, works := t.works, parts := t.parts, faults := t.faults } := by
  intro t
  obtain ⟨u, hu, hraise⟩ := s.raise_noted (groupFault s c code addr word)
  have hframe : t = { haltBlock (s.raise (groupFault s c code addr word)) c.ga c.grp.block with works := t.works } := rfl
  rw [hframe, haltBlock_frame, hraise, hu.frame]

end

/-- An issue that a fault stops moves the pointer of its quarter, changes blocks of its array, and else no array. -/
theorem Sem.issue_faulted_arrs {m : Sem} {g : GRef} {w : Fields} {s : State} {c : Ctx} {code : Nat} {addr : W64} {word : W32}
    (h : Faults m g w s c code addr word) (k : Nat) : let t := m.issue g w s
    t.arr k = { s.arr k with blocks := (t.arr k).blocks,
                             pointers := if k = c.ga then Tab.put (s.arr c.ga).pointers (c.slot / 16) c.slot else (s.arr k).pointers } := by
  intro t
  have harr := blockFault_arr s c code addr word
  rw [show t = _ from Sem.issue_stop h, State.arr_issued]
  split
  · next hk => rw [hk, harr c.ga]
  · rw [harr k]

/-- What else an issue that a fault stops may change. -/
theorem Sem.issue_faulted_frame {m : Sem} {g : GRef} {w : Fields} {s : State} {c : Ctx} {code : Nat} {addr : W64} {word : W32}
    (h : Faults m g w s c code addr word) : let t := m.issue g w s
    t = { s with regs := t.regs, accum := t.accum, ahead := t.ahead, arrs := t.arrs, works := t.works, parts := t.parts, faults := t.faults } := by
  intro t
  rw [show t = _ from Sem.issue_stop h, (State.issued_idle _ c.ga c.slot _).rest, blockFault_frame]

theorem Sem.issue_faulted_block {m : Sem} {g : GRef} {w : Fields} {s : State} {c : Ctx} {code : Nat} {addr : W64} {word : W32}
    (h : Faults m g w s c code addr word) (ga b : Nat) (hb : ga ≠ c.ga ∨ b ≠ c.grp.block) : (m.issue g w s).block ga b = s.block ga b := by
  rw [Sem.issue_stop h, State.issued_block, blockFault_block, if_neg (not_and_or.mpr hb)]

/-- R133: a word whose fields the shape of its instruction does not allow stops at ILLEGAL_INSTRUCTION. -/
theorem illegal_faults {m : Sem} {g : GRef} {w : Fields} {s : State} {c : Ctx} (hu : g.upset = none) (hc : m.ctx g w s = some c)
    (hin : c.blk.inText c.sub.pc = true) (hb : s.breakAt c.blk.part c.sub.pc = none) (hd : ∀ d, m.desc w = some d → d.legal w = false) :
    Faults m g w s c 0x0101 0 (lowWord m.op w) := by
  refine ⟨hu, hc, ?_⟩
  unfold Sem.verdict
  cases h : m.desc w with
  | none => simp [hin, hb]
  | some d => simp [hin, hb, hd d h]

end Sys2Proof.Machine

section

open Sys2Proof Sys2Proof.Machine

/-- Settles O12: a fault before any effect halts the block and raises its record; the issue is counted, and nothing else changes. -/
theorem instructionFaults : Obligations.InstructionFaults := by
  intro e he g w s c code addr word h
  obtain ⟨hhalted, hgroups, hrecord⟩ := Sem.issue_faulted h
  have harr := Sem.issue_faulted_arrs h
  refine ⟨_, exec_instructions e he g w s, hhalted, hgroups, fun k => ?_, fun k hk => ?_, ?_, fun ga b hb => Sem.issue_faulted_block h ga b hb, hrecord,
    Sem.issue_faulted_frame h⟩
  · rw [harr k]
  · rw [harr k]
    exact if_neg hk
  · rw [harr c.ga]
    exact if_pos rfl

/-- Settles O13: an illegal word stops before everything that the instruction itself would meet. -/
theorem illegalWords : Obligations.IllegalWords := by
  intro e he g w s c hu hc hin hb hd
  obtain ⟨hhalted, hgroups, hrecord⟩ := Sem.issue_faulted (illegal_faults hu hc hin hb hd)
  exact ⟨_, exec_instructions e he g w s, hhalted, hgroups, _, hrecord, rfl, rfl, rfl⟩

end
end

section
/-! SUPPORT. A branch: where it takes each lane of the subgroup that issues it (R92, R134, R144 to R146). -/

namespace Sys2Proof.Machine

/-! The parts of a split. -/

/-- Lane i stands in one of the parts of a split, at a target. -/
def PartAt (parts : List (W64 × BitVec 32)) (i : Nat) (pc : W64) : Prop := ∃ e ∈ parts, e.1 = pc ∧ e.2.getLsbD i = true

theorem PartAt.append {parts : List (W64 × BitVec 32)} {i : Nat} {pc : W64} (h : PartAt parts i pc) (l : List (W64 × BitVec 32)) :
    PartAt (parts ++ l) i pc :=
  have ⟨e, he, hpc, hi⟩ := h
  ⟨e, List.mem_append_left l he, hpc, hi⟩

/-- A lane put into the part of its target leaves every lane where it was. -/
theorem PartAt.join {parts : List (W64 × BitVec 32)} {i : Nat} {pc : W64} (h : PartAt parts i pc) (p : W64) (m : BitVec 32) :
    PartAt (parts.map (fun e => if e.1 == p then (p, e.2 ||| m) else e)) i pc := by
  obtain ⟨e, he, hpc, hi⟩ := h
  refine ⟨_, List.mem_map_of_mem he, ?_⟩
  split
  · next hp => exact ⟨(beq_iff_eq.mp hp).symm.trans hpc, by rw [BitVec.getLsbD_or, hi, Bool.true_or]⟩
  · exact ⟨hpc, hi⟩

theorem partAt_join_self {parts : List (W64 × BitVec 32)} {i : Nat} {p : W64} {m : BitVec 32} (h : parts.any (fun e => e.1 == p) = true)
    (hi : m.getLsbD i = true) : PartAt (parts.map (fun e => if e.1 == p then (p, e.2 ||| m) else e)) i p := by
  obtain ⟨e, he, hp⟩ := List.any_eq_true.mp h
  refine ⟨_, List.mem_map_of_mem he, ?_⟩
  rw [if_pos hp]
  exact ⟨rfl, by rw [BitVec.getLsbD_or, hi, Bool.or_true]⟩

/-- Every lane of a split stands in the part of its target. -/
theorem byTarget_partAt (target : Nat → W64) (l : List Nat) (acc : List (W64 × BitVec 32)) (i : Nat) (hi : i < 32) (pc : W64)
    (h : (i ∈ l ∧ target i = pc) ∨ PartAt acc i pc) : PartAt (byTarget target l acc) i pc := by
  induction l generalizing acc with
  | nil =>
    rcases h with ⟨hmem, -⟩ | h
    · exact absurd hmem List.not_mem_nil
    · exact h
  | cons j l ih =>
    have hself : (BitVec.ofNat 32 (2 ^ j)).getLsbD i = decide (j = i) := getLsbD_two_pow j i hi
    unfold byTarget
    dsimp only
    split
    · next hany =>
      refine ih _ ?_
      rcases h with ⟨hmem, hpc⟩ | h
      · rcases List.mem_cons.mp hmem with rfl | hmem
        · exact Or.inr (hpc ▸ partAt_join_self hany (by rw [hself, decide_eq_true rfl]))
        · exact Or.inl ⟨hmem, hpc⟩
      · exact Or.inr (h.join _ _)
    · refine ih _ ?_
      rcases h with ⟨hmem, hpc⟩ | h
      · rcases List.mem_cons.mp hmem with rfl | hmem
        · exact Or.inr ⟨_, List.mem_append_right _ (List.mem_singleton_self _), hpc, by rw [hself, decide_eq_true rfl]⟩
        · exact Or.inl ⟨hmem, hpc⟩
      · exact Or.inr (h.append _)

/-! The group after a branch. -/

/-- Where a branch takes a lane of the subgroup that issues it. -/
def Ctx.goesTo (c : Ctx) (target : Nat → W64) (i : Nat) : W64 := if c.act.getLsbD i then target i else c.sub.pc + 16

/-- The context of a branch: the subgroup has moved on, and the group may have been written. -/
structure Branches (c : Ctx) (d : Desc) (b : Ctx) : Prop where
  place : b.ga = c.ga ∧ b.slot = c.slot ∧ b.sub = c.sub ∧ b.act = c.act
  subs : b.grp.subs = (c.advance d).grp.subs

theorem Branches.movedSub {c b : Ctx} {d : Desc} (h : Branches c d b) (hsub : c.sub ∈ c.grp.subs) : b.movedSub = c.nextSub := by
  obtain ⟨-, -, hb, -⟩ := h.place
  rw [← c.movedSub_advance hsub d]
  unfold Ctx.movedSub
  rw [h.subs, hb]
  rfl

/-- A branch puts subgroups in the place of the one that issues it, each lane of it in one at its target. -/
theorem State.branch_splits (s : State) {c b : Ctx} {d : Desc} (h : Branches c d b) (hsub : c.sub ∈ c.grp.subs) (w : Fields) (target : Nat → W64) :
    ∃ n us, s.branch b w target = ({ s with ids := n } : State).setGroup c.ga c.slot (b.replaceSub us) ∧
      ∀ i, c.sub.lanes.getLsbD i = true → ∃ u ∈ us, u.lanes.getLsbD i = true ∧ u.pc = c.goesTo target i := by
  obtain ⟨hga, hslot, hb, hact⟩ := h.place
  have hparts : ∀ i, c.sub.lanes.getLsbD i = true →
      PartAt (byTarget (fun i => if b.act.getLsbD i then target i else b.movedSub.pc) (lanesOf b.sub.lanes) []) i (c.goesTo target i) := by
    intro i hi
    refine byTarget_partAt _ _ _ i (BitVec.lt_of_getLsbD hi) _ (Or.inl ⟨(mem_lanesOf _ i).mpr ⟨BitVec.lt_of_getLsbD hi, hb ▸ hi⟩, ?_⟩)
    rw [hact, h.movedSub hsub]
    rfl
  unfold State.branch
  rw [h.movedSub hsub] at hparts ⊢
  dsimp only
  split
  · next p m hp =>
    rw [hp] at hparts
    refine ⟨s.ids, [{ c.nextSub with pc := p }], by rw [hga, hslot], fun i hi => ⟨_, List.mem_singleton_self _, hi, ?_⟩⟩
    obtain ⟨e, he, hpc, -⟩ := hparts i hi
    rw [List.mem_singleton.mp he] at hpc
    exact hpc
  · refine ⟨s.ids + 1, _, by rw [hga, hslot]; rfl, fun i hi => ?_⟩
    obtain ⟨e, he, hpc, hei⟩ := hparts i hi
    exact ⟨_, List.mem_map_of_mem he, hei, hpc⟩

theorem Ctx.replaceSub_stands (c : Ctx) {us : List Sub} {i : Nat} {pc : W64} (hu : ∃ u ∈ us, u.lanes.getLsbD i = true ∧ u.pc = pc) :
    StandsAt (c.replaceSub us) i pc :=
  have ⟨u, hu, hui, hpc⟩ := hu
  ⟨u, Ctx.mem_replaceSub hu (ne_zero_of_getLsbD hui), hui, hpc⟩

theorem Branches.replaceSub_others {c b : Ctx} {d : Desc} (h : Branches c d b) (us : List Sub) {i : Nat} {pc : W64}
    (hi : c.sub.lanes.getLsbD i = false) (hs : StandsAt c.grp i pc) : StandsAt (b.replaceSub us) i pc := by
  obtain ⟨-, -, hb, -⟩ := h.place
  obtain ⟨u, hu, hne, hui, hpc⟩ := c.advance_others d hi hs
  exact ⟨u, List.mem_append_left _ (List.mem_filter.mpr ⟨h.subs ▸ hu, hb ▸ hne⟩), hui, hpc⟩

/-- What a branch leaves: its group holds what it held, or what was written, and every lane stands where the branch takes it. -/
structure Moves (s t : State) (c : Ctx) (x : Group) (target : Nat → W64) (y : Group) (n : Nat) : Prop where
  holds : Group.holds y = Group.holds x
  idle : Idle (({ s with ids := n } : State).setGroup c.ga c.slot y) t c.ga
  lanes : ∀ i, c.sub.lanes.getLsbD i = true → LaneAt t c i (if c.act.getLsbD i then target i else c.sub.pc + 16)
  others : ∀ i pc, c.sub.lanes.getLsbD i = false → StandsAt c.grp i pc → LaneAt t c i pc

theorem branch_moves {m : Sem} {g : GRef} {w : Fields} {s : State} {c b : Ctx} {d : Desc} {target : Nat → W64} (h : Issues m g w s c d)
    (hb : Branches c d b) (hregs : OnRegisters (c.advance d).grp b.grp) (hp : m.perform s c w d = (movedOn s c d).branch b w target) :
    ∃ y n, Moves s (m.issue g w s) c b.grp target y n := by
  have hsub := issues_sub_mem h
  obtain ⟨n, us, hbranch, hlanes⟩ := (movedOn s c d).branch_splits hb hsub w target
  have he : m.perform s c w d = ({ s with ids := n } : State).setGroup c.ga c.slot (b.replaceSub us) :=
    hp.trans (hbranch.trans (State.setGroup_setGroup ({ s with ids := n } : State) ..))
  have hlive : (b.replaceSub us).live = c.grp.live ∧ (b.replaceSub us).block = c.grp.block := by
    show b.grp.live = _ ∧ b.grp.block = _
    rw [hregs]
    exact ⟨rfl, rfl⟩
  have hidle : Idle (({ s with ids := n } : State).setGroup c.ga c.slot (b.replaceSub us)) (m.issue g w s) c.ga := by
    rw [Sem.issue_go h, he]
    exact State.finish_idle _ m [c] w c.ga c.slot c.grp.block _ _ (State.group_setGroup_self ..) hlive.2 (hlive.1 ▸ h.live)
  exact ⟨b.replaceSub us, n, rfl, hidle, fun i hi => idle_laneAt hidle (b.replaceSub_stands (hlanes i hi)),
    fun i pc hi hs => idle_laneAt hidle (hb.replaceSub_others us hi hs)⟩

/-! The targets (R146). -/

theorem Group.twords_pair (g : Group) (i r : Nat) : BitVec.ofNat 64 (g.twords i r 2) = g.treg i (r + 1) ++ g.treg i r := by
  refine BitVec.eq_of_toNat_eq ?_
  have hlo := (g.treg i r).isLt
  have hhi := (g.treg i (r + 1)).isLt
  rw [BitVec.toNat_append, ← Nat.shiftLeft_add_eq_or_of_lt (BitVec.isLt _), Nat.shiftLeft_eq, BitVec.toNat_ofNat]
  simp only [Group.twords]
  omega

theorem Group.uwords_pair (g : Group) (r : Nat) : BitVec.ofNat 64 (g.uwords r 2) = g.ureg (r + 1) ++ g.ureg r := by
  refine BitVec.eq_of_toNat_eq ?_
  have hlo := (g.ureg r).isLt
  have hhi := (g.ureg (r + 1)).isLt
  rw [BitVec.toNat_append, ← Nat.shiftLeft_add_eq_or_of_lt (BitVec.isLt _), Nat.shiftLeft_eq, BitVec.toNat_ofNat]
  simp only [Group.uwords]
  omega

theorem brxTarget_pair (c : Ctx) (d : Desc) (w : Fields) : brxTarget (c.advance d) w = fun i =>
    if w.ka = 0 then c.grp.treg i (w.a.toNat + 1) ++ c.grp.treg i w.a.toNat else c.grp.ureg (w.a.toNat + 1) ++ c.grp.ureg w.a.toNat := by
  funext i
  unfold brxTarget
  rw [Ctx.advance_twords, Ctx.advance_uwords, apply_ite (BitVec.ofNat 64), Group.twords_pair, Group.uwords_pair]

/-- A branch of a group that nothing else is done to. -/
theorem branches_advance (c : Ctx) (d : Desc) : Branches c d (c.advance d) := ⟨⟨rfl, rfl, rfl, rfl⟩, rfl⟩

/-- The group of a call, its return address written. -/
def Ctx.callGroup (c : Ctx) (d : Desc) (w : Fields) : Group := (c.advance d).grp.writeD w c.act 2 (fun _ => (c.sub.pc + 16).toNat)

theorem Ctx.callGroup_writes (c : Ctx) (d : Desc) (w : Fields) : OnRegisters (c.advance d).grp (c.callGroup d w) ∧
    WritesD c.grp ((c.callGroup d w).onto c.grp) w c.act 2 (fun _ k => ((c.sub.pc + 16) >>> (32 * k)).setWidth 32) := by
  have hw := Group.writeD_writes (c.advance d).grp w c.act 2 (fun _ => (c.sub.pc + 16).toNat)
  exact ⟨writesD_onRegisters hw, writesD_pair (writesD_onto hw (c.advance_onto d))⟩

/-- A call branches once its return address is written. -/
theorem branches_call (c : Ctx) (d : Desc) (w : Fields) : Branches c d { c.advance d with grp := c.callGroup d w } :=
  ⟨⟨rfl, rfl, rfl, rfl⟩, by dsimp only; rw [(c.callGroup_writes d w).1]⟩

end Sys2Proof.Machine

section

open Sys2Proof Sys2Proof.Machine

/-- Settles O10: a branch replaces the subgroup that issues it by its parts, each at the target of its lanes. -/
theorem controlFlow : Obligations.ControlFlow := by
  refine ⟨fun g w s c d h => ⟨_, rfl, ?_⟩, fun g w s c d h => ⟨_, rfl, ?_⟩, fun g w s c d h => ⟨_, rfl, ?_⟩⟩
  · obtain ⟨y, n, hm⟩ := branch_moves h (branches_advance c d) rfl rfl
    exact ⟨y, n, hm.holds, hm.idle, hm.lanes, hm.others⟩
  · obtain ⟨y, n, hm⟩ := branch_moves h (branches_advance c d) rfl rfl
    rw [brxTarget_pair] at hm
    exact ⟨y, n, hm.holds, hm.idle, hm.lanes, hm.others⟩
  · obtain ⟨hregs, hw⟩ := c.callGroup_writes d w
    obtain ⟨y, n, hm⟩ := branch_moves h (branches_call c d w) hregs rfl
    exact ⟨_, hw, y, n, hm.holds, hm.idle, hm.lanes, hm.others⟩

end
end

section
/-! SUPPORT. What an atomic operation leaves, on bits (R155, R156). -/

namespace Sys2Proof.Machine

section
variable {n : Nat} (sg : Bool) (o x y : BitVec (8 * n))

/-- An integer atomic takes its operand as it stands. -/
theorem atomNew_toNat (op : Nat) : atomNew op n sg false o.toNat x.toNat y.toNat =
    match op with
    | 0 => (o + x).toNat
    | 1 => (if (if sg then x.slt o else x.ult o) then x else o).toNat
    | 2 => (if (if sg then o.slt x else o.ult x) then x else o).toNat
    | 3 => (o &&& x).toNat
    | 4 => (o ||| x).toNat
    | 5 => (o ^^^ x).toNat
    | 6 => x.toNat
    | _ => (if o = y then x else o).toNat := by
  have hx : x.toNat % 2 ^ (8 * n) = x.toNat := Nat.mod_eq_of_lt x.isLt
  have hy : y.toNat % 2 ^ (8 * n) = y.toNat := Nat.mod_eq_of_lt y.isLt
  unfold atomNew
  dsimp only
  rw [if_neg Bool.false_ne_true, hx, hy, readInt_toNat, readInt_toNat]
  match op with
  | 0 => exact (BitVec.toNat_add o x).symm
  | 1 => exact (if_congr (bitsInt_lt x o) rfl rfl).trans (apply_ite BitVec.toNat ..).symm
  | 2 => exact (if_congr (bitsInt_lt o x) rfl rfl).trans (apply_ite BitVec.toNat ..).symm
  | 3 => exact (BitVec.toNat_and o x).symm
  | 4 => exact (BitVec.toNat_or o x).symm
  | 5 => exact (BitVec.toNat_xor o x).symm
  | 6 => rfl
  | _ + 7 => exact (if_congr BitVec.toNat_inj rfl rfl).trans (apply_ite BitVec.toNat ..).symm

end

end Sys2Proof.Machine

section

open Sys2Proof Sys2Proof.Machine

/-- Settles O18: the numbers of the operands are those of their bits, so that each operation is one on bits. -/
theorem atomicFunctions : Obligations.AtomicFunctions := by
  intro n _ sg o x y f
  have h := atomNew_toNat sg o x y
  exact ⟨h 0, h 1, h 2, h 3, h 4, h 5, h 6, h 7⟩

end
end

section
/-! SUPPORT. Words of registers and immediates as sources read them (R126, R132). -/

namespace Sys2Proof.Machine

/-! Words of registers. -/

section
variable (x : W32) (y : Nat)

theorem word_zero : BitVec.ofNat 32 ((x.toNat + 2 ^ 32 * y) / 2 ^ (32 * 0)) = x := by
  rw [Nat.mul_zero, Nat.pow_zero, Nat.div_one]
  exact BitVec.eq_of_toNat_eq (by rw [BitVec.toNat_ofNat, Nat.add_mul_mod_self_left, Nat.mod_eq_of_lt x.isLt])

theorem word_succ (j : Nat) : (x.toNat + 2 ^ 32 * y) / 2 ^ (32 * (j + 1)) = y / 2 ^ (32 * j) := by
  rw [Nat.mul_succ, Nat.add_comm (32 * j), Nat.pow_add, ← Nat.div_div_eq_div_mul, Nat.add_mul_div_left _ _ (Nat.two_pow_pos 32),
    Nat.div_eq_of_lt x.isLt, Nat.zero_add]

end

theorem Group.twords_word (g : Group) (i r n j : Nat) (hj : j < n) : BitVec.ofNat 32 (g.twords i r n / 2 ^ (32 * j)) = g.treg i (r + j) := by
  induction n generalizing r j with
  | zero => exact absurd hj (Nat.not_lt_zero j)
  | succ n ih =>
    cases j with
    | zero => exact word_zero ..
    | succ j => rw [Group.twords, word_succ, ih (r + 1) j (Nat.lt_of_succ_lt_succ hj), Nat.add_right_comm, Nat.add_assoc]

theorem Group.uwords_word (g : Group) (r n j : Nat) (hj : j < n) : BitVec.ofNat 32 (g.uwords r n / 2 ^ (32 * j)) = g.ureg (r + j) := by
  induction n generalizing r j with
  | zero => exact absurd hj (Nat.not_lt_zero j)
  | succ n ih =>
    cases j with
    | zero => exact word_zero ..
    | succ j => rw [Group.uwords, word_succ, ih (r + 1) j (Nat.lt_of_succ_lt_succ hj), Nat.add_right_comm, Nat.add_assoc]

/-! Immediates (R132). -/

/-- Whether a source takes an immediate. -/
def Desc.takesImm (d : Desc) (w : Fields) (k : Nat) : Bool := decide (w.kind k = 2) && decide (0 < (d.use k).uwords)

theorem Desc.immSources_eq (d : Desc) (w : Fields) : d.immSources w = [0, 1, 2].filter (d.takesImm w) := rfl

theorem Desc.mem_immSources {d : Desc} {w : Fields} {k : Nat} (hk : k < 3) : k ∈ d.immSources w ↔ d.takesImm w k = true := by
  rw [Desc.immSources_eq, List.mem_filter]
  refine and_iff_right ?_
  simp only [List.mem_cons, List.not_mem_nil, or_false]
  omega

theorem Desc.legal_imms {d : Desc} {w : Fields} (h : d.legal w = true) : d.immsLegal w = true := by
  unfold Desc.legal at h
  exact (Bool.and_eq_true_iff.mp h).2

/-- In a legal word that may take both immediates, either one source takes both, or each of at most two takes one. -/
theorem Desc.immsLegal_cases {d : Desc} {w : Fields} (h : d.legal w = true) (h0 : d.own0 = false) (h1 : d.own1 = false) :
    (∃ k, d.immSources w = [k] ∧ (d.use k).uwords = 2 ∧ d.wideImm w = true) ∨
      (d.wideImm w = false ∧ (d.immSources w).length ≤ 2 ∧ ∀ k ∈ d.immSources w, (d.use k).uwords = 1) := by
  have himms := Desc.legal_imms h
  unfold Desc.immsLegal at himms
  cases hwide : d.wideImm w with
  | true =>
    left
    unfold Desc.wideImm at hwide
    split at hwide
    · next k hk => exact ⟨k, hk, beq_iff_eq.mp hwide, rfl⟩
    · cases hwide
  | false =>
    right
    simp only [hwide, Bool.false_eq_true, if_false, Bool.and_eq_true, decide_eq_true_eq, List.all_eq_true, beq_iff_eq] at himms
    obtain ⟨⟨hlen, hone⟩, -⟩ := himms
    simp only [Desc.freeImms, h0, h1] at hlen
    exact ⟨rfl, hlen, hone⟩

/-- The word that a source takes by its place: the first of two where no source before it takes one, else the second. -/
theorem immPlace {p : Nat → Bool} {k : Nat} (hk : k < 3) (hp : p k = true) (hlen : ([0, 1, 2].filter p).length ≤ 2) (f : Nat → Nat) :
    ((([0, 1, 2].filter p).zip [0, 1]).findSome? (fun e => if e.1 = k then some (f e.2) else none)).getD 0 =
      if ∃ j, j < k ∧ p j = true then f 1 else f 0 := by
  interval_cases k
  · rw [if_neg (by rintro ⟨j, hj, -⟩; exact Nat.not_lt_zero j hj)]
    cases h1 : p 1 <;> cases h2 : p 2 <;> simp_all [List.filter]
  · cases h0 : p 0 <;> cases h2 : p 2 <;> simp_all [List.filter]
  · have hbefore : (∃ j, j < 2 ∧ p j = true) ↔ p 0 = true ∨ p 1 = true :=
      ⟨fun ⟨j, hj, hpj⟩ => by interval_cases j <;> simp [hpj], fun h => h.elim (⟨0, by decide, ·⟩) (⟨1, by decide, ·⟩)⟩
    rw [if_congr hbefore rfl rfl]
    cases h0 : p 0 <;> cases h1 : p 1 <;> simp_all [List.filter]

section
variable {d : Desc} {w : Fields} {k : Nat} (h : d.legal w = true) (h0 : d.own0 = false) (h1 : d.own1 = false) (hk : k ∈ d.immSources w)
include h h0 h1 hk

theorem Desc.immOf_wide (hv : (d.use k).uwords = 2) : d.immOf w k = w.imm0.toNat + 2 ^ 32 * w.imm1.toNat := by
  unfold Desc.immOf
  rcases Desc.immsLegal_cases h h0 h1 with ⟨_, -, -, hwide⟩ | ⟨-, -, hone⟩
  · rw [if_pos hwide]
  · have := hone k hk
    omega

/-- The immediate of a source of one word: IMM1 where a source before it takes IMM0. -/
theorem Desc.immOf_one (hk3 : k < 3) (hv : (d.use k).uwords = 1) :
    d.immOf w k = if ∃ j, j < k ∧ d.takesImm w j = true then w.imm1.toNat else w.imm0.toNat := by
  rcases Desc.immsLegal_cases h h0 h1 with ⟨j, hj, htwo, -⟩ | ⟨hwide, hlen, -⟩
  · rw [hj, List.mem_singleton] at hk
    subst hk
    omega
  · unfold Desc.immOf
    rw [if_neg (by rw [hwide]; exact Bool.false_ne_true), Desc.immSources_eq, Desc.freeImms, h0, h1]
    exact immPlace hk3 ((Desc.mem_immSources hk3).mp hk) (Desc.immSources_eq d w ▸ hlen) (fun i => (w.immWord i).toNat)

end

/-- A source of kind immediate that takes a word. -/
theorem Desc.takesImm_of_use {d : Desc} {w : Fields} {k : Nat} {v : Val} (hkind : w.kind k = 2) (hv : d.use k = .value v) (hw : 0 < v.uwords) :
    d.takesImm w k = true := by
  unfold Desc.takesImm
  rw [hkind, hv]
  exact decide_eq_true hw

theorem Desc.takesImm_iff {d : Desc} {w : Fields} {k : Nat} :
    d.takesImm w k = true ↔ ∃ v, w.kind k = 2 ∧ d.use k = .value v ∧ 0 < v.uwords := by
  refine ⟨fun h => ?_, fun ⟨v, hkind, hv, hw⟩ => Desc.takesImm_of_use hkind hv hw⟩
  unfold Desc.takesImm at h
  rw [Bool.and_eq_true, decide_eq_true_iff, decide_eq_true_iff] at h
  obtain ⟨hkind, hw⟩ := h
  cases hu : d.use k with
  | value v => exact ⟨v, hkind, rfl, by rwa [hu] at hw⟩
  | unused => rw [hu] at hw; cases hw
  | pred => rw [hu] at hw; cases hw
  | special => rw [hu] at hw; cases hw

section
variable (d : Desc) (w : Fields) (g : Group) {k : Nat} (n i e : Nat)

/-! What a source reads, by its kind. -/

theorem Desc.read_thread (h : w.kind k = 0) : d.read w g k n i e = g.twords i (w.src k + e * n) n := by
  simp only [Desc.read, h]

theorem Desc.read_uniform (h : w.kind k = 1) : d.read w g k n i e = g.uwords (w.src k) n := by
  simp only [Desc.read, h]

theorem Desc.read_imm (h : w.kind k = 2) : d.read w g k n i e = d.immOf w k % 2 ^ (32 * n) := by
  simp only [Desc.read, h]

theorem Desc.read_zero (h : w.kind k = 3) : d.read w g k n i e = 0 := by
  simp only [Desc.read, h]

end

end Sys2Proof.Machine

section

open Sys2Proof Sys2Proof.Machine

/-- Settles O21: the sources that take an immediate stand in the order A, B, C, and a legal word has at most two of them, or one that takes
both words. -/
theorem operands : Obligations.Operands := by
  intro d w g k n i e hk
  refine ⟨fun h j hj => ?_, fun h j hj => ?_, d.read_zero w g n i e, fun hlegal h0 h1 hkind v hv => ?_⟩
  · rw [d.read_thread w g n i e h, Group.twords_word _ _ _ _ _ hj]
  · rw [d.read_uniform w g n i e h, Group.uwords_word _ _ _ _ hj]
  · have huse : (d.use k).uwords = v.uwords := by rw [hv]; rfl
    have hmem : 0 < v.uwords → k ∈ d.immSources w := fun hw => (Desc.mem_immSources hk).mpr (Desc.takesImm_of_use hkind hv hw)
    refine ⟨fun htwo => ?_, fun hone hnone => ?_, fun hone ⟨j, u, hj, hjkind, hju, hjw⟩ => ?_⟩
    · rw [d.read_imm w g 2 i e hkind, Desc.immOf_wide hlegal h0 h1 (hmem (by omega)) (huse.trans htwo)]
      exact Nat.mod_eq_of_lt (by have := w.imm0.isLt; have := w.imm1.isLt; omega)
    · rw [d.read_imm w g 1 i e hkind, Desc.immOf_one hlegal h0 h1 (hmem (by omega)) hk (huse.trans hone), if_neg]
      · exact Nat.mod_eq_of_lt w.imm0.isLt
      · rintro ⟨j, hj, htakes⟩
        obtain ⟨u, hjkind, hju, hjw⟩ := Desc.takesImm_iff.mp htakes
        have := hnone j u hj hjkind hju
        omega
    · rw [d.read_imm w g 1 i e hkind, Desc.immOf_one hlegal h0 h1 (hmem (by omega)) hk (huse.trans hone),
        if_pos ⟨j, hj, Desc.takesImm_of_use hjkind hju hjw⟩]
      exact Nat.mod_eq_of_lt w.imm1.isLt

end
end

section
/-! SUPPORT. Rounding a magnitude to a multiple of a power of two (R138). -/

namespace Sys2Proof.Machine

/-- A magnitude with k bits to lose, rounded to a multiple of 2^k. -/
theorem roundAt_zero (mode : Nat) (neg : Bool) (m k : Nat) (hk : 0 < k) : roundAt mode neg m 0 false (k : Int) =
    (if roundsUp mode neg (m / 2 ^ k % 2 = 1) (m % 2 ^ k) (2 ^ (k - 1)) false then m / 2 ^ k + 1 else m / 2 ^ k, decide (m % 2 ^ k ≠ 0)) := by
  unfold roundAt
  rw [if_neg (by omega), Int.sub_zero, Int.toNat_natCast]
  dsimp only
  rw [Nat.shiftRight_eq_div_pow, Bool.or_false]
  congr 1
  exact Bool.eq_iff_iff.mpr (by simp)

/-- R138: to nearest, within half a step, and even where both neighbours are as near. -/
theorem roundAt_nearestEven (neg : Bool) (m k : Nat) (hk : 0 < k) : let n := (roundAt 0 neg m 0 false (k : Int)).1
    2 * n * 2 ^ k ≤ 2 * m + 2 ^ k ∧ 2 * m ≤ 2 * n * 2 ^ k + 2 ^ k ∧ (2 * m % 2 ^ (k + 1) = 2 ^ k → n % 2 = 0) := by
  obtain ⟨j, rfl⟩ : ∃ j, k = j + 1 := ⟨k - 1, by omega⟩
  intro n
  have hsplit := Nat.div_add_mod m (2 ^ (j + 1))
  have hlt := Nat.mod_lt m (Nat.two_pow_pos (j + 1))
  have htie : 2 * m % 2 ^ (j + 1 + 1) = 2 * (m % 2 ^ (j + 1)) := by rw [Nat.pow_succ 2 (j + 1), Nat.mul_comm (2 ^ (j + 1)), Nat.mul_mod_mul_left]
  have hn : n = if 2 ^ j < m % 2 ^ (j + 1) ∨ (m % 2 ^ (j + 1) = 2 ^ j ∧ m / 2 ^ (j + 1) % 2 = 1) then m / 2 ^ (j + 1) + 1 else m / 2 ^ (j + 1) := by
    show (roundAt 0 neg m 0 false ((j + 1 : Nat) : Int)).1 = _
    rw [roundAt_zero 0 neg m (j + 1) hk]
    simp [roundsUp]
  rw [htie, hn]
  generalize m % 2 ^ (j + 1) = r at *
  generalize m / 2 ^ (j + 1) = q at *
  rw [Nat.pow_succ] at *
  generalize 2 ^ j = b at *
  subst hsplit
  have hnext : 2 * (q + 1) * (b * 2) = 4 * (b * q) + 4 * b := by ring
  have hhere : 2 * q * (b * 2) = 4 * (b * q) := by ring
  have hmag : b * 2 * q = 2 * (b * q) := by ring
  rw [hmag]
  split
  · rw [hnext]
    omega
  · rw [hhere]
    omega

/-- R138: toward zero is the truncation. -/
theorem roundAt_towardZero (neg : Bool) (m k : Nat) (hk : 0 < k) : (roundAt 1 neg m 0 false (k : Int)).1 = m / 2 ^ k := by
  rw [roundAt_zero 1 neg m k hk]
  rfl

/-- R138: toward minus infinity a negative magnitude that is no multiple goes up. -/
theorem roundAt_down (neg : Bool) (m k : Nat) (hk : 0 < k) : (roundAt 2 neg m 0 false (k : Int)).1 =
    if neg = true ∧ m % 2 ^ k ≠ 0 then m / 2 ^ k + 1 else m / 2 ^ k := by
  rw [roundAt_zero 2 neg m k hk]
  simp [roundsUp]

/-- R138: toward plus infinity a positive magnitude that is no multiple goes up. -/
theorem roundAt_up (neg : Bool) (m k : Nat) (hk : 0 < k) : (roundAt 3 neg m 0 false (k : Int)).1 =
    if neg = false ∧ m % 2 ^ k ≠ 0 then m / 2 ^ k + 1 else m / 2 ^ k := by
  rw [roundAt_zero 3 neg m k hk]
  simp [roundsUp]

end Sys2Proof.Machine

section

open Sys2Proof Sys2Proof.Machine

/-- Settles O22: what is discarded is the remainder modulo 2^k, and each mode asks one question of it. -/
theorem nearestEven : Obligations.NearestEven := by
  intro neg m k hk r
  refine ⟨roundAt_nearestEven neg m k hk, roundAt_towardZero neg m k hk, roundAt_down neg m k hk, roundAt_up neg m k hk, fun mode => ?_⟩
  show (roundAt mode neg m 0 false (k : Int)).2 = true ↔ _
  rw [roundAt_zero mode neg m k hk]
  exact decide_eq_true_iff

end
end

section
/-! SUPPORT. The accesses of an issue by line, and the bytes of a line under a mask (R153, R154, R259). -/

namespace Sys2Proof.Machine

/-! Accesses by line. -/

/-- An access put with those of its line. -/
def joinLine (out : List (Nat × List LaneAcc)) (e : Nat × LaneAcc) : List (Nat × List LaneAcc) :=
  if out.any (fun g => g.1 == e.1) then out.map (fun g => if g.1 == e.1 then (g.1, g.2 ++ [e.2]) else g) else out ++ [(e.1, [e.2])]

theorem lineGroups_eq (accs : List (Nat × LaneAcc)) : lineGroups accs = accs.foldl joinLine [] := rfl

/-- Groups of accesses by line: each line once, with its accesses in their order. -/
structure GroupedBy (accs : List (Nat × LaneAcc)) (out : List (Nat × List LaneAcc)) : Prop where
  lines : (out.map (·.1)).Nodup
  accesses : ∀ g ∈ out, g.2 = (accs.filter (fun e => e.1 == g.1)).map (·.2)
  covers : ∀ e ∈ accs, ∃ g ∈ out, g.1 = e.1

theorem GroupedBy.joinLine {accs : List (Nat × LaneAcc)} {out : List (Nat × List LaneAcc)} (h : GroupedBy accs out) (e : Nat × LaneAcc) :
    GroupedBy (accs ++ [e]) (joinLine out e) := by
  unfold Machine.joinLine
  split
  · next hany =>
    have hkey : ∀ g : Nat × List LaneAcc, (if g.1 == e.1 then (g.1, g.2 ++ [e.2]) else g).1 = g.1 := fun g => by split <;> rfl
    refine ⟨?_, fun g hg => ?_, fun x hx => ?_⟩
    · rw [List.map_map]
      exact (List.map_congr_left fun g _ => hkey g : _ = out.map (·.1)) ▸ h.lines
    · obtain ⟨y, hy, rfl⟩ := List.mem_map.mp hg
      rw [hkey, List.filter_append, List.map_append, ← h.accesses y hy]
      by_cases hye : y.1 = e.1
      · simp [hye]
      · simp [hye, Ne.symm hye]
    · obtain ⟨g, hg, hgx⟩ : ∃ g ∈ out, g.1 = x.1 := by
        rcases List.mem_append.mp hx with hx | hx
        · exact h.covers x hx
        · obtain ⟨g, hg, hge⟩ := List.any_eq_true.mp hany
          exact ⟨g, hg, (beq_iff_eq.mp hge).trans (by rw [List.mem_singleton.mp hx])⟩
      exact ⟨_, List.mem_map_of_mem hg, (hkey g).trans hgx⟩
  · next hany =>
    have hnew : ∀ g ∈ out, g.1 ≠ e.1 := fun g hg hge => hany (List.any_eq_true.mpr ⟨g, hg, beq_iff_eq.mpr hge⟩)
    refine ⟨?_, fun g hg => ?_, fun x hx => ?_⟩
    · rw [List.map_append, List.nodup_append]
      refine ⟨h.lines, List.nodup_singleton _, fun a ha b hb hab => ?_⟩
      obtain ⟨g, hg, rfl⟩ := List.mem_map.mp ha
      exact hnew g hg (hab.trans (List.mem_singleton.mp hb))
    · rw [List.filter_append, List.map_append]
      rcases List.mem_append.mp hg with hg | hg
      · rw [← h.accesses g hg]
        simp [Ne.symm (hnew g hg)]
      · rw [List.mem_singleton.mp hg]
        have hnone : accs.filter (fun x => x.1 == e.1) = [] := List.filter_eq_nil_iff.mpr fun x hx hxe => by
          obtain ⟨g, hg, hgx⟩ := h.covers x hx
          exact hnew g hg (hgx.trans (beq_iff_eq.mp hxe))
        simp [hnone]
    · rcases List.mem_append.mp hx with hx | hx
      · obtain ⟨g, hg, hgx⟩ := h.covers x hx
        exact ⟨g, List.mem_append_left _ hg, hgx⟩
      · exact ⟨_, List.mem_append_right _ (List.mem_singleton_self _), by rw [List.mem_singleton.mp hx]⟩

theorem lineGroups_grouped (accs : List (Nat × LaneAcc)) : GroupedBy accs (lineGroups accs) := by
  rw [lineGroups_eq]
  induction accs using List.reverseRecOn with
  | nil => exact ⟨List.nodup_nil, fun _ hg => absurd hg List.not_mem_nil, fun _ he => absurd he List.not_mem_nil⟩
  | append_singleton accs e ih =>
    rw [List.foldl_append]
    exact ih.joinLine e

/-- The accesses of a lane in the request of a line: its own, where it acts and its address lies there. -/
theorem memAccs_lane (c : Ctx) (addr data cmp : Nat → Nat) (W : BitVec 16) (nan : Nat → Bool) {g : Nat × List LaneAcc}
    (hg : g ∈ memAccs c addr data cmp W nan) (i : Nat) : (g.2.filter (fun a => a.lane == i)).map (·.off) =
      if i ∈ lanesOf c.act ∧ addr i / 128 = g.1 then [addr i % 128] else [] := by
  rw [(lineGroups_grouped _).accesses g hg]
  simp only [List.filter_map, List.map_map]
  show (((lanesOf c.act).filter (fun j => addr j / 128 == g.1)).filter (fun j => j == i)).map (fun j => addr j % 128) = _
  rw [List.filter_beq, List.map_replicate]
  have hnodup := (nodup_lanesOf c.act).filter (fun j => addr j / 128 == g.1)
  have hmem : i ∈ (lanesOf c.act).filter (fun j => addr j / 128 == g.1) ↔ i ∈ lanesOf c.act ∧ addr i / 128 = g.1 := by
    rw [List.mem_filter, beq_iff_eq]
  split
  · next hi => rw [List.count_eq_one_of_mem hnodup (hmem.mpr hi)]; rfl
  · next hi => rw [List.count_eq_zero_of_not_mem (mt hmem.mp hi)]; rfl

/-- Every lane that acts is in one request alone, that of its line, at its offset. -/
theorem memAccs_lanes (c : Ctx) (addr data cmp : Nat → Nat) (W : BitVec 16) (nan : Nat → Bool) (i : Nat) : i ∈ lanesOf c.act ↔
    ∃ g ∈ memAccs c addr data cmp W nan, g.1 = addr i / 128 ∧ (g.2.filter (fun a => a.lane == i)).map (·.off) = [addr i % 128] := by
  refine ⟨fun hi => ?_, fun ⟨g, hg, _, hoff⟩ => ?_⟩
  · obtain ⟨g, hg, hline⟩ := (lineGroups_grouped _).covers _ (List.mem_map_of_mem hi)
    exact ⟨g, hg, hline, by rw [memAccs_lane c addr data cmp W nan hg, if_pos ⟨hi, hline.symm⟩]⟩
  · rw [memAccs_lane c addr data cmp W nan hg] at hoff
    by_contra hi
    rw [if_neg fun h => hi h.1] at hoff
    cases hoff

/-! Bytes of a line under a mask (R259). -/

theorem testBit_wideMask (m n i : Nat) : (wideMask m n).testBit i = (decide (i < 8 * n) && m.testBit (i / 8)) := by
  induction n generalizing m i with
  | zero => simp [wideMask]
  | succ n ih =>
    have hlow : (if m % 2 = 1 then 255 else 0) < 2 ^ 8 := by split <;> decide
    rw [wideMask, Nat.add_comm, show 256 = 2 ^ 8 from rfl, Nat.testBit_two_pow_mul_add _ hlow]
    split
    · next hi =>
      have hdiv : i / 8 = 0 := Nat.div_eq_of_lt hi
      rw [hdiv, Nat.testBit_zero, decide_eq_true (show i < 8 * (n + 1) by omega), Bool.true_and]
      split
      · next hm => rw [decide_eq_true hm, show 255 = 2 ^ 8 - 1 from rfl, Nat.testBit_two_pow_sub_one, decide_eq_true hi]
      · next hm => rw [decide_eq_false hm, Nat.zero_testBit]
    · next hi =>
      have hdiv : i / 8 = (i - 8) / 8 + 1 := by omega
      rw [ih, hdiv, Nat.testBit_succ]
      congr 1
      exact decide_eq_decide.mpr (by omega)

theorem getLsbD_mergeLine (old new : LineData) (m : ByteMask) (i : Nat) (hi : i < 1024) :
    (mergeLine old new m).getLsbD i = if m.getLsbD (i / 8) then new.getLsbD i else old.getLsbD i := by
  have hw : (BitVec.ofNat 1024 (wideMask m.toNat 128)).getLsbD i = m.getLsbD (i / 8) := by
    rw [BitVec.getLsbD_ofNat, testBit_wideMask, decide_eq_true hi, BitVec.testBit_toNat]
    rfl
  unfold mergeLine
  dsimp only
  rw [BitVec.getLsbD_or, BitVec.getLsbD_and, BitVec.getLsbD_and, BitVec.getLsbD_not, hw, decide_eq_true hi]
  cases m.getLsbD (i / 8) <;> simp

theorem getLsbD_maskOf (o n b : Nat) (hb : b < 128) : (maskOf o n).getLsbD b = decide (o ≤ b ∧ b < o + n) := by
  unfold maskOf
  rw [BitVec.getLsbD_ofNat, Nat.testBit_mul_two_pow, Nat.testBit_two_pow_sub_one, decide_eq_true hb, Bool.true_and, ← Bool.decide_and]
  exact decide_eq_decide.mpr (by omega)

/-- Byte b of a line. -/
def lineByte (l : LineData) (b : Nat) : BitVec 8 := l.extractLsb' (8 * b) 8

theorem getLsbD_lineByte (l : LineData) (b j : Nat) : (lineByte l b).getLsbD j = (decide (j < 8) && l.getLsbD (8 * b + j)) :=
  BitVec.getLsbD_extractLsb' ..

/-- Bytes put into a line: those from the offset on are the number's, the others stay. -/
theorem lineByte_putLineBytes (l : LineData) (o n v b : Nat) (hb : b < 128) : lineByte (putLineBytes l o n v) b =
    if o ≤ b ∧ b < o + n then BitVec.ofNat 8 (v / 2 ^ (8 * (b - o))) else lineByte l b := by
  refine BitVec.eq_of_getLsbD_eq fun j hj => ?_
  have hdiv : (8 * b + j) / 8 = b := by omega
  rw [getLsbD_lineByte, decide_eq_true hj, Bool.true_and, putLineBytes, getLsbD_mergeLine _ _ _ _ (by omega), hdiv, getLsbD_maskOf o n b hb]
  by_cases hin : o ≤ b ∧ b < o + n
  · rw [if_pos (decide_eq_true hin), if_pos hin, BitVec.getLsbD_ofNat, Nat.testBit_mul_two_pow, Nat.testBit_mod_two_pow, BitVec.getLsbD_ofNat,
      Nat.testBit_div_two_pow, decide_eq_true (show 8 * b + j < 1024 by omega), decide_eq_true (show 8 * o ≤ 8 * b + j by omega),
      decide_eq_true (show 8 * b + j - 8 * o < 8 * n by omega), decide_eq_true hj]
    simp only [Bool.true_and]
    congr 1
    omega
  · rw [if_neg (by simpa using hin), if_neg hin, getLsbD_lineByte, decide_eq_true hj, Bool.true_and]

/-! The request of a line (R154). -/

/-- An access of n bytes covers a byte of its line. -/
def LaneAcc.covers (a : LaneAcc) (n b : Nat) : Bool := decide (a.off ≤ b) && decide (b < a.off + n)

theorem getLsbD_foldl_maskOf (accs : List LaneAcc) (n b : Nat) (hb : b < 128) :
    (accs.foldl (fun m a => m ||| maskOf a.off n) (0 : ByteMask)).getLsbD b = (accs.reverse.find? (fun a => a.covers n b)).isSome := by
  rw [Bool.eq_iff_iff, foldl_or_getLsbD, List.find?_isSome]
  simp [getLsbD_maskOf _ _ _ hb, LaneAcc.covers]

/-- The byte that an access puts at a byte of its line which it covers. -/
def LaneAcc.byteAt (a : LaneAcc) (b : Nat) : BitVec 8 := a.data.extractLsb' (8 * (b - a.off)) 8

theorem LaneAcc.byteAt_eq {a : LaneAcc} {n b : Nat} (h : a.covers n b = true) :
    BitVec.ofNat 8 (a.data.toNat % 2 ^ (8 * n) / 2 ^ (8 * (b - a.off))) = a.byteAt b := by
  unfold LaneAcc.covers at h
  rw [Bool.and_eq_true, decide_eq_true_iff, decide_eq_true_iff] at h
  refine BitVec.eq_of_getLsbD_eq fun j hj => ?_
  rw [BitVec.getLsbD_ofNat, Nat.testBit_div_two_pow, Nat.testBit_mod_two_pow, LaneAcc.byteAt, BitVec.getLsbD_extractLsb',
    decide_eq_true (show j + 8 * (b - a.off) < 8 * n by omega), Bool.true_and, Nat.add_comm j]
  rfl

/-- A byte of a request is that of the last access which covers it. -/
theorem lineByte_foldl_putLineBytes (accs : List LaneAcc) (n b : Nat) (hb : b < 128) :
    lineByte (accs.foldl (fun d a => putLineBytes d a.off n (a.data.toNat % 2 ^ (8 * n))) 0) b =
      ((accs.reverse.find? (fun a => a.covers n b)).map (·.byteAt b)).getD 0 := by
  induction accs using List.reverseRecOn with
  | nil => exact BitVec.extractLsb'_zero
  | append_singleton accs a ih =>
    rw [List.foldl_append, List.foldl_cons, List.foldl_nil, lineByte_putLineBytes _ _ _ _ _ hb, List.reverse_append, List.reverse_singleton,
      List.singleton_append]
    cases hc : a.covers n b with
    | true =>
      rw [if_pos (by simpa [LaneAcc.covers] using hc), a.byteAt_eq hc]
      simp only [List.find?_cons, hc]
      rfl
    | false =>
      rw [if_neg (by simpa [LaneAcc.covers] using hc), ih]
      simp only [List.find?_cons, hc]

end Sys2Proof.Machine

section

open Sys2Proof Sys2Proof.Machine

/-- Settles O20: the accesses are put one by one with those of their line, and into a request in the order of their lanes. -/
theorem lineRequests : Obligations.LineRequests := by
  refine ⟨fun c addr data cmp W nan => ⟨(lineGroups_grouped _).lines, memAccs_lanes c addr data cmp W nan⟩,
    fun s c w kind dst id line accs b hb _ => ?_⟩
  have hmask := getLsbD_foldl_maskOf accs (memSize w) b hb
  have hdata := lineByte_foldl_putLineBytes accs (memSize w) b hb
  intro r
  split
  · next a ha =>
    rw [show accs.reverse.find? (fun a => a.covers (memSize w) b) = some a from ha] at hmask hdata
    exact ⟨hmask, hdata⟩
  · next ha =>
    rw [show accs.reverse.find? (fun a => a.covers (memSize w) b) = none from ha] at hmask hdata
    exact ⟨hmask, hdata⟩

end
end

section
/-! SUPPORT. An issue by the state of its effect, and the accesses of a memory instruction on the global space (R152, R153). -/

namespace Sys2Proof.Machine

section
variable {m : Sem} {g : GRef} {w : Fields} {s : State} {c : Ctx} {d : Desc} (h : Issues m g w s c d)
include h

/-- What an issue leaves, by the state of the instruction's own effect. -/
theorem Sem.issue_effect {e : State} (he : m.eff (movedOn s c d) (c.advance d) w = e) :
    m.issue g w s = ((e.occupy m c.ga (c.slot / 16) [c] w).issued c.ga c.slot (granules c.sub.lanes)).afterIssue c.ga c.slot c.grp.block := by
  rw [Sem.issue_go h, Sem.perform_eq, he]

theorem issues_desc : (m.desc w).getD Desc.plain = d := by rw [(Sem.verdict_go h.go).2.1, Option.getD_some]

end

/-! The accesses of an issue do not depend on where its lanes stand. -/

section
variable (c : Ctx) (d : Desc) (w : Fields) (d' : Desc)

@[simp] theorem memAddr_advance (cas : Bool) : memAddr d' w (c.advance d).grp cas = memAddr d' w c.grp cas := rfl

@[simp] theorem memAccs_advance : memAccs (c.advance d) = memAccs c := rfl

@[simp] theorem loadReqs_advance : loadReqs (c.advance d) w d' = loadReqs c w d' := rfl

@[simp] theorem storeReqs_advance : storeReqs (c.advance d) w d' = storeReqs c w d' := by
  simp only [storeReqs, memAccs_advance, memAddr_advance, Ctx.advance_read]

end

/-- The atomics and reductions, each with its operation and whether it has a result (R155, R156). -/
def atomics : List ((GRef → Fields → Instr) × Sem × Nat × Bool) :=
  [(.atomAdd, atomAddSem, 0, true), (.atomMin, atomMinSem, 1, true), (.atomMax, atomMaxSem, 2, true), (.atomAnd, atomAndSem, 3, true),
    (.atomOr, atomOrSem, 4, true), (.atomXor, atomXorSem, 5, true), (.atomExch, atomExchSem, 6, true), (.atomCas, atomCasSem, 7, true),
    (.redAdd, redAddSem, 0, false), (.redMin, redMinSem, 1, false), (.redMax, redMaxSem, 2, false), (.redAnd, redAndSem, 3, false),
    (.redOr, redOrSem, 4, false), (.redXor, redXorSem, 5, false)]

/-- They are all of one form. -/
theorem atomics_atomSem : ∀ e ∈ atomics, ∃ code float order, e.2.1 = atomSem code e.2.2.1 e.2.2.2 float order ∧
    ∀ g w s, exec (e.1 g w) s = next (e.2.1.issue g w s) := by
  simp only [atomics, List.forall_mem_cons, List.not_mem_nil, false_imp_iff, implies_true, and_true]
  and_intros <;> exact ⟨_, _, _, rfl, fun _ _ _ => rfl⟩

/-- The accesses of an atomic or a reduction on the global space. -/
theorem atomSem_global {code op : Nat} {result float order : Bool} {g : GRef} {w : Fields} {s : State} {c : Ctx} {d : Desc}
    (h : Issues (atomSem code op result float order) g w s c d) (hl : memLocal w = false) :
    (atomSem code op result float order).eff (movedOn s c d) (c.advance d) w =
      (memAccs c (memAddr d w c.grp (decide (op = 7))) (fun i => d.read w c.grp 2 (loadRegs (memSize w)) i 0)
        (fun i => if op = 7 then d.read w c.grp 1 (loadRegs (memSize w)) i 0 else 0) 0 (fun _ => false)).foldl
        (atomOut (c.advance d) w (if result then .atom op else .red op) (if result then loadRegs (memSize w) else 0)) (movedOn s c d) := by
  have hd : (atomDesc op result float order w).getD Desc.plain = d := issues_desc h
  simp only [atomSem, hl, hd, Bool.false_eq_true, if_false, memAccs_advance, memAddr_advance, Ctx.advance_read]

end Sys2Proof.Machine
end

section

open Sys2Proof Sys2Proof.Machine

/-- Settles O19: each issue by the state of its effect, whose accesses are those of the lanes before they moved on. -/
theorem globalAccesses : Obligations.GlobalAccesses := by
  unfold Obligations.GlobalAccesses
  intro after pushed
  refine ⟨fun g w s c d h hl => ⟨_, rfl, Sem.issue_effect h ?_⟩, fun g w s c d h => ⟨_, rfl, Sem.issue_effect h ?_⟩,
    fun g w s c d h => ⟨_, rfl, Sem.issue_effect h ?_⟩, fun g w s c d h hl => ⟨_, rfl, Sem.issue_effect h ?_⟩,
    fun g w s c d h => ⟨_, rfl, Sem.issue_effect h ?_⟩, fun g w s c d h => ⟨_, rfl, Sem.issue_effect h ?_⟩,
    fun g w s c d h => ⟨_, rfl, Sem.issue_effect h ?_⟩, fun g w s c d h => ⟨_, rfl, Sem.issue_effect h ?_⟩,
    fun g w s c d h => ⟨_, rfl, Sem.issue_effect h ?_⟩, ?_⟩
  · have hd : (ldDesc w).getD Desc.plain = d := issues_desc h
    simp only [ldSem, hl, hd, Bool.false_eq_true, if_false, loadReqs_advance]
  · have hd : (ldAcqDesc w).getD Desc.plain = d := issues_desc h
    simp only [ldAcqSem, hd, loadReqs_advance, Ctx.advance_act]
    by_cases hs : 3 ≤ memScope w <;> simp only [hs, if_true, if_false, decide_true, decide_false]
  · have hd : (ldLastDesc w).getD Desc.plain = d := issues_desc h
    simp only [ldLastSem, hd, loadReqs_advance]
  · have hd : (stDesc w).getD Desc.plain = d := issues_desc h
    simp only [stSem, hl, hd, Bool.false_eq_true, if_false, storeReqs_advance]
  · have hd : (stRelDesc w).getD Desc.plain = d := issues_desc h
    simp only [stRelSem, hd, storeReqs_advance]
    rfl
  · rfl
  · have hd : (prefetchDesc w).getD Desc.plain = d := issues_desc h
    simp only [prefetchSem, hd, loadReqs_advance]
  · have hd : (killDesc w).getD Desc.plain = d := issues_desc h
    simp only [killLineSem, hd, loadReqs_advance]
  · have hd : (ledgerDesc w).getD Desc.plain = d := issues_desc h
    simp only [redAddLedgerSem, hd, memAccs_advance, memAddr_advance, Ctx.advance_read]
    rfl
  · intro e he g w s c d h hl
    obtain ⟨code, float, order, hm, hx⟩ := atomics_atomSem e he
    rw [hm] at h
    exact ⟨_, hx g w s, hm ▸ Sem.issue_effect h (atomSem_global h hl)⟩

end

section
/-! SUPPORT. The local store by its bytes, and local accesses lane by lane (R152, R154, R155, R243, R244). -/

namespace Sys2Proof.Machine

/-! Bytes written. -/

/-- n bytes written: those from the address on are the number's, the others stay. -/
theorem Mem.read_writeLE {m : List Host.Cell} (h : Memory.wf m = true) (a v n k : Nat) :
    Mem.read (Mem.writeLE m a v n) k = if a ≤ k ∧ k < a + n then BitVec.ofNat 8 (v / 2 ^ (8 * (k - a))) else Mem.read m k := by
  by_cases hin : a ≤ k ∧ k < a + n
  · rw [if_pos hin]
    induction n generalizing m a v with
    | zero => omega
    | succ n ih =>
      have hwf := Mem.write_wf m a (BitVec.ofNat 8 v) h
      rw [Mem.writeLE]
      rcases Nat.eq_or_lt_of_le hin.1 with rfl | hlt
      · rw [Mem.read_writeLE_other n _ _ _ a hwf (Or.inl a.lt_succ_self), Mem.read_write_self m a _ h, Nat.sub_self, Nat.mul_zero, Nat.pow_zero,
          Nat.div_one]
      · rw [ih hwf (a + 1) (v / 256) (by omega), show 256 = 2 ^ 8 from rfl, Nat.div_div_eq_div_mul, ← Nat.pow_add]
        congr 3
        omega
  · rw [if_neg hin, Mem.read_writeLE_other n m a v k h (by omega)]

/-- Writes one after another: a byte is that of the last one which covers it. -/
theorem Mem.read_foldl_writeLE (l : List Nat) (a v : Nat → Nat) (n k : Nat) {m : List Host.Cell} (h : Memory.wf m = true) :
    Memory.wf (l.foldl (fun m i => Mem.writeLE m (a i) (v i) n) m) = true ∧
      Mem.read (l.foldl (fun m i => Mem.writeLE m (a i) (v i) n) m) k =
        ((l.reverse.find? (fun i => decide (a i ≤ k) && decide (k < a i + n))).map (fun i => BitVec.ofNat 8 (v i / 2 ^ (8 * (k - a i))))).getD
          (Mem.read m k) := by
  induction l using List.reverseRecOn with
  | nil => exact ⟨h, rfl⟩
  | append_singleton l i ih =>
    obtain ⟨hwf, hread⟩ := ih
    rw [List.foldl_append, List.foldl_cons, List.foldl_nil, List.reverse_append, List.reverse_singleton, List.singleton_append, List.find?_cons]
    refine ⟨Mem.writeLE_wf n _ _ _ hwf, ?_⟩
    rw [Mem.read_writeLE hwf, hread]
    by_cases hin : a i ≤ k ∧ k < a i + n
    · rw [if_pos hin]
      simp only [hin, decide_true, Bool.and_self, Option.map_some, Option.getD_some]
    · rw [if_neg hin, show (decide (a i ≤ k) && decide (k < a i + n)) = false by simpa using hin]

/-! What each lane finds. -/

section
variable {σ β : Type} (step : σ → Nat → σ) (found : σ → Nat → β)

/-- Lanes that act one after another on a store, with what each found. -/
def foundFold (z : σ) (l : List Nat) : σ × List (Nat × β) :=
  l.foldl (fun acc i => (step acc.1 i, acc.2 ++ [(i, found acc.1 i)])) (z, [])

theorem foundFold_append_one (z : σ) (l : List Nat) (j : Nat) : foundFold step found z (l ++ [j]) =
    (step (foundFold step found z l).1 j, (foundFold step found z l).2 ++ [(j, found (foundFold step found z l).1 j)]) :=
  List.foldl_append

theorem foundFold_fst (z : σ) (l : List Nat) : (foundFold step found z l).1 = l.foldl step z := by
  induction l using List.reverseRecOn with
  | nil => rfl
  | append_singleton l j ih => rw [foundFold_append_one, ih, List.foldl_append, List.foldl_cons, List.foldl_nil]

theorem foundFold_lanes (z : σ) (l : List Nat) : (foundFold step found z l).2.map (·.1) = l := by
  induction l using List.reverseRecOn with
  | nil => rfl
  | append_singleton l j ih => rw [foundFold_append_one, List.map_append, ih, List.map_singleton]

/-- What a lane found: what the lanes below it left. -/
theorem foundFold_find (z : σ) {l : List Nat} (hl : l.Pairwise (· < ·)) {i : Nat} (hi : i ∈ l) :
    (foundFold step found z l).2.find? (fun e => e.1 == i) = some (i, found ((l.filter (fun j => decide (j < i))).foldl step z) i) := by
  induction l using List.reverseRecOn with
  | nil => exact absurd hi List.not_mem_nil
  | append_singleton l j ih =>
    obtain ⟨hl, -, hlt⟩ := List.pairwise_append.mp hl
    have hj : ∀ k ∈ l, k < j := fun k hk => hlt k hk j (List.mem_singleton_self j)
    rw [foundFold_append_one, List.find?_append, List.filter_append]
    rcases List.mem_append.mp hi with hi | hi
    · have hnot : ¬ j < i := Nat.not_lt.mpr (hj i hi).le
      rw [ih hl hi, Option.some_or, List.filter_singleton, decide_eq_false hnot, cond_false, List.append_nil]
    · obtain rfl := List.mem_singleton.mp hi
      have hnone : (foundFold step found z l).2.find? (fun e => e.1 == i) = none := List.find?_eq_none.mpr fun e he hei => by
        have hmem := List.mem_map_of_mem (f := (·.1)) he
        rw [foundFold_lanes, beq_iff_eq.mp hei] at hmem
        exact lt_irrefl i (hj i hmem)
      rw [hnone, Option.none_or, List.find?_singleton, if_pos (beq_self_eq_true i), List.filter_singleton, decide_eq_false (lt_irrefl i),
        cond_false, List.append_nil, List.filter_eq_self.mpr fun k hk => decide_eq_true (hj k hk), foundFold_fst]

end

theorem lanesOf_ascending (m : BitVec 32) : (lanesOf m).Pairwise (· < ·) := List.pairwise_lt_range.filter _

/-! Local loads. -/

/-- Bytes sign-extended into a word. -/
theorem ofNat_wrapInt_readInt (n x : Nat) : BitVec.ofNat 32 (wrapInt 32 (readInt n true x)) = (BitVec.ofNat n x).signExtend 32 := by
  rw [← readInt_mod_two_pow, ← BitVec.toNat_ofNat, readInt_toNat, wrapInt_eq, ofInt_bitsInt_extend, BitVec.ofNat_toNat, BitVec.setWidth_eq]
  rfl

theorem ldDesc_signed {w : Fields} {d : Desc} (hd : ldDesc w = some d) (hs : memSigned w = true) : memSize w = 1 ∨ memSize w = 2 := by
  have hbits : loadBits w = true := by
    unfold ldDesc at hd
    split at hd
    · next h => exact h.1
    · cases hd
  have hpos : 0 < memSize w := Nat.two_pow_pos _
  simp only [loadBits, hs, Bool.and_eq_true, Bool.or_eq_true, decide_eq_true_eq] at hbits
  have hle : memSize w ≤ 2 := by simpa using hbits.2
  omega

/-- The words that a local load gives: sign-extended where SIGN asks. -/
theorem localLoad_word {w : Fields} {d : Desc} (hd : ldDesc w = some d) (x : Nat) {k : Nat} (hk : k < loadRegs (memSize w)) :
    BitVec.ofNat 32 ((if memSigned w then wrapInt 32 (readInt (8 * memSize w) true x) else x) / 2 ^ (32 * k)) =
      if memSigned w then (if memSize w = 1 then (BitVec.ofNat 8 x).signExtend 32 else (BitVec.ofNat 16 x).signExtend 32)
      else BitVec.ofNat 32 (x / 2 ^ (32 * k)) := by
  cases hs : memSigned w with
  | false => rfl
  | true =>
    rcases ldDesc_signed hd hs with hn | hn <;> rw [hn] at hk ⊢
    · rw [Nat.lt_one_iff.mp hk, if_pos rfl, if_pos rfl, if_pos rfl, Nat.mul_zero, Nat.pow_zero, Nat.div_one]
      exact ofNat_wrapInt_readInt 8 x
    · rw [Nat.lt_one_iff.mp hk, if_pos rfl, if_pos rfl, if_neg (by decide), Nat.mul_zero, Nat.pow_zero, Nat.div_one]
      exact ofNat_wrapInt_readInt 16 x

/-! The state in which the local store was written. -/

/-- The state in which the local store of an array was written. -/
def State.withLocalMem (s : State) (ga : Nat) (m : List Host.Cell) : State := onArr s ga (fun a => { a with localMem := m })

@[simp] theorem movedOn_localMem (s : State) (c : Ctx) (d : Desc) : ((movedOn s c d).arr c.ga).localMem = (s.arr c.ga).localMem := by
  unfold movedOn State.setGroup
  rw [State.arr_setArr_self]

theorem State.withLocalMem_setGroup (s : State) (ga slot : Nat) (m : List Host.Cell) (x : Group) :
    (s.withLocalMem ga m).setGroup ga slot x = (s.setGroup ga slot x).withLocalMem ga m := by
  simp only [State.withLocalMem, onArr, State.setGroup, State.arr_setArr_self, State.setArr_setArr]

theorem State.group_withLocalMem (s : State) (ga slot : Nat) (m : List Host.Cell) : (s.withLocalMem ga m).group ga slot = s.group ga slot := by
  unfold State.group State.withLocalMem onArr
  rw [State.arr_setArr_self]

theorem State.localLoad_eq (s : State) (c : Ctx) (w : Fields) (addr : Nat → Nat) :
    s.localLoad c w addr = s.setGroup c.ga c.slot (c.grp.writeD w c.act (loadRegs (memSize w)) fun i =>
      let x := Mem.readLE (s.arr c.ga).localMem (localKey c.blk (addr i)) (memSize w)
      if memSigned w then wrapInt 32 (readInt (8 * memSize w) true x) else x) := rfl

theorem State.localStore_eq (s : State) (c : Ctx) (w : Fields) (addr data : Nat → Nat) : s.localStore c w addr data =
    s.withLocalMem c.ga
      ((lanesOf c.act).foldl (fun m i => Mem.writeLE m (localKey c.blk (addr i)) (data i) (memSize w)) (s.arr c.ga).localMem) := rfl

/-- A load from local store. -/
theorem ldSem_local {g : GRef} {w : Fields} {s : State} {c : Ctx} {d : Desc} (h : Issues ldSem g w s c d) (hl : memLocal w = true) :
    ldSem.perform s c w d = s.setGroup c.ga c.slot ((c.advance d).grp.writeD w c.act (loadRegs (memSize w)) fun i =>
      let x := Mem.readLE (s.arr c.ga).localMem (localKey c.blk (memAddr d w c.grp false i)) (memSize w)
      if memSigned w then wrapInt 32 (readInt (8 * memSize w) true x) else x) := by
  have hd : (ldDesc w).getD Desc.plain = d := issues_desc h
  rw [Sem.perform_eq, ← movedOn_setGroup s c d, ← movedOn_localMem s c d]
  simp only [ldSem, hl, hd, if_true, memAddr_advance]
  rfl

/-- A store into local store. -/
theorem stSem_local {g : GRef} {w : Fields} {s : State} {c : Ctx} {d : Desc} (h : Issues stSem g w s c d) (hl : memLocal w = true) :
    stSem.perform s c w d = (movedOn s c d).withLocalMem c.ga ((lanesOf c.act).foldl (fun m i =>
      Mem.writeLE m (localKey c.blk (memAddr d w c.grp false i)) (d.read w c.grp 2 (loadRegs (memSize w)) i 0) (memSize w))
      (s.arr c.ga).localMem) := by
  have hd : (stDesc w).getD Desc.plain = d := issues_desc h
  rw [Sem.perform_eq, ← movedOn_localMem s c d]
  simp only [stSem, hl, hd, if_true, memAddr_advance, Ctx.advance_read]
  rfl

/-! Local atomics. -/

/-- What the atomic of a lane does to local store, at the address of the lane. -/
def atomStep (op : Nat) (w : Fields) (key x y : Nat → Nat) (m : List Host.Cell) (i : Nat) : List Host.Cell :=
  Mem.writeLE m (key i) (atomNew op (memSize w) (memSigned w) (memFloat w) (Mem.readLE m (key i) (memSize w)) (x i) (y i)) (memSize w)

/-- The local store before the atomic of a lane: what the lanes below it left. -/
def atomBefore (op : Nat) (w : Fields) (act : BitVec 32) (key x y : Nat → Nat) (m : List Host.Cell) (i : Nat) : List Host.Cell :=
  ((lanesOf act).filter (fun j => decide (j < i))).foldl (atomStep op w key x y) m

/-- What the atomic of a lane finds, as the array notes it. -/
def atomFound (op : Nat) (w : Fields) (act : BitVec 32) (key x y : Nat → Nat) (m : List Host.Cell) (i : Nat) : Nat :=
  (((foundFold (atomStep op w key x y) (fun m i => Mem.readLE m (key i) (memSize w)) m (lanesOf act)).2.find? (fun e => e.1 == i)).map (·.2)).getD 0

theorem atomFound_eq (op : Nat) (w : Fields) {act : BitVec 32} (key x y : Nat → Nat) (m : List Host.Cell) {i : Nat} (hi : i ∈ lanesOf act) :
    atomFound op w act key x y m i = Mem.readLE (atomBefore op w act key x y m i) (key i) (memSize w) := by
  rw [atomFound, foundFold_find _ _ m (lanesOf_ascending act) hi]
  rfl

/-- The group after local atomics: with a result each lane that acts has what it found. -/
def Group.withFound (g : Group) (w : Fields) (act : BitVec 32) (result : Bool) (found : Nat → Nat) : Group :=
  if result then g.writeD w act (loadRegs (memSize w)) found else g

theorem movedOn_localAtom (s : State) (c : Ctx) (d : Desc) (w : Fields) (op : Nat) (result : Bool) (addr x y : Nat → Nat) :
    let key := fun i => localKey c.blk (addr i)
    let m := (s.arr c.ga).localMem
    (movedOn s c d).localAtom (c.advance d) w op result addr x y =
      (s.setGroup c.ga c.slot ((c.advance d).grp.withFound w c.act result (atomFound op w c.act key x y m))).withLocalMem c.ga
        ((lanesOf c.act).foldl (atomStep op w key x y) m) := by
  intro key m
  rw [← foundFold_fst _ (fun m i => Mem.readLE m (key i) (memSize w)), ← show ((movedOn s c d).arr c.ga).localMem = m from movedOn_localMem s c d]
  cases result with
  | false => rfl
  | true => rw [← movedOn_setGroup s c d, ← State.withLocalMem_setGroup]; rfl

/-- An issue that writes local store and registers of its group. -/
theorem Sem.issue_localMem {m : Sem} {g : GRef} {w : Fields} {s : State} {c : Ctx} {d : Desc} (h : Issues m g w s c d)
    {y : Group} {l : List Host.Cell} (hp : m.perform s c w d = (s.setGroup c.ga c.slot y).withLocalMem c.ga l)
    (hy : OnRegisters (c.advance d).grp y) :
    MovedOn c (y.onto c.grp) y ∧ Issued ((s.setGroup c.ga c.slot y).withLocalMem c.ga l) (m.issue g w s) c :=
  Sem.issue_onRegisters h hp (by rw [State.group_withLocalMem, State.group_setGroup_self]) hy

theorem onRegisters_refl (g : Group) : OnRegisters g g := rfl

section
variable {code op : Nat} {result float order : Bool} {g : GRef} {w : Fields} {s : State} {c : Ctx} {d : Desc}
  (h : Issues (atomSem code op result float order) g w s c d) (hl : memLocal w = true)
include h hl

/-- An atomic or a reduction on local store. -/
theorem atomSem_local :
    let key := fun i => localKey c.blk (memAddr d w c.grp (decide (op = 7)) i)
    let x := fun i => d.read w c.grp 2 (loadRegs (memSize w)) i 0
    let y := fun i => if op = 7 then d.read w c.grp 1 (loadRegs (memSize w)) i 0 else 0
    let m := (s.arr c.ga).localMem
    let e := fun z => (s.setGroup c.ga c.slot z).withLocalMem c.ga ((lanesOf c.act).foldl (atomStep op w key x y) m)
    ∃ x' z, MovedOn c x' z ∧ Issued (e z) ((atomSem code op result float order).issue g w s) c ∧
      if result then WritesD c.grp x' w c.act (loadRegs (memSize w)) (fun i k =>
        BitVec.ofNat 32 (Mem.readLE (atomBefore op w c.act key x y m i) (key i) (memSize w) / 2 ^ (32 * k)))
      else x' = c.grp := by
  intro key x y m e
  have hd : (atomDesc op result float order w).getD Desc.plain = d := issues_desc h
  have hp : (atomSem code op result float order).perform s c w d = e ((c.advance d).grp.withFound w c.act result (atomFound op w c.act key x y m)) := by
    refine Eq.trans ?_ (movedOn_localAtom s c d w op result (memAddr d w c.grp (decide (op = 7))) x y)
    rw [Sem.perform_eq]
    simp only [atomSem, hl, hd, if_true, memAddr_advance, Ctx.advance_read]
    rfl
  cases result with
  | false =>
    obtain ⟨hmoved, hissued⟩ := Sem.issue_localMem h hp (onRegisters_refl _)
    exact ⟨_, _, hmoved, hissued, c.advance_onto d⟩
  | true =>
    have hw := Group.writeD_writes (c.advance d).grp w c.act (loadRegs (memSize w)) (atomFound op w c.act key x y m)
    obtain ⟨hmoved, hissued⟩ := Sem.issue_localMem h hp (writesD_onRegisters hw)
    refine ⟨_, _, hmoved, hissued, writesD_congr_lanes (writesD_onto hw (c.advance_onto d)) fun i k hi _ => ?_⟩
    rw [atomFound_eq op w key x y m hi]

end

end Sys2Proof.Machine
end

section

open Sys2Proof Sys2Proof.Machine

/-- Settles O17: lanes act in ascending order, so the last that covers a byte decides it, and each finds what those below it left. For
atomics that order is the model's choice, since R155 leaves it to the array; the lane whose result a uniform D takes is log entry 28. -/
theorem localAccesses : Obligations.LocalAccesses := by
  unfold Obligations.LocalAccesses
  intro key
  refine ⟨fun g w s c d h hl => ⟨_, rfl, ?_⟩, fun g w s c d h hl hwf => ⟨_, rfl, ?_⟩, ?_⟩
  · have hw := Group.writeD_writes (c.advance d).grp w c.act (loadRegs (memSize w)) fun i =>
      let x := Mem.readLE (s.arr c.ga).localMem (key c w d false i) (memSize w)
      if memSigned w then wrapInt 32 (readInt (8 * memSize w) true x) else x
    exact ⟨_, Sem.issue_registers h (ldSem_local h hl) (writesD_onRegisters hw), writesD_congr_lanes (writesD_onto hw (c.advance_onto d))
      fun i k _ hk => localLoad_word (Sem.verdict_go h.go).2.1 _ hk⟩
  · refine ⟨_, (Sem.issue_localMem h (stSem_local h hl) (onRegisters_refl _)).2, fun k => ?_⟩
    rw [(Mem.read_foldl_writeLE _ _ _ (memSize w) k hwf).2]
    split
    · next i hi => rw [hi]; rfl
    · next hi => rw [hi]; rfl
  · intro e he g w s c d h hl
    obtain ⟨code, float, order, hm, hx⟩ := atomics_atomSem e he
    rw [hm] at h
    obtain ⟨x, y, hmoved, hissued, hfound⟩ := atomSem_local h hl
    exact ⟨_, hx g w s, x, y, hmoved, hm ▸ hissued, hfound⟩

end

section
/-! SUPPORT. Matrix instructions on registers: fragments as their lanes supply them, exact integer products, and D written with flags raised
(R106, R139, R171, R187, R190). -/

namespace Sys2Proof.Machine

/-! A fragment does not depend on where its lanes stand. -/

section
variable (c : Ctx) (d : Desc)

@[simp] theorem Ctx.advance_treg (i r : Nat) : (c.advance d).grp.treg i r = c.grp.treg i r := rfl
@[simp] theorem Ctx.advance_ureg (r : Nat) : (c.advance d).grp.ureg r = c.grp.ureg r := rfl

@[simp] theorem Ctx.advance_supply (i r n : Nat) : (c.advance d).grp.supply i r n = c.grp.supply i r n := by
  simp only [Group.supply, Ctx.advance_absent, Ctx.advance_twords]

@[simp] theorem rowProducts_advance (w : Fields) (i j : Nat) : rowProducts (c.advance d).grp w i j = rowProducts c.grp w i j := by
  simp only [rowProducts, scaleSum, fragElem, Ctx.advance_supply]

@[simp] theorem scaleOf_advance (d' : Desc) (w : Fields) (i : Nat) : scaleOf d' (c.advance d) w i = scaleOf d' c w i := by
  simp only [scaleOf, Ctx.advance_read]

end

/-! Integer formats (R171, R187). -/

/-- An element of an integer format is the signed integer of its bits. -/
theorem elemValue_integer {code : Nat} (hc : code = 4 ∨ code = 5) (isB : Bool) (x : Nat) :
    let v := (BitVec.ofNat (elemBits code) x).toInt
    elemValue code isB x = .num (decide (v < 0)) v.natAbs 0 := by
  have hread : readInt (elemBits code) true x = (BitVec.ofNat (elemBits code) x).toInt := by
    rw [← readInt_mod_two_pow, ← BitVec.toNat_ofNat, readInt_toNat]
    rfl
  rw [← hread]
  rcases hc with rfl | rfl <;> rfl

/-- The product of two integers is exact. -/
theorem truncAt_times_integers (x y : Int) :
    FVal.truncAt 0 ((FVal.num (decide (x < 0)) x.natAbs 0).times (.num (decide (y < 0)) y.natAbs 0) 0) = x * y := by
  have habs : FVal.truncAt 0 ((FVal.num (decide (x < 0)) x.natAbs 0).times (.num (decide (y < 0)) y.natAbs 0) 0) =
      if (decide (x < 0) != decide (y < 0)) = true then -((x.natAbs : Int) * y.natAbs) else (x.natAbs : Int) * y.natAbs := rfl
  rw [habs]
  rcases Int.lt_or_le x 0 with hx | hx <;> rcases Int.lt_or_le y 0 with hy | hy
  · simp [hx, hy, abs_of_neg]
  · simp [hx, hy, abs_of_neg, abs_of_nonneg]
  · simp [hx, hy, abs_of_neg, abs_of_nonneg]
  · simp [Int.not_lt.mpr hx, Int.not_lt.mpr hy, abs_of_nonneg hx, abs_of_nonneg hy]

/-- The integer accumulator holds its sum modulo 2^32. -/
theorem ofNat_accumulateInt (ts : List FVal) (z : Nat) : BitVec.ofNat 32 (accumulateInt ts z) = BitVec.ofInt 32 (exactSum 0 ts + (z : Int)) := by
  rw [accumulateInt, wrapInt_eq, BitVec.ofNat_toNat, BitVec.setWidth_eq]

theorem exactSum_eq_sum (q : Int) (ts : List FVal) : exactSum q ts = (ts.map (FVal.truncAt q)).sum := List.sum_eq_foldl.symm

/-- For an integer format the products of a row and a column sum exactly. -/
theorem exactSum_integers (g : Group) (w : Fields) (i j : Nat) (hc : w.mod.toNat % 16 = 4 ∨ w.mod.toNat % 16 = 5) :
    let code := w.mod.toNat % 16
    exactSum 0 (rowProducts g w i j) = ((List.range (matrixK code)).map (fun k =>
      (BitVec.ofNat (elemBits code) (fragElem g code w.a.toNat i k)).toInt *
        (BitVec.ofNat (elemBits code) (fragElem g code w.b.toNat j k)).toInt)).sum := by
  intro code
  have hscale : ∀ b, scaleSum g w code i j b = some 0 := fun b =>
    if_neg (show ¬ scaledCode code = true by unfold scaledCode; rw [decide_eq_true_iff]; omega)
  rw [exactSum_eq_sum, rowProducts, List.map_map]
  refine congrArg List.sum (List.map_congr_left fun k _ => ?_)
  rw [Function.comp_apply, hscale, elemValue_integer hc, elemValue_integer hc]
  exact truncAt_times_integers _ _

/-! D written, and flags raised. -/

/-- A vector of one-word elements is as many words at D. -/
theorem writesElements_one {g x : Group} {w : Fields} {act : BitVec 32} {n : Nat} {f : Nat → Nat → W32} (h : WritesElements g x w act n 1 f) :
    WritesD g x w act n f := by
  have hw : WritesD g x w act (n * 1) _ := h
  rw [Nat.mul_one] at hw
  refine writesD_congr hw fun i k _ => ?_
  rw [Nat.div_one, Nat.mod_one, Nat.mul_zero, Nat.pow_zero, Nat.div_one]
  exact (BitVec.ofNat_toNat ..).trans (BitVec.setWidth_eq _)

/-- One-word elements at D, without flags. -/
theorem Group.mapWords_writes (c : Ctx) (d : Desc) (w : Fields) (n : Nat) (v : Nat → Nat → Nat) :
    let y := (c.advance d).grp.mapElems w c.act n 1 v
    OnRegisters (c.advance d).grp y ∧ WritesD c.grp (y.onto c.grp) w c.act n (fun i k => BitVec.ofNat 32 (v i k)) := by
  have hw := Group.mapElems_writes (c.advance d).grp w c.act n 1 Nat.one_pos v
  exact ⟨writesD_onRegisters hw, writesElements_one (f := fun i k => BitVec.ofNat 32 (v i k)) (writesD_onto hw (c.advance_onto d))⟩

/-- D written, and the flags raised that the elements of the lanes that act collect. -/
theorem writeD_raiseFlags (c : Ctx) (d : Desc) (w : Fields) (n : Nat) (v : Nat → Nat) {fl : FFlags} {width : Nat} {f : Nat → Nat → FFlags}
    (hfl : ∀ b, fl.getLsbD b = true ↔ ∃ i ∈ lanesOf c.act, ∃ k < width, (f i k).getLsbD b = true) :
    let y := ((c.advance d).grp.writeD w c.act n v).raiseFlags fl
    let x := y.onto c.grp
    OnRegisters (c.advance d).grp y ∧ WritesD c.grp (Group.flagsOf x c.grp) w c.act n (fun i k => BitVec.ofNat 32 (v i / 2 ^ (32 * k))) ∧
      RaisesFlags c.grp x c.act width f := by
  intro y x
  have hw := Group.writeD_writes (c.advance d).grp w c.act n v
  have hgfl : Group.fpflags _ = c.grp.fpflags := (congrArg Group.fpflags hw.frame :).trans rfl
  refine ⟨onRegisters_raiseFlags (writesD_onRegisters hw) _, ?_, raisesFlags_raiseFlags c.act width hgfl hfl⟩
  have hx : Group.flagsOf x c.grp = _ := flagsOf_raiseFlags hgfl _
  rw [hx]
  exact writesD_onto hw (c.advance_onto d)

/-- One word written at D, and the flags of the lanes that act raised. -/
theorem writeWord_raiseFlags (c : Ctx) (d : Desc) (w : Fields) (v : Nat → Nat) (f : Nat → FFlags) :
    let y := ((c.advance d).grp.writeD w c.act 1 v).raiseFlags ((lanesOf c.act).foldl (fun acc i => acc ||| f i) 0)
    let x := y.onto c.grp
    OnRegisters (c.advance d).grp y ∧ WritesD c.grp (Group.flagsOf x c.grp) w c.act 1 (fun i _ => BitVec.ofNat 32 (v i)) ∧
      RaisesFlags c.grp x c.act 1 (fun i _ => f i) := by
  obtain ⟨hregs, hword, hflags⟩ := writeD_raiseFlags c d w 1 v (fl := (lanesOf c.act).foldl (fun acc i => acc ||| f i) 0) (width := 1)
    (f := fun i _ => f i) fun b => by rw [foldl_or_getLsbD]; simp
  exact ⟨hregs, writesD_one hword, hflags⟩

end Sys2Proof.Machine

section

open Sys2Proof Sys2Proof.Machine

/-- Settles O7: each instruction by the words it writes at D and the flags its elements collect; the products of an integer format are exact.
That the flags of MMA come from rows of acting lanes alone is log entry 32. -/
theorem matrixRegisters : Obligations.MatrixRegisters := by
  refine ⟨?_, ?_, ?_, ?_, fun g w i j hc => exactSum_integers g w i j hc⟩
  · refine Sem.regs_computes (fun _ _ _ => rfl) (fun _ _ _ => rfl) fun c w d _ => ?_
    dsimp only
    simp only [rowProducts_advance, Ctx.advance_treg, Ctx.advance_act]
    by_cases hint : 16 ≤ w.mod.toNat
    · simp only [if_pos hint]
      obtain ⟨hregs, hwords⟩ := Group.mapWords_writes c d w 32 fun i j =>
        accumulateInt (rowProducts c.grp w i j) (if w.kc = 0 then (c.grp.treg i (w.c.toNat + j)).toNat else 0)
      exact ⟨hregs, writesD_congr hwords fun i j _ => ofNat_accumulateInt ..⟩
    · simp only [if_neg hint]
      obtain ⟨hregs, hbits, hflags⟩ := Group.mapFlagged_writes c d w 32 1 Nat.one_pos fun i j => accumulate (rowProducts c.grp w i j ++
        [fp32.decode (if w.kc = 0 then (c.grp.treg i (w.c.toNat + j)).toNat else 0)])
      exact ⟨hregs, writesElements_one hbits, hflags⟩
  · refine Sem.regs_computes (fun _ _ _ => rfl) (fun _ _ _ => rfl) fun c w d hd => ?_
    have hdesc : cvtPackDesc w = some d := hd
    simp only [hdesc, Option.getD_some, scaleOf_advance, Ctx.advance_read, Ctx.advance_act, operand_toNat, List.foldl_map, List.map_map]
    exact writeD_raiseFlags c d w _ _ fun b => by rw [foldl_flags_getLsbD]; simp
  · refine Sem.regs_computes (fun _ _ _ => rfl) (fun _ _ _ => rfl) fun c w d hd => ?_
    have hdesc : cvtUnpackDesc w = some d := hd
    simp only [hdesc, Option.getD_some, scaleOf_advance, Ctx.advance_twords, Ctx.advance_act]
    exact Group.mapFlagged_writes c d w _ 1 Nat.one_pos _
  · refine Sem.regs_computes (fun _ _ _ => rfl) (fun _ _ _ => rfl) fun c w d _ => ?_
    simp only [Ctx.advance_treg, Ctx.advance_act]
    exact writeWord_raiseFlags c d w _ _

end
end

section
/-! SUPPORT. Ledger tiles by their elements: an element set, and every element of a list of cells worked on once (R192 to R196, R204). -/

namespace Sys2Proof.Machine

/-! One element. -/

/-- What a tile holds at a row and a column. -/
def Tile.elem (t : Tile) (e : Nat × Nat) : BitVec 144 × LTag := (t.acc e.1 e.2, t.tag e.1 e.2)

theorem cell_key_inj {i j k l : Nat} (hj : j < 32) (hl : l < 32) : 32 * i + j = 32 * k + l ↔ (i, j) = (k, l) := by
  rw [Prod.mk.injEq]
  omega

theorem Tile.elem_set (t : Tile) (a : BitVec 144) (g : LTag) {e e' : Nat × Nat} (he : e.2 < 32) (he' : e'.2 < 32) :
    (t.set e.1 e.2 a g).elem e' = if e' = e then (a, g) else t.elem e' := by
  simp only [Tile.elem, Tile.set, Tile.acc, Tile.tag, Tab.getD_put, cell_key_inj he' he]
  split <;> rfl

@[simp] theorem Tile.elem_raise (t : Tile) (f : BitVec 4) (e : Nat × Nat) : (t.raise f).elem e = t.elem e := rfl

/-! Work on the elements of a list of cells. -/

/-- A step that, in tiles of window exponent W, makes g of the element of a cell, raises the flags h for it, and leaves everything else. -/
structure CellStep (W : Int) (f : Tile → Nat × Nat → Tile) (g : Nat × Nat → BitVec 144 × LTag → BitVec 144 × LTag)
    (h : Nat × Nat → BitVec 144 × LTag → BitVec 4) : Prop where
  frame : ∀ t e, f t e = { t with flags := (f t e).flags, accs := (f t e).accs, tags := (f t e).tags }
  elem : ∀ t e e', t.w = W → e.2 < 32 → e'.2 < 32 → (f t e).elem e' = if e' = e then g e (t.elem e) else t.elem e'
  flags : ∀ t e, t.w = W → (f t e).flags = t.flags ||| h e (t.elem e)

section
variable {W : Int} {f : Tile → Nat × Nat → Tile} {g : Nat × Nat → BitVec 144 × LTag → BitVec 144 × LTag}
  {h : Nat × Nat → BitVec 144 × LTag → BitVec 4} (hf : CellStep W f g h)
include hf

theorem CellStep.w_eq {t : Tile} (ht : t.w = W) (e : Nat × Nat) : (f t e).w = W := by rw [hf.frame]; exact ht

theorem CellStep.foldl_frame (l : List (Nat × Nat)) (t : Tile) :
    l.foldl f t = { t with flags := (l.foldl f t).flags, accs := (l.foldl f t).accs, tags := (l.foldl f t).tags } := by
  induction l generalizing t with
  | nil => rfl
  | cons e l ih =>
    rw [List.foldl_cons]
    have hstep := hf.frame t e
    generalize f t e = u at hstep ⊢
    conv_lhs => rw [ih]
    rw [hstep]

/-- Each cell of the list is worked on once, the others stay, and the flags are those that the cells raise. -/
theorem CellStep.foldl_spec {l : List (Nat × Nat)} (hn : l.Nodup) (hl : ∀ e ∈ l, e.2 < 32) {t : Tile} (ht : t.w = W) :
    (∀ e, e.2 < 32 → (l.foldl f t).elem e = if e ∈ l then g e (t.elem e) else t.elem e) ∧
      ∀ b, (l.foldl f t).flags.getLsbD b = true ↔ t.flags.getLsbD b = true ∨ ∃ e ∈ l, (h e (t.elem e)).getLsbD b = true := by
  induction l generalizing t with
  | nil => simp
  | cons c l ih =>
    obtain ⟨hc, hn⟩ := List.nodup_cons.mp hn
    obtain ⟨hc32, hl⟩ := List.forall_mem_cons.mp hl
    obtain ⟨helem, hflags⟩ := ih hn hl (hf.w_eq ht c)
    have hstay : ∀ e ∈ l, (f t c).elem e = t.elem e := fun e he => by
      rw [hf.elem t c e ht hc32 (hl e he), if_neg fun (heq : e = c) => hc (heq ▸ he)]
    refine ⟨fun e he => ?_, fun b => ?_⟩
    · rw [List.foldl_cons, helem e he]
      by_cases hel : e ∈ l
      · rw [if_pos hel, if_pos (List.mem_cons_of_mem _ hel), hstay e hel]
      · rw [if_neg hel, hf.elem t c e ht hc32 he]
        by_cases hec : e = c
        · rw [if_pos hec, if_pos (List.mem_cons.mpr (Or.inl hec)), hec]
        · rw [if_neg hec, if_neg (fun hm => (List.mem_cons.mp hm).elim hec hel)]
    · have hrest : (∃ e ∈ l, (h e ((f t c).elem e)).getLsbD b = true) ↔ ∃ e ∈ l, (h e (t.elem e)).getLsbD b = true :=
        exists_congr fun e => and_congr_right fun he => by rw [hstay e he]
      rw [List.foldl_cons, hflags b, hrest, hf.flags t c ht, BitVec.getLsbD_or, Bool.or_eq_true, List.exists_mem_cons_iff, or_assoc]

end

/-! The cells of a tile. -/

theorem mem_tileCells (e : Nat × Nat) : e ∈ tileCells ↔ e.1 < 32 ∧ e.2 < 32 := by
  obtain ⟨i, j⟩ := e
  simp only [tileCells, List.mem_map, List.mem_range, Prod.mk.injEq]
  refine ⟨?_, fun ⟨hi, hj⟩ => ⟨32 * i + j, by omega, by omega, by omega⟩⟩
  rintro ⟨x, hx, rfl, rfl⟩
  omega

theorem nodup_tileCells : tileCells.Nodup := by
  refine List.Nodup.map (fun x y h => ?_) List.nodup_range
  rw [Prod.mk.injEq] at h
  omega

theorem exists_tileCells (p : Nat × Nat → Prop) : (∃ e ∈ tileCells, p e) ↔ ∃ i j, i < 32 ∧ j < 32 ∧ p (i, j) := by
  simp only [mem_tileCells, Prod.exists, and_assoc]

/-- A table with one entry for each key of a range. -/
theorem Tab.get_map_range' {α : Type} (f : Nat → α) (a n k : Nat) (ha : a ≤ k) (hk : k < a + n) :
    Tab.get ((List.range' a n).map (fun x => (x, f x))) k = some (f k) := by
  induction n generalizing a with
  | zero => omega
  | succ n ih =>
    rw [List.range'_succ, List.map_cons, Tab.get]
    rcases Nat.eq_or_lt_of_le ha with rfl | hlt
    · rw [if_pos rfl]
    · rw [if_neg (Nat.ne_of_lt hlt), if_neg (Nat.lt_asymm hlt), ih (a + 1) hlt (by omega)]

/-- A table by cells, read at a key. -/
theorem getD_tileCells {α : Type} (f : Nat × Nat → α) (z : α) {n : Nat} (hn : n < 1024) :
    Tab.getD (tileCells.map (fun e => (32 * e.1 + e.2, f e))) n z = f (n / 32, n % 32) := by
  have hmap : tileCells.map (fun e => (32 * e.1 + e.2, f e)) = (List.range' 0 1024).map (fun x => (x, f (x / 32, x % 32))) := by
    rw [tileCells, List.map_map, List.range_eq_range']
    refine List.map_congr_left fun x _ => ?_
    rw [Function.comp_apply, Nat.div_add_mod]
  rw [Tab.getD, hmap, Tab.get_map_range' _ 0 1024 n n.zero_le (by omega), Option.getD_some]

theorem getD_tileCells_key {α : Type} (f : Nat × Nat → α) (z : α) {i j : Nat} (hi : i < 32) (hj : j < 32) :
    Tab.getD (tileCells.map (fun e => (32 * e.1 + e.2, f e))) (32 * i + j) z = f (i, j) := by
  rw [getD_tileCells f z (by omega), show (32 * i + j) / 32 = i by omega, show (32 * i + j) % 32 = j by omega]

/-! The tile an instruction names (R201). -/

@[simp] theorem movedOn_tileOf (s : State) (c : Ctx) (d : Desc) (w : Fields) : (movedOn s c d).tileOf (c.advance d) w = s.tileOf c w := by
  unfold State.tileOf movedOn State.setGroup
  rw [show (c.advance d).ga = c.ga from rfl, State.arr_setArr_self]
  rfl

/-- An instruction that the check of R201 lets pass names a tile of its group. -/
theorem tileCheck_none {fmt : Bool} {s : State} {c : Ctx} {w : Fields} (h : tileCheck fmt s c w = none) : ∃ t, s.tileOf c w = some t := by
  unfold tileCheck at h
  dsimp only at h
  split at h
  · cases h
  · split at h
    · cases h
    · next t ht => exact ⟨t, ht⟩

/-- The tiles and the staging sums of an array stand beside its groups. -/
theorem group_onArr {s : State} {ga slot : Nat} {f : Arr → Arr} (hf : (f (s.arr ga)).groups = (s.arr ga).groups) :
    (onArr s ga f).group ga slot = s.group ga slot := by
  unfold onArr
  rw [State.group_setArr_self, hf]
  rfl

end Sys2Proof.Machine
end

section
/-! SUPPORT. The sums of MMA_LEDGER: each element by its contributions, the residues that their sums leave, and when the held sum reaches its
tile (R194 to R196, R232 to R234). -/

namespace Sys2Proof.Machine

/-! Elements (R194 to R196). -/

/-- The tag of an element joined with those of products. -/
def joinTags (W : Int) (ps : List FVal) (g : LTag) : LTag := ps.foldl (fun g p => g.join (contribution W p).2.1) g

/-- Whether a NaN arises in an element: from its tag and the products', or in a product. -/
def nanArises (W : Int) (ps : List FVal) (g : LTag) : Bool :=
  decide (joinTags W ps g = .nan ∧ g ≠ .nan) || ps.any (fun p => (contribution W p).2.1 == .nan)

/-- An element after products. -/
def sumElem (W : Int) (ps : List FVal) (x : BitVec 144 × LTag) : BitVec 144 × LTag :=
  (x.1 + BitVec.ofInt 144 (productSum W ps), joinTags W ps x.2)

/-- The flags that products raise in an element. -/
def sumFlags (W : Int) (ps : List FVal) (x : BitVec 144 × LTag) : BitVec 4 :=
  ps.foldl (fun acc p => acc ||| (contribution W p).2.2) 0 ||| (if nanArises W ps x.2 then 4 else 0)

theorem Tile.addProducts_eq (t : Tile) (i j : Nat) (ps : List FVal) :
    t.addProducts i j ps = (t.set i j (sumElem t.w ps (t.elem (i, j))).1 (sumElem t.w ps (t.elem (i, j))).2).raise
      (sumFlags t.w ps (t.elem (i, j))) := by
  unfold Tile.addProducts
  simp only [List.foldl_map, List.any_map, sumElem, productSum, sumFlags, nanArises, joinTags, Tile.elem]
  rfl

theorem addProducts_cellStep (W : Int) (P : Nat → Nat → List FVal) :
    CellStep W (fun t e => t.addProducts e.1 e.2 (P e.1 e.2)) (fun e => sumElem W (P e.1 e.2)) (fun e => sumFlags W (P e.1 e.2)) where
  frame _ _ := rfl
  elem t e e' ht he he' := by rw [Tile.addProducts_eq, ht, Tile.elem_raise, Tile.elem_set _ _ _ he he']
  flags t e ht := by rw [Tile.addProducts_eq, ht]; rfl

theorem productSum_eq_sum (W : Int) (ps : List FVal) : productSum W ps = (ps.map (fun p => (contribution W p).1)).sum := List.sum_eq_foldl.symm

/-- A contribution raises no INVALID itself. -/
theorem contribution_not_invalid (W : Int) (p : FVal) : (contribution W p).2.2.getLsbD 2 = false := by
  cases p with
  | nan s => exact BitVec.getLsbD_zero
  | inf n => exact BitVec.getLsbD_zero
  | num n m e =>
    have hflags : (contribution W (.num n m e)).2.2 = if m = 0 then 0 else if W + 127 ≤ msb m + e then 2 else if W ≤ e then 0
        else if m % 2 ^ (W - e).toNat = 0 then 0 else 1 := by
      unfold contribution
      dsimp only
      split_ifs <;> rfl
    rw [hflags]
    split_ifs <;> rfl

theorem sumFlags_window (W : Int) (ps : List FVal) (x : BitVec 144 × LTag) {b : Nat} (hb : b < 2) :
    (sumFlags W ps x).getLsbD b = true ↔ ∃ p ∈ ps, (contribution W p).2.2.getLsbD b = true := by
  have hnan : (if nanArises W ps x.2 then (4 : BitVec 4) else 0).getLsbD b = false := by
    split
    · rcases (by omega : b = 0 ∨ b = 1) with rfl | rfl <;> rfl
    · exact BitVec.getLsbD_zero
  rw [sumFlags, BitVec.getLsbD_or, hnan, Bool.or_false, foldl_or_getLsbD, BitVec.ofNat_eq_ofNat, BitVec.getLsbD_zero]
  simp

theorem sumFlags_invalid (W : Int) (ps : List FVal) (x : BitVec 144 × LTag) : (sumFlags W ps x).getLsbD 2 = true ↔
    (joinTags W ps x.2 = .nan ∧ x.2 ≠ .nan) ∨ ∃ p ∈ ps, (contribution W p).2.1 = .nan := by
  have hwin : (ps.foldl (fun acc p => acc ||| (contribution W p).2.2) (0 : BitVec 4)).getLsbD 2 = false := by
    rw [← Bool.not_eq_true, foldl_or_getLsbD]
    rintro (h | ⟨p, -, hp⟩)
    · cases h
    · rw [contribution_not_invalid] at hp
      cases hp
  have hbit : (if nanArises W ps x.2 then (4 : BitVec 4) else 0).getLsbD 2 = nanArises W ps x.2 := by
    cases nanArises W ps x.2 <;> rfl
  rw [sumFlags, BitVec.getLsbD_or, hwin, Bool.false_or, hbit, nanArises]
  simp

/-- Every element of a tile after MMA_LEDGER. -/
theorem ledgerSum_elem (g : Group) (w : Fields) (t : Tile) {i j : Nat} (hi : i < 32) (hj : j < 32) :
    (ledgerSum g w t).elem (i, j) = sumElem t.w (rowProducts g w i j) (t.elem (i, j)) := by
  rw [ledgerSum, ((addProducts_cellStep t.w (rowProducts g w)).foldl_spec nodup_tileCells (fun e he => ((mem_tileCells e).mp he).2) rfl).1 (i, j) hj,
    if_pos ((mem_tileCells _).mpr ⟨hi, hj⟩)]

theorem ledgerSum_acc (g : Group) (w : Fields) (t : Tile) {i j : Nat} (hi : i < 32) (hj : j < 32) :
    (ledgerSum g w t).acc i j = t.acc i j + BitVec.ofInt 144 (productSum t.w (rowProducts g w i j)) := by
  have h := ledgerSum_elem g w t hi hj
  rw [Tile.elem, Prod.mk.injEq] at h
  exact h.1

theorem ledgerSum_tag (g : Group) (w : Fields) (t : Tile) {i j : Nat} (hi : i < 32) (hj : j < 32) :
    (ledgerSum g w t).tag i j = joinTags t.w (rowProducts g w i j) (t.tag i j) := by
  have h := ledgerSum_elem g w t hi hj
  rw [Tile.elem, Prod.mk.injEq] at h
  exact h.2

theorem ledgerSum_flags (g : Group) (w : Fields) (t : Tile) (b : Nat) : (ledgerSum g w t).flags.getLsbD b = true ↔
    t.flags.getLsbD b = true ∨ ∃ i j, i < 32 ∧ j < 32 ∧ (sumFlags t.w (rowProducts g w i j) (t.elem (i, j))).getLsbD b = true := by
  rw [ledgerSum, ((addProducts_cellStep t.w (rowProducts g w)).foldl_spec nodup_tileCells (fun e he => ((mem_tileCells e).mp he).2) rfl).2 b,
    exists_tileCells]

theorem ledgerSum_frame (g : Group) (w : Fields) (t : Tile) : (ledgerSum g w t).owner = t.owner ∧ (ledgerSum g w t).fmt = t.fmt ∧
    (ledgerSum g w t).w = t.w := by
  rw [ledgerSum, (addProducts_cellStep t.w (rowProducts g w)).foldl_frame]
  exact ⟨rfl, rfl, rfl⟩

/-! Residues (R232 to R234). -/

theorem two_pow_modEq_255 (k : Nat) : 2 ^ (k % 8) ≡ 2 ^ k [MOD 255] := by
  have h : (2 ^ 8) ^ (k / 8) ≡ 1 [MOD 255] := by
    have hbase : 2 ^ 8 ≡ 1 [MOD 255] := rfl
    simpa using hbase.pow (k / 8)
  calc 2 ^ (k % 8) = 1 * 2 ^ (k % 8) := (Nat.one_mul _).symm
    _ ≡ (2 ^ 8) ^ (k / 8) * 2 ^ (k % 8) [MOD 255] := h.symm.mul_right _
    _ = 2 ^ k := by rw [← Nat.pow_mul, ← Nat.pow_add, Nat.div_add_mod]

/-- The term of a product leaves the residue of its contribution. -/
theorem residueTerm_modEq (W : Int) (p : FVal) : residueTerm W p ≡ (contribution W p).1 [ZMOD 255] := by
  cases p with
  | nan s => rfl
  | inf n => rfl
  | num n m e =>
    have hshift : ((m % 255 * 2 ^ ((e - W).toNat % 8) : Nat) : Int) ≡ (m <<< (e - W).toNat : Nat) [ZMOD 255] := by
      rw [Nat.shiftLeft_eq]
      exact Int.natCast_modEq_iff.mpr ((Nat.mod_modEq m 255).mul (two_pow_modEq_255 _))
    by_cases hm : m = 0
    · simp only [residueTerm, contribution, hm, true_or, if_true]
      rfl
    by_cases htop : W + 127 ≤ msb m + e
    · simp only [residueTerm, contribution, hm, htop, or_true, if_true, if_false]
      rfl
    by_cases hle : W ≤ e
    · simp only [residueTerm, contribution, hm, htop, hle, or_self, if_true, if_false]
      cases n
      · exact hshift
      · exact hshift.neg
    · simp only [residueTerm, hm, htop, hle, or_self, if_false]
      rfl

theorem residueTerms_modEq (W : Int) (ps : List FVal) : (ps.map (residueTerm W)).foldl (· + ·) 0 ≡ productSum W ps [ZMOD 255] := by
  rw [productSum_eq_sum, ← List.sum_eq_foldl]
  induction ps with
  | nil => rfl
  | cons p ps ih => exact (residueTerm_modEq W p).add ih

/-- The residue expected of a staging sum is that of the sum. -/
theorem residue_productSum (W : Int) (ps : List FVal) : residue (BitVec.ofInt 144 (productSum W ps)) = expectedResidue W ps := by
  have hterms := residueTerms_modEq W ps
  unfold Int.ModEq at hterms
  unfold residue expectedResidue
  rw [BitVec.toNat_ofInt]
  generalize (ps.map (residueTerm W)).foldl (· + ·) 0 = r at hterms ⊢
  generalize productSum W ps = x at hterms ⊢
  norm_num at hterms ⊢
  omega

section
variable (g : Group) (w : Fields) (t : Tile)

/-- The staging sum of a cell is that of its products. -/
theorem getD_stagingSums {i j : Nat} (hi : i < 32) (hj : j < 32) :
    Tab.getD (stagingSums g w t) (32 * i + j) 0 = BitVec.ofInt 144 (productSum t.w (rowProducts g w i j)) := by
  rw [stagingSums, getD_tileCells_key (fun e => BitVec.ofInt 144 (productSum t.w (rowProducts g w e.1 e.2))) 0 hi hj]

/-- Every staging sum leaves the residue expected of it. -/
theorem residue_stagingSums {n : Nat} (hn : n < 1024) : residue (Tab.getD (stagingSums g w t) n 0) = Tab.getD (stagingResidues g w t) n 0 := by
  rw [stagingSums, getD_tileCells (fun e => BitVec.ofInt 144 (productSum t.w (rowProducts g w e.1 e.2))) 0 hn, stagingResidues,
    getD_tileCells (fun e => expectedResidue t.w (rowProducts g w e.1 e.2)) 0 hn]
  exact residue_productSum ..

end

/-! The held sum (R232). -/

/-- What the matrix cells hold after MMA_LEDGER on a tile. -/
def Ctx.staging (c : Ctx) (w : Fields) (t : Tile) : Staging :=
  { slot := c.slot, tileNo := tileKey c w % 4, pc := c.sub.pc, after := ledgerSum c.grp w t, sums := stagingSums c.grp w t,
    expected := stagingResidues c.grp w t }

theorem Ctx.staging_sums (c : Ctx) (w : Fields) (t : Tile) : (c.staging w t).sums = stagingSums c.grp w t := by rw [Ctx.staging]
theorem Ctx.staging_expected (c : Ctx) (w : Fields) (t : Tile) : (c.staging w t).expected = stagingResidues c.grp w t := by rw [Ctx.staging]
theorem Ctx.staging_after (c : Ctx) (w : Fields) (t : Tile) : (c.staging w t).after = ledgerSum c.grp w t := by rw [Ctx.staging]

theorem Ctx.advance_staging (c : Ctx) (d : Desc) (w : Fields) (t : Tile) : (c.advance d).staging w t = c.staging w t := by
  simp only [Ctx.staging, ledgerSum, stagingSums, stagingResidues, rowProducts_advance]
  rfl

theorem mmaLedger_issued {g : GRef} {w : Fields} {s : State} {c : Ctx} {d : Desc} (h : Issues mmaLedgerSem g w s c d) {t : Tile}
    (ht : s.tileOf c w = some t) :
    Issued (onArr (movedOn s c d) c.ga (fun a => { a with staged := Tab.put a.staged (c.slot / 16) (c.staging w t) }))
      (mmaLedgerSem.issue g w s) c := by
  refine Sem.issue_advanced h ?_ ((group_onArr rfl).trans (movedOn_group s c d)) (c.advance_advanced (issues_sub_mem h) d)
  rw [Sem.perform_eq, ← c.advance_staging d]
  unfold mmaLedgerSem
  simp only [movedOn_tileOf, ht]
  rfl

/-! The end of the occupancy (R232). -/

/-- One held sum given to its tile when its cells have run out. -/
def Arr.commitOne (a : Arr) (e : Nat × Staging) : Arr :=
  if Tab.getD a.busy (16 + e.1) 0 ≠ 0 then a
  else
    let key := 4 * e.1 + e.2.tileNo
    { a with staged := Tab.erase a.staged e.1,
             tiles := if (Tab.get a.tiles key).any (fun t => t.owner == e.2.slot) then Tab.put a.tiles key e.2.after else a.tiles }

theorem Arr.commit_eq (a : Arr) : a.commit = a.staged.foldl Arr.commitOne a := rfl

/-- Between two arrays nothing changed of a quarter's held sum, of its tiles, or of what is occupied. -/
structure QuarterStays (q : Nat) (a b : Arr) : Prop where
  busy : b.busy = a.busy
  sorted : Tab.sorted a.staged = true → Tab.sorted b.staged = true
  staged : Tab.sorted a.staged = true → Tab.get b.staged q = Tab.get a.staged q
  tiles : ∀ n, n < 4 → Tab.get b.tiles (4 * q + n) = Tab.get a.tiles (4 * q + n)

theorem QuarterStays.refl (q : Nat) (a : Arr) : QuarterStays q a a := ⟨rfl, id, fun _ => rfl, fun _ _ => rfl⟩

theorem QuarterStays.trans {q : Nat} {a b c : Arr} (h : QuarterStays q a b) (k : QuarterStays q b c) : QuarterStays q a c where
  busy := k.busy.trans h.busy
  sorted hs := k.sorted (h.sorted hs)
  staged hs := (k.staged (h.sorted hs)).trans (h.staged hs)
  tiles n hn := (k.tiles n hn).trans (h.tiles n hn)

/-- The sum of another quarter leaves this one. -/
theorem Arr.commitOne_other (a : Arr) {q : Nat} {e : Nat × Staging} (hq : e.1 ≠ q) (hn : e.2.tileNo < 4) : QuarterStays q a (a.commitOne e) := by
  unfold Arr.commitOne
  split
  · exact QuarterStays.refl q a
  · refine ⟨rfl, Tab.sorted_sublist (Tab.erase_sublist _ _), fun hs => Tab.get_erase_other _ _ _ hs hq.symm, fun n hn' => ?_⟩
    dsimp only
    split
    · exact Tab.get_put_other _ _ _ _ (by omega)
    · rfl

theorem foldl_commitOne_other {q : Nat} (l : List (Nat × Staging)) (hq : ∀ e ∈ l, e.1 ≠ q) (hn : ∀ e ∈ l, e.2.tileNo < 4) (a : Arr) :
    QuarterStays q a (l.foldl Arr.commitOne a) :=
  List.foldlRecOn l _ (motive := QuarterStays q a) (QuarterStays.refl q a) fun _ hb e he => hb.trans (Arr.commitOne_other _ (hq e he) (hn e he))

/-- A table cut at one of its entries, whose key stands nowhere else. -/
theorem Tab.exists_split {α : Type} {t : Tab α} (hs : Tab.sorted t = true) {k : Nat} {v : α} (hk : Tab.get t k = some v) :
    ∃ l r, t = l ++ (k, v) :: r ∧ (∀ e ∈ l, e.1 ≠ k) ∧ ∀ e ∈ r, e.1 ≠ k := by
  induction t with
  | nil => cases hk
  | cons e t ih =>
    obtain ⟨j, w⟩ := e
    obtain ⟨ha, hs⟩ := (Tab.sorted_cons j w t).mp hs
    rw [Tab.get] at hk
    by_cases hj : j = k
    · subst hj
      rw [if_pos rfl] at hk
      cases hk
      exact ⟨[], t, rfl, fun _ he => absurd he List.not_mem_nil, fun e he => (Nat.ne_of_lt (ha e he)).symm⟩
    · rw [if_neg hj] at hk
      split at hk
      · cases hk
      · obtain ⟨l, r, rfl, hl, hr⟩ := ih hs hk
        exact ⟨(j, w) :: l, r, rfl, List.forall_mem_cons.mpr ⟨hj, hl⟩, hr⟩

/-- A quarter's held sum after its array has given what has run out: only that sum itself changes its quarter. -/
theorem Arr.commit_quarter {a : Arr} {q : Nat} {x : Staging} (hs : Tab.sorted a.staged = true) (hn : ∀ e ∈ a.staged, e.2.tileNo < 4)
    (hx : Tab.get a.staged q = some x) : ∃ b, QuarterStays q a b ∧ QuarterStays q (b.commitOne (q, x)) a.commit := by
  obtain ⟨l, r, hsplit, hl, hr⟩ := Tab.exists_split hs hx
  have hmem : ∀ e, e ∈ l ∨ e ∈ r → e.2.tileNo < 4 := fun e he => hn e (by
    rw [hsplit]
    exact List.mem_append.mpr (he.imp_right (List.mem_cons_of_mem _)))
  refine ⟨l.foldl Arr.commitOne a, foldl_commitOne_other l hl (fun e he => hmem e (Or.inl he)) a, ?_⟩
  rw [Arr.commit_eq, hsplit, List.foldl_append, List.foldl_cons]
  exact foldl_commitOne_other r hr (fun e he => hmem e (Or.inr he)) _

theorem Arr.commit_busy {a : Arr} {q : Nat} {x : Staging} (hs : Tab.sorted a.staged = true) (hn : ∀ e ∈ a.staged, e.2.tileNo < 4)
    (hx : Tab.get a.staged q = some x) (hxn : x.tileNo < 4) (hb : Tab.getD a.busy (16 + q) 0 ≠ 0) :
    Tab.get a.commit.staged q = some x ∧ Tab.get a.commit.tiles (4 * q + x.tileNo) = Tab.get a.tiles (4 * q + x.tileNo) := by
  obtain ⟨b, hab, hbc⟩ := Arr.commit_quarter hs hn hx
  have hstay : b.commitOne (q, x) = b := if_pos (by rw [hab.busy]; exact hb)
  rw [hstay] at hbc
  have h := hab.trans hbc
  exact ⟨(h.staged hs).trans hx, h.tiles _ hxn⟩

theorem Arr.commit_idle {a : Arr} {q : Nat} {x : Staging} (hs : Tab.sorted a.staged = true) (hn : ∀ e ∈ a.staged, e.2.tileNo < 4)
    (hx : Tab.get a.staged q = some x) (hxn : x.tileNo < 4) (hb : Tab.getD a.busy (16 + q) 0 = 0) :
    Tab.get a.commit.staged q = none ∧ ∀ t0, Tab.get a.tiles (4 * q + x.tileNo) = some t0 →
      Tab.get a.commit.tiles (4 * q + x.tileNo) = some (if t0.owner = x.slot then x.after else t0) := by
  obtain ⟨b, hab, hbc⟩ := Arr.commit_quarter hs hn hx
  have hone : b.commitOne (q, x) = _ := if_neg (by rw [hab.busy]; exact not_not.mpr hb)
  have hbs := hab.sorted hs
  rw [hone] at hbc
  refine ⟨(hbc.staged (Tab.sorted_sublist (Tab.erase_sublist _ _) hbs)).trans (Tab.get_erase_self _ _ hbs), fun t0 ht0 => ?_⟩
  have hbt : Tab.get b.tiles (4 * q + x.tileNo) = some t0 := (hab.tiles _ hxn).trans ht0
  rw [hbc.tiles _ hxn]
  dsimp only
  simp only [hbt, Option.any_some, beq_iff_eq]
  split
  · exact Tab.get_put_self ..
  · exact hbt

end Sys2Proof.Machine

section

open Sys2Proof Sys2Proof.Machine

/-- Settles O15: each cell of the tile is summed once, from what the tile held there, and a product's term leaves the residue of its
contribution. That the cells hold the sum until their occupancy ends, with the tile as it was until then, is the model's choice of log entry 100;
the residue expected of a sum that wraps is that of log entry 84. -/
theorem ledgerSum : Obligations.LedgerSum := by
  refine ⟨fun g w s c d h => ⟨_, rfl, ?_⟩, fun a q x hs hn hx => ?_⟩
  · obtain ⟨-, -, -, -, -, hcheck⟩ := Sem.verdict_go h.go
    obtain ⟨t0, ht0⟩ := tileCheck_none hcheck
    obtain ⟨howner, hfmt, hw⟩ := ledgerSum_frame c.grp w t0
    refine ⟨t0, Machine.ledgerSum c.grp w t0, c.staging w t0, ht0, rfl, rfl, rfl, c.staging_after w t0, fun n hn => ?_,
      fun i j hi hj => ?_, mmaLedger_issued h ht0, howner, hfmt, hw, fun i j hi hj => ⟨?_, ledgerSum_tag c.grp w t0 hi hj⟩, fun b hb => ?_, ?_⟩
    · rw [Ctx.staging_sums, Ctx.staging_expected]
      exact residue_stagingSums c.grp w t0 hn
    · rw [ledgerSum_acc c.grp w t0 hi hj, Ctx.staging_sums, getD_stagingSums c.grp w t0 hi hj]
    · rw [ledgerSum_acc c.grp w t0 hi hj, productSum_eq_sum]
    · simp only [ledgerSum_flags, sumFlags_window _ _ _ hb]
    · rw [ledgerSum_flags]
      refine or_congr_right (exists_congr fun i => exists_congr fun j => and_congr_right fun hi => and_congr_right fun hj => ?_)
      rw [sumFlags_invalid, ledgerSum_tag c.grp w t0 hi hj]
      rfl
  · have hxn : x.tileNo < 4 := hn _ (Tab.mem_of_get _ _ _ hx)
    dsimp only
    split
    · next hb => exact Arr.commit_idle hs hn hx hxn hb
    · next hb => exact Arr.commit_busy hs hn hx hxn hb

end
end

section
/-! SUPPORT. Tiles of a quarter opened, closed and given to groups that wait: what an array keeps meanwhile (R199, R200, R206, R207). -/

namespace Sys2Proof.Machine

/-! Free tiles (R199). -/

theorem freeTile_some {a : Arr} {q key : Nat} (h : freeTile a q = some key) :
    key / 4 = q ∧ Tab.get a.tiles key = none ∧ ∀ k, k / 4 = q → k < key → Tab.get a.tiles k ≠ none := by
  unfold freeTile at h
  rw [List.find?_map, Option.map_eq_some_iff] at h
  obtain ⟨i, hi, rfl⟩ := h
  obtain ⟨hfree, hlt, hbelow⟩ := List.find?_range_eq_some.mp hi
  rw [List.mem_range] at hlt
  refine ⟨by omega, Option.isNone_iff_eq_none.mp hfree, fun k hk hki hnone => ?_⟩
  have hheld := hbelow (k - 4 * q) (by omega)
  rw [Function.comp_apply, show k - 4 * q + 4 * q = k by omega, hnone] at hheld
  cases hheld

theorem freeTile_none {a : Arr} {q : Nat} : freeTile a q = none ↔ ∀ k, k / 4 = q → Tab.get a.tiles k ≠ none := by
  unfold freeTile
  simp only [List.find?_eq_none, List.forall_mem_map, List.mem_range, Option.isNone_iff_eq_none]
  refine ⟨fun h k hk => ?_, fun h i hi => h _ (by omega)⟩
  have hheld := h (k - 4 * q) (by omega)
  rwa [show k - 4 * q + 4 * q = k by omega] at hheld

/-- A group with the number of a tile in a uniform register. -/
def Group.withTile (g : Group) (dst key : Nat) : Group := { g with uregs := Tab.put g.uregs dst (BitVec.ofNat 32 (key % 4)) }

theorem openTile_of_group {a : Arr} {slot : Nat} {g : Group} (hg : Tab.get a.groups slot = some g) (key fmt : Nat) (W : Int) (dst : Nat) :
    openTile a slot key fmt W dst =
      { a with tiles := Tab.put a.tiles key { owner := slot, fmt := fmt, w := W, flags := 0, accs := [], tags := [] },
               groups := Tab.put a.groups slot (g.withTile dst key) } := by
  unfold openTile
  rw [hg]
  rfl

/-! Tiles given to groups that wait (R200). -/

/-- From one array to another every group stays, where it stands in its block, with its live lanes and every subgroup that runs. -/
def RunnersStay (a b : Arr) : Prop := ∀ slot x, Tab.get a.groups slot = some x →
  ∃ y, Tab.get b.groups slot = some y ∧ y.place = x.place ∧ ∀ u ∈ x.subs, u.wait = .running → u ∈ y.subs

theorem RunnersStay.refl (a : Arr) : RunnersStay a a := fun _ x hx => ⟨x, hx, rfl, fun _ hu _ => hu⟩

theorem RunnersStay.trans {a b c : Arr} (h : RunnersStay a b) (k : RunnersStay b c) : RunnersStay a c := fun slot x hx => by
  obtain ⟨y, hy, hyp, hys⟩ := h slot x hx
  obtain ⟨z, hz, hzp, hzs⟩ := k slot y hy
  exact ⟨z, hz, hzp.trans hyp, fun u hu hr => hzs u (hys u hu hr) hr⟩

/-- A group of an array changed, but for its place and its subgroups that run. -/
theorem RunnersStay.put {a b : Arr} {slot : Nat} {x y : Group} (hx : Tab.get a.groups slot = some x) (hp : y.place = x.place)
    (hs : ∀ u ∈ x.subs, u.wait = .running → u ∈ y.subs) (hb : b.groups = Tab.put a.groups slot y) : RunnersStay a b := by
  intro j z hz
  rw [hb, Tab.get_put]
  split
  · next e =>
    rw [e, hx, Option.some.injEq] at hz
    exact ⟨y, rfl, hz ▸ hp, hz ▸ hs⟩
  · exact ⟨z, hz, rfl, fun _ hu _ => hu⟩

theorem openTile_runners (a : Arr) (slot key fmt : Nat) (W : Int) (dst : Nat) : RunnersStay a (openTile a slot key fmt W dst) := by
  cases hx : Tab.get a.groups slot with
  | none =>
    refine fun j => ?_
    unfold openTile
    rw [hx]
    exact RunnersStay.refl a j
  | some x =>
    rw [openTile_of_group hx]
    exact RunnersStay.put (y := x.withTile dst key) hx rfl (fun _ hu _ => hu) rfl

theorem serveTile_runners (a : Arr) (q : Nat) : RunnersStay a (serveTile a q) := by
  unfold serveTile
  split
  · next key slot f w d _ _ =>
    refine (openTile_runners a slot key f w d).trans ?_
    generalize openTile a slot key f w d = b
    dsimp only
    split
    · next x hx =>
      refine RunnersStay.put hx ?_ ?_ rfl
      · rfl
      · exact fun u hu hr => List.mem_map.mpr ⟨u, hu, by rw [hr]⟩
    · exact RunnersStay.refl b
  · exact RunnersStay.refl a

theorem serveTiles_runners (a : Arr) : RunnersStay a (serveTiles a) :=
  List.foldlRecOn _ _ (motive := RunnersStay a) (RunnersStay.refl a) fun b hb i _ => hb.trans (serveTile_runners b (i / 4))

/-- An array with the tile that an instruction names freed, and free tiles given to the groups that wait. -/
def closedArr (c : Ctx) (w : Fields) (a : Arr) : Arr := serveTiles { a with tiles := Tab.erase a.tiles (tileKey c w) }

theorem closedArr_runners (c : Ctx) (w : Fields) (a : Arr) : RunnersStay a (closedArr c w a) :=
  fun slot x hx => serveTiles_runners { a with tiles := Tab.erase a.tiles (tileKey c w) } slot x hx

/-! The state of an effect on a group and its array. -/

theorem onArr_setGroup (s : State) (ga slot : Nat) (y : Group) (f : Arr → Arr) :
    onArr (s.setGroup ga slot y) ga f = s.setArr ga (f { s.arr ga with groups := Tab.put (s.arr ga).groups slot y }) := by
  unfold onArr State.setGroup
  rw [State.arr_setArr_self, State.setArr_setArr]

theorem movedOn_arr (s : State) (c : Ctx) (d : Desc) :
    (movedOn s c d).arr c.ga = { s.arr c.ga with groups := Tab.put (s.arr c.ga).groups c.slot (c.advance d).grp } := by
  unfold movedOn State.setGroup
  rw [State.arr_setArr_self]

section
variable {m : Sem} {g : GRef} {w : Fields} {s : State} {c : Ctx} {d : Desc} (h : Issues m g w s c d) {y : Group}
  (hy : OnRegisters (c.advance d).grp y)
include h hy

/-- A group with registers written, once its subgroup has moved on. -/
theorem movedOn_onRegisters : MovedOn c (y.onto c.grp) y := by
  have hsubs : y.subs = (c.advance d).grp.subs := by rw [hy]
  refine ⟨by rw [hy]; rfl, fun i pc hi hs => ?_⟩
  have hstay := (c.advance_advanced (issues_sub_mem h) d).moved.2 i pc hi hs
  rwa [StandsAt, ← hsubs] at hstay

/-- An issue that writes registers of its group, and tiles beside them. -/
theorem Sem.issue_onTiles {f : Arr → Arr} (hp : m.perform s c w d = onArr (s.setGroup c.ga c.slot y) c.ga f)
    (hf : ∀ a, (f a).groups = a.groups) : Issued (onArr (s.setGroup c.ga c.slot y) c.ga f) (m.issue g w s) c :=
  (Sem.issue_onRegisters h hp ((group_onArr (hf _)).trans (State.group_setGroup_self ..)) hy).2

/-- An issue that writes registers of its group and frees its tile: its subgroup runs, so that no tile moves it on again. -/
theorem Sem.issue_closed (hp : m.perform s c w d = onArr (s.setGroup c.ga c.slot y) c.ga (closedArr c w)) :
    Issued (onArr (s.setGroup c.ga c.slot y) c.ga (closedArr c w)) (m.issue g w s) c := by
  obtain ⟨z, hz, hplace, hruns⟩ := closedArr_runners c w _ c.slot y (State.group_setGroup_self s c.ga c.slot y)
  have hyplace : y.place = c.grp.place := by rw [hy]; rfl
  have hnext : c.nextSub ∈ z.subs := hruns _ (by rw [hy]; exact c.nextSub_mem (issues_sub_mem h) d) rfl
  rw [← hp]
  refine Sem.issue_leaves h z ?_ ?_ ?_ fun i hi => ⟨c.nextSub, hnext, hi, rfl⟩
  · rw [hp]
    exact (State.group_setArr_self ..).trans hz
  · exact congrArg Prod.fst (hplace.trans hyplace)
  · rw [show z.live = c.grp.live from congrArg Prod.snd (hplace.trans hyplace)]
    exact h.live

end

theorem OnRegisters.trans {g x y : Group} (h : OnRegisters g x) (k : OnRegisters x y) : OnRegisters g y := by
  unfold OnRegisters at *
  conv_lhs => rw [k, h]

end Sys2Proof.Machine
end

section
/-! SUPPORT. The LTILE instructions by what they do to tiles and registers (R199 to R206). -/

namespace Sys2Proof.Machine

/-! LTILE_OPEN (R199, R200). -/

theorem openCheck_none {s : State} {c : Ctx} {w : Fields} (h : ltileOpenSem.check s c w = none) : ∃ S, sOpen w (openWord c w) = some S := by
  unfold ltileOpenSem at h
  dsimp only at h
  split at h
  · next S hS => exact ⟨S, hS⟩
  · cases h

theorem movedOn_freeTile (s : State) (c : Ctx) (d : Desc) (q : Nat) : freeTile ((movedOn s c d).arr c.ga) q = freeTile (s.arr c.ga) q := by
  rw [movedOn_arr]
  rfl

/-- A tile that LTILE_OPEN opens. -/
def openedTile (c : Ctx) (w : Fields) (S : Int) : Tile :=
  { owner := c.slot, fmt := w.mod.toNat % 16, w := S + ledgerBase (w.mod.toNat % 16), flags := 0, accs := [], tags := [] }

section
variable {g : GRef} {w : Fields} {s : State} {c : Ctx} {d : Desc} (h : Issues ltileOpenSem g w s c d)
include h

theorem ltileOpen_opens {S : Int} {key : Nat} (hS : sOpen w (openWord c w) = some S) (hfree : freeTile (s.arr c.ga) (c.slot / 16) = some key) :
    let y := (c.advance d).grp.withTile w.d.toNat key
    let e := onArr (s.setGroup c.ga c.slot y) c.ga (fun a => { a with tiles := Tab.put a.tiles key (openedTile c w S) })
    MovedOn c (c.grp.withTile w.d.toNat key) y ∧ Issued e (ltileOpenSem.issue g w s) c := by
  intro y e
  have hy : OnRegisters (c.advance d).grp y := rfl
  refine ⟨movedOn_onRegisters h hy, Sem.issue_onTiles h hy ?_ (fun _ => rfl)⟩
  have hperform : ltileOpenSem.perform s c w d = (movedOn s c d).setArr c.ga (openTile ((movedOn s c d).arr c.ga) c.slot key (w.mod.toNat % 16)
      (S + ledgerBase (w.mod.toNat % 16)) w.d.toNat) := by
    have hS' : sOpen w (openWord (c.advance d) w) = some S := hS
    have hfree' : freeTile ((movedOn s c d).arr (c.advance d).ga) ((c.advance d).slot / 16) = some key := (movedOn_freeTile ..).trans hfree
    rw [Sem.perform_eq]
    unfold ltileOpenSem
    simp only [hS', hfree']
    rfl
  have hgroup : Tab.get ((movedOn s c d).arr c.ga).groups c.slot = some (c.advance d).grp := movedOn_group s c d
  rw [hperform, openTile_of_group hgroup, onArr_setGroup, movedOn_arr]
  simp only [Tab.put_put]
  exact State.setArr_setArr ..

/-- The group of an LTILE_OPEN that found no tile: it waits at the instruction. -/
def Ctx.awaitTile (c : Ctx) (w : Fields) (S : Int) : Group :=
  c.grp.setSub c.sub.lanes { c.movedSub with pc := c.sub.pc, wait := .tile (w.mod.toNat % 16) (S + ledgerBase (w.mod.toNat % 16)) w.d.toNat,
                                             yieldCount := 0 }

omit h in
theorem Ctx.awaitTile_stands {c : Ctx} (hsub : c.sub ∈ c.grp.subs) (d : Desc) (w : Fields) (S : Int) {i : Nat} (hi : c.sub.lanes.getLsbD i = true) :
    StandsAt ((c.advance d).awaitTile w S) i c.sub.pc := by
  refine ⟨_, List.mem_map.mpr ⟨c.nextSub, c.nextSub_mem hsub d, if_pos (beq_self_eq_true c.sub.lanes)⟩, ?_, rfl⟩
  rw [c.movedSub_advance hsub d]
  exact hi

theorem ltileOpen_waits {S : Int} (hS : sOpen w (openWord c w) = some S) (hfull : freeTile (s.arr c.ga) (c.slot / 16) = none) :
    Idle (s.setGroup c.ga c.slot ((c.advance d).awaitTile w S)) (ltileOpenSem.issue g w s) c.ga := by
  have hperform : ltileOpenSem.perform s c w d = s.setGroup c.ga c.slot ((c.advance d).awaitTile w S) := by
    have hS' : sOpen w (openWord (c.advance d) w) = some S := hS
    have hfull' : freeTile ((movedOn s c d).arr (c.advance d).ga) ((c.advance d).slot / 16) = none := (movedOn_freeTile ..).trans hfull
    rw [Sem.perform_eq, ← movedOn_setGroup s c d]
    unfold ltileOpenSem
    simp only [hS', hfull']
    rfl
  rw [Sem.issue_go h, hperform]
  exact State.finish_idle _ ltileOpenSem [c] w c.ga c.slot c.grp.block _ _ (State.group_setGroup_self ..) rfl h.live

end

/-! LTILE_CLOSE and LTILE_FLUSH (R202, R203, R206). -/

theorem State.closeTile_advance (s : State) (c : Ctx) (d : Desc) (w : Fields) : s.closeTile (c.advance d) w = onArr s c.ga (closedArr c w) := rfl

theorem State.putTile_advance (s : State) (c : Ctx) (d : Desc) (w : Fields) (t : Tile) :
    s.putTile (c.advance d) w t = onArr s c.ga (fun a => { a with tiles := Tab.put a.tiles (tileKey c w) t }) := rfl

theorem ltileClose_issued {g : GRef} {w : Fields} {s : State} {c : Ctx} {d : Desc} (h : Issues ltileCloseSem g w s c d) :
    Issued (onArr (movedOn s c d) c.ga (closedArr c w)) (ltileCloseSem.issue g w s) c :=
  Sem.issue_closed h (onRegisters_refl _) (State.closeTile_advance ..)

@[simp] theorem flushDraw_advance (c : Ctx) (d : Desc) (w : Fields) (i j : Nat) : flushDraw (c.advance d) w i j = flushDraw c w i j := by
  simp only [flushDraw, Ctx.advance_ureg, Ctx.advance_uwords]
  rfl

/-- An element of a tile flushed for a context. -/
def flushCell (c : Ctx) (w : Fields) (t : Tile) (i j : Nat) : Nat × BitVec 4 :=
  flushElem (flushFmt w) t.w (t.acc i j) (t.tag i j) (flushDraw c w i j)

/-- The flags that a flush raises in its tile: those of every element. -/
def flushFlags (c : Ctx) (w : Fields) (t : Tile) : BitVec 4 := tileCells.foldl (fun acc e => acc ||| (flushCell c w t e.1 e.2).2) 0

theorem raise_flushFlags (c : Ctx) (w : Fields) (t : Tile) (b : Nat) : (t.flags ||| flushFlags c w t).getLsbD b = true ↔
    t.flags.getLsbD b = true ∨ ∃ i j, i < 32 ∧ j < 32 ∧ (flushCell c w t i j).2.getLsbD b = true := by
  rw [BitVec.getLsbD_or, Bool.or_eq_true, flushFlags, foldl_or_getLsbD, exists_tileCells, BitVec.ofNat_eq_ofNat, BitVec.getLsbD_zero]
  simp

/-- The group of a flush: each lane that acts has its row, packed. -/
def Ctx.flushed (c : Ctx) (w : Fields) (t : Tile) (g : Group) : Group := g.writeD w c.act (flushRegs w) fun i =>
  ((List.range 32).map (fun j => (flushCell c w t i j).1 * 2 ^ ((flushFmt w).width * j))).sum

theorem ltileFlush_perform {s : State} {c : Ctx} {w : Fields} {d : Desc} {t : Tile} (ht : s.tileOf c w = some t) :
    let e := s.setGroup c.ga c.slot (c.flushed w t (c.advance d).grp)
    ltileFlushSem.perform s c w d = if flushKeep w
      then onArr e c.ga (fun a => { a with tiles := Tab.put a.tiles (tileKey c w) { t with flags := t.flags ||| flushFlags c w t } })
      else onArr e c.ga (closedArr c w) := by
  intro e
  rw [Sem.perform_eq]
  unfold ltileFlushSem
  simp only [movedOn_tileOf, ht, flushDraw_advance, State.closeTile_advance, State.putTile_advance, ← List.sum_eq_foldl, Ctx.advance_act]
  rw [show (c.advance d).ga = c.ga from rfl, show (c.advance d).slot = c.slot from rfl, movedOn_setGroup]
  rfl

/-! LTILE_READ (R204). -/

/-- A word of the low 128 bits of an accumulator. -/
theorem low128_word (x : BitVec 144) {k : Nat} (hk : k < 4) :
    BitVec.ofNat 32 (x.toNat % 2 ^ 128 % 2 ^ (32 * 4) / 2 ^ (32 * k)) = (x >>> (32 * k)).setWidth 32 := by
  refine BitVec.eq_of_toNat_eq ?_
  have hsplit : 2 ^ 128 = 2 ^ (32 * k) * 2 ^ (128 - 32 * k) := by rw [← Nat.pow_add]; congr 1; omega
  rw [BitVec.toNat_ofNat, BitVec.toNat_setWidth, BitVec.toNat_ushiftRight, Nat.shiftRight_eq_div_pow, Nat.mod_mod, hsplit, Nat.mod_mul_right_div_self,
    Nat.mod_mod_of_dvd _ (Nat.pow_dvd_pow 2 (by omega))]

/-- The accumulators of a row that a lane reads, joined. -/
def rowRead (w : Fields) (t : Tile) (i : Nat) : Nat :=
  joinElems 4 (((List.range (tileCols w)).map (tileCol0 w + ·)).map (fun j => (t.acc i j).toNat % 2 ^ 128))

theorem rowRead_word (w : Fields) (t : Tile) (i : Nat) {k : Nat} (hk : k < 4 * tileCols w) :
    BitVec.ofNat 32 (rowRead w t i / 2 ^ (32 * k)) = ((t.acc i (tileCol0 w + k / 4)) >>> (32 * (k % 4))).setWidth 32 := by
  have hcol : k / 4 < tileCols w := by omega
  rw [rowRead, joinElems_word 4 (by decide) _ k (by simpa using hk), ← low128_word _ (Nat.mod_lt k (by decide))]
  simp [List.getD_eq_getElem?_getD, hcol]

/-- Whether an element read is not finite or out of range. -/
def cellFails (t : Tile) (i j : Nat) : Bool :=
  t.tag i j != .finite || decide ((t.acc i j).toInt < -(2 ^ 127)) || decide (2 ^ 127 ≤ (t.acc i j).toInt)

theorem cellFails_eq (t : Tile) (i j : Nat) : (t.tag i j != .finite || !accInRange (t.acc i j)) = cellFails t i j := by
  simp only [accInRange, cellFails, Bool.not_and, ← decide_not, Int.not_le, Int.not_lt, Bool.or_assoc]

theorem ltileRead_issued {g : GRef} {w : Fields} {s : State} {c : Ctx} {d : Desc} (h : Issues ltileReadSem g w s c d) {t : Tile}
    (ht : s.tileOf c w = some t) : ∃ x1 x, GroupIssue s (ltileReadSem.issue g w s) c x ∧
      WritesD c.grp x1 w c.act (4 * tileCols w) (fun i k => ((t.acc i (tileCol0 w + k / 4)) >>> (32 * (k % 4))).setWidth 32) ∧
      WritesPd x1 x w c.act (fun i => (List.range (tileCols w)).any (fun k => cellFails t i (tileCol0 w + k))) := by
  have hD := Group.writeD_writes (c.advance d).grp w c.act (4 * tileCols w) (rowRead w t)
  have hPd := Group.writePd_writes ((c.advance d).grp.writeD w c.act (4 * tileCols w) (rowRead w t)) w c.act
    (fun i => (List.range (tileCols w)).any (fun k => cellFails t i (tileCol0 w + k)))
  refine ⟨_, _, Sem.issue_registers h ?_ ((writesD_onRegisters hD).trans (writesPd_onRegisters hPd)),
    writesD_congr (writesD_onto hD (c.advance_onto d)) fun i k hk => rowRead_word w t i hk, writesPd_onto (g := Group.onto _ c.grp) hPd rfl⟩
  rw [Sem.perform_eq, ← movedOn_setGroup s c d]
  unfold ltileReadSem
  simp only [movedOn_tileOf, ht, cellFails_eq, List.any_map, Function.comp_def, Nat.add_comm _ (tileCol0 w)]
  rfl

/-! LTILE_WRITE (R204). -/

/-- The cells that LTILE_WRITE writes. -/
def writtenCells (w : Fields) : List (Nat × Nat) := (List.range 32).product ((List.range (tileCols w)).map (tileCol0 w + ·))

theorem mem_writtenCells (w : Fields) (i j : Nat) : (i, j) ∈ writtenCells w ↔ i < 32 ∧ tileCol0 w ≤ j ∧ j < tileCol0 w + tileCols w := by
  simp only [writtenCells, List.pair_mem_product, List.mem_range, List.mem_map]
  refine and_congr_right fun _ => ⟨?_, fun ⟨hlo, hhi⟩ => ⟨j - tileCol0 w, by omega, by omega⟩⟩
  rintro ⟨k, hk, rfl⟩
  omega

theorem nodup_writtenCells (w : Fields) : (writtenCells w).Nodup :=
  List.nodup_range.product (List.nodup_range.map fun _ _ h => Nat.add_left_cancel h)

/-- The value that the lane of a row supplies for a column. -/
def suppliedAcc (g : Group) (w : Fields) (e : Nat × Nat) : BitVec 144 :=
  (BitVec.ofNat 128 (g.supply e.1 (w.a.toNat + 4 * (e.2 - tileCol0 w)) 4)).signExtend 144

/-- An element after LTILE_WRITE: set, or added to. -/
def writtenElem (g : Group) (w : Fields) (e : Nat × Nat) (x : BitVec 144 × LTag) : BitVec 144 × LTag :=
  if 16 ≤ w.mod.toNat then (x.1 + suppliedAcc g w e, x.2) else (suppliedAcc g w e, .finite)

/-- A tile with one element of LTILE_WRITE written. -/
def Tile.writeCell (g : Group) (w : Fields) (t : Tile) (e : Nat × Nat) : Tile :=
  t.set e.1 e.2 (writtenElem g w e (t.elem e)).1 (writtenElem g w e (t.elem e)).2

theorem tileWrite_eq (g : Group) (w : Fields) (t : Tile) : tileWrite g w t = (writtenCells w).foldl (Tile.writeCell g w) t := by
  unfold tileWrite writtenCells List.product
  simp only [List.foldl_flatMap, List.foldl_map]
  congr 1
  funext t i
  congr 1
  funext t k
  simp only [Tile.writeCell, writtenElem, suppliedAcc, Tile.elem, Nat.add_sub_cancel_left]
  split <;> rfl

theorem writeCell_cellStep (g : Group) (w : Fields) (W : Int) : CellStep W (Tile.writeCell g w) (writtenElem g w) (fun _ _ => 0) where
  frame _ _ := rfl
  elem t _ _ _ he he' := Tile.elem_set t _ _ he he'
  flags _ _ _ := BitVec.or_zero.symm

/-- The columns that the shape of R204 lets through lie in the tile. -/
theorem tileGeometry_cols {w : Fields} {extra : Nat} (h : tileGeometry w extra = true) : tileCol0 w + tileCols w ≤ 32 := by
  simp only [tileGeometry, Bool.and_eq_true, decide_eq_true_eq, beq_iff_eq] at h
  obtain ⟨⟨-, hlt⟩, hmul⟩ := h
  unfold tileCols at hmul ⊢
  unfold tileCol0
  rcases (by omega : w.mod.toNat % 4 = 0 ∨ w.mod.toNat % 4 = 1 ∨ w.mod.toNat % 4 = 2 ∨ w.mod.toNat % 4 = 3) with e | e | e | e <;>
    rw [e] at hmul ⊢ <;> omega

theorem ltileWriteDesc_cols {w : Fields} {d : Desc} (h : ltileWriteDesc w = some d) : tileCol0 w + tileCols w ≤ 32 := by
  unfold ltileWriteDesc at h
  split at h
  · next hg => exact tileGeometry_cols hg
  · cases h

/-- A tile after LTILE_WRITE: the columns named are written in every row, and nothing else changes. -/
theorem tileWrite_spec {g : Group} {w : Fields} (hcols : tileCol0 w + tileCols w ≤ 32) (t : Tile) :
    (tileWrite g w t = { t with accs := (tileWrite g w t).accs, tags := (tileWrite g w t).tags }) ∧
      ∀ i j, i < 32 → j < 32 → (tileWrite g w t).elem (i, j) =
        if tileCol0 w ≤ j ∧ j < tileCol0 w + tileCols w then writtenElem g w (i, j) (t.elem (i, j)) else t.elem (i, j) := by
  have hstep := writeCell_cellStep g w t.w
  have hflags : ((writtenCells w).foldl (Tile.writeCell g w) t).flags = t.flags :=
    List.foldlRecOn _ _ (motive := fun x : Tile => x.flags = t.flags) rfl fun _ hx _ _ => hx
  have hcells : ∀ e ∈ writtenCells w, e.2 < 32 := fun e he => by
    obtain ⟨-, -, hlt⟩ := (mem_writtenCells w e.1 e.2).mp he
    omega
  rw [tileWrite_eq]
  refine ⟨?_, fun i j hi hj => ?_⟩
  · conv_lhs => rw [hstep.foldl_frame, hflags]
  · rw [(hstep.foldl_spec (nodup_writtenCells w) hcells rfl).1 (i, j) hj]
    exact if_congr ((mem_writtenCells w i j).trans (and_iff_right hi)) rfl rfl

@[simp] theorem tileWrite_advance (c : Ctx) (d : Desc) (w : Fields) (t : Tile) : tileWrite (c.advance d).grp w t = tileWrite c.grp w t := by
  simp only [tileWrite, Ctx.advance_supply]

theorem ltileWrite_issued {g : GRef} {w : Fields} {s : State} {c : Ctx} {d : Desc} (h : Issues ltileWriteSem g w s c d) {t : Tile}
    (ht : s.tileOf c w = some t) :
    Issued (onArr (movedOn s c d) c.ga (fun a => { a with tiles := Tab.put a.tiles (tileKey c w) (tileWrite c.grp w t) }))
      (ltileWriteSem.issue g w s) c := by
  refine Sem.issue_onTiles h (onRegisters_refl _) ?_ (fun _ => rfl)
  rw [Sem.perform_eq]
  unfold ltileWriteSem State.onTile
  simp only [movedOn_tileOf, ht, tileWrite_advance, State.putTile_advance]
  rfl

/-! LTILE_STAT (R205). -/

theorem Tile.stat_eq (t : Tile) : t.stat = (BitVec.ofInt 16 t.w).toNat + 2 ^ 16 * t.flags.toNat + 2 ^ 20 * t.fmt := by
  rw [Tile.stat, wrapInt_eq, Nat.mul_comm t.flags.toNat, Nat.mul_comm t.fmt]

theorem ltileStat_issued {g : GRef} {w : Fields} {s : State} {c : Ctx} {d : Desc} (h : Issues ltileStatSem g w s c d) {t : Tile}
    (ht : s.tileOf c w = some t) : ∃ x, GroupIssue s (ltileStatSem.issue g w s) c x ∧ WritesD c.grp x w c.act 1 (fun _ _ => BitVec.ofNat 32 t.stat) := by
  have hw := Group.writeD_writes (c.advance d).grp w c.act 1 (fun _ => t.stat)
  refine ⟨_, Sem.issue_registers h ?_ (writesD_onRegisters hw), writesD_one (writesD_onto hw (c.advance_onto d))⟩
  rw [Sem.perform_eq, ← movedOn_setGroup s c d]
  unfold ltileStatSem
  simp only [movedOn_tileOf, ht]
  rfl

end Sys2Proof.Machine

section

open Sys2Proof Sys2Proof.Machine

/-- Settles O16: each instruction by what it does to the tile it names. That LTILE_OPEN without a free tile waits at its address is the model's
reading of log entry 15; that a freed tile is given to a group that waits before the instruction moves the scheduler's pointer is the choice of
log entry 85. -/
theorem ledgerTiles : Obligations.LedgerTiles := by
  refine ⟨fun g w s c d h => ?_, ⟨fun g w s c d h => ⟨_, rfl, ltileClose_issued h⟩, fun g w s c d h => ⟨_, rfl, ?_⟩⟩,
    fun g w s c d h => ⟨_, rfl, ?_⟩, fun g w s c d h => ⟨_, rfl, ?_⟩, fun g w s c d h => ⟨_, rfl, ?_⟩⟩
  · obtain ⟨-, -, -, -, -, hcheck⟩ := Sem.verdict_go h.go
    obtain ⟨S, hS⟩ := openCheck_none hcheck
    refine ⟨fun k0 hk0 hfree => ⟨_, rfl, ?_⟩, fun hfull => ⟨_, rfl, (c.advance d).awaitTile w S, rfl, ?_⟩⟩
    · cases hkey : freeTile (s.arr c.ga) (c.slot / 16) with
      | none => exact absurd hfree (freeTile_none.mp hkey k0 hk0)
      | some key =>
        obtain ⟨hquarter, hnone, hlowest⟩ := freeTile_some hkey
        obtain ⟨hmoved, hissued⟩ := ltileOpen_opens h hS hkey
        exact ⟨key, S, _, hquarter, hnone, hlowest, hS, hmoved, hissued⟩
    · have hidle := ltileOpen_waits h hS (freeTile_none.mpr hfull)
      exact ⟨hidle, fun i hi => idle_laneAt hidle (Ctx.awaitTile_stands (issues_sub_mem h) d w S hi)⟩
  · obtain ⟨-, -, -, -, -, hcheck⟩ := Sem.verdict_go h.go
    obtain ⟨t0, ht0⟩ := tileCheck_none hcheck
    have hw := Group.writeD_writes (c.advance d).grp w c.act (flushRegs w) fun i =>
      ((List.range 32).map (fun j => (flushCell c w t0 i j).1 * 2 ^ ((flushFmt w).width * j))).sum
    have hregs : OnRegisters (c.advance d).grp (c.flushed w t0 (c.advance d).grp) := writesD_onRegisters hw
    refine ⟨t0, _, c.flushed w t0 (c.advance d).grp, ht0, movedOn_onRegisters h hregs, writesD_onto hw (c.advance_onto d), ?_⟩
    by_cases hkeep : flushKeep w = true
    · rw [if_pos hkeep]
      exact ⟨_, Sem.issue_onTiles h hregs ((ltileFlush_perform ht0).trans (if_pos hkeep)) (fun _ => rfl), raise_flushFlags c w t0⟩
    · rw [if_neg hkeep]
      exact Sem.issue_closed h hregs ((ltileFlush_perform ht0).trans (if_neg hkeep))
  · obtain ⟨-, -, -, -, -, hcheck⟩ := Sem.verdict_go h.go
    obtain ⟨t0, ht0⟩ := tileCheck_none hcheck
    obtain ⟨x1, x, hissue, hD, hPd⟩ := ltileRead_issued h ht0
    exact ⟨t0, x1, x, ht0, hissue, hD, hPd⟩
  · obtain ⟨-, hdesc, -, -, -, hcheck⟩ := Sem.verdict_go h.go
    obtain ⟨t0, ht0⟩ := tileCheck_none hcheck
    obtain ⟨hframe, helem⟩ := tileWrite_spec (g := c.grp) (ltileWriteDesc_cols hdesc) t0
    refine ⟨t0, tileWrite c.grp w t0, ht0, ltileWrite_issued h ht0, by rw [hframe], by rw [hframe], by rw [hframe], by rw [hframe],
      fun i j hi hj => ?_⟩
    intro v
    have he := helem i j hi hj
    by_cases hcol : tileCol0 w ≤ j ∧ j < tileCol0 w + tileCols w
    · rw [if_pos hcol, writtenElem] at he
      rw [if_pos hcol]
      by_cases hadd : 16 ≤ w.mod.toNat
      · rw [if_pos hadd] at he ⊢
        exact Prod.mk.inj he
      · rw [if_neg hadd] at he ⊢
        exact Prod.mk.inj he
    · rw [if_neg hcol] at he ⊢
      exact Prod.mk.inj he
  · obtain ⟨-, -, -, -, -, hcheck⟩ := Sem.verdict_go h.go
    obtain ⟨t0, ht0⟩ := tileCheck_none hcheck
    obtain ⟨x, hissue, hD⟩ := ltileStat_issued h ht0
    exact ⟨t0, x, ht0, hissue, by rwa [Tile.stat_eq] at hD⟩

end
end

section
/-! SUPPORT. The residue check of a held sum: what an error that the check sees leaves of an array (R232, R235, R236, R238). -/

namespace Sys2Proof.Machine

/-! Cells and dies retired (R236, R512, R521). -/

theorem State.retire_arrs (s : State) (r : Retire) : (s.retire r).arrs = s.arrs := by
  unfold State.retire
  split_ifs <;> rfl

theorem State.recordWorn_arrs (s : State) (site : Nat) : (s.recordWorn site).arrs = s.arrs := by
  unfold State.recordWorn
  split
  · exact s.retire_arrs _
  · rfl

theorem State.retireCell_arrs (s : State) (c : Ctx) (cell : Nat) (pc : W64) : (s.retireCell c cell pc).arrs = s.arrs := by
  unfold State.retireCell
  split
  · rfl
  · split
    · rfl
    · rw [State.recordWorn_arrs, State.raise_arrs, State.retire_arrs]

/-! What the check leaves of an array. -/

/-- An array in which a quarter holds a sum. -/
def Arr.hold (a : Arr) (q : Nat) (x : Staging) : Arr := { a with staged := Tab.put a.staged q x }

/-- An array in which a quarter's held sum is dropped. -/
def Arr.dropHeld (a : Arr) (q : Nat) : Arr := { a with staged := Tab.erase a.staged q }

/-- An array with one mismatch more counted of a cell. -/
def Arr.mismatched (a : Arr) (cell : Nat) : Arr := { a with mismatches := Tab.put a.mismatches cell (Tab.getD a.mismatches cell 0 + 1) }

theorem arr_onArr_self (s : State) (ga : Nat) (f : Arr → Arr) : (onArr s ga f).arr ga = f (s.arr ga) := State.arr_setArr_self ..

theorem onArr_onArr (s : State) (ga : Nat) (f f' : Arr → Arr) : onArr (onArr s ga f) ga f' = onArr s ga (fun a => f' (f a)) := by
  unfold onArr
  rw [State.arr_setArr_self, State.setArr_setArr]

/-- Below the limit of R236 a mismatch is counted and nothing else. -/
theorem State.mismatch_of_lt {s : State} {c : Ctx} {cell : Nat} (pc : W64) (h : Tab.getD (s.arr c.ga).mismatches cell 0 < 63) :
    s.mismatch c cell pc = onArr s c.ga (fun a => a.mismatched cell) := if_neg (by omega)

theorem State.mismatch_arr (s : State) (c : Ctx) (cell : Nat) (pc : W64) :
    (s.mismatch c cell pc).arr c.ga = (s.arr c.ga).mismatched cell := by
  rw [← arr_onArr_self s c.ga (fun a => a.mismatched cell)]
  unfold State.mismatch
  dsimp only
  split
  · exact State.arr_congr (State.retireCell_arrs ..) _
  · rfl

/-! The recomputations of a failed check (R235). -/

section
variable {s : State} {c : Ctx} {q k : Nat} {same other : Staging} (x : Staging)

/-- A recomputation of the serving cell that passes, below the limit of R236: its sum held, the mismatch counted, MATRIX_RESIDUE raised. -/
theorem State.recompute_corrects (hs : same.passes k = true)
    (hn : Tab.getD (s.arr c.ga).mismatches (4 * q + s.servingCell c.ga q k) 0 < 63) : ∃ r, r.code = 0x0201 ∧
      s.recompute c q k x same other =
        (onArr s c.ga (fun a => (a.hold q same).mismatched (4 * q + s.servingCell c.ga q k))).raise r := by
  let held := onArr s c.ga (fun a => a.hold q same)
  have hheld : Tab.getD (held.arr c.ga).mismatches (4 * q + s.servingCell c.ga q k) 0 < 63 := by rwa [arr_onArr_self]
  have hcount : held.mismatch c (4 * q + s.servingCell c.ga q k) x.pc = _ := (State.mismatch_of_lt x.pc hheld).trans (onArr_onArr ..)
  rw [← hcount]
  exact ⟨_, rfl, if_pos hs⟩

/-- Two recomputations that fail: a BLOCK fault, once the sum is dropped and a mismatch of the neighbour counted. -/
theorem State.recompute_drops (hs : same.passes k = false) (ho : other.passes k = false) : ∃ u neighbour,
    s.recompute c q k x same other = blockFault u c 0x0203 0 0 ∧ u.arr c.ga = ((s.arr c.ga).dropHeld q).mismatched neighbour := by
  let dropped := onArr (s.retireCell c (4 * q + s.servingCell c.ga q k) x.pc) c.ga (fun a => a.dropHeld q)
  let neighbour := 4 * q + s.servingCell c.ga q ((s.servingCell c.ga q k + 1) % 4)
  refine ⟨dropped.mismatch c neighbour x.pc, neighbour, ?_, ?_⟩
  · unfold State.recompute
    rw [hs, ho]
    rfl
  · rw [State.mismatch_arr, arr_onArr_self, State.arr_congr (State.retireCell_arrs ..)]

end

/-- The context of a group in a block. -/
theorem ctxFor_of_block {s : State} {ga slot : Nat} {grp : Group} {b : Block} (hg : s.group ga slot = some grp)
    (hb : s.block ga grp.block = some b) (lanes : BitVec 32) (pc : W64) :
    ∃ c, ctxFor s ga slot lanes pc = some c ∧ c.ga = ga ∧ c.grp = grp := by
  unfold ctxFor
  rw [hg]
  dsimp only
  rw [hb]
  exact ⟨_, rfl, rfl, rfl⟩

/-- RESIDUE_RECOMPUTE where the quarter holds a sum of the group. -/
theorem exec_residueRecompute {g : GRef} {s : State} {x : Staging} {grp : Group} {c : Ctx} (k : Fin 4)
    (errs : List (BitVec 10 × BitVec 144) × List (BitVec 10 × BitVec 144) × List (BitVec 10 × BitVec 144))
    (hx : Tab.get (s.arr g.arr.val).staged (g.slot.val / 16) = some x) (hslot : x.slot = g.slot.val)
    (hg : s.group g.arr.val g.slot.val = some grp) (hc : ctxFor s g.arr.val g.slot.val grp.live x.pc = some c) :
    let first := x.withErrors k.val errs.1
    exec (.residueRecompute g k errs) s = next (
      if first.passes k.val then onArr s g.arr.val (fun a => a.hold (g.slot.val / 16) first)
      else s.recompute c (g.slot.val / 16) k.val x (x.withErrors k.val errs.2.1) (x.withErrors k.val errs.2.2)) := by
  intro first
  rw [show exec (.residueRecompute g k errs) s = execResidueRecompute g k errs s from rfl]
  unfold execResidueRecompute
  dsimp only
  rw [hx, hg]
  dsimp only
  rw [hc]
  dsimp only
  rw [if_neg (not_not.mpr hslot)]
  rfl

end Sys2Proof.Machine

section

open Sys2Proof Sys2Proof.Machine

/-- Settles O25: where the check sees the errors, the array is followed through what the two recomputations come to. That RESIDUE_RECOMPUTE brings
the errors while the cells still hold the sum is the model's choice of log entry 100. -/
theorem residueCheck : Obligations.ResidueCheck := by
  intro g k errs s x grp b ga q n hx hslot hg hb first same other
  obtain ⟨c, hc, hga, hgrp⟩ := ctxFor_of_block hg hb grp.live x.pc
  have hexec := exec_residueRecompute k errs hx hslot hg hc
  change exec _ s = next (if first.passes k.val then onArr s ga (fun a => a.hold q first) else s.recompute c q k.val x same other) at hexec
  refine ⟨fun hfirst => ⟨_, hexec, if_pos hfirst⟩, fun hfirst hsame hlt => ⟨_, hexec, ?_⟩,
    fun hfirst hsame hother hsorted => ⟨_, hexec, ?_⟩⟩
  all_goals rw [if_neg (ne_true_of_eq_false hfirst)]
  · obtain ⟨r, hcode, hr⟩ := State.recompute_corrects (c := c) (other := other) x hsame (by rwa [hga])
    rw [hga] at hr
    have harr : (s.recompute c q k.val x same other).arr ga = ((s.arr ga).hold q same).mismatched n := by
      rw [hr, State.arr_congr (State.raise_arrs ..), arr_onArr_self]
    rw [harr]
    refine ⟨Tab.getD_put_self .., rfl, Tab.get_put_self .., rfl, rfl, r, ?_, hcode⟩
    rw [hr, State.raise_undelivered]
    rfl
  · obtain ⟨u, _, hu, harr⟩ := State.recompute_drops (s := s) (c := c) (q := q) x hsame hother
    rw [hga] at harr
    have hblock : u.block ga grp.block = some b := by rw [State.block, harr]; exact hb
    rw [hu, blockFault_arr, harr, blockFault_block, hga, hgrp, if_pos ⟨rfl, rfl⟩, hblock]
    exact ⟨Tab.get_erase_self _ _ hsorted, rfl, rfl, rfl⟩

end
end

section
/-! SUPPORT. An element of a sum line under its contributions: their order, and the exact value it closes to (R212, R215 to R217, R221). -/

namespace Sys2Proof.Machine

/-- A contribution: value, W, NaN mark. -/
abbrev Contribution := BitVec 128 × BitVec 16 × Bool

/-- An element after a contribution. -/
def SumElem.step (e : SumElem) (c : Contribution) : SumElem := e.add c.1 c.2.1 c.2.2

/-! The order of contributions. -/

/-- Two elements that no contribution can tell apart: the same, but for what lies behind a NaN. -/
def SumElem.Alike (e f : SumElem) : Prop := e = f ∨ (e.tag = .nan ∧ f.tag = .nan)

theorem SumElem.Alike.refl (e : SumElem) : e.Alike e := Or.inl rfl

theorem SumElem.Alike.trans {e f g : SumElem} (h : e.Alike f) (k : f.Alike g) : e.Alike g := by
  obtain rfl | ⟨he, hf⟩ := h
  · exact k
  · obtain rfl | ⟨-, hg⟩ := k
    · exact Or.inr ⟨he, hf⟩
    · exact Or.inr ⟨he, hg⟩

theorem SumElem.Alike.close {e f : SumElem} (h : e.Alike f) : e.close = f.close := by
  obtain rfl | ⟨he, hf⟩ := h
  · rfl
  · unfold SumElem.close
    rw [he, hf]

/-- An element that a contribution of window W leaves finite: it is not NaN, and holds that W or leaves it open (R216, R217). -/
def SumElem.Takes (e : SumElem) (w : BitVec 16) : Prop := e.tag ≠ .nan ∧ (e.wKnown = true → e.w = w)

/-- R216, R217: a contribution leaves NaN where it is NaN itself, or where the element does not take its W. -/
theorem SumElem.step_nan_iff (e : SumElem) (c : Contribution) :
    (e.step c).tag = .nan ↔ c.2.2 = true ∨ ¬e.Takes c.2.1 := by
  have htag : (e.step c).tag = if c.2.2 = true ∨ e.tag = .nan ∨ (e.wKnown = true ∧ e.w ≠ c.2.1) then STag.nan else .finite := rfl
  rw [htag, ite_eq_left_iff]
  simp only [SumElem.Takes, not_and_or, not_not, Classical.not_imp, ne_eq, reduceCtorEq, imp_false]

/-- A finite contribution that the element takes. -/
theorem SumElem.step_of_takes {e : SumElem} {c : Contribution} (hc : c.2.2 = false) (he : e.Takes c.2.1) :
    e.step c = { acc := e.acc + c.1.signExtend 144, w := c.2.1, wKnown := true, tag := .finite, count := min (e.count + 1) 0xFFFFFFFF,
                 entry := e.entry } := by
  obtain ⟨htag, hw⟩ := he
  have hkept : (if e.wKnown = true then e.w else c.2.1) = c.2.1 := ite_eq_right_iff.mpr hw
  have hfinite : ¬(c.2.2 = true ∨ e.tag = .nan ∨ (e.wKnown = true ∧ e.w ≠ c.2.1)) := by
    rw [hc]
    rintro (h | h | ⟨hk, hne⟩)
    · cases h
    · exact htag h
    · exact hne (hw hk)
  unfold SumElem.step SumElem.add
  rw [if_neg hfinite, hkept, hc]
  rfl

/-- What an element takes after a contribution. -/
theorem SumElem.step_takes_iff (e : SumElem) (c : Contribution) (w : BitVec 16) :
    (e.step c).Takes w ↔ c.2.2 = false ∧ e.Takes c.2.1 ∧ c.2.1 = w := by
  by_cases h : c.2.2 = false ∧ e.Takes c.2.1
  · obtain ⟨hc, he⟩ := h
    rw [SumElem.step_of_takes hc he]
    exact ⟨fun ht => ⟨hc, he, ht.2 rfl⟩, fun ⟨_, _, hw⟩ => ⟨STag.noConfusion, fun _ => hw⟩⟩
  · have hnan : (e.step c).tag = .nan := by
      rw [SumElem.step_nan_iff, ← Bool.not_eq_false, ← not_and_or]
      exact h
    exact iff_of_false (fun ht => ht.1 hnan) fun ⟨hc, he, _⟩ => h ⟨hc, he⟩

theorem SumElem.step_nan {e : SumElem} (h : e.tag = .nan) (c : Contribution) : (e.step c).tag = .nan :=
  (SumElem.step_nan_iff e c).mpr (Or.inr fun ht => ht.1 h)

theorem SumElem.Alike.step {e f : SumElem} (h : e.Alike f) (c : Contribution) : (e.step c).Alike (f.step c) := by
  obtain rfl | ⟨he, hf⟩ := h
  · exact Or.inl rfl
  · exact Or.inr ⟨SumElem.step_nan he c, SumElem.step_nan hf c⟩

theorem SumElem.Alike.foldl_step {e f : SumElem} (h : e.Alike f) (l : List Contribution) :
    (l.foldl SumElem.step e).Alike (l.foldl SumElem.step f) := by
  induction l generalizing e f with
  | nil => exact h
  | cons c l ih => exact ih (h.step c)

/-- Two contributions leave NaN unless both are finite and the element takes the one W of both. -/
theorem SumElem.step_step_nan {e : SumElem} {c d : Contribution}
    (h : ¬(c.2.2 = false ∧ d.2.2 = false ∧ c.2.1 = d.2.1 ∧ e.Takes c.2.1)) : ((e.step c).step d).tag = .nan := by
  rw [SumElem.step_nan_iff, SumElem.step_takes_iff, ← Bool.not_eq_false, ← not_and_or]
  exact fun ⟨hd, hc, he, hw⟩ => h ⟨hc, hd, hw, he⟩

/-- Two contributions in either order: the values of two that the element takes add, and any others leave NaN. -/
theorem SumElem.step_comm (e : SumElem) (c d : Contribution) : ((e.step c).step d).Alike ((e.step d).step c) := by
  by_cases h : c.2.2 = false ∧ d.2.2 = false ∧ c.2.1 = d.2.1 ∧ e.Takes c.2.1
  · obtain ⟨hc, hd, hw, he⟩ := h
    have he' : e.Takes d.2.1 := hw ▸ he
    refine Or.inl ?_
    rw [SumElem.step_of_takes hd ((e.step_takes_iff c _).mpr ⟨hc, he, hw⟩),
      SumElem.step_of_takes hc ((e.step_takes_iff d _).mpr ⟨hd, he', hw.symm⟩),
      SumElem.step_of_takes hc he, SumElem.step_of_takes hd he', hw, add_right_comm]
  · exact Or.inr ⟨SumElem.step_step_nan h, SumElem.step_step_nan fun ⟨hd, hc, hw, he⟩ => h ⟨hc, hd, hw.symm, hw ▸ he⟩⟩

/-- R215 to R217: the order of contributions leaves no trace. -/
theorem SumElem.foldl_step_perm {l l' : List Contribution} (h : l.Perm l') (e : SumElem) :
    (l.foldl SumElem.step e).Alike (l'.foldl SumElem.step e) := by
  induction h generalizing e with
  | nil => exact .refl e
  | cons c _ ih => exact ih (e.step c)
  | swap c d l => exact (e.step_comm d c).foldl_step l
  | trans _ _ ih ih' => exact (ih e).trans (ih' e)

/-! The exact sum (R212, R215, R221). -/

section
variable {e : SumElem} {w : BitVec 16} {l : List Contribution}

theorem SumElem.foldl_step_takes (he : e.Takes w) (hl : ∀ c ∈ l, c.2.1 = w ∧ c.2.2 = false) : (l.foldl SumElem.step e).Takes w := by
  refine List.foldlRecOn l _ (motive := (SumElem.Takes · w)) he fun f hf c hc => ?_
  obtain ⟨hw, hn⟩ := hl c hc
  exact (f.step_takes_iff c w).mpr ⟨hn, hw ▸ hf, hw⟩

/-- Contributions that an element takes leave it finite. -/
theorem SumElem.foldl_step_tag (he : e.Takes w) (hl : ∀ c ∈ l, c.2.1 = w ∧ c.2.2 = false) (hne : l ≠ []) :
    (l.foldl SumElem.step e).tag = .finite := by
  obtain ⟨m, c, rfl⟩ := (List.eq_nil_or_concat' l).resolve_left hne
  rw [List.forall_mem_append] at hl
  obtain ⟨hm, hlast⟩ := hl
  obtain ⟨rfl, hc⟩ := hlast c List.mem_cons_self
  rw [List.foldl_concat, SumElem.step_of_takes hc (SumElem.foldl_step_takes he hm)]

/-- R215: their values add, modulo 2^144. -/
theorem SumElem.foldl_step_acc (he : e.Takes w) (hl : ∀ c ∈ l, c.2.1 = w ∧ c.2.2 = false) :
    (l.foldl SumElem.step e).acc = e.acc + BitVec.ofInt 144 (l.map (fun c => c.1.toInt)).sum := by
  induction l generalizing e with
  | nil => exact (BitVec.add_zero _).symm
  | cons c l ih =>
    obtain ⟨⟨rfl, hn⟩, hl⟩ := List.forall_mem_cons.mp hl
    rw [List.foldl_cons, ih ((e.step_takes_iff c _).mpr ⟨hn, he, rfl⟩) hl, SumElem.step_of_takes hn he, List.map_cons, List.sum_cons,
      BitVec.ofInt_add, ← BitVec.add_assoc]
    rfl

/-- R212: a sum in range is exact in the accumulator. -/
theorem SumElem.foldl_step_toInt (he : e.Takes w) (hl : ∀ c ∈ l, c.2.1 = w ∧ c.2.2 = false)
    (hlo : -(2 ^ 127 : Int) < e.acc.toInt + (l.map (fun c => c.1.toInt)).sum) (hhi : e.acc.toInt + (l.map (fun c => c.1.toInt)).sum < 2 ^ 127) :
    (l.foldl SumElem.step e).acc.toInt = e.acc.toInt + (l.map (fun c => c.1.toInt)).sum := by
  rw [SumElem.foldl_step_acc he hl, ← BitVec.ofInt_toInt (x := e.acc), ← BitVec.ofInt_add, BitVec.ofInt_toInt]
  exact BitVec.toInt_ofInt_eq_self (by decide) (by omega) (by omega)

end

/-- The low bits of a word, as a number with a sign. -/
theorem toInt_setWidth_of_le {m n : Nat} (h : n ≤ m) (x : BitVec m) : (x.setWidth n).toInt = x.toInt.bmod (2 ^ n) := by
  rw [BitVec.toInt_setWidth, BitVec.toInt_eq_toNat_bmod, Int.bmod_bmod_of_dvd (Nat.pow_dvd_pow 2 h)]

/-- R221: a finite element whose sum is in range closes to it. -/
theorem SumElem.close_toInt {e : SumElem} (ht : e.tag = .finite) (hlo : -(2 ^ 127 : Int) < e.acc.toInt) (hhi : e.acc.toInt < 2 ^ 127) :
    e.close.toInt = e.acc.toInt := by
  unfold SumElem.close
  rw [ht]
  dsimp only
  rw [if_pos ⟨hhi, hlo⟩, BitVec.truncate_eq_setWidth, toInt_setWidth_of_le (by decide)]
  exact Int.bmod_eq_of_le (by omega) (by omega)

end Sys2Proof.Machine

section

open Sys2Proof Sys2Proof.Machine

/-- Settles O28: two contributions that change places leave elements that close alike; and the accumulator, which adds modulo 2^144, holds an
exact sum in range. -/
theorem sumOrder : Obligations.SumOrder := by
  refine ⟨fun e l l' h => (SumElem.foldl_step_perm h e).close, ?_⟩
  intro e l w htag hw hl hne _ _ _ sum hhi hlo
  have he : e.Takes w := ⟨htag, hw⟩
  have hacc : (l.foldl SumElem.step e).acc.toInt = sum := SumElem.foldl_step_toInt he hl hlo hhi
  have hclose := SumElem.close_toInt (SumElem.foldl_step_tag he hl hne) (by rwa [hacc]) (by rwa [hacc])
  exact hclose.trans hacc

end
end

section
/-! SUPPORT. What a store leaves of a line of a slice, byte by byte (R259, R275, R280). -/

namespace Sys2Proof.Machine

/-- A byte of a line merged under a mask. -/
theorem lineByte_mergeLine (old new : LineData) (m : ByteMask) (b : Nat) (hb : b < 128) :
    lineByte (mergeLine old new m) b = if m.getLsbD b then lineByte new b else lineByte old b := by
  refine BitVec.eq_of_getLsbD_eq fun j hj => ?_
  rw [getLsbD_lineByte, getLsbD_mergeLine _ _ _ _ (by omega), show (8 * b + j) / 8 = b by omega]
  cases m.getLsbD b
  · exact (getLsbD_lineByte old b j).symm
  · exact (getLsbD_lineByte new b j).symm

theorem getLsbD_fullMask (b : Nat) (hb : b < 128) : fullMask.getLsbD b = true := by
  rw [fullMask, BitVec.getLsbD_allOnes, decide_eq_true hb]

/-- The bytes that a line held before a store: a dead line held zeros. -/
def SLine.before (l : SLine) : LineData := if l.st = .dead then 0 else l.data

/-- The bytes that count as dirty before a store: a clean line has none, and a store to a dead line dirties them all. -/
def SLine.dirtyBefore (l : SLine) : ByteMask := match l.st with
  | .clean => 0
  | .dead => fullMask
  | _ => l.mask

/-- What a store leaves of a line: its bytes merged into those held, and its mask added to the dirty bytes. -/
theorem SLine.stored_spec (l : SLine) (data : LineData) (mask : ByteMask) : let m := l.stored data mask
    m.data = mergeLine l.before data mask ∧ m.mask = l.dirtyBefore ||| mask ∧ m.line = l.line ∧ m.visitor = l.visitor := by
  unfold SLine.stored SLine.before SLine.dirtyBefore
  cases l.st with
  | dead => exact ⟨rfl, (BitVec.allOnes_or).symm, rfl, rfl⟩
  | clean => exact ⟨rfl, (BitVec.zero_or).symm, rfl, rfl⟩
  | _ => exact ⟨rfl, rfl, rfl, rfl⟩

section
variable (l : SLine) {data : LineData} {mask : ByteMask}

theorem SLine.stored_of_clean (h : l.st = .clean) :
    l.stored data mask = { l with st := .dirty, mask := mask, data := mergeLine l.data data mask } := by rw [SLine.stored, h]

theorem SLine.stored_of_dead (h : l.st = .dead) :
    l.stored data mask = { l with st := .dirty, mask := fullMask, data := mergeLine 0 data mask } := by rw [SLine.stored, h]

theorem SLine.stored_of_partial (h : l.st = .partialLine) : let m := l.mask ||| mask
    l.stored data mask = { l with st := if m = fullMask then .dirty else .partialLine, mask := m, data := mergeLine l.data data mask } := by
  rw [SLine.stored, h]

end

end Sys2Proof.Machine

section

open Sys2Proof Sys2Proof.Machine

/-- Settles O27: a store merges its bytes into those the line held, and adds its mask to the dirty ones, whatever the state of the line. -/
theorem storedBytes : Obligations.StoredBytes := by
  intro l data mask b hb m
  obtain ⟨hdata, hmask, hline, hvisitor⟩ := l.stored_spec data mask
  have hbit : m.mask.getLsbD b = (l.dirtyBefore.getLsbD b || mask.getLsbD b) := by rw [hmask, BitVec.getLsbD_or]
  refine ⟨?_, fun h => by rw [hbit, h, Bool.or_true], fun hst h => ?_, fun hst => ?_, fun hst => ?_, fun hst => ?_, hline, hvisitor⟩
  · have hbyte := (congrArg (lineByte · b) hdata).trans (lineByte_mergeLine _ _ _ _ hb)
    refine hbyte.trans ?_
    unfold SLine.before
    split
    · rfl
    · split
      · exact BitVec.extractLsb'_zero
      · rfl
  · rw [hbit]
    unfold SLine.dirtyBefore
    cases e : l.st with
    | clean => exact absurd e hst
    | dead => rw [getLsbD_fullMask b hb, Bool.true_or]
    | _ => rw [h, Bool.true_or]
  · rw [show m = _ from l.stored_of_clean hst]
    exact ⟨rfl, rfl⟩
  · rw [show m = _ from l.stored_of_dead hst]
    exact ⟨rfl, rfl⟩
  · rw [show m = _ from l.stored_of_partial hst]
    refine ⟨?_, rfl⟩
    dsimp only
    split
    · next h => exact ⟨fun _ => h, fun _ => rfl⟩
    · next h => exact ⟨fun e => (nomatch e), fun e => absurd e h⟩

end
end

section
/-! SUPPORT. What a change of registers leaves of the others: one change after another, and a change of one field (R10, R11). -/

namespace Sys2Proof

open Machine

theorem Machine.State.field_congr {s t : State} {a : Nat} (h : t.reg a = s.reg a) (lo w : Nat) : t.field a lo w = s.field a lo w := by
  unfold State.field
  rw [h]

section
variable {s t u : State} {l m : List Nat}

theorem RegsBut.trans (h : RegsBut s t l) (k : RegsBut t u m) : RegsBut s u (l ++ m) := fun a ha => by
  rw [List.mem_append, not_or] at ha
  obtain ⟨hl, hm⟩ := ha
  exact (k a hm).trans (h a hl)

theorem RegsBut.mono (h : RegsBut s t l) (hl : ∀ a ∈ l, a ∈ m) : RegsBut s t m := fun a ha => h a (fun hal => ha (hl a hal))

theorem OnlyRegs.refl (s : State) (l : List Nat) : OnlyRegs s s l := ⟨rfl, fun _ _ => rfl⟩

theorem OnlyRegs.trans (h : OnlyRegs s t l) (k : OnlyRegs t u m) : OnlyRegs s u (l ++ m) := by
  obtain ⟨hframe, hregs⟩ := h
  obtain ⟨kframe, kregs⟩ := k
  exact ⟨kframe.trans (by rw [hframe]), hregs.trans kregs⟩

theorem OnlyRegs.mono (h : OnlyRegs s t l) (hl : ∀ a ∈ l, a ∈ m) : OnlyRegs s t m := by
  obtain ⟨hframe, hregs⟩ := h
  exact ⟨hframe, hregs.mono hl⟩

/-- Two changes within one list of registers. -/
theorem OnlyRegs.join (h : OnlyRegs s t l) (k : OnlyRegs t u l) : OnlyRegs s u l :=
  (h.trans k).mono (fun _ ha => (List.mem_append.mp ha).elim id id)

theorem OnlyRegs.ite {c : Prop} [Decidable c] (h : OnlyRegs s t l) (k : OnlyRegs s u l) : OnlyRegs s (if c then t else u) l := by
  split <;> assumption

theorem OnlyRegs.setReg (h : OnlyRegs s t l) {a : Nat} (ha : a ∈ l) (v : W32) : OnlyRegs s (t.setReg a v) l :=
  h.join ⟨rfl, (RegsBut.setReg t a v).mono (fun b hb => by rwa [List.mem_singleton.mp hb])⟩

theorem OnlyRegs.setField (h : OnlyRegs s t l) {a : Nat} (ha : a ∈ l) (lo w v : Nat) : OnlyRegs s (t.setField a lo w v) l := h.setReg ha _

theorem OnlyRegs.setBit (h : OnlyRegs s t l) {a : Nat} (ha : a ∈ l) (i : Nat) : OnlyRegs s (t.setBit a i) l := h.setReg ha _

theorem OnlyRegs.clearBit (h : OnlyRegs s t l) {a : Nat} (ha : a ∈ l) (i : Nat) : OnlyRegs s (t.clearBit a i) l := h.setReg ha _

theorem FieldOnly.refl (s : State) (a lo w : Nat) : FieldOnly s s a lo w := fun _ _ _ => rfl

/-- A later change that leaves the register alone. -/
theorem FieldOnly.congr {a lo w : Nat} (h : FieldOnly s t a lo w) (hu : u.reg a = t.reg a) : FieldOnly s u a lo w := fun i hi ho =>
  (State.bit_congr hu i).trans (h i hi ho)

theorem Machine.State.setField_fieldOnly (s : State) (a lo w v : Nat) (h : lo + w ≤ 32) : FieldOnly s (s.setField a lo w v) a lo w := fun i _ ho => by
  unfold State.bit
  rw [State.field_setField_disjoint _ _ _ _ _ _ _ h (by omega)]

end

/-- A start step done is shown in the two registers of start. -/
theorem Machine.State.doStep_onlyRegs (s : State) (i : Nat) : OnlyRegs s (s.doStep i) [Reg.startState, Reg.startTime i] :=
  ((OnlyRegs.refl s _).setBit List.mem_cons_self i).setReg (List.mem_cons_of_mem _ List.mem_cons_self) _

end Sys2Proof
end

section
/-! SUPPORT. Events at a home slice: the oldest request for a line performed or kept waiting, an acknowledgement, the end of an invalidation,
the bucket read of a sum line, and a prefetched line that returns (R215, R228, R229, R250, R251, R259, R269, R271, R279, R293). -/

namespace Sys2Proof.Machine

/-! Requests (R250, R251). -/

theorem exec_homeAccess (p : Fin 6) (line : BitVec 41) (s : State) :
    exec (.homeAccess p line none) s = .next (s.homeAccess p.val line.toNat) := rfl

theorem exec_homeAccess_upset {p : Fin 6} {line : BitVec 41} {u : HomeUpset} {s : State} (h : (s.accessUpset p.val line.toNat u).2 = false) :
    exec (.homeAccess p line (some u)) s = .next (s.accessUpset p.val line.toNat u).1 :=
  congrArg Host.Outcome.next (if_neg (by rw [h]; exact Bool.false_ne_true))

theorem exec_sumLineContribution (p : Fin 6) (line : BitVec 41) (n : Fin 3) (s : State) :
    exec (.sumLineContribution p line n none) s = .next (s.contribution p.val line.toNat n.val) := rfl

/-- A request kept waiting: nothing changes but what a regulator holds, which grows. -/
theorem State.keepWaiting_spec (s : State) (r : MemReq) : let t := s.keepWaiting r
    t = { s with held := t.held } ∧ ∀ h, h ∈ s.held → h ∈ t.held := by
  unfold State.keepWaiting
  dsimp only
  split
  · exact ⟨rfl, fun _ hh => List.mem_append_left _ hh⟩
  · exact ⟨rfl, fun _ hh => hh⟩

section
variable {s : State} {p line : Nat} {r : MemReq} (hr : s.headReq p line = some r) (hready : s.sliceReady (s.homeDie p line) = true)
include hr hready

/-- The access that HOME_ACCESS makes for a line of HBM or the far tier. -/
theorem State.homeAccess_eq (hk : r.kind ≠ .ledger) (hl : 128 * line < hostStart) :
    s.homeAccess p line = (match s.takeVisitor r with
      | none => s
      | some e => match (e.dropReq r).serve (s.homeDie p line) r with
        | none => e.keepWaiting r
        | some t => ((t.countHit (s.homeDie p line) (e.hitKind (s.homeDie p line) r)).spend p r.sl
            (Config.activity 0 (Tab.getD e.power.supply (s.homeDie p line) 0))).progressAll) := by
  unfold State.homeAccess
  simp only [hr, hk, hready, if_neg (Nat.not_le.mpr hl), if_false, Bool.not_true, Bool.false_eq_true] <;> rfl

/-- The access that SUM_LINE_CONTRIBUTION makes while the checks of its addition pass. -/
theorem State.contribution_eq (hk : r.kind = .ledger) {n : Nat} (hn : n < 2) :
    s.contribution p line n = (match (s.dropReq r).serve (s.homeDie p line) r with
      | none => s.keepWaiting r
      | some u => (u.spend p r.sl (Config.activity 1 (Tab.getD s.power.supply (s.homeDie p line) 0))).progressAll) := by
  have hcheck : (s.dropReq r).serveChecked (s.homeDie p line) r (decide (2 ≤ n)) = (s.dropReq r).serve (s.homeDie p line) r := by
    rw [State.serveChecked, decide_eq_false (Nat.not_le.mpr hn), Bool.false_and, if_neg Bool.false_ne_true]
  unfold State.contribution
  simp only [hr, hk, hready, hcheck, ne_eq, not_true_eq_false, Bool.not_true, Bool.false_eq_true, or_self, if_false] <;> rfl

end

/-! Returned lines and acknowledgements (R259, R293). -/

theorem takeFill_some {p line : Nat} {l : List Fill} {f : Fill} {rest : List Fill} (h : takeFill p line l = some (f, rest)) :
    f.part = p ∧ f.line = line := by
  induction l generalizing rest with
  | nil => cases h
  | cons g l ih =>
    unfold takeFill at h
    split at h
    · next hg => cases h; exact hg
    · split at h
      · cases h
      · next he => cases h; exact ih he

theorem exec_fillArrive {p : Fin 6} {line : BitVec 41} {s : State} {f : Fill} {rest : List Fill}
    (h : takeFill p.val line.toNat s.fills = some (f, rest)) (failed : List Nat) : exec (.fillArrive p line failed none) s =
      .next (({ s with fills := rest } : State).fillHome (s.homeDie p.val line.toNat) p.val line.toNat f.code f.data failed).progressAll := by
  show next (match takeFill p.val line.toNat s.fills with | none => s | some (f, rest) => _) = _
  rw [h]; rfl

/-- A group, and an array with its groups, without the write that a number stands for. -/
def Group.acked (g : Group) (id : Nat) : Group := { g with pend := g.pend.filter (fun k => k.id != id) }
def Arr.acked (a : Arr) (id : Nat) : Arr :=
  { a with unacked := a.unacked.filter (fun e => e.1 != id), groups := Tab.mapAll a.groups (fun _ g => g.acked id) }

theorem exec_homeWriteAck {a : Fin 768} {line : BitVec 41} {s : State} {id : Nat} {rest : List (Nat × Nat × Nat)}
    (h : takeAck a.val line.toNat s.writeAcks = some (id, rest)) : exec (.homeWriteAck a line) s =
      .next (({ s with writeAcks := rest } : State).setArr a.val ((s.arr a.val).acked id)).progressAll := by
  show next (match takeAck a.val line.toNat s.writeAcks with | none => s | some (id, rest) => _) = _
  rw [h]; rfl

theorem Arr.acked_group (a : Arr) (id slot : Nat) : Tab.get (a.acked id).groups slot = (Tab.get a.groups slot).map (·.acked id) :=
  Tab.get_map a.groups (fun _ g => g.acked id) slot

/-! The end of an invalidation (R279). -/

theorem State.sliceBase_ge {s : State} {d b : Nat} (h : s.sliceBase d = some b) : 0x20000000 ≤ b := by
  obtain ⟨site, -, rfl⟩ := Option.map_eq_some_iff.mp h
  unfold Base.slice Base.site
  omega

/-- A slice whose invalidation was under way is READY, with its status bit (R279). -/
def State.sliceClean (s : State) (b : Nat) : State :=
  if s.bit (Reg.sliceState b) 1 then (s.setField (Reg.sliceState b) 0 2 1).setBit (Reg.sliceStatus b) 8 else s

theorem sliceStatus_ne (b : Nat) : Reg.sliceState b ≠ Reg.sliceStatus b := by
  unfold Reg.sliceState Reg.sliceStatus
  omega

theorem State.sliceClean_onlyRegs (s : State) (b : Nat) : OnlyRegs s (s.sliceClean b) [Reg.sliceState b, Reg.sliceStatus b] :=
  (((OnlyRegs.refl s _).setField List.mem_cons_self 0 2 1).setBit (List.mem_cons_of_mem _ List.mem_cons_self) 8).ite (OnlyRegs.refl s _)

theorem State.sliceClean_shown {s : State} {b : Nat} (h : s.bit (Reg.sliceState b) 1 = true) :
    (s.sliceClean b).field (Reg.sliceState b) 0 2 = 1 ∧ (s.sliceClean b).bit (Reg.sliceStatus b) 8 = true := by
  rw [State.sliceClean, if_pos h]
  refine ⟨?_, State.bit_setBit_self _ _ _ (by decide)⟩
  rw [State.field_setBit _ _ _ _ _ _ (by decide) (Or.inl (sliceStatus_ne b)), State.field_setField_self _ _ _ _ _ (by decide)]
  rfl

theorem State.sliceClean_fields (s : State) (b : Nat) :
    FieldOnly s (s.sliceClean b) (Reg.sliceState b) 0 2 ∧ FieldOnly s (s.sliceClean b) (Reg.sliceStatus b) 8 1 := by
  unfold State.sliceClean
  split
  · constructor
    · exact (s.setField_fieldOnly _ 0 2 1 (by decide)).congr (State.reg_setBit_other _ _ _ _ (sliceStatus_ne b))
    · intro i hi ho
      rw [State.setBit_fieldOnly _ _ _ (by decide) i hi ho]
      exact State.bit_congr (State.reg_setField_other _ _ _ _ _ _ (sliceStatus_ne b).symm) i
  · exact ⟨FieldOnly.refl s _ _ _, FieldOnly.refl s _ _ _⟩

/-- Once its slice is clean, the end of an invalidation can but end the start step. -/
theorem State.invalidated_eq {s : State} {d b : Nat} (h : s.sliceBase d = some b) :
    s.invalidated d = s.sliceClean b ∨ s.invalidated d = (s.sliceClean b).doStep 8 := by
  unfold State.invalidated
  rw [h]
  dsimp only
  split
  · exact Or.inr rfl
  · exact Or.inl rfl

/-- R279: a slice's invalidation ends in its two registers, and in those of the start step that may end with it. -/
theorem State.invalidated_spec {s : State} {d b : Nat} (h : s.sliceBase d = some b) : let e := s.sliceClean b; let t := s.invalidated d
    OnlyRegs e t [Reg.startState, Reg.startTime 8] ∧ t.reg (Reg.sliceState b) = e.reg (Reg.sliceState b) ∧
      t.reg (Reg.sliceStatus b) = e.reg (Reg.sliceStatus b) := by
  intro e t
  have ht : OnlyRegs e t [Reg.startState, Reg.startTime 8] := by
    rcases State.invalidated_eq h with h | h
    · rw [show t = e from h]; exact OnlyRegs.refl e _
    · rw [show t = e.doStep 8 from h]; exact e.doStep_onlyRegs 8
  obtain ⟨-, hregs⟩ := id ht
  have hb := State.sliceBase_ge h
  refine ⟨ht, hregs _ ?_, hregs _ ?_⟩ <;>
    simp only [Reg.sliceState, Reg.sliceStatus, Reg.startState, Reg.startTime, List.mem_cons, List.not_mem_nil, or_false] <;> omega

/-! The bucket read of a sum line (R228, R229). -/

theorem Mem.readLE_eq_zero {m : List Host.Cell} {n a : Nat} (h : ∀ k, a ≤ k → k < a + n → Mem.read m k = 0) : Mem.readLE m a n = 0 := by
  induction n generalizing a with
  | zero => rfl
  | succ n ih =>
    rw [Mem.readLE, h a (Nat.le_refl a) (by omega), ih (fun k hk hn => h k (by omega) (by omega))]
    rfl

/-- Zeros written read as zero. -/
theorem Mem.readLE_writeLE_zero {m : List Host.Cell} (h : Memory.wf m = true) (a n : Nat) : Mem.readLE (Mem.writeLE m a 0 n) a n = 0 :=
  Mem.readLE_eq_zero (fun k hk hn => by rw [Mem.read_writeLE h, if_pos ⟨hk, hn⟩, Nat.zero_div]; rfl)

/-- A sum line with the elements of its record merged into its own. -/
def SumLine.merged (v : SumLine) (es : List SumElem) : SumLine :=
  { v with merging := false, elems := (v.elems.zip es).map (fun e => e.1.merge e.2) }

section
variable {s : State} {p d line i : Nat}

/-- Taking a record changes the tables of its slice and eight bytes of HBM. -/
theorem State.takeSpill_spec : let t := (s.takeSpill p d line i).2
    t = { s with slices := t.slices, hbm := (s.rawWrite p (s.spillAddr p d (s.setOf line / 2) i) 0 8).hbm } ∧
      (∀ k, k ≠ d → t.slice k = s.slice k) ∧ (t.slice d).sums = (s.slice d).sums := by
  refine ⟨rfl, fun k hk => (State.slice_setSlice s d k _).trans (if_neg hk), ?_⟩
  show ((s.setSlice d _).slice d).sums = _
  rw [State.slice_setSlice_self]

theorem State.mergeRecord_eq {u : SumLine} (hu : (s.slice d).sums.find? (fun u => u.line == line && u.merging) = some u)
    (hi : s.findSpill p d line = some i) : let e := s.takeSpill p d line i
    s.mergeRecord d p line = e.2.setSlice d { e.2.slice d with sums := (e.2.slice d).sums.map (fun v =>
      if v.line = line then v.merged e.1 else v) } := by
  unfold State.mergeRecord
  rw [hu, hi]
  rfl

/-- R229: the sum line has its record merged into it, and the record reads as free. -/
theorem State.mergeRecord_spec {u : SumLine} (hwf : Memory.wf s.hbm = true)
    (hu : (s.slice d).sums.find? (fun u => u.line == line && u.merging) = some u) (hi : s.findSpill p d line = some i) :
    let t := s.mergeRecord d p line
    t = { s with slices := t.slices, hbm := t.hbm } ∧ (∀ k, k ≠ d → t.slice k = s.slice k) ∧
      (t.slice d).sums = (s.slice d).sums.map (fun v => if v.line = line then v.merged (s.takeSpill p d line i).1 else v) ∧
      t.rawRead p (s.spillAddr p d (s.setOf line / 2) i) 8 = 0 := by
  intro t
  have ht : t = _ := State.mergeRecord_eq hu hi
  obtain ⟨hframe, hothers, hsums⟩ := State.takeSpill_spec (s := s) (p := p) (d := d) (line := line) (i := i)
  rw [ht]
  refine ⟨?_, fun k hk => ?_, ?_, ?_⟩
  · rw [hframe]; rfl
  · rw [State.slice_setSlice, if_neg hk, hothers k hk]
  · rw [State.slice_setSlice_self, ← hsums]
  · exact Mem.readLE_writeLE_zero hwf _ 8

theorem exec_spillBucketReadDone {p : Fin 6} {line : BitVec 41} {n : Fin 3} {u : SumLine} (hn : n.val < 2)
    (hu : (s.slice (s.homeDie p.val line.toNat)).sums.find? (fun u => u.line == line.toNat && u.merging) = some u)
    (hi : s.findSpill p.val (s.homeDie p.val line.toNat) line.toNat = some i) :
    exec (.spillBucketReadDone p line n none) s = .next (s.mergeRecord (s.homeDie p.val line.toNat) p.val line.toNat) := by
  have hmerges : s.mergesRecord p.val line.toNat = true := by
    rw [State.mergesRecord, hi, Option.isSome_some, Bool.and_true, List.any_eq_true]
    exact ⟨u, List.mem_of_find?_eq_some hu, List.find?_some (p := fun u : SumLine => u.line == line.toNat && u.merging) hu⟩
  show next (if s.mergesRecord p.val line.toNat = true then (if n.val = 2 then _ else _) else s) = _
  rw [if_pos hmerges, if_neg (Nat.ne_of_lt hn)]
  rfl

end

/-! Prefetched lines (R269, R271). -/

theorem exec_sideBufferFill_array {p : Fin 6} {line : BitVec 41} {s : State} {f : Fill} {rest : List Fill} {ga : Nat}
    (h : takeFill p.val line.toNat s.sideFills = some (f, rest)) (hf : f.arr = some ga) :
    exec (.sideBufferFill p line none) s = .next (({ s with sideFills := rest } : State).sideArray ga f) := by
  show next (match takeFill p.val line.toNat s.sideFills with | none => s | some (f, rest) => _) = _
  rw [h]
  show next (match f.arr with | some ga => _ | none => _) = _
  rw [hf]
  rfl

theorem exec_sideBufferFill_home {p : Fin 6} {line : BitVec 41} {s : State} {f : Fill} {rest : List Fill}
    (h : takeFill p.val line.toNat s.sideFills = some (f, rest)) (hf : f.arr = none) :
    exec (.sideBufferFill p line none) s = .next (({ s with sideFills := rest } : State).sideHome p.val line.toNat f.code) := by
  show next (match takeFill p.val line.toNat s.sideFills with | none => s | some (f, rest) => _) = _
  rw [h]
  show next (match f.arr with | some ga => _ | none => _) = _
  rw [hf]
  rfl

/-- An array that takes a prefetched line: it keeps a live line that it does not hold, its oldest line displaced when the buffer is full (R269,
R271). -/
def Arr.takeSide (a : Arr) (f : Fill) : Arr :=
  { a with sidePend := a.sidePend.filter (· != f.line),
           sideBuf := if f.code = .live ∧ a.l1Find f.line = none ∧ a.l1Pending f.line = false then
             a.sideBuf.drop (if 512 ≤ a.sideBuf.length then 1 else 0) ++ [(f.line, f.data)] else a.sideBuf }

theorem State.sideArray_awaited {s : State} {ga : Nat} {f : Fill} (h : (s.arr ga).sidePend.contains f.line = true) :
    s.sideArray ga f = s.setArr ga ((s.arr ga).takeSide f) := by
  have hiff : (f.code ≠ .live ∨ ((s.arr ga).l1Find f.line).isSome = true ∨ (s.arr ga).l1Pending f.line = true) ↔
      ¬(f.code = .live ∧ (s.arr ga).l1Find f.line = none ∧ (s.arr ga).l1Pending f.line = false) := by
    rw [not_and_or, not_and_or, ← ne_eq ((s.arr ga).l1Find f.line), Option.ne_none_iff_isSome, Bool.not_eq_false]
  unfold State.sideArray Arr.takeSide
  refine (if_neg (by rw [h]; exact Bool.false_ne_true)).trans ?_
  dsimp only
  split
  · next hc => rw [if_neg (hiff.mp hc)]
  · next hc => rw [if_pos (not_not.mp (mt hiff.mpr hc))]; split <;> rfl

theorem State.sideArray_unawaited {s : State} {ga : Nat} {f : Fill} (h : (s.arr ga).sidePend.contains f.line = false) :
    s.sideArray ga f = s := by
  unfold State.sideArray
  exact if_pos (by rw [h]; rfl)

theorem filter_ne_of_not_contains {l : List Nat} {x : Nat} (h : l.contains x = false) : l.filter (· != x) = l :=
  List.filter_eq_self.mpr (fun y hy => bne_iff_ne.mpr (fun e => by
    rw [← e, List.contains_iff_mem.mpr hy] at h
    exact Bool.noConfusion h))

end Sys2Proof.Machine

section

open Sys2Proof Sys2Proof.Machine

/-- Settles O26: each event is followed to the state it leaves. Two of the ways are the model's choice: a request whose answer becomes a visitor
copy waits while its own die's slice has no miss register free (log entry 101), and a parity error that loses dirty state makes no access (log
entry 26). -/
theorem homesSpillsAndSideBuffer : Obligations.HomesSpillsAndSideBuffer := by
  refine ⟨⟨?_, ?_, ?_, ?_, ?_, ?_⟩, ?_, ?_, ?_⟩
  · intro p line s r hr hk hl hready
    refine ⟨_, exec_homeAccess p line s, ?_⟩
    rw [State.homeAccess_eq hr hready hk hl]
    cases s.takeVisitor r with
    | none => exact rfl
    | some e =>
      dsimp only
      cases (e.dropReq r).serve (s.homeDie p.val line.toNat) r with
      | none => exact e.keepWaiting_spec r
      | some u => exact rfl
  · exact fun p line s u h => ⟨_, exec_homeAccess_upset h, rfl⟩
  · intro p line s r n hr hk hn hready
    refine ⟨_, exec_sumLineContribution p line n s, ?_⟩
    rw [State.contribution_eq hr hready hk hn]
    cases (s.dropReq r).serve (s.homeDie p.val line.toNat) r with
    | none => exact s.keepWaiting_spec r
    | some u => exact rfl
  · intro p line failed s f rest h
    obtain ⟨hp, hline⟩ := takeFill_some h
    exact ⟨_, exec_fillArrive h failed, hp, hline, rfl⟩
  · intro a line s id rest h
    refine ⟨_, exec_homeWriteAck h, _, rfl, rfl, fun ga hga => ?_, ?_, fun slot x hx => ?_⟩
    · exact (State.arr_setArr ..).trans (if_neg hga)
    · rw [State.arr_setArr_self]; rfl
    · rw [State.group_setArr_self, Arr.acked_group, show Tab.get (s.arr a.val).groups slot = some x from hx]; rfl
  · intro d s b hb
    obtain ⟨hstart, hstate, hstatus⟩ := State.invalidated_spec hb
    obtain ⟨honState, honStatus⟩ := s.sliceClean_fields b
    refine ⟨_, rfl, (s.sliceClean_onlyRegs b).trans hstart, fun hbit => ?_, honState.congr hstate, honStatus.congr hstatus⟩
    obtain ⟨hready, hset⟩ := State.sliceClean_shown hbit
    exact ⟨(State.field_congr hstate 0 2).trans hready, (State.bit_congr hstatus 8).trans hset⟩
  · exact fun p line n s u i hwf hu hi hn => ⟨_, exec_spillBucketReadDone hn hu hi, State.mergeRecord_spec hwf hu hi⟩
  · intro p line s f rest ga h hf
    refine ⟨_, exec_sideBufferFill_array h hf, ?_⟩
    cases hc : (s.arr ga).sidePend.contains f.line with
    | false =>
      rw [State.sideArray_unawaited (s := { s with sideFills := rest }) hc]
      exact ⟨rfl, fun _ _ => rfl, fun _ => rfl, fun h => Bool.noConfusion h, (filter_ne_of_not_contains hc).symm, rfl, rfl⟩
    | true =>
      rw [State.sideArray_awaited (s := { s with sideFills := rest }) hc, State.arr_setArr_self]
      exact ⟨rfl, fun k hk => (State.arr_setArr ..).trans (if_neg hk),
        fun h => if_neg fun ⟨hlive, _⟩ => h.elim Bool.noConfusion (fun hdead => hdead hlive),
        fun _ hlive hfind hpend => if_pos ⟨hlive, hfind, hpend⟩, rfl, rfl, rfl⟩
  · exact fun p line s f rest h hf => ⟨_, exec_sideBufferFill_home h hf, rfl⟩

end
end

section
/-! SUPPORT. RATE_CONFIG and ENERGY_READ by what they answer and write (R578, R592). -/

namespace Sys2Proof.Machine

/-! RATE_CONFIG (R578). -/

/-- The fields of RATE_MODE as a configuration stores them. -/
theorem rateWord_fields {fixed fret lock : Nat} (hfixed : ¬1 < fixed) (hfret : ¬7 < fret) (hlock : ¬1 < lock) :
    let v := (BitVec.ofNat 32 (fixed + 2 * fret + lock * 2 ^ 31) &&& 0x8000000F).toNat
    bitsOf v 0 1 = fixed ∧ bitsOf v 1 3 = fret ∧ bitsOf v 31 1 = lock := by
  have h : ∀ (x : Fin 2) (y : Fin 8) (z : Fin 2), let v := (BitVec.ofNat 32 (x.val + 2 * y.val + z.val * 2 ^ 31) &&& 0x8000000F).toNat
    bitsOf v 0 1 = x.val ∧ bitsOf v 1 3 = y.val ∧ bitsOf v 31 1 = z.val := by decide
  exact h ⟨fixed, by omega⟩ ⟨fret, by omega⟩ ⟨lock, by omega⟩

theorem exec_rateConfig {port : Fin 6} {s : State} {k : Work} (hk : s.mgmtNext port.val 0x0500 = some k) :
    exec (.rateConfig port) s = .next (s.rateConfig k) := by
  show next (match s.mgmtNext port.val 0x0500 with | some k => s.rateConfig k | none => s) = _
  rw [hk]; rfl

/-- The rate of a partition set. -/
theorem State.setRate_spec (s : State) (p : Nat) {fixed fret lock : Nat} (hfixed : ¬1 < fixed) (hfret : ¬7 < fret) (hlock : ¬1 < lock) :
    let a := Reg.rateMode p; let e := s.setRate p (BitVec.ofNat 32 (fixed + 2 * fret + lock * 2 ^ 31))
    OnlyRegs s e [a] ∧ e.field a 0 1 = fixed ∧ e.field a 1 3 = fret ∧ e.field a 31 1 = lock := by
  intro a e
  have hreg (lo w : Nat) : e.field a lo w = bitsOf (BitVec.ofNat 32 (fixed + 2 * fret + lock * 2 ^ 31) &&& 0x8000000F).toNat lo w :=
    (State.field_setReg ..).trans (if_pos rfl)
  rw [hreg, hreg, hreg]
  exact ⟨(OnlyRegs.refl s [a]).setReg List.mem_cons_self _, rateWord_fields hfixed hfret hlock⟩

/-! ENERGY_READ (R592). -/

/-- A number put above bits leaves those below as they are. -/
theorem bitsOf_add_above (x r : Nat) {m lo w : Nat} (h : lo + w ≤ m) : bitsOf (x + r * 2 ^ m) lo w = bitsOf x lo w := by
  obtain ⟨n, rfl⟩ := Nat.exists_eq_add_of_le h
  unfold bitsOf
  rw [Nat.shiftRight_eq_div_pow, Nat.shiftRight_eq_div_pow, pow_add, pow_add, Nat.mul_assoc, Nat.mul_left_comm,
    Nat.add_mul_div_left _ _ (Nat.two_pow_pos lo), Nat.mul_left_comm, Nat.add_mul_mod_self_left]

/-- A number put above those below 2^m is read there. -/
theorem bitsOf_add_at {x r m w : Nat} (hx : x < 2 ^ m) (hr : r < 2 ^ w) : bitsOf (x + r * 2 ^ m) m w = r := by
  unfold bitsOf
  rw [Nat.shiftRight_eq_div_pow, Nat.add_mul_div_right _ _ (Nat.two_pow_pos m), Nat.div_eq_of_lt hx, Nat.zero_add, Nat.mod_eq_of_lt hr]

/-- Words put one above the other, from bit 64 on. -/
def stackWords (f : Nat → W32) (n x : Nat) : Nat := (List.range n).foldl (fun v i => v + (f i).toNat * 2 ^ (64 + 32 * i)) x

theorem stackWords_succ (f : Nat → W32) (n x : Nat) : stackWords f (n + 1) x = stackWords f n x + (f n).toNat * 2 ^ (64 + 32 * n) := by
  unfold stackWords
  rw [List.range_succ, List.foldl_append]
  rfl

theorem stackWords_spec (f : Nat → W32) (n : Nat) {x : Nat} (hx : x < 2 ^ 64) : stackWords f n x < 2 ^ (64 + 32 * n) ∧
    bitsOf (stackWords f n x) 0 64 = x ∧ ∀ i, i < n → bitsOf (stackWords f n x) (64 + 32 * i) 32 = (f i).toNat := by
  induction n with
  | zero => exact ⟨hx, Nat.mod_eq_of_lt hx, fun i hi => absurd hi (Nat.not_lt_zero i)⟩
  | succ n ih =>
    obtain ⟨hlt, hlow, hwords⟩ := ih
    rw [stackWords_succ]
    refine ⟨?_, ?_, fun i hi => ?_⟩
    · have hf : (f n).toNat + 1 ≤ 2 ^ 32 := (f n).isLt
      calc
        stackWords f n x + (f n).toNat * 2 ^ (64 + 32 * n) < ((f n).toNat + 1) * 2 ^ (64 + 32 * n) := by
          rw [Nat.succ_mul (f n).toNat, Nat.add_comm]
          exact Nat.add_lt_add_left hlt _
        _ ≤ 2 ^ 32 * 2 ^ (64 + 32 * n) := Nat.mul_le_mul_right _ hf
        _ = 2 ^ (64 + 32 * (n + 1)) := by rw [← pow_add]; congr 1; omega
    · rw [bitsOf_add_above _ _ (by omega), hlow]
    · rcases Nat.lt_succ_iff_lt_or_eq.mp hi with hi | rfl
      · rw [bitsOf_add_above _ _ (by omega), hwords i hi]
      · exact bitsOf_add_at hlt (f i).isLt

theorem exec_energyRead {port : Fin 6} {s u : State} {k : Work} {b : Nat} (hk : s.mgmtNext port.val 0x0501 = some k)
    (hb : s.paramBlock k = (some b, u)) : exec (.energyRead port) s =
      .next (if bitsOf b 0 64 % 64 ≠ 0 ∨ u.outFits k (bitsOf b 0 64) 264 = false then u.serve1 k.id 1
        else (u.putBytes k.part k.slice k.id (bitsOf b 0 64) (stackWords (fun i => u.reg (Reg.sliceEnergy (64 * k.part + i))) 64 u.tb.window)
          264).serve1 k.id 0) := by
  show next (match s.mgmtNext port.val 0x0501 with | some k => s.energyRead k | none => s) = _
  rw [hk]
  show next (s.energyRead k) = _
  unfold State.energyRead
  simp only [hb, Bool.not_eq_true']
  rfl

end Sys2Proof.Machine
end

section
/-! SUPPORT. FAR_RELEASE, FAR_ATTACH and FAR_SCRUB (R488, R617, R618). -/

namespace Sys2Proof.Machine

theorem State.onMgmt_next {s : State} {port op : Nat} {k : Work} (h : s.mgmtNext port op = some k) (f : State → Work → State) :
    s.onMgmt port op f = f s k := by
  unfold State.onMgmt
  rw [h]

theorem exec_farAttach {port : Fin 6} {s : State} {k : Work} (h : s.mgmtNext port.val 0x0601 = some k) :
    exec (.farAttach port) s = .next (s.farAttach k) := congrArg Host.Outcome.next (State.onMgmt_next h State.farAttach)

theorem exec_farScrub {port : Fin 6} {s : State} {k : Work} (h : s.mgmtNext port.val 0x0300 = some k) :
    exec (.farScrub port) s = .next (s.farScrub k) := congrArg Host.Outcome.next (State.onMgmt_next h State.farScrub)

theorem exec_farRelease_begins {port : Fin 6} {s : State} {k : Work} (h : s.mgmtNext port.val 0x0600 = some k)
    (hnone : (s.boundTo port.val).bind s.releasing = none) : exec (.farRelease port) s = .next (s.farRelease k) := by
  have hidle : (s.boundTo port.val).bind (fun p => (s.releasing p).map (fun e => (p, e))) = none := by
    cases hp : s.boundTo port.val with
    | none => rfl
    | some p =>
      rw [hp] at hnone
      exact congrArg (Option.map (fun e => (p, e))) hnone
  show execFarRelease port s = _
  unfold execFarRelease
  rw [hidle]
  exact congrArg Host.Outcome.next (State.onMgmt_next h State.farRelease)

theorem exec_farRelease_goesOn {port : Fin 6} {s : State} {p j id : Nat} {dies : List Nat} (hp : s.boundTo port.val = some p)
    (hj : s.releasing p = some (j, id, dies)) :
    exec (.farRelease port) s = .next (if s.mgdLost = true then s else s.releaseNext p j id dies) := by
  show execFarRelease port s = _
  unfold execFarRelease
  rw [hp, Option.bind_some, hj]
  rfl

/-! The port that an entry names. -/

section
variable {s u : State} {k : Work} {b : Nat} (h : s.paramBlock k = (some b, u))
include h

theorem State.farOperand_none (hn : u.partN k.part ≤ b % 256) : s.farOperand k = (none, u) := by
  unfold State.farOperand
  rw [h]
  exact congrArg (·, u) (if_neg (Nat.not_lt.mpr hn))

theorem State.farOperand_some (hn : ¬u.partN k.part ≤ b % 256) : s.farOperand k = (some (u.partK0 k.part + b % 256), u) := by
  unfold State.farOperand
  rw [h]
  exact congrArg (·, u) (if_pos (Nat.not_le.mp hn))

/-- R618: a release begins with every die of the partition still to be treated. -/
theorem State.farRelease_spec : let j := u.partK0 k.part + b % 256
    s.farRelease k = if u.partN k.part ≤ b % 256 then u.serve1 k.id 1
      else if (u.mid j).farReleased = true then u.serve1 k.id 2
      else (u.setMid j { u.mid j with farReleasing := some (k.id, u.partDies k.part) }).mgmtBegun k.id := by
  intro j
  unfold State.farRelease
  by_cases hn : u.partN k.part ≤ b % 256
  · rw [State.farOperand_none h hn, if_pos hn]
  · rw [State.farOperand_some h hn, if_neg hn]

/-- R617: an attached port is in use by its partition again, its release no longer shown. -/
theorem State.farAttach_spec : let j := u.partK0 k.part + b % 256
    s.farAttach k = if u.partN k.part ≤ b % 256 then u.serve1 k.id 1
      else if u.bit (Reg.farState j) 0 = false then u.serve1 k.id 2
      else if u.field (Reg.farState j) 16 13 < u.farCap k.part (b % 256) then u.serve1 k.id 4
      else ((u.setMid j { u.mid j with farReleased := false, farAttached := true }).clearBit (Reg.farHp j) 3).serve1 k.id 0 := by
  intro j
  unfold State.farAttach
  by_cases hn : u.partN k.part ≤ b % 256
  · rw [State.farOperand_none h hn, if_pos hn]
  · rw [State.farOperand_some h hn, if_neg hn]
    simp only [Bool.not_eq_true', Nat.add_sub_cancel_left, j]

/-- R488: a far scrub begins with its phase and cause shown; its entry keeps the port it named. -/
theorem State.farScrub_spec : let j := u.partK0 k.part + b % 256
    s.farScrub k = if u.partN k.part ≤ b % 256 then u.serve1 k.id 1
      else if u.farUp j = false then u.serve1 k.id 2
      else (((u.setField (Reg.scrubSector j) 0 2 3).setField (Reg.scrubSector j) 4 3 5).modWork k.id
        (fun k => { k with pigeonhole := 64 + j })).mgmtBegun k.id := by
  intro j
  unfold State.farScrub
  by_cases hn : u.partN k.part ≤ b % 256
  · rw [State.farOperand_none h hn, if_pos hn]
  · rw [State.farOperand_some h hn, if_neg hn]
    simp only [Bool.not_eq_true', j]

end

end Sys2Proof.Machine
end

section
/-! SUPPORT. The lines of a released far region taken from an array (R283, R618). -/

namespace Sys2Proof.Machine

/-- R618: no line of the region is left in the L1. -/
theorem State.releaseArrayLines_l1 (s : State) (p port ga : Nat) :
    ∀ e ∈ ((s.releaseArrayLines p port ga).arr ga).l1, s.atPort p port e.2.line = false := by
  intro e he
  unfold State.releaseArrayLines at he
  extract_lets a mine dirty written at he
  split at he
  · next hempty =>
    obtain ⟨hl1, -⟩ := hempty
    have hs : written = s := by
      unfold written dirty
      rw [hl1]
      rfl
    rw [hs, hl1] at he
    cases he
  · rw [State.arr_setArr_self] at he
    have hkept := (List.mem_filter.mp he).2
    exact Bool.not_eq_true' _ ▸ hkept

end Sys2Proof.Machine
end

section
/-! SUPPORT. Far scrubs outside the partitions, and the end of a far scrub (R487, R488, R499). -/

namespace Sys2Proof.Machine

/-! Memory after a range of it was zeroed. -/

theorem Mem.read_clear_inside (m : List Host.Cell) {lo hi x : Nat} (hlo : lo ≤ x) (hhi : x < hi) : Mem.read (Mem.clear m lo hi) x = 0 := by
  unfold Mem.read Tab.getD
  rw [Tab.get_eq_none (fun c hc e => ?_)]
  · rfl
  · obtain ⟨-, hout⟩ := List.mem_filter.mp hc
    rw [e, decide_eq_true hlo, decide_eq_true hhi] at hout
    exact Bool.noConfusion hout

theorem Mem.read_clear_outside {m : List Host.Cell} (h : Memory.wf m = true) {lo hi x : Nat} (hx : x < lo ∨ hi ≤ x) :
    Mem.read (Mem.clear m lo hi) x = Mem.read m x := by
  obtain ⟨hsorted, -⟩ := (Memory.wf_iff m).mp h
  have hkeep : (!(decide (lo ≤ x) && decide (x < hi))) = true := by
    rw [← Bool.decide_and, ← decide_not, decide_eq_true_iff]
    omega
  have hget := Tab.get_keep m (fun a => !(decide (lo ≤ a) && decide (a < hi))) x hsorted
  exact congrArg (·.getD 0) (hget.trans (if_pos hkeep))

/-- Every far byte of a port is below the first of the next. -/
theorem farKey_bounds (port : Nat) {off : Nat} (h : off < 2 ^ 42) : farKey port 0 ≤ farKey port off ∧ farKey port off < farKey (port + 1) 0 := by
  unfold farKey
  omega

/-! FAR_START (R488). -/

/-- The registers that FAR_START may write. -/
def farStartRegs : List Nat := [Reg.scrubStatus, Reg.scrubCtl] ++ (List.range 8).map Reg.scrubSector

theorem scrubStatus_mem : Reg.scrubStatus ∈ farStartRegs := List.mem_append_left _ List.mem_cons_self
theorem scrubCtl_mem : Reg.scrubCtl ∈ farStartRegs := List.mem_append_left _ (List.mem_cons_of_mem _ List.mem_cons_self)
theorem scrubSector_mem {k : Nat} (hk : k < 8) : Reg.scrubSector k ∈ farStartRegs :=
  List.mem_append_right _ (List.mem_map_of_mem (List.mem_range.mpr hk))

theorem mem_farStartRegs_lt {a : Nat} (h : a ∈ farStartRegs) : 0x7000 ≤ a ∧ a < 0x7200 := by
  unfold farStartRegs at h
  rcases List.mem_append.mp h with h | h
  · simp only [Reg.scrubStatus, Reg.scrubCtl, List.mem_cons, List.not_mem_nil, or_false] at h
    omega
  · obtain ⟨k, hk, rfl⟩ := List.mem_map.mp h
    have := List.mem_range.mp hk
    unfold Reg.scrubSector
    omega

theorem State.partOfSector_congr {s t : State} (h : ∀ p, t.reg (Reg.partState p) = s.reg (Reg.partState p)) (k : Nat) :
    t.partOfSector k = s.partOfSector k := by
  have hsectors : ∀ p, t.partSectors p = s.partSectors p := fun p => State.field_congr (h p) 8 8
  unfold State.partOfSector
  simp only [hsectors]

/-- FAR_START scrubs the port of a sector: it is asked to, no partition holds the sector, and the port is up. -/
def State.Starts (s : State) (v : BitVec 32) (k : Nat) : Prop :=
  v.getLsbD k = true ∧ s.partOfSector k = none ∧ s.bit (Reg.farState k) 0 = true

/-- What FAR_START does for one sector. -/
def State.farStartAt (v : BitVec 32) (s : State) (k : Nat) : State :=
  if !v.getLsbD k then s
  else if (s.partOfSector k).isSome ∨ !s.bit (Reg.farState k) 0 then s.setBit Reg.scrubStatus 3
  else ((s.setField (Reg.scrubSector k) 0 2 3).setField (Reg.scrubSector k) 4 3 5).setBit Reg.scrubCtl k

theorem State.farStart_eq (s : State) (v : BitVec 32) : s.farStart v = (List.range 8).foldl (State.farStartAt v) s := rfl

section
variable {s t : State} {v : BitVec 32} {j k : Nat}

theorem State.farStartAt_of_starts (h : s.Starts v k) : s.farStartAt v k =
    ((s.setField (Reg.scrubSector k) 0 2 3).setField (Reg.scrubSector k) 4 3 5).setBit Reg.scrubCtl k := by
  obtain ⟨hv, hpart, hup⟩ := h
  unfold State.farStartAt
  rw [hv, hpart, hup]
  rfl

theorem State.farStartAt_of_refused (h : ¬s.Starts v k) : s.farStartAt v k = if v.getLsbD k = true then s.setBit Reg.scrubStatus 3 else s := by
  unfold State.farStartAt
  cases hv : v.getLsbD k with
  | false => rfl
  | true =>
    refine (if_neg Bool.false_ne_true).trans ((if_pos ?_).trans (if_pos rfl).symm)
    cases hpart : s.partOfSector k with
    | some p => exact Or.inl rfl
    | none =>
      cases hup : s.bit (Reg.farState k) 0 with
      | false => exact Or.inr rfl
      | true => exact absurd ⟨hv, hpart, hup⟩ h

theorem State.farStartAt_onlyRegs (hk : k < 8) : OnlyRegs s (s.farStartAt v k) farStartRegs := by
  by_cases h : s.Starts v k
  · rw [State.farStartAt_of_starts h]
    exact (((OnlyRegs.refl s _).setField (scrubSector_mem hk) 0 2 3).setField (scrubSector_mem hk) 4 3 5).setBit scrubCtl_mem k
  · rw [State.farStartAt_of_refused h]
    exact ((OnlyRegs.refl s _).setBit scrubStatus_mem 3).ite (OnlyRegs.refl s _)

/-- What decides whether a sector's port is scrubbed is held in other registers. -/
theorem State.starts_congr (h : OnlyRegs s t farStartRegs) : t.Starts v k ↔ s.Starts v k := by
  obtain ⟨-, hregs⟩ := h
  have hout : ∀ a, 0x7200 ≤ a → t.reg a = s.reg a := fun a ha => hregs a (fun hmem => by have := mem_farStartRegs_lt hmem; omega)
  unfold State.Starts
  rw [State.partOfSector_congr (fun p => hout _ (by unfold Reg.partState; omega)),
    State.bit_congr (hout (Reg.farState k) (by unfold Reg.farState; omega))]

/-- The sector's port is shown as being scrubbed. -/
def State.ShowsScrub (s : State) (k : Nat) : Prop :=
  s.field (Reg.scrubSector k) 0 2 = 3 ∧ s.field (Reg.scrubSector k) 4 3 = 5 ∧ s.bit Reg.scrubCtl k = true

theorem State.farStartAt_shows (hk : k < 8) (h : s.Starts v k) : (s.farStartAt v k).ShowsScrub k := by
  rw [State.farStartAt_of_starts h]
  have hne : Reg.scrubSector k ≠ Reg.scrubCtl := by unfold Reg.scrubSector Reg.scrubCtl; omega
  refine ⟨?_, ?_, State.bit_setBit_self _ _ _ (by omega)⟩
  · rw [State.field_setBit _ _ _ _ _ _ (by omega) (Or.inl hne), State.field_setField_disjoint _ _ _ _ _ _ _ (by decide) (by decide),
      State.field_setField_self _ _ _ _ _ (by decide)]
    rfl
  · rw [State.field_setBit _ _ _ _ _ _ (by omega) (Or.inl hne), State.field_setField_self _ _ _ _ _ (by decide)]
    rfl

/-- A sector that is not started keeps its register and its bit of SCRUB_CTL while others are. -/
theorem State.farStartAt_keeps (hk : k < 8) (hj : j < 8) (h : j ≠ k ∨ ¬s.Starts v k) :
    (s.farStartAt v j).reg (Reg.scrubSector k) = s.reg (Reg.scrubSector k) ∧ (s.farStartAt v j).bit Reg.scrubCtl k = s.bit Reg.scrubCtl k := by
  by_cases hstarts : s.Starts v j
  · have hjk : k ≠ j := fun e => (e ▸ h).elim (fun hn => hn rfl) (fun hn => hn hstarts)
    have hne : Reg.scrubSector k ≠ Reg.scrubSector j := by unfold Reg.scrubSector; omega
    have hctl (i : Nat) : Reg.scrubSector i ≠ Reg.scrubCtl := by unfold Reg.scrubSector Reg.scrubCtl; omega
    rw [State.farStartAt_of_starts hstarts]
    constructor
    · rw [State.reg_setBit_other _ _ _ _ (hctl k), State.reg_setField_other _ _ _ _ _ _ hne, State.reg_setField_other _ _ _ _ _ _ hne]
    · rw [State.bit_setBit _ _ _ _ _ (by omega), if_neg (fun e => hjk e.2)]
      refine State.bit_congr ?_ k
      rw [State.reg_setField_other _ _ _ _ _ _ (hctl j).symm, State.reg_setField_other _ _ _ _ _ _ (hctl j).symm]
  · rw [State.farStartAt_of_refused hstarts]
    split
    · exact ⟨State.reg_setBit_other _ _ _ _ (by unfold Reg.scrubSector Reg.scrubStatus; omega),
        State.bit_congr (State.reg_setBit_other _ _ _ _ (by decide)) k⟩
    · exact ⟨rfl, rfl⟩

/-- SCRUB_STATUS[3], once set, stays set. -/
theorem State.farStartAt_status (hj : j < 8) (h : s.bit Reg.scrubStatus 3 = true) : (s.farStartAt v j).bit Reg.scrubStatus 3 = true := by
  by_cases hstarts : s.Starts v j
  · have hsector : Reg.scrubStatus ≠ Reg.scrubSector j := by unfold Reg.scrubSector Reg.scrubStatus; omega
    rw [State.farStartAt_of_starts hstarts, State.bit_congr (State.reg_setBit_other _ _ _ _ (by decide)),
      State.bit_congr (State.reg_setField_other _ _ _ _ _ _ hsector), State.bit_congr (State.reg_setField_other _ _ _ _ _ _ hsector), h]
  · rw [State.farStartAt_of_refused hstarts]
    split
    · exact State.bit_setBit_self _ _ _ (by decide)
    · exact h

end

section
variable (s : State) (v : BitVec 32)

theorem State.farStart_onlyRegs : OnlyRegs s (s.farStart v) farStartRegs :=
  List.foldlRecOn _ _ (motive := fun t => OnlyRegs s t farStartRegs) (OnlyRegs.refl s _)
    (fun _ ht _ hj => ht.join (State.farStartAt_onlyRegs (List.mem_range.mp hj)))

variable {k : Nat} (hk : k < 8)
include hk

/-- R488: the port of a sector outside every partition is scrubbed where it is up. -/
theorem State.farStart_shows (h : s.Starts v k) : (s.farStart v).ShowsScrub k := by
  have hround : ∀ t : State, ∀ j ∈ List.range 8, OnlyRegs s t farStartRegs → OnlyRegs s (t.farStartAt v j) farStartRegs :=
    fun _ _ hj ht => ht.join (State.farStartAt_onlyRegs (List.mem_range.mp hj))
  refine (foldl_of_mem (I := fun t => OnlyRegs s t farStartRegs) (P := fun t => OnlyRegs s t farStartRegs ∧ t.ShowsScrub k)
    (List.mem_range.mpr hk) hround (fun t j hj ⟨ht, hshows⟩ => ⟨hround t j hj ht, ?_⟩)
    (fun t ht => ⟨hround t k (List.mem_range.mpr hk) ht, State.farStartAt_shows hk ((State.starts_congr ht).mpr h)⟩) (OnlyRegs.refl s _)).2
  by_cases hjk : j = k
  · rw [hjk]
    exact State.farStartAt_shows hk ((State.starts_congr ht).mpr h)
  · obtain ⟨hsector, hctl⟩ := State.farStartAt_keeps (s := t) (v := v) hk (List.mem_range.mp hj) (Or.inl hjk)
    obtain ⟨hphase, hcause, hbit⟩ := hshows
    exact ⟨(State.field_congr hsector 0 2).trans hphase, (State.field_congr hsector 4 3).trans hcause, hctl.trans hbit⟩

/-- R488: every other sector stays as it is. -/
theorem State.farStart_keeps (h : ¬s.Starts v k) :
    (s.farStart v).reg (Reg.scrubSector k) = s.reg (Reg.scrubSector k) ∧ (s.farStart v).bit Reg.scrubCtl k = s.bit Reg.scrubCtl k := by
  refine (List.foldlRecOn (List.range 8) (State.farStartAt v) (motive := fun t => OnlyRegs s t farStartRegs ∧
    t.reg (Reg.scrubSector k) = s.reg (Reg.scrubSector k) ∧ t.bit Reg.scrubCtl k = s.bit Reg.scrubCtl k) ⟨OnlyRegs.refl s _, rfl, rfl⟩ ?_).2
  intro t ⟨ht, hsector, hctl⟩ j hj
  have hround := State.farStartAt_keeps (s := t) (v := v) hk (List.mem_range.mp hj) (Or.inr (mt (State.starts_congr ht).mp h))
  exact ⟨ht.join (State.farStartAt_onlyRegs (List.mem_range.mp hj)), hround.1.trans hsector, hround.2.trans hctl⟩

/-- A sector that was asked for and is not started shows in SCRUB_STATUS. -/
theorem State.farStart_refuses (h : ¬s.Starts v k) (hv : v.getLsbD k = true) : (s.farStart v).bit Reg.scrubStatus 3 = true := by
  refine foldl_of_mem (I := fun t => OnlyRegs s t farStartRegs) (P := fun t => t.bit Reg.scrubStatus 3 = true) (List.mem_range.mpr hk)
    (fun _ _ hj ht => ht.join (State.farStartAt_onlyRegs (List.mem_range.mp hj))) (fun _ _ hj => State.farStartAt_status (List.mem_range.mp hj))
    (fun t ht => ?_) (OnlyRegs.refl s _)
  rw [State.farStartAt_of_refused (mt (State.starts_congr ht).mp h), if_pos hv]
  exact State.bit_setBit_self _ _ _ (by decide)

end

/-! The end of a far scrub (R487, R488). -/

/-- The state that the end of a far scrub leaves before its entries are answered. -/
def State.farScrubEnd (s : State) (k owner index : Nat) : State :=
  let e := (s.setField (Reg.scrubSector k) 0 2 0).clearBit Reg.scrubCtl k
  if s.bit (Reg.farState k) 0 then ((e.zeroFar k owner index).scrubbed k).setBit Reg.scrubStatus 2 else e

/-- The entries that wait for the scrub of a far port. -/
def State.awaitScrub (s : State) (k : Nat) : List Work :=
  s.works.filter (fun j => j.type == 5 && j.phase == WPhase.running && entryOp j.entry == 0x0300 && j.pigeonhole == 64 + k)

theorem State.farScrubbed_eq {s : State} {k : Nat} (h : s.field (Reg.scrubSector k) 0 2 = 3) : ∃ owner index, s.farScrubbed k =
    ((s.awaitScrub k).map (·.id)).foldl (fun x id => x.serve1 id (if s.bit (Reg.farState k) 0 = true then 0 else 2))
      (s.farScrubEnd k owner index) := by
  unfold State.farScrubbed
  rw [if_neg (not_not.mpr h)]
  cases s.partOfSector k with
  | none =>
    refine ⟨0, 0, ?_⟩
    rw [List.foldl_map]
    rfl
  | some p =>
    refine ⟨s.farOwner p, k - s.partK0 p, ?_⟩
    rw [List.foldl_map]
    rfl

section
variable (s : State) (k owner index : Nat)

theorem scrubSector_ne_scrubCtl : Reg.scrubSector k ≠ Reg.scrubCtl := by unfold Reg.scrubSector Reg.scrubCtl; omega
theorem scrubSector_ne_scrubStatus : Reg.scrubSector k ≠ Reg.scrubStatus := by unfold Reg.scrubSector Reg.scrubStatus; omega

/-- A scrub counted leaves the sector's phase. -/
theorem State.scrubbed_phase : (s.scrubbed k).field (Reg.scrubSector k) 0 2 = s.field (Reg.scrubSector k) 0 2 :=
  State.field_setField_disjoint _ _ _ _ _ _ _ (by decide) (by decide)

theorem State.farScrubEnd_phase : (s.farScrubEnd k owner index).field (Reg.scrubSector k) 0 2 = 0 := by
  have hcleared : ((s.setField (Reg.scrubSector k) 0 2 0).clearBit Reg.scrubCtl k).field (Reg.scrubSector k) 0 2 = 0 :=
    (State.field_setField_other _ _ _ _ _ _ _ _ (scrubSector_ne_scrubCtl k)).trans (State.field_setField_self _ _ _ _ _ (by decide))
  unfold State.farScrubEnd
  dsimp only
  split
  · rw [State.field_setBit _ _ _ _ _ _ (by decide) (Or.inl (scrubSector_ne_scrubStatus k)), State.scrubbed_phase]
    exact hcleared
  · exact hcleared

theorem State.farScrubEnd_ctl (hk : k < 32) : (s.farScrubEnd k owner index).bit Reg.scrubCtl k = false := by
  have hcleared : ((s.setField (Reg.scrubSector k) 0 2 0).clearBit Reg.scrubCtl k).bit Reg.scrubCtl k = false := State.bit_clearBit_self _ _ _ hk
  unfold State.farScrubEnd
  dsimp only
  split
  · rw [State.bit_congr (State.reg_setBit_other _ _ _ _ (by decide)), State.scrubbed,
      State.bit_congr (State.reg_setField_other _ _ _ _ _ _ (scrubSector_ne_scrubCtl k).symm)]
    exact hcleared
  · exact hcleared

theorem State.farScrubEnd_works : (s.farScrubEnd k owner index).works = s.works := by
  unfold State.farScrubEnd
  dsimp only
  split <;> rfl

variable {s k}

/-- R487, R488: the far bytes of the port are zero, and no other. -/
theorem State.farScrubEnd_up (hup : s.bit (Reg.farState k) 0 = true) : let e := s.farScrubEnd k owner index
    e.bit Reg.scrubStatus 2 = true ∧ e.far = Mem.clear s.far (farKey k 0) (farKey (k + 1) 0) := by
  unfold State.farScrubEnd
  dsimp only
  rw [if_pos hup]
  exact ⟨State.bit_setBit_self _ _ _ (by decide), rfl⟩

theorem State.farScrubEnd_down (hup : s.bit (Reg.farState k) 0 = false) : (s.farScrubEnd k owner index).far = s.far := by
  unfold State.farScrubEnd
  dsimp only
  rw [if_neg (by rw [hup]; exact Bool.false_ne_true)]
  rfl

end

theorem State.mem_awaitScrub {s : State} {k : Nat} {j : Work} (h : j ∈ s.awaitScrub k) :
    j ∈ s.works ∧ j.phase = .running ∧ j.pigeonhole = 64 + k := by
  obtain ⟨hmem, hwaits⟩ := List.mem_filter.mp h
  simp only [Bool.and_eq_true, beq_iff_eq] at hwaits
  obtain ⟨⟨⟨-, hphase⟩, -⟩, hport⟩ := hwaits
  exact ⟨hmem, hphase, hport⟩

end Sys2Proof.Machine
end

section
/-! SUPPORT. The scrub of a partition's HBM (R474, R476, R487). -/

namespace Sys2Proof.Machine

/-- The scrub of a partition's HBM is due: an envelope asked for it, and the on-panel scrub is over. -/
def State.HbmDue (s : State) (p : Nat) : Prop :=
  s.keyState p = 1 ∧ (s.keysOf p).hbmScrubDue = true ∧ (s.keysOf p).scrubLeft = []

/-- A partition's HBM zeroed, its sectors not yet counted. -/
def State.clearHbm (s : State) (p : Nat) : State :=
  let lo := hbmKey (4 * s.partK0 p) 0
  let hi := hbmKey (4 * (s.partK0 p + s.partN p)) 0
  let e := { s with hbm := Mem.clear s.hbm lo hi, hbmCode := Tab.keep s.hbmCode (fun l => decide (128 * l < lo) || decide (hi ≤ 128 * l)) }
  e.setKeys p { s.keysOf p with hbmScrubDue := false }

/-- The scrub of each sector of a partition shown as over and counted. -/
def State.countScrubs (s : State) (p : Nat) : State :=
  (s.sectors p).foldl (fun s j => (s.setField (Reg.scrubSector j) 0 2 0).scrubbed j) s

theorem State.hbmScrubbed_of_due {s : State} {p : Nat} (h : s.HbmDue p) :
    s.hbmScrubbed p = (((s.clearHbm p).countScrubs p).setField (Reg.keyState p) 0 2 2).setBit Reg.scrubStatus 1 := by
  obtain ⟨hstate, hdue, hleft⟩ := h
  have hnot : ¬(s.keyState p ≠ 1 ∨ (!(s.keysOf p).hbmScrubDue) = true ∨ (s.keysOf p).scrubLeft ≠ []) := by
    rw [hstate, hdue, hleft]
    decide
  exact if_neg hnot

theorem State.hbmScrubbed_of_not_due {s : State} {p : Nat} (h : ¬s.HbmDue p) : s.hbmScrubbed p = s := by
  have hnot : s.keyState p ≠ 1 ∨ (!(s.keysOf p).hbmScrubDue) = true ∨ (s.keysOf p).scrubLeft ≠ [] := by
    rw [Bool.not_eq_true', ← Bool.not_eq_true, ← not_and_or, ← not_and_or]
    exact h
  exact if_pos hnot

theorem State.countScrubs_onlyRegs (s : State) (p : Nat) : OnlyRegs s (s.countScrubs p) ((List.range 8).map Reg.scrubSector) :=
  List.foldlRecOn _ _ (motive := fun t => OnlyRegs s t ((List.range 8).map Reg.scrubSector)) (OnlyRegs.refl s _) fun _ ht _ hj =>
    have hmem := List.mem_map_of_mem (f := Reg.scrubSector) (List.mem_filter.mp hj).1
    (ht.setField hmem 0 2 0).setField hmem 16 16 _

/-- R476, R487: the partition is KEYED; but for the registers, only its keys and its HBM change. -/
theorem State.hbmScrubbed_spec {s : State} {p : Nat} (h : s.HbmDue p) : let e := s.clearHbm p; let t := s.hbmScrubbed p
    t = { e with regs := t.regs } ∧ t.keyState p = 2 ∧ t.bit Reg.scrubStatus 1 = true := by
  intro e t
  have ht : t = ((e.countScrubs p).setField (Reg.keyState p) 0 2 2).setBit Reg.scrubStatus 1 := State.hbmScrubbed_of_due h
  obtain ⟨hcount, -⟩ := e.countScrubs_onlyRegs p
  rw [ht]
  refine ⟨?_, ?_, State.bit_setBit_self _ _ _ (by decide)⟩
  · rw [hcount]
    rfl
  · have hne : Reg.keyState p ≠ Reg.scrubStatus := by unfold Reg.keyState Reg.scrubStatus; omega
    exact (State.field_setBit _ _ _ _ _ _ (by decide) (Or.inl hne)).trans (State.field_setField_self _ _ _ _ _ (by decide))

end Sys2Proof.Machine
end

section
/-! SUPPORT. Expanders inserted and removed (R327, R328, R616, R618, R619). -/

namespace Sys2Proof.Machine

/-! FAR_STATE of an expander that came up. -/

/-- FAR_STATE of an expander that came up: its width, whether its rate is full, and F. -/
def farStateWord (width : BitVec 2) (full : Bool) (f : Nat) : W32 := BitVec.ofNat 32 (1 + width.toNat * 2 + (if full = true then 8 else 0) + f * 2 ^ 16)

theorem farStateWord_fields (width : BitVec 2) (full : Bool) {f : Nat} (hf : f ≤ 4096) : let v := (farStateWord width full f).toNat
    bitsOf v 0 1 = 1 ∧ bitsOf v 1 2 = width.toNat ∧ bitsOf v 3 1 = full.toNat ∧ bitsOf v 16 13 = f := by
  intro v
  have hw : width.toNat < 4 := width.isLt
  have hfull : (if full = true then 8 else 0) = 8 * full.toNat := by cases full <;> rfl
  have hfull1 : full.toNat < 2 := full.toNat_lt
  have hv : v = 1 + width.toNat * 2 + 8 * full.toNat + f * 65536 := by
    unfold v farStateWord
    rw [BitVec.toNat_ofNat, hfull]
    omega
  unfold bitsOf
  rw [hv]
  simp only [Nat.shiftRight_eq_div_pow]
  omega

theorem farGiB_le (raw : Nat) : farGiB raw ≤ 4096 := Nat.min_le_left _ _

/-! PERST# of a far port. -/

theorem perst_release (x : BitVec 8) (port : Fin 8) : (x ||| BitVec.ofNat 8 (2 ^ port.val)).getLsbD port.val = true := by
  have hbit : ∀ j : Fin 8, (BitVec.ofNat 8 (2 ^ j.val)).getLsbD j.val = true := by decide
  rw [BitVec.getLsbD_or, hbit, Bool.or_true]

theorem perst_assert (x : BitVec 8) (port : Fin 8) : (x &&& ~~~BitVec.ofNat 8 (2 ^ port.val)).getLsbD port.val = false := by
  have hbit : ∀ j : Fin 8, (~~~BitVec.ofNat 8 (2 ^ j.val)).getLsbD j.val = false := by decide
  rw [BitVec.getLsbD_and, hbit, Bool.and_false]

theorem farState_ne_farHp (port : Fin 8) : Reg.farState port.val ≠ Reg.farHp port.val := by
  have := port.isLt
  unfold Reg.farState Reg.farHp
  omega

/-! EXPANDER_INSERTED (R327, R328, R616). -/

/-- An expander present and powered. -/
def State.plug (s : State) (j : Nat) : State :=
  let e := { s with shell := { s.shell with farPerst := s.shell.farPerst ||| BitVec.ofNat 8 (2 ^ j) } }
  (e.setBit (Reg.farHp j) 0).setBit (Reg.farHp j) 1

section
variable (s : State) (port : Fin 8) (dev : Expander)

theorem State.insertExpander_unsupported (h : dev.supported = false ∨ dev.width = 0) : s.insertExpander port.val dev = s.plug port.val := by
  unfold State.insertExpander
  exact if_pos (h.imp_left fun hs => by rw [hs]; rfl)

theorem State.insertExpander_supported (hs : dev.supported = true) (hw : dev.width ≠ 0) : s.insertExpander port.val dev =
    (((s.plug port.val).setReg (Reg.farState port.val) (farStateWord dev.width dev.fullRate (farGiB dev.rawGiB))).setBit
      (Reg.farHp port.val) 2).setBit (Reg.farHp port.val) 8 := by
  unfold State.insertExpander
  refine if_neg (fun h => h.elim (fun hu => ?_) hw)
  rw [hs] at hu
  exact Bool.false_ne_true hu

theorem State.plug_spec : let t := s.plug port.val
    t = { s with regs := t.regs, shell := t.shell } ∧ RegsBut s t [Reg.farHp port.val] ∧ t.bit (Reg.farHp port.val) 0 = true ∧
      t.bit (Reg.farHp port.val) 1 = true ∧ t.shell.farPerst.getLsbD port.val = true := by
  have hregs (e : State) : OnlyRegs e ((e.setBit (Reg.farHp port.val) 0).setBit (Reg.farHp port.val) 1) [Reg.farHp port.val] :=
    ((OnlyRegs.refl e _).setBit List.mem_cons_self 0).setBit List.mem_cons_self 1
  refine ⟨rfl, (hregs _).2, ?_, State.bit_setBit_self _ _ _ (by decide), perst_release _ port⟩
  exact (State.bit_setBit _ _ _ _ _ (by decide)).trans ((if_neg (fun e => Nat.zero_ne_one e.2)).trans (State.bit_setBit_self _ _ _ (by decide)))

/-- R616: whatever the expander, it is present and powered, and nothing but its port's registers and reset changes. -/
theorem State.insertExpander_spec : let a := Reg.farHp port.val; let f := Reg.farState port.val; let t := s.insertExpander port.val dev
    t = { s with regs := t.regs, shell := t.shell } ∧ RegsBut s t [a, f] ∧ t.bit a 0 = true ∧ t.bit a 1 = true ∧
      t.shell.farPerst.getLsbD port.val = true := by
  intro a f t
  obtain ⟨hframe, hregs, hpresent, hpowered, hperst⟩ := s.plug_spec port
  by_cases h : dev.supported = false ∨ dev.width = 0
  · rw [show t = s.plug port.val from s.insertExpander_unsupported port dev h]
    exact ⟨hframe, hregs.mono (fun x hx => List.mem_singleton.mp hx ▸ List.mem_cons_self), hpresent, hpowered, hperst⟩
  · obtain ⟨hs, hw⟩ := not_or.mp h
    rw [show t = _ from s.insertExpander_supported port dev (Bool.not_eq_false _ ▸ hs) hw]
    have hup := (((OnlyRegs.refl (s.plug port.val) [a, f]).setReg (List.mem_cons_of_mem _ List.mem_cons_self)
      (farStateWord dev.width dev.fullRate (farGiB dev.rawGiB))).setBit List.mem_cons_self 2).setBit List.mem_cons_self 8
    have hbit (i : Nat) (hi : i < 2) (hp : (s.plug port.val).bit a i = true) : ((((s.plug port.val).setReg f
        (farStateWord dev.width dev.fullRate (farGiB dev.rawGiB))).setBit a 2).setBit a 8).bit a i = true := by
      rw [State.bit_setBit _ _ _ _ _ (by decide), if_neg (by omega), State.bit_setBit _ _ _ _ _ (by decide), if_neg (by omega),
        State.bit_setReg_other _ _ _ _ _ (farState_ne_farHp port).symm, hp]
    exact ⟨rfl, (hregs.trans hup.2).mono (fun x hx => (List.mem_append.mp hx).elim
      (fun h => List.mem_singleton.mp h ▸ List.mem_cons_self) id), hbit 0 (by decide) hpresent, hbit 1 (by decide) hpowered, hperst⟩

theorem State.insertExpander_down (h : dev.supported = false ∨ dev.width = 0) :
    (s.insertExpander port.val dev).reg (Reg.farState port.val) = s.reg (Reg.farState port.val) := by
  obtain ⟨-, hregs, -⟩ := s.plug_spec port
  rw [s.insertExpander_unsupported port dev h]
  exact hregs _ (fun hmem => farState_ne_farHp port (List.mem_singleton.mp hmem))

/-- R327, R328: an expander that fits comes up with its width, its rate and F. -/
theorem State.insertExpander_up (hs : dev.supported = true) (hw : dev.width ≠ 0) :
    let a := Reg.farHp port.val; let f := Reg.farState port.val; let t := s.insertExpander port.val dev
    t.bit a 2 = true ∧ t.bit a 8 = true ∧ t.bit f 0 = true ∧ t.field f 1 2 = dev.width.toNat ∧ t.bit f 3 = dev.fullRate ∧
      t.field f 16 13 = farGiB dev.rawGiB := by
  intro a f t
  have ht := s.insertExpander_supported port dev hs hw
  have hreg : t.reg f = farStateWord dev.width dev.fullRate (farGiB dev.rawGiB) := by
    rw [show t = _ from ht, State.reg_setBit_other _ _ _ _ (farState_ne_farHp port), State.reg_setBit_other _ _ _ _ (farState_ne_farHp port),
      State.reg_setReg_self]
  obtain ⟨hup, hwidth, hrate, hF⟩ := farStateWord_fields dev.width dev.fullRate (farGiB_le dev.rawGiB)
  unfold State.bit State.field at *
  refine ⟨?_, ?_, ?_, ?_, ?_, ?_⟩
  · rw [show t = _ from ht]
    exact (State.bit_setBit _ _ _ _ _ (by decide)).trans ((if_neg (by omega)).trans (State.bit_setBit_self _ _ _ (by decide)))
  · rw [show t = _ from ht]
    exact State.bit_setBit_self _ _ _ (by decide)
  · rw [hreg, hup]
    rfl
  · rw [hreg, hwidth]
  · rw [hreg, hrate]
    cases dev.fullRate <;> rfl
  · rw [hreg, hF]

theorem exec_expanderInserted : exec (.expanderInserted port dev) s = .next (if s.stepDone 2 = true ∧ s.bit (Reg.farState port.val) 0 = false ∧
    s.deadUnits.contains (108 + port.val) = false then s.insertExpander port.val dev else s) := by
  show execExpanderInserted port dev s = _
  unfold execExpanderInserted
  simp only [Bool.not_eq_true']
  rfl

end

/-! EXPANDER_REMOVED (R618, R619, R651). -/

/-- An expander gone from its place. -/
def State.unplug (s : State) (j : Nat) : State :=
  let e := { s with shell := { s.shell with farPerst := s.shell.farPerst &&& ~~~BitVec.ofNat 8 (2 ^ j) } }
  (e.setField (Reg.farHp j) 0 4 0).setBit (Reg.farHp j) 9

/-- The port of a removed expander down: as a failure, unless it was released or down. -/
def State.portGone (s : State) (j : Nat) : State :=
  if !s.bit (Reg.farState j) 0 then s
  else if (s.mid j).farReleased then (s.setField (Reg.farState j) 0 1 0).setMid j { s.mid j with farAttached := false }
  else s.farDown j

/-- An expander that was present removed. -/
def State.removeExpander (s : State) (j : Nat) : State := ((((s.unplug j).portGone j).endRelease j).setReg (Reg.farState j) 0).dropFar j

section
variable {s : State} {port : Fin 8}

theorem exec_expanderRemoved_absent (h : s.bit (Reg.farHp port.val) 0 = false) : exec (.expanderRemoved port) s = .next s :=
  congrArg Host.Outcome.next (if_pos (by rw [h]; rfl))

theorem exec_expanderRemoved_present (h : s.bit (Reg.farHp port.val) 0 = true) : exec (.expanderRemoved port) s =
    .next (s.removeExpander port.val) :=
  congrArg Host.Outcome.next (if_neg (by rw [h]; exact Bool.false_ne_true))

theorem State.unplug_spec : let a := Reg.farHp port.val; let e := s.unplug port.val
    e = { s with regs := e.regs, shell := e.shell } ∧ RegsBut s e [a] ∧ e.bit a 9 = true ∧ e.field a 0 4 = 0 ∧
      e.shell.farPerst.getLsbD port.val = false := by
  have hregs (e : State) : OnlyRegs e ((e.setField (Reg.farHp port.val) 0 4 0).setBit (Reg.farHp port.val) 9) [Reg.farHp port.val] :=
    ((OnlyRegs.refl e _).setField List.mem_cons_self 0 4 0).setBit List.mem_cons_self 9
  refine ⟨rfl, (hregs _).2, State.bit_setBit_self _ _ _ (by decide), ?_, perst_assert _ port⟩
  exact (State.field_setBit _ _ _ _ _ _ (by decide) (Or.inr (Or.inl (by decide)))).trans (State.field_setField_self _ _ _ _ _ (by decide))

/-- R618, R651: a port that was released or down goes without a failure. -/
theorem State.portGone_quiet (h : s.bit (Reg.farState port.val) 0 = false ∨ (s.mid port.val).farReleased = true) : let t := s.portGone port.val
    t = { s with regs := t.regs, mids := t.mids } ∧ RegsBut s t [Reg.farState port.val] ∧
      (t.mid port.val).farReleasing = (s.mid port.val).farReleasing := by
  intro t
  cases hup : s.bit (Reg.farState port.val) 0 with
  | false =>
    rw [show t = s from if_pos (by rw [hup]; rfl)]
    exact ⟨rfl, fun _ _ => rfl, rfl⟩
  | true =>
    have hreleased := h.resolve_left (by rw [hup]; exact Bool.noConfusion)
    have ht : t = (s.setField (Reg.farState port.val) 0 1 0).setMid port.val { s.mid port.val with farAttached := false } :=
      (if_neg (by rw [hup]; exact Bool.false_ne_true)).trans (if_pos hreleased)
    rw [ht]
    refine ⟨rfl, (((OnlyRegs.refl s [Reg.farState port.val]).setField List.mem_cons_self 0 1 0)).2, ?_⟩
    rw [State.mid_setMid_self]

theorem State.endRelease_none (h : (s.mid port.val).farReleasing = none) : s.endRelease port.val = s := by
  unfold State.endRelease
  rw [h]

theorem State.endRelease_some {e : Nat × List Nat} (h : (s.mid port.val).farReleasing = some e) :
    s.endRelease port.val = (s.setMid port.val { s.mid port.val with farReleasing := none }).serve1 e.1 1 := by
  unfold State.endRelease
  rw [h]

/-- No far byte of the port is left, nor anyone's pages. -/
theorem State.dropFar_spec (s : State) (j : Nat) : let t := s.dropFar j
    t = { s with far := t.far, farPages := t.farPages, mids := t.mids } ∧ (t.mid j).farOwner = 0 ∧
      ∀ off, off < 2 ^ 42 → Mem.read t.far (farKey j off) = 0 := by
  refine ⟨rfl, congrArg Mid.farOwner (State.mid_setMid_self ..), fun off hoff => ?_⟩
  obtain ⟨hlo, hhi⟩ := farKey_bounds j hoff
  exact Mem.read_clear_inside s.far hlo hhi

end

theorem State.removeExpander_spec (s : State) (j : Nat) : let t := s.removeExpander j
    t.reg (Reg.farState j) = 0 ∧ (t.mid j).farOwner = 0 ∧ ∀ off, off < 2 ^ 42 → Mem.read t.far (farKey j off) = 0 := by
  obtain ⟨-, howner, hbytes⟩ := State.dropFar_spec ((((s.unplug j).portGone j).endRelease j).setReg (Reg.farState j) 0) j
  exact ⟨State.reg_setReg_self .., howner, hbytes⟩

section
variable {s : State} {port : Fin 8} (hquiet : s.bit (Reg.farState port.val) 0 = false ∨ (s.mid port.val).farReleased = true)
include hquiet

/-- R618, R619, R651: what the removal of an expander leaves of a port that was released or down. -/
theorem State.unplug_portGone_spec : let a := Reg.farHp port.val; let f := Reg.farState port.val; let e := (s.unplug port.val).portGone port.val
    e.bit a 9 = true ∧ e.field a 0 4 = 0 ∧ RegsBut s e [a, f] ∧ e.shell.farPerst.getLsbD port.val = false ∧ e.works = s.works ∧
      (e.mid port.val).farReleasing = (s.mid port.val).farReleasing := by
  intro a f e
  obtain ⟨hframe, hregs, hgone, hfield, hperst⟩ := s.unplug_spec (port := port)
  have hstate : (s.unplug port.val).bit f 0 = s.bit f 0 :=
    State.bit_congr (hregs f (fun hmem => farState_ne_farHp port (List.mem_singleton.mp hmem))) 0
  obtain ⟨kframe, kregs, kreleasing⟩ := State.portGone_quiet (s := s.unplug port.val) (port := port) (hstate ▸ hquiet)
  have ha : e.reg a = (s.unplug port.val).reg a := kregs a (fun hmem => farState_ne_farHp port (List.mem_singleton.mp hmem).symm)
  have hshell := congrArg State.shell kframe
  have hworks := congrArg State.works kframe
  exact ⟨(State.bit_congr ha 9).trans hgone, (State.field_congr ha 0 4).trans hfield, hregs.trans kregs, hshell ▸ hperst, hworks, kreleasing⟩

theorem State.removeExpander_releasing {e : Nat × List Nat} (he : (s.mid port.val).farReleasing = some e) : ∃ u : State,
    (u.mid port.val).farReleasing = none ∧ u.works = s.works ∧
      s.removeExpander port.val = ((u.serve1 e.1 1).setReg (Reg.farState port.val) 0).dropFar port.val := by
  obtain ⟨-, -, -, -, hworks, hreleasing⟩ := State.unplug_portGone_spec hquiet
  unfold State.removeExpander
  rw [State.endRelease_some (hreleasing.trans he)]
  refine ⟨_, ?_, ?_, rfl⟩
  · exact congrArg Mid.farReleasing (State.mid_setMid_self ..)
  · exact hworks

end

theorem State.removeExpander_quiet {s : State} {port : Fin 8} (hnone : (s.mid port.val).farReleasing = none)
    (hquiet : s.bit (Reg.farState port.val) 0 = false ∨ (s.mid port.val).farReleased = true) :
    let a := Reg.farHp port.val; let f := Reg.farState port.val; let t := s.removeExpander port.val
    t.bit a 9 = true ∧ t.field a 0 4 = 0 ∧ RegsBut s t [a, f] ∧ t.shell.farPerst.getLsbD port.val = false := by
  intro a f t
  obtain ⟨hgone, hfield, hregs, hperst, -, hreleasing⟩ := State.unplug_portGone_spec hquiet
  have ht : t = (((s.unplug port.val).portGone port.val).setReg f 0).dropFar port.val := by
    unfold t State.removeExpander
    rw [State.endRelease_none (hreleasing.trans hnone)]
  have hother {r : Nat} (hr : r ≠ f) : t.reg r = ((s.unplug port.val).portGone port.val).reg r := by
    rw [ht]
    exact State.reg_setReg_other _ f r 0 hr
  have ha := hother (farState_ne_farHp port).symm
  refine ⟨(State.bit_congr ha 9).trans hgone, (State.field_congr ha 0 4).trans hfield, fun r hr => ?_, ?_⟩
  · exact (hother (fun hrf => hr (hrf ▸ List.mem_cons_of_mem _ List.mem_cons_self))).trans (hregs r hr)
  · rw [ht]
    exact hperst

end Sys2Proof.Machine
end

section
/-! SUPPORT. The on-panel scrub of a sector: what it leaves in the arrays of its dies (R236, R484, R485, R486). -/

namespace Sys2Proof.Machine

/-! Tables some of whose entries go. -/

/-- What a table holds at a key, said of its entries where it holds nothing: so it needs no order of the table. -/
def Tab.Holds {α : Type} (t : Tab α) (k : Nat) : Option α → Prop
  | none => ∀ e ∈ t, e.1 ≠ k
  | some v => Tab.get t k = some v

section
variable {α : Type} {t : Tab α} {k : Nat} {f : Nat → Bool} {o : Option α}

theorem Tab.Holds.get (h : Tab.Holds t k o) : Tab.get t k = o := by
  cases o with
  | none => exact Tab.get_eq_none h
  | some v => exact h

theorem Tab.Holds.put_other (h : Tab.Holds t k o) {j : Nat} (hj : k ≠ j) (v : α) : Tab.Holds (Tab.put t j v) k o := by
  cases o with
  | none =>
    intro e he
    rcases Tab.mem_put t j v e he with rfl | he
    · exact hj.symm
    · exact h e he
  | some w => exact (Tab.get_put_other t j k v hj).trans h

theorem Tab.keep_cons_pos {j : Nat} (w : α) (h : f j = true) : Tab.keep ((j, w) :: t) f = (j, w) :: Tab.keep t f := List.filter_cons_of_pos h

theorem Tab.keep_cons_neg {j : Nat} (w : α) (h : f j = false) : Tab.keep ((j, w) :: t) f = Tab.keep t f :=
  List.filter_cons_of_neg (fun e => Bool.false_ne_true (h.symm.trans e))

theorem Tab.get_keep_of_some {v : α} (h : Tab.get t k = some v) (hk : f k = true) : Tab.get (Tab.keep t f) k = some v := by
  induction t with
  | nil => cases h
  | cons e t ih =>
    obtain ⟨j, w⟩ := e
    unfold Tab.get at h
    split at h
    · next hj =>
      rw [Tab.keep_cons_pos w (hj ▸ hk), Tab.get, if_pos hj]
      exact h
    · next hj =>
      split at h
      · cases h
      · next hlt =>
        cases hf : f j with
        | true =>
          rw [Tab.keep_cons_pos w hf, Tab.get, if_neg hj, if_neg hlt]
          exact ih h
        | false =>
          rw [Tab.keep_cons_neg w hf]
          exact ih h

theorem Tab.Holds.keep (h : Tab.Holds t k o) (hk : f k = true) : Tab.Holds (Tab.keep t f) k o := by
  cases o with
  | none => exact fun e he => h e (List.mem_filter.mp he).1
  | some v => exact Tab.get_keep_of_some h hk

theorem Tab.holds_keep_none (hk : f k = false) : Tab.Holds (Tab.keep t f) k none := fun e he hkey => by
  obtain ⟨-, hf⟩ := List.mem_filter.mp he
  rw [hkey, hk] at hf
  exact Bool.false_ne_true hf

/-- Entries that go before a key, whatever the order of the table, leave what it holds there. -/
theorem Tab.get_keep_above (h : ∀ j, f j = false → j < k) : Tab.get (Tab.keep t f) k = Tab.get t k := by
  induction t with
  | nil => rfl
  | cons e t ih =>
    obtain ⟨j, w⟩ := e
    cases hf : f j with
    | true => rw [Tab.keep_cons_pos w hf, Tab.get, Tab.get, ih]
    | false =>
      have hj := h j hf
      rw [Tab.keep_cons_neg w hf, ih, Tab.get, if_neg (by omega), if_neg (by omega)]

end

/-! The arrays of a scrubbed die (R236, R486). -/

/-- An array of a scrubbed die, where it has counts of corrected mismatches to keep. -/
def State.keepCounts (s : State) (e : Nat × List (Nat × Nat)) : State :=
  if e.2 = [] then s else s.setArr e.1 { Arr.reset with mismatches := e.2 }

/-- The counts of corrected mismatches of a die's arrays. -/
def State.dieCounts (s : State) (d : Nat) : List (Nat × List (Nat × Nat)) :=
  (List.range 8).map (fun i => (8 * d + i, (s.arr (8 * d + i)).mismatches))

/-- A die whose arrays and slice are empty, but for the counts of corrected mismatches. -/
def State.emptyDie (s : State) (d : Nat) : State :=
  (s.dieCounts d).foldl State.keepCounts { s with arrs := Tab.keep s.arrs (fun ga => ga / 8 != d), slices := Tab.erase s.slices d }

/-- What the table of the arrays holds of an array that only keeps its counts. -/
def countsOnly (mismatches : List (Nat × Nat)) : Option Arr :=
  if mismatches = [] then none else some { Arr.reset with mismatches := mismatches }

theorem countsOnly_getD (m : List (Nat × Nat)) : (countsOnly m).getD Arr.reset = { Arr.reset with mismatches := m } := by
  cases m <;> rfl

theorem State.dieCounts_key {s : State} {d : Nat} {e : Nat × List (Nat × Nat)} (h : e ∈ s.dieCounts d) :
    e.1 / 8 = d ∧ e.2 = (s.arr e.1).mismatches := by
  obtain ⟨i, hi, rfl⟩ := List.mem_map.mp h
  have := List.mem_range.mp hi
  exact ⟨by dsimp only; omega, rfl⟩

theorem State.mem_dieCounts (s : State) (ga : Nat) : (ga, (s.arr ga).mismatches) ∈ s.dieCounts (ga / 8) :=
  List.mem_map.mpr ⟨ga % 8, List.mem_range.mpr (Nat.mod_lt _ (by decide)), by rw [Nat.div_add_mod]⟩

theorem State.keepCounts_other {s : State} {e : Nat × List (Nat × Nat)} {ga : Nat} {o : Option Arr} (hga : ga ≠ e.1) (h : Tab.Holds s.arrs ga o) :
    Tab.Holds (s.keepCounts e).arrs ga o := by
  unfold State.keepCounts
  split
  · exact h
  · exact h.put_other hga _

theorem State.keepCounts_same {s : State} {ga : Nat} {m : List (Nat × Nat)} (hm : m ≠ []) :
    Tab.Holds (s.keepCounts (ga, m)).arrs ga (countsOnly m) := by
  unfold State.keepCounts countsOnly
  rw [if_neg hm, if_neg hm]
  exact Tab.get_put_self ..

/-- R236, R486: an array of a scrubbed die holds but its counts of corrected mismatches. -/
theorem State.emptyDie_own (s : State) (ga : Nat) : Tab.Holds (s.emptyDie (ga / 8)).arrs ga (countsOnly (s.arr ga).mismatches) := by
  have hdropped : Tab.Holds (Tab.keep s.arrs (fun a => a / 8 != ga / 8)) ga none := Tab.holds_keep_none (bne_self_eq_false _)
  have hround : ∀ t : State, ∀ e ∈ s.dieCounts (ga / 8), Tab.Holds t.arrs ga (countsOnly (s.arr ga).mismatches) →
      Tab.Holds (t.keepCounts e).arrs ga (countsOnly (s.arr ga).mismatches) := by
    intro t ⟨a, m⟩ he ht
    obtain ⟨-, hm⟩ := State.dieCounts_key he
    by_cases hga : ga = a
    · subst hga
      rw [show m = _ from hm]
      by_cases hempty : (s.arr ga).mismatches = []
      · rw [State.keepCounts, if_pos hempty]
        exact ht
      · exact State.keepCounts_same hempty
    · exact State.keepCounts_other hga ht
  by_cases hempty : (s.arr ga).mismatches = []
  · refine List.foldlRecOn _ _ (motive := fun t => Tab.Holds t.arrs ga (countsOnly (s.arr ga).mismatches)) ?_ (fun t ht e he => hround t e he ht)
    rw [hempty]
    exact hdropped
  · exact foldl_of_mem (I := fun _ => True) (P := fun t => Tab.Holds t.arrs ga (countsOnly (s.arr ga).mismatches)) (s.mem_dieCounts ga)
      (fun _ _ _ _ => trivial) hround (fun _ _ => State.keepCounts_same hempty) trivial

theorem State.emptyDie_other {s : State} {d ga : Nat} {o : Option Arr} (hd : ga / 8 ≠ d) (h : Tab.Holds s.arrs ga o) :
    Tab.Holds (s.emptyDie d).arrs ga o :=
  have hkept : Tab.Holds (Tab.keep s.arrs (fun a => a / 8 != d)) ga o := h.keep (bne_iff_ne.mpr hd)
  List.foldlRecOn (s.dieCounts d) State.keepCounts (motive := fun t : State => Tab.Holds t.arrs ga o) hkept fun _ ht e he =>
    State.keepCounts_other (fun hga : ga = e.1 => hd ((congrArg (· / 8) hga).trans (State.dieCounts_key he).1)) ht

/-- The arrays of the dies after a scrubbed one stay. -/
theorem State.emptyDie_arr_above (s : State) {d ga : Nat} (hd : d < ga / 8) : (s.emptyDie d).arr ga = s.arr ga := by
  have hbefore : ∀ j, (j / 8 != d) = false → j < ga := fun j hj => by
    have : j / 8 = d := by simpa using hj
    omega
  refine List.foldlRecOn _ _ (motive := fun t : State => t.arr ga = s.arr ga) ?_ ?_
  · exact congrArg (fun x : Option Arr => x.getD Arr.reset) (Tab.get_keep_above (t := s.arrs) hbefore)
  · intro t ht e he
    have hga : ga ≠ e.1 := by
      have := (State.dieCounts_key he).1
      rintro rfl
      omega
    unfold State.keepCounts
    split
    · exact ht
    · exact (State.arr_setArr ..).trans ((if_neg hga).trans ht)

/-! A scrubbed die (R486). -/

/-- A change that a scrub makes: in the blocks of the dies, and in nothing else that a register shows. -/
def DieScrubbed (s t : State) : Prop :=
  t = { s with regs := t.regs, arrs := t.arrs, slices := t.slices, halves := t.halves } ∧ ∀ a, a < 0x20000000 → t.reg a = s.reg a

theorem DieScrubbed.refl (s : State) : DieScrubbed s s := ⟨rfl, fun _ _ => rfl⟩

theorem DieScrubbed.trans {s t u : State} (h : DieScrubbed s t) (k : DieScrubbed t u) : DieScrubbed s u := by
  obtain ⟨hframe, hregs⟩ := h
  obtain ⟨kframe, kregs⟩ := k
  exact ⟨kframe.trans (by rw [hframe]), fun a ha => (kregs a ha).trans (hregs a ha)⟩

theorem State.emptyDie_dieScrubbed (s : State) (d : Nat) : DieScrubbed s (s.emptyDie d) := by
  refine List.foldlRecOn _ _ (motive := fun t => DieScrubbed s t) ⟨rfl, fun _ _ => rfl⟩ (fun t ht e _ => ht.trans ?_)
  unfold State.keepCounts
  split
  · exact DieScrubbed.refl t
  · exact ⟨rfl, fun _ _ => rfl⟩

theorem State.sliceClean_dieScrubbed (s : State) {b : Nat} (h : 0x20000000 ≤ b) : DieScrubbed s (s.sliceClean b) := by
  obtain ⟨hframe, hregs⟩ := s.sliceClean_onlyRegs b
  refine ⟨hframe.trans (by rw [hframe]), fun a ha => hregs a ?_⟩
  simp only [Reg.sliceState, Reg.sliceStatus, List.mem_cons, List.not_mem_nil, or_false]
  omega

theorem State.clearReplay_frame (s : State) (site : Nat) : s.clearReplay site = { s with halves := (s.clearReplay site).halves } := by
  unfold State.clearReplay
  refine List.foldlRecOn (List.range 128) _ (motive := fun t : State => t = { s with halves := t.halves }) rfl (fun t ht i _ => ?_)
  dsimp only
  split
  · exact ht
  · rw [ht]
    rfl

theorem State.clearReplay_dieScrubbed (s : State) (site : Nat) : DieScrubbed s (s.clearReplay site) := by
  have hhalves (h : Tab Half) : DieScrubbed s { s with halves := h } := ⟨rfl, fun _ _ => rfl⟩
  rw [State.clearReplay_frame]
  exact hhalves _

/-- A die's structures made invalid and its slice READY, its replay buffers not yet zeroed. -/
def State.cleanDie (s : State) (d : Nat) : State := (s.emptyDie d).atBase ((s.emptyDie d).sliceBase d) State.sliceClean

theorem State.cleanDie_spec (s : State) (d : Nat) : DieScrubbed s (s.cleanDie d) ∧ (s.cleanDie d).arrs = (s.emptyDie d).arrs := by
  have hempty := s.emptyDie_dieScrubbed d
  unfold State.cleanDie
  cases hb : (s.emptyDie d).sliceBase d with
  | none => exact ⟨hempty, rfl⟩
  | some b =>
    obtain ⟨hframe, -⟩ := (s.emptyDie d).sliceClean_onlyRegs b
    have harrs := congrArg State.arrs hframe
    exact ⟨hempty.trans (State.sliceClean_dieScrubbed _ (State.sliceBase_ge hb)), harrs⟩

/-- A scrub of a die ends with its replay buffers, where a site holds the die. -/
theorem State.scrubDie_eq (s : State) (d : Nat) : s.scrubDie d = s.cleanDie d ∨ ∃ site, s.scrubDie d = (s.cleanDie d).clearReplay site := by
  unfold State.scrubDie
  extract_lets kept emptied empty counted cleaned
  rw [show cleaned = s.cleanDie d from rfl]
  cases (s.cleanDie d).siteOf d with
  | none => exact Or.inl rfl
  | some site => exact Or.inr ⟨site, rfl⟩

theorem State.scrubDie_spec (s : State) (d : Nat) : DieScrubbed s (s.scrubDie d) ∧ (s.scrubDie d).arrs = (s.emptyDie d).arrs := by
  obtain ⟨hclean, harrs⟩ := s.cleanDie_spec d
  rcases s.scrubDie_eq d with h | ⟨site, h⟩
  · rw [h]
    exact ⟨hclean, harrs⟩
  · have hreplay := congrArg State.arrs ((s.cleanDie d).clearReplay_frame site)
    rw [h]
    exact ⟨hclean.trans (State.clearReplay_dieScrubbed _ site), hreplay.trans harrs⟩

/-! The dies of a sector. -/

theorem State.scrubDies_dieScrubbed (s : State) (dies : List Nat) : DieScrubbed s (dies.foldl State.scrubDie s) :=
  List.foldlRecOn dies _ (motive := fun t => DieScrubbed s t) (DieScrubbed.refl s) (fun t ht d _ => ht.trans (t.scrubDie_spec d).1)

/-- The dies of a sector. -/
def sectorDies (k : Nat) : List Nat := (List.range 12).map (· + 12 * k)

/-- A die among those of its sector: the ones before it are smaller, the ones after it others. -/
theorem sectorDies_split {d k : Nat} (h : d / 12 = k) :
    ∃ before after, sectorDies k = before ++ d :: after ∧ (∀ e ∈ before, e < d) ∧ ∀ e ∈ after, d ≠ e := by
  have hmem : d ∈ sectorDies k := List.mem_map.mpr ⟨d % 12, List.mem_range.mpr (Nat.mod_lt _ (by decide)), by omega⟩
  have hsorted : (sectorDies k).Pairwise (· < ·) := List.pairwise_lt_range.map _ (fun _ _ h => Nat.add_lt_add_right h _)
  obtain ⟨before, after, hsplit⟩ := List.append_of_mem hmem
  rw [hsplit, List.pairwise_append, List.pairwise_cons] at hsorted
  obtain ⟨-, ⟨hafter, -⟩, hbefore⟩ := hsorted
  exact ⟨before, after, hsplit, fun e he => hbefore e he d List.mem_cons_self, fun e he => (hafter e he).ne⟩

/-- R236, R485, R486: every array of a scrubbed sector holds but its counts of corrected mismatches. -/
theorem State.scrubSectorDies_arr (s : State) {k ga : Nat} (h : ga / 96 = k) :
    ((sectorDies k).foldl State.scrubDie s).arr ga = { Arr.reset with mismatches := (s.arr ga).mismatches } := by
  obtain ⟨before, after, hsplit, hbefore, hafter⟩ := sectorDies_split (d := ga / 8) (k := k) (by omega)
  have harr (t : State) (d : Nat) : (t.scrubDie d).arr ga = (t.emptyDie d).arr ga :=
    congrArg (fun x => Tab.getD x ga Arr.reset) (t.scrubDie_spec d).2
  have hkept : (before.foldl State.scrubDie s).arr ga = s.arr ga :=
    List.foldlRecOn before _ (motive := fun t : State => t.arr ga = s.arr ga) rfl fun t ht d hd =>
      (harr t d).trans ((t.emptyDie_arr_above (hbefore d hd)).trans ht)
  have hholds : Tab.Holds (after.foldl State.scrubDie ((before.foldl State.scrubDie s).scrubDie (ga / 8))).arrs ga
      (countsOnly (s.arr ga).mismatches) := by
    refine List.foldlRecOn after _ (motive := fun t : State => Tab.Holds t.arrs ga (countsOnly (s.arr ga).mismatches)) ?_ ?_
    · rw [(State.scrubDie_spec _ _).2, ← hkept]
      exact State.emptyDie_own _ ga
    · intro t ht d hd
      rw [(State.scrubDie_spec _ _).2]
      exact State.emptyDie_other (hafter d hd) ht
  rw [hsplit, List.foldl_append, List.foldl_cons]
  exact (congrArg (·.getD Arr.reset) hholds.get).trans (countsOnly_getD _)

/-! The end of the scrub (R474, R485, R499). -/

/-- A sector's on-panel scrub counted, or its HBM scrubbed next. -/
def State.scrubCounted (s : State) (cause k : Nat) : State :=
  if cause = 2 then s.setField (Reg.scrubSector k) 0 2 2 else (s.setField (Reg.scrubSector k) 0 2 0).scrubbed k

/-- The partition of a sector waits for its scrub no longer, and spares have joined. -/
def State.scrubLeftBy (s : State) (owner : Option Nat) (dies : List Nat) (k : Nat) : State := match owner with
  | some p =>
    let s := s.setKeys p { s.keysOf p with scrubLeft := (s.keysOf p).scrubLeft.filter (· != k) }
    s.setPart p { s.part p with joining := (s.part p).joining.filter (fun d => !dies.contains d) }
  | none => s

/-- The dies that the on-panel scrub of a sector covers: all of it, or the spares that join. -/
def State.scrubbedDies (s : State) (k : Nat) : List Nat :=
  let joining := match s.partOfSector k with
    | some p => (s.part p).joining.filter (fun d => d / 12 == k)
    | none => []
  if s.field (Reg.scrubSector k) 4 3 = 3 then joining else sectorDies k

/-- The state of an on-panel scrub's end before the sector's register shows it. -/
def State.scrubEmptied (s : State) (k : Nat) : State :=
  let t := (s.scrubbedDies k).foldl State.scrubDie s
  let t := if s.field (Reg.scrubSector k) 4 3 = 3 then t else t.setMid k { t.mid k with verified := [] }
  t.scrubLeftBy (s.partOfSector k) (s.scrubbedDies k) k

theorem State.onpanelDone_eq {s : State} {k : Nat} (h : s.field (Reg.scrubSector k) 0 2 = 1) : s.onpanelDone k =
    ((s.scrubEmptied k).scrubCounted (s.field (Reg.scrubSector k) 4 3) k).setBit Reg.scrubStatus 0 := by
  unfold State.onpanelDone
  exact if_neg (not_not.mpr h)

theorem State.onpanelDone_idle {s : State} {k : Nat} (h : s.field (Reg.scrubSector k) 0 2 ≠ 1) : s.onpanelDone k = s := by
  unfold State.onpanelDone
  exact if_pos h

section
variable (s : State) (k : Nat)

theorem State.scrubLeftBy_reg (owner : Option Nat) (dies : List Nat) (a : Nat) : (s.scrubLeftBy owner dies k).reg a = s.reg a := by
  cases owner <;> rfl

theorem State.scrubLeftBy_arrs (owner : Option Nat) (dies : List Nat) : (s.scrubLeftBy owner dies k).arrs = s.arrs := by
  cases owner <;> rfl

theorem State.scrubEmptied_reg {a : Nat} (ha : a < 0x20000000) : (s.scrubEmptied k).reg a = s.reg a := by
  obtain ⟨-, hregs⟩ := s.scrubDies_dieScrubbed (s.scrubbedDies k)
  unfold State.scrubEmptied
  rw [State.scrubLeftBy_reg]
  split <;> exact hregs a ha

theorem State.scrubEmptied_arr (hcause : s.field (Reg.scrubSector k) 4 3 ≠ 3) {ga : Nat} (hga : ga / 96 = k) :
    (s.scrubEmptied k).arr ga = { Arr.reset with mismatches := (s.arr ga).mismatches } := by
  have hdies : s.scrubbedDies k = sectorDies k := if_neg hcause
  have hmid (t : State) (x : Mid) : (t.setMid k x).arrs = t.arrs := rfl
  have hfold : (s.scrubEmptied k).arrs = ((sectorDies k).foldl State.scrubDie s).arrs := by
    unfold State.scrubEmptied
    rw [State.scrubLeftBy_arrs, if_neg hcause, hdies]
    exact hmid _ _
  exact (congrArg (fun x => Tab.getD x ga Arr.reset) hfold).trans (s.scrubSectorDies_arr hga)

theorem State.scrubEmptied_scrubLeft {p : Nat} (hp : s.partOfSector k = some p) :
    ((s.scrubEmptied k).keysOf p).scrubLeft = (s.keysOf p).scrubLeft.filter (· != k) := by
  obtain ⟨hframe, -⟩ := s.scrubDies_dieScrubbed (s.scrubbedDies k)
  have hkeys := congrArg State.keys hframe
  have hkeysOf : ((s.scrubbedDies k).foldl State.scrubDie s).keysOf p = s.keysOf p := congrArg (fun x => Tab.getD x p PartKeys.reset) hkeys
  unfold State.scrubEmptied
  rw [hp]
  refine (congrArg PartKeys.scrubLeft (State.keysOf_setKeys_self ..)).trans ?_
  split <;> exact congrArg (fun x : PartKeys => x.scrubLeft.filter (· != k)) hkeysOf

theorem State.scrubCounted_fields (cause : Nat) : let a := Reg.scrubSector k; let t := s.scrubCounted cause k
    t.field a 0 2 = (if cause = 2 then 2 else 0) ∧
      t.field a 16 16 = (if cause = 2 then s.field a 16 16 else (s.field a 16 16 + 1) % 2 ^ 16) := by
  intro a t
  unfold t State.scrubCounted
  split
  · exact ⟨State.field_setField_self _ _ _ _ _ (by decide), State.field_setField_disjoint _ _ _ _ _ _ _ (by decide) (by decide)⟩
  · refine ⟨(State.scrubbed_phase _ _).trans (State.field_setField_self _ _ _ _ _ (by decide)), ?_⟩
    rw [State.scrubbed, State.field_setField_self _ _ _ _ _ (by decide), State.field_setField_disjoint _ _ _ _ _ _ _ (by decide) (by decide)]

theorem State.scrubCounted_onlyRegs (cause : Nat) : OnlyRegs s (s.scrubCounted cause k) [Reg.scrubSector k] :=
  ((OnlyRegs.refl s _).setField List.mem_cons_self 0 2 2).ite
    (((OnlyRegs.refl s _).setField List.mem_cons_self 0 2 0).setField List.mem_cons_self 16 16 _)

/-- R474, R484 to R486, R499: the scrub's end shown in SCRUB_STATUS and in the sector's register; then an envelope's scrub goes on to HBM. -/
theorem State.onpanelDone_spec (hk : k < 8) (h : s.field (Reg.scrubSector k) 0 2 = 1) : let a := Reg.scrubSector k; let t := s.onpanelDone k
    t = { s.scrubEmptied k with regs := t.regs } ∧ t.bit Reg.scrubStatus 0 = true ∧ t.field a 0 2 = (if s.field a 4 3 = 2 then 2 else 0) ∧
      t.field a 16 16 = (if s.field a 4 3 = 2 then s.field a 16 16 else (s.field a 16 16 + 1) % 2 ^ 16) := by
  intro a t
  have ht : t = ((s.scrubEmptied k).scrubCounted (s.field a 4 3) k).setBit Reg.scrubStatus 0 := State.onpanelDone_eq h
  obtain ⟨hframe, -⟩ := (((s.scrubEmptied k).scrubCounted_onlyRegs k (s.field a 4 3)).mono
    (fun x hx => List.mem_cons_of_mem Reg.scrubStatus hx)).setBit List.mem_cons_self 0
  obtain ⟨hphase, hcount⟩ := (s.scrubEmptied k).scrubCounted_fields k (s.field a 4 3)
  have hfield (lo w : Nat) : t.field a lo w = ((s.scrubEmptied k).scrubCounted (s.field a 4 3) k).field a lo w := by
    rw [ht]
    exact State.field_setBit _ _ _ _ _ _ (by decide) (Or.inl (scrubSector_ne_scrubStatus k))
  refine ⟨?_, ?_, (hfield 0 2).trans hphase, ((hfield 16 16).trans hcount).trans ?_⟩
  · rw [ht]
    exact hframe
  · rw [ht]
    exact State.bit_setBit_self _ _ _ (by decide)
  · rw [State.field_congr (s.scrubEmptied_reg k (by unfold Reg.scrubSector; omega))]

end

end Sys2Proof.Machine
end

section
/-! SUPPORT. A release that goes on, and the register changes by which the far steps show themselves (R487, R488, R617, R618). -/

namespace Sys2Proof.Machine

/-- R618: after its last die a release is over: the port is shown as released and its entry answered. -/
theorem State.releaseNext_nil (s : State) (p j id : Nat) : ∃ e : State, (e.mid j).farReleased = true ∧ (e.mid j).farReleasing = none ∧
    (e.mid j).verified = [] ∧ s.releaseNext p j id [] = ((e.setBit (Reg.farHp j) 3).serve1 id 0).progressAll := by
  refine ⟨(s.releaseDies p j (s.partDies p)).setMid j
    { (s.releaseDies p j (s.partDies p)).mid j with farReleased := true, farReleasing := none, verified := [] }, ?_, ?_, ?_, rfl⟩ <;>
    rw [State.mid_setMid_self]

/-- A bit cleared, and nothing else. -/
theorem State.clearBit_setsBit (s : State) (a : Nat) {i : Nat} (h : i < 32) : SetsBit s (s.clearBit a i) a i false :=
  ⟨(OnlyRegs.refl s [a]).clearBit List.mem_cons_self i, s.setField_fieldOnly a i 1 0 h, State.bit_clearBit_self s a i h⟩

/-- The phase and the cause of a far scrub shown in its sector's register. -/
theorem State.showFarScrub_spec (s : State) (k : Nat) : let a := Reg.scrubSector k; let e := (s.setField a 0 2 3).setField a 4 3 5
    OnlyRegs s e [a] ∧ e.field a 0 2 = 3 ∧ e.field a 4 3 = 5 := by
  intro a e
  refine ⟨((OnlyRegs.refl s [a]).setField List.mem_cons_self 0 2 3).setField List.mem_cons_self 4 3 5, ?_, ?_⟩
  · exact (State.field_setField_disjoint _ _ _ _ _ _ _ (by decide) (by decide)).trans (State.field_setField_self _ _ _ _ _ (by decide))
  · exact State.field_setField_self _ _ _ _ _ (by decide)

/-- R487, R488: the end of a far scrub, before the entries that wait for it are answered. -/
theorem State.farScrubEnd_spec (s : State) {k : Nat} (hk : k < 32) (owner index : Nat) : let e := s.farScrubEnd k owner index
    e.field (Reg.scrubSector k) 0 2 = 0 ∧ e.bit Reg.scrubCtl k = false ∧ e.works = s.works ∧
      (s.bit (Reg.farState k) 0 = true → e.bit Reg.scrubStatus 2 = true ∧ (∀ off, off < 2 ^ 42 → Mem.read e.far (farKey k off) = 0) ∧
        (Memory.wf s.far = true → ∀ x, x < farKey k 0 ∨ farKey (k + 1) 0 ≤ x → Mem.read e.far x = Mem.read s.far x)) ∧
      (s.bit (Reg.farState k) 0 = false → e.far = s.far) := by
  intro e
  refine ⟨s.farScrubEnd_phase k owner index, s.farScrubEnd_ctl k owner index hk, s.farScrubEnd_works k owner index, fun hup => ?_,
    State.farScrubEnd_down owner index⟩
  obtain ⟨hdone, hfar⟩ := State.farScrubEnd_up owner index hup
  refine ⟨hdone, fun off hoff => ?_, fun hwf x hx => ?_⟩
  · obtain ⟨hlo, hhi⟩ := farKey_bounds k hoff
    rw [hfar]
    exact Mem.read_clear_inside s.far hlo hhi
  · rw [hfar]
    exact Mem.read_clear_outside hwf hx

end Sys2Proof.Machine

section

open Sys2Proof Sys2Proof.Machine

/-- Settles O47: each step is followed to the state it leaves. Four of the ways are the model's choice (log entry 60): a release treats one die
in a step, a removed expander's bytes are dropped, a release that a removal ends is answered with DETAIL 1, and FAR_START is refused on a port
that is not up. -/
theorem farTier : Obligations.FarTier := by
  refine ⟨?_, ?_, ?_, ?_, State.releaseArrayLines_l1, ?_, ?_, ?_, ?_, ?_, ?_⟩
  · intro port s u k b hk hb
    refine ⟨_, exec_rateConfig hk, ?_⟩
    unfold State.rateConfig
    simp only [hb, Bool.not_eq_true']
    split_ifs with hbad hlock hfret hwatts
    · rfl
    · rfl
    · rfl
    · rfl
    · obtain ⟨hfixed, hbad⟩ := not_or.mp hbad
      obtain ⟨hrate, hlocks⟩ := not_or.mp hbad
      obtain ⟨hregs, hfields⟩ := u.setRate_spec k.part hfixed hrate hlocks
      obtain ⟨hf, hr, hl⟩ := hfields
      exact ⟨_, hregs, hf, hr, hl, rfl⟩
  · intro port s u k b hk hb
    refine ⟨_, exec_energyRead hk hb, ?_⟩
    split_ifs
    · rfl
    · refine ⟨_, rfl, fun hwindow => ?_⟩
      obtain ⟨-, hlow, hwords⟩ := stackWords_spec (fun i => u.reg (Reg.sliceEnergy (64 * k.part + i))) 64 hwindow
      exact ⟨hlow, hwords⟩
  · intro port s u k b0 hb b j
    refine ⟨fun hk hnone => ⟨_, exec_farRelease_begins hk hnone, ?_⟩, fun hk => ⟨_, exec_farAttach hk, ?_⟩, fun hk => ⟨_, exec_farScrub hk, ?_⟩⟩
    · rw [State.farRelease_spec hb]
      split_ifs <;> rfl
    · rw [State.farAttach_spec hb]
      split_ifs
      · rfl
      · rfl
      · rfl
      · exact ⟨(u.setMid j { u.mid j with farReleased := false, farAttached := true }).clearBit (Reg.farHp j) 3,
          u.clearBit_setsBit (Reg.farHp j) (by decide), State.mid_setMid_self .., rfl⟩
    · rw [State.farScrub_spec hb]
      split_ifs
      · rfl
      · rfl
      · obtain ⟨hregs, hphase, hcause⟩ := u.showFarScrub_spec j
        exact ⟨_, hregs, hphase, hcause, rfl⟩
  · intro port s p j id dies hp hj
    refine ⟨_, exec_farRelease_goesOn hp hj, ?_⟩
    split
    · rfl
    · refine ⟨fun d rest hdies => ?_, fun hdies => ?_⟩
      · rw [hdies]
        rfl
      · rw [hdies]
        exact s.releaseNext_nil p j id
  · intro v s
    obtain ⟨hframe, hregs⟩ := s.farStart_onlyRegs v
    refine ⟨_, rfl, hframe, hregs, fun k hk => ?_⟩
    split
    · next hstarts => exact State.farStart_shows s v hk hstarts
    · next hstarts =>
      obtain ⟨hsector, hctl⟩ := State.farStart_keeps s v hk hstarts
      exact ⟨hsector, hctl, State.farStart_refuses s v hk hstarts⟩
  · intro k s a
    refine ⟨fun hidle => ⟨_, rfl, if_pos hidle⟩, fun hphase => ⟨_, rfl, ?_⟩⟩
    obtain ⟨owner, index, hend⟩ := State.farScrubbed_eq hphase
    obtain ⟨hover, hctl, hworks, hup, hdown⟩ := s.farScrubEnd_spec (k := k.val) (by omega) owner index
    refine ⟨_, _, hend, hover, hctl, hworks, fun id hid => ?_, hup, hdown⟩
    obtain ⟨w, hw, rfl⟩ := List.mem_map.mp hid
    obtain ⟨hmem, hwaits⟩ := State.mem_awaitScrub hw
    exact ⟨w, hmem, rfl, hwaits⟩
  · intro k s a
    refine ⟨fun hidle => ⟨_, rfl, State.onpanelDone_idle hidle⟩, fun hphase => ⟨_, rfl, ?_⟩⟩
    obtain ⟨hframe, hdone, hnext, hcount⟩ := s.onpanelDone_spec k.val k.isLt hphase
    have harrs := congrArg State.arrs hframe
    have hkeys := congrArg State.keys hframe
    refine ⟨hdone, hnext, hcount, fun hcause ga hga => ?_, fun p hp => ?_⟩
    · exact (congrArg (fun x => Tab.getD x ga Arr.reset) harrs).trans (s.scrubEmptied_arr k.val hcause hga)
    · exact (congrArg (fun x => (Tab.getD x p PartKeys.reset).scrubLeft) hkeys).trans (s.scrubEmptied_scrubLeft k.val hp)
  · intro p s
    refine ⟨_, rfl, ?_⟩
    split
    · next hdue =>
      obtain ⟨hframe, hkeyed, hdone⟩ := State.hbmScrubbed_spec hdue
      have hkeys := congrArg State.keys hframe
      have hhbm := congrArg State.hbm hframe
      rw [hhbm]
      refine ⟨hkeyed, hdone, ?_, ?_, fun x hlo hhi => Mem.read_clear_inside s.hbm hlo hhi, fun hwf x hx => Mem.read_clear_outside hwf hx⟩
      · exact (congrArg (fun x => Tab.getD x p.val PartKeys.reset) hkeys).trans (State.keysOf_setKeys_self ..)
      · rw [hframe]
        rfl
    · next hdue => exact State.hbmScrubbed_of_not_due hdue
  · intro port dev s a f
    refine ⟨_, exec_expanderInserted s port dev, ?_⟩
    split_ifs
    · obtain ⟨hframe, hregs, hpresent, hpowered, hperst⟩ := s.insertExpander_spec port dev
      exact ⟨hframe, hregs, hpresent, hpowered, hperst, s.insertExpander_down port dev, s.insertExpander_up port dev⟩
    · rfl
  · intro port s a f
    cases hpresent : s.bit a 0 with
    | false => exact ⟨_, exec_expanderRemoved_absent hpresent, rfl⟩
    | true =>
      refine ⟨_, exec_expanderRemoved_present hpresent, ?_⟩
      beta_reduce
      rw [if_neg (Ne.symm Bool.false_ne_true)]
      obtain ⟨hdown, howner, hbytes⟩ := s.removeExpander_spec port.val
      exact ⟨hdown, howner, hbytes, State.removeExpander_quiet, fun e he hquiet => State.removeExpander_releasing hquiet he⟩

end
end

section
/-! SUPPORT. Reads of HBM at a memory-interface die, their repeats, and the repair of what failed (R318, R320 to R326). -/

namespace Sys2Proof.Machine

/-! A fault raised at a memory-interface die. -/

/-- Raising a fault leaves all but registers, counts, partitions and the record of faults. -/
theorem State.raise_frame (s : State) (r : FaultRec) : let t := s.raise r
    t = { s with regs := t.regs, accum := t.accum, ahead := t.ahead, parts := t.parts, faults := t.faults } := by
  obtain ⟨t, ht, e⟩ := s.raise_noted r
  intro u
  rw [show u = _ from e]
  simp only
  rw [ht.frame]

@[simp] theorem State.raise_reads (s : State) (r : FaultRec) : (s.raise r).reads = s.reads := by
  rw [s.raise_frame r]

@[simp] theorem State.mid_raise (s : State) (r : FaultRec) (m : Nat) : (s.raise r).mid m = s.mid m := by
  rw [s.raise_frame r]
  rfl

@[simp] theorem State.raise_hbmRepairs (s : State) (r : FaultRec) : (s.raise r).faults.hbmRepairs = s.faults.hbmRepairs := by
  obtain ⟨t, -, e⟩ := s.raise_noted r
  rw [e]

/-- The registers of a memory-interface die are not those of fault reporting. -/
theorem not_faultAddress {a : Nat} (hlo : 0x2000000 ≤ a) (hhi : a < 0x20000000) : ¬FaultAddress a := by
  rintro (h | h)
  · omega
  · rw [h, Reg.fltStatus] at hlo
    omega

section
variable {m : Nat} (hm : m < 128)
include hm

theorem midStatus_not_faultAddress : ¬FaultAddress (Reg.midStatus m) :=
  not_faultAddress (by unfold Reg.midStatus; omega) (by unfold Reg.midStatus; omega)

theorem farState_not_faultAddress : ¬FaultAddress (Reg.farState m) :=
  not_faultAddress (by unfold Reg.farState; omega) (by unfold Reg.farState; omega)

theorem stackState_not_faultAddress {k : Nat} (hk : k < 4) : ¬FaultAddress (Reg.stackState m k) :=
  not_faultAddress (by unfold Reg.stackState; omega) (by unfold Reg.stackState; omega)

/-- A fault raised with its bit of MID_STATUS leaves the bit set. -/
theorem State.bit_setBit_raise (s : State) {i : Nat} (hi : i < 32) (r : FaultRec) :
    ((s.setBit (Reg.midStatus m) i).raise r).bit (Reg.midStatus m) i = true :=
  (State.bit_raise _ _ _ _ (midStatus_not_faultAddress hm)).trans (State.bit_setBit_self _ _ _ hi)

/-- A fault raised with its bit of MID_STATUS leaves the state words of the stacks. -/
theorem State.reg_setBit_raise_stack (s : State) (i : Nat) (r : FaultRec) {k : Nat} (hk : k < 4) :
    ((s.setBit (Reg.midStatus m) i).raise r).reg (Reg.stackState m k) = s.reg (Reg.stackState m k) :=
  (State.reg_raise _ _ _ (stackState_not_faultAddress hm hk)).trans
    (State.reg_setBit_other _ _ _ _ (by unfold Reg.stackState Reg.midStatus; omega))

end

/-! HBM_READ_DONE, HBM_REREAD and SECTOR_MERGE_WRITE. -/

/-- R318, R322: a re-read that passed raises HBM_REREAD, and counts failures of lanes. -/
theorem State.rereadPassed_spec (s : State) (p line : Nat) (bits : List Nat) : let e := s.rereadPassed p line bits
    e = { s with regs := e.regs, accum := e.accum, ahead := e.ahead, mids := e.mids, parts := e.parts, faults := e.faults } ∧
      ∃ r, e.faults.undelivered = s.faults.undelivered ++ [r] ∧ r.code = 0x0401 := by
  intro e
  refine ⟨?_, _, State.raise_undelivered .., rfl⟩
  have hframe : e = _ := State.raise_frame ..
  have hmids : e.mids = _ := congrArg State.mids hframe
  rw [hmids]
  exact hframe

section
variable {p : Fin 6} {line : BitVec 41} {s : State} {o : MidOp} (h : s.hbmHead p.val line.toNat = some o)
include h

theorem exec_hbmReadDone (hf : o.fails = 0) (errs : List SectorErr) : let code := s.lineCode p.val line.toNat
    exec (.hbmReadDone p line errs) s = .next (if readFails code errs then s.setMidHead p.val line.toNat (o.failed code errs)
      else s.midPassed p.val line.toNat o errs) := by
  show next (match s.hbmHead p.val line.toNat with | none => s | some o => _) = _
  rw [h]
  exact congrArg next (if_neg (not_not.mpr hf))

theorem exec_hbmReread (hf : o.fails ≠ 0) (errs : List SectorErr) : let code := s.lineCode p.val line.toNat
    exec (.hbmReread p line errs) s = .next (if readFails code errs then
        (if o.fails = 1 then s.setMidHead p.val line.toNat (o.failed code errs) else s.midFailed p.val line.toNat o)
      else (s.rereadPassed p.val line.toNat o.bits).midPassed p.val line.toNat o errs) := by
  show next (match s.hbmHead p.val line.toNat with | none => s | some o => _) = _
  rw [h]
  refine congrArg next ((if_neg hf).trans ?_)
  cases readFails (s.lineCode p.val line.toNat) errs <;> rfl

theorem exec_sectorMergeWrite (hw : o.isWrite = true) (reads : List (List SectorErr)) :
    let r := readTries (s.lineCode p.val line.toNat) (reads.take 3)
    exec (.sectorMergeWrite p line reads) s = .next (if r.1 = 3 then s.midFailed p.val line.toNat o
      else (if r.1 = 0 then s else s.rereadPassed p.val line.toNat r.2).midPassed p.val line.toNat o []) := by
  show next (match s.hbmHead p.val line.toNat with | none => s | some o => _) = _
  rw [h]
  exact congrArg next (if_neg (by rw [hw]; exact Bool.false_ne_true))

end

/-! PAGE_RETIRE_DONE (R324). -/

/-- The memory-interface die of an HBM address. -/
theorem State.stackOf_lt (s : State) (p addr : Nat) (h : 0 < s.partN p) : (s.stackOf p addr).1 / 4 < 128 := by
  have hk : s.partK0 p < 2 ^ 3 := bitsOf_lt ..
  have hn : s.partN p < 2 ^ 4 := bitsOf_lt ..
  have hmod : addr / 4096 % (4 * s.partN p) < 4 * s.partN p := Nat.mod_lt _ (by omega)
  unfold State.stackOf
  dsimp only
  omega

/-- A page repaired or substituted: its record, and what its die remembers of it. -/
def State.pageRepaired (s : State) (p g addr off : Nat) (subst : Bool) : State :=
  let e := s.logRepair g (dramPage off) subst
  (e.setBit (Reg.midStatus (g / 4)) 2).raise (memFault e 0x0403 (some p) (g / 4) false g addr off)

/-- A page with neither a repair row nor a page to substitute it. -/
def State.pageUnrepaired (s : State) (p g addr off : Nat) : State :=
  (s.setBit (Reg.midStatus (g / 4)) 3).raise (memFault s 0x0404 (some p) (g / 4) false g addr off)

/-- The poisoned lines of a die whose pages are still to be retired, one taken out. -/
def State.retiringDone (s : State) (p line : Nat) : State :=
  let m := (s.stackOf p (128 * line)).1 / 4
  s.setMid m { s.mid m with retiring := dropFirst (fun o => o.part == p && o.line == line) (s.mid m).retiring }

/-- The page of a poisoned line repaired, substituted, or left as it is. -/
def State.retirePage (s : State) (p g addr off : Nat) (repairRow : Bool) : State :=
  let reg := Reg.stackState (g / 4) (g % 4)
  if repairRow then (s.setField reg 16 16 (s.field reg 16 16 + 1)).pageRepaired p g addr off false
  else if s.field reg 8 7 < 64 then (s.setField reg 8 7 (s.field reg 8 7 + 1)).pageRepaired p g addr off true
  else s.pageUnrepaired p g addr off

theorem exec_pageRetireDone {p : Fin 6} {line : BitVec 41} {s : State} {o : MidOp} (hfar : 128 * line.toNat < farStart)
    (ho : o ∈ (s.mid ((s.stackOf p.val (128 * line.toNat)).1 / 4)).retiring) (hp : o.part = p.val) (hl : o.line = line.toNat)
    (repairRow : Bool) : exec (.pageRetireDone p line repairRow) s = .next ((s.retiringDone p.val line.toNat).retirePage p.val
      (s.stackOf p.val (128 * line.toNat)).1 (128 * line.toNat) (s.stackOf p.val (128 * line.toNat)).2 repairRow) := by
  have hmine : (s.mid ((s.stackOf p.val (128 * line.toNat)).1 / 4)).retiring.any (fun o => o.part == p.val && o.line == line.toNat) = true :=
    List.any_eq_true.mpr ⟨o, ho, by rw [hp, hl, beq_self_eq_true, beq_self_eq_true]; rfl⟩
  exact congrArg next (if_neg (not_or.mpr ⟨Nat.not_le.mpr hfar, fun h => Bool.false_ne_true ((congrArg not hmine).symm.trans h)⟩))

section
variable (s : State) (p addr off : Nat) {g : Nat} (hm : g / 4 < 128)
include hm

theorem State.pageRepaired_spec (subst : Bool) : let t := s.pageRepaired p g addr off subst; let reg := Reg.stackState (g / 4) (g % 4)
    t.reg reg = s.reg reg ∧ t.bit (Reg.midStatus (g / 4)) 2 = true ∧ t.faults.hbmRepairs.length = s.faults.hbmRepairs.length + 1 ∧
      ∃ r, t.faults.undelivered = s.faults.undelivered ++ [r] ∧ r.code = 0x0403 := by
  refine ⟨State.reg_setBit_raise_stack hm _ 2 _ (Nat.mod_lt g (by decide)), State.bit_setBit_raise hm _ (by decide) _, ?_,
    _, State.raise_undelivered .., rfl⟩
  exact (congrArg List.length (State.raise_hbmRepairs ..)).trans List.length_append

theorem State.pageUnrepaired_spec : let t := s.pageUnrepaired p g addr off; let reg := Reg.stackState (g / 4) (g % 4)
    t.reg reg = s.reg reg ∧ t.bit (Reg.midStatus (g / 4)) 3 = true ∧ t.faults.hbmRepairs = s.faults.hbmRepairs ∧
      ∃ r, t.faults.undelivered = s.faults.undelivered ++ [r] ∧ r.code = 0x0404 :=
  ⟨State.reg_setBit_raise_stack hm _ 3 _ (Nat.mod_lt g (by decide)), State.bit_setBit_raise hm _ (by decide) _, State.raise_hbmRepairs ..,
    _, State.raise_undelivered .., rfl⟩

/-- R324: a page repaired or substituted is counted in its stack's state and logged; one that is neither shows SUBSTITUTION_FULL. -/
theorem State.retirePage_spec (repairRow : Bool) : let reg := Reg.stackState (g / 4) (g % 4); let t := s.retirePage p g addr off repairRow
    if repairRow = true ∨ s.field reg 8 7 < 64 then
      (if repairRow then t.field reg 16 16 = (s.field reg 16 16 + 1) % 2 ^ 16 ∧ t.field reg 8 7 = s.field reg 8 7
        else t.field reg 8 7 = s.field reg 8 7 + 1 ∧ t.field reg 16 16 = s.field reg 16 16) ∧
      t.bit (Reg.midStatus (g / 4)) 2 = true ∧ t.faults.hbmRepairs.length = s.faults.hbmRepairs.length + 1 ∧
      ∃ r, t.faults.undelivered = s.faults.undelivered ++ [r] ∧ r.code = 0x0403
    else t.reg reg = s.reg reg ∧ t.bit (Reg.midStatus (g / 4)) 3 = true ∧ t.faults.hbmRepairs = s.faults.hbmRepairs ∧
      ∃ r, t.faults.undelivered = s.faults.undelivered ++ [r] ∧ r.code = 0x0404 := by
  intro reg t
  cases repairRow with
  | true =>
    obtain ⟨hreg, hrest⟩ := (s.setField reg 16 16 (s.field reg 16 16 + 1)).pageRepaired_spec p addr off hm false
    rw [if_pos (Or.inl rfl), if_pos rfl]
    refine ⟨⟨(State.field_congr hreg 16 16).trans ?_, (State.field_congr hreg 8 7).trans ?_⟩, hrest⟩
    · exact State.field_setField_self _ _ _ _ _ (by decide)
    · exact State.field_setField_disjoint _ _ _ _ _ _ _ (by decide) (by decide)
  | false =>
    rw [if_neg Bool.false_ne_true]
    by_cases hroom : s.field reg 8 7 < 64
    · obtain ⟨hreg, hrest⟩ := (s.setField reg 8 7 (s.field reg 8 7 + 1)).pageRepaired_spec p addr off hm true
      rw [if_pos (Or.inr hroom), show t = _ from if_pos hroom]
      refine ⟨⟨(State.field_congr hreg 8 7).trans ?_, (State.field_congr hreg 16 16).trans ?_⟩, hrest⟩
      · exact (State.field_setField_self _ _ _ _ _ (by decide)).trans (Nat.mod_eq_of_lt (by omega))
      · exact State.field_setField_disjoint _ _ _ _ _ _ _ (by decide) (by decide)
    · rw [if_neg (not_or.mpr ⟨Bool.false_ne_true, hroom⟩), show t = _ from if_neg hroom]
      exact s.pageUnrepaired_spec p addr off hm

end

/-! HBM_LANE_REMAPPED (R318, R319). -/

/-- The failures of a lane counted anew, and the redundant lanes in use. -/
def Mid.laneTaken (x : Mid) (key : Nat) (lanesUsed : Tab Nat) : Mid := { x with laneFails := Tab.erase x.laneFails key, lanesUsed := lanesUsed }

/-- A lane moved to a redundant one of its pseudo-channel, which is counted at a key. -/
def State.laneMoved (s : State) (stack channel key usedKey : Nat) : State :=
  let m := stack / 4
  let x := s.mid m
  let e := s.setMid m (x.laneTaken key (Tab.put x.lanesUsed usedKey (Tab.getD x.lanesUsed usedKey 0 + 1)))
  (e.setBit (Reg.midStatus m) 4).raise (memFault e 0x0402 (s.partOfSector m) m false stack 0 (128 * channel))

/-- A lane for which its pseudo-channel has no redundant one left. -/
def State.laneLost (s : State) (stack channel key : Nat) : State :=
  let m := stack / 4
  let e := ((s.setMid m ((s.mid m).laneTaken key (s.mid m).lanesUsed)).setBit (Reg.midStatus m) 5).setField (Reg.stackState m (stack % 4)) 0 2 3
  e.raise (memFault e 0x0409 (s.partOfSector m) m false stack 0 (128 * channel))

theorem exec_hbmLaneRemapped {stack channel lane : Fin 32} {s : State}
    (h : 8 ≤ Tab.getD (s.mid (stack.val / 4)).laneFails (laneKey stack.val channel.val lane.val) 0) :
    let key := laneKey stack.val channel.val lane.val; let usedKey := laneKey stack.val channel.val 0
    exec (.hbmLaneRemapped stack channel lane) s = .next
      (if Tab.getD (s.mid (stack.val / 4)).lanesUsed usedKey 0 < Config.hbmRedundantLanes then s.laneMoved stack.val channel.val key usedKey
      else s.laneLost stack.val channel.val key) := by
  intro key usedKey
  refine congrArg next ((if_neg (Nat.not_lt.mpr h)).trans ?_)
  by_cases hspare : Tab.getD (s.mid (stack.val / 4)).lanesUsed usedKey 0 < Config.hbmRedundantLanes
  · simp only [usedKey, if_pos hspare]
    rfl
  · simp only [usedKey, if_neg hspare]
    rfl

section
variable (s : State) {stack : Nat} (channel key : Nat) (hm : stack / 4 < 128)
include hm

/-- R318: a redundant lane is taken, and the failures of the lane are counted anew. -/
theorem State.laneMoved_spec (usedKey : Nat) : let m := stack / 4; let t := s.laneMoved stack channel key usedKey
    (t.mid m).laneFails = Tab.erase (s.mid m).laneFails key ∧
      Tab.getD (t.mid m).lanesUsed usedKey 0 = Tab.getD (s.mid m).lanesUsed usedKey 0 + 1 ∧ t.bit (Reg.midStatus m) 4 = true ∧
      ∃ r, t.faults.undelivered = s.faults.undelivered ++ [r] ∧ r.code = 0x0402 := by
  intro m t
  have hmid : t.mid m = _ := (State.mid_raise ..).trans (State.mid_setMid_self ..)
  refine ⟨by rw [hmid]; rfl, ?_, State.bit_setBit_raise hm _ (by decide) _, _, State.raise_undelivered .., rfl⟩
  rw [hmid]
  exact Tab.getD_put_self ..

/-- R319: with no redundant lane left the stack is shown as lost. -/
theorem State.laneLost_spec : let m := stack / 4; let t := s.laneLost stack channel key
    (t.mid m).laneFails = Tab.erase (s.mid m).laneFails key ∧ t.field (Reg.stackState m (stack % 4)) 0 2 = 3 ∧
      t.bit (Reg.midStatus m) 5 = true ∧ ∃ r, t.faults.undelivered = s.faults.undelivered ++ [r] ∧ r.code = 0x0409 := by
  intro m t
  have hmid : t.mid m = _ := (State.mid_raise ..).trans (State.mid_setMid_self ..)
  have hne : Reg.midStatus m ≠ Reg.stackState m (stack % 4) := by unfold Reg.midStatus Reg.stackState; omega
  refine ⟨by rw [hmid]; rfl, ?_, ?_, _, State.raise_undelivered .., rfl⟩
  · exact (State.field_congr (State.reg_raise _ _ _ (stackState_not_faultAddress hm (Nat.mod_lt stack (by decide)))) 0 2).trans
      (State.field_setField_self _ _ _ _ _ (by decide))
  · refine (State.bit_raise _ _ _ _ (midStatus_not_faultAddress hm)).trans ?_
    exact (State.bit_congr (State.reg_setField_other _ _ _ _ _ _ hne) 5).trans (State.bit_setBit_self _ _ _ (by decide))

end

end Sys2Proof.Machine
end

section
/-! SUPPORT. Requests served at a far port: what they leave of its registers, its buffer of verified pages, and the record of faults (R330 to
R332). -/

namespace Sys2Proof.Machine

/-- A page moved to the front of a buffer of verified pages that holds it (R330). -/
def Mid.touched (x : Mid) (page : Nat) : Mid :=
  if x.verified.contains page then { x with verified := page :: x.verified.filter (· != page) } else x

theorem Mid.touched_of_empty {x : Mid} (h : x.verified = []) (page : Nat) : x.touched page = x := by
  unfold Mid.touched
  rw [h]
  rfl

/-- The most recent page of a buffer that holds it once stays where it is. -/
theorem Mid.touched_of_first {x : Mid} {page : Nat} {l : List Nat} (h : x.verified = page :: l) (hl : ∀ q ∈ l, q ≠ page) :
    x.touched page = x := by
  have hfilter : (page :: l).filter (· != page) = l := by
    rw [List.filter_cons_of_neg (by simp), List.filter_eq_self.mpr (fun q hq => bne_iff_ne.mpr (hl q hq))]
  unfold Mid.touched
  rw [h, hfilter, ← h, ite_self]

theorem State.touchPage_mid (s : State) (port off : Nat) : (s.touchPage port off).mid port = (s.mid port).touched (off / 4096) := by
  unfold State.touchPage Mid.touched
  dsimp only
  split
  · exact State.mid_setMid_self ..
  · rfl

/-- From s to t requests were served at far ports: the low fields of every register but those of fault reporting read as before, and records
of faults were but added. -/
structure FarServed (s t : State) : Prop where
  fields : ∀ a lo w, ¬FaultAddress a → lo + w ≤ 8 → t.field a lo w = s.field a lo w
  records : ∃ l, t.faults.undelivered = s.faults.undelivered ++ l

theorem FarServed.refl (s : State) : FarServed s s := ⟨fun _ _ _ _ _ => rfl, [], (List.append_nil _).symm⟩

theorem FarServed.bit {s t : State} (h : FarServed s t) {a i : Nat} (ha : ¬FaultAddress a) (hi : i < 8) : t.bit a i = s.bit a i := by
  unfold State.bit
  rw [h.fields a i 1 ha hi]

theorem FarServed.trans {s t u : State} (h : FarServed s t) (k : FarServed t u) : FarServed s u where
  fields a lo w ha hw := (k.fields a lo w ha hw).trans (h.fields a lo w ha hw)
  records := by
    obtain ⟨l, hl⟩ := h.records
    obtain ⟨l', hl'⟩ := k.records
    exact ⟨l ++ l', by rw [hl', hl, List.append_assoc]⟩

theorem FarServed.raise (s : State) (r : FaultRec) : FarServed s (s.raise r) :=
  ⟨fun a lo w ha _ => State.field_congr (s.reg_raise r a ha) lo w, [r], s.raise_undelivered r⟩

/-- Bit 8 of a register, and those above it, are none of its low fields. -/
theorem FarServed.setBit (s : State) (a : Nat) : FarServed s (s.setBit a 8) :=
  ⟨fun b lo w _ hw => State.field_setBit s a b 8 lo w (by decide) (Or.inr (Or.inl hw)), [], (List.append_nil _).symm⟩

/-! A write to the far tier. -/

/-- From s to t one request at a page of a far port was served. -/
structure PageServed (port page : Nat) (s t : State) : Prop where
  served : FarServed s t
  reads : t.reads = s.reads
  mid : t.mid port = s.mid port ∨ t.mid port = (s.mid port).touched page

theorem PageServed.refl (port page : Nat) (s : State) : PageServed port page s s := ⟨FarServed.refl s, rfl, Or.inl rfl⟩

theorem PageServed.raise (port page : Nat) (s : State) (r : FaultRec) : PageServed port page s (s.raise r) :=
  ⟨FarServed.raise s r, s.raise_reads r, Or.inl (s.mid_raise r port)⟩

theorem State.dropWrite_served (s : State) (p : Nat) {line : Nat} (port page : Nat) (h : Machine.farStart ≤ 128 * line) :
    PageServed port page s (s.dropWrite p line) := by
  have ht : s.dropWrite p line = _ := if_neg (Nat.not_lt.mpr h)
  rw [ht]
  exact ⟨(FarServed.setBit s _).trans (FarServed.raise _ _), State.raise_reads .., Or.inl (State.mid_raise ..)⟩

/-- A page touched, then written. -/
theorem State.touchPage_served (s : State) (port off : Nat) (far : List Host.Cell) (pg : FarPage) :
    PageServed port (off / 4096) s (({ s.touchPage port off with far := far } : State).putPage port off pg) := by
  have hframe : s.touchPage port off = { s with mids := (s.touchPage port off).mids } := by
    unfold State.touchPage
    dsimp only
    split <;> rfl
  refine ⟨⟨fun a lo w _ _ => ?_, [], ?_⟩, ?_, Or.inr (s.touchPage_mid port off)⟩
  · show (s.touchPage port off).field a lo w = _
    rw [hframe]
    rfl
  · show (s.touchPage port off).faults.undelivered = _
    rw [hframe]
    exact (List.append_nil _).symm
  · show (s.touchPage port off).reads = _
    rw [hframe]

/-- R330 to R332: what a write at a far port may change beside the tier. -/
theorem State.memWrite_served (s : State) (p : Nat) {line : Nat} (data : LineData) (mask : ByteMask) (dead : Bool) (h : Machine.farStart ≤ 128 * line) :
    PageServed (s.farPort p ((128 * line - Machine.farStart) / 2 ^ 42)) ((128 * line - Machine.farStart) % 2 ^ 42 / 4096) s
      (s.memWrite p line data mask dead) := by
  unfold State.memWrite
  extract_lets addr j off port
  rw [if_neg (Nat.not_lt.mpr h)]
  split
  · exact PageServed.refl ..
  · split
    · exact PageServed.raise ..
    · split
      · next pg _ =>
        split
        · exact s.dropWrite_served p _ _ h
        · split
          · exact s.touchPage_served port off _ _
          · exact s.touchPage_served port off _ _
      · exact s.dropWrite_served p _ _ h

theorem State.giveLine_served (s : State) (p line port page : Nat) (code : FillCode) (data : LineData) :
    PageServed port page s (s.giveLine p line code data) := by
  unfold State.giveLine
  dsimp only
  split
  · exact ⟨⟨fun _ _ _ _ _ => rfl, [], (List.append_nil _).symm⟩, rfl, Or.inl rfl⟩
  · split
    · exact ⟨⟨fun _ _ _ _ _ => rfl, [], (List.append_nil _).symm⟩, rfl, Or.inl rfl⟩
    · exact PageServed.refl ..

/-! The requests of a far port in their order. -/

/-- The first request of a far port that a test picks taken out of the queue. -/
def State.popFar (s : State) (port : Nat) (f : MidOp → Bool) : State :=
  { s with reads := dropFirst (fun x => s.opAtFar port x && f x) s.reads }

/-- One request of a far port served. -/
def State.serveFarOne (s : State) (port : Nat) (f : MidOp → Bool) (o : MidOp) : State :=
  let t := s.popFar port f
  if o.isWrite then t.memWrite o.part o.line o.data o.mask o.dead
  else t.giveLine o.part o.line (s.memRead o.part o.line).1 (s.memRead o.part o.line).2

theorem State.serveFar_none {s : State} {port : Nat} {f : MidOp → Bool} (h : s.reads.find? (fun o => s.opAtFar port o && f o) = none) (n : Nat) :
    State.serveFar port f n s = s := by
  cases n with
  | zero => rfl
  | succ n => unfold State.serveFar; rw [h]

theorem State.serveFar_some {s : State} {port : Nat} {f : MidOp → Bool} {o : MidOp} (h : s.reads.find? (fun o => s.opAtFar port o && f o) = some o)
    (n : Nat) : State.serveFar port f (n + 1) s = State.serveFar port f n (s.serveFarOne port f o) := by
  rw [State.serveFar, h]
  rfl

theorem dropFirst_length {f : MidOp → Bool} {l : List MidOp} {o : MidOp} (h : l.find? f = some o) : (dropFirst f l).length + 1 = l.length := by
  induction l with
  | nil => cases h
  | cons x l ih =>
    unfold dropFirst
    cases hx : f x with
    | true => rfl
    | false =>
      rw [List.find?_cons_of_neg (by rw [hx]; exact Bool.false_ne_true)] at h
      exact congrArg (· + 1) (ih h)

section
variable {s : State} {port : Nat} {f : MidOp → Bool} {o : MidOp} (h : s.reads.find? (fun o => s.opAtFar port o && f o) = some o)
include h

theorem State.serveFarOne_served : PageServed port (opPage o) (s.popFar port f) (s.serveFarOne port f o) := by
  have hat : (s.opAtFar port o && f o) = true := List.find?_some (p := fun o => s.opAtFar port o && f o) h
  obtain ⟨hfar, -⟩ := Bool.and_eq_true_iff.mp hat
  obtain ⟨hline, hport⟩ := Bool.and_eq_true_iff.mp hfar
  unfold State.serveFarOne
  dsimp only
  split
  · have hw := (s.popFar port f).memWrite_served o.part o.data o.mask o.dead (of_decide_eq_true hline)
    rwa [show (s.popFar port f).farPort o.part ((128 * o.line - Machine.farStart) / 2 ^ 42) = port from beq_iff_eq.mp hport] at hw
  · exact State.giveLine_served ..

theorem State.serveFarOne_reads : (s.serveFarOne port f o).reads.length + 1 = s.reads.length := by
  rw [(State.serveFarOne_served h).reads]
  exact dropFirst_length h

end

/-- R331, R332: what serving the requests of a far port leaves alone; and its die, where no page of them would move in its buffer. -/
theorem State.serveFar_served (port : Nat) (f : MidOp → Bool) (n : Nat) (s : State) : FarServed s (State.serveFar port f n s) ∧
    ((∀ o, f o = true → (s.mid port).touched (opPage o) = s.mid port) → (State.serveFar port f n s).mid port = s.mid port) := by
  induction n generalizing s with
  | zero => exact ⟨FarServed.refl s, fun _ => rfl⟩
  | succ n ih =>
    cases h : s.reads.find? (fun o => s.opAtFar port o && f o) with
    | none => rw [State.serveFar_none h]; exact ⟨FarServed.refl s, fun _ => rfl⟩
    | some o =>
      rw [State.serveFar_some h]
      obtain ⟨hserved, -, hmid⟩ := State.serveFarOne_served h
      obtain ⟨hrest, hkeeps⟩ := ih (s.serveFarOne port f o)
      refine ⟨FarServed.trans ⟨hserved.fields, hserved.records⟩ hrest, fun hfix => ?_⟩
      have hat : (s.opAtFar port o && f o) = true := List.find?_some (p := fun o => s.opAtFar port o && f o) h
      have hone : (s.serveFarOne port f o).mid port = s.mid port :=
        hmid.elim id (fun e => e.trans (hfix o (Bool.and_eq_true_iff.mp hat).2))
      rw [hkeeps (by rw [hone]; exact hfix), hone]

/-- With a round for each request, none is left of those that were to be served. -/
theorem State.serveFar_reads (port : Nat) (f : MidOp → Bool) {n : Nat} {s : State} (hn : s.reads.length ≤ n) : let t := State.serveFar port f n s
    ∀ o ∈ t.reads, (t.opAtFar port o && f o) = false := by
  induction n generalizing s with
  | zero =>
    intro t o ho
    rw [show t.reads = [] from List.length_eq_zero_iff.mp (Nat.le_zero.mp hn)] at ho
    cases ho
  | succ n ih =>
    cases h : s.reads.find? (fun o => s.opAtFar port o && f o) with
    | none =>
      rw [State.serveFar_none h]
      exact fun o ho => Bool.eq_false_iff.mpr (List.find?_eq_none.mp h o ho)
    | some o =>
      rw [State.serveFar_some h]
      have := State.serveFarOne_reads h
      exact ih (by omega)

/-! FAR_PAGE_READ_DONE and FAR_UNAVAILABLE (R329 to R332). -/

theorem exec_farPageReadDone {port : Fin 8} {page : BitVec 30} {fails : Fin 4} {s : State} {o : MidOp}
    (ho : s.reads.find? (fun o => s.opAtFar port.val o && opPage o == page.toNat) = some o) (hup : s.farUp port.val = true) :
    let e := if fails.val < 3 ∧ s.pageGood o.part port.val page.toNat = true then s.keepPage port.val page.toNat else s.failPage port.val page.toNat
    exec (.farPageReadDone port page fails) s = .next (State.serveFar port.val (fun o => opPage o == page.toNat) e.reads.length e) := by
  show next (match s.reads.find? (fun o => s.opAtFar port.val o && opPage o == page.toNat) with | none => s | some o => _) = _
  rw [ho]
  exact congrArg next (if_neg (by rw [hup]; exact Bool.false_ne_true))

/-- R330: a page that was verified is the most recent of its buffer, once its requests were served too. -/
theorem State.serveFar_keepPage (s : State) (port page n : Nat) :
    ((State.serveFar port (fun o => opPage o == page) n (s.keepPage port page)).mid port).verified =
      (page :: (s.mid port).verified.filter (· != page)).take 64 := by
  have hmid : (s.keepPage port page).mid port = { s.mid port with verified := (page :: (s.mid port).verified.filter (· != page)).take 64 } :=
    State.mid_setMid_self ..
  have hfirst : ((s.keepPage port page).mid port).touched page = (s.keepPage port page).mid port := by
    refine Mid.touched_of_first (l := ((s.mid port).verified.filter (· != page)).take 63) (congrArg Mid.verified hmid) (fun q hq => ?_)
    exact bne_iff_ne.mp (List.mem_filter.mp (List.mem_of_mem_take hq)).2
  rw [(State.serveFar_served port _ n _).2 (fun o ho => by rw [beq_iff_eq.mp ho]; exact hfirst), hmid]

theorem State.notePoison_faults (s : State) (m w addr : Nat) : (s.notePoison m w addr).faults = s.faults := by
  unfold State.notePoison
  extract_lets placed latched
  have hplaced : placed.faults = s.faults := by unfold placed; split <;> rfl
  have hlatched : latched.faults = placed.faults := by unfold latched; split <;> rfl
  exact hlatched.trans hplaced

theorem State.failPage_record (s : State) (port page : Nat) :
    ∃ r, (s.failPage port page).faults.undelivered = s.faults.undelivered ++ [r] ∧ r.code = 0x0407 :=
  ⟨_, (State.raise_undelivered ..).trans (congrArg (·.undelivered ++ [_]) (State.notePoison_faults ..)), rfl⟩

/-- R331: a page that failed has its bit of MID_STATUS and its record, once its requests were served too. -/
theorem State.serveFar_failPage (s : State) {port : Nat} (hport : port < 128) (page n : Nat) (f : MidOp → Bool) :
    let t := State.serveFar port f n (s.failPage port page)
    t.bit (Reg.midStatus port) 6 = true ∧ ∃ r l, t.faults.undelivered = s.faults.undelivered ++ r :: l ∧ r.code = 0x0407 := by
  intro t
  obtain ⟨hserved, -⟩ := State.serveFar_served port f n (s.failPage port page)
  obtain ⟨l, hl⟩ := hserved.records
  obtain ⟨r, hr, hcode⟩ := s.failPage_record port page
  exact ⟨(hserved.bit (midStatus_not_faultAddress hport) (by decide)).trans (State.bit_setBit_raise hport _ (by decide) _),
    r, l, by rw [hl, hr, List.append_assoc]; rfl, hcode⟩

/-- A far port down, its requests still to be served. -/
def State.farLost (s : State) (port : Nat) : State :=
  let e := ((s.setMid port { s.mid port with verified := [], farAttached := false }).setField (Reg.farState port) 0 1 0).setBit (Reg.midStatus port) 7
  e.raise (memFault e 0x0408 (e.partOfSector port) port true 0 0 0)

theorem State.farDown_eq (s : State) (port : Nat) :
    s.farDown port = State.serveFar port (fun _ => true) (s.farLost port).reads.length (s.farLost port) := rfl

theorem State.farLost_mid (s : State) (port : Nat) : (s.farLost port).mid port = { s.mid port with verified := [], farAttached := false } :=
  (State.mid_raise ..).trans (State.mid_setMid_self ..)

theorem State.farLost_state (s : State) {port : Nat} (hport : port < 128) : (s.farLost port).bit (Reg.farState port) 0 = false := by
  have hne : Reg.farState port ≠ Reg.midStatus port := by unfold Reg.farState Reg.midStatus; omega
  refine (State.bit_raise _ _ _ _ (farState_not_faultAddress hport)).trans ((State.bit_congr (State.reg_setBit_other _ _ _ _ hne) 0).trans ?_)
  exact State.bit_clearBit_self _ _ _ (by decide)

/-- R332: a port that is lost is down, its buffer is empty, and every request that waited there was answered. -/
theorem State.farDown_spec (s : State) {port : Nat} (hport : port < 128) : let t := s.farDown port
    t.bit (Reg.farState port) 0 = false ∧ t.bit (Reg.midStatus port) 7 = true ∧ (t.mid port).verified = [] ∧
      (t.mid port).farAttached = false ∧ (∀ o ∈ t.reads, t.opAtFar port o = false) ∧
      ∃ r l, t.faults.undelivered = s.faults.undelivered ++ r :: l ∧ r.code = 0x0408 := by
  intro t
  rw [show t = _ from s.farDown_eq port]
  obtain ⟨hserved, hmid⟩ := State.serveFar_served port (fun _ => true) (s.farLost port).reads.length (s.farLost port)
  obtain ⟨l, hl⟩ := hserved.records
  have hempty := hmid (fun o _ => Mid.touched_of_empty (congrArg Mid.verified (s.farLost_mid port)) (opPage o))
  rw [s.farLost_mid port] at hempty
  refine ⟨?_, ?_, congrArg Mid.verified hempty, congrArg Mid.farAttached hempty, fun o ho => ?_, ?_⟩
  · exact (hserved.bit (farState_not_faultAddress hport) (by decide)).trans (s.farLost_state hport)
  · exact (hserved.bit (midStatus_not_faultAddress hport) (by decide)).trans (State.bit_setBit_raise hport _ (by decide) _)
  · exact (Bool.and_true _).symm.trans (State.serveFar_reads port (fun _ => true) (Nat.le_refl _) o ho)
  · exact ⟨_, l, by rw [hl, State.farLost, State.raise_undelivered, List.append_assoc]; rfl, rfl⟩

end Sys2Proof.Machine
end

section

open Sys2Proof Sys2Proof.Machine

/-- Settles O29: a read, a re-read and a merge are followed case by case; of a far port, serving its requests leaves the status and the buffer
that the event made, and adds but records behind the event's own. That a page which was never written fails is the model's choice (log entry 62). -/
theorem memoryReadsAndRepair : Obligations.MemoryReadsAndRepair := by
  refine ⟨?_, ?_, ?_, ?_, ?_⟩
  · intro p line s o ho code failing again
    refine ⟨fun hf errs => ⟨_, exec_hbmReadDone ho hf errs, ?_⟩, fun hf errs => ⟨_, exec_hbmReread ho hf errs, ?_⟩,
      fun hw reads => ⟨_, exec_sectorMergeWrite ho hw reads, ?_⟩⟩
    · split <;> rfl
    · split
      · split <;> rfl
      · exact ⟨_, rfl, s.rereadPassed_spec p.val line.toNat o.bits⟩
    · dsimp only
      split
      · rfl
      · refine ⟨_, rfl, ?_⟩
        split
        · rfl
        · exact s.rereadPassed_spec p.val line.toNat _
  · intro p line repairRow s o hn hfar g reg ho hp hl
    have hm := s.stackOf_lt p.val (128 * line.toNat) hn
    refine ⟨_, exec_pageRetireDone hfar ho hp hl repairRow, ?_⟩
    exact State.retirePage_spec (s.retiringDone p.val line.toNat) p.val (128 * line.toNat) _ hm repairRow
  · intro stack channel lane s m x key usedKey hfails
    refine ⟨_, exec_hbmLaneRemapped hfails, ?_⟩
    split
    · exact s.laneMoved_spec channel.val key (by omega) usedKey
    · exact s.laneLost_spec channel.val key (by omega)
  · intro port page fails s o ho hup
    refine ⟨_, exec_farPageReadDone ho hup, ?_⟩
    split
    · exact State.serveFar_keepPage ..
    · exact s.serveFar_failPage (by omega) ..
  · intro port s
    refine ⟨_, rfl, ?_⟩
    split
    · exact s.farDown_spec (by omega)
    · rfl

end

section
/-! SUPPORT. Couriers: a record begun or ended, a gate read again, a line, and the end of a record (R333 to R339). -/

namespace Sys2Proof.Machine

/-! COURIER_RECORD_START and COURIER_GATE_REREAD. -/

/-- A record ended with a status: nothing changes but its courier. -/
theorem State.crStop_spec (s : State) (c status : Nat) : let t := s.crStop c status
    t = { s with couriers := t.couriers } ∧ (t.courier c).status = status ∧ (t.courier c).started = true ∧ (t.courier c).st = .running ∧
      ∀ k, k ≠ c → t.courier k = s.courier k := by
  have hself : (s.crStop c status).courier c = _ := State.courier_setCourier_self ..
  refine ⟨rfl, ?_, ?_, ?_, fun k hk => (State.courier_setCourier ..).trans (if_neg hk)⟩ <;> rw [hself]

section
variable {s : State} {c : Nat} (x : MemReads)

theorem State.startNext_poisoned (h : s.poisoned (s.courier c).part = true) : s.startNext c x = s := by
  unfold State.startNext
  simp [h]

theorem State.startNext_ready (hst : (s.courier c).st = .running) (hnew : (s.courier c).started = false) (hhold : (s.courier c).holdNext = false)
    (hp : s.poisoned (s.courier c).part = false) (hph : (s.courier c).pigeonhole = none) : s.startNext c x = s.recordStart c x := by
  unfold State.startNext
  simp [hst, hnew, hhold, hp, hph]

/-- A courier between two records of its chain. -/
def Courier.between (x : Courier) : Courier := { x with status := 0, done := 0, total := 0, doneAddr := 0, next := 0, flush := 0, page := [] }

theorem State.recordStart_stops (h : (s.courier c).cancel = true ∨ (s.courier c).record.toNat % 64 ≠ 0) :
    s.recordStart c x = (s.setCourier c (s.courier c).between).crStop c (if (s.courier c).cancel then 4 else 5) := by
  unfold State.recordStart
  extract_lets cr p w at' e
  by_cases hcancel : cr.cancel = true
  · exact (if_pos hcancel).trans (congrArg (e.crStop c) (if_pos hcancel).symm)
  · exact (if_neg hcancel).trans ((if_pos (h.resolve_left hcancel)).trans (congrArg (e.crStop c) (if_neg hcancel).symm))

/-- R334, R339: a record of a cancelled chain, or at a misaligned address, ends before it begins. -/
theorem State.recordStart_stopped (h : (s.courier c).cancel = true ∨ (s.courier c).record.toNat % 64 ≠ 0) : let t := s.recordStart c x
    t = { s with couriers := t.couriers } ∧ (t.courier c).status = (if (s.courier c).cancel then 4 else 5) ∧ (t.courier c).started = true ∧
      ∀ k, k ≠ c → t.courier k = s.courier k := by
  intro t
  obtain ⟨hframe, hstatus, hstarted, -, hothers⟩ :=
    (s.setCourier c (s.courier c).between).crStop_spec c (if (s.courier c).cancel then 4 else 5)
  rw [show t = _ from State.recordStart_stops x h]
  exact ⟨hframe, hstatus, hstarted, fun k hk => (hothers k hk).trans ((State.courier_setCourier ..).trans (if_neg hk))⟩

/-! Gates. -/

theorem State.crPoison_spec (s : State) (c p addr : Nat) : ((s.crPoison c p addr).courier c).status = 1 ∧
    ((s.crPoison c p addr).courier c).st = .running := by
  obtain ⟨-, hstatus, -, hst, -⟩ := (s.courierFault c 0x0405 addr (s.addrDetail p addr)).crStop_spec c 1
  exact ⟨hstatus, hst⟩

section
variable (hst : (s.courier c).st = .gated) (hp : s.poisoned (s.courier c).part = false)
include hst hp

theorem State.gateAgain_cancelled (h : (s.courier c).cancel = true) : s.gateAgain c x = s.crStop c 4 := by
  unfold State.gateAgain
  simp [hst, hp, h]

theorem State.gateAgain_tries (h : (s.courier c).cancel = false) (hhold : (s.courier c).holdNext = false) : s.gateAgain c x = s.tryGate c x := by
  unfold State.gateAgain
  simp [hst, hp, h, hhold]

end

/-- A courier held until the next tick. -/
theorem State.holdCourier_spec (s : State) (c : Nat) : let t := s.holdCourier c
    t.couriers = s.couriers ∧ Held.courier c ∈ t.held := by
  unfold State.holdCourier
  dsimp only
  split
  · next h => exact ⟨rfl, List.contains_iff_mem.mp h⟩
  · exact ⟨rfl, List.mem_append_right _ List.mem_cons_self⟩

section
variable (hen : (s.courier c).gateEn = true)
include hen

/-- R341: a gate whose read a regulator holds. -/
theorem State.tryGate_held (h : s.crAsk (s.courier c).part (s.courier c).slice ((s.courier c).gateAddr.toNat / 128) x = none) :
    let t := s.tryGate c x
    (t.courier c).st = .gated ∧ Held.courier c ∈ t.held := by
  intro t
  have ht : t = (s.setCourier c { s.courier c with st := .gated }).holdCourier c := by
    unfold t State.tryGate
    dsimp only
    rw [if_neg (by rw [hen]; exact Bool.false_ne_true), h]
  obtain ⟨hcouriers, hheld⟩ := (s.setCourier c { s.courier c with st := .gated }).holdCourier_spec c
  rw [← ht] at hcouriers hheld
  refine ⟨?_, hheld⟩
  unfold State.courier
  rw [hcouriers]
  exact congrArg Courier.st (State.courier_setCourier_self s c _)

/-- A gate whose word was read. -/
theorem State.tryGate_read {u e : State} {code : FillCode} {word : Nat}
    (h : s.crAsk (s.courier c).part (s.courier c).slice ((s.courier c).gateAddr.toNat / 128) x = some u)
    (hword : u.crWord c (s.courier c).part (s.courier c).gateAddr.toNat 4 = (code, word, e)) :
    s.tryGate c x = if code = .poisoned then e.crPoison c (s.courier c).part (s.courier c).gateAddr.toNat
      else if gateOpen (BitVec.ofNat 32 word) (s.courier c).gateValue then e.setCourier c { s.courier c with st := .running, started := true }
      else e.setCourier c { s.courier c with st := .gated } := by
  unfold State.tryGate
  dsimp only
  rw [if_neg (by rw [hen]; exact Bool.false_ne_true), h]
  dsimp only
  rw [hword]
  cases code <;> rfl

/-- R323, R336: a poisoned word ends the record with status 1; any other lets it begin where it has reached the gate's value. -/
theorem State.tryGate_spec {u : State} (h : s.crAsk (s.courier c).part (s.courier c).slice ((s.courier c).gateAddr.toNat / 128) x = some u) :
    let r := u.crWord c (s.courier c).part (s.courier c).gateAddr.toNat 4; let t := s.tryGate c x
    if r.1 = .poisoned then (t.courier c).status = 1 ∧ (t.courier c).st = .running
    else (t.courier c).st = (if (BitVec.ofNat 32 r.2.1 - (s.courier c).gateValue).toNat < 2 ^ 31 then .running else .gated) := by
  intro r t
  rw [show t = _ from State.tryGate_read x hen h (code := r.1) (word := r.2.1) (e := r.2.2) rfl]
  unfold gateOpen
  by_cases hpoison : r.1 = .poisoned
  · rw [if_pos hpoison, if_pos hpoison]
    exact State.crPoison_spec ..
  · rw [if_neg hpoison, if_neg hpoison]
    by_cases hopen : (BitVec.ofNat 32 r.2.1 - (s.courier c).gateValue).toNat < 2 ^ 31
    · rw [if_pos (decide_eq_true hopen), if_pos hopen, State.courier_setCourier_self]
    · rw [if_neg (mt of_decide_eq_true hopen), if_neg hopen, State.courier_setCourier_self]

end

end

/-! COURIER_LINE. -/

theorem exec_courierLine (c : Fin 448) (x : MemReads) (s : State) : exec (.courierLine c x none) s = .next (s.courierLine c.val x).progressAll :=
  congrArg next (ite_self _)

/-- The next line of a courier's record is due, and its source is up (R332, R335, R339). -/
structure State.LineDue (s : State) (c : Nat) : Prop where
  running : (s.courier c).st = .running
  started : (s.courier c).started = true
  sound : (s.courier c).status = 0
  left : (s.courier c).done < (s.courier c).total
  unpoisoned : s.poisoned (s.courier c).part = false
  wanted : (s.courier c).cancel = false
  up : s.crDown (s.courier c).part ((s.courier c).src.toNat + 128 * (s.courier c).done) = false

section
variable {s : State} {c : Nat} (x : MemReads) (h : s.LineDue c)
include h

/-- R334: a line killed. -/
theorem State.courierLine_kill (hop : (s.courier c).op = 3) (hmem : (s.courier c).src.toNat + 128 * (s.courier c).done < hcStart) :
    s.courierLine c x = (s.killLineAt (s.courier c).part (((s.courier c).src.toNat + 128 * (s.courier c).done) / 128)).crMoved c := by
  unfold State.courierLine
  simp [h.running, h.started, h.sound, h.left, h.unpoisoned, h.wanted, h.up, hop, hmem]

/-- R334: a line delivered. -/
theorem State.courierLine_deliver {u : State} (hop : (s.courier c).op = 2) (hmem : (s.courier c).src.toNat + 128 * (s.courier c).done < hcStart)
    (hu : s.crAsk (s.courier c).part (s.courier c).slice (((s.courier c).src.toNat + 128 * (s.courier c).done) / 128) x = some u) :
    s.courierLine c x = (u.crSide (s.courier c).part (((s.courier c).src.toNat + 128 * (s.courier c).done) / 128)).crMoved c := by
  unfold State.courierLine
  simp [h.running, h.started, h.sound, h.left, h.unpoisoned, h.wanted, h.up, hop, hmem, hu]

/-- R331, R335, R341: a line copied, its source read and its destination metered. -/
theorem State.courierLine_copy {u v y : State} {data : LineData} (hop : (s.courier c).op = 1)
    (hdst : s.crDown (s.courier c).part ((s.courier c).dst.toNat + 128 * (s.courier c).done) = false)
    (hlink : s.hostUp (s.courier c).part = true) (hroom : s.hostRoom (s.courier c).part = true) (hask : s.mayAsk (s.courier c).part = true)
    (hu : s.crAsk (s.courier c).part (s.courier c).slice (((s.courier c).src.toNat + 128 * (s.courier c).done) / 128) x = some u)
    (hv : (if u.renews (s.courier c) ((s.courier c).dst.toNat + 128 * (s.courier c).done)
      then u.chargeLine (s.courier c).part (s.courier c).slice (((s.courier c).dst.toNat + 128 * (s.courier c).done) / 128)
      else u.crAskWrite (s.courier c).part (s.courier c).slice (((s.courier c).dst.toNat + 128 * (s.courier c).done) / 128)
        { x with tagFails := 0 }) = some v)
    (hread : v.crRead c (s.courier c).part ((s.courier c).src.toNat + 128 * (s.courier c).done) = (some data, y)) :
    s.courierLine c x = (y.crPut c ((s.courier c).dst.toNat + 128 * (s.courier c).done) data).crMoved c := by
  unfold State.courierLine
  simp [h.running, h.started, h.sound, h.left, h.unpoisoned, h.wanted, h.up, hop, hdst, hlink, hroom, hask, hu, hv, hread]

end

/-! COURIER_RECORD_DONE. -/

section
variable {s u : State} {c : Nat} (hst : (s.courier c).st = .running) (hstarted : (s.courier c).started = true)
  (hover : (s.courier c).status ≠ 0 ∨ (s.courier c).total ≤ (s.courier c).done) (hp : s.poisoned (s.courier c).part = false)
  (hpage : (s.courier c).page = []) (hflush : s.crFlush (s.courier c) = false)
  (hask : hcStart ≤ (s.courier c).doneAddr.toNat → s.mayAsk (s.courier c).part = true)
  (hu : (if (s.courier c).doneAddr = 0 then some s else s.crAskWrite (s.courier c).part (s.courier c).slice
    ((s.courier c).doneAddr.toNat / 128) { hbm := [], tagFails := 0 }) = some u)
include hst hstarted hover hp hpage hflush hask hu

/-- R337, R338: a record whose lines are done writes its status, and the next record begins or the chain ends. -/
theorem State.recordDone_eq : s.recordDone c = if (s.courier c).status ≠ 0 ∨ (s.courier c).next = 0
    then (u.doneWrite (s.courier c)).endChain c (s.courier c).status
    else (u.doneWrite (s.courier c)).setCourier c { s.courier c with record := (s.courier c).next, started := false, lastStatus := 0 } := by
  have hlines : ¬((s.courier c).status = 0 ∧ (s.courier c).done < (s.courier c).total) := by omega
  have hwait : ¬(hcStart ≤ (s.courier c).doneAddr.toNat ∧ s.mayAsk (s.courier c).part = false) := fun ⟨hfar, hno⟩ => by
    rw [hask hfar] at hno
    cases hno
  unfold State.recordDone
  simp only [hst, hstarted, hp, hpage, hflush, hu, hlines, hwait, Bool.not_eq_true', List.isEmpty_nil]
  by_cases hstatus : (s.courier c).status = 0
  · simp [hstatus]
  · simp [hstatus]

end

end Sys2Proof.Machine
end

section
/-! SUPPORT. The regulators: the refilling of buckets, and a request granted or held (R340, R341, R344). -/

namespace Sys2Proof.Machine

/-! Sorted tables. -/

theorem Tab.get_of_mem {α : Type} {t : Tab α} (hs : Tab.sorted t = true) {k : Nat} {v : α} (h : (k, v) ∈ t) : Tab.get t k = some v := by
  induction t with
  | nil => cases h
  | cons e t ih =>
    obtain ⟨j, w⟩ := e
    obtain ⟨habove, hsorted⟩ := (Tab.sorted_cons j w t).mp hs
    unfold Tab.get
    rcases List.mem_cons.mp h with heq | hmem
    · cases heq
      exact if_pos rfl
    · have hlt : j < k := habove _ hmem
      rw [if_neg (Nat.ne_of_lt hlt), if_neg (Nat.lt_asymm hlt)]
      exact ih hsorted hmem

theorem Tab.nodup_keys {α : Type} {t : Tab α} (hs : Tab.sorted t = true) : (t.map (·.1)).Nodup := by
  induction t with
  | nil => exact List.nodup_nil
  | cons e t ih =>
    obtain ⟨habove, hsorted⟩ := (Tab.sorted_cons e.1 e.2 t).mp hs
    refine List.nodup_cons.mpr ⟨fun hmem => ?_, ih hsorted⟩
    obtain ⟨x, hx, heq⟩ := List.mem_map.mp hmem
    exact Nat.ne_of_lt (habove x hx) heq.symm

/-! REGULATOR_TICK. -/

/-- A bucket's level after a tick, at the address of its rate (R341). -/
def State.refilled (s : State) (a : Nat) : W32 :=
  BitVec.ofInt 32 (min ((s.reg (a + 8)).toInt + s.field a 0 24) (16 * (s.field (a + 4) 0 24 : Int)))

theorem State.refill_eq (s : State) (a : Nat) : s.refill a = s.setReg (a + 8) (s.refilled a) := rfl

/-- The level of a bucket is no register of another bucket. -/
theorem State.refilled_setReg (s : State) {a b : Nat} (v : W32) (ha : a % 16 = 0) (hb : b % 16 = 0) (hne : b ≠ a) :
    (s.setReg (a + 8) v).refilled b = s.refilled b := by
  unfold State.refilled State.field
  rw [State.reg_setReg_other _ _ _ _ (by omega), State.reg_setReg_other _ _ _ _ (by omega), State.reg_setReg_other _ _ _ _ (by omega)]

/-- Buckets refilled one after another: each level is raised once, from what stood before. -/
theorem State.reg_foldl_refill {l : List Nat} (hmod : ∀ a ∈ l, a % 16 = 0) (hnodup : l.Nodup) (s : State) (b : Nat) :
    (l.foldl State.refill s).reg b = if 8 ≤ b ∧ b - 8 ∈ l then s.refilled (b - 8) else s.reg b := by
  induction l generalizing s with
  | nil => exact (if_neg (fun h => List.not_mem_nil h.2)).symm
  | cons a l ih =>
    obtain ⟨ha, hl⟩ := List.forall_mem_cons.mp hmod
    obtain ⟨hfirst, hrest⟩ := List.nodup_cons.mp hnodup
    rw [List.foldl_cons, ih hl hrest, s.refill_eq]
    by_cases hlater : 8 ≤ b ∧ b - 8 ∈ l
    · obtain ⟨hb, hmem⟩ := hlater
      rw [if_pos ⟨hb, hmem⟩, if_pos ⟨hb, List.mem_cons_of_mem _ hmem⟩]
      exact s.refilled_setReg _ ha (hl _ hmem) (fun e => hfirst (e ▸ hmem))
    · rw [if_neg hlater, State.reg_setReg]
      by_cases hb : b = a + 8
      · rw [if_pos hb, hb, if_pos ⟨Nat.le_add_left 8 a, by rw [Nat.add_sub_cancel]; exact List.mem_cons_self⟩, Nat.add_sub_cancel]
      · rw [if_neg hb, if_neg (fun ⟨hle, hmem⟩ => (List.mem_cons.mp hmem).elim (fun e => hb (by omega)) (fun hm => hlater ⟨hle, hm⟩))]

/-- The rates of the enabled buckets, by their addresses. -/
def State.rates (s : State) : List Nat :=
  (s.regs.filter (fun e => decide (0x9000 ≤ e.1) && decide (e.1 < 0xF000) && e.1 % 16 == 0 && e.2.getLsbD 31)).map (·.1)

theorem State.mem_rates {s : State} (hs : Tab.sorted s.regs = true) (a : Nat) :
    a ∈ s.rates ↔ 0x9000 ≤ a ∧ a < 0xF000 ∧ a % 16 = 0 ∧ (Tab.getD s.regs a 0).getLsbD 31 = true := by
  unfold State.rates
  simp only [List.mem_map, List.mem_filter, Bool.and_eq_true, decide_eq_true_eq, beq_iff_eq, Prod.exists, exists_and_right, exists_eq_right]
  constructor
  · rintro ⟨v, hmem, ⟨⟨hlo, hhi⟩, hmod⟩, hen⟩
    refine ⟨hlo, hhi, hmod, ?_⟩
    rw [Tab.getD, Tab.get_of_mem hs hmem]
    exact hen
  · rintro ⟨hlo, hhi, hmod, hen⟩
    cases hget : Tab.get s.regs a with
    | none =>
      rw [Tab.getD, hget] at hen
      cases hen
    | some v =>
      rw [Tab.getD, hget] at hen
      exact ⟨v, Tab.mem_of_get _ _ _ hget, ⟨⟨hlo, hhi⟩, hmod⟩, hen⟩

/-- The enabled buckets refilled, no grant of the tick before standing. -/
def State.refillAll (s : State) : State := s.rates.foldl State.refill { s with granted := [] }

theorem State.refillAll_frame (s : State) : s.refillAll = { s with regs := s.refillAll.regs, granted := [] } :=
  List.foldlRecOn s.rates State.refill (motive := fun t : State => t = { s with regs := t.regs, granted := [] }) rfl
    (fun t ht a _ => by rw [ht]; rfl)

theorem exec_regulatorTick {s : State} (h : s.held = []) : exec .regulatorTick s = .next s.refillAll := by
  have hheld : s.refillAll.held = [] := (congrArg State.held s.refillAll_frame).trans h
  calc
    exec .regulatorTick s = .next (s.refillAll.held.foldl State.offer { s.refillAll with held := [] }) := rfl
    _ = .next { s.refillAll with held := s.refillAll.held } := by rw [hheld]; rfl

/-- R341: a tick raises the level of each enabled bucket by its rate, to at most 16 times its depth, and no other register changes. -/
theorem State.reg_refillAll {s : State} (hs : Tab.sorted s.regs = true) (b : Nat) :
    s.refillAll.reg b = if 8 ≤ b ∧ b - 8 ∈ s.rates then s.refilled (b - 8) else s.reg b := by
  have hmod : ∀ a ∈ s.rates, a % 16 = 0 := fun a ha => by
    obtain ⟨-, -, hmod, -⟩ := (State.mem_rates hs a).mp ha
    exact hmod
  exact State.reg_foldl_refill hmod ((Tab.nodup_keys hs).sublist (List.filter_sublist.map _)) _ b

/-! A request metered. -/

/-- What a granted request leaves of its bucket's level. -/
def State.drawn (s : State) (region i cost : Nat) : State :=
  if s.bit (Reg.bktRate region i) 31 ∧ 0 < s.bucketLevel region i
  then s.setReg (Reg.bktLevel region i) (BitVec.ofInt 32 (s.bucketLevel region i - cost)) else s

section
variable {s : State} {region i : Nat} (cost : Nat)

theorem State.drawn_of_positive (hen : s.bit (Reg.bktRate region i) 31 = true) (hlevel : 0 < s.bucketLevel region i) :
    s.drawn region i cost = s.setReg (Reg.bktLevel region i) (BitVec.ofInt 32 (s.bucketLevel region i - cost)) := if_pos ⟨hen, hlevel⟩

theorem State.drawn_of_free (h : s.bit (Reg.bktRate region i) 31 = false ∨ s.bucketLevel region i ≤ 0) : s.drawn region i cost = s :=
  if_neg (fun ⟨hen, hlevel⟩ => h.elim (fun hdis => by rw [hdis] at hen; cases hen) (Int.not_le.mpr hlevel))

end

/-- A granted request drawn from its bucket and counted. -/
def State.metered (s : State) (region i cost lines : Nat) : State := (s.drawn region i cost).count (Reg.bktGranted region i) lines

theorem State.metered_frame (s : State) (region i cost lines : Nat) : let e := s.metered region i cost lines
    e = { s with regs := (s.drawn region i cost).regs, accum := e.accum, ahead := e.ahead } := by
  have hdrawn : ∃ l, s.drawn region i cost = { s with regs := l } := by
    unfold State.drawn
    split
    · exact ⟨_, rfl⟩
    · exact ⟨s.regs, rfl⟩
  obtain ⟨l, hl⟩ := hdrawn
  unfold State.metered State.count State.tally
  rw [hl]
  split <;> rfl

/-- R341, R344: what granting a request changes. -/
theorem State.grant_spec (s : State) (region i cost lines : Nat) : let t := s.grant region i cost lines
    bucketResource region i ∈ t.granted ∧ t = { s with regs := t.regs, accum := t.accum, ahead := t.ahead, granted := t.granted } ∧
      t.regs = (s.drawn region i cost).regs := by
  intro t
  have hframe := s.metered_frame region i cost lines
  have hregs := congrArg State.regs hframe
  have ht : t = if (s.metered region i cost lines).granted.contains (bucketResource region i) then s.metered region i cost lines
    else { s.metered region i cost lines with granted := (s.metered region i cost lines).granted ++ [bucketResource region i] } := rfl
  by_cases hgranted : (s.metered region i cost lines).granted.contains (bucketResource region i) = true
  · rw [show t = _ from ht.trans (if_pos hgranted)]
    exact ⟨List.contains_iff_mem.mp hgranted, by rw [hframe], hregs⟩
  · rw [show t = _ from ht.trans (if_neg hgranted)]
    exact ⟨List.mem_append_right _ List.mem_cons_self, by rw [hframe], hregs⟩

theorem State.charge_granted {s : State} {region i : Nat} (cost lines : Nat) (h : s.bit (Reg.bktRate region i) 31 = false ∨
    0 < s.bucketLevel region i ∨ (s.bit (Reg.bktRate region i) 30 = true ∧ bucketResource region i ∉ s.granted)) :
    s.charge region i cost lines = some (s.grant region i cost lines) := by
  unfold State.charge State.grants
  refine if_pos ?_
  rcases h with h | h | ⟨hidle, hnobody⟩
  · rw [h]
    rfl
  · rw [decide_eq_true h, Bool.or_true]
    rfl
  · rw [hidle, Bool.eq_false_iff.mpr (mt List.contains_iff_mem.mp hnobody)]
    exact Bool.or_true _

theorem State.charge_held {s : State} {region i : Nat} (cost lines : Nat) (hen : s.bit (Reg.bktRate region i) 31 = true)
    (hlevel : s.bucketLevel region i ≤ 0) (hbusy : s.bit (Reg.bktRate region i) 30 = false ∨ bucketResource region i ∈ s.granted) :
    s.charge region i cost lines = none := by
  unfold State.charge State.grants
  refine if_neg ?_
  rw [hen, decide_eq_false (Int.not_lt.mpr hlevel)]
  rcases hbusy with h | h
  · rw [h]
    exact Bool.false_ne_true
  · rw [List.contains_iff_mem.mpr h, Bool.not_true, Bool.and_false]
    exact Bool.false_ne_true

end Sys2Proof.Machine
end

section

open Sys2Proof Sys2Proof.Machine

/-- Settles O30: a courier is followed event by event to the state it leaves, a line being moved in one command (log entry 37). The rates of
a sorted table are all different, so that a tick raises each level once. -/
theorem couriersAndRegulators : Obligations.CouriersAndRegulators := by
  refine ⟨⟨?_, ?_, ?_, ?_⟩, ?_, ?_⟩
  · intro c x s cr
    refine ⟨fun hst hnew hhold hp hph => ?_, fun hp => ⟨_, rfl, State.startNext_poisoned x hp⟩⟩
    have hstart := State.startNext_ready x hst hnew hhold hp hph
    refine ⟨fun hstops => ⟨_, congrArg next hstart, State.recordStart_stopped x hstops⟩, _, rfl, hstart⟩
  · intro c x s cr hst hp hhold
    refine ⟨_, rfl, fun hcancel => ?_, fun hcancel hen => ?_⟩
    · rw [State.gateAgain_cancelled x hst hp hcancel]
      obtain ⟨-, hstatus, -, hrunning, -⟩ := s.crStop_spec c.val 4
      exact ⟨hstatus, hrunning⟩
    · rw [State.gateAgain_tries x hst hp hcancel hhold]
      split
      · next hask => exact State.tryGate_held x hen hask
      · next u hask => exact State.tryGate_spec x hen hask
  · intro c x s cr src dst hst hstarted hstatus hleft hp hcancel hsrc
    have hdue : s.LineDue c.val := ⟨hst, hstarted, hstatus, hleft, hp, hcancel, hsrc⟩
    refine ⟨fun hop hmem => ?_, fun hop u hmem hu => ?_, fun hop hdst hlink hroom hask u v y data hu hv hread => ?_⟩
    · exact ⟨_, exec_courierLine c x s, congrArg State.progressAll (State.courierLine_kill x hdue hop hmem)⟩
    · exact ⟨_, exec_courierLine c x s, congrArg State.progressAll (State.courierLine_deliver x hdue hop hmem hu)⟩
    · exact ⟨_, exec_courierLine c x s, congrArg State.progressAll (State.courierLine_copy x hdue hop hdst hlink hroom hask hu hv hread)⟩
  · intro c s u cr hst hstarted hover hp hpage hflush hask hu
    refine ⟨_, congrArg next (State.recordDone_eq hst hstarted hover hp hpage hflush hask hu), ?_⟩
    split
    · rfl
    · rw [State.courier_setCourier_self]
      exact ⟨rfl, rfl, rfl, rfl⟩
  · intro s hheld hs
    refine ⟨_, exec_regulatorTick hheld, s.refillAll_frame, fun b => (State.reg_refillAll hs b).trans ?_⟩
    by_cases hb : 8 ≤ b ∧ b - 8 ∈ s.rates
    · obtain ⟨hle, hmem⟩ := hb
      obtain ⟨hlo, hhi, hmod, hen⟩ := (State.mem_rates hs _).mp hmem
      rw [if_pos ⟨hle, hmem⟩, if_pos ⟨hlo, hhi, hmod, hle, hen⟩, State.refilled, Nat.sub_add_cancel hle, show b - 8 + 4 = b - 4 by omega]
    · rw [if_neg hb, if_neg (fun ⟨hlo, hhi, hmod, hle, hen⟩ => hb ⟨hle, (State.mem_rates hs _).mpr ⟨hlo, hhi, hmod, hen⟩⟩)]
  · intro s region i cost lines rate level
    refine ⟨fun h => ?_, fun hen hlevel hbusy => State.charge_held cost lines hen hlevel hbusy⟩
    obtain ⟨hgranted, hframe, hregs⟩ := s.grant_spec region i cost lines
    refine ⟨_, State.charge_granted cost lines h, hgranted, hframe, fun hen hpos => ?_, fun hstays => ?_⟩
    · rw [State.drawn_of_positive cost hen hpos] at hregs
      exact (congrArg (fun l => Tab.getD l (Reg.bktLevel region i) _) hregs).trans (Tab.getD_put_self ..)
    · rw [hregs, State.drawn_of_free cost hstays]

end

section
/-! SUPPORT. Strings and their halves: which half is which, what passing a packet on changes, and the cases of a packet that arrives (R351 to
R353). -/

namespace Sys2Proof.Machine

/-! Which half is which. -/

/-- A course leads away from its site. -/
theorem farUnit_ne {site : Nat} (hsite : site < 108) (c : Nat) : farUnit site c ≠ site := by
  unfold farUnit siteCol
  split
  · split
    · omega
    · split
      · omega
      · split <;> omega
  all_goals split <;> omega

/-- What a die sends on is none of the halves it receives on. -/
theorem sendKey_ne_recvKey {site c str : Nat} (hsite : site < 108) (hc : c < 4) (hstr : str < 32) (c' : Nat) {str' : Nat} (hstr' : str' < 32) :
    sendKey site c' str' ≠ recvKey site c str := by
  have hfar := farUnit_ne hsite c'
  unfold sendKey
  extract_lets u
  split
  · unfold recvKey facing
    omega
  · unfold recvKey
    omega

/-! Link control. -/

@[simp] theorem State.half_sendControl_self (s : State) (site c str type count : Nat) : let k := sendKey site c str
    (s.sendControl site c str type count).half k =
      { s.half k with control := (s.half k).control ++ [controlPacket type (farUnit site c) site count] } :=
  State.half_setHalf_self _ _ _

theorem State.half_sendControl_other (s : State) (site c str type count : Nat) {k : Nat} (h : k ≠ sendKey site c str) :
    (s.sendControl site c str type count).half k = s.half k :=
  (State.half_setHalf _ _ _ _).trans (if_neg h)

/-! A packet passed on. -/

/-- From s to t a site passed packets on: packets wait or are to be sent, on a half that the site sends on or on a transit path, and nothing else
changed. -/
structure PassedOn (site : Nat) (s t : State) : Prop where
  frame : t = { s with halves := t.halves, holds := t.holds, transit := t.transit }
  replayOnly : ∀ k, t.half k = { s.half k with replay := (t.half k).replay }
  sendsOn : ∀ k, (∀ c str, str < 32 → k ≠ sendKey site c str) → t.half k = s.half k

theorem PassedOn.refl (site : Nat) (s : State) : PassedOn site s s := ⟨rfl, fun _ => rfl, fun _ _ => rfl⟩

theorem State.sendString_passedOn (s : State) (site c : Nat) (k : Packet) : PassedOn site s (s.sendString site c k) := by
  unfold State.sendString
  extract_lets l
  split
  · exact PassedOn.refl site s
  · next i hi =>
    have hstr : i < 32 := List.mem_range.mp (List.mem_filter.mp (List.mem_of_getElem? hi)).1
    refine ⟨rfl, fun j => ?_, fun j hj => ?_⟩
    · rw [State.half_setHalf]
      split
      · next h => rw [h]
      · rfl
    · exact (State.half_setHalf _ _ _ _).trans (if_neg (hj c i hstr))

theorem State.sendOrdinary_passedOn (s : State) (site c : Nat) (k : Packet) : PassedOn site s (s.sendOrdinary site c k) := by
  unfold State.sendOrdinary
  split
  · exact ⟨rfl, fun _ => rfl, fun _ _ => rfl⟩
  · exact s.sendString_passedOn site c k

theorem State.forward_passedOn (s : State) (site : Nat) (k : Packet) : PassedOn site s (s.forward site k) := by
  unfold State.forward
  extract_lets p l port
  split
  · exact PassedOn.refl site s
  · split
    · exact PassedOn.refl site s
    · split
      · exact ⟨rfl, fun _ => rfl, fun _ _ => rfl⟩
      · exact s.sendOrdinary_passedOn site _ k

/-! A packet that arrives (R351, R352). -/

/-- What mismatching lanes add to the counts of a half. -/
theorem getD_countLanes (lane : Nat → Bool) (t : Tab Nat) (n i : Nat) :
    Tab.getD ((List.range n).foldl (fun t i => if lane i then Tab.modify t i 0 (· + 1) else t) t) i 0 =
      Tab.getD t i 0 + if i < n ∧ lane i = true then 1 else 0 := by
  induction n with
  | zero => simp
  | succ n ih =>
    rw [List.range_succ, List.foldl_append, List.foldl_cons, List.foldl_nil]
    by_cases hn : i = n
    · subst hn
      rw [if_neg (by omega)] at ih
      split
      · next h => rw [Tab.getD_modify, if_pos rfl, ih, if_pos ⟨Nat.lt_succ_self i, h⟩]
      · next h => rw [ih, if_neg (fun hi => h hi.2)]
    · have hlt : i < n + 1 ↔ i < n := by omega
      simp only [hlt]
      refine Eq.trans ?_ ih
      split
      · rw [Tab.getD_modify, if_neg hn]
      · rfl

/-- A half of a string in service, of a course that is up, that takes packets. -/
structure State.Takes (s : State) (site c str : Nat) : Prop where
  up : s.courseUp site c = true
  inService : s.bit (Reg.lanemap site (32 * c + str)) 18 = false
  discards : (s.half (recvKey site c str)).discarding = false

/-- What passes of a packet: trailer, header parity and shape. -/
structure PacketPasses (k : Packet) : Prop where
  trailer : packetTrailer k ^^^ k.trailer = 0
  parity : oddParity k.header = false
  shape : k.wf = true

/-- The state in which a half has accepted a packet, and acknowledged the sixteenth since its last acknowledgement. -/
def State.acceptedOn (s : State) (site c str : Nat) : State :=
  let key := recvKey site c str
  let h := s.half key
  let e := s.setHalf key { h with accepted := h.accepted + 1, sinceAck := if h.sinceAck + 1 = 16 then 0 else h.sinceAck + 1 }
  if h.sinceAck + 1 = 16 then e.sendControl site c str 0xC (h.accepted + 1) else e

section
variable {s : State} {site c str : Nat}

theorem State.acceptedOn_frame : s.acceptedOn site c str = { s with halves := (s.acceptedOn site c str).halves } := by
  unfold State.acceptedOn
  extract_lets key h e
  split <;> rfl

variable (hne : sendKey site c str ≠ recvKey site c str)
include hne

theorem State.half_acceptedOn_recv : let h := s.half (recvKey site c str)
    (s.acceptedOn site c str).half (recvKey site c str) =
      { h with accepted := h.accepted + 1, sinceAck := if h.sinceAck + 1 = 16 then 0 else h.sinceAck + 1 } := by
  intro h
  unfold State.acceptedOn
  extract_lets key g e
  have he : e.half key = { h with accepted := h.accepted + 1, sinceAck := if h.sinceAck + 1 = 16 then 0 else h.sinceAck + 1 } :=
    State.half_setHalf_self _ _ _
  rw [← he]
  split
  · exact State.half_sendControl_other _ _ _ _ _ _ hne.symm
  · rfl

theorem State.control_acceptedOn_send : let h := s.half (recvKey site c str)
    ((s.acceptedOn site c str).half (sendKey site c str)).control = (s.half (sendKey site c str)).control ++
      if h.sinceAck + 1 = 16 then [controlPacket 0xC (farUnit site c) site (h.accepted + 1)] else [] := by
  intro h
  unfold State.acceptedOn
  extract_lets key g e
  have he : e.half (sendKey site c str) = s.half (sendKey site c str) := (State.half_setHalf _ _ _ _).trans (if_neg hne)
  split
  · rw [State.half_sendControl_self, he]
  · rw [he, List.append_nil]

end

section
variable {s : State} {site c str : Nat} {k : Packet}

theorem State.takes_of_not_idle (h : ¬(s.courseUp site c = false ∨ s.bit (Reg.lanemap site (32 * c + str)) 18 = true ∨
    (s.half (recvKey site c str)).discarding = true)) : s.Takes site c str := by
  simp only [not_or, Bool.not_eq_false, Bool.not_eq_true] at h
  obtain ⟨hup, hin, hdis⟩ := h
  exact ⟨hup, hin, hdis⟩

theorem State.receive_idle (h : s.courseUp site c = false ∨ s.bit (Reg.lanemap site (32 * c + str)) 18 = true ∨
    (s.half (recvKey site c str)).discarding = true) : s.receive site c str k = s :=
  if_pos (h.imp_left (fun hup => by rw [hup]; rfl))

/-- A packet that fails: its lanes are counted, what follows is discarded, and a RETRY asks for it again. -/
theorem State.receive_failed (ht : s.Takes site c str) (hk : ¬PacketPasses k) : let key := recvKey site c str; let h := s.half key
    let bad := packetTrailer k ^^^ k.trailer
    s.receive site c str k = (s.setHalf key { h with
      mismatches := (List.range 64).foldl (fun t i => if bad.getLsbD i then Tab.modify t i 0 (· + 1) else t) h.mismatches,
      discarding := true, resend := h.accepted }).sendControl site c str 0xA h.accepted := by
  obtain ⟨hup, hin, hdis⟩ := ht
  unfold State.receive
  extract_lets key h bad mism
  rw [if_neg (by simp [h, key, hup, hin, hdis]), if_pos]
  by_contra hall
  simp only [ne_eq, not_or, Decidable.not_not, Bool.not_eq_true, Bool.not_eq_false'] at hall
  obtain ⟨htrailer, hparity, hshape⟩ := hall
  exact hk ⟨htrailer, hparity, hshape⟩

/-- A packet of link control is not numbered (log entry 42). -/
theorem State.receive_control (ht : s.Takes site c str) (hk : PacketPasses k) (htype : k.type = 0x9 ∨ k.type = 0xA ∨ k.type = 0xC) :
    s.receive site c str k = s := by
  obtain ⟨hup, hin, hdis⟩ := ht
  obtain ⟨htrailer, hparity, hshape⟩ := hk
  unfold State.receive
  extract_lets key h bad mism n ack
  rw [if_neg (by simp [h, key, hup, hin, hdis]), if_neg (by simp [bad, htrailer, hparity, hshape]), if_pos htype]

/-- A packet that carries data: counted, acknowledged at every sixteenth, and passed on. -/
theorem State.receive_accepted (ht : s.Takes site c str) (hk : PacketPasses k) (htype : ¬(k.type = 0x9 ∨ k.type = 0xA ∨ k.type = 0xC)) :
    s.receive site c str k = (s.acceptedOn site c str).forward site k := by
  obtain ⟨hup, hin, hdis⟩ := ht
  obtain ⟨htrailer, hparity, hshape⟩ := hk
  unfold State.receive
  extract_lets key h bad mism n ack e t
  rw [if_neg (by simp [h, key, hup, hin, hdis]), if_neg (by simp [bad, htrailer, hparity, hshape]), if_neg htype]
  rfl

end

/-! RETRY, PACKET_ACKNOWLEDGEMENT and BEACON on a course that is up. -/

/-- What a window has counted for a register, by units before its end and past it. -/
theorem State.counted_count (s : State) (a n : Nat) :
    Tab.getD (s.count a n).accum a 0 + Tab.getD (s.count a n).ahead a 0 = Tab.getD s.accum a 0 + Tab.getD s.ahead a 0 + n := by
  unfold State.count State.tally
  split
  · simp only [Tab.getD_modify, if_true]
    omega
  · simp only [Tab.getD_modify, if_true]
    omega

theorem State.releaseCourse_none {s : State} {site c : Nat} (h : Tab.get s.holds (4 * site + c) = none) : s.releaseCourse site c = s := by
  unfold State.releaseCourse
  rw [h]

/-- The count that a RETRY may carry: a compute die asks for the first packet that it discarded, an edge die for any packet in flight (log
entry 42). -/
def AsksFor (site : Fin 108) (course : Fin 4) (str : Fin 32) (count : BitVec 41) (s : State) : Prop :=
  let h := s.half (sendKey site.val course.val str.val)
  if farUnit site.val course.val < 108 then h.discarding = true ∧ h.resend = count.toNat
  else h.base ≤ count.toNat ∧ count.toNat < h.base + min 64 h.replay.length

section
variable {site : Fin 108} {course : Fin 4} {str : Fin 32} {s : State} (count : BitVec 41) (hup : s.courseUp site.val course.val = true)
include hup

theorem exec_retry_asked (h : AsksFor site course str count s) : let k := sendKey site.val course.val str.val
    exec (.retry site course str count) s =
      next ((s.setHalf k { s.half k with discarding := false }).count (Reg.retries site.val course.val) 1) := by
  intro k
  refine congrArg next (if_neg ?_)
  unfold AsksFor at h
  split at h
  · next hfar => simpa [hup, hfar] using h
  · next hfar => simpa [hup, hfar] using h

omit hup in
theorem exec_retry_unasked (h : ¬AsksFor site course str count s) : exec (.retry site course str count) s = next s := by
  refine congrArg next (if_pos (Or.inr ?_))
  rw [Bool.not_eq_true', ← Bool.not_eq_true]
  intro hasked
  refine h ?_
  unfold AsksFor
  split
  · next hfar => simpa [hfar] using hasked
  · next hfar => simpa [hfar] using hasked

theorem exec_packetAcknowledgement : let k := sendKey site.val course.val str.val; let h := s.half k
    exec (.packetAcknowledgement site course str count) s = next (
      if h.base < count.toNat ∧ count.toNat ≤ h.base + min 64 h.replay.length then
        (s.setHalf k { h with replay := h.replay.drop (count.toNat - h.base), base := count.toNat }).releaseCourse site.val course.val
      else s) := by
  intro k h
  refine congrArg next ?_
  by_cases hin : h.base < count.toNat ∧ count.toNat ≤ h.base + min 64 h.replay.length
  · rw [if_pos hin]
    refine if_neg ?_
    simp only [hup, Bool.not_true, Bool.false_eq_true, false_or, h, k] at hin ⊢
    omega
  · rw [if_neg hin]
    refine if_pos (Or.inr ?_)
    simp only [h, k] at hin
    omega

omit count in
theorem exec_beacon : let k := sendKey site.val course.val str.val
    exec (.beacon site course str) s = next (
      if (s.half k).replay = [] ∧ s.bit (Reg.lanemap site.val (32 * course.val + str.val)) 18 = false then
        ({ s with fresh := s.fresh + 1 } : State).sendControl site.val course.val str.val 0x9 (Config.beaconCount s.fresh).toNat
      else s) := by
  intro k
  refine congrArg next ?_
  by_cases hidle : (s.half k).replay = [] ∧ s.bit (Reg.lanemap site.val (32 * course.val + str.val)) 18 = false
  · rw [if_pos hidle]
    refine if_neg ?_
    simp [hup, k, hidle]
  · rw [if_neg hidle]
    refine if_pos (Or.inr ?_)
    by_contra hall
    rw [not_or, Bool.not_eq_true, ne_eq, Decidable.not_not] at hall
    exact hidle hall.symm

end

end Sys2Proof.Machine
end

section

open Sys2Proof Sys2Proof.Machine

/-- Settles O31, case by case of the packet that arrives. That an edge die's RETRY may name any packet in flight, and that link control packets
are not numbered, are the model's choices (log entry 42). -/
theorem stringHalves : Obligations.StringHalves := by
  refine ⟨fun site course str k s => ⟨fun hidle => ?_, fun hidle hbad => ?_, fun hidle htrailer hparity hshape h9 hA hC => ?_,
    fun hidle htrailer hparity hshape htype => ?_⟩, fun site course str count s => ?_⟩
  · exact ⟨_, rfl, State.receive_idle hidle⟩
  · have hfails : ¬PacketPasses k := fun ⟨htrailer, hparity, hshape⟩ => by
      rw [htrailer, hparity, hshape] at hbad
      simp at hbad
    have hne := sendKey_ne_recvKey site.isLt course.isLt str.isLt course.val str.isLt
    refine ⟨_, congrArg next (State.receive_failed (State.takes_of_not_idle hidle) hfails), rfl, ?_⟩
    rw [State.half_sendControl_other _ _ _ _ _ _ hne.symm, State.half_setHalf_self, State.half_sendControl_self,
      State.half_setHalf, if_neg hne]
    refine ⟨rfl, rfl, rfl, fun i hi => ?_, rfl, fun j hkey hback => ?_⟩
    · refine (getD_countLanes _ _ 64 i).trans ?_
      simp only [hi, true_and]
    · rw [State.half_sendControl_other _ _ _ _ _ _ hback, State.half_setHalf, if_neg hkey]
  · have ht := State.takes_of_not_idle hidle
    have hne := sendKey_ne_recvKey site.isLt course.isLt str.isLt course.val str.isLt
    refine ⟨_, congrArg next (State.receive_accepted ht ⟨htrailer, hparity, hshape⟩ (by simp [h9, hA, hC])), ?_⟩
    obtain ⟨hframe, hreplay, hsends⟩ := State.forward_passedOn (s.acceptedOn site.val course.val str.val) site.val k
    refine ⟨hframe.trans (by rw [State.acceptedOn_frame]), ?_, ?_⟩
    · rw [hsends _ (fun c i hi => (sendKey_ne_recvKey site.isLt course.isLt str.isLt c hi).symm), State.half_acceptedOn_recv hne]
    · rw [hreplay, State.control_acceptedOn_send hne]
  · exact ⟨_, rfl, State.receive_control (State.takes_of_not_idle hidle) ⟨htrailer, hparity, hshape⟩ htype⟩
  · intro k h hup
    refine ⟨?_, ⟨_, exec_packetAcknowledgement count hup, ?_⟩, ⟨_, exec_beacon hup, ?_⟩⟩
    · by_cases hasks : AsksFor site course str count s
      · exact ⟨_, exec_retry_asked count hup hasks, (if_pos hasks).mpr ⟨State.count_rest _ _ _, State.counted_count _ _ _⟩⟩
      · exact ⟨_, exec_retry_unasked count hasks, (if_neg hasks).mpr rfl⟩
    · split
      · exact ⟨rfl, fun hholds => State.releaseCourse_none hholds⟩
      · rfl
    · split
      · exact ⟨rfl, _, State.half_sendControl_self _ _ _ _ _ _⟩
      · rfl

end

section
/-! SUPPORT. Registers that may differ between two states, grown step by step. -/

namespace Sys2Proof

open Machine

/-- One more register stored, within a list of those that may differ. -/
theorem RegsBut.andSetReg {s t : State} {l : List Nat} (h : RegsBut s t l) {a : Nat} (ha : a ∈ l) (v : W32) : RegsBut s (t.setReg a v) l :=
  (h.trans (RegsBut.setReg t a v)).mono (fun _ hb => (List.mem_append.mp hb).elim id (fun hb => List.mem_singleton.mp hb ▸ ha))

theorem RegsBut.refl (s : State) (l : List Nat) : RegsBut s s l := fun _ _ => rfl

theorem RegsBut.ite {s t u : State} {l : List Nat} {c : Prop} [Decidable c] (h : RegsBut s t l) (k : RegsBut s u l) :
    RegsBut s (if c then t else u) l := by
  split <;> assumption

end Sys2Proof
end

section
/-! SUPPORT. What raising a fault, losing a die and bringing a course up to date leave of the registers of courses and of the records to deliver
(R366 to R369, R503, R520). -/

namespace Sys2Proof.Machine

/-! The registers of courses. -/

/-- The addresses of the COURSE blocks. -/
def CourseAddress (a : Nat) : Prop := 0x20000000 ≤ a ∧ a / 0x10000 % 16 = 10

theorem courseStatus_address (site : Nat) : CourseAddress (Reg.courseStatus site) := by
  unfold CourseAddress Reg.courseStatus Base.course Base.site; omega

theorem courseState_address (site : Nat) {c : Nat} (hc : c < 4) : CourseAddress (Reg.courseState site c) := by
  unfold CourseAddress Reg.courseState Base.course Base.site; omega

theorem lanemap_address (site : Nat) {j : Nat} (hj : j < 128) : CourseAddress (Reg.lanemap site j) := by
  unfold CourseAddress Reg.lanemap Base.course Base.site; omega

theorem courseState_ne_courseStatus (site t : Nat) {c : Nat} (hc : c < 4) : Reg.courseState site c ≠ Reg.courseStatus t := by
  unfold Reg.courseState Reg.courseStatus Base.course Base.site; omega

theorem courseStatus_ne_linkRec (site t : Nat) : Reg.courseStatus site ≠ Reg.linkRec t := by
  unfold Reg.courseStatus Reg.linkRec Base.course Base.site; omega

theorem lanemap_ne_linkRec (site t : Nat) {j : Nat} (hj : j < 128) : Reg.lanemap site j ≠ Reg.linkRec t := by
  unfold Reg.lanemap Reg.linkRec Base.course Base.site; omega

theorem lanemap_ne_courseStatus (site t : Nat) {j : Nat} (hj : j < 128) : Reg.lanemap site j ≠ Reg.courseStatus t := by
  unfold Reg.lanemap Reg.courseStatus Base.course Base.site; omega

theorem lanemap_ne_courseState (site t : Nat) {j c : Nat} (hj : j < 128) (hc : c < 4) : Reg.lanemap site j ≠ Reg.courseState t c := by
  unfold Reg.lanemap Reg.courseState Base.course Base.site; omega

/-! Raising a fault. -/

/-- The registers of a die's block that raising a fault of it writes (R530). -/
def State.dieFaultRegs (s : State) (r : FaultRec) : List Nat :=
  (s.faultSite r.unit).toList.flatMap (fun site => [Reg.dfFirst site, Reg.dfStatus site])

theorem State.setPart_frame {s t : State} (h : t = { s with parts := t.parts }) (p : Nat) (x : Part) : let u := t.setPart p x
    u = { s with parts := u.parts } := by
  rw [h]
  rfl

/-- Raising a fault step by step: its die's block, where it has one, the status of the FAULT block by its class, and then what partitions remember
and the record. -/
theorem State.raise_steps (s : State) (r : FaultRec) : ∃ d : State, RegsBut s d (s.dieFaultRegs r) ∧ (s.faultSite r.unit = none → d = s) ∧
    ∃ parts faults, s.raise r = { (if r.cls = 4 then d.setBit Reg.fltStatus 0 else if r.cls = 3 then d.setBit Reg.fltStatus 1 else d) with
      parts := parts, faults := faults } := by
  unfold State.raise
  extract_lets +onlyGivenNames atDie onPanel hit inParts
  refine ⟨atDie, ?_, fun h => by unfold atDie; rw [h]; rfl, ?_⟩
  · unfold atDie State.atBase
    split
    · exact RegsBut.refl s _
    · next site hsite =>
      have hfirst : Reg.dfFirst site ∈ s.dieFaultRegs r := by simp [State.dieFaultRegs, hsite]
      have hstatus : Reg.dfStatus site ∈ s.dieFaultRegs r := by simp [State.dieFaultRegs, hsite]
      have hcount : ∀ {t : State} (a n : Nat), RegsBut s t (s.dieFaultRegs r) → RegsBut s (t.count a n) (s.dieFaultRegs r) := fun a n h b hb =>
        (State.reg_count _ a n b).trans (h b hb)
      refine RegsBut.ite (hcount _ _ ?_) ?_
      all_goals
        refine RegsBut.ite (RegsBut.andSetReg ?_ hstatus _) ?_
        all_goals exact RegsBut.ite (RegsBut.andSetReg (RegsBut.refl s _) hfirst _) (RegsBut.refl s _)
  · have hparts : inParts = { onPanel with parts := inParts.parts } := by
      refine List.foldlRecOn hit _ (motive := fun (t : State) => t = { onPanel with parts := t.parts }) rfl (fun t ht p _ => ?_)
      extract_lets x
      split
      · exact ht
      · split
        · exact ht
        · exact State.setPart_frame ht _ _
    exact ⟨inParts.parts, { inParts.faults with undelivered := inParts.faults.undelivered ++ [r] }, by rw [hparts]⟩

/-- The registers that raising a fault writes: the status of the FAULT block, and the records of the unit's die (R513, R530). -/
theorem State.raise_regsBut (s : State) (r : FaultRec) : RegsBut s (s.raise r) (Reg.fltStatus :: s.dieFaultRegs r) := by
  obtain ⟨d, hd, -, parts, faults, heq⟩ := s.raise_steps r
  have hdie : RegsBut s d (Reg.fltStatus :: s.dieFaultRegs r) := hd.mono (fun _ => List.mem_cons_of_mem _)
  rw [heq]
  exact RegsBut.ite (hdie.andSetReg List.mem_cons_self _) (RegsBut.ite (hdie.andSetReg List.mem_cons_self _) hdie)

/-- A fault of a unit that is no die counts nothing. -/
theorem State.raise_uncounted {s : State} {r : FaultRec} (h : s.faultSite r.unit = none) : let t := s.raise r
    t = { s with regs := t.regs, parts := t.parts, faults := t.faults } := by
  obtain ⟨d, -, hd, parts, faults, heq⟩ := s.raise_steps r
  rw [heq, hd h]
  split
  · rfl
  · split <;> rfl

/-- A fault of class 4 is shown by the FAULT block. -/
theorem State.bit_raise_fatal {s : State} {r : FaultRec} (h : r.cls = 4) : (s.raise r).bit Reg.fltStatus 0 = true := by
  obtain ⟨d, -, -, parts, faults, heq⟩ := s.raise_steps r
  rw [heq, if_pos h]
  exact State.bit_setBit_self d _ _ (by decide)

theorem courseAddress_not_faultRegs {a : Nat} (ha : CourseAddress a) (s : State) (r : FaultRec) : a ∉ Reg.fltStatus :: s.dieFaultRegs r := by
  obtain ⟨hlo, hblock⟩ := ha
  unfold State.dieFaultRegs
  rw [List.mem_cons, not_or]
  refine ⟨by unfold Reg.fltStatus; omega, fun hmem => ?_⟩
  obtain ⟨site, -, hsite⟩ := List.mem_flatMap.mp hmem
  simp only [List.mem_cons, List.not_mem_nil, or_false, Reg.dfFirst, Reg.dfStatus, Base.dieFault, Base.site] at hsite
  omega

theorem State.reg_raise_course (s : State) (r : FaultRec) {a : Nat} (ha : CourseAddress a) : (s.raise r).reg a = s.reg a :=
  s.raise_regsBut r a (courseAddress_not_faultRegs ha s r)

/-! A die lost. -/

theorem State.complete_frame (s : State) (r : MemReq) : s.complete r = { s with arrs := (s.complete r).arrs } := by
  unfold State.complete
  refine List.foldlRecOn _ _ (motive := fun (t : State) => t = { s with arrs := t.arrs }) rfl (fun t ht slot _ => ?_)
  split
  · exact ht
  · rw [ht]
    rfl

/-- Answering what waits on a lost die changes arrays, requests and acknowledgements alone (R369). -/
theorem State.dieAnswered_frame (s : State) (p : Option Nat) (site : Nat) (die : Option Nat) : let t := s.dieAnswered p site die
    t = { s with arrs := t.arrs, reqs := t.reqs, writeAcks := t.writeAcks } := by
  unfold State.dieAnswered
  split
  · unfold State.errorResponses
    extract_lets hit
    refine List.foldlRecOn _ _ (motive := fun (t : State) => t = { s with arrs := t.arrs, reqs := t.reqs, writeAcks := t.writeAcks }) rfl
      (fun t ht r _ => ?_)
    split
    · rw [State.complete_frame, ht]
    · exact ht
  · rfl

/-- A retirement leaves every register but the status of the FAULT block, and the records to deliver. -/
theorem State.retire_keeps (s : State) (r : Retire) : RegsBut s (s.retire r) [Reg.fltStatus] ∧
    (s.retire r).faults.undelivered = s.faults.undelivered := by
  unfold State.retire
  split
  · exact ⟨RegsBut.refl s _, rfl⟩
  · split
    · exact ⟨RegsBut.refl s _, rfl⟩
    · exact ⟨RegsBut.setReg s _ _, rfl⟩

theorem State.dieLost_unused {s : State} {site : Nat} (h : s.siteState site ≠ 1 ∧ s.siteState site ≠ 2) (declared c : Nat) :
    s.dieLost site declared c = s := if_pos h

theorem siteWord_lost (site : Nat) : bitsOf (siteWord site 5).toNat 0 3 = 5 := by
  unfold siteWord
  split <;> decide

/-- The registers that the loss of a die writes before it is raised. -/
def lossRegs (site : Nat) : List Nat := [Reg.dfStatus site, Reg.censusState, Reg.fltStatus]

/-- A die in use that is lost: it is fenced, and then DIE_LOST is raised. -/
theorem State.dieLost_used {s : State} {site : Nat} (h : s.siteState site = 1 ∨ s.siteState site = 2) (declared c : Nat) : ∃ e r,
    s.dieLost site declared c = e.raise r ∧ r.code = 0x0701 ∧ e.faults.undelivered = s.faults.undelivered ∧
      RegsBut (s.setReg (Reg.siteState site) (siteWord site 5)) e (lossRegs site) := by
  have hdf : Reg.dfStatus site ∈ lossRegs site := List.mem_cons_self
  have hcensus : Reg.censusState ∈ lossRegs site := List.mem_cons_of_mem _ List.mem_cons_self
  have hflt : Reg.fltStatus ∈ lossRegs site := List.mem_cons_of_mem _ (List.mem_cons_of_mem _ List.mem_cons_self)
  unfold State.dieLost
  extract_lets st die p answered fenced column noted held log lost recorded plain
  rw [if_neg (by omega)]
  have hanswered : answered = { s with arrs := answered.arrs, reqs := answered.reqs, writeAcks := answered.writeAcks } :=
    s.dieAnswered_frame p site die
  have hfenced : RegsBut (s.setReg (Reg.siteState site) (siteWord site 5)) fenced (lossRegs site) := by
    refine RegsBut.andSetReg (fun b _ => ?_) hdf _
    rw [State.reg_setReg, State.reg_setReg, hanswered]
    rfl
  have hnoted : RegsBut (s.setReg (Reg.siteState site) (siteWord site 5)) noted (lossRegs site) :=
    (RegsBut.ite (hfenced.andSetReg hcensus _) hfenced).andSetReg hflt _
  have hrecords : noted.faults.undelivered = s.faults.undelivered := by
    have hcolumn : column.faults = answered.faults := by
      unfold column
      split <;> rfl
    rw [show noted.faults = column.faults from rfl, hcolumn, hanswered]
  obtain ⟨hretire, hretired⟩ := lost.retire_keeps { cell := false, site := site, number := 0 }
  refine ⟨recorded, _, rfl, rfl, ?_, ?_⟩
  · unfold recorded
    split
    · exact hretired.trans hrecords
    · exact hrecords
  · refine RegsBut.ite ((RegsBut.trans (s := _) (t := lost) hnoted hretire).mono (fun b hb => ?_)) hnoted
    exact (List.mem_append.mp hb).elim id (fun hb => List.mem_singleton.mp hb ▸ hflt)

section
variable {site : Nat} (hsite : site < 108)
include hsite

theorem siteState_not_lossRegs : Reg.siteState site ∉ lossRegs site := by
  simp only [lossRegs, List.mem_cons, List.not_mem_nil, or_false, Reg.siteState, Reg.dfStatus, Base.dieFault, Base.site, Reg.censusState,
    Reg.fltStatus]
  omega

theorem siteState_not_faultAddress : ¬FaultAddress (Reg.siteState site) := by
  unfold FaultAddress Reg.siteState Reg.fltStatus
  omega

theorem siteState_ne_course {a : Nat} (ha : CourseAddress a) : a ≠ Reg.siteState site := by
  unfold CourseAddress at ha
  unfold Reg.siteState
  omega

omit hsite in
theorem courseAddress_not_lossRegs {a : Nat} (ha : CourseAddress a) : a ∉ lossRegs site := by
  unfold CourseAddress at ha
  simp only [lossRegs, List.mem_cons, List.not_mem_nil, or_false, Reg.dfStatus, Base.dieFault, Base.site, Reg.censusState, Reg.fltStatus]
  omega

/-- The loss of a die in use marks its site and puts up one record. -/
theorem State.dieLost_declares {s : State} (h : s.siteState site = 1 ∨ s.siteState site = 2) (declared c : Nat) :
    let t := s.dieLost site declared c
    t.siteState site = 5 ∧ ∃ r, t.faults.undelivered = s.faults.undelivered ++ [r] ∧ r.code = 0x0701 := by
  obtain ⟨e, r, heq, hcode, hrecords, hregs⟩ := State.dieLost_used h declared c
  intro t
  rw [show t = e.raise r from heq]
  refine ⟨?_, r, (e.raise_undelivered r).trans (by rw [hrecords]), hcode⟩
  unfold State.siteState State.field
  rw [State.reg_raise _ _ _ (siteState_not_faultAddress hsite), hregs _ (siteState_not_lossRegs hsite), State.reg_setReg_self]
  exact siteWord_lost site

/-- The loss of a die leaves the registers of every course. -/
theorem State.reg_dieLost_course (s : State) (declared c : Nat) {a : Nat} (ha : CourseAddress a) : (s.dieLost site declared c).reg a = s.reg a := by
  by_cases h : s.siteState site = 1 ∨ s.siteState site = 2
  · obtain ⟨e, r, heq, -, -, hregs⟩ := State.dieLost_used h declared c
    rw [heq, State.reg_raise_course _ _ ha, hregs _ (courseAddress_not_lossRegs ha), State.reg_setReg_other _ _ _ _ (siteState_ne_course hsite ha)]
  · rw [State.dieLost_unused (not_or.mp h)]

omit hsite in
theorem State.dieLost_records (s : State) (declared c : Nat) : s.faults.undelivered <+: (s.dieLost site declared c).faults.undelivered := by
  by_cases h : s.siteState site = 1 ∨ s.siteState site = 2
  · obtain ⟨e, r, heq, -, hrecords, -⟩ := State.dieLost_used h declared c
    rw [heq, State.raise_undelivered, hrecords]
    exact List.prefix_append _ _
  · rw [State.dieLost_unused (not_or.mp h)]

end

/-! A course brought up to date. -/

theorem State.linkRecord_onlyRegs (s : State) (site c str lane event : Nat) : OnlyRegs s (s.linkRecord site c str lane event) [Reg.linkRec site] := by
  unfold State.linkRecord
  exact OnlyRegs.ite ((OnlyRegs.refl s _).setReg List.mem_cons_self _) (OnlyRegs.refl s _)

theorem courseVictim_lt {site : Nat} (hsite : site < 108) (c : Nat) : courseVictim site c < 108 := by
  unfold courseVictim
  extract_lets u
  split
  · exact hsite
  · split
    · exact hsite
    · split <;> omega

/-- A course marked lost (R368, R372). -/
def State.markLost (s : State) (site c : Nat) : State := (s.setField (Reg.courseState site c) 8 3 5).setBit (Reg.courseStatus site) 3

/-- Whether a course shows its loss. -/
def State.ShowsLost (s : State) (site c : Nat) : Prop := s.courseOf site c = 5 ∧ s.bit (Reg.courseStatus site) 3 = true

theorem State.markLost_onlyRegs (s : State) (site c : Nat) :
    OnlyRegs s (s.markLost site c) [Reg.courseState site c, Reg.courseStatus site] :=
  ((OnlyRegs.refl s _).setField (by simp) 8 3 5).setBit (by simp) 3

theorem State.markLost_shows (s : State) (site : Nat) {c : Nat} (hc : c < 4) : (s.markLost site c).ShowsLost site c := by
  refine ⟨?_, State.bit_setBit_self _ _ _ (by decide)⟩
  unfold State.courseOf State.markLost
  rw [State.field_setBit _ _ _ _ _ _ (by decide) (Or.inl (courseState_ne_courseStatus site site hc)), State.field_setField_self _ _ _ _ _ (by decide)]
  rfl

/-- A course that shows its loss does so when another is lost. -/
theorem State.ShowsLost.markLost {s : State} {site c : Nat} (hc : c < 4) (h : s.ShowsLost site c) (t : Nat) : (s.markLost t c).ShowsLost site c := by
  obtain ⟨hstate, hstatus⟩ := h
  refine ⟨?_, ?_⟩
  swap
  · unfold State.markLost
    rw [State.bit_setBit _ _ _ _ _ (by decide)]
    split
    · rfl
    · exact (State.bit_congr (State.reg_setField_other _ _ _ _ _ _ (courseState_ne_courseStatus t site hc).symm) 3).trans hstatus
  by_cases hsame : Reg.courseState site c = Reg.courseState t c
  · have ht := (s.markLost_shows t hc).1
    unfold State.courseOf at ht ⊢
    rw [hsame]
    exact ht
  · refine (State.field_congr ((s.markLost_onlyRegs t c).2 _ ?_) 8 3).trans hstate
    simp only [List.mem_cons, List.not_mem_nil, or_false, not_or]
    exact ⟨hsame, courseState_ne_courseStatus site t hc⟩

/-- A course shows its loss as its registers do. -/
theorem State.ShowsLost.congr {s t : State} {site c : Nat} (hc : c < 4) (h : s.ShowsLost site c) (hregs : ∀ a, CourseAddress a → t.reg a = s.reg a) :
    t.ShowsLost site c := by
  obtain ⟨hstate, hstatus⟩ := h
  exact ⟨(State.field_congr (hregs _ (courseState_address site hc)) 8 3).trans hstate,
    (State.bit_congr (hregs _ (courseStatus_address site)) 3).trans hstatus⟩

/-- The bits that what happens to courses sets and never clears, but for tuning: of COURSE_STATUS, and RETIRED of a lane map. -/
inductive LastingBit : Nat → Nat → Prop
  | status (site i : Nat) : LastingBit (Reg.courseStatus site) i
  | retired (site j : Nat) (hj : j < 128) : LastingBit (Reg.lanemap site j) 18

section
variable {a i : Nat} (h : LastingBit a i)
include h

theorem LastingBit.address : CourseAddress a := by
  cases h with
  | status site => exact courseStatus_address site
  | retired site j hj => exact lanemap_address site hj

theorem LastingBit.ne_linkRec (site : Nat) : a ≠ Reg.linkRec site := by
  cases h with
  | status t => exact courseStatus_ne_linkRec t site
  | retired t j hj => exact lanemap_ne_linkRec t site hj

theorem LastingBit.ne_courseState (site : Nat) {c : Nat} (hc : c < 4) : a ≠ Reg.courseState site c := by
  cases h with
  | status t => exact (courseState_ne_courseStatus site t hc).symm
  | retired t j hj => exact lanemap_ne_courseState t site hj hc

end

/-- From s to t a bit, once set, stays set, and the records to deliver stay. -/
structure LinksKept (a i : Nat) (s t : State) : Prop where
  bit : s.bit a i = true → t.bit a i = true
  records : s.faults.undelivered <+: t.faults.undelivered

section
variable {a i : Nat} {s t : State}

theorem LinksKept.refl (a i : Nat) (s : State) : LinksKept a i s s := ⟨id, List.prefix_refl _⟩

theorem LinksKept.trans {u : State} (h : LinksKept a i s t) (k : LinksKept a i t u) : LinksKept a i s u :=
  ⟨fun hs => k.bit (h.bit hs), h.records.trans k.records⟩

theorem LinksKept.ite {u : State} {c : Prop} [Decidable c] (h : LinksKept a i s t) (k : LinksKept a i s u) :
    LinksKept a i s (if c then t else u) := by
  split <;> assumption

/-- A change that leaves registers and faults. -/
theorem LinksKept.same {u : State} (h : LinksKept a i s t) (hregs : u.regs = t.regs) (hfaults : u.faults = t.faults) : LinksKept a i s u :=
  h.trans ⟨fun ht => (State.bit_congr (by unfold State.reg; rw [hregs]) i).trans ht, by rw [hfaults]⟩

theorem LinksKept.setReg (h : LinksKept a i s t) {b : Nat} (hb : a ≠ b) (v : W32) : LinksKept a i s (t.setReg b v) :=
  h.trans ⟨fun ht => (State.bit_setReg_other _ _ _ _ _ hb).trans ht, List.prefix_refl _⟩

theorem LinksKept.setBit (h : LinksKept a i s t) (b : Nat) {j : Nat} (hj : j < 32) : LinksKept a i s (t.setBit b j) :=
  h.trans ⟨fun ht => by rw [State.bit_setBit _ _ _ _ _ hj, ht, ite_self], List.prefix_refl _⟩

theorem LinksKept.clearBit (h : LinksKept a i s t) {b j : Nat} (hj : j < 32) (hne : ¬(a = b ∧ i = j)) : LinksKept a i s (t.clearBit b j) :=
  h.trans ⟨fun ht => by rw [State.bit_clearBit _ _ _ _ _ hj, if_neg hne, ht], List.prefix_refl _⟩

variable (hlast : LastingBit a i)
include hlast

theorem LinksKept.raise (h : LinksKept a i s t) (r : FaultRec) : LinksKept a i s (t.raise r) :=
  h.trans ⟨fun ht => (State.bit_congr (t.reg_raise_course r hlast.address) i).trans ht, by
    rw [State.raise_undelivered]
    exact List.prefix_append _ _⟩

theorem LinksKept.dieLost (h : LinksKept a i s t) {site : Nat} (hsite : site < 108) (declared c : Nat) :
    LinksKept a i s (t.dieLost site declared c) :=
  h.trans ⟨fun ht => (State.bit_congr (t.reg_dieLost_course hsite declared c hlast.address) i).trans ht, t.dieLost_records declared c⟩

theorem LinksKept.linkRecord (h : LinksKept a i s t) (site c str lane event : Nat) : LinksKept a i s (t.linkRecord site c str lane event) := by
  unfold State.linkRecord
  exact LinksKept.ite (h.setReg (hlast.ne_linkRec site) _) h

theorem LinksKept.settleCourse (h : LinksKept a i s t) {site c : Nat} (hsite : site < 108) (hc : c < 4) :
    LinksKept a i s (t.settleCourse site c) := by
  unfold State.settleCourse
  extract_lets n counted noted failed log listed
  have hcounted : LinksKept a i s counted := h.setReg (hlast.ne_courseState site hc) _
  have hfailed : LinksKept a i s failed :=
    ((hcounted.linkRecord hlast site c 0 0x7F 2).setReg (hlast.ne_courseState site hc) _).setBit _ (by decide)
  have hlisted : LinksKept a i s listed := hfailed.trans ⟨id, List.prefix_refl _⟩
  exact LinksKept.ite ((hlisted.raise hlast _).dieLost hlast (courseVictim_lt hsite c) site c) (hcounted.setReg (hlast.ne_courseState site hc) _)

/-- TRANSIT of a lane map is no lasting bit. -/
theorem LinksKept.retireEnd (h : LinksKept a i s t) (site c str : Nat) (hj : 32 * c + str < 128) : LinksKept a i s (t.retireEnd site c str) := by
  unfold State.retireEnd
  extract_lets m transit out
  have hout : LinksKept a i s out := by
    refine (h.setBit m (by decide)).clearBit (by decide) (fun ⟨ha, hi⟩ => ?_)
    cases hlast with
    | status t => exact lanemap_ne_courseStatus site t hj ha.symm
    | retired t j hj => exact absurd hi (by decide)
  split
  · exact hout.setBit _ (by decide)
  · exact hout

end

end Sys2Proof.Machine
end

section
/-! SUPPORT. A lost neighbour, a spare lane taken, a string retired, and the alternate route (R349, R365 to R370). -/

namespace Sys2Proof.Machine

/-! What waits at a course. -/

section
variable {γ : Type} {g : State → γ} (hg : ∀ (s : State) x y, g { s with halves := x, holds := y } = g s)
include hg

theorem State.sendString_keeps (s : State) (site c : Nat) (k : Packet) : g (s.sendString site c k) = g s := by
  unfold State.sendString
  extract_lets l
  split
  · rfl
  · exact hg s _ s.holds

theorem State.holdCourse_keeps (s : State) (site c : Nat) : g (s.holdCourse site c) = g s := by
  unfold State.holdCourse
  extract_lets keys unsent old held
  refine (State.foldl_keeps g (fun t k => ?_) keys held).trans (hg s s.halves _)
  split
  · exact hg t _ t.holds
  · rfl

theorem State.releaseCourse_keeps (s : State) (site c : Nat) : g (s.releaseCourse site c) = g s := by
  unfold State.releaseCourse
  split
  · rfl
  · split
    · exact (State.foldl_keeps g (fun t k => t.sendString_keeps hg site c k) _ _).trans (hg s s.halves _)
    · rfl

/-- What a string still carried, moved to the others, is in halves and holds. -/
theorem State.moveReplay_keeps (s : State) (site c str : Nat) : g (s.moveReplay site c str) = g s := by
  unfold State.moveReplay
  extract_lets k h emptied waiting
  calc g ((waiting.holdCourse site c).releaseCourse site c) = g (waiting.holdCourse site c) := State.releaseCourse_keeps hg _ site c
    _ = g waiting := State.holdCourse_keeps hg _ site c
    _ = g s := hg s _ _

end

theorem State.moveReplay_regs (s : State) (site c str : Nat) : (s.moveReplay site c str).regs = s.regs :=
  State.moveReplay_keeps (fun _ _ _ => rfl) s site c str

theorem State.moveReplay_faults (s : State) (site c str : Nat) : (s.moveReplay site c str).faults = s.faults :=
  State.moveReplay_keeps (fun _ _ _ => rfl) s site c str

/-! A string retired (R366). -/

section
variable {a i : Nat} {s t : State}

theorem LinksKept.moveReplay (h : LinksKept a i s t) (site c str : Nat) : LinksKept a i s (t.moveReplay site c str) :=
  h.same (t.moveReplay_regs site c str) (t.moveReplay_faults site c str)

end

theorem State.bit_retireEnd_self (s : State) (site c str : Nat) : (s.retireEnd site c str).bit (Reg.lanemap site (32 * c + str)) 18 = true := by
  unfold State.retireEnd
  extract_lets m transit out
  have hout : out.bit m 18 = true := by
    unfold out
    rw [State.bit_clearBit _ _ _ _ _ (by decide), if_neg (fun h => absurd h.2 (by decide)), State.bit_setBit_self _ _ _ (by decide)]
  split
  · exact ((LinksKept.refl m 18 out).setBit _ (by decide)).bit hout
  · exact hout

theorem State.retireEnd_faults (s : State) (site c str : Nat) : (s.retireEnd site c str).faults = s.faults := by
  unfold State.retireEnd
  extract_lets m transit out
  split <;> rfl

theorem facing_lt (c : Nat) : facing c < 4 := Nat.mod_lt _ (by decide)

theorem facing_lane_lt (c : Nat) {str : Nat} (hstr : str < 32) : 32 * facing c + str < 128 := by
  have := facing_lt c
  omega

/-- A retired string: out of service at the end that gave it up, STRING_RETIRED shown and raised before what follows from it. -/
theorem State.retireString_spec (s : State) {site c str : Nat} (hsite : site < 108) (hc : c < 4) (hstr : str < 32) : let t := s.retireString site c str
    t.bit (Reg.lanemap site (32 * c + str)) 18 = true ∧ t.bit (Reg.courseStatus site) 1 = true ∧
      ∃ r l, t.faults.undelivered = s.faults.undelivered ++ r :: l ∧ r.code = 0x0502 := by
  have hj : 32 * c + str < 128 := by omega
  unfold State.retireString
  extract_lets u here both moved movedBoth shown status raised settled t
  have hshown : ∀ {a i}, LastingBit a i → LinksKept a i here status := fun hlast => by
    have hboth : LinksKept _ _ here both := LinksKept.ite ((LinksKept.refl _ _ here).retireEnd hlast u (facing c) str (facing_lane_lt c hstr))
      (LinksKept.refl _ _ here)
    have hmoved : LinksKept _ _ here moved := hboth.moveReplay site c str
    have hmovedBoth : LinksKept _ _ here movedBoth := LinksKept.ite (hmoved.moveReplay u (facing c) str) hmoved
    exact (hmovedBoth.linkRecord hlast site c str 0x7F 1).setBit _ (by decide)
  have hsettled : ∀ {a i}, LastingBit a i → LinksKept a i raised t := fun hlast => by
    have hnear : LinksKept _ _ raised settled := (LinksKept.refl _ _ raised).settleCourse hlast hsite hc
    unfold t
    split
    · next hfar => exact hnear.settleCourse hlast hfar.1 (facing_lt c)
    · exact hnear
  have hstatus : LastingBit (Reg.courseStatus site) 1 := .status site 1
  have hretired : LastingBit (Reg.lanemap site (32 * c + str)) 18 := .retired site _ hj
  have hrecords : status.faults = s.faults := by
    have hboth : both.faults = here.faults := by
      unfold both
      split
      · exact State.retireEnd_faults here u (facing c) str
      · rfl
    have hmovedBoth : movedBoth.faults = moved.faults := by
      unfold movedBoth
      split
      · exact State.moveReplay_faults moved u (facing c) str
      · rfl
    calc status.faults = movedBoth.faults := by unfold status shown; rw [State.setBit_faults, (State.linkRecord_onlyRegs _ _ _ _ _ _).1]
      _ = both.faults := by rw [hmovedBoth]; exact State.moveReplay_faults both site c str
      _ = s.faults := by rw [hboth]; exact State.retireEnd_faults s site c str
  refine ⟨?_, ?_, ?_⟩
  · exact (((hshown hretired).raise hretired _).trans (hsettled hretired)).bit (State.bit_retireEnd_self s site c str)
  · exact (((LinksKept.refl _ _ status).raise hstatus _).trans (hsettled hstatus)).bit (State.bit_setBit_self _ _ _ (by decide))
  · obtain ⟨l, hl⟩ := (hsettled hstatus).records
    refine ⟨status.courseFault 0x0502 site c 0, l, ?_, rfl⟩
    rw [← hl]
    unfold raised
    rw [State.raise_undelivered, hrecords, List.append_assoc, List.singleton_append]

/-! A lane that moves to a spare (R365). -/

/-- A lane map in which a failed lane is skipped: it takes the first free place of two, as lost in use, and one spare more is used. -/
def State.skipLane (s : State) (m phys : Nat) : State :=
  let t := if s.field m 0 7 = 0x7F then (s.setField m 0 7 phys).setField m 20 2 3 else (s.setField m 8 7 phys).setField m 22 2 3
  t.setField m 16 2 (t.field m 16 2 + 1)

theorem State.skipLane_onlyRegs (s : State) (m phys : Nat) : OnlyRegs s (s.skipLane m phys) [m] := by
  have hm : m ∈ [m] := List.mem_cons_self
  unfold State.skipLane
  extract_lets t
  have ht : OnlyRegs s t [m] := OnlyRegs.ite (((OnlyRegs.refl s _).setField hm 0 7 phys).setField hm 20 2 3)
    (((OnlyRegs.refl s _).setField hm 8 7 phys).setField hm 22 2 3)
  exact ht.setField hm 16 2 _

theorem State.skipLane_fields (s : State) (m phys : Nat) : let t := s.skipLane m phys
    (if s.field m 0 7 = 0x7F then t.field m 0 7 = phys % 2 ^ 7 ∧ t.field m 20 2 = 3 ∧ t.field m 8 7 = s.field m 8 7
      else t.field m 8 7 = phys % 2 ^ 7 ∧ t.field m 22 2 = 3 ∧ t.field m 0 7 = s.field m 0 7) ∧
    t.field m 16 2 = (s.field m 16 2 + 1) % 4 ∧ t.bit m 18 = s.bit m 18 := by
  unfold State.skipLane State.bit
  split
  · simp [State.field_setField_disjoint]
  · simp [State.field_setField_disjoint]

theorem State.physicalLane_lt (s : State) (site c str lane : Nat) : s.physicalLane site c str lane < 2 ^ 7 := by
  unfold State.physicalLane
  extract_lets m bad
  rw [List.getD_eq_getElem?_getD]
  cases h : ((List.range 66).filter (fun i => !bad.contains i))[lane]? with
  | none => decide
  | some i =>
    have hi : i < 66 := List.mem_range.mp (List.mem_filter.mp (List.mem_of_getElem? h)).1
    exact Nat.lt_trans hi (by decide)

/-- A spare taken and reported: the map skips the lane, LANE_SPARED is shown and raised. -/
theorem State.laneSpared_spec (u : State) {site c str phys : Nat} (hj : 32 * c + str < 128) (hphys : phys < 2 ^ 7) :
    let m := Reg.lanemap site (32 * c + str)
    let e := ((u.skipLane m phys).linkRecord site c str phys 0).setBit (Reg.courseStatus site) 0
    let t := e.raise (e.courseFault 0x0501 site c 0)
    (if u.field m 0 7 = 0x7F then t.field m 0 7 = phys ∧ t.field m 20 2 = 3 ∧ t.field m 8 7 = u.field m 8 7
      else t.field m 8 7 = phys ∧ t.field m 22 2 = 3 ∧ t.field m 0 7 = u.field m 0 7) ∧
    t.field m 16 2 = (u.field m 16 2 + 1) % 4 ∧ t.bit m 18 = u.bit m 18 ∧ t.bit (Reg.courseStatus site) 0 = true ∧
      ∃ r, t.faults.undelivered = u.faults.undelivered ++ [r] ∧ r.code = 0x0501 := by
  intro m e t
  obtain ⟨hrecord, hregs⟩ := (u.skipLane m phys).linkRecord_onlyRegs site c str phys 0
  obtain ⟨hskip, -⟩ := u.skipLane_onlyRegs m phys
  have hmap : t.reg m = (u.skipLane m phys).reg m := calc
    t.reg m = e.reg m := e.reg_raise_course _ (lanemap_address site hj)
    _ = ((u.skipLane m phys).linkRecord site c str phys 0).reg m := State.reg_setBit_other _ _ _ _ (lanemap_ne_courseStatus site site hj)
    _ = (u.skipLane m phys).reg m := hregs m (by simpa using lanemap_ne_linkRec site site hj)
  obtain ⟨hskipped, hcount, hretired⟩ := u.skipLane_fields m phys
  rw [Nat.mod_eq_of_lt hphys] at hskipped
  simp only [State.field_congr hmap, State.bit_congr hmap]
  refine ⟨hskipped, hcount, hretired, ?_, e.courseFault 0x0501 site c 0, ?_, rfl⟩
  · exact (State.bit_congr (e.reg_raise_course _ (courseStatus_address site)) 0).trans (State.bit_setBit_self _ _ _ (by decide))
  · rw [State.raise_undelivered, State.setBit_faults, hrecord, hskip]

/-- LANE_SPARED of a string in service, at the fourth mismatch of a lane. -/
theorem exec_laneSpared {site : Fin 108} {course : Fin 4} {str : Fin 32} {lane : Fin 64} {s : State} (hup : s.courseUp site.val course.val = true)
    (hin : s.bit (Reg.lanemap site.val (32 * course.val + str.val)) 18 = false)
    (hlane : 4 ≤ Tab.getD (s.half (recvKey site.val course.val str.val)).mismatches lane.val 0) :
    let m := Reg.lanemap site.val (32 * course.val + str.val)
    let k := recvKey site.val course.val str.val
    let u := s.setHalf k { s.half k with mismatches := Tab.erase (s.half k).mismatches lane.val }
    let phys := s.physicalLane site.val course.val str.val lane.val
    let e := ((u.skipLane m phys).linkRecord site.val course.val str.val phys 0).setBit (Reg.courseStatus site.val) 0
    exec (.laneSpared site course str lane) s = next (if s.field m 0 7 = 0x7F ∨ s.field m 8 7 = 0x7F then
      e.raise (e.courseFault 0x0501 site.val course.val 0) else u.retireString site.val course.val str.val) := by
  intro m k u phys e
  exact congrArg next (if_neg (by simp [hup, hin, Nat.not_lt.mpr hlane]))

/-! The alternate route (R370). -/

/-- REROUTED of a partition whose routes pass a lost die that is none of its own: its paths move, and one record is raised. -/
theorem exec_rerouted {p : Fin 6} {lost : Fin 108} {s : State} (hlost : s.siteState lost.val = 5)
    (hout : s.unitIn (s.layout p.val) (s.partPort p.val) lost.val = false) (hn : (s.layout p.val).n ≠ 0)
    (hpass : (s.sharedHops (s.layout p.val) (s.partPort p.val)).any (fun h => h.1 == lost.val) = true) : ∃ (e : State) (r : FaultRec),
    exec (.rerouted p lost) s = next (e.raise r) ∧ e.faults = s.faults ∧ r.code = 0x0504 ∧ r.rings = [p.val] ∧ r.part = none ∧
      e.transit = s.transit.map (fun e => if e.1 / 16384 = p.val ∧ s.pathThrough p.val e.1 lost.val e.2 then
        (e.1, { e.2 with alternate := !e.2.alternate, flight := [], resend := e.2.unacked.map (·.1) }) else e) := by
  change ∃ (e : State) (r : FaultRec), execRerouted p lost s = next (e.raise r) ∧ _
  unfold execRerouted
  extract_lets q site l port route transit moved near shown
  have hshown : ∀ {γ : Type} (g : State → γ), (∀ (s : State) a i, g (s.setBit a i) = g s) → g shown = g moved := fun g hg =>
    State.foldl_keeps g (fun t e => by split; exacts [hg t _ _, rfl]) near moved
  have hfaults : shown.faults = s.faults := hshown State.faults (fun _ _ _ => rfl)
  have htransit : shown.transit = transit := hshown State.transit (fun _ _ _ => rfl)
  rw [if_neg (by simp only [route, l, port, site, q, hlost, hout, hpass]; simpa using hn)]
  split
  · exact ⟨shown, _, rfl, hfaults, rfl, rfl, rfl, htransit⟩
  · exact ⟨shown, _, rfl, hfaults, rfl, rfl, rfl, htransit⟩

/-! A neighbour lost (R368, R369). -/

theorem linkRec_address (site : Nat) : CourseAddress (Reg.linkRec site) := by
  unfold CourseAddress Reg.linkRec Base.course Base.site; omega

/-- A course declared lost, and recorded. -/
def State.courseLost (s : State) (site c : Nat) : State := (s.linkRecord site c 0 0x7F 3).markLost site c

theorem State.courseLost_onlyRegs (s : State) (site c : Nat) :
    OnlyRegs s (s.courseLost site c) [Reg.linkRec site, Reg.courseState site c, Reg.courseStatus site] :=
  (s.linkRecord_onlyRegs site c 0 0x7F 3).trans ((s.linkRecord site c 0 0x7F 3).markLost_onlyRegs site c)

theorem State.siteState_courseLost (s : State) (site c u : Nat) (hc : c < 4) (hu : u < 108) : (s.courseLost site c).siteState u = s.siteState u := by
  obtain ⟨-, hregs⟩ := s.courseLost_onlyRegs site c
  refine State.field_congr (hregs _ ?_) 0 3
  simp only [List.mem_cons, List.not_mem_nil, or_false, not_or]
  exact ⟨(siteState_ne_course hu (linkRec_address site)).symm, (siteState_ne_course hu (courseState_address site hc)).symm,
    (siteState_ne_course hu (courseStatus_address site)).symm⟩

theorem exec_neighbourLost {site : Fin 108} {course : Fin 4} {s : State} (hup : s.courseUp site.val course.val = true) :
    let u := farUnit site.val course.val; let e := s.courseLost site.val course.val
    exec (.neighbourLost site course) s = next (if u < 108 then e.dieLost u site.val course.val else e) :=
  congrArg next (if_neg (by simp [hup]))

end Sys2Proof.Machine
end

section

open Sys2Proof Sys2Proof.Machine

/-- Settles O32: what is marked at a course before a die is lost, or before a string's retirement is followed up, lasts, since neither clears a
status bit of a course. -/
theorem lostAndSpared : Obligations.LostAndSpared := by
  refine ⟨fun site course s => ?_, fun site course str lane s => ?_, fun p lost s => ?_⟩
  · intro u
    by_cases hup : s.courseUp site.val course.val = true
    · have hshows : (s.courseLost site.val course.val).ShowsLost site.val course.val := State.markLost_shows _ _ course.isLt
      have honly := State.courseLost_onlyRegs s site.val course.val
      refine ⟨_, exec_neighbourLost hup, (if_pos hup).mpr ?_⟩
      by_cases hu : u < 108
      · rw [if_pos hu]
        have hstate := State.siteState_courseLost s site.val course.val u course.isLt hu
        obtain ⟨h5, hstatus⟩ := hshows.congr course.isLt (fun a ha => State.reg_dieLost_course hu _ site.val course.val ha)
        refine ⟨h5, hstatus, fun _ hused => ?_, fun hunused => ?_⟩
        · rw [← hstate] at hused
          obtain ⟨hlost, r, hr, hcode⟩ := State.dieLost_declares hu hused site.val course.val
          exact ⟨hlost, r, hr.trans (by rw [honly.1]), hcode⟩
        · rw [← hstate] at hunused
          rw [State.dieLost_unused (hunused.resolve_left (by omega))]
          exact honly
      · rw [if_neg hu]
        obtain ⟨h5, hstatus⟩ := hshows
        exact ⟨h5, hstatus, fun h => absurd h hu, fun _ => honly⟩
    · refine ⟨s, congrArg next (if_pos (by simpa using hup)), (if_neg hup).mpr rfl⟩
  · intro m phys hup hin hlane
    have hj : 32 * course.val + str.val < 128 := by omega
    by_cases hfree : s.field m 0 7 = 0x7F ∨ s.field m 8 7 = 0x7F
    · refine ⟨_, (exec_laneSpared hup hin hlane).trans (congrArg next (if_pos hfree)), (if_pos hfree).mpr ?_⟩
      obtain ⟨hskipped, hcount, hretired, hshown⟩ := State.laneSpared_spec
        (s.setHalf (recvKey site.val course.val str.val) { s.half (recvKey site.val course.val str.val) with
          mismatches := Tab.erase (s.half (recvKey site.val course.val str.val)).mismatches lane.val })
        (site := site.val) hj (s.physicalLane_lt site.val course.val str.val lane.val)
      exact ⟨hskipped, hcount, hretired.trans hin, hshown⟩
    · refine ⟨_, (exec_laneSpared hup hin hlane).trans (congrArg next (if_neg hfree)), (if_neg hfree).mpr ?_⟩
      exact State.retireString_spec _ site.isLt course.isLt str.isLt
  · intro l hlost hout hn hpass
    obtain ⟨e, r, hexec, hfaults, hcode, hrings, hpart, htransit⟩ := exec_rerouted hlost hout hn hpass
    refine ⟨_, hexec, ?_, r, ?_, hcode, hrings, hpart⟩
    · rw [e.raise_frame r]
      exact htransit
    · rw [State.raise_undelivered, hfaults]

end

section
/-! SUPPORT. Transit paths: the slots of a frame, a packet at its egress, the slot registers, and the end of tuning (R359, R360, R362, R364, R478,
R479). -/

namespace Sys2Proof.Machine

/-! A slot of a frame. -/

theorem State.sendSlot_frame (s : State) (site c slot : Nat) : s.sendSlot site c slot = { s with transit := (s.sendSlot site c slot).transit } := by
  unfold State.sendSlot
  extract_lets p
  split
  · rfl
  · split
    · rfl
    · split
      · rfl
      · extract_lets sent
        split <;> rfl

theorem State.sendSlots_frame (s : State) (site c : Nat) (l : List Nat) : let t := l.foldl (fun s i => s.sendSlot site c i) s
    t = { s with transit := t.transit } :=
  List.foldlRecOn l _ (motive := fun (t : State) => t = { s with transit := t.transit }) rfl (fun t ht i _ => by
    rw [State.sendSlot_frame, ht])

section
variable {s : State} {site c slot : Nat} (hslot : slot < 23)
include hslot

theorem State.sendSlot_unheld (h : 6 ≤ s.slotOwner site c slot) : s.sendSlot site c slot = s := by
  have hne : slot ≠ 23 := Nat.ne_of_lt hslot
  unfold State.sendSlot
  simp only [if_neg hne]
  exact if_pos ⟨hne, h⟩

variable (hheld : s.slotOwner site c slot < 6) {k : Nat} {x : TransitPath}
include hheld

theorem State.sendSlot_passing {seq : BitVec 57} (hpass : s.passing (s.slotOwner site c slot) site c = some (k, x, seq)) :
    let y : TransitPath := { x with flight := x.flight.map (fun f => if f.1 = seq then (f.1, f.2.1 + 1, f.2.2) else f) }
    s.sendSlot site c slot = { s with transit := Tab.put s.transit k y } := by
  unfold State.sendSlot
  simp only [if_neg (Nat.ne_of_lt hslot)]
  rw [if_neg (by omega), hpass]

theorem State.sendSlot_enters {q : Packet} {rest : List Packet} (hnone : s.passing (s.slotOwner site c slot) site c = none)
    (hready : s.readyPath (s.slotOwner site c slot) site c = some (k, x)) (hresend : x.resend = []) (hq : x.ready = q :: rest) :
    let y : TransitPath := { x with
      ready := rest, nextSeq := x.nextSeq + 1, unacked := x.unacked ++ [(x.nextSeq, q)],
      flight := x.flight ++ [(x.nextSeq, 1, s.transitBeats (s.slotOwner site c slot) (k / 128 % 128) (k % 128) x.nextSeq q)] }
    s.sendSlot site c slot = { s with transit := Tab.put s.transit k y } := by
  unfold State.sendSlot
  simp only [if_neg (Nat.ne_of_lt hslot)]
  rw [if_neg (by omega), hnone, hready]
  simp only [hresend, hq]

end

/-! A packet at its egress (R360, R478, R479). -/

/-- A transit path in which a packet is no longer awaited: acknowledged, on its way no more, nor to be sent again. -/
def TransitPath.acknowledged (x : TransitPath) (seq : BitVec 57) : TransitPath :=
  { x with unacked := x.unacked.filter (fun e => e.1 != seq), resend := x.resend.filter (· != seq),
           flight := x.flight.filter (fun f => f.1 != seq), failedOnce := if x.failedOnce = some seq then none else x.failedOnce }

theorem secStatus_not_faultAddress : ¬FaultAddress Reg.secStatus := by unfold FaultAddress; decide

section
variable {s : State} {p : Fin 6} {ingress egress : Fin 119} {seq : BitVec 57} {x : TransitPath} {e : BitVec 57 × Packet}
  (hx : Tab.get s.transit (transitKey p.val ingress.val egress.val) = some x)

include hx in
theorem exec_transitEgress_early (ok : Bool) (h : s.hasCrossed p.val (transitKey p.val ingress.val egress.val) x seq = false) :
    exec (.transitEgress p ingress egress seq ok) s = next s := by
  change execTransitEgress p ingress egress seq ok s = next s
  unfold execTransitEgress
  extract_lets k
  simp only [k, hx, h, Bool.false_eq_true, if_false]

variable (he : x.unacked.find? (fun e => e.1 == seq) = some e)
  (hcrossed : s.hasCrossed p.val (transitKey p.val ingress.val egress.val) x seq = true)
include hx he hcrossed

/-- A packet that verifies is acknowledged, and delivered where its number is above the highest; else it was sent again for nothing. -/
theorem exec_transitEgress_verified : let k := transitKey p.val ingress.val egress.val
    exec (.transitEgress p ingress egress seq true) s = next (if x.highest < seq then
      s.leaveTransit k egress.val { x.acknowledged seq with highest := seq } e.2 else { s with transit := Tab.put s.transit k (x.acknowledged seq) }) := by
  intro k
  change execTransitEgress p ingress egress seq true s = _
  unfold execTransitEgress
  simp only [hx, hcrossed, he, if_true]
  rfl

/-- A packet that fails a first time is asked for again. -/
theorem exec_transitEgress_again (h : x.failedOnce ≠ some seq) : let k := transitKey p.val ingress.val egress.val
    let y : TransitPath := { x with failedOnce := some seq, flight := x.flight.filter (fun f => f.1 != seq), resend := x.resend ++ [seq] }
    exec (.transitEgress p ingress egress seq false) s = next { s with transit := Tab.put s.transit k y } := by
  intro k y
  change execTransitEgress p ingress egress seq false s = _
  unfold execTransitEgress
  simp only [hx, hcrossed, he, if_true, if_neg h]
  rfl

/-- A packet that fails a second time is fatal to its partition. -/
theorem exec_transitEgress_fatal (h : x.failedOnce = some seq) : let k := transitKey p.val ingress.val egress.val
    let y : TransitPath := { x with flight := x.flight.filter (fun f => f.1 != seq) }
    ∃ r, exec (.transitEgress p ingress egress seq false) s =
        next ((({ s with transit := Tab.put s.transit k y } : State).setBit Reg.secStatus 4).raise r) ∧
      r.code = 0x0505 ∧ r.cls = 3 ∧ r.part = some p.val := by
  intro k y
  change ∃ r, execTransitEgress p ingress egress seq false s = next (State.raise _ r) ∧ _
  unfold execTransitEgress
  simp only [hx, hcrossed, he, if_true, if_pos h]
  exact ⟨_, rfl, rfl, rfl, rfl⟩

end

/-! The slot registers of a course (R362, R372). -/

/-- Whether a word of slots names a partition that runs. -/
def State.RunsIn (s : State) (w : W32) : Prop := ∃ n, n < 8 ∧ bitsOf w.toNat (4 * n) 4 < 6 ∧ s.partState (bitsOf w.toNat (4 * n) 4) = 2

theorem State.any_slotNibbles (s : State) (w : W32) :
    (slotNibbles w.toNat).any (fun q => decide (q < 6) && s.partState q == 2) = true ↔ s.RunsIn w := by
  simp [slotNibbles, List.any_eq_true, State.RunsIn]

theorem State.any_slots (s : State) (site c : Nat) (v : W32) :
    (((List.range 3).flatMap (fun j => slotNibbles (s.reg (Reg.transitSlot site (3 * c + j))).toNat)) ++ slotNibbles v.toNat).any
      (fun q => decide (q < 6) && s.partState q == 2) = true ↔
    s.RunsIn v ∨ ∃ j, j < 3 ∧ s.RunsIn (s.reg (Reg.transitSlot site (3 * c + j))) := by
  rw [List.any_append, Bool.or_eq_true, State.any_slotNibbles, or_comm, List.any_flatMap, List.any_eq_true]
  simp only [List.mem_range, State.any_slotNibbles]

section
variable {s : State} {site i : Nat} {v : W32}

theorem State.transitSlotWrite_held (h : s.RunsIn v ∨ ∃ j, j < 3 ∧ s.RunsIn (s.reg (Reg.transitSlot site (3 * (i / 3) + j)))) :
    s.transitSlotWrite site i v = s :=
  if_pos ((s.any_slots site (i / 3) v).mpr h)

theorem State.transitSlotWrite_free (h : ¬(s.RunsIn v ∨ ∃ j, j < 3 ∧ s.RunsIn (s.reg (Reg.transitSlot site (3 * (i / 3) + j))))) :
    s.transitSlotWrite site i v = s.setReg (Reg.transitSlot site i) (if i % 3 = 2 then v &&& 0x0FFFFFFF ||| 0x70000000 else v) := by
  refine (if_neg (fun hany => h ((s.any_slots site (i / 3) v).mp hany))).trans ?_
  split <;> rfl

end

/-! Tuning (R364). -/

section
variable {a i : Nat} {s t : State}

theorem LinksKept.foldl {β : Type} {f : State → β → State} {l : List β} (h : LinksKept a i s t)
    (hf : ∀ u b, b ∈ l → LinksKept a i s u → LinksKept a i s (f u b)) : LinksKept a i s (l.foldl f t) :=
  List.foldlRecOn l f h (fun u hu b hb => hf u b hb hu)

theorem LinksKept.fillTransit (h : LinksKept a i s t) (site c : Nat) : LinksKept a i s (t.fillTransit site c) := by
  unfold State.fillTransit
  refine h.foldl (fun u _ _ hu => LinksKept.ite ?_ hu)
  split
  · exact hu.setBit _ (by decide)
  · exact hu

theorem stringsUsed_lt {site c j : Nat} (h : j ∈ stringsUsed site c) : j < 32 := by
  unfold stringsUsed at h
  split at h
  · simp at h
    omega
  · exact List.mem_range.mp h

end

section
variable {site' i : Nat} {s t : State} {fails : List LaneFail} {site : Nat} (hsite : site < 108)
include hsite

/-- A course tuned keeps what the status of every die shows. -/
theorem LinksKept.tuneCourse (h : LinksKept (Reg.courseStatus site') i s t) {c : Nat} (hc : c < 4) :
    LinksKept (Reg.courseStatus site') i s (t.tuneCourse fails site c) := by
  have hlast : LastingBit (Reg.courseStatus site') i := .status site' i
  have hstate := hlast.ne_courseState site hc
  unfold State.tuneCourse
  extract_lets u mapped retired emptied filled n shown
  have hmapped : LinksKept (Reg.courseStatus site') i s mapped := h.foldl (fun u j hj hu =>
    hu.setReg (lanemap_ne_courseStatus site site' (by have := stringsUsed_lt hj; omega)).symm _)
  have hretired : LinksKept (Reg.courseStatus site') i s retired := hmapped.foldl (fun u j _ hu => LinksKept.ite hu (hu.setBit _ (by decide)))
  have hemptied : LinksKept (Reg.courseStatus site') i s emptied := hretired.foldl (fun u j _ hu => hu.same rfl rfl)
  have hshown : LinksKept (Reg.courseStatus site') i s shown := (hemptied.fillTransit site c).setReg hstate _
  exact LinksKept.ite (h.setReg hstate _) (LinksKept.ite (hshown.settleCourse hlast hsite hc) hshown)

theorem LinksKept.tuneSite (h : LinksKept (Reg.courseStatus site') i s t) : LinksKept (Reg.courseStatus site') i s (t.tuneSite fails site) :=
  (h.foldl (fun _ _ hc hu => hu.tuneCourse hsite (List.mem_range.mp hc))).setBit _ (by decide)

theorem LinksKept.syncCourse (h : LinksKept (Reg.courseStatus site') i s t) {c : Nat} (hc : c < 4) :
    LinksKept (Reg.courseStatus site') i s (t.syncCourse site c) := by
  have hlast : LastingBit (Reg.courseStatus site') i := .status site' i
  unfold State.syncCourse
  extract_lets u out synced
  have hsynced : LinksKept (Reg.courseStatus site') i s synced := h.foldl (fun u j hj hu =>
    hu.retireEnd hlast site c j (by have := List.mem_range.mp (List.mem_filter.mp hj).1; omega))
  exact LinksKept.ite h (LinksKept.ite hsynced (hsynced.settleCourse hlast hsite hc))

end

/-- Every site tuned: each shows it, and tuning the others leaves it so. -/
theorem State.bit_tuneSites (fails : List LaneFail) {l : List Nat} (hl : ∀ t ∈ l, t < 108) (s : State) {site : Nat} (hsite : site ∈ l) :
    (l.foldl (fun s t => s.tuneSite fails t) s).bit (Reg.courseStatus site) 4 = true := by
  induction l generalizing s with
  | nil => cases hsite
  | cons t l ih =>
    have hrest : ∀ t ∈ l, t < 108 := fun t ht => hl t (List.mem_cons_of_mem _ ht)
    rcases List.mem_cons.mp hsite with rfl | htail
    · exact ((LinksKept.refl _ 4 (s.tuneSite fails site)).foldl (fun u t ht hu => hu.tuneSite (hrest t ht))).bit
        (State.bit_setBit_self _ _ _ (by decide))
    · exact ih hrest _ htail

/-- The registers of courses lie above those of the panel. -/
theorem courseAddress_ne {a b : Nat} (ha : CourseAddress a) (hb : b < 0x20000000) : a ≠ b := Nat.ne_of_gt (Nat.lt_of_lt_of_le hb ha.1)

/-- TUNING_DONE when step 5 is open. -/
theorem exec_tuningDone {fails : List LaneFail} {s : State} (h : s.stepOpen 5 [4] = true) : ∃ e : State,
    exec (.tuningDone fails) s = next (({ e with tb := { e.tb with skew := [], loading := List.range 118 } } : State).doStep 5) ∧
      ∀ site, site < 108 → e.bit (Reg.courseStatus site) 4 = true := by
  refine ⟨_, congrArg next (if_neg (by simp [h])), fun site hsite => ?_⟩
  refine (LinksKept.foldl (LinksKept.refl _ 4 _) (fun u t ht hu => ?_)).bit
    (State.bit_tuneSites fails (fun t ht => List.mem_range.mp ht) s (List.mem_range.mpr hsite))
  exact hu.foldl (fun v c hc hv => hv.syncCourse (List.mem_range.mp ht) (List.mem_range.mp hc))

end Sys2Proof.Machine
end

section

open Sys2Proof Sys2Proof.Machine

/-- Settles O33. That a slot write takes effect at once, and none while a partition that holds a slot runs, is the model's choice (log entry 43). -/
theorem transit : Obligations.Transit := by
  refine ⟨fun site course s => ⟨_, rfl, ?_⟩, fun s site c slot k x hslot hheld => ?_, fun s site c slot => State.sendSlot_unheld,
    fun p ingress egress seq s x e => ?_, fun site i v s => ?_, fun fails s => ?_⟩
  · refine ⟨?_, ?_⟩
    · split
      · exact State.sendSlots_frame _ _ _ _
      · rfl
    · split <;> rfl
  · exact ⟨fun q rest hnone hready hresend hq => State.sendSlot_enters hslot hheld hnone hready hresend hq,
      fun seq hpass => State.sendSlot_passing hslot hheld hpass⟩
  · intro k hx he
    refine ⟨fun hearly ok => ⟨s, exec_transitEgress_early hx ok hearly, rfl⟩, fun hcrossed => ⟨?_, ?_⟩⟩
    · have hexec := exec_transitEgress_verified hx he hcrossed
      by_cases hnew : x.highest < seq
      · by_cases hon : egress.val < 108 ∧ packetDest e.2 ≠ egress.val
        · exact ⟨_, hexec.trans (congrArg next ((if_pos hnew).trans (if_pos hon))), { x.acknowledged seq with highest := seq }, rfl, rfl, rfl, rfl,
            (if_pos hnew).symm, (if_pos ⟨hnew, hon⟩).mpr ⟨rfl, rfl⟩⟩
        · exact ⟨_, hexec.trans (congrArg next ((if_pos hnew).trans (if_neg hon))),
            { x.acknowledged seq with highest := seq, delivered := x.delivered ++ [e.2] }, rfl, rfl, rfl, rfl,
            (if_pos hnew).symm, (if_neg (fun h => hon h.2)).mpr ⟨by rw [if_pos hnew], rfl⟩⟩
      · exact ⟨_, hexec.trans (congrArg next (if_neg hnew)), x.acknowledged seq, rfl, rfl, rfl, rfl,
          (if_neg hnew).symm, (if_neg (fun h => hnew h.1)).mpr ⟨by rw [if_neg hnew, List.append_nil]; rfl, rfl⟩⟩
    · by_cases hfailed : x.failedOnce = some seq
      · obtain ⟨r, hexec, hcode, hcls, hpart⟩ := exec_transitEgress_fatal hx he hcrossed hfailed
        refine ⟨_, hexec, (if_pos hfailed).mpr ⟨?_, ?_, r, State.raise_undelivered _ _, hcode, hcls, hpart⟩⟩
        · rw [State.raise_frame]
          rfl
        · exact (State.bit_raise _ _ _ _ secStatus_not_faultAddress).trans (State.bit_setBit_self _ _ _ (by decide))
      · exact ⟨_, exec_transitEgress_again hx he hcrossed hfailed, (if_neg hfailed).mpr rfl⟩
  · intro c runs
    refine ⟨_, rfl, State.transitSlotWrite_held, fun hv hheld => State.transitSlotWrite_free ?_⟩
    rintro (h | ⟨j, hj, h⟩)
    · exact hv h
    · exact hheld j hj h
  · by_cases hopen : s.stepOpen 5 [4] = true
    · obtain ⟨e, hexec, htuned⟩ := exec_tuningDone (fails := fails) hopen
      refine ⟨_, hexec, (if_pos hopen).mpr ⟨State.stepDone_doStep _ 5 (by decide), rfl, rfl, fun site hsite => ?_⟩⟩
      rw [State.bit_doStep _ _ _ _ (courseAddress_ne (courseStatus_address site) (by decide)) (courseAddress_ne (courseStatus_address site) (by decide))]
      exact htuned site hsite
    · exact ⟨s, congrArg next (if_pos (by simpa using hopen)), (if_neg hopen).mpr rfl⟩

end

section
/-! SUPPORT. The register window, the operator's requests, and the loss of an edge die or of the management die (R372, R522 to R524, R662 to
R666). -/

namespace Sys2Proof.Machine

/-! The register window (R664). -/

theorem State.windowRead_reached {s : State} (h : (placeOf s.mgmtAddr.toNat).any (fun pl => windowReaches pl.kind) = true) :
    s.windowRead.readData = (s.readReg s.mgmtAddr.toNat).1 := by
  unfold State.windowRead
  simp only [h, if_true]

theorem State.windowRead_unreached {s : State} (h : (placeOf s.mgmtAddr.toNat).any (fun pl => windowReaches pl.kind) = false) :
    s.windowRead = { s with readData := 0, mgmtAddr := s.mgmtAddr + 4 } := by
  unfold State.windowRead
  simp only [h, Bool.false_eq_true, if_false]

/-! The operator's requests (R665, R666). -/

/-- The four bytes of a register, least significant first. -/
theorem byteList_word (v : W32) : byteList v.toNat 4 = [v.toNat % 256, v.toNat / 2 ^ 8 % 256, v.toNat / 2 ^ 16 % 256, v.toNat / 2 ^ 24] := by
  have hlast : v.toNat / 2 ^ 24 % 256 = v.toNat / 2 ^ 24 := Nat.mod_eq_of_lt (by omega)
  simp only [byteList, leBytes, List.map_cons, List.map_nil, BitVec.toNat_ofNat, Nat.div_div_eq_div_mul]
  rw [← hlast]
  rfl

section
variable {s : State} (hup : s.postmasterUp = true) (a : BitVec 32)
include hup

theorem exec_operatorRead : exec (.operatorRead a) s = next (s.operatorRead a.toNat) := congrArg next (if_pos hup)

theorem exec_operatorWrite (v : BitVec 32) : exec (.operatorWrite a v) s = next (s.operatorWrite a.toNat v) := congrArg next (if_pos hup)

end

theorem State.operatorMay_kind {s : State} {pl : Place} (h : s.operatorMay pl = true) :
    pl.kind = .partition ∨ pl.kind = .power ∨ pl.kind = .scrub ∨ pl.kind = .rate := by
  unfold State.operatorMay at h
  split at h
  · next hk => exact Or.inl hk
  · next hk => exact Or.inr (Or.inl hk)
  · next hk => exact Or.inr (Or.inr (Or.inl hk))
  · next hk => exact Or.inr (Or.inr (Or.inr hk))
  · cases h

/-! Faults of edge dies: no die's block records them. -/

theorem State.faultSite_edge (s : State) {u : Nat} (hlo : 108 ≤ u) (hhi : u < 128) : s.faultSite (unitDest u) = none := by
  have hunit : (unitDest u).toNat = 0x40000000 + u := by
    unfold unitDest
    rw [BitVec.toNat_ofNat, Nat.mod_eq_of_lt (by omega)]
  unfold State.faultSite
  simp only [hunit]
  rw [if_neg (by omega), if_neg (by omega), if_neg (by omega)]

/-! The courses that lead to a lost edge die (R372). -/

theorem edgeCourse_lt (u : Nat) : edgeCourse u < 4 := by
  unfold edgeCourse
  split
  · split <;> decide
  · split <;> decide

theorem State.markLosts_frame (l : List Nat) (c : Nat) (s : State) : ∃ regs, l.foldl (fun s site => s.markLost site c) s = { s with regs := regs } := by
  refine List.foldlRecOn l _ (motive := fun (t : State) => ∃ regs, t = { s with regs := regs }) ⟨s.regs, rfl⟩ (fun t ht site _ => ?_)
  obtain ⟨regs, rfl⟩ := ht
  exact ⟨_, rfl⟩

theorem State.markLosts_show {c : Nat} (hc : c < 4) {l : List Nat} (s : State) {site : Nat} (h : site ∈ l) :
    (l.foldl (fun s site => s.markLost site c) s).ShowsLost site c := by
  induction l generalizing s with
  | nil => cases h
  | cons t l ih =>
    rcases List.mem_cons.mp h with rfl | htail
    · exact List.foldlRecOn l _ (motive := fun (t : State) => t.ShowsLost site c) (s.markLost_shows site hc) (fun u hu t _ => hu.markLost hc t)
    · exact ih _ htail

theorem State.loseCourses_frame (s : State) (u : Nat) : ∃ regs, s.loseCourses u = { s with regs := regs } :=
  State.markLosts_frame (attachments u) (edgeCourse u) s

theorem State.loseCourses_show (s : State) {u site : Nat} (h : site ∈ attachments u) : (s.loseCourses u).ShowsLost site (edgeCourse u) :=
  State.markLosts_show (edgeCourse_lt u) s h

/-- The courses to an edge die lost, and a fault of it raised: one record, and the courses show it. -/
theorem State.loseEdge_spec (s : State) {u : Nat} (hlo : 108 ≤ u) (hhi : u < 128) {r : FaultRec} (hunit : r.unit = unitDest u) :
    let t := (s.loseCourses u).raise r
    t = { s with regs := t.regs, parts := t.parts, faults := t.faults } ∧ t.faults.undelivered = s.faults.undelivered ++ [r] ∧
      ∀ site ∈ attachments u, t.ShowsLost site (edgeCourse u) := by
  intro t
  have hraise : t = { s.loseCourses u with regs := t.regs, parts := t.parts, faults := t.faults } :=
    State.raise_uncounted (by rw [hunit]; exact State.faultSite_edge _ hlo hhi)
  obtain ⟨regs, hcourses⟩ := s.loseCourses_frame u
  refine ⟨?_, ?_, fun site hsite => ?_⟩
  · rw [hcourses] at hraise
    exact hraise
  · refine ((s.loseCourses u).raise_undelivered r).trans ?_
    rw [hcourses]
  · exact (s.loseCourses_show hsite).congr (edgeCourse_lt u) (fun a ha => State.reg_raise_course _ _ ha)

/-! An edge die lost (R522, R523, R662). -/

theorem exec_edgeLost {unit : Fin 10} {c : Instr} (hc : c = .edgeDieLost unit ∨ c = .refclkLoss unit) (s : State) :
    exec c s = next (s.edgeDieLost unit.val) := by
  rcases hc with rfl | rfl <;> rfl

/-- A state in which an edge die is out of use. -/
def State.without (s : State) (u : Nat) : State := { s with deadUnits := s.deadUnits ++ [u] }

section
variable {s : State} {u : Nat}

theorem State.edgeDieLost_again (h : s.deadUnits.contains (108 + u) = true) : s.edgeDieLost u = s := if_pos h

variable (h : s.deadUnits.contains (108 + u) = false)
include h

theorem State.edgeDieLost_mid (hu : u < 8) :
    s.edgeDieLost u = ((s.without (108 + u)).loseCourses (108 + u)).raise ((s.without (108 + u)).edgeLoss 0x0702 (108 + u) (s.partOfSector u)) :=
  (if_neg (fun hdead => Bool.false_ne_true (h.symm.trans hdead))).trans (if_pos hu)

/-- A host-interface die none of whose ports is bound or up: the fault is the panel's, and its pair link goes down. -/
theorem State.edgeDieLost_host (hu : 8 ≤ u) (hports : ∀ i, i < 3 → s.boundTo (i + 3 * (u - 8)) = none ∧ (s.port (i + 3 * (u - 8))).linkUp = false) :
    ∃ r, s.edgeDieLost u = (((s.without (108 + u)).loseCourses (108 + u)).raise r).pairLinkDown (u - 8) ∧ r.code = 0x0702 ∧
      r.unit = unitDest (108 + u) := by
  have hunit : 116 + (u - 8) = 108 + u := by omega
  have hlost : s.edgeDieLost u = (s.without (108 + u)).loseHid (u - 8) :=
    (if_neg (fun hdead => Bool.false_ne_true (h.symm.trans hdead))).trans (if_neg (by omega))
  have hmem : ∀ port ∈ (List.range 3).map (· + 3 * (u - 8)), s.boundTo port = none ∧ (s.port port).linkUp = false := fun port hport => by
    obtain ⟨i, hi, rfl⟩ := List.mem_map.mp hport
    exact hports i (List.mem_range.mp hi)
  refine ⟨((s.without (108 + u)).loseCourses (108 + u)).edgeLoss 0x0702 (108 + u) none, ?_, rfl, rfl⟩
  rw [hlost]
  unfold State.loseHid
  rw [hunit]
  extract_lets ports lost bound raised drained
  obtain ⟨regs, hregs⟩ : ∃ regs, lost = { s.without (108 + u) with regs := regs } := (s.without (108 + u)).loseCourses_frame (108 + u)
  have hbound : bound = [] := by
    refine List.filterMap_eq_nil_iff.mpr (fun port hport => ?_)
    rw [hregs]
    exact (hmem port hport).1
  have hraised : raised = lost.raise (lost.edgeLoss 0x0702 (108 + u) none) := if_pos hbound
  have hsame : raised.ports = s.ports := by
    rw [hraised, State.raise_frame, hregs]
    rfl
  have hdrained : drained = raised := by
    refine List.foldlRecOn ports _ (motive := fun t => t = raised) rfl (fun t ht port hport => ?_)
    have hdown : (raised.port port).linkUp = false := by
      unfold State.port
      rw [hsame]
      exact (hmem port hport).2
    rw [ht, hdown]
    rfl
  rw [hdrained, hraised]

end

/-! The management die lost (R524). -/

/-- Timebase and pace without the management die: the count stops, and every die is paced by its own oscillator. -/
def State.pacedLocally (s : State) : State :=
  { s with deadUnits := s.deadUnits ++ [118], tb := { s.tb with running := false },
           power := { s.power with pace := (List.range 96).map (fun d => (d, 52 + (Config.localPace d).val)) } }

theorem exec_mgdLost {s : State} (h : s.mgdLost = false) :
    exec .mgdLost s = next ((s.loseCourses 118).raise (s.edgeLoss 0x0804 118 none)).pacedLocally :=
  congrArg next (if_neg (by simp [h]))

theorem State.pacedLocally_pace (s : State) {d : Nat} (hd : d < 96) :
    Tab.get s.pacedLocally.power.pace d = some (52 + (Config.localPace d).val) := by
  change Tab.get ((List.range 96).map (fun d => (d, 52 + (Config.localPace d).val))) d = _
  rw [List.range_eq_range']
  exact Tab.get_map_range' (fun d => 52 + (Config.localPace d).val) 0 96 d (Nat.zero_le d) (by omega)

end Sys2Proof.Machine
end

section

open Sys2Proof Sys2Proof.Machine

/-- Settles O50, row by row. A misaligned address answered as malformed is the model's choice (log entry 70), and so are the pace after the loss of
the management die and its one record (log entry 67); which registers the operator may write is `State.operatorMay`. -/
theorem operatorAndLosses : Obligations.OperatorAndLosses := by
  refine ⟨fun a s => ?_, fun s => ?_, fun a v s hdown => ?_, fun a v s hup ha => ?_, fun a s hup ha => ?_, fun a v s hup ha => ?_,
    fun s pl => State.operatorMay_kind, fun target a s => ?_, fun unit s c hc => ?_, fun s => ?_⟩
  · exact ⟨_, rfl, rfl⟩
  · cases hstart : s.shell.starting with
    | false => exact ⟨s, congrArg next (if_neg (by simp [hstart])), (if_pos rfl).mpr rfl⟩
    | true => exact ⟨_, congrArg next (if_pos hstart), (if_neg (by decide)).mpr ⟨rfl, State.windowRead_reached, State.windowRead_unreached⟩⟩
  · exact ⟨⟨s, congrArg next (if_neg (by simp [hdown])), rfl⟩, ⟨s, congrArg next (if_neg (by simp [hdown])), rfl⟩⟩
  · exact ⟨⟨_, exec_operatorRead hup a, if_pos ha⟩, ⟨_, exec_operatorWrite hup a v, if_pos ha⟩⟩
  · refine ⟨_, (exec_operatorRead hup a).trans (congrArg next (if_neg (fun h => h ha))), rfl, rfl, ?_, ?_⟩
    · exact congrArg List.length (byteList_word _)
    · exact byteList_word _
  · refine ⟨_, (exec_operatorWrite hup a v).trans (congrArg next (if_neg (fun h => h ha))), ?_⟩
    cases hplace : placeOf a.toNat with
    | none => rfl
    | some pl => rfl
  · exact ⟨_, rfl, rfl, rfl, Tab.get_put_self .., fun k hk => Tab.get_put_other _ _ _ _ hk⟩
  · refine ⟨fun hdead => ⟨s, (exec_edgeLost hc s).trans (congrArg next (State.edgeDieLost_again hdead)), rfl⟩, fun hdead hmid => ?_,
      fun hdead hhost hports => ?_⟩
    · refine ⟨_, (exec_edgeLost hc s).trans (congrArg next (State.edgeDieLost_mid hdead hmid)), ?_⟩
      obtain ⟨hframe, hrecord, hshow⟩ := (s.without (108 + unit.val)).loseEdge_spec (u := 108 + unit.val) (by omega) (by omega)
        (r := (s.without (108 + unit.val)).edgeLoss 0x0702 (108 + unit.val) (s.partOfSector unit.val)) rfl
      exact ⟨hframe, ⟨_, hrecord, rfl, rfl, rfl, rfl⟩, hshow⟩
    · obtain ⟨r, hlost, hcode, hunit⟩ := State.edgeDieLost_host hdead hhost hports
      obtain ⟨hframe, hrecord, -⟩ := (s.without (108 + unit.val)).loseEdge_spec (by omega) (by omega) hunit
      exact ⟨_, (exec_edgeLost hc s).trans (congrArg next hlost), _, rfl, hframe, r, hrecord, hcode, hunit⟩
  · refine ⟨fun hlost => ⟨s, congrArg next (if_pos hlost), rfl⟩, fun hlost => ⟨_, exec_mgdLost hlost, ?_⟩⟩
    have hshown : ((s.loseCourses 118).raise (s.edgeLoss 0x0804 118 none)).bit Reg.fltStatus 0 = true := State.bit_raise_fatal rfl
    obtain ⟨hframe, hrecord, -⟩ := s.loseEdge_spec (u := 118) (by decide) (by decide) (r := s.edgeLoss 0x0804 118 none) rfl
    generalize (s.loseCourses 118).raise (s.edgeLoss 0x0804 118 none) = e at *
    refine ⟨?_, ?_, fun d hd => e.pacedLocally_pace hd, hshown, _, hrecord, rfl, rfl⟩
    · rw [hframe]
      rfl
    · rw [hframe]
      rfl

end
